-- ==== Sys2Proof/Word.lean ====
section
/-! DEFINITION. The bit vectors the manual treats as bits, and the little-endian byte order of R17.
A register is a 32-bit word, a memory cell is a byte. -/

namespace Sys2Proof

/-- A byte, the smallest addressable unit of the 32-bit address space. -/
abbrev Byte := BitVec 8

/-- A 32-bit word: a register, a sample, a memory word. -/
abbrev Word := BitVec 32

/-- A 64-bit render instruction word, or a 64-bit index. -/
abbrev Word64 := BitVec 64

/-- The `n` low bytes of a number, least significant first (R17: little-endian throughout). -/
def leBytes : Nat → Nat → List Byte
  | 0, _ => []
  | n + 1, v => BitVec.ofNat 8 v :: leBytes n (v / 256)

/-- The number that a list of bytes spells, least significant first. -/
def leNat : List Byte → Nat
  | [] => 0
  | b :: bs => b.toNat + 256 * leNat bs

/-- The number that a list of bytes spells, most significant first. -/
def beNat (bs : List Byte) : Nat := leNat bs.reverse

/-- The `n` bytes of a number, most significant first. -/
def beBytes (n v : Nat) : List Byte := (leBytes n v).reverse

/-- The signed value of the low `w` bits of `v`. -/
def sext (w v : Nat) : Int := (BitVec.ofNat w v).toInt

/-- The `w`-bit two's-complement number of an integer. -/
def wrapN (w : Nat) (i : Int) : Nat := (BitVec.ofInt w i).toNat

/-- One bit of a number. -/
def bitOf (v i : Nat) : Bool := v.testBit i

/-- A Boolean as the number 0 or 1. -/
def b2n (b : Bool) : Nat := if b then 1 else 0

end Sys2Proof
end

