-- ==== Sys2Proof/Syntax.lean ====
section
/-! DEFINITION. The commands of the DZ8617, one constructor for each row of the table of operations and events.
An operand of a command is what the outside decides: which unit, which value, what a pin, a sensor, a far end, a
flash device or a host presents.  A sender puts commands into the queue of the state; nothing else acts. -/

namespace Sys2Proof

/-- The time that has passed since the command before: counted in time-unit ticks (R321, R322), in slow-clock periods
(R254) and in milliseconds of S0 time, each as the clocks outside made them. -/
structure Elapsed where
  /-- Time-unit ticks: 125 MHz cycles, or slow-clock periods while the time unit runs on the slow clock. -/
  ticks : Nat
  /-- Periods of the slow clock. -/
  slow : Nat
  /-- Output cycles of ACS0 and ACS1 (R261), which the MCLK outputs divide (R274), and their detector periods (R263). -/
  acs0 : Nat := 0
  acs1 : Nat := 0
  det0 : Nat := 0
  det1 : Nat := 0
  /-- Periods of the system reference, at which the modulator of the SYS MDLL runs (R255). -/
  detSys : Nat := 0
  deriving DecidableEq, Repr

/-- The header of a render instruction (R106): guard number, guard sense and the U bit. -/
structure Hdr where
  g : BitVec 3
  gs : Bool
  u : Bool
  deriving DecidableEq, Repr

/-- The 26-bit memory operand (R109), in the fields of its encoding; `imm` also holds AN, MM and PM. -/
structure Mop where
  space : BitVec 3
  reg : Bool
  dl : BitVec 6
  imm : BitVec 16
  deriving DecidableEq, Repr

/-- The 16-bit coefficient operand (R112), in the fields of its encoding. -/
structure Cop where
  cf : BitVec 2
  c : BitVec 14
  deriving DecidableEq, Repr

/-- The operand fields of TAP and TAPM (R108, format TF): the delay is K, or AN with an optional post-modification. -/
structure TapOp where
  dl : BitVec 6
  reg : Bool
  /-- Bits [44:28]: K when REG is 0; AN, MM and PM in its upper bits when REG is 1. -/
  k : BitVec 17
  cop : Cop
  qa : BitVec 3
  s : Bool
  neg : Bool
  z : Bool
  dld : BitVec 6
  deriving DecidableEq, Repr

/-- The operand fields of the multiply-accumulate format MF (R108). -/
structure MacOp where
  mop : Mop
  cop : Cop
  qa : BitVec 3
  s : Bool
  neg : Bool
  z : Bool
  deriving DecidableEq, Repr

/-- The operand fields of the data format AF (R108). -/
structure AluOp where
  dd : BitVec 4
  da : BitVec 4
  db : BitVec 4
  i : Bool
  imm : Word
  deriving DecidableEq, Repr

/-- Who makes an access on the crossbar (chapter Architecture, section Interconnect). -/
inductive Initiator where
  | cc0 | cc1 | dma | stg | nsw | se | iec
  deriving DecidableEq, Repr

/-- What ECC finds in the control-SRAM word of an access (R25): the outside decides it. -/
inductive EccSeen where
  | clean | single | double
  deriving DecidableEq, Repr

/-- A memory access by one initiator: its width in bytes, its address and, for a write, its data. -/
structure Access where
  who : Initiator
  write : Bool
  width : Nat
  addr : Word
  data : Word
  ecc : EccSeen
  deriving DecidableEq, Repr

/-- What a data pin of a port in master mode presents in the frame that ends at a tick: the levels that the port samples,
bit 0 of the frame first (R278). -/
structure PinIn where
  port : Nat
  pin : Nat
  bits : List Bool
  deriving DecidableEq, Repr

/-- What one PDM channel presents over the sample period that ends: the ones among its bits (R294). -/
structure PdmIn where
  port : Nat
  chan : Nat
  ones : Nat
  deriving DecidableEq, Repr

/-- What the outside presents at a sample tick: input slots of the master ports, PDM bits, the time of the tick within
the anchor's measure, and LDS work that hardware failed to finish in time (R147). -/
structure TickIn where
  el : Elapsed
  asp : List PinIn
  pdm : List PdmIn
  /-- Gather entries of each engine, as (engine, entry), whose prefetch has not completed (R147). -/
  lateFetch : List (Nat × Nat)
  deriving DecidableEq, Repr

/-- A BCP request as it stands in a mailbox (R373): who sent it, its header without the opcode, and its payload. -/
structure Req where
  mbx : Fin 64
  peerAddr : Word
  peerPort : BitVec 16
  version : Byte
  flags : BitVec 16
  session : BitVec 16
  seq : BitVec 16
  length : Word
  epoch : Word
  payload : List Byte
  deriving DecidableEq, Repr

/-- What an HSP frame brings from the host (R358 to R363): the command word's fields; how far the host clocked the out phase; the
levels of IO0 to IO3 at the rising SCK edges of the in phase, in order; and what firmware does at the FIFOs meanwhile. -/
structure HspFrame where
  dl : BitVec 2
  ch : BitVec 2
  rsv : Byte
  len : BitVec 16
  /-- CS_N rose during the command word (R363). -/
  cutCmd : Bool
  /-- Out words clocked whole, and the bits of one that CS_N cut short. -/
  outWords : Nat
  outCut : Nat
  /-- The lanes as sampled in the in phase; with one lane the data stands on IO0. -/
  inp : List (BitVec 4)
  /-- Reply words that reach the transmit FIFO while the out phase runs, each before it is due (R362). -/
  refill : List Word
  /-- Message words that firmware takes from the receive FIFO while the frame runs. -/
  taken : Nat
  deriving DecidableEq, Repr

/-- What the line of a UART does from a start edge on (R400): the kernel cycles after that edge at which its level changes, in
rising order, the line being low from cycle 0; and how long it had been high before the edge.  In slow mode both count slow
periods (R412). -/
structure UartChar where
  edges : List Nat
  highFor : Nat
  deriving DecidableEq, Repr

/-- What the flash device does with a transfer: it drives bytes on a read, and changes its content on a program or an
erase (the device's own behaviour, outside the DZ8617). -/
structure FlashDev where
  /-- The levels of IO0 to IO7 that XMP captures in the data phase: one for each clock period, or half period with DDR (R429); in
  a transfer with ECC, for the 512 data bytes of each sector and then its 13 parity bytes. -/
  rx : List Byte
  /-- Start and bytes of a program operation that the device accepts: bits only fall. -/
  progAt : Option Nat
  /-- Start and length of an erase that the device accepts. -/
  eraseAt : Option (Nat × Nat)
  deriving DecidableEq, Repr

/-- How an I2C transfer goes on the bus (R421, R422): the target's acknowledgements and data; without a transfer, how the bus
stands. -/
structure I2cBus where
  /-- Address bytes acknowledged before the first refusal. -/
  addrAcks : Nat
  /-- Data bytes acknowledged before the first refusal. -/
  acked : Nat
  rx : List Byte
  /-- SDA reads low while the controller releases it, after these bytes. -/
  arbLost : Bool
  /-- Another controller holds the bus then. -/
  busy : Bool
  deriving DecidableEq, Repr

/-- What a slave port samples at the BCLK rising edges from a bit on (R283), until after the bit that begins the next frame:
the levels of FSYNC; the levels of the two data pins, with the bits that the frame's slots have in the frame that follows
(R278); the measured period of the frame, and the times from the latest tick and from its first bit to its last data bit,
all three in 2 ns units; and the ratios, as (group, ratio), to which the ASRC groups that track the port have moved
(R306). -/
structure SlaveIn where
  el : Elapsed
  fsync : List Bool
  period : Nat
  phi : Nat
  age : Nat
  d0 : List Bool
  d1 : List Bool
  ratios : List (Nat × Word)
  deriving DecidableEq, Repr

/-- An IEC 60958 frame on the receiver's pin (R298): the levels of its 128 biphase cells, the frame rate, and the ratios, as
(group, ratio), to which the ASRC groups that track it have moved (R306). -/
structure IecIn where
  el : Elapsed
  cells : List Bool
  rateHz : Nat
  ratios : List (Nat × Word)
  deriving DecidableEq, Repr

/-- A way of reading or programming a flash (R429, R433): the lanes of command, address and data, DDR, and the highest clock
in MHz. -/
structure XMode where
  cmd : Nat
  addr : Nat
  data : Nat
  ddr : Bool
  mhz : Nat
  deriving DecidableEq, Repr

/-- The mode in which firmware and the ROM first read: 1-1-1 SDR at 25 MHz (R433). -/
def XMode.first : XMode := ⟨1, 1, 1, false, 25⟩

/-- What the flash on XMP_CS0_N tells by its SFDP tables (R433): a valid signature; NAND, or NOR; its size in bytes; page,
spare bytes and pages per block of a NAND; an erase type of 4 KiB; endurance in cycles; program and erase suspend;
correction in bits per 512 bytes; partial programs per page; and its read and program modes. -/
structure FlashPart where
  sfdp : Bool
  nand : Bool
  size : Nat
  page : Nat
  spare : Nat
  perBlock : Nat
  erase4k : Bool
  endurance : Nat
  suspend : Bool
  corr : Nat
  partials : Nat
  reads : List XMode
  progs : List XMode
  deriving DecidableEq, Repr

/-- A serial NOR flash of 64 MiB that meets R433 (log 22). -/
def FlashPart.nor64 : FlashPart :=
  ⟨true, false, 0x4000000, 256, 0, 256, true, 100000, true, 0, 1, [XMode.first], [XMode.first]⟩

/-- Which of the two recovered images or slots the ROM's flash reads fail on (R458): uncorrectable sectors or timeouts
that the flash shows at a start, and whether WAKE is active at step 6 (R454). -/
structure BootIn where
  failA : Bool
  failB : Bool
  sysLocks : Bool
  wake : Bool
  /-- Which reference released the reset (R253): false crystal, true REFIN. -/
  refin : Bool
  /-- Engines whose start BIST passes (R223). -/
  bistPass : BitVec 17
  /-- Fuse bits that refuse to blow, even when retried three times (R461). -/
  stuckFuse : Bool
  /-- Queued epochs, counted from the head, whose record fails its CRC after a CC0 watchdog reset (R186). -/
  badRecords : List Nat
  /-- The flash on XMP_CS0_N, as firmware discovers it (R433). -/
  part : FlashPart
  deriving DecidableEq, Repr

/-- A CACHE or memory address of a control-core instruction (R481, format M). -/
structure MemOp where
  rd : BitVec 5
  ra : BitVec 5
  mode : BitVec 2
  size : BitVec 2
  disp : BitVec 12
  deriving DecidableEq, Repr

/-- Format R operands of a control core (R477). -/
structure RegOp where
  rd : BitVec 5
  ra : BitVec 5
  rb : BitVec 5
  deriving DecidableEq, Repr

/-- Format I operands of a control core (R477). -/
structure ImmOp where
  rd : BitVec 5
  ra : BitVec 5
  imm : BitVec 16
  deriving DecidableEq, Repr

/-- Format B operands of a control core (R479). -/
structure BrOp where
  ra : BitVec 5
  rb : BitVec 5
  cc : BitVec 3
  off : BitVec 13
  deriving DecidableEq, Repr

/-- A physical engine, 0 to 16. -/
abbrev Eng := Fin 17

/-- A rate domain, RD0 to RD3. -/
abbrev Dom := Fin 4

/-- A control core, CC0 or CC1. -/
abbrev Core := Fin 2

/-- The commands: one constructor for each row of opcode_table.json, in the table's order. -/
inductive Instr where
  /-- REGISTER_WRITE (R6): a 32-bit write to the register at an address, by an initiator; `meets` are the W1C bits
  that hardware sets in the cycle of the write (R7). -/
  | registerWrite (who : Initiator) (addr data meets : Word)
  /-- BUS_ACCESS (R19): an access, and those that other initiators present in the same cycle (R21). -/
  | busAccess (a : Access) (others : List Access)
  /-- ENGINE_WINDOW_WRITE (R28). -/
  | engineWindowWrite (who : Initiator) (e : Eng) (off : BitVec 20) (width : Nat) (data : Word)
  /-- ENGINE_WINDOW_READ (R30), for an engine of any state; whether an engine in service is in its idle interval is read off the state (R30). -/
  | engineWindowRead (who : Initiator) (e : Eng) (off : BitVec 20) (width : Nat)
  /-- LDS_HOST_ACCESS (R27). -/
  | ldsHostAccess (who : Core) (write : Bool) (width : Nat) (addr data : Word)
  /-- SAMPLE_TICK (R34): the tick of an unlinked domain; its followers tick inside it (R39). -/
  | sampleTick (d : Dom) (i : TickIn)
  /-- DOMAIN_START (R69): a write of XCH_CTRL.START with this mask. -/
  | domainStart (mask : BitVec 4)
  /-- LONG_WRITE_DRAIN (R145). -/
  | longWriteDrain (e : Eng)
  /-- PASS_DONE (R93): the engine runs its pass to END, drains and delivers. -/
  | passDone (e : Eng)
  /-- NOP (R116). -/
  | rNop (e : Eng) (h : Hdr)
  /-- END (R93). -/
  | rEnd (e : Eng) (h : Hdr)
  /-- RPT (R115). -/
  | rRpt (e : Eng) (h : Hdr) (count : BitVec 16) (body : BitVec 13)
  /-- RPTC (R115). -/
  | rRptc (e : Eng) (h : Hdr) (cr : BitVec 2) (body : BitVec 13)
  /-- MAC (R117). -/
  | rMac (e : Eng) (h : Hdr) (o : MacOp)
  /-- MACD (R118). -/
  | rMacd (e : Eng) (h : Hdr) (o : MacOp)
  /-- MACW (R117). -/
  | rMacw (e : Eng) (h : Hdr) (o : MacOp)
  /-- MACQD (R117). -/
  | rMacqd (e : Eng) (h : Hdr) (o : MacOp)
  /-- MACQC (R117). -/
  | rMacqc (e : Eng) (h : Hdr) (o : MacOp)
  /-- TAP (R120). -/
  | rTap (e : Eng) (h : Hdr) (o : TapOp)
  /-- TAPM (R120). -/
  | rTapm (e : Eng) (h : Hdr) (o : TapOp)
  /-- FDR (R121). -/
  | rFdr (e : Eng) (h : Hdr) (dl : BitVec 6) (dd : BitVec 4) (kb : BitVec 16) (qa : BitVec 3) (neg z : Bool)
  /-- CLRQ (R123). -/
  | rClrq (e : Eng) (h : Hdr) (mask : Byte)
  /-- LDQ (R123). -/
  | rLdq (e : Eng) (h : Hdr) (qa : BitVec 3) (dn : BitVec 4) (neg acc : Bool)
  /-- ADDQ (R123). -/
  | rAddq (e : Eng) (h : Hdr) (qa qb : BitVec 3) (neg : Bool)
  /-- STQ (R124). -/
  | rStq (e : Eng) (h : Hdr) (qa : BitVec 3) (sh : BitVec 4) (mop : Mop)
  /-- LD (R125). -/
  | rLd (e : Eng) (h : Hdr) (dn : BitVec 4) (mop : Mop)
  /-- ST (R125). -/
  | rSt (e : Eng) (h : Hdr) (dn : BitVec 4) (mop : Mop)
  /-- LUTI (R122). -/
  | rLuti (e : Eng) (h : Hdr) (dd ds : BitVec 4) (base : BitVec 14) (log2n : BitVec 4) (sgn : Bool)
  /-- MOV (R126). -/
  | rMov (e : Eng) (h : Hdr) (o : AluOp)
  /-- ADD (R126). -/
  | rAdd (e : Eng) (h : Hdr) (o : AluOp)
  /-- ADDS (R126). -/
  | rAdds (e : Eng) (h : Hdr) (o : AluOp)
  /-- SUB (R126). -/
  | rSub (e : Eng) (h : Hdr) (o : AluOp)
  /-- SUBS (R126). -/
  | rSubs (e : Eng) (h : Hdr) (o : AluOp)
  /-- AND (R126). -/
  | rAnd (e : Eng) (h : Hdr) (o : AluOp)
  /-- OR (R126). -/
  | rOr (e : Eng) (h : Hdr) (o : AluOp)
  /-- XOR (R126). -/
  | rXor (e : Eng) (h : Hdr) (o : AluOp)
  /-- SHL (R126). -/
  | rShl (e : Eng) (h : Hdr) (o : AluOp)
  /-- SHR (R126). -/
  | rShr (e : Eng) (h : Hdr) (o : AluOp)
  /-- ASR (R126). -/
  | rAsr (e : Eng) (h : Hdr) (o : AluOp)
  /-- MIN (R126). -/
  | rMin (e : Eng) (h : Hdr) (o : AluOp)
  /-- MAX (R126). -/
  | rMax (e : Eng) (h : Hdr) (o : AluOp)
  /-- ABS (R126). -/
  | rAbs (e : Eng) (h : Hdr) (o : AluOp)
  /-- MOVS (R127). -/
  | rMovs (e : Eng) (h : Hdr) (dd db sel : BitVec 4)
  /-- MOVA (R128). -/
  | rMova (e : Eng) (h : Hdr) (an : BitVec 4) (imm : BitVec 20)
  /-- ADDA (R128). -/
  | rAdda (e : Eng) (h : Hdr) (an : BitVec 4) (mm : BitVec 3) (rm : Bool) (imm : BitVec 20)
  /-- MOVM (R128). -/
  | rMovm (e : Eng) (h : Hdr) (mm : BitVec 3) (imm : BitVec 20)
  /-- MOVAD (R128). -/
  | rMovad (e : Eng) (h : Hdr) (an dn : BitVec 4)
  /-- MOVMD (R128). -/
  | rMovmd (e : Eng) (h : Hdr) (mm : BitVec 3) (dn : BitVec 4)
  /-- CMP (R129). -/
  | rCmp (e : Eng) (h : Hdr) (pd cc : BitVec 3) (da db : BitVec 4) (i sr : Bool) (imm : Word)
  /-- PLOG (R130). -/
  | rPlog (e : Eng) (h : Hdr) (pd pa pb : BitVec 3) (lop : BitVec 2)
  /-- PSET (R130). -/
  | rPset (e : Eng) (h : Hdr) (pd : BitVec 3) (val : Bool)
  /-- UNASSIGNED_RENDER_OPCODE (R113): the whole word. -/
  | unassignedRenderOpcode (e : Eng) (w : Word64)
  /-- ENG_SWAP (R101). -/
  | engSwap (e : Eng)
  /-- ENG_CLEAR (R105). -/
  | engClear (e : Eng)
  /-- CLEAR_DONE (R105). -/
  | clearDone (e : Eng)
  /-- BIST_GO (R104). -/
  | bistGo (e : Eng)
  /-- BIST_DONE (R104): the fault map that the tests find. -/
  | bistDone (e : Eng) (failmap : BitVec 13)
  /-- TEST_PASS (R103). -/
  | testPass (e : Eng) (ttier : BitVec 2)
  /-- TEST_PASS_LIMIT (R103). -/
  | testPassLimit (e : Eng)
  /-- HALF_REQUEST (R139): half B when true. -/
  | halfRequest (b : Bool)
  /-- HALF_CLEAR_DONE (R139). -/
  | halfClearDone (b : Bool)
  /-- SCRUB (R152): one round over every powered engine memory and every READY half. -/
  | scrub
  /-- EPOCH_WRITE (R177): steps 2 and 3 for the epoch at the head of the queue; `goldenBad` when a double-bit error is
  met in a golden copy (R186). -/
  | epochWrite (goldenBad : Option (Fin 16))
  /-- ARM (R57). -/
  | arm
  /-- UNIT_ACK (R59): the unit, in the bit numbering of STG_NACKMAP. -/
  | unitAck (unit : BitVec 5)
  /-- RECONCILE_DONE (R177): steps 7 and 8; `goldenBad` when a double-bit error is met in a golden copy (R186). -/
  | reconcileDone (goldenBad : Option (Fin 16))
  /-- STG_METDATA_READ (R187). -/
  | stgMetdataRead (who : Initiator)
  /-- SAMPLE_INDEX_READ (R68). -/
  | sampleIndexRead (who : Initiator) (d : Dom)
  /-- BOUNDARY_TIME_READ (R68). -/
  | boundaryTimeRead (who : Initiator) (d : Dom)
  /-- SAMPLE_COUNTER_READ (R102). -/
  | sampleCounterRead (who : Initiator) (e : Eng)
  /-- PASSMAX_READ (R6): `hwset` is a pass count that hardware records in the cycle of the read (R8). -/
  | passmaxRead (who : Initiator) (e : Eng) (hwset : Nat)
  /-- LDS_PEAK_READ (R6). -/
  | ldsPeakRead (who : Initiator) (d : Dom) (hwset : Nat)
  /-- WINDOW_END (R194): the activity counts of the 23 islands and the window's length in ns. -/
  | windowEnd (el : Elapsed) (acts : List Nat) (lengthNs : Nat)
  /-- TSU_SAMPLE (R197): the 24 readings, in 0.25 °C. -/
  | tsuSample (el : Elapsed) (t : List Int)
  /-- TRIP_SHUTDOWN (R199): 35 ms have passed since the trip, or not. -/
  | tripShutdown (timeout : Bool)
  /-- SHADOW_FORCE (R202). -/
  | shadowForce (le : Fin 16)
  /-- AVS_SETTLED (R205). -/
  | avsSettled
  /-- PMU_EVAL (R213). -/
  | pmuEval
  /-- POWER_STATE_ENTRY (R213): `wake` is a wake that arrives while the entry is in progress: the source bit, and the deepest
  state that the entry had then reached (R214). -/
  | powerStateEntry (wake : Option (Nat × Nat))
  /-- WAKE_PIN (R216). -/
  | wakePin
  /-- WAKE_TIMER (R215). -/
  | wakeTimer (el : Elapsed)
  /-- GPIO_WAKE (R426): pin, edge seen, slow periods it held. -/
  | gpioWake (pin : BitVec 3) (rise : Bool) (held : Nat)
  /-- UART0_START_WAKE (R411). -/
  | uart0StartWake
  /-- UART_ADDRESS_WAKE (R412): UART2 when true; the character. -/
  | uartAddressWake (two : Bool) (c : UartChar)
  /-- HSP_WAKE (R365). -/
  | hspWake
  /-- NETFRAME_WAKE (R345). -/
  | netframeWake (frame : List Byte)
  /-- CLONE_START (R226): a write of SCU_SEL.GO. -/
  | cloneStart (punty : BitVec 5) (le : Fin 16)
  /-- CLONE_LOAD_DONE (R226). -/
  | cloneLoadDone
  /-- CLONE_COPY_DONE (R226). -/
  | cloneCopyDone
  /-- COMPARE_WINDOW_DONE (R224). -/
  | compareWindowDone
  /-- SHADOW_ABORT (R225). -/
  | shadowAbort
  /-- HANDOVER_REQUEST (R251): a write of SCU_HOREQ.GO. -/
  | handoverRequest (cold : Bool) (incoming outgoing : BitVec 5) (le : Fin 16)
  /-- COLD_LOAD_DONE (R239). -/
  | coldLoadDone
  /-- AGE_MEASURE (R245). -/
  | ageMeasure
  /-- AGE_MEASURE_DONE (R246): the ring counts of the 23 islands. -/
  | ageMeasureDone (cnt : List Nat)
  /-- AGE_FMAX_WRITE (R252). -/
  | ageFmaxWrite (e : Eng) (n : Word)
  /-- SYSUPD (R257): an edge of the reference that is then selected arrives. -/
  | sysupd (edge : Bool)
  /-- LOOP_LOCK (R256): 0 SYS, 1 LDS, 2 CC0, 3 CC1. -/
  | loopLock (l : BitVec 2)
  /-- ENGINE_CLOCK_SET (R260). -/
  | engineClockSet (e : Eng) (n : Word)
  /-- ENGINE_CLOCK_LOCK (R260). -/
  | engineClockLock (e : Eng)
  /-- ACS_UPDATE (R264): ACS1 when true. -/
  | acsUpdate (a : Bool)
  /-- ACS_LOCK (R37). -/
  | acsLock (a : Bool)
  /-- ACS_RELOCK (R273). -/
  | acsRelock (a : Bool)
  /-- ACS_CLRQ (R267). -/
  | acsClrq (a : Bool)
  /-- PHASE_STEP_ADD (R267). -/
  | phaseStepAdd (a : Bool) (add : BitVec 13)
  /-- PHASE_STEP_ISSUE (R267). -/
  | phaseStepIssue (a : Bool)
  /-- ACS_COAST (R272). -/
  | acsCoast (a : Bool)
  /-- FREQUENCY_CHECK (R271): reference edges counted and expected over the interval. -/
  | frequencyCheck (a : Bool) (count expected : Nat)
  /-- REFERENCE_RETURN (R273). -/
  | referenceReturn (a : Bool)
  /-- SYSTEM_REFERENCE_LOST (R275). -/
  | systemReferenceLost
  /-- MDLL_UNLOCK (R275): 0 SYS, 1 LDS, 2 CC0, 3 CC1; `ms` is set when the unlock has lasted 1 ms. -/
  | mdllUnlock (l : BitVec 2) (ms : Bool)
  /-- ENGINE_MDLL_UNLOCK (R275). -/
  | engineMdllUnlock (e : Eng)
  /-- SLOW_CLOCK_LOSS (R254). -/
  | slowClockLoss
  /-- ACS_LIVE_READ (R276). -/
  | acsLiveRead (who : Initiator) (a : Bool)
  /-- ASP_START (R287): firmware sets CTRL.EN of a stopped port by a direct write. -/
  | aspStart (p : Fin 8)
  /-- ASP_STOP (R288): `ended` says that the frame in progress has ended. -/
  | aspStop (p : Fin 8) (ended : Bool)
  /-- ASP_TRIG_GO (R287). -/
  | aspTrigGo (dom : Dom) (bnd iectx : Bool) (pdm : BitVec 4) (asp : Byte)
  /-- SLAVE_FRAME (R283). -/
  | slaveFrame (p : Fin 8) (i : SlaveIn)
  /-- CLOCK_LOST (R289). -/
  | clockLost (p : Fin 8)
  /-- SLOTMASK_READ (R309). -/
  | slotmaskRead (who : Initiator) (p : Fin 8)
  /-- PDM_STUCK (R297). -/
  | pdmStuck (p : Dom) (ch : Bool)
  /-- IEC_RX_FRAME (R298). -/
  | iecRxFrame (i : IecIn)
  /-- IEC_LOCK_LOSS (R299). -/
  | iecLockLoss
  /-- IEC_STATUS_READ (R310). -/
  | iecStatusRead (who : Initiator)
  /-- IEC_CS_UPDATE (R304). -/
  | iecCsUpdate
  /-- SRC_ACQUIRED (R307): the tracked ratio in Q8.24. -/
  | srcAcquired (g : Fin 8) (ratio : Word)
  /-- SRC_RAMP_DONE (R307). -/
  | srcRampDone (g : Fin 8)
  /-- FRAME_RECEIVE (R312): a frame without its FCS at port A, or B when true, whether its FCS is correct, and what
  firmware measures with it of its offset from its time source. -/
  | frameReceive (el : Elapsed) (port : Bool) (frame : List Byte) (fcsOk : Bool) (offset : Option Int)
  /-- EGRESS_TRANSMIT (R317): port B when true. -/
  | egressTransmit (el : Elapsed) (port : Bool)
  /-- INTERNAL_PORT_TRANSMIT (R320). -/
  | internalPortTransmit (el : Elapsed)
  /-- MAC_AGEING (R314): whole seconds that have passed. -/
  | macAgeing (seconds : Nat)
  /-- MT_READ (R345). -/
  | mtRead
  /-- MT_WRITE_STATIC (R345). -/
  | mtWriteStatic
  /-- MT_DELETE (R345). -/
  | mtDelete
  /-- MT_FLUSH (R345). -/
  | mtFlush
  /-- MDIO_C22_WRITE (R345). -/
  | mdioC22Write
  /-- MDIO_C22_READ (R345): the data the PHY drives. -/
  | mdioC22Read (phy : BitVec 16)
  /-- MDIO_C45_ADDRESS (R345). -/
  | mdioC45Address
  /-- MDIO_C45_WRITE (R345). -/
  | mdioC45Write
  /-- MDIO_C45_READ (R345). -/
  | mdioC45Read (phy : BitVec 16)
  /-- TSF_INFO_READ (R345). -/
  | tsfInfoRead (who : Initiator)
  /-- DROPS_READ (R6): `hwset` drops that hardware counts in the cycle of the read (R8). -/
  | dropsRead (who : Initiator) (port : Bool) (hwset : Nat)
  /-- LINK_DOWN (R343): `led` when the port led to the grandmaster. -/
  | linkDown (port led : Bool)
  /-- LINK_UP (R342): the PHY's speed, how far the rejoining order has come (steps 1 to 5), the link delay measured and
  the TU's offset to the chosen source in ns. -/
  | linkUp (port : Bool) (speed : BitVec 2) (half : Bool) (step : Nat) (ldelay : BitVec 24) (offset : Int)
  /-- TIME_SOURCE_LOSS (R328). -/
  | timeSourceLoss
  /-- TU_SET (R323). -/
  | tuSet
  /-- TU_STEP (R323). -/
  | tuStep
  /-- TU_SOURCE_SWITCH (R322): to the slow clock when true. -/
  | tuSourceSwitch (slow : Bool)
  /-- TU_NS_READ (R324). -/
  | tuNsRead (who : Initiator)
  /-- TU_LNSL_READ (R324). -/
  | tuLnslRead (who : Initiator)
  /-- TU_LNSL_WRITE (R325). -/
  | tuLnslWrite (data : Word)
  /-- TPULSE_ARM (R329). -/
  | tpulseArm (k : Bool)
  /-- TPULSE_DISARM (R329). -/
  | tpulseDisarm (k : Bool)
  /-- TPULSE_EDGE (R329). -/
  | tpulseEdge (k : Bool) (el : Elapsed)
  /-- TCAP_EDGE (R330): the edge, and ns since the edge before. -/
  | tcapEdge (el : Elapsed) (rise : Bool) (sinceNs : Nat)
  /-- TCAP_READ (R344). -/
  | tcapRead (who : Initiator)
  /-- TRIG_ARM (R333). -/
  | trigArm
  /-- TRIG_DISARM (R333). -/
  | trigDisarm
  /-- TRIG_FIRE (R333). -/
  | trigFire (el : Elapsed)
  /-- DOORBELL_WRITE (R357): the response doorbell when true. -/
  | doorbellWrite (who : Initiator) (rsp : Bool) (m : Fin 64) (ackMeets : Bool)
  /-- SESSION_IDLE_TIMEOUT (R353). -/
  | sessionIdleTimeout (m : Fin 64)
  /-- HSP_MSG (R359). -/
  | hspMsg (f : HspFrame)
  /-- HSP_READ (R359). -/
  | hspRead (f : HspFrame)
  /-- HSP_STATUS (R359): `op` is the command's OP, 3 or a reserved one. -/
  | hspStatus (op : BitVec 4) (f : HspFrame)
  /-- HSP_RXDATA_READ (R372). -/
  | hspRxdataRead (who : Initiator)
  /-- HSP_TXDATA_WRITE (R372). -/
  | hspTxdataWrite (data : Word)
  /-- HSP_RSPLEN_WRITE (R372). -/
  | hspRsplenWrite (c : Dom) (data : Word)
  /-- OPEN (R349). -/
  | bcpOpen (rq : Req)
  /-- CLOSE (R380). -/
  | bcpClose (rq : Req)
  /-- PING (R380). -/
  | bcpPing (rq : Req)
  /-- GET (R380). -/
  | bcpGet (rq : Req)
  /-- STAGE (R380). -/
  | bcpStage (rq : Req)
  /-- UNSTAGE (R380). -/
  | bcpUnstage (rq : Req)
  /-- DISCARD (R380). -/
  | bcpDiscard (rq : Req)
  /-- COMMIT (R381). -/
  | bcpCommit (rq : Req)
  /-- LIST (R380). -/
  | bcpList (rq : Req)
  /-- DESCRIBE (R382). -/
  | bcpDescribe (rq : Req)
  /-- IMGBEGIN (R384). -/
  | bcpImgbegin (rq : Req)
  /-- IMGDATA (R384). -/
  | bcpImgdata (rq : Req)
  /-- IMGEND (R384). -/
  | bcpImgend (rq : Req)
  /-- IMGREAD (R386). -/
  | bcpImgread (rq : Req)
  /-- TBLGET (R386). -/
  | bcpTblget (rq : Req)
  /-- TBLSTAGE (R386). -/
  | bcpTblstage (rq : Req)
  /-- METERS (R387). -/
  | bcpMeters (rq : Req)
  /-- SUBSCRIBE (R392). -/
  | bcpSubscribe (rq : Req)
  /-- EVSTAT (R387). -/
  | bcpEvstat (rq : Req)
  /-- POWERSTAT (R387). -/
  | bcpPowerstat (rq : Req)
  /-- LEHRSTAT (R387). -/
  | bcpLehrstat (rq : Req)
  /-- ENGMAP (R249). -/
  | bcpEngmap (rq : Req)
  /-- RELEASE (R223). -/
  | bcpRelease (rq : Req)
  /-- RETIRE (R387). -/
  | bcpRetire (rq : Req)
  /-- LOGREAD (R387). -/
  | bcpLogread (rq : Req)
  /-- JSYNC (R448). -/
  | bcpJsync (rq : Req)
  /-- JCLEAR (R387). -/
  | bcpJclear (rq : Req)
  /-- FWBEGIN (R395). -/
  | bcpFwbegin (rq : Req)
  /-- FW_ERASE_DONE (R395): whether the erase succeeded. -/
  | fwEraseDone (ok : Bool)
  /-- FWDATA (R396): whether the flash programs the chunk. -/
  | bcpFwdata (rq : Req) (flashOk : Bool)
  /-- FWEND (R396). -/
  | bcpFwend (rq : Req)
  /-- FW_VERIFY_DONE (R396): whether the flash reads and writes succeed. -/
  | fwVerifyDone (flashOk : Bool)
  /-- FWSTAT (R395). -/
  | bcpFwstat (rq : Req)
  /-- RESET (R397). -/
  | bcpReset (rq : Req)
  /-- RESET_DELAY_EXPIRY (R397). -/
  | resetDelayExpiry
  /-- UART_RX_CHARACTER (R401). -/
  | uartRxCharacter (u : Fin 3) (c : UartChar)
  /-- AUTOBAUD_TIMEOUT (R406). -/
  | autobaudTimeout (u : Fin 3)
  /-- UART_TX_CHARACTER (R399): what the receiver's line does from its start edge on (R410). -/
  | uartTxCharacter (u : Fin 3) (back : UartChar)
  /-- DE_HOLD_EXPIRY (R409). -/
  | deHoldExpiry (u : Fin 3)
  /-- UART_TXDATA_WRITE (R405). -/
  | uartTxdataWrite (u : Fin 3) (data : Word)
  /-- UART_RXDATA_READ (R405). -/
  | uartRxdataRead (who : Initiator) (u : Fin 3)
  /-- UART_BAUD_WRITE (R402). -/
  | uartBaudWrite (u : Fin 3) (data : Word)
  /-- UART_RXFLUSH (R414). -/
  | uartRxflush (u : Fin 3)
  /-- UART_TXFLUSH (R414). -/
  | uartTxflush (u : Fin 3)
  /-- UART_TXBRK (R403): set or clear CTRL.TXBRK. -/
  | uartTxbrk (u : Fin 3) (on : Bool)
  /-- UART_DISABLE (R414). -/
  | uartDisable (u : Fin 3)
  /-- PSC_COMMAND_WRITE (R416). -/
  | pscCommandWrite (data : Word)
  /-- PSC_TRANSFER (R418): the levels of IO0 to IO3 that are sampled in each SCK period of a receiving command (R416). -/
  | pscTransfer (inp : List (BitVec 4))
  /-- PSC_ABORT (R418): the levels of IO0 to IO3 sampled for a receive unit that has started. -/
  | pscAbort (inp : List (BitVec 4))
  /-- PSC_TXDATA_WRITE (R419). -/
  | pscTxdataWrite (data : Word)
  /-- PSC_RXDATA_READ (R419). -/
  | pscRxdataRead (who : Initiator)
  /-- I2C_XFER_GO (R421). -/
  | i2cXferGo (data : Word)
  /-- I2C_TIMEOUT (R422). -/
  | i2cTimeout
  /-- I2C_CLEAR (R423): the pulse after which SDA reads high, 1 to 9, or 0 when it stays low. -/
  | i2cClear (pulse : Nat)
  /-- I2C_DATA_WRITE (R424). -/
  | i2cDataWrite (data : Word)
  /-- I2C_DATA_READ (R424). -/
  | i2cDataRead (who : Initiator)
  /-- GPIO_EDGE (R425): a pin has changed to high, or to low, and has held that level for so many ns and slow-clock periods; ns
  since the pin's event before. -/
  | gpioEdge (pin : BitVec 3) (rise : Bool) (heldNs heldSlow sinceNs : Nat)
  /-- GPIO_SET (R427). -/
  | gpioSet (data : Word)
  /-- GPIO_CLR (R427). -/
  | gpioClr (data : Word)
  /-- XMP_TRANSFER (R431). -/
  | xmpTransfer (data : Word) (dev : FlashDev)
  /-- XMP_POLL_DONE (R431): the status byte that a poll reads, and whether the program or erase has failed by it (R437). -/
  | xmpPollDone (status : Byte) (failed : Bool)
  /-- XMP_POLL_TIMEOUT (R431). -/
  | xmpPollTimeout
  /-- XMP_ABORT (R432). -/
  | xmpAbort
  /-- XMP_ECCCNT_READ (R453): corrections counted in the cycle of the read (R8). -/
  | xmpEcccntRead (who : Initiator) (hwCorr hwUncorr hwMaxsec : Nat)
  /-- XIP_ENABLE (R441). -/
  | xipEnable
  /-- XIP_LOCK (R441). -/
  | xipLock
  /-- XIP_READ (R444). -/
  | xipRead (who : Initiator) (off : BitVec 28) (width : Nat)
  /-- XIP_CACHE_INVALIDATE (R444). -/
  | xipCacheInvalidate
  /-- JOURNAL_FRAME_WRITE (R448). -/
  | journalFrameWrite
  /-- JOURNAL_STAMP (R447). -/
  | journalStamp
  /-- JOURNAL_WRITE_DONE (R448): whether the flash took the frame and its stamp. -/
  | journalWriteDone (ok : Bool)
  /-- RETENTION_SCAN (R450): powered-on hours, and for each region of R440 its largest MAXSEC, and
  whether its content fails its check while a good copy exists. -/
  | retentionScan (hours : Nat) (found : List (Nat × Bool))
  /-- DEVICE_RESET (R454). -/
  | deviceReset (i : BootIn)
  /-- ROM_STATUS (R467): the words after the first. -/
  | romStatus (ch : BitVec 2) (words : List Word)
  /-- ROM_BEGIN (R467). -/
  | romBegin (ch : BitVec 2) (words : List Word)
  /-- ROM_DATA (R467). -/
  | romData (ch : BitVec 2) (words : List Word)
  /-- ROM_END (R468). -/
  | romEnd (ch : BitVec 2) (words : List Word) (stuckFuse : Bool)
  /-- RECOVERY_WINDOW_CLOSE (R469): the CS_N level, and that no frame came for 1 s. -/
  | recoveryWindowClose (csHigh idle1s : Bool)
  /-- FUSE_PROGRAM (R472): whether the bit reads back blown. -/
  | fuseProgram (data : Word) (blows : Bool)
  /-- KDF_GO (R466). -/
  | kdfGo (data : Word)
  /-- KDF_BOUND_SET (R466). -/
  | kdfBoundSet (data : Word)
  /-- KEY_CLEAR (R473). -/
  | keyClear
  /-- HASH_START (R473). -/
  | hashStart
  /-- HASH_DATA_WRITE (R473). -/
  | hashDataWrite (data : Word)
  /-- HASH_FINISH (R473). -/
  | hashFinish (last : BitVec 2)
  /-- VERIFY_GO (R473). -/
  | verifyGo
  /-- VERIFY_DONE (R473). -/
  | verifyDone
  /-- SUPPLY_MONITOR_FAIL (R521). -/
  | supplyMonitorFail
  /-- VDD_AON_LOSS (R521). -/
  | vddAonLoss
  /-- RST_N (R522): held for this many ns, and the level now (true: released). -/
  | rstN (lowNs : Nat) (released : Bool)
  /-- S5_EXIT_RETRY (R522): both monitors are valid within 50 ms, or not. -/
  | s5ExitRetry (valid : Bool)
  /-- CC_ADD (R478). -/
  | ccAdd (c : Core) (o : RegOp)
  /-- CC_SUB (R478). -/
  | ccSub (c : Core) (o : RegOp)
  /-- CC_AND (R477). -/
  | ccAnd (c : Core) (o : RegOp)
  /-- CC_OR (R477). -/
  | ccOr (c : Core) (o : RegOp)
  /-- CC_XOR (R477). -/
  | ccXor (c : Core) (o : RegOp)
  /-- CC_SHL (R477). -/
  | ccShl (c : Core) (o : RegOp)
  /-- CC_SHR (R477). -/
  | ccShr (c : Core) (o : RegOp)
  /-- CC_ASR (R477). -/
  | ccAsr (c : Core) (o : RegOp)
  /-- CC_SLT (R477). -/
  | ccSlt (c : Core) (o : RegOp)
  /-- CC_SLTU (R477). -/
  | ccSltu (c : Core) (o : RegOp)
  /-- CC_MUL (R478). -/
  | ccMul (c : Core) (o : RegOp)
  /-- CC_MULH (R478). -/
  | ccMulh (c : Core) (o : RegOp)
  /-- CC_MULHU (R478). -/
  | ccMulhu (c : Core) (o : RegOp)
  /-- CC_DIV (R478). -/
  | ccDiv (c : Core) (o : RegOp)
  /-- CC_DIVU (R478). -/
  | ccDivu (c : Core) (o : RegOp)
  /-- CC_REM (R478). -/
  | ccRem (c : Core) (o : RegOp)
  /-- CC_REMU (R478). -/
  | ccRemu (c : Core) (o : RegOp)
  /-- CC_ADDI (R477). -/
  | ccAddi (c : Core) (o : ImmOp)
  /-- CC_SLTI (R477). -/
  | ccSlti (c : Core) (o : ImmOp)
  /-- CC_ANDI (R477). -/
  | ccAndi (c : Core) (o : ImmOp)
  /-- CC_ORI (R477). -/
  | ccOri (c : Core) (o : ImmOp)
  /-- CC_XORI (R477). -/
  | ccXori (c : Core) (o : ImmOp)
  /-- CC_SHLI (R477). -/
  | ccShli (c : Core) (o : ImmOp)
  /-- CC_SHRI (R477). -/
  | ccShri (c : Core) (o : ImmOp)
  /-- CC_ASRI (R477). -/
  | ccAsri (c : Core) (o : ImmOp)
  /-- CC_LUI (R477). -/
  | ccLui (c : Core) (o : ImmOp)
  /-- CC_MFS (R500). -/
  | ccMfs (c : Core) (o : ImmOp)
  /-- CC_MTS (R500). -/
  | ccMts (c : Core) (o : ImmOp)
  /-- CC_TRAP (R487). -/
  | ccTrap (c : Core) (o : ImmOp)
  /-- CC_LD (R481). -/
  | ccLd (c : Core) (o : MemOp)
  /-- CC_LDU (R481). -/
  | ccLdu (c : Core) (o : MemOp)
  /-- CC_ST (R481). -/
  | ccSt (c : Core) (o : MemOp)
  /-- CC_CB (R479). -/
  | ccCb (c : Core) (o : BrOp)
  /-- CC_CBI (R479). -/
  | ccCbi (c : Core) (o : BrOp)
  /-- CC_J (R479). -/
  | ccJ (c : Core) (off : BitVec 26)
  /-- CC_CALL (R475). -/
  | ccCall (c : Core) (off : BitVec 26)
  /-- CC_CALLR (R475). -/
  | ccCallr (c : Core) (ra : BitVec 5)
  /-- CC_RET (R475). -/
  | ccRet (c : Core)
  /-- CC_ERET (R488). -/
  | ccEret (c : Core)
  /-- CC_WERET (R489). -/
  | ccWeret (c : Core)
  /-- CC_WAIT (R493). -/
  | ccWait (c : Core)
  /-- CC_SYNC (R499). -/
  | ccSync (c : Core)
  /-- CC_ISYNC (R499). -/
  | ccIsync (c : Core)
  /-- CC_WSPILL (R476). -/
  | ccWspill (c : Core) (ra : BitVec 5)
  /-- CC_WFILL (R476). -/
  | ccWfill (c : Core) (ra : BitVec 5)
  /-- CC_SMOV (R483): the element size code 0, 1 or 2 for 1, 2 or 4 bytes; an interrupt stops it after this many elements, if any. -/
  | ccSmov (c : Core) (e : BitVec 2) (stopAfter : Option Nat)
  /-- CC_SFILL (R483). -/
  | ccSfill (c : Core) (e : BitVec 2) (stopAfter : Option Nat)
  /-- CC_SCMP (R483). -/
  | ccScmp (c : Core) (e : BitVec 2) (stopAfter : Option Nat)
  /-- CC_SFIND (R483). -/
  | ccSfind (c : Core) (e : BitVec 2) (stopAfter : Option Nat)
  /-- CC_DCLEAN (R498). -/
  | ccDclean (c : Core) (o : MemOp)
  /-- CC_DINVAL (R498). -/
  | ccDinval (c : Core) (o : MemOp)
  /-- CC_DFLUSH (R498). -/
  | ccDflush (c : Core) (o : MemOp)
  /-- CC_DCLEAN_ALL (R498). -/
  | ccDcleanAll (c : Core) (o : MemOp)
  /-- CC_DFLUSH_ALL (R498). -/
  | ccDflushAll (c : Core) (o : MemOp)
  /-- CC_IINVAL (R498). -/
  | ccIinval (c : Core) (o : MemOp)
  /-- CC_IINVAL_ALL (R498). -/
  | ccIinvalAll (c : Core) (o : MemOp)
  /-- CC_ILLEGAL_INSTRUCTION (R477). -/
  | ccIllegalInstruction (c : Core) (w : Word)
  /-- IRQ_ENTRY (R491). -/
  | irqEntry (c : Core)
  /-- CYCLE_COUNTER_READ (R500). -/
  | cycleCounterRead (c : Core) (rd : BitVec 5)
  /-- ECCCNT_READ (R500): corrections counted in the cycle of the read (R8). -/
  | ecccntRead (c : Core) (rd : BitVec 5) (hwCorr hwUnc : Nat)
  /-- WDKICK_WRITE (R494). -/
  | wdkickWrite (c : Core) (data : Word)
  /-- WATCHDOG_WARN (R494). -/
  | watchdogWarn (c : Core)
  /-- WATCHDOG_EXPIRY (R494): CC0's watchdog, and what the start that follows finds. -/
  | watchdogExpiry (i : BootIn)
  /-- CC1_WATCHDOG_EXPIRY (R494): milliseconds of S0 time since the expiry before. -/
  | cc1WatchdogExpiry (sinceMs : Nat)
  /-- CC1_APP_RESTART (R503). -/
  | cc1AppRestart
  /-- MPU_REGION_LOCK (R496). -/
  | mpuRegionLock (c : Core) (n : BitVec 4)
  /-- DMA_GO (R513). -/
  | dmaGo (ch : BitVec 4)
  /-- DMA_STOP (R513). -/
  | dmaStop (ch : BitVec 4)
  /-- DMA_CLRHALT (R512). -/
  | dmaClrhalt
  /-- DMA_SWREQ_WRITE (R507). -/
  | dmaSwreqWrite (data : Word)
  /-- DMA_BURST (R507). -/
  | dmaBurst
  /-- WAKE_RELEASE (R216). -/
  | wakeRelease
  /-- SYSTEM_REFERENCE_RETURN (R275). -/
  | systemReferenceReturn
  /-- STOPPED_DOMAIN_FRAME (R282). -/
  | stoppedDomainFrame (p : Fin 8)
  /-- RATIO_OUT_OF_RANGE (R307). -/
  | ratioOutOfRange (g : Fin 8)
  /-- I2C_TRANSFER_END (R422). -/
  | i2cTransferEnd (b : I2cBus)
  /-- CHECK_OVERDUE (R242). -/
  | checkOverdue (le : Fin 16)
  /-- AON_POWER_ON (R520): which reference releases the reset. -/
  | aonPowerOn
  /-- RECEIVE_CLOCK_CHANGE (R345): port B when true; the clock present now. -/
  | receiveClockChange (port present : Bool)
  deriving DecidableEq, Repr

end Sys2Proof
end

