-- ==== Sys2Proof/Decode.lean ====
section
/-! DEFINITION. Words and commands.  No row of the table of operations and events gives bits, so no word spells a command
by the table (`decodeTableWord`).  The manual does give encodings of its own: the 64-bit render instruction words (R106 to
R112) and the 32-bit words of the control cores (R477, R479, R481), which the model's engines and cores decode here. -/

namespace Sys2Proof

/-- No row of the table gives bits: no word spells a command. -/
def decodeTableWord (_nbits _w : Nat) : Option Instr := none

/-! ## Render instruction words (R106 to R113) -/

/-- Bits from `lo` on, `n` of them. -/
abbrev bits {w : Nat} (x : BitVec w) (lo n : Nat) : BitVec n := x.extractLsb' lo n

/-- One bit as a Boolean, and a Boolean as one bit. -/
abbrev bit {w : Nat} (x : BitVec w) (i : Nat) : Bool := x.getLsbD i
abbrev toBit (b : Bool) : BitVec 1 := BitVec.ofBool b

/-- The header (R106). -/
def decodeHdr (w : Word64) : Hdr := ⟨bits w 61 3, bit w 60, bit w 59⟩

/-- The memory operand (R109) and the coefficient operand (R112). -/
def decodeMop (x : BitVec 26) : Mop := ⟨bits x 23 3, bit x 22, bits x 16 6, bits x 0 16⟩
def decodeCop (x : BitVec 16) : Cop := ⟨bits x 14 2, bits x 0 14⟩
def encodeMop (o : Mop) : BitVec 26 := o.space ++ toBit o.reg ++ o.dl ++ o.imm
def encodeCop (o : Cop) : BitVec 16 := o.cf ++ o.c

/-- The operand formats MF, TF and AF (R108). -/
def decodeMac (w : Word64) : MacOp :=
  ⟨decodeMop (bits w 26 26), decodeCop (bits w 10 16), bits w 7 3, bit w 6, bit w 5, bit w 4⟩
def decodeTap (w : Word64) : TapOp :=
  ⟨bits w 46 6, bit w 45, bits w 28 17, decodeCop (bits w 12 16), bits w 9 3, bit w 8, bit w 7, bit w 6, bits w 0 6⟩
def decodeAlu (w : Word64) : AluOp := ⟨bits w 48 4, bits w 44 4, bits w 40 4, bit w 32, bits w 0 32⟩
def encodeMac (o : MacOp) : BitVec 52 :=
  encodeMop o.mop ++ encodeCop o.cop ++ o.qa ++ toBit o.s ++ toBit o.neg ++ toBit o.z ++ 0#4
def encodeTap (o : TapOp) : BitVec 52 :=
  o.dl ++ toBit o.reg ++ o.k ++ encodeCop o.cop ++ o.qa ++ toBit o.s ++ toBit o.neg ++ toBit o.z ++ o.dld
def encodeAlu (o : AluOp) : BitVec 52 := o.dd ++ o.da ++ o.db ++ 0#4 ++ 0#3 ++ toBit o.i ++ o.imm

/-- A word from its header, opcode and operands (R106). -/
def renderWord (h : Hdr) (op : BitVec 7) (o : BitVec 52) : Word64 := h.g ++ toBit h.gs ++ toBit h.u ++ op ++ o

/-- The render instruction of a word, issued by an engine; a word of an unassigned opcode is one too (R113). -/
def decodeRender (e : Eng) (w : Word64) : Instr :=
  let h := decodeHdr w
  match (bits w 52 7).toNat with
  | 0x00 => .rNop e h
  | 0x01 => .rEnd e h
  | 0x02 => .rRpt e h (bits w 36 16) (bits w 0 13)
  | 0x03 => .rRptc e h (bits w 50 2) (bits w 0 13)
  | 0x08 => .rMac e h (decodeMac w)
  | 0x09 => .rMacd e h (decodeMac w)
  | 0x0A => .rMacw e h (decodeMac w)
  | 0x0B => .rMacqd e h (decodeMac w)
  | 0x0C => .rMacqc e h (decodeMac w)
  | 0x0D => .rTap e h (decodeTap w)
  | 0x0E => .rTapm e h (decodeTap w)
  | 0x0F => .rFdr e h (bits w 46 6) (bits w 42 4) (bits w 26 16) (bits w 23 3) (bit w 22) (bit w 21)
  | 0x10 => .rClrq e h (bits w 0 8)
  | 0x11 => .rLdq e h (bits w 49 3) (bits w 42 4) (bit w 41) (bit w 40)
  | 0x12 => .rAddq e h (bits w 49 3) (bits w 46 3) (bit w 41)
  | 0x13 => .rStq e h (bits w 49 3) (bits w 45 4) (decodeMop (bits w 19 26))
  | 0x18 => .rLd e h (bits w 48 4) (decodeMop (bits w 22 26))
  | 0x19 => .rSt e h (bits w 48 4) (decodeMop (bits w 22 26))
  | 0x1A => .rLuti e h (bits w 48 4) (bits w 44 4) (bits w 30 14) (bits w 26 4) (bit w 25)
  | 0x20 => .rMov e h (decodeAlu w)
  | 0x21 => .rAdd e h (decodeAlu w)
  | 0x22 => .rAdds e h (decodeAlu w)
  | 0x23 => .rSub e h (decodeAlu w)
  | 0x24 => .rSubs e h (decodeAlu w)
  | 0x25 => .rAnd e h (decodeAlu w)
  | 0x26 => .rOr e h (decodeAlu w)
  | 0x27 => .rXor e h (decodeAlu w)
  | 0x28 => .rShl e h (decodeAlu w)
  | 0x29 => .rShr e h (decodeAlu w)
  | 0x2A => .rAsr e h (decodeAlu w)
  | 0x2B => .rMin e h (decodeAlu w)
  | 0x2C => .rMax e h (decodeAlu w)
  | 0x2D => .rAbs e h (decodeAlu w)
  | 0x2E => .rMovs e h (bits w 48 4) (bits w 40 4) (bits w 36 4)
  | 0x30 => .rMova e h (bits w 48 4) (bits w 0 20)
  | 0x31 => .rAdda e h (bits w 48 4) (bits w 45 3) (bit w 40) (bits w 0 20)
  | 0x32 => .rMovm e h (bits w 45 3) (bits w 0 20)
  | 0x33 => .rMovad e h (bits w 48 4) (bits w 41 4)
  | 0x34 => .rMovmd e h (bits w 45 3) (bits w 41 4)
  | 0x38 => .rCmp e h (bits w 49 3) (bits w 46 3) (bits w 42 4) (bits w 38 4) (bit w 37) (bit w 36) (bits w 0 32)
  | 0x39 => .rPlog e h (bits w 49 3) (bits w 46 3) (bits w 43 3) (bits w 41 2)
  | 0x3A => .rPset e h (bits w 49 3) (bit w 40)
  | _ => .unassignedRenderOpcode e w

/-- The word of a render instruction, with the bits shown as "—" written as 0 (R107); none for another command. -/
def encodeRender : Instr → Option Word64
  | .rNop _ h => some (renderWord h 0x00 (0))
  | .rEnd _ h => some (renderWord h 0x01 (0))
  | .rRpt _ h c b => some (renderWord h 0x02 (c ++ 0#23 ++ b))
  | .rRptc _ h c b => some (renderWord h 0x03 (c ++ 0#37 ++ b))
  | .rMac _ h o => some (renderWord h 0x08 (encodeMac o))
  | .rMacd _ h o => some (renderWord h 0x09 (encodeMac o))
  | .rMacw _ h o => some (renderWord h 0x0A (encodeMac o))
  | .rMacqd _ h o => some (renderWord h 0x0B (encodeMac o))
  | .rMacqc _ h o => some (renderWord h 0x0C (encodeMac o))
  | .rTap _ h o => some (renderWord h 0x0D (encodeTap o))
  | .rTapm _ h o => some (renderWord h 0x0E (encodeTap o))
  | .rFdr _ h dl dd kb qa neg z => some (renderWord h 0x0F (dl ++ dd ++ kb ++ qa ++ toBit neg ++ toBit z ++ 0#21))
  | .rClrq _ h m => some (renderWord h 0x10 (0#44 ++ m))
  | .rLdq _ h qa dn neg acc => some (renderWord h 0x11 (qa ++ 0#3 ++ dn ++ toBit neg ++ toBit acc ++ 0#40))
  | .rAddq _ h qa qb neg => some (renderWord h 0x12 (qa ++ qb ++ 0#4 ++ toBit neg ++ 0#41))
  | .rStq _ h qa sh mop => some (renderWord h 0x13 (qa ++ sh ++ encodeMop mop ++ 0#19))
  | .rLd _ h dn mop => some (renderWord h 0x18 (dn ++ encodeMop mop ++ 0#22))
  | .rSt _ h dn mop => some (renderWord h 0x19 (dn ++ encodeMop mop ++ 0#22))
  | .rLuti _ h dd ds base n sgn => some (renderWord h 0x1A (dd ++ ds ++ base ++ n ++ toBit sgn ++ 0#25))
  | .rMov _ h o => some (renderWord h 0x20 (encodeAlu o))
  | .rAdd _ h o => some (renderWord h 0x21 (encodeAlu o))
  | .rAdds _ h o => some (renderWord h 0x22 (encodeAlu o))
  | .rSub _ h o => some (renderWord h 0x23 (encodeAlu o))
  | .rSubs _ h o => some (renderWord h 0x24 (encodeAlu o))
  | .rAnd _ h o => some (renderWord h 0x25 (encodeAlu o))
  | .rOr _ h o => some (renderWord h 0x26 (encodeAlu o))
  | .rXor _ h o => some (renderWord h 0x27 (encodeAlu o))
  | .rShl _ h o => some (renderWord h 0x28 (encodeAlu o))
  | .rShr _ h o => some (renderWord h 0x29 (encodeAlu o))
  | .rAsr _ h o => some (renderWord h 0x2A (encodeAlu o))
  | .rMin _ h o => some (renderWord h 0x2B (encodeAlu o))
  | .rMax _ h o => some (renderWord h 0x2C (encodeAlu o))
  | .rAbs _ h o => some (renderWord h 0x2D (encodeAlu o))
  | .rMovs _ h dd db sel => some (renderWord h 0x2E (dd ++ 0#4 ++ db ++ sel ++ 0#36))
  | .rMova _ h an imm => some (renderWord h 0x30 (an ++ 0#28 ++ imm))
  | .rAdda _ h an mm rm imm => some (renderWord h 0x31 (an ++ mm ++ 0#4 ++ toBit rm ++ 0#20 ++ imm))
  | .rMovm _ h mm imm => some (renderWord h 0x32 (0#4 ++ mm ++ 0#25 ++ imm))
  | .rMovad _ h an dn => some (renderWord h 0x33 (an ++ 0#3 ++ dn ++ 0#41))
  | .rMovmd _ h mm dn => some (renderWord h 0x34 (0#4 ++ mm ++ dn ++ 0#41))
  | .rCmp _ h pd cc da db i sr imm => some (renderWord h 0x38 (pd ++ cc ++ da ++ db ++ toBit i ++ toBit sr ++ 0#4 ++ imm))
  | .rPlog _ h pd pa pb lop => some (renderWord h 0x39 (pd ++ pa ++ pb ++ lop ++ 0#41))
  | .rPset _ h pd v => some (renderWord h 0x3A (pd ++ 0#8 ++ toBit v ++ 0#40))
  | .unassignedRenderOpcode _ w => some w
  | _ => none

end Sys2Proof
end

