-- ==== Sys2Proof/Config.lean ====
section
/-! DEFINITION. What the manual leaves open: values that a command writes and the manual does not state. -/

namespace Sys2Proof

/-- A free value: the n-th value that the manual leaves open (log 6).  It has no body, so nothing can be proved of it
beyond what holds of every value; the state counts the values taken. -/
opaque Config.freeValue (n : Nat) : Nat

/-- The sample that an ASRC group converts to (R306, log 6), for the v-th free value: a value of the ratio and of the samples that the
group has buffered, latest first. -/
opaque Config.converted (v : Nat) (ratio : Word) (buffered : List Word) : Word

/-- The board keeps VDDIO_G powered in S5 when PWREN_IO is low (R426). -/
opaque Config.vddioGKept : Bool

/-- A region that the manifest of a firmware body configures for execution in place (R441). -/
structure XipRegion where
  base : Nat
  size : Nat
  tree : Nat
  ver : Nat
  root : List Word
  deriving DecidableEq, Repr

/-- The XIP regions of the manifest in a firmware body, whose layout the manual does not give (R441, R465, log 6). -/
opaque Config.manifest (body : List Byte) : List XipRegion

/-- The CC1 application that a firmware body carries, in a layout that the manual does not give (R501, log 6). -/
opaque Config.ccApp (body : List Byte) : List Byte

/-- The bytes of the mask ROM, which the manual does not give (log 6). -/
opaque Config.romByte (off : Nat) : Byte

end Sys2Proof
end

