-- ==== Sys2Proof/Machine/RegMap.lean ====
section
/-! DEFINITION. The register map of the peripheral blocks, written out from the register tables of the chapters
(R5, R6, R32, R69, R102, R153, R187, R218 to R220, R251, R252, R276, R309, R310, R344 to R346, R372, R414, R419, R424,
R427, R453, R473, R513): the address of every register (`R.*`), the place of every field (`F.*`), and for every register
its reset value and the bits of each field type.  A field shown with reset "—" or "fused" resets to 0 here: DESIGN
CHOICE (log 3, log 5).  The system registers of the control cores (R500) are no peripheral registers and stand in the
state of a core. -/

namespace Sys2Proof.Machine

/-- A field: the address of its register, its high bit and its low bit. -/
structure Fld where
  addr : Nat
  hi : Nat
  lo : Nat
  deriving DecidableEq, Repr

/-- One row of a block map: `n` registers, `st` bytes apart, in each of `insts` instances, `ist` bytes apart; the value
after reset, and the bits of each field type of R6.  A bit of no type is reserved (R5). -/
structure RegRow where
  base : Nat
  n : Nat
  st : Nat
  insts : Nat
  ist : Nat
  reset : Nat
  rw : Nat
  w1c : Nat
  w1s : Nat
  rc : Nat
  wo : Nat
  rwl : Nat
  ro : Nat
  deriving DecidableEq, Repr

/-- The control block of an engine: engines 0 to 15 lie in one slot and engine 16 has its own (R32). -/
def engBase (e : Nat) : Nat := if e = 16 then 0x400F0000 else 0x40160000 + 0x1000 * e

/-! ## Register addresses -/


-- Chapter 02 (R69).
def R.XCH_CTRL : Nat := 0x40030000
def R.XCH_ERR : Nat := 0x40030004
def R.XCH_ERRSRC : Nat := 0x40030008
def R.XCH_OVR : Nat := 0x4003000C
def R.XCH_MUTE : Nat := 0x40030010
def R.RD_CTRL (k : Nat) : Nat := 0x40030100 + 0x40 * k
def R.RD_DIVI (k : Nat) : Nat := 0x40030104 + 0x40 * k
def R.RD_DIVF (k : Nat) : Nat := 0x40030108 + 0x40 * k
def R.RD_SSTARTL (k : Nat) : Nat := 0x4003010C + 0x40 * k
def R.RD_SSTARTH (k : Nat) : Nat := 0x40030110 + 0x40 * k
def R.RD_SIDXL (k : Nat) : Nat := 0x40030114 + 0x40 * k
def R.RD_SIDXH (k : Nat) : Nat := 0x40030118 + 0x40 * k
def R.RD_STAT (k : Nat) : Nat := 0x4003011C + 0x40 * k
def R.RD_BTSNS (k : Nat) : Nat := 0x40030120 + 0x40 * k
def R.RD_BTSSUB (k : Nat) : Nat := 0x40030124 + 0x40 * k
def R.RD_BTSSECL (k : Nat) : Nat := 0x40030128 + 0x40 * k
def R.RD_BTSSECH (k : Nat) : Nat := 0x4003012C + 0x40 * k
def R.XCH_ROUTE (k : Nat) : Nat := 0x40031000 + 4 * k
def R.XCH_SLOT (k : Nat) : Nat := 0x40034000 + 4 * k

-- Chapter 03 (R102).
def R.ENG_CTRL (i : Nat) : Nat := engBase i + 0
def R.ENG_STAT (i : Nat) : Nat := engBase i + 4
def R.ENG_MAP (i : Nat) : Nat := engBase i + 8
def R.ENG_EPOCH (i : Nat) : Nat := engBase i + 0xC
def R.ENG_CLKST (i : Nat) : Nat := engBase i + 0x10
def R.ENG_TIERST (i : Nat) : Nat := engBase i + 0x14
def R.ENG_TR (i : Nat) : Nat := engBase i + 0x18
def R.ENG_BIST (i : Nat) : Nat := engBase i + 0x1C
def R.ENG_ENTRY (i : Nat) (k : Nat) : Nat := engBase i + 0x20 + 4 * k
def R.ENG_CNT (i : Nat) (k : Nat) : Nat := engBase i + 0x30 + 4 * k
def R.ENG_SCNTL (i : Nat) : Nat := engBase i + 0x40
def R.ENG_SCNTH (i : Nat) : Nat := engBase i + 0x44
def R.ENG_PASSLAST (i : Nat) : Nat := engBase i + 0x48
def R.ENG_PASSMAX (i : Nat) : Nat := engBase i + 0x4C
def R.ENG_RAMPCFG (i : Nat) : Nat := engBase i + 0x50
def R.ENG_TIN (i : Nat) (k : Nat) : Nat := engBase i + 0x400 + 4 * k
def R.ENG_TOUT (i : Nat) (k : Nat) : Nat := engBase i + 0x800 + 4 * k
def R.ENG_DESC (i : Nat) (k : Nat) : Nat := engBase i + 0xC00 + 4 * k

-- Chapter 05 (R153).
def R.LDS_CTRL : Nat := 0x40170000
def R.LDS_STAT : Nat := 0x40170004
def R.LDS_SCRUB : Nat := 0x40170008
def R.LDS_ECCC : Nat := 0x4017000C
def R.LDS_ECCUC : Nat := 0x40170010
def R.LDS_ECCADDR : Nat := 0x40170014
def R.LDS_USE (k : Nat) : Nat := 0x40170020 + 4 * k
def R.LDS_PEAK (k : Nat) : Nat := 0x40170030 + 4 * k
def R.LINEBASE (k : Nat) : Nat := 0x40170100 + 8 * k
def R.LINELEN (k : Nat) : Nat := 0x40170104 + 8 * k
def R.ENGECC (k : Nat) : Nat := 0x40170900 + 4 * k

-- Chapter 06 (R187).
def R.STG_CTRL : Nat := 0x40040000
def R.STG_STAT : Nat := 0x40040004
def R.STG_ARMED : Nat := 0x40040008
def R.STG_APPLIED : Nat := 0x4004000C
def R.STG_NACKMAP : Nat := 0x40040010
def R.STG_DEFCNT : Nat := 0x40040014
def R.STG_METSEL : Nat := 0x40040040
def R.STG_METDATA : Nat := 0x40040044
def R.STG_METEPOCH : Nat := 0x40040048
def R.STG_METIDX : Nat := 0x4004004C

-- Chapter 07 (R218 to R220).
def R.PMU_CTRL : Nat := 0x40000000
def R.PMU_STAT : Nat := 0x40000004
def R.PMU_LATTOL : Nat := 0x40000008
def R.PMU_REQMASK : Nat := 0x4000000C
def R.PMU_WAKESRC : Nat := 0x40000010
def R.PMU_WKTIMER : Nat := 0x40000014
def R.PMU_SLOWCNT : Nat := 0x40000018
def R.PMU_PDSTAT : Nat := 0x4000001C
def R.PMU_RSTCAUSE : Nat := 0x40000020
def R.AON_EPASSIGN : Nat := 0x40000030
def R.AON_EPAPPLIED : Nat := 0x40000034
def R.AON_RET (k : Nat) : Nat := 0x40000100 + 4 * k
def R.TSU_CTRL : Nat := 0x40070000
def R.TSU_STAT : Nat := 0x40070004
def R.TSU_MAX : Nat := 0x40070008
def R.TSU_T (k : Nat) : Nat := 0x40070100 + 4 * k

-- Chapter 08 (R251, R252).
def R.AGE_CTRL : Nat := 0x40070800
def R.AGE_STAT : Nat := 0x40070804
def R.AGE_TC : Nat := 0x40070808
def R.AGE_CNT (k : Nat) : Nat := 0x40070900 + 4 * k
def R.AGE_REF (k : Nat) : Nat := 0x40070A00 + 4 * k
def R.AGE_FMAX (k : Nat) : Nat := 0x40070B00 + 4 * k

-- Chapter 07 (R218 to R220).
def R.LA_CTRL : Nat := 0x40190000
def R.LA_STAT : Nat := 0x40190004
def R.LA_PEST : Nat := 0x40190008
def R.LA_VDD : Nat := 0x4019000C
def R.LA_FIXED : Nat := 0x40190010
def R.LA_LEAK : Nat := 0x40190014
def R.LA_ACT (k : Nat) : Nat := 0x40190100 + 4 * k
def R.LA_CDYN (k : Nat) : Nat := 0x40190200 + 4 * k

-- Chapter 08 (R251, R252).
def R.SCU_CTRL : Nat := 0x40180000
def R.SCU_STAT : Nat := 0x40180004
def R.SCU_PAIR : Nat := 0x40180008
def R.SCU_SEL : Nat := 0x4018000C
def R.SCU_WIN : Nat := 0x40180010
def R.SCU_WCNT : Nat := 0x40180014
def R.SCU_CLONE : Nat := 0x40180018
def R.SCU_MISIDXL : Nat := 0x4018001C
def R.SCU_MISIDXH : Nat := 0x40180020
def R.SCU_MISINFO : Nat := 0x40180024
def R.SCU_CRCH : Nat := 0x40180028
def R.SCU_CRCP : Nat := 0x4018002C
def R.SCU_HOREQ : Nat := 0x40180030
def R.SCU_HOBNDL : Nat := 0x40180034
def R.SCU_HOBNDH : Nat := 0x40180038

-- Chapter 09 (R276).
def R.CLK_CTRL : Nat := 0x40010000
def R.CLK_STAT : Nat := 0x40010004
def R.CLK_SYSI : Nat := 0x40010008
def R.CLK_SYSF : Nat := 0x4001000C
def R.CLK_MON : Nat := 0x40010010
def R.CLK_SLOW : Nat := 0x40010014
def R.CLK_ENGN (k : Nat) : Nat := 0x40010040 + 4 * k
def R.ACS_CTRL (k : Nat) : Nat := 0x40010100 + 0x40 * k
def R.ACS_DIV (k : Nat) : Nat := 0x40010104 + 0x40 * k
def R.ACS_FRAC (k : Nat) : Nat := 0x40010108 + 0x40 * k
def R.ACS_CENI (k : Nat) : Nat := 0x4001010C + 0x40 * k
def R.ACS_CENF (k : Nat) : Nat := 0x40010110 + 0x40 * k
def R.ACS_LIMIT (k : Nat) : Nat := 0x40010114 + 0x40 * k
def R.ACS_SEED (k : Nat) : Nat := 0x40010118 + 0x40 * k
def R.ACS_PSTEP (k : Nat) : Nat := 0x4001011C + 0x40 * k
def R.ACS_PSQ (k : Nat) : Nat := 0x40010120 + 0x40 * k
def R.ACS_STAT (k : Nat) : Nat := 0x40010124 + 0x40 * k
def R.ACS_LIVE (k : Nat) : Nat := 0x40010128 + 0x40 * k
def R.ACS_LIVEF (k : Nat) : Nat := 0x4001012C + 0x40 * k
def R.ACS_NETSTEP (k : Nat) : Nat := 0x40010130 + 0x40 * k
def R.MCLKO (k : Nat) : Nat := 0x40010200 + 4 * k

-- Chapter 10 (R309, R310).
def R.ASP_CTRL (i : Nat) : Nat := 0x40100000 + 0x1000 * i
def R.ASP_STAT (i : Nat) : Nat := 0x40100004 + 0x1000 * i
def R.ASP_FMT0 (i : Nat) : Nat := 0x40100008 + 0x1000 * i
def R.ASP_FMT1 (i : Nat) : Nat := 0x4010000C + 0x1000 * i
def R.ASP_SLIP (i : Nat) : Nat := 0x40100010 + 0x1000 * i
def R.ASP_MEAS (i : Nat) : Nat := 0x40100014 + 0x1000 * i
def R.ASP_PHASE (i : Nat) : Nat := 0x40100018 + 0x1000 * i
def R.ASP_SLOTMASK (i : Nat) (k : Nat) : Nat := 0x40100020 + 0x1000 * i + 4 * k
def R.ASP_TXSRC (i : Nat) (k : Nat) : Nat := 0x40100100 + 0x1000 * i + 4 * k
def R.ASP_TRIG : Nat := 0x40100800
def R.PDM_CTRL (i : Nat) : Nat := 0x40110000 + 0x1000 * i
def R.PDM_STAT (i : Nat) : Nat := 0x40110004 + 0x1000 * i
def R.PDM_DECIM (i : Nat) : Nat := 0x40110008 + 0x1000 * i
def R.IECR_CTRL : Nat := 0x40120000
def R.IECR_STAT : Nat := 0x40120004
def R.IECR_RATEMEAS : Nat := 0x40120008
def R.IECR_SLIP : Nat := 0x4012000C
def R.IECR_BUFBASE : Nat := 0x40120100
def R.IECR_BUFSIZE : Nat := 0x40120104
def R.IECR_BUFWR : Nat := 0x40120108
def R.IECR_BUFRD : Nat := 0x4012010C
def R.IECR_CSA (k : Nat) : Nat := 0x40120020 + 4 * k
def R.IECR_CSB (k : Nat) : Nat := 0x40120040 + 4 * k
def R.IECR_UDA (k : Nat) : Nat := 0x40120060 + 4 * k
def R.IECR_UDB (k : Nat) : Nat := 0x40120080 + 4 * k
def R.IECT_CTRL : Nat := 0x40121000
def R.IECT_STAT : Nat := 0x40121004
def R.IECT_TXSRC (k : Nat) : Nat := 0x40121008 + 4 * k
def R.IECT_CSA (k : Nat) : Nat := 0x40121020 + 4 * k
def R.IECT_CSB (k : Nat) : Nat := 0x40121040 + 4 * k
def R.SRC_CTRL (i : Nat) : Nat := 0x40130000 + 0x1000 * i
def R.SRC_STAT (i : Nat) : Nat := 0x40130004 + 0x1000 * i
def R.SRC_RATIO (i : Nat) : Nat := 0x40130008 + 0x1000 * i
def R.SRC_LAT (i : Nat) : Nat := 0x4013000C + 0x1000 * i
def R.SRC_SRCSEL (i : Nat) (k : Nat) : Nat := 0x40130010 + 0x1000 * i + 4 * k

-- Chapter 11 (R344 to R346).
def R.TU_CTRL : Nat := 0x40020000
def R.TU_STAT : Nat := 0x40020004
def R.TU_NS : Nat := 0x40020008
def R.TU_SUBNS : Nat := 0x4002000C
def R.TU_SECL : Nat := 0x40020010
def R.TU_SECH : Nat := 0x40020014
def R.TU_ADJ : Nat := 0x40020018
def R.TU_SLOWINC : Nat := 0x4002001C
def R.TU_STEPNS : Nat := 0x4002002C
def R.TU_LFRAC : Nat := 0x40020038
def R.TU_LINCI : Nat := 0x4002003C
def R.TU_LINCF : Nat := 0x40020040
def R.TCAP_CTRL : Nat := 0x400200C0
def R.TRIG_CTRL : Nat := 0x400200E0
def R.TU_LNSL : Nat := 0x40020030
def R.TU_LNSH : Nat := 0x40020034
def R.TU_SETNS : Nat := 0x40020020
def R.TU_SETSECL : Nat := 0x40020024
def R.TU_SETSECH : Nat := 0x40020028
def R.TP_CTRL (k : Nat) : Nat := 0x40020080 + 0x20 * k
def R.TP_NS (k : Nat) : Nat := 0x40020084 + 0x20 * k
def R.TP_SECL (k : Nat) : Nat := 0x40020088 + 0x20 * k
def R.TP_SECH (k : Nat) : Nat := 0x4002008C + 0x20 * k
def R.TP_PERIOD (k : Nat) : Nat := 0x40020090 + 0x20 * k
def R.TP_WIDTH (k : Nat) : Nat := 0x40020094 + 0x20 * k
def R.TCAP_NS : Nat := 0x400200C4
def R.TCAP_SECL : Nat := 0x400200C8
def R.TCAP_SECH : Nat := 0x400200CC
def R.TRIG_NS : Nat := 0x400200E4
def R.TRIG_SECL : Nat := 0x400200E8
def R.TRIG_SECH : Nat := 0x400200EC
def R.NSW_CTRL : Nat := 0x40140000
def R.NSW_STAT : Nat := 0x40140004
def R.NSW_MTCMD : Nat := 0x40140100
def R.NSW_MTMACH : Nat := 0x40140104
def R.NSW_MTMACL : Nat := 0x40140108
def R.NSW_MDIO : Nat := 0x40140300
def R.NSW_MDIOCFG : Nat := 0x40140304
def R.NSW_TSF_INFO : Nat := 0x40140400
def R.PORT_CTRL (k : Nat) : Nat := 0x40140040 + 0x40 * k
def R.PORT_STAT (k : Nat) : Nat := 0x40140044 + 0x40 * k
def R.PORT_TSC1G (k : Nat) : Nat := 0x40140048 + 0x40 * k
def R.PORT_TSC100 (k : Nat) : Nat := 0x4014004C + 0x40 * k
def R.PORT_TSC10 (k : Nat) : Nat := 0x40140050 + 0x40 * k
def R.PORT_LDELAY (k : Nat) : Nat := 0x40140054 + 0x40 * k
def R.PORT_IDLEA (k : Nat) : Nat := 0x40140058 + 0x40 * k
def R.PORT_IDLEB (k : Nat) : Nat := 0x4014005C + 0x40 * k
def R.NSW_VLAN (k : Nat) : Nat := 0x40140200 + 4 * k
def R.TSF_NS : Nat := 0x40140404
def R.TSF_SECL : Nat := 0x40140408
def R.TSF_SECH : Nat := 0x4014040C
def R.NSW_RXBASE : Nat := 0x40140500
def R.NSW_RXIDX : Nat := 0x40140504
def R.NSW_TXBASE : Nat := 0x40140508
def R.NSW_TXIDX : Nat := 0x4014050C
def R.SE_CTRL : Nat := 0x40150000
def R.SE_STAT : Nat := 0x40150004
def R.STR_CTRL (k : Nat) : Nat := 0x40150100 + 0x40 * k
def R.STR_STAT (k : Nat) : Nat := 0x40150104 + 0x40 * k
def R.STR_SIDL (k : Nat) : Nat := 0x40150108 + 0x40 * k
def R.STR_SIDH (k : Nat) : Nat := 0x4015010C + 0x40 * k
def R.STR_DMACL (k : Nat) : Nat := 0x40150110 + 0x40 * k
def R.STR_DMACH (k : Nat) : Nat := 0x40150114 + 0x40 * k
def R.STR_VLAN (k : Nat) : Nat := 0x40150118 + 0x40 * k
def R.STR_OFFSET (k : Nat) : Nat := 0x4015011C + 0x40 * k

-- Chapter 10 (R309, R310).
def R.STR_SRC (i : Nat) (k : Nat) : Nat := 0x40150120 + 0x40 * i + 4 * k

-- Chapter 11 (R344 to R346).
def R.STR_LATECNT (k : Nat) : Nat := 0x40150320 + 0x40 * k
def R.STR_EARLYCNT (k : Nat) : Nat := 0x40150324 + 0x40 * k
def R.STR_SEQCNT (k : Nat) : Nat := 0x40150328 + 0x40 * k

-- Chapter 12 (R372).
def R.MBX_BASE : Nat := 0x40050000
def R.MBX_REQPEND (k : Nat) : Nat := 0x40050010 + 4 * k
def R.MBX_RSPPEND (k : Nat) : Nat := 0x40050018 + 4 * k
def R.MBX_REQEN (k : Nat) : Nat := 0x40050020 + 4 * k
def R.MBX_RSPEN (k : Nat) : Nat := 0x40050028 + 4 * k
def R.HSP_CTRL : Nat := 0x400A0000
def R.HSP_STAT : Nat := 0x400A0004
def R.HSP_ATTN : Nat := 0x400A0008
def R.HSP_CMD : Nat := 0x400A000C
def R.HSP_RXDATA : Nat := 0x400A0010
def R.HSP_RXINFO : Nat := 0x400A0014
def R.HSP_TXDATA : Nat := 0x400A0018
def R.HSP_LEVEL : Nat := 0x400A001C
def R.HSP_RSPLEN (k : Nat) : Nat := 0x400A0020 + 4 * k

-- Chapter 14 (R414, R419, R424, R427).
def R.UART_CTRL (i : Nat) : Nat := 0x400C0000 + 0x1000 * i
def R.UART_FMT (i : Nat) : Nat := 0x400C0004 + 0x1000 * i
def R.UART_BAUD (i : Nat) : Nat := 0x400C0008 + 0x1000 * i
def R.UART_QCFG (i : Nat) : Nat := 0x400C000C + 0x1000 * i
def R.UART_STAT (i : Nat) : Nat := 0x400C0010 + 0x1000 * i
def R.UART_TXDATA (i : Nat) : Nat := 0x400C0014 + 0x1000 * i
def R.UART_RXDATA (i : Nat) : Nat := 0x400C0018 + 0x1000 * i
def R.UART_LEVEL (i : Nat) : Nat := 0x400C001C + 0x1000 * i
def R.UART_ADDR (i : Nat) : Nat := 0x400C0020 + 0x1000 * i
def R.UART_FLOW (i : Nat) : Nat := 0x400C0024 + 0x1000 * i
def R.UART_DECFG (i : Nat) : Nat := 0x400C0028 + 0x1000 * i
def R.UART_SLOW (i : Nat) : Nat := 0x400C002C + 0x1000 * i
def R.UART_ABD (i : Nat) : Nat := 0x400C0030 + 0x1000 * i
def R.PSC_CTRL : Nat := 0x400B0000
def R.PSC_STAT : Nat := 0x400B0004
def R.PSC_CLK : Nat := 0x400B0008
def R.PSC_CSCFG : Nat := 0x400B000C
def R.PSC_CMD : Nat := 0x400B0010
def R.PSC_TXDATA : Nat := 0x400B0014
def R.PSC_RXDATA : Nat := 0x400B0018
def R.PSC_RXINFO : Nat := 0x400B001C
def R.PSC_LEVEL : Nat := 0x400B0020
def R.I2C_CTRL : Nat := 0x400D0000
def R.I2C_STAT : Nat := 0x400D0004
def R.I2C_TO : Nat := 0x400D0008
def R.I2C_XFER : Nat := 0x400D000C
def R.I2C_DATA : Nat := 0x400D0010
def R.I2C_LEVEL : Nat := 0x400D0014
def R.GPIO_DIR : Nat := 0x400E0000
def R.GPIO_OUT : Nat := 0x400E0004
def R.GPIO_SET : Nat := 0x400E0008
def R.GPIO_CLR : Nat := 0x400E000C
def R.GPIO_IN : Nat := 0x400E0010
def R.GPIO_EVT : Nat := 0x400E0018
def R.GPIO_IE : Nat := 0x400E001C
def R.GPIO_WAKE : Nat := 0x400E0080
def R.GPIO_EDGE : Nat := 0x400E0014
def R.GPIO_FILT (k : Nat) : Nat := 0x400E0040 + 4 * k

-- Chapter 15 (R453).
def R.XMP_CTRL : Nat := 0x40090000
def R.XMP_STAT : Nat := 0x40090004
def R.XMP_CLK : Nat := 0x40090008
def R.XMP_POLL : Nat := 0x4009000C
def R.XMP_SUSP : Nat := 0x40090010
def R.XMP_CMD0 : Nat := 0x40090014
def R.XMP_CMD1 : Nat := 0x40090018
def R.XMP_ADDR : Nat := 0x4009001C
def R.XMP_DATA : Nat := 0x40090020
def R.XMP_LEVEL : Nat := 0x40090024
def R.XMP_ECCCFG : Nat := 0x40090030
def R.XMP_ECCCNT : Nat := 0x40090034
def R.XMP_ECCADDR : Nat := 0x40090038
def R.XMP_XIPFAIL : Nat := 0x40090048
def R.XMP_XIPCMD0 : Nat := 0x40090040
def R.XMP_XIPCMD1 : Nat := 0x40090044
def R.XIP_BASE (k : Nat) : Nat := 0x40090100 + 0x20 * k
def R.XIP_SIZE (k : Nat) : Nat := 0x40090104 + 0x20 * k
def R.XIP_TREE (k : Nat) : Nat := 0x40090108 + 0x20 * k
def R.XIP_VER (k : Nat) : Nat := 0x4009010C + 0x20 * k
def R.XIP_ROOT (i : Nat) (k : Nat) : Nat := 0x40090110 + 0x20 * i + 4 * k

-- Chapter 16 (R473).
def R.SEC_CTRL : Nat := 0x40080000
def R.SEC_STAT : Nat := 0x40080004
def R.SEC_ARB : Nat := 0x40080008
def R.SEC_KEYREV : Nat := 0x4008000C
def R.SEC_KDFBOUND : Nat := 0x40080010
def R.SEC_KDFCMD : Nat := 0x40080014
def R.SEC_HCTRL : Nat := 0x40080080
def R.SEC_HDATA : Nat := 0x40080084
def R.SEC_VCTRL : Nat := 0x400801A0
def R.SEC_FUSECMD : Nat := 0x40080200
def R.SEC_KDFP (k : Nat) : Nat := 0x40080020 + 4 * k
def R.SEC_KOUT (k : Nat) : Nat := 0x40080040 + 4 * k
def R.SEC_HOUT (k : Nat) : Nat := 0x400800A0 + 4 * k
def R.SEC_VIN (k : Nat) : Nat := 0x40080100 + 4 * k
def R.SEC_FUSE (k : Nat) : Nat := 0x40080400 + 4 * k

-- Chapter 17 (R513).
def R.DMA_CTRL : Nat := 0x40060000
def R.DMA_STAT : Nat := 0x40060004
def R.DMA_ERR : Nat := 0x40060008
def R.DMA_ERRADDR : Nat := 0x4006000C
def R.DMA_DONE : Nat := 0x40060010
def R.DMA_SWREQ : Nat := 0x40060014
def R.DMA_IE : Nat := 0x40060018
def R.CH_CTRL (k : Nat) : Nat := 0x40060100 + 0x20 * k
def R.CH_DESC (k : Nat) : Nat := 0x40060104 + 0x20 * k
def R.CH_CUR (k : Nat) : Nat := 0x40060108 + 0x20 * k
def R.CH_REM (k : Nat) : Nat := 0x4006010C + 0x20 * k

/-! ## Fields -/


-- Chapter 02 (R69).
def F.XCH_CTRL_IRQEN : Fld := ⟨R.XCH_CTRL, 16, 16⟩
def F.XCH_CTRL_START : Fld := ⟨R.XCH_CTRL, 3, 0⟩
def F.XCH_ERR_CROSSRD : Fld := ⟨R.XCH_ERR, 2, 2⟩
def F.XCH_ERR_WRCONF : Fld := ⟨R.XCH_ERR, 1, 1⟩
def F.XCH_ERR_WRUNROUTED : Fld := ⟨R.XCH_ERR, 0, 0⟩
def F.XCH_ERRSRC_VALID : Fld := ⟨R.XCH_ERRSRC, 31, 31⟩
def F.XCH_ERRSRC_KIND : Fld := ⟨R.XCH_ERRSRC, 26, 24⟩
def F.XCH_ERRSRC_ID : Fld := ⟨R.XCH_ERRSRC, 23, 16⟩
def F.XCH_ERRSRC_SLOT : Fld := ⟨R.XCH_ERRSRC, 10, 0⟩
def F.XCH_OVR_OVR : Fld := ⟨R.XCH_OVR, 16, 0⟩
def F.XCH_MUTE_MUTE : Fld := ⟨R.XCH_MUTE, 15, 0⟩
def F.RD_CTRL_EN (k : Nat) : Fld := ⟨R.RD_CTRL k, 31, 31⟩
def F.RD_CTRL_LEADER (k : Nat) : Fld := ⟨R.RD_CTRL k, 23, 22⟩
def F.RD_CTRL_RATIO (k : Nat) : Fld := ⟨R.RD_CTRL k, 21, 20⟩
def F.RD_CTRL_LINK (k : Nat) : Fld := ⟨R.RD_CTRL k, 19, 19⟩
def F.RD_CTRL_SRC (k : Nat) : Fld := ⟨R.RD_CTRL k, 16, 16⟩
def F.RD_CTRL_BLEN (k : Nat) : Fld := ⟨R.RD_CTRL k, 2, 0⟩
def F.RD_DIVI_INT (k : Nat) : Fld := ⟨R.RD_DIVI k, 15, 0⟩
def F.RD_DIVF_FRAC (k : Nat) : Fld := ⟨R.RD_DIVF k, 31, 0⟩
def F.RD_SSTARTL_SSTART (k : Nat) : Fld := ⟨R.RD_SSTARTL k, 31, 0⟩
def F.RD_SSTARTH_SSTART (k : Nat) : Fld := ⟨R.RD_SSTARTH k, 31, 0⟩
def F.RD_SIDXL_SIDX (k : Nat) : Fld := ⟨R.RD_SIDXL k, 31, 0⟩
def F.RD_SIDXH_SIDX (k : Nat) : Fld := ⟨R.RD_SIDXH k, 31, 0⟩
def F.RD_STAT_RUN (k : Nat) : Fld := ⟨R.RD_STAT k, 31, 31⟩
def F.RD_STAT_CFGERR (k : Nat) : Fld := ⟨R.RD_STAT k, 30, 30⟩
def F.RD_STAT_ACSWAIT (k : Nat) : Fld := ⟨R.RD_STAT k, 29, 29⟩
def F.RD_STAT_PHASE (k : Nat) : Fld := ⟨R.RD_STAT k, 7, 0⟩
def F.RD_BTSNS_NS (k : Nat) : Fld := ⟨R.RD_BTSNS k, 29, 0⟩
def F.RD_BTSSUB_SUB (k : Nat) : Fld := ⟨R.RD_BTSSUB k, 15, 0⟩
def F.RD_BTSSECL_SEC (k : Nat) : Fld := ⟨R.RD_BTSSECL k, 31, 0⟩
def F.RD_BTSSECH_SEC (k : Nat) : Fld := ⟨R.RD_BTSSECH k, 15, 0⟩
def F.XCH_ROUTE_VALID (k : Nat) : Fld := ⟨R.XCH_ROUTE k, 31, 31⟩
def F.XCH_ROUTE_DOMAIN (k : Nat) : Fld := ⟨R.XCH_ROUTE k, 29, 28⟩
def F.XCH_ROUTE_KIND (k : Nat) : Fld := ⟨R.XCH_ROUTE k, 26, 24⟩
def F.XCH_ROUTE_ID (k : Nat) : Fld := ⟨R.XCH_ROUTE k, 23, 16⟩
def F.XCH_ROUTE_INDEX (k : Nat) : Fld := ⟨R.XCH_ROUTE k, 6, 0⟩
def F.XCH_SLOT_VALUE (k : Nat) : Fld := ⟨R.XCH_SLOT k, 31, 0⟩

-- Chapter 03 (R102).
def F.ENG_CTRL_HOSTACC (i : Nat) : Fld := ⟨R.ENG_CTRL i, 31, 31⟩
def F.ENG_CTRL_TTIER (i : Nat) : Fld := ⟨R.ENG_CTRL i, 11, 10⟩
def F.ENG_CTRL_TPASS (i : Nat) : Fld := ⟨R.ENG_CTRL i, 9, 9⟩
def F.ENG_CTRL_SWAP (i : Nat) : Fld := ⟨R.ENG_CTRL i, 8, 8⟩
def F.ENG_CTRL_CLEAR (i : Nat) : Fld := ⟨R.ENG_CTRL i, 4, 4⟩
def F.ENG_CTRL_BISTGO (i : Nat) : Fld := ⟨R.ENG_CTRL i, 0, 0⟩
def F.ENG_STAT_MODE (i : Nat) : Fld := ⟨R.ENG_STAT i, 31, 29⟩
def F.ENG_STAT_BUSY (i : Nat) : Fld := ⟨R.ENG_STAT i, 28, 28⟩
def F.ENG_STAT_ECCU (i : Nat) : Fld := ⟨R.ENG_STAT i, 7, 7⟩
def F.ENG_STAT_TDONE (i : Nat) : Fld := ⟨R.ENG_STAT i, 6, 6⟩
def F.ENG_STAT_RPTERR (i : Nat) : Fld := ⟨R.ENG_STAT i, 5, 5⟩
def F.ENG_STAT_PCWRAP (i : Nat) : Fld := ⟨R.ENG_STAT i, 4, 4⟩
def F.ENG_STAT_BANKCONF (i : Nat) : Fld := ⟨R.ENG_STAT i, 3, 3⟩
def F.ENG_STAT_QWRAP (i : Nat) : Fld := ⟨R.ENG_STAT i, 2, 2⟩
def F.ENG_STAT_SAT (i : Nat) : Fld := ⟨R.ENG_STAT i, 1, 1⟩
def F.ENG_STAT_TLIMIT (i : Nat) : Fld := ⟨R.ENG_STAT i, 0, 0⟩
def F.ENG_MAP_VALID (i : Nat) : Fld := ⟨R.ENG_MAP i, 31, 31⟩
def F.ENG_MAP_DOMAIN (i : Nat) : Fld := ⟨R.ENG_MAP i, 9, 8⟩
def F.ENG_MAP_LE (i : Nat) : Fld := ⟨R.ENG_MAP i, 3, 0⟩
def F.ENG_EPOCH_E (i : Nat) : Fld := ⟨R.ENG_EPOCH i, 31, 0⟩
def F.ENG_CLKST_LOCK (i : Nat) : Fld := ⟨R.ENG_CLKST i, 31, 31⟩
def F.ENG_CLKST_NARM (i : Nat) : Fld := ⟨R.ENG_CLKST i, 20, 16⟩
def F.ENG_CLKST_N (i : Nat) : Fld := ⟨R.ENG_CLKST i, 4, 0⟩
def F.ENG_TIERST_NTIER (i : Nat) : Fld := ⟨R.ENG_TIERST i, 29, 28⟩
def F.ENG_TIERST_RAMPLEN (i : Nat) : Fld := ⟨R.ENG_TIERST i, 27, 16⟩
def F.ENG_TIERST_PTIER (i : Nat) : Fld := ⟨R.ENG_TIERST i, 5, 4⟩
def F.ENG_TIERST_TIER (i : Nat) : Fld := ⟨R.ENG_TIERST i, 1, 0⟩
def F.ENG_TR_TR (i : Nat) : Fld := ⟨R.ENG_TR i, 31, 0⟩
def F.ENG_BIST_DONE (i : Nat) : Fld := ⟨R.ENG_BIST i, 31, 31⟩
def F.ENG_BIST_PASS (i : Nat) : Fld := ⟨R.ENG_BIST i, 30, 30⟩
def F.ENG_BIST_RUNS (i : Nat) : Fld := ⟨R.ENG_BIST i, 23, 16⟩
def F.ENG_BIST_FAILMAP (i : Nat) : Fld := ⟨R.ENG_BIST i, 12, 0⟩
def F.ENG_ENTRY_ADDR (i : Nat) (k : Nat) : Fld := ⟨R.ENG_ENTRY i k, 12, 0⟩
def F.ENG_CNT_COUNT (i : Nat) (k : Nat) : Fld := ⟨R.ENG_CNT i k, 15, 0⟩
def F.ENG_SCNTL_N (i : Nat) : Fld := ⟨R.ENG_SCNTL i, 31, 0⟩
def F.ENG_SCNTH_N (i : Nat) : Fld := ⟨R.ENG_SCNTH i, 31, 0⟩
def F.ENG_PASSLAST_CYC (i : Nat) : Fld := ⟨R.ENG_PASSLAST i, 19, 0⟩
def F.ENG_PASSMAX_CYC (i : Nat) : Fld := ⟨R.ENG_PASSMAX i, 19, 0⟩
def F.ENG_RAMPCFG_NTIER (i : Nat) : Fld := ⟨R.ENG_RAMPCFG i, 29, 28⟩
def F.ENG_RAMPCFG_RAMPLEN (i : Nat) : Fld := ⟨R.ENG_RAMPCFG i, 27, 16⟩
def F.ENG_TIN_DATA (i : Nat) (k : Nat) : Fld := ⟨R.ENG_TIN i k, 31, 0⟩
def F.ENG_TOUT_DATA (i : Nat) (k : Nat) : Fld := ⟨R.ENG_TOUT i k, 31, 0⟩
def F.ENG_DESC_ST (i : Nat) (k : Nat) : Fld := ⟨R.ENG_DESC i k, 31, 31⟩
def F.ENG_DESC_BASE (i : Nat) (k : Nat) : Fld := ⟨R.ENG_DESC i k, 30, 17⟩
def F.ENG_DESC_LENM1 (i : Nat) (k : Nat) : Fld := ⟨R.ENG_DESC i k, 16, 0⟩

-- Chapter 05 (R153).
def F.LDS_CTRL_IRQEN : Fld := ⟨R.LDS_CTRL, 7, 7⟩
def F.LDS_CTRL_SCRUBEN : Fld := ⟨R.LDS_CTRL, 4, 4⟩
def F.LDS_CTRL_HBREQ : Fld := ⟨R.LDS_CTRL, 1, 1⟩
def F.LDS_CTRL_HAREQ : Fld := ⟨R.LDS_CTRL, 0, 0⟩
def F.LDS_STAT_OFFACC : Fld := ⟨R.LDS_STAT, 28, 28⟩
def F.LDS_STAT_DRLATE : Fld := ⟨R.LDS_STAT, 27, 27⟩
def F.LDS_STAT_PFLATE : Fld := ⟨R.LDS_STAT, 26, 26⟩
def F.LDS_STAT_ECCU : Fld := ⟨R.LDS_STAT, 25, 25⟩
def F.LDS_STAT_ECCC : Fld := ⟨R.LDS_STAT, 24, 24⟩
def F.LDS_STAT_HBST : Fld := ⟨R.LDS_STAT, 3, 2⟩
def F.LDS_STAT_HAST : Fld := ⟨R.LDS_STAT, 1, 0⟩
def F.LDS_SCRUB_PERIOD : Fld := ⟨R.LDS_SCRUB, 25, 16⟩
def F.LDS_SCRUB_ROUNDS : Fld := ⟨R.LDS_SCRUB, 15, 0⟩
def F.LDS_ECCC_COUNT : Fld := ⟨R.LDS_ECCC, 31, 0⟩
def F.LDS_ECCUC_COUNT : Fld := ⟨R.LDS_ECCUC, 15, 0⟩
def F.LDS_ECCADDR_VALID : Fld := ⟨R.LDS_ECCADDR, 31, 31⟩
def F.LDS_ECCADDR_WADDR : Fld := ⟨R.LDS_ECCADDR, 20, 0⟩
def F.LDS_USE_ACC (k : Nat) : Fld := ⟨R.LDS_USE k, 17, 0⟩
def F.LDS_PEAK_ACC (k : Nat) : Fld := ⟨R.LDS_PEAK k, 17, 0⟩
def F.LINEBASE_VALID (k : Nat) : Fld := ⟨R.LINEBASE k, 31, 31⟩
def F.LINEBASE_BASE (k : Nat) : Fld := ⟨R.LINEBASE k, 20, 0⟩
def F.LINELEN_DOMAIN (k : Nat) : Fld := ⟨R.LINELEN k, 31, 30⟩
def F.LINELEN_LE (k : Nat) : Fld := ⟨R.LINELEN k, 29, 26⟩
def F.LINELEN_LEN (k : Nat) : Fld := ⟨R.LINELEN k, 21, 0⟩
def F.ENGECC_COUNT (k : Nat) : Fld := ⟨R.ENGECC k, 31, 0⟩

-- Chapter 06 (R187).
def F.STG_CTRL_IRQEN : Fld := ⟨R.STG_CTRL, 0, 0⟩
def F.STG_STAT_PHASE : Fld := ⟨R.STG_STAT, 31, 29⟩
def F.STG_STAT_RECDONE : Fld := ⟨R.STG_STAT, 18, 18⟩
def F.STG_STAT_APPLIED : Fld := ⟨R.STG_STAT, 17, 17⟩
def F.STG_STAT_DEFERRED : Fld := ⟨R.STG_STAT, 16, 16⟩
def F.STG_STAT_GARM : Fld := ⟨R.STG_STAT, 7, 4⟩
def F.STG_STAT_GSWAP : Fld := ⟨R.STG_STAT, 3, 0⟩
def F.STG_ARMED_E : Fld := ⟨R.STG_ARMED, 31, 0⟩
def F.STG_APPLIED_E : Fld := ⟨R.STG_APPLIED, 31, 0⟩
def F.STG_NACKMAP_CLK : Fld := ⟨R.STG_NACKMAP, 31, 31⟩
def F.STG_NACKMAP_SE : Fld := ⟨R.STG_NACKMAP, 30, 30⟩
def F.STG_NACKMAP_SRC : Fld := ⟨R.STG_NACKMAP, 29, 29⟩
def F.STG_NACKMAP_IEC : Fld := ⟨R.STG_NACKMAP, 28, 28⟩
def F.STG_NACKMAP_PDM : Fld := ⟨R.STG_NACKMAP, 27, 27⟩
def F.STG_NACKMAP_LDS : Fld := ⟨R.STG_NACKMAP, 26, 26⟩
def F.STG_NACKMAP_XCH : Fld := ⟨R.STG_NACKMAP, 25, 25⟩
def F.STG_NACKMAP_ASP : Fld := ⟨R.STG_NACKMAP, 24, 17⟩
def F.STG_NACKMAP_ENG : Fld := ⟨R.STG_NACKMAP, 16, 0⟩
def F.STG_DEFCNT_G3 : Fld := ⟨R.STG_DEFCNT, 31, 24⟩
def F.STG_DEFCNT_G2 : Fld := ⟨R.STG_DEFCNT, 23, 16⟩
def F.STG_DEFCNT_G1 : Fld := ⟨R.STG_DEFCNT, 15, 8⟩
def F.STG_DEFCNT_G0 : Fld := ⟨R.STG_DEFCNT, 7, 0⟩
def F.STG_METSEL_ENG : Fld := ⟨R.STG_METSEL, 12, 8⟩
def F.STG_METSEL_IDX : Fld := ⟨R.STG_METSEL, 5, 0⟩
def F.STG_METDATA_DATA : Fld := ⟨R.STG_METDATA, 31, 0⟩
def F.STG_METEPOCH_E : Fld := ⟨R.STG_METEPOCH, 31, 0⟩
def F.STG_METIDX_IDX : Fld := ⟨R.STG_METIDX, 31, 0⟩

-- Chapter 07 (R218 to R220).
def F.PMU_CTRL_EVAL : Fld := ⟨R.PMU_CTRL, 31, 31⟩
def F.PMU_CTRL_IOOFF5 : Fld := ⟨R.PMU_CTRL, 8, 8⟩
def F.PMU_CTRL_IRQEN : Fld := ⟨R.PMU_CTRL, 0, 0⟩
def F.PMU_STAT_STATE : Fld := ⟨R.PMU_STAT, 31, 29⟩
def F.PMU_STAT_TARGET : Fld := ⟨R.PMU_STAT, 28, 26⟩
def F.PMU_STAT_BUSY : Fld := ⟨R.PMU_STAT, 25, 25⟩
def F.PMU_STAT_WAKEBLK : Fld := ⟨R.PMU_STAT, 24, 24⟩
def F.PMU_STAT_NETKEEP : Fld := ⟨R.PMU_STAT, 23, 23⟩
def F.PMU_STAT_TRIPLOCK : Fld := ⟨R.PMU_STAT, 22, 22⟩
def F.PMU_LATTOL_TOL : Fld := ⟨R.PMU_LATTOL, 23, 0⟩
def F.PMU_REQMASK_TIMER : Fld := ⟨R.PMU_REQMASK, 15, 15⟩
def F.PMU_REQMASK_NETFRAME : Fld := ⟨R.PMU_REQMASK, 14, 14⟩
def F.PMU_REQMASK_HSP : Fld := ⟨R.PMU_REQMASK, 13, 13⟩
def F.PMU_REQMASK_UART2 : Fld := ⟨R.PMU_REQMASK, 12, 12⟩
def F.PMU_REQMASK_UART1 : Fld := ⟨R.PMU_REQMASK, 11, 11⟩
def F.PMU_REQMASK_UART0 : Fld := ⟨R.PMU_REQMASK, 10, 10⟩
def F.PMU_REQMASK_GPIO : Fld := ⟨R.PMU_REQMASK, 9, 9⟩
def F.PMU_REQMASK_TIME_KEEP : Fld := ⟨R.PMU_REQMASK, 2, 2⟩
def F.PMU_REQMASK_NET_FORWARD : Fld := ⟨R.PMU_REQMASK, 1, 1⟩
def F.PMU_REQMASK_RENDER : Fld := ⟨R.PMU_REQMASK, 0, 0⟩
def F.PMU_WAKESRC_SRC : Fld := ⟨R.PMU_WAKESRC, 15, 9⟩
def F.PMU_WAKESRC_WAKE : Fld := ⟨R.PMU_WAKESRC, 8, 8⟩
def F.PMU_WKTIMER_CMP : Fld := ⟨R.PMU_WKTIMER, 31, 0⟩
def F.PMU_SLOWCNT_COUNT : Fld := ⟨R.PMU_SLOWCNT, 31, 0⟩
def F.PMU_PDSTAT_ON : Fld := ⟨R.PMU_PDSTAT, 25, 0⟩
def F.PMU_RSTCAUSE_CAUSE : Fld := ⟨R.PMU_RSTCAUSE, 7, 0⟩
def F.AON_EPASSIGN_E : Fld := ⟨R.AON_EPASSIGN, 31, 0⟩
def F.AON_EPAPPLIED_E : Fld := ⟨R.AON_EPAPPLIED, 31, 0⟩
def F.AON_RET_DATA (k : Nat) : Fld := ⟨R.AON_RET k, 31, 0⟩
def F.TSU_CTRL_IRQEN : Fld := ⟨R.TSU_CTRL, 0, 0⟩
def F.TSU_STAT_HOT : Fld := ⟨R.TSU_STAT, 20, 16⟩
def F.TSU_STAT_HARDEV : Fld := ⟨R.TSU_STAT, 2, 2⟩
def F.TSU_STAT_HARD : Fld := ⟨R.TSU_STAT, 1, 1⟩
def F.TSU_STAT_SOFT : Fld := ⟨R.TSU_STAT, 0, 0⟩
def F.TSU_MAX_TJ : Fld := ⟨R.TSU_MAX, 11, 0⟩
def F.TSU_T_TJ (k : Nat) : Fld := ⟨R.TSU_T k, 11, 0⟩

-- Chapter 08 (R251, R252).
def F.AGE_CTRL_IRQEN : Fld := ⟨R.AGE_CTRL, 1, 1⟩
def F.AGE_CTRL_GO : Fld := ⟨R.AGE_CTRL, 0, 0⟩
def F.AGE_STAT_BUSY : Fld := ⟨R.AGE_STAT, 1, 1⟩
def F.AGE_STAT_DONE : Fld := ⟨R.AGE_STAT, 0, 0⟩
def F.AGE_TC_PPMC : Fld := ⟨R.AGE_TC, 15, 0⟩
def F.AGE_CNT_COUNT (k : Nat) : Fld := ⟨R.AGE_CNT k, 23, 0⟩
def F.AGE_REF_COUNT (k : Nat) : Fld := ⟨R.AGE_REF k, 23, 0⟩
def F.AGE_FMAX_N (k : Nat) : Fld := ⟨R.AGE_FMAX k, 4, 0⟩

-- Chapter 07 (R218 to R220).
def F.LA_CTRL_EN : Fld := ⟨R.LA_CTRL, 31, 31⟩
def F.LA_CTRL_SLOWWIN : Fld := ⟨R.LA_CTRL, 19, 8⟩
def F.LA_CTRL_IRQEN : Fld := ⟨R.LA_CTRL, 4, 4⟩
def F.LA_CTRL_WINBLK : Fld := ⟨R.LA_CTRL, 3, 0⟩
def F.LA_STAT_DONE : Fld := ⟨R.LA_STAT, 31, 31⟩
def F.LA_STAT_WINDOWS : Fld := ⟨R.LA_STAT, 15, 0⟩
def F.LA_PEST_VALID : Fld := ⟨R.LA_PEST, 31, 31⟩
def F.LA_PEST_MW : Fld := ⟨R.LA_PEST, 15, 0⟩
def F.LA_VDD_MV : Fld := ⟨R.LA_VDD, 9, 0⟩
def F.LA_FIXED_MW : Fld := ⟨R.LA_FIXED, 15, 0⟩
def F.LA_LEAK_L0 : Fld := ⟨R.LA_LEAK, 31, 16⟩
def F.LA_LEAK_DT : Fld := ⟨R.LA_LEAK, 7, 0⟩
def F.LA_ACT_COUNT (k : Nat) : Fld := ⟨R.LA_ACT k, 31, 0⟩
def F.LA_CDYN_FJ (k : Nat) : Fld := ⟨R.LA_CDYN k, 31, 0⟩

-- Chapter 08 (R251, R252).
def F.SCU_CTRL_ABORT : Fld := ⟨R.SCU_CTRL, 8, 8⟩
def F.SCU_CTRL_IRQEN : Fld := ⟨R.SCU_CTRL, 4, 4⟩
def F.SCU_CTRL_CRCEN : Fld := ⟨R.SCU_CTRL, 3, 3⟩
def F.SCU_CTRL_OUTEN : Fld := ⟨R.SCU_CTRL, 2, 2⟩
def F.SCU_STAT_STATE : Fld := ⟨R.SCU_STAT, 31, 28⟩
def F.SCU_STAT_HODONE : Fld := ⟨R.SCU_STAT, 7, 7⟩
def F.SCU_STAT_WINDONE : Fld := ⟨R.SCU_STAT, 6, 6⟩
def F.SCU_STAT_PECC : Fld := ⟨R.SCU_STAT, 5, 5⟩
def F.SCU_STAT_POVR : Fld := ⟨R.SCU_STAT, 4, 4⟩
def F.SCU_STAT_MISCRC : Fld := ⟨R.SCU_STAT, 3, 3⟩
def F.SCU_STAT_MISOUT : Fld := ⟨R.SCU_STAT, 2, 2⟩
def F.SCU_PAIR_VALID : Fld := ⟨R.SCU_PAIR, 31, 31⟩
def F.SCU_PAIR_DOMAIN : Fld := ⟨R.SCU_PAIR, 25, 24⟩
def F.SCU_PAIR_PUNTY : Fld := ⟨R.SCU_PAIR, 20, 16⟩
def F.SCU_PAIR_HOST : Fld := ⟨R.SCU_PAIR, 12, 8⟩
def F.SCU_PAIR_LE : Fld := ⟨R.SCU_PAIR, 3, 0⟩
def F.SCU_SEL_GO : Fld := ⟨R.SCU_SEL, 31, 31⟩
def F.SCU_SEL_PUNTY : Fld := ⟨R.SCU_SEL, 20, 16⟩
def F.SCU_SEL_LE : Fld := ⟨R.SCU_SEL, 3, 0⟩
def F.SCU_WIN_LEN : Fld := ⟨R.SCU_WIN, 23, 0⟩
def F.SCU_WCNT_COUNT : Fld := ⟨R.SCU_WCNT, 23, 0⟩
def F.SCU_CLONE_DONE : Fld := ⟨R.SCU_CLONE, 31, 31⟩
def F.SCU_CLONE_WORDS : Fld := ⟨R.SCU_CLONE, 17, 0⟩
def F.SCU_MISIDXL_IDX : Fld := ⟨R.SCU_MISIDXL, 31, 0⟩
def F.SCU_MISIDXH_IDX : Fld := ⟨R.SCU_MISIDXH, 31, 0⟩
def F.SCU_MISINFO_VALID : Fld := ⟨R.SCU_MISINFO, 31, 31⟩
def F.SCU_MISINFO_KIND : Fld := ⟨R.SCU_MISINFO, 30, 28⟩
def F.SCU_MISINFO_INDEX : Fld := ⟨R.SCU_MISINFO, 6, 0⟩
def F.SCU_CRCH_CRC : Fld := ⟨R.SCU_CRCH, 31, 0⟩
def F.SCU_CRCP_CRC : Fld := ⟨R.SCU_CRCP, 31, 0⟩
def F.SCU_HOREQ_GO : Fld := ⟨R.SCU_HOREQ, 31, 31⟩
def F.SCU_HOREQ_COLD : Fld := ⟨R.SCU_HOREQ, 30, 30⟩
def F.SCU_HOREQ_INCOMING : Fld := ⟨R.SCU_HOREQ, 20, 16⟩
def F.SCU_HOREQ_OUTGOING : Fld := ⟨R.SCU_HOREQ, 12, 8⟩
def F.SCU_HOREQ_LE : Fld := ⟨R.SCU_HOREQ, 3, 0⟩
def F.SCU_HOBNDL_IDX : Fld := ⟨R.SCU_HOBNDL, 31, 0⟩
def F.SCU_HOBNDH_IDX : Fld := ⟨R.SCU_HOBNDH, 31, 0⟩

-- Chapter 09 (R276).
def F.CLK_CTRL_SYSUPD : Fld := ⟨R.CLK_CTRL, 31, 31⟩
def F.CLK_CTRL_IRQEN : Fld := ⟨R.CLK_CTRL, 16, 16⟩
def F.CLK_CTRL_REFSEL : Fld := ⟨R.CLK_CTRL, 8, 8⟩
def F.CLK_CTRL_CC1EN : Fld := ⟨R.CLK_CTRL, 3, 3⟩
def F.CLK_CTRL_CC0EN : Fld := ⟨R.CLK_CTRL, 2, 2⟩
def F.CLK_CTRL_LDSEN : Fld := ⟨R.CLK_CTRL, 1, 1⟩
def F.CLK_CTRL_SYSEN : Fld := ⟨R.CLK_CTRL, 0, 0⟩
def F.CLK_STAT_SYSCOAST : Fld := ⟨R.CLK_STAT, 31, 31⟩
def F.CLK_STAT_SYSPEND : Fld := ⟨R.CLK_STAT, 30, 30⟩
def F.CLK_STAT_LOCK : Fld := ⟨R.CLK_STAT, 3, 0⟩
def F.CLK_SYSI_INT : Fld := ⟨R.CLK_SYSI, 6, 0⟩
def F.CLK_SYSF_FRAC : Fld := ⟨R.CLK_SYSF, 31, 0⟩
def F.CLK_MON_ENG : Fld := ⟨R.CLK_MON, 20, 16⟩
def F.CLK_MON_ENGUNLOCK : Fld := ⟨R.CLK_MON, 5, 5⟩
def F.CLK_MON_SLOWLOST : Fld := ⟨R.CLK_MON, 4, 4⟩
def F.CLK_MON_CCUNLOCK : Fld := ⟨R.CLK_MON, 3, 3⟩
def F.CLK_MON_LDSUNLOCK : Fld := ⟨R.CLK_MON, 2, 2⟩
def F.CLK_MON_SYSUNLOCK : Fld := ⟨R.CLK_MON, 1, 1⟩
def F.CLK_MON_REFLOST : Fld := ⟨R.CLK_MON, 0, 0⟩
def F.CLK_SLOW_ACTIVE : Fld := ⟨R.CLK_SLOW, 31, 31⟩
def F.CLK_SLOW_SEL : Fld := ⟨R.CLK_SLOW, 0, 0⟩
def F.CLK_ENGN_N (k : Nat) : Fld := ⟨R.CLK_ENGN k, 4, 0⟩
def F.ACS_CTRL_EN (k : Nat) : Fld := ⟨R.ACS_CTRL k, 31, 31⟩
def F.ACS_CTRL_FCHK (k : Nat) : Fld := ⟨R.ACS_CTRL k, 8, 8⟩
def F.ACS_CTRL_DITHEN (k : Nat) : Fld := ⟨R.ACS_CTRL k, 7, 7⟩
def F.ACS_CTRL_RESEED (k : Nat) : Fld := ⟨R.ACS_CTRL k, 6, 6⟩
def F.ACS_CTRL_RLAUTO (k : Nat) : Fld := ⟨R.ACS_CTRL k, 5, 5⟩
def F.ACS_CTRL_RELOCK (k : Nat) : Fld := ⟨R.ACS_CTRL k, 4, 4⟩
def F.ACS_CTRL_CLRQ (k : Nat) : Fld := ⟨R.ACS_CTRL k, 3, 3⟩
def F.ACS_CTRL_IRQEN (k : Nat) : Fld := ⟨R.ACS_CTRL k, 1, 1⟩
def F.ACS_CTRL_UPDATE (k : Nat) : Fld := ⟨R.ACS_CTRL k, 0, 0⟩
def F.ACS_DIV_REFSEL (k : Nat) : Fld := ⟨R.ACS_DIV k, 31, 30⟩
def F.ACS_DIV_POSTDIV (k : Nat) : Fld := ⟨R.ACS_DIV k, 28, 28⟩
def F.ACS_DIV_PREDIV (k : Nat) : Fld := ⟨R.ACS_DIV k, 26, 24⟩
def F.ACS_DIV_INT (k : Nat) : Fld := ⟨R.ACS_DIV k, 21, 16⟩
def F.ACS_DIV_SPACING (k : Nat) : Fld := ⟨R.ACS_DIV k, 15, 0⟩
def F.ACS_FRAC_FRAC (k : Nat) : Fld := ⟨R.ACS_FRAC k, 31, 0⟩
def F.ACS_CENI_INT (k : Nat) : Fld := ⟨R.ACS_CENI k, 5, 0⟩
def F.ACS_CENF_FRAC (k : Nat) : Fld := ⟨R.ACS_CENF k, 31, 0⟩
def F.ACS_LIMIT_REFTOL (k : Nat) : Fld := ⟨R.ACS_LIMIT k, 25, 16⟩
def F.ACS_LIMIT_LIMIT (k : Nat) : Fld := ⟨R.ACS_LIMIT k, 9, 0⟩
def F.ACS_SEED_SEED (k : Nat) : Fld := ⟨R.ACS_SEED k, 23, 0⟩
def F.ACS_PSTEP_ADD (k : Nat) : Fld := ⟨R.ACS_PSTEP k, 12, 0⟩
def F.ACS_PSQ_QUEUE (k : Nat) : Fld := ⟨R.ACS_PSQ k, 31, 0⟩
def F.ACS_STAT_LOCK (k : Nat) : Fld := ⟨R.ACS_STAT k, 31, 31⟩
def F.ACS_STAT_COAST (k : Nat) : Fld := ⟨R.ACS_STAT k, 30, 30⟩
def F.ACS_STAT_UPDPEND (k : Nat) : Fld := ⟨R.ACS_STAT k, 29, 29⟩
def F.ACS_STAT_REFOK (k : Nat) : Fld := ⟨R.ACS_STAT k, 28, 28⟩
def F.ACS_STAT_RELOCKED (k : Nat) : Fld := ⟨R.ACS_STAT k, 5, 5⟩
def F.ACS_STAT_COASTEV (k : Nat) : Fld := ⟨R.ACS_STAT k, 4, 4⟩
def F.ACS_STAT_FREQERR (k : Nat) : Fld := ⟨R.ACS_STAT k, 3, 3⟩
def F.ACS_STAT_QOVF (k : Nat) : Fld := ⟨R.ACS_STAT k, 2, 2⟩
def F.ACS_STAT_REFUSED (k : Nat) : Fld := ⟨R.ACS_STAT k, 1, 1⟩
def F.ACS_LIVE_REFSEL (k : Nat) : Fld := ⟨R.ACS_LIVE k, 31, 30⟩
def F.ACS_LIVE_POSTDIV (k : Nat) : Fld := ⟨R.ACS_LIVE k, 28, 28⟩
def F.ACS_LIVE_PREDIV (k : Nat) : Fld := ⟨R.ACS_LIVE k, 26, 24⟩
def F.ACS_LIVE_INT (k : Nat) : Fld := ⟨R.ACS_LIVE k, 21, 16⟩
def F.ACS_LIVE_SPACING (k : Nat) : Fld := ⟨R.ACS_LIVE k, 15, 0⟩
def F.ACS_LIVEF_FRAC (k : Nat) : Fld := ⟨R.ACS_LIVEF k, 31, 0⟩
def F.ACS_NETSTEP_COUNT (k : Nat) : Fld := ⟨R.ACS_NETSTEP k, 31, 0⟩
def F.MCLKO_EN (k : Nat) : Fld := ⟨R.MCLKO k, 31, 31⟩
def F.MCLKO_SRC (k : Nat) : Fld := ⟨R.MCLKO k, 8, 8⟩
def F.MCLKO_DIV (k : Nat) : Fld := ⟨R.MCLKO k, 7, 0⟩

-- Chapter 10 (R309, R310).
def F.ASP_CTRL_EN (i : Nat) : Fld := ⟨R.ASP_CTRL i, 31, 31⟩
def F.ASP_CTRL_ARM (i : Nat) : Fld := ⟨R.ASP_CTRL i, 30, 30⟩
def F.ASP_CTRL_MODE (i : Nat) : Fld := ⟨R.ASP_CTRL i, 29, 28⟩
def F.ASP_CTRL_DOMAIN (i : Nat) : Fld := ⟨R.ASP_CTRL i, 27, 26⟩
def F.ASP_CTRL_TXOFF (i : Nat) : Fld := ⟨R.ASP_CTRL i, 11, 11⟩
def F.ASP_CTRL_DIR1 (i : Nat) : Fld := ⟨R.ASP_CTRL i, 10, 10⟩
def F.ASP_CTRL_DIR0 (i : Nat) : Fld := ⟨R.ASP_CTRL i, 9, 9⟩
def F.ASP_CTRL_IRQEN (i : Nat) : Fld := ⟨R.ASP_CTRL i, 0, 0⟩
def F.ASP_STAT_RUN (i : Nat) : Fld := ⟨R.ASP_STAT i, 31, 31⟩
def F.ASP_STAT_MUTED (i : Nat) : Fld := ⟨R.ASP_STAT i, 30, 30⟩
def F.ASP_STAT_CFGERR (i : Nat) : Fld := ⟨R.ASP_STAT i, 29, 29⟩
def F.ASP_STAT_RATECHG (i : Nat) : Fld := ⟨R.ASP_STAT i, 3, 3⟩
def F.ASP_STAT_CLKLOST (i : Nat) : Fld := ⟨R.ASP_STAT i, 2, 2⟩
def F.ASP_STAT_BADFRAME (i : Nat) : Fld := ⟨R.ASP_STAT i, 1, 1⟩
def F.ASP_FMT0_FLENM1 (i : Nat) : Fld := ⟨R.ASP_FMT0 i, 31, 22⟩
def F.ASP_FMT0_OFFSET (i : Nat) : Fld := ⟨R.ASP_FMT0 i, 21, 17⟩
def F.ASP_FMT0_NSLOTM1 (i : Nat) : Fld := ⟨R.ASP_FMT0 i, 16, 12⟩
def F.ASP_FMT0_SLOTWM1 (i : Nat) : Fld := ⟨R.ASP_FMT0 i, 11, 7⟩
def F.ASP_FMT0_DATAWM1 (i : Nat) : Fld := ⟨R.ASP_FMT0 i, 6, 2⟩
def F.ASP_FMT0_JUST (i : Nat) : Fld := ⟨R.ASP_FMT0 i, 1, 1⟩
def F.ASP_FMT1_BCLKINV (i : Nat) : Fld := ⟨R.ASP_FMT1 i, 2, 2⟩
def F.ASP_FMT1_FSPOL (i : Nat) : Fld := ⟨R.ASP_FMT1 i, 1, 1⟩
def F.ASP_FMT1_FSW (i : Nat) : Fld := ⟨R.ASP_FMT1 i, 0, 0⟩
def F.ASP_SLIP_CLKLOSS (i : Nat) : Fld := ⟨R.ASP_SLIP i, 31, 16⟩
def F.ASP_SLIP_SLIPS (i : Nat) : Fld := ⟨R.ASP_SLIP i, 15, 0⟩
def F.ASP_MEAS_VALID (i : Nat) : Fld := ⟨R.ASP_MEAS i, 31, 31⟩
def F.ASP_MEAS_PERIOD (i : Nat) : Fld := ⟨R.ASP_MEAS i, 23, 0⟩
def F.ASP_PHASE_VALID (i : Nat) : Fld := ⟨R.ASP_PHASE i, 31, 31⟩
def F.ASP_PHASE_PHI (i : Nat) : Fld := ⟨R.ASP_PHASE i, 17, 0⟩
def F.ASP_SLOTMASK_MASK (i : Nat) (k : Nat) : Fld := ⟨R.ASP_SLOTMASK i k, 31, 0⟩
def F.ASP_TXSRC_VALID (i : Nat) (k : Nat) : Fld := ⟨R.ASP_TXSRC i k, 31, 31⟩
def F.ASP_TXSRC_SLOT (i : Nat) (k : Nat) : Fld := ⟨R.ASP_TXSRC i k, 10, 0⟩
def F.ASP_TRIG_GO : Fld := ⟨R.ASP_TRIG, 31, 31⟩
def F.ASP_TRIG_DOMAIN : Fld := ⟨R.ASP_TRIG, 19, 18⟩
def F.ASP_TRIG_BND : Fld := ⟨R.ASP_TRIG, 17, 17⟩
def F.ASP_TRIG_IECTX : Fld := ⟨R.ASP_TRIG, 16, 16⟩
def F.ASP_TRIG_PDM : Fld := ⟨R.ASP_TRIG, 15, 12⟩
def F.ASP_TRIG_ASP : Fld := ⟨R.ASP_TRIG, 7, 0⟩
def F.PDM_CTRL_EN (i : Nat) : Fld := ⟨R.PDM_CTRL i, 31, 31⟩
def F.PDM_CTRL_ARM (i : Nat) : Fld := ⟨R.PDM_CTRL i, 30, 30⟩
def F.PDM_CTRL_DOMAIN (i : Nat) : Fld := ⟨R.PDM_CTRL i, 29, 28⟩
def F.PDM_CTRL_CLKDIV (i : Nat) : Fld := ⟨R.PDM_CTRL i, 14, 8⟩
def F.PDM_CTRL_HPF (i : Nat) : Fld := ⟨R.PDM_CTRL i, 5, 4⟩
def F.PDM_CTRL_IRQEN (i : Nat) : Fld := ⟨R.PDM_CTRL i, 0, 0⟩
def F.PDM_STAT_RUN (i : Nat) : Fld := ⟨R.PDM_STAT i, 31, 31⟩
def F.PDM_STAT_VALID (i : Nat) : Fld := ⟨R.PDM_STAT i, 30, 30⟩
def F.PDM_STAT_CFGERR (i : Nat) : Fld := ⟨R.PDM_STAT i, 29, 29⟩
def F.PDM_STAT_STUCK1 (i : Nat) : Fld := ⟨R.PDM_STAT i, 1, 1⟩
def F.PDM_STAT_STUCK0 (i : Nat) : Fld := ⟨R.PDM_STAT i, 0, 0⟩
def F.PDM_DECIM_RATIO (i : Nat) : Fld := ⟨R.PDM_DECIM i, 9, 0⟩
def F.IECR_CTRL_EN : Fld := ⟨R.IECR_CTRL, 31, 31⟩
def F.IECR_CTRL_DIRECT : Fld := ⟨R.IECR_CTRL, 30, 30⟩
def F.IECR_CTRL_DOMAIN : Fld := ⟨R.IECR_CTRL, 29, 28⟩
def F.IECR_CTRL_NPCAP : Fld := ⟨R.IECR_CTRL, 1, 1⟩
def F.IECR_CTRL_IRQEN : Fld := ⟨R.IECR_CTRL, 0, 0⟩
def F.IECR_STAT_LOCK : Fld := ⟨R.IECR_STAT, 31, 31⟩
def F.IECR_STAT_NONPCM : Fld := ⟨R.IECR_STAT, 30, 30⟩
def F.IECR_STAT_RATE : Fld := ⟨R.IECR_STAT, 29, 26⟩
def F.IECR_STAT_OVF : Fld := ⟨R.IECR_STAT, 7, 7⟩
def F.IECR_STAT_BURST : Fld := ⟨R.IECR_STAT, 6, 6⟩
def F.IECR_STAT_CSNEW : Fld := ⟨R.IECR_STAT, 5, 5⟩
def F.IECR_STAT_RATECHG : Fld := ⟨R.IECR_STAT, 4, 4⟩
def F.IECR_STAT_LOCKLOST : Fld := ⟨R.IECR_STAT, 3, 3⟩
def F.IECR_STAT_PARERR : Fld := ⟨R.IECR_STAT, 2, 2⟩
def F.IECR_RATEMEAS_HZ : Fld := ⟨R.IECR_RATEMEAS, 17, 0⟩
def F.IECR_SLIP_SLIPS : Fld := ⟨R.IECR_SLIP, 31, 16⟩
def F.IECR_SLIP_PARERRS : Fld := ⟨R.IECR_SLIP, 15, 0⟩
def F.IECR_BUFBASE_ADDR : Fld := ⟨R.IECR_BUFBASE, 31, 0⟩
def F.IECR_BUFSIZE_BYTES : Fld := ⟨R.IECR_BUFSIZE, 15, 0⟩
def F.IECR_BUFWR_OFS : Fld := ⟨R.IECR_BUFWR, 15, 0⟩
def F.IECR_BUFRD_OFS : Fld := ⟨R.IECR_BUFRD, 15, 0⟩
def F.IECR_CSA_BITS (k : Nat) : Fld := ⟨R.IECR_CSA k, 31, 0⟩
def F.IECR_CSB_BITS (k : Nat) : Fld := ⟨R.IECR_CSB k, 31, 0⟩
def F.IECR_UDA_BITS (k : Nat) : Fld := ⟨R.IECR_UDA k, 31, 0⟩
def F.IECR_UDB_BITS (k : Nat) : Fld := ⟨R.IECR_UDB k, 31, 0⟩
def F.IECT_CTRL_EN : Fld := ⟨R.IECT_CTRL, 31, 31⟩
def F.IECT_CTRL_ARM : Fld := ⟨R.IECT_CTRL, 30, 30⟩
def F.IECT_CTRL_DOMAIN : Fld := ⟨R.IECT_CTRL, 29, 28⟩
def F.IECT_CTRL_CSUPD : Fld := ⟨R.IECT_CTRL, 4, 4⟩
def F.IECT_CTRL_CSSEP : Fld := ⟨R.IECT_CTRL, 3, 3⟩
def F.IECT_CTRL_VALB : Fld := ⟨R.IECT_CTRL, 2, 2⟩
def F.IECT_CTRL_VALA : Fld := ⟨R.IECT_CTRL, 1, 1⟩
def F.IECT_CTRL_IRQEN : Fld := ⟨R.IECT_CTRL, 0, 0⟩
def F.IECT_STAT_RUN : Fld := ⟨R.IECT_STAT, 31, 31⟩
def F.IECT_STAT_CSPEND : Fld := ⟨R.IECT_STAT, 30, 30⟩
def F.IECT_STAT_CFGERR : Fld := ⟨R.IECT_STAT, 29, 29⟩
def F.IECT_STAT_CSDONE : Fld := ⟨R.IECT_STAT, 0, 0⟩
def F.IECT_TXSRC_VALID (k : Nat) : Fld := ⟨R.IECT_TXSRC k, 31, 31⟩
def F.IECT_TXSRC_SLOT (k : Nat) : Fld := ⟨R.IECT_TXSRC k, 10, 0⟩
def F.IECT_CSA_BITS (k : Nat) : Fld := ⟨R.IECT_CSA k, 31, 0⟩
def F.IECT_CSB_BITS (k : Nat) : Fld := ⟨R.IECT_CSB k, 31, 0⟩
def F.SRC_CTRL_EN (i : Nat) : Fld := ⟨R.SRC_CTRL i, 31, 31⟩
def F.SRC_CTRL_DIR (i : Nat) : Fld := ⟨R.SRC_CTRL i, 30, 30⟩
def F.SRC_CTRL_DOMAIN (i : Nat) : Fld := ⟨R.SRC_CTRL i, 29, 28⟩
def F.SRC_CTRL_EXT (i : Nat) : Fld := ⟨R.SRC_CTRL i, 27, 24⟩
def F.SRC_CTRL_NCHM1 (i : Nat) : Fld := ⟨R.SRC_CTRL i, 17, 16⟩
def F.SRC_CTRL_FIRSTCH (i : Nat) : Fld := ⟨R.SRC_CTRL i, 14, 8⟩
def F.SRC_CTRL_IRQEN (i : Nat) : Fld := ⟨R.SRC_CTRL i, 0, 0⟩
def F.SRC_STAT_STATE (i : Nat) : Fld := ⟨R.SRC_STAT i, 31, 29⟩
def F.SRC_STAT_RATECHG (i : Nat) : Fld := ⟨R.SRC_STAT i, 3, 3⟩
def F.SRC_STAT_CLKLOST (i : Nat) : Fld := ⟨R.SRC_STAT i, 2, 2⟩
def F.SRC_STAT_LOCKEV (i : Nat) : Fld := ⟨R.SRC_STAT i, 1, 1⟩
def F.SRC_RATIO_RATIO (i : Nat) : Fld := ⟨R.SRC_RATIO i, 31, 0⟩
def F.SRC_LAT_NS (i : Nat) : Fld := ⟨R.SRC_LAT i, 23, 0⟩
def F.SRC_SRCSEL_VALID (i : Nat) (k : Nat) : Fld := ⟨R.SRC_SRCSEL i k, 31, 31⟩
def F.SRC_SRCSEL_SLOT (i : Nat) (k : Nat) : Fld := ⟨R.SRC_SRCSEL i k, 10, 0⟩

-- Chapter 11 (R344 to R346).
def F.TU_CTRL_SET : Fld := ⟨R.TU_CTRL, 31, 31⟩
def F.TU_CTRL_STEP : Fld := ⟨R.TU_CTRL, 30, 30⟩
def F.TU_CTRL_IRQEN : Fld := ⟨R.TU_CTRL, 0, 0⟩
def F.TU_STAT_SLOW : Fld := ⟨R.TU_STAT, 31, 31⟩
def F.TU_STAT_VALID : Fld := ⟨R.TU_STAT, 30, 30⟩
def F.TU_STAT_STEPEV : Fld := ⟨R.TU_STAT, 2, 2⟩
def F.TU_STAT_SETEV : Fld := ⟨R.TU_STAT, 1, 1⟩
def F.TU_STAT_CLKSW : Fld := ⟨R.TU_STAT, 0, 0⟩
def F.TU_NS_NS : Fld := ⟨R.TU_NS, 29, 0⟩
def F.TU_SUBNS_SUB : Fld := ⟨R.TU_SUBNS, 15, 0⟩
def F.TU_SECL_SEC : Fld := ⟨R.TU_SECL, 31, 0⟩
def F.TU_SECH_SEC : Fld := ⟨R.TU_SECH, 15, 0⟩
def F.TU_ADJ_ADJ : Fld := ⟨R.TU_ADJ, 31, 0⟩
def F.TU_SLOWINC_INC : Fld := ⟨R.TU_SLOWINC, 31, 0⟩
def F.TU_STEPNS_NS : Fld := ⟨R.TU_STEPNS, 31, 0⟩
def F.TU_LFRAC_FRAC : Fld := ⟨R.TU_LFRAC, 31, 0⟩
def F.TU_LINCI_NS : Fld := ⟨R.TU_LINCI, 7, 0⟩
def F.TU_LINCF_FRAC : Fld := ⟨R.TU_LINCF, 31, 0⟩
def F.TCAP_CTRL_COUNT : Fld := ⟨R.TCAP_CTRL, 12, 8⟩
def F.TCAP_CTRL_EDGE : Fld := ⟨R.TCAP_CTRL, 5, 4⟩
def F.TCAP_CTRL_OVF : Fld := ⟨R.TCAP_CTRL, 3, 3⟩
def F.TCAP_CTRL_OVERRUN : Fld := ⟨R.TCAP_CTRL, 2, 2⟩
def F.TRIG_CTRL_ARM : Fld := ⟨R.TRIG_CTRL, 31, 31⟩
def F.TRIG_CTRL_DISARM : Fld := ⟨R.TRIG_CTRL, 30, 30⟩
def F.TRIG_CTRL_LATE : Fld := ⟨R.TRIG_CTRL, 5, 5⟩
def F.TRIG_CTRL_DONE : Fld := ⟨R.TRIG_CTRL, 4, 4⟩
def F.TRIG_CTRL_DOMAINS : Fld := ⟨R.TRIG_CTRL, 3, 0⟩
def F.TU_LNSL_NS : Fld := ⟨R.TU_LNSL, 31, 0⟩
def F.TU_LNSH_NS : Fld := ⟨R.TU_LNSH, 31, 0⟩
def F.TU_SETNS_NS : Fld := ⟨R.TU_SETNS, 29, 0⟩
def F.TU_SETSECL_SEC : Fld := ⟨R.TU_SETSECL, 31, 0⟩
def F.TU_SETSECH_SEC : Fld := ⟨R.TU_SETSECH, 15, 0⟩
def F.TP_CTRL_ARM (k : Nat) : Fld := ⟨R.TP_CTRL k, 31, 31⟩
def F.TP_CTRL_DISARM (k : Nat) : Fld := ⟨R.TP_CTRL k, 30, 30⟩
def F.TP_CTRL_POL (k : Nat) : Fld := ⟨R.TP_CTRL k, 29, 29⟩
def F.TP_CTRL_ACTIVE (k : Nat) : Fld := ⟨R.TP_CTRL k, 3, 3⟩
def F.TP_CTRL_LATE (k : Nat) : Fld := ⟨R.TP_CTRL k, 2, 2⟩
def F.TP_CTRL_DONE (k : Nat) : Fld := ⟨R.TP_CTRL k, 1, 1⟩
def F.TP_NS_NS (k : Nat) : Fld := ⟨R.TP_NS k, 29, 0⟩
def F.TP_SECL_SEC (k : Nat) : Fld := ⟨R.TP_SECL k, 31, 0⟩
def F.TP_SECH_SEC (k : Nat) : Fld := ⟨R.TP_SECH k, 15, 0⟩
def F.TP_PERIOD_NS (k : Nat) : Fld := ⟨R.TP_PERIOD k, 31, 0⟩
def F.TP_WIDTH_NS (k : Nat) : Fld := ⟨R.TP_WIDTH k, 31, 0⟩
def F.TCAP_NS_VALID : Fld := ⟨R.TCAP_NS, 31, 31⟩
def F.TCAP_NS_NS : Fld := ⟨R.TCAP_NS, 29, 0⟩
def F.TCAP_SECL_SEC : Fld := ⟨R.TCAP_SECL, 31, 0⟩
def F.TCAP_SECH_RISE : Fld := ⟨R.TCAP_SECH, 31, 31⟩
def F.TCAP_SECH_SEC : Fld := ⟨R.TCAP_SECH, 15, 0⟩
def F.TRIG_NS_NS : Fld := ⟨R.TRIG_NS, 29, 0⟩
def F.TRIG_SECL_SEC : Fld := ⟨R.TRIG_SECL, 31, 0⟩
def F.TRIG_SECH_SEC : Fld := ⟨R.TRIG_SECH, 15, 0⟩
def F.NSW_CTRL_EN : Fld := ⟨R.NSW_CTRL, 31, 31⟩
def F.NSW_CTRL_AGE : Fld := ⟨R.NSW_CTRL, 24, 16⟩
def F.NSW_CTRL_PTPMODE : Fld := ⟨R.NSW_CTRL, 13, 12⟩
def F.NSW_CTRL_SRPCPB : Fld := ⟨R.NSW_CTRL, 10, 8⟩
def F.NSW_CTRL_SRPCPA : Fld := ⟨R.NSW_CTRL, 6, 4⟩
def F.NSW_CTRL_IRQEN : Fld := ⟨R.NSW_CTRL, 0, 0⟩
def F.NSW_STAT_TSOVF : Fld := ⟨R.NSW_STAT, 3, 3⟩
def F.NSW_STAT_MTFULL : Fld := ⟨R.NSW_STAT, 2, 2⟩
def F.NSW_STAT_BUFDROP : Fld := ⟨R.NSW_STAT, 1, 1⟩
def F.NSW_STAT_RXCHG : Fld := ⟨R.NSW_STAT, 0, 0⟩
def F.NSW_MTCMD_GO : Fld := ⟨R.NSW_MTCMD, 31, 31⟩
def F.NSW_MTCMD_OP : Fld := ⟨R.NSW_MTCMD, 30, 29⟩
def F.NSW_MTCMD_BUSY : Fld := ⟨R.NSW_MTCMD, 28, 28⟩
def F.NSW_MTCMD_FOUND : Fld := ⟨R.NSW_MTCMD, 27, 27⟩
def F.NSW_MTCMD_PORTS : Fld := ⟨R.NSW_MTCMD, 26, 24⟩
def F.NSW_MTCMD_VID : Fld := ⟨R.NSW_MTCMD, 11, 0⟩
def F.NSW_MTMACH_MAC : Fld := ⟨R.NSW_MTMACH, 15, 0⟩
def F.NSW_MTMACL_MAC : Fld := ⟨R.NSW_MTMACL, 31, 0⟩
def F.NSW_MDIO_GO : Fld := ⟨R.NSW_MDIO, 31, 31⟩
def F.NSW_MDIO_BUSY : Fld := ⟨R.NSW_MDIO, 30, 30⟩
def F.NSW_MDIO_OP : Fld := ⟨R.NSW_MDIO, 29, 27⟩
def F.NSW_MDIO_PHYAD : Fld := ⟨R.NSW_MDIO, 26, 22⟩
def F.NSW_MDIO_REG : Fld := ⟨R.NSW_MDIO, 21, 17⟩
def F.NSW_MDIO_DATA : Fld := ⟨R.NSW_MDIO, 15, 0⟩
def F.NSW_MDIOCFG_DIV : Fld := ⟨R.NSW_MDIOCFG, 7, 0⟩
def F.NSW_TSF_INFO_VALID : Fld := ⟨R.NSW_TSF_INFO, 31, 31⟩
def F.NSW_TSF_INFO_FWD : Fld := ⟨R.NSW_TSF_INFO, 30, 30⟩
def F.NSW_TSF_INFO_PORT : Fld := ⟨R.NSW_TSF_INFO, 29, 28⟩
def F.NSW_TSF_INFO_MSGTYPE : Fld := ⟨R.NSW_TSF_INFO, 27, 24⟩
def F.NSW_TSF_INFO_TAG : Fld := ⟨R.NSW_TSF_INFO, 23, 16⟩
def F.NSW_TSF_INFO_SEQID : Fld := ⟨R.NSW_TSF_INFO, 15, 0⟩
def F.PORT_CTRL_EN (k : Nat) : Fld := ⟨R.PORT_CTRL k, 31, 31⟩
def F.PORT_CTRL_SRON (k : Nat) : Fld := ⟨R.PORT_CTRL k, 30, 30⟩
def F.PORT_CTRL_BLOCK (k : Nat) : Fld := ⟨R.PORT_CTRL k, 29, 29⟩
def F.PORT_CTRL_SPEED (k : Nat) : Fld := ⟨R.PORT_CTRL k, 28, 27⟩
def F.PORT_CTRL_RXDLY (k : Nat) : Fld := ⟨R.PORT_CTRL k, 26, 26⟩
def F.PORT_CTRL_TXDLY (k : Nat) : Fld := ⟨R.PORT_CTRL k, 25, 25⟩
def F.PORT_CTRL_DEFPCP (k : Nat) : Fld := ⟨R.PORT_CTRL k, 15, 13⟩
def F.PORT_CTRL_PVID (k : Nat) : Fld := ⟨R.PORT_CTRL k, 11, 0⟩
def F.PORT_STAT_RXCLK (k : Nat) : Fld := ⟨R.PORT_STAT k, 31, 31⟩
def F.PORT_STAT_DROPS (k : Nat) : Fld := ⟨R.PORT_STAT k, 15, 0⟩
def F.PORT_TSC1G_INCORR (k : Nat) : Fld := ⟨R.PORT_TSC1G k, 31, 16⟩
def F.PORT_TSC1G_EGCORR (k : Nat) : Fld := ⟨R.PORT_TSC1G k, 15, 0⟩
def F.PORT_TSC100_INCORR (k : Nat) : Fld := ⟨R.PORT_TSC100 k, 31, 16⟩
def F.PORT_TSC100_EGCORR (k : Nat) : Fld := ⟨R.PORT_TSC100 k, 15, 0⟩
def F.PORT_TSC10_INCORR (k : Nat) : Fld := ⟨R.PORT_TSC10 k, 31, 16⟩
def F.PORT_TSC10_EGCORR (k : Nat) : Fld := ⟨R.PORT_TSC10 k, 15, 0⟩
def F.PORT_LDELAY_NS (k : Nat) : Fld := ⟨R.PORT_LDELAY k, 23, 0⟩
def F.PORT_IDLEA_KBPS (k : Nat) : Fld := ⟨R.PORT_IDLEA k, 20, 0⟩
def F.PORT_IDLEB_KBPS (k : Nat) : Fld := ⟨R.PORT_IDLEB k, 20, 0⟩
def F.NSW_VLAN_VALID (k : Nat) : Fld := ⟨R.NSW_VLAN k, 31, 31⟩
def F.NSW_VLAN_UNTAG (k : Nat) : Fld := ⟨R.NSW_VLAN k, 22, 20⟩
def F.NSW_VLAN_MEMBER (k : Nat) : Fld := ⟨R.NSW_VLAN k, 18, 16⟩
def F.NSW_VLAN_VID (k : Nat) : Fld := ⟨R.NSW_VLAN k, 11, 0⟩
def F.TSF_NS_NS : Fld := ⟨R.TSF_NS, 29, 0⟩
def F.TSF_SECL_SEC : Fld := ⟨R.TSF_SECL, 31, 0⟩
def F.TSF_SECH_SEC : Fld := ⟨R.TSF_SECH, 15, 0⟩
def F.NSW_RXBASE_ADDR : Fld := ⟨R.NSW_RXBASE, 31, 0⟩
def F.NSW_RXIDX_SIZE : Fld := ⟨R.NSW_RXIDX, 31, 24⟩
def F.NSW_RXIDX_HW : Fld := ⟨R.NSW_RXIDX, 23, 12⟩
def F.NSW_RXIDX_SW : Fld := ⟨R.NSW_RXIDX, 11, 0⟩
def F.NSW_TXBASE_ADDR : Fld := ⟨R.NSW_TXBASE, 31, 0⟩
def F.NSW_TXIDX_SIZE : Fld := ⟨R.NSW_TXIDX, 31, 24⟩
def F.NSW_TXIDX_HW : Fld := ⟨R.NSW_TXIDX, 23, 12⟩
def F.NSW_TXIDX_SW : Fld := ⟨R.NSW_TXIDX, 11, 0⟩
def F.SE_CTRL_EN : Fld := ⟨R.SE_CTRL, 31, 31⟩
def F.SE_CTRL_IRQEN : Fld := ⟨R.SE_CTRL, 0, 0⟩
def F.SE_STAT_STREAM : Fld := ⟨R.SE_STAT, 15, 0⟩
def F.STR_CTRL_EN (k : Nat) : Fld := ⟨R.STR_CTRL k, 31, 31⟩
def F.STR_CTRL_DOMAIN (k : Nat) : Fld := ⟨R.STR_CTRL k, 29, 28⟩
def F.STR_CTRL_FMT (k : Nat) : Fld := ⟨R.STR_CTRL k, 27, 26⟩
def F.STR_CTRL_NCHM1 (k : Nat) : Fld := ⟨R.STR_CTRL k, 25, 23⟩
def F.STR_CTRL_CLASS (k : Nat) : Fld := ⟨R.STR_CTRL k, 22, 22⟩
def F.STR_CTRL_SPFM1 (k : Nat) : Fld := ⟨R.STR_CTRL k, 21, 16⟩
def F.STR_STAT_RUN (k : Nat) : Fld := ⟨R.STR_STAT k, 31, 31⟩
def F.STR_STAT_MUTED (k : Nat) : Fld := ⟨R.STR_STAT k, 30, 30⟩
def F.STR_STAT_LOST (k : Nat) : Fld := ⟨R.STR_STAT k, 3, 3⟩
def F.STR_STAT_EARLY (k : Nat) : Fld := ⟨R.STR_STAT k, 2, 2⟩
def F.STR_STAT_LATE (k : Nat) : Fld := ⟨R.STR_STAT k, 1, 1⟩
def F.STR_STAT_FMTERR (k : Nat) : Fld := ⟨R.STR_STAT k, 0, 0⟩
def F.STR_SIDL_SID (k : Nat) : Fld := ⟨R.STR_SIDL k, 31, 0⟩
def F.STR_SIDH_SID (k : Nat) : Fld := ⟨R.STR_SIDH k, 31, 0⟩
def F.STR_DMACL_MAC (k : Nat) : Fld := ⟨R.STR_DMACL k, 31, 0⟩
def F.STR_DMACH_MAC (k : Nat) : Fld := ⟨R.STR_DMACH k, 15, 0⟩
def F.STR_VLAN_PCP (k : Nat) : Fld := ⟨R.STR_VLAN k, 15, 13⟩
def F.STR_VLAN_VID (k : Nat) : Fld := ⟨R.STR_VLAN k, 11, 0⟩
def F.STR_OFFSET_NS (k : Nat) : Fld := ⟨R.STR_OFFSET k, 31, 0⟩

-- Chapter 10 (R309, R310).
def F.STR_SRC_VALID (i : Nat) (k : Nat) : Fld := ⟨R.STR_SRC i k, 31, 31⟩
def F.STR_SRC_SLOT (i : Nat) (k : Nat) : Fld := ⟨R.STR_SRC i k, 10, 0⟩

-- Chapter 11 (R344 to R346).
def F.STR_LATECNT_COUNT (k : Nat) : Fld := ⟨R.STR_LATECNT k, 31, 0⟩
def F.STR_EARLYCNT_COUNT (k : Nat) : Fld := ⟨R.STR_EARLYCNT k, 31, 0⟩
def F.STR_SEQCNT_COUNT (k : Nat) : Fld := ⟨R.STR_SEQCNT k, 31, 0⟩

-- Chapter 12 (R372).
def F.MBX_BASE_ADDR : Fld := ⟨R.MBX_BASE, 31, 6⟩
def F.MBX_REQPEND_PEND (k : Nat) : Fld := ⟨R.MBX_REQPEND k, 31, 0⟩
def F.MBX_RSPPEND_PEND (k : Nat) : Fld := ⟨R.MBX_RSPPEND k, 31, 0⟩
def F.MBX_REQEN_EN (k : Nat) : Fld := ⟨R.MBX_REQEN k, 31, 0⟩
def F.MBX_RSPEN_EN (k : Nat) : Fld := ⟨R.MBX_RSPEN k, 31, 0⟩
def F.HSP_CTRL_EN : Fld := ⟨R.HSP_CTRL, 31, 31⟩
def F.HSP_CTRL_MODE3 : Fld := ⟨R.HSP_CTRL, 30, 30⟩
def F.HSP_CTRL_CMDL : Fld := ⟨R.HSP_CTRL, 29, 28⟩
def F.HSP_CTRL_CMDIE : Fld := ⟨R.HSP_CTRL, 1, 1⟩
def F.HSP_CTRL_IRQEN : Fld := ⟨R.HSP_CTRL, 0, 0⟩
def F.HSP_STAT_BUSY : Fld := ⟨R.HSP_STAT, 31, 31⟩
def F.HSP_STAT_CMDEV : Fld := ⟨R.HSP_STAT, 5, 5⟩
def F.HSP_STAT_RXOVF : Fld := ⟨R.HSP_STAT, 4, 4⟩
def F.HSP_STAT_UNDERRUN : Fld := ⟨R.HSP_STAT, 3, 3⟩
def F.HSP_STAT_PARTIAL : Fld := ⟨R.HSP_STAT, 2, 2⟩
def F.HSP_STAT_CMDERR : Fld := ⟨R.HSP_STAT, 1, 1⟩
def F.HSP_ATTN_EVT : Fld := ⟨R.HSP_ATTN, 0, 0⟩
def F.HSP_CMD_CMD : Fld := ⟨R.HSP_CMD, 31, 0⟩
def F.HSP_RXDATA_DATA : Fld := ⟨R.HSP_RXDATA, 31, 0⟩
def F.HSP_RXINFO_VALID : Fld := ⟨R.HSP_RXINFO, 31, 31⟩
def F.HSP_RXINFO_PARTIAL : Fld := ⟨R.HSP_RXINFO, 30, 30⟩
def F.HSP_RXINFO_LAST : Fld := ⟨R.HSP_RXINFO, 29, 29⟩
def F.HSP_RXINFO_NBITS : Fld := ⟨R.HSP_RXINFO, 5, 0⟩
def F.HSP_TXDATA_DATA : Fld := ⟨R.HSP_TXDATA, 31, 0⟩
def F.HSP_LEVEL_TX : Fld := ⟨R.HSP_LEVEL, 22, 16⟩
def F.HSP_LEVEL_RX : Fld := ⟨R.HSP_LEVEL, 6, 0⟩
def F.HSP_RSPLEN_WORDS (k : Nat) : Fld := ⟨R.HSP_RSPLEN k, 15, 0⟩

-- Chapter 14 (R414, R419, R424, R427).
def F.UART_CTRL_EN (i : Nat) : Fld := ⟨R.UART_CTRL i, 31, 31⟩
def F.UART_CTRL_TXEN (i : Nat) : Fld := ⟨R.UART_CTRL i, 30, 30⟩
def F.UART_CTRL_RXEN (i : Nat) : Fld := ⟨R.UART_CTRL i, 29, 29⟩
def F.UART_CTRL_ABDEN (i : Nat) : Fld := ⟨R.UART_CTRL i, 28, 28⟩
def F.UART_CTRL_TXBRK (i : Nat) : Fld := ⟨R.UART_CTRL i, 27, 27⟩
def F.UART_CTRL_RXFLUSH (i : Nat) : Fld := ⟨R.UART_CTRL i, 26, 26⟩
def F.UART_CTRL_TXFLUSH (i : Nat) : Fld := ⟨R.UART_CTRL i, 25, 25⟩
def F.UART_CTRL_RXIE (i : Nat) : Fld := ⟨R.UART_CTRL i, 2, 2⟩
def F.UART_CTRL_TXIE (i : Nat) : Fld := ⟨R.UART_CTRL i, 1, 1⟩
def F.UART_CTRL_ERRIE (i : Nat) : Fld := ⟨R.UART_CTRL i, 0, 0⟩
def F.UART_FMT_RXECHO (i : Nat) : Fld := ⟨R.UART_FMT i, 10, 10⟩
def F.UART_FMT_COLLEN (i : Nat) : Fld := ⟨R.UART_FMT i, 9, 9⟩
def F.UART_FMT_SWIRE (i : Nat) : Fld := ⟨R.UART_FMT i, 8, 8⟩
def F.UART_FMT_DEEN (i : Nat) : Fld := ⟨R.UART_FMT i, 7, 7⟩
def F.UART_FMT_NINE (i : Nat) : Fld := ⟨R.UART_FMT i, 6, 6⟩
def F.UART_FMT_PAR (i : Nat) : Fld := ⟨R.UART_FMT i, 5, 4⟩
def F.UART_FMT_STOP2 (i : Nat) : Fld := ⟨R.UART_FMT i, 3, 3⟩
def F.UART_FMT_D7 (i : Nat) : Fld := ⟨R.UART_FMT i, 0, 0⟩
def F.UART_BAUD_DIVI (i : Nat) : Fld := ⟨R.UART_BAUD i, 19, 4⟩
def F.UART_BAUD_DIVF (i : Nat) : Fld := ⟨R.UART_BAUD i, 3, 0⟩
def F.UART_QCFG_RXDEPTH (i : Nat) : Fld := ⟨R.UART_QCFG i, 7, 6⟩
def F.UART_QCFG_RXTRIG (i : Nat) : Fld := ⟨R.UART_QCFG i, 5, 4⟩
def F.UART_QCFG_TXDEPTH (i : Nat) : Fld := ⟨R.UART_QCFG i, 3, 2⟩
def F.UART_QCFG_TXTRIG (i : Nat) : Fld := ⟨R.UART_QCFG i, 1, 0⟩
def F.UART_STAT_TXBUSY (i : Nat) : Fld := ⟨R.UART_STAT i, 31, 31⟩
def F.UART_STAT_RXBUSY (i : Nat) : Fld := ⟨R.UART_STAT i, 30, 30⟩
def F.UART_STAT_MUTED (i : Nat) : Fld := ⟨R.UART_STAT i, 29, 29⟩
def F.UART_STAT_TXSTOP (i : Nat) : Fld := ⟨R.UART_STAT i, 28, 28⟩
def F.UART_STAT_RXTRIG (i : Nat) : Fld := ⟨R.UART_STAT i, 27, 27⟩
def F.UART_STAT_TXTRIG (i : Nat) : Fld := ⟨R.UART_STAT i, 26, 26⟩
def F.UART_STAT_ABDERR (i : Nat) : Fld := ⟨R.UART_STAT i, 8, 8⟩
def F.UART_STAT_ABDONE (i : Nat) : Fld := ⟨R.UART_STAT i, 7, 7⟩
def F.UART_STAT_COLL (i : Nat) : Fld := ⟨R.UART_STAT i, 6, 6⟩
def F.UART_STAT_ADDRM (i : Nat) : Fld := ⟨R.UART_STAT i, 5, 5⟩
def F.UART_STAT_BREAK (i : Nat) : Fld := ⟨R.UART_STAT i, 4, 4⟩
def F.UART_STAT_OVR (i : Nat) : Fld := ⟨R.UART_STAT i, 3, 3⟩
def F.UART_STAT_FE (i : Nat) : Fld := ⟨R.UART_STAT i, 2, 2⟩
def F.UART_STAT_PE (i : Nat) : Fld := ⟨R.UART_STAT i, 1, 1⟩
def F.UART_STAT_TXOVF (i : Nat) : Fld := ⟨R.UART_STAT i, 0, 0⟩
def F.UART_TXDATA_DATA (i : Nat) : Fld := ⟨R.UART_TXDATA i, 8, 0⟩
def F.UART_RXDATA_VALID (i : Nat) : Fld := ⟨R.UART_RXDATA i, 31, 31⟩
def F.UART_RXDATA_BRK (i : Nat) : Fld := ⟨R.UART_RXDATA i, 11, 11⟩
def F.UART_RXDATA_PE (i : Nat) : Fld := ⟨R.UART_RXDATA i, 10, 10⟩
def F.UART_RXDATA_FE (i : Nat) : Fld := ⟨R.UART_RXDATA i, 9, 9⟩
def F.UART_RXDATA_DATA (i : Nat) : Fld := ⟨R.UART_RXDATA i, 8, 0⟩
def F.UART_LEVEL_TX (i : Nat) : Fld := ⟨R.UART_LEVEL i, 23, 16⟩
def F.UART_LEVEL_RX (i : Nat) : Fld := ⟨R.UART_LEVEL i, 7, 0⟩
def F.UART_ADDR_MATCHEN (i : Nat) : Fld := ⟨R.UART_ADDR i, 31, 31⟩
def F.UART_ADDR_MUTE (i : Nat) : Fld := ⟨R.UART_ADDR i, 30, 30⟩
def F.UART_ADDR_BCEN (i : Nat) : Fld := ⟨R.UART_ADDR i, 29, 29⟩
def F.UART_ADDR_BCAST (i : Nat) : Fld := ⟨R.UART_ADDR i, 23, 16⟩
def F.UART_ADDR_MASK (i : Nat) : Fld := ⟨R.UART_ADDR i, 15, 8⟩
def F.UART_ADDR_ADDR (i : Nat) : Fld := ⟨R.UART_ADDR i, 7, 0⟩
def F.UART_FLOW_RXFC (i : Nat) : Fld := ⟨R.UART_FLOW i, 31, 31⟩
def F.UART_FLOW_TXFC (i : Nat) : Fld := ⟨R.UART_FLOW i, 30, 30⟩
def F.UART_FLOW_XOFF (i : Nat) : Fld := ⟨R.UART_FLOW i, 15, 8⟩
def F.UART_FLOW_XON (i : Nat) : Fld := ⟨R.UART_FLOW i, 7, 0⟩
def F.UART_DECFG_DEPOL (i : Nat) : Fld := ⟨R.UART_DECFG i, 16, 16⟩
def F.UART_DECFG_SETUP (i : Nat) : Fld := ⟨R.UART_DECFG i, 15, 8⟩
def F.UART_DECFG_HOLD (i : Nat) : Fld := ⟨R.UART_DECFG i, 7, 0⟩
def F.UART_SLOW_DIV (i : Nat) : Fld := ⟨R.UART_SLOW i, 11, 0⟩
def F.UART_ABD_VALID (i : Nat) : Fld := ⟨R.UART_ABD i, 31, 31⟩
def F.UART_ABD_COUNT (i : Nat) : Fld := ⟨R.UART_ABD i, 23, 0⟩
def F.PSC_CTRL_EN : Fld := ⟨R.PSC_CTRL, 31, 31⟩
def F.PSC_CTRL_ABORT : Fld := ⟨R.PSC_CTRL, 30, 30⟩
def F.PSC_CTRL_RXDLY : Fld := ⟨R.PSC_CTRL, 10, 8⟩
def F.PSC_CTRL_CPOL : Fld := ⟨R.PSC_CTRL, 5, 5⟩
def F.PSC_CTRL_CPHA : Fld := ⟨R.PSC_CTRL, 4, 4⟩
def F.PSC_CTRL_IRQEN : Fld := ⟨R.PSC_CTRL, 0, 0⟩
def F.PSC_STAT_BUSY : Fld := ⟨R.PSC_STAT, 31, 31⟩
def F.PSC_STAT_STALL : Fld := ⟨R.PSC_STAT, 30, 30⟩
def F.PSC_STAT_CMDLVL : Fld := ⟨R.PSC_STAT, 27, 24⟩
def F.PSC_STAT_ABORTED : Fld := ⟨R.PSC_STAT, 3, 3⟩
def F.PSC_STAT_PARTIAL : Fld := ⟨R.PSC_STAT, 2, 2⟩
def F.PSC_STAT_CMDERR : Fld := ⟨R.PSC_STAT, 1, 1⟩
def F.PSC_STAT_DONE : Fld := ⟨R.PSC_STAT, 0, 0⟩
def F.PSC_CLK_DIV : Fld := ⟨R.PSC_CLK, 7, 0⟩
def F.PSC_CSCFG_IDLE : Fld := ⟨R.PSC_CSCFG, 23, 16⟩
def F.PSC_CSCFG_HOLD : Fld := ⟨R.PSC_CSCFG, 15, 8⟩
def F.PSC_CSCFG_SETUP : Fld := ⟨R.PSC_CSCFG, 7, 0⟩
def F.PSC_CMD_CS : Fld := ⟨R.PSC_CMD, 31, 30⟩
def F.PSC_CMD_HOLD : Fld := ⟨R.PSC_CMD, 29, 29⟩
def F.PSC_CMD_LANES : Fld := ⟨R.PSC_CMD, 28, 27⟩
def F.PSC_CMD_DIR : Fld := ⟨R.PSC_CMD, 26, 25⟩
def F.PSC_CMD_WM1 : Fld := ⟨R.PSC_CMD, 24, 20⟩
def F.PSC_CMD_NBITSM1 : Fld := ⟨R.PSC_CMD, 15, 0⟩
def F.PSC_TXDATA_DATA : Fld := ⟨R.PSC_TXDATA, 31, 0⟩
def F.PSC_RXDATA_DATA : Fld := ⟨R.PSC_RXDATA, 31, 0⟩
def F.PSC_RXINFO_VALID : Fld := ⟨R.PSC_RXINFO, 31, 31⟩
def F.PSC_RXINFO_PARTIAL : Fld := ⟨R.PSC_RXINFO, 30, 30⟩
def F.PSC_RXINFO_NBITS : Fld := ⟨R.PSC_RXINFO, 5, 0⟩
def F.PSC_LEVEL_TX : Fld := ⟨R.PSC_LEVEL, 21, 16⟩
def F.PSC_LEVEL_RX : Fld := ⟨R.PSC_LEVEL, 5, 0⟩
def F.I2C_CTRL_EN : Fld := ⟨R.I2C_CTRL, 31, 31⟩
def F.I2C_CTRL_CLEAR : Fld := ⟨R.I2C_CTRL, 30, 30⟩
def F.I2C_CTRL_SPEED : Fld := ⟨R.I2C_CTRL, 5, 4⟩
def F.I2C_CTRL_IRQEN : Fld := ⟨R.I2C_CTRL, 0, 0⟩
def F.I2C_STAT_BUSY : Fld := ⟨R.I2C_STAT, 31, 31⟩
def F.I2C_STAT_BBUSY : Fld := ⟨R.I2C_STAT, 30, 30⟩
def F.I2C_STAT_COUNT : Fld := ⟨R.I2C_STAT, 24, 16⟩
def F.I2C_STAT_CLRFAIL : Fld := ⟨R.I2C_STAT, 5, 5⟩
def F.I2C_STAT_DONE : Fld := ⟨R.I2C_STAT, 4, 4⟩
def F.I2C_STAT_TIMEOUT : Fld := ⟨R.I2C_STAT, 3, 3⟩
def F.I2C_STAT_ARBLOST : Fld := ⟨R.I2C_STAT, 2, 2⟩
def F.I2C_STAT_DNACK : Fld := ⟨R.I2C_STAT, 1, 1⟩
def F.I2C_STAT_ANACK : Fld := ⟨R.I2C_STAT, 0, 0⟩
def F.I2C_TO_MS : Fld := ⟨R.I2C_TO, 7, 0⟩
def F.I2C_XFER_GO : Fld := ⟨R.I2C_XFER, 31, 31⟩
def F.I2C_XFER_TEN : Fld := ⟨R.I2C_XFER, 30, 30⟩
def F.I2C_XFER_NOSTOP : Fld := ⟨R.I2C_XFER, 29, 29⟩
def F.I2C_XFER_RD : Fld := ⟨R.I2C_XFER, 28, 28⟩
def F.I2C_XFER_ADDR : Fld := ⟨R.I2C_XFER, 25, 16⟩
def F.I2C_XFER_LEN : Fld := ⟨R.I2C_XFER, 8, 0⟩
def F.I2C_DATA_BYTE : Fld := ⟨R.I2C_DATA, 7, 0⟩
def F.I2C_LEVEL_TX : Fld := ⟨R.I2C_LEVEL, 20, 16⟩
def F.I2C_LEVEL_RX : Fld := ⟨R.I2C_LEVEL, 4, 0⟩
def F.GPIO_DIR_DIR : Fld := ⟨R.GPIO_DIR, 7, 0⟩
def F.GPIO_OUT_OUT : Fld := ⟨R.GPIO_OUT, 7, 0⟩
def F.GPIO_SET_BITS : Fld := ⟨R.GPIO_SET, 7, 0⟩
def F.GPIO_CLR_BITS : Fld := ⟨R.GPIO_CLR, 7, 0⟩
def F.GPIO_IN_IN : Fld := ⟨R.GPIO_IN, 7, 0⟩
def F.GPIO_EVT_OVR : Fld := ⟨R.GPIO_EVT, 15, 8⟩
def F.GPIO_EVT_EVT : Fld := ⟨R.GPIO_EVT, 7, 0⟩
def F.GPIO_IE_IE : Fld := ⟨R.GPIO_IE, 7, 0⟩
def F.GPIO_WAKE_EN : Fld := ⟨R.GPIO_WAKE, 23, 16⟩
def F.GPIO_WAKE_RISE : Fld := ⟨R.GPIO_WAKE, 15, 8⟩
def F.GPIO_WAKE_WFILT : Fld := ⟨R.GPIO_WAKE, 1, 0⟩
def F.GPIO_EDGE_EDGE : Fld := ⟨R.GPIO_EDGE, 15, 0⟩
def F.GPIO_FILT_UNIT (k : Nat) : Fld := ⟨R.GPIO_FILT k, 16, 16⟩
def F.GPIO_FILT_COUNT (k : Nat) : Fld := ⟨R.GPIO_FILT k, 15, 0⟩

-- Chapter 15 (R453).
def F.XMP_CTRL_EN : Fld := ⟨R.XMP_CTRL, 31, 31⟩
def F.XMP_CTRL_XIPEN : Fld := ⟨R.XMP_CTRL, 30, 30⟩
def F.XMP_CTRL_XIPLOCK : Fld := ⟨R.XMP_CTRL, 29, 29⟩
def F.XMP_CTRL_FRST : Fld := ⟨R.XMP_CTRL, 28, 28⟩
def F.XMP_CTRL_ABORT : Fld := ⟨R.XMP_CTRL, 27, 27⟩
def F.XMP_CTRL_CINV : Fld := ⟨R.XMP_CTRL, 26, 26⟩
def F.XMP_CTRL_IRQEN : Fld := ⟨R.XMP_CTRL, 0, 0⟩
def F.XMP_STAT_BUSY : Fld := ⟨R.XMP_STAT, 31, 31⟩
def F.XMP_STAT_XIPACT : Fld := ⟨R.XMP_STAT, 30, 30⟩
def F.XMP_STAT_CMDERR : Fld := ⟨R.XMP_STAT, 8, 8⟩
def F.XMP_STAT_XIPERR : Fld := ⟨R.XMP_STAT, 7, 7⟩
def F.XMP_STAT_INTEG : Fld := ⟨R.XMP_STAT, 6, 6⟩
def F.XMP_STAT_ECCU : Fld := ⟨R.XMP_STAT, 5, 5⟩
def F.XMP_STAT_ECCC : Fld := ⟨R.XMP_STAT, 4, 4⟩
def F.XMP_STAT_TIMEOUT : Fld := ⟨R.XMP_STAT, 3, 3⟩
def F.XMP_STAT_ABORTED : Fld := ⟨R.XMP_STAT, 2, 2⟩
def F.XMP_STAT_DONE : Fld := ⟨R.XMP_STAT, 1, 1⟩
def F.XMP_CLK_RXDLY : Fld := ⟨R.XMP_CLK, 15, 8⟩
def F.XMP_CLK_DIV : Fld := ⟨R.XMP_CLK, 7, 0⟩
def F.XMP_POLL_OPCODE : Fld := ⟨R.XMP_POLL, 31, 24⟩
def F.XMP_POLL_BIT : Fld := ⟨R.XMP_POLL, 23, 21⟩
def F.XMP_POLL_BUSYPOL : Fld := ⟨R.XMP_POLL, 20, 20⟩
def F.XMP_POLL_DUMMY : Fld := ⟨R.XMP_POLL, 19, 16⟩
def F.XMP_POLL_TOMS : Fld := ⟨R.XMP_POLL, 15, 0⟩
def F.XMP_SUSP_SUSPOP : Fld := ⟨R.XMP_SUSP, 31, 24⟩
def F.XMP_SUSP_RESOP : Fld := ⟨R.XMP_SUSP, 23, 16⟩
def F.XMP_SUSP_EN : Fld := ⟨R.XMP_SUSP, 0, 0⟩
def F.XMP_CMD0_CS : Fld := ⟨R.XMP_CMD0, 31, 31⟩
def F.XMP_CMD0_CLN : Fld := ⟨R.XMP_CMD0, 30, 29⟩
def F.XMP_CMD0_CDTR : Fld := ⟨R.XMP_CMD0, 28, 28⟩
def F.XMP_CMD0_ALN : Fld := ⟨R.XMP_CMD0, 27, 26⟩
def F.XMP_CMD0_ADTR : Fld := ⟨R.XMP_CMD0, 25, 25⟩
def F.XMP_CMD0_DLN : Fld := ⟨R.XMP_CMD0, 24, 23⟩
def F.XMP_CMD0_DDTR : Fld := ⟨R.XMP_CMD0, 22, 22⟩
def F.XMP_CMD0_ABYTES : Fld := ⟨R.XMP_CMD0, 21, 20⟩
def F.XMP_CMD0_CMD2B : Fld := ⟨R.XMP_CMD0, 19, 19⟩
def F.XMP_CMD0_DQSEN : Fld := ⟨R.XMP_CMD0, 18, 18⟩
def F.XMP_CMD0_OPCODE : Fld := ⟨R.XMP_CMD0, 7, 0⟩
def F.XMP_CMD1_GO : Fld := ⟨R.XMP_CMD1, 31, 31⟩
def F.XMP_CMD1_DIR : Fld := ⟨R.XMP_CMD1, 30, 30⟩
def F.XMP_CMD1_ECC : Fld := ⟨R.XMP_CMD1, 29, 29⟩
def F.XMP_CMD1_WAITRDY : Fld := ⟨R.XMP_CMD1, 28, 28⟩
def F.XMP_CMD1_DUMMY : Fld := ⟨R.XMP_CMD1, 27, 23⟩
def F.XMP_CMD1_LEN : Fld := ⟨R.XMP_CMD1, 19, 0⟩
def F.XMP_ADDR_ADDR : Fld := ⟨R.XMP_ADDR, 31, 0⟩
def F.XMP_DATA_DATA : Fld := ⟨R.XMP_DATA, 31, 0⟩
def F.XMP_LEVEL_WORDS : Fld := ⟨R.XMP_LEVEL, 6, 0⟩
def F.XMP_ECCCFG_PARBASE : Fld := ⟨R.XMP_ECCCFG, 31, 16⟩
def F.XMP_ECCCFG_PAGE4K : Fld := ⟨R.XMP_ECCCFG, 4, 4⟩
def F.XMP_ECCCFG_MODE : Fld := ⟨R.XMP_ECCCFG, 1, 0⟩
def F.XMP_ECCCNT_MAXSEC : Fld := ⟨R.XMP_ECCCNT, 31, 24⟩
def F.XMP_ECCCNT_UNCORR : Fld := ⟨R.XMP_ECCCNT, 23, 16⟩
def F.XMP_ECCCNT_CORR : Fld := ⟨R.XMP_ECCCNT, 15, 0⟩
def F.XMP_ECCADDR_VALID : Fld := ⟨R.XMP_ECCADDR, 31, 31⟩
def F.XMP_ECCADDR_SECTOR : Fld := ⟨R.XMP_ECCADDR, 20, 0⟩
def F.XMP_XIPFAIL_VALID : Fld := ⟨R.XMP_XIPFAIL, 31, 31⟩
def F.XMP_XIPFAIL_OFFSET : Fld := ⟨R.XMP_XIPFAIL, 25, 0⟩
def F.XMP_XIPCMD0_CS : Fld := ⟨R.XMP_XIPCMD0, 31, 31⟩
def F.XMP_XIPCMD0_CLN : Fld := ⟨R.XMP_XIPCMD0, 30, 29⟩
def F.XMP_XIPCMD0_CDTR : Fld := ⟨R.XMP_XIPCMD0, 28, 28⟩
def F.XMP_XIPCMD0_ALN : Fld := ⟨R.XMP_XIPCMD0, 27, 26⟩
def F.XMP_XIPCMD0_ADTR : Fld := ⟨R.XMP_XIPCMD0, 25, 25⟩
def F.XMP_XIPCMD0_DLN : Fld := ⟨R.XMP_XIPCMD0, 24, 23⟩
def F.XMP_XIPCMD0_DDTR : Fld := ⟨R.XMP_XIPCMD0, 22, 22⟩
def F.XMP_XIPCMD0_ABYTES : Fld := ⟨R.XMP_XIPCMD0, 21, 20⟩
def F.XMP_XIPCMD0_CMD2B : Fld := ⟨R.XMP_XIPCMD0, 19, 19⟩
def F.XMP_XIPCMD0_DQSEN : Fld := ⟨R.XMP_XIPCMD0, 18, 18⟩
def F.XMP_XIPCMD0_OPCODE : Fld := ⟨R.XMP_XIPCMD0, 7, 0⟩
def F.XMP_XIPCMD1_DUMMY : Fld := ⟨R.XMP_XIPCMD1, 27, 23⟩
def F.XIP_BASE_VALID (k : Nat) : Fld := ⟨R.XIP_BASE k, 31, 31⟩
def F.XIP_BASE_OFFSET (k : Nat) : Fld := ⟨R.XIP_BASE k, 25, 0⟩
def F.XIP_SIZE_BYTES (k : Nat) : Fld := ⟨R.XIP_SIZE k, 26, 0⟩
def F.XIP_TREE_OFFSET (k : Nat) : Fld := ⟨R.XIP_TREE k, 25, 0⟩
def F.XIP_VER_VER (k : Nat) : Fld := ⟨R.XIP_VER k, 31, 0⟩
def F.XIP_ROOT_ROOT (i : Nat) (k : Nat) : Fld := ⟨R.XIP_ROOT i k, 31, 0⟩

-- Chapter 16 (R473).
def F.SEC_CTRL_ROMDONE : Fld := ⟨R.SEC_CTRL, 31, 31⟩
def F.SEC_CTRL_PGMLOCK : Fld := ⟨R.SEC_CTRL, 30, 30⟩
def F.SEC_CTRL_KCLR : Fld := ⟨R.SEC_CTRL, 29, 29⟩
def F.SEC_CTRL_IRQEN : Fld := ⟨R.SEC_CTRL, 0, 0⟩
def F.SEC_STAT_LC : Fld := ⟨R.SEC_STAT, 31, 30⟩
def F.SEC_STAT_HBUSY : Fld := ⟨R.SEC_STAT, 29, 29⟩
def F.SEC_STAT_VBUSY : Fld := ⟨R.SEC_STAT, 28, 28⟩
def F.SEC_STAT_KBUSY : Fld := ⟨R.SEC_STAT, 27, 27⟩
def F.SEC_STAT_PBUSY : Fld := ⟨R.SEC_STAT, 26, 26⟩
def F.SEC_STAT_PGMERR : Fld := ⟨R.SEC_STAT, 2, 2⟩
def F.SEC_STAT_KDFERR : Fld := ⟨R.SEC_STAT, 1, 1⟩
def F.SEC_STAT_DONE : Fld := ⟨R.SEC_STAT, 0, 0⟩
def F.SEC_ARB_COUNT : Fld := ⟨R.SEC_ARB, 7, 0⟩
def F.SEC_KEYREV_REV : Fld := ⟨R.SEC_KEYREV, 3, 0⟩
def F.SEC_KDFBOUND_SET : Fld := ⟨R.SEC_KDFBOUND, 31, 31⟩
def F.SEC_KDFBOUND_CLOSED : Fld := ⟨R.SEC_KDFBOUND, 30, 30⟩
def F.SEC_KDFBOUND_BOUND : Fld := ⟨R.SEC_KDFBOUND, 7, 0⟩
def F.SEC_KDFCMD_GO : Fld := ⟨R.SEC_KDFCMD, 31, 31⟩
def F.SEC_KDFCMD_VER : Fld := ⟨R.SEC_KDFCMD, 7, 0⟩
def F.SEC_HCTRL_START : Fld := ⟨R.SEC_HCTRL, 31, 31⟩
def F.SEC_HCTRL_FINISH : Fld := ⟨R.SEC_HCTRL, 30, 30⟩
def F.SEC_HCTRL_LAST : Fld := ⟨R.SEC_HCTRL, 1, 0⟩
def F.SEC_HDATA_DATA : Fld := ⟨R.SEC_HDATA, 31, 0⟩
def F.SEC_VCTRL_GO : Fld := ⟨R.SEC_VCTRL, 31, 31⟩
def F.SEC_VCTRL_VALID : Fld := ⟨R.SEC_VCTRL, 1, 1⟩
def F.SEC_VCTRL_PASS : Fld := ⟨R.SEC_VCTRL, 0, 0⟩
def F.SEC_FUSECMD_GO : Fld := ⟨R.SEC_FUSECMD, 31, 31⟩
def F.SEC_FUSECMD_BIT : Fld := ⟨R.SEC_FUSECMD, 11, 0⟩
def F.SEC_KDFP_PURPOSE (k : Nat) : Fld := ⟨R.SEC_KDFP k, 31, 0⟩
def F.SEC_KOUT_KEY (k : Nat) : Fld := ⟨R.SEC_KOUT k, 31, 0⟩
def F.SEC_HOUT_DIGEST (k : Nat) : Fld := ⟨R.SEC_HOUT k, 31, 0⟩
def F.SEC_VIN_DATA (k : Nat) : Fld := ⟨R.SEC_VIN k, 31, 0⟩
def F.SEC_FUSE_DATA (k : Nat) : Fld := ⟨R.SEC_FUSE k, 31, 0⟩

-- Chapter 17 (R513).
def F.DMA_CTRL_EN : Fld := ⟨R.DMA_CTRL, 31, 31⟩
def F.DMA_CTRL_CLRHALT : Fld := ⟨R.DMA_CTRL, 30, 30⟩
def F.DMA_CTRL_IRQEN : Fld := ⟨R.DMA_CTRL, 0, 0⟩
def F.DMA_STAT_HALTED : Fld := ⟨R.DMA_STAT, 31, 31⟩
def F.DMA_STAT_ACTIVE : Fld := ⟨R.DMA_STAT, 15, 0⟩
def F.DMA_ERR_VALID : Fld := ⟨R.DMA_ERR, 31, 31⟩
def F.DMA_ERR_KIND : Fld := ⟨R.DMA_ERR, 30, 28⟩
def F.DMA_ERR_CH : Fld := ⟨R.DMA_ERR, 19, 16⟩
def F.DMA_ERRADDR_ADDR : Fld := ⟨R.DMA_ERRADDR, 31, 0⟩
def F.DMA_DONE_DONE : Fld := ⟨R.DMA_DONE, 15, 0⟩
def F.DMA_SWREQ_REQ : Fld := ⟨R.DMA_SWREQ, 15, 0⟩
def F.DMA_IE_IE : Fld := ⟨R.DMA_IE, 15, 0⟩
def F.CH_CTRL_GO (k : Nat) : Fld := ⟨R.CH_CTRL k, 31, 31⟩
def F.CH_CTRL_STOP (k : Nat) : Fld := ⟨R.CH_CTRL k, 30, 30⟩
def F.CH_CTRL_PRIO (k : Nat) : Fld := ⟨R.CH_CTRL k, 0, 0⟩
def F.CH_DESC_ADDR (k : Nat) : Fld := ⟨R.CH_DESC k, 31, 5⟩
def F.CH_CUR_ADDR (k : Nat) : Fld := ⟨R.CH_CUR k, 31, 0⟩
def F.CH_REM_BYTES (k : Nat) : Fld := ⟨R.CH_REM k, 23, 0⟩

/-! ## Rows of each block, by the slot of its base (R32) -/

def regRows00 : List RegRow := [
  ⟨0x40000000, 1, 4, 1, 0x1000, 0, 0x101, 0, 0, 0, 0x80000000, 0, 0⟩,
  ⟨0x40000004, 1, 4, 1, 0x1000, 0, 0, 0, 0, 0, 0, 0, 0xFFC00000⟩,
  ⟨0x40000008, 1, 4, 1, 0x1000, 0, 0xFFFFFF, 0, 0, 0, 0, 0, 0⟩,
  ⟨0x4000000C, 1, 4, 1, 0x1000, 1, 0xFE07, 0, 0, 0, 0, 0, 0⟩,
  ⟨0x40000010, 1, 4, 1, 0x1000, 0, 0, 0xFF00, 0, 0, 0, 0, 0⟩,
  ⟨0x40000014, 1, 4, 1, 0x1000, 0, 0xFFFFFFFF, 0, 0, 0, 0, 0, 0⟩,
  ⟨0x40000018, 1, 4, 1, 0x1000, 0, 0, 0, 0, 0, 0, 0, 0xFFFFFFFF⟩,
  ⟨0x4000001C, 1, 4, 1, 0x1000, 0, 0, 0, 0, 0, 0, 0, 0x3FFFFFF⟩,
  ⟨0x40000020, 1, 4, 1, 0x1000, 1, 0xFF, 0, 0, 0, 0, 0, 0⟩,
  ⟨0x40000030, 1, 4, 1, 0x1000, 0, 0xFFFFFFFF, 0, 0, 0, 0, 0, 0⟩,
  ⟨0x40000034, 1, 4, 1, 0x1000, 0, 0xFFFFFFFF, 0, 0, 0, 0, 0, 0⟩,
  ⟨0x40000100, 64, 4, 1, 0x1000, 0, 0xFFFFFFFF, 0, 0, 0, 0, 0, 0⟩]
def regRows01a : List RegRow := [
  ⟨0x40010000, 1, 4, 1, 0x1000, 0, 0x1010F, 0, 0, 0, 0x80000000, 0, 0⟩,
  ⟨0x40010004, 1, 4, 1, 0x1000, 0, 0, 0, 0, 0, 0, 0, 0xC000000F⟩,
  ⟨0x40010008, 1, 4, 1, 0x1000, 0x28, 0x7F, 0, 0, 0, 0, 0, 0⟩,
  ⟨0x4001000C, 1, 4, 1, 0x1000, 0, 0xFFFFFFFF, 0, 0, 0, 0, 0, 0⟩,
  ⟨0x40010010, 1, 4, 1, 0x1000, 0, 0, 0x3F, 0, 0, 0, 0, 0x1F0000⟩,
  ⟨0x40010014, 1, 4, 1, 0x1000, 0, 1, 0, 0, 0, 0, 0, 0x80000000⟩,
  ⟨0x40010040, 17, 4, 1, 0x1000, 4, 0x1F, 0, 0, 0, 0, 0, 0⟩,
  ⟨0x40010100, 2, 0x40, 1, 0x1000, 0xA0, 0x800001E2, 0, 0, 0, 0x19, 0, 0⟩,
  ⟨0x40010104, 1, 4, 1, 0x10000, 0xF0200, 0xD73FFFFF, 0, 0, 0, 0, 0, 0⟩,
  ⟨0x40010144, 1, 4, 1, 0x10000, 0xE0200, 0xD73FFFFF, 0, 0, 0, 0, 0, 0⟩,
  ⟨0x40010108, 1, 4, 1, 0x10000, 0xBA8826AA, 0xFFFFFFFF, 0, 0, 0, 0, 0, 0⟩,
  ⟨0x40010148, 1, 4, 1, 0x10000, 0x736049EC, 0xFFFFFFFF, 0, 0, 0, 0, 0, 0⟩,
  ⟨0x4001010C, 1, 4, 1, 0x10000, 0xF, 0x3F, 0, 0, 0, 0, 0, 0⟩,
  ⟨0x4001014C, 1, 4, 1, 0x10000, 0xE, 0x3F, 0, 0, 0, 0, 0, 0⟩,
  ⟨0x40010110, 1, 4, 1, 0x10000, 0xBA8826AA, 0xFFFFFFFF, 0, 0, 0, 0, 0, 0⟩,
  ⟨0x40010150, 1, 4, 1, 0x10000, 0x736049EC, 0xFFFFFFFF, 0, 0, 0, 0, 0, 0⟩,
  ⟨0x40010114, 2, 0x40, 1, 0x1000, 0x3200C8, 0x3FF03FF, 0, 0, 0, 0, 0, 0⟩,
  ⟨0x40010118, 2, 0x40, 1, 0x1000, 1, 0xFFFFFF, 0, 0, 0, 0, 0, 0⟩,
  ⟨0x4001011C, 2, 0x40, 1, 0x1000, 0, 0, 0, 0, 0, 0x1FFF, 0, 0⟩,
  ⟨0x40010120, 2, 0x40, 1, 0x1000, 0, 0, 0, 0, 0, 0, 0, 0xFFFFFFFF⟩]
def regRows01b : List RegRow := [
  ⟨0x40010124, 2, 0x40, 1, 0x1000, 0, 0, 0x3E, 0, 0, 0, 0, 0xF0000000⟩,
  ⟨0x40010128, 2, 0x40, 1, 0x1000, 0, 0, 0, 0, 0, 0, 0, 0xD73FFFFF⟩,
  ⟨0x4001012C, 2, 0x40, 1, 0x1000, 0, 0, 0, 0, 0, 0, 0, 0xFFFFFFFF⟩,
  ⟨0x40010130, 2, 0x40, 1, 0x1000, 0, 0, 0, 0, 0, 0, 0, 0xFFFFFFFF⟩,
  ⟨0x40010200, 1, 4, 1, 0x10000, 3, 0x800001FF, 0, 0, 0, 0, 0, 0⟩,
  ⟨0x40010204, 1, 4, 1, 0x10000, 0x103, 0x800001FF, 0, 0, 0, 0, 0, 0⟩]
def regRows02a : List RegRow := [
  ⟨0x40020000, 1, 4, 1, 0x1000, 0, 1, 0, 0, 0, 0xC0000000, 0, 0⟩,
  ⟨0x40020004, 1, 4, 1, 0x1000, 0x80000000, 0, 7, 0, 0, 0, 0, 0xC0000000⟩,
  ⟨0x40020008, 1, 4, 1, 0x1000, 0, 0, 0, 0, 0, 0, 0, 0x3FFFFFFF⟩,
  ⟨0x4002000C, 1, 4, 1, 0x1000, 0, 0, 0, 0, 0, 0, 0, 0xFFFF⟩,
  ⟨0x40020010, 1, 4, 1, 0x1000, 0, 0, 0, 0, 0, 0, 0, 0xFFFFFFFF⟩,
  ⟨0x40020014, 1, 4, 1, 0x1000, 0, 0, 0, 0, 0, 0, 0, 0xFFFF⟩,
  ⟨0x40020018, 1, 4, 1, 0x1000, 0, 0xFFFFFFFF, 0, 0, 0, 0, 0, 0⟩,
  ⟨0x4002001C, 1, 4, 1, 0x1000, 0x77359400, 0xFFFFFFFF, 0, 0, 0, 0, 0, 0⟩,
  ⟨0x4002002C, 1, 4, 1, 0x1000, 0, 0xFFFFFFFF, 0, 0, 0, 0, 0, 0⟩,
  ⟨0x40020038, 1, 4, 1, 0x1000, 0, 0, 0, 0, 0, 0, 0, 0xFFFFFFFF⟩,
  ⟨0x4002003C, 1, 4, 1, 0x1000, 8, 0xFF, 0, 0, 0, 0, 0, 0⟩,
  ⟨0x40020040, 1, 4, 1, 0x1000, 0, 0xFFFFFFFF, 0, 0, 0, 0, 0, 0⟩,
  ⟨0x400200C0, 1, 4, 1, 0x1000, 0, 0x30, 0xC, 0, 0, 0, 0, 0x1F00⟩,
  ⟨0x400200E0, 1, 4, 1, 0x1000, 0, 0xF, 0x30, 0, 0, 0xC0000000, 0, 0⟩,
  ⟨0x40020030, 1, 4, 1, 0x1000, 0, 0xFFFFFFFF, 0, 0, 0, 0, 0, 0⟩,
  ⟨0x40020034, 1, 4, 1, 0x1000, 0, 0xFFFFFFFF, 0, 0, 0, 0, 0, 0⟩,
  ⟨0x40020020, 1, 4, 1, 0x1000, 0, 0x3FFFFFFF, 0, 0, 0, 0, 0, 0⟩,
  ⟨0x40020024, 1, 4, 1, 0x1000, 0, 0xFFFFFFFF, 0, 0, 0, 0, 0, 0⟩,
  ⟨0x40020028, 1, 4, 1, 0x1000, 0, 0xFFFF, 0, 0, 0, 0, 0, 0⟩,
  ⟨0x40020080, 2, 0x20, 1, 0x1000, 0, 0x20000000, 6, 0, 0, 0xC0000000, 0, 8⟩]
def regRows02b : List RegRow := [
  ⟨0x40020084, 2, 0x20, 1, 0x1000, 0, 0x3FFFFFFF, 0, 0, 0, 0, 0, 0⟩,
  ⟨0x40020088, 2, 0x20, 1, 0x1000, 0, 0xFFFFFFFF, 0, 0, 0, 0, 0, 0⟩,
  ⟨0x4002008C, 2, 0x20, 1, 0x1000, 0, 0xFFFF, 0, 0, 0, 0, 0, 0⟩,
  ⟨0x40020090, 2, 0x20, 1, 0x1000, 0, 0xFFFFFFFF, 0, 0, 0, 0, 0, 0⟩,
  ⟨0x40020094, 2, 0x20, 1, 0x1000, 0, 0xFFFFFFFF, 0, 0, 0, 0, 0, 0⟩,
  ⟨0x400200C4, 1, 4, 1, 0x1000, 0, 0, 0, 0, 0, 0, 0, 0xBFFFFFFF⟩,
  ⟨0x400200C8, 1, 4, 1, 0x1000, 0, 0, 0, 0, 0, 0, 0, 0xFFFFFFFF⟩,
  ⟨0x400200CC, 1, 4, 1, 0x1000, 0, 0, 0, 0, 0, 0, 0, 0x8000FFFF⟩,
  ⟨0x400200E4, 1, 4, 1, 0x1000, 0, 0x3FFFFFFF, 0, 0, 0, 0, 0, 0⟩,
  ⟨0x400200E8, 1, 4, 1, 0x1000, 0, 0xFFFFFFFF, 0, 0, 0, 0, 0, 0⟩,
  ⟨0x400200EC, 1, 4, 1, 0x1000, 0, 0xFFFF, 0, 0, 0, 0, 0, 0⟩]
def regRows03 : List RegRow := [
  ⟨0x40030000, 1, 4, 1, 0x1000, 0, 0x10000, 0, 0, 0, 0xF, 0, 0⟩,
  ⟨0x40030004, 1, 4, 1, 0x1000, 0, 0, 7, 0, 0, 0, 0, 0⟩,
  ⟨0x40030008, 1, 4, 1, 0x1000, 0, 0, 0x80000000, 0, 0, 0, 0, 0x7FF07FF⟩,
  ⟨0x4003000C, 1, 4, 1, 0x1000, 0, 0, 0x1FFFF, 0, 0, 0, 0, 0⟩,
  ⟨0x40030010, 1, 4, 1, 0x1000, 0, 0, 0, 0, 0, 0, 0, 0xFFFF⟩,
  ⟨0x40030100, 4, 0x40, 1, 0x1000, 2, 0x80F90007, 0, 0, 0, 0, 0, 0⟩,
  ⟨0x40030104, 4, 0x40, 1, 0x1000, 0x400, 0xFFFF, 0, 0, 0, 0, 0, 0⟩,
  ⟨0x40030108, 4, 0x40, 1, 0x1000, 0, 0xFFFFFFFF, 0, 0, 0, 0, 0, 0⟩,
  ⟨0x4003010C, 4, 0x40, 1, 0x1000, 0, 0xFFFFFFFF, 0, 0, 0, 0, 0, 0⟩,
  ⟨0x40030110, 4, 0x40, 1, 0x1000, 0, 0xFFFFFFFF, 0, 0, 0, 0, 0, 0⟩,
  ⟨0x40030114, 4, 0x40, 1, 0x1000, 0, 0, 0, 0, 0, 0, 0, 0xFFFFFFFF⟩,
  ⟨0x40030118, 4, 0x40, 1, 0x1000, 0, 0, 0, 0, 0, 0, 0, 0xFFFFFFFF⟩,
  ⟨0x4003011C, 4, 0x40, 1, 0x1000, 0, 0, 0, 0, 0, 0, 0, 0xE00000FF⟩,
  ⟨0x40030120, 4, 0x40, 1, 0x1000, 0, 0, 0, 0, 0, 0, 0, 0x3FFFFFFF⟩,
  ⟨0x40030124, 4, 0x40, 1, 0x1000, 0, 0, 0, 0, 0, 0, 0, 0xFFFF⟩,
  ⟨0x40030128, 4, 0x40, 1, 0x1000, 0, 0, 0, 0, 0, 0, 0, 0xFFFFFFFF⟩,
  ⟨0x4003012C, 4, 0x40, 1, 0x1000, 0, 0, 0, 0, 0, 0, 0, 0xFFFF⟩,
  ⟨0x40031000, 2048, 4, 1, 0x2000, 0, 0, 0, 0, 0, 0, 0, 0xB7FF007F⟩,
  ⟨0x40034000, 2048, 4, 1, 0x2000, 0, 0, 0, 0, 0, 0, 0, 0xFFFFFFFF⟩]
def regRows04 : List RegRow := [
  ⟨0x40040000, 1, 4, 1, 0x1000, 0, 1, 0, 0, 0, 0, 0, 0⟩,
  ⟨0x40040004, 1, 4, 1, 0x1000, 0, 0, 0x70000, 0, 0, 0, 0, 0xE00000FF⟩,
  ⟨0x40040008, 1, 4, 1, 0x1000, 0, 0xFFFFFFFF, 0, 0, 0, 0, 0, 0⟩,
  ⟨0x4004000C, 1, 4, 1, 0x1000, 0, 0xFFFFFFFF, 0, 0, 0, 0, 0, 0⟩,
  ⟨0x40040010, 1, 4, 1, 0x1000, 0, 0, 0, 0, 0, 0, 0, 0xFFFFFFFF⟩,
  ⟨0x40040014, 1, 4, 1, 0x1000, 0, 0, 0, 0, 0, 0, 0, 0xFFFFFFFF⟩,
  ⟨0x40040040, 1, 4, 1, 0x1000, 0, 0x1F3F, 0, 0, 0, 0, 0, 0⟩,
  ⟨0x40040044, 1, 4, 1, 0x1000, 0, 0, 0, 0, 0, 0, 0, 0xFFFFFFFF⟩,
  ⟨0x40040048, 1, 4, 1, 0x1000, 0, 0, 0, 0, 0, 0, 0, 0xFFFFFFFF⟩,
  ⟨0x4004004C, 1, 4, 1, 0x1000, 0, 0, 0, 0, 0, 0, 0, 0xFFFFFFFF⟩]
def regRows05 : List RegRow := [
  ⟨0x40050000, 1, 4, 1, 0x1000, 0, 0xFFFFFFC0, 0, 0, 0, 0, 0, 0⟩,
  ⟨0x40050010, 2, 4, 1, 0x1000, 0, 0, 0xFFFFFFFF, 0, 0, 0, 0, 0⟩,
  ⟨0x40050018, 2, 4, 1, 0x1000, 0, 0, 0xFFFFFFFF, 0, 0, 0, 0, 0⟩,
  ⟨0x40050020, 2, 4, 1, 0x1000, 0, 0xFFFFFFFF, 0, 0, 0, 0, 0, 0⟩,
  ⟨0x40050028, 2, 4, 1, 0x1000, 0, 0xFFFFFFFF, 0, 0, 0, 0, 0, 0⟩]
def regRows06 : List RegRow := [
  ⟨0x40060000, 1, 4, 1, 0x1000, 0, 0x80000001, 0, 0, 0, 0x40000000, 0, 0⟩,
  ⟨0x40060004, 1, 4, 1, 0x1000, 0, 0, 0, 0, 0, 0, 0, 0x8000FFFF⟩,
  ⟨0x40060008, 1, 4, 1, 0x1000, 0, 0, 0, 0, 0, 0, 0, 0xF00F0000⟩,
  ⟨0x4006000C, 1, 4, 1, 0x1000, 0, 0, 0, 0, 0, 0, 0, 0xFFFFFFFF⟩,
  ⟨0x40060010, 1, 4, 1, 0x1000, 0, 0, 0xFFFF, 0, 0, 0, 0, 0⟩,
  ⟨0x40060014, 1, 4, 1, 0x1000, 0, 0, 0, 0xFFFF, 0, 0, 0, 0⟩,
  ⟨0x40060018, 1, 4, 1, 0x1000, 0, 0xFFFF, 0, 0, 0, 0, 0, 0⟩,
  ⟨0x40060100, 16, 0x20, 1, 0x1000, 0, 1, 0, 0, 0, 0xC0000000, 0, 0⟩,
  ⟨0x40060104, 16, 0x20, 1, 0x1000, 0, 0xFFFFFFE0, 0, 0, 0, 0, 0, 0⟩,
  ⟨0x40060108, 16, 0x20, 1, 0x1000, 0, 0, 0, 0, 0, 0, 0, 0xFFFFFFFF⟩,
  ⟨0x4006010C, 16, 0x20, 1, 0x1000, 0, 0, 0, 0, 0, 0, 0, 0xFFFFFF⟩]
def regRows07 : List RegRow := [
  ⟨0x40070000, 1, 4, 1, 0x1000, 0, 1, 0, 0, 0, 0, 0, 0⟩,
  ⟨0x40070004, 1, 4, 1, 0x1000, 0, 0, 4, 0, 0, 0, 0, 0x1F0003⟩,
  ⟨0x40070008, 1, 4, 1, 0x1000, 0, 0, 0, 0, 0, 0, 0, 0xFFF⟩,
  ⟨0x40070100, 24, 4, 1, 0x1000, 0, 0, 0, 0, 0, 0, 0, 0xFFF⟩,
  ⟨0x40070800, 1, 4, 1, 0x1000, 0, 2, 0, 0, 0, 1, 0, 0⟩,
  ⟨0x40070804, 1, 4, 1, 0x1000, 0, 0, 1, 0, 0, 0, 0, 2⟩,
  ⟨0x40070808, 1, 4, 1, 0x1000, 0, 0, 0, 0, 0, 0, 0, 0xFFFF⟩,
  ⟨0x40070900, 23, 4, 1, 0x1000, 0, 0, 0, 0, 0, 0, 0, 0xFFFFFF⟩,
  ⟨0x40070A00, 23, 4, 1, 0x1000, 0, 0, 0, 0, 0, 0, 0, 0xFFFFFF⟩,
  ⟨0x40070B00, 17, 4, 1, 0x1000, 0x10, 0x1F, 0, 0, 0, 0, 0, 0⟩]
def regRows08 : List RegRow := [
  ⟨0x40080000, 1, 4, 1, 0x1000, 0, 1, 0, 0xC0000000, 0, 0x20000000, 0, 0⟩,
  ⟨0x40080004, 1, 4, 1, 0x1000, 0, 0, 7, 0, 0, 0, 0, 0xFC000000⟩,
  ⟨0x40080008, 1, 4, 1, 0x1000, 0, 0, 0, 0, 0, 0, 0, 0xFF⟩,
  ⟨0x4008000C, 1, 4, 1, 0x1000, 0, 0, 0, 0, 0, 0, 0, 0xF⟩,
  ⟨0x40080010, 1, 4, 1, 0x1000, 0, 0, 0, 0xC0000000, 0, 0, 0xFF, 0⟩,
  ⟨0x40080014, 1, 4, 1, 0x1000, 0, 0xFF, 0, 0, 0, 0x80000000, 0, 0⟩,
  ⟨0x40080080, 1, 4, 1, 0x1000, 0, 3, 0, 0, 0, 0xC0000000, 0, 0⟩,
  ⟨0x40080084, 1, 4, 1, 0x1000, 0, 0, 0, 0, 0, 0xFFFFFFFF, 0, 0⟩,
  ⟨0x400801A0, 1, 4, 1, 0x1000, 0, 0, 0, 0, 0, 0x80000000, 0, 3⟩,
  ⟨0x40080200, 1, 4, 1, 0x1000, 0, 0xFFF, 0, 0, 0, 0x80000000, 0, 0⟩,
  ⟨0x40080020, 4, 4, 1, 0x1000, 0, 0xFFFFFFFF, 0, 0, 0, 0, 0, 0⟩,
  ⟨0x40080040, 8, 4, 1, 0x1000, 0, 0, 0, 0, 0, 0, 0, 0xFFFFFFFF⟩,
  ⟨0x400800A0, 8, 4, 1, 0x1000, 0, 0, 0, 0, 0, 0, 0, 0xFFFFFFFF⟩,
  ⟨0x40080100, 40, 4, 1, 0x1000, 0, 0xFFFFFFFF, 0, 0, 0, 0, 0, 0⟩,
  ⟨0x40080400, 128, 4, 1, 0x1000, 0, 0, 0, 0, 0, 0, 0, 0xFFFFFFFF⟩]
/-- The XMP registers (R453).  DESIGN CHOICE (log 44): XMP_XIPCMD1 uses only DUMMY of the XMP_CMD1 layout, and its other bits
count as reserved. -/
def regRows09a : List RegRow := [
  ⟨0x40090000, 1, 4, 1, 0x1000, 0, 0xD0000001, 0, 0x20000000, 0, 0xC000000, 0, 0⟩,
  ⟨0x40090004, 1, 4, 1, 0x1000, 0, 0, 0x1FE, 0, 0, 0, 0, 0xC0000000⟩,
  ⟨0x40090008, 1, 4, 1, 0x1000, 0x28, 0xFFFF, 0, 0, 0, 0, 0, 0⟩,
  ⟨0x4009000C, 1, 4, 1, 0x1000, 0x5101388, 0xFFFFFFFF, 0, 0, 0, 0, 0, 0⟩,
  ⟨0x40090010, 1, 4, 1, 0x1000, 0x757A0000, 0xFFFF0001, 0, 0, 0, 0, 0, 0⟩,
  ⟨0x40090014, 1, 4, 1, 0x1000, 0x100003, 0xFFFC00FF, 0, 0, 0, 0, 0, 0⟩,
  ⟨0x40090018, 1, 4, 1, 0x1000, 0, 0x7F8FFFFF, 0, 0, 0, 0x80000000, 0, 0⟩,
  ⟨0x4009001C, 1, 4, 1, 0x1000, 0, 0xFFFFFFFF, 0, 0, 0, 0, 0, 0⟩,
  ⟨0x40090020, 1, 4, 1, 0x1000, 0, 0xFFFFFFFF, 0, 0, 0, 0, 0, 0⟩,
  ⟨0x40090024, 1, 4, 1, 0x1000, 0, 0, 0, 0, 0, 0, 0, 0x7F⟩,
  ⟨0x40090030, 1, 4, 1, 0x1000, 0, 0xFFFF0013, 0, 0, 0, 0, 0, 0⟩,
  ⟨0x40090034, 1, 4, 1, 0x1000, 0, 0, 0, 0, 0xFFFFFFFF, 0, 0, 0⟩,
  ⟨0x40090038, 1, 4, 1, 0x1000, 0, 0, 0x80000000, 0, 0, 0, 0, 0x1FFFFF⟩,
  ⟨0x40090048, 1, 4, 1, 0x1000, 0, 0, 0x80000000, 0, 0, 0, 0, 0x3FFFFFF⟩,
  ⟨0x40090040, 1, 4, 1, 0x1000, 0x100003, 0, 0, 0, 0, 0, 0xFFFC00FF, 0⟩,
  ⟨0x40090044, 1, 4, 1, 0x1000, 0, 0, 0, 0, 0, 0, 0xF800000, 0⟩,
  ⟨0x40090100, 4, 0x20, 1, 0x1000, 0, 0, 0, 0, 0, 0, 0x83FFF000, 0xFFF⟩,
  ⟨0x40090104, 4, 0x20, 1, 0x1000, 0, 0, 0, 0, 0, 0, 0x7FFF000, 0xFFF⟩,
  ⟨0x40090108, 4, 0x20, 1, 0x1000, 0, 0, 0, 0, 0, 0, 0x3FFFF00, 0xFF⟩,
  ⟨0x4009010C, 4, 0x20, 1, 0x1000, 0, 0, 0, 0, 0, 0, 0xFFFFFFFF, 0⟩]
def regRows09b : List RegRow := [
  ⟨0x40090110, 4, 4, 4, 0x20, 0, 0, 0, 0, 0, 0, 0xFFFFFFFF, 0⟩]
def regRows0A : List RegRow := [
  ⟨0x400A0000, 1, 4, 1, 0x1000, 0, 0xF0000003, 0, 0, 0, 0, 0, 0⟩,
  ⟨0x400A0004, 1, 4, 1, 0x1000, 0, 0, 0x3E, 0, 0, 0, 0, 0x80000000⟩,
  ⟨0x400A0008, 1, 4, 1, 0x1000, 0, 1, 0, 0, 0, 0, 0, 0⟩,
  ⟨0x400A000C, 1, 4, 1, 0x1000, 0, 0, 0, 0, 0, 0, 0, 0xFFFFFFFF⟩,
  ⟨0x400A0010, 1, 4, 1, 0x1000, 0, 0, 0, 0, 0, 0, 0, 0xFFFFFFFF⟩,
  ⟨0x400A0014, 1, 4, 1, 0x1000, 0, 0, 0, 0, 0, 0, 0, 0xE000003F⟩,
  ⟨0x400A0018, 1, 4, 1, 0x1000, 0, 0, 0, 0, 0, 0xFFFFFFFF, 0, 0⟩,
  ⟨0x400A001C, 1, 4, 1, 0x1000, 0, 0, 0, 0, 0, 0, 0, 0x7F007F⟩,
  ⟨0x400A0020, 4, 4, 1, 0x1000, 0, 0xFFFF, 0, 0, 0, 0, 0, 0⟩]
def regRows0B : List RegRow := [
  ⟨0x400B0000, 1, 4, 1, 0x1000, 0, 0x80000731, 0, 0, 0, 0x40000000, 0, 0⟩,
  ⟨0x400B0004, 1, 4, 1, 0x1000, 0, 0, 0xF, 0, 0, 0, 0, 0xCF000000⟩,
  ⟨0x400B0008, 1, 4, 1, 0x1000, 9, 0xFF, 0, 0, 0, 0, 0, 0⟩,
  ⟨0x400B000C, 1, 4, 1, 0x1000, 0x10101, 0xFFFFFF, 0, 0, 0, 0, 0, 0⟩,
  ⟨0x400B0010, 1, 4, 1, 0x1000, 0, 0, 0, 0, 0, 0xFFF0FFFF, 0, 0⟩,
  ⟨0x400B0014, 1, 4, 1, 0x1000, 0, 0, 0, 0, 0, 0xFFFFFFFF, 0, 0⟩,
  ⟨0x400B0018, 1, 4, 1, 0x1000, 0, 0, 0, 0, 0, 0, 0, 0xFFFFFFFF⟩,
  ⟨0x400B001C, 1, 4, 1, 0x1000, 0, 0, 0, 0, 0, 0, 0, 0xC000003F⟩,
  ⟨0x400B0020, 1, 4, 1, 0x1000, 0, 0, 0, 0, 0, 0, 0, 0x3F003F⟩]
def regRows0C : List RegRow := [
  ⟨0x400C0000, 1, 4, 3, 0x1000, 0, 0xF8000007, 0, 0, 0, 0x6000000, 0, 0⟩,
  ⟨0x400C0004, 1, 4, 3, 0x1000, 0, 0x7F9, 0, 0, 0, 0, 0, 0⟩,
  ⟨0x400C0008, 1, 4, 3, 0x1000, 0x6C8, 0xFFFFF, 0, 0, 0, 0, 0, 0⟩,
  ⟨0x400C000C, 1, 4, 3, 0x1000, 0xDD, 0xFF, 0, 0, 0, 0, 0, 0⟩,
  ⟨0x400C0010, 1, 4, 3, 0x1000, 0, 0, 0x1FF, 0, 0, 0, 0, 0xFC000000⟩,
  ⟨0x400C0014, 1, 4, 3, 0x1000, 0, 0, 0, 0, 0, 0x1FF, 0, 0⟩,
  ⟨0x400C0018, 1, 4, 3, 0x1000, 0, 0, 0, 0, 0, 0, 0, 0x80000FFF⟩,
  ⟨0x400C001C, 1, 4, 3, 0x1000, 0, 0, 0, 0, 0, 0, 0, 0xFF00FF⟩,
  ⟨0x400C0020, 1, 4, 3, 0x1000, 0xFFFF00, 0xE0FFFFFF, 0, 0, 0, 0, 0, 0⟩,
  ⟨0x400C0024, 1, 4, 3, 0x1000, 0x1311, 0xC000FFFF, 0, 0, 0, 0, 0, 0⟩,
  ⟨0x400C0028, 1, 4, 3, 0x1000, 0x1010, 0x1FFFF, 0, 0, 0, 0, 0, 0⟩,
  ⟨0x400C002C, 1, 4, 1, 0x1000, 0, 0, 0, 0, 0, 0, 0, 0xFFF⟩,
  ⟨0x400C102C, 1, 4, 2, 0x1000, 0xDA, 0xFFF, 0, 0, 0, 0, 0, 0⟩,
  ⟨0x400C0030, 1, 4, 3, 0x1000, 0, 0, 0, 0, 0, 0, 0, 0x80FFFFFF⟩]
def regRows0D : List RegRow := [
  ⟨0x400D0000, 1, 4, 1, 0x1000, 0, 0x80000031, 0, 0, 0, 0x40000000, 0, 0⟩,
  ⟨0x400D0004, 1, 4, 1, 0x1000, 0, 0, 0x3F, 0, 0, 0, 0, 0xC1FF0000⟩,
  ⟨0x400D0008, 1, 4, 1, 0x1000, 0x19, 0xFF, 0, 0, 0, 0, 0, 0⟩,
  ⟨0x400D000C, 1, 4, 1, 0x1000, 0, 0x73FF01FF, 0, 0, 0, 0x80000000, 0, 0⟩,
  ⟨0x400D0010, 1, 4, 1, 0x1000, 0, 0xFF, 0, 0, 0, 0, 0, 0⟩,
  ⟨0x400D0014, 1, 4, 1, 0x1000, 0, 0, 0, 0, 0, 0, 0, 0x1F001F⟩]
def regRows0E : List RegRow := [
  ⟨0x400E0000, 1, 4, 1, 0x1000, 0, 0xFF, 0, 0, 0, 0, 0, 0⟩,
  ⟨0x400E0004, 1, 4, 1, 0x1000, 0, 0xFF, 0, 0, 0, 0, 0, 0⟩,
  ⟨0x400E0008, 1, 4, 1, 0x1000, 0, 0, 0, 0, 0, 0xFF, 0, 0⟩,
  ⟨0x400E000C, 1, 4, 1, 0x1000, 0, 0, 0, 0, 0, 0xFF, 0, 0⟩,
  ⟨0x400E0010, 1, 4, 1, 0x1000, 0, 0, 0, 0, 0, 0, 0, 0xFF⟩,
  ⟨0x400E0018, 1, 4, 1, 0x1000, 0, 0, 0xFFFF, 0, 0, 0, 0, 0⟩,
  ⟨0x400E001C, 1, 4, 1, 0x1000, 0, 0xFF, 0, 0, 0, 0, 0, 0⟩,
  ⟨0x400E0080, 1, 4, 1, 0x1000, 0, 0xFFFF03, 0, 0, 0, 0, 0, 0⟩,
  ⟨0x400E0014, 1, 4, 1, 0x1000, 0, 0xFFFF, 0, 0, 0, 0, 0, 0⟩,
  ⟨0x400E0040, 8, 4, 1, 0x1000, 0, 0x1FFFF, 0, 0, 0, 0, 0, 0⟩]
def regRows10 : List RegRow := [
  ⟨0x40100000, 1, 4, 8, 0x1000, 0, 0xFC000E01, 0, 0, 0, 0, 0, 0⟩,
  ⟨0x40100004, 1, 4, 8, 0x1000, 0, 0, 0xE, 0, 0, 0, 0, 0xE0000000⟩,
  ⟨0x40100008, 1, 4, 8, 0x1000, 0xFC21FDC, 0xFFFFFFFE, 0, 0, 0, 0, 0, 0⟩,
  ⟨0x4010000C, 1, 4, 8, 0x1000, 3, 7, 0, 0, 0, 0, 0, 0⟩,
  ⟨0x40100010, 1, 4, 8, 0x1000, 0, 0, 0, 0, 0, 0, 0, 0xFFFFFFFF⟩,
  ⟨0x40100014, 1, 4, 8, 0x1000, 0, 0, 0, 0, 0, 0, 0, 0x80FFFFFF⟩,
  ⟨0x40100018, 1, 4, 8, 0x1000, 0, 0, 0, 0, 0, 0, 0, 0x8003FFFF⟩,
  ⟨0x40100020, 4, 4, 8, 0x1000, 0, 0xFFFFFFFF, 0, 0, 0, 0, 0, 0⟩,
  ⟨0x40100100, 64, 4, 8, 0x1000, 0, 0x800007FF, 0, 0, 0, 0, 0, 0⟩,
  ⟨0x40100800, 1, 4, 1, 0x1000, 0, 0xFF0FF, 0, 0, 0, 0x80000000, 0, 0⟩]
def regRows11 : List RegRow := [
  ⟨0x40110000, 1, 4, 4, 0x1000, 0x1000, 0xF0007F31, 0, 0, 0, 0, 0, 0⟩,
  ⟨0x40110004, 1, 4, 4, 0x1000, 0, 0, 3, 0, 0, 0, 0, 0xE0000000⟩,
  ⟨0x40110008, 1, 4, 4, 0x1000, 0, 0, 0, 0, 0, 0, 0, 0x3FF⟩]
def regRows12 : List RegRow := [
  ⟨0x40120000, 1, 4, 1, 0x1000, 0, 0xF0000003, 0, 0, 0, 0, 0, 0⟩,
  ⟨0x40120004, 1, 4, 1, 0x1000, 0, 0, 0xFC, 0, 0, 0, 0, 0xFC000000⟩,
  ⟨0x40120008, 1, 4, 1, 0x1000, 0, 0, 0, 0, 0, 0, 0, 0x3FFFF⟩,
  ⟨0x4012000C, 1, 4, 1, 0x1000, 0, 0, 0, 0, 0, 0, 0, 0xFFFFFFFF⟩,
  ⟨0x40120100, 1, 4, 1, 0x1000, 0, 0xFFFFFFC0, 0, 0, 0, 0, 0, 0x3F⟩,
  ⟨0x40120104, 1, 4, 1, 0x1000, 0, 0xFFC0, 0, 0, 0, 0, 0, 0x3F⟩,
  ⟨0x40120108, 1, 4, 1, 0x1000, 0, 0, 0, 0, 0, 0, 0, 0xFFFF⟩,
  ⟨0x4012010C, 1, 4, 1, 0x1000, 0, 0xFFFF, 0, 0, 0, 0, 0, 0⟩,
  ⟨0x40120020, 6, 4, 1, 0x1000, 0, 0, 0, 0, 0, 0, 0, 0xFFFFFFFF⟩,
  ⟨0x40120040, 6, 4, 1, 0x1000, 0, 0, 0, 0, 0, 0, 0, 0xFFFFFFFF⟩,
  ⟨0x40120060, 6, 4, 1, 0x1000, 0, 0, 0, 0, 0, 0, 0, 0xFFFFFFFF⟩,
  ⟨0x40120080, 6, 4, 1, 0x1000, 0, 0, 0, 0, 0, 0, 0, 0xFFFFFFFF⟩,
  ⟨0x40121000, 1, 4, 1, 0x1000, 0, 0xF000000F, 0, 0, 0, 0x10, 0, 0⟩,
  ⟨0x40121004, 1, 4, 1, 0x1000, 0, 0, 1, 0, 0, 0, 0, 0xE0000000⟩,
  ⟨0x40121008, 2, 4, 1, 0x1000, 0, 0x800007FF, 0, 0, 0, 0, 0, 0⟩,
  ⟨0x40121020, 6, 4, 1, 0x1000, 0, 0xFFFFFFFF, 0, 0, 0, 0, 0, 0⟩,
  ⟨0x40121040, 6, 4, 1, 0x1000, 0, 0xFFFFFFFF, 0, 0, 0, 0, 0, 0⟩]
def regRows13 : List RegRow := [
  ⟨0x40130000, 1, 4, 8, 0x1000, 0x30000, 0xFF037F01, 0, 0, 0, 0, 0, 0⟩,
  ⟨0x40130004, 1, 4, 8, 0x1000, 0, 0, 0xE, 0, 0, 0, 0, 0xE0000000⟩,
  ⟨0x40130008, 1, 4, 8, 0x1000, 0, 0, 0, 0, 0, 0, 0, 0xFFFFFFFF⟩,
  ⟨0x4013000C, 1, 4, 8, 0x1000, 0, 0, 0, 0, 0, 0, 0, 0xFFFFFF⟩,
  ⟨0x40130010, 4, 4, 8, 0x1000, 0, 0x800007FF, 0, 0, 0, 0, 0, 0⟩]
def regRows14a : List RegRow := [
  ⟨0x40140000, 1, 4, 1, 0x1000, 0x12C0230, 0x81FF3771, 0, 0, 0, 0, 0, 0⟩,
  ⟨0x40140004, 1, 4, 1, 0x1000, 0, 0, 0xF, 0, 0, 0, 0, 0⟩,
  ⟨0x40140100, 1, 4, 1, 0x1000, 0, 0x67000FFF, 0, 0, 0, 0x80000000, 0, 0x18000000⟩,
  ⟨0x40140104, 1, 4, 1, 0x1000, 0, 0xFFFF, 0, 0, 0, 0, 0, 0⟩,
  ⟨0x40140108, 1, 4, 1, 0x1000, 0, 0xFFFFFFFF, 0, 0, 0, 0, 0, 0⟩,
  ⟨0x40140300, 1, 4, 1, 0x1000, 0, 0x3FFEFFFF, 0, 0, 0, 0x80000000, 0, 0x40000000⟩,
  ⟨0x40140304, 1, 4, 1, 0x1000, 0x63, 0xFF, 0, 0, 0, 0, 0, 0⟩,
  ⟨0x40140400, 1, 4, 1, 0x1000, 0, 0, 0, 0, 0, 0, 0, 0xFFFFFFFF⟩,
  ⟨0x40140040, 2, 0x40, 1, 0x1000, 0x10000001, 0xFE00EFFF, 0, 0, 0, 0, 0, 0⟩,
  ⟨0x40140044, 2, 0x40, 1, 0x1000, 0, 0, 0, 0, 0xFFFF, 0, 0, 0x80000000⟩,
  ⟨0x40140048, 2, 0x40, 1, 0x1000, 0, 0xFFFFFFFF, 0, 0, 0, 0, 0, 0⟩,
  ⟨0x4014004C, 2, 0x40, 1, 0x1000, 0, 0xFFFFFFFF, 0, 0, 0, 0, 0, 0⟩,
  ⟨0x40140050, 2, 0x40, 1, 0x1000, 0, 0xFFFFFFFF, 0, 0, 0, 0, 0, 0⟩,
  ⟨0x40140054, 2, 0x40, 1, 0x1000, 0, 0xFFFFFF, 0, 0, 0, 0, 0, 0⟩,
  ⟨0x40140058, 2, 0x40, 1, 0x1000, 0, 0x1FFFFF, 0, 0, 0, 0, 0, 0⟩,
  ⟨0x4014005C, 2, 0x40, 1, 0x1000, 0, 0x1FFFFF, 0, 0, 0, 0, 0, 0⟩,
  ⟨0x40140200, 64, 4, 1, 0x1000, 0, 0x80770FFF, 0, 0, 0, 0, 0, 0⟩,
  ⟨0x40140404, 1, 4, 1, 0x1000, 0, 0, 0, 0, 0, 0, 0, 0x3FFFFFFF⟩,
  ⟨0x40140408, 1, 4, 1, 0x1000, 0, 0, 0, 0, 0, 0, 0, 0xFFFFFFFF⟩,
  ⟨0x4014040C, 1, 4, 1, 0x1000, 0, 0, 0, 0, 0, 0, 0, 0xFFFF⟩]
def regRows14b : List RegRow := [
  ⟨0x40140500, 1, 4, 1, 0x1000, 0, 0xFFFFFFF0, 0, 0, 0, 0, 0, 0xF⟩,
  ⟨0x40140504, 1, 4, 1, 0x1000, 0, 0xFF000FFF, 0, 0, 0, 0, 0, 0xFFF000⟩,
  ⟨0x40140508, 1, 4, 1, 0x1000, 0, 0xFFFFFFF0, 0, 0, 0, 0, 0, 0xF⟩,
  ⟨0x4014050C, 1, 4, 1, 0x1000, 0, 0xFF000FFF, 0, 0, 0, 0, 0, 0xFFF000⟩]
def regRows15 : List RegRow := [
  ⟨0x40150000, 1, 4, 1, 0x1000, 0, 0x80000001, 0, 0, 0, 0, 0, 0⟩,
  ⟨0x40150004, 1, 4, 1, 0x1000, 0, 0, 0xFFFF, 0, 0, 0, 0, 0⟩,
  ⟨0x40150100, 16, 0x40, 1, 0x1000, 0x4850000, 0xBFFF0000, 0, 0, 0, 0, 0, 0⟩,
  ⟨0x40150104, 16, 0x40, 1, 0x1000, 0, 0, 0xF, 0, 0, 0, 0, 0xC0000000⟩,
  ⟨0x40150108, 16, 0x40, 1, 0x1000, 0, 0xFFFFFFFF, 0, 0, 0, 0, 0, 0⟩,
  ⟨0x4015010C, 16, 0x40, 1, 0x1000, 0, 0xFFFFFFFF, 0, 0, 0, 0, 0, 0⟩,
  ⟨0x40150110, 16, 0x40, 1, 0x1000, 0, 0xFFFFFFFF, 0, 0, 0, 0, 0, 0⟩,
  ⟨0x40150114, 16, 0x40, 1, 0x1000, 0, 0xFFFF, 0, 0, 0, 0, 0, 0⟩,
  ⟨0x40150118, 16, 0x40, 1, 0x1000, 0x6002, 0xEFFF, 0, 0, 0, 0, 0, 0⟩,
  ⟨0x4015011C, 16, 0x40, 1, 0x1000, 0x1E8480, 0xFFFFFFFF, 0, 0, 0, 0, 0, 0⟩,
  ⟨0x40150120, 8, 4, 8, 0x40, 0, 0x800007FF, 0, 0, 0, 0, 0, 0⟩,
  ⟨0x40150320, 8, 0x40, 1, 0x1000, 0, 0, 0, 0, 0, 0, 0, 0xFFFFFFFF⟩,
  ⟨0x40150324, 8, 0x40, 1, 0x1000, 0, 0, 0, 0, 0, 0, 0, 0xFFFFFFFF⟩,
  ⟨0x40150328, 8, 0x40, 1, 0x1000, 0, 0, 0, 0, 0, 0, 0, 0xFFFFFFFF⟩]
def regRows16 : List RegRow := [
  ⟨0x40160000, 1, 4, 16, 0x1000, 0, 0x80000C00, 0, 0, 0, 0x311, 0, 0⟩,
  ⟨0x40160004, 1, 4, 16, 0x1000, 0x20000000, 0, 0xFF, 0, 0, 0, 0, 0xF0000000⟩,
  ⟨0x40160008, 1, 4, 16, 0x1000, 0, 0, 0, 0, 0, 0, 0, 0x8000030F⟩,
  ⟨0x4016000C, 1, 4, 16, 0x1000, 0, 0, 0, 0, 0, 0, 0, 0xFFFFFFFF⟩,
  ⟨0x40160010, 1, 4, 16, 0x1000, 0x40004, 0, 0, 0, 0, 0, 0, 0x801F001F⟩,
  ⟨0x40160014, 1, 4, 16, 0x1000, 0, 0, 0, 0, 0, 0, 0, 0x3FFF0033⟩,
  ⟨0x40160018, 1, 4, 16, 0x1000, 0x7FFFFFFF, 0, 0, 0, 0, 0, 0, 0xFFFFFFFF⟩,
  ⟨0x4016001C, 1, 4, 16, 0x1000, 0, 0, 0, 0, 0, 0, 0, 0xC0FF1FFF⟩,
  ⟨0x40160020, 4, 4, 16, 0x1000, 0, 0x1FFF, 0, 0, 0, 0, 0, 0⟩,
  ⟨0x40160030, 4, 4, 16, 0x1000, 0, 0xFFFF, 0, 0, 0, 0, 0, 0⟩,
  ⟨0x40160040, 1, 4, 16, 0x1000, 0, 0xFFFFFFFF, 0, 0, 0, 0, 0, 0⟩,
  ⟨0x40160044, 1, 4, 16, 0x1000, 0, 0xFFFFFFFF, 0, 0, 0, 0, 0, 0⟩,
  ⟨0x40160048, 1, 4, 16, 0x1000, 0, 0, 0, 0, 0, 0, 0, 0xFFFFF⟩,
  ⟨0x4016004C, 1, 4, 16, 0x1000, 0, 0, 0, 0, 0xFFFFF, 0, 0, 0⟩,
  ⟨0x40160050, 1, 4, 16, 0x1000, 0, 0x3FFF0000, 0, 0, 0, 0, 0, 0⟩,
  ⟨0x40160400, 256, 4, 16, 0x1000, 0, 0xFFFFFFFF, 0, 0, 0, 0, 0, 0⟩,
  ⟨0x40160800, 128, 4, 16, 0x1000, 0, 0, 0, 0, 0, 0, 0, 0xFFFFFFFF⟩,
  ⟨0x40160C00, 64, 4, 16, 0x1000, 0, 0xFFFFFFFF, 0, 0, 0, 0, 0, 0⟩]
def regRows17 : List RegRow := [
  ⟨0x40170000, 1, 4, 1, 0x1000, 0x10, 0x93, 0, 0, 0, 0, 0, 0⟩,
  ⟨0x40170004, 1, 4, 1, 0x1000, 0, 0, 0x1F000000, 0, 0, 0, 0, 0xF⟩,
  ⟨0x40170008, 1, 4, 1, 0x1000, 0x1E00000, 0x3FF0000, 0, 0, 0, 0, 0, 0xFFFF⟩,
  ⟨0x4017000C, 1, 4, 1, 0x1000, 0, 0, 0, 0, 0, 0, 0, 0xFFFFFFFF⟩,
  ⟨0x40170010, 1, 4, 1, 0x1000, 0, 0, 0, 0, 0, 0, 0, 0xFFFF⟩,
  ⟨0x40170014, 1, 4, 1, 0x1000, 0, 0, 0x80000000, 0, 0, 0, 0, 0x1FFFFF⟩,
  ⟨0x40170020, 4, 4, 1, 0x1000, 0, 0, 0, 0, 0, 0, 0, 0x3FFFF⟩,
  ⟨0x40170030, 4, 4, 1, 0x1000, 0, 0, 0, 0, 0x3FFFF, 0, 0, 0⟩,
  ⟨0x40170100, 256, 8, 1, 0x1000, 0, 0, 0, 0, 0, 0, 0, 0x801FFFFF⟩,
  ⟨0x40170104, 256, 8, 1, 0x1000, 0, 0, 0, 0, 0, 0, 0, 0xFC3FFFFF⟩,
  ⟨0x40170900, 17, 4, 1, 0x1000, 0, 0, 0, 0, 0, 0, 0, 0xFFFFFFFF⟩]
def regRows18 : List RegRow := [
  ⟨0x40180000, 1, 4, 1, 0x1000, 0xC, 0x1C, 0, 0, 0, 0x100, 0, 0⟩,
  ⟨0x40180004, 1, 4, 1, 0x1000, 0, 0, 0xFC, 0, 0, 0, 0, 0xF0000000⟩,
  ⟨0x40180008, 1, 4, 1, 0x1000, 0, 0, 0, 0, 0, 0, 0, 0x831F1F0F⟩,
  ⟨0x4018000C, 1, 4, 1, 0x1000, 0, 0x1F000F, 0, 0, 0, 0x80000000, 0, 0⟩,
  ⟨0x40180010, 1, 4, 1, 0x1000, 0x10000, 0xFFFFFF, 0, 0, 0, 0, 0, 0⟩,
  ⟨0x40180014, 1, 4, 1, 0x1000, 0, 0, 0, 0, 0, 0, 0, 0xFFFFFF⟩,
  ⟨0x40180018, 1, 4, 1, 0x1000, 0, 0, 0, 0, 0, 0, 0, 0x8003FFFF⟩,
  ⟨0x4018001C, 1, 4, 1, 0x1000, 0, 0, 0, 0, 0, 0, 0, 0xFFFFFFFF⟩,
  ⟨0x40180020, 1, 4, 1, 0x1000, 0, 0, 0, 0, 0, 0, 0, 0xFFFFFFFF⟩,
  ⟨0x40180024, 1, 4, 1, 0x1000, 0, 0, 0x80000000, 0, 0, 0, 0, 0x7000007F⟩,
  ⟨0x40180028, 1, 4, 1, 0x1000, 0, 0, 0, 0, 0, 0, 0, 0xFFFFFFFF⟩,
  ⟨0x4018002C, 1, 4, 1, 0x1000, 0, 0, 0, 0, 0, 0, 0, 0xFFFFFFFF⟩,
  ⟨0x40180030, 1, 4, 1, 0x1000, 0, 0x401F1F0F, 0, 0, 0, 0x80000000, 0, 0⟩,
  ⟨0x40180034, 1, 4, 1, 0x1000, 0, 0, 0, 0, 0, 0, 0, 0xFFFFFFFF⟩,
  ⟨0x40180038, 1, 4, 1, 0x1000, 0, 0, 0, 0, 0, 0, 0, 0xFFFFFFFF⟩]
def regRows19 : List RegRow := [
  ⟨0x40190000, 1, 4, 1, 0x1000, 0x8000AF08, 0x800FFF1F, 0, 0, 0, 0, 0, 0⟩,
  ⟨0x40190004, 1, 4, 1, 0x1000, 0, 0, 0x80000000, 0, 0, 0, 0, 0xFFFF⟩,
  ⟨0x40190008, 1, 4, 1, 0x1000, 0, 0, 0, 0, 0, 0, 0, 0x8000FFFF⟩,
  ⟨0x4019000C, 1, 4, 1, 0x1000, 0x320, 0x3FF, 0, 0, 0, 0, 0, 0⟩,
  ⟨0x40190010, 1, 4, 1, 0x1000, 0, 0xFFFF, 0, 0, 0, 0, 0, 0⟩,
  ⟨0x40190014, 1, 4, 1, 0x1000, 0x14, 0xFFFF00FF, 0, 0, 0, 0, 0, 0⟩,
  ⟨0x40190100, 23, 4, 1, 0x1000, 0, 0, 0, 0, 0, 0, 0, 0xFFFFFFFF⟩,
  ⟨0x40190200, 23, 4, 1, 0x1000, 0, 0xFFFFFFFF, 0, 0, 0, 0, 0, 0⟩]

/-- The rows of the block in a slot of the peripheral region; the slot of engine 16 has the map of the engine blocks. -/
def regRows (slot : Nat) : List RegRow :=
  match slot with
  | 0x0 => regRows00
  | 0x1 => regRows01a ++ regRows01b
  | 0x2 => regRows02a ++ regRows02b
  | 0x3 => regRows03
  | 0x4 => regRows04
  | 0x5 => regRows05
  | 0x6 => regRows06
  | 0x7 => regRows07
  | 0x8 => regRows08
  | 0x9 => regRows09a ++ regRows09b
  | 0xA => regRows0A
  | 0xB => regRows0B
  | 0xC => regRows0C
  | 0xD => regRows0D
  | 0xE => regRows0E
  | 0x10 => regRows10
  | 0x11 => regRows11
  | 0x12 => regRows12
  | 0x13 => regRows13
  | 0x14 => regRows14a ++ regRows14b
  | 0x15 => regRows15
  | 0x16 => regRows16
  | 0x17 => regRows17
  | 0x18 => regRows18
  | 0x19 => regRows19
  | _ => []

/-- The offset of an address from a row's first register, when the row holds the address. -/
def RegRow.holds (r : RegRow) (a : Nat) : Bool :=
  r.base ≤ a && (a - r.base) / r.ist < r.insts && (a - r.base) % r.ist % r.st = 0 &&
    (a - r.base) % r.ist / r.st < r.n

/-- The address under which the rows know a register: engine 16 shares the map of engine 0. -/
def regCanon (a : Nat) : Nat := if a / 0x1000 = 0x400F0 then a - 0x400F0000 + 0x40160000 else a

/-- The row of a register address, if the address is assigned (R32). -/
def regRow (a : Nat) : Option RegRow :=
  if a % 4 = 0 && 0x40000000 ≤ a && a < 0x401A0000 then
    (regRows (regCanon a / 0x10000 % 0x100)).find? (·.holds (regCanon a))
  else none

/-- The value of a register after the reset its chapter names; 0 at an unassigned address. -/
def regReset (a : Nat) : Word :=
  match regRow a with
  | some r => BitVec.ofNat 32 r.reset
  | none => 0

end Sys2Proof.Machine
end

