-- ==== Sys2Proof/Machine/State.lean ====
section
/-! DEFINITION. The state of the DZ8617: every register, memory, queue, counter, mode and pin that the manual gives it,
as plain data.  Registers of the peripheral blocks stand in `regs`, under their addresses; a register that is not listed
holds its reset value.  Memories are sorted lists of what differs from their content after reset.  What the manual only
implies (a pass in progress, an epoch in the queue) stands in the structures below. -/

namespace Sys2Proof.Machine

/-- Why the machine stops with a fault.  Each is safe: the model stops where the manual defines no effect. -/
inductive Fault where
  /-- A write of 1 to a reserved bit, whose effect R5 leaves undefined.  Raised by every register write.  Safe. -/
  | reservedBitWritten (addr : Nat)
  deriving DecidableEq, Repr

/-- Why the machine refuses a command. -/
inductive Refusal where
  /-- The command has no meaning yet; only the arms of exec raise it.  Safe. -/
  | notModelled (mnemonic : String)
  deriving DecidableEq, Repr

/-- The outcome of a command. -/
abbrev Res (State : Type) := Host.Outcome State Fault Refusal

/-! ## Render engines (R70, R76, R88 to R93, R142, R184, R221 to R249) -/

/-- A place that a render instruction writes, with the word it takes. -/
inductive RDest where
  | a (n : Nat) | m (n : Nat) | d (n : Nat) | q (n : Nat) | p (n : Nat)
  | st (w : Nat) | tile (w : Nat) | out (i : Nat) | lw (i : Nat)
  deriving DecidableEq, Repr

/-- A write in the pipeline: it takes effect at the end of cycle `land` of its pass (R97). -/
structure RWrite where
  land : Nat
  dest : RDest
  val : Int
  deriving DecidableEq, Repr

/-- One level of the repeat nest (R88 to R92): the body's first address, its length, the iterations left, and whether the
first iteration runs, which fills the repeat cache. -/
structure RptFrame where
  top : Nat
  len : Nat
  left : Nat
  first : Bool
  deriving DecidableEq, Repr

/-- The role of a physical engine (R221). -/
inductive Role where
  | live | punty | reserve | out | cullet
  deriving DecidableEq, Repr

/-- A physical render engine: what its control block does not hold. -/
structure Engine where
  /-- Program memory, live and shadow bank (R70); an unlisted word is 0. -/
  prog : List (Nat × Word64)
  progSh : List (Nat × Word64)
  /-- Coefficient memory, live and shadow bank. -/
  coef : List (Nat × Word)
  coefSh : List (Nat × Word)
  /-- State memory. -/
  st : List (Nat × Word)
  /-- Local delay tile: bank b, word w at b × 32,768 + w. -/
  tile : List (Nat × Word)
  /-- Words with an uncorrectable or a correctable error (R150, R151): 0x10000 × memory + address, with memory 0 state,
  1 coefficient live, 2 program live, 3 coefficient shadow, 4 to 7 the tile (0x40000 + tile word), 8 program shadow (a
  program word is two codewords: 2 × its address, plus 1 for its upper half), 9 the long-read buffer's front side, 10 the long-write buffer, 11 the long-read buffer's back side. -/
  bad : List Nat
  soft : List Nat
  /-- Repeat cache: program address and word, at most 32 entries (R70, R92). -/
  rpt : List (Nat × Word64)
  /-- Input window: the published side, as latched at the tick, and the back side, to which the exchange forwards the
  writes of the running period (R49, R70). -/
  win : List (Nat × Word)
  winBack : List (Nat × Word)
  /-- Long-read buffer: the side the pass reads and the side the prefetch fills (R145). -/
  lr : List (Nat × Word)
  lrBack : List (Nat × Word)
  /-- Long-write buffer: the entries the pass wrote (R144). -/
  lw : List (Nat × Word)
  /-- A retired pass's long-write entries, with its N, until the drain. -/
  drain : Option (Nat × List (Nat × Word))
  /-- Output-list entries that the pass wrote, with their last values (R50). -/
  outs : List (Nat × Word)
  /-- Registers (R76). -/
  a : Vector (BitVec 20) 16
  m : Vector (BitVec 20) 8
  d : Vector Word 16
  q : Vector (BitVec 72) 8
  p : Vector Bool 8
  /-- The pass in progress: its next instruction, the issue slot, the repeat nest, the writes in the pipeline. -/
  pc : Nat
  slot : Nat
  nest : List RptFrame
  pend : List RWrite
  /-- A pass has begun and has not retired END; END has retired and the pass is reported done. -/
  busy : Bool
  done : Bool
  /-- The pass in progress is a test pass (R103). -/
  test : Bool
  /-- Tier of the pass, for a test pass CTRL.TTIER. -/
  ttier : Nat
  /-- Passes since the latest tier change (R95), and whether TIER has changed since the image was installed. -/
  rampJ : Nat
  tierChanged : Bool
  /-- Actions of CTRL still to run, in the order SWAP, CLEAR, BISTGO, TPASS (R101). -/
  acts : List Nat
  /-- Input list and output list: entry index and slot (R49). -/
  inList : List (Nat × Nat)
  outList : List (Nat × Nat)
  /-- Gather list and long-write list, live entries (R142). -/
  gath : List Word
  lwr : List Word
  /-- Meter file: addresses, words, and the snapshot with its boundary and epoch (R184). -/
  metAddr : List Nat
  met : List (Nat × Word)
  snap : List (Nat × Word)
  snapIdx : Nat
  snapEpoch : Word
  /-- Running write CRC of the block and the CRC of the block before (R231). -/
  crc : Word
  crcLast : Word
  /-- Program-word halves waiting for their partners: word index and lower half (R31). -/
  halfWr : List (Nat × Word)
  /-- Upper halves latched by reads, by initiator (R31). -/
  halfRd : List (Nat × Word)
  /-- Role, cause and totals of the engine map (R249). -/
  role : Role
  cause : Nat
  bistTotal : Nat
  mismatches : Nat
  /-- The engine left service because of a fault (R241). -/
  faulted : Bool
  /-- A test pass or a write through the engine window since the latest BIST: service needs BIST (R241). -/
  dirty : Bool
  /-- A compare mismatch on this logical engine sent the engine to BIST (R240). -/
  caseLe : Option Nat
  /-- The engine is to become free after CLEAR, as the outgoing engine of an installation (R172). -/
  clearRole : Bool
  /-- Powered up from RESERVE to take PUNTY after its BIST (R222). -/
  cand : Bool
  /-- A host has released it from the cullet: BIST decides (R223). -/
  released : Bool
  /-- The cullet cause that a planned retirement ends in; 0 for none (R233, R244, R247, R387). -/
  retiring : Nat
  /-- Corrected-error counts as firmware read them, latest first, each with the S0 time of the first read that gave it;
  and the S0 time of the first trend (R244). -/
  eccHist : List (Nat × Nat)
  trended : Option Nat
  /-- ENGECC as last read: the count restarts at 0 with the domain's power, its history does not (R244). -/
  eccLast : Nat
  /-- Derated step count of the latest aging measurement (R246). -/
  ageSteps : Nat
  /-- The second MDLL delay path is tuned for the armed clock (R259). -/
  tuned : Bool
  deriving DecidableEq, Repr

/-- An engine after power-up of its domain or a device reset.  R100 leaves its memories undefined until BIST or CLEAR; here
every word reads 0 (DESIGN CHOICE, log 4). -/
def Engine.init : Engine where
  prog := []
  progSh := []
  coef := []
  coefSh := []
  st := []
  tile := []
  bad := []
  soft := []
  rpt := []
  win := []
  winBack := []
  lr := []
  lrBack := []
  lw := []
  drain := none
  outs := []
  a := Vector.replicate 16 0
  m := Vector.replicate 8 0
  d := Vector.replicate 16 0
  q := Vector.replicate 8 0
  p := Vector.replicate 8 false
  pc := 0
  slot := 0
  nest := []
  pend := []
  busy := false
  done := false
  test := false
  ttier := 0
  rampJ := 0
  tierChanged := false
  acts := []
  inList := []
  outList := []
  gath := []
  lwr := []
  metAddr := []
  met := []
  snap := []
  snapIdx := 0
  snapEpoch := 0
  crc := 0xFFFFFFFF
  crcLast := 0
  halfWr := []
  halfRd := []
  role := .out
  cause := 0
  bistTotal := 0
  mismatches := 0
  faulted := false
  dirty := false
  caseLe := none
  clearRole := false
  cand := false
  released := false
  retiring := 0
  eccHist := []
  trended := none
  eccLast := 0
  ageSteps := 0
  tuned := false

/-- How a logical engine's slots are published (R50, R67, R172, R173, R209, R210, R238, R239). -/
inductive Fade where
  | plain
  /-- The outgoing engine's writes, falling: sample i of the block; then 0 for a number of samples, or as `silent none`. -/
  | falling (i : Nat) (sil : Option Nat)
  /-- 0 until `left` samples have passed; `none` until the engine re-enters service. -/
  | silent (left : Option Nat)
  /-- The host's writes, rising: sample i of the block. -/
  | rising (i : Nat)
  deriving DecidableEq, Repr

/-- How a change of host is under way. -/
inductive Entry where
  /-- No change is under way, but perhaps an installation in an incoming engine (LogEng.inst). -/
  | none
  /-- An installation without a spare engine, at the group's swap (R173). -/
  | reload
  /-- The outgoing host ramps out from the boundary b on, for want of a punty (R243); b is 0 until a deadline at or after
  the instant `after` fixes it (R234). -/
  | rampOut (after b : Nat)
  /-- A cold hand-over between b and b′: the long lines read 0 (R239). -/
  | cold
  /-- An engine is being cleared and loaded for the logical engine. -/
  | loading (incoming : Nat)
  /-- Loaded and cleared: re-enters service at the next boundary of its domain. -/
  | ready (incoming : Nat)
  deriving DecidableEq, Repr

/-- The engine of a logical engine that moves to another rate domain, in the domain that it leaves (R537): it renders there
until that domain's group swaps, and its writes then fall over one block. -/
structure Leaving where
  eng : Nat
  dom : Nat
  fade : Fade
  /-- The outgoing engine of an earlier installation, while its block falls. -/
  out : Option Nat
  deriving DecidableEq, Repr

/-- A logical engine: what the parameters do not hold. -/
structure LogEng where
  /-- The installed image, as its DZRI file; empty without an image (R162, R175). -/
  image : List Byte
  /-- Golden copy of the current coefficient words (R175). -/
  golden : List (Nat × Word)
  /-- Golden count registers C0 to C3. -/
  counts : List Nat
  /-- The tier in force (R94). -/
  tier : Nat
  /-- The engine clock of the applied epoch, 62.5 MHz × clock (R171). -/
  clock : Nat
  /-- Line-table entries of the image's own lines, in image order (R140). -/
  lines : List Nat
  /-- The physical engine that hosts it. -/
  host : Option Nat
  /-- The engine that runs the old image, or leaves, during a falling block. -/
  outgoing : Option Nat
  /-- The incoming engine of the installation in hand, until the group's swap (R172). -/
  inst : Option Nat
  /-- The engine that ramped out for want of a punty, and the boundary at which it did (R243). -/
  exHost : Option Nat
  rampB : Nat
  entry : Entry
  fade : Fade
  /-- The rate domain that the logical engine's epoch state belongs to as applied (R42, R537). -/
  dom : Nat
  /-- Committed values of gain parameters since the image was installed (R167): member and value. -/
  gains : List (Nat × Int)
  /-- Overruns in the current block, and a mute under R67 that begins at the next tick. -/
  ovr : Nat
  muteNext : Bool
  /-- S0 time of the last completed compare window, and the report of it (R202, R242). -/
  checkAt : Nat
  overdue : Bool
  excluded : Bool
  /-- The open isolation case: BIST passes of each engine (R240). -/
  case : Option (List (Nat × Nat))
  /-- Muted for want of an engine (R243). -/
  muted : Bool
  /-- Resume from S1 or S2: publish 0 until the block after the resume boundary (R209). -/
  resume : Bool
  /-- A planned retirement of the host waits for a clone (R233). -/
  retire : Bool
  /-- The engine that renders on in a domain that the logical engine has left (R537). -/
  leaving : Option Leaving
  deriving DecidableEq, Repr

/-- A logical engine without an image. -/
def LogEng.init : LogEng where
  image := []
  golden := []
  counts := [0, 0, 0, 0]
  tier := 0
  clock := 4
  lines := []
  host := none
  outgoing := none
  inst := none
  exHost := none
  rampB := 0
  entry := .none
  fade := .plain
  dom := 0
  gains := []
  ovr := 0
  muteNext := false
  checkAt := 0
  overdue := false
  excluded := false
  case := none
  muted := false
  resume := false
  retire := false
  leaving := none

/-! ## Rate domains (R34 to R44) and anchoring (R331 to R335) -/

/-- The anchor state of a domain (R332). -/
inductive Anchor where
  | free | acquire | anchored | holdover
  deriving DecidableEq, Repr

/-- A rate domain: what its registers do not hold. -/
structure Domain where
  /-- The 32-bit accumulator of the divider (R34), and the length of the running period in ACS cycles. -/
  acc : Word
  period : Nat
  /-- Model time of the latest tick (R234). -/
  tickAt : Nat
  /-- A commit or firmware stops the domain at the next boundary and restarts it at SSTART (R44, R335). -/
  restart : Bool
  /-- Sample of the trip ramp (R199), when one runs; done once the slots publish 0. -/
  tripRamp : Option Nat
  tripDone : Bool
  /-- The next tick is the first since the start (R36). -/
  first : Bool
  /-- LDS accesses of the running period (R153). -/
  ldsAcc : Nat
  /-- A trigger requested the waiting start (R37). -/
  byTrigger : Bool
  /-- Anchor: state, the latest tick error in ns, and consecutive boundaries within 500 ns (R332). -/
  anchor : Anchor
  err : Int
  anchorCnt : Nat
  /-- Firmware restarts the domain on its nominal timeline once it has stopped (R335). -/
  reanchor : Bool
  /-- Domains running when S3 or S4 was entered, with the index and the time (R210). -/
  napIdx : Option (Nat × Nat)
  deriving DecidableEq, Repr

/-- A domain after reset. -/
def Domain.init : Domain where
  acc := 0
  period := 0
  tickAt := 0
  restart := false
  tripRamp := none
  tripDone := false
  first := false
  ldsAcc := 0
  byTrigger := false
  anchor := .free
  err := 0
  anchorCnt := 0
  reanchor := false
  napIdx := none

/-! ## Epochs (R154 to R187) -/

/-- One item of a parison or of an epoch. -/
inductive Item where
  /-- A parameter, with its value in the encoding of its type. -/
  | param (pid : Nat) (val : List Byte)
  /-- A render image for a logical engine; an empty file removes the image. -/
  | image (le : Nat) (file : List Byte)
  /-- A tier that the lehr sets (R189). -/
  | tier (le t : Nat)
  deriving DecidableEq, Repr

/-- The target of a timed commit (R179). -/
inductive Target where
  | untimed
  /-- A boundary index of an anchor domain. -/
  | index (anchor b : Nat)
  deriving DecidableEq, Repr

/-- An epoch in the queue (R176), its record and progress. -/
structure Epoch where
  num : Nat
  session : Nat
  transport : Nat
  target : Target
  /-- OPT.VOLATILE: the epoch stays out of the settings journal (R446). -/
  keepOut : Bool
  late : Bool
  lost : Bool
  integrity : Bool
  items : List Item
  /-- Engine clock each logical engine takes at its swap (R171): logical engine and multiplier. -/
  clocks : List (Nat × Nat)
  /-- Long lines placed by the epoch (R141): line, base, length, logical engine; and lines it frees. -/
  lines : List (Nat × Nat × Nat × Nat)
  freed : List Nat
  deriving DecidableEq, Repr

/-- The commit stager and the queue that firmware keeps for it. -/
structure Stager where
  queue : List Epoch
  /-- The instant t_A of ARM(E), in model time (R57). -/
  armNs : Nat
  /-- Units that have still to acknowledge, as (group leader, unit bit of STG_NACKMAP) (R59). -/
  nack : List (Nat × Nat)
  /-- Groups of the epoch, by leader domain; groups with GO for their next boundary. -/
  groups : List Nat
  go : List Nat
  /-- DEFERs of the epoch before its swap (R185). -/
  defers : Nat
  /-- The applied epoch that is being reconciled. -/
  recon : Option Epoch
  /-- Highest epoch accepted from any session other than the internal one (R182, R378). -/
  lastHost : Nat
  /-- The epoch in hand waits for the PMIC to raise the voltage (R205, R206). -/
  avsWait : Bool
  /-- The epoch in hand carries the lowest tier of every logical engine (R178). -/
  hard : Bool
  /-- The selection whose epoch and index STG_METEPOCH and STG_METIDX hold (R187). -/
  metSel : Option Nat
  deriving DecidableEq, Repr

/-- An entry of the change log (R185). -/
structure LogEntry where
  num : Nat
  session : Nat
  transport : Nat
  flags : Nat
  items : Nat
  sec : Nat
  ns : Nat
  defers : Nat
  deriving DecidableEq, Repr

/-! ## The hand-over machine (R236) -/

/-- The SCU: what its registers do not hold. -/
structure Scu where
  /-- The fault instant plus 2 µs in model time (R234), the boundary b once GO has been sent, and b′ (R239). -/
  after : Nat
  b : Nat
  b2 : Option Nat
  /-- The boundary b_L at which LOCK begins (R226). -/
  bL : Nat
  /-- GO has been sent for the boundary: the assignment stands (R235). -/
  go : Bool
  cold : Bool
  /-- Steps of a cold load (R239): clear and bank writes done, lines zeroed. -/
  loaded : Bool
  zeroed : Bool
  /-- Outputs of the host's and punty's latest passes reported done and not yet compared (R230). -/
  hostDone : Bool
  puntyDone : Bool
  /-- A compare mismatch raised this hand-over (R240). -/
  mismatch : Bool
  /-- Compared passes of the block, for a planned retirement (R233). -/
  fullBlock : Bool
  /-- PUNTY is held for an outgoing host in BIST (R222): the engine and its logical engine. -/
  held : Option (Nat × Nat)
  /-- The logical engine shadowed last (R224). -/
  lastLe : Nat
  deriving DecidableEq, Repr

/-! ## The lehr and power (R188 to R220) -/

/-- The lehr and the estimator: what their registers do not hold. -/
structure Lehr where
  calm : Nat
  limitReported : Bool
  /-- Background work: shadow checking and flash work paused. -/
  paused : Bool
  /-- Logical engines for which shadow checking is forced, earliest first (R202). -/
  forced : List Nat
  /-- P of the previous decision, and the predictions of the changes made since, in mW, each with the epoch that carries
  the change, or 0 (R196). -/
  lastP : Rat
  predicted : List (Nat × Rat)
  /-- Consecutive samples at or above hard, below the release, at or above trip (R197). -/
  hardRun : Nat
  coolRun : Nat
  tripRun : Nat
  /-- Hard has ended and the pins wait to be restored (R198). -/
  restorePins : Bool
  /-- Consecutive periods with every engine at or below 625 MHz (R205). -/
  lowPeriods : Nat
  /-- The voltage request in flight: true for a raise, and its I2C tries (R205, R206). -/
  avs : Option Bool
  avsTries : Nat
  avsFail : Bool
  /-- A raise is acknowledged and its settle time runs (R205). -/
  avsSettle : Bool
  /-- Background flash work is pending. -/
  flashWork : Bool
  /-- S0 time of the latest measurement of the aging monitors (R245). -/
  ageAt : Nat
  deriving DecidableEq, Repr

/-- Pins and hidden state of AON and the supply sequencer (R199, R216, R520 to R522). -/
structure Pmu where
  /-- ALERT, IRQ_N, PWREN_CORE, PWREN_IO and WAKE pins. -/
  alert : Bool
  wakePin : Bool
  pwrenCore : Bool
  pwrenIo : Bool
  /-- RST_N is released. -/
  rstN : Bool
  /-- The internal reset is asserted. -/
  inReset : Bool
  /-- Both supply monitors are valid. -/
  supplies : Bool
  /-- Failed supply starts in a row (R522). -/
  retries : Nat
  /-- Milliseconds of the trip shutdown are counted outside; the trip has fired. -/
  tripped : Bool
  /-- Firmware or a watchdog has requested a device reset (R275, R397, R494). -/
  resetReq : Bool
  /-- The deepest state that the latest entry reached (R214). -/
  reached : Nat
  /-- GPIO outputs hold their level from the entry to S3 or S4 until GPIO_DIR is written (R426): directions and levels. -/
  held : Option (Nat × Nat)
  /-- The core voltage that the PMIC delivers, in mV (R204). -/
  vddMv : Nat
  deriving DecidableEq, Repr

/-! ## Mailboxes and sessions (R154, R347 to R356, R392, R393) -/

/-- A frame in a ring: its bytes, the producer's TAG and the flags of R356. -/
structure Frame where
  bytes : List Byte
  tag : Nat
  flags : Nat
  deriving DecidableEq, Repr

/-- A staged item (R154, R155): a parameter or table with its value, or an image with the bytes written so far and
whether IMGEND has passed (R384). -/
inductive Staged where
  | param (pid : Nat) (val : List Byte)
  | image (le : Nat) (cells : List (Option Byte)) (ended : Bool)
  deriving DecidableEq, Repr

/-- A mailbox with its rings and its session. -/
structure Mailbox where
  /-- Entries waiting in the request and the response ring, oldest first. -/
  req : List Frame
  rsp : List Frame
  reqHead : Word
  reqTail : Word
  rspHead : Word
  rspTail : Word
  /-- Ring addresses and depths (R355). -/
  reqBase : Word
  rspBase : Word
  reqN : Nat
  rspN : Nat
  /-- Replies that wait for room on the response ring (R393). -/
  held : List Frame
  /-- Generation of the mailbox (R348), and the open session. -/
  gen : Nat
  opened : Bool
  peerAddr : Word
  peerPort : BitVec 16
  /-- The MAC address that firmware's ARP gives for the peer (log 20). -/
  peerMac : List Byte
  lastSeq : BitVec 16
  /-- The reply to LASTSEQ, for a resend (R350). -/
  lastReply : List Byte
  /-- Event mask, events matched since OPEN, events dropped (R392, R393). -/
  evMask : Byte
  evCount : BitVec 16
  evDrops : Nat
  /-- The parison, in staging order (R154, R379). -/
  parison : List Staged
  deriving DecidableEq, Repr

/-- A free mailbox with empty rings. -/
def Mailbox.init : Mailbox where
  req := []
  rsp := []
  reqHead := 0
  reqTail := 0
  rspHead := 0
  rspTail := 0
  reqBase := 0
  rspBase := 0
  reqN := 8
  rspN := 8
  held := []
  gen := 0
  opened := false
  peerAddr := 0
  peerPort := 0
  peerMac := []
  lastSeq := 0
  lastReply := []
  evMask := 0
  evCount := 0
  evDrops := 0
  parison := []
/-! ## Audio ports (R277 to R308) -/

/-- A start that a port waits for (R287). -/
inductive PortStart where
  | none
  /-- The next tick of its domain. -/
  | tick
  /-- The next tick of its domain, then its first FSYNC. -/
  | thenFsync
  /-- Its first FSYNC. -/
  | fsync
  /-- A trigger: the next tick, or the next boundary when true, of a domain. -/
  | trig (d : Nat) (bnd : Bool)
  deriving DecidableEq, Repr

/-- The ramp on the inputs of a slave port (R289, R290), with its step. -/
inductive InRamp where
  | pass
  | fall (i : Nat)
  | zero
  | rise (i : Nat)
  deriving DecidableEq, Repr

/-- One bit period on the pins of a port (R278, R279, R281): where it begins after its frame, in ring cycles of the ACS, how
long BCLK holds its first and its second level, that first level, the level of FSYNC, and the data pins, of which one that
is an input or at high impedance shows none.  A bit of a slave port, whose BCLK and FSYNC come from outside, begins at its
number and gives no lengths and no levels of the two. -/
structure PinBit where
  start : Nat
  first : Nat
  second : Nat
  bclk : Bool
  fsync : Bool
  d0 : Option Bool
  d1 : Option Bool
  deriving DecidableEq, Repr

/-- An input slot whose last bit falls in the following frame (R278): its channel, the bits it has, where in the next frame
it goes on, its width, its data width and its justification. -/
structure LateIn where
  chan : Nat
  got : List Bool
  skip : Nat
  slotw : Nat
  dataw : Nat
  just : Bool
  deriving DecidableEq, Repr

/-- An ASP port: what its registers do not hold. -/
structure AspPort where
  start : PortStart
  /-- EN is cleared and the frame in progress has still to end (R288). -/
  stopping : Bool
  /-- Latest good sample of each input channel, inputs that are published one tick later (R284), and input slots that go on
  in the next frame (R278). -/
  hold : List (Nat × Word)
  late : List (Nat × Word)
  part : List LateIn
  /-- The words that the exchange slots published at the latest ticks of the domain, latest first, and the words of the latest
  frame on the pins (R51, R284). -/
  hist : List (List (Nat × Word))
  out : List (Nat × Word)
  /-- The bit periods of that frame on the pins, and the data bits of its slots that reach into the next (R278, R281). -/
  frame : List PinBit
  spill : List (Option Bool × Option Bool)
  /-- The accumulator that times its frames while its domain is stopped (R282). -/
  acc : Word
  /-- Offset a and φ as measured, in 2 ns units (R284); 0 before alignment. -/
  a : Nat
  phi : Nat
  goodRun : Nat
  badRun : Nat
  ramp : InRamp
  /-- The clock is lost and the port has not recovered; a rate change mutes until new settings (R289, R291). -/
  lost : Bool
  rateMuted : Bool
  /-- Periods summed for MEAS and their number; the period when the port last locked, 0 before (R291). -/
  sum : Nat
  cnt : Nat
  heldPeriod : Nat
  /-- Settings of an epoch that swap at the next FSYNC (R286), as register writes; ticks of the domain since the boundary,
  and since a start that waits for its FSYNC. -/
  swap : List (Nat × Word)
  sinceSwap : Nat
  sinceStart : Nat
  /-- Settings of the epoch that stops the port, for its next start (R286); the instant of EN or of the trigger tick, for an
  ASRC slave (R287); and a slave port that has stopped but for the bits of its slots in the next frame period (R288). -/
  endSwap : List (Nat × Word)
  startAt : Nat
  tail : Bool
  deriving DecidableEq, Repr

/-- A stopped port. -/
def AspPort.init : AspPort where
  start := .none
  stopping := false
  hold := []
  late := []
  part := []
  hist := []
  out := []
  frame := []
  spill := []
  acc := 0
  a := 0
  phi := 0
  goodRun := 0
  badRun := 0
  ramp := .pass
  lost := false
  rateMuted := false
  sum := 0
  cnt := 0
  heldPeriod := 0
  swap := []
  sinceSwap := 0
  sinceStart := 0
  endSwap := []
  startAt := 0
  tail := false

/-- A PDM port: its start, output samples since it (R296), and for each channel the ones among the bits of its latest sample
periods, latest first (R294). -/
structure Pdm where
  start : PortStart
  count : Nat
  ones0 : List Nat
  ones1 : List Nat
  deriving DecidableEq, Repr

/-- A stopped PDM port. -/
def Pdm.init : Pdm := ⟨.none, 0, [], []⟩

/-- An ASRC group (R305 to R308): good frames counted in WAIT, the step of its ramp, and the frames of its input side that it
has buffered, latest first. -/
structure SrcGroup where
  good : Nat
  step : Nat
  buf : List (List Word)
  deriving DecidableEq, Repr

/-- A group at reset. -/
def SrcGroup.init : SrcGroup := ⟨0, 0, []⟩

/-- The IEC 60958 receiver (R298 to R302). -/
structure IecRx where
  /-- The rate when it last locked, in Hz. -/
  heldRate : Nat
  /-- PCM path: the latest 4 frames, oldest first, with their mute. -/
  pipe : List (Word × Word × Bool)
  /-- Latest good sample of each channel. -/
  goodA : Word
  goodB : Word
  /-- Frames of the block received so far, if its start was seen; its status and user bits, first bit first. -/
  frame : Option Nat
  csA : List Bool
  csB : List Bool
  udA : List Bool
  udB : List Bool
  /-- Frames until NONPCM clears, and the ramp after it. -/
  npLeft : Nat
  ramp : Option Nat
  /-- Frames received in the period (direct mode). -/
  inPeriod : Nat
  /-- The validity bits of the latest frame (R300). -/
  validA : Bool
  validB : Bool
  deriving DecidableEq, Repr

/-- A frame as the receiver decodes it (R298): of each subframe the 24 audio and auxiliary bits, whether its parity is wrong, its
validity, status and user bits; and whether a B preamble begins it. -/
structure IecFrame where
  a : BitVec 24
  b : BitVec 24
  badA : Bool
  badB : Bool
  validA : Bool
  validB : Bool
  statusA : Bool
  statusB : Bool
  userA : Bool
  userB : Bool
  blockStart : Bool
  deriving DecidableEq, Repr

/-- What a subframe carries beside its audio word (R298, R303): its preamble, 0 B, 1 M or 2 W, and its four last bits. -/
structure IecFlags where
  pre : Nat
  valid : Bool
  user : Bool
  status : Bool
  parity : Bool
  deriving DecidableEq, Repr

/-- The IEC 60958 transmitter (R303, R304): its start, the frame of the block, the status being sent and captured, and
the words of the latest frame. -/
structure IecTx where
  start : PortStart
  frame : Nat
  csA : List Word
  csB : List Word
  cap : Option (List Word × List Word)
  outA : Word
  outB : Word
  /-- The rest of the two subframes of the frame in transmission, and its 128 cells: where each begins, in ring cycles after the
  tick, and the level it holds (R303). -/
  flagsA : IecFlags
  flagsB : IecFlags
  cells : List (Nat × Bool)
  deriving DecidableEq, Repr


/-! ## Clock synthesis (R253 to R276) -/

/-- A captured set of the double-buffered ACS settings (R264): ACSa_DIV, ACSa_FRAC, ACSa_CENI and ACSa_CENF. -/
structure AcsSet where
  div : Word
  frac : Word
  ceni : Word
  cenf : Word
  deriving DecidableEq, Repr

/-- A third-order MASH modulator (R255, R263): the accumulators of its three stages, the carries of the second and third stage one
period ago and of the third two periods ago, and the integer that it added last. -/
structure Mash where
  m1 : Word
  m2 : Word
  m3 : Word
  c2 : Bool
  c3 : Bool
  c3b : Bool
  add : Int
  deriving DecidableEq, Repr

/-- A modulator at its start (DESIGN CHOICE, log 41). -/
def Mash.init : Mash := ⟨0, 0, 0, false, false, false, 0⟩

/-- An audio clock synthesiser: what its registers do not hold. -/
structure Acs where
  /-- The captured set that waits. -/
  cap : Option AcsSet
  /-- The dither LFSR and the modulator (R263). -/
  lfsr : BitVec 24
  mash : Mash
  /-- Cause of the latest coasting: 1 edges, 2 frequency check, 3 reference change. -/
  cause : Nat
  /-- When firmware last adjusted FRAC (R334). -/
  fracAt : Nat
  deriving DecidableEq, Repr

/-- An MCLK output (R274): the level of the pin, the ACS output cycles left in its phase (0 while it is held low), and the DIV
and SRC that govern that phase. -/
structure Mclk where
  level : Bool
  left : Nat
  div : Nat
  src : Nat
  deriving DecidableEq, Repr

/-- The fixed loops: the applied system reference and multiplier (R257), and the modulator of the SYS MDLL (R255). -/
structure SysLoop where
  ref : Bool
  int : Nat
  frac : Word
  mash : Mash
  deriving DecidableEq, Repr

/-! ## Control cores (R474 to R503) -/

/-- What an instruction of a control core writes: a register, or a system register.  Registers 0 to 15 are k0 to k7 and
p0 to p7; 16 + n is physical frame register n (R474). -/
inductive CDest where
  | reg (n : Nat) | sys (n : Nat)
  deriving DecidableEq, Repr

/-- A result that has not landed: instructions still to issue before a consumer sees it (R485). -/
structure CPend where
  dest : CDest
  val : Word
  left : Nat
  deriving DecidableEq, Repr

/-- The transfer that follows the delay slot being issued: the branch's address, its target, and whether it is a CALL,
whose window moves after the slot, or a RET, whose window has moved (R480, R488). -/
structure CSlot where
  branch : Nat
  target : Nat
  call : Bool
  ret : Bool
  deriving DecidableEq, Repr

/-- A line of a cache: its base address, its 64 bytes, and whether it is dirty (R497). -/
structure CLine where
  base : Nat
  bytes : List Byte
  dirty : Bool
  deriving DecidableEq, Repr

/-- A control core. -/
structure CtlCore where
  /-- Address of the next instruction to issue. -/
  pc : Nat
  regs : Vector Word 144
  pend : List CPend
  slot : Option CSlot
  /-- System registers that differ from their reset value, by number (R500). -/
  sys : List (Nat × Word)
  /-- Issue has stopped in WAIT (R493), or after a double fault (R490), or CC1 waits in ROM (R454). -/
  waiting : Bool
  dead : Bool
  parked : Bool
  /-- The data cache and the instruction cache: valid lines (R497). -/
  dcache : List CLine
  icache : List CLine
  /-- The high word of the cycle counter that a read of CYCLEL latched (R500). -/
  cycleH : Word
  /-- Time of the watchdog's latest restart (R494), and its latest expiries by S0 time (R503). -/
  kickAt : Nat
  expiries : List Nat
  deriving DecidableEq, Repr

/-- A core after its reset: it starts in ROM with its caches invalid (R454, R497). -/
def CtlCore.init : CtlCore where
  pc := 0
  regs := Vector.replicate 144 0
  pend := []
  slot := none
  sys := []
  waiting := false
  dead := false
  parked := false
  dcache := []
  icache := []
  cycleH := 0
  kickAt := 0
  expiries := []

/-- A DMA channel: what its registers do not hold (R504 to R513). -/
structure DmaCh where
  /-- The descriptor as read when it began: its eight words. -/
  desc : Option (List Word)
  /-- Bytes of the descriptor moved so far. -/
  moved : Nat
  deriving DecidableEq, Repr

/-! ## Flash port, flash content and the settings journal (R429 to R451) -/

/-- The lanes IO0 to IO7 in one clock period of XMP, or in half a period with DDR: those that it drives, and their levels
(R429). -/
structure XSlot where
  ddr : Bool
  drive : Byte
  level : Byte
  deriving DecidableEq, Repr

/-- A transfer under way on XMP (R431). -/
structure XmpRun where
  write : Bool
  ecc : Bool
  /-- Data bytes still to move through the FIFO. -/
  left : Nat
  /-- Sector of the next sector transferred with ECC. -/
  sector : Nat
  /-- A read: what the flash drives and XMP has not fetched, and fetched bytes that await a whole FIFO word. -/
  raw : List Byte
  rx : List Byte
  /-- A write: bytes taken from the FIFO. -/
  got : List Byte
  progAt : Option Nat
  eraseAt : Option (Nat × Nat)
  /-- The data phase is over and XMP polls the status of the flash. -/
  polling : Bool
  /-- It is for the flash on the second chip select (R433); lanes and rate of its data phase. -/
  second : Bool
  lanes : Nat
  ddr : Bool
  deriving DecidableEq, Repr

/-- XMP and the flash on its first chip select: what the registers do not hold. -/
structure Flash where
  fifo : List Word
  run : Option XmpRun
  /-- The flash that the board carries (R433, log 22); firmware found it supported; and the read and program modes that
  firmware chose. -/
  part : FlashPart
  supported : Bool
  readMode : XMode
  progMode : XMode
  /-- Content by byte address, and the spare bytes of NAND pages at 128 × page + byte; an unlisted byte is erased, 0xFF. -/
  cells : List (Nat × Byte)
  spare : List (Nat × Byte)
  /-- NAND blocks that the bad-block table marks: factory bad and grown bad (R437). -/
  factory : List Nat
  grown : List Nat
  /-- Verified-chunk cache, most recently used first: flash offset of a chunk or node, and its 256 bytes (R444). -/
  cache : List (Nat × List Byte)
  /-- The image store: one copy of each image (R440). -/
  store : List (List Byte)
  /-- Regions that wait for a firmware start to be rewritten (R451). -/
  atStart : List Nat
  /-- Powered-on hours of the latest retention scan (R450). -/
  hours : Nat
  /-- The chip select that is low, XMP_CS1_N when true, and what the lanes have carried since it fell (R429). -/
  sel : Option Bool
  bus : List XSlot
  deriving DecidableEq, Repr

/-- A record of the settings journal (R446). -/
inductive JRec where
  | param (pid : Nat) (val : List Byte)
  /-- The pid returns to its default. -/
  | remove (pid : Nat)
  /-- An image of a logical engine, by its DIGEST; no digest removes it. -/
  | image (le : Nat) (digest : List Byte)
  | cullet (e cause : Nat)
  | fmax (i v : Nat)
  | reserve (mark : Nat)
  | log (e : LogEntry)
  /-- A region's last write in powered-on hours and its MAXSEC then (R450). -/
  | region (r hours maxsec : Nat)
  /-- An integrity mismatch at an offset (R444). -/
  | integrity (off : Nat)
  deriving DecidableEq, Repr

/-- A frame of the journal: its sequence, its records with the SVN that sealed each (R466), its unit in the ring and its
sectors, powered-on seconds, and whether a stamp names it (R447). -/
structure JFrame where
  seq : Nat
  recs : List (Nat × JRec)
  unit : Nat
  sectors : Nat
  secs : Nat
  stamped : Bool
  deriving DecidableEq, Repr

/-- The settings journal. -/
structure Journal where
  frames : List JFrame
  seq : Nat
  /-- Records gathered and not yet written (R448). -/
  wait : List JRec
  /-- Ring position: oldest unit, newest unit, sectors used in it, and the erase count of each unit used. -/
  tail : Nat
  head : Nat
  used : Nat
  erases : List (Nat × Nat)
  /-- JSYNC or JCLEAR runs; a frame awaits its JOURNAL_SYNCED (R387, R389). -/
  sync : Bool
  clearing : Bool
  report : Bool
  deriving DecidableEq, Repr

/-! ## Firmware update (R395, R396) -/

/-- The update of firmware, as FWSTAT reports it (R395): 0 idle, 1 erasing, 2 receiving, 3 verifying, 4 verified, 5 failed;
the target slot (B when true), bytes received, length, latest status, and the session that owns it while unfinished; the
long operation that runs: 1 the erase, 2 the verification (R389); and a RESET that waits for its delay (R397). -/
structure FwUpdate where
  st : Nat
  slot : Bool
  got : Nat
  len : Nat
  status : Nat
  owner : Option Nat
  run : Nat
  reset : Bool
  deriving DecidableEq, Repr

/-! ## Network (R311 to R346) -/

/-- An entry of the MAC table: seconds since a dynamic entry was refreshed. -/
structure MacEnt where
  mac : Nat
  vid : Nat
  ports : Nat
  static_ : Bool
  age : Nat
  deriving DecidableEq, Repr

/-- A frame in an egress queue, as it will leave but for a correction: its bytes without the FCS, its queue, the port it
came in by (2 is internal) with its ingress stamp in ns, and what its stamp is for: the descriptor's TAG, a one-step Sync
to correct, or a two-step Sync to record. -/
structure Pkt where
  bytes : List Byte
  pcp : Nat
  ingress : Nat
  stamp : Int
  tag : Option Nat
  oneStep : Bool
  twoStep : Bool
  deriving DecidableEq, Repr

/-- An external port: its queues in order of arrival, the credits of its SR classes in units of 10^−6 bit with the model
time they stand for, the latest frame sent, and its link. -/
structure NetPort where
  q : List Pkt
  creditA : Int
  creditB : Int
  upd : Nat
  out : List Byte
  up : Bool
  /-- When the latest frame of class A, and of class B, ends on the line (R317). -/
  sentA : Nat
  sentB : Nat
  deriving DecidableEq, Repr

/-- A port without link or frames. -/
def NetPort.init : NetPort := ⟨[], 0, 0, 0, [], false, 0, 0⟩

/-- A talker: the channel words of the frame under way, its first sample, and the next sequence number. -/
structure Talker where
  acc : List (List Word)
  start : Nat
  seq : Nat
  deriving DecidableEq, Repr

/-- A listener: samples that wait for their tick m, the latest words, runs of late and of timely samples, its ramp and
the latest sequence number. -/
structure Listener where
  sched : List (Nat × List Word)
  hold : List Word
  lateRun : Nat
  goodRun : Nat
  ramp : InRamp
  seq : Option Nat
  deriving DecidableEq, Repr

/-- The switch, the stream engine and the UDP transport: what their registers do not hold. -/
structure Net where
  macs : List MacEnt
  ports : Vector NetPort 2
  /-- Records of the time-stamp FIFO, oldest first: NSW_TSF_INFO without VALID, and the stamp in ns. -/
  tsf : List (Nat × Nat)
  talkers : Vector Talker 8
  listeners : Vector Listener 8
  /-- Datagrams that the UDP transport has dropped (R369). -/
  udpDrops : Nat
  /-- Firmware's records of two-step Syncs sent on: key, egress port, and what their Follow_Up's correctionField gains (R327). -/
  syncs : List (Nat × Nat × Int)
  /-- Follow_Ups whose Sync is not yet sent. -/
  fups : List (Nat × List Byte)
  deriving DecidableEq, Repr

/-- Ports without links or frames, and stopped streams. -/
def Net.init : Net where
  macs := []
  ports := Vector.replicate 2 NetPort.init
  tsf := []
  talkers := Vector.replicate 8 ⟨[], 0, 0⟩
  listeners := Vector.replicate 8 ⟨[], [], 0, 0, .pass, none⟩
  udpDrops := 0
  syncs := []
  fups := []

/-! ## SEC and the mask ROM (R454 to R473) -/

/-- The engines of SEC: the bytes of the digest in progress, the inputs of the verify that runs (R473). -/
structure Sec where
  msg : Option (List Byte)
  verify : Option (List Byte)
  deriving DecidableEq, Repr

/-- The mask ROM: the recovery window is open, the length of the load in progress, and a checked image that waits for
its hand-over (R467, R468). -/
structure Rom where
  window : Bool
  load : Option Nat
  handover : Bool
  /-- WAKE opened the window before the slots were tried (R454, step 6). -/
  first : Bool
  deriving DecidableEq, Repr
/-! ## Serial peripherals (R358 to R372, R398 to R427) -/

/-- An entry of a UART receive queue. -/
structure RxEnt where
  data : BitVec 9
  fe : Bool
  pe : Bool
  brk : Bool
  deriving DecidableEq, Repr

/-- A character as the receiver has sampled it (R400, R401): its data bits with the ninth bit, its parity bit, its first stop
bit, and whether every sample was low (R403). -/
structure RxChar where
  data : BitVec 9
  parity : Bool
  stop : Bool
  allLow : Bool
  deriving DecidableEq, Repr

/-- A UART with its transport: what its registers do not hold. -/
structure Uart where
  tx : List (BitVec 9)
  rx : List RxEnt
  /-- Flow-control characters to send ahead of queued data: XOFF when true (R408). -/
  xctl : List Bool
  /-- XOFF has been sent for the receive level and XON has not. -/
  xoff : Bool
  /-- DE is active (R409). -/
  de : Bool
  /-- Receiving on the slow clock (R412). -/
  slow : Bool
  /-- Settings of an epoch that wait for the transmitter to fall idle (R413), as register writes. -/
  waiting : List (Nat × Word)
  /-- Bytes of the transport frame since its opening flag, and an escape in progress (R366, R367). -/
  frame : Option (List Byte)
  esc : Bool
  /-- Framed bytes that the transport has still to put into the transmit queue. -/
  out : List Byte
  /-- Frames the transport has discarded (R367). -/
  discarded : Nat
  /-- The character sent last: for each bit the level that TXD drives, none where it is released (R409), and the kernel cycles
  that a bit is held (R399). -/
  line : List (Option Bool)
  bt : Nat
  /-- A BREAK has been received, and the line has not been high for a character time since (R403). -/
  brk : Bool
  deriving DecidableEq, Repr

/-- A UART with empty queues. -/
def Uart.init : Uart := ⟨[], [], [], false, false, false, [], none, false, [], 0, [], 0, false⟩

/-- The SPI controller: commands waiting, FIFOs, bits moved of the command that runs, the select held low, and the lanes IO0
to IO3 in each SCK period of the latest transfer: those that it drives, and their levels (R416). -/
structure Psc where
  cmds : List Word
  tx : List Word
  rx : List (Word × Nat × Bool)
  moved : Nat
  sel : Option Nat
  out : List (BitVec 4 × BitVec 4)
  deriving DecidableEq, Repr

/-- What passes on the I2C bus: START, a byte that the controller sends or receives with its acknowledgement, STOP (R421). -/
inductive I2cSym where
  | start
  | out (b : Byte) (ack : Bool)
  | inp (b : Byte) (ack : Bool)
  | stop
  deriving DecidableEq, Repr

/-- The I2C controller: FIFOs, the transfer that runs with the bytes it has moved, SCL held under NOSTOP; the running
transfer is firmware's PMIC transfer, or that transfer waits for the controller (R206); and what has passed on the bus since
the transfer's GO (R421): nothing while the transfer waits for a free bus. -/
structure I2c where
  tx : List Byte
  rx : List Byte
  run : Option (Word × Nat)
  held : Bool
  pmic : Bool
  pmicWait : Bool
  sent : List I2cSym
  deriving DecidableEq, Repr

/-- A word of the HSP receive FIFO: its flags (R372), and the message it belongs to: channel, and cut short (R363). -/
structure HspRx where
  word : Word
  part : Bool
  last : Bool
  nbits : Nat
  ch : Nat
  cut : Bool
  deriving DecidableEq, Repr

/-- The host SPI target: FIFOs, the words of a message that firmware has taken from the receive FIFO, the reply words
owed by the next out phase (a channel and a count), what the next status word carries, and the words of the latest out
phase. -/
structure Hsp where
  tx : List Word
  rx : List HspRx
  msg : List HspRx
  owed : Option (Nat × Nat)
  underrun : Option Nat
  partialPrev : Bool
  rxBusy : Bool
  out : List Word
  /-- The lanes IO0 to IO3 in each SCK period of that frame after its command word: those that HSP drives, and their levels
  (R358, R360). -/
  pins : List (BitVec 4 × BitVec 4)
  deriving DecidableEq, Repr


/-! ## Time unit (R321 to R333) -/

/-- A pulse generator (R329): the number of its next edge pair, the active phase, a pending DISARM, and the pin's level. -/
structure Pulse where
  j : Nat
  phase : Bool
  disarm : Bool
  active : Bool
  deriving DecidableEq, Repr

/-- The time unit: what its registers do not hold. -/
structure TimeUnit where
  /-- The count, in units of 2^−32 ns (R321). -/
  t : Nat
  /-- The legacy counter, in units of 2^−32 ns, and the pending high word (R325). -/
  leg : Nat
  lnsh : Word
  /-- SET or STEP waits for the next tick (R323). -/
  setPend : Bool
  stepPend : Bool
  /-- The SET that waits was written after the STEP that waits, and passes over it (R323). -/
  stepOver : Bool
  /-- Captured edges, oldest first: time in ns and rising (R330). -/
  cap : List (Nat × Bool)
  /-- Time of the latest captured edge in ns (R391). -/
  capLast : Nat
  tp : Vector Pulse 2
  trigArmed : Bool
  /-- The time source is present, with its offset from the TU in ns (R328). -/
  source : Bool
  offset : Int
  deriving DecidableEq, Repr

/-! ## The machine -/

/-- What the latest access on the crossbar returned: its data, and a bus error (R19).  The model's own field: a command
that reads leaves the word here. -/
structure Resp where
  data : Word
  err : Bool
  deriving DecidableEq, Repr

/-- The state of the machine. -/
structure State where
  /-- Commands waiting, first in, first out. -/
  pending : List Instr
  /-- Registers of the peripheral blocks that differ from their reset value, by address. -/
  regs : List (Nat × Word)
  /-- Partner words latched by a read and not yet read, by address (R68, R102, R187, R251). -/
  latch : List (Nat × Word)
  resp : Resp
  /-- What each access of the latest BUS_ACCESS returned, in the order granted (R21). -/
  resps : List (Initiator × Resp)
  /-- Counter of free values taken (the model's own field, log 6). -/
  freeCtr : Nat
  /-- Time since reset in units of 1/128 ns (the model's own clock, for delays between commands). -/
  now : Nat
  /-- S0 time, in the same unit (R202, R244). -/
  s0 : Nat
  /-- Control SRAM, by byte offset; an unlisted byte reads 0 (log 4). -/
  sram : List Host.Cell
  /-- Words of control SRAM, by word offset, that hold a double-bit or a single-bit error (R25). -/
  sramBad : List Nat
  sramSoft : List Nat
  /-- Long delay store, by word address; an unlisted word reads 0; words with an uncorrectable or correctable error. -/
  lds : List (Nat × Word)
  ldsBad : List Nat
  ldsSoft : List Nat
  engs : Vector Engine 17
  les : Vector LogEng 16
  doms : Vector Domain 4
  /-- Write side of the exchange: the slots written in the period (R50). -/
  slotWr : List (Nat × Word)
  stg : Stager
  scu : Scu
  lehr : Lehr
  pmu : Pmu
  /-- Applied values of the parameters that differ from their defaults, by pid (R183). -/
  params : List (Nat × List Byte)
  /-- The change log, oldest first (R185). -/
  log : List LogEntry
  mbx : Vector Mailbox 64
  tu : TimeUnit
  acs : Vector Acs 2
  mclk : Vector Mclk 2
  sysLoop : SysLoop
  uarts : Vector Uart 3
  psc : Psc
  i2c : I2c
  hsp : Hsp
  asps : Vector AspPort 8
  pdms : Vector Pdm 4
  iecRx : IecRx
  iecTx : IecTx
  srcs : Vector SrcGroup 8
  net : Net
  fw : FwUpdate
  flash : Flash
  journal : Journal
  sec : Sec
  rom : Rom
  ccs : Vector CtlCore 2
  /-- ECCADDR and ECCCNT, which both cores share (R500). -/
  eccAddr : Word
  eccCnt : Word
  dma : Vector DmaCh 16
  /-- The channel that DMA served last, and the one served last of each class of PRIO (R510). -/
  dmaLast : Nat
  dmaTurn : Vector Nat 2
  /-- Interrupt lines of events that no flag holds (PMU 23, TSU 24, SE 60), and the latched lines 61 and 62 of each core
  as 64 × core + line (R491, log 24). -/
  irqs : List Nat
  /-- Fuse words that have a blown bit (R471); the reads of SEC_FUSE show them but for secret words. -/
  fuse : List (Nat × Word)
  deriving DecidableEq, Repr

/-- The machine right after reset: every register at its reset value, every memory at its content after reset, and the
queue empty. -/
def State.reset : State where
  pending := []
  regs := []
  latch := []
  resp := ⟨0, false⟩
  resps := []
  freeCtr := 0
  now := 0
  s0 := 0
  sram := []
  sramBad := []
  sramSoft := []
  lds := []
  ldsBad := []
  ldsSoft := []
  engs := Vector.replicate 17 Engine.init
  les := Vector.replicate 16 LogEng.init
  doms := Vector.replicate 4 Domain.init
  slotWr := []
  stg := ⟨[], 0, [], [], [], 0, none, 0, false, false, none⟩
  scu := ⟨0, 0, none, 0, false, false, false, false, false, false, false, false, none, 15⟩
  lehr := ⟨0, false, false, [], 0, [], 0, 0, 0, false, 0, none, 0, false, false, false, 0⟩
  pmu := ⟨false, false, true, true, true, false, true, 0, false, false, 0, none, 800⟩
  params := []
  log := []
  mbx := Vector.replicate 64 Mailbox.init
  tu := ⟨0, 0, 0, false, false, false, [], 0, Vector.replicate 2 ⟨0, false, false, false⟩, false, false, 0⟩
  acs := Vector.replicate 2 ⟨none, 1, Mash.init, 0, 0⟩
  mclk := Vector.replicate 2 ⟨false, 0, 0, 0⟩
  sysLoop := ⟨false, 40, 0, Mash.init⟩
  uarts := Vector.replicate 3 Uart.init
  psc := ⟨[], [], [], 0, none, []⟩
  i2c := ⟨[], [], none, false, false, false, []⟩
  asps := Vector.replicate 8 AspPort.init
  pdms := Vector.replicate 4 Pdm.init
  iecRx := ⟨0, [], 0, 0, none, [], [], [], [], 0, none, 0, false, false⟩
  iecTx := ⟨.none, 0, [], [], none, 0, 0, ⟨0, false, false, false, false⟩, ⟨0, false, false, false, false⟩, []⟩
  srcs := Vector.replicate 8 SrcGroup.init
  net := Net.init
  fw := ⟨0, false, 0, 0, 0, none, 0, false⟩
  flash := ⟨[], none, FlashPart.nor64, true, XMode.first, XMode.first, [], [], [], [], [], [], [], 0, none, []⟩
  journal := ⟨[], 0, [], 0, 0, 0, [], false, false, false⟩
  sec := ⟨none, none⟩
  rom := ⟨false, none, false, false⟩
  ccs := Vector.replicate 2 CtlCore.init
  eccAddr := 0
  eccCnt := 0
  dma := Vector.replicate 16 ⟨none, 0⟩
  dmaLast := 15
  dmaTurn := Vector.replicate 2 15
  irqs := []
  fuse := []
  hsp := ⟨[], [], [], none, none, false, false, [], []⟩

end Sys2Proof.Machine
end

