-- ==== Sys2Proof/Machine/Ops.lean ====
section
/-! DEFINITION. The named operations over sparse memories, registers, fields, units, free values and time that the
meanings share. -/

namespace Sys2Proof.Machine

/-! ## Sparse memories: sorted lists of what differs from a default -/

/-- The value at a key: the listed one, or the default. -/
def smapGet {α : Type} (dflt : Nat → α) : List (Nat × α) → Nat → α
  | [], k => dflt k
  | (a, v) :: m, k => if a = k then v else smapGet dflt m k

/-- Insert or replace an entry of a sorted list. -/
def smapIns {α : Type} : List (Nat × α) → Nat → α → List (Nat × α)
  | [], k, v => [(k, v)]
  | (a, w) :: m, k, v =>
    if k < a then (k, v) :: (a, w) :: m else if k = a then (k, v) :: m else (a, w) :: smapIns m k v

/-- Take the entries of a key out. -/
def smapDel {α : Type} : List (Nat × α) → Nat → List (Nat × α)
  | [], _ => []
  | (a, w) :: m, k => if k = a then smapDel m k else (a, w) :: smapDel m k

/-- Write: a value equal to the default leaves no entry. -/
def smapSet {α : Type} [DecidableEq α] (dflt : Nat → α) (m : List (Nat × α)) (k : Nat) (v : α) : List (Nat × α) :=
  if v = dflt k then smapDel m k else smapIns m k v

/-- The canonical form: addresses strictly rising, and no entry that equals its default. -/
def smapWf {α : Type} [DecidableEq α] (dflt : Nat → α) : List (Nat × α) → Bool
  | [] => true
  | [(a, v)] => decide (v ≠ dflt a)
  | (a, v) :: (b, w) :: m => decide (v ≠ dflt a) && decide (a < b) && smapWf dflt ((b, w) :: m)

/-- Reads and writes of a memory whose unlisted words are 0. -/
def memGet {w : Nat} (m : List (Nat × BitVec w)) (k : Nat) : BitVec w := smapGet (fun _ => 0#w) m k
def memSet {w : Nat} (m : List (Nat × BitVec w)) (k : Nat) (v : BitVec w) : List (Nat × BitVec w) :=
  smapSet (fun _ => 0#w) m k v

/-- A run of words from a key on takes new values. -/
def memSplice {w : Nat} (m : List (Nat × BitVec w)) (k : Nat) (vs : List (BitVec w)) : List (Nat × BitVec w) :=
  m.filter (fun p => p.1 < k) ++ ((vs.zipIdx k).filter fun p => p.1 ≠ 0#w).map (fun p => (p.2, p.1)) ++
    m.filter fun p => k + vs.length ≤ p.1

/-- The value listed at a key, if any: for lists of what has been written. -/
def listed {α : Type} (m : List (Nat × α)) (k : Nat) : Option α := (m.find? (·.1 = k)).map (·.2)

/-- A list of numbers with one more, without repeats; and with one less. -/
def addNat (l : List Nat) (n : Nat) : List Nat := if n ∈ l then l else l ++ [n]
def delNat (l : List Nat) (n : Nat) : List Nat := l.filter (· ≠ n)

/-! ## Registers and fields (R5, R6) -/

/-- The value a register holds. -/
def State.reg (s : State) (a : Nat) : Word := smapGet regReset s.regs a

/-- A register takes a value. -/
def State.setReg (s : State) (a : Nat) (v : Word) : State := { s with regs := smapSet regReset s.regs a v }

/-- The number in bits hi to lo of a word. -/
def wordFld (w : Word) (hi lo : Nat) : Nat := w.toNat / 2 ^ lo % 2 ^ (hi + 1 - lo)

/-- A word with bits hi to lo replaced by the low bits of a number. -/
def wordSet (w : Word) (hi lo v : Nat) : Word :=
  BitVec.ofNat 32 (w.toNat - wordFld w hi lo * 2 ^ lo + v % 2 ^ (hi + 1 - lo) * 2 ^ lo)

/-- The number a field holds, and whether a one-bit field is 1. -/
def State.f (s : State) (x : Fld) : Nat := wordFld (s.reg x.addr) x.hi x.lo
def State.b (s : State) (x : Fld) : Bool := s.f x ≠ 0

/-- A field takes a number. -/
def State.setF (s : State) (x : Fld) (v : Nat) : State := s.setReg x.addr (wordSet (s.reg x.addr) x.hi x.lo v)

/-- A sticky flag sets; a field rises by one and stops at its maximum; a field rises and wraps. -/
def State.flag (s : State) (x : Fld) : State := s.setF x 1
def State.sat (s : State) (x : Fld) (n : Nat) : State := s.setF x (min (s.f x + n) (2 ^ (x.hi + 1 - x.lo) - 1))
def State.wrap (s : State) (x : Fld) (n : Nat) : State := s.setF x (s.f x + n)

/-- A bit of a field of flags. -/
def State.fbit (s : State) (x : Fld) (i : Nat) : Bool := (s.f x).testBit i
def State.setFbit (s : State) (x : Fld) (i : Nat) (v : Bool) : State :=
  s.setF x (s.f x - b2n (s.fbit x i) * 2 ^ i + b2n v * 2 ^ i)

/-- A 64-bit number held by a low and a high register. -/
def State.f2 (s : State) (lo hi : Fld) : Nat := s.f lo + 2 ^ 32 * s.f hi
def State.setF2 (s : State) (lo hi : Fld) (v : Nat) : State := (s.setF lo v).setF hi (v / 2 ^ 32)

/-- The registers of a block of `len` bytes return to their reset values. -/
def State.resetBlock (s : State) (base len : Nat) : State :=
  { s with regs := s.regs.filter (fun p => p.1 < base ∨ base + len ≤ p.1)
           latch := s.latch.filter (fun p => p.1 < base ∨ base + len ≤ p.1) }

/-- The value a register takes by a write under the types of R6, with the locked bits of its RWL fields. -/
def regWriteVal (r : RegRow) (locked old data : Word) : Word :=
  let set := BitVec.ofNat 32 (r.rw ||| r.rwl) &&& ~~~ (BitVec.ofNat 32 r.rwl &&& locked)
  let v := (old &&& ~~~ set) ||| (data &&& set)
  (v &&& ~~~ (data &&& BitVec.ofNat 32 r.w1c)) ||| (data &&& BitVec.ofNat 32 r.w1s)

/-- The bits of a register that no field holds (R5). -/
def RegRow.reserved (r : RegRow) : Nat :=
  0xFFFFFFFF - (r.rw ||| r.w1c ||| r.w1s ||| r.rc ||| r.wo ||| r.rwl ||| r.ro)

/-- A write that names no reserved bit leads to t; one that writes 1 to a reserved bit has no defined effect (R5). -/
def writeTo (a : Nat) (data : Word) (t : State) : Res State :=
  match regRow a with
  | some r => if data.toNat &&& r.reserved ≠ 0 then .fault (.reservedBitWritten a) else .next t
  | none => .next t

/-- The sticky flags of a register: its W1C bits are not all 0. -/
def State.sticky (s : State) (a : Nat) : Bool :=
  match regRow a with
  | some r => (s.reg a).toNat &&& r.w1c ≠ 0
  | none => false

/-- An event raises an interrupt line that no flag holds (log 24). -/
def State.irqEvent (s : State) (line : Nat) : State := { s with irqs := addNat s.irqs line }

/-- Bits of W1C fields that hardware sets in the cycle of a write: the set wins over an acknowledgement (R7). -/
def State.meet (s : State) (a : Nat) (bits : Word) : State :=
  match regRow a with
  | some r => s.setReg a (s.reg a ||| (bits &&& BitVec.ofNat 32 r.w1c))
  | none => s

/-- A word latched for a later read, and the read that takes it: a latched word is returned to one read (R68; how long a
latch holds is a DESIGN CHOICE, log 8). -/
def State.setLatch (s : State) (a : Nat) (v : Word) : State := { s with latch := smapIns s.latch a v }
def State.latchReg (s : State) (a : Nat) : State := s.setLatch a (s.reg a)
def State.takeLatch (s : State) (a : Nat) (cur : Word) : Word × State :=
  match listed s.latch a with
  | some v => (v, { s with latch := smapDel s.latch a })
  | none => (cur, s)

/-- The outcome of an access: its data, or a bus error. -/
def State.ret (s : State) (v : Word) : State := { s with resp := ⟨v, false⟩ }
def State.busErr (s : State) : State := { s with resp := ⟨0, true⟩ }

/-! ## Control SRAM (R17, R25) -/

/-- Control SRAM in its canonical form: addresses strictly rising, and no byte that equals what an unlisted one reads. -/
abbrev Memory.wf (m : List Host.Cell) : Bool := smapWf (fun _ => 0#8) m

/-- Bytes of control SRAM from an offset, and a write of bytes. -/
def State.sramGet (s : State) (off n : Nat) : List Byte := (List.range n).map fun i => memGet s.sram (off + i)
def State.sramSet (s : State) (off : Nat) (bs : List Byte) : State := { s with sram := memSplice s.sram off bs }

/-- Control SRAM lies at 0x1000_0000, with an uncached alias of the same words at 0x1800_0000, and holds 4 MiB (R23). -/
def sramBase : Nat := 0x10000000
def sramSize : Nat := 0x400000

/-- The byte offset in control SRAM of an address of either alias. -/
def sramOff (n : Nat) : Option Nat :=
  if 0x10000000 ≤ n ∧ n < 0x10400000 then some (n - 0x10000000)
  else if 0x18000000 ≤ n ∧ n < 0x18400000 then some (n - 0x18000000)
  else none

/-- A run of n bytes at an address lies whole in control SRAM, at this offset. -/
def sramRun (addr n : Nat) : Option Nat :=
  match sramOff addr with
  | some off => if off + n ≤ sramSize then some off else none
  | none => none

/-- A write of bytes by address; it makes the words that it covers whole sound (R25). -/
def State.sramFill (s : State) (addr : Nat) (bs : List Byte) : State :=
  match sramRun addr bs.length with
  | some off =>
    let out (w : Nat) : Bool := 4 * w < off || off + bs.length < 4 * w + 4
    { s.sramSet off bs with sramBad := s.sramBad.filter out, sramSoft := s.sramSoft.filter out }
  | none => s

/-! ## Units -/

/-- Change one entry of a vector; an index beyond its end changes nothing. -/
def vmod {α : Type} {n : Nat} (v : Vector α n) (i : Nat) (g : α → α) : Vector α n :=
  match v[i]? with
  | some x => v.setIfInBounds i (g x)
  | none => v

def State.eng (s : State) (e : Nat) : Engine := s.engs[e]?.getD Engine.init
def State.modEng (s : State) (e : Nat) (g : Engine → Engine) : State := { s with engs := vmod s.engs e g }
def State.le (s : State) (l : Nat) : LogEng := s.les[l]?.getD LogEng.init
def State.modLe (s : State) (l : Nat) (g : LogEng → LogEng) : State := { s with les := vmod s.les l g }
def State.dom (s : State) (d : Nat) : Domain := s.doms[d]?.getD Domain.init
def State.modDom (s : State) (d : Nat) (g : Domain → Domain) : State := { s with doms := vmod s.doms d g }
def State.mb (s : State) (m : Nat) : Mailbox := s.mbx[m]?.getD Mailbox.init
def State.modMb (s : State) (m : Nat) (g : Mailbox → Mailbox) : State := { s with mbx := vmod s.mbx m g }

/-- Run an operation for each number of a list, in order. -/
def State.forEach (s : State) (l : List Nat) (g : State → Nat → State) : State := l.foldl g s

/-- A free value of the manual: the counter moves on (log 6). -/
def State.free (s : State) : Nat × State := (Config.freeValue s.freeCtr, { s with freeCtr := s.freeCtr + 1 })

/-- The power domain of a number is on: bits of PMU_PDSTAT (R218). -/
def State.on (s : State) (pd : Nat) : Bool := s.fbit F.PMU_PDSTAT_ON pd
def State.setOn (s : State) (pd : Nat) (v : Bool) : State := s.setFbit F.PMU_PDSTAT_ON pd v

/-! ## Time (R321 to R325) -/

/-- An hour in units of model time. -/
def hourNow : Nat := 3600000000000 * 128

/-- Nanoseconds, in the unit of the time unit's count and in the unit of model time. -/
def tuNs : Nat := 2 ^ 32
def nowNs : Nat := 128

/-- Whole nanoseconds since the epoch of the time unit. -/
def State.tuTime (s : State) : Nat := s.tu.t / tuNs

/-- The SET value (R323). -/
def State.tuSetVal (s : State) : Nat :=
  ((s.f F.TU_SETSECL_SEC + 2 ^ 32 * s.f F.TU_SETSECH_SEC) * 1000000000 + s.f F.TU_SETNS_NS) * tuNs

/-- The count is a number of 48-bit seconds: it wraps after the last. -/
def tuWrap (i : Int) : Nat := (i % ((2 ^ 48 * 1000000000 * tuNs : Nat) : Int)).toNat

/-- What one tick adds: 8 ns and TU_ADJ, or TU_SLOWINC on the slow clock (R321, R322). -/
def State.tuInc (s : State) : Int :=
  if s.b F.TU_STAT_SLOW then (s.f F.TU_SLOWINC_INC : Int) * 2 ^ 16
  else 8 * 2 ^ 32 + sext 32 (s.f F.TU_ADJ_ADJ)

/-- A time of a seconds and a nanoseconds field, in ns. -/
def State.timeOf (s : State) (ns lo hi : Fld) : Nat := (s.f lo + 2 ^ 32 * s.f hi) * 1000000000 + s.f ns

/-- Start, period and effective width of a pulse generator in ns (R329). -/
def State.tpStart (s : State) (k : Nat) : Nat := s.timeOf (F.TP_NS_NS k) (F.TP_SECL_SEC k) (F.TP_SECH_SEC k)
def State.tpPeriod (s : State) (k : Nat) : Nat := s.f (F.TP_PERIOD_NS k)
def State.tpWidth (s : State) (k : Nat) : Nat :=
  let p := s.tpPeriod k
  if p ≠ 0 ∧ p ≤ s.f (F.TP_WIDTH_NS k) then p - 8 else s.f (F.TP_WIDTH_NS k)

/-- The smallest number of an edge pair whose start lies after an instant. -/
def State.tpNext (s : State) (k after : Nat) : Nat :=
  let st := s.tpStart k
  if after < st then 0 else (after - st) / s.tpPeriod k + 1

/-- A generator has ended. -/
def State.tpEnd (s : State) (k : Nat) (done : Bool) : State :=
  let s := { s with tu := { s.tu with tp := vmod s.tu.tp k fun _ => ⟨0, false, false, false⟩ } }.setF (F.TP_CTRL_ACTIVE k) 0
  if done then s.flag (F.TP_CTRL_DONE k) else s

/-- A SET or STEP passes over the edges of a running generator that lie in the past (R329); one that it takes back stay
as they are. -/
def State.tpSkip (s : State) (k : Nat) : State :=
  let p := s.tu.tp[k]?.getD ⟨0, false, false, false⟩
  let now := s.tuTime
  let edge := s.tpStart k + p.j * s.tpPeriod k + (if p.phase then s.tpWidth k else 0)
  if s.b (F.TP_CTRL_ACTIVE k) = false ∨ now < edge then s
  else if s.tpPeriod k = 0 ∨ p.disarm then s.tpEnd k (s.tpPeriod k = 0)
  else { s with tu := { s.tu with tp := vmod s.tu.tp k fun _ => ⟨s.tpNext k now, false, false, false⟩ } }

/-- One tick: a pending SET loads its value in place of the increment, and a pending STEP adds its own to either, but for one that
a later SET passes over (R323). -/
def State.tuTick (s : State) : State :=
  let x := s.tu
  let step : Int := if x.stepPend && !(x.setPend && x.stepOver) then sext 32 (s.f F.TU_STEPNS_NS) * 2 ^ 32 else 0
  let t := tuWrap ((if x.setPend then (s.tuSetVal : Int) else x.t + s.tuInc) + step)
  let s := { s with tu := { x with t := t, setPend := false, stepPend := false, stepOver := false } }
  let s := if x.setPend then (s.flag F.TU_STAT_SETEV).flag F.TU_STAT_VALID else s
  let s := if x.stepPend then s.flag F.TU_STAT_STEPEV else s
  if x.setPend ∨ x.stepPend then (s.tpSkip 0).tpSkip 1 else s

/-- `n` ticks of the time unit. -/
def State.tuTicks (s : State) (n : Nat) : State :=
  if n = 0 then s
  else
    let s := s.tuTick
    { s with tu := { s.tu with t := tuWrap (s.tu.t + (n - 1 : Nat) * s.tuInc) } }

/-- The time unit changes its source (R322); the pins of the generators fall inactive on the slow clock (R329). -/
def State.tuSource (s : State) (slow : Bool) : State :=
  let s := (s.setF F.TU_STAT_SLOW (b2n slow)).flag F.TU_STAT_CLKSW
  if slow then { s with tu := { s.tu with tp := s.tu.tp.map fun p => { p with active := false, phase := false } } }
  else (s.tpSkip 0).tpSkip 1

/-! ## Modulators and MCLK outputs (R263, R274) -/

/-- The dither LFSR moves on: x^24 + x^23 + x^22 + x^17 + 1, its newest bit entering below; its output bit is its top bit
(DESIGN CHOICE of the form, log 41). -/
def lfsrNext (l : BitVec 24) : BitVec 24 :=
  (l <<< 1) ||| (BitVec.ofBool (l.getLsbD 23 ^^ l.getLsbD 22 ^^ l.getLsbD 21 ^^ l.getLsbD 16)).setWidth 24

/-- One detector period of a MASH 1-1-1 modulator (R255, R263): the three first-order stages, with the dither bit that enters the
first, and the integer that it adds to INT, from −3 to +4. -/
def mashStep (frac : Word) (dither : Bool) (a : Mash) : Mash :=
  let s1 := a.m1.toNat + frac.toNat + b2n dither
  let s2 := a.m2.toNat + s1 % 2 ^ 32
  let s3 := a.m3.toNat + s2 % 2 ^ 32
  let c (x : Nat) : Int := (x / 2 ^ 32 : Nat)
  { m1 := BitVec.ofNat 32 s1, m2 := BitVec.ofNat 32 s2, m3 := BitVec.ofNat 32 s3
    c2 := decide (2 ^ 32 ≤ s2), c3 := decide (2 ^ 32 ≤ s3), c3b := a.c3
    add := c s1 + (c s2 - b2n a.c2) + (c s3 - 2 * b2n a.c3 + b2n a.c3b) }

/-- `n` detector periods of a modulator without dither, and of an ACS with its LFSR. -/
def mashRun (frac : Word) : Nat → Mash → Mash
  | 0, a => a
  | n + 1, a => mashRun frac n (mashStep frac false a)
def acsRun (frac : Word) (dither : Bool) : Nat → Acs → Acs
  | 0, a => a
  | n + 1, a => acsRun frac dither n { a with
      mash := mashStep frac (dither && a.lfsr.getLsbD 23) a.mash, lfsr := if dither then lfsrNext a.lfsr else a.lfsr }

/-- An enabled ACS runs for `n` detector periods (R263), and the SYS MDLL for `n` reference periods (R255). -/
def State.acsDet (s : State) (i n : Nat) : State :=
  if n = 0 ∨ s.b (F.ACS_CTRL_EN i) = false then s
  else { s with acs := vmod s.acs i (acsRun (s.reg (R.ACS_LIVEF i)) (s.b (F.ACS_CTRL_DITHEN i)) n) }
def State.sysDet (s : State) (n : Nat) : State :=
  if n = 0 ∨ s.b F.CLK_CTRL_SYSEN = false then s
  else { s with sysLoop := { s.sysLoop with mash := mashRun s.sysLoop.frac n s.sysLoop.mash } }

/-- High and low ACS cycles of a division by DIV + 1 (R274). -/
def mclkHigh (div : Nat) : Nat := (div + 2) / 2
def mclkLow (div : Nat) : Nat := (div + 1) / 2

/-- An MCLK output while `n` cycles of its ACS pass, of `tot 0` and `tot 1` that the two ACSs make meanwhile: a change of DIV
or SRC takes effect at a falling edge, and an output whose EN clears ends its high phase and stays low (R274). -/
def mclkRun (en : Bool) (div src : Nat) (tot : Nat → Nat) : Nat → Nat → Mclk → Mclk
  | 0, _, m => m
  | fuel + 1, n, m =>
    let fall : Mclk := if mclkLow div = 0 then ⟨true, mclkHigh div, div, src⟩ else ⟨false, mclkLow div, div, src⟩
    if n = 0 then m
    else if m.left = 0 then if en then mclkRun en div src tot fuel (tot src) fall else m
    else
      let n := if en ∧ m.div = div ∧ m.src = src ∧ 2 * (div + 1) < n then n % (div + 1) + (div + 1) else n
      if n < m.left then { m with left := m.left - n }
      else
        let r := n - m.left
        if m.level then
          if en then mclkRun en div src tot fuel (if m.src = src then r else r * tot src / max (tot m.src) 1) fall
          else { m with level := false, left := 0 }
        else if en then mclkRun en div src tot fuel r { m with level := true, left := mclkHigh m.div }
        else { m with left := 0 }

/-- Both MCLK outputs while the ACSs make `n0` and `n1` output cycles. -/
def State.mclkCycles (s : State) (n0 n1 : Nat) : State :=
  if n0 = 0 ∧ n1 = 0 then s
  else
    let tot := fun a => if a = 0 then n0 else n1
    s.forEach [0, 1] fun s k =>
      let src := s.f (F.MCLKO_SRC k)
      let run := fun (m : Mclk) =>
        mclkRun (s.b (F.MCLKO_EN k)) (s.f (F.MCLKO_DIV k)) src tot 16 (tot (if m.left = 0 then src else m.src)) m
      { s with mclk := vmod s.mclk k run }

/-- Time passes: `ticks` ticks of the time unit, `slow` slow-clock periods, and what the ACSs make meanwhile. -/
def State.advance (s : State) (el : Elapsed) : State :=
  let leg := if s.b F.TU_STAT_SLOW then s.tu.leg
    else (s.tu.leg + el.ticks * (s.f F.TU_LINCI_NS * 2 ^ 32 + s.f F.TU_LINCF_FRAC)) % 2 ^ 96
  let dt := el.ticks * (if s.b F.TU_STAT_SLOW then 3906250 else 8 * nowNs)
  let s1 := { s with
    now := s.now + dt
    s0 := if s.f F.PMU_STAT_STATE = 0 then s.s0 + dt else s.s0
    tu := { s.tu with leg := leg } }
  let s2 := ((((s1.wrap F.PMU_SLOWCNT_COUNT el.slow).sysDet el.detSys).acsDet 0 el.det0).acsDet 1 el.det1).mclkCycles el.acs0 el.acs1
  s2.tuTicks el.ticks

/-- The time unit's value as 12 bytes: seconds, two zero bytes, nanoseconds (R377). -/
def timeBytes (ns : Nat) : List Byte := leBytes 6 (ns / 1000000000) ++ [0, 0] ++ leBytes 4 (ns % 1000000000)

/-- Cut a list of bytes into entries of `n` bytes; `fuel` bounds their number. -/
def chunks {α : Type} (n : Nat) : Nat → List α → List (List α)
  | 0, _ => []
  | _, [] => []
  | fuel + 1, bs => bs.take n :: chunks n fuel (bs.drop n)

/-! ## Bits on lanes -/

/-- The bits of a number, most significant first; and the number that bits spell. -/
def msbBits (w v : Nat) : List Bool := (List.range w).map fun i => v.testBit (w - 1 - i)
def bitsNat (bs : List Bool) : Nat := bs.foldl (fun n b => 2 * n + b2n b) 0

/-- The bits of one sample of the lanes from IO0 up: a single lane has its number; with more, the highest lane is the most
significant (R358, R416). -/
def laneBits {w : Nat} (single lanes : Nat) (v : BitVec w) : List Bool :=
  if lanes = 1 then [v.getLsbD single] else (List.range lanes).map fun i => v.getLsbD (lanes - 1 - i)

/-- The lanes driven for some bits in each period, and their levels, as sets of lanes by number. -/
def laneSets (single lanes : Nat) (bits : List Bool) : List (Nat × Nat) :=
  if lanes = 1 then bits.map fun b => (2 ^ single, b2n b * 2 ^ single)
  else (chunks lanes bits.length bits).map fun g => (2 ^ lanes - 1, bitsNat g)

end Sys2Proof.Machine
end

