-- ==== Sys2Proof/Machine/Image.lean ====
section
/-! DEFINITION. Render images (R162 to R167): the fields of a DZRI file, its sections, and the digest that covers it. -/

namespace Sys2Proof.Machine

/-! ## Fields of a file -/

/-- `n` bytes from an offset, as an unsigned number, least significant byte first. -/
def fileNat (f : List Byte) (off n : Nat) : Nat := leNat ((f.drop off).take n)
def u8 (f : List Byte) (off : Nat) : Nat := fileNat f off 1
def u16 (f : List Byte) (off : Nat) : Nat := fileNat f off 2
def u32 (f : List Byte) (off : Nat) : Nat := fileNat f off 4
def s32 (f : List Byte) (off : Nat) : Int := sext 32 (u32 f off)

/-- Header fields (R163). -/
def imgNTier (f : List Byte) : Nat := u8 f 12
def imgCmaxChk (f : List Byte) : Bool := (u8 f 13).testBit 0
def imgRampLen (f : List Byte) : Nat := u16 f 14
def imgWarmup (f : List Byte) : Nat := u32 f 16
def imgCount (f : List Byte) (k : Nat) : Nat := u16 f (20 + 2 * k)
def imgNSect (f : List Byte) : Nat := u16 f 28

/-- Tier table fields (R164). -/
def imgEntry (f : List Byte) (t : Nat) : Nat := u16 f (64 + 32 * t)
def imgBase (f : List Byte) (t : Nat) : Nat := u32 f (68 + 32 * t)
def imgTerm (f : List Byte) (t k : Nat) : Nat := u32 f (72 + 32 * t + 4 * k)
def imgEnergy (f : List Byte) (t : Nat) : Nat := u32 f (88 + 32 * t)

/-- Cycles of a pass of a tier at given counts (R164). -/
def imgCycles (f : List Byte) (t : Nat) (c : Nat → Nat) : Nat :=
  imgBase f t + imgTerm f t 0 * c 0 + imgTerm f t 1 * c 1 + imgTerm f t 2 * c 2 + imgTerm f t 3 * c 3

/-- Directory entry i: type, offset and size (R165). -/
def imgDir (f : List Byte) (i : Nat) : Nat × Nat × Nat :=
  (u16 f (192 + 12 * i), u32 f (196 + 12 * i), u32 f (200 + 12 * i))

/-- The directory. -/
def imgDirs (f : List Byte) : List (Nat × Nat × Nat) := (List.range (imgNSect f)).map (imgDir f)

/-- The bytes of a section; none when the image has no such section. -/
def imgSect (f : List Byte) (type : Nat) : List Byte :=
  match (imgDirs f).find? (·.1 = type) with
  | some (_, off, size) => (f.drop off).take size
  | none => []

/-- The entries of a section, of `n` bytes each. -/
def imgEntries (f : List Byte) (type n : Nat) : List (List Byte) :=
  let b := imgSect f type
  chunks n (b.length / n) b

/-- Words of a section, as a sparse memory from address 0. -/
def toMem {w : Nat} (l : List Nat) : List (Nat × BitVec w) :=
  (l.zipIdx.map fun p => (p.2, BitVec.ofNat w p.1)).filter (·.2 ≠ 0)

/-- Program, coefficient and state content (R165). -/
def imgProg (f : List Byte) : List (Nat × Word64) := toMem ((imgEntries f 1 8).map leNat)
def imgCoef (f : List Byte) : List (Nat × Word) := toMem ((imgEntries f 2 4).map leNat)
def imgState (f : List Byte) : List (Nat × Word) := toMem ((imgEntries f 3 4).map leNat)

/-- Line descriptors, long lines, gather and long-write entries. -/
def imgDesc (f : List Byte) : List Nat := (imgEntries f 4 4).map leNat
def imgLLine (f : List Byte) : List Nat := (imgEntries f 5 4).map leNat
def imgGath (f : List Byte) : List Nat := (imgEntries f 6 4).map leNat
def imgLwr (f : List Byte) : List Nat := (imgEntries f 7 4).map leNat

/-- Declared input and output indices (R166). -/
def imgXin (f : List Byte) : List Nat := (imgEntries f 8 16).map (u16 · 0)
def imgXout (f : List Byte) : List Nat := (imgEntries f 9 16).map (u16 · 0)

/-- Meter map: address and member (R166). -/
def imgMeters (f : List Byte) : List (Nat × Nat) := (imgEntries f 10 8).map fun e => (u16 e 0, u16 e 4)

/-- A parameter map entry (R166). -/
structure ImgParam where
  name : List Byte
  member : Nat
  /-- Coefficient format Q4.28. -/
  q428 : Bool
  /-- 0 raw, 1 gain, 2 ramped target, 3 table. -/
  kind : Nat
  space : Nat
  addr : Nat
  count : Nat
  min : Int
  max : Int
  deriving DecidableEq, Repr

/-- The parameter map. -/
def imgParams (f : List Byte) : List ImgParam :=
  (imgEntries f 11 32).map fun e =>
    ⟨e.take 16, u16 e 16, (u8 e 18).testBit 7, u8 e 18 % 4, u8 e 19, u16 e 20, u16 e 22, s32 e 24, s32 e 28⟩

/-- The parameter with a member number. -/
def imgParam (f : List Byte) (member : Nat) : Option ImgParam := (imgParams f).find? (·.member = member)

/-! ## Gain conversion (R167) -/

/-- The largest n ≤ `hi` with n^k × q ≤ p × c, for a rising comparison, by bisection over `fuel` bits. -/
def rootSearch (ok : Nat → Bool) : Nat → Nat → Nat
  | 0, n => n
  | b + 1, n => rootSearch ok b (if ok (n + 2 ^ b) then n + 2 ^ b else n)

/-- floor(10^(g / 2,000) × 2^sh), saturated to 0x7FFF_FFFF: the largest word whose 2,000th power does not exceed
10^g × 2^(2,000 × sh). -/
def gainWord (g : Int) (sh : Nat) : Nat :=
  let ok (n : Nat) : Bool :=
    if 0 ≤ g then n ^ 2000 ≤ 10 ^ g.toNat * 2 ^ (2000 * sh) else n ^ 2000 * 10 ^ (-g).toNat ≤ 2 ^ (2000 * sh)
  min (rootSearch ok 31 0) 0x7FFFFFFF

/-- The word a gain parameter writes for g hundredths of a dB. -/
def gainParamWord (p : ImgParam) (g : Int) : Nat := gainWord g (if p.q428 then 28 else 31)

/-- The largest g from MIN to MAX whose word does not exceed a coefficient word, compared as signed values; MIN when even
MIN's word exceeds it (R167).  Words rise with g, so a bisection over the range finds it. -/
def gainOfWord (p : ImgParam) (w : Word) : Int :=
  let ok (n : Nat) : Bool := p.min + n ≤ p.max && (gainParamWord p (p.min + n) : Int) ≤ w.toInt
  p.min + rootSearch ok 32 0

end Sys2Proof.Machine
end

