-- ==== Sys2Proof/Machine/Mailbox.lean ====
section
/-! DEFINITION. Mailbox rings, the frames of the Baost Command Protocol and the delivery of events (R347, R348, R355,
R356, R373, R374, R392 to R394). -/

namespace Sys2Proof.Machine

/-- The transport of a mailbox, coded as in the change log (R185, R347). -/
def mbxTransport (m : Nat) : Nat :=
  if m < 4 then 1 else if m < 7 then m - 2 else if m = 7 then 6 else 5

/-- The session number of a mailbox's open session: its generation and its number (R348). -/
def State.session (s : State) (m : Nat) : Nat := (s.mb m).gen * 64 + m

/-- A BCP frame: the 16-byte header and the payload (R373). -/
def bcpFrame (op flags session seq epoch : Nat) (payload : List Byte) : List Byte :=
  [4, BitVec.ofNat 8 op] ++ leBytes 2 flags ++ leBytes 2 session ++ leBytes 2 seq ++
    leBytes 4 payload.length ++ leBytes 4 epoch ++ payload

/-- Zero bytes up to a multiple of 4 (R376). -/
def padding (n : Nat) : List Byte := List.replicate ((4 - n % 4) % 4) 0

/-- An item of a payload the device sends, padded (R376). -/
def item (type : Nat) (v : List Byte) : List Byte := leBytes 2 type ++ leBytes 2 v.length ++ v ++ padding v.length

/-- The doorbell of a response ring; that of mailbox 7 starts CC1 while it waits in ROM: it clears the bit and jumps to the
address in AON_RET[2] (R357, R454). -/
def State.rspBell (s : State) (m : Nat) : State :=
  if m = 7 && s.on 20 && (s.ccs[1]?.getD CtlCore.init).parked then
    let pc := (s.reg (R.AON_RET 2)).toNat
    { s with ccs := vmod s.ccs 1 fun k => { k with parked := false, pc := pc } }
  else s.setFbit (F.MBX_RSPPEND_PEND (m / 32)) (m % 32) true

/-- CC1 comes to wait in ROM while its doorbell is pending: it starts at once (R454). -/
def State.cc1Wakes (s : State) : State :=
  if s.fbit (F.MBX_RSPPEND_PEND 0) 7 then (s.setFbit (F.MBX_RSPPEND_PEND 0) 7 false).rspBell 7 else s

/-- Firmware has CC1 start its application (R501, R503): where the product uses one, CC1PC holds the start routine (log 15).  CC1
must wait in ROM, and stays there after a third expiry of its watchdog within 60 s. -/
def State.appStart (s : State) : State :=
  let k := s.ccs[1]?.getD CtlCore.init
  if s.reg (R.AON_RET 2) ≠ 0 ∧ k.parked ∧ k.expiries.length < 3 then s.rspBell 7 else s

/-- Where firmware keeps a mailbox's rings and frame buffers: the request ring, the response ring 4 KiB above it, and 8 buffers
for each (DESIGN CHOICE, log 9). -/
def mbxArea (m : Nat) : Nat := if m < 8 then 0x10160000 + 0x14000 * m else 0x10200000 + 0x8000 * (m - 8)
def mbxBuf (m k : Nat) : Nat := mbxArea m + 0x2000 + (if m < 8 then 0x1080 else 0x600) * k

/-- The producer's part of R357: the frame in its buffer, and the 16-byte entry at an index of a ring (R355, R356).  A ring that
firmware has not set up has no address. -/
def State.ringWrite (s : State) (base n i buf : Nat) (f : Frame) : State :=
  if base = 0 then s
  else
    (s.sramFill buf (f.bytes ++ padding f.bytes.length)).sramFill (base + 16 * (i % max n 1))
      (leBytes 4 buf ++ leBytes 4 f.bytes.length ++ leBytes 2 f.tag ++ leBytes 2 f.flags ++ [0, 0, 0, 0])

/-- A frame joins the response ring: it is written, HEAD moves on, and the doorbell rings (R355 to R357). -/
def State.putRsp (s : State) (m : Nat) (f : Frame) : State :=
  let b := s.mb m
  let i := b.rspHead.toNat
  ((s.ringWrite b.rspBase.toNat b.rspN i (mbxBuf m (8 + i % 8)) f).modMb m fun b =>
    { b with rsp := b.rsp ++ [f], rspHead := b.rspHead + 1 }).rspBell m

/-- Firmware sends a frame: it waits for room on the response ring (R393). -/
def State.pushRsp (s : State) (m : Nat) (bytes : List Byte) (flags : Nat) : State :=
  let b := s.mb m
  if b.held = [] ∧ b.rsp.length < b.rspN then s.putRsp m ⟨bytes, 0, flags⟩
  else s.modMb m fun b => { b with held := b.held ++ [⟨bytes, 0, flags⟩] }

/-- The consumer of a response ring has taken n entries: TAIL moves on, and replies that waited take the room (R355, R393). -/
def State.rspTaken (s : State) (m n : Nat) : State :=
  let s := s.modMb m fun b => { b with rsp := b.rsp.drop n, rspTail := b.rspTail + BitVec.ofNat 32 n }
  let b := s.mb m
  let k := b.rspN - b.rsp.length
  (b.held.take k).foldl (fun s f => s.putRsp m f) (s.modMb m fun b => { b with held := b.held.drop k })

/-- The reply to a request with the header fields op, session and sequence: status and items (R373, R376). -/
def State.bcpReply (s : State) (op session seq status : Nat) (items : List Byte) : List Byte :=
  bcpFrame (op % 128 + 128) 0 session seq (s.f F.AON_EPAPPLIED_E) (leBytes 4 status ++ items)

/-- The 16-bit number at an offset of a frame. -/
def frameU16 (b : List Byte) (o : Nat) : Nat := leNat ((b.drop o).take 2)

/-- A transport puts a request on its ring and rings the doorbell (R355, R357); a full ring refuses it with BUSY (R352). -/
def State.pushReqTag (s : State) (m : Nat) (bytes : List Byte) (tag flags : Nat) : State :=
  let b := s.mb m
  if b.req.length < b.reqN then
    let i := b.reqHead.toNat
    ((s.ringWrite b.reqBase.toNat b.reqN i (mbxBuf m (i % 8)) ⟨bytes, tag, flags⟩).modMb m fun b =>
      { b with req := b.req ++ [⟨bytes, tag, flags⟩], reqHead := b.reqHead + 1 }).setFbit
        (F.MBX_REQPEND_PEND (m / 32)) (m % 32) true
  else
    s.pushRsp m (s.bcpReply (frameU16 bytes 0 / 256) (frameU16 bytes 4) (frameU16 bytes 6) 1 []) 0

def State.pushReq (s : State) (m : Nat) (bytes : List Byte) (flags : Nat) : State := s.pushReqTag m bytes 0 flags

/-- An event to one session: counted when its group is in the mask, dropped when it would fill the last free entry
(R392, R393). -/
def State.eventTo (s : State) (code : Nat) (evt : List Byte) (m : Nat) : State :=
  let b := s.mb m
  if b.opened ∧ code / 256 < 8 ∧ b.evMask.toNat.testBit (code / 256) then
    let n := b.evCount + 1
    if b.rsp.length + 1 < b.rspN then
      (s.modMb m fun b => { b with evCount := n }).pushRsp m
        (bcpFrame 0xBF 2 (s.session m) n.toNat (s.f F.AON_EPAPPLIED_E) (leBytes 4 0 ++ item 0x10 evt)) 4
    else s.modMb m fun b => { b with evCount := n, evDrops := b.evDrops + 1 }
  else s

/-- Firmware raises an event that names an instant, given in ns of the time unit (R392 to R394). -/
def State.raiseAt (s : State) (code ns : Nat) (data : List Byte) : State :=
  let body := data ++ padding data.length
  s.forEach (List.range 64) fun s m =>
    s.eventTo code (leBytes 2 code ++ leBytes 2 body.length ++ timeBytes ns ++ body) m

/-- Firmware raises an event now. -/
def State.raise (s : State) (code : Nat) (data : List Byte) : State := s.raiseAt code s.tuTime data

end Sys2Proof.Machine
end

