-- ==== Sys2Proof/Machine/Sram.lean ====
section
/-! DEFINITION. ECC of control SRAM (R25), and the accesses of the units that reach it by address: the internal port of the
NSW, the IEC receiver, and firmware at the mailbox rings. -/

namespace Sys2Proof.Machine

/-- Corrected words are counted, up to the maximum; and uncorrectable reads. -/
def eccPlus (cnt : Word) (n : Nat) : Word := wordSet cnt 15 0 (min (wordFld cnt 15 0 + n) 65535)
def eccUncPlus (cnt : Word) (n : Nat) : Word := wordSet cnt 31 16 (min (wordFld cnt 31 16 + n) 65535)

/-- The error that an access finds in a word of control SRAM: one that the word holds, or one that the access names. -/
def State.eccAt (s : State) (off : Nat) (e : EccSeen) : EccSeen :=
  if e = .double ∨ off / 4 ∈ s.sramBad then .double
  else if e = .single ∨ off / 4 ∈ s.sramSoft then .single
  else .clean

/-- What ECC finds is counted and recorded, and line 61 latches at both cores (R25, R492, R500).  A single-bit error is
corrected in the array; a double-bit error stays. -/
def State.eccSeen (s : State) (off : Nat) (e : EccSeen) : State :=
  let at_ := off / 4 * 4
  let latch (s : State) := { s with irqs := addNat (addNat s.irqs 61) 125 }
  match e with
  | .clean => s
  | .single =>
    latch { s with
      eccCnt := eccPlus s.eccCnt 1, eccAddr := BitVec.ofNat 32 at_, sramSoft := delNat s.sramSoft (off / 4) }
  | .double =>
    (latch { s with
      eccCnt := eccUncPlus s.eccCnt 1, eccAddr := BitVec.ofNat 32 (2 ^ 31 + at_)
      sramBad := addNat s.sramBad (off / 4) }).raise 0x0104 (leBytes 4 (sramBase + at_))

/-- A whole-word write makes the word sound. -/
def State.eccHeal (s : State) (off : Nat) : State :=
  { s with sramBad := delNat s.sramBad (off / 4), sramSoft := delNat s.sramSoft (off / 4) }

/-- ECC sees the words of a run of bytes. -/
def State.eccRun (s : State) (off n : Nat) : State :=
  if s.sramBad = [] ∧ s.sramSoft = [] then s
  else s.forEach ((List.range ((off % 4 + n + 3) / 4)).map fun i => off / 4 * 4 + 4 * i) fun s o => s.eccSeen o (s.eccAt o .clean)

/-- The bytes at an address, as a unit reads them.  A word with a double-bit error, or one outside control SRAM, ends in a bus
error that no rule lets these units act on: its bytes are free values (log 6). -/
def State.sramLoad (s : State) (addr n : Nat) : List Byte × State :=
  match sramRun addr n with
  | some off =>
    let s := s.eccRun off n
    if s.sramBad = [] then (s.sramGet off n, s)
    else
      let (v, s) := s.free
      ((s.sramGet off n).zipIdx.map fun p => if (off + p.2) / 4 ∈ s.sramBad then BitVec.ofNat 8 (v / 256 ^ p.2) else p.1, s)
  | none =>
    let (v, s) := s.free
    (leBytes n v, s)

/-- Bytes that a unit writes at an address: a word that is not written whole is read under ECC first, and one with a
double-bit error then stays as it is; a whole word becomes sound (R25). -/
def State.sramStore (s : State) (addr : Nat) (bs : List Byte) : State :=
  match sramRun addr bs.length with
  | some off =>
    if s.sramBad = [] ∧ s.sramSoft = [] then s.sramFill addr bs
    else
      let ends := [off, off + bs.length - 1].filter fun o => off % 4 ≠ 0 ∧ o = off ∨ (off + bs.length) % 4 ≠ 0 ∧ o ≠ off ∨
        o = off ∧ bs.length < 4
      let s := s.forEach (ends.map fun o => o / 4 * 4).eraseDups fun s o => s.eccSeen o (s.eccAt o .clean)
      let old := s.sramGet off bs.length
      let bs := (bs.zip old).zipIdx.map fun p =>
        let w := (off + p.2) / 4
        if w ∈ s.sramBad ∧ (4 * w < off ∨ off + bs.length < 4 * w + 4) then p.1.2 else p.1.1
      s.sramFill addr bs
  | none => s

end Sys2Proof.Machine
end

