-- ==== Sys2Proof/Machine/Rates.lean ====
section
/-! DEFINITION. Rate domains: block lengths, boundary groups, nominal rates and cycle budgets (R34 to R47, R58, R170). -/

namespace Sys2Proof.Machine

/-- A domain follows a leader (R39), and the leader of its group. -/
def State.linked (s : State) (d : Nat) : Bool := s.b (F.RD_CTRL_LINK d)
def State.leader (s : State) (d : Nat) : Nat := if s.linked d then s.f (F.RD_CTRL_LEADER d) else d

/-- The ratio of a follower to its leader, 1 for an unlinked domain (R39). -/
def State.ratio (s : State) (d : Nat) : Nat := if s.linked d then 2 ^ s.f (F.RD_CTRL_RATIO d) else 1

/-- The block length of a domain (R38). -/
def State.blen (s : State) (d : Nat) : Nat := 8 * 2 ^ s.f (F.RD_CTRL_BLEN d)

/-- The domains of a leader's boundary group (R41). -/
def State.group (s : State) (l : Nat) : List Nat :=
  (List.range 4).filter fun d => d = l ∨ (s.linked d ∧ s.f (F.RD_CTRL_LEADER d) = l)

/-- The domain ticks (RDn_STAT.RUN), and its sample index (R36). -/
def State.running (s : State) (d : Nat) : Bool := s.b (F.RD_STAT_RUN d)
def State.sidx (s : State) (d : Nat) : Nat := s.f2 (F.RD_SIDXL_SIDX d) (F.RD_SIDXH_SIDX d)
def State.sstart (s : State) (d : Nat) : Nat := s.f2 (F.RD_SSTARTL_SSTART d) (F.RD_SSTARTH_SSTART d)

/-- The nominal frequency of an ACS in Hz (R35). -/
def acsNominal (a : Nat) : Nat := if a = 0 then 49152000 else 45158400

/-- The rate of a link in kbit/s by the code of PORTp_CTRL.SPEED. -/
def linkRate (speed : Nat) : Nat := if speed = 0 then 10000 else if speed = 1 then 100000 else 1000000

/-- A positive fraction, numerator and denominator. -/
abbrev Frac := Nat × Nat

/-- The nominal tick rate of an unlinked domain in Hz (R34, R35); of a follower, the leader's divided by r. -/
def State.rate (s : State) (d : Nat) : Frac :=
  let l := s.leader d
  (acsNominal (s.f (F.RD_CTRL_SRC l)) * 2 ^ 32,
    (s.f (F.RD_DIVI_INT l) * 2 ^ 32 + s.f (F.RD_DIVF_FRAC l)) * s.ratio d)

/-- The rate that validation takes, from divider settings and the pull limit in ppm (R47). -/
def checkRate (src int frac ratio limit : Nat) : Frac :=
  let den := (if frac = 0 then int * 2 ^ 32 + frac else int * 2 ^ 32) * ratio
  let num := acsNominal src * 2 ^ 32
  if 200 < limit then (num * (1000000 + limit - 200), den * 1000000) else (num, den)

/-- The rate that validation takes for a domain as its registers stand (R47); a pull limit above 1,000 ppm acts as 1,000. -/
def State.fsCheck (s : State) (d : Nat) : Frac :=
  let l := s.leader d
  let a := s.f (F.RD_CTRL_SRC l)
  checkRate a (s.f (F.RD_DIVI_INT l)) (s.f (F.RD_DIVF_FRAC l)) (s.ratio d) (min (s.f (F.ACS_LIMIT_LIMIT a)) 1000)

/-- floor(f / fs) − 48: the cycle budget at an engine clock of 62.5 MHz × n (R46); 0 when the floor is below 48. -/
def budget (n : Nat) (fs : Frac) : Nat := 62500000 * n * fs.2 / fs.1 - 48

/-- A nominal rate lies within 8 to 192 kHz (R35). -/
def rateOk (fs : Frac) : Bool := fs.2 ≠ 0 && 8000 * fs.2 ≤ fs.1 && fs.1 ≤ 192000 * fs.2

/-- The first deadline tick after sample n of a leader, and its boundary (R58). -/
def nextDeadline (b n : Nat) : Nat := n + 1 + (b - b / 4 + b - (n + 1) % b) % b
def deadlineBoundary (b n : Nat) : Nat := nextDeadline b n + b / 4

/-- The first boundary after sample n. -/
def nextBoundary (b n : Nat) : Nat := n + (b - n % b)

/-- The engines that serve a domain: those whose MAP is valid and names it. -/
def State.engsOf (s : State) (d : Nat) : List Nat :=
  (List.range 17).filter fun e => s.b (F.ENG_MAP_VALID e) ∧ s.f (F.ENG_MAP_DOMAIN e) = d

/-- The logical engines of a domain that hold an image. -/
def State.lesOf (s : State) (d : Nat) : List Nat :=
  (List.range 16).filter fun l => (s.le l).dom = d ∧ (s.le l).image ≠ []

/-- Engine modes (R102): OFF 0, OUT 1, LIVE 2, SHADOW 3, TEST 4, BIST 5, CLEAR 6. -/
def State.mode (s : State) (e : Nat) : Nat := s.f (F.ENG_STAT_MODE e)
def State.setMode (s : State) (e m : Nat) : State := s.setF (F.ENG_STAT_MODE e) m
/-- In service: LIVE or SHADOW (R101). -/
def State.inService (s : State) (e : Nat) : Bool := s.mode e = 2 ∨ s.mode e = 3

/-- An engine's sample counter N (R79). -/
def State.engN (s : State) (e : Nat) : Nat := s.f2 (F.ENG_SCNTL_N e) (F.ENG_SCNTH_N e)
def State.setEngN (s : State) (e n : Nat) : State := s.setF2 (F.ENG_SCNTL_N e) (F.ENG_SCNTH_N e) n

/-- The engine enters a mode: entering service clears the access gate (R102). -/
def State.enterService (s : State) (e mode : Nat) : State := (s.setMode e mode).setF (F.ENG_CTRL_HOSTACC e) 0

/-! ## Fuses (R471) -/

/-- A fuse word. -/
def State.fuseWord (s : State) (w : Nat) : Word := memGet s.fuse w

/-- The fused initial FMAX; 16 where the part has none fused (R246). -/
def State.fusedFmax (s : State) : Nat := let n := wordFld (s.fuseWord 57) 8 4; if n = 0 then 16 else n

/-- The nominal sample rate code of IEEE 1722 (PRESUMED, log 21); 0 where there is none. -/
def nsrCode (fs : Frac) : Nat :=
  match [8000, 16000, 32000, 44100, 48000, 88200, 96000, 176400, 192000, 24000].zipIdx.find? fun x => fs.1 = x.1 * fs.2 with
  | some x => x.2 + 1
  | none => 0

end Sys2Proof.Machine
end

