-- ==== Sys2Proof/Machine/LogicalEngines.lean ====
section
/-! DEFINITION. Logical engines and their hosts: parameter values, the lists an image brings, loading an engine from the
golden copies, service, power and meter files (R49, R142, R165 to R175, R184, R188, R221). -/

namespace Sys2Proof.Machine

/-! ## Parameters -/

/-- A pid: class, instance and member (R10). -/
def pid (c i m : Nat) : Nat := c * 2 ^ 24 + i * 2 ^ 16 + m
def pidClass (p : Nat) : Nat := p / 2 ^ 24
def pidInst (p : Nat) : Nat := p / 2 ^ 16 % 256
def pidMember (p : Nat) : Nat := p % 2 ^ 16

/-- The applied value of a parameter as a number, with the default of its class when none was committed (R183). -/
def State.pval (s : State) (p dflt : Nat) : Nat :=
  match listed s.params p with
  | some b => leNat b
  | none => dflt

/-- Priority, ceiling and pin of a logical engine (R188); a pin of 4 means off. -/
def State.prio (s : State) (l : Nat) : Nat := s.pval (pid 0x51 0 (0x100 + l)) 4
def State.ceiling (s : State) (l : Nat) : Nat :=
  min (s.pval (pid 0x51 0 (0x200 + l)) 0) (imgNTier (s.le l).image - 1)
def State.pinned (s : State) (l : Nat) : Bool := s.pval (pid 0x51 0 (0x300 + l)) 4 < 4
def State.pin (s : State) (l : Nat) : Nat :=
  max (min (s.pval (pid 0x51 0 (0x300 + l)) 4) (imgNTier (s.le l).image - 1)) (s.ceiling l)
/-- The lowest tier of the image: its largest number. -/
def State.lowest (s : State) (l : Nat) : Nat := imgNTier (s.le l).image - 1
/-- The first tier of an installation (R191). -/
def State.firstTier (s : State) (l : Nat) : Nat :=
  if s.b F.TSU_STAT_HARD then s.lowest l else if s.pinned l then s.pin l else s.ceiling l

/-! ## Lists of a logical engine -/

/-- The input list: declared indices whose parameter names a slot (R49, R166). -/
def State.inListOf (s : State) (l : Nat) : List (Nat × Nat) :=
  (imgXin (s.le l).image).filterMap fun i =>
    let v := s.pval (pid 0x10 l (0x100 + i)) 0
    if v.testBit 31 then some (i, v % 2048) else none

/-- The valid routes, by slot (R69). -/
def State.routes (s : State) : List (Nat × Word) :=
  s.regs.filterMap fun p =>
    if R.XCH_ROUTE 0 ≤ p.1 ∧ p.1 < R.XCH_ROUTE 2048 ∧ p.2.getLsbD 31 then some ((p.1 - R.XCH_ROUTE 0) / 4, p.2) else none

/-- Kind, unit and index of the writer that a route names, and its domain. -/
def routeKind (v : Word) : Nat := wordFld v 26 24
def routeId (v : Word) : Nat := wordFld v 23 16
def routeIndex (v : Word) : Nat := wordFld v 6 0
def routeDom (v : Word) : Nat := wordFld v 29 28

/-- The output list: declared indices that a route names, with the route's slot (R49, R53). -/
def State.outListOf (s : State) (l : Nat) : List (Nat × Nat) :=
  s.routes.filterMap fun (k, v) =>
    if routeKind v = 1 ∧ routeId v = l ∧ routeIndex v ∈ imgXout (s.le l).image then some (routeIndex v, k) else none

def Fade.isFalling : Fade → Bool
  | .falling _ _ => true
  | _ => false

/-- The engine left behind renders on: its own falling block has not begun (R537). -/
def Leaving.stays (v : Leaving) : Bool := !v.fade.isFalling || v.out.isSome

/-- The engine whose writes a logical engine's slots of domain d take: the one that leaves d (R537), the outgoing engine during a
falling block (R172), or the host. -/
def LogEng.writer (x : LogEng) (d : Nat) : Option Nat :=
  match x.leaving.filter (·.dom = d) with
  | some v => some (v.out.getD v.eng)
  | none => x.outgoing.or x.host

/-- The slot that a writer feeds, if it has a route. -/
def State.slotOf (s : State) (kind id index : Nat) : Option Nat :=
  (s.routes.find? fun (_, v) => routeKind v = kind ∧ routeId v = id ∧ routeIndex v = index).map (·.1)

/-- The exchange forwards a write to the back side of every input window that subscribes to its slot (R49). -/
def State.toWindows (s : State) (k : Nat) (v : Word) : State :=
  s.forEach ((List.range 17).filter fun e => (s.eng e).inList.any (·.2 = k) && s.inService e) fun s e =>
    s.modEng e fun en => { en with
      winBack := (en.inList.filter (·.2 = k)).foldl (fun m q => smapIns m q.1 v) en.winBack }

/-- A write to a slot stands on the write side of the exchange (R50). -/
def State.slotPut (s : State) (k : Nat) (v : Word) : State :=
  { s with slotWr := smapIns s.slotWr k v }.toWindows k v

/-- A writer other than an engine writes its slot, if it has a route (R50). -/
def State.writeFrom (s : State) (kind id index : Nat) (v : Word) : State :=
  match s.slotOf kind id index with
  | some k => s.slotPut k v
  | none => s

/-- The published word of a slot that a TXSRC entry names; 0 when the entry is not valid (R285). -/
def State.srcWord (s : State) (entry : Word) : Word :=
  if entry.getLsbD 31 then s.reg (R.XCH_SLOT (wordFld entry 10 0)) else 0

/-- The line-table entry of an image-local line: an own line, or the owner's line of an import (R142, R536). -/
def State.lineOf (s : State) (l i : Nat) : Nat :=
  let own (l i : Nat) : Nat :=
    (s.le l).lines.getD ((((imgLLine (s.le l).image).take i).filter (· < 2 ^ 31)).length) 0
  if 2 ^ 31 ≤ (imgLLine (s.le l).image).getD i 0 then
    let v := s.pval (pid 0x10 l (0x200 + i)) 0
    own (v / 2 ^ 24 % 16) (v % 256)
  else own l i

/-- Live entries of a gather or long-write list: the image-local line replaced by the table entry (R142). -/
def State.listOf (s : State) (l : Nat) (es : List Nat) : List Word :=
  es.map fun v => BitVec.ofNat 32 (s.lineOf l (v / 2 ^ 24) * 2 ^ 24 + v % 2 ^ 21)

/-! ## Loading an engine -/

/-- An engine clock as its MDLL runs it: never above AGE_FMAX (R246, R258). -/
def State.fmax (s : State) (e : Nat) : Nat := s.f (F.AGE_FMAX_N e)
def State.capClock (s : State) (e n : Nat) : Nat := min n (s.fmax e)

/-- The words that a meter file holds: each address with the state word there (R184). -/
def meterLoad (addrs : List Nat) (st : List (Nat × Word)) : List (Nat × Word) := addrs.map fun a => (a, memGet st a)

/-- The engine loads its meter file's addresses and words (R184). -/
def State.loadMeters (s : State) (e l : Nat) : State :=
  let ads := (imgMeters (s.le l).image).map (·.1)
  s.modEng e fun en => { en with metAddr := ads, met := meterLoad ads en.st }

/-- An error code of a program or coefficient bank. -/
def bankCode (b : Nat) : Bool := b / 0x10000 ∈ [1, 2, 3, 8]

/-- Program and coefficient words from the golden copy of a logical engine, into both banks (R175, R226, R239). -/
def State.loadBanks (s : State) (e l : Nat) : State :=
  let p := imgProg (s.le l).image
  let c := (s.le l).golden
  s.modEng e fun en => { en with
    prog := p, progSh := p, coef := c, coefSh := c
    bad := en.bad.filter fun b => !bankCode b, soft := en.soft.filter fun b => !bankCode b }

/-- The armed fields of a logical engine: entry points, counts, descriptors, lists, tier and ramp fields (R80, R172). -/
def State.loadFields (s : State) (e l : Nat) : State :=
  let im := (s.le l).image
  let s := s.forEach (List.range 4) fun s t => s.setF (F.ENG_ENTRY_ADDR e t) (imgEntry im t)
  let s := s.forEach (List.range 4) fun s k => s.setF (F.ENG_CNT_COUNT e k) ((s.le l).counts.getD k 0)
  let s := s.forEach (List.range 64) fun s k => s.setReg (R.ENG_DESC e k) (BitVec.ofNat 32 ((imgDesc im).getD k 0))
  let s := (s.setF (F.ENG_TIERST_NTIER e) (imgNTier im - 1)).setF (F.ENG_TIERST_RAMPLEN e) (imgRampLen im)
  let s := (s.setF (F.ENG_RAMPCFG_NTIER e) (imgNTier im - 1)).setF (F.ENG_RAMPCFG_RAMPLEN e) (imgRampLen im)
  let il := s.inListOf l
  let ol := s.outListOf l
  let g := s.listOf l (imgGath im)
  let w := s.listOf l (imgLwr im)
  s.modEng e fun en => { en with inList := il, outList := ol, gath := g, lwr := w }

/-- TIER from the epoch, with PTIER equal to it and the ramp complete (R94, R95, R239). -/
def State.loadTier (s : State) (e l : Nat) : State :=
  let t := (s.le l).tier
  let s := (s.setF (F.ENG_TIERST_TIER e) t).setF (F.ENG_TIERST_PTIER e) t
  let n := s.capClock e (s.le l).clock
  let s := ((s.setF (F.ENG_CLKST_N e) n).setF (F.ENG_CLKST_NARM e) n).setF (F.ENG_CLKST_LOCK e) 1
  (s.setF (F.ENG_TR_TR e) 0x7FFFFFFF).modEng e fun en => { en with rampJ := 0, tierChanged := false }

/-- The STATE section after the clear, and the meter file from it (R172, R174, R184). -/
def State.loadState (s : State) (e l : Nat) : State :=
  (s.modEng e fun en => { en with st := imgState (s.le l).image }).loadMeters e l

/-- A whole load of a cleared engine (R172, R239). -/
def State.loadAll (s : State) (e l : Nat) : State :=
  let s := (((s.loadBanks e l).loadFields e l).loadTier e l).loadState e l
  s.setF (F.ENG_EPOCH_E e) (s.f F.AON_EPAPPLIED_E)

/-- ENGn.MAP names a logical engine and its domain (R102). -/
def State.mapEng (s : State) (e l : Nat) : State :=
  ((s.setF (F.ENG_MAP_VALID e) 1).setF (F.ENG_MAP_DOMAIN e) (s.le l).dom).setF (F.ENG_MAP_LE e) l
def State.unmapEng (s : State) (e : Nat) : State := s.setReg (R.ENG_MAP e) 0

/-- The logical engine that an engine hosts or shadows. -/
def State.leOf (s : State) (e : Nat) : Option Nat :=
  if s.b (F.ENG_MAP_VALID e) then some (s.f (F.ENG_MAP_LE e)) else none

/-- An engine begins to host a logical engine, with N = n; one that is to retire waits for its turn (R233). -/
def State.goLive (s : State) (e l n : Nat) : State :=
  let s := (((s.enterService e 2).mapEng e l).setEngN e n).modEng e fun en => { en with role := .live, clearRole := false }
  s.modLe l fun x => { x with host := some e, retire := decide ((s.eng e).retiring ≠ 0) }

/-- An engine leaves service: it abandons its pass and no longer hosts or shadows. -/
def State.leaveService (s : State) (e : Nat) : State :=
  ((s.setMode e 1).unmapEng e).modEng e fun en =>
    { en with busy := false, done := false, pend := [], nest := [], role := .out, drain := none, lw := [], winBack := [] }

/-- The registers of an engine block return to their reset values, as at power-up of PD_En (R100). -/
def State.resetEngRegs (s : State) (e : Nat) : State := s.resetBlock (engBase e) 0x1000

/-- PD_En switches on or off: memories and registers are lost (R33, R100).  Firmware goes on with an engine that it has
powered once its MDLL has locked (log 2). -/
def State.powerEng (s : State) (e : Nat) (v : Bool) : State :=
  let keep := fun (en : Engine) => { Engine.init with
    role := en.role, cause := en.cause, bistTotal := en.bistTotal, mismatches := en.mismatches
    eccHist := en.eccHist, trended := en.trended, eccLast := en.eccLast, ageSteps := en.ageSteps, faulted := en.faulted, caseLe := en.caseLe }
  let s := ((s.setOn e v).resetEngRegs e).modEng e keep
  if v then s.setF (F.ENG_CLKST_LOCK e) 1 else s.setMode e 0

/-- CLEAR zeroes state memory, the tile, the repeat cache and both long buffers (R105). -/
def Engine.cleared (en : Engine) : Engine :=
  { en with
    st := [], tile := [], rpt := [], lr := [], lrBack := [], lw := []
    bad := en.bad.filter bankCode
    soft := en.soft.filter bankCode }

/-- An engine starts CLEAR (R105), or BIST (R104): MODE and BUSY. -/
def State.startClear (s : State) (e : Nat) : State := (s.setMode e 6).setF (F.ENG_STAT_BUSY e) 1
def State.startBist (s : State) (e : Nat) : State :=
  ((s.setMode e 5).setF (F.ENG_STAT_BUSY e) 1).setF (F.ENG_BIST_DONE e) 0

end Sys2Proof.Machine
end

