-- ==== Sys2Proof/Machine/Punty.lean ====
section
/-! DEFINITION. The punty and the hand-over machine as operations that commands share: roles, the cullet, the start and
end of shadowing, hot and cold hand-overs, faults of engines and what becomes of a freed engine (R221 to R243). -/

namespace Sys2Proof.Machine

/-- The lehr forces shadow checking of a logical engine no more (R202, R240). -/
def State.unforce (s : State) (l : Nat) : State := { s with lehr := { s.lehr with forced := delNat s.lehr.forced l } }

/-! ## Roles (R221, R222) -/

/-- The engine that holds PUNTY, and a role's engines. -/
def State.rolesOf (s : State) (r : Role) : List Nat := (List.range 17).filter fun e => (s.eng e).role = r
def State.puntyOf (s : State) : Option Nat := (s.rolesOf .punty).head?
def State.setRole (s : State) (e : Nat) (r : Role) : State := s.modEng e fun en => { en with role := r }

/-- An engine takes PUNTY: it is in service in the sense of R28, so its access gate is clear. -/
def State.makePunty (s : State) (e : Nat) : State := (s.setRole e .punty).setF (F.ENG_CTRL_HOSTACC e) 0

/-- An engine whose memories a test pass or a window write may have left their marks in comes back only after BIST
(R241). -/
def State.clean (s : State) (e : Nat) : Bool := !(s.eng e).dirty

/-- The engine with the highest FMAX, then the lowest number (R222). -/
def State.bestEngine (s : State) (l : List Nat) : Option Nat :=
  l.foldl (fun acc e => match acc with
    | none => some e
    | some a => if s.fmax a < s.fmax e then some e else some a) none

/-- Engines outside the cullet, and logical engines with images (R242). -/
def State.soundEngines (s : State) : Nat := 17 - (s.rolesOf .cullet).length
def State.imagedLes (s : State) : List Nat := (List.range 16).filter fun l => (s.le l).image ≠ []

/-- No spare can exist: firmware says so (R242). -/
def State.noSpare (s : State) : State :=
  if s.soundEngines ≤ s.imagedLes.length then
    s.raise 0x0305 [BitVec.ofNat 8 s.soundEngines, BitVec.ofNat 8 s.imagedLes.length]
  else s

/-- A vacant PUNTY is filled from RESERVE: the engine is powered up and runs BIST, unless PUNTY is held (R222). -/
def State.fillPunty (s : State) : State :=
  if s.puntyOf.isSome ∨ s.scu.held.isSome ∨ (List.range 17).any (fun e => (s.eng e).cand) then s
  else
    match s.bestEngine (s.rolesOf .reserve) with
    | some e => ((s.powerEng e true).startBist e).modEng e fun en => { en with role := .out, cand := true }
    | none => s

/-- An engine goes to the cullet with a cause, and its domain is switched off (R223, R249). -/
def State.cullEngine (s : State) (e cause : Nat) : State :=
  let s := (s.powerEng e false).modEng e fun en =>
    { en with role := .cullet, cause := cause, cand := false, released := false, retiring := 0 }
  (s.raise 0x0304 [BitVec.ofNat 8 e, BitVec.ofNat 8 cause]).noSpare

/-- An engine that is to come back runs BIST: it holds no role meanwhile, and a PUNTY that it leaves is filled (R222, R241). -/
def State.rebist (s : State) (e : Nat) : State := ((s.startBist e).setRole e .out).fillPunty

/-- An engine leaves service and starts BIST because of a fault or a role exchange (R241). -/
def State.toBist (s : State) (e : Nat) : State :=
  ((s.leaveService e).startBist e).modEng e fun en => { en with faulted := true }

/-! ## The machine's registers -/

def State.scuState (s : State) : Nat := s.f F.SCU_STAT_STATE
def State.setScuState (s : State) (n : Nat) : State := s.setF F.SCU_STAT_STATE n
def State.pairLe (s : State) : Nat := s.f F.SCU_PAIR_LE
def State.pairPunty (s : State) : Nat := s.f F.SCU_PAIR_PUNTY
def State.pairHost (s : State) : Nat := s.f F.SCU_PAIR_HOST

/-- SCU_PAIR describes a clone, lockstep or hand-over. -/
def State.setPair (s : State) (le host punty : Nat) : State :=
  let s := (s.setF F.SCU_PAIR_VALID 1).setF F.SCU_PAIR_DOMAIN (s.le le).dom
  ((s.setF F.SCU_PAIR_LE le).setF F.SCU_PAIR_HOST host).setF F.SCU_PAIR_PUNTY punty

/-- The punty is cloning or in lockstep on a logical engine (states 1 to 4). -/
def State.shadowing (s : State) : Bool := 1 ≤ s.scuState ∧ s.scuState ≤ 4

/-- The machine returns to IDLE. -/
def State.scuIdle (s : State) : State := (s.setScuState 0).setF F.SCU_PAIR_VALID 0

/-- Shadowing ends (R225): the punty stops, and a window cut short counts toward nothing. -/
def State.endShadow (s : State) : State :=
  if s.shadowing then
    let p := s.pairPunty
    ((s.leaveService p).makePunty p).scuIdle.setF F.SCU_WCNT_COUNT 0
  else s

/-- Shadowing ends when it is on this logical engine. -/
def State.endShadowOf (s : State) (l : Nat) : State := if s.shadowing ∧ s.pairLe = l then s.endShadow else s

/-- The first fault since VALID was cleared is recorded; a golden copy's has no KIND, and no record (R251). -/
def State.recordFault (s : State) (kind idx out : Nat) : State :=
  if s.b F.SCU_MISINFO_VALID ∨ kind = 0 then s
  else
    let s := s.setF2 F.SCU_MISIDXL_IDX F.SCU_MISIDXH_IDX idx
    ((s.setF F.SCU_MISINFO_VALID 1).setF F.SCU_MISINFO_KIND kind).setF F.SCU_MISINFO_INDEX out

/-! ## The boundary of a hand-over (R234) -/

/-- 2 µs after now. -/
def State.plus2us (s : State) : Nat := s.now + 2000 * nowNs

/-- A tick period of an unlinked domain in model time, rounded up. -/
def State.tickNow (s : State) (d : Nat) : Nat :=
  let fs := s.rate d
  (1000000000 * nowNs * fs.2 + fs.1 - 1) / max fs.1 1

/-- The boundary whose deadline is the first at or after the present instant plus `wait`, in samples of the logical
engine's domain (R58, R234). -/
def State.boundaryFrom (s : State) (l wait : Nat) : Nat :=
  let d := (s.le l).dom
  let ld := s.leader d
  let b := s.blen ld
  let n := nextDeadline b (s.sidx ld)
  let at_ := (s.dom ld).tickAt + (n - s.sidx ld) * s.tickNow ld
  let late := if at_ < s.now + wait then (s.now + wait - at_ + s.tickNow ld * b - 1) / max (s.tickNow ld * b) 1 else 0
  (n + b / 4 + late * b) / s.ratio d

/-- The boundary that a hand-over armed now is expected at: its deadline lies 2 µs after the fault or later (R234). -/
def State.expectedB (s : State) (l : Nat) : Nat := s.boundaryFrom l (2000 * nowNs)

/-- SCU_HOBND shows b, or b′ once known. -/
def State.setHobnd (s : State) (b : Nat) : State := s.setF2 F.SCU_HOBNDL_IDX F.SCU_HOBNDH_IDX b

/-- The hand-over machine takes a hot or a cold hand-over of a logical engine (R236). -/
def State.armHandover (s : State) (l incoming outgoing : Nat) (cold mismatch : Bool) : State :=
  let s := (s.setPair l outgoing incoming).setScuState (if cold then 7 else 5)
  let b := s.expectedB l
  { s.setHobnd b with scu := { s.scu with
      after := s.plus2us, b := b, b2 := none, go := false, cold := cold, loaded := false, zeroed := false
      mismatch := mismatch } }

/-- A cold hand-over: the incoming engine runs CLEAR while STG writes its banks (R239).  It is OUT meanwhile, and the PUNTY that it
leaves is filled at once (R221, R222). -/
def State.startCold (s : State) (l incoming outgoing : Nat) : State :=
  let s := ((s.startClear incoming).armHandover l incoming outgoing true false).modEng incoming fun en =>
    { en with role := .out, cand := false }
  s.fillPunty

/-- A muted logical engine takes a free engine by a cold hand-over onto itself: steps 2 and 4 to 6 of R239, whose tick b is that of
its ramp-out, so that it goes live at the first boundary after its loading (R243). -/
def State.startSelf (s : State) (l e : Nat) : State :=
  let b := (s.le l).rampB
  let s := (s.startCold l e e).modLe l fun x => { x with entry := .cold, host := none, outgoing := none, fade := .silent none }
  { s.setHobnd b with scu := { s.scu with b := b, go := true } }

/-- The logical engine waits to ramp out (R243). -/
def Entry.isRampOut : Entry → Bool
  | .rampOut _ _ => true
  | _ => false

/-! ## Faults (R233, R235, R243) -/

/-- The hand-over event (R250). -/
def State.handoverEvent (s : State) (l out inc cold b b2 : Nat) : State :=
  s.raise 0x0302 ([BitVec.ofNat 8 l, BitVec.ofNat 8 out, BitVec.ofNat 8 inc, BitVec.ofNat 8 cold] ++
    leBytes 8 b ++ leBytes 8 b2)

/-- A logical engine that needs a new host with no punty ramps out and runs BIST on its host (R243, step 1). -/
def State.rampOut (s : State) (l : Nat) : State := s.modLe l fun x => { x with entry := .rampOut s.plus2us 0 }

/-- A logical engine of higher rank takes the punty from one of lower rank (R235). -/
def State.outranks (s : State) (l k : Nat) : Bool := s.prio k < s.prio l ∨ (s.prio k = s.prio l ∧ l < k)

/-- PUNTY is held for an engine in BIST, but a hand-over or an installation needs an incoming engine now: PUNTY is filled
from RESERVE at once (R222). -/
def State.giveUpHold (s : State) : State :=
  if s.puntyOf.isNone ∧ s.scu.held.isSome then { s with scu := { s.scu with held := none } }.fillPunty else s

/-- The punty as a hand-over's incoming engine: IDLE or shadowing, and in no need of BIST (R241). -/
def State.readyPunty (s : State) : Option Nat :=
  s.puntyOf.filter fun p => s.clean p && (s.mode p = 1 || (s.shadowing && s.pairPunty = p))

/-- A hand-over whose engine a logical engine of higher rank may still take: GO has not been sent for its boundary (R235). -/
def State.takeable (s : State) (l : Nat) : Bool :=
  s.b F.SCU_PAIR_VALID && (s.scuState = 5 || s.scuState = 7 || s.scuState = 8) && !s.scu.go &&
    (s.le s.pairLe).entry ≠ .cold && s.outranks l s.pairLe

/-- A new host for a logical engine: the engine of a hand-over of lower rank, the punty by a cold hand-over, or, with none or with
the machine at work, the ramp-out of R243; the logical engine that gives its engine up ramps out (R235).  DESIGN CHOICE (log 46): a
punty that is there while the machine is at work serves after it. -/
def State.coldFor (s : State) (l h : Nat) : State :=
  if s.takeable l then
    let k := s.pairLe
    let p := s.pairPunty
    ((s.scuIdle.leaveService p).startCold l p h).rampOut k
  else match s.readyPunty with
    | some p =>
      if s.scuState = 0 then s.startCold l p h
      else if s.shadowing then s.endShadow.startCold l p h
      else s.rampOut l
    | none =>
      match s.puntyOf with
      | some p => (if s.scuState = 0 ∧ s.mode p = 1 then s.rebist p else s).rampOut l
      | none => s.giveUpHold.rampOut l

/-- The host of a logical engine has a fault: hot when the punty is in LOCK on it, cold otherwise (R233).  A logical
engine whose change of host is already under way waits for it; a fault of the new host, once it is in service, is handled at a
later boundary (R234). -/
def State.hostFault (s : State) (l h kind : Nat) : State :=
  let s := s.recordFault kind (s.engN h) 0
  if (s.le l).entry ≠ .none ∨ (s.b F.SCU_PAIR_VALID ∧ s.pairLe = l ∧ (s.scuState = 5 ∨ s.scuState = 7 ∨ s.scuState = 8)) then s
  else if s.scuState = 4 ∧ s.pairLe = l then s.armHandover l s.pairPunty h false false
  else s.coldFor l h

/-- The punty itself has a fault: shadowing ends, it runs BIST, and the vacant PUNTY is filled (R222, R233). -/
def State.puntyFault (s : State) (p kind : Nat) (flag : Fld) : State :=
  let s := (s.recordFault kind (s.engN p) 0).flag flag
  if s.shadowing ∧ s.pairPunty = p then (s.endShadow.toBist p).fillPunty else s

/-- An uncorrectable word read by a pass, or found by the scrubber (R151, R152). -/
def State.eccFault (s : State) (e : Nat) : State :=
  let s := s.flag (F.ENG_STAT_ECCU e)
  match s.leOf e with
  | some l =>
    if s.mode e = 3 then s.puntyFault e 4 F.SCU_STAT_PECC
    else if s.mode e = 2 ∧ (s.le l).host = some e then s.hostFault l e 6
    else s
  | none => s

/-! ## Freed engines (R222, R241, R243) -/

/-- A muted logical engine that waits for an engine (R243). -/
def LogEng.awaits (x : LogEng) : Bool := x.muted && x.host.isNone && x.entry = .none && x.image ≠ []

/-- The muted logical engine that a free engine serves first: highest priority, then lowest number (R243, step 4). -/
def State.nextMuted (s : State) : Option Nat :=
  ((List.range 16).filter fun l => (s.le l).awaits).foldl
    (fun acc l => match acc with
      | none => some l
      | some k => if s.prio k < s.prio l then some l else some k) none

/-- The muted logical engine whose outgoing host an engine was (R243, step 2). -/
def State.ownMuted (s : State) (e : Nat) : Option Nat :=
  (List.range 16).find? fun l => (s.le l).awaits && (s.le l).exHost = some e

/-- The BOOT epoch waits for its step 3: engines that pass their BIST stay free until then (R223). -/
def State.booting (s : State) : Bool :=
  s.f F.STG_STAT_PHASE == 0 && (s.stg.queue.head?.map (·.transport)) == some 7

/-- An incoming engine of a logical engine, or of the hand-over machine. -/
def State.claimed (s : State) (e : Nat) : Bool :=
  ((List.range 16).any fun l => decide ((s.le l).inst = some e ∨ (s.le l).entry ∈ [.loading e, .ready e])) ||
    (s.b F.SCU_PAIR_VALID && 5 ≤ s.scuState && s.pairPunty = e)

/-- The free engines: out of service, passed, and no logical engine's. -/
def State.bootFree (s : State) : List Nat :=
  (s.rolesOf .out).filter fun e => decide (s.mode e = 1) && s.clean e && !(s.eng e).faulted && !s.claimed e

/-- A free engine that is to retire goes to the cullet (R387); any other serves a muted logical engine, its own first (R243), or
becomes the punty, or goes to RESERVE with its domain off. -/
def State.freeEngine (s : State) (e : Nat) : State :=
  let doom := (s.eng e).retiring
  let s := s.modEng e fun en => { en with
    faulted := false, clearRole := false, cand := false, cause := 0, retiring := 0 }
  if doom ≠ 0 then (s.cullEngine e doom).fillPunty
  else if s.booting then (s.setMode e 1).setRole e .out
  else match (s.ownMuted e).or s.nextMuted with
  | some l =>
    if s.scuState = 0 then s.startSelf l e
    else if s.shadowing then s.endShadow.startSelf l e
    -- a hand-over is under way: the engine waits, and handoverDone gives it out
    else (s.setMode e 1).setRole e .out
  | none =>
    if s.puntyOf.isNone ∧ (s.scu.held.isNone ∨ s.scu.held.map (·.1) = some e) then
      { (s.setMode e 1).makePunty e with scu := { s.scu with held := none } }
    else (s.powerEng e false).setRole e .reserve

/-- The engines that the BOOT epoch leaves: the best takes PUNTY, and the others go to RESERVE (R223). -/
def State.settleFree (s : State) : State :=
  let es := s.bootFree
  let p := if s.puntyOf.isSome then none else s.bestEngine es
  s.forEach es fun s e => if some e = p then s.makePunty e else (s.powerEng e false).setRole e .reserve

/-- The machine reaches IDLE after a hand-over, and a vacant PUNTY is filled (R236). -/
def State.handoverDone (s : State) : State :=
  let s := s.scuIdle.flag F.SCU_STAT_HODONE
  let es := s.bootFree ++ s.readyPunty.toList
  match (es.find? fun e => (s.ownMuted e).isSome).or es.head? with
  | some e => match (s.ownMuted e).or s.nextMuted with
    | some l => s.startSelf l e
    | none => s.fillPunty
  | none => s.fillPunty

/-! ## What happens at boundaries -/

/-- A logical engine's writes fall or rise over a block (R238). -/
def fadeWord (w : Word) (num b : Nat) : Word := BitVec.ofInt 32 ((w.toInt * num) / (b : Int))

/-- The word a logical engine's slot publishes under its fade. -/
def Fade.word (x : Fade) (b : Nat) (w : Word) : Word :=
  match x with
  | .plain => w
  | .falling i _ => fadeWord w (b - i) b
  | .silent _ => 0
  | .rising i => fadeWord w (i + 1) b

/-- The silence that an image's warm-up asks for (R172, R239). -/
def State.warm (s : State) (l : Nat) : Nat := max (s.blen (s.le l).dom) (imgWarmup (s.le l).image)

/-- Tick b of a hot hand-over (R237). -/
def State.hotSwap (s : State) (l n : Nat) : State :=
  let h := s.pairHost
  let p := s.pairPunty
  let wasMuted := s.fbit F.XCH_MUTE_MUTE l
  let s := (s.toBist h).goLive p l n
  let s := s.setFbit F.XCH_MUTE_MUTE l false
  let s := s.modLe l fun x => { x with fade := if wasMuted then .rising 0 else x.fade, muteNext := false }
  let s := s.handoverEvent l h p 0 n 0
  let s := { s with scu := { s.scu with held := if s.scu.mismatch then some (h, l) else none, go := false } }
  let s := if s.scu.mismatch then s.modEng h fun en => { en with caseLe := some l } else s
  if wasMuted then (s.setScuState 6).fillPunty else s.handoverDone

/-- Tick b of a cold hand-over: the outgoing host's writes fall over the block, as 0 while XCH_MUTE mutes them, and it leaves
service at its end (R239, steps 3 and 7). -/
def State.coldSwap (s : State) (l : Nat) : State :=
  s.modLe l fun x => { x with
    entry := .cold, outgoing := x.host, host := none, fade := if x.host.isNone then .silent none else .falling 0 none }

/-- Tick b′: the incoming engine re-enters service with N = b′ (R239, step 5). -/
def State.coldEnter (s : State) (l n : Nat) : State :=
  let p := s.pairPunty
  let wasMuted := (s.le l).muted
  let w := s.warm l
  let s := (s.goLive p l n).setFbit F.XCH_MUTE_MUTE l false
  let s := s.modLe l fun x => { x with entry := .none, fade := .silent (some w), muted := false, exHost := none, ovr := 0, muteNext := false }
  let s := { (s.setHobnd n).setScuState 9 with scu := { s.scu with b2 := some n, go := false } }
  let s := s.handoverEvent l s.pairHost p 1 s.scu.b n
  if wasMuted then s.raise 0x0307 ([BitVec.ofNat 8 l, 0, 0, 0] ++ leBytes 8 n) else s

/-- What the hand-over machine does at a boundary of the domain of logical engine l, sample n. -/
def State.scuBoundary (s : State) (l n : Nat) : State :=
  if s.b F.SCU_PAIR_VALID ∧ s.pairLe = l then
    if s.scuState = 5 ∧ s.scu.go ∧ s.scu.b = n then s.hotSwap l n
    else if (s.scuState = 7 ∨ s.scuState = 8) ∧ s.scu.go ∧ s.scu.b = n then s.coldSwap l
    else if s.scuState = 8 ∧ (s.le l).entry = .cold ∧ (s.pairHost = s.pairPunty ∨ s.scu.b + s.blen (s.le l).dom ≤ n) then
      s.coldEnter l n
    else s
  else s

/-- A deadline tick: the SCU sends GO for a hand-over of a logical engine in the group when its fault instant lies 2 µs
back (R234). -/
def State.scuDeadline (s : State) (g : List Nat) (bnd : Nat) : State :=
  let l := s.pairLe
  let d := (s.le l).dom
  let s :=
    if s.b F.SCU_PAIR_VALID ∧ (s.scuState = 5 ∨ s.scuState = 7 ∨ s.scuState = 8) ∧ d ∈ g ∧ s.scu.go = false ∧
        (s.le l).entry ≠ .cold then
      let go := decide (s.scu.after ≤ s.now)
      let b := (bnd + if go then 0 else s.blen (s.leader d)) / s.ratio d
      { s.setHobnd b with scu := { s.scu with b := b, go := go } }
    else s
  s.forEach (List.range 16) fun s l =>
    match (s.le l).entry with
    | .rampOut after 0 =>
      if (s.le l).dom ∈ g ∧ after ≤ s.now then
        s.modLe l fun x => { x with entry := .rampOut after (bnd / s.ratio (s.le l).dom) }
      else s
    | _ => s

/-- A hand-over waits for its boundary in a group: its units do not acknowledge (R234). -/
def State.handoverDue (s : State) (g : List Nat) : Bool :=
  (s.b F.SCU_PAIR_VALID ∧ (s.le s.pairLe).dom ∈ g ∧ (s.scuState = 5 ∨ s.scuState = 7 ∨ s.scuState = 8) ∧
    (s.le s.pairLe).entry ≠ .cold) ∨
  (List.range 16).any fun l => decide ((s.le l).dom ∈ g) && (s.le l).entry.isRampOut

end Sys2Proof.Machine
end

