-- ==== Sys2Proof/Machine/Flags.lean ====
section
/-! DEFINITION. The sticky flags of a render engine and the arithmetic that sets them: accumulators modulo 2^72, STQ
conversion, 32-bit saturation and comparison conditions (R82, R83, R119, R126, R129). -/

namespace Sys2Proof.Machine

/-- An accumulator value lies in the 72-bit range. -/
def inQ (x : Int) : Bool := -(2 : Int) ^ 71 ≤ x ∧ x < (2 : Int) ^ 71

/-- An exact result reduced modulo 2^72 into the two's-complement range (R82, R119). -/
def wrapQ (x : Int) : Int := (BitVec.ofInt 72 x).toInt

/-- QWRAP sets when an exact result lies outside the accumulator's range (R119). -/
def State.qwrapFlag (s : State) (e : Nat) (xs : List Int) : State :=
  if xs.all inQ then s else s.flag (F.ENG_STAT_QWRAP e)

/-- A 32-bit word saturated from an integer. -/
def sat32 (x : Int) : Int :=
  if x < -(2 : Int) ^ 31 then -(2 : Int) ^ 31 else if (2 : Int) ^ 31 - 1 < x then (2 : Int) ^ 31 - 1 else x

/-- The word floor(q × 2^s / 2^31) before saturation, for a shift from −8 to 7 (R83). -/
def stqRaw (q sh : Int) : Int :=
  if 0 ≤ sh then q * 2 ^ sh.toNat / 2 ^ 31 else q / 2 ^ (31 + (-sh).toNat)

/-- SAT sets when the conversion saturates (R83, R124). -/
def State.satFlag (s : State) (e : Nat) (raw : Int) : State :=
  if sat32 raw = raw then s else s.flag (F.ENG_STAT_SAT e)

/-- The comparison conditions of CMP on 32-bit words (R129). -/
def cmpCond (cc : BitVec 3) (a b : Word) : Bool :=
  match cc.toNat with
  | 0 => a = b
  | 1 => a ≠ b
  | 2 => a.toInt < b.toInt
  | 3 => b.toInt ≤ a.toInt
  | 4 => a.toNat < b.toNat
  | 5 => b.toNat ≤ a.toNat
  | 6 => a.toInt ≤ b.toInt
  | _ => b.toInt < a.toInt

end Sys2Proof.Machine
end

