-- ==== Sys2Proof/Machine/Operands.lean ====
section
/-! DEFINITION. The operands of render instructions: what a stage of the pipeline sees of a register or word, the memory
operand, the coefficient operand, line addressing with bank conflicts, memory errors, and the issue of an instruction
(R73 to R78, R86 to R99, R109 to R114, R132, R133, R150, R151). -/

namespace Sys2Proof.Machine

/-! ## The pipeline (R96 to R99) -/

/-- Stage indices. -/
def stA : Nat := 2
def stM : Nat := 3
def stX1 : Nat := 4
def stX2 : Nat := 5
def stW : Nat := 6

/-- The value of a register or word before every write still in the pipeline; a 32-bit word as a signed number. -/
def Engine.base (en : Engine) : RDest → Int
  | .a n => (en.a[n]?.getD 0).toNat
  | .m n => (en.m[n]?.getD 0).toInt
  | .d n => (en.d[n]?.getD 0).toInt
  | .q n => (en.q[n]?.getD 0).toInt
  | .p n => if n = 0 then 1 else b2n (en.p[n]?.getD false)
  | .st w => (memGet en.st w).toInt
  | .tile w => (memGet en.tile w).toInt
  | .out i => (memGet en.outs i).toInt
  | .lw i => (memGet en.lw i).toInt

/-- The write in the pipeline that a read in cycle `t` sees: the latest to land before it, and of those that land together
the later in issue order (R97, R99). -/
def visible (pend : List RWrite) (x : RDest) (t : Nat) : Option RWrite :=
  pend.foldl (fun acc w =>
    if w.dest = x ∧ w.land < t ∧ acc.elim 0 RWrite.land ≤ w.land then some w else acc) none

/-- What the instruction in the issue slot reads in a stage (R98). -/
def Engine.see (en : Engine) (x : RDest) (stage : Nat) : Int :=
  match visible en.pend x (en.slot + stage) with
  | some w => w.val
  | none => en.base x

/-- The instruction in the issue slot writes in a stage. -/
def Engine.put (en : Engine) (x : RDest) (stage : Nat) (v : Int) : Engine :=
  { en with pend := en.pend ++ [⟨en.slot + stage, x, v⟩] }

def State.see (s : State) (e : Nat) (x : RDest) (stage : Nat) : Int := (s.eng e).see x stage
def State.put (s : State) (e : Nat) (x : RDest) (stage : Nat) (v : Int) : State := s.modEng e (·.put x stage v)

/-- A D register as it is seen in M, and as a multiplier operand in X1 (R114). -/
def State.dM (s : State) (e : Nat) (n : BitVec 4) : Int := s.see e (.d n.toNat) stM
def State.dX (s : State) (e n : Nat) : Int := s.see e (.d n) stX1

/-! ## Writes that land -/

/-- CRC-32 of IEEE 802.3, one byte: reflected polynomial 0xEDB8_8320. -/
def crcBits : Nat → Word → Word
  | 0, c => c
  | n + 1, c => crcBits n (if c.getLsbD 0 then (c >>> 1) ^^^ 0xEDB88320#32 else c >>> 1)
def crcByte (c : Word) (b : Byte) : Word := crcBits 8 (c ^^^ b.setWidth 32)
/-- The running CRC over bytes, before the final XOR. -/
def crcBytes (c : Word) (bs : List Byte) : Word := bs.foldl crcByte c

/-- The CRC record of a write: space code, word address, data (R231). -/
def crcRecord (space addr : Nat) (v : Word) : List Byte := leBytes 4 v.toNat ++ leBytes 3 addr ++ [BitVec.ofNat 8 space]

/-- A state write is copied into every word of the meter file that has its address; the file keeps the order of the METER
map (R184). -/
def Engine.meterWrite (en : Engine) (w : Nat) (v : Word) : Engine :=
  if w ∈ en.metAddr then { en with met := en.met.map fun p => if p.1 = w then (w, v) else p } else en

/-- Words that a write makes good again. -/
def Engine.heal (en : Engine) (code : Nat) : Engine :=
  { en with bad := delNat en.bad code, soft := delNat en.soft code }

/-- The halves of a program word: each is a codeword of its own (R150). -/
def half64 (w : Word64) (hi : Bool) : Word := if hi then (w >>> 32).setWidth 32 else w.setWidth 32
def join64 (lo hi : Word) : Word64 := hi ++ lo

/-- The error codes of the words of the program and coefficient banks. -/
def progCode (i : Nat) (hi : Bool) : Nat := 0x20000 + 2 * i + b2n hi
def progShCode (i : Nat) (hi : Bool) : Nat := 0x80000 + 2 * i + b2n hi
def coefCode (w : Nat) : Nat := 0x10000 + w
def coefShCode (w : Nat) : Nat := 0x30000 + w

/-- The shadow banks take program and coefficient words: those that change are written, and are then sound (R151, R177). -/
def Engine.newShadow (en : Engine) (p : List (Nat × Word64)) (c : List (Nat × Word)) : Engine :=
  let stays (b : Nat) : Bool :=
    let w := b % 0x10000
    if b / 0x10000 = 3 then memGet en.coefSh w = memGet c w
    else if b / 0x10000 = 8 then half64 (memGet en.progSh (w / 2)) (w % 2 = 1) = half64 (memGet p (w / 2)) (w % 2 = 1)
    else true
  { en with progSh := p, coefSh := c, bad := en.bad.filter stays, soft := en.soft.filter stays }

/-- A state or tile word takes a value, by any path (R72, R134). -/
def Engine.setSt (en : Engine) (w : Nat) (v : Word) : Engine :=
  ({ en with st := memSet en.st w v }.heal w).meterWrite w v
def Engine.setTile (en : Engine) (w : Nat) (v : Word) : Engine :=
  { en with tile := memSet en.tile w v }.heal (0x40000 + w)

/-- The writer feeds the slot of one of its output-list entries; another route or none discards the write (R53).  `kind`
and `id` name the writer as a route does. -/
def State.slotWrite (s : State) (kind id index slot : Nat) (v : Word) : State :=
  let note (s : State) : State :=
    if s.b F.XCH_ERRSRC_VALID then s
    else
      let s := (s.setF F.XCH_ERRSRC_VALID 1).setF F.XCH_ERRSRC_KIND kind
      (s.setF F.XCH_ERRSRC_ID id).setF F.XCH_ERRSRC_SLOT slot
  if s.b (F.XCH_ROUTE_VALID slot) = false then note (s.flag F.XCH_ERR_WRUNROUTED)
  else if s.f (F.XCH_ROUTE_KIND slot) = kind ∧ s.f (F.XCH_ROUTE_ID slot) = id ∧
      s.f (F.XCH_ROUTE_INDEX slot) = index then
    s.slotPut slot v
  else note (s.flag F.XCH_ERR_WRCONF)

/-- An engine's output write reaches the exchange: the host's, or during a falling block the outgoing engine's; the
punty's goes to the SCU only (R53, R55, R172, R537). -/
def State.engineOut (s : State) (e i : Nat) (v : Word) : State :=
  match s.leOf e with
  | some l =>
    if (s.le l).writer (s.f (F.ENG_MAP_DOMAIN e)) = some e ∧ s.mode e ≠ 3 then
      match listed (s.eng e).outList i with
      | some slot => s.slotWrite 1 l i slot v
      | none => s
    else s
  | none => s

/-- A write lands: registers, memories, the output list and the long-write buffer, with the write CRC, the meter file,
mirroring to a clone and the exchange (R72, R99, R184, R226, R227, R231). -/
def State.land (s : State) (e : Nat) (w : RWrite) : State :=
  let word : Word := BitVec.ofInt 32 w.val
  let crc (space addr : Nat) (en : Engine) : Engine :=
    if en.test then en else { en with crc := crcBytes en.crc (crcRecord space addr word) }
  let mirror (g : Engine → Engine) (s : State) : State :=
    if (s.scuState = 2 ∨ s.scuState = 3) ∧ s.pairHost = e ∧ s.mode e = 2 then s.modEng s.pairPunty g else s
  match w.dest with
  | .a n => s.modEng e fun en => { en with a := vmod en.a n fun _ => BitVec.ofInt 20 w.val }
  | .m n => s.modEng e fun en => { en with m := vmod en.m n fun _ => BitVec.ofInt 20 w.val }
  | .d n => s.modEng e fun en => { en with d := vmod en.d n fun _ => word }
  | .q n => s.modEng e fun en => { en with q := vmod en.q n fun _ => BitVec.ofInt 72 w.val }
  | .p n => if n = 0 then s else s.modEng e fun en => { en with p := vmod en.p n fun _ => decide (w.val ≠ 0) }
  | .st n => mirror (·.setSt n word) (s.modEng e fun en => crc 1 n (en.setSt n word))
  | .tile n => mirror (·.setTile n word) (s.modEng e fun en => crc 4 n (en.setTile n word))
  | .lw n => s.modEng e fun en => if en.test then en else crc 6 n ({ en with lw := smapIns en.lw n word }.heal (0xA0000 + n))
  | .out n =>
    if (s.eng e).test then s.setF (F.ENG_TOUT_DATA e n) word.toNat
    else (s.modEng e fun en => { en with outs := smapIns en.outs n word }).engineOut e n word

/-- Every write that lands before cycle `t` has landed, in issue order. -/
def State.landBefore (s : State) (e t : Nat) : State :=
  let due := (s.eng e).pend.filter (·.land < t)
  let s := s.modEng e fun en => { en with pend := en.pend.filter (fun w => ¬ w.land < t) }
  due.foldl (fun s w => s.land e w) s

/-- The pipeline drains: cycle by cycle, every write lands (R93). -/
def State.drainPipe (s : State) (e : Nat) : State :=
  s.forEach (List.range 8) fun s i => s.landBefore e ((s.eng e).slot + stA + i)

/-! ## Issue (R86 to R93) -/

/-- The address after a program address; passing 8,191 wraps and sets PCWRAP (R93). -/
def State.bumpPc (s : State) (e pc n : Nat) : State :=
  let s := if 8192 ≤ pc + n then s.flag (F.ENG_STAT_PCWRAP e) else s
  s.modEng e fun en => { en with pc := (pc + n) % 8192 }

/-- The last address of a repeat body. -/
def RptFrame.last (r : RptFrame) : Nat := (r.top + r.len - 1) % 8192

/-- Loop-back at a program address, for the innermost repeats that end there; an outer repeat whose end is passed while an
inner one is active leaves the nest (R89, R90).  Answers the new nest, the loop-back address, and whether RPTERR sets. -/
def loopBack (pc : Nat) : List RptFrame → List RptFrame × Option Nat × Bool
  | [] => ([], none, false)
  | r :: rest =>
    if r.last = pc then
      if 1 < r.left then ({ r with left := r.left - 1, first := false } :: rest, some r.top, false) else loopBack pc rest
    else (r :: rest.filter (fun o => o.last ≠ pc), none, rest.any (fun o => o.last = pc))

/-- Issue moves past the instruction at a program address. -/
def State.nextPc (s : State) (e pc : Nat) : State :=
  let (nest, back, err) := loopBack pc (s.eng e).nest
  let s := s.modEng e fun en => { en with nest := nest }
  let s := if err then s.flag (F.ENG_STAT_RPTERR e) else s
  match back with
  | some t => s.modEng e fun en => { en with pc := t }
  | none => s.bumpPc e pc 1

/-- The issue slot ends. -/
def State.endSlot (s : State) (e : Nat) : State := s.modEng e fun en => { en with slot := en.slot + 1 }

/-- The guard of an instruction, read in stage A (R86). -/
def State.guard (s : State) (e : Nat) (h : Hdr) : Bool := (s.see e (.p h.g.toNat) stA ≠ 0) != h.gs

/-- The engine as the instruction in the issue slot finds it: every write that lands before its stage A has landed. -/
def State.atIssue (s : State) (e : Nat) : State := s.landBefore e ((s.eng e).slot + stA)

/-- An engine issues: its pass runs, and its clock does, which an MDLL out of lock stops (R260, R275). -/
def State.issues (s : State) (e : Nat) : Bool := (s.eng e).busy && s.b (F.ENG_CLKST_LOCK e)

/-- Issue one instruction of a pass: earlier writes land, the post-modifications take place when the guard holds or U is 1,
the operation when the guard holds, and issue moves on.  After END, outside a pass, and without a locked clock nothing
issues (R87, R93, R275). -/
def State.issue (s : State) (e : Nat) (h : Hdr) (post op : State → State) : State :=
  if s.issues e then
    let pc := (s.eng e).pc
    let s := s.atIssue e
    let run := s.guard e h
    let s := if run then op s else s
    let s := if run ∨ h.u then post s else s
    (s.nextPc e pc).endSlot e
  else s

/-! ## Memory reads with error correction (R150, R151) -/

/-- A corrected word: counted, and written back. -/
def State.softFix (s : State) (e code : Nat) : State :=
  if code ∈ (s.eng e).soft then
    (s.modEng e fun en => { en with soft := delNat en.soft code }).sat (F.ENGECC_COUNT e) 1
  else s

/-- A word of an engine memory as a pass reads it in M: an uncorrectable word reads as 0 and is a fault. -/
def State.readWord (s : State) (e code : Nat) (x : RDest) : Int × State :=
  if code ∈ (s.eng e).bad ∧ (visible (s.eng e).pend x ((s.eng e).slot + stM)).isNone then (0, s.eccFault e)
  else (s.see e x stM, s.softFix e code)

/-- A coefficient word of the live bank; addresses are taken modulo 16,384 (R75). -/
def State.readCoef (s : State) (e c : Nat) : Int × State :=
  let a := c % 16384
  if coefCode a ∈ (s.eng e).bad then (0, s.eccFault e)
  else ((memGet (s.eng e).coef a).toInt, s.softFix e (coefCode a))

/-- Several coefficient words, in order. -/
def State.readCoefs (s : State) (e : Nat) : List Nat → List Int × State
  | [] => ([], s)
  | c :: cs =>
    let (v, s) := s.readCoef e c
    let (vs, s) := s.readCoefs e cs
    (v :: vs, s)

/-! ## Lines (R132, R133) -/

/-- A line descriptor. -/
def State.desc (s : State) (e k : Nat) : Nat := (s.reg (R.ENG_DESC e (k % 64))).toNat

/-- The tile word (bank × 32,768 + word) of x(DL, k) for the sample counter n and a descriptor (R133). -/
def tileWord (desc : Nat) (n : Nat) (k : Int) : Nat :=
  let b := 8 * (desc / 2 ^ 17 % 2 ^ 14)
  let len : Nat := desc % 2 ^ 17 + 1
  let a := (b + (((n : Int) - k) % (len : Int)).toNat) % 131072
  if desc.testBit 31 then a % 4 * 32768 + a / 4 else a

/-- x(DL, k) for the pass that runs. -/
def State.lineWord (s : State) (e dl : Nat) (k : Int) : Nat := tileWord (s.desc e dl) (s.engN e) k

/-- The words that a bank serves to lanes which name it: the word of the lowest lane of the same bank (R74). -/
def served (ws : List Nat) : List Nat := ws.map fun w => (ws.find? fun x => x / 32768 = w / 32768).getD w

/-- Two or more different words of one bank are named (R74). -/
def bankConflict (ws : List Nat) : Bool := served ws ≠ ws

/-- The tile words that the lanes of one instruction read, under R74. -/
def State.readTiles (s : State) (e : Nat) (ws : List Nat) : List Int × State :=
  let s := if bankConflict ws then s.flag (F.ENG_STAT_BANKCONF e) else s
  (served ws).foldl (fun acc w =>
    let (v, s) := acc.2.readWord e (0x40000 + w) (.tile w)
    (acc.1 ++ [v], s)) ([], s)

/-! ## Memory operand (R109 to R111) -/

/-- The fields of the register form. -/
def mopAn (o : Mop) : Nat := o.imm.toNat / 4096
def mopMm (o : Mop) : Nat := o.imm.toNat / 512 % 8
def mopPm (o : Mop) : Bool := o.imm.getLsbD 8
/-- The operand takes its index from an address register: SPACE 0 has no register form. -/
def mopIsReg (o : Mop) : Bool := o.reg && o.space.toNat ≠ 0

/-- The index, address or delay that the operand names, before reduction. -/
def State.mopIdx (s : State) (e : Nat) (o : Mop) : Nat :=
  if mopIsReg o then (s.see e (.a (mopAn o)) stA).toNat else o.imm.toNat

/-- AN plus the sign-extended offset register, modulo 2^20 (R78, R110). -/
def State.postVal (s : State) (e an mm : Nat) : Int :=
  (s.see e (.a an) stA + s.see e (.m mm) stA) % 2 ^ 20

/-- The post-modification of a memory operand (R110). -/
def State.mopPost (s : State) (e : Nat) (o : Mop) : State :=
  if mopIsReg o ∧ mopPm o then s.put e (.a (mopAn o)) stA (s.postVal e (mopAn o) (mopMm o)) else s

/-- A word of the input window; a test pass reads TIN (R75, R103). -/
def State.winWord (s : State) (e i : Nat) : Int :=
  if (s.eng e).test then sext 32 (s.f (F.ENG_TIN_DATA e (i % 256))) else (memGet (s.eng e).win (i % 256)).toInt
/-- A word of the long-read buffer, under ECC; a test pass reads 0 (R75, R103, R150, R151). -/
def State.readLr (s : State) (e i : Nat) : Int × State :=
  let k := 0x90000 + i % 2048
  if (s.eng e).test then (0, s)
  else if k ∈ (s.eng e).bad then (0, s.eccFault e)
  else ((memGet (s.eng e).lr (i % 2048)).toInt, s.softFix e k)

/-- A word that a memory operand reads in M; a space it does not accept reads as 0 (R111). -/
def State.mopRead (s : State) (e : Nat) (o : Mop) (accepted : List Nat) : Int × State :=
  let i := s.mopIdx e o
  if o.space.toNat ∈ accepted then
    match o.space.toNat with
    | 0 => (s.see e (.d (i % 16)) stM, s)
    | 1 => s.readWord e (i % 8192) (.st (i % 8192))
    | 2 => (s.winWord e i, s)
    | 3 => s.readLr e i
    | 4 =>
      let w := s.lineWord e o.dl.toNat i
      s.readWord e (0x40000 + w) (.tile w)
    | 7 => s.readCoef e i
    | _ => (0, s)
  else (0, s)

/-- The place that ST and STQ write; none for a space they do not accept (R111). -/
def State.mopDest (s : State) (e : Nat) (o : Mop) : Option RDest :=
  let i := s.mopIdx e o
  match o.space.toNat with
  | 0 => some (.d (i % 16))
  | 1 => some (.st (i % 8192))
  | 4 => some (.tile (s.lineWord e o.dl.toNat i))
  | 5 => some (.out (i % 128))
  | 6 => some (.lw (i % 2048))
  | _ => none

/-- The destination takes a word in stage W. -/
def State.mopWrite (s : State) (e : Nat) (o : Mop) (v : Int) : State :=
  match s.mopDest e o with
  | some x => s.put e x stW v
  | none => s

/-! ## Coefficient operand (R112) -/

def copAn (o : Cop) : Nat := o.c.toNat / 1024
def copMm (o : Cop) : Nat := o.c.toNat / 128 % 8
def copPm (o : Cop) : Bool := o.c.getLsbD 6
def copDn (o : Cop) : Nat := o.c.toNat % 16

/-- The base address of forms 0 and 1. -/
def State.copAddr (s : State) (e : Nat) (o : Cop) : Nat :=
  if o.cf.toNat = 1 then (s.see e (.a (copAn o)) stA).toNat % 16384 else o.c.toNat

/-- The coefficients of `n` lanes at consecutive addresses; a D register is seen in X1; form 3 reads as 0. -/
def State.copRead (s : State) (e : Nat) (o : Cop) (n : Nat) : List Int × State :=
  match o.cf.toNat with
  | 2 => (List.replicate n (s.dX e (copDn o)), s)
  | 3 => (List.replicate n 0, s)
  | _ => s.readCoefs e ((List.range n).map fun j => s.copAddr e o + j)

/-- The post-modification of a coefficient operand: it stands over that of the memory operand (R110). -/
def State.copPost (s : State) (e : Nat) (o : Cop) : State :=
  if o.cf.toNat = 1 ∧ copPm o then s.put e (.a (copAn o)) stA (s.postVal e (copAn o) (copMm o)) else s

end Sys2Proof.Machine
end

