-- ==== Sys2Proof/Machine/RenderIsa.lean ====
section
/-! DEFINITION. The render instructions, each issued by an engine in its pass (R115 to R130, R113): one meaning for each
row, over the operand forms and the pipeline of Operands. -/

namespace Sys2Proof.Machine

/-! ## Shared forms -/

/-- A command of an engine that changes the state and completes. -/
def renderDone (s : State) : Res State := .next s

/-- One product: x × c, times 8 with S, negated with NEG (R117). -/
def prod (s neg : Bool) (x c : Int) : Int :=
  let p := x * c * (if s then 8 else 1)
  if neg then -p else p

/-- The accumulation input: 0 with Z, otherwise Q[q] as X2 sees it. -/
def State.accIn (s : State) (e : Nat) (z : Bool) (q : Nat) : Int := if z then 0 else s.see e (.q q) stX2

/-- An accumulator takes an exact result, wrapped modulo 2^72 with QWRAP (R119). -/
def State.putQ (s : State) (e q : Nat) (x : Int) : State := (s.qwrapFlag e [x]).put e (.q q) stX2 (wrapQ x)

/-- A predicate takes a value; P0 ignores writes (R76). -/
def State.putP (s : State) (e p : Nat) (v : Bool) : State := if p = 0 then s else s.put e (.p p) stM (b2n v)

/-- A D register takes a word of the ALU in X1. -/
def State.putAlu (s : State) (e : Nat) (dd : BitVec 4) (v : Word) : State := s.put e (.d dd.toNat) stX1 v.toInt

/-- The post-modifications of the multiply-accumulate format: the memory operand's, then the coefficient operand's. -/
def State.macPost (s : State) (e : Nat) (o : MacOp) : State := (s.mopPost e o.mop).copPost e o.cop

/-- The data word of MAC, MACD and MACQD: a D register is seen in X1 (R111, R114). -/
def State.macData (s : State) (e : Nat) (o : Mop) : Int × State :=
  if o.space.toNat = 0 then (s.dX e (o.imm.toNat % 16), s) else s.mopRead e o [2, 3, 4]

/-- The two data words of MACD (R118).  SPACE 3 reads two entries of the long-read buffer in one cycle, as R118 says,
although R73 allows one (DEDUCED, log 39). -/
def State.macdData (s : State) (e : Nat) (o : Mop) : List Int × State :=
  let i := s.mopIdx e o
  match o.space.toNat with
  | 0 => ([s.dX e (o.imm.toNat % 16), s.dX e ((o.imm.toNat + 1) % 16)], s)
  | 2 => ([s.winWord e i, s.winWord e (i + 1)], s)
  | 3 =>
    let (x, s) := s.readLr e i
    let (y, s) := s.readLr e (i + 1)
    ([x, y], s)
  | 4 => s.readTiles e [s.lineWord e o.dl.toNat i, s.lineWord e (o.dl.toNat + 1) i]
  | _ => ([0, 0], s)

/-- Four tile words, or zeros for a space that MACW and MACQC do not accept (R111). -/
def State.quadTiles (s : State) (e : Nat) (o : Mop) (ws : List Nat) : List Int × State :=
  if o.space.toNat = 4 then s.readTiles e ws else (List.replicate 4 0, s)

/-- Add one product to each of several accumulators, the first at q. -/
def State.addProds (s : State) (e q : Nat) (z : Bool) (ps : List Int) : State :=
  (ps.zipIdx).foldl (fun s p => s.putQ e (q + p.2) (s.accIn e z (q + p.2) + p.1)) s

/-- Products of paired lists. -/
def prods (o : MacOp) (xs cs : List Int) : List Int := List.zipWith (prod o.s o.neg) xs cs

/-! ## Control (R93, R115, R116) -/

/-- NOP (R116). -/
def execRNop (e : Eng) (h : Hdr) (s : State) : Res State := renderDone (s.issue e h id id)

/-- END (R93): the pass has retired; its cycle count is recorded.  The guard is ignored (R88).  DESIGN CHOICE (log 45): a count
of 2^20 is recorded as 2^20 - 1, the most that the field holds, and END at program address 8,191 sets no PCWRAP. -/
def State.issueEnd (s : State) (e : Nat) : State :=
  if s.issues e then
    let cyc := (s.eng e).slot + 1
    let s := (s.atIssue e).endSlot e
    let s := s.setF (F.ENG_PASSLAST_CYC e) (min cyc (2 ^ 20 - 1))
    let s := s.setF (F.ENG_PASSMAX_CYC e) (max (s.f (F.ENG_PASSMAX_CYC e)) (min cyc (2 ^ 20 - 1)))
    s.modEng e fun en => { en with busy := false, nest := [] }
  else s

def execREnd (e : Eng) (_ : Hdr) (s : State) : Res State := renderDone (s.issueEnd e)

/-- A repeat (R89, R90, R115): the body's length and the count.  The guard is ignored (R88).  DESIGN CHOICE (log 45): a repeat
with count 0 that ends an outer body, or whose skipped body runs past the outer's end, leaves the outer repeat as it is: it
neither loops back nor leaves the nest, and RPTERR does not set. -/
def State.issueRpt (s : State) (e count body : Nat) : State :=
  if s.issues e then
    let pc := (s.eng e).pc
    let s := s.atIssue e
    let err (s : State) : State := s.flag (F.ENG_STAT_RPTERR e)
    let s :=
      if body = 0 ∨ 3 ≤ (s.eng e).nest.length then (err s).nextPc e pc
      else if count = 0 then
        let s := if 8192 ≤ pc + body then s.flag (F.ENG_STAT_PCWRAP e) else s
        s.nextPc e ((pc + body) % 8192)
      else
        let outer := (s.eng e).nest.filter (·.last ≠ pc)
        let s := if outer.length = (s.eng e).nest.length then s else err s
        let s := s.modEng e fun en => { en with
          nest := ⟨(pc + 1) % 8192, body, count, true⟩ :: outer, rpt := if body ≤ 32 then [] else en.rpt }
        s.bumpPc e pc 1
    s.endSlot e
  else s

/-- RPT (R115). -/
def execRRpt (e : Eng) (_ : Hdr) (count : BitVec 16) (body : BitVec 13) (s : State) : Res State :=
  renderDone (s.issueRpt e count.toNat body.toNat)

/-- RPTC (R115). -/
def execRRptc (e : Eng) (_ : Hdr) (cr : BitVec 2) (body : BitVec 13) (s : State) : Res State :=
  renderDone (s.issueRpt e (s.f (F.ENG_CNT_COUNT e cr.toNat)) body.toNat)

/-! ## Multiply-accumulate (R84, R85, R117 to R119) -/

/-- MAC (R117). -/
def execRMac (e : Eng) (h : Hdr) (o : MacOp) (s : State) : Res State :=
  renderDone <| s.issue e h (·.macPost e o) fun s =>
    let (x, s) := s.macData e o.mop
    let (cs, s) := s.copRead e o.cop 1
    s.addProds e o.qa.toNat o.z (prods o [x] cs)

/-- MACD (R117, R118): the accumulator number is even (R85). -/
def execRMacd (e : Eng) (h : Hdr) (o : MacOp) (s : State) : Res State :=
  renderDone <| s.issue e h (·.macPost e o) fun s =>
    let (xs, s) := s.macdData e o.mop
    let (cs, s) := s.copRead e o.cop 2
    s.addProds e (o.qa.toNat / 2 * 2) o.z (prods o xs cs)

/-- MACW (R117): four consecutive samples of one line into one accumulator. -/
def execRMacw (e : Eng) (h : Hdr) (o : MacOp) (s : State) : Res State :=
  renderDone <| s.issue e h (·.macPost e o) fun s =>
    let k := s.mopIdx e o.mop
    let (xs, s) := s.quadTiles e o.mop ((List.range 4).map fun j => s.lineWord e o.mop.dl.toNat (k + j : Nat))
    let (cs, s) := s.copRead e o.cop 4
    s.putQ e o.qa.toNat (s.accIn e o.z o.qa.toNat + (prods o xs cs).sum)

/-- MACQD (R117): one data word, four coefficients, four accumulators from Q0 or Q4 (R85). -/
def execRMacqd (e : Eng) (h : Hdr) (o : MacOp) (s : State) : Res State :=
  renderDone <| s.issue e h (·.macPost e o) fun s =>
    let (x, s) := s.macData e o.mop
    let (cs, s) := s.copRead e o.cop 4
    s.addProds e (o.qa.toNat / 4 * 4) o.z (prods o (List.replicate 4 x) cs)

/-- MACQC (R117): one sample from each of four lines, one coefficient. -/
def execRMacqc (e : Eng) (h : Hdr) (o : MacOp) (s : State) : Res State :=
  renderDone <| s.issue e h (·.macPost e o) fun s =>
    let k := s.mopIdx e o.mop
    let (xs, s) := s.quadTiles e o.mop ((List.range 4).map fun j => s.lineWord e (o.mop.dl.toNat + j) k)
    let (cs, s) := s.copRead e o.cop 1
    s.addProds e (o.qa.toNat / 4 * 4) o.z (prods o xs (List.replicate 4 (cs.headD 0)))

/-! ## Delay operations (R120, R121) -/

/-- The delay of TAP and TAPM: K, or AN. -/
def State.tapK (s : State) (e : Nat) (o : TapOp) : Nat :=
  if o.reg then (s.see e (.a (o.k.toNat / 2 ^ 13)) stA).toNat else o.k.toNat

/-- The post-modifications of TAP and TAPM. -/
def State.tapPost (s : State) (e : Nat) (o : TapOp) : State :=
  let an := o.k.toNat / 2 ^ 13
  let s := if o.reg ∧ o.k.getLsbD 9 then s.put e (.a an) stA (s.postVal e an (o.k.toNat / 2 ^ 10 % 8)) else s
  s.copPost e o.cop

/-- The read and the accumulation that TAP and TAPM share; answers the word read. -/
def State.tapOp (s : State) (e : Nat) (o : TapOp) : Int × State :=
  let w := s.lineWord e o.dl.toNat (s.tapK e o)
  let (x, s) := s.readWord e (0x40000 + w) (.tile w)
  let (cs, s) := s.copRead e o.cop 1
  (x, s.putQ e o.qa.toNat (s.accIn e o.z o.qa.toNat + prod o.s o.neg x (cs.headD 0)))

/-- TAP (R120). -/
def execRTap (e : Eng) (h : Hdr) (o : TapOp) (s : State) : Res State :=
  renderDone <| s.issue e h (·.tapPost e o) fun s => (s.tapOp e o).2

/-- TAPM (R120): the word read also goes to x(DLD, 0) in W. -/
def execRTapm (e : Eng) (h : Hdr) (o : TapOp) (s : State) : Res State :=
  renderDone <| s.issue e h (·.tapPost e o) fun s =>
    let (x, s) := s.tapOp e o
    s.put e (.tile (s.lineWord e o.dld.toNat 0)) stW x

/-- The four Lagrange weights at a fraction v / 65,536, in Q4.28 (R121). -/
def fdrWeights (v : Int) : List Int :=
  let b : Int := 65536
  [-v * (v - b) * (v - 2 * b) / (6 * 2 ^ 20), (v + b) * (v - b) * (v - 2 * b) / (2 * 2 ^ 20),
    -(v + b) * v * (v - 2 * b) / (2 * 2 ^ 20), (v + b) * v * (v - b) / (6 * 2 ^ 20)]

/-- FDR (R121). -/
def execRFdr (e : Eng) (h : Hdr) (dl : BitVec 6) (dd : BitVec 4) (kb : BitVec 16) (qa : BitVec 3) (neg z : Bool)
    (s : State) : Res State :=
  renderDone <| s.issue e h id fun s =>
    let t : Nat := kb.toNat * 65536 + wrapN 32 (s.dM e dd)
    let k : Int := (t / 65536 : Nat)
    let (xs, s) := s.readTiles e ((List.range 4).map fun (j : Nat) => s.lineWord e dl.toNat (k - 1 + j))
    let sum := (List.zipWith (prod true neg) xs (fdrWeights (t % 65536 : Nat))).sum
    s.putQ e qa.toNat (s.accIn e z qa.toNat + sum)

/-! ## Accumulators, loads and stores (R122 to R125) -/

/-- CLRQ (R123). -/
def execRClrq (e : Eng) (h : Hdr) (mask : Byte) (s : State) : Res State :=
  renderDone <| s.issue e h id fun s =>
    s.forEach ((List.range 8).filter fun q => mask.getLsbD q) fun s q => s.putQ e q 0

/-- LDQ (R123): NEG negates only the D term. -/
def execRLdq (e : Eng) (h : Hdr) (qa : BitVec 3) (dn : BitVec 4) (neg acc : Bool) (s : State) : Res State :=
  renderDone <| s.issue e h id fun s =>
    let d := s.dM e dn * 2 ^ 31
    s.putQ e qa.toNat (s.accIn e (!acc) qa.toNat + if neg then -d else d)

/-- ADDQ (R123): the destination is seen in X2 and the source in M. -/
def execRAddq (e : Eng) (h : Hdr) (qa qb : BitVec 3) (neg : Bool) (s : State) : Res State :=
  renderDone <| s.issue e h id fun s =>
    let b := s.see e (.q qb.toNat) stM
    s.putQ e qa.toNat (s.accIn e false qa.toNat + if neg then -b else b)

/-- STQ (R124). -/
def execRStq (e : Eng) (h : Hdr) (qa : BitVec 3) (sh : BitVec 4) (mop : Mop) (s : State) : Res State :=
  renderDone <| s.issue e h (·.mopPost e mop) fun s =>
    let raw := stqRaw (s.see e (.q qa.toNat) stM) sh.toInt
    (s.satFlag e raw).mopWrite e mop (sat32 raw)

/-- LD (R125). -/
def execRLd (e : Eng) (h : Hdr) (dn : BitVec 4) (mop : Mop) (s : State) : Res State :=
  renderDone <| s.issue e h (·.mopPost e mop) fun s =>
    let (v, s) := s.mopRead e mop [0, 1, 2, 3, 4, 7]
    s.put e (.d dn.toNat) stW v

/-- ST (R125). -/
def execRSt (e : Eng) (h : Hdr) (dn : BitVec 4) (mop : Mop) (s : State) : Res State :=
  renderDone <| s.issue e h (·.mopPost e mop) fun s => s.mopWrite e mop (s.dM e dn)

/-- LUTI (R122). -/
def execRLuti (e : Eng) (h : Hdr) (dd ds : BitVec 4) (base : BitVec 14) (log2n : BitVec 4) (sgn : Bool) (s : State) :
    Res State :=
  renderDone <| s.issue e h id fun s =>
    let u : Nat := (wrapN 32 (s.dM e ds) + if sgn then 2 ^ 31 else 0) % 2 ^ 32
    let n := min log2n.toNat 13
    let i : Nat := u / 2 ^ (32 - n)
    let f : Nat := u * 2 ^ n % 2 ^ 32 / 2 ^ 16
    let (ts, s) := s.readCoefs e [base.toNat + i, base.toNat + i + 1]
    let t0 := ts.headD 0
    let t1 := (ts.drop 1).headD 0
    s.put e (.d dd.toNat) stW (t0 + (t1 - t0) * f / 65536)

/-! ## Data operations (R126, R127) -/

/-- The second operand: IMM or D[DB]. -/
def State.aluB (s : State) (e : Nat) (o : AluOp) : Word := if o.i then o.imm else BitVec.ofInt 32 (s.dM e o.db)
def State.aluA (s : State) (e : Nat) (o : AluOp) : Word := BitVec.ofInt 32 (s.dM e o.da)

/-- A data operation: D[DD] = g D[DA] b, in X1 (R126). -/
def State.alu (s : State) (e : Nat) (h : Hdr) (o : AluOp) (g : Word → Word → Word) : Res State :=
  renderDone <| s.issue e h id fun s => s.putAlu e o.dd (g (s.aluA e o) (s.aluB e o))

/-- MOV (R126). -/
def execRMov (e : Eng) (h : Hdr) (o : AluOp) (s : State) : Res State :=
  s.alu e h o (fun _ b => b)

/-- ADD (R126). -/
def execRAdd (e : Eng) (h : Hdr) (o : AluOp) (s : State) : Res State :=
  s.alu e h o (fun a b => a + b)

/-- ADDS (R126). -/
def execRAdds (e : Eng) (h : Hdr) (o : AluOp) (s : State) : Res State :=
  s.alu e h o (fun a b => BitVec.ofInt 32 (sat32 (a.toInt + b.toInt)))

/-- SUB (R126). -/
def execRSub (e : Eng) (h : Hdr) (o : AluOp) (s : State) : Res State :=
  s.alu e h o (fun a b => a - b)

/-- SUBS (R126). -/
def execRSubs (e : Eng) (h : Hdr) (o : AluOp) (s : State) : Res State :=
  s.alu e h o (fun a b => BitVec.ofInt 32 (sat32 (a.toInt - b.toInt)))

/-- AND (R126). -/
def execRAnd (e : Eng) (h : Hdr) (o : AluOp) (s : State) : Res State :=
  s.alu e h o (fun a b => a &&& b)

/-- OR (R126). -/
def execROr (e : Eng) (h : Hdr) (o : AluOp) (s : State) : Res State :=
  s.alu e h o (fun a b => a ||| b)

/-- XOR (R126). -/
def execRXor (e : Eng) (h : Hdr) (o : AluOp) (s : State) : Res State :=
  s.alu e h o (fun a b => a ^^^ b)

/-- SHL (R126). -/
def execRShl (e : Eng) (h : Hdr) (o : AluOp) (s : State) : Res State :=
  s.alu e h o (fun a b => a <<< (b.toNat % 32))

/-- SHR (R126). -/
def execRShr (e : Eng) (h : Hdr) (o : AluOp) (s : State) : Res State :=
  s.alu e h o (fun a b => a >>> (b.toNat % 32))

/-- ASR (R126). -/
def execRAsr (e : Eng) (h : Hdr) (o : AluOp) (s : State) : Res State :=
  s.alu e h o (fun a b => a.sshiftRight (b.toNat % 32))

/-- MIN (R126). -/
def execRMin (e : Eng) (h : Hdr) (o : AluOp) (s : State) : Res State :=
  s.alu e h o (fun a b => if a.toInt ≤ b.toInt then a else b)

/-- MAX (R126). -/
def execRMax (e : Eng) (h : Hdr) (o : AluOp) (s : State) : Res State :=
  s.alu e h o (fun a b => if a.toInt ≤ b.toInt then b else a)

/-- ABS (R126). -/
def execRAbs (e : Eng) (h : Hdr) (o : AluOp) (s : State) : Res State :=
  s.alu e h o (fun a _ => BitVec.ofInt 32 (sat32 a.toInt.natAbs))

/-- The special value of a selector, codes 0 to 8; the others are the instruction's own (R127).  A test pass reads its
tier, and TR complete (R103). -/
def State.special (s : State) (e sel : Nat) : Word :=
  let en := s.eng e
  match sel with
  | 0 => BitVec.ofNat 32 (if en.test then en.ttier else s.f (F.ENG_TIERST_TIER e))
  | 1 => BitVec.ofNat 32 (if en.test then en.ttier else s.f (F.ENG_TIERST_PTIER e))
  | 2 => if en.test then 0x7FFFFFFF else s.reg (R.ENG_TR e)
  | 3 => s.reg (R.ENG_SCNTL e)
  | 4 => s.reg (R.ENG_SCNTH e)
  | 5 => BitVec.ofNat 32 (s.f (F.ENG_CNT_COUNT e 0))
  | 6 => BitVec.ofNat 32 (s.f (F.ENG_CNT_COUNT e 1))
  | 7 => BitVec.ofNat 32 (s.f (F.ENG_CNT_COUNT e 2))
  | 8 => BitVec.ofNat 32 (s.f (F.ENG_CNT_COUNT e 3))
  | _ => 0

/-- MOVS (R127): an address register is zero-extended, an offset register sign-extended. -/
def execRMovs (e : Eng) (h : Hdr) (dd db sel : BitVec 4) (s : State) : Res State :=
  renderDone <| s.issue e h id fun s =>
    s.putAlu e dd (match sel.toNat with
      | 9 => BitVec.ofInt 32 (s.see e (.a db.toNat) stM)
      | 10 => BitVec.ofInt 32 (s.see e (.m (db.toNat % 8)) stM)
      | n => s.special e n)

/-! ## Address, offset and predicate operations (R128 to R130) -/

/-- MOVA (R128). -/
def execRMova (e : Eng) (h : Hdr) (an : BitVec 4) (imm : BitVec 20) (s : State) : Res State :=
  renderDone <| s.issue e h id fun s => s.put e (.a an.toNat) stM imm.toNat

/-- ADDA (R128). -/
def execRAdda (e : Eng) (h : Hdr) (an : BitVec 4) (mm : BitVec 3) (rm : Bool) (imm : BitVec 20) (s : State) : Res State :=
  renderDone <| s.issue e h id fun s =>
    let add := if rm then s.see e (.m mm.toNat) stM else imm.toInt
    s.put e (.a an.toNat) stM ((s.see e (.a an.toNat) stM + add) % 2 ^ 20)

/-- MOVM (R128). -/
def execRMovm (e : Eng) (h : Hdr) (mm : BitVec 3) (imm : BitVec 20) (s : State) : Res State :=
  renderDone <| s.issue e h id fun s => s.put e (.m mm.toNat) stM imm.toInt

/-- MOVAD (R128). -/
def execRMovad (e : Eng) (h : Hdr) (an dn : BitVec 4) (s : State) : Res State :=
  renderDone <| s.issue e h id fun s => s.put e (.a an.toNat) stM (s.dM e dn % 2 ^ 20)

/-- MOVMD (R128). -/
def execRMovmd (e : Eng) (h : Hdr) (mm : BitVec 3) (dn : BitVec 4) (s : State) : Res State :=
  renderDone <| s.issue e h id fun s => s.put e (.m mm.toNat) stM (BitVec.ofInt 20 (s.dM e dn)).toInt

/-- CMP (R129): with SR, the first operand is the special value of code DA, and codes 9 and 10 read as 0 (R127). -/
def execRCmp (e : Eng) (h : Hdr) (pd cc : BitVec 3) (da db : BitVec 4) (i sr : Bool) (imm : Word) (s : State) : Res State :=
  renderDone <| s.issue e h id fun s =>
    let a := if sr then s.special e da.toNat else BitVec.ofInt 32 (s.dM e da)
    let b := if i then imm else BitVec.ofInt 32 (s.dM e db)
    s.putP e pd.toNat (cmpCond cc a b)

/-- PLOG (R130). -/
def execRPlog (e : Eng) (h : Hdr) (pd pa pb : BitVec 3) (lop : BitVec 2) (s : State) : Res State :=
  renderDone <| s.issue e h id fun s =>
    let a := decide (s.see e (.p pa.toNat) stM ≠ 0)
    let b := decide (s.see e (.p pb.toNat) stM ≠ 0)
    s.putP e pd.toNat (match lop.toNat with
      | 0 => a && b
      | 1 => a || b
      | 2 => a != b
      | _ => a && !b)

/-- PSET (R130). -/
def execRPset (e : Eng) (h : Hdr) (pd : BitVec 3) (val : Bool) (s : State) : Res State :=
  renderDone <| s.issue e h id fun s => s.putP e pd.toNat val

/-- An unassigned opcode issues as a NOP without post-modification (R113). -/
def execUnassignedRenderOpcode (e : Eng) (_ : Word64) (s : State) : Res State :=
  renderDone (s.issue e ⟨0, true, false⟩ id id)

end Sys2Proof.Machine
end

