-- ==== Sys2Proof/Machine/RenderRun.lean ====
section
/-! DEFINITION. A pass as its engine runs it: fetch from the live program bank, decode, execute, to END (R71, R93, R103),
and what the end of a pass and of a test pass does. -/

namespace Sys2Proof.Machine

/-- The state a meaning answers; render instructions always complete. -/
def stateOf (s : State) (r : Res State) : State :=
  match r with
  | .next t => t
  | _ => s

/-- A render instruction takes its effect. -/
def renderExec (i : Instr) (s : State) : Res State :=
  match i with
  | .rNop e h => execRNop e h s
  | .rEnd e h => execREnd e h s
  | .rRpt e h count body => execRRpt e h count body s
  | .rRptc e h cr body => execRRptc e h cr body s
  | .rMac e h o => execRMac e h o s
  | .rMacd e h o => execRMacd e h o s
  | .rMacw e h o => execRMacw e h o s
  | .rMacqd e h o => execRMacqd e h o s
  | .rMacqc e h o => execRMacqc e h o s
  | .rTap e h o => execRTap e h o s
  | .rTapm e h o => execRTapm e h o s
  | .rFdr e h dl dd kb qa neg z => execRFdr e h dl dd kb qa neg z s
  | .rClrq e h mask => execRClrq e h mask s
  | .rLdq e h qa dn neg acc => execRLdq e h qa dn neg acc s
  | .rAddq e h qa qb neg => execRAddq e h qa qb neg s
  | .rStq e h qa sh mop => execRStq e h qa sh mop s
  | .rLd e h dn mop => execRLd e h dn mop s
  | .rSt e h dn mop => execRSt e h dn mop s
  | .rLuti e h dd ds base log2n sgn => execRLuti e h dd ds base log2n sgn s
  | .rMov e h o => execRMov e h o s
  | .rAdd e h o => execRAdd e h o s
  | .rAdds e h o => execRAdds e h o s
  | .rSub e h o => execRSub e h o s
  | .rSubs e h o => execRSubs e h o s
  | .rAnd e h o => execRAnd e h o s
  | .rOr e h o => execROr e h o s
  | .rXor e h o => execRXor e h o s
  | .rShl e h o => execRShl e h o s
  | .rShr e h o => execRShr e h o s
  | .rAsr e h o => execRAsr e h o s
  | .rMin e h o => execRMin e h o s
  | .rMax e h o => execRMax e h o s
  | .rAbs e h o => execRAbs e h o s
  | .rMovs e h dd db sel => execRMovs e h dd db sel s
  | .rMova e h an imm => execRMova e h an imm s
  | .rAdda e h an mm rm imm => execRAdda e h an mm rm imm s
  | .rMovm e h mm imm => execRMovm e h mm imm s
  | .rMovad e h an dn => execRMovad e h an dn s
  | .rMovmd e h mm dn => execRMovmd e h mm dn s
  | .rCmp e h pd cc da db i sr imm => execRCmp e h pd cc da db i sr imm s
  | .rPlog e h pd pa pb lop => execRPlog e h pd pa pb lop s
  | .rPset e h pd val => execRPset e h pd val s
  | .unassignedRenderOpcode e w => execUnassignedRenderOpcode e w s
  | _ => .next s

/-- Fetch of one half of a program word from the live bank: an uncorrectable codeword reads as 0 (R150, R151). -/
def State.fetchHalf (s : State) (e pc : Nat) (hi : Bool) : Word × State :=
  if progCode pc hi ∈ (s.eng e).bad then (0, s.eccFault e)
  else (half64 (memGet (s.eng e).prog pc) hi, s.softFix e (progCode pc hi))

/-- Fetch of a program word, two codewords. -/
def State.fetchWord (s : State) (e pc : Nat) : Word64 × State :=
  let (lo, s) := s.fetchHalf e pc false
  let (hi, s) := s.fetchHalf e pc true
  (join64 lo hi, s)

/-- Fetch through the repeat cache (R92): a body of 32 instructions or fewer fills it in its first iteration, and the later
iterations issue from it without a read of program memory. -/
def State.fetch (s : State) (e : Nat) : Word64 × State :=
  let en := s.eng e
  let pc := en.pc
  match en.nest.head?.filter fun r => r.len ≤ 32 with
  | some r =>
    match if r.first then none else listed en.rpt pc with
    | some w => (w, s)
    | none =>
      let (w, s) := s.fetchWord e pc
      (w, s.modEng e fun x => { x with rpt := (smapIns x.rpt pc w).take 32 })
  | none => s.fetchWord e pc

/-- The engine issues up to `fuel` instructions of its pass, or to END. -/
def runPass (e : Eng) : Nat → State → State
  | 0, s => s
  | fuel + 1, s =>
    if s.issues e then
      let (w, s) := s.fetch e
      runPass e fuel (stateOf s (renderExec (decodeRender e w) s))
    else s

/-- The most cycles a pass can take between two ticks: 1.000 GHz at 8 kHz (R46); a test pass stops at 2^20 (R103). -/
def passFuel : Nat := 2 ^ 20

/-- A pass begins (R77, R94, R95): registers empty, N the sample, issue from an entry point. -/
def State.beginPass (s : State) (e entry : Nat) (test : Bool) (ttier : Nat) : State :=
  s.modEng e fun en => { en with
    a := Vector.replicate 16 0, m := Vector.replicate 8 0, d := Vector.replicate 16 0
    q := Vector.replicate 8 0, p := Vector.replicate 8 false
    pc := entry, slot := 0, nest := [], pend := [], outs := [], lw := []
    busy := true, done := false, test := test, ttier := ttier }

/-- The long-write entries of a retired pass wait for the drain; an index beyond the list is discarded (R144, R145). -/
def State.retireWrites (s : State) (e : Nat) : State :=
  let n := s.engN e
  s.modEng e fun en => { en with
    drain := some (n, en.lw.filter fun p => p.1 < en.lwr.length), lw := [] }

/-- END has retired: the pipeline drains, the last outputs are delivered, and the pass is reported done (R93). -/
def State.finishPass (s : State) (e : Nat) : State :=
  if (s.eng e).busy ∨ (s.eng e).done then s
  else (((s.drainPipe e).retireWrites e).modEng e fun en => { en with done := true })

/-- A test pass (R103) runs to END or for 2^20 cycles; then N rises and TDONE sets. -/
def State.endTest (s : State) (e : Nat) (limit : Bool) : State :=
  let s := (s.drainPipe e).modEng e fun en => { en with busy := false, test := false, lw := [] }
  let s := (s.setEngN e (s.engN e + 1)).flag (F.ENG_STAT_TDONE e)
  let s := if limit then s.flag (F.ENG_STAT_TLIMIT e) else s
  (s.setMode e 1).setF (F.ENG_STAT_BUSY e) 0

end Sys2Proof.Machine
end

