-- ==== Sys2Proof/Machine/Lds.lean ====
section
/-! DEFINITION. The long delay store: halves, the line table, the gather prefetch, the long-write drain and scrubbing
(R138 to R152). -/

namespace Sys2Proof.Machine

/-! ## Halves and words -/

/-- The state of a half: 0 OFF, 1 CLEARING, 2 READY (R139). -/
def State.half (s : State) (b : Nat) : Nat := if b = 0 then s.f F.LDS_STAT_HAST else s.f F.LDS_STAT_HBST
def State.setHalf (s : State) (b v : Nat) : State :=
  if b = 0 then s.setF F.LDS_STAT_HAST v else s.setF F.LDS_STAT_HBST v

/-- The half and the bank of a word (R138). -/
def ldsHalf (w : Nat) : Nat := w / 2 ^ 20
def ldsBank (w : Nat) : Nat := 8 * (w / 2 ^ 20) + w % 8

/-- A word takes a value, and is good again (R151). -/
def State.setLds (s : State) (w : Nat) (v : Word) : State :=
  { s with lds := memSet s.lds w v, ldsBad := delNat s.ldsBad w, ldsSoft := delNat s.ldsSoft w }

/-- An uncorrectable word is counted and recorded, and firmware raises LDS_ECC (R151). -/
def State.ldsBadRead (s : State) (w : Nat) : State :=
  let s := (s.sat F.LDS_ECCUC_COUNT 1).flag F.LDS_STAT_ECCU
  let s := if s.b F.LDS_ECCADDR_VALID then s else (s.setF F.LDS_ECCADDR_VALID 1).setF F.LDS_ECCADDR_WADDR w
  s.raise 0x0103 (leBytes 4 w)

/-- A correctable word is written back corrected and counted (R150). -/
def State.ldsSoftRead (s : State) (w : Nat) : State :=
  if w ∈ s.ldsSoft then
    ({ s with ldsSoft := delNat s.ldsSoft w }.sat F.LDS_ECCC_COUNT 1).flag F.LDS_STAT_ECCC
  else s

/-- A word read with error correction. -/
def State.readLds (s : State) (w : Nat) : Word × State :=
  if w ∈ s.ldsBad then (0, s.ldsBadRead w) else (memGet s.lds w, s.ldsSoftRead w)

/-! ## The line table (R140) -/

/-- The word of sample index m of a line. -/
def State.lineAddr (s : State) (line : Nat) (m : Int) : Nat :=
  s.f (F.LINEBASE_BASE line) + (m % ((s.f (F.LINELEN_LEN line) : Nat) : Int)).toNat

/-- The lines of a logical engine in a cold hand-over read 0 between b and b′ (R239). -/
def State.lineBlank (s : State) (line : Nat) : Bool :=
  (s.le (s.f (F.LINELEN_LE line))).entry = .cold

/-- A list entry's line and delay (R142). -/
def entryLine (w : Word) : Nat := wordFld w 31 24
def entryDelay (w : Word) : Nat := wordFld w 20 0

/-- One gather entry for pass n: the word at sample index n − K (R143); a half that is not READY reads 0 (R139). -/
def State.gatherWord (s : State) (d n : Nat) (en : Word) : Word × State :=
  let a := s.lineAddr (entryLine en) ((n : Int) - entryDelay en)
  if s.half (ldsHalf a) ≠ 2 then (0, s.flag F.LDS_STAT_OFFACC)
  else
    let s := s.modDom d fun x => { x with ldsAcc := x.ldsAcc + 1 }
    if s.lineBlank (entryLine en) then (0, s) else s.readLds a

/-- The prefetch of an engine for pass n, into the back side of its long-read buffer (R145). -/
def State.prefetch (s : State) (d e n : Nat) : State :=
  let (buf, s) := ((s.eng e).gath.zipIdx).foldl (fun acc p =>
    let (v, s) := acc.2.gatherWord d n p.1
    (if v = 0 then acc.1 else acc.1 ++ [(p.2, v)], s)) (([], s) : List (Nat × Word) × State)
  s.modEng e fun en => { en with
    lrBack := buf, bad := en.bad.filter (· / 0x10000 ≠ 11), soft := en.soft.filter (· / 0x10000 ≠ 11) }

/-- One long write of a retired pass n (R144); a half that is not READY drops it (R139). -/
def State.drainWord (s : State) (d n : Nat) (en v : Word) : State :=
  let a := s.lineAddr (entryLine en) ((n : Int) - entryDelay en)
  if s.half (ldsHalf a) ≠ 2 then s.flag F.LDS_STAT_OFFACC
  else (s.modDom d fun x => { x with ldsAcc := x.ldsAcc + 1 }).setLds a v

/-- The long writes of an engine reach the LDS: the host's, or in a domain that the logical engine has still to leave those of
the engine there (R537), and not the punty's nor an outgoing engine's (R148, R172, R239). -/
def State.drainsToLds (s : State) (e : Nat) : Bool :=
  match s.leOf e with
  | some l => s.mode e = 2 ∧ ((s.le l).host = some e ∨ (s.le l).leaving.any fun v => v.eng = e ∧ v.stays)
  | none => false

/-- An entry of the long-write buffer as the drain reads it, under ECC (R150): the manual states no data for an
uncorrectable one (log 6), which is flagged as a pass read would be. -/
def State.lwWord (s : State) (e i : Nat) (v : Word) : Word × State :=
  if 0xA0000 + i ∈ (s.eng e).bad then
    let (x, s) := s.free
    (BitVec.ofNat 32 x, (s.modEng e (·.heal (0xA0000 + i))).eccFault e)
  else (v, s.softFix e (0xA0000 + i))

/-- The drain of an engine, entries in rising order (R144, R145). -/
def State.drainEng (s : State) (e : Nat) : State :=
  match (s.eng e).drain with
  | some (n, ws) =>
    let d := s.f (F.ENG_MAP_DOMAIN e)
    let s :=
      if s.drainsToLds e then
        ws.foldl (fun s p =>
          let (v, s) := s.lwWord e p.1 p.2
          s.drainWord d n ((s.eng e).lwr.getD p.1 0) v) s
      else s
    s.modEng e fun en => { en with drain := none }
  | none => s

/-- Zero every word of a line (R141, R239). -/
def State.zeroLine (s : State) (line : Nat) : State :=
  let b := s.f (F.LINEBASE_BASE line)
  let n := s.f (F.LINELEN_LEN line)
  let out := fun (w : Nat) => w < b ∨ b + n ≤ w
  { s with lds := s.lds.filter (fun p => out p.1), ldsBad := s.ldsBad.filter out, ldsSoft := s.ldsSoft.filter out }

/-- Every word of a half is cleared, and loses its errors (R139). -/
def State.clearHalf (s : State) (b : Nat) : State :=
  { s with
    lds := s.lds.filter (fun p => ldsHalf p.1 ≠ b)
    ldsBad := s.ldsBad.filter (fun w => ldsHalf w ≠ b)
    ldsSoft := s.ldsSoft.filter (fun w => ldsHalf w ≠ b) }

/-- A placed line of the applied epoch lies in a half (R139). -/
def State.halfUsed (s : State) (b : Nat) : Bool :=
  (List.range 256).any fun l => s.b (F.LINEBASE_VALID l) && ldsHalf (s.f (F.LINEBASE_BASE l)) = b

/-- A half is switched on and starts to clear; it is off already, or nothing happens (R139). -/
def State.startHalf (s : State) (b : Nat) : State :=
  let s := s.setF (if b = 0 then F.LDS_CTRL_HAREQ else F.LDS_CTRL_HBREQ) 1
  if s.half b = 0 then (s.setOn (17 + b) true).setHalf b 1 else s

/-- A request bit is cleared: the half goes off, unless a long line lies in it (R139). -/
def State.stopHalf (s : State) (b : Nat) : State :=
  let s := s.setF (if b = 0 then F.LDS_CTRL_HAREQ else F.LDS_CTRL_HBREQ) 0
  if s.halfUsed b then s else ((s.clearHalf b).setOn (17 + b) false).setHalf b 0

/-! ## Meanings -/

/-- LONG_WRITE_DRAIN (R144, R145): once the engine has retired END. -/
def execLongWriteDrain (e : Eng) (s : State) : Res State := .next (s.drainEng e)

/-- HALF_REQUEST (R139). -/
def execHalfRequest (b : Bool) (s : State) : Res State := .next (if s.on 21 then s.startHalf (b2n b) else s.busErr)

/-- HALF_CLEAR_DONE (R139): a half that is clearing reads READY. -/
def execHalfClearDone (b : Bool) (s : State) : Res State :=
  .next (if s.half (b2n b) = 1 then (s.clearHalf (b2n b)).setHalf (b2n b) 2 else s)

/-- The scrubber over every word of one engine's memories, its shadow banks and long buffers among them: correctable words are
written back and counted; an uncorrectable word is left in place and sets ECCU as a pass read would (R152). -/
def State.scrubEng (s : State) (e : Nat) : State :=
  if s.on e then
    let n := (s.eng e).soft.length
    let s := (s.modEng e fun en => { en with soft := [] }).sat (F.ENGECC_COUNT e) n
    if (s.eng e).bad ≠ [] then s.eccFault e else s
  else s

/-- The scrubber over the READY halves: an uncorrectable word is rewritten as 0 and counted (R152). -/
def State.scrubLds (s : State) : State :=
  let ready := fun (w : Nat) => s.half (ldsHalf w) = 2
  let soft := s.ldsSoft.filter ready
  let bad := s.ldsBad.filter ready
  let s := (s.sat F.LDS_ECCC_COUNT soft.length).sat F.LDS_ECCUC_COUNT bad.length
  let s := if soft = [] then s else s.flag F.LDS_STAT_ECCC
  s.forEach (soft ++ bad) fun s w => s.setLds w (if w ∈ bad then 0 else memGet s.lds w)

/-- SCRUB (R152): one round of the scrubber, while it is enabled. -/
def execScrub (s : State) : Res State :=
  .next <|
    if s.b F.LDS_CTRL_SCRUBEN then
      (s.forEach (List.range 17) State.scrubEng).scrubLds.sat F.LDS_SCRUB_ROUNDS 1
    else s

end Sys2Proof.Machine
end

