-- ==== Sys2Proof/Machine/EngineCtl.lean ====
section
/-! DEFINITION. The control block of a render engine: bank swap, CLEAR, BIST and test passes of an out-of-service engine,
and what firmware makes of a BIST result (R101 to R105, R222, R223, R240 to R243). -/

namespace Sys2Proof.Machine

/-- CTRL actions are taken while the engine is out of service and not busy (R101). -/
def State.actable (s : State) (e : Nat) : Bool :=
  !s.inService e && !s.b (F.ENG_STAT_BUSY e) && s.mode e ≠ 0

/-- The error code of the same word of a program or coefficient memory in the other bank. -/
def otherBank (b : Nat) : Nat :=
  match b / 0x10000 with
  | 1 => 0x30000 + b % 0x10000
  | 3 => 0x10000 + b % 0x10000
  | 2 => 0x80000 + b % 0x10000
  | 8 => 0x20000 + b % 0x10000
  | _ => b

/-- Live and shadow banks exchange roles (R71, R101). -/
def State.swapBanks (s : State) (e : Nat) : State :=
  s.modEng e fun en => { en with
    prog := en.progSh, progSh := en.prog, coef := en.coefSh, coefSh := en.coef
    bad := en.bad.map otherBank, soft := en.soft.map otherBank }

/-- One test pass runs, from the entry point of CTRL.TTIER (R103). -/
def State.runTest (s : State) (e : Eng) : State :=
  let t := s.f (F.ENG_CTRL_TTIER e)
  let s := ((s.setMode e 4).setF (F.ENG_STAT_BUSY e) 1).setF (F.ENG_TR_TR e) 0x7FFFFFFF
  let s := s.modEng e fun en => { en with dirty := true }
  let s := runPass e passFuel (s.beginPass e (s.f (F.ENG_ENTRY_ADDR e t)) true t)
  if (s.eng e).busy then s else s.endTest e false

/-- The punty that a CTRL action takes in hand is OUT from then on, and PUNTY is filled from RESERVE (R221, R222). -/
def State.dropPunty (s : State) (e : Nat) : State :=
  if s.puntyOf = some e then ((s.setRole e .out).modEng e fun en => { en with clearRole := true }).fillPunty else s

/-- The next action of a CTRL write that named several, in the order SWAP, CLEAR, BISTGO, TPASS (R102): 0 to 3, and 4 for
firmware's decision on a BIST (R104), which stays until the others have ended.  A BIST or a test pass waits, busy, while the
engine's clock is not locked (R260). -/
def State.nextAct (s : State) (e : Eng) : Nat → State
  | 0 => s
  | fuel + 1 =>
    match (s.eng e).acts with
    | [] => s
    | a :: rest =>
      if a = 4 then s
      else if 2 ≤ a ∧ s.b (F.ENG_CLKST_LOCK e) = false then s.setF (F.ENG_STAT_BUSY e) 1
      else
      let s := s.modEng e fun en => { en with acts := rest }
      match a with
      | 0 => (s.swapBanks e).nextAct e fuel
      | 1 => (s.dropPunty e).startClear e
      | 2 => (s.dropPunty e).startBist e
      | _ =>
        let s := (s.dropPunty e).runTest e
        if s.b (F.ENG_STAT_BUSY e) then s else s.nextAct e fuel

/-- A CTRL write names actions: ignored while in service or busy (R101, R102). -/
def State.ctrlActs (s : State) (e : Eng) (acts : List Nat) : State :=
  if s.actable e then (s.modEng e fun en => { en with acts := acts }).nextAct e 5 else s

/-- A clone starts on a logical engine (R226, step 1): the punty takes MODE SHADOW at its clock. -/
def State.startClone (s : State) (p l : Nat) : State :=
  match (s.le l).host with
  | some h =>
    let s := (((s.setPair l h p).setScuState 1).enterService p 3).mapEng p l
    let s := (s.setF F.SCU_WCNT_COUNT 0).setReg R.SCU_CLONE 0
    let n := s.capClock p (s.le l).clock
    let s := (s.setF (F.ENG_CLKST_N p) n).setF (F.ENG_CLKST_NARM p) n
    { s.modEng p fun en => { en with busy := false, done := false } with scu := { s.scu with lastLe := l, fullBlock := false } }
  | none => s

/-- Shadow checking may run on a logical engine (R224): it has an image and a host, its domain runs, and it is not
excluded. -/
def State.shadowable (s : State) (l : Nat) : Bool :=
  (s.le l).image ≠ [] && (s.le l).host.isSome && (s.le l).entry = .none && s.running (s.le l).dom && !(s.le l).excluded

/-- The punty's clock limit covers the highest clock that a tier of the logical engine needs (R224). -/
def State.needClock (s : State) (l t : Nat) : Nat :=
  let c := imgCycles (s.le l).image t fun k => (s.le l).counts.getD k 0
  ((List.range 17).find? fun n => 4 ≤ n ∧ c ≤ budget n (s.fsCheck (s.le l).dom)).getD 16
def State.fitsPunty (s : State) (p l : Nat) : Bool :=
  (List.range (imgNTier (s.le l).image)).all fun t => s.needClock l t ≤ s.fmax p

/-- A logical engine has gone more than some hours of S0 time without a completed window (R202, R224, R242). -/
def State.uncheckedFor (s : State) (l hours : Nat) : Bool := hours * hourNow < s.s0 - (s.le l).checkAt

/-- The logical engine that rotation shadows next (R224). -/
def State.rotate (s : State) (p : Nat) : Option Nat :=
  let ok := fun l => s.shadowable l && s.fitsPunty p l
  match (List.range 16).find? fun l => ok l && s.uncheckedFor l 23 with
  | some l => some l
  | none => ((List.range 16).map fun i => (s.scu.lastLe + 1 + i) % 16).find? ok

/-- The logical engine that the idle punty clones next: one whose host is to retire (R233), one that is forced (R202),
or the next of the rotation unless the lehr has paused it (R200, R224). -/
def State.nextShadow (s : State) (p : Nat) : Option Nat :=
  match (List.range 16).find? fun l => (s.le l).retire && s.shadowable l with
  | some l => some l
  | none => match (List.range 16).find? fun l => l ∈ s.lehr.forced && s.shadowable l && s.fitsPunty p l with
    | some l => some l
    | none => if s.lehr.paused then none else s.rotate p

/-- Shadow checking goes on, but not while the hard threshold holds (R198) nor outside S0 (R225); a punty that a test pass or
a window write used runs BIST first (R241). -/
def State.resumeShadow (s : State) : State :=
  match s.puntyOf with
  | some p =>
    if s.scuState = 0 ∧ s.mode p = 1 ∧ s.clean p = false then s.rebist p
    else if s.scuState = 0 ∧ s.mode p = 1 ∧ s.b F.TSU_STAT_HARD = false ∧ s.f F.PMU_STAT_STATE = 0 then
      match s.nextShadow p with
      | some l => s.startClone p l
      | none => s
    else s
  | none =>
    -- with no RESERVE engine, one that a test pass or a window write used comes back by BIST
    if s.rolesOf .reserve ≠ [] then s
    else match (s.rolesOf .out).find? fun e => s.mode e = 1 && !s.clean e && s.on e && !s.claimed e && !s.b (F.ENG_STAT_BUSY e) with
      | some e => s.startBist e
      | none => s

/-! ## Fault isolation (R240) -/

def State.passesOf (s : State) (l e : Nat) : Nat := (((s.le l).case.bind fun c => listed c e).getD 0)

/-- A mismatch host passed its BIST: counted in the open case, which may end in DIVERGENT_PROGRAM (R240). -/
def State.isolate (s : State) (h l : Nat) : State :=
  if (s.le l).case.isNone then s
  else
    let s := s.modLe l fun x => { x with case := some (smapIns (x.case.getD []) h (s.passesOf l h + 1)) }
    let p := ((s.le l).host).getD h
    if 2 ≤ s.passesOf l h ∧ 2 ≤ s.passesOf l p then
      let s := (s.modLe l fun x => { x with excluded := true, case := none }).unforce l
      s.raise 0x0308 [BitVec.ofNat 8 l, BitVec.ofNat 8 h, BitVec.ofNat 8 p]
    else s

/-- The engine comes back as the punty and shadows the logical engine of its case at once (R240); while the machine is at
work for another, that one is the next of the rotation. -/
def State.rejoin (s : State) (h l : Nat) : State :=
  let s := ((s.setMode h 1).makePunty h).modEng h fun en => { en with faulted := false }
  let s := { s with scu := { s.scu with held := none } }
  if s.scuState = 0 ∧ (s.le l).case.isSome ∧ s.b F.TSU_STAT_HARD = false then s.startClone h l
  else
    let s := if (s.le l).case.isSome then { s with scu := { s.scu with lastLe := (l + 15) % 16 } } else s
    s.resumeShadow

/-- A muted logical engine whose last engine failed takes the engine of one with a lower priority, if any (R243, step 3). -/
def State.takeLower (s : State) (k : Nat) : State :=
  let hosted := (List.range 16).filter fun l => (s.le l).host.isSome ∧ (s.le l).entry = .none
  match hosted.foldl (fun acc l => match acc with
      | none => some l
      | some m => if s.prio l ≤ s.prio m then some l else some m) none with
  | some m =>
    if s.prio m < s.prio k then
      match (s.le m).host with
      | some e => (s.rampOut m).modLe k fun x => { x with entry := .loading e }
      | none => s
    else s
  | none => s

/-- What firmware makes of a BIST result (R222, R223, R240, R243). -/
def State.bistResult (s : State) (e : Nat) (pass : Bool) : State :=
  let en := s.eng e
  if en.role = .live then s
  else if en.role = .punty ∧ pass then s.resumeShadow
  -- an engine that firmware tested again before it is loaded for a logical engine
  else if pass ∧ (List.range 16).any (fun l => decide ((s.le l).entry = .loading e)) then s.startClear e
  else if !pass then
    let wasHeld := s.scu.held.filter (·.1 = e)
    let s := s.forEach ((List.range 16).filter fun l => (s.le l).entry = .loading e) fun s l =>
      s.modLe l fun x => { x with entry := .none, muted := true, exHost := some e }
    let s := if en.released then (s.powerEng e false).modEng e fun x => { x with role := .cullet, released := false }
      else s.cullEngine e (if en.retiring ≠ 0 then en.retiring else if en.faulted then 2 else 1)
    let s := match en.caseLe with
      | some l => s.modLe l fun x => { x with case := none }
      | none => s
    let s := if wasHeld.isSome then { s with scu := { s.scu with held := none } } else s
    let s := s.modEng e fun x => { x with caseLe := none }
    let s := match s.ownMuted e with
      | some k => (s.modLe k fun x => { x with exHost := none }).takeLower k
      | none => s
    s.fillPunty
  else if en.retiring ≠ 0 then (s.cullEngine e en.retiring).fillPunty
  else
    let s := s.modEng e fun x => { x with released := false }
    let s := match en.caseLe with
      | some l => s.isolate e l
      | none => s
    let s := s.modEng e fun x => { x with caseLe := none }
    match s.scu.held.filter (·.1 = e) with
    | some (_, l) => if s.puntyOf.isNone then s.rejoin e l else { s.freeEngine e with scu := { s.scu with held := none } }
    | none => (s.freeEngine e).resumeShadow

/-! ## Meanings -/

/-- ENG_SWAP (R101). -/
def execEngSwap (e : Eng) (s : State) : Res State := .next (s.ctrlActs e [0])

/-- ENG_CLEAR (R105). -/
def execEngClear (e : Eng) (s : State) : Res State := .next (s.ctrlActs e [1])

/-- BIST_GO (R104). -/
def execBistGo (e : Eng) (s : State) : Res State := .next (s.ctrlActs e [2])

/-- Firmware decides from PASS once the write's other actions have ended (R104); an engine that a test pass has used since stays out
until another BIST (R241). -/
def State.decideBist (s : State) (e : Eng) : State :=
  if (s.eng e).acts = [4] ∧ s.b (F.ENG_STAT_BUSY e) = false then
    let s := s.modEng e fun en => { en with acts := [] }
    if s.clean e then s.bistResult e (s.b (F.ENG_BIST_PASS e)) else s
  else s

/-- The engine goes on with the actions of its CTRL write. -/
def State.goOn (s : State) (e : Eng) : State := (s.nextAct e 5).decideBist e

/-- BIST of an engine ends, once its clock is locked (R260): DONE, PASS and FAILMAP, every memory zeroed, and firmware's decision,
which drops what is left of the write when the engine fails. -/
def State.bistDone (s : State) (e : Eng) (failmap : Nat) : State :=
    if s.mode e = 5 ∧ s.b (F.ENG_CLKST_LOCK e) then
      let pass := failmap = 0
      let s := ((s.setF (F.ENG_BIST_DONE e) 1).setF (F.ENG_BIST_PASS e) (b2n pass)).setF (F.ENG_BIST_FAILMAP e) failmap
      let s := (s.sat (F.ENG_BIST_RUNS e) 1).modEng e fun en =>
        { en.cleared with prog := [], progSh := [], coef := [], coefSh := [], win := [], winBack := [], outs := []
                          bad := [], soft := [], dirty := false, bistTotal := en.bistTotal + 1 }
      let s := (s.setMode e 1).setF (F.ENG_STAT_BUSY e) 0
      let s := s.raise 0x0303 ([BitVec.ofNat 8 e, BitVec.ofNat 8 (b2n pass), 0, 0] ++ leBytes 4 failmap)
      (s.modEng e fun en => { en with acts := (if pass then en.acts else []) ++ [4] }).goOn e
    else s

/-- BIST_DONE (R104). -/
def execBistDone (e : Eng) (failmap : BitVec 13) (s : State) : Res State := .next (s.bistDone e failmap.toNat)

/-- TEST_PASS (R103): CTRL takes TTIER, and TPASS runs. -/
def execTestPass (e : Eng) (ttier : BitVec 2) (s : State) : Res State :=
  .next (if s.b (F.ENG_STAT_BUSY e) then s else (s.setF (F.ENG_CTRL_TTIER e) ttier.toNat).ctrlActs e [3])

/-- TEST_PASS_LIMIT (R103): a test pass that has not reached END stops. -/
def execTestPassLimit (e : Eng) (s : State) : Res State :=
  .next (if s.mode e = 4 ∧ (s.eng e).busy then (s.endTest e true).goOn e else s)

end Sys2Proof.Machine
end

