-- ==== Sys2Proof/Machine/Timing.lean ====
section
/-! DEFINITION. The start of rate domains, and the reads of their index and boundary time (R35 to R40, R68, R69). -/

namespace Sys2Proof.Machine

/-- The settings of a domain are valid as registers (R35, R39): INT, BLEN, RATIO and the nominal rate. -/
def State.settingsOk (s : State) (d : Nat) : Bool :=
  s.f (F.RD_CTRL_BLEN d) ≤ 5 && s.f (F.RD_CTRL_RATIO d) ≤ 2

/-- A domain's leader, or the leader above that one, is l: d stands below l in a chain of links. -/
def State.below (s : State) (fuel l d : Nat) : Bool :=
  match fuel with
  | 0 => false
  | k + 1 => s.linked d && (s.f (F.RD_CTRL_LEADER d) = l || s.below k l (s.f (F.RD_CTRL_LEADER d)))

/-- An unlinked domain and its followers may start together (R35, R39, R40).  DESIGN CHOICE (log 10): the range of rates binds a
follower too, at its leader's rate divided by r, and one follower out of range fails its whole group. -/
def State.groupOk (s : State) (l : Nat) : Bool :=
  let fs := (s.group l).filter (· ≠ l)
  s.f (F.RD_DIVI_INT l) ≠ 0 && (s.group l).all (fun d => s.settingsOk d && rateOk (s.rate d)) &&
    fs.all (fun d => s.blen d * s.ratio d = s.blen l && s.sstart l % (s.blen l * s.ratio d) = 0)

/-- Followers below l whose leader is itself a follower: they and their leaders set CFGERR (R40). -/
def State.chained (s : State) (l : Nat) : List Nat :=
  (List.range 4).filter fun d => s.linked (s.f (F.RD_CTRL_LEADER d)) && s.below 4 l d

/-- The domains of a group read the same status. -/
def State.setGroup (s : State) (l : Nat) (x : Nat → Fld) (v : Nat) : State :=
  s.forEach (s.group l) fun s d => s.setF (x d) v

/-- PHASE is the sample index modulo the block length (R69). -/
def State.setDomPhase (s : State) (d : Nat) : State := s.setF (F.RD_STAT_PHASE d) (s.sidx d % s.blen d)

def State.asp (s : State) (p : Nat) : AspPort := s.asps[p]?.getD AspPort.init
def State.modAsp (s : State) (p : Nat) (g : AspPort → AspPort) : State := { s with asps := vmod s.asps p g }

/-- The period of a master port's pins at which BCLK stays low: after a cut frame, and after the port has stopped.  It begins
`start` ring cycles after the frame and has no end of its own (R282, R288).  DESIGN CHOICE (log 18): FSYNC rests at its
inactive level after a cut frame too. -/
def State.restBit (s : State) (p start : Nat) : PinBit :=
  let off := if s.b (F.ASP_CTRL_TXOFF p) then none else some false
  ⟨start, 0, 0, s.b (F.ASP_FMT1_BCLKINV p), s.b (F.ASP_FMT1_FSPOL p),
    if s.b (F.ASP_CTRL_DIR0 p) then off else none, if s.b (F.ASP_CTRL_DIR1 p) then off else none⟩

/-- A domain starts: a running master port ends the frame in progress at the end of its current bit and holds BCLK low until
the first tick (R282).  Which bit that is, the start's instant decides: a free value (log 6). -/
def State.cutFrame (s : State) (p : Nat) : State :=
  let (v, s) := s.free
  s.modAsp p fun a => match a.frame.take (v % max a.frame.length 1 + 1) with
    | [] => a
    | bs =>
      let z := bs.getLastD (s.restBit p 0)
      { a with frame := bs ++ [s.restBit p (z.start + z.first + z.second)], spill := [], part := [] }

/-- The start of a domain proceeds: it and its followers tick from their ACS's next edge (R37, R69).  DESIGN CHOICE (log 10):
the divider's accumulator is 0 at every start.  Shadow checking that the stop ended resumes (R225). -/
def State.startNow (s : State) (l : Nat) : State :=
  let s := ((s.setGroup l F.RD_STAT_RUN 1).setGroup l F.RD_STAT_CFGERR 0).setGroup l F.RD_STAT_ACSWAIT 0
  let s := s.forEach (s.group l) fun s d =>
    s.modDom d fun x => { x with first := true, acc := 0, restart := false, tripDone := false }
  let ports := (List.range 8).filter fun p =>
    s.b (F.ASP_STAT_RUN p) && s.f (F.ASP_CTRL_MODE p) = 0 && decide (s.f (F.ASP_CTRL_DOMAIN p) ∈ s.group l)
  (s.forEach ports State.cutFrame).resumeShadow

/-- The settings by which a start at l fails (R35, R37, R40). -/
def State.startBad (s : State) (l : Nat) : Bool :=
  s.groupOk l = false || s.chained l ≠ [] || s.b (F.ACS_CTRL_EN (s.f (F.RD_CTRL_SRC l))) = false

/-- A start fails: CFGERR.  DEDUCED (log 10): where a chain of links hangs below l, l and every domain of the chain fail. -/
def State.startFails (s : State) (l : Nat) : State :=
  (s.setGroup l F.RD_STAT_CFGERR 1).forEach (s.chained l) fun s d => s.setF (F.RD_STAT_CFGERR d) 1

/-- A start of an enabled, unlinked, stopped domain (R37, R40): refused with CFGERR, waiting for its ACS, or proceeding. -/
def State.startDomain (s : State) (l : Nat) (byTrigger : Bool) : State :=
  if s.b (F.RD_CTRL_EN l) ∧ s.linked l = false ∧ s.running l = false then
    let a := s.f (F.RD_CTRL_SRC l)
    let s := s.modDom l fun x => { x with byTrigger := byTrigger }
    if s.startBad l then s.startFails l
    else if s.b (F.ACS_STAT_LOCK a) ∨ s.b (F.ACS_STAT_COAST a) then s.startNow l
    else s.setGroup l F.RD_STAT_ACSWAIT 1
  else s

/-- Anchoring is enabled for a domain. -/
def State.anchoring (s : State) (d : Nat) : Bool := s.pval (pid 0x42 0 (0x10 + d)) 0 ≠ 0

/-- LOCK of an ACS sets: waiting starts proceed under the settings as they now stand, unless EN has been cleared meanwhile; one
that a trigger requested is off its timeline, and where the domain is anchored firmware restarts it under the anchoring rules at
a later boundary (R37). -/
def State.startWaiting (s : State) (a : Nat) : State :=
  s.forEach (List.range 4) fun s l =>
    if s.b (F.RD_STAT_ACSWAIT l) ∧ s.linked l = false ∧ s.f (F.RD_CTRL_SRC l) = a then
      let late := (s.dom l).byTrigger && s.anchoring l
      let s := s.setGroup l F.RD_STAT_ACSWAIT 0
      if s.b (F.RD_CTRL_EN l) = false then s
      else if s.startBad l then s.startFails l
      else (s.startNow l).modDom l fun x => { x with restart := late, reanchor := late }
    else s

/-- The time unit's value is captured as the boundary time (R36, R69). -/
def State.captureBts (s : State) (d : Nat) : State :=
  let ns := s.tuTime
  let s := (s.setF (F.RD_BTSNS_NS d) (ns % 1000000000)).setF (F.RD_BTSSUB_SUB d) (s.tu.t / 2 ^ 16)
  (s.setF (F.RD_BTSSECL_SEC d) (ns / 1000000000)).setF (F.RD_BTSSECH_SEC d) (ns / 1000000000 / 2 ^ 32)

/-- Whether PD_SYS is on: a register read of a block in it completes (R19). -/
def State.sysRead (s : State) (latched : List Nat) (a : Nat) : State :=
  if s.on 21 then (s.forEach latched fun s p => s.latchReg p).ret (s.reg a) else s.busErr

/-! ## Meanings -/

/-- DOMAIN_START (R69): a write of XCH_CTRL.START. -/
def execDomainStart (mask : BitVec 4) (s : State) : Res State :=
  .next <|
    if s.on 21 then s.forEach ((List.range 4).filter fun d => mask.getLsbD d) fun s d => s.startDomain d false else s.busErr

/-- SAMPLE_INDEX_READ (R68). -/
def execSampleIndexRead (_ : Initiator) (d : Dom) (s : State) : Res State :=
  .next (s.sysRead [R.RD_SIDXH d] (R.RD_SIDXL d))

/-- BOUNDARY_TIME_READ (R68). -/
def execBoundaryTimeRead (_ : Initiator) (d : Dom) (s : State) : Res State :=
  .next (s.sysRead [R.RD_BTSSUB d, R.RD_BTSSECL d, R.RD_BTSSECH d] (R.RD_BTSNS d))

/-- SAMPLE_COUNTER_READ (R102): the block of an engine whose domain is off cannot be read (R19). -/
def execSampleCounterRead (_ : Initiator) (e : Eng) (s : State) : Res State :=
  .next (if s.on e then (s.latchReg (R.ENG_SCNTH e)).ret (s.reg (R.ENG_SCNTL e)) else s.busErr)

/-- A read that clears a counter, with a count that hardware sets in the same cycle: the read returns the value before the
set, and the set stays (R6, R8). -/
def State.readClear (s : State) (x : Fld) (hwset : Nat) : State :=
  (s.ret (s.reg x.addr)).setF x hwset

/-- PASSMAX_READ (R6, R8). -/
def execPassmaxRead (_ : Initiator) (e : Eng) (hwset : Nat) (s : State) : Res State :=
  .next (if s.on e then s.readClear (F.ENG_PASSMAX_CYC e) hwset else s.busErr)

/-- LDS_PEAK_READ (R6, R8). -/
def execLdsPeakRead (_ : Initiator) (d : Dom) (hwset : Nat) (s : State) : Res State :=
  .next (if s.on 21 then s.readClear (F.LDS_PEAK_ACC d) hwset else s.busErr)

end Sys2Proof.Machine
end

