-- ==== Sys2Proof/Machine/Audio.lean ====
section
/-! DEFINITION. Audio ports, PDM microphones, the IEC 60958 receiver and transmitter, and the ASRC groups (R277 to R310):
what their frames, ticks and faults do.  The sample tick of chapter 2 calls the parts that happen at a tick. -/

namespace Sys2Proof.Machine

def State.pdm (s : State) (p : Nat) : Pdm := s.pdms[p]?.getD Pdm.init
def State.modPdm (s : State) (p : Nat) (g : Pdm → Pdm) : State := { s with pdms := vmod s.pdms p g }
def State.src (s : State) (g : Nat) : SrcGroup := s.srcs[g]?.getD SrcGroup.init
def State.modSrc (s : State) (g : Nat) (h : SrcGroup → SrcGroup) : State := { s with srcs := vmod s.srcs g h }
def State.modIecRx (s : State) (g : IecRx → IecRx) : State := { s with iecRx := g s.iecRx }
def State.modIecTx (s : State) (g : IecTx → IecTx) : State := { s with iecTx := g s.iecTx }

/-- The falling and the rising ramp of the chapter (R290): step i of 64; past its end a ramp gives 0, or the word. -/
def fall64 (i : Nat) (w : Word) : Word := BitVec.ofInt 32 (w.toInt * (64 - i : Nat) / 64)
def rise64 (i : Nat) (w : Word) : Word := BitVec.ofInt 32 (w.toInt * min (i + 1 : Nat) 64 / 64)

/-! ## Frames of a port (R277 to R279, R285) -/

/-- Frame and slot layout (R278). -/
def State.flen (s : State) (p : Nat) : Nat := s.f (F.ASP_FMT0_FLENM1 p) + 1
def State.slotw (s : State) (p : Nat) : Nat := s.f (F.ASP_FMT0_SLOTWM1 p) + 1
def State.dataw (s : State) (p : Nat) : Nat := s.f (F.ASP_FMT0_DATAWM1 p) + 1
def State.aspMode (s : State) (p : Nat) : Nat := s.f (F.ASP_CTRL_MODE p)
def State.aspRun (s : State) (p : Nat) : Bool := s.b (F.ASP_STAT_RUN p)
def State.aspDom (s : State) (p : Nat) : Nat := s.f (F.ASP_CTRL_DOMAIN p)

/-- The data pin of a channel is an output (R277). -/
def State.isOut (s : State) (p c : Nat) : Bool := if c < 32 then s.b (F.ASP_CTRL_DIR0 p) else s.b (F.ASP_CTRL_DIR1 p)

/-- A channel's slot is enabled by its mask; words 0 and 1 of SLOTMASK mask outputs, 2 and 3 inputs (R285, R309). -/
def State.slotOn (s : State) (p c : Nat) : Bool :=
  c % 32 ≤ s.f (F.ASP_FMT0_NSLOTM1 p) &&
    s.fbit (F.ASP_SLOTMASK_MASK p (c / 32 + if s.isOut p c then 0 else 2)) (c % 32)

/-- The word of an input channel from its sampled data bits, 0 for a disabled slot (R279, R285). -/
def State.inWord (s : State) (p c : Nat) (bits : Word) : Word :=
  if s.isOut p c = false ∧ s.slotOn p c then
    BitVec.ofNat 32 (bits.toNat % 2 ^ s.dataw p * 2 ^ (32 - s.dataw p))
  else 0

/-- The bits that an output slot sends of a word (R279). -/
def State.outBits (s : State) (p : Nat) (w : Word) : Word :=
  BitVec.ofNat 32 (w.toNat - w.toNat % 2 ^ (32 - s.dataw p))

/-- The last bit of a channel's slot falls in the following frame (R278). -/
def State.lateSlot (s : State) (p c : Nat) : Bool :=
  s.flen p < s.f (F.ASP_FMT0_OFFSET p) + (c % 32 + 1) * s.slotw p

/-- Bit j of a frame carries the active level of FSYNC (R278). -/
def State.fsyncOn (s : State) (p j : Nat) : Bool :=
  if s.b (F.ASP_FMT1_FSW p) then decide (j < s.flen p / 2) else decide (j = 0)

/-- The bits of an output slot: the data field at its place among bits of 0, or a slot that is not enabled (R278, R279,
R285). -/
def State.slotBits (s : State) (p c : Nat) (w : Word) : List (Option Bool) :=
  if s.slotOn p c then
    let data := (List.range (s.dataw p)).map fun i => some (w.getLsbD (31 - i))
    let pad := List.replicate (s.slotw p - s.dataw p) (some false)
    if s.b (F.ASP_FMT0_JUST p) then pad ++ data else data ++ pad
  else List.replicate (s.slotw p) (if s.b (F.ASP_CTRL_TXOFF p) then none else some false)

/-- The bits of a frame on one data pin, with those that lie in the frame after.  DESIGN CHOICE (log 18): an output pin drives 0
in the bits of a frame that are in no slot. -/
def State.pinLine (s : State) (p pin : Nat) (ws : List (Nat × Word)) : List (Option Bool) :=
  let slots := s.f (F.ASP_FMT0_NSLOTM1 p) + 1
  let used := s.f (F.ASP_FMT0_OFFSET p) + slots * s.slotw p
  if s.isOut p (32 * pin) then
    List.replicate (s.f (F.ASP_FMT0_OFFSET p)) (some false) ++
      ((List.range slots).flatMap fun k => s.slotBits p (32 * pin + k) ((listed ws (32 * pin + k)).getD 0)) ++
      List.replicate (s.flen p - used) (some false)
  else List.replicate (max used (s.flen p)) none

/-- The bits of a frame on both data pins; those that the frame before has left to send come first (R278). -/
def State.frameLine (s : State) (p : Nat) (ws : List (Nat × Word)) : List (Option Bool × Option Bool) :=
  let left := (s.asp p).spill
  left ++ ((s.pinLine p 0 ws).zip (s.pinLine p 1 ws)).drop left.length

/-- A master port sends a frame of these words in a tick period of `per` ACS cycles (R278, R281). -/
def State.sendFrame (s : State) (p per : Nat) (ws : List (Nat × Word)) : State :=
  let n := s.flen p
  let line := s.frameLine p ws
  let bits := (line.take n).zipIdx.map fun (d, j) =>
    let start := j * (8 * per) / n
    let len := (j + 1) * (8 * per) / n - start
    PinBit.mk start ((len + 1) / 2) (len / 2) (s.b (F.ASP_FMT1_BCLKINV p)) (s.fsyncOn p j != s.b (F.ASP_FMT1_FSPOL p)) d.1 d.2
  s.modAsp p fun a => { a with out := ws, frame := bits, spill := line.drop n }

/-- A slave port sends these words in a frame of n bit periods; the bits left in a cut frame are not sent (R283). -/
def State.sendCut (s : State) (p n : Nat) (ws : List (Nat × Word)) : State :=
  let line := s.frameLine p ws
  let rest := fun pin => if s.isOut p (32 * pin) then some false else none
  let line := line ++ List.replicate (n - line.length) (rest 0, rest 1)
  let bits := (line.take n).zipIdx.map fun (d, j) => PinBit.mk j 0 0 false false d.1 d.2
  s.modAsp p fun a => { a with out := ws, frame := bits, spill := if n < s.flen p then [] else line.drop n }

/-- The divider of domain d's leader as it last counted, over the r periods of a tick of d: ACS cycles, and the accumulator
after them (R34, R281). -/
def State.periods (s : State) (d k : Nat) (acc : Word) : Nat × Word :=
  let l := s.leader d
  let sum := acc.toNat + k * s.f (F.RD_DIVF_FRAC l)
  (k * s.f (F.RD_DIVI_INT l) + sum / 2 ^ 32, BitVec.ofNat 32 sum)

/-- The length in ACS cycles of the tick period of domain d that has begun (R281). -/
def State.tickPeriod (s : State) (d : Nat) : Nat :=
  let x := s.dom (s.leader d)
  x.period + (s.periods d (s.ratio d - 1) x.acc).1

/-- Channels of a port that a route names. -/
def State.routedIn (s : State) (p : Nat) : List Nat :=
  s.routes.filterMap fun (_, v) => if routeKind v = 2 ∧ routeId v = p then some (routeIndex v) else none

/-- The number whose bits are listed, most significant first. -/
def bitsWord (bs : List Bool) : Word := BitVec.ofNat 32 (bs.foldl (fun n b => 2 * n + b2n b) 0)

/-- The data bits of a whole slot, as a number (R278). -/
def dataOf (just : Bool) (slotw dataw : Nat) (slot : List Bool) : Word :=
  bitsWord ((if just then slot.drop (slotw - dataw) else slot).take dataw)

/-- The bits of a channel's slot among the bits sampled on its pin in a frame; a bit that is not given is an undriven pin,
which reads 0 (R279). -/
def State.slotIn (s : State) (p c : Nat) (line : List Bool) : Word :=
  let at_ := s.f (F.ASP_FMT0_OFFSET p) + c % 32 * s.slotw p
  let slot := (line.drop at_).take (s.slotw p)
  dataOf (s.b (F.ASP_FMT0_JUST p)) (s.slotw p) (s.dataw p) (slot ++ List.replicate (s.slotw p - slot.length) false)

/-- Input words of a frame, for each routed channel (R279, R285). -/
def State.frameIn (s : State) (p : Nat) (d0 d1 : List Bool) : List (Nat × Word) :=
  (s.routedIn p).map fun c => (c, s.inWord p c (s.slotIn p c (if c < 32 then d0 else d1)))

/-- The enabled output channels of a port. -/
def State.outChans (s : State) (p : Nat) : List Nat := (List.range 64).filter fun c => s.isOut p c && s.slotOn p c

/-- Output ports send zeros outside S0 and while their domain stands still (R43, R208). -/
def State.portSends (s : State) (p : Nat) : Bool := s.f F.PMU_STAT_STATE = 0 && s.running (s.aspDom p)

/-- Words for the enabled output slots, where the exchange slots have published `slots` (R51, R285). -/
def State.frameOf (s : State) (p : Nat) (slots : List (Nat × Word)) : List (Nat × Word) :=
  (s.outChans p).map fun c =>
    let x := s.reg (R.ASP_TXSRC p c)
    (c, if s.portSends p ∧ x.getLsbD 31 then s.outBits p ((listed slots (wordFld x 10 0)).getD 0) else 0)

/-- What the exchange publishes: the slots whose word is not 0.  One whose route goes at this tick still publishes its old
writer's word (R51, R54). -/
def State.published (s : State) : List (Nat × Word) :=
  (s.regs.filter fun q => R.XCH_SLOT 0 ≤ q.1 ∧ q.1 < R.XCH_SLOT 2048).map fun q => ((q.1 - R.XCH_SLOT 0) / 4, q.2)

/-- The words that the published side gives now. -/
def State.frameOut (s : State) (p : Nat) : List (Nat × Word) := s.frameOf p s.published

/-- Input channels write their words in the running period. -/
def State.writeIn (s : State) (p : Nat) (ws : List (Nat × Word)) : State :=
  ws.foldl (fun s w => s.writeFrom 2 p w.1 w.2) s

/-- Every routed input channel writes 0 (R288). -/
def State.zeroIn (s : State) (p : Nat) : State := s.writeIn p ((s.routedIn p).map fun c => (c, 0))

/-! ## Start and stop (R287, R288) -/

/-- The settings refuse a start: MODE 3, or slot and data widths out of range (R309). -/
def State.aspBad (s : State) (p : Nat) : Bool :=
  s.aspMode p = 3 || s.slotw p < 8 || s.dataw p < 8 || s.slotw p < s.dataw p

/-- A port begins to frame. -/
def State.aspBegin (s : State) (p : Nat) : State :=
  let h := (s.asp p).hist
  ((s.setF (F.ASP_STAT_RUN p) 1).setF (F.ASP_STAT_CFGERR p) 0).modAsp p fun _ => { AspPort.init with hist := h }

/-- A start of a stopped port whose EN is set: refused, waiting for ASP_TRIG, or waiting for its tick or FSYNC. -/
def State.aspArm (s : State) (p : Nat) (x : PortStart) : State :=
  if s.aspBad p then s.setF (F.ASP_STAT_CFGERR p) 1
  else if s.b (F.ASP_CTRL_ARM p) then s
  else s.modAsp p fun a => { a with start := x, sinceStart := 0, startAt := s.now }

/-- Firmware sets EN by a direct write; SLIP clears (R309). -/
def State.aspStart (s : State) (p : Nat) : State :=
  let s := (s.setF (F.ASP_CTRL_EN p) 1).setReg (R.ASP_SLIP p) 0
  if s.aspRun p then s.modAsp p fun a => { a with stopping := false }
  else s.aspArm p (match s.aspMode p with
    | 0 => .tick
    | 1 => .thenFsync
    | _ => .fsync)

/-- The frame in progress has ended: the port is stopped, its pins are at their inactive levels, and the settings of its next start
stand.  Input channels of a master port write 0 from here on; those of a slave port, whose last frame has still to be published,
from the next tick on (R288). -/
def State.aspEnd (s : State) (p : Nat) : State :=
  let s := if s.aspMode p = 0 then s.zeroIn p else s
  let s := s.setF (F.ASP_STAT_RUN p) 0
  let s := (s.setF (F.ASP_STAT_MUTED p) 0).setF (F.ASP_PHASE_VALID p) 0
  let sw := (s.asp p).swap ++ (s.asp p).endSwap
  let rest := s.restBit p 0
  (sw.foldl (fun s w => s.setReg w.1 w.2) s).modAsp p fun a =>
    { AspPort.init with hist := a.hist, late := a.late, frame := (if a.tail then a.frame else []) ++ [rest] }

/-- EN is cleared; the port stops once its frame has ended. -/
def State.aspStop (s : State) (p : Nat) (ended : Bool) : State :=
  let s := (s.setF (F.ASP_CTRL_EN p) 0).modAsp p fun a => { a with start := .none, stopping := true }
  if ended ∨ s.aspRun p = false then s.aspEnd p else s

/-! ## ASRC groups (R305 to R308) -/

def State.srcState (s : State) (g : Nat) : Nat := s.f (F.SRC_STAT_STATE g)

/-- A state of the group's machine; RATIO reads 0 outside RAMPIN, RUN and HOLD. -/
def State.setSrc (s : State) (g n : Nat) : State :=
  let s := s.setF (F.SRC_STAT_STATE g) n
  let s := if n = 2 ∨ n = 3 ∨ n = 4 then s else s.setReg (R.SRC_RATIO g) 0
  s.modSrc g fun x => ⟨0, 0, if n = 2 ∨ n = 3 ∨ n = 4 then x.buf else []⟩

/-- EN of a group is set or cleared; an external side that does not exist leads to RANGE (R307, R310). -/
def State.srcEnable (s : State) (g : Nat) (on : Bool) : State :=
  if on then
    if s.srcState g = 0 then s.setSrc g (if 8 < s.f (F.SRC_CTRL_EXT g) then 6 else 1) else s
  else s.setSrc g 0

/-- Enabled groups with an external side: ports 0 to 7, or 8 for the IEC receiver with DIRECT 0. -/
def State.groupsOf (s : State) (ext : Nat) : List Nat :=
  (List.range 8).filter fun g => s.b (F.SRC_CTRL_EN g) && s.f (F.SRC_CTRL_EXT g) = ext &&
    (ext ≠ 8 || !s.b F.IECR_CTRL_DIRECT)

/-- The external side is gone or changes: groups leave RUN for HOLD (R308). -/
def State.srcHold (s : State) (ext : Nat) : State :=
  s.forEach (s.groupsOf ext) fun s g => if s.srcState g = 3 then s.setSrc g 4 else s
def State.srcLost (s : State) (ext : Nat) : State :=
  (s.forEach (s.groupsOf ext) fun s g => s.flag (F.SRC_STAT_CLKLOST g)).srcHold ext
def State.srcRate (s : State) (ext : Nat) : State :=
  (s.forEach (s.groupsOf ext) fun s g =>
    let s := s.flag (F.SRC_STAT_RATECHG g)
    if s.srcState g = 6 ∧ s.f (F.SRC_CTRL_EXT g) ≤ 8 then s.setSrc g 1 else s).srcHold ext

/-- A good or a bad frame of the external side: 4 good ones lead from WAIT to ACQUIRE. -/
def State.srcFrame (s : State) (ext : Nat) (good : Bool) : State :=
  s.forEach (s.groupsOf ext) fun s g =>
    if s.srcState g = 5 then
      let n := if good then (s.src g).good + 1 else 0
      if 4 ≤ n then s.setSrc g 1 else s.modSrc g fun x => { x with good := n }
    else s

/-- Whether the external side of a group is lost. -/
def State.srcExtLost (s : State) (g : Nat) : Bool :=
  let e := s.f (F.SRC_CTRL_EXT g)
  if e = 8 then !s.b F.IECR_STAT_LOCK else (s.asp e).lost

/-- A frame of its input side goes into a group's buffer, which holds the 32 latest; none goes in once the group is in HOLD
(R306, R307). -/
def State.srcTake (s : State) (g : Nat) (ws : List Word) : State :=
  if s.srcState g = 2 ∨ s.srcState g = 3 then s.modSrc g fun x => { x with buf := (ws :: x.buf).take 32 } else s

/-- What a group writes or sends on its channel j: 0, or a converted sample, rising in RAMPIN and falling in HOLD (R307).  The manual
does not state the sample that the buffered ones of the channel convert to at a ratio: a free value of them (log 6). -/
def State.srcSample (s : State) (g j : Nat) : Word × State :=
  let n := s.srcState g
  if n = 2 ∨ n = 3 ∨ n = 4 then
    let (v, s) := s.free
    let w := Config.converted v (s.reg (R.SRC_RATIO g)) ((s.src g).buf.map fun f => f.getD j 0)
    (if n = 2 then rise64 (s.src g).step w else if n = 4 then fall64 (s.src g).step w else w, s)
  else (0, s)

/-- A sample of each channel is out: the ramp moves on (R307). -/
def State.srcStep (s : State) (g : Nat) : State :=
  if s.srcState g = 2 ∨ s.srcState g = 4 then s.modSrc g fun x => { x with step := min (x.step + 1) 64 } else s

/-- At a tick of the domain side an input group writes its routes (KIND 4), and an output group takes the words that SRCSEL names
(R305); it takes 0 where an entry names none. -/
def State.srcTick (s : State) (d : Nat) : State :=
  s.forEach ((List.range 8).filter fun g => s.f (F.SRC_CTRL_DOMAIN g) = d) fun s g =>
    let chans := List.range (s.f (F.SRC_CTRL_NCHM1 g) + 1)
    if s.b (F.SRC_CTRL_DIR g) then s.srcTake g (chans.map fun j => s.srcWord (s.reg (R.SRC_SRCSEL g j)))
    else
      (s.forEach chans fun s j =>
        if (s.slotOf 4 g j).isSome then let (w, s) := s.srcSample g j; s.writeFrom 4 g j w else s).srcStep g

/-- The words that output groups send in a frame of an ASRC slave port. -/
def State.srcOut (s : State) (p : Nat) : State :=
  let cs := s.outChans p
  let s := s.modAsp p fun a => { a with out := cs.map fun c => (c, 0) }
  s.forEach ((s.groupsOf p).filter fun g => s.b (F.SRC_CTRL_DIR g)) fun s g =>
    (s.forEach (List.range (s.f (F.SRC_CTRL_NCHM1 g) + 1)) fun s j =>
      let c := s.f (F.SRC_CTRL_FIRSTCH g) + j
      if c ∈ cs then
        let (w, s) := s.srcSample g j
        let w := if s.portSends p ∧ s.b (F.SRC_SRCSEL_VALID g j) then s.outBits p w else 0
        s.modAsp p fun a => { a with out := smapIns a.out c w }
      else s).srcStep g

/-- The input groups of an external side take a frame of these channels; a bad frame repeats the one before (R290, R305). -/
def State.srcIn (s : State) (ext : Nat) (good : Bool) (word : Nat → Word) : State :=
  s.forEach ((s.groupsOf ext).filter fun g => !s.b (F.SRC_CTRL_DIR g)) fun s g =>
    let first := if ext = 8 then 0 else s.f (F.SRC_CTRL_FIRSTCH g)
    s.srcTake g (if good then (List.range (s.f (F.SRC_CTRL_NCHM1 g) + 1)).map fun j => word (first + j)
      else (s.src g).buf.headD [])

/-- The latency of a group in ns: 32 samples of the input side and 24 of the lower rate (R306). -/
def State.srcLat (s : State) (g : Nat) (ratio : Nat) : Nat :=
  let fs := s.rate (s.f (F.SRC_CTRL_DOMAIN g))
  -- sample periods in ns: domain side fs.2 / fs.1 × 10^9, external side that divided by the ratio
  let dom : Rat := (fs.2 : Rat) * 1000000000 / fs.1
  let ext : Rat := dom * 2 ^ 24 / ratio
  (32 * (if s.b (F.SRC_CTRL_DIR g) then dom else ext) + 24 * max dom ext).floor.toNat

/-- RATIO and LAT show a ratio (R306). -/
def State.setRatio (s : State) (g : Nat) (ratio : Word) : State :=
  (s.setReg (R.SRC_RATIO g) ratio).setF (F.SRC_LAT_NS g) (s.srcLat g ratio.toNat)

/-- Groups of an external side that convert track its ratio; one in HOLD keeps its last (R306, R307). -/
def State.srcTrack (s : State) (ext : Nat) (ratios : List (Nat × Word)) : State :=
  s.forEach (s.groupsOf ext) fun s g =>
    match listed ratios g with
    | some r => if s.srcState g = 2 ∨ s.srcState g = 3 then s.setRatio g r else s
    | none => s

/-! ## Slave ports (R283, R284, R286, R289 to R291) -/

/-- A sample period of the port's domain in 2 ns units, as a fraction. -/
def State.period2 (s : State) (p : Nat) : Frac :=
  let fs := s.rate (s.aspDom p)
  (500000000 * fs.2, fs.1)

/-- x is at most num / den of a sample period. -/
def atMost (x : Nat) (t : Frac) (num den : Nat) : Bool := x * t.2 * den ≤ t.1 * num

/-- The port measures φ and chooses a (R284). -/
def State.realign (s : State) (p phi : Nat) : State :=
  let a := if atMost phi (s.period2 p) 3 4 then 1 else 2
  ((s.setF (F.ASP_PHASE_VALID p) 1).setF (F.ASP_PHASE_PHI p) phi).modAsp p fun x => { x with a := a, phi := phi }

/-- Whole ticks between the tick whose published values the frame carries and the latest tick (R284): the latest tick at
least a quarter period before the FSYNC that began the frame. -/
def ticksBack (t : Frac) (phi age : Nat) : Nat :=
  -- the smallest k with age + T / 4 ≤ φ + k T
  let need : Int := 4 * ((age : Int) - phi) * t.2 + t.1
  if need ≤ 0 ∨ t.1 = 0 then 0 else ((need + (4 * t.1 - 1 : Nat)) / (4 * t.1 : Nat)).toNat

/-- The FSYNC that began the frame lies at or after the instant `k` ticks before the latest tick. -/
def sinceOk (t : Frac) (phi age k : Nat) : Bool := age * t.2 ≤ phi * t.2 + k * t.1

/-- The mute ramp begins (R289, R290). -/
def State.muteIn (s : State) (p : Nat) : State :=
  let s := s.setF (F.ASP_STAT_MUTED p) 1
  s.modAsp p fun a => { a with goodRun := 0, ramp := match a.ramp with
    | .pass => .fall 0
    | .rise _ => .fall 0
    | x => x }

/-- Words of a synchronous slave's frame reach the exchange with the offset in force. -/
def State.slaveWrite (s : State) (p : Nat) (ws : List (Nat × Word)) : State :=
  if (s.asp p).a = 2 then s.modAsp p fun a => { a with late := ws } else s.writeIn p ws

/-- The words of a good frame, or those of the one before in place of a bad one, rise in a ramp-in (R290). -/
def State.slaveWords (s : State) (p : Nat) (ws : List (Nat × Word)) : State :=
  match (s.asp p).ramp with
  | .rise k =>
    (s.modAsp p fun x => { x with ramp := if k = 63 then .pass else .rise (k + 1) }).slaveWrite p
      (ws.map fun w => (w.1, rise64 k w.2))
  | _ => s.slaveWrite p ws

/-- A good frame of a synchronous slave. -/
def State.syncGood (s : State) (p : Nat) (i : SlaveIn) : State :=
  let ws := s.frameIn p i.d0 i.d1
  let a := s.asp p
  let s := s.modAsp p fun x => { x with goodRun := x.goodRun + 1, badRun := 0 }
  if s.b (F.ASP_STAT_MUTED p) then
    if 4 ≤ a.goodRun + 1 ∧ a.rateMuted = false then
      let s := (s.realign p i.phi).setF (F.ASP_STAT_MUTED p) 0
      let s := s.modAsp p fun x => { x with hold := ws, ramp := .rise 0, lost := false, heldPeriod := 0 }
      if a.lost then s.raise 0x0502 ([BitVec.ofNat 8 p, 0, 0, 0] ++ leBytes 4 (500000000 / max i.period 1)) else s
    else s
  else
    let t := s.period2 p
    let s :=
      if a.a = 0 then s.realign p i.phi
      else if atMost (((i.phi : Int) - a.phi).natAbs) t 1 4 then s
      else (s.sat (F.ASP_SLIP_SLIPS p) 1).realign p i.phi
    (s.modAsp p fun x => { x with hold := ws }).slaveWords p ws

/-- A bad frame (R290). -/
def State.slaveBad (s : State) (p : Nat) : State :=
  let n := (s.asp p).badRun + 1
  let s := (s.sat (F.ASP_SLIP_SLIPS p) 1).flag (F.ASP_STAT_BADFRAME p)
  let s := s.modAsp p fun a => { a with goodRun := 0, badRun := n }
  if s.aspMode p = 1 then
    if 2 ≤ n then s.muteIn p
    else if s.b (F.ASP_STAT_MUTED p) then s else s.slaveWords p (s.asp p).hold
  else
    let s := s.srcFrame p false
    if 2 ≤ n then s.srcHold p else s

/-- The frame period is measured over runs of 16 frames (R291). -/
def State.measure (s : State) (p period : Nat) : State :=
  let s := s.modAsp p fun a => { a with sum := a.sum + period, cnt := a.cnt + 1 }
  if (s.asp p).cnt < 16 then s
  else
    let m := (s.asp p).sum / 16
    let held := (s.asp p).heldPeriod
    let s := (s.setF (F.ASP_MEAS_VALID p) 1).setF (F.ASP_MEAS_PERIOD p) m
    let s := s.modAsp p fun a => { a with sum := 0, cnt := 0, heldPeriod := if held = 0 then m else held }
    if held = 0 ∨ ((m : Int) - held).natAbs * 200 ≤ held then s
    else
      let s := (s.flag (F.ASP_STAT_RATECHG p)).modAsp p fun a => { a with heldPeriod := m }
      let s := s.raise 0x0503 ([BitVec.ofNat 8 p, 0, 0, 0] ++ leBytes 4 (500000000 / max m 1))
      if s.aspMode p = 1 then (s.muteIn p).modAsp p fun a => { a with rateMuted := true } else s.srcRate p

/-- Settings of an epoch take effect at the FSYNC that begins a frame (R286); new settings end a mute for a rate change. -/
def State.aspSwap (s : State) (p : Nat) : State :=
  ((s.asp p).swap.foldl (fun s w => s.setReg w.1 w.2) s).modAsp p fun a =>
    { a with swap := [], sinceSwap := 0, rateMuted := false }

/-- A port samples FSYNC active (R278, R283). -/
def State.fsyncAt (s : State) (p : Nat) (level : Bool) : Bool := level != s.b (F.ASP_FMT1_FSPOL p)

/-- The bits of the frame that begins with these levels of FSYNC: up to the next bit that the port samples active after one that it
samples inactive (R283). -/
def State.frameBits (s : State) (p : Nat) (levels : List Bool) : Option Nat :=
  if s.fsyncAt p (levels.headD (s.b (F.ASP_FMT1_FSPOL p))) then
    ((levels.zip (levels.drop 1)).findIdx? fun x => !s.fsyncAt p x.1 && s.fsyncAt p x.2).map (· + 1)
  else none

/-- What a frame of n bits of a running slave port does. -/
def State.slaveRun (s : State) (p n : Nat) (i : SlaveIn) : State :=
  let good := decide (n = s.flen p)
  let s :=
    if s.aspMode p = 2 then
      let s := s.srcOut p
      s.sendCut p n (s.asp p).out
    else
      let h := (s.asp p).hist
      let k := ticksBack (s.period2 p) i.phi i.age
      s.sendCut p n (s.frameOf p ((h[k]?).getD (h.getLastD [])))
  let s :=
    if s.aspMode p = 2 then
      (s.srcIn p good fun c => s.inWord p c (s.slotIn p c (if c < 32 then i.d0 else i.d1))).srcTrack p i.ratios
    else s
  let s :=
    if !good then s.slaveBad p
    else if s.aspMode p = 1 then s.syncGood p i
    else
      let a := s.asp p
      let s := (s.srcFrame p true).modAsp p fun x => { x with goodRun := x.goodRun + 1, badRun := 0 }
      if a.lost ∧ 4 ≤ a.goodRun + 1 then
        (s.modAsp p fun x => { x with lost := false, heldPeriod := 0 }).raise 0x0502
          ([BitVec.ofNat 8 p, 0, 0, 0] ++ leBytes 4 (500000000 / max i.period 1))
      else s
  s.measure p i.period

/-- A stopping slave port at the end of a frame: the bits of its slots that reach into the next frame period are sent there, and
then it stops (R288). -/
def State.slaveLast (s : State) (p : Nat) : State :=
  if (s.asp p).spill = [] then s.aspEnd p else s.modAsp p fun a => { a with tail := true }

/-- The rest of the last frame of a stopping slave port has been sent. -/
def State.slaveTail (s : State) (p : Nat) : State :=
  (s.modAsp p fun a =>
    { a with frame := a.spill.zipIdx.map fun (d, j) => PinBit.mk j 0 0 false false d.1 d.2, spill := [] }).aspEnd p

/-- The FSYNC that began a frame lies at or after a start: of an ASRC slave by the time since EN or the trigger tick, of a
synchronous slave by the ticks since (R287). -/
def State.startsWith (s : State) (p : Nat) (i : SlaveIn) : Bool :=
  let a := s.asp p
  decide (a.start = .fsync) &&
    if s.aspMode p = 2 then decide (2 * nowNs * i.period ≤ s.now - a.startAt)
    else sinceOk (s.period2 p) i.phi i.age a.sinceStart

/-- SLAVE_FRAME (R283): a frame of a slave port, from the bit in which the port first samples FSYNC active; a waiting start or swap
takes effect with it. -/
def execSlaveFrame (p : Fin 8) (i : SlaveIn) (s : State) : Res State :=
  .next <|
    let u := s.advance i.el
    let a := u.asp p
    let s := if u.startsWith p i then u.aspBegin p else u
    if s.aspRun p ∧ (s.aspMode p = 1 ∨ s.aspMode p = 2) then
      if a.tail then s.slaveTail p
      else
        let s := if a.swap ≠ [] ∧ sinceOk (s.period2 p) i.phi i.age a.sinceSwap then s.aspSwap p else s
        match s.frameBits p i.fsync with
        | some n =>
          let s := s.slaveRun p n i
          if (s.asp p).stopping then s.slaveLast p else s
        | none => u
    else u

/-- CLOCK_LOST (R289): no BCLK edge for two frame periods. -/
def execClockLost (p : Fin 8) (s : State) : Res State :=
  .next <|
    if s.aspRun p ∧ (s.aspMode p = 1 ∨ s.aspMode p = 2) ∧ (s.asp p).lost = false then
      let s := (s.flag (F.ASP_STAT_CLKLOST p)).sat (F.ASP_SLIP_CLKLOSS p) 1
      let s := s.modAsp p fun a => { a with lost := true, goodRun := 0, sum := 0, cnt := 0 }
      let s := s.raise 0x0501 [BitVec.ofNat 8 p, 0, 0, 0, 0, 0, 0, 0]
      let s := if s.aspMode p = 1 then s.muteIn p else s.srcLost p
      if (s.asp p).stopping then s.aspEnd p else s
    else s

/-! ## Ports at a tick of their domain (R281, R284, R287 to R289) -/

/-- The word of an input slot whose bits go on in the frame that `line` gives. -/
def LateIn.word (x : LateIn) (line : List Bool) : Word :=
  let slot := x.got ++ (line.drop x.skip).take (x.slotw - x.got.length)
  let w := dataOf x.just x.slotw x.dataw (slot ++ List.replicate (x.slotw - slot.length) false)
  BitVec.ofNat 32 (w.toNat * 2 ^ (32 - x.dataw))

/-- An input slot whose last bit falls in the frame after the one that `line` gives. -/
def State.lateIn (s : State) (p c : Nat) (line : List Bool) : LateIn :=
  let at_ := s.f (F.ASP_FMT0_OFFSET p) + c % 32 * s.slotw p
  let n := s.flen p - at_
  let got := (line.drop at_).take n
  ⟨c, got ++ List.replicate (n - got.length) false, at_ - s.flen p, s.slotw p, s.dataw p, s.b (F.ASP_FMT0_JUST p)⟩

/-- Inputs of a running master port for the frame that ends at the tick: slots that end within the frame, and slots of the
frame before that end in it, are written in its period; the others go on in the next frame (R278).  Of a port that is stopping,
the frame holds only what was left of the one before (R288). -/
def State.masterIn (s : State) (p : Nat) (ins : List PinIn) (rest : Bool) : State :=
  let line := fun c => ((ins.find? fun x => x.port = p ∧ x.pin = c / 32).map (·.bits)).getD []
  let done := (s.asp p).part.map fun x => (x.chan, x.word (line x.chan))
  let s := s.writeIn p (done.filter fun w => w.1 ∈ s.routedIn p)
  if rest then s.modAsp p fun a => { a with part := [] }
  else
    let goesOn := fun c => s.isOut p c = false ∧ s.slotOn p c ∧ s.lateSlot p c
    let ws := (s.frameIn p (line 0) (line 32)).filter fun w => ¬ goesOn w.1
    let part := ((List.range 64).filter fun c => goesOn c).map fun c => s.lateIn p c (line c)
    (s.writeIn p ws).modAsp p fun a => { a with part := part }

/-- The pins of a master port have come to rest. -/
def AspPort.resting (x : AspPort) : Bool := match x.frame.getLast? with
  | some b => b.first + b.second = 0
  | none => false

/-- A tick passes for swaps and starts that wait for an FSYNC. -/
def State.aspCount (s : State) (p : Nat) : State :=
  s.modAsp p fun a =>
    { a with sinceSwap := a.sinceSwap + 1, sinceStart := if a.start = .fsync then a.sinceStart + 1 else a.sinceStart }

/-- Before the slots flip at a tick of domain d: inputs of master ports. -/
def State.aspBefore (s : State) (d : Nat) (ins : List PinIn) : State :=
  s.forEach ((List.range 8).filter fun p => s.aspDom p = d) fun s p =>
    let s := s.aspCount p
    if s.aspMode p ≠ 0 then s
    else if s.aspRun p then s.masterIn p ins ((s.asp p).stopping && (s.asp p).resting) else s.zeroIn p

/-- The mute ramp of a synchronous slave moves on at a tick (R289). -/
def State.muteTick (s : State) (p : Nat) : State :=
  match (s.asp p).ramp with
  | .fall k =>
    (s.writeIn p ((s.asp p).hold.map fun w => (w.1, fall64 k w.2))).modAsp p fun a =>
      { a with ramp := if k = 63 then .zero else .fall (k + 1) }
  | .zero => s.zeroIn p
  | _ => s

/-- A stopping master port at the end of a frame: it sends what the frame has left for the next period, and then stops
(R288). -/
def State.aspLast (s : State) (p per : Nat) : State :=
  if (s.asp p).spill = [] ∧ (s.asp p).part = [] then s.aspEnd p
  else
    let left := (s.asp p).spill.length
    let s := s.sendFrame p per []
    let bits := (s.asp p).frame
    let stop := (bits[left]?).map (·.start)
    let rest := s.restBit p (stop.getD 0)
    s.modAsp p fun a => { a with frame := bits.take left ++ [rest], spill := [] }

/-- A running master port begins the frame of a tick of its domain, and keeps the divider's count for a stop (R281, R282). -/
def State.masterFrame (s : State) (p : Nat) : State :=
  let d := s.aspDom p
  let acc := (s.periods d (s.ratio d - 1) (s.dom (s.leader d)).acc).2
  (s.sendFrame p (s.tickPeriod d) (s.frameOut p)).modAsp p fun a => { a with acc := acc }

/-- After the slots have flipped at a tick of domain d: late inputs, starts, the frame that begins, and mute ramps. -/
def State.aspAfter (s : State) (d : Nat) : State :=
  s.forEach ((List.range 8).filter fun p => s.aspDom p = d) fun s p =>
    let late := (s.asp p).late
    let s := if s.aspMode p ≠ 0 ∧ s.aspRun p = false ∧ late = [] then s.zeroIn p else s
    let s := (s.writeIn p late).modAsp p fun a => { a with late := [] }
    let pub := s.published
    let s := if s.aspMode p = 1 then s.modAsp p fun a => { a with hist := pub :: a.hist.take 3 } else s
    let s := match (s.asp p).start with
      | .tick => s.aspBegin p
      | .thenFsync => s.modAsp p fun a => { a with start := .fsync, sinceStart := 0 }
      | _ => s
    let per := s.tickPeriod d
    if s.aspRun p = false then s
    else if (s.asp p).stopping ∧ s.aspMode p = 0 then s.aspLast p per
    else if s.aspMode p = 0 then s.masterFrame p
    else if s.aspMode p = 1 then s.muteTick p
    else s

/-! ## PDM microphones (R293 to R297) -/

/-- The nominal rate is that of ACS0 divided by a whole INT, one of 8, 16, 24, 32 and 48 kHz; INT of a follower is its
leader's times r. -/
def State.domInt (s : State) (d : Nat) : Nat := s.f (F.RD_DIVI_INT (s.leader d)) * s.ratio d
def State.pdmOk (s : State) (n : Nat) : Bool :=
  let d := s.f (F.PDM_CTRL_DOMAIN n)
  let k := s.f (F.PDM_CTRL_CLKDIV n)
  8 ≤ k && k ≤ 64 && s.f (F.RD_CTRL_SRC (s.leader d)) = 0 && s.f (F.RD_DIVF_FRAC (s.leader d)) = 0 &&
    s.domInt d ∈ [6144, 3072, 2048, 1536, 1024] && s.domInt d % k = 0

/-- A start of an enabled, stopped PDM port. -/
def State.pdmArm (s : State) (n : Nat) : State :=
  if s.pdmOk n = false then s.setF (F.PDM_STAT_CFGERR n) 1
  else if s.b (F.PDM_CTRL_ARM n) then s
  else s.modPdm n fun x => { x with start := .tick }
def State.pdmBegin (s : State) (n : Nat) : State :=
  let s := ((s.setF (F.PDM_STAT_RUN n) 1).setF (F.PDM_STAT_CFGERR n) 0).setF (F.PDM_STAT_VALID n) 0
  (s.setF (F.PDM_DECIM_RATIO n) (s.domInt (s.f (F.PDM_CTRL_DOMAIN n)) / s.f (F.PDM_CTRL_CLKDIV n))).modPdm n fun _ => Pdm.init

/-- EN of a PDM port is set or cleared. -/
def State.pdmEnable (s : State) (n : Nat) (on : Bool) : State :=
  if on then if s.b (F.PDM_STAT_RUN n) then s else s.pdmArm n
  else
    let s := s.forEach [0, 1] fun s c => s.writeFrom 3 n c 0
    ((s.setReg (R.PDM_DECIM n) 0).setF (F.PDM_STAT_RUN n) 0).setF (F.PDM_STAT_VALID n) 0 |>.modPdm n fun _ => Pdm.init

/-- The output for a steady ones density, floor((2d − 1) × 2^31) saturated (R294). -/
def pdmSteady (ones total : Nat) : Word :=
  let v : Int := ((2 * (ones : Int) - total) * 2 ^ 31) / total
  BitVec.ofInt 32 (if 2 ^ 31 ≤ v then 2 ^ 31 - 1 else v)

/-- The bits of a sample period reach the decimator of a port (R294); its filters have settled, from 0, after 64 of them (R295,
R296), and none older counts. -/
def State.pdmBits (s : State) (n : Nat) (ins : List PdmIn) : State :=
  let ones := fun c => (ins.find? fun x => x.port = n ∧ x.chan = c).map (·.ones)
  let add := fun (x : Option Nat) (l : List Nat) => match x with
    | some k => (k :: l).take 64
    | none => []
  s.modPdm n fun x => { x with ones0 := add (ones 0) x.ones0, ones1 := add (ones 1) x.ones1 }

/-- The filtered sample of a channel: the manual states it for a steady density without the high-pass filter, here one that the
64 latest sample periods share (DEDUCED from R296, log 18); any other is a free value. -/
def State.pdmSample (s : State) (n c : Nat) : Word × State :=
  let l := if c = 0 then (s.pdm n).ones0 else (s.pdm n).ones1
  let k := l.headD 0
  let total := s.f (F.PDM_DECIM_RATIO n)
  if l.length = 64 ∧ l.all (· = k) ∧ total ≠ 0 ∧ s.f (F.PDM_CTRL_HPF n) = 0 then (pdmSteady k total, s)
  else let (v, s) := s.free; (BitVec.ofNat 32 v, s)

/-- A PDM port at a tick of its domain: output sample n is written during period n (R294, R296). -/
def State.pdmTick (s : State) (d : Nat) (ins : List PdmIn) : State :=
  s.forEach ((List.range 4).filter fun n => s.f (F.PDM_CTRL_DOMAIN n) = d) fun s n =>
    let s := if (s.pdm n).start = .tick then s.pdmBegin n else s
    if s.b (F.PDM_STAT_RUN n) = false then s
    else
    let s := s.pdmBits n ins
    if (s.pdm n).count < 64 then
      let s := s.forEach [0, 1] fun s c => s.writeFrom 3 n c 0
      let k := (s.pdm n).count + 1
      let s := s.modPdm n fun x => { x with count := k }
      if k = 64 then s.setF (F.PDM_STAT_VALID n) 1 else s
    else s.forEach [0, 1] fun s c => let (w, s) := s.pdmSample n c; s.writeFrom 3 n c w

/-- PDM_STUCK (R297). -/
def execPdmStuck (p : Dom) (ch : Bool) (s : State) : Res State :=
  .next <|
    if s.b (F.PDM_STAT_RUN p) then
      (s.flag (if ch then F.PDM_STAT_STUCK1 p else F.PDM_STAT_STUCK0 p)).raise 0x0504 [BitVec.ofNat 8 p, BitVec.ofNat 8 (b2n ch)]
    else s

/-! ## IEC 60958 receiver (R298 to R302) -/

/-- The cells of a preamble after a low level: B, M and W (IEC 60958, which R298 names). -/
def iecPre (pre : Nat) : List Bool :=
  match pre with
  | 0 => [true, true, true, false, true, false, false, false]
  | 1 => [true, true, true, false, false, false, true, false]
  | _ => [true, true, true, false, false, true, false, false]

/-- Biphase-mark coding: every bit begins with a change of level, and a 1 has another in its middle. -/
def biphase (last : Bool) : List Bool → List Bool
  | [] => []
  | b :: bs => (!last) :: (!last != b) :: biphase (!last != b) bs

/-- The 64 cells of a subframe after a level: its preamble, its 24 audio and auxiliary bits from the least significant, and its
validity, user, status and parity bits. -/
def iecSub (last : Bool) (w : Word) (f : IecFlags) : List Bool :=
  let pre := (iecPre f.pre).map (· != last)
  pre ++ biphase (pre.getLastD last)
    (((List.range 24).map fun i => w.getLsbD (8 + i)) ++ [f.valid, f.user, f.status, f.parity])

/-- A subframe as its 64 cells give it: its preamble, if it is a valid one, its audio bits and its other bits; of a wrong parity
the whole of the 28 bits has an odd number of ones. -/
def iecSubOf (cells : List Bool) : Option (Nat × BitVec 24 × IecFlags × Bool) :=
  let up := cells.headD false
  let pre := (cells.take 8).map (· != !up)
  let bits := (List.range 28).map fun k => cells.getD (8 + 2 * k) false != cells.getD (9 + 2 * k) false
  let odd := (bits.filter id).length % 2 = 1
  let w := BitVec.ofNat 24 (bitsWord ((bits.take 24).reverse)).toNat
  match [0, 1, 2].find? fun k => iecPre k = pre with
  | some k => some (k, w, ⟨k, bits.getD 24 false, bits.getD 25 false, bits.getD 26 false, bits.getD 27 false⟩, odd)
  | none => none

/-- A frame as its 128 cells give it: B or M begins it, and W its second half (R298). -/
def iecFrameOf (cells : List Bool) : Option IecFrame :=
  match iecSubOf (cells.take 64), iecSubOf (cells.drop 64) with
  | some (ka, a, fa, badA), some (kb, b, fb, badB) =>
    if ka ≠ 2 ∧ kb = 2 then
      some ⟨a, b, badA, badB, fa.valid, fb.valid, fa.status, fb.status, fa.user, fb.user, decide (ka = 0)⟩
    else none
  | _, _ => none

/-- A rate at which the receiver decodes: 32 to 192 kHz, within the 0.5% of a rate class (DESIGN CHOICE for the margin,
log 18). -/
def iecRateOk (hz : Nat) : Bool := 31840 ≤ hz && hz ≤ 192960

/-- The rate class: within 0.5% of a standard rate. -/
def iecRate (hz : Nat) : Nat :=
  match [32000, 44100, 48000, 88200, 96000, 176400, 192000].zipIdx.find?
      fun x => ((hz : Int) - (x.1 : Nat)).natAbs * 200 ≤ x.1 with
  | some x => x.2 + 1
  | none => 0

/-- Bits of a block as six words, bit i in bit i mod 32 of word i / 32 (R301). -/
def blockWord (bs : List Bool) (w : Nat) : Word :=
  BitVec.ofNat 32 (((List.range 32).filter fun i => bs.getD (32 * w + i) false).map (2 ^ ·)).sum

/-- A complete block: status and user words (R301). -/
def State.iecBlock (s : State) : State :=
  let x := s.iecRx
  let old := (List.range 6).map fun w => (s.reg (R.IECR_CSA w), s.reg (R.IECR_CSB w))
  let s := s.forEach (List.range 6) fun s w =>
    (((s.setReg (R.IECR_CSA w) (blockWord x.csA w)).setReg (R.IECR_CSB w) (blockWord x.csB w)).setReg (R.IECR_UDA w)
      (blockWord x.udA w)).setReg (R.IECR_UDB w) (blockWord x.udB w)
  let now := (List.range 6).map fun w => (s.reg (R.IECR_CSA w), s.reg (R.IECR_CSB w))
  if old = now then s
  else (s.flag F.IECR_STAT_CSNEW).raise 0x0505
    (leBytes 4 (s.reg (R.IECR_CSA 0)).toNat ++ leBytes 4 (s.reg (R.IECR_CSB 0)).toNat)

/-- The bits of a frame join its block; the 192nd completes it. -/
def State.iecBits (s : State) (i : IecFrame) : State :=
  let at_ := if i.blockStart then some 0 else s.iecRx.frame
  match at_ with
  | none => s
  | some n =>
    let s := s.modIecRx fun x =>
      let k := fun (l : List Bool) => if n = 0 then [] else l
      { x with
        csA := k x.csA ++ [i.statusA], csB := k x.csB ++ [i.statusB], udA := k x.udA ++ [i.userA]
        udB := k x.udB ++ [i.userB], frame := if n < 191 then some (n + 1) else none }
    if n = 191 then s.iecBlock else s

/-- The IEC 61937 sync words stand in the frame. -/
def iecSync (i : IecFrame) : Bool := i.a.toNat / 256 = 0xF872 && i.b.toNat / 256 = 0x4E1F

/-- Status bit 1 of the block in progress is known to be set. -/
def IecRx.npBlock (x : IecRx) : Bool := x.csA.getD 1 false || x.csB.getD 1 false

/-- Detection of a non-PCM stream and its end, and the burst event (R302). -/
def State.iecNonPcm (s : State) (i : IecFrame) : State :=
  let held := iecSync i || s.iecRx.npBlock
  let s :=
    if held then (s.setF F.IECR_STAT_NONPCM 1).modIecRx fun x => { x with npLeft := 4096 }
    else if s.b F.IECR_STAT_NONPCM then
      let n := s.iecRx.npLeft - 1
      let s := s.modIecRx fun x => { x with npLeft := n }
      if n = 0 then (s.setF F.IECR_STAT_NONPCM 0).modIecRx fun x => { x with ramp := some 0 } else s
    else s
  -- the block's first frame is still in the path when status bit 1 arrives in its second
  let s := if s.iecRx.csA.length = 2 ∧ s.iecRx.npBlock then
      s.modIecRx fun x =>
        let n := x.pipe.length - 2
        { x with pipe := x.pipe.take n ++ (x.pipe.drop n).map fun p => (p.1, p.2.1, true) }
    else s
  if iecSync i then
    (s.flag F.IECR_STAT_BURST).raise 0x0506
      ([BitVec.ofNat 8 (s.f F.IECR_STAT_NONPCM), 0, 0, 0] ++ leBytes 4 (s.f F.IECR_BUFWR_OFS))
  else s

/-- A frame goes to the ring in control SRAM (R302). -/
def State.iecCapture (s : State) (i : IecFrame) : State :=
  let n := s.f F.IECR_BUFSIZE_BYTES
  if s.b F.IECR_STAT_NONPCM = false ∨ s.b F.IECR_CTRL_NPCAP = false ∨ n = 0 then s
  else
    let wr := s.f F.IECR_BUFWR_OFS
    if (wr + 4) % n = s.f F.IECR_BUFRD_OFS then s.flag F.IECR_STAT_OVF
    else
      let s := s.sramStore (s.f F.IECR_BUFBASE_ADDR + wr) (leBytes 4 (i.a.toNat / 256 * 65536 + i.b.toNat / 256))
      s.setF F.IECR_BUFWR_OFS ((wr + 4) % n)

/-- Audio words of a frame with parity replacement (R298, R300). -/
def State.iecWords (s : State) (i : IecFrame) : Word × Word × State :=
  let bad := b2n i.badA + b2n i.badB
  let s := if bad = 0 then s else (s.flag F.IECR_STAT_PARERR).sat F.IECR_SLIP_PARERRS bad
  let a := if i.badA then s.iecRx.goodA else BitVec.ofNat 32 (i.a.toNat * 256)
  let b := if i.badB then s.iecRx.goodB else BitVec.ofNat 32 (i.b.toNat * 256)
  (a, b, s.modIecRx fun x => { x with goodA := a, goodB := b, validA := i.validA, validB := i.validB })

/-- The frame four behind leaves the PCM path, muted or ramping in (R302), and in direct mode writes its routes. -/
def State.iecOut (s : State) : State :=
  let x := s.iecRx
  let (a, b, mute) := if 5 ≤ x.pipe.length then x.pipe.headD (0, 0, true) else (0, 0, true)
  let (a, b) : Word × Word :=
    if mute then (0, 0) else match x.ramp with
      | some k => (rise64 k a, rise64 k b)
      | none => (a, b)
  let s := s.modIecRx fun x => { x with
    pipe := if 5 ≤ x.pipe.length then x.pipe.drop 1 else x.pipe
    ramp := if mute then x.ramp else x.ramp.bind fun k => if k = 63 then none else some (k + 1) }
  if s.b F.IECR_CTRL_DIRECT then
    ((s.writeFrom 6 0 0 a).writeFrom 6 0 1 b).modIecRx fun x => { x with inPeriod := x.inPeriod + 1 }
  else s.srcIn 8 true fun c => if c = 0 then a else b

/-- The receiver's measured rate: lock, class and change (R298, R299). -/
def State.iecMeasure (s : State) (hz : Nat) : State :=
  let held := s.iecRx.heldRate
  let s := (s.setF F.IECR_RATEMEAS_HZ hz).setF F.IECR_STAT_RATE (iecRate hz)
  if s.b F.IECR_STAT_LOCK = false then (s.setF F.IECR_STAT_LOCK 1).modIecRx fun x => { x with heldRate := hz }
  else if ((hz : Int) - held).natAbs * 200 ≤ held then s
  else
    let s := (s.flag F.IECR_STAT_RATECHG).modIecRx fun x => { x with heldRate := hz }
    (s.raise 0x0503 ([8, 0, 0, 0] ++ leBytes 4 hz)).srcRate 8

/-- A decoded frame of the receiver (R298 to R302). -/
def State.iecFrame (s : State) (i : IecFrame) : State :=
  let (a, b, s) := s.iecWords i
  let s := s.iecBits i
  let s := s.modIecRx fun x => { x with pipe := x.pipe ++ [(a, b, false)] }
  let s := (s.iecNonPcm i).iecCapture i
  let np := s.b F.IECR_STAT_NONPCM
  let s := if np then s.modIecRx fun x => { x with pipe := x.pipe.dropLast ++ [(a, b, true)] } else s
  s.iecOut

/-- IEC_RX_FRAME (R298): a frame whose preambles are valid, at a rate of the receiver's. -/
def execIecRxFrame (i : IecIn) (s : State) : Res State :=
  .next <|
    let s := s.advance i.el
    if s.b F.IECR_CTRL_EN ∧ s.on 22 ∧ iecRateOk i.rateHz then
      match iecFrameOf i.cells with
      | some x => ((s.iecMeasure i.rateHz).srcFrame 8 true |>.iecFrame x).srcTrack 8 i.ratios
      | none => s
    else s

/-- IEC_LOCK_LOSS (R299). -/
def execIecLockLoss (s : State) : Res State :=
  .next <|
    if s.b F.IECR_STAT_LOCK then
      let s := (s.setF F.IECR_STAT_LOCK 0).flag F.IECR_STAT_LOCKLOST
      let s := s.modIecRx fun x => { x with pipe := [], frame := none, csA := [], csB := [], udA := [], udB := [] }
      let s := s.raise 0x0501 [8, 0, 0, 0, 0, 0, 0, 0]
      if s.b F.IECR_CTRL_DIRECT then (s.writeFrom 6 0 0 0).writeFrom 6 0 1 0 else s.srcLost 8
    else s

/-- Direct mode counts a period with no frame or with two as a slip (R299). -/
def State.iecRxTick (s : State) (d : Nat) : State :=
  if s.b F.IECR_CTRL_DIRECT ∧ s.b F.IECR_STAT_LOCK ∧ s.f F.IECR_CTRL_DOMAIN = d then
    let s := if s.iecRx.inPeriod = 1 then s else s.sat F.IECR_SLIP_SLIPS 1
    s.modIecRx fun x => { x with inPeriod := 0 }
  else s

/-- The receiver is switched on or off. -/
def State.iecRxEnable (s : State) (on : Bool) : State :=
  if on then s
  else
    let s := if s.b F.IECR_CTRL_DIRECT then (s.writeFrom 6 0 0 0).writeFrom 6 0 1 0 else s.srcLost 8
    { (s.setF F.IECR_STAT_LOCK 0).setF F.IECR_STAT_NONPCM 0 with iecRx := ⟨0, [], 0, 0, none, [], [], [], [], 0, none, 0, false, false⟩ }

/-! ## IEC 60958 transmitter (R303, R304) -/

/-- The domain's nominal rate is 32 to 192 kHz. -/
def State.iecTxOk (s : State) : Bool :=
  let fs := s.rate (s.f F.IECT_CTRL_DOMAIN)
  32000 * fs.2 ≤ fs.1 && fs.1 ≤ 192000 * fs.2
def State.iecTxArm (s : State) : State :=
  if s.iecTxOk = false then s.setF F.IECT_STAT_CFGERR 1
  else if s.b F.IECT_CTRL_ARM then s
  else s.modIecTx fun x => { x with start := .tick }
def State.iecTxBegin (s : State) : State :=
  ((s.setF F.IECT_STAT_RUN 1).setF F.IECT_STAT_CFGERR 0).modIecTx fun x => { x with start := .none, frame := 0 }

/-- EN of the transmitter is set or cleared. -/
def State.iecTxEnable (s : State) (on : Bool) : State :=
  if on then if s.b F.IECT_STAT_RUN then s else s.iecTxArm
  else (s.setF F.IECT_STAT_RUN 0).modIecTx fun x => { x with start := .none, outA := 0, outB := 0, cells := [] }

/-- CSUPD captures the status words. -/
def State.iecCapSet (s : State) : State :=
  let a := (List.range 6).map fun w => s.reg (R.IECT_CSA w)
  let b := if s.b F.IECT_CTRL_CSSEP then (List.range 6).map fun w => s.reg (R.IECT_CSB w) else a
  (s.setF F.IECT_STAT_CSPEND 1).modIecTx fun x => { x with cap := some (a, b) }

/-- Bit i of the status words of a block. -/
def statusBit (ws : List Word) (i : Nat) : Bool := (ws.getD (i / 32) 0).getLsbD (i % 32)

/-- The preamble and the last bits of a subframe: user bits are 0, and the parity is even over the word, the validity, the user and
the status bit (R303). -/
def iecFlags (pre : Nat) (w : Word) (valid status : Bool) : IecFlags :=
  let ones := ((List.range 32).filter fun i => w.getLsbD i).length + b2n valid + b2n status
  ⟨pre, valid, false, status, ones % 2 = 1⟩

/-- A frame of these words begins: a B preamble starts a block, M another frame, W subframe B; its cells divide the tick period
of `per` ACS cycles (R303). -/
def State.iecSend (s : State) (per : Nat) (a b : Word) : State :=
  let n := s.iecTx.frame
  s.modIecTx fun x =>
    let fa := iecFlags (if n = 0 then 0 else 1) a (s.b F.IECT_CTRL_VALA) (statusBit x.csA n)
    -- with CSSEP 0 both subframes carry CSA (R304)
    let fb := iecFlags 2 b (s.b F.IECT_CTRL_VALB) (statusBit (if s.b F.IECT_CTRL_CSSEP then x.csB else x.csA) n)
    let one := iecSub ((x.cells.getLast?).any (·.2)) a fa
    let line := one ++ iecSub (one.getLastD false) b fb
    { x with
      frame := (n + 1) % 192, outA := a, outB := b, flagsA := fa, flagsB := fb
      cells := line.zipIdx.map fun c => (c.2 * (8 * per) / 128, c.1) }

/-- A frame of the transmitter at a tick of its domain (R303). -/
def State.iecTxTick (s : State) (d : Nat) : State :=
  if s.f F.IECT_CTRL_DOMAIN ≠ d then s
  else
    let s := if s.iecTx.start = .tick then s.iecTxBegin else s
    if s.b F.IECT_STAT_RUN = false then s
    else
      let s := match s.iecTx.frame, s.iecTx.cap with
        | 0, some (a, b) =>
          ((s.setF F.IECT_STAT_CSPEND 0).flag F.IECT_STAT_CSDONE).modIecTx fun x => { x with csA := a, csB := b, cap := none }
        | _, _ => s
      let w := fun k => if s.f F.PMU_STAT_STATE = 0 then s.srcWord (s.reg (R.IECT_TXSRC k)) &&& 0xFFFFFF00#32 else 0
      s.iecSend (s.tickPeriod d) (w 0) (w 1)

/-- IEC_CS_UPDATE (R304). -/
def execIecCsUpdate (s : State) : Res State := .next (if s.on 22 then s.iecCapSet else s.busErr)

/-! ## Common start trigger (R287) -/

/-- A unit outside the group, or not enabled, sets CFGERR; an armed, stopped one waits for the trigger tick. -/
def State.trigUnit (s : State) (grp : Bool) (en arm run : Bool) (err : Fld) (go : State → State) : State :=
  if !grp ∨ !en then s.setF err 1 else if arm ∧ !run then go s else s

/-- ASP_TRIG_GO (R287). -/
def execAspTrigGo (dom : Dom) (bnd iectx : Bool) (pdm : BitVec 4) (asp : Byte) (s : State) : Res State :=
  .next <|
    if s.on 22 = false then s.busErr
    else
      let s := s.setReg R.ASP_TRIG (BitVec.ofNat 32
        (dom.val * 2 ^ 18 + b2n bnd * 2 ^ 17 + b2n iectx * 2 ^ 16 + pdm.toNat * 2 ^ 12 + asp.toNat))
      let grp := fun d => s.leader d = s.leader dom
      let st := PortStart.trig dom bnd
      let s := s.forEach ((List.range 8).filter fun p => asp.getLsbD p) fun s p =>
        s.trigUnit (grp (s.aspDom p)) (s.b (F.ASP_CTRL_EN p)) (s.b (F.ASP_CTRL_ARM p)) (s.aspRun p) (F.ASP_STAT_CFGERR p)
          fun s => if s.aspBad p then s.setF (F.ASP_STAT_CFGERR p) 1 else s.modAsp p fun a => { a with start := st }
      let s := s.forEach ((List.range 4).filter fun n => pdm.getLsbD n) fun s n =>
        s.trigUnit (grp (s.f (F.PDM_CTRL_DOMAIN n))) (s.b (F.PDM_CTRL_EN n)) (s.b (F.PDM_CTRL_ARM n)) (s.b (F.PDM_STAT_RUN n))
          (F.PDM_STAT_CFGERR n) fun s => if s.pdmOk n then s.modPdm n fun x => { x with start := st } else s.setF (F.PDM_STAT_CFGERR n) 1
      if iectx then
        s.trigUnit (grp (s.f F.IECT_CTRL_DOMAIN)) (s.b F.IECT_CTRL_EN) (s.b F.IECT_CTRL_ARM) (s.b F.IECT_STAT_RUN)
          F.IECT_STAT_CFGERR fun s => if s.iecTxOk then s.modIecTx fun x => { x with start := st } else s.setF F.IECT_STAT_CFGERR 1
      else s

/-- A start waits for this tick of domain d. -/
def PortStart.due (x : PortStart) (d : Nat) (bnd : Bool) : Bool :=
  match x with
  | .trig e b => decide (e = d) && (!b || bnd)
  | _ => false

/-- The trigger tick: named units begin a frame, and slave ports wait for their first FSYNC. -/
def State.trigTick (s : State) (d : Nat) (bnd : Bool) : State :=
  let s := s.forEach ((List.range 8).filter fun p => (s.asp p).start.due d bnd) fun s p =>
    if s.aspMode p = 0 then (s.aspBegin p).masterFrame p
    else s.modAsp p fun a => { a with start := .fsync, sinceStart := 0, startAt := s.now }
  let s := s.forEach ((List.range 4).filter fun n => (s.pdm n).start.due d bnd) fun s n => s.pdmBegin n
  if s.iecTx.start.due d bnd then
    let s := s.iecTxBegin
    s.iecTxTick (s.f F.IECT_CTRL_DOMAIN)
  else s

/-! ## Meanings -/

/-- ASP_START (R287): a write of EN, refused by the bus while PD_AUD is off. -/
def execAspStart (p : Fin 8) (s : State) : Res State := .next (if s.on 22 then s.aspStart p else s.busErr)

/-- ASP_STOP (R288). -/
def execAspStop (p : Fin 8) (ended : Bool) (s : State) : Res State :=
  .next (if s.on 22 then s.aspStop p ended else s.busErr)

/-- STOPPED_DOMAIN_FRAME (R282): a frame of a running master port begins while its domain stands still.  The divider as last
set times it, and every slot carries 0; a port that is stopping ends. -/
def execStoppedDomainFrame (p : Fin 8) (s : State) : Res State :=
  .next <|
    if s.aspRun p ∧ s.aspMode p = 0 ∧ s.running (s.aspDom p) = false then
      let d := s.aspDom p
      let (per, acc) := s.periods d (s.ratio d) (s.asp p).acc
      if (s.asp p).stopping then (s.modAsp p fun a => { a with part := [] }).aspLast p per
      else (s.sendFrame p per ((s.outChans p).map fun c => (c, 0))).modAsp p fun a => { a with acc := acc }
    else s

/-- SLOTMASK_READ (R309). -/
def execSlotmaskRead (_ : Initiator) (p : Fin 8) (s : State) : Res State :=
  .next <|
    if s.on 22 then
      (s.forEach [1, 2, 3] fun s k => s.latchReg (R.ASP_SLOTMASK p k)).ret (s.reg (R.ASP_SLOTMASK p 0))
    else s.busErr

/-- IEC_STATUS_READ (R310): CSA[0] latches the other status and user words of the block. -/
def execIecStatusRead (_ : Initiator) (s : State) : Res State :=
  .next <|
    if s.on 22 then
      let s := s.forEach [1, 2, 3, 4, 5] fun s w => s.latchReg (R.IECR_CSA w)
      let s := s.forEach (List.range 6) fun s w => ((s.latchReg (R.IECR_CSB w)).latchReg (R.IECR_UDA w)).latchReg (R.IECR_UDB w)
      s.ret (s.reg (R.IECR_CSA 0))
    else s.busErr

/-- SRC_ACQUIRED (R307): the ratio is stable; a ratio that the group does not accept leads to RANGE. -/
def execSrcAcquired (g : Fin 8) (ratio : Word) (s : State) : Res State :=
  .next <|
    if s.srcState g = 1 then
      if 2 ^ 21 ≤ ratio.toNat ∧ ratio.toNat ≤ 2 ^ 27 then
        let s := (s.setSrc g 2).setRatio g ratio
        (s.flag (F.SRC_STAT_LOCKEV g)).raise 0x0507 ([BitVec.ofNat 8 g, 0, 0, 0] ++ leBytes 4 ratio.toNat)
      else s.setSrc g 6
    else s

/-- RATIO_OUT_OF_RANGE (R307). -/
def execRatioOutOfRange (g : Fin 8) (s : State) : Res State :=
  .next (if s.srcState g = 1 then s.setSrc g 6 else s)

/-- SRC_RAMP_DONE (R307): RAMPIN leads to RUN, and on to HOLD when the clock has been lost meanwhile; HOLD leads to WAIT. -/
def execSrcRampDone (g : Fin 8) (s : State) : Res State :=
  .next <|
    if s.srcState g = 2 then s.setSrc g (if s.srcExtLost g then 4 else 3)
    else if s.srcState g = 4 then s.setSrc g 5
    else s

end Sys2Proof.Machine
end

