-- ==== Sys2Proof/Machine/Cpu.lean ====
section
/-! DEFINITION. The control cores: registers and the window (R474, R475), distances (R485), system registers (R500),
exceptions (R487 to R490) and interrupts (R491 to R493). -/

namespace Sys2Proof.Machine

def State.cc (s : State) (c : Nat) : CtlCore := s.ccs[c]?.getD CtlCore.init
def State.modCc (s : State) (c : Nat) (g : CtlCore → CtlCore) : State := { s with ccs := vmod s.ccs c g }

/-- A core is clocked: its domain is on, and the PMU does not gate it in S2 (R207, R494). -/
def State.clocked (s : State) (c : Nat) : Bool := s.on (19 + c) && s.f F.PMU_STAT_STATE != 2
/-- A core executes: not after a double fault (R490), and not while CC1 waits in ROM (R454). -/
def State.coreRuns (s : State) (c : Nat) : Bool := s.clocked c && !(s.cc c).dead && !(s.cc c).parked

/-! ## System registers (R500) -/

/-- The bits of a system register that software writes, that write as 1 to clear, that write as 1 to set, and that some
field holds; none for an unassigned number. -/
def sysRow (n : Nat) : Option (Nat × Nat × Nat × Nat) :=
  if n = 0 then some (0, 0, 0, 1)
  else if n = 1 then some (0x87000000, 0, 0, 0xE7000000)
  else if n = 2 then some (3, 0, 0, 3)
  else if n = 3 then some (0xFFFFFC00, 0, 0, 0xFFFFFC00)
  else if n = 4 ∨ n = 7 then some (0xFFFFFFFC, 0, 0, 0xFFFFFFFF)
  else if n = 5 then some (0xC7000000, 0, 0, 0xC7FF070F)
  else if n = 6 then some (0, 0, 0, 0xFFFFFFFF)
  else if n = 8 then some (1, 0, 0, 1)
  else if n = 9 then some (0xF07, 0, 0, 0xF07)
  else if n = 0xA then some (0, 0, 0, 0x3F)
  else if n = 0xB then some (0, 0, 0, 0x803FFFFF)
  else if n = 0xC then some (0, 0, 0, 0xFFFFFFFF)
  else if n = 0x10 ∨ n = 0x11 then some (0xFFFFFFFF, 0, 0, 0xFFFFFFFF)
  else if n = 0x12 then some (0, 0, 0, 0xFFFFFFFF)
  else if n = 0x13 then some (0, 0x60000000, 0, 0xFFFFFFFF)
  else if 0x18 ≤ n ∧ n < 0x20 then some (0x77777777, 0, 0, 0x77777777)
  else if n = 0x20 then some (0xFFFF, 0x40000000, 0x80000000, 0xC000FFFF)
  else if n = 0x21 then some (0, 0, 0, 0xFFFF)
  else if n = 0x22 ∨ n = 0x23 then some (0, 0, 0, 0xFFFFFFFF)
  else if n = 0x40 then some (1, 0, 0, 1)
  else if 0x80 ≤ n ∧ n < 0xA0 then some (0xFFFFF000, 0, 0, 0xFFFFF000)
  else if 0xA0 ≤ n ∧ n < 0xB0 then some (0x80000007, 0, 0x40000000, 0xC0000007)
  else none

/-- Reset values: one resident frame, a watchdog of 1,000 ms. -/
def sysReset (n : Nat) : Word := if n = 9 then 0x100 else if n = 0x20 then 1000 else 0

def CtlCore.sr (k : CtlCore) (n : Nat) : Word := smapGet sysReset k.sys n
def CtlCore.setSr (k : CtlCore) (n : Nat) (v : Word) : CtlCore := { k with sys := smapSet sysReset k.sys n v }

/-- A field of a system register, and a field taking a number. -/
def CtlCore.sf (k : CtlCore) (n hi lo : Nat) : Nat := wordFld (k.sr n) hi lo
def CtlCore.setSf (k : CtlCore) (n hi lo v : Nat) : CtlCore := k.setSr n (wordSet (k.sr n) hi lo v)

def CtlCore.ie (k : CtlCore) : Bool := k.sf 1 31 31 = 1
def CtlCore.exl (k : CtlCore) : Bool := k.sf 1 30 30 = 1
def CtlCore.wexl (k : CtlCore) : Bool := k.sf 1 29 29 = 1
def CtlCore.cpl (k : CtlCore) : Nat := k.sf 1 26 24
def CtlCore.wbase (k : CtlCore) : Nat := k.sf 9 2 0
/-- Resident frames: 0 acts as 1, and 9 to 15 act as 8. -/
def CtlCore.wres (k : CtlCore) : Nat := max 1 (min 8 (k.sf 9 11 8))
/-- The window moves: the base modulo 8, the frames resident. -/
def CtlCore.setWin (k : CtlCore) (base res : Nat) : CtlCore := (k.setSf 9 2 0 base).setSf 9 11 8 res

/-- Region n is locked (R496). -/
def CtlCore.mpuLocked (k : CtlCore) (n : Nat) : Bool := k.sf (0xA0 + n) 30 30 = 1

/-! ## Interrupt lines (R491, R492) -/

/-- Some bits of one register are set in another. -/
def State.lineMeet (s : State) (a b : Nat) : Bool := s.reg a &&& s.reg b ≠ 0

/-- The level of an interrupt line at core c. -/
def State.line (s : State) (c n : Nat) : Bool :=
  if n = 0 then s.b F.XCH_CTRL_IRQEN && (s.sticky R.XCH_ERR || s.sticky R.XCH_OVR)
  else if n = 1 then s.b F.STG_CTRL_IRQEN && s.sticky R.STG_STAT
  else if n = 2 then c = 0 && (List.range 2).any fun i => s.lineMeet (R.MBX_REQPEND i) (R.MBX_REQEN i)
  else if n = 3 then c = 1 && (List.range 2).any fun i => s.lineMeet (R.MBX_RSPPEND i) (R.MBX_RSPEN i)
  else if n < 20 then s.fbit F.DMA_DONE_DONE (n - 4) && s.fbit F.DMA_IE_IE (n - 4)
  else if n = 20 then s.b F.DMA_STAT_HALTED && s.b F.DMA_CTRL_IRQEN
  else if n = 21 then
    (s.b F.CLK_CTRL_IRQEN && (s.sticky R.CLK_MON || (List.range 2).any fun a => s.sticky (R.ACS_STAT a))) ||
      (List.range 2).any fun a => s.b (F.ACS_CTRL_IRQEN a) && s.sticky (R.ACS_STAT a)
  else if n = 22 then
    s.b F.TU_CTRL_IRQEN && (s.sticky R.TU_STAT || s.sticky R.TCAP_CTRL || s.sticky R.TRIG_CTRL ||
      (List.range 2).any fun k => s.sticky (R.TP_CTRL k))
  else if n = 23 then s.b F.PMU_CTRL_IRQEN && decide (23 ∈ s.irqs)
  else if n = 24 then
    (s.b F.TSU_CTRL_IRQEN && (s.sticky R.TSU_STAT || decide (24 ∈ s.irqs))) || (s.b F.AGE_CTRL_IRQEN && s.sticky R.AGE_STAT)
  else if n = 25 then s.b F.LA_CTRL_IRQEN && s.sticky R.LA_STAT
  else if n = 26 then s.b F.SCU_CTRL_IRQEN && s.sticky R.SCU_STAT
  else if n = 27 then s.b F.LDS_CTRL_IRQEN && s.sticky R.LDS_STAT
  else if n = 28 then s.b F.SEC_CTRL_IRQEN && s.sticky R.SEC_STAT
  else if n = 29 then s.b F.XMP_CTRL_IRQEN && s.sticky R.XMP_STAT
  else if n = 30 then
    (s.b F.HSP_CTRL_CMDIE && s.b F.HSP_STAT_CMDEV) ||
      (s.b F.HSP_CTRL_IRQEN && (s.setF F.HSP_STAT_CMDEV 0).sticky R.HSP_STAT)
  else if n = 31 then s.b F.PSC_CTRL_IRQEN && s.sticky R.PSC_STAT
  else if n < 35 then
    let u := n - 32
    (s.b (F.UART_CTRL_RXIE u) && s.b (F.UART_STAT_RXTRIG u)) || (s.b (F.UART_CTRL_TXIE u) && s.b (F.UART_STAT_TXTRIG u)) ||
      (s.b (F.UART_CTRL_ERRIE u) && s.sticky (R.UART_STAT u))
  else if n = 35 then s.b F.I2C_CTRL_IRQEN && s.sticky R.I2C_STAT
  else if n = 36 then s.f F.GPIO_EVT_EVT &&& s.f F.GPIO_IE_IE ≠ 0
  else if n < 45 then s.b (F.ASP_CTRL_IRQEN (n - 37)) && s.sticky (R.ASP_STAT (n - 37))
  else if n < 49 then s.b (F.PDM_CTRL_IRQEN (n - 45)) && s.sticky (R.PDM_STAT (n - 45))
  else if n = 49 then s.b F.IECR_CTRL_IRQEN && s.sticky R.IECR_STAT
  else if n = 50 then s.b F.IECT_CTRL_IRQEN && s.sticky R.IECT_STAT
  else if n < 59 then s.b (F.SRC_CTRL_IRQEN (n - 51)) && s.sticky (R.SRC_STAT (n - 51))
  else if n = 59 then s.b F.NSW_CTRL_IRQEN && s.sticky R.NSW_STAT
  else if n = 60 then s.b F.SE_CTRL_IRQEN && decide (60 ∈ s.irqs)
  else if n = 61 then decide (64 * c + 61 ∈ s.irqs)
  else if n = 62 then c = 0 && decide (62 ∈ s.irqs)
  else n = 63 && (s.cc c).sf 0x20 30 30 = 1

/-- IPEND0 and IPEND1. -/
def State.pendWord (s : State) (c i : Nat) : Word :=
  BitVec.ofNat 32 (((List.range 32).map fun j => b2n (s.line c (32 * i + j)) * 2 ^ j).sum)

/-- A line's enable and priority at a core. -/
def CtlCore.enabled (k : CtlCore) (n : Nat) : Bool := (k.sr (0x10 + n / 32)).getLsbD (n % 32)
def CtlCore.prio (k : CtlCore) (n : Nat) : Nat := k.sf (0x18 + n / 8) (4 * (n % 8) + 2) (4 * (n % 8))

/-- The number of a list with the highest priority; the first one of equals. -/
def topLine (p : Nat → Nat) (l : List Nat) : Option Nat :=
  l.foldl (fun (b : Option Nat) n => match b with
    | some m => if p m < p n then some n else some m
    | none => some n) none

/-- The line that a core would take: pending, enabled, above CPL; the highest priority, then the lowest number. -/
def State.bestLine (s : State) (c : Nat) : Option Nat :=
  let k := s.cc c
  topLine k.prio ((List.range 64).filter fun n => decide (k.cpl < k.prio n) && k.enabled n && s.line c n)

/-! ## Landing of results (R485) -/

/-- What a write of a system register does: ignored bits, bits that clear or set, locks, and the actions of WDKICK and
IPEND1. -/
def State.sysWrite (s : State) (c n : Nat) (v : Word) : State :=
  let k := s.cc c
  match sysRow n with
  | none => s
  | some (rw, w1c, w1s, _) =>
    let rw := if n = 0x20 ∧ k.sf 0x20 31 31 = 1 then 0 else rw
    if n = 0x13 then
      { s with irqs := s.irqs.filter fun l =>
          !((v.getLsbD 29 && l == 64 * c + 61) || (v.getLsbD 30 && c == 0 && l == 62)) }
    else if n = 0x21 then if wordFld v 15 0 = 0x5A3C then s.modCc c fun k => { k with kickAt := s.now } else s
    else if 0x80 ≤ n ∧ n < 0xB0 ∧ k.mpuLocked (n % 16) then s
    else
      let m := BitVec.ofNat 32 rw
      let new := (((k.sr n &&& ~~~ m) ||| (v &&& m)) &&& ~~~ (v &&& BitVec.ofNat 32 w1c)) ||| (v &&& BitVec.ofNat 32 w1s)
      let s1 := s.modCc c fun k => k.setSr n new
      if n = 0x20 ∧ v.msb ∧ k.sf 0x20 31 31 = 0 then s1.modCc c fun k => { k with kickAt := s.now } else s1

/-- A result lands. -/
def State.landRes (s : State) (c : Nat) (d : CDest) (v : Word) : State :=
  match d with
  | .reg n => if n = 0 then s else s.modCc c fun k => { k with regs := vmod k.regs n fun _ => v }
  | .sys n => s.sysWrite c n v

/-- The results that are due land in issue order; an older one still on its way to a register that a newer has reached
is lost. -/
def State.landDue (c : Nat) : List CPend → List CPend → State → State
  | acc, [], s => s.modCc c fun k => { k with pend := acc }
  | acc, p :: rest, s =>
    if p.left = 0 then State.landDue c (acc.filter fun q => q.dest ≠ p.dest) rest (s.landRes c p.dest p.val)
    else State.landDue c (acc ++ [p]) rest s

/-- One more instruction issues: every result is one closer. -/
def State.landTick (s : State) (c : Nat) : State :=
  State.landDue c [] ((s.cc c).pend.map fun p => { p with left := p.left - 1 }) s

/-- Every earlier instruction completes (R486). -/
def State.landAll (s : State) (c : Nat) : State :=
  State.landDue c [] ((s.cc c).pend.map fun p => { p with left := 0 }) s

/-- An instruction's result with its distance: 1 lands at once. -/
def State.result (s : State) (c : Nat) (d : CDest) (v : Word) (dist : Nat) : State :=
  if dist ≤ 1 then
    (s.modCc c fun k => { k with pend := k.pend.filter fun p => p.dest ≠ d }).landRes c d v
  else s.modCc c fun k => { k with pend := k.pend ++ [⟨d, v, dist⟩] }

/-! ## Registers (R474) -/

/-- The register that a specifier names in the running frame. -/
def CtlCore.idx (k : CtlCore) (sp : Nat) : Nat := if sp < 16 then sp else 16 + (16 * k.wbase + sp - 16) % 128
/-- Frame register i of a frame slot. -/
def frameReg (slot i : Nat) : Nat := 16 + 16 * (slot % 8) + i
def CtlCore.get (k : CtlCore) (i : Nat) : Word := if i = 0 then 0 else k.regs[i]?.getD 0
def State.rd (s : State) (c : Nat) (sp : BitVec 5) : Word := (s.cc c).get ((s.cc c).idx sp.toNat)
def State.wr (s : State) (c : Nat) (sp : BitVec 5) (v : Word) (dist : Nat) : State :=
  s.result c (.reg ((s.cc c).idx sp.toNat)) v dist

/-! ## Exceptions (R487 to R490) -/

/-- What makes an exception: its cause, and the code, address and kind that it leaves. -/
structure Exc where
  cause : Nat
  code : Option Nat
  addr : Option (Nat × Nat)
  deriving DecidableEq, Repr

def exc (cause : Nat) : Exc := ⟨cause, none, none⟩
def excAt (cause addr kind : Nat) : Exc := ⟨cause, none, some (addr, kind)⟩

/-- The vector of a cause. -/
def CtlCore.vector (k : CtlCore) (cause : Nat) : Nat := ((k.sr 3).toNat + 0x40 * cause) % 2 ^ 32

/-- A core stops after a double fault (R490). -/
def State.stopCore (s : State) (c : Nat) : State := s.modCc c fun k => { k with dead := true }

/-- A window trap: cause 7 or 8 (R489). -/
def State.windowTrap (s : State) (c cause : Nat) : State :=
  let s := s.landAll c
  let k := s.cc c
  if k.wexl then s.stopCore c
  else s.modCc c fun k =>
    { ((k.setSr 7 (BitVec.ofNat 32 k.pc)).setSf 8 0 0 0).setSf 1 29 29 1 with pc := k.vector cause, slot := none }

/-- The registers that entry for causes 1 to 6 and 15 saves and sets; `epc` is the return address. -/
def CtlCore.enter (k : CtlCore) (e : Exc) (epc : Nat) (bd : Bool) : CtlCore :=
  let k1 := k.setSr 4 (BitVec.ofNat 32 (epc / 4 * 4))
  let k2 := (((k1.setSf 5 31 31 (b2n k.ie)).setSf 5 26 24 k.cpl).setSf 5 3 0 e.cause).setSf 5 30 30 (b2n bd)
  let k3 := match e.code with
    | some v => k2.setSf 5 23 16 v
    | none => k2
  let k4 := match e.addr with
    | some (a, kind) => (k3.setSr 6 (BitVec.ofNat 32 a)).setSf 5 10 8 kind
    | none => k3
  { (k4.setSf 1 31 31 0).setSf 1 30 30 1 with pc := k.vector e.cause, slot := none }

/-- An exception of causes 1 to 6 on the instruction at the pc (R488, R490).  In the delay slot of a RET the window first
moves forward again. -/
def State.raiseCc (s : State) (c : Nat) (e : Exc) : State :=
  let s := s.landAll c
  let k := s.cc c
  if k.exl || k.wexl then s.stopCore c
  else
    match k.slot with
    | some sl =>
      s.modCc c fun k =>
        let k := if sl.ret then k.setWin (k.wbase + 1) (k.wres + 1) else k
        k.enter e sl.branch true
    | none => s.modCc c fun k => k.enter e k.pc false

/-- The events that no flag holds are gone once their line is taken (log 24). -/
def State.taken (s : State) (n : Nat) : State :=
  if n = 23 ∨ n = 24 ∨ n = 60 then { s with irqs := delNat s.irqs n } else s

/-- Interrupt entry: cause 15 with the line (R488, R491). -/
def State.enterIrq (s : State) (c n : Nat) : State :=
  let s := s.landAll c
  let p := (s.cc c).prio n
  (s.modCc c fun k =>
    { ((k.enter (exc 15) k.pc false).setSr 0xA (BitVec.ofNat 32 n)).setSf 1 26 24 p with waiting := false }).taken n

/-- IRQ_ENTRY (R491): not between a branch and its delay slot (R480). -/
def execIrqEntry (c : Core) (s : State) : Res State :=
  .next <|
    let k := s.cc c
    if !s.coreRuns c || k.slot.isSome || !k.ie || k.exl || k.wexl then s
    else match s.bestLine c with
      | some n => s.enterIrq c n
      | none => s

end Sys2Proof.Machine
end

