-- ==== Sys2Proof/Machine/I2c.lean ====
section
/-! DEFINITION. The I2C controller, and the supply voltage that firmware sets through it (R204 to R206, R420 to R424). -/

namespace Sys2Proof.Machine

def State.modI2c (s : State) (g : I2c → I2c) : State := { s with i2c := g s.i2c }
def State.modLehr (s : State) (g : Lehr → Lehr) : State := { s with lehr := g s.lehr }

/-- Levels and BUSY follow the FIFOs and the transfer. -/
def State.i2cSync (s : State) : State :=
  let x := s.i2c
  let s := (s.setF F.I2C_LEVEL_TX x.tx.length).setF F.I2C_LEVEL_RX x.rx.length
  s.setF F.I2C_STAT_BUSY (b2n (x.run.isSome || x.held))

/-- A write to I2C_DATA pushes a byte; a read removes the head of the receive FIFO (R424). -/
def State.i2cPut (s : State) (b : Byte) : State :=
  if s.i2c.tx.length < 16 then (s.modI2c fun x => { x with tx := x.tx ++ [b] }).i2cSync else s
def State.i2cTake (s : State) : State :=
  match s.i2c.rx with
  | b :: rest => ((s.modI2c fun x => { x with rx := rest }).i2cSync).ret (b.setWidth 32)
  | [] => let (v, s) := s.free; s.ret (BitVec.ofNat 32 (v % 256))

/-- The address bytes of a transfer: seven bits, or the ten-bit header with the low byte, and for a read the header again (R421;
PRESUMED: the header is that of the I2C standard, log 21). -/
def i2cAddress (x : Word) : List Byte :=
  let rd := b2n (x.getLsbD 28)
  if x.getLsbD 30 then
    let h := 0xF0 + wordFld x 25 24 * 2
    [BitVec.ofNat 8 h, BitVec.ofNat 8 (wordFld x 23 16)] ++ (if rd = 1 then [BitVec.ofNat 8 (h + 1)] else [])
  else [BitVec.ofNat 8 (wordFld x 22 16 * 2 + rd)]

/-- START is sent, or repeated from the held bus, unless the bus is not free (R421). -/
def State.i2cBegin (s : State) (owned : Bool) : State :=
  if owned ∨ s.b F.I2C_STAT_BBUSY = false then (s.modI2c fun x => { x with sent := [.start] }).setF F.I2C_STAT_BBUSY 1 else s

/-- I2C_XFER.GO: a transfer starts, or waits for the bus, unless one runs or the controller is off (R421). -/
def State.i2cGo (s : State) (data : Word) : State :=
  let s := s.setReg R.I2C_XFER (data &&& 0x73FF01FF#32)
  if data.getLsbD 31 ∧ s.b F.I2C_CTRL_EN ∧ s.i2c.run = none then
    ((s.modI2c fun x => { x with run := some (data, 0), held := false, pmic := false, sent := [] }).i2cBegin s.i2c.held).i2cSync
  else s

/-- STOP is issued from the state held under NOSTOP. -/
def State.i2cStop (s : State) : State :=
  if s.i2c.held then
    ((s.modI2c fun x => { x with held := false, sent := x.sent ++ [.stop] }).setF F.I2C_STAT_BBUSY 0).i2cSync
  else s

/-! ## The supply voltage (R204 to R206) -/

/-- The two levels, in mV. -/
def avsLo : Nat := 720
def State.avsHi (s : State) : Nat := 760 + 10 * ((memGet s.fuse 57).toNat % 16)
def State.avsTarget (s : State) (raise : Bool) : Nat := if raise then s.avsHi else avsLo

/-- The code of a level under the parameters of class 0x50; with a code step of 0 the manual gives no code. -/
def State.avsCode (s : State) (mv : Nat) : Byte × State :=
  let step := s.pval (pid 0x50 0 0x13) 0
  if step = 0 then let (v, s) := s.free; (BitVec.ofNat 8 v, s)
  else (BitVec.ofInt 8 (((mv : Int) - s.pval (pid 0x50 0 0x12) 0) / step), s)

/-- Firmware starts the PMIC transfer of the request in flight, or waits for the controller. -/
def State.pmicStart (s : State) : State :=
  match s.lehr.avs with
  | some up =>
    if s.i2c.run.isSome then s.modI2c fun x => { x with pmicWait := true }
    else
      let (code, s) := s.avsCode (s.avsTarget up)
      let s := s.setF F.I2C_CTRL_EN 1
      let s := (s.i2cPut (BitVec.ofNat 8 (s.pval (pid 0x50 0 0x11) 0))).i2cPut code
      let s := s.i2cGo (BitVec.ofNat 32 (2 ^ 31 + s.pval (pid 0x50 0 0x10) 0 % 128 * 2 ^ 16 + 2))
      s.modI2c fun x => { x with pmic := true, pmicWait := false }
  | none => s

/-- The PMIC delivers a level, and firmware writes it to LA_VDD (R204). -/
def State.setVdd (s : State) (mv : Nat) : State := { s.setF F.LA_VDD_MV mv with pmu := { s.pmu with vddMv := mv } }

/-- Firmware requests a level. -/
def State.avsRequest (s : State) (up : Bool) : State :=
  if s.lehr.avs.isSome then s
  else (s.modLehr fun x => { x with avs := some up, avsTries := 0, avsSettle := false }).pmicStart

/-- The epoch is the lehr's own, not one whose record is lost. -/
def Epoch.isLehr (e : Epoch) : Bool := e.session = 0 && e.transport = 0 && !e.lost

/-- The PMIC transfer has ended (R205, R206): an acknowledged raise settles, an acknowledged lowering is in force; a
failed transfer is tried three times more, and then AVS_FAIL is raised. -/
def State.pmicDone (s : State) (ok : Bool) : State :=
  match s.lehr.avs with
  | none => s
  | some up =>
    if ok then
      if up then s.modLehr fun x => { x with avsSettle := true }
      else
        let s := (s.setVdd avsLo).modLehr fun x => { x with avs := none }
        if s.stg.avsWait then s.avsRequest true else s
    else if s.lehr.avsTries < 3 then (s.modLehr fun x => { x with avsTries := x.avsTries + 1 }).pmicStart
    else
      let mv := s.avsTarget up
      let s := s.modLehr fun x => { x with avs := none, avsFail := true }
      let s := if up ∧ (s.stg.queue.head?.map Epoch.isLehr) = some true then
          { s with stg := { s.stg with avsWait := false, queue := match s.stg.queue with
            | e :: q => { e with items := [], clocks := [] } :: q
            | [] => [] } }
        else s
      s.raise 0x0203 ([BitVec.ofNat 8 (b2n up), 0] ++ leBytes 2 mv)

/-! ## How a transfer ends (R422) -/

/-- Symbols pass on the bus. -/
def State.i2cPass (s : State) (l : List I2cSym) : State := s.modI2c fun x => { x with sent := x.sent ++ l }

/-- The transfer has ended: its count, DONE, and the bus freed or held; firmware takes the result of its own. -/
def State.i2cEnd (s : State) (count : Nat) (done stop ok : Bool) : State :=
  let mine := s.i2c.pmic
  let s := (s.setF F.I2C_STAT_COUNT count).modI2c fun x => { x with run := none, pmic := false, held := !stop && done }
  let s := if done then s.flag F.I2C_STAT_DONE else s
  let s := (if stop then (s.i2cPass [.stop]).setF F.I2C_STAT_BBUSY 0 else s).i2cSync
  if mine then s.pmicDone ok else if s.i2c.pmicWait then s.pmicStart else s

/-- The address bytes on the bus, with their acknowledgements: those up to the first refusal, and the repeated START of a ten-bit
read (R421). -/
def i2cAddrSyms (x : Word) (acks : Nat) : List I2cSym :=
  (((i2cAddress x).zipIdx).take (acks + 1)).flatMap fun p =>
    (if p.2 = 2 then [.start] else []) ++ [.out p.1 (p.2 < acks)]

/-- The bytes of a read with the controller's acknowledgements: of all but the last of the transfer (R421). -/
def i2cReadSyms (len moved : Nat) (bs : List Byte) : List I2cSym :=
  bs.zipIdx.map fun p => .inp p.1 (moved + p.2 + 1 < len)

/-- Another controller has won the arbitration (R422): the lines are released, and BBUSY follows the bus. -/
def State.i2cLost (s : State) (count : Nat) (busy : Bool) : State :=
  ((s.flag F.I2C_STAT_ARBLOST).setF F.I2C_STAT_BBUSY (b2n busy)).i2cEnd count false false false

/-- Bytes of the running transfer move, as far as the FIFO and the target allow; then the transfer ends, or holds SCL low. -/
def State.i2cRead (s : State) (x : Word) (moved : Nat) (b : I2cBus) : State :=
  let len := min (wordFld x 8 0) 256
  let n := min (min b.rx.length (len - moved)) (16 - s.i2c.rx.length)
  let s := ((s.modI2c fun y => { y with rx := y.rx ++ b.rx.take n, run := some (x, moved + n) }).i2cPass
    (i2cReadSyms len moved (b.rx.take n))).i2cSync
  if b.arbLost ∧ n = b.rx.length then s.i2cLost (moved + n) b.busy
  else if moved + n = len then s.i2cEnd len true (!x.getLsbD 29) true
  else s
def State.i2cWrite (s : State) (x : Word) (moved : Nat) (b : I2cBus) : State :=
  let len := min (wordFld x 8 0) 256
  let n := min (min b.acked (len - moved)) s.i2c.tx.length
  let lost := b.arbLost && n = b.acked
  let refused := decide (n < len - moved ∧ n < s.i2c.tx.length) && !lost
  let gone := s.i2c.tx.take (n + b2n refused)
  let s := ((s.modI2c fun y => { y with tx := y.tx.drop gone.length, run := some (x, moved + n) }).i2cPass
    (gone.zipIdx.map fun p => .out p.1 (p.2 < n))).i2cSync
  if lost then s.i2cLost (moved + n) b.busy
  else if refused then (s.flag F.I2C_STAT_DNACK).i2cEnd (moved + n) true true false
  else if moved + n = len then s.i2cEnd len true (!x.getLsbD 29) true
  else s

/-- I2C_XFER_GO (R421). -/
def execI2cXferGo (data : Word) (s : State) : Res State :=
  if s.on 21 then writeTo R.I2C_XFER data (s.i2cGo data) else .next s.busErr

/-- The address of the transfer passes, unless it has: START first where the transfer waited for the bus. -/
def State.i2cHead (s : State) (x : Word) (b : I2cBus) : State :=
  let s := if s.i2c.sent = [] then s.i2cBegin true else s
  if s.i2c.sent = [.start] then s.i2cPass (i2cAddrSyms x b.addrAcks) else s

/-- I2C_TRANSFER_END (R422): the running transfer ends, or goes as far as its FIFO allows and holds SCL low; with none running, the
bus is taken or freed by another controller (log 21). -/
def execI2cTransferEnd (b : I2cBus) (s : State) : Res State :=
  .next <|
    match s.i2c.run with
    | none => if s.on 21 && !s.i2c.held then s.setF F.I2C_STAT_BBUSY (b2n b.busy) else s
    | some (x, moved) =>
      let passed := s.i2c.sent ≠ [] ∧ s.i2c.sent ≠ [.start]
      let s := s.i2cHead x b
      if ¬ passed ∧ b.addrAcks < (i2cAddress x).length then
        if b.arbLost then s.i2cLost 0 b.busy else (s.flag F.I2C_STAT_ANACK).i2cEnd 0 true true false
      else if x.getLsbD 28 then s.i2cRead x moved b
      else s.i2cWrite x moved b

/-- I2C_TIMEOUT (R422). -/
def execI2cTimeout (s : State) : Res State :=
  .next <|
    match s.i2c.run with
    | none => s
    | some (_, moved) => (s.flag F.I2C_STAT_TIMEOUT).i2cEnd moved false false false

/-- I2C_CLEAR (R423): ignored during a transfer; a held bus is stopped; else up to nine pulses. -/
def execI2cClear (pulse : Nat) (s : State) : Res State :=
  .next <|
    if s.on 21 = false then s.busErr
    else if s.i2c.run.isSome then s
    else if s.i2c.held ∨ (1 ≤ pulse ∧ pulse ≤ 9) then
      ((((s.modI2c fun x => { x with held := false }).i2cPass [.stop]).setF F.I2C_STAT_BBUSY 0).i2cSync).flag F.I2C_STAT_DONE
    else s.flag F.I2C_STAT_CLRFAIL

/-- I2C_DATA_WRITE (R424). -/
def execI2cDataWrite (data : Word) (s : State) : Res State :=
  if s.on 21 then writeTo R.I2C_DATA data (s.i2cPut (data.setWidth 8)) else .next s.busErr

/-- I2C_DATA_READ (R424). -/
def execI2cDataRead (_ : Initiator) (s : State) : Res State := .next (if s.on 21 then s.i2cTake else s.busErr)

/-- AVS_SETTLED (R205): the raised voltage is confirmed, and the waiting epoch may be armed. -/
def execAvsSettled (s : State) : Res State :=
  .next <|
    if s.lehr.avs = some true ∧ s.lehr.avsSettle then
      let s := (s.setVdd s.avsHi).modLehr fun x => { x with avs := none, avsSettle := false, avsFail := false }
      { s with stg := { s.stg with avsWait := false } }
    else s

end Sys2Proof.Machine
end

