-- ==== Sys2Proof/Machine/Clocks.lean ====
section
/-! DEFINITION. Clock synthesis: the fixed loops, the engine clocks, the audio clock synthesisers with their updates,
phase steps, coasting and relock, and the clock monitors (R253 to R276). -/

namespace Sys2Proof.Machine

def State.acsOf (s : State) (a : Nat) : Acs := s.acs[a]?.getD ⟨none, 1, Mash.init, 0, 0⟩
def State.modAcs (s : State) (a : Nat) (g : Acs → Acs) : State := { s with acs := vmod s.acs a g }

/-! ## Sets (R264, R269) -/

/-- The buffered set. -/
def State.acsBuffered (s : State) (a : Nat) : AcsSet :=
  ⟨s.reg (R.ACS_DIV a), s.reg (R.ACS_FRAC a), s.reg (R.ACS_CENI a), s.reg (R.ACS_CENF a)⟩

/-- The spacing in force: below 64 acts as 64. -/
def AcsSet.spacing (x : AcsSet) : Nat := max (wordFld x.div 15 0) 64
/-- The multiplier and the centre multiplier, in units of 2^−32. -/
def AcsSet.mult (x : AcsSet) : Nat := wordFld x.div 21 16 * 2 ^ 32 + x.frac.toNat
def AcsSet.centre (x : AcsSet) : Nat := wordFld x.ceni 5 0 * 2 ^ 32 + x.cenf.toNat

/-- The check of a captured set (R261, R269): INT from 8 to 56, m within 1,000 ppm of the centre, and the pull limit.
REFSEL 3 is refused. -/
def State.acsCheck (s : State) (a : Nat) (x : AcsSet) : Bool :=
  let m : Int := x.mult
  let c : Int := x.centre
  let sp : Int := x.spacing
  let lim : Int := min (s.f (F.ACS_LIMIT_LIMIT a)) 1000
  let tol : Int := s.f (F.ACS_LIMIT_REFTOL a)
  wordFld x.div 31 30 ≠ 3 && 8 ≤ wordFld x.div 21 16 && wordFld x.div 21 16 ≤ 56 &&
    (m - c) * 1000 ≤ c && (c - m) * 1000 ≤ c &&
    (m - c) * 1000000 * sp + 15625 * c + (20 + tol) * c * sp ≤ lim * c * sp

/-- A set is applied: it shows in ACSa_LIVE, and the modulator restarts from the new fraction (R264). -/
def State.acsApply (s : State) (a : Nat) (x : AcsSet) : State :=
  let s := (s.setReg (R.ACS_LIVE a) (x.div &&& 0xD73FFFFF#32)).setReg (R.ACS_LIVEF a) x.frac
  (s.setF (F.ACS_STAT_UPDPEND a) 0).modAcs a fun y => { y with cap := none }

/-- The ACS coasts (R272), with its cause. -/
def State.acsCoast (s : State) (a cause : Nat) : State :=
  let s := (s.setF (F.ACS_STAT_COAST a) 1).setF (F.ACS_STAT_LOCK a) 0
  ((s.flag (F.ACS_STAT_COASTEV a)).modAcs a fun y => { y with cause := cause }).raise 0x0401
    [BitVec.ofNat 8 a, BitVec.ofNat 8 cause]

/-- The ACS relocks (R273): a pending set applies at the first detector edge (R265). -/
def State.acsDoRelock (s : State) (a : Nat) : State :=
  let s := ((s.setF (F.ACS_STAT_COAST a) 0).setF (F.ACS_STAT_LOCK a) 1).flag (F.ACS_STAT_RELOCKED a)
  let s := match (s.acsOf a).cap with
    | some x => s.acsApply a x
    | none => s
  (s.raise 0x0402 [BitVec.ofNat 8 a, BitVec.ofNat 8 (s.acsOf a).cause]).startWaiting a

/-- A set takes effect: a change of REFSEL or PREDIV applies and coasts at once, whether or not the ACS has locked; other sets
wait while the ACS coasts (R264, R265), also where it coasts for a change of reference (DESIGN CHOICE, log 41). -/
def State.acsTake (s : State) (a : Nat) (x : AcsSet) : State :=
  let live := s.reg (R.ACS_LIVE a)
  let moved := wordFld x.div 31 30 ≠ wordFld live 31 30 ∨ wordFld x.div 26 24 ≠ wordFld live 26 24
  if s.b (F.ACS_CTRL_EN a) = false then s
  else if moved then ((s.acsApply a x).acsCoast a 3).setF (F.ACS_STAT_REFOK a) 0
  else if s.b (F.ACS_STAT_COAST a) then s
  else s.acsApply a x

/-- The LFSR loads the seed; 0 loads as 1 (R263). -/
def State.acsSeed (s : State) (a : Nat) : State :=
  let v := s.f (F.ACS_SEED_SEED a)
  s.modAcs a fun y => { y with lfsr := if v = 0 then 1 else BitVec.ofNat 24 v }

/-- UPDATE (R264): capture, check, apply. -/
def State.acsUpdate (s : State) (a : Nat) : State :=
  let x := s.acsBuffered a
  let s := if s.b (F.ACS_CTRL_RESEED a) then s.acsSeed a else s
  if s.acsCheck a x then
    ((s.setF (F.ACS_STAT_UPDPEND a) 1).modAcs a fun y => { y with cap := some x }).acsTake a x
  else ((s.setF (F.ACS_STAT_UPDPEND a) 0).modAcs a fun y => { y with cap := none }).flag (F.ACS_STAT_REFUSED a)

/-- ACSa_CTRL.EN changes: the ACS starts with its seed, no net steps (R263, R267), empty accumulators and the captured set that
waits, or else its buffered set; or it stops.  DESIGN CHOICE (log 41): the accumulators; that the set which applies at EN is not
checked under R269; that a set captured while EN is 0 waits for EN; and that clearing EN clears UPDPEND and keeps that set. -/
def State.acsEnable (s : State) (a : Nat) (on : Bool) : State :=
  if on then
    let x := ((s.acsOf a).cap).getD (s.acsBuffered a)
    let s := (s.acsSeed a).modAcs a fun y => { y with mash := Mash.init }
    (s.setReg (R.ACS_NETSTEP a) 0).acsApply a x
  else (s.setReg (R.ACS_STAT a) (s.reg (R.ACS_STAT a) &&& 0x0FFFFFFF#32))

/-! ## Phase steps (R267) -/

def State.psq (s : State) (a : Nat) : Int := (s.reg (R.ACS_PSQ a)).toInt
def State.setPsq (s : State) (a : Nat) (v : Int) : State := s.setReg (R.ACS_PSQ a) (BitVec.ofInt 32 v)

/-- An ADD saturates at either end of the queue. -/
def State.psqAdd (s : State) (a : Nat) (add : Int) : State :=
  let v := s.psq a + add
  if 4095 < v then (s.setPsq a 4095).flag (F.ACS_STAT_QOVF a)
  else if v < -4095 then (s.setPsq a (-4095)).flag (F.ACS_STAT_QOVF a)
  else s.setPsq a v

/-! ## Fixed loops -/

def State.loopLocked (s : State) (l : Nat) : Bool := s.fbit F.CLK_STAT_LOCK l
def State.loopEnabled (s : State) (l : Nat) : Bool :=
  s.b (match l with | 0 => F.CLK_CTRL_SYSEN | 1 => F.CLK_CTRL_LDSEN | 2 => F.CLK_CTRL_CC0EN | _ => F.CLK_CTRL_CC1EN)

/-- REFSEL, CLK_SYSI and CLK_SYSF apply together, and the SYS MDLL relocks (R257). -/
def State.sysApply (s : State) : State :=
  let s := { s with sysLoop := ⟨s.b F.CLK_CTRL_REFSEL, s.f F.CLK_SYSI_INT, s.reg R.CLK_SYSF, s.sysLoop.mash⟩ }
  (s.setF F.CLK_STAT_SYSPEND 0).setFbit F.CLK_STAT_LOCK 0 false

/-- Firmware requests a device reset with a cause (R275, R397). -/
def State.requestReset (s : State) (cause : Nat) : State :=
  { s.setF F.PMU_RSTCAUSE_CAUSE cause with pmu := { s.pmu with resetReq := true } }

/-! ## Meanings -/

/-- SYSUPD is applied at the next edge of the newly selected reference, and waits while that has none (R257). -/
def State.sysUpd (s : State) (edge : Bool) : State := if edge then s.sysApply else s.setF F.CLK_STAT_SYSPEND 1

/-- The reference that the buffered REFSEL selects is the one in use, and is present. -/
def State.sysEdge (s : State) : Bool := s.b F.CLK_CTRL_REFSEL = s.sysLoop.ref && !s.b F.CLK_STAT_SYSCOAST

/-- The REFIN buffer is enabled: REFSEL or an ACS selects it (R253). -/
def State.refinOn (s : State) : Bool :=
  s.sysLoop.ref || s.b F.CLK_CTRL_REFSEL ||
    [0, 1].any fun a => s.b (F.ACS_CTRL_EN a) && wordFld (s.reg (R.ACS_LIVE a)) 31 30 = 1

/-- A write of a register of PD_SYS: a bus error while that domain is off (R19). -/
def State.sysDo (s : State) (g : State → State) : State := if s.on 21 then g s else s.busErr

/-- SYSUPD (R257). -/
def execSysupd (edge : Bool) (s : State) : Res State := .next (s.sysDo fun s => s.sysUpd edge)

/-- LOOP_LOCK (R255, R256): an enabled loop locks; a loop fed by the SYS MDLL only once that is locked. -/
def execLoopLock (l : BitVec 2) (s : State) : Res State :=
  .next <|
    if s.loopEnabled l.toNat ∧ (l = 0 ∨ s.loopLocked 0) then s.setFbit F.CLK_STAT_LOCK l.toNat true else s

/-- A write of CLK_ENGN, ignored while the engine is in service. -/
def State.engineClock (s : State) (e n : Nat) : State :=
  if s.inService e then s else (s.setF (F.CLK_ENGN_N e) n).setF (F.ENG_CLKST_LOCK e) 0

/-- ENGINE_CLOCK_SET (R260). -/
def execEngineClockSet (e : Eng) (n : Word) (s : State) : Res State := .next (s.sysDo fun s => s.engineClock e n.toNat)

/-- The multiplier that an out-of-service engine runs at: 4 to 16, other values act as 4, at most AGE_FMAX (R258, R260). -/
def State.engnEff (s : State) (e : Nat) : Nat :=
  let n := s.f (F.CLK_ENGN_N e)
  min (if 4 ≤ n ∧ n ≤ 16 then n else 4) (s.fmax e)

/-- ENGINE_CLOCK_LOCK (R259, R260): the idle path has locked; out of service the new N takes effect, and an action that
waited for LOCK goes on unless a BIST or a CLEAR is under way. -/
def execEngineClockLock (e : Eng) (s : State) : Res State :=
  .next <|
    if s.inService e then s.modEng e fun en => { en with tuned := true }
    else
      let n := s.engnEff e
      let s := ((s.setF (F.ENG_CLKST_N e) n).setF (F.ENG_CLKST_NARM e) n).setF (F.ENG_CLKST_LOCK e) 1
      if s.mode e = 5 ∨ s.mode e = 6 then s else s.goOn e

/-- ACS_UPDATE (R264). -/
def execAcsUpdate (a : Bool) (s : State) : Res State := .next (s.sysDo fun s => s.acsUpdate (b2n a))

/-- ACS_LOCK (R37): an enabled ACS locks; starts that wait for it proceed. -/
def State.acsLocked (s : State) (a : Nat) : State :=
  if s.b (F.ACS_CTRL_EN a) ∧ s.b (F.ACS_STAT_COAST a) = false then
    ((s.setF (F.ACS_STAT_LOCK a) 1).setF (F.ACS_STAT_REFOK a) 1).startWaiting a
  else s

/-- ACS_RELOCK (R273): a RELOCK write while the reference is good. -/
def execAcsRelock (a : Bool) (s : State) : Res State :=
  .next <| s.sysDo fun s =>
    if s.b (F.ACS_STAT_COAST (b2n a)) ∧ s.b (F.ACS_STAT_REFOK (b2n a)) then s.acsDoRelock (b2n a) else s

/-- ACS_CLRQ (R267). -/
def execAcsClrq (a : Bool) (s : State) : Res State := .next (s.sysDo fun s => s.setPsq (b2n a) 0)

/-- PHASE_STEP_ADD (R267). -/
def execPhaseStepAdd (a : Bool) (add : BitVec 13) (s : State) : Res State :=
  .next (s.sysDo fun s => s.psqAdd (b2n a) add.toInt)

/-- PHASE_STEP_ISSUE (R266, R267): one step toward zero, counted in NETSTEP. -/
def execPhaseStepIssue (a : Bool) (s : State) : Res State :=
  .next <|
    let q := s.psq (b2n a)
    if s.b (F.ACS_CTRL_EN (b2n a)) = false ∨ q = 0 then s
    else
      let st : Int := if 0 < q then 1 else -1
      let net := (s.reg (R.ACS_NETSTEP (b2n a))).toInt
      (s.setPsq (b2n a) (q - st)).setReg (R.ACS_NETSTEP (b2n a)) (BitVec.ofInt 32 (net + st))

/-- ACS_COAST (R272): two consecutive bad detector periods. -/
def execAcsCoast (a : Bool) (s : State) : Res State :=
  .next <|
    if s.b (F.ACS_CTRL_EN (b2n a)) ∧ s.b (F.ACS_STAT_COAST (b2n a)) = false then
      (s.acsCoast (b2n a) 1).setF (F.ACS_STAT_REFOK (b2n a)) 0
    else s.setF (F.ACS_STAT_REFOK (b2n a)) 0

/-- The ACS's reference is the system reference: no frequency check (R271). -/
def State.acsOnSysRef (s : State) (a : Nat) : Bool :=
  wordFld (s.reg (R.ACS_LIVE a)) 31 30 = b2n s.sysLoop.ref

/-- FREQUENCY_CHECK (R271): the counted edges differ from those expected by more than 2 × REFTOL + 50 ppm. -/
def execFrequencyCheck (a : Bool) (count expected : Nat) (s : State) : Res State :=
  .next <|
    let tol : Int := 2 * s.f (F.ACS_LIMIT_REFTOL (b2n a)) + 50
    let diff : Int := ((count : Int) - expected).natAbs
    if s.b (F.ACS_CTRL_EN (b2n a)) ∧ s.b (F.ACS_CTRL_FCHK (b2n a)) ∧ s.acsOnSysRef (b2n a) = false ∧
        tol * expected < diff * 1000000 then
      -- the reference is bad, so that a RELOCK is ignored (R273)
      let s := (s.flag (F.ACS_STAT_FREQERR (b2n a))).setF (F.ACS_STAT_REFOK (b2n a)) 0
      if s.b (F.ACS_STAT_COAST (b2n a)) then s else s.acsCoast (b2n a) 2
    else s

/-- REFERENCE_RETURN (R273): 16 good periods; the ACS relocks at once in automatic mode, and always after a change of
reference (R265). -/
def execReferenceReturn (a : Bool) (s : State) : Res State :=
  .next <|
    let s := s.setF (F.ACS_STAT_REFOK (b2n a)) 1
    if s.b (F.ACS_STAT_COAST (b2n a)) ∧ (s.b (F.ACS_CTRL_RLAUTO (b2n a)) ∨ (s.acsOf (b2n a)).cause = 3) then
      s.acsDoRelock (b2n a)
    else s

/-- SYSTEM_REFERENCE_LOST (R275). -/
def execSystemReferenceLost (s : State) : Res State :=
  .next <|
    let s := ((s.setF F.CLK_STAT_SYSCOAST 1).flag F.CLK_MON_REFLOST).setFbit F.CLK_STAT_LOCK 0 false
    s.raise 0x0403 []

/-- SYSTEM_REFERENCE_RETURN (R257, R273, R275): a waiting SYSUPD applies, since the reference that has returned is then the
newly selected one (DESIGN CHOICE, log 17), and a coasting SYS MDLL relocks in automatic mode. -/
def execSystemReferenceReturn (s : State) : Res State :=
  .next <|
    let s := if s.b F.CLK_STAT_SYSPEND then s.sysApply else s
    if s.b F.CLK_STAT_SYSCOAST then (s.setF F.CLK_STAT_SYSCOAST 0).setFbit F.CLK_STAT_LOCK 0 true else s

/-- MDLL_UNLOCK (R275): the loop keeps driving its island; a SYS or CC unlock of 1 ms asks for a device reset. -/
def execMdllUnlock (l : BitVec 2) (ms : Bool) (s : State) : Res State :=
  .next <|
    let x := match l.toNat with
      | 0 => F.CLK_MON_SYSUNLOCK
      | 1 => F.CLK_MON_LDSUNLOCK
      | _ => F.CLK_MON_CCUNLOCK
    let s := (s.flag x).setFbit F.CLK_STAT_LOCK l.toNat false
    if ms ∧ l ≠ 1 then s.requestReset 7 else s

/-- ENGINE_MDLL_UNLOCK (R275): the engine's clock stops, so that it issues no word and its pass overruns. -/
def execEngineMdllUnlock (e : Eng) (s : State) : Res State :=
  .next <|
    ((s.flag F.CLK_MON_ENGUNLOCK).setF F.CLK_MON_ENG e).setF (F.ENG_CLKST_LOCK e) 0

/-- SLOW_CLOCK_LOSS (R254): fall back to the RC oscillator. -/
def execSlowClockLoss (s : State) : Res State :=
  .next (if s.b F.CLK_SLOW_SEL then (s.setF F.CLK_SLOW_ACTIVE 0).flag F.CLK_MON_SLOWLOST else s)

/-- ACS_LIVE_READ (R276). -/
def execAcsLiveRead (_ : Initiator) (a : Bool) (s : State) : Res State :=
  .next (s.sysRead [R.ACS_LIVEF (b2n a)] (R.ACS_LIVE (b2n a)))

end Sys2Proof.Machine
end

