-- ==== Sys2Proof/Machine/Crypto.lean ====
section
/-! DEFINITION. The algorithms that SEC, XMP and firmware apply to bytes: SHA-256, HMAC and HKDF (R466, RFC 5869),
AES-256 in counter mode (R442), ECDSA over P-256 (R456), the CRC-32 of R231 and the BCH code of R434.  The manual names
them; their text is that of the standards. -/

namespace Sys2Proof.Machine

/-! ## CRC-32 (R231, R440, R455) -/

def crc32 (bs : List Byte) : Nat := (crcBytes 0xFFFFFFFF bs ^^^ 0xFFFFFFFF).toNat

/-! ## SHA-256 -/

def shaK : List Word := [
  0x428A2F98, 0x71374491, 0xB5C0FBCF, 0xE9B5DBA5, 0x3956C25B, 0x59F111F1, 0x923F82A4, 0xAB1C5ED5,
  0xD807AA98, 0x12835B01, 0x243185BE, 0x550C7DC3, 0x72BE5D74, 0x80DEB1FE, 0x9BDC06A7, 0xC19BF174,
  0xE49B69C1, 0xEFBE4786, 0x0FC19DC6, 0x240CA1CC, 0x2DE92C6F, 0x4A7484AA, 0x5CB0A9DC, 0x76F988DA,
  0x983E5152, 0xA831C66D, 0xB00327C8, 0xBF597FC7, 0xC6E00BF3, 0xD5A79147, 0x06CA6351, 0x14292967,
  0x27B70A85, 0x2E1B2138, 0x4D2C6DFC, 0x53380D13, 0x650A7354, 0x766A0ABB, 0x81C2C92E, 0x92722C85,
  0xA2BFE8A1, 0xA81A664B, 0xC24B8B70, 0xC76C51A3, 0xD192E819, 0xD6990624, 0xF40E3585, 0x106AA070,
  0x19A4C116, 0x1E376C08, 0x2748774C, 0x34B0BCB5, 0x391C0CB3, 0x4ED8AA4A, 0x5B9CCA4F, 0x682E6FF3,
  0x748F82EE, 0x78A5636F, 0x84C87814, 0x8CC70208, 0x90BEFFFA, 0xA4506CEB, 0xBEF9A3F7, 0xC67178F2]

def shaH0 : List Word := [0x6A09E667, 0xBB67AE85, 0x3C6EF372, 0xA54FF53A, 0x510E527F, 0x9B05688C, 0x1F83D9AB, 0x5BE0CD19]

/-- The message schedule: words in reverse order, latest first; n more words. -/
def shaSched : Nat → List Word → List Word
  | 0, w => w
  | n + 1, w =>
    let g (i : Nat) := w.getD (i - 1) 0
    let a := g 15
    let b := g 2
    let s0 := a.rotateRight 7 ^^^ a.rotateRight 18 ^^^ a >>> 3
    let s1 := b.rotateRight 17 ^^^ b.rotateRight 19 ^^^ b >>> 10
    shaSched n ((g 16 + s0 + g 7 + s1) :: w)

/-- One round on the eight working words. -/
def shaRound (v : List Word) (kw : Word) : List Word :=
  match v with
  | [a, b, c, d, e, f, g, h] =>
    let s1 := e.rotateRight 6 ^^^ e.rotateRight 11 ^^^ e.rotateRight 25
    let t1 := h + s1 + ((e &&& f) ^^^ (~~~ e &&& g)) + kw
    let s0 := a.rotateRight 2 ^^^ a.rotateRight 13 ^^^ a.rotateRight 22
    let t2 := s0 + ((a &&& b) ^^^ (a &&& c) ^^^ (b &&& c))
    [t1 + t2, a, b, c, d + t1, e, f, g]
  | v => v

/-- The chaining value after one 64-byte block. -/
def shaBlock (h : List Word) (blk : List Byte) : List Word :=
  let w := (List.range 16).map fun i => BitVec.ofNat 32 (beNat ((blk.drop (4 * i)).take 4))
  let ws := (shaSched 48 w.reverse).reverse
  List.zipWith (· + ·) h ((List.zipWith (· + ·) shaK ws).foldl shaRound h)

/-- Whole blocks of a list of bytes, `fuel` at most. -/
def shaBlocks : Nat → List Word → List Byte → List Word
  | 0, h, _ => h
  | n + 1, h, bs => if bs.length < 64 then h else shaBlocks n (shaBlock h (bs.take 64)) (bs.drop 64)

def shaPad (len : Nat) : List Byte := [0x80#8] ++ List.replicate ((119 - len % 64) % 64) 0 ++ beBytes 8 (8 * len)

/-- The 32-byte digest. -/
def sha256 (m : List Byte) : List Byte :=
  let p := m ++ shaPad m.length
  (shaBlocks (p.length / 64) shaH0 p).flatMap fun w => beBytes 4 w.toNat

/-- HMAC-SHA-256 for a key of at most 64 bytes, and HKDF for one block of output with an empty salt (R466). -/
def hmac (key m : List Byte) : List Byte :=
  let k := key ++ List.replicate (64 - key.length) 0
  sha256 (k.map (· ^^^ 0x5C) ++ sha256 (k.map (· ^^^ 0x36) ++ m))
def hkdf (ikm info : List Byte) : List Byte := hmac (hmac (List.replicate 32 0) ikm) (info ++ [1])

/-! ## AES-256 -/

/-- Product in GF(2^8) by x^8 + x^4 + x^3 + x + 1. -/
def xtime (a : Byte) : Byte := (a <<< 1) ^^^ (if a.msb then 0x1B else 0)
def gmulGo : Nat → Byte → Byte → Byte
  | 0, _, _ => 0
  | n + 1, a, b => (if b.getLsbD 0 then a else 0) ^^^ gmulGo n (xtime a) (b >>> 1)
def gmul (a b : Byte) : Byte := gmulGo 8 a b

/-- The S-box: the inverse a^254, then the affine map. -/
def aesInv (a : Byte) : Byte :=
  let a2 := gmul a a
  let a3 := gmul a2 a
  let a6 := gmul a3 a3
  let a7 := gmul a6 a
  let a14 := gmul a7 a7
  let a15 := gmul a14 a
  let a30 := gmul a15 a15
  let a31 := gmul a30 a
  let a62 := gmul a31 a31
  let a63 := gmul a62 a
  let a126 := gmul a63 a63
  let a127 := gmul a126 a
  gmul a127 a127
def sbox (a : Byte) : Byte :=
  let b := aesInv a
  b ^^^ b.rotateLeft 1 ^^^ b.rotateLeft 2 ^^^ b.rotateLeft 3 ^^^ b.rotateLeft 4 ^^^ 0x63

/-- The key schedule: words as four bytes, latest first; i counts the words made. -/
def aesExpand : Nat → Nat → Byte → List (List Byte) → List (List Byte)
  | 0, _, _, w => w
  | n + 1, i, rc, w =>
    let t := w.getD 0 []
    let t1 := if i % 8 = 0 then (((t.drop 1 ++ t.take 1).map sbox).zipIdx.map fun p => if p.2 = 0 then p.1 ^^^ rc else p.1)
      else if i % 8 = 4 then t.map sbox else t
    aesExpand n (i + 1) (if i % 8 = 0 then xtime rc else rc) (List.zipWith (· ^^^ ·) (w.getD 7 []) t1 :: w)

def aesKeys (key : List Byte) : List Byte :=
  (aesExpand 52 8 1 ((List.range 8).map fun i => (key.drop (4 * i)).take 4).reverse).reverse.flatten

def xorBytes (a b : List Byte) : List Byte := List.zipWith (· ^^^ ·) a b
def aesShift (st : List Byte) : List Byte := (List.range 16).map fun i => st.getD ((i + 4 * (i % 4)) % 16) 0
def aesMixCol (c : List Byte) : List Byte :=
  (List.range 4).map fun r =>
    gmul 2 (c.getD r 0) ^^^ gmul 3 (c.getD ((r + 1) % 4) 0) ^^^ c.getD ((r + 2) % 4) 0 ^^^ c.getD ((r + 3) % 4) 0
def aesMix (st : List Byte) : List Byte := (List.range 4).flatMap fun j => aesMixCol ((st.drop (4 * j)).take 4)

/-- One 16-byte block under a 32-byte key. -/
def aesBlock (key blk : List Byte) : List Byte :=
  let ks := aesKeys key
  let rk (r : Nat) := (ks.drop (16 * r)).take 16
  let st := (List.range 13).foldl (fun st r => xorBytes (aesMix (aesShift (st.map sbox))) (rk (r + 1))) (xorBytes blk (rk 0))
  xorBytes (aesShift (st.map sbox)) (rk 14)

/-- The counter block of the 16 bytes at a flash offset (R442), and a chunk from an offset decrypted. -/
def xipCounter (ver off : Nat) : List Byte := beBytes 4 ver ++ [0, 0, 0, 0] ++ beBytes 8 (off / 16)
def xipDecrypt (key : List Byte) (ver off : Nat) (c : List Byte) : List Byte :=
  (List.range (c.length / 16)).flatMap fun i =>
    xorBytes ((c.drop (16 * i)).take 16) (aesBlock key (xipCounter ver (off + 16 * i)))

/-! ## ECDSA over P-256 -/

def p256 : Nat := 2 ^ 256 - 2 ^ 224 + 2 ^ 192 + 2 ^ 96 - 1
def p256b : Nat := 0x5AC635D8AA3A93E7B3EBBD55769886BC651D06B0CC53B0F63BCE3C3E27D2604B
def p256n : Nat := 0xFFFFFFFF00000000FFFFFFFFFFFFFFFFBCE6FAADA7179E84F3B9CAC2FC632551
def p256g : Nat × Nat :=
  (0x6B17D1F2E12C4247F8BCE6E563A440F277037D812DEB33A0F4A13945D898C296,
   0x4FE342E2FE1A7F9B8EE7EB4A7C0F9E162BCE33576B315ECECBB6406837BF51F5)

/-- Power and inverse modulo a prime below 2^256. -/
def powModGo (m : Nat) : Nat → Nat → Nat → Nat
  | 0, _, _ => 1
  | n + 1, a, e => (if e % 2 = 1 then a else 1) * powModGo m n (a * a % m) (e / 2) % m
def invMod (m a : Nat) : Nat := powModGo m 256 (a % m) (m - 2)

/-- Points of the curve y² = x³ − 3x + b in Jacobian coordinates: X, Y, Z stand for x = X / Z² and y = Y / Z³, and Z = 0 for the
point at infinity. -/
abbrev Pt := Nat × Nat × Nat
def ptDouble : Pt → Pt
  | (x, y, z) =>
    let w := y * y % p256
    let s := 4 * x * w % p256
    let m := 3 * (x + z * z) * (x + p256 * p256 - z * z) % p256
    let x3 := (m * m + 2 * p256 - 2 * s) % p256
    (x3, (m * (s + p256 - x3) + 8 * p256 * p256 - 8 * w * w) % p256, 2 * y * z % p256)
def ptAdd : Pt → Pt → Pt
  | (x1, y1, z1), (x2, y2, z2) =>
    if z1 = 0 then (x2, y2, z2)
    else if z2 = 0 then (x1, y1, z1)
    else
      let u1 := x1 * (z2 * z2) % p256
      let u2 := x2 * (z1 * z1) % p256
      let s1 := y1 * (z2 * z2 * z2) % p256
      let s2 := y2 * (z1 * z1 * z1) % p256
      if u1 = u2 then if s1 = s2 then ptDouble (x1, y1, z1) else (1, 1, 0)
      else
        let h := (u2 + p256 - u1) % p256
        let r := (s2 + p256 - s1) % p256
        let h2 := h * h % p256
        let v := u1 * h2 % p256
        let x3 := (r * r + p256 * p256 + 2 * p256 - h * h2 - 2 * v) % p256
        (x3, (r * (v + p256 - x3) + p256 * p256 * p256 - s1 * h * h2) % p256, z1 * z2 * h % p256)
def ptMulGo : Nat → Pt → Nat → Pt
  | 0, _, _ => (1, 1, 0)
  | n + 1, p, k => ptAdd (if k % 2 = 1 then p else (1, 1, 0)) (ptMulGo n (ptDouble p) (k / 2))
def ptMul (k x y : Nat) : Pt := ptMulGo 256 (x, y, 1) k
def onCurve (x y : Nat) : Bool :=
  x < p256 && y < p256 && (y * y + 3 * x) % p256 == (x * x * x + p256b) % p256

/-- Whether r ‖ s is a signature over a 32-byte digest under the key X ‖ Y. -/
def ecdsaVerify (pub sig digest : List Byte) : Bool :=
  let x := beNat (pub.take 32)
  let y := beNat (pub.drop 32)
  let r := beNat (sig.take 32)
  let v := beNat (sig.drop 32)
  onCurve x y && 0 < r && r < p256n && 0 < v && v < p256n &&
    (let w := invMod p256n v
     match ptAdd (ptMul (beNat digest * w % p256n) p256g.1 p256g.2) (ptMul (r * w % p256n) x y) with
     | (px, _, z) => z != 0 && px * invMod p256 (z * z) % p256 % p256n == r)

/-! ## The BCH code of the flash sectors (R434) -/

/-- Product, power and inverse in GF(2^13) by x^13 + x^4 + x^3 + x + 1. -/
def bchX (a : Nat) : Nat := if 2 * a < 8192 then 2 * a else (2 * a) ^^^ 0x201B
def bchMulGo : Nat → Nat → Nat → Nat
  | 0, _, _ => 0
  | n + 1, a, b => (if b % 2 = 1 then a else 0) ^^^ bchMulGo n (bchX a) (b / 2)
def bchMul (a b : Nat) : Nat := bchMulGo 13 a b
def bchPowGo : Nat → Nat → Nat → Nat
  | 0, _, _ => 1
  | n + 1, a, e => bchMul (if e % 2 = 1 then a else 1) (bchPowGo n (bchMul a a) (e / 2))
def bchPow (a e : Nat) : Nat := bchPowGo 13 a e

/-- The minimal polynomial of α^k, as bits: the product of x + α^(k·2^j) over the 13 conjugates. -/
def bchMinimal (k : Nat) : Nat :=
  let cs := (List.range 13).map fun j => bchPow 2 (k * 2 ^ j % 8191)
  let p := cs.foldl (fun (p : List Nat) c => List.zipWith (· ^^^ ·) (p.map (bchMul c) ++ [0]) ([0] ++ p)) [1]
  leBits p
where leBits (p : List Nat) : Nat := p.foldr (fun b n => 2 * n + b) 0

/-- Product of polynomials over GF(2). -/
def clMulGo : Nat → Nat → Nat → Nat
  | 0, _, _ => 0
  | n + 1, a, b => (if b % 2 = 1 then a else 0) ^^^ clMulGo n (2 * a) (b / 2)

/-- The generator, of degree 104. -/
def bchGen : Nat := [1, 3, 5, 7, 9, 11, 13, 15].foldl (fun g k => clMulGo 14 g (bchMinimal k)) 1

/-- Bits of a list of bytes, byte 0 first, most significant bit first. -/
def msbFirst (bs : List Byte) : List Bool := bs.flatMap fun b => (List.range 8).map fun i => b.getLsbD (7 - i)

/-- The remainder of data(x) · x^104 by the generator, as 13 bytes, most significant bit first. -/
def bchRemainder (data : List Byte) : List Byte :=
  beBytes 13 ((msbFirst data).foldl (fun r b =>
    let t := 2 * r
    let fb := r.testBit 103 != b
    ((if fb then t ^^^ bchGen else t) % 2 ^ 104)) 0)

/-- The constant that makes an erased sector a codeword. -/
def bchConst : List Byte := (bchRemainder (List.replicate 512 0xFF)).map (· ^^^ 0xFF)
def bchParity (data : List Byte) : List Byte := xorBytes (bchRemainder data) bchConst

/-- The syndromes of α^1 to α^16 of a received word, by Horner's rule. -/
def bchSyndromes (bits : List Bool) : List Nat :=
  (List.range 16).map fun j =>
    let a := bchPow 2 (j + 1)
    bits.foldl (fun v b => bchMul v a ^^^ b2n b) 0

/-- Berlekamp and Massey: the error locator, constant term first, with its length. -/
structure BchBm where
  c : List Nat
  b : List Nat
  l : Nat
  m : Nat
  d : Nat
def polyXor : List Nat → List Nat → List Nat
  | [], q => q
  | p, [] => p
  | a :: p, b :: q => (a ^^^ b) :: polyXor p q
def bchStep (syn : List Nat) (t : BchBm) (n : Nat) : BchBm :=
  let d := (List.range (t.l + 1)).foldl (fun v i => v ^^^ bchMul (t.c.getD i 0) (syn.getD (n - i) 0)) 0
  if d = 0 then { t with m := t.m + 1 }
  else
    let k := bchMul d (bchPow t.d 8190)
    let c := polyXor t.c (List.replicate t.m 0 ++ t.b.map (bchMul k))
    if 2 * t.l ≤ n then ⟨c, t.c, n + 1 - t.l, 1, d⟩ else { t with c := c, m := t.m + 1 }

/-- Positions of the errors in a word of `n` bits, position 0 the bit of highest degree. -/
def bchRoots (n : Nat) (c : List Nat) : List Nat :=
  (List.range n).filter fun i =>
    let x := bchPow 2 ((8191 - (n - 1 - i)) % 8191)
    c.foldr (fun a v => bchMul v x ^^^ a) 0 = 0

/-- A sector as the engine delivers it: its data and the bits corrected; none when more than 8 bits are wrong. -/
def bchCorrect (data parity : List Byte) : Option (List Byte × Nat) :=
  let bits := msbFirst (data ++ xorBytes parity bchConst)
  let syn := bchSyndromes bits
  if syn.all (· = 0) then some (data, 0)
  else
    let t := (List.range 16).foldl (bchStep syn) ⟨[1], [1], 0, 1, 1⟩
    let at_ := bchRoots bits.length t.c
    if t.l ≤ 8 ∧ at_.length = t.l then
      some (data.zipIdx.map fun p => p.1 ^^^ BitVec.ofNat 8 ((at_.filter fun i => i / 8 = p.2).foldl
        (fun v i => v + 2 ^ (7 - i % 8)) 0), t.l)
    else none

end Sys2Proof.Machine
end

