-- ==== Sys2Proof/Machine/Flash.lean ====
section
/-! DEFINITION. The flash port: transfers through the data FIFO (R429 to R432, R453), error correction (R434 to R436),
bad blocks (R437), and execution in place with its integrity tree (R441 to R445). -/

namespace Sys2Proof.Machine

def State.modFlash (s : State) (g : Flash → Flash) : State := { s with flash := g s.flash }

/-! ## Content of the flash -/

def erased : Nat → Byte := fun _ => 0xFF#8
def State.cell (s : State) (a : Nat) : Byte := smapGet erased s.flash.cells a
def State.cellBytes (s : State) (a n : Nat) : List Byte := (List.range n).map fun i => s.cell (a + i)

/-- A program clears bits; a write of firmware replaces bytes that it has erased. -/
def progCells (m : List (Nat × Byte)) (a : Nat) (bs : List Byte) : List (Nat × Byte) :=
  bs.zipIdx.foldl (fun m p => smapSet erased m (a + p.2) (smapGet erased m (a + p.2) &&& p.1)) m
def State.program (s : State) (a : Nat) (bs : List Byte) : State :=
  s.modFlash fun x => { x with cells := progCells x.cells a bs }
def State.eraseCells (s : State) (a n : Nat) : State :=
  s.modFlash fun x => { x with cells := x.cells.filter fun p => p.1 < a ∨ a + n ≤ p.1 }

/-- The medium is NAND (R454, R471): BOOTCFG bit 0. -/
def State.nand (s : State) : Bool := (memGet s.fuse 56).getLsbD 0

/-- ECC mode (R435), page and block bytes of NAND, and the top of the layout (R439). -/
def State.eccMode (s : State) : Nat := if s.f F.XMP_ECCCFG_MODE = 3 then 0 else s.f F.XMP_ECCCFG_MODE
def State.pageBytes (s : State) : Nat := if s.b F.XMP_ECCCFG_PAGE4K then 4096 else 2048
def State.blockBytes (s : State) : Nat := 64 * s.pageBytes
def State.parBase (s : State) : Nat := s.f F.XMP_ECCCFG_PARBASE * 65536
def State.flashTop (s : State) : Nat := if s.eccMode = 1 then s.parBase else s.flash.part.size

/-! ## Discovery (R433) -/

/-- XMP runs a mode: 1, 2, 4 or 8 lanes in each phase and a clock of at most 200 MHz (R429, R430). -/
def xmodeRuns (m : XMode) : Bool := [m.cmd, m.addr, m.data].all (· ∈ [1, 2, 4, 8]) && 4 ≤ m.mhz && m.mhz ≤ 200

/-- Bits of data that a mode moves in a microsecond. -/
def xmodeSpeed (m : XMode) : Nat := m.data * m.mhz * (if m.ddr then 2 else 1)

/-- The fastest mode of a list that XMP runs; of equals the earlier, and with none the mode of the start. -/
def fastest (ms : List XMode) : XMode :=
  (ms.filter xmodeRuns).foldl (fun b m => if xmodeSpeed b < xmodeSpeed m then m else b) XMode.first

/-- Firmware 4.1 supports the part: a valid signature, and the limits of the table of R433. -/
def partOk (p : FlashPart) : Bool :=
  p.sfdp &&
    if p.nand then
      2 ^ 27 ≤ p.size && p.size ≤ 2 ^ 30 && (p.page = 2048 && p.spare = 64 || p.page = 4096 && p.spare = 128) &&
        p.perBlock = 64 && 60000 ≤ p.endurance && p.corr ≤ 8 && 4 ≤ p.partials
    else 2 ^ 25 ≤ p.size && p.size ≤ 2 ^ 26 && p.erase4k && 100000 ≤ p.endurance && p.suspend

/-- The modes in which XMP reads and programs, with the clock of the reads. -/
def State.xmpModes (s : State) (rd pr : XMode) : State :=
  (s.modFlash fun x => { x with readMode := rd, progMode := pr }).setF F.XMP_CLK_DIV ((1000 + rd.mhz - 1) / rd.mhz)

/-- The mode in which the ROM reads (R454, step 5): the fastest 1-1-4 or 1-4-4 SDR read that SFDP declares, at up to 100 MHz,
and the mode of the start where it declares none. -/
def romMode (p : FlashPart) : XMode :=
  let ms := p.reads.filter fun m => m.cmd = 1 ∧ (m.addr = 1 ∨ m.addr = 4) ∧ m.data = 4 ∧ m.ddr = false
  if p.sfdp then fastest (ms.map fun m => { m with mhz := min m.mhz 100 }) else XMode.first

/-- Firmware reads the SFDP tables in the mode of the start, and switches to the fastest modes that they and XMP support; it
leaves a part that it does not support, or that is not the medium of BOOTCFG, alone (DESIGN CHOICE, log 22). -/
def State.discover (s : State) : State :=
  let p := s.flash.part
  let ok := partOk p && p.nand = s.nand
  let s := if ok ∧ p.nand then s.setF F.XMP_ECCCFG_PAGE4K (b2n (p.page = 4096)) else s
  let rd := if ok then fastest p.reads else XMode.first
  let pr := if ok then fastest p.progs else XMode.first
  (s.modFlash fun x => { x with supported := ok }).xmpModes rd pr

/-! ## ECC of a sector (R434 to R436) -/

/-- Corrected bits of one sector are counted. -/
def State.eccCount (s : State) (bits : Nat) : State :=
  if bits = 0 then s
  else
    let s := (s.sat F.XMP_ECCCNT_CORR bits).flag F.XMP_STAT_ECCC
    s.setF F.XMP_ECCCNT_MAXSEC (max (s.f F.XMP_ECCCNT_MAXSEC) bits)

/-- A sector with more than 8 errors is counted, and the first one recorded. -/
def State.eccUncorrectable (s : State) (sector : Nat) : State :=
  let s := (s.sat F.XMP_ECCCNT_UNCORR 1).flag F.XMP_STAT_ECCU
  if s.b F.XMP_ECCADDR_VALID then s else (s.setF F.XMP_ECCADDR_SECTOR sector).setF F.XMP_ECCADDR_VALID 1

/-- Fetch a sector of 512 bytes with its parity: what XMP delivers. -/
def State.sectorIn (s : State) (sector : Nat) (raw : List Byte) : List Byte × State :=
  match bchCorrect (raw.take 512) ((raw.drop 512).take 13) with
  | some (d, n) => (d, s.eccCount n)
  | none => (raw.take 512, s.eccUncorrectable sector)

/-! ## Transfers (R431, R432) -/

def fifoDepth : Nat := 64
def State.xmpSync (s : State) : State := s.setF F.XMP_LEVEL_WORDS s.flash.fifo.length

/-- The transfer ends, and the chip select is released. -/
def State.xmpEnd (s : State) : State := (s.modFlash fun x => { x with run := none, sel := none }).setF F.XMP_STAT_BUSY 0

/-- What some bytes put on the lanes: most significant bit first, on IO0 alone or with the highest lane most significant (R429;
PRESUMED: the order within a byte is that of JESD251, log 22). -/
def xmpSlots (lanes : Nat) (ddr : Bool) (bs : List Byte) : List XSlot :=
  (laneSets 0 lanes (bs.flatMap fun b => msbBits 8 b.toNat)).map fun p => ⟨ddr, BitVec.ofNat 8 p.1, BitVec.ofNat 8 p.2⟩

/-- The bytes that XMP captures from the lanes of a data phase: on IO1 alone, or on all the lanes. -/
def xmpBytes (lanes : Nat) (inp : List Byte) : List Byte :=
  let bits := inp.flatMap (laneBits 1 lanes)
  (chunks 8 bits.length bits).map fun g => BitVec.ofNat 8 (bitsNat g)

/-- The opcode of a phase, followed by its inverse with CMD2B (R429). -/
def xmpOpcode (two : Bool) (op : Nat) : List Byte := BitVec.ofNat 8 op :: if two then [~~~ BitVec.ofNat 8 op] else []

/-- The command, address and dummy phases under a word of XMP_CMD0 layout (R429, R453). -/
def xmpHead (c0 : Word) (op addrBytes addr dummy : Nat) : List XSlot :=
  xmpSlots (2 ^ wordFld c0 30 29) (c0.getLsbD 28) (xmpOpcode (c0.getLsbD 19) op) ++
    xmpSlots (2 ^ wordFld c0 27 26) (c0.getLsbD 25) (leBytes addrBytes addr).reverse ++ List.replicate dummy ⟨false, 0, 0⟩
def xmpAddrBytes (c0 : Word) : Nat := if wordFld c0 21 20 = 0 then 0 else if wordFld c0 21 20 = 1 then 3 else 4

/-- A chip select falls, and the phases before the data go out. -/
def State.xmpSelect (s : State) (c0 : Word) (op addrBytes addr dummy : Nat) : State :=
  s.modFlash fun x => { x with sel := some (c0.getLsbD 31), bus := xmpHead c0 op addrBytes addr dummy }

/-- The flash reset output is driven low (R429). -/
def State.flashResetLow (s : State) : Bool := s.on 25 && s.b F.XMP_CTRL_FRST

/-- What a program or an erase that the device accepts does to the flash, with the parity of whole sectors (R435).  What the second
flash holds is not the DZ8617's (R433). -/
def State.xmpDevice (s : State) (r : XmpRun) : State :=
  if r.second then s else
  let s := match r.progAt with
    | none => s
    | some a =>
      let s := s.program a r.got
      if r.ecc then
        s.forEach (List.range (r.got.length / 512)) fun s i =>
          let par := bchParity ((r.got.drop (512 * i)).take 512)
          let n := a / 512 + i
          if s.eccMode = 1 then s.program (s.parBase + 16 * n) par
          else if s.eccMode = 2 then
            let k := s.pageBytes / 512
            s.modFlash fun x => { x with spare := progCells x.spare (128 * (n / k) + 8 + 13 * (n % k)) par }
          else s
      else s
  match r.eraseAt with
  | none => s
  | some (a, n) =>
    let p := s.pageBytes
    (s.eraseCells a n).modFlash fun x => { x with spare := x.spare.filter fun c => c.1 / 128 * p < a ∨ a + n ≤ c.1 / 128 * p }

/-- The data phase is over: polling, whose status reads send address bytes of 0 (R453), or the end. -/
def State.xmpDataDone (s : State) (r : XmpRun) : State :=
  let s := if r.write then s.xmpDevice r else s
  if s.b F.XMP_CMD1_WAITRDY then
    let c0 := s.reg R.XMP_CMD0
    (s.modFlash fun x => { x with run := some { r with polling := true, left := 0 } }).xmpSelect c0
      (s.f F.XMP_POLL_OPCODE) (xmpAddrBytes c0) 0 (s.f F.XMP_POLL_DUMMY)
  else s.xmpEnd.flag F.XMP_STAT_DONE

/-- XMP fetches what the next word needs: bytes as they come, or whole sectors. A line that no device drives reads 1, by
its pull (R515). -/
def State.xmpFetch (s : State) (r : XmpRun) : XmpRun × State :=
  if min 4 r.left ≤ r.rx.length then (r, s)
  else if r.ecc then
    let (d, s) := s.sectorIn r.sector (r.raw ++ List.replicate (525 - r.raw.length) 0xFF)
    ({ r with rx := r.rx ++ d, raw := r.raw.drop 525, sector := r.sector + 1 }, s)
  else ({ r with rx := r.rx ++ r.raw ++ List.replicate (r.left - r.rx.length - r.raw.length) 0xFF, raw := [] }, s)

/-- The FIFO word of a final partial word: the bytes beyond the data are open (log 6). -/
def State.tailWord (s : State) (bs : List Byte) : Word × State :=
  if bs.length = 4 then (BitVec.ofNat 32 (leNat bs), s)
  else
    let (v, s) := s.free
    (BitVec.ofNat 32 (leNat bs + 256 ^ bs.length * v), s)

/-- The transfer moves words while the FIFO can supply or take them; otherwise the clock is held (R431). -/
def State.xmpMove : Nat → State → State
  | 0, s => s
  | fuel + 1, s =>
    match s.flash.run with
    | none => s
    | some r =>
      if r.polling then s
      else if r.left = 0 then s.xmpDataDone r
      else if r.write then
        match s.flash.fifo with
        | [] => s
        | w :: rest =>
          let bs := (leBytes 4 w.toNat).take r.left
          State.xmpMove fuel (s.modFlash fun x => { x with
            fifo := rest, run := some { r with got := r.got ++ bs, left := r.left - bs.length }
            bus := x.bus ++ xmpSlots r.lanes r.ddr bs })
      else if fifoDepth ≤ s.flash.fifo.length then s
      else
        let (r, s) := s.xmpFetch r
        let bs := r.rx.take (min 4 r.left)
        let (w, s) := s.tailWord bs
        State.xmpMove fuel (s.modFlash fun x => { x with
          fifo := x.fifo ++ [w], run := some { r with rx := r.rx.drop bs.length, left := r.left - bs.length } })
def State.xmpPump (s : State) : State := (State.xmpMove (fifoDepth + 2) s).xmpSync

/-- GO (R431, R436). -/
def State.xmpGo (s : State) (dev : FlashDev) : State :=
  let len := s.f F.XMP_CMD1_LEN
  let ecc := s.b F.XMP_CMD1_ECC
  let addr := s.f F.XMP_ADDR_ADDR
  if s.b F.XMP_CTRL_EN = false ∨ s.b F.XMP_STAT_BUSY then s
  else if ecc && (addr % 512 != 0 || len % 512 != 0) then s.flag F.XMP_STAT_CMDERR
  else
    let c0 := s.reg R.XMP_CMD0
    let lanes := 2 ^ wordFld c0 24 23
    let run : XmpRun := ⟨s.b F.XMP_CMD1_DIR, ecc && s.eccMode != 0, len, addr / 512, xmpBytes lanes dev.rx, [], [], dev.progAt,
      dev.eraseAt, false, c0.getLsbD 31, lanes, c0.getLsbD 22⟩
    (((s.modFlash fun x => { x with run := some run }).xmpSelect c0 (wordFld c0 7 0) (xmpAddrBytes c0) addr
      (s.f F.XMP_CMD1_DUMMY)).setF F.XMP_STAT_BUSY 1).xmpPump

/-- XMP_TRANSFER (R431): a write of XMP_CMD1. -/
def execXmpTransfer (data : Word) (dev : FlashDev) (s : State) : Res State :=
  if s.on 25 = false then .next s.busErr
  else writeTo R.XMP_CMD1 data <|
    let s := s.setReg R.XMP_CMD1 (data &&& 0x7FFFFFFF)
    if data.msb then s.xmpGo dev else s

/-- Reads and writes of XMP_DATA.  The read of an empty FIFO gives an open word; a write to a full one is lost. -/
def State.xmpTake (s : State) : State :=
  match s.flash.fifo with
  | w :: rest => ((s.modFlash fun x => { x with fifo := rest }).ret w).xmpPump
  | [] =>
    let (v, s) := s.free
    s.ret (BitVec.ofNat 32 v)
def State.xmpPut (s : State) (data : Word) : State :=
  if fifoDepth ≤ s.flash.fifo.length then s
  else (s.modFlash fun x => { x with fifo := x.fifo ++ [data] }).xmpPump

/-- XMP_POLL_TIMEOUT (R431). -/
def execXmpPollTimeout (s : State) : Res State :=
  .next <|
    match s.flash.run with
    | some r => if r.polling then s.xmpEnd.flag F.XMP_STAT_TIMEOUT else s
    | none => s

/-- Bytes of a page, whose content is undefined after a program cut short (R432), take open values. -/
def State.scramble (s : State) (a n : Nat) : State :=
  s.forEach (List.range n) fun s i =>
    let (v, s) := s.free
    s.modFlash fun x => { x with cells := smapSet erased x.cells (a + i) (BitVec.ofNat 8 v) }

/-- The abort of a transfer (R432). -/
def State.xmpAbort (s : State) : State :=
  match s.flash.run with
  | none => s
  | some r =>
    let s := match r.progAt with
      | some a =>
        if r.write && !r.polling && !r.got.isEmpty && !r.second then
          let p := if s.nand then s.pageBytes else 256
          s.scramble (a / p * p) p
        else s
      | none => s
    s.xmpEnd.flag F.XMP_STAT_ABORTED

/-- XMP_ABORT (R432). -/
def execXmpAbort (s : State) : Res State := .next (if s.on 25 then s.xmpAbort else s.busErr)

/-- XMP_ECCCNT_READ (R453, R8): what hardware counts in the cycle of the read stays, in all three fields. -/
def State.ecccntTake (s : State) (hwCorr hwUncorr hwMaxsec : Nat) : State :=
  let s := (s.ret (s.reg R.XMP_ECCCNT)).setReg R.XMP_ECCCNT 0
  let s := if hwCorr = 0 then s else (s.sat F.XMP_ECCCNT_CORR hwCorr).flag F.XMP_STAT_ECCC
  let s := if hwUncorr = 0 then s else (s.sat F.XMP_ECCCNT_UNCORR hwUncorr).flag F.XMP_STAT_ECCU
  s.setF F.XMP_ECCCNT_MAXSEC (min hwMaxsec 8)
def execXmpEcccntRead (_ : Initiator) (hwCorr hwUncorr hwMaxsec : Nat) (s : State) : Res State :=
  .next (if s.on 25 then s.ecccntTake hwCorr hwUncorr hwMaxsec else s.busErr)

/-! ## The layout and the slot table (R437 to R440) -/

/-- An image slot holds 8 MiB. -/
def slotBytes : Nat := 0x800000

/-- A copy of the slot table holds: MAGIC, FMTVER and CRC. -/
def tableOk (t : List Byte) : Bool :=
  t.take 4 == [0x44, 0x5A, 0x53, 0x54] && leNat ((t.drop 4).take 2) == 1 && leNat (t.drop 4092) == crc32 (t.take 4092)

/-- The copy with the higher SEQ, of two fixed places on NOR, of the blocks of the first 1 MiB on NAND (R440, R457). -/
def State.slotTable (s : State) : Option (List Byte) :=
  let places := if s.nand then (List.range (0x100000 / s.blockBytes)).map (· * s.blockBytes) else [0, 0x80000]
  let sq := fun (t : List Byte) => leNat ((t.drop 8).take 4)
  ((places.map (s.cellBytes · 4096)).filter tableOk).foldl (fun acc t => match acc with
    | none => some t
    | some u => if sq u < sq t then some t else some u) none

/-- Regions of the layout in its order: 0 slot table, 1 and 2 the slots, 3 journal, 4 libraries, 5 image store (R439). -/
def State.regionBase (s : State) (r : Nat) : Nat :=
  [0, 0x100000, 0x900000, 0x1100000, 0x1200000, s.flashTop - 0x800000].getD r 0

/-- The blocks of a region's physical range that the bad-block table does not mark (R438). -/
def State.goodBlocks (s : State) (r : Nat) : List Nat :=
  match s.nand, s.slotTable with
  | true, some t =>
    let u16 := fun (o : Nat) => leNat ((t.drop o).take 2)
    ((List.range (u16 (26 + 4 * r))).map (u16 (24 + 4 * r) + ·)).filter fun b =>
      (t.getD (48 + b / 4) 0).toNat / 4 ^ (b % 4) % 4 = 3 ∧ b ∉ s.flash.factory ∧ b ∉ s.flash.grown
  | _, _ => []

/-- The flash address of an offset in a region, whose good blocks are given. -/
def State.physAt (s : State) (r : Nat) (good : List Nat) (off : Nat) : Nat :=
  if s.nand then good.getD (off / s.blockBytes) 0 * s.blockBytes + off % s.blockBytes else s.regionBase r + off

/-- Bytes of a region, and bytes that firmware programs there. -/
def State.regionRead (s : State) (r off n : Nat) : List Byte :=
  let g := s.goodBlocks r
  (List.range n).map fun i => s.cell (s.physAt r g (off + i))
def State.regionWrite (s : State) (r off : Nat) (bs : List Byte) : State :=
  let g := s.goodBlocks r
  s.modFlash fun x => { x with cells := bs.zipIdx.foldl (fun m p =>
    let a := s.physAt r g (off + p.2)
    smapSet erased m a (smapGet erased m a &&& p.1)) x.cells }

/-- A whole region of image slot size is erased: on NAND, the good blocks that it has. -/
def State.regionErase (s : State) (r : Nat) : State :=
  if s.nand then
    s.forEach ((s.goodBlocks r).take (slotBytes / s.blockBytes)) fun s b => s.eraseCells (b * s.blockBytes) s.blockBytes
  else s.eraseCells (s.regionBase r) slotBytes

/-! ## NAND bad blocks (R437, R438) -/

/-- The logical bytes of a region on NAND, its libraries apart (R439). -/
def regionBytes (r : Nat) : Nat := if r = 0 ∨ r = 3 then 0x100000 else slotBytes

/-- A region of NAND whose good blocks no longer cover its logical size: every later write fails with STORAGE (R438). -/
def State.regionShort (s : State) (r : Nat) : Bool :=
  s.nand && decide ((s.goodBlocks r).length * s.blockBytes < regionBytes r)

/-- The region whose physical range holds a block, by the slot table. -/
def State.regionOf (s : State) (b : Nat) : Option Nat :=
  match s.slotTable with
  | some t =>
    let u16 := fun (o : Nat) => leNat ((t.drop o).take 2)
    (List.range 6).find? fun r => u16 (24 + 4 * r) ≤ b && b < u16 (24 + 4 * r) + u16 (26 + 4 * r)
  | none => none

/-- A slot table with its CRC (R440). -/
def sealTable (t : List Byte) : List Byte := t.take 4092 ++ leBytes 4 (crc32 (t.take 4092))

/-- Firmware writes a changed slot table to both copies, its SEQ one higher: copy 1 lies 512 KiB after copy 0 (R439, R440). -/
def State.writeTable (s : State) (good : List Nat) (t : List Byte) : State :=
  let seq := (leNat ((t.drop 8).take 4) + 1) % 2 ^ 32
  let t := sealTable (t.take 8 ++ leBytes 4 seq ++ t.drop 12)
  s.forEach [0, 0x80000] fun s off =>
    let a := s.physAt 0 good off
    (s.eraseCells a s.blockBytes).program a t

/-- The block's entry in the bad-block table becomes 0b00, grown bad (R437). -/
def markBad (t : List Byte) (b : Nat) : List Byte :=
  let v := (t.getD (48 + b / 4) 0).toNat
  let k := 4 ^ (b % 4)
  t.take (48 + b / 4) ++ [BitVec.ofNat 8 (v - v / k % 4 * k)] ++ t.drop (49 + b / 4)

/-- What stood in the good blocks `old` of a region stands in the blocks `new` that now take their places (R438). -/
def State.moveRegion (s : State) (old new : List Nat) : State :=
  let move := fun (n a : Nat) => match old.findIdx? (· = a / n) with
    | some i => (new[i]?).map fun b => b * n + a % n
    | none => some a
  let go := fun (n : Nat) (m : List (Nat × Byte)) => m.foldl (fun m p => match move n p.1 with
    | some a => smapSet erased m a p.2
    | none => m) []
  s.modFlash fun x => { x with cells := go s.blockBytes x.cells, spare := go (128 * 64) x.spare }

/-- A block of NAND whose erase or program fails has grown bad (R437, R438): firmware rewrites its region from that block onward,
and marks the block in both copies of the table. -/
def State.growBad (s : State) (b : Nat) : State :=
  let grown := fun (s : State) => s.modFlash fun x => { x with grown := addNat x.grown b }
  match s.slotTable, s.regionOf b with
  | some t, some r =>
    let old := s.goodBlocks r
    let new := (grown s).goodBlocks r
    let s := (grown s).moveRegion old new
    s.writeTable (s.goodBlocks 0) (markBad t b)
  | _, _ => grown s

/-- The block that a failed operation of a run was for. -/
def State.failedBlock (s : State) (r : XmpRun) : Option Nat :=
  (r.progAt.orElse fun _ => r.eraseAt.map (·.1)).map (· / s.blockBytes)

/-- The busy bit of a status byte says that the flash is busy (R431). -/
def State.pollBusy (s : State) (status : Byte) : Bool := status.getLsbD (s.f F.XMP_POLL_BIT) == s.b F.XMP_POLL_BUSYPOL

/-- XMP_POLL_DONE (R431, R437): a poll of a flash that is still busy is made again. -/
def execXmpPollDone (status : Byte) (failed : Bool) (s : State) : Res State :=
  .next <|
    match s.flash.run with
    | some r =>
      if r.polling ∧ s.pollBusy status = false then
        let s := match failed && s.nand && !r.second, s.failedBlock r with
          | true, some b => s.growBad b
          | _, _ => s
        s.xmpEnd.flag F.XMP_STAT_DONE
      else s
    | none => s

/-- Physical ranges of the six regions, first block and number of blocks: a region takes its logical size and a spare part of
max(4, ceil(size / 32)) blocks (R438).  DESIGN CHOICE (log 22): they follow each other from block 0, but the image store ends the
device and the libraries take what is left. -/
def State.nandRanges (s : State) : List (Nat × Nat) :=
  let total := s.flash.part.size / s.blockBytes
  let n := fun (bytes : Nat) => let k := bytes / s.blockBytes; k + max 4 ((k + 31) / 32)
  let a := n 0x100000
  let b := n slotBytes
  let lib := 2 * a + 2 * b
  [(0, a), (a, b), (a + b, b), (a + 2 * b, a), (lib, total - b - lib), (total - b, b)]

/-- A block that carries a factory marker: byte 0 of the spare of its first page (R437). -/
def State.factoryBad (s : State) (b : Nat) : Bool :=
  b ∈ s.flash.factory || smapGet erased s.flash.spare (128 * 64 * b) != 0xFF

/-- The slot table of a NAND flash that has none yet (R437, R440). -/
def State.newTable (s : State) : List Byte :=
  let code := fun (i : Nat) => ((List.range 4).map fun k => (if s.factoryBad (4 * i + k) then 1 else 3) * 4 ^ k).sum
  [0x44#8, 0x5A, 0x53, 0x54] ++ leBytes 2 1 ++ [2, 0] ++ leBytes 4 0 ++ leBytes 4 (s.flash.part.size / 65536) ++
    leBytes 4 s.pageBytes ++ leBytes 4 s.blockBytes ++ s.nandRanges.flatMap (fun r => leBytes 2 r.1 ++ leBytes 2 r.2) ++
    (List.range 2048).map (fun i => BitVec.ofNat 8 (code i)) ++ List.replicate 2000 0

/-- At the first start of a NAND flash that it supports, firmware builds the table from the factory markers before it writes
anything else (R437). -/
def State.firstTable (s : State) : State :=
  if s.nand ∧ s.flash.supported ∧ s.slotTable = none then
    let bad := (List.range (s.nandRanges.headD (0, 0)).2).filter s.factoryBad
    let good := (List.range (s.nandRanges.headD (0, 0)).2).filter fun b => b ∉ bad
    s.writeTable good s.newTable
  else s

/-! ## Execute in place (R441 to R445) -/

def State.xipBase (s : State) (r : Nat) : Nat := s.f (F.XIP_BASE_OFFSET r)
def State.xipSize (s : State) (r : Nat) : Nat := s.f (F.XIP_SIZE_BYTES r)
def State.xipTree (s : State) (r : Nat) : Nat := s.f (F.XIP_TREE_OFFSET r)

/-- Nodes of the levels of a tree over `n` entries, from level 1 up (R443). -/
def treeLevels : Nat → Nat → List Nat
  | 0, _ => []
  | fuel + 1, n => let k := (n + 15) / 16; if k ≤ 1 then [k] else k :: treeLevels fuel k
def State.treeBytes (s : State) (r : Nat) : Nat := 256 * (treeLevels 8 (s.xipSize r / 256)).sum

/-- Two spans of bytes overlap. -/
def overlap (a n b m : Nat) : Bool := a < b + m && b < a + n

/-- XIPEN is refused (R441). -/
def State.xipRefused (s : State) : Bool :=
  let rs := (List.range 4).filter fun r => s.b (F.XIP_BASE_VALID r)
  let lib (a n : Nat) := 0x1200000 ≤ a && a + n + 0x800000 ≤ s.flashTop
  rs.any fun r =>
    !(lib (s.xipBase r) (s.xipSize r) && lib (s.xipTree r) (s.treeBytes r)) ||
    rs.any fun q =>
      (q != r && overlap (s.xipBase r) (s.xipSize r) (s.xipBase q) (s.xipSize q)) ||
      overlap (s.xipTree r) (s.treeBytes r) (s.xipBase q) (s.xipSize q)

/-- The window is served while XMP runs and XIPEN is 1. -/
def State.xipSync (s : State) : State := s.setF F.XMP_STAT_XIPACT (b2n (s.b F.XMP_CTRL_EN && s.b F.XMP_CTRL_XIPEN))

/-- The verified-chunk cache is emptied (R444). -/
def State.xipFlush (s : State) : State := s.modFlash fun x => { x with cache := [] }

/-- XIPEN is set (R441) or cleared (R444). -/
def State.xipEnable (s : State) : State :=
  if s.b F.XMP_CTRL_XIPEN then s
  else if s.xipRefused then s.flag F.XMP_STAT_XIPERR
  else (s.setF F.XMP_CTRL_XIPEN 1).xipSync
def State.xipDisable (s : State) : State := (s.setF F.XMP_CTRL_XIPEN 0).xipFlush.xipSync

/-- Region r takes what the manifest gives it (R441). -/
def State.xipRegion (s : State) (r : Nat) (x : XipRegion) : State :=
  let s := ((s.setF (F.XIP_BASE_OFFSET r) x.base).setF (F.XIP_BASE_VALID r) 1).setF (F.XIP_SIZE_BYTES r) x.size
  let s := (s.setF (F.XIP_TREE_OFFSET r) x.tree).setF (F.XIP_VER_VER r) x.ver
  s.forEach (List.range 4) fun s k => s.setReg (R.XIP_ROOT r k) (x.root.getD k 0)

/-- Firmware enables XIP, with suspension, where a region is configured, and only on a NOR that it supports (R441, R445). -/
def State.xipOn (s : State) : State :=
  if (List.range 4).any (fun r => s.b (F.XIP_BASE_VALID r)) && s.b F.XMP_CTRL_XIPLOCK && s.flash.supported && !s.nand
  then (s.setF F.XMP_SUSP_EN 1).xipEnable else s

/-- Firmware configures the regions of its manifest, locks them, and enables XIP (R441, R465). -/
def State.xipSetup (s : State) (rs : List XipRegion) : State :=
  if s.b F.XMP_CTRL_XIPLOCK then s
  else
    let s := (rs.take 4).zipIdx.foldl (fun s p => s.xipRegion p.2 p.1) s
    (s.setF F.XMP_CTRL_XIPLOCK 1).xipOn

/-- XIP_ENABLE (R441). -/
def execXipEnable (s : State) : Res State := .next (if s.on 25 then s.xipEnable else s.busErr)

/-- XIP_LOCK (R441). -/
def execXipLock (s : State) : Res State := .next (if s.on 25 then s.setF F.XMP_CTRL_XIPLOCK 1 else s.busErr)

/-- XIP_CACHE_INVALIDATE (R444). -/
def execXipCacheInvalidate (s : State) : Res State := .next (if s.on 25 then s.xipFlush else s.busErr)

/-- The 256 flash bytes at an offset, through the ECC engine when MODE is 1 (R436), read with the XIPCMD templates (R444).  What the
second flash holds is open (R433, log 6). -/
def State.xipFetch (s : State) (a : Nat) : List Byte × State :=
  let c0 := s.reg R.XMP_XIPCMD0
  let s := s.modFlash fun x => { x with
    bus := x.bus ++ xmpHead c0 (wordFld c0 7 0) (xmpAddrBytes c0) a (s.f F.XMP_XIPCMD1_DUMMY) }
  if c0.getLsbD 31 then
    let (v, s) := s.free
    (leBytes 256 v, s)
  else if s.eccMode = 1 then
    let n := a / 512
    let (d, s) := s.sectorIn n (s.cellBytes (512 * n) 512 ++ s.cellBytes (s.parBase + 16 * n) 13)
    ((d.drop (a % 512)).take 256, s)
  else (s.cellBytes a 256, s)

/-- The first 16 bytes of SHA-256 (R443). -/
def hash16 (bs : List Byte) : List Byte := (sha256 bs).take 16
def leafHash (ver off : Nat) (chunk : List Byte) : List Byte := hash16 (leBytes 4 ver ++ [0] ++ leBytes 4 off ++ chunk)
def nodeHash (ver level j : Nat) (node : List Byte) : List Byte :=
  hash16 (leBytes 4 ver ++ leBytes 1 level ++ leBytes 4 j ++ node)

def State.xipRoot (s : State) (r : Nat) : List Byte :=
  (List.range 4).flatMap fun k => leBytes 4 (s.f (F.XIP_ROOT_ROOT r k))

/-- The climb (R444 step 3): hash h is entry j of the level below; this level has n nodes from `at_` on.  It answers
whether every comparison matches, and the nodes used: those read, and the cached one that it stops at. -/
def State.xipClimb (r : Nat) : Nat → State → List Byte → Nat → Nat → Nat → Nat → List (Nat × List Byte) →
    Bool × List (Nat × List Byte) × State
  | 0, s, _, _, _, _, _, nodes => (false, nodes, s)
  | fuel + 1, s, h, level, j, n, at_, nodes =>
    let a := at_ + 256 * (j / 16)
    let entry (node : List Byte) := (node.drop (16 * (j % 16))).take 16
    match listed s.flash.cache a with
    | some node => (entry node == h, (a, node) :: nodes, s)
    | none =>
      let (node, s) := s.xipFetch a
      let up := nodeHash (s.f (F.XIP_VER_VER r)) level (j / 16) node
      let nodes := (a, node) :: nodes
      if entry node != h then (false, nodes, s)
      else if n ≤ 1 then (up == s.xipRoot r, nodes, s)
      else State.xipClimb r fuel s up (level + 1) (j / 16) ((n + 15) / 16) (at_ + 256 * n) nodes

/-- The XIP key, from its fuse words (R442, R471). -/
def State.xipKey (s : State) : List Byte := (List.range 8).flatMap fun i => leBytes 4 (memGet s.fuse (46 + i)).toNat

/-- A line becomes the most recently used; the least recently used line beyond 256 leaves. -/
def cachePut (c : List (Nat × List Byte)) (l : Nat × List Byte) : List (Nat × List Byte) :=
  (l :: c.filter (·.1 ≠ l.1)).take 256

/-- A mismatch (R444 step 5): firmware records it and resets the device with cause 7. -/
def State.xipFail (s : State) (off : Nat) : State :=
  let s := s.busErr.flag F.XMP_STAT_INTEG
  let s := if s.b F.XMP_XIPFAIL_VALID then s else (s.setF F.XMP_XIPFAIL_OFFSET off).setF F.XMP_XIPFAIL_VALID 1
  { s with journal := { s.journal with wait := s.journal.wait ++ [JRec.integrity off] } }.requestReset 7

/-- XMP polls after a program or an erase and may suspend it for a fetch (R445). -/
def State.xipSuspends (s : State) : Bool := s.b F.XMP_SUSP_EN && s.flash.run.any (·.polling)

/-- A command of one opcode goes out under XMP_CMD0. -/
def State.xmpSendOp (s : State) (op : Nat) : State :=
  s.modFlash fun x => { x with bus := x.bus ++ xmpHead (s.reg R.XMP_CMD0) op 0 0 0 }

/-- The fetches begin: on a bus of their own, or after the suspension of the operation that is polled (R445). -/
def State.xipBegin (s : State) : State :=
  if s.xipSuspends then s.xmpSendOp (s.f F.XMP_SUSP_SUSPOP)
  else if s.flash.run.isSome then s
  else s.modFlash fun x => { x with bus := [] }

/-- The waiting fetches are served, and the operation resumes (R445). -/
def State.xipEnd (s : State) : State := if s.xipSuspends then s.xmpSendOp (s.f F.XMP_SUSP_RESOP) else s

/-- The verified plaintext chunk at a chunk offset of region r: from the cache, or fetched and checked (R444). -/
def State.xipChunk (s : State) (r off : Nat) : Option (List Byte) × State :=
  match listed s.flash.cache off with
  | some c => (some c, s.modFlash fun x => { x with cache := cachePut x.cache (off, c) })
  | none =>
    let rel := off - s.xipBase r
    let (c, s) := s.xipBegin.xipFetch off
    let ver := s.f (F.XIP_VER_VER r)
    let (ok, nodes, s) := State.xipClimb r 8 s (leafHash ver rel c) 1 (rel / 256) ((s.xipSize r / 256 + 15) / 16)
      (s.xipTree r) []
    let s := s.xipEnd
    if ok then
      let p := xipDecrypt s.xipKey ver off c
      (some p, s.modFlash fun x => { x with cache := cachePut (nodes.reverse.foldl cachePut x.cache) (off, p) })
    else (none, s.xipFail off)

/-- A window read (R444): a bus error outside the configured regions, beyond the attached NOR flash or without one (R26), or of
a wrong width or alignment (R18). -/
def State.xipRead (s : State) (off width : Nat) : State :=
  match (List.range 4).find? fun r =>
      s.b (F.XIP_BASE_VALID r) && s.xipBase r ≤ off && off + width ≤ s.xipBase r + s.xipSize r with
  | some r =>
    if s.on 25 && s.b F.XMP_STAT_XIPACT && !s.nand && !s.flash.part.nand && off + width ≤ s.flash.part.size && (width == 1 || width == 2 || width == 4) && off % width == 0 then
      match s.xipChunk r (off / 256 * 256) with
      | (some c, s) => s.ret (BitVec.ofNat 32 (leNat ((c.drop (off % 256)).take width)))
      | (none, s) => s
    else s.busErr
  | none => s.busErr

end Sys2Proof.Machine
end

