-- ==== Sys2Proof/Machine/Journal.lean ====
section
/-! DEFINITION. The settings journal (R446 to R449), the image store (R440) and retention (R450, R451), as firmware keeps
them.  The journal's frames stand in the state as records; the manual leaves the sealed format open (R466, log 22). -/

namespace Sys2Proof.Machine

def State.modJ (s : State) (g : Journal → Journal) : State := { s with journal := g s.journal }

/-! ## Records -/

/-- Bytes of a record, laid out as a BCP item (R446, R376). -/
def recBytes : JRec → Nat
  | .param _ v => 8 + (v.length + 3) / 4 * 4
  | .remove _ => 8
  | .image _ d => 12 + d.length
  | .cullet _ _ => 8
  | .fmax _ _ => 8
  | .reserve _ => 8
  | .log _ => 28
  | .region _ _ _ => 16
  | .integrity _ => 12

/-- The item that a record gives a value to: the latest record of an item stands (R447). -/
def recKey : JRec → Nat × Nat
  | .param p _ => (0, p)
  | .remove p => (0, p)
  | .image l _ => (1, l)
  | .cullet e _ => (2, e)
  | .fmax i _ => (3, i)
  | .reserve _ => (4, 0)
  | .log e => (5, e.num)
  | .region r _ _ => (6, r)
  | .integrity _ => (7, 0)

/-- Settings records: those whose values firmware seals, and that JCLEAR voids (R387, R466). -/
def recSettings : JRec → Bool
  | .param _ _ | .remove _ | .image _ _ | .log _ => true
  | _ => false

/-- The latest record of every item, in order. -/
def liveRecs (l : List (Nat × JRec)) : List (Nat × JRec) :=
  l.foldl (fun acc r => acc.filter (fun q => recKey q.2 ≠ recKey r.2) ++ [r]) []

/-- Live bytes of records (R449). -/
def recsBytes (l : List (Nat × JRec)) : Nat := (l.map fun r => recBytes r.2).sum

/-- The records of the frames that stand: all, or the committed ones (R447). -/
def Journal.recs (j : Journal) : List (Nat × JRec) := j.frames.flatMap (·.recs)
def Journal.committed (j : Journal) : List (Nat × JRec) := (j.frames.filter (·.stamped)).flatMap (·.recs)

/-- The latest value of an item. -/
def Journal.find (j : Journal) (k : Nat × Nat) : Option JRec :=
  ((j.recs.reverse.find? fun r => recKey r.2 = k).map (·.2))

/-- The SVN of the running firmware, from BOOTINFO (R454, R466). -/
def State.svn (s : State) : Nat := wordFld (s.reg (R.AON_RET 3)) 23 16

/-! ## The ring of erase units (R446, R449) -/

/-- Units of the ring, sectors of a unit after its header, and the free units below which firmware reclaims. -/
def State.jUnits (s : State) : Nat := if s.nand then 0x100000 / s.blockBytes else 256
def State.jCap (s : State) : Nat := if s.nand then s.blockBytes / 512 - 1 else 7
def State.jReserve (s : State) : Nat := if s.nand then 2 else 16
def State.jFree (s : State) : Nat := s.jUnits - (s.journal.head + 1 - s.journal.tail)

/-- One more sector, in the newest unit or the next one. -/
def State.jSector (s : State) : State :=
  s.modJ fun j => if j.used < s.jCap then { j with used := j.used + 1 } else { j with head := j.head + 1, used := 1 }

/-- Sectors of a frame: its header of 32 bytes, its records and its CRC. -/
def frameSectors (recs : List (Nat × JRec)) : Nat := (32 + recsBytes recs + 4 + 511) / 512

/-- A frame is programmed; its header stamps the frame before it (R447). -/
def State.jProgram (s : State) (recs : List (Nat × JRec)) (stamped : Bool) : State :=
  let n := frameSectors recs
  let start := if s.journal.used < s.jCap then s.journal.head else s.journal.head + 1
  let s1 := s.forEach (List.range n) fun s _ => s.jSector
  s1.modJ fun j => { j with
    frames := (j.frames.map fun f => { f with stamped := true }) ++ [⟨j.seq + 1, recs, start, n, s.now / 128000000000, stamped⟩]
    seq := j.seq + 1 }

/-- Reclaim of the oldest unit (R449): its live records go forward in a stamped frame, then the unit is erased. -/
def State.jReclaim (s : State) : State :=
  let t := s.journal.tail
  let all := liveRecs s.journal.recs
  let mine := (s.journal.frames.filter fun f => f.unit = t).flatMap (·.recs)
  let live := mine.filter fun r => r ∈ all
  let s := if live = [] then s else (s.jProgram live false).jProgram [] true
  s.modJ fun j => { j with
    frames := j.frames.filter fun f => f.unit ≠ t
    tail := t + 1
    erases := smapIns j.erases (t % s.jUnits) ((listed j.erases (t % s.jUnits)).getD 0 + 1) }
def State.jMakeRoom : Nat → State → State
  | 0, s => s
  | fuel + 1, s => if s.jFree < s.jReserve ∧ s.journal.tail < s.journal.head then State.jMakeRoom fuel s.jReclaim else s

/-! ## Writing (R447, R448) -/

/-- What the journal holds of the device itself: the cullet, FMAX and the pending records; only what has changed. -/
def State.jChanges (s : State) : List JRec :=
  let cul := (List.range 17).filterMap fun e =>
    let c := if (s.eng e).role = .cullet then (s.eng e).cause else 0
    let old := match s.journal.find (2, e) with
      | some (.cullet _ c) => c
      | _ => 0
    if c = old then none else some (JRec.cullet e c)
  let fm := (List.range 17).filterMap fun i =>
    let v := (s.reg (R.AGE_FMAX i)).toNat
    let old := match s.journal.find (3, i) with
      | some (.fmax _ v) => v
      | _ => (regReset (R.AGE_FMAX i)).toNat
    if v = old then none else some (JRec.fmax i v)
  cul ++ fm

/-- Firmware writes the frame that is due: the records gathered and what has changed.  It writes nothing to a flash that it does
not support (R433, log 22). -/
def State.jWrite (s : State) : State :=
  let recs := (s.journal.wait ++ s.jChanges).map fun r => (s.svn, r)
  if recs = [] ∨ s.flash.supported = false then s
  else
    let s := (State.jMakeRoom s.jUnits s).jProgram recs false
    s.modJ fun j => { j with wait := [], report := true }

/-- A frame that holds only a STAMP record names the latest frame. -/
def State.jStamp (s : State) : State :=
  if s.journal.frames.any fun f => !f.stamped then s.jProgram [] true else s

/-- JOURNAL_FRAME_WRITE (R448). -/
def execJournalFrameWrite (s : State) : Res State := .next s.jWrite

/-- JOURNAL_STAMP (R447). -/
def execJournalStamp (s : State) : Res State := .next s.jStamp

/-- JOURNAL_WRITE_DONE (R448): the frame and its stamp are written, or the flash failed, or the region has run out of good blocks
(R438). -/
def execJournalWriteDone (ok : Bool) (s : State) : Res State :=
  .next <|
    if s.journal.report = false ∧ s.journal.sync = false ∧ s.journal.clearing = false then s
    else if ok ∧ s.regionShort 3 = false then
      if s.journal.frames.any fun f => !f.stamped then s
      else (s.modJ fun j => { j with sync := false, clearing := false, report := false }).raise 0x701 (leBytes 4 0)
    else
      let lost := (s.journal.frames.filter fun f => !f.stamped).flatMap (·.recs)
      (s.modJ fun j => { j with
        frames := j.frames.filter (·.stamped), wait := lost.map (·.2) ++ j.wait
        sync := false, clearing := false, report := false }).raise 0x701 (leBytes 4 11)

/-- JCLEAR voids the settings records (R387). -/
def State.jClear (s : State) : State :=
  s.modJ fun j => { j with
    frames := j.frames.map fun f => { f with recs := f.recs.filter fun r => !recSettings r.2 }
    wait := j.wait.filter fun r => !recSettings r }

/-- DIGEST of an image (R163). -/
def imgDigest (f : List Byte) : List Byte := (f.drop 32).take 32

/-- Bytes that images take in the store, each after its header (R440). -/
def storeBytes (l : List (List Byte)) : Nat := (l.map fun f => 64 + f.length).sum

/-- A stamped frame, or a record that is still gathered, refers to an image. -/
def Journal.refers (j : Journal) (file : List Byte) : Bool :=
  (j.committed.map (·.2) ++ j.wait).any fun
    | .image _ d => d == imgDigest file
    | _ => false

/-- Images that a persistent commit installs are kept in the image store, one copy each; where the room of the store runs out,
those that nothing refers to are erased first (R439, R440). -/
def State.storeImage (s : State) (file : List Byte) : State :=
  if file = [] ∨ file ∈ s.flash.store then s
  else
    let old := s.flash.store
    let old := if slotBytes < storeBytes (file :: old) then old.filter s.journal.refers else old
    s.modFlash fun x => { x with store := old ++ [file] }

/-- The records of a persistent epoch's items (R446); a tier that the lehr sets is no setting. -/
def itemRecs (items : List Item) : List JRec :=
  items.filterMap fun
    | .param p v => some (.param p v)
    | .image l f => some (.image l (imgDigest f))
    | .tier _ _ => none

/-- An applied epoch is gathered, with its mirrored log entry while pid 70.00.0001 is 1 (R448, R446). -/
def State.jGather (s : State) (items : List Item) (keepOut : Bool) : State :=
  if keepOut then s
  else
    let s := s.modJ fun j => { j with wait := j.wait ++ itemRecs items }
    items.foldl (fun s i => match i with
      | .image _ f => s.storeImage f
      | _ => s) s
def State.jMirror (s : State) (e : LogEntry) (on : Bool) : State :=
  if on then s.modJ fun j => { j with wait := j.wait ++ [.log e] } else s

/-- The items that the accepted epochs still in the queue will gather. -/
def State.queuedItems (s : State) : List Item :=
  (s.stg.queue.filter fun e => !(e.keepOut || e.transport = 7)).flatMap (·.items)

/-- Live journal bytes if items were added after those of the queue (R168, R449). -/
def State.jLiveWith (s : State) (items : List Item) : Nat :=
  recsBytes (liveRecs (s.journal.recs ++ ((s.journal.wait ++ itemRecs (s.queuedItems ++ items)).map fun r => (0, r))))

/-! ## Epoch numbers and their reserve (R159, R160, R217) -/

/-- The number after an epoch number: 0 is never one (R159). -/
def epochNext (n : Nat) : Nat := if n = 0xFFFFFFFF then 1 else n + 1

/-- A number of epochs after a number, in epoch order. -/
def epochAdd (n k : Nat) : Nat := if n = 0 then k else (n - 1 + k) % (2 ^ 32 - 1) + 1

/-- d(a, b) of R160, and b after a. -/
def epochD (a b : Nat) : Nat := (b + (2 ^ 32 - 1) - a % (2 ^ 32 - 1)) % (2 ^ 32 - 1)
def epochAfter (b a : Nat) : Bool := 1 ≤ epochD a b ∧ epochD a b ≤ 2 ^ 31 - 1

/-- The reserve mark of the journal. -/
def Journal.mark (j : Journal) : Option Nat :=
  match j.find (4, 0) with
  | some (.reserve m) => some m
  | _ => none

/-- Before the number n is assigned, firmware moves the mark 65,536 numbers ahead, in a stamped frame, unless the mark
still lies after n (R217). -/
def State.jReserveFor (s : State) (n : Nat) : State :=
  let due := match s.journal.mark with
    | some m => !epochAfter m n
    | none => true
  if due then ((State.jMakeRoom s.jUnits s).jProgram [(s.svn, .reserve (epochAdd n 65536))] false).jProgram [] true else s

/-! ## Retention (R450, R451) -/

/-- Image slot A is region 1 of the layout, and B is region 2. -/
def slotRegion (b : Bool) : Nat := if b then 2 else 1

/-- The cells of one slot, as the content of the other, block by block; a slot that lacks good blocks takes no write (R438). -/
def State.copySlot (s : State) (src : Bool) : State :=
  if s.regionShort (slotRegion !src) then s else
  let u := if s.nand then s.blockBytes else 65536
  let f := s.goodBlocks (slotRegion src)
  let t := s.goodBlocks (slotRegion !src)
  let old := s.flash.cells
  s.forEach (List.range (slotBytes / u)) fun s i =>
    let a := s.physAt (slotRegion src) f (i * u)
    let b := s.physAt (slotRegion !src) t (i * u)
    let s := s.eraseCells b u
    s.modFlash fun x => { x with cells :=
      (old.filter fun p => a ≤ p.1 ∧ p.1 < a + u).foldl (fun m p => smapSet erased m (p.1 - a + b) p.2) x.cells }

/-- The slot that booted (R454: BOOTINFO). -/
def State.bootedB (s : State) : Bool := wordFld (s.reg (R.AON_RET 3)) 1 0 = 1

/-- Reclaim every unit of the journal in turn (R450). -/
def State.jRewrite (s : State) : State :=
  s.forEach (List.range (s.journal.head - s.journal.tail)) fun s _ => s.jReclaim

/-- A region is rewritten (R451): the slots, the journal; XIP regions wait for a firmware start; the rest in place. -/
def State.rewriteRegion (s : State) (r : Nat) : State :=
  if (r = 1 ∧ s.bootedB = false) ∨ (r = 2 ∧ s.bootedB) then s.copySlot s.bootedB
  else if r = 3 then s.jRewrite
  else if r = 4 then s.modFlash fun x => { x with atStart := addNat x.atStart 4 }
  else s

/-- A good copy of a region stands elsewhere: the other copy of the slot table, the other slot when its record is the same one and
it passes its check, the frames of the journal (R450). -/
def State.goodCopy (s : State) (r : Nat) (fails : Nat → Bool) : Bool :=
  if r = 1 ∨ r = 2 then !fails (3 - r) && s.regionRead 1 0 64 == s.regionRead 2 0 64 else r = 0 || r = 3

/-- A region that fails its check is rewritten from its good copy, a slot from the other slot. -/
def State.restoreRegion (s : State) (r : Nat) : State :=
  if r = 1 then s.copySlot true else if r = 2 then s.copySlot false else s.rewriteRegion r

/-- The record of a region that is rewritten: its time, and the most corrected bits that a read then finds, which are open (R450,
log 6). -/
def State.regionRec (s : State) (hours r : Nat) : State :=
  let (v, s) := s.free
  s.modJ fun j => { j with wait := j.wait ++ [.region r hours (v % 9)] }

/-- One region of a scan (R450, R451): one that fails and has no good copy stays as it is. -/
def State.scanRegion (s : State) (hours r maxsec : Nat) (fails : Nat → Bool) : State :=
  let (at_, old) := match s.journal.find (6, r) with
    | some (.region _ h m) => (h, m)
    | _ => (0, 0)
  let ecc := s.nand || s.eccMode == 1
  let due := (ecc && (4 ≤ maxsec || old + 2 ≤ maxsec)) || at_ + 43830 ≤ hours
  if (if fails r then s.goodCopy r fails else due) then
    let s := if fails r then s.restoreRegion r else s.rewriteRegion r
    if r = 4 then s else s.regionRec hours r
  else s

/-- At a firmware start, before XIPEN, the XIP regions and trees that a scan found due are rewritten (R451). -/
def State.xipRewrite (s : State) : State :=
  (s.forEach s.flash.atStart fun s r => s.regionRec s.flash.hours r).modFlash fun x => { x with atStart := [] }

/-- The whole scan; it is background work, which the lehr may have paused (R200). -/
def State.retention (s : State) (hours : Nat) (found : List (Nat × Bool)) : State :=
  if s.lehr.paused then { s with lehr := { s.lehr with flashWork := true } }
  else
    let fails := fun (r : Nat) => (found.getD r (0, false)).2
    let s := found.zipIdx.foldl (fun s p => s.scanRegion hours p.2 p.1.1 fails) s
    let s := s.modFlash fun x => { x with hours := hours }
    { s with lehr := { s.lehr with flashWork := false } }

/-- RETENTION_SCAN (R450): due every 8,766 powered-on hours. -/
def execRetentionScan (hours : Nat) (found : List (Nat × Bool)) (s : State) : Res State :=
  .next (if s.flash.hours + 8766 ≤ hours then s.retention hours found else s)

end Sys2Proof.Machine
end

