-- ==== Sys2Proof/Machine/Sec.lean ====
section
/-! DEFINITION. SEC: fuses and the lifecycle (R460, R471, R472), the key derivation (R466), the hash and verify engines
(R473), and the checks of an image (R455 to R459). -/

namespace Sys2Proof.Machine

/-! ## Fuses (R460, R471, R472) -/

def State.fuseBytes (s : State) (w n : Nat) : List Byte :=
  (List.range n).flatMap fun i => leBytes 4 (s.fuseWord (w + i)).toNat

/-- The lifecycle: 0 BLANK, 1 SECURE, 2 RETIRED. -/
def State.lifecycle (s : State) : Nat :=
  if wordFld (s.fuseWord 33) 15 8 ≠ 0 then 2 else if wordFld (s.fuseWord 33) 7 0 ≠ 0 then 1 else 0

/-- The anti-rollback count: the highest blown bit of the counter, plus 1. -/
def State.arbCount (s : State) : Nat :=
  let v := leNat (s.fuseBytes 34 4)
  if v = 0 then 0 else v.log2 + 1

/-- The words that SEC_FUSE shows: secrets and reserved words read 0. -/
def State.fuseShown (s : State) (w : Nat) : Word := if (38 ≤ w ∧ w ≤ 53) ∨ 112 ≤ w then 0 else s.fuseWord w

/-- The register fields that follow the fuses. -/
def State.secSync (s : State) : State :=
  ((s.setF F.SEC_STAT_LC s.lifecycle).setF F.SEC_ARB_COUNT s.arbCount).setF F.SEC_KEYREV_REV (wordFld (s.fuseWord 32) 3 0)

/-- A fuse bit is blown. -/
def State.blow (s : State) (bit : Nat) : State :=
  ({ s with fuse := memSet s.fuse (bit / 32) (s.fuseWord (bit / 32) ||| BitVec.ofNat 32 (2 ^ (bit % 32))) }).secSync

/-- A program of one fuse bit (R472): refused under PGMLOCK, and for secrets outside BLANK. -/
def State.fuseProgram (s : State) (bit : Nat) (blows : Bool) : State :=
  if s.b F.SEC_CTRL_PGMLOCK ∨ (38 ≤ bit / 32 ∧ bit / 32 ≤ 53 ∧ s.lifecycle ≠ 0) then s.flag F.SEC_STAT_PGMERR
  else if blows then (s.blow bit).flag F.SEC_STAT_DONE
  else (s.flag F.SEC_STAT_PGMERR).flag F.SEC_STAT_DONE

/-- FUSE_PROGRAM (R472): a write of SEC_FUSECMD. -/
def execFuseProgram (data : Word) (blows : Bool) (s : State) : Res State :=
  if s.on 21 = false then .next s.busErr
  else writeTo R.SEC_FUSECMD data <|
    let s := s.setF F.SEC_FUSECMD_BIT data.toNat
    if data.msb then s.fuseProgram (s.f F.SEC_FUSECMD_BIT) blows else s

/-! ## Key derivation (R466) -/

/-- Bytes in a run of registers, byte 4i in [7:0] of word i (R473); and bytes put there. -/
def State.secBytes (s : State) (reg : Nat → Nat) (i n : Nat) : List Byte :=
  (List.range n).flatMap fun k => leBytes 4 (s.reg (reg (i + k))).toNat
def State.secPut (s : State) (reg : Nat → Nat) (bs : List Byte) : State :=
  s.forEach (List.range (bs.length / 4)) fun s k => s.setReg (reg k) (BitVec.ofNat 32 (leNat ((bs.drop (4 * k)).take 4)))

/-- A derivation is refused (R466). -/
def State.kdfRefused (s : State) (ver : Nat) : Bool :=
  !s.b F.SEC_KDFBOUND_SET || s.b F.SEC_KDFBOUND_CLOSED || s.f F.SEC_KDFBOUND_BOUND < ver || s.lifecycle != 1

/-- GO of a derivation. -/
def State.kdf (s : State) (ver : Nat) : State :=
  if s.kdfRefused ver then s.flag F.SEC_STAT_KDFERR
  else
    (s.secPut R.SEC_KOUT (hkdf (s.fuseBytes 38 8) (s.secBytes R.SEC_KDFP 0 4 ++ leBytes 4 ver))).flag F.SEC_STAT_DONE

/-- KDF_GO (R466): a write of SEC_KDFCMD. -/
def execKdfGo (data : Word) (s : State) : Res State :=
  if s.on 21 = false then .next s.busErr
  else writeTo R.SEC_KDFCMD data <|
    let s := s.setF F.SEC_KDFCMD_VER data.toNat
    if data.msb then s.kdf (s.f F.SEC_KDFCMD_VER) else s

/-- A write of SEC_KDFBOUND (R466): BOUND is locked by SET. -/
def State.kdfBound (s : State) (data : Word) : State :=
  let s := if s.b F.SEC_KDFBOUND_SET then s else s.setF F.SEC_KDFBOUND_BOUND data.toNat
  s.setReg R.SEC_KDFBOUND (s.reg R.SEC_KDFBOUND ||| (data &&& 0xC0000000))

/-- KDF_BOUND_SET (R466). -/
def execKdfBoundSet (data : Word) (s : State) : Res State :=
  if s.on 21 then writeTo R.SEC_KDFBOUND data (s.kdfBound data) else .next s.busErr

/-- The derived key is zeroed (R473). -/
def State.keyClear (s : State) : State := s.secPut R.SEC_KOUT (List.replicate 32 0)

/-- KEY_CLEAR (R473). -/
def execKeyClear (s : State) : Res State := .next (if s.on 21 then s.keyClear else s.busErr)

/-! ## Hash and verify (R473) -/

def State.hashStart (s : State) : State := { s with sec := { s.sec with msg := some [] } }
def State.hashData (s : State) (data : Word) : State :=
  match s.sec.msg with
  | some m => { s with sec := { s.sec with msg := some (m ++ leBytes 4 data.toNat) } }
  | none => s
/-- Pad and complete: LAST bytes of the final word count, 0 meaning 4. -/
def State.hashFinish (s : State) : State :=
  match s.sec.msg with
  | some m =>
    let last := s.f F.SEC_HCTRL_LAST
    let m := m.take (m.length - (4 - last) % 4)
    ({ s.secPut R.SEC_HOUT (sha256 m) with sec := { s.sec with msg := none } }).flag F.SEC_STAT_DONE
  | none => s

/-- HASH_START (R473). -/
def execHashStart (s : State) : Res State := .next (if s.on 21 then s.hashStart else s.busErr)

/-- HASH_DATA_WRITE (R473). -/
def execHashDataWrite (data : Word) (s : State) : Res State := .next (if s.on 21 then s.hashData data else s.busErr)

/-- HASH_FINISH (R473): a write of SEC_HCTRL with FINISH and LAST. -/
def execHashFinish (last : BitVec 2) (s : State) : Res State :=
  .next (if s.on 21 then (s.setF F.SEC_HCTRL_LAST last.toNat).hashFinish else s.busErr)

/-- A verify starts on the inputs as they stand; one that runs is not disturbed. -/
def State.verifyGo (s : State) : State :=
  if s.sec.verify.isSome then s
  else
    let s := { s with sec := { s.sec with verify := some (s.secBytes R.SEC_VIN 0 40) } }
    (s.setF F.SEC_VCTRL_VALID 0).setF F.SEC_STAT_VBUSY 1

/-- VERIFY_GO (R473). -/
def execVerifyGo (s : State) : Res State := .next (if s.on 21 then s.verifyGo else s.busErr)

/-- The result of a verify of PUBKEY, SIG and digest. -/
def verifyResult (v : List Byte) : Bool := ecdsaVerify (v.take 64) ((v.drop 64).take 64) (v.drop 128)

/-- VERIFY_DONE (R473). -/
def execVerifyDone (s : State) : Res State :=
  .next <|
    match s.sec.verify with
    | some v =>
      let s := { s with sec := { s.sec with verify := none } }
      (((s.setF F.SEC_VCTRL_VALID 1).setF F.SEC_VCTRL_PASS (b2n (verifyResult v))).setF F.SEC_STAT_VBUSY 0).flag
        F.SEC_STAT_DONE
    | none => s

/-! ## Slot records and image headers (R455, R456) -/

def fileU (f : List Byte) (off n : Nat) : Nat := leNat ((f.drop off).take n)

/-- Offsets and lengths of the two images of a slot record. -/
def slotS1 (r : List Byte) : Nat × Nat := (fileU r 8 4, fileU r 12 4)
def slotS2 (r : List Byte) : Nat × Nat := (fileU r 16 4, fileU r 20 4)
def slotSeq (r : List Byte) : Nat := fileU r 4 4

/-- A valid slot record (R455). -/
def slotValid (r : List Byte) : Bool :=
  let (a, n) := slotS1 r
  let (b, m) := slotS2 r
  r.take 4 == [0x44, 0x5A, 0x53, 0x4C] && fileU r 60 4 == crc32 (r.take 60) &&
    a + n ≤ 0x800000 && b + m ≤ 0x800000 && (a + n ≤ b || b + m ≤ a)

/-- A valid slot record with sequence number and images at these places. -/
def slotRecord (seq a n b m : Nat) : List Byte :=
  let r := [0x44#8, 0x5A, 0x53, 0x4C] ++ leBytes 4 seq ++ leBytes 4 a ++ leBytes 4 n ++ leBytes 4 b ++ leBytes 4 m ++
    List.replicate 36 0
  r ++ leBytes 4 (crc32 r)

def hdrFlags (h : List Byte) : Nat := fileU h 7 1
def hdrLength (h : List Byte) : Nat := fileU h 8 4
def hdrLoad (h : List Byte) : Nat := fileU h 12 4
def hdrEntry (h : List Byte) : Nat := fileU h 16 4
def hdrSvn (h : List Byte) : Nat := fileU h 20 4
def hdrVersion (h : List Byte) : Nat := fileU h 24 4
def hdrKeySlot (h : List Byte) : Nat := fileU h 28 1
def hdrRevoke (h : List Byte) : Nat := fileU h 29 1

/-- Region k of the header: BASE, LIMIT, ATTR. -/
def hdrRegion (h : List Byte) (k : Nat) : Nat × Nat × Nat :=
  (fileU h (32 + 12 * k) 4, fileU h (36 + 12 * k) 4, fileU h (40 + 12 * k) 4)
def hdrRegions (h : List Byte) : List (Nat × Nat × Nat) :=
  ((List.range 4).map (hdrRegion h)).filter fun r => r.2.2.testBit 31

/-! ## The checks (R459) -/

/-- Order 1: identity, zero fields, FLAGS and REVOKE. -/
def checkForm (h : List Byte) (stage : Nat) : Bool :=
  h.take 4 == [0x44, 0x5A, 0x42, 0x49] && fileU h 4 2 == 1 && fileU h 6 1 == stage && hdrFlags h < 4 &&
    hdrRevoke h < 16 && fileU h 30 2 == 0 && fileU h 176 16 == 0 && hdrKeySlot h < 4 &&
    (List.range 4).all (fun k => (hdrRegion h k).2.2 % 2 ^ 31 < 8) &&
    (stage == 1 || (hdrFlags h == 0 && hdrRevoke h == 0)) && !(hdrRevoke h).testBit (hdrKeySlot h)

/-- The regions, all locked, allow reading and execution of a page (R463, R495). -/
def pageAllowed (rs : List (Nat × Nat × Nat)) (a : Nat) : Bool :=
  let cover := rs.filter fun r => r.1 ≤ a && a ≤ r.2.1
  !cover.isEmpty && cover.all fun r => r.2.2.testBit 0 && r.2.2.testBit 2

/-- Order 2: LENGTH, LOADADDR, ENTRY and the regions; `len` is the length that the slot record gives the image. -/
def checkPlace (h : List Byte) (stage len : Nat) : Bool :=
  let n := hdrLength h
  let l := hdrLoad h
  let rs := hdrRegions h
  let pages (a b : Nat) := (List.range ((b + 4095) / 4096 - a / 4096)).all fun i => pageAllowed rs ((a / 4096 + i) * 4096)
  n % 16 == 0 && len == 256 + n && l + 256 ≤ hdrEntry h && hdrEntry h < l + 256 + n &&
    (if stage = 1 then n ≤ 130816 && l == 0x10000000
     else n ≤ 1048320 && 0x10020000 ≤ l && l + 256 + n ≤ 0x10120000) &&
    rs.all (fun r => r.1 % 4096 == 0 && (r.2.1 + 1) % 4096 == 0 && r.1 ≤ r.2.1) &&
    pages l (l + 256 + n) && (stage != 1 || pages 0 0x10000)

/-- The checks in order on a loaded image; 0 when it passes, otherwise the cause.  `svn1` is the SVN of stage 1. -/
def State.checkImage (s : State) (img : List Byte) (stage len : Nat) (svn1 : Option Nat) : Nat :=
  let blank := s.lifecycle == 0
  let k := hdrKeySlot img
  let pub := (img.drop 112).take 64
  let digest := s.fuseBytes (8 * k) 8
  let count := if blank then 0 else s.arbCount
  if !checkForm img stage then 3
  else if !checkPlace img stage len then 4
  else if !blank && (s.fuseWord 32).getLsbD k then 6
  else if !blank && (digest.all (· == 0) || sha256 pub != digest) then 7
  else if !ecdsaVerify pub ((img.drop 192).take 64) (sha256 (img.take 192)) then 8
  else if 128 < hdrSvn img || hdrSvn img < count || svn1.any (· != hdrSvn img) then 9
  else if sha256 ((img.drop 256).take (hdrLength img)) != (img.drop 80).take 32 then 5
  else 0

/-- The status of a failed check in BCP numbering: RANGE for a place out of range, otherwise INTEGRITY (R396, R467). -/
def checkStatus (cause : Nat) : Nat := if cause = 0 then 0 else if cause = 4 then 5 else 14

/-! ## Fuse actions of a passing stage 1 (R461, R462) -/

/-- The bits that the image asks for, in order. -/
def State.fuseAsks (s : State) (h : List Byte) : List Nat :=
  let adv := if (hdrFlags h).testBit 0 ∧ s.arbCount < hdrSvn h
    then (List.range (hdrSvn h)).filterMap fun i =>
      if (s.fuseWord (34 + i / 32)).getLsbD (i % 32) then none else some (34 * 32 + i)
    else []
  let rev := (List.range 4).filterMap fun k =>
    if (hdrRevoke h).testBit k ∧ k ≠ hdrKeySlot h ∧ (s.fuseWord 32).getLsbD k = false then some (32 * 32 + k) else none
  let ret := if (hdrFlags h).testBit 1 then (List.range 8).map fun i => 33 * 32 + 8 + i else []
  adv ++ rev ++ ret

/-- The ROM blows them in SECURE; a stuck bit, here the first, sets FUSEFAIL; then it sets PGMLOCK. -/
def State.fuseActions (s : State) (h : List Byte) (stuck : Bool) : State :=
  if s.lifecycle = 1 then
    let bits := s.fuseAsks h
    let s1 := s.forEach (if stuck then bits.drop 1 else bits) fun s b => s.blow b
    let s2 := if stuck && !bits.isEmpty then s1.setReg (R.AON_RET 7) (s1.reg (R.AON_RET 7) ||| 0x200) else s1
    s2.setF F.SEC_CTRL_PGMLOCK 1
  else s

end Sys2Proof.Machine
end

