-- ==== Sys2Proof/Machine/TimeUnit.lean ====
section
/-! DEFINITION. The time unit: its clock source, SET and STEP, pulses, capture and the timed start of domains; and the
anchoring of sample indices to network time (R321 to R336). -/

namespace Sys2Proof.Machine

/-! ## Anchoring (R331 to R336) -/

/-- The applied value of a TIME parameter in ns. -/
def State.ptime (s : State) (p : Nat) : Nat :=
  match listed s.params p with
  | some b => leNat (b.take 6) * 1000000000 + leNat ((b.drop 8).take 4)
  | none => 0

/-- T0 of a domain, and SLEWMAX, in ns. -/
def State.t0 (s : State) (d : Nat) : Nat := s.ptime (pid 0x42 0 (0x20 + d))
def State.slewMax (s : State) : Nat := min (s.pval (pid 0x42 0 1) 1000) 100000 * 1000

/-- The nominal time of sample n of a domain, in ns; and rounded down to 2^−16 ns (R331). -/
def State.nominal (s : State) (d n : Nat) : Rat :=
  let fs := s.rate d
  (s.t0 d : Rat) + (n : Rat) * 1000000000 * fs.2 / fs.1
def State.nominalSub (s : State) (d n : Nat) : Int := (s.nominal d n * 65536).floor

/-- A domain is anchorable: its nominal rate is exact by construction. -/
def State.anchorable (s : State) (d : Nat) : Bool := rateOk (s.rate d)

/-- The time source is present, within 1 µs. -/
def State.sourceOk (s : State) : Bool := s.tu.source && s.tu.offset.natAbs ≤ 1000

/-- The codes of the anchor states. -/
def Anchor.code : Anchor → Nat
  | .free => 0
  | .acquire => 1
  | .anchored => 2
  | .holdover => 3

/-- The anchor state of a domain: its leader's. -/
def State.anchorOf (s : State) (d : Nat) : Anchor := (s.dom (s.leader d)).anchor
/-- Streams and timed commits run (R336, R341). -/
def State.onTime (s : State) (d : Nat) : Bool := s.anchorOf d = .anchored || s.anchorOf d = .holdover

/-- A domain changes its anchor state, and firmware says so (R394). -/
def State.setAnchor (s : State) (d : Nat) (a : Anchor) : State :=
  if (s.dom d).anchor = a then s
  else
    (s.modDom d fun x => { x with anchor := a, anchorCnt := 0 }).raise 0x0602
      ([BitVec.ofNat 8 d, BitVec.ofNat 8 a.code, 0, 0] ++ leBytes 4 (wrapN 32 (s.dom d).err))

/-- The smallest start index of a leader: a multiple of B × r for every follower ratio, at least 5 ms ahead (R333). -/
def State.anchorIdx (s : State) (d : Nat) : Nat :=
  let r := ((s.group d).map s.ratio).foldl max 1
  let step := s.blen d * r
  let fs := s.rate d
  let lead : Int := ((s.tuTime : Int) + 5000000 - s.t0 d) * fs.1
  let den : Nat := 1000000000 * fs.2 * step
  step * ((lead + (den - 1 : Nat)) / den).toNat

/-- Firmware starts an anchored, enabled, stopped domain by the trigger (R333), once the trigger is free: one that it stopped to
restart it at once (R335), any other while the time source is there (R332), and one that ran at the entry to S3 or S4 only once
its ACS has locked again (R210). -/
def State.anchorStart (s : State) (d : Nat) : State :=
  if s.b (F.RD_CTRL_EN d) ∧ s.linked d = false ∧ s.running d = false ∧ s.anchoring d ∧ s.anchorable d ∧
      (s.sourceOk ∨ (s.dom d).reanchor) ∧ s.tu.trigArmed = false ∧
      ((s.dom d).napIdx.isNone ∨ s.b (F.ACS_STAT_LOCK (s.f (F.RD_CTRL_SRC d)))) then
    let s := s.modDom d fun x => { x with napIdx := none, reanchor := false }
    let n := s.anchorIdx d
    let at_ := (s.nominal d n).floor.toNat
    let s := s.setF2 (F.RD_SSTARTL_SSTART d) (F.RD_SSTARTH_SSTART d) n
    let s := (s.setF F.TRIG_NS_NS (at_ % 1000000000)).setF2 F.TRIG_SECL_SEC F.TRIG_SECH_SEC (at_ / 1000000000)
    let s := s.setF F.TRIG_CTRL_DOMAINS (2 ^ d)
    { s with tu := { s.tu with trigArmed := true } }.setAnchor d .acquire
  else s

/-- What the anchor states make of the time source as it stands: every unlinked domain. -/
def State.anchorKick (s : State) : State :=
  s.forEach ((List.range 4).filter fun d => !s.linked d) fun s d =>
    if s.anchoring d = false then s.setAnchor d .free
    else
      let s := match (s.dom d).anchor with
        | .free => if s.anchorable d ∧ s.sourceOk ∧ s.running d then s.setAnchor d .acquire else s
        | .anchored => if s.tu.source then s else s.setAnchor d .holdover
        | .holdover => if s.tu.source then s.setAnchor d (if s.sourceOk then .anchored else .acquire) else s
        | .acquire => s
      s.anchorStart d

/-- The lead domain of ACS a: the lowest-numbered anchored domain that ticks from it; followers stand for their leader (R334). -/
def State.acsLead (s : State) (a : Nat) : Option Nat :=
  (List.range 4).find? fun d => s.linked d = false && s.running d && s.anchoring d && s.f (F.RD_CTRL_SRC d) = a &&
    ((s.dom d).anchor = .acquire || (s.dom d).anchor = .anchored)

/-- A tick error, in 2^-16 ns, as phase steps of 1/64 of a nominal ring period, of which an output period holds 8 (R266): a late tick
takes steps that advance.  The number is the nearest one, held to the ends of the queue (DEDUCED, log 42). -/
def errSteps (a : Nat) (e : Int) : Int :=
  max (-4095) (min 4095 ((2 * e * (acsNominal a * 512 : Nat) + 65536000000000).fdiv 131072000000000))

/-- Firmware adjusts FRAC of an ACS, at most once per 10 ms and within the pull limit (R269, R334, R335).  The manual does not state
the amount: a free value (log 42). -/
def State.adjustFrac (s : State) (a : Nat) : State :=
  if s.now < (s.acsOf a).fracAt + 10000000 * nowNs then s
  else
    let (v, s) := s.free
    let t := s.setF (F.ACS_FRAC_FRAC a) v
    if s.b (F.ACS_CTRL_EN a) ∧ s.acsCheck a (t.acsBuffered a) then
      (t.acsUpdate a).modAcs a fun y => { y with fracAt := s.now }
    else s

/-- Firmware disciplines an ACS at a boundary of its lead domain, where the tick is off by e (R334): it brings the queue of phase steps
to what removes e, and adjusts FRAC. -/
def State.discipline (s : State) (d : Nat) (e : Int) : State :=
  let a := s.f (F.RD_CTRL_SRC d)
  if s.acsLead a = some d then
    let s := s.psqAdd a (errSteps a e - s.psq a)
    if e = 0 then s else s.adjustFrac a
  else s

/-- Firmware stops a domain and starts it again under R333 (R335). -/
def State.anchorAgain (s : State) (d : Nat) : State := s.modDom d fun x => { x with restart := true, reanchor := true }

/-- At a boundary of an unlinked domain firmware reads the tick error e and moves the anchor state and,
while |e| is within SLEWMAX, slews (R332, R334, R335). -/
def State.anchorBoundary (s : State) (d n : Nat) : State :=
  if s.anchoring d = false then s.setAnchor d .free
  else
    let e : Int := ((s.tu.t / 2 ^ 16 : Nat) : Int) - s.nominalSub d n
    let s := s.modDom d fun x => { x with err := e / 65536 }
    let within := fun (ns : Nat) => e.natAbs ≤ ns * 65536
    match (s.dom d).anchor with
    | .acquire =>
      if within s.slewMax then
        let k := if within 500 then (s.dom d).anchorCnt + 1 else 0
        let s := (s.discipline d e).modDom d fun x => { x with anchorCnt := k }
        if 32 ≤ k then s.setAnchor d .anchored else s
      else s.anchorAgain d
    | .anchored =>
      if within 5000 then s.discipline d e
      else
        let s := s.setAnchor d .acquire
        if within s.slewMax then s.discipline d e else s.anchorAgain d
    | .free => if s.anchorable d ∧ s.sourceOk then s.setAnchor d .acquire else s
    | .holdover => s

/-! ## Registers that show a count -/

/-- The native count in the four words of its registers. -/
def State.tuWords (s : State) : State :=
  let ns := s.tuTime
  let s := (s.setF F.TU_NS_NS (ns % 1000000000)).setF F.TU_SUBNS_SUB (s.tu.t / 2 ^ 16)
  s.setF2 F.TU_SECL_SEC F.TU_SECH_SEC (ns / 1000000000)

/-- The legacy count in its three words. -/
def State.legWords (s : State) : State :=
  (s.setF2 F.TU_LNSL_NS F.TU_LNSH_NS (s.tu.leg / 2 ^ 32)).setF F.TU_LFRAC_FRAC s.tu.leg

/-! ## Meanings -/

/-- TIME_SOURCE_LOSS (R328). -/
def execTimeSourceLoss (s : State) : Res State :=
  .next { s with tu := { s.tu with source := false } }.anchorKick

/-- A write of TU_CTRL that names SET, STEP or both (R323). -/
def State.tuCtrl (s : State) (set step : Bool) : State :=
  { s with tu := { s.tu with
    setPend := s.tu.setPend || set, stepPend := s.tu.stepPend || (step && !set)
    stepOver := if set then s.tu.stepPend else s.tu.stepOver && !step } }

/-- A TU STEP above 1 µs sends anchored domains to ACQUIRE (R332). -/
def State.stepAnchors (s : State) : State :=
  if 1000 < (sext 32 (s.f F.TU_STEPNS_NS)).natAbs then
    s.forEach (List.range 4) fun s d => if (s.dom d).anchor = .anchored then s.setAnchor d .acquire else s
  else s

/-- TU_SET (R323). -/
def execTuSet (s : State) : Res State := .next (s.tuCtrl true false)

/-- TU_STEP (R323). -/
def execTuStep (s : State) : Res State := .next ((s.tuCtrl false true).stepAnchors)

/-- TU_SOURCE_SWITCH (R322): to the slow clock, or back to the 125 MHz clock while PD_NET is on. -/
def execTuSourceSwitch (slow : Bool) (s : State) : Res State :=
  .next <|
    if slow = s.b F.TU_STAT_SLOW ∨ (slow = false ∧ s.on 24 = false) then s else s.tuSource slow

/-- TU_NS_READ (R324). -/
def execTuNsRead (_ : Initiator) (s : State) : Res State :=
  .next <|
    let s := s.tuWords
    (((s.latchReg R.TU_SUBNS).latchReg R.TU_SECL).latchReg R.TU_SECH).ret (s.reg R.TU_NS)

/-- TU_LNSL_READ (R324). -/
def execTuLnslRead (_ : Initiator) (s : State) : Res State :=
  .next <|
    let s := s.legWords
    ((s.latchReg R.TU_LNSH).latchReg R.TU_LFRAC).ret (s.reg R.TU_LNSL)

/-- A write to TU_LNSL loads both words of the legacy counter and clears its fraction. -/
def State.legLoad (s : State) (data : Word) : State :=
  { s with tu := { s.tu with leg := (s.tu.lnsh.toNat * 2 ^ 32 + data.toNat) * 2 ^ 32 } }

/-- TU_LNSL_WRITE (R325). -/
def execTuLnslWrite (data : Word) (s : State) : Res State := .next (s.legLoad data)

/-! ### Pulses (R329) -/

def State.pulse (s : State) (k : Nat) : Pulse := s.tu.tp[k]?.getD ⟨0, false, false, false⟩
def State.modPulse (s : State) (k : Nat) (g : Pulse → Pulse) : State :=
  { s with tu := { s.tu with tp := vmod s.tu.tp k g } }

/-- ARM of an idle generator: a start at or before now + 256 ns is late. -/
def State.tpArm (s : State) (k : Nat) : State :=
  if s.b (F.TP_CTRL_ACTIVE k) then s
  else
    let lim := s.tuTime + 256
    let late := s.tpStart k ≤ lim
    let s := if late then s.flag (F.TP_CTRL_LATE k) else s
    if late ∧ s.tpPeriod k = 0 then s.flag (F.TP_CTRL_DONE k)
    else
      let j := if late then s.tpNext k lim else 0
      (s.modPulse k fun _ => ⟨j, false, false, false⟩).setF (F.TP_CTRL_ACTIVE k) 1

/-- DISARM stops a generator at the end of its active phase. -/
def State.tpDisarm (s : State) (k : Nat) : State :=
  if s.b (F.TP_CTRL_ACTIVE k) = false then s
  else if (s.pulse k).phase then s.modPulse k fun p => { p with disarm := true }
  else s.tpEnd k false

/-- TPULSE_ARM (R329). -/
def execTpulseArm (k : Bool) (s : State) : Res State := .next (s.tpArm (b2n k))

/-- TPULSE_DISARM (R329). -/
def execTpulseDisarm (k : Bool) (s : State) : Res State := .next (s.tpDisarm (b2n k))

/-- The next edge of a generator fires once the TU has reached its time. -/
def State.tpEdge (s : State) (k : Nat) : State :=
  let p := s.pulse k
  let at_ := s.tpStart k + p.j * s.tpPeriod k + (if p.phase then s.tpWidth k else 0)
  if s.b (F.TP_CTRL_ACTIVE k) = false ∨ s.b F.TU_STAT_SLOW ∨ s.tuTime < at_ then s
  else if !p.phase then s.modPulse k fun p => { p with phase := true, active := decide (s.tpWidth k ≠ 0) }
  else if s.tpPeriod k = 0 ∨ p.disarm then s.tpEnd k (s.tpPeriod k = 0)
  else s.modPulse k fun p => ⟨p.j + 1, false, false, false⟩

/-- TPULSE_EDGE (R329). -/
def execTpulseEdge (k : Bool) (el : Elapsed) (s : State) : Res State := .next ((s.advance el).tpEdge (b2n k))

/-! ### Capture (R330) and the trigger (R333) -/

/-- TCAP_EDGE (R330). -/
def execTcapEdge (el : Elapsed) (rise : Bool) (sinceNs : Nat) (s : State) : Res State :=
  .next <|
    let s := s.advance el
    if (s.f F.TCAP_CTRL_EDGE).testBit (if rise then 0 else 1) = false then s
    else if sinceNs < 100 then s.flag F.TCAP_CTRL_OVERRUN
    else if 16 ≤ s.tu.cap.length then s.flag F.TCAP_CTRL_OVF
    else
      let s := { s with tu := { s.tu with cap := s.tu.cap ++ [(s.tuTime, rise)], capLast := s.tuTime } }
      s.setF F.TCAP_CTRL_COUNT s.tu.cap.length

/-- A read of TCAP_NS removes the head and latches its other words (R344). -/
def State.tcapTake (s : State) : State :=
  match s.tu.cap with
  | (t, rise) :: rest =>
    let s := { s with tu := { s.tu with cap := rest } }.setF F.TCAP_CTRL_COUNT rest.length
    let s := (s.setF F.TCAP_NS_VALID 1).setF F.TCAP_NS_NS (t % 1000000000)
    let s := (s.setF2 F.TCAP_SECL_SEC F.TCAP_SECH_SEC (t / 1000000000)).setF F.TCAP_SECH_RISE (b2n rise)
    s.ret (s.reg R.TCAP_NS)
  | [] =>
    let s := s.setF F.TCAP_NS_VALID 0
    s.ret (s.reg R.TCAP_NS)

/-- TCAP_READ (R344). -/
def execTcapRead (_ : Initiator) (s : State) : Res State := .next s.tcapTake

/-- The trigger time in ns. -/
def State.trigTime (s : State) : Nat := s.timeOf F.TRIG_NS_NS F.TRIG_SECL_SEC F.TRIG_SECH_SEC

/-- ARM: a trigger time at or before now + 256 ns is late, and nothing starts. -/
def State.trigArm (s : State) : State :=
  let late := decide (s.trigTime ≤ s.tuTime + 256)
  let s : State := { s with tu := { s.tu with trigArmed := !late } }
  if late then s.flag F.TRIG_CTRL_LATE else s
def State.trigDisarm (s : State) : State := { s with tu := { s.tu with trigArmed := false } }

/-- TRIG_ARM (R333). -/
def execTrigArm (s : State) : Res State := .next s.trigArm

/-- TRIG_DISARM (R333). -/
def execTrigDisarm (s : State) : Res State := .next s.trigDisarm

/-- TRIG_FIRE (R333): once the TU has reached the trigger time, the named domains start. -/
def execTrigFire (el : Elapsed) (s : State) : Res State :=
  .next <|
    let s := s.advance el
    if s.tu.trigArmed ∧ s.trigTime ≤ s.tuTime then
      let s := { s with tu := { s.tu with trigArmed := false } }.flag F.TRIG_CTRL_DONE
      (s.forEach ((List.range 4).filter fun d => s.fbit F.TRIG_CTRL_DOMAINS d) fun s d => s.startDomain d true).anchorKick
    else s

end Sys2Proof.Machine
end

