-- ==== Sys2Proof/Machine/Queue.lean ====
section
/-! DEFINITION. Epoch numbers and the commit queue (R159 to R161, R176, R178). -/

namespace Sys2Proof.Machine

/-- Firmware takes the next epoch number and puts the epoch into the queue (R161). -/
def State.enqueue (s : State) (e : Epoch) : State :=
  let n := epochNext (s.f F.AON_EPASSIGN_E)
  let s := (s.jReserveFor n).setF F.AON_EPASSIGN_E n
  { s with stg := { s.stg with queue := s.stg.queue ++ [{ e with num := n }] } }

/-- An epoch of the internal session (R178). -/
def internalEpoch (transport : Nat) (items : List Item) : Epoch :=
  { num := 0, session := 0, transport := transport, target := .untimed, keepOut := false, late := false, lost := false
    integrity := false, items := items, clocks := [], lines := [], freed := [] }

/-- Up to 8 accepted epochs wait (R176). -/
def State.queueFull (s : State) : Bool := 8 ≤ s.stg.queue.length

/-- An internal epoch of the lehr has not been applied (R201). -/
def State.lehrPending (s : State) : Bool := s.stg.queue.any Epoch.isLehr

/-- The phases of STG (R187): 0 IDLE, 1 WRITE, 2 ARMED, 3 SWAP, 4 RECON. -/
def State.phase (s : State) : Nat := s.f F.STG_STAT_PHASE
def State.setPhase (s : State) (n : Nat) : State := s.setF F.STG_STAT_PHASE n

/-- The epoch at the head is in hand: its step 3 has begun. -/
def State.inHand (s : State) : Bool := 1 ≤ s.phase ∧ s.phase ≤ 3

/-- Queued epochs whose step 3 has yet to begin (R178). -/
def State.yetToBegin (s : State) : List Epoch := if s.inHand then s.stg.queue.drop 1 else s.stg.queue

/-- The lehr commits items, unless the queue is full. -/
def State.lehrCommit (s : State) (items : List Item) : State :=
  if s.queueFull then s else s.enqueue (internalEpoch 0 items)

end Sys2Proof.Machine
end

