-- ==== Sys2Proof/Machine/Serial.lean ====
section
/-! DEFINITION. UARTs with their transport, the SPI controller and GPIO (R366 to R368, R398 to R419, R425 to R427). -/

namespace Sys2Proof.Machine

def State.uart (s : State) (u : Nat) : Uart := s.uarts[u]?.getD Uart.init
def State.modUart (s : State) (u : Nat) (g : Uart → Uart) : State := { s with uarts := vmod s.uarts u g }

/-! ## Queues and their triggers (R404) -/

/-- A depth code, and the trigger level of a depth. -/
def uartDepth (n : Nat) : Nat := 16 * 2 ^ n
def uartTrig (depth n : Nat) : Nat := if n = 3 then depth - 1 else depth * (n + 1) / 4
def State.rxDepth (s : State) (u : Nat) : Nat := uartDepth (s.f (F.UART_QCFG_RXDEPTH u))
def State.txDepth (s : State) (u : Nat) : Nat := uartDepth (s.f (F.UART_QCFG_TXDEPTH u))
def State.rxTrigger (s : State) (u : Nat) : Nat := uartTrig (s.rxDepth u) (s.f (F.UART_QCFG_RXTRIG u))
def State.txTrigger (s : State) (u : Nat) : Nat := uartTrig (s.txDepth u) (s.f (F.UART_QCFG_TXTRIG u))

/-- Flow control is generated or obeyed: not in nine-bit form (R408). -/
def State.rxfc (s : State) (u : Nat) : Bool := s.b (F.UART_FLOW_RXFC u) && !s.b (F.UART_FMT_NINE u)
def State.txfc (s : State) (u : Nat) : Bool := s.b (F.UART_FLOW_TXFC u) && !s.b (F.UART_FMT_NINE u)

/-- The transmitter has nothing in its queue, its shifter or behind it. -/
def State.uartIdle (s : State) (u : Nat) : Bool :=
  let x := s.uart u
  x.tx = [] && x.out = [] && (s.mb (4 + u)).rsp = [] && !x.de

/-- Settings of an epoch that waited for the transmitter apply (R413). -/
def State.uartSettle (s : State) (u : Nat) : State :=
  if s.uartIdle u then
    ((s.uart u).waiting.foldl (fun s p => s.setReg p.1 p.2) s).modUart u fun x => { x with waiting := [] }
  else s

/-- The level registers and the copies in STAT follow the queues, XOFF and XON fall due while RXFC is in force (R404, R408), and
settings that wait for an idle transmitter apply (R413). -/
def State.uartSync (s : State) (u : Nat) : State :=
  let s := s.uartSettle u
  let x := s.uart u
  let n := x.rx.length
  let trig := s.rxTrigger u
  let s := (s.setF (F.UART_LEVEL_RX u) n).setF (F.UART_LEVEL_TX u) x.tx.length
  let s := (s.setF (F.UART_STAT_RXTRIG u) (b2n (decide (trig ≤ n)))).setF (F.UART_STAT_TXTRIG u)
    (b2n (decide (x.tx.length < s.txTrigger u)))
  let s := (s.setF (F.UART_STAT_MUTED u) (s.f (F.UART_ADDR_MUTE u))).setF (F.UART_STAT_TXBUSY u) (b2n x.de)
  if s.rxfc u = false then s.modUart u fun x => { x with xoff := false }
  else if x.xoff = false ∧ trig ≤ n then s.modUart u fun x => { x with xctl := x.xctl ++ [true], xoff := true }
  else if x.xoff ∧ n ≤ trig / 2 then s.modUart u fun x => { x with xctl := x.xctl ++ [false], xoff := false }
  else s

/-! ## The transport on a UART (R366, R367) -/

/-- FCS-16 of HDLC: polynomial 0x1021 reflected, initial value and final XOR 0xFFFF. -/
def fcsBit (c : Nat) : Nat := if c % 2 = 1 then (c / 2) ^^^ 0x8408 else c / 2
def fcs16 (bs : List Byte) : Nat :=
  (bs.foldl (fun c b => (List.range 8).foldl (fun c _ => fcsBit c) (c ^^^ b.toNat)) 0xFFFF) ^^^ 0xFFFF

/-- A byte of a frame with its escape, and a frame between its flags. -/
def escByte (b : Byte) : List Byte := if b ∈ [0x7E#8, 0x7D, 0x11, 0x13] then [0x7D, b ^^^ 0x20] else [b]
def uartFrame (bs : List Byte) : List Byte := [0x7E] ++ (bs ++ leBytes 2 (fcs16 bs)).flatMap escByte ++ [0x7E]

/-- The transport discards a frame and counts it. -/
def State.uartDrop (s : State) (u : Nat) : State := s.modUart u fun x => { x with discarded := x.discarded + 1 }

/-- A closing flag completes a frame: checked, and delivered to the UART's mailbox. -/
def State.uartDeliver (s : State) (u : Nat) (bs : List Byte) : State :=
  let body := bs.take (bs.length - 2)
  if bs = [] then s
  else if bs.length < 18 ∨ 4112 < body.length ∨ leNat (bs.drop (bs.length - 2)) ≠ fcs16 body then s.uartDrop u
  else s.pushReq (4 + u) body 0

/-- The transport takes one byte: 0x7E closes and opens, 0x7D escapes, 0x11 and 0x13 are discarded. -/
def State.uartByte (s : State) (u : Nat) (b : Byte) : State :=
  let x := s.uart u
  if b = 0x11 ∨ b = 0x13 then s
  else if b = 0x7E then
    let s := if x.esc then s.uartDrop u else s.uartDeliver u (x.frame.getD [])
    s.modUart u fun x => { x with frame := some [], esc := false }
  else match x.frame with
    | none => s
    | some bs =>
      if x.esc then s.modUart u fun x => { x with frame := some (bs ++ [b ^^^ 0x20]), esc := false }
      else if b = 0x7D then s.modUart u fun x => { x with esc := true }
      else s.modUart u fun x => { x with frame := some (bs ++ [b]) }

/-- A BREAK or a framing error discards the frame in progress. -/
def State.uartCut (s : State) (u : Nat) : State := s.modUart u fun x => { x with frame := none, esc := false }

/-- What the transport makes of a queued entry (R367, R368): the address character of nine-bit form is no frame byte. -/
def State.uartTransport (s : State) (u : Nat) (e : RxEnt) : State :=
  if e.brk ∨ e.fe then s.uartCut u
  else if s.b (F.UART_FMT_NINE u) ∧ e.data.getLsbD 8 then s
  else s.uartByte u (e.data.setWidth 8)

/-- The transport moves bytes into the transmit queue while there is room: those of the frame under way, then the next
frame of the response ring (R366, R368). -/
def State.uartFeed (s : State) (u : Nat) : State :=
  let m := 4 + u
  let s := match (s.uart u).out, (s.mb m).rsp with
    | [], r :: _ =>
      (s.rspTaken m 1).modUart u fun x => { x with out := uartFrame r.bytes }
    | _, _ => s
  let room := s.txDepth u - (s.uart u).tx.length
  s.modUart u fun x => { x with tx := x.tx ++ (x.out.take room).map (fun b => b.setWidth 9), out := x.out.drop room }

/-! ## Receiver (R401 to R408) -/

/-- A character takes its place in the queue, or is lost with OVR (R405). -/
def State.uartQueue (s : State) (u : Nat) (e : RxEnt) : State :=
  if s.rxDepth u ≤ (s.uart u).rx.length then (s.flag (F.UART_STAT_OVR u)).uartSync u
  else ((s.modUart u fun x => { x with rx := x.rx ++ [e] }).uartTransport u e).uartSync u

/-- An address character matches (R407). -/
def State.uartMatch (s : State) (u : Nat) (c : Nat) : Bool :=
  (c ^^^ s.f (F.UART_ADDR_ADDR u)) &&& s.f (F.UART_ADDR_MASK u) = 0 ∨
    (s.b (F.UART_ADDR_BCEN u) ∧ c = s.f (F.UART_ADDR_BCAST u))

/-- Nine-bit addressing decides whether a good character is queued (R407). -/
def State.uartNine (s : State) (u : Nat) (e : RxEnt) : State :=
  let c := e.data.toNat % 256
  if s.b (F.UART_ADDR_MATCHEN u) = false then s.uartQueue u e
  else if e.data.getLsbD 8 then
    if s.uartMatch u c then ((s.setF (F.UART_ADDR_MUTE u) 0).flag (F.UART_STAT_ADDRM u)).uartQueue u e
    else (s.setF (F.UART_ADDR_MUTE u) 1).uartSync u
  else if s.b (F.UART_ADDR_MUTE u) then s
  else s.uartQueue u e

/-- How many bits follow the start bit: data, with a ninth or a parity bit (R399). -/
def State.uartDataBits (s : State) (u : Nat) : Nat := if s.b (F.UART_FMT_D7 u) && !s.b (F.UART_FMT_NINE u) then 7 else 8
def State.uartExtra (s : State) (u : Nat) : Nat :=
  b2n (s.b (F.UART_FMT_NINE u) || s.f (F.UART_FMT_PAR u) = 1 || s.f (F.UART_FMT_PAR u) = 2)

/-- The bit time in kernel cycles (R398), and in sixteenths of a slow period (R412, R414). -/
def State.uartBt (s : State) (u : Nat) : Nat := 16 * max 1 (s.f (F.UART_BAUD_DIVI u)) + s.f (F.UART_BAUD_DIVF u)
def State.uartSlowBt (s : State) (u : Nat) : Nat := max 218 (s.f (F.UART_SLOW_DIV u))

/-- The level of the line in a cycle after the start edge (R400). -/
def uartLevel (c : UartChar) (t : Nat) : Bool := (c.edges.filter (· ≤ t)).length % 2 = 1

/-- The cycle, or in slow mode the slow edge, at which bit k of a character is sampled (R400, R412). -/
def State.uartMid (s : State) (u k : Nat) : Nat :=
  if (s.uart u).slow then ((2 * k + 1) * s.uartSlowBt u + 16) / 32 else (2 * k + 1) * s.uartBt u / 2

/-- A character time has passed with the line high: start, data, ninth or parity and stop bits (R403). -/
def State.uartQuiet (s : State) (u highFor : Nat) : Bool :=
  let bits := 1 + s.uartDataBits u + s.uartExtra u + (1 + b2n (s.b (F.UART_FMT_STOP2 u)))
  if (s.uart u).slow then bits * s.uartSlowBt u ≤ 16 * highFor else bits * s.uartBt u ≤ highFor

/-- The samples of a character (R400, R401); none when its start was false. -/
def State.uartRead (s : State) (u : Nat) (c : UartChar) : Option RxChar :=
  let at_ := fun k => uartLevel c (s.uartMid u k)
  let n := s.uartDataBits u
  let data := (List.range n).map fun i => at_ (1 + i)
  let extra := if s.uartExtra u = 1 then at_ (1 + n) else false
  let stop := at_ (1 + n + s.uartExtra u)
  let d := (data.zipIdx.map fun p => b2n p.1 * 2 ^ p.2).sum + if s.b (F.UART_FMT_NINE u) then b2n extra * 256 else 0
  if at_ 0 then none
  else some ⟨BitVec.ofNat 9 d, extra, stop, !stop && !extra && data.all (!·)⟩

/-- The parity bit of a character is wrong: PAR 1 even, 2 odd. -/
def State.uartPe (s : State) (u : Nat) (c : RxChar) : Bool :=
  let ones := ((List.range 9).filter c.data.getLsbD).length + b2n c.parity
  match s.f (F.UART_FMT_PAR u) with
  | 1 => !s.b (F.UART_FMT_NINE u) && ones % 2 ≠ 0
  | 2 => !s.b (F.UART_FMT_NINE u) && ones % 2 ≠ 1
  | _ => false

/-- A character completes (R401, R403, R405, R407, R408). -/
def State.uartReceive (s : State) (u : Nat) (c : RxChar) : State :=
  let d := c.data.toNat
  if c.allLow then ((s.flag (F.UART_STAT_BREAK u)).modUart u fun x => { x with brk := true }).uartQueue u ⟨0, false, false, true⟩
  else if !c.stop then
    let s := s.flag (F.UART_STAT_FE u)
    if s.b (F.UART_FMT_NINE u) ∧ s.b (F.UART_ADDR_MATCHEN u) ∧ s.b (F.UART_ADDR_MUTE u) then s
    else s.uartQueue u ⟨c.data, true, false, false⟩
  else
    let pe := s.uartPe u c
    let s := if pe then s.flag (F.UART_STAT_PE u) else s
    if (s.txfc u ∨ s.rxfc u) ∧ pe = false ∧ (d = s.f (F.UART_FLOW_XOFF u) ∨ d = s.f (F.UART_FLOW_XON u)) then
      s.setF (F.UART_STAT_TXSTOP u) (b2n (d = s.f (F.UART_FLOW_XOFF u)))
    else if s.b (F.UART_FMT_NINE u) then s.uartNine u ⟨c.data, false, pe, false⟩
    else s.uartQueue u ⟨c.data, false, pe, false⟩

/-- Rate measurement (R406). -/
def State.autobaud (s : State) (u count : Nat) : State :=
  let bt := (count + 4) / 8
  let s := s.setF (F.UART_CTRL_ABDEN u) 0
  if 2 ^ 24 ≤ count then s.flag (F.UART_STAT_ABDERR u)
  else
    let s := (s.setF (F.UART_ABD_COUNT u) count).setF (F.UART_ABD_VALID u) 1
    if 16 ≤ bt ∧ bt ≤ 1048575 then
      ((s.setF (F.UART_BAUD_DIVI u) (bt / 16)).setF (F.UART_BAUD_DIVF u) (bt % 16)).flag (F.UART_STAT_ABDONE u)
    else s.flag (F.UART_STAT_ABDERR u)

/-- The receiver runs: on the kernel clock in S0 to S2 (R411), or in slow mode in AON (R412, R414). -/
def State.uartRuns (s : State) (u : Nat) : Bool :=
  (s.on 21 && decide (s.f F.PMU_STAT_STATE ≤ 2) && s.b (F.UART_CTRL_EN u) && s.b (F.UART_CTRL_RXEN u)) || (s.uart u).slow

/-- The UART is sending in DE form: what it receives is queued only with RXECHO (R409). -/
def State.uartDeaf (s : State) (u : Nat) : Bool := s.b (F.UART_FMT_DEEN u) && (s.uart u).de && !s.b (F.UART_FMT_RXECHO u)

/-- The fifth falling edge of a measured character (R406). -/
def State.autobaudChar (s : State) (u : Nat) (c : UartChar) : State :=
  match c.edges[7]? with
  | some n => s.autobaud u n
  | none => s

/-- A start edge is ignored after a BREAK until the line has been high for a character time (R403). -/
def State.uartBlocked (s : State) (u : Nat) (c : UartChar) : Bool := (s.uart u).brk && !s.uartQuiet u c.highFor

/-- A start edge on the line: ignored after a BREAK until the line has been high for a character time (R403); else a character is
measured, or read; a false start queues nothing (R400). -/
def State.uartHear (s : State) (u : Nat) (c : UartChar) : State :=
  if s.uartRuns u = false then s
  else if s.uartBlocked u c then s
  else
    let s := s.modUart u fun x => { x with brk := false }
    if s.b (F.UART_CTRL_ABDEN u) && !(s.uart u).slow then s.autobaudChar u c
    else if s.uartDeaf u then s
    else match s.uartRead u c with
      | some r => s.uartReceive u r
      | none => s

/-- UART_RX_CHARACTER (R401). -/
def execUartRxCharacter (u : Fin 3) (c : UartChar) (s : State) : Res State := .next (s.uartHear u c)

/-- AUTOBAUD_TIMEOUT (R406). -/
def execAutobaudTimeout (u : Fin 3) (s : State) : Res State :=
  .next (if s.b (F.UART_CTRL_ABDEN u) then (s.setF (F.UART_CTRL_ABDEN u) 0).flag (F.UART_STAT_ABDERR u) else s)

/-! ## Transmitter -/

/-- The levels that a character puts on the line: start bit, data bits from the least significant, ninth or parity bit, stop bits
(R399). -/
def State.uartBits (s : State) (u : Nat) (d : BitVec 9) : List Bool :=
  let data := (List.range (s.uartDataBits u)).map d.getLsbD
  let odd := decide ((data.filter id).length % 2 = 1)
  let extra := if s.b (F.UART_FMT_NINE u) then [d.getLsbD 8] else match s.f (F.UART_FMT_PAR u) with
    | 1 => [odd]
    | 2 => [!odd]
    | _ => []
  [false] ++ data ++ extra ++ List.replicate (1 + b2n (s.b (F.UART_FMT_STOP2 u))) true

/-- What TXD drives for some bits: in single-wire form a 1 bit is released (R409). -/
def State.uartDrive (s : State) (u : Nat) (bits : List Bool) : List (Option Bool) :=
  bits.map fun b => if s.b (F.UART_FMT_SWIRE u) && b then none else some b

/-- A character leaves: DE holds while characters follow (R409), and waiting settings apply once all is sent. -/
def State.uartSent (s : State) (u : Nat) (d : BitVec 9) (g : Uart → Uart) : State :=
  (s.modUart u fun x => { g x with
    de := s.b (F.UART_FMT_DEEN u), line := s.uartDrive u (s.uartBits u d), bt := s.uartBt u }).uartSync u

/-- The pin TXD is held low by TXBRK, between characters (R403), and the level of the pin DE (R409), which its pull holds low while
PD_SYS is off (R515, R516). -/
def State.txdLow (s : State) (u : Nat) : Bool := s.on 21 && s.b (F.UART_CTRL_EN u) && s.b (F.UART_CTRL_TXBRK u)
def State.dePin (s : State) (u : Nat) : Bool :=
  s.on 21 && ((s.b (F.UART_FMT_DEEN u) && (s.uart u).de) != s.b (F.UART_DECFG_DEPOL u))

/-- The receiver compares each sent bit with its sample (R410). -/
def State.uartChecks (s : State) (u : Nat) : Bool :=
  (s.b (F.UART_FMT_SWIRE u) || (s.b (F.UART_FMT_DEEN u) && s.b (F.UART_FMT_COLLEN u))) && s.uartRuns u

/-- The first bit of a sent character that the receiver samples otherwise. -/
def State.uartDiffers (s : State) (u : Nat) (d : BitVec 9) (back : UartChar) : Option Nat :=
  (((s.uartBits u d).zipIdx).find? fun p => uartLevel back (s.uartMid u p.2) != p.1).map (·.2)

/-- A collision in a bit: COLL, the line released, the character kept, and what was read back received, whatever RXECHO holds
(R410). -/
def State.uartCollide (s : State) (u : Nat) (d : BitVec 9) (bit : Nat) (back : UartChar) : State :=
  let s := (s.flag (F.UART_STAT_COLL u)).modUart u fun x => { x with
    de := false, line := s.uartDrive u ((s.uartBits u d).take (bit + 1)), bt := s.uartBt u }
  let s := s.uartSync u
  match s.uartRead u back with
  | some r => s.uartReceive u r
  | none => s

/-- A character as the receiver reads it back without a collision: queued only with RXECHO (R409). -/
def State.uartEcho (s : State) (u : Nat) (back : UartChar) : State :=
  if s.b (F.UART_FMT_RXECHO u) && !s.uartBlocked u back then
    match s.uartRead u back with
    | some r => s.uartReceive u r
    | none => s
  else s

/-- One character goes out, unless a bit that is checked differs. -/
def State.uartSend (s : State) (u : Nat) (d : BitVec 9) (back : UartChar) (g : Uart → Uart) : State :=
  if s.uartChecks u then
    match s.uartDiffers u d back with
    | some bit => s.uartCollide u d bit back
    | none => (s.uartEcho u back).uartSent u d g
  else s.uartSent u d g

/-- UART_TX_CHARACTER (R399): an owed flow-control character first, then the head of the queue unless XOFF holds it. -/
def execUartTxCharacter (u : Fin 3) (back : UartChar) (s : State) : Res State :=
  .next <|
    let s := s.uartFeed u
    let x := s.uart u
    if s.b (F.UART_CTRL_EN u) = false ∨ s.b (F.UART_CTRL_TXEN u) = false ∨ s.b (F.UART_CTRL_TXBRK u) ∨
        s.b (F.UART_STAT_COLL u) then s.uartSync u
    else match x.xctl with
      | c :: _ =>
        s.uartSend u (BitVec.ofNat 9 (s.f (if c then F.UART_FLOW_XOFF u else F.UART_FLOW_XON u))) back
          fun x => { x with xctl := x.xctl.drop 1 }
      | [] => match x.tx with
        | d :: _ =>
          if s.b (F.UART_STAT_TXSTOP u) then s.uartSync u
          else s.uartSend u d back fun x => { x with tx := x.tx.drop 1 }
        | [] => s.uartSync u

/-- DE_HOLD_EXPIRY (R409): DE falls once no character follows. -/
def execDeHoldExpiry (u : Fin 3) (s : State) : Res State :=
  .next <|
    if (s.uart u).tx = [] ∨ s.b (F.UART_STAT_TXSTOP u) then
      (s.modUart u fun x => { x with de := false }).uartSync u
    else s

/-! ## Registers of a UART -/

/-- A write to TXDATA (R405). -/
def State.uartPut (s : State) (u : Nat) (data : Word) : State :=
  if s.txDepth u ≤ (s.uart u).tx.length then s.flag (F.UART_STAT_TXOVF u)
  else (s.modUart u fun x => { x with tx := x.tx ++ [data.setWidth 9] }).uartSync u

/-- The word that RXDATA shows for an entry. -/
def RxEnt.word (e : RxEnt) : Word :=
  BitVec.ofNat 32 (2 ^ 31 + b2n e.brk * 2 ^ 11 + b2n e.pe * 2 ^ 10 + b2n e.fe * 2 ^ 9 + e.data.toNat)

/-- A read of RXDATA takes the head; an empty queue gives VALID 0 and changes nothing (R405). -/
def State.uartTake (s : State) (u : Nat) : State :=
  match (s.uart u).rx with
  | e :: rest => ((s.modUart u fun x => { x with rx := rest }).uartSync u).ret e.word
  | [] => let (v, s) := s.free; s.ret (BitVec.ofNat 32 (v % 2 ^ 12))

/-- Clearing CTRL.EN (R414): both queues stay. -/
def State.uartOff (s : State) (u : Nat) : State := (s.modUart u fun x => { x with de := false }).uartSync u

/-- UART_TXDATA_WRITE (R405). -/
def execUartTxdataWrite (u : Fin 3) (data : Word) (s : State) : Res State :=
  if s.on 21 then writeTo (R.UART_TXDATA u) data (s.uartPut u data) else .next s.busErr

/-- UART_RXDATA_READ (R405). -/
def execUartRxdataRead (_ : Initiator) (u : Fin 3) (s : State) : Res State :=
  .next (if s.on 21 then s.uartTake u else s.busErr)

/-- UART_BAUD_WRITE (R402): each direction takes the rate at its next character. -/
def execUartBaudWrite (u : Fin 3) (data : Word) (s : State) : Res State :=
  if s.on 21 then writeTo (R.UART_BAUD u) data (s.setReg (R.UART_BAUD u) data) else .next s.busErr

/-- UART_RXFLUSH (R414). -/
def execUartRxflush (u : Fin 3) (s : State) : Res State :=
  .next (if s.on 21 then (s.modUart u fun x => { x with rx := [] }).uartSync u else s.busErr)

/-- UART_TXFLUSH (R414). -/
def execUartTxflush (u : Fin 3) (s : State) : Res State :=
  .next (if s.on 21 then (s.modUart u fun x => { x with tx := [] }).uartSync u else s.busErr)

/-- UART_TXBRK (R403). -/
def execUartTxbrk (u : Fin 3) (on : Bool) (s : State) : Res State :=
  .next (if s.on 21 then s.setF (F.UART_CTRL_TXBRK u) (b2n on) else s.busErr)

/-- UART_DISABLE (R414). -/
def execUartDisable (u : Fin 3) (s : State) : Res State :=
  .next (if s.on 21 then (s.setF (F.UART_CTRL_EN u) 0).uartOff u else s.busErr)

/-! ## SPI controller (R415 to R419) -/

/-- A queued command: lanes, direction, unit width and length (R416). -/
def pscLanes (c : Word) : Nat := 2 ^ wordFld c 28 27
def pscDir (c : Word) : Nat := wordFld c 26 25
def pscW (c : Word) : Nat := wordFld c 24 20 + 1
def pscBits (c : Word) : Nat := wordFld c 15 0 + 1
def pscCs (c : Word) : Nat := wordFld c 31 30

/-- The command is one the PSC refuses (R416). -/
def pscBad (c : Word) : Bool :=
  wordFld c 28 27 = 3 ∨ pscDir c = 3 ∨ (pscDir c = 2 ∧ pscLanes c ≠ 1) ∨ pscW c < 4 ∨ pscW c % pscLanes c ≠ 0 ∨
    pscBits c % pscLanes c ≠ 0

/-- Levels and state follow the queues. -/
def State.pscSync (s : State) (stall : Bool) : State :=
  let x := s.psc
  let s := (s.setF F.PSC_STAT_CMDLVL x.cmds.length).setF F.PSC_STAT_BUSY (b2n ((decide (x.cmds ≠ []) && s.b F.PSC_CTRL_EN) || x.sel.isSome))
  ((s.setF F.PSC_STAT_STALL (b2n stall)).setF F.PSC_LEVEL_TX x.tx.length).setF F.PSC_LEVEL_RX x.rx.length

/-- The lanes IO0 to IO3 driven for some bits in each SCK period, and their levels. -/
def laneDrive (single lanes : Nat) (bits : List Bool) : List (BitVec 4 × BitVec 4) :=
  (laneSets single lanes bits).map fun p => (BitVec.ofNat 4 p.1, BitVec.ofNat 4 p.2)

/-- A write to PSC_CMD. -/
def State.pscCommand (s : State) (c : Word) : State :=
  if pscBad c then s.flag F.PSC_STAT_CMDERR
  else if s.psc.cmds.length < 8 then
    { s with psc := { s.psc with cmds := s.psc.cmds ++ [c] } }.pscSync (s.b F.PSC_STAT_STALL)
  else s

/-- One received unit goes to the FIFO (R416). -/
def State.pscDeliver (s : State) (w : Nat) (bits : List Bool) : State :=
  let part := decide (bits.length < w)
  let s := { s with psc := { s.psc with rx := s.psc.rx ++ [(BitVec.ofNat 32 (bitsNat bits), bits.length, part)] } }
  if part then s.flag F.PSC_STAT_PARTIAL else s

/-- The command ends (R417): the select stays low for a held one whose successor names it. -/
def State.pscEnd (s : State) (c : Word) : State :=
  let rest := s.psc.cmds.drop 1
  let hold := c.getLsbD 29 && (rest.head?.map pscCs = some (pscCs c) || rest = [])
  let s := { s with psc := { s.psc with cmds := rest, moved := 0, sel := if hold then some (pscCs c) else none } }
  if rest = [] ∧ hold = false then s.flag F.PSC_STAT_DONE else s

/-- The bits that the PSC samples: IO1 on one lane; a lane that nothing drives is low by its pull (R515). -/
def pscSampled (c : Word) (n : Nat) (inp : List (BitVec 4)) : List Bool :=
  ((inp ++ List.replicate n 0).flatMap (laneBits 1 (pscLanes c))).take n

/-- Units of the command at the head move while the FIFOs allow (R418): one bit per lane in each SCK period (R416). -/
def pscUnits (c : Word) (inp : List (BitVec 4)) : Nat → State → State
  | 0, s => s
  | fuel + 1, s =>
    let left := pscBits c - s.psc.moved
    let n := min (pscW c) left
    if left = 0 then (s.pscEnd c).pscSync false
    else if (pscDir c ≠ 1 ∧ s.psc.tx = []) ∨ (pscDir c ≠ 0 ∧ 32 ≤ s.psc.rx.length) then s.pscSync true
    else
      let pins := if pscDir c = 1 then List.replicate (n / pscLanes c) (0, 0)
        else laneDrive 0 (pscLanes c) ((msbBits (pscW c) (s.psc.tx.headD 0).toNat).take n)
      let s := { s with psc := { s.psc with
        out := s.psc.out ++ pins, tx := if pscDir c = 1 then s.psc.tx else s.psc.tx.drop 1 } }
      let s := if pscDir c = 0 then s else s.pscDeliver (pscW c) (pscSampled c n inp)
      pscUnits c (inp.drop (n / pscLanes c)) fuel { s with psc := { s.psc with moved := s.psc.moved + n } }

/-- PSC_COMMAND_WRITE (R416). -/
def execPscCommandWrite (data : Word) (s : State) : Res State :=
  if s.on 21 then writeTo R.PSC_CMD data (s.pscCommand data) else .next s.busErr

/-- PSC_TRANSFER (R418): the command at the head runs, until it ends or waits on a FIFO. -/
def execPscTransfer (inp : List (BitVec 4)) (s : State) : Res State :=
  .next <|
    match s.psc.cmds with
    | c :: _ =>
      if s.b F.PSC_CTRL_EN then
        pscUnits c inp (pscBits c + 1) { s with psc := { s.psc with sel := some (pscCs c), out := [] } }
      else s
    | [] => s

/-- PSC_ABORT (R418). -/
def execPscAbort (inp : List (BitVec 4)) (s : State) : Res State :=
  .next <|
    if s.on 21 = false then s.busErr
    else
      let s := match s.psc.cmds with
        | c :: _ =>
          let bits := inp.flatMap (laneBits 1 (pscLanes c))
          if bits ≠ [] ∧ pscDir c ≠ 0 then s.pscDeliver (bits.length + 1) bits else s
        | [] => s
      ({ s with psc := { s.psc with cmds := [], tx := [], moved := 0, sel := none } }.flag F.PSC_STAT_ABORTED).pscSync false

/-- A write to PSC_TXDATA, ignored when the FIFO is full. -/
def State.pscPut (s : State) (data : Word) : State :=
  if s.psc.tx.length < 32 then { s with psc := { s.psc with tx := s.psc.tx ++ [data] } }.pscSync (s.b F.PSC_STAT_STALL)
  else s

/-- A read of PSC_RXDATA removes the head and latches PSC_RXINFO (R419). -/
def State.pscTake (s : State) : State :=
  match s.psc.rx with
  | (w, n, p) :: rest =>
    let s := { s with psc := { s.psc with rx := rest } }.pscSync (s.b F.PSC_STAT_STALL)
    (((s.setF F.PSC_RXINFO_VALID 1).setF F.PSC_RXINFO_PARTIAL (b2n p)).setF F.PSC_RXINFO_NBITS n).ret w
  | [] => let (v, s) := (s.setF F.PSC_RXINFO_VALID 0).free; s.ret (BitVec.ofNat 32 v)

/-- PSC_TXDATA_WRITE (R419). -/
def execPscTxdataWrite (data : Word) (s : State) : Res State := .next (if s.on 21 then s.pscPut data else s.busErr)

/-- PSC_RXDATA_READ (R419). -/
def execPscRxdataRead (_ : Initiator) (s : State) : Res State := .next (if s.on 21 then s.pscTake else s.busErr)

/-! ## GPIO (R425, R427) -/

/-- The filtered level of a pin changes, less than 100 ns after its event before or not: a selected edge makes an event, or
merges into the pin's last. -/
def State.gpioMove (s : State) (p : Nat) (v soon : Bool) : State :=
  let s := s.setFbit F.GPIO_IN_IN p v
  if (s.f F.GPIO_EDGE_EDGE).testBit (2 * p + (if v then 0 else 1)) then
    if soon then s.setFbit F.GPIO_EVT_OVR p true else s.setFbit F.GPIO_EVT_EVT p true
  else s

/-- GPIO_IN follows the outputs whose filters pass at once.  DESIGN CHOICE (log 21): a write names no time, so whether the
pin's event before was less than 100 ns ago is a free value. -/
def State.gpioFollow (s : State) : State :=
  s.forEach (List.range 8) fun s p =>
    let v := s.fbit F.GPIO_OUT_OUT p
    if s.fbit F.GPIO_DIR_DIR p && s.f (F.GPIO_FILT_COUNT p) = 0 && s.fbit F.GPIO_IN_IN p != v then
      let (w, s) := s.free
      s.gpioMove p v (w % 2 = 1)
    else s

/-- A level that a pin has held passes its filter (R425).  With COUNT 0 a level of less than 20 ns may be missed, which is a free
value. -/
def State.gpioPasses (s : State) (p heldNs heldSlow : Nat) : Bool × State :=
  let n := s.f (F.GPIO_FILT_COUNT p)
  if n ≠ 0 then (if s.b (F.GPIO_FILT_UNIT p) then n ≤ heldSlow else 20 * n ≤ heldNs, s)
  else if 20 ≤ heldNs then (true, s)
  else
    let (w, s) := s.free
    (w % 2 = 1, s)

/-- GPIO_EDGE (R425): a new level that passes the filter of its pin moves GPIO_IN; an output has the level that it drives. -/
def execGpioEdge (pin : BitVec 3) (rise : Bool) (heldNs heldSlow sinceNs : Nat) (s : State) : Res State :=
  .next <|
    let p := pin.toNat
    if s.on 21 = false ∨ s.fbit F.GPIO_IN_IN p = rise ∨ (s.fbit F.GPIO_DIR_DIR p ∧ s.fbit F.GPIO_OUT_OUT p ≠ rise) then s
    else
      let (ok, s) := s.gpioPasses p heldNs heldSlow
      if ok then s.gpioMove p rise (sinceNs < 100) else s

/-- The output levels are written. -/
def State.gpioOut (s : State) (v : Nat) : State := (s.setF F.GPIO_OUT_OUT v).gpioFollow
def State.gpioRaise (s : State) (d : Word) : State := s.gpioOut (s.f F.GPIO_OUT_OUT ||| d.toNat % 256)
def State.gpioLower (s : State) (d : Word) : State := s.gpioOut (s.f F.GPIO_OUT_OUT - (s.f F.GPIO_OUT_OUT &&& d.toNat % 256))

/-- GPIO_SET (R427). -/
def execGpioSet (data : Word) (s : State) : Res State :=
  if s.on 21 then writeTo R.GPIO_SET data (s.gpioRaise data) else .next s.busErr

/-- GPIO_CLR (R427). -/
def execGpioClr (data : Word) (s : State) : Res State :=
  if s.on 21 then writeTo R.GPIO_CLR data (s.gpioLower data) else .next s.busErr

end Sys2Proof.Machine
end

