-- ==== Sys2Proof/Machine/Transport.lean ====
section
/-! DEFINITION. Sessions, doorbells, the host SPI target and the UDP transport (R347 to R372). -/

namespace Sys2Proof.Machine

/-! ## Sessions (R349, R353, R354) -/

/-- An unfinished update is abandoned (R396). -/
def State.fwAbandon (s : State) : State :=
  if s.fw.owner.isSome then { s with fw := { s.fw with st := 5, owner := none } } else s

/-- A session closes: its parison is discarded, and an update it owns is abandoned (R157, R349, R396). -/
def State.closeSession (s : State) (m : Nat) : State :=
  if (s.mb m).opened then
    let s := if s.fw.owner = some (s.session m) then s.fwAbandon else s
    s.modMb m fun b => { b with opened := false, parison := [], evMask := 0 }
  else s

/-- The idle timeout of a mailbox's transport in seconds; 0 is off (R353). -/
def State.idleTimeout (s : State) (m : Nat) : Nat :=
  if m < 4 then s.pval (pid 0x01 0 0x20) 0
  else if m < 7 then s.pval (pid 0x01 0 0x21) 0
  else if m = 7 then s.pval (pid 0x01 0 0x23) 0
  else s.pval (pid 0x01 0 0x22) 60

/-- SESSION_IDLE_TIMEOUT (R353): the clock runs in S0 to S2 only. -/
def execSessionIdleTimeout (m : Fin 64) (s : State) : Res State :=
  .next <|
    if s.idleTimeout m ≠ 0 ∧ s.f F.PMU_STAT_STATE ≤ 2 then s.closeSession m else s

/-- DOORBELL_WRITE (R357): the pending bit sets, also when the write meets its clearing. -/
def execDoorbellWrite (_ : Initiator) (rsp : Bool) (m : Fin 64) (_ackMeets : Bool) (s : State) : Res State :=
  .next <|
    if s.on 21 = false then s.busErr
    else if rsp then s.rspBell m
    else s.setFbit (F.MBX_REQPEND_PEND (m.val / 32)) (m.val % 32) true

/-! ## The host SPI target (R358 to R365, R372) -/

def State.modHsp (s : State) (g : Hsp → Hsp) : State := { s with hsp := g s.hsp }

/-- Levels follow the FIFOs. -/
def State.hspSync (s : State) : State :=
  (s.setF F.HSP_LEVEL_TX s.hsp.tx.length).setF F.HSP_LEVEL_RX s.hsp.rx.length

/-- A channel with reply words, and the pin IRQ_N driven low (R364). -/
def State.rdy (s : State) (c : Nat) : Bool := s.f (F.HSP_RSPLEN_WORDS c) ≠ 0
def State.irqLow (s : State) : Bool := s.on 21 && ((List.range 4).any s.rdy || s.b F.HSP_ATTN_EVT)

/-- The status word (R361); `rom` when the ROM runs. -/
def State.hspStatus (s : State) (rom : Bool) : Word :=
  let ch := ((List.range 4).find? s.rdy).getD 0
  let cnt := match s.hsp.underrun with
    | some n => n
    | none => s.f (F.HSP_RSPLEN_WORDS ch)
  let rdy := ((List.range 4).map fun c => b2n (s.rdy c) * 2 ^ c).sum
  BitVec.ofNat 32 (b2n s.irqLow * 2 ^ 31 + b2n s.hsp.underrun.isSome * 2 ^ 30 + b2n s.hsp.partialPrev * 2 ^ 29 +
    b2n s.hsp.rxBusy * 2 ^ 28 + b2n rom * 2 ^ 27 + rdy * 2 ^ 20 + ch * 2 ^ 18 + min cnt 65535)

/-- The lanes of a DL value (R359), and the bits of a word, the most significant first (R358). -/
def hspLanes (dl : Nat) : Nat := if dl = 1 then 2 else if dl = 2 then 4 else 1
def bitsMsb (w : Word) : List Bool := (List.range 32).map fun i => w.getLsbD (31 - i)


/-- The words of an in phase: at most n, each with its number of bits; a final partial word is right-aligned (R363). -/
def hspWords (lanes n : Nat) (inp : List (BitVec 4)) : List (Word × Nat) :=
  let bits := (inp.flatMap (laneBits 0 lanes)).take (32 * n)
  (chunks 32 bits.length bits).map fun g => (BitVec.ofNat 32 (bitsNat g), g.length)

/-- The out phase (R360, R362): the status word, then the reply words owed, as far as the host clocks them.  The lanes are free
for 2 SCK periods before it when there is more than one.  The marks of the status word stand until one has gone out. -/
def State.hspOut (s : State) (rom : Bool) (f : HspFrame) : State :=
  let clocked := f.outWords
  let st := s.hspStatus rom
  let (c, n) := s.hsp.owed.getD (0, 0)
  let fifo := s.hsp.tx ++ f.refill
  let due := min n (clocked - 1)
  let begun := min n (clocked - 1 + b2n (0 < clocked && 0 < f.outCut))
  let fresh := fifo.take due
  let rep := fresh.getLastD 0xFFFFFFFF#32
  let words (k due : Nat) := (st :: (fifo.take due ++ List.replicate (due - fifo.length) rep) ++
    List.replicate (k - 1 - due) 0xFFFFFFFF#32).take k
  let under := decide (fifo.length < begun)
  let lanes := hspLanes f.dl.toNat
  let bits := (((words (clocked + 1) (min n clocked)).flatMap bitsMsb)).take (32 * clocked + f.outCut)
  let s := s.modHsp fun h => { h with
    tx := (fifo.drop fresh.length).take 64, out := words clocked due, owed := none
    pins := (if lanes = 1 then [] else [(0, 0), (0, 0)]) ++ laneDrive 1 lanes bits
    partialPrev := h.partialPrev && clocked = 0
    underrun := if clocked = 0 then h.underrun else if under then some fresh.length else none }
  let s := s.setF (F.HSP_RSPLEN_WORDS c) (s.f (F.HSP_RSPLEN_WORDS c) - fresh.length)
  (if under then s.flag F.HSP_STAT_UNDERRUN else s).hspSync

/-- Bytes of received words, each word least significant byte first.  Of a partial word, which is right-aligned, the bits
received are the highest of its place (R358, R363). -/
def hspBytes (ws : List HspRx) : List Byte := ws.flatMap fun w => leBytes 4 (w.word.toNat * 2 ^ (32 - w.nbits))

/-- The message was dropped, or was not: the next status word says so (R352, R361). -/
def State.hspBusy (s : State) (v : Bool) : State := s.modHsp fun h => { h with rxBusy := v }

/-- A message goes to the ring of its channel, with PARTIAL for one cut short and the bits of a partial last word as its TAG (log
9); a full ring drops it (R352, R363). -/
def State.hspDeliver (s : State) (ch : Nat) (ws : List HspRx) (cut : Bool) : State :=
  if (s.mb ch).reqN ≤ (s.mb ch).req.length then s.hspBusy true
  else s.pushReqTag ch (hspBytes ws) ((ws.getLast?.map fun w => w.nbits % 32).getD 0) (b2n cut)

/-- Firmware takes the head of the receive FIFO; with the last word of a message it puts the message on the ring of its
channel. -/
def State.hspTake (s : State) : State :=
  match s.hsp.rx with
  | w :: rest =>
    let msg := s.hsp.msg ++ [w]
    let s := (s.modHsp fun h => { h with rx := rest, msg := if w.last then [] else msg }).hspSync
    let s := ((s.setF F.HSP_RXINFO_VALID 1).setF F.HSP_RXINFO_PARTIAL (b2n w.part)).setF F.HSP_RXINFO_LAST (b2n w.last)
    let s := (s.setF F.HSP_RXINFO_NBITS w.nbits).ret w.word
    if w.last then s.hspDeliver w.ch msg w.cut else s
  | [] =>
    let (v, s) := (s.setF F.HSP_RXINFO_VALID 0).free
    s.ret (BitVec.ofNat 32 v)

/-- A frame that ends mid-word or short is marked (R363). -/
def State.hspPart (s : State) : State :=
  (s.flag F.HSP_STAT_PARTIAL).modHsp fun h => { h with partialPrev := true }

/-- The in phase of a MSG (R360, R363): up to LEN words enter the receive FIFO; a full ring or an overflow drops the
message (R352).  One of which no word came has nothing to enter it, and firmware puts the empty message on its ring. -/
def State.hspIn (s : State) (f : HspFrame) : State :=
  let len := f.len.toNat
  let ws := hspWords (hspLanes f.dl.toNat) len f.inp
  let short := decide ((ws.map (·.2)).sum < 32 * len)
  let ents := ws.zipIdx.map fun p =>
    (⟨p.1.1, decide (p.1.2 < 32), decide (p.2 + 1 = ws.length), p.1.2, f.ch.toNat, short⟩ : HspRx)
  let s := if short then s.hspPart else s
  let b := s.mb f.ch.toNat
  if len = 0 then s.hspBusy false
  else if b.reqN ≤ b.req.length then s.hspBusy true
  else if 64 < s.hsp.rx.length + ents.length - f.taken then (s.flag F.HSP_STAT_RXOVF).hspBusy true
  else if ws = [] then (s.hspBusy false).hspDeliver f.ch.toNat [] true
  else
    let s := ((s.hspBusy false).modHsp fun h => { h with rx := h.rx ++ ents }).hspSync
    s.forEach (List.range f.taken) fun s _ => if s.hsp.rx = [] then s else s.hspTake

/-- The command word of a frame (R359). -/
def hspCmd (op : Nat) (f : HspFrame) : Word :=
  BitVec.ofNat 32 (op * 2 ^ 28 + f.dl.toNat * 2 ^ 26 + f.ch.toNat * 2 ^ 24 + f.rsv.toNat * 2 ^ 16 + f.len.toNat)

/-- A frame of the host: 1 MSG, 2 READ, 3 STATUS; a reserved OP, or DL 3, sets CMDERR and acts as STATUS.  `rom` says
that the ROM runs, and `take` what becomes of the words of a MSG; the ROM refuses every channel but 0 (R467). -/
def State.hspFrame (s : State) (rom : Bool) (take : State → State) (op : Nat) (f : HspFrame) : State :=
  if s.on 21 = false ∨ s.b F.HSP_CTRL_EN = false then s
  else if f.cutCmd then s.modHsp fun h => { h with owed := none }
  else
    let bad := decide (f.dl = 3 ∨ op = 0 ∨ 3 < op) || (rom && f.ch != 0)
    let op' := if bad then 3 else op
    let s := if bad then s.flag F.HSP_STAT_CMDERR else s
    let s := s.hspOut rom f
    let s := if f.outCut ≠ 0 then s.hspPart else s
    let s := match op' with
      | 1 => take s
      | 2 => s.modHsp fun h => { h with owed := some (f.ch.toNat, f.len.toNat) }
      | _ => s
    (s.setReg R.HSP_CMD (hspCmd op f)).flag F.HSP_STAT_CMDEV

/-- HSP_RXDATA_READ (R372). -/
def execHspRxdataRead (_ : Initiator) (s : State) : Res State := .next (if s.on 21 then s.hspTake else s.busErr)

/-- A write to HSP_TXDATA, ignored while the FIFO is full. -/
def State.hspPut (s : State) (data : Word) : State :=
  if s.hsp.tx.length < 64 then (s.modHsp fun h => { h with tx := h.tx ++ [data] }).hspSync else s

/-- HSP_TXDATA_WRITE (R372). -/
def execHspTxdataWrite (data : Word) (s : State) : Res State := .next (if s.on 21 then s.hspPut data else s.busErr)

/-- Firmware offers a reply to the host: the oldest frame leaves the response ring of the channel's mailbox (log 34). -/
def State.hspOffer (s : State) (c n : Nat) : State :=
  let s := s.setF (F.HSP_RSPLEN_WORDS c) n
  if n % 65536 = 0 then s
  else if (s.mb c).rsp = [] then s else s.rspTaken c 1

/-- HSP_RSPLEN_WRITE (R372). -/
def execHspRsplenWrite (c : Dom) (data : Word) (s : State) : Res State :=
  if s.on 21 then writeTo (R.HSP_RSPLEN c) data (s.hspOffer c data.toNat) else .next s.busErr

/-! ## The UDP transport (R349, R369) -/

/-- The device's own IPv4 address and MAC address (class 0x40), as the bytes on the wire. -/
def State.ownIp (s : State) : List Byte := beBytes 4 (s.pval (pid 0x40 0 1) 0)
def State.ownMac (s : State) : List Byte :=
  match listed s.params (pid 0x40 0 3) with
  | some b => b.take 6
  | none => List.replicate 6 0

/-- The Internet checksum of an even number of bytes. -/
def inetSum (bs : List Byte) : Nat :=
  let t := ((chunks 2 bs.length bs).map beNat).sum
  let t := t % 65536 + t / 65536
  let t := t % 65536 + t / 65536
  0xFFFF - t

/-- An IPv4 datagram from this device: no fragments, no options (PRESUMED: identification 0 and a time to live of 64). -/
def State.ipFrame (s : State) (dstMac dstIp : List Byte) (proto : Nat) (body : List Byte) : List Byte :=
  let h := fun (sum : Nat) => [0x45#8, 0] ++ beBytes 2 (20 + body.length) ++ [0, 0, 0, 0, 64, BitVec.ofNat 8 proto] ++
    beBytes 2 sum ++ s.ownIp ++ dstIp
  dstMac ++ s.ownMac ++ [0x08, 0x00] ++ h (inetSum (h 0)) ++ body

/-- A BCP frame as a UDP datagram, with no UDP checksum. -/
def State.udpFrame (s : State) (dstMac dstIp : List Byte) (dstPort : Nat) (bs : List Byte) : List Byte :=
  s.ipFrame dstMac dstIp 17 (beBytes 2 50617 ++ beBytes 2 dstPort ++ beBytes 2 (8 + bs.length) ++ [0, 0] ++ bs)

/-- The UDP mailbox that an address and port hold, and the lowest free one. -/
def State.udpOf (s : State) (ip port : Nat) : Option Nat :=
  ((List.range 56).map (· + 8)).find? fun m =>
    (s.mb m).opened && (s.mb m).peerAddr.toNat = ip && (s.mb m).peerPort.toNat = port
def State.udpFree (s : State) : Option Nat :=
  ((List.range 56).map (· + 8)).find? fun m => !(s.mb m).opened && (s.mb m).req = []

/-- The reply that a datagram gets without a session: a frame for the sender. -/
def State.udpRefuse (s : State) (mac ip : List Byte) (port status : Nat) (bs : List Byte) : List Byte :=
  s.udpFrame mac ip port (s.bcpReply ((bs.getD 1 0).toNat) (frameU16 bs 4) (frameU16 bs 6) status [])

/-- A datagram to port 50,617: one BCP frame for a UDP session, or a reply that refuses it. -/
def State.udpDatagram (s : State) (mac ip : List Byte) (port : Nat) (bs : List Byte) : Option (List Byte) × State :=
  let addr := beNat ip
  if 1472 < bs.length ∨ bs.length < 16 ∨ leNat ((bs.drop 8).take 4) + 16 ≠ bs.length then
    (none, { s with net := { s.net with udpDrops := s.net.udpDrops + 1 } })
  else if bs.getD 1 0 = 0 then
    match (s.udpOf addr port).orElse fun _ => s.udpFree with
    | some m =>
      (none, (s.modMb m fun b => { b with
        peerAddr := BitVec.ofNat 32 addr, peerPort := BitVec.ofNat 16 port, peerMac := mac }).pushReq m bs 0)
    | none => (some (s.udpRefuse mac ip port 10 bs), s)
  else match s.udpOf addr port with
    | some m => if s.session m = frameU16 bs 4 then (none, s.pushReq m bs 0) else (some (s.udpRefuse mac ip port 3 bs), s)
    | none => (some (s.udpRefuse mac ip port 3 bs), s)

/-- The next reply or event of a UDP session as a datagram: the lowest mailbox first. -/
def State.udpNext (s : State) : Option (List Byte) × State :=
  match ((List.range 56).map (· + 8)).find? fun m => (s.mb m).rsp ≠ [] with
  | some m =>
    let b := s.mb m
    let f := s.udpFrame b.peerMac (beBytes 4 b.peerAddr.toNat) b.peerPort.toNat ((b.rsp.head?.map (·.bytes)).getD [])
    (some f, s.rspTaken m 1)
  | none => (none, s)

end Sys2Proof.Machine
end

