-- ==== Sys2Proof/Machine/Net.lean ====
section
/-! DEFINITION. The switch with its queues, shaping and time stamps, the stream engine, and the joining and leaving of
ports (R311 to R320, R326, R327, R337 to R343, R345, R346). -/

namespace Sys2Proof.Machine

def State.modNet (s : State) (g : Net → Net) : State := { s with net := g s.net }
def State.netPort (s : State) (p : Nat) : NetPort := s.net.ports[p]?.getD NetPort.init
def State.modPort (s : State) (p : Nat) (g : NetPort → NetPort) : State :=
  s.modNet fun n => { n with ports := vmod n.ports p g }

/-! ## Fields of a frame, without its FCS -/

def frameAt (f : List Byte) (off n : Nat) : Nat := beNat ((f.drop off).take n)
def frameDst (f : List Byte) : Nat := frameAt f 0 6
def frameSrc (f : List Byte) : Nat := frameAt f 6 6
def frameTagged (f : List Byte) : Bool := frameAt f 12 2 = 0x8100
def frameTci (f : List Byte) : Nat := frameAt f 14 2

/-- Offset of the payload, and its EtherType. -/
def frameOff (f : List Byte) : Nat := if frameTagged f then 18 else 14
def frameType (f : List Byte) : Nat := frameAt f (frameOff f - 2) 2

/-- The frame with no VLAN tag, and with one. -/
def untag (f : List Byte) : List Byte := if frameTagged f then f.take 12 ++ f.drop 16 else f
def tagged (f : List Byte) (pcp vid : Nat) : List Byte :=
  f.take 12 ++ [0x81, 0x00] ++ beBytes 2 (pcp * 8192 + vid) ++ f.drop 12

/-- Bytes replaced from an offset. -/
def patch (f : List Byte) (off : Nat) (bs : List Byte) : List Byte := f.take off ++ bs ++ f.drop (off + bs.length)

/-- Link-local destinations (R313). -/
def linkLocal (f : List Byte) : Bool := frameDst f / 16 = 0x0180C200000

/-- Offset of the UDP header of an IPv4 datagram, and of the PTP message of a frame (R320). -/
def udpOff (f : List Byte) : Option Nat :=
  let o := frameOff f
  if frameType f = 0x0800 ∧ frameAt f (o + 9) 1 = 17 then some (o + frameAt f o 1 % 16 * 4) else none
def ptpOff (f : List Byte) : Option Nat :=
  if frameType f = 0x88F7 then some (frameOff f)
  else match udpOff f with
    | some u => if frameAt f (u + 2) 2 = 319 ∨ frameAt f (u + 2) 2 = 320 then some (u + 8) else none
    | none => none

/-- PTP messageType, twoStepFlag and sequenceId. -/
def ptpType (f : List Byte) : Nat :=
  match ptpOff f with
  | some o => frameAt f o 1 % 16
  | none => 0
def ptpTwoStep (f : List Byte) : Bool :=
  match ptpOff f with
  | some o => (frameAt f (o + 6) 1).testBit 1
  | none => false
def ptpSeq (f : List Byte) : Nat :=
  match ptpOff f with
  | some o => frameAt f (o + 30) 2
  | none => 0

/-! ## Stamps (R319) -/

/-- What joins a Follow_Up to its Sync: the port identity of the source and the sequenceId. -/
def ptpKey (f : List Byte) : Nat :=
  match ptpOff f with
  | some o => frameAt f (o + 20) 12
  | none => 0

/-- The corrections of a port at its current speed: ingress and egress. -/
def State.inCorr (s : State) (p : Nat) : Int :=
  sext 16 (s.f (match s.f (F.PORT_CTRL_SPEED p) with
    | 0 => F.PORT_TSC10_INCORR p | 1 => F.PORT_TSC100_INCORR p | _ => F.PORT_TSC1G_INCORR p))
def State.egCorr (s : State) (p : Nat) : Int :=
  sext 16 (s.f (match s.f (F.PORT_CTRL_SPEED p) with
    | 0 => F.PORT_TSC10_EGCORR p | 1 => F.PORT_TSC100_EGCORR p | _ => F.PORT_TSC1G_EGCORR p))

/-- The link rate in kbit/s. -/
def State.linkKbps (s : State) (p : Nat) : Nat := linkRate (s.f (F.PORT_CTRL_SPEED p))

/-! ## Tables (R314, R315, R345) -/

def State.macFind (s : State) (mac vid : Nat) : Option MacEnt := s.net.macs.find? fun e => e.mac = mac ∧ e.vid = vid

/-- An entry replaces the one of its key; a full table takes no new key. -/
def State.macPut (s : State) (e : MacEnt) : State :=
  if (s.macFind e.mac e.vid).isSome then
    s.modNet fun n => { n with macs := n.macs.map fun x => if x.mac = e.mac ∧ x.vid = e.vid then e else x }
  else if s.net.macs.length < 1024 then s.modNet fun n => { n with macs := n.macs ++ [e] }
  else if e.static_ then s
  else s.flag F.NSW_STAT_MTFULL

/-- The source address of an accepted frame is learned, except for a static key. -/
def State.learn (s : State) (mac vid port : Nat) : State :=
  if (s.macFind mac vid).any (·.static_) then s else s.macPut ⟨mac, vid, 2 ^ port, false, 0⟩

/-- The VLAN table entry of a VID: its member and untag masks. -/
def State.vlan (s : State) (vid : Nat) : Option (Nat × Nat) :=
  ((List.range 64).find? fun v => s.b (F.NSW_VLAN_VALID v) && s.f (F.NSW_VLAN_VID v) = vid).map fun v =>
    (s.f (F.NSW_VLAN_MEMBER v), s.f (F.NSW_VLAN_UNTAG v))

/-- The form in which a frame of a VLAN leaves a port. -/
def State.leave (s : State) (q vid pcp : Nat) (f : List Byte) : List Byte :=
  match s.vlan vid with
  | some (_, u) => if u.testBit q then untag f else tagged (untag f) pcp vid
  | none => f

/-- Ports that rule 3 to 5 of R313 name, for a frame that came in by a port (2 is internal). -/
def State.outPorts (s : State) (ingress vid dst : Nat) : List Nat :=
  let mem := ((s.vlan vid).map (·.1)).getD 0
  let named := ((s.macFind dst vid).map (·.ports)).getD 7
  (List.range 3).filter fun q => q ≠ ingress ∧ mem.testBit q ∧ named.testBit q

/-- A port is enabled, and BLOCK does not keep the two apart. -/
def State.passes (s : State) (ingress q : Nat) : Bool :=
  (q = 2 || s.b (F.PORT_CTRL_EN q)) &&
    (ingress = 2 || q = 2 || (!s.b (F.PORT_CTRL_BLOCK ingress) && !s.b (F.PORT_CTRL_BLOCK q)))

/-! ## Queues (R316 to R318) -/

def State.srA (s : State) : Nat := s.f F.NSW_CTRL_SRPCPA
def State.srB (s : State) : Nat := s.f F.NSW_CTRL_SRPCPB
def State.isSr (s : State) (pcp : Nat) : Bool := pcp = s.srA || pcp = s.srB

/-- Bytes that the packet buffer holds, FCS included. -/
def State.bufUse (s : State) : Nat :=
  (((s.netPort 0).q ++ (s.netPort 1).q).map fun p => p.bytes.length + 4).sum

def State.drop (s : State) (p : Nat) : State := if p < 2 then s.sat (F.PORT_STAT_DROPS p) 1 else s

/-- The credit of a class now: since it was counted, and since its latest frame has left the line, it has risen at the idle slope
while frames waited; with none waiting a positive one is 0 (R317). -/
def creditNow (credit : Int) (idle now upd sent : Nat) (waits : Bool) : Int :=
  if waits then credit + (idle * ((now - max upd sent) / nowNs) : Nat)
  else if sent ≤ now then min credit 0 else credit

/-- Credits of a port up to now. -/
def State.creditTick (s : State) (q : Nat) : State :=
  let waits := fun (pcp : Nat) => (s.netPort q).q.any (·.pcp = pcp)
  s.modPort q fun x => { x with
    creditA := creditNow x.creditA (s.f (F.PORT_IDLEA_KBPS q)) s.now x.upd x.sentA (waits s.srA)
    creditB := creditNow x.creditB (s.f (F.PORT_IDLEB_KBPS q)) s.now x.upd x.sentB (waits s.srB)
    upd := s.now }

/-- A frame enters an egress queue. -/
def State.enqueuePkt (s : State) (q : Nat) (p : Pkt) : State :=
  if s.isSr p.pcp ∧ s.b (F.PORT_CTRL_SRON q) = false then s.drop q
  else if 196608 < s.bufUse + p.bytes.length + 4 then (s.flag F.NSW_STAT_BUFDROP).drop p.ingress
  else (s.creditTick q).modPort q fun x => { x with q := x.q ++ [p] }

/-- The VID of a tagged frame, if it has one of its own (R315). -/
def ownVid (f : List Byte) : Option Nat :=
  if frameTagged f && frameTci f % 4096 ≠ 0 then some (frameTci f % 4096) else none

/-- The port is a member of the VLAN that a tagged frame names; any port takes an untagged or priority-tagged frame (R315). -/
def State.memberOf (s : State) (p : Nat) (f : List Byte) : Bool :=
  match ownVid f with
  | some v => ((s.vlan v).map fun m => m.1.testBit p).getD false
  | none => true

/-- VID and PCP of a frame of the internal port: an untagged one has VID 1 and PCP 0 (log 20). -/
def internalVlan (f : List Byte) : Nat × Nat := ((ownVid f).getD 1, if frameTagged f then frameTci f / 8192 else 0)

/-- A frame that firmware or the stream engine sends from the internal port enters the switch as one of any port does: a tagged one
only of a VLAN of the port (R315), and its source is learned (R314). -/
def State.sendInternal (s : State) (f : List Byte) (queue : Option Nat) (tag : Option Nat) : State :=
  let (vid, pcp) := internalVlan f
  if s.memberOf 2 f = false then s
  else
    let s := s.learn (frameSrc f) vid 2
    let qs := ((s.outPorts 2 vid (frameDst f)).filter (· < 2)).filter fun q => s.passes 2 q
    s.forEach qs fun s q => s.enqueuePkt q ⟨s.leave q vid pcp f, queue.getD pcp, 2, 0, tag, false, false⟩

/-- Firmware sends a frame from the internal port out of a port that it names. -/
def State.sendBy (s : State) (q : Nat) (f : List Byte) (tag : Option Nat) : State :=
  let (vid, pcp) := internalVlan f
  if s.memberOf 2 f ∧ s.passes 2 q then
    (s.learn (frameSrc f) vid 2).enqueuePkt q ⟨s.leave q vid pcp f, pcp, 2, 0, tag, false, false⟩
  else s

/-- A message with a sum of ns added to its correctionField, and a UDP checksum of 0 (R327). -/
def syncFix (f : List Byte) (add : Int) : List Byte :=
  match ptpOff f with
  | some o =>
    let f := patch f (o + 8) (beBytes 8 (wrapN 64 (frameAt f (o + 8) 8 + add * 65536)))
    match udpOff f with
    | some u => patch f (u + 6) [0, 0]
    | none => f
  | none => f

/-- Entries of a key whose source has none older left. -/
def newest {α : Type} (l : List (Nat × α)) (e : Nat × α) : List (Nat × α) := l.filter (fun x => x.1 / 65536 ≠ e.1 / 65536) ++ [e]

/-- Firmware sends each Follow_Up whose Sync has left, out of the port that the Sync left by, with the same sum (R327). -/
def State.followUps (s : State) : State :=
  s.net.fups.foldl (init := s) fun s x =>
    match listed s.net.syncs x.1 with
    | none => s
    | some (q, sum) =>
      let s := s.modNet fun n => { n with fups := n.fups.filter (·.1 ≠ x.1), syncs := n.syncs.filter (·.1 ≠ x.1) }
      s.sendBy q (syncFix x.2 sum) none

/-- A Follow_Up reaches firmware in mode 2, or in mode 3 as a relay (R327). -/
def State.followUp (s : State) (f : List Byte) : State :=
  if 2 ≤ s.f F.NSW_CTRL_PTPMODE ∧ ptpType f = 8 then (s.modNet fun n => { n with fups := newest n.fups (ptpKey f, f) }).followUps
  else s

/-! ## The internal port (R320, R345) -/

/-- A frame goes to the next free entry of the receive ring, with its ingress stamp; none free: it is dropped. -/
def State.ringPut (s : State) (f : List Byte) (ingress : Nat) (stamp : Int) : State :=
  let hw := s.f F.NSW_RXIDX_HW
  if hw = s.f F.NSW_RXIDX_SW then s.flag F.NSW_STAT_BUFDROP
  else
    let at_ := s.f F.NSW_RXBASE_ADDR + 16 * hw
    let ns := stamp.toNat
    let (buf, s) := s.sramLoad at_ 4
    let s := s.sramStore (leNat buf) f
    let s := s.sramStore (at_ + 4) (leBytes 4 (2 ^ 30 + ingress * 2 ^ 28 + f.length) ++
      leBytes 4 (ns % 1000000000) ++ leBytes 4 (ns / 1000000000))
    s.setF F.NSW_RXIDX_HW ((hw + 1) % (s.f F.NSW_RXIDX_SIZE + 1))

/-- An ARP request for this device's address is answered (R369). -/
def State.arp (s : State) (f : List Byte) : State :=
  let o := frameOff f
  if frameType f = 0x0806 ∧ frameAt f (o + 6) 2 = 1 ∧ (f.drop (o + 24)).take 4 = s.ownIp then
    let sha := (f.drop (o + 8)).take 6
    let spa := (f.drop (o + 14)).take 4
    s.sendInternal (sha ++ s.ownMac ++ [0x08, 0x06, 0, 1, 8, 0, 6, 4, 0, 2] ++ s.ownMac ++ s.ownIp ++ sha ++ spa ++
      List.replicate 18 0) none none
  else s

/-- An IPv4 datagram for this device: ICMP echo is answered, and port 50,617 is the UDP transport's. -/
def State.ipIn (s : State) (f : List Byte) : State :=
  let o := frameOff f
  let ihl := frameAt f o 1 % 16 * 4
  let total := frameAt f (o + 2) 2
  let body := (f.drop (o + ihl)).take (total - ihl)
  let src := (f.drop (o + 12)).take 4
  let mac := (f.drop 6).take 6
  if frameType f ≠ 0x0800 ∨ (f.drop (o + 16)).take 4 ≠ s.ownIp then s
  else if frameAt f (o + 6) 2 % 16384 ≠ 0 then
    -- a fragment
    if frameAt f (o + 9) 1 = 17 then s.modNet fun n => { n with udpDrops := n.udpDrops + 1 } else s
  else if frameAt f (o + 9) 1 = 1 ∧ body.headD 0 = 8 then
    let r := fun (sum : Nat) => [0#8, 0] ++ beBytes 2 sum ++ body.drop 4
    let even := fun (bs : List Byte) => if bs.length % 2 = 0 then bs else bs ++ [0]
    s.sendInternal (s.ipFrame mac src 1 (r (inetSum (even (r 0))))) none none
  else if frameAt f (o + 9) 1 = 17 ∧ beNat ((body.drop 2).take 2) = 50617 then
    let (rep, s) := s.udpDatagram mac src (beNat (body.take 2)) ((body.take (beNat ((body.drop 4).take 2))).drop 8)
    match rep with
    | some r => s.sendInternal r none none
    | none => s
  else s

/-- A frame reaches the internal port: the ring, and firmware that answers (R327, R369). -/
def State.deliver (s : State) (f : List Byte) (ingress : Nat) (stamp : Int) : State :=
  (((s.ringPut f ingress stamp).arp f).ipIn f).followUp f

/-! ## Listeners (R337, R339 to R341) -/

def State.listener (s : State) (k : Nat) : Listener := s.net.listeners[k]?.getD ⟨[], [], 0, 0, .pass, none⟩
def State.modListener (s : State) (k : Nat) (g : Listener → Listener) : State :=
  s.modNet fun n => { n with listeners := vmod n.listeners k g }
def State.strDom (s : State) (k : Nat) : Nat := s.f (F.STR_CTRL_DOMAIN k)

/-- A sticky flag of a stream shows in SE_STAT. -/
def State.strFlag (s : State) (k : Nat) (x : Fld) : State :=
  let s1 := (s.flag x).setFbit F.SE_STAT_STREAM k true
  if s.fbit F.SE_STAT_STREAM k then s1 else s1.irqEvent 60

/-- Bytes per sample of a format. -/
def fmtBytes (fmt : Nat) : Nat := fmt + 2

/-- The stream ID and the destination that a stream's registers hold. -/
def State.strSid (s : State) (k : Nat) : Nat := s.f2 (F.STR_SIDL_SID k) (F.STR_SIDH_SID k)
def State.strMac (s : State) (k : Nat) : Nat := s.f2 (F.STR_DMACL_MAC k) (F.STR_DMACH_MAC k)

/-- Sample i of channel c in an AAF payload, as a Q1.31 word (R279). -/
def aafWord (p : List Byte) (bytes nch i c : Nat) : Word :=
  BitVec.ofNat 32 (beNat ((p.drop ((i * nch + c) * bytes)).take bytes) * 2 ^ (32 - 8 * bytes))

/-- The samples of a listener frame are placed at their ticks (R339, R340). -/
def State.place (s : State) (k d ts n nch bytes : Nat) (p : List Byte) : State :=
  let now := s.tuTime
  let t : Int := (now : Int) + sext 32 (ts + 2 ^ 32 - now % 2 ^ 32)
  let fs := s.rate d
  let rel : Rat := ((t - (s.t0 d : Int) : Int) : Rat) * fs.1 / (1000000000 * fs.2)
  s.forEach (List.range n) fun s i =>
    let early : Rat := (t : Rat) + (i : Rat) * 1000000000 * fs.2 / fs.1 - now
    if 20000000 < early then (s.sat (F.STR_EARLYCNT_COUNT (k - 8)) 1).strFlag k (F.STR_STAT_EARLY k)
    else
      let m := (rel + i + 1 / 2).floor
      if m ≤ (s.sidx d : Int) + 1 then s
      else
        let ws := (List.range nch).map fun c => aafWord p bytes nch i c
        s.modListener (k - 8) fun x => { x with sched := smapIns x.sched m.toNat ws }

/-- Format, channel count and rate of an AAF frame are those of the stream's settings; tv is 1 and sp is 0. -/
def aafFits (f : List Byte) (o fmt nch nsr : Nat) : Bool :=
  fmt != 3 && frameAt f (o + 16) 1 + fmt == 4 && frameAt f (o + 17) 2 % 1024 == nch && frameAt f (o + 17) 1 / 16 == nsr &&
    (frameAt f (o + 1) 1).testBit 0 && !(frameAt f (o + 22) 1).testBit 4

/-- The EtherType and subtype of an AAF frame. -/
def isAaf (f : List Byte) : Bool := frameType f == 0x22F0 && frameAt f (frameOff f) 1 == 2

/-- A gap in the sequence numbers of a stream is counted (R340). -/
def State.strSeq (s : State) (k seq : Nat) : State :=
  let gap := (s.listener (k - 8)).seq.any fun q => seq != (q + 1) % 256
  let s := s.modListener (k - 8) fun x => { x with seq := some seq }
  if gap then s.sat (F.STR_SEQCNT_COUNT (k - 8)) 1 else s

/-- A frame of one listener's stream (R339, R341). -/
def State.listenOne (s : State) (k : Nat) (f : List Byte) : State :=
  let o := frameOff f
  let d := s.strDom k
  let n := fmtBytes (s.f (F.STR_CTRL_FMT k))
  let nch := s.f (F.STR_CTRL_NCHM1 k) + 1
  let s := s.strSeq k (frameAt f (o + 2) 1)
  if aafFits f o (s.f (F.STR_CTRL_FMT k)) nch (nsrCode (s.rate d)) then
    if s.onTime d && s.running d then
      s.place k d (frameAt f (o + 12) 4) (frameAt f (o + 20) 2 / (nch * n)) nch n (f.drop (o + 24))
    else s
  else s.strFlag k (F.STR_STAT_FMTERR k)

/-- An AAF frame for listeners: those whose stream ID and destination it names (R337). -/
def State.listen (s : State) (f : List Byte) : State :=
  if s.b F.SE_CTRL_EN && isAaf f then
    let ks := ((List.range 8).map (· + 8)).filter fun k =>
      s.b (F.STR_CTRL_EN k) && s.strSid k == frameAt f (frameOff f + 4) 8 && s.strMac k == frameDst f
    s.forEach ks fun s k => s.listenOne k f
  else s

/-- A listener's channels write words through the routes of KIND 5. -/
def State.strWrite (s : State) (k : Nat) (ws : List Word) : State :=
  ws.zipIdx.foldl (fun s w => s.writeFrom 5 k w.2 w.1) s

/-- The stream is lost: its channels have ramped to 0 (R340). -/
def State.streamLost (s : State) (k : Nat) : State :=
  let s := (s.strFlag k (F.STR_STAT_LOST k)).setF (F.STR_STAT_MUTED k) 1
  (s.modListener (k - 8) fun x => { x with ramp := .zero }).raise 0x0601
    ([BitVec.ofNat 8 k, 0, 0, 0] ++ leBytes 4 (s.f (F.STR_LATECNT_COUNT (k - 8))))

/-- The ramp of a listener falls, or has fallen. -/
def InRamp.down (r : InRamp) : Bool := match r with
  | .fall _ | .zero => true
  | _ => false

/-- What a listener writes for its ramp. -/
def State.strRamp (s : State) (k : Nat) (fresh : Bool) : State :=
  let x := s.listener (k - 8)
  let next := fun (r : InRamp) (s : State) => s.modListener (k - 8) fun x => { x with ramp := r }
  match x.ramp with
  | .pass => if fresh then s.strWrite k x.hold else s
  | .fall i =>
    let s := s.strWrite k (x.hold.map (fall64 i))
    if i = 63 then s.streamLost k else next (.fall (i + 1)) s
  | .zero => s.strWrite k (x.hold.map fun _ => 0)
  | .rise i => if fresh then next (if i = 63 then .pass else .rise (i + 1)) (s.strWrite k (x.hold.map (rise64 i))) else s

/-- A listener at tick t of its domain: the sample for tick t + 1 (R339, R340). -/
def State.listenTick (s : State) (k t : Nat) : State :=
  let on := s.onTime (s.strDom k)
  let x := s.listener (k - 8)
  let s := s.setF (F.STR_STAT_RUN k) (b2n on)
  let s := s.modListener (k - 8) fun x => { x with sched := x.sched.filter fun e => t + 1 < e.1 }
  match (listed x.sched (t + 1)).filter fun _ => on with
  | some ws =>
    let s := s.modListener (k - 8) fun x => { x with
      hold := if x.ramp = .pass ∨ x.ramp = .zero ∨ 64 ≤ x.goodRun + 1 then ws else x.hold
      lateRun := 0, goodRun := x.goodRun + 1 }
    let s := if s.b (F.STR_STAT_MUTED k) ∧ 64 ≤ (s.listener (k - 8)).goodRun then
        (s.setF (F.STR_STAT_MUTED k) 0).modListener (k - 8) fun x => { x with ramp := .rise 0, hold := ws }
      else s
    s.strRamp k true
  | none =>
    let s := if on then (s.sat (F.STR_LATECNT_COUNT (k - 8)) 1).strFlag k (F.STR_STAT_LATE k) else s
    let s := s.modListener (k - 8) fun x => { x with lateRun := x.lateRun + 1, goodRun := 0 }
    let x := s.listener (k - 8)
    let s := if x.ramp.down = false ∧ (64 ≤ x.lateRun ∨ on = false) then
        s.modListener (k - 8) fun x => { x with ramp := .fall 0 }
      else s
    s.strRamp k false

/-! ## Talkers (R338, R341) -/

def State.talker (s : State) (k : Nat) : Talker := s.net.talkers[k]?.getD ⟨[], 0, 0⟩
def State.modTalker (s : State) (k : Nat) (g : Talker → Talker) : State :=
  s.modNet fun n => { n with talkers := vmod n.talkers k g }

/-- The AAF frame of a talker (PRESUMED: the layout of IEEE 1722, log 21). -/
def State.talkFrame (s : State) (k : Nat) : List Byte :=
  let x := s.talker k
  let d := s.strDom k
  let fmt := s.f (F.STR_CTRL_FMT k)
  let nch := s.f (F.STR_CTRL_NCHM1 k) + 1
  let n := fmtBytes fmt
  let data := x.acc.flatMap fun ws => ws.flatMap fun w => (beBytes 4 w.toNat).take n
  let ts := (s.nominal d x.start).floor + s.f (F.STR_OFFSET_NS k)
  let body := [0x22#8, 0xF0, 0x02, 0x81, BitVec.ofNat 8 x.seq, 0] ++ beBytes 8 (s.strSid k) ++ beBytes 4 (wrapN 32 ts) ++
    [BitVec.ofNat 8 (4 - fmt)] ++ beBytes 2 (nsrCode (s.rate d) * 4096 + nch) ++ [BitVec.ofNat 8 (8 * n)] ++
    beBytes 2 data.length ++ [0, 0] ++ data
  tagged (beBytes 6 (s.strMac k) ++ s.ownMac ++ body ++ List.replicate (46 - (body.length - 2)) 0)
    (s.f (F.STR_VLAN_PCP k)) (s.f (F.STR_VLAN_VID k))

/-- A talker at tick n of its domain, after the slots have flipped: the frame that is full goes to its SR class, and the
published words join the next (R338). -/
def State.talkTick (s : State) (k n : Nat) : State :=
  let spf := s.f (F.STR_CTRL_SPFM1 k) + 1
  if s.onTime (s.strDom k) = false ∨ nsrCode (s.rate (s.strDom k)) = 0 then
    (s.setF (F.STR_STAT_RUN k) 0).modTalker k fun x => { x with acc := [] }
  else
    let s := s.setF (F.STR_STAT_RUN k) 1
    let x := s.talker k
    let s :=
      if n % spf = 0 then
        let s := if x.acc.length = spf ∧ x.start + spf = n then
            (s.sendInternal (s.talkFrame k) (some (if s.b (F.STR_CTRL_CLASS k) then s.srB else s.srA)) none).modTalker k
              fun x => { x with seq := (x.seq + 1) % 256 }
          else s
        s.modTalker k fun x => { x with acc := [], start := n }
      else s
    let ws := (List.range (s.f (F.STR_CTRL_NCHM1 k) + 1)).map fun c => s.srcWord (s.reg (R.STR_SRC k c))
    if (s.talker k).acc = [] ∧ n % spf ≠ 0 then s else s.modTalker k fun x => { x with acc := x.acc ++ [ws] }

/-- Streams at tick n of a domain; a FMT of 3 sets FMTERR, and such a stream carries nothing (R346). -/
def State.seTick (s : State) (d n : Nat) : State :=
  if s.b F.SE_CTRL_EN ∧ s.on 24 then
    s.forEach ((List.range 16).filter fun k => s.b (F.STR_CTRL_EN k) && s.strDom k = d) fun s k =>
      if s.f (F.STR_CTRL_FMT k) = 3 then s.strFlag k (F.STR_STAT_FMTERR k)
      else if k < 8 then s.talkTick k n else s.listenTick k n
  else s

/-! ## Reception (R312 to R315, R318, R327) -/

/-- The ports of a PTP frame in mode 2 (R327): a Sync goes to the other external port and to the internal one, the
messages that firmware handles only to the internal one. -/
def ptpPorts (ingress type : Nat) : Option (List Nat) :=
  if type = 0 then some [1 - ingress, 2]
  else if type ∈ [2, 3, 8, 0xA, 0xB, 0xC] then some [2]
  else none

/-- A frame that came in by a port goes to a port. -/
def State.forward (s : State) (ingress q vid pcp : Nat) (f : List Byte) (stamp : Int) (sync : Bool) : State :=
  if s.passes ingress q = false then s
  else if q = 2 then s.deliver (s.leave 2 vid pcp f) ingress stamp
  else s.enqueuePkt q
    ⟨if sync && ptpTwoStep f then f else s.leave q vid pcp f, pcp, ingress, stamp, none, sync && !ptpTwoStep f, sync && ptpTwoStep f⟩

/-- Firmware relays a gPTP frame of mode 3 (R327): a Sync goes out of the other port, so that its stamps correct it or its Follow_Up,
and Announce and Signaling messages go there as they are; a Follow_Up waits for its Sync, and the messages that measure a link's
delay end here (PRESUMED: IEEE 802.1AS, log 20). -/
def State.relay (s : State) (p vid pcp : Nat) (f : List Byte) (stamp : Int) : State :=
  let q := 1 - p
  let t := ptpType f
  if s.f F.NSW_CTRL_PTPMODE ≠ 3 ∨ (ptpOff f).isNone ∨ s.passes 2 q = false then s
  else if t = 0 then s.enqueuePkt q ⟨s.leave q vid pcp f, pcp, p, stamp, none, !ptpTwoStep f, ptpTwoStep f⟩
  else if t = 0xB ∨ t = 0xC then s.enqueuePkt q ⟨s.leave q vid pcp f, pcp, 2, 0, none, false, false⟩
  else s

/-- The VID and the PCP of a frame that came in by a port (R315). -/
def State.vidOf (s : State) (p : Nat) (f : List Byte) : Nat :=
  (ownVid f).getD (s.f (F.PORT_CTRL_PVID p))
def State.pcpOf (s : State) (p : Nat) (f : List Byte) : Nat :=
  if frameTagged f then frameTci f / 8192 else s.f (F.PORT_CTRL_DEFPCP p)

/-- A port does not take a tagged frame of a VLAN that it is no member of (R315), nor, without SRON, one of an SR class (R318). -/
def State.refusesFrame (s : State) (p : Nat) (f : List Byte) : Bool :=
  !s.memberOf p f || (s.isSr (s.pcpOf p f) && !s.b (F.PORT_CTRL_SRON p))

/-- An accepted frame of an external port is learned from and goes where the forwarding rules send it (R313). -/
def State.accept (s : State) (p : Nat) (f : List Byte) : State :=
  let vid := s.vidOf p f
  let pcp := s.pcpOf p f
  let stamp : Int := (s.tuTime : Int) + s.inCorr p
  let s := (s.learn (frameSrc f) vid p).listen f
  let ptp := if s.f F.NSW_CTRL_PTPMODE = 2 ∧ (ptpOff f).isSome then ptpPorts p (ptpType f) else none
  if linkLocal f then (s.forward p 2 vid pcp f stamp false).relay p vid pcp f stamp
  else match ptp with
    | some qs => s.forEach qs fun s q => s.forward p q vid pcp f stamp (ptpType f = 0)
    | none => s.forEach (s.outPorts p vid (frameDst f)) fun s q => s.forward p q vid pcp f stamp false

/-- Firmware disciplines the TU to its source (R328): by STEP above 10 µs, else through TU_ADJ, whose value the manual leaves to
firmware: an open value (log 6). -/
def State.disciplineTu (s : State) (offset : Int) : State :=
  if offset = 0 then s
  else if 10000 < offset.natAbs then
    (s.setReg R.TU_STEPNS (BitVec.ofInt 32 (-offset))).tuCtrl false true |>.stepAnchors
  else
    let (v, s) := s.free
    s.setF F.TU_ADJ_ADJ v

/-- Firmware takes a time message of its chosen source: the source is there, at the offset that firmware measures with it
(R326, R328, R332). -/
def State.timeMessage (s : State) (offset : Int) : State :=
  ({ s with tu := { s.tu with source := true, offset := offset } }.anchorKick).disciplineTu offset

/-- FRAME_RECEIVE (R312).  `offset` is the TU's offset in ns when the frame is the message that completes firmware's
measurement against its chosen time source: the choice of source and the measurement are those of the selected profile (R326,
log 20). -/
def execFrameReceive (el : Elapsed) (port : Bool) (frame : List Byte) (fcsOk : Bool) (offset : Option Int) (s : State) :
    Res State :=
  .next <|
    let s := s.advance el
    let p := b2n port
    if s.on 24 = false ∨ s.b F.NSW_CTRL_EN = false ∨ s.b (F.PORT_CTRL_EN p) = false then s
    else if fcsOk = false ∨ frame.length + 4 < 64 ∨ 1522 < frame.length + 4 ∨ s.refusesFrame p frame then s.drop p
    else
      let timed := if s.f F.NSW_CTRL_PTPMODE ≠ 0 ∧ (ptpOff frame).isSome then offset else none
      timed.elim id (fun o s => s.timeMessage o) (s.accept p frame)

/-! ## Transmission (R317, R319, R320, R327) -/

/-- The queue that is served next: class A or B with credit 0 or more, then the unshaped queues by PCP. -/
def State.selectQueue (s : State) (q : Nat) : Option Nat :=
  let p := s.netPort q
  let waits := fun (pcp : Nat) => p.q.any (·.pcp = pcp)
  let sa := s.f (F.PORT_IDLEA_KBPS q) ≠ 0
  let sb := s.f (F.PORT_IDLEB_KBPS q) ≠ 0
  if sa ∧ waits s.srA ∧ 0 ≤ p.creditA then some s.srA
  else if sb ∧ waits s.srB ∧ 0 ≤ p.creditB then some s.srB
  else ((List.range 8).map (7 - ·)).find? fun pcp => waits pcp ∧ ¬ (pcp = s.srA ∧ sa) ∧ ¬ (pcp = s.srB ∧ sb)

/-- A class's credit once a frame of `ns` on the line has left: it falls at the idle slope minus the link rate (R317). -/
def creditSent (credit : Int) (ns kbps idle : Nat) : Int := credit + (ns * idle : Nat) - (ns * kbps : Nat)

/-- A record of the time-stamp FIFO: a full one drops it. -/
def State.tsfPut (s : State) (info : Nat) (stamp : Int) : State :=
  if 32 ≤ s.net.tsf.length then s.flag F.NSW_STAT_TSOVF
  else s.modNet fun n => { n with tsf := n.tsf ++ [(info, stamp.toNat)] }

/-- A two-step Sync has left a port: its stamp goes to the FIFO, and from there to firmware, for the Follow_Up (R327). -/
def State.syncSent (s : State) (q info : Nat) (p : Pkt) (eg : Int) : State :=
  let full := 32 ≤ s.net.tsf.length
  let s := s.tsfPut (info + 2 ^ 30) eg
  if full then s
  else
    let sum := eg - p.stamp + s.f (F.PORT_LDELAY_NS p.ingress)
    (s.modNet fun n => { n with syncs := newest n.syncs (ptpKey p.bytes, q, sum) }).followUps

/-- A frame leaves a port, with the stamps it is due. -/
def State.emit (s : State) (q : Nat) (p : Pkt) : State :=
  let eg : Int := (s.tuTime : Int) + s.egCorr q
  let f := if p.oneStep then syncFix p.bytes (eg - p.stamp + s.f (F.PORT_LDELAY_NS p.ingress)) else p.bytes
  let info := q * 2 ^ 28 + ptpType f * 2 ^ 24 + (if (ptpOff f).isSome then ptpSeq f else 0)
  let s := s.modPort q fun x => { x with out := f }
  match p.tag with
  | some t => s.tsfPut (info + t * 2 ^ 16) eg
  | none => if p.twoStep then s.syncSent q info p eg else s

/-- One frame of a port is sent. -/
def State.transmit (s : State) (q : Nat) : State :=
  let s := s.creditTick q
  let s := if s.b (F.PORT_CTRL_SRON q) then s
    else
      let n := ((s.netPort q).q.filter fun p => s.isSr p.pcp).length
      ((s.modPort q fun x => { x with q := x.q.filter fun p => !s.isSr p.pcp }).creditTick q).sat (F.PORT_STAT_DROPS q) n
  match s.selectQueue q with
  | none => s
  | some pcp =>
    match (s.netPort q).q.find? fun p => p.pcp = pcp with
    | none => s
    | some p =>
      let s := s.modPort q fun x => { x with q := x.q.erase p }
      let kbps := s.linkKbps q
      let ns := 8 * (p.bytes.length + 4) * 1000000 / kbps
      let s := s.modPort q fun x =>
        if pcp = s.srA then
          { x with creditA := creditSent x.creditA ns kbps (s.f (F.PORT_IDLEA_KBPS q)), sentA := s.now + ns * nowNs }
        else if pcp = s.srB then
          { x with creditB := creditSent x.creditB ns kbps (s.f (F.PORT_IDLEB_KBPS q)), sentB := s.now + ns * nowNs }
        else x
      s.emit q p

/-- EGRESS_TRANSMIT (R317). -/
def execEgressTransmit (el : Elapsed) (port : Bool) (s : State) : Res State :=
  .next <|
    let s := s.advance el
    let q := b2n port
    if s.on 24 ∧ s.b F.NSW_CTRL_EN ∧ s.b (F.PORT_CTRL_EN q) then s.transmit q else s

/-- A transmit entry of the internal port: link-local and PTP frames leave by the port that the entry names (log 20). -/
def State.sendEntry (s : State) (at_ : Nat) : State :=
  let (e, s) := s.sramLoad at_ 8
  let w1 := leNat (e.drop 4)
  let (f, s) := s.sramLoad (leNat (e.take 4)) (w1 % 65536)
  let tag := if w1.testBit 30 then some (w1 / 2 ^ 16 % 256) else none
  let port := w1 / 2 ^ 28 % 4
  if (linkLocal f ∨ (s.f F.NSW_CTRL_PTPMODE ≠ 0 ∧ (ptpOff f).isSome)) ∧ port < 2 then s.sendBy port f tag
  else s.sendInternal f none tag

/-- INTERNAL_PORT_TRANSMIT (R320): the next entry of the transmit ring; with none waiting, the next reply or event of a UDP
session (R369). -/
def execInternalPortTransmit (el : Elapsed) (s : State) : Res State :=
  .next <|
    let s := s.advance el
    let hw := s.f F.NSW_TXIDX_HW
    if s.on 24 = false ∨ s.b F.NSW_CTRL_EN = false then s
    else if hw ≠ s.f F.NSW_TXIDX_SW then
      let at_ := s.f F.NSW_TXBASE_ADDR + 16 * hw
      let s := s.sendEntry at_
      let (w1, s) := s.sramLoad (at_ + 4) 4
      (s.sramStore (at_ + 4) (leBytes 4 (leNat w1 % 2 ^ 31))).setF F.NSW_TXIDX_HW ((hw + 1) % (s.f F.NSW_TXIDX_SIZE + 1))
    else
      let (f, s) := s.udpNext
      match f with
      | some f => s.sendInternal f none none
      | none => s

/-! ## Tables and registers (R314, R345) -/

/-- MAC_AGEING (R314): entries not refreshed for AGE seconds are removed. -/
def execMacAgeing (seconds : Nat) (s : State) : Res State :=
  .next <|
    let age := s.f F.NSW_CTRL_AGE
    if age = 0 ∨ s.on 24 = false then s
    else s.modNet fun n => { n with macs := (n.macs.map fun e => { e with age := e.age + seconds }).filter fun e =>
      e.static_ ∨ e.age < age }

/-- The key that the MAC table registers name. -/
def State.mtKey (s : State) : Nat := s.f F.NSW_MTMACH_MAC * 2 ^ 32 + s.f F.NSW_MTMACL_MAC
def State.mtVid (s : State) : Nat := s.f F.NSW_MTCMD_VID

/-- An operation on the MAC table: 0 read, 1 write static, 2 delete, 3 flush dynamic entries. -/
def State.mtRun (s : State) (op : Nat) : State :=
  let s := s.setF F.NSW_MTCMD_OP op
  match op with
  | 0 => match s.macFind s.mtKey s.mtVid with
    | some e => (s.setF F.NSW_MTCMD_FOUND 1).setF F.NSW_MTCMD_PORTS e.ports
    | none => s.setF F.NSW_MTCMD_FOUND 0
  | 1 => s.macPut ⟨s.mtKey, s.mtVid, s.f F.NSW_MTCMD_PORTS, true, 0⟩
  | 2 => s.modNet fun n => { n with macs := n.macs.filter fun e => ¬ (e.mac = s.mtKey ∧ e.vid = s.mtVid) }
  | _ => s.modNet fun n => { n with macs := n.macs.filter (·.static_) }

/-- A write of a register that PD_NET holds. -/
def State.netDo (s : State) (g : State → State) : State := if s.on 24 then g s else s.busErr

/-- MT_READ (R345). -/
def execMtRead (s : State) : Res State := .next (s.netDo (·.mtRun 0))

/-- MT_WRITE_STATIC (R345). -/
def execMtWriteStatic (s : State) : Res State := .next (s.netDo (·.mtRun 1))

/-- MT_DELETE (R345). -/
def execMtDelete (s : State) : Res State := .next (s.netDo (·.mtRun 2))

/-- MT_FLUSH (R345). -/
def execMtFlush (s : State) : Res State := .next (s.netDo (·.mtRun 3))

/-- An MDIO operation: a read takes the PHY's data. -/
def State.mdioRun (s : State) (op : Nat) (phy : Option Nat) : State :=
  let s := s.setF F.NSW_MDIO_OP op
  match phy with
  | some v => s.setF F.NSW_MDIO_DATA v
  | none => s

/-- MDIO_C22_WRITE (R345). -/
def execMdioC22Write (s : State) : Res State := .next (s.netDo (·.mdioRun 0 none))

/-- MDIO_C22_READ (R345). -/
def execMdioC22Read (phy : BitVec 16) (s : State) : Res State := .next (s.netDo (·.mdioRun 1 (some phy.toNat)))

/-- MDIO_C45_ADDRESS (R345). -/
def execMdioC45Address (s : State) : Res State := .next (s.netDo (·.mdioRun 2 none))

/-- MDIO_C45_WRITE (R345). -/
def execMdioC45Write (s : State) : Res State := .next (s.netDo (·.mdioRun 3 none))

/-- MDIO_C45_READ (R345). -/
def execMdioC45Read (phy : BitVec 16) (s : State) : Res State := .next (s.netDo (·.mdioRun 4 (some phy.toNat)))

/-- A read of NSW_TSF_INFO removes the head and latches its time words. -/
def State.tsfTake (s : State) : State :=
  match s.net.tsf with
  | (info, t) :: rest =>
    let s := (s.modNet fun n => { n with tsf := rest }).setReg R.NSW_TSF_INFO (BitVec.ofNat 32 (2 ^ 31 + info))
    let s := (s.setF F.TSF_NS_NS (t % 1000000000)).setF2 F.TSF_SECL_SEC F.TSF_SECH_SEC (t / 1000000000)
    s.ret (s.reg R.NSW_TSF_INFO)
  | [] =>
    let s := s.setF F.NSW_TSF_INFO_VALID 0
    s.ret (s.reg R.NSW_TSF_INFO)

/-- TSF_INFO_READ (R345). -/
def execTsfInfoRead (_ : Initiator) (s : State) : Res State := .next (s.netDo State.tsfTake)

/-- The read of PORTp_STAT clears DROPS, but for drops of the same cycle (R8). -/
def State.dropsTake (s : State) (p hwset : Nat) : State :=
  (s.ret (s.reg (R.PORT_STAT p))).setF (F.PORT_STAT_DROPS p) (min hwset 65535)

/-- DROPS_READ (R6). -/
def execDropsRead (_ : Initiator) (port : Bool) (hwset : Nat) (s : State) : Res State :=
  .next (s.netDo (·.dropsTake (b2n port) hwset))

/-- RECEIVE_CLOCK_CHANGE (R345). -/
def execReceiveClockChange (port present : Bool) (s : State) : Res State :=
  .next <|
    let x := F.PORT_STAT_RXCLK (b2n port)
    if s.on 24 = false ∨ s.b x = present then s else (s.setF x (b2n present)).flag F.NSW_STAT_RXCHG

/-! ## Joining and leaving (R342, R343) -/

/-- The LINK_STATE event. -/
def State.linkEvent (s : State) (p speed : Nat) (up : Bool) : State :=
  s.raise 0x0603 [BitVec.ofNat 8 p, BitVec.ofNat 8 (b2n up), BitVec.ofNat 8 speed]

/-- LINK_DOWN (R343). -/
def execLinkDown (port led : Bool) (s : State) : Res State :=
  .next <|
    let p := b2n port
    let s := s.modPort p fun x => { x with q := [], creditA := 0, creditB := 0, up := false }
    let s := (s.setF (F.PORT_CTRL_SRON p) 0).setF (F.PORT_LDELAY_NS p) 0
    let s := s.linkEvent p (s.f (F.PORT_CTRL_SPEED p)) false
    if led then { s with tu := { s.tu with source := false } }.anchorKick else s

/-- Stamp corrections of a port from its parameters (class 0x40). -/
def State.tscFromParams (s : State) (p : Nat) : State :=
  let v := fun k => s.pval (pid 0x40 0 (0x100 + 0x20 * p + k)) 0
  let s := (s.setF (F.PORT_TSC1G_INCORR p) (v 9)).setF (F.PORT_TSC1G_EGCORR p) (v 10)
  let s := (s.setF (F.PORT_TSC100_INCORR p) (v 11)).setF (F.PORT_TSC100_EGCORR p) (v 12)
  (s.setF (F.PORT_TSC10_INCORR p) (v 13)).setF (F.PORT_TSC10_EGCORR p) (v 14)

/-- The first step of rejoining: speed, corrections and EN; a half-duplex link is reported up and stays disabled (R311). -/
def State.linkStep1 (s : State) (p speed : Nat) (half : Bool) : State :=
  let isUp := (s.netPort p).up
  let s := ((s.setF (F.PORT_CTRL_SPEED p) speed).tscFromParams p).setF (F.PORT_CTRL_EN p) (b2n !half)
  if isUp then s else ((s.setF (F.PORT_CTRL_SRON p) 0).modPort p fun x => { x with up := true }).linkEvent p speed true

/-- LINK_UP (R342): the rejoining order as far as it has come; a half-duplex link stays disabled (R311). -/
def execLinkUp (port : Bool) (speed : BitVec 2) (half : Bool) (step : Nat) (ldelay : BitVec 24) (offset : Int)
    (s : State) : Res State :=
  .next <|
    let p := b2n port
    let s := s.linkStep1 p speed.toNat half
    if half then s
    else
      let s := if step < 2 then s else
        { s.setF (F.PORT_LDELAY_NS p) ldelay.toNat with tu := { s.tu with source := true, offset := offset } }.anchorKick
      let s := if step < 3 then s else s.disciplineTu offset
      if step < 4 ∨ 1000 < offset.natAbs then s else (s.setF (F.PORT_CTRL_SRON p) 1).anchorKick

end Sys2Proof.Machine
end

