-- ==== Sys2Proof/Machine/ImageCheck.lean ====
section
/-! DEFINITION. Check 1 of R169: the structure of a render image (R162 to R167), and the rules of R91, R131 and R135 on its
program. -/

namespace Sys2Proof.Machine

/-! ## Header, tiers, directory (R162 to R165) -/

/-- Order 1 of R162: MAGIC, FMTVER, HDRLEN and LENGTH. -/
def imgIdOk (f : List Byte) : Bool :=
  f.take 4 == [0x44, 0x5A, 0x52, 0x49] && u16 f 4 == 2 && u16 f 6 == 64 && u32 f 8 == f.length && 256 ≤ f.length &&
    f.length ≤ 262144 && f.length % 4 == 0

/-- Header fields of R163, and the tier table of R164. -/
def imgHeadOk (f : List Byte) : Bool :=
  1 ≤ imgNTier f && imgNTier f ≤ 4 && u8 f 13 < 2 && imgRampLen f ≤ 4095 && imgWarmup f ≤ 1048576 && 1 ≤ imgNSect f &&
    imgNSect f ≤ 16 && u16 f 30 == 0
def imgTiersOk (f : List Byte) : Bool :=
  (List.range 4).all fun t =>
    if t < imgNTier f then imgEntry f t ≤ 8191 && u32 f (92 + 32 * t) == 0
    else ((f.drop (64 + 32 * t)).take 32).all (· == 0)

/-- Entry size and most entries of a section type (R165). -/
def sectLimit (t : Nat) : Option (Nat × Nat) :=
  match t with
  | 1 => some (8, 8192)
  | 2 => some (4, 16384)
  | 3 => some (4, 8192)
  | 4 => some (4, 64)
  | 5 => some (4, 256)
  | 6 => some (4, 2048)
  | 7 => some (4, 2048)
  | 8 => some (16, 256)
  | 9 => some (16, 128)
  | 10 => some (8, 64)
  | 11 => some (32, 512)
  | 12 => some (1, 64)
  | _ => none

/-- The items of a list differ from one another. -/
def distinct {α : Type} [DecidableEq α] : List α → Bool
  | [] => true
  | x :: xs => !xs.contains x && distinct xs

/-- Intervals of a list do not overlap. -/
def disjointAll : List (Nat × Nat) → Bool
  | [] => true
  | (a, b) :: xs => xs.all (fun p => b ≤ p.1 || p.2 ≤ a) && disjointAll xs

/-- The directory (R165).  DESIGN CHOICE (log 13): OFFSET, the overlap and the single use of a type are checked of the ignored types
0x8000 to 0xFFFF too. -/
def imgDirOk (f : List Byte) : Bool :=
  let ds := imgDirs f
  let first := 192 + 12 * imgNSect f
  ds.all (fun d => d.2.1 % 4 == 0 && first ≤ d.2.1 && d.2.1 + d.2.2 ≤ f.length &&
    (0x8000 ≤ d.1 || match sectLimit d.1 with
      | some (n, m) => d.2.2 % n == 0 && d.2.2 ≤ n * m
      | none => false)) &&
  disjointAll (ds.map fun d => (d.2.1, d.2.1 + d.2.2)) && distinct (ds.map (·.1)) && ds.any (·.1 == 1)

/-! ## Declarations (R166, R167, R536) -/

/-- One entry of the parameter map. -/
def paramOk (q : ImgParam) : Bool :=
  if q.space = 8 then
    (q.kind = 0 || q.kind = 2) && !q.q428 && q.count = 1 && q.addr ≤ 3 && 0 ≤ q.min && q.min ≤ 65535 && 0 ≤ q.max &&
      q.max ≤ 65535
  else q.space = 7 && (q.kind = 3 || q.count = 1) && q.addr + q.count ≤ 16384

/-- Inputs, outputs, meters and parameters (R166).  DESIGN CHOICE (log 13): names are not checked, so one that is not ASCII padded
with 0x00 is accepted. -/
def imgMapsOk (f : List Byte) : Bool :=
  let ps := imgParams f
  let ms := imgMeters f
  (imgXin f).all (· ≤ 255) && distinct (imgXin f) && (imgXout f).all (· ≤ 127) && distinct (imgXout f) &&
    ms.all (fun m => m.1 < 8192 && 0x1000 ≤ m.2) &&
    (imgEntries f 11 32).all (fun e => 0x1000 ≤ u16 e 16) &&
    ps.all paramOk && distinct (ps.map ImgParam.member ++ ms.map (·.2)) &&
    (imgLLine f).all fun v => v < 2 ^ 31 || v == 2 ^ 31

/-! ## The program (R91, R131, R135) -/

/-- The memory operand of an instruction with the spaces it accepts (R111). -/
def progMop : Instr → Option (Mop × List Nat)
  | .rMac _ _ o => some (o.mop, [0, 2, 3, 4])
  | .rMacd _ _ o => some (o.mop, [0, 2, 3, 4])
  | .rMacqd _ _ o => some (o.mop, [0, 2, 3, 4])
  | .rMacw _ _ o => some (o.mop, [4])
  | .rMacqc _ _ o => some (o.mop, [4])
  | .rLd _ _ _ m => some (m, [0, 1, 2, 3, 4, 7])
  | .rSt _ _ _ m => some (m, [0, 1, 4, 5, 6])
  | .rStq _ _ _ _ m => some (m, [0, 1, 4, 5, 6])
  | _ => none

/-- The coefficient operand of an instruction. -/
def progCop : Instr → Option Cop
  | .rMac _ _ o => some o.cop
  | .rMacd _ _ o => some o.cop
  | .rMacqd _ _ o => some o.cop
  | .rMacw _ _ o => some o.cop
  | .rMacqc _ _ o => some o.cop
  | .rTap _ _ o => some o.cop
  | .rTapm _ _ o => some o.cop
  | _ => none

/-- Lines that must lie in one bank each, and in distinct banks: four for MACQC, two for a SPACE 4 MACD. -/
def progBanked : Instr → List Nat
  | .rMacqc _ _ o => (List.range 4).map fun j => (o.mop.dl.toNat + j) % 64
  | .rMacd _ _ o => if o.mop.space = 4 then [o.mop.dl.toNat, (o.mop.dl.toNat + 1) % 64] else []
  | _ => []

/-- Lines that must be striped: those of MACW and FDR. -/
def progStriped : Instr → List Nat
  | .rMacw _ _ o => [o.mop.dl.toNat]
  | .rFdr _ _ dl _ _ _ _ _ => [dl.toNat]
  | _ => []

/-- The lines that an instruction names (R135). -/
def progLines (i : Instr) : List Nat :=
  (match progMop i with
    | some (m, _) => if m.space = 4 then [m.dl.toNat] else []
    | none => []) ++
  (match i with
    | .rTap _ _ o => [o.dl.toNat, o.dld.toNat]
    | .rTapm _ _ o => [o.dl.toNat, o.dld.toNat]
    | .rFdr _ _ dl _ _ _ _ _ => [dl.toNat]
    | _ => []) ++ progBanked i

/-- A repeat: its body's length, and whether a count register gives its count. -/
def progRepeat : Instr → Option (Nat × Bool)
  | .rRpt _ _ _ b => some (b.toNat, false)
  | .rRptc _ _ _ b => some (b.toNat, true)
  | _ => none

/-- A descriptor: striped, origin, length (R132). -/
def descOf (d : Nat) : Bool × Nat × Nat := (d.testBit 31, 8 * (d / 2 ^ 17 % 2 ^ 14), d % 2 ^ 17 + 1)

/-- The bank of a linear line that lies wholly within one. -/
def oneBank (d : Nat) : Option Nat :=
  let (st, b, n) := descOf d
  if !st && b + n ≤ 131072 && b / 32768 = (b + n - 1) / 32768 then some (b / 32768) else none

/-- An interval on a ring of `size` words, from an offset. -/
def ringSpan (a n size off : Nat) : List (Nat × Nat) :=
  if a + n ≤ size then [(off + a, off + a + n)] else [(off + a, off + size), (off, off + a + n - size)]

/-- The tile words of a line, as intervals of 32,768 × bank + word (R133). -/
def lineWords (d : Nat) : List (Nat × Nat) :=
  let (st, b, n) := descOf d
  if st then (List.range 4).flatMap fun k => ringSpan (b / 4 % 32768) (n / 4) 32768 (32768 * k)
  else ringSpan b n 131072 0

/-- No RPTC lies within the body of another (R91), a body's addresses being taken modulo 8,192 (R115): pairs of an address and a
body's length. -/
def rptcOk (reps : List (Nat × Nat)) : Bool :=
  reps.all fun p => reps.all fun q => p.1 = q.1 || decide (p.2 ≤ (q.1 + 8191 - p.1) % 8192)

/-- The program keeps the rules of R91, R131 and R135. -/
def imgProgOk (f : List Byte) : Bool :=
  let is := (imgEntries f 1 8).map fun w => decodeRender 0 (BitVec.ofNat 64 (leNat w))
  let desc := imgDesc f
  let d := fun (k : Nat) => desc.getD k 0
  let used := (is.flatMap progLines).eraseDups
  let one := fun (i : Instr) =>
    (match i with
      | .unassignedRenderOpcode _ _ => false
      | _ => true) &&
    (match progMop i with
      | some (m, sp) => sp.contains m.space.toNat
      | none => true) &&
    (match progCop i with
      | some c => c.cf != 3
      | none => true) &&
    (match progRepeat i with
      | some (b, _) => b != 0
      | none => true) &&
    (progStriped i).all (fun k => (d k).testBit 31) &&
    (let bs := (progBanked i).map fun k => oneBank (d k)
     bs.all Option.isSome && distinct bs)
  let rptcs := is.zipIdx.filterMap fun p => match progRepeat p.1 with
    | some (b, true) => some (p.2, b)
    | _ => none
  is.all one && rptcOk rptcs && used.all (fun k => !(d k).testBit 31 || (descOf (d k)).2.2 % 4 == 0) &&
    disjointAll (used.flatMap fun k => lineWords (d k))

/-- The status of an image in the order of R162: BAD_REQUEST 2, INTEGRITY 14, 0 when it passes. -/
def imgStatus (f : List Byte) : Nat :=
  if !imgIdOk f then 2
  else if (f.drop 32).take 32 != sha256 (f.drop 64) then 14
  else if imgHeadOk f && imgTiersOk f && imgDirOk f && imgMapsOk f && imgProgOk f then 0
  else 2

end Sys2Proof.Machine
end

