-- ==== Sys2Proof/Machine/Params.lean ====
section
/-! DEFINITION. Parameters: the members of the pid classes with their types and ranges (R388, R390, R391, R428), the
values of a configuration with items laid over it (R166 to R168, R183 to R190), the reads of read-only members, and the
rate domain that owns a member (R42). -/

namespace Sys2Proof.Machine

/-! ## Members (R391) -/

/-- How a register field codes a parameter's natural value (R390): as it is, less one, or as a power of two. -/
inductive Conv where
  | same | plus1 | times8 | pow2
  deriving DecidableEq, Repr

/-- The natural value of a field code, and the code of a natural value. -/
def Conv.up : Conv → Nat → Nat
  | .same, n => n
  | .plus1, n => n + 1
  | .times8, n => 8 * 2 ^ n
  | .pow2, n => 2 ^ n
def Conv.down : Conv → Nat → Nat
  | .same, v => v
  | .plus1, v => v - 1
  | .times8, v => (v / 8).log2
  | .pow2, v => v.log2

/-- What a member sets: a register field, a 64-bit pair, or a setting that firmware holds or applies itself. -/
inductive PTgt where
  | fld (x : Fld) (c : Conv)
  | pair (lo hi : Fld)
  | other
  deriving DecidableEq, Repr

/-- A member: type code (R388), access, value bytes, limits, default as a little-endian number, bits that a layout
leaves reserved, and what it sets. -/
structure PInfo where
  type : Nat
  rw : Bool
  size : Nat
  min : Int
  max : Int
  dflt : Nat
  rsv : Nat
  tgt : PTgt
  deriving DecidableEq, Repr

/-- The value bytes of a type of fixed size. -/
def typeSize (t : Nat) : Nat := if t = 2 ∨ t = 6 then 8 else if t = 7 then 12 else 4

/-- A read-write U32 member of a register field over a range of natural values. -/
def pIn (x : Fld) (c : Conv) (lo hi : Int) : Option PInfo :=
  some ⟨0, true, 4, lo, hi, c.up (wordFld (BitVec.ofNat 32 (regReset x.addr).toNat) x.hi x.lo), 0, .fld x c⟩
/-- The same over the whole field. -/
def pFld (x : Fld) : Option PInfo := pIn x .same 0 (2 ^ (x.hi + 1 - x.lo) - 1 : Nat)
/-- A member that sets a whole register in its layout: reserved bits must be 0. -/
def pWord (a : Nat) (used : Nat) : Option PInfo :=
  some ⟨0, true, 4, 0, 0xFFFFFFFF, (regReset a).toNat, 0xFFFFFFFF - used, .fld ⟨a, 31, 0⟩ .same⟩
/-- A setting with no register. -/
def pSet (lo hi : Int) (dflt : Nat) : Option PInfo := some ⟨0, true, 4, lo, hi, dflt, 0, .other⟩
/-- A read-only member. -/
def pRo (t : Nat) : Option PInfo := some ⟨t, false, typeSize t, 0, if t = 1 then 0x7FFFFFFF else 0xFFFFFFFF, 0, 0, .other⟩
/-- A member of another type than U32. -/
def PInfo.as (t : Nat) (o : Option PInfo) : Option PInfo := o.map fun x => { x with type := t, size := typeSize t }
/-- A member of BYTES type, read-write or read-only, of zeros by default. -/
def pBytes (rw : Bool) (n : Nat) : Option PInfo := some ⟨8, rw, n, 0, 0, 0, 0, .other⟩
/-- A 64-bit member of a pair of fields, with its type. -/
def pPair (t : Nat) (lo hi : Fld) : Option PInfo :=
  some ⟨t, true, 8, 0, 0, wordFld (BitVec.ofNat 32 (regReset lo.addr).toNat) lo.hi lo.lo +
    2 ^ 32 * wordFld (BitVec.ofNat 32 (regReset hi.addr).toNat) hi.hi hi.lo, 0, .pair lo hi⟩
/-- A TIME setting. -/
def pTime : Option PInfo := some ⟨7, true, 12, 0, 0, 0, 0, .other⟩

/-- Class 0x01: the device. -/
def pDevice (m : Nat) : Option PInfo :=
  if m = 1 ∨ m = 2 then pRo 0
  else if m = 3 then pRo 2
  else if m = 0x10 ∨ m = 0x11 then pFld (F.ACS_LIMIT_LIMIT (m - 0x10))
  else if m = 0x12 ∨ m = 0x13 then pIn (F.ACS_LIMIT_REFTOL (m - 0x12)) .same 0 1000
  else if m = 0x14 ∨ m = 0x15 then PInfo.as 4 (pSet 0 2 0)
  else if m = 0x16 ∨ m = 0x17 then pSet 8000000 50000000 25000000
  else if 0x20 ≤ m ∧ m ≤ 0x23 then pSet 0 0xFFFFFFFF (if m = 0x22 then 60 else 0)
  else if 0x30 ≤ m ∧ m ≤ 0x32 then pRo 0
  else if m = 0x40 then PInfo.as 3 (pFld F.CLK_SLOW_SEL)
  else none

/-- Class 0x02: a rate domain. -/
def pDomain (d m : Nat) : Option PInfo :=
  match m with
  | 1 => pFld (F.RD_CTRL_EN d)
  | 2 => pFld (F.RD_CTRL_SRC d)
  | 3 => pFld (F.RD_DIVI_INT d)
  | 4 => pFld (F.RD_DIVF_FRAC d)
  | 5 => pIn (F.RD_CTRL_BLEN d) .times8 8 256
  | 6 => pFld (F.RD_CTRL_LINK d)
  | 7 => pFld (F.RD_CTRL_LEADER d)
  | 8 => pIn (F.RD_CTRL_RATIO d) .pow2 1 4
  | 9 => pPair 2 (F.RD_SSTARTL_SSTART d) (F.RD_SSTARTH_SSTART d)
  | 0x10 => pRo 2
  | 0x11 => pRo 0
  | _ => none

/-- Class 0x03: routes and slots. -/
def pRoute (m : Nat) : Option PInfo :=
  if m < 0x800 then pWord (R.XCH_ROUTE m) 0xB7FF007F
  else if 0x1000 ≤ m ∧ m < 0x1800 then pRo 0
  else none

/-- Class 0x10: the fixed members of a logical engine. -/
def pLe (m : Nat) : Option PInfo :=
  if m = 1 then PInfo.as 4 (pSet 0 3 0)
  else if m = 0x10 then some ⟨10, true, 0, 0, 0, 0, 0, .other⟩
  else if m = 0x11 then pBytes false 64
  else if m = 0x12 then pBytes false 32
  else if 0x20 ≤ m ∧ m ≤ 0x24 then pRo 0
  else if 0x100 ≤ m ∧ m < 0x200 then (pSet 0 0xFFFFFFFF 0).map fun x => { x with rsv := 0x7FFFF800 }
  else if 0x200 ≤ m ∧ m < 0x300 then (pSet 0 0xFFFFFFFF 0).map fun x => { x with rsv := 0x70FFFF00 }
  else none

/-- Class 0x20: an audio serial port. -/
def pAsp (p m : Nat) : Option PInfo :=
  if 0x100 ≤ m ∧ m < 0x140 then pWord (R.ASP_TXSRC p (m - 0x100)) 0x800007FF
  else if 0x200 ≤ m ∧ m ≤ 0x203 then pRo 0
  else if 0x20 ≤ m ∧ m ≤ 0x23 then pWord (R.ASP_SLOTMASK p (m - 0x20)) 0xFFFFFFFF
  else match m with
  | 1 => pFld (F.ASP_CTRL_EN p)
  | 2 => pFld (F.ASP_CTRL_ARM p)
  | 3 => pIn (F.ASP_CTRL_MODE p) .same 0 2
  | 4 => pFld (F.ASP_CTRL_DOMAIN p)
  | 5 => pFld (F.ASP_CTRL_DIR0 p)
  | 6 => pFld (F.ASP_CTRL_DIR1 p)
  | 7 => pFld (F.ASP_CTRL_TXOFF p)
  | 0x10 => pIn (F.ASP_FMT0_FLENM1 p) .plus1 16 1024
  | 0x11 => pFld (F.ASP_FMT0_OFFSET p)
  | 0x12 => pIn (F.ASP_FMT0_NSLOTM1 p) .plus1 1 32
  | 0x13 => pIn (F.ASP_FMT0_SLOTWM1 p) .plus1 8 32
  | 0x14 => pIn (F.ASP_FMT0_DATAWM1 p) .plus1 8 32
  | 0x15 => pFld (F.ASP_FMT0_JUST p)
  | 0x16 => pFld (F.ASP_FMT1_FSW p)
  | 0x17 => pFld (F.ASP_FMT1_FSPOL p)
  | 0x18 => pFld (F.ASP_FMT1_BCLKINV p)
  | _ => none

/-- Class 0x21: a PDM port. -/
def pPdm (n m : Nat) : Option PInfo :=
  match m with
  | 1 => pFld (F.PDM_CTRL_EN n)
  | 2 => pFld (F.PDM_CTRL_ARM n)
  | 3 => pFld (F.PDM_CTRL_DOMAIN n)
  | 4 => pIn (F.PDM_CTRL_CLKDIV n) .same 8 64
  | 5 => pFld (F.PDM_CTRL_HPF n)
  | 0x200 => pRo 0
  | 0x201 => pRo 0
  | _ => none

/-- Class 0x22: the IEC receiver and transmitter. -/
def pIec (m : Nat) : Option PInfo :=
  match m with
  | 1 => pFld F.IECR_CTRL_EN
  | 2 => pFld F.IECR_CTRL_DIRECT
  | 3 => pFld F.IECR_CTRL_DOMAIN
  | 4 => pFld F.IECR_CTRL_NPCAP
  | 0x80 => pRo 0
  | 0x81 => pRo 0
  | 0x82 => pRo 0
  | 0x90 => pBytes false 96
  | 0x101 => pFld F.IECT_CTRL_EN
  | 0x102 => pFld F.IECT_CTRL_ARM
  | 0x103 => pFld F.IECT_CTRL_DOMAIN
  | 0x104 => pFld F.IECT_CTRL_VALA
  | 0x105 => pFld F.IECT_CTRL_VALB
  | 0x106 => pFld F.IECT_CTRL_CSSEP
  | 0x110 => pBytes true 24
  | 0x111 => pBytes true 24
  | 0x120 => pWord (R.IECT_TXSRC 0) 0x800007FF
  | 0x121 => pWord (R.IECT_TXSRC 1) 0x800007FF
  | _ => none

/-- Class 0x23: an ASRC group. -/
def pSrc (g m : Nat) : Option PInfo :=
  if 0x100 ≤ m ∧ m < 0x104 then pWord (R.SRC_SRCSEL g (m - 0x100)) 0x800007FF
  else match m with
  | 1 => pFld (F.SRC_CTRL_EN g)
  | 2 => pFld (F.SRC_CTRL_DIR g)
  | 3 => pFld (F.SRC_CTRL_DOMAIN g)
  | 4 => pIn (F.SRC_CTRL_EXT g) .same 0 8
  | 5 => pIn (F.SRC_CTRL_NCHM1 g) .plus1 1 4
  | 6 => pFld (F.SRC_CTRL_FIRSTCH g)
  | 0x200 => pRo 0
  | 0x201 => pRo 0
  | 0x202 => pRo 0
  | _ => none

/-- The fields of a network port's members, in their order. -/
def portFlds (p : Nat) : List Fld :=
  [F.PORT_CTRL_EN p, F.PORT_CTRL_SPEED p, F.PORT_CTRL_PVID p, F.PORT_CTRL_DEFPCP p, F.PORT_CTRL_BLOCK p,
   F.PORT_CTRL_RXDLY p, F.PORT_CTRL_TXDLY p, F.PORT_IDLEA_KBPS p, F.PORT_IDLEB_KBPS p, F.PORT_TSC1G_INCORR p,
   F.PORT_TSC1G_EGCORR p, F.PORT_TSC100_INCORR p, F.PORT_TSC100_EGCORR p, F.PORT_TSC10_INCORR p, F.PORT_TSC10_EGCORR p]

/-- Member k of a network port: S32; the corrections are signed 16-bit numbers. -/
def pPort (p k : Nat) : Option PInfo :=
  match (portFlds p)[k]? with
  | some x => PInfo.as 1 (if 9 ≤ k then pIn x .same (-32768) 32767 else pFld x)
  | none => none

/-- Class 0x40: the network. -/
def pNet (m : Nat) : Option PInfo :=
  if 0x100 ≤ m ∧ m < 0x140 then pPort ((m - 0x100) / 0x20) ((m - 0x100) % 0x20)
  else if m = 0x180 ∨ m = 0x181 then pRo 0
  else if 0x200 ≤ m ∧ m < 0x240 then pWord (R.NSW_VLAN (m - 0x200)) 0x80770FFF
  else if 0x300 ≤ m ∧ m < 0x400 then pBytes true 12
  else match m with
  | 1 => pSet 0 0xFFFFFFFF 0
  | 2 => pSet 0 0xFFFFFFFF 0
  | 3 => some ⟨6, true, 8, 0, 0, 0, 0, .other⟩
  | 0x10 => pFld F.NSW_CTRL_PTPMODE
  | 0x11 => pSet 0 255 0
  | 0x12 => pSet 0 0xFFFFFFFF 0
  | 0x13 => pFld F.NSW_CTRL_AGE
  | 0x14 => (pSet 0 0xFFFFFFFF 0x23).map fun x => { x with rsv := 0xFFFFFF88 }
  | _ => none

/-- Class 0x41: a stream. -/
def pStr (k m : Nat) : Option PInfo :=
  if 0x100 ≤ m ∧ m < 0x108 ∧ k < 8 then pWord (R.STR_SRC k (m - 0x100)) 0x800007FF
  else match m with
  | 1 => pFld (F.STR_CTRL_EN k)
  | 2 => pFld (F.STR_CTRL_DOMAIN k)
  | 3 => pIn (F.STR_CTRL_FMT k) .same 0 2
  | 4 => pIn (F.STR_CTRL_NCHM1 k) .plus1 1 8
  | 5 => pFld (F.STR_CTRL_CLASS k)
  | 6 => pIn (F.STR_CTRL_SPFM1 k) .plus1 1 64
  | 0x10 => pPair 2 (F.STR_SIDL_SID k) (F.STR_SIDH_SID k)
  | 0x11 => some ⟨6, true, 8, 0, 0, 0, 0, .other⟩
  | 0x12 => pWord (R.STR_VLAN k) 0xEFFF
  | 0x13 => pFld (F.STR_OFFSET_NS k)
  | 0x200 => pRo 0
  | 0x201 => pRo 0
  | 0x202 => pRo 0
  | 0x203 => pRo 0
  | _ => none

/-- Class 0x42: time, anchoring, pulses and capture. -/
def pTimeClass (m : Nat) : Option PInfo :=
  if 0x10 ≤ m ∧ m < 0x14 then PInfo.as 3 (pSet 0 1 0)
  else if 0x20 ≤ m ∧ m < 0x24 then pTime
  else if 0x30 ≤ m ∧ m < 0x34 then pRo 4
  else if 0x40 ≤ m ∧ m < 0x44 then pRo 1
  else match m with
  | 1 => pSet 0 100000 1000
  | 2 => pRo 7
  | 3 => pRo 1
  | 0x100 => pTime
  | 0x101 => pFld (F.TP_PERIOD_NS 0)
  | 0x102 => pFld (F.TP_WIDTH_NS 0)
  | 0x103 => pFld (F.TP_CTRL_POL 0)
  | 0x104 => pSet 0 1 0
  | 0x110 => pTime
  | 0x111 => pFld (F.TP_PERIOD_NS 1)
  | 0x112 => pFld (F.TP_WIDTH_NS 1)
  | 0x113 => pFld (F.TP_CTRL_POL 1)
  | 0x114 => pSet 0 1 0
  | 0x200 => PInfo.as 4 (pFld F.TCAP_CTRL_EDGE)
  | 0x201 => pRo 7
  | _ => none

/-- Class 0x50: power. -/
def pPower (m : Nat) : Option PInfo :=
  if 0x30 ≤ m ∧ m < 0x60 then pFld (F.AON_RET_DATA (m - 0x20))
  else match m with
  | 1 => pFld F.PMU_LATTOL_TOL
  | 2 => pWord R.PMU_REQMASK 0xFE07
  | 3 => pSet 0 0xFFFFFFFF 0
  | 4 => pFld F.PMU_CTRL_IOOFF5
  | 0x10 => pSet 0 127 0
  | 0x11 => pSet 0 255 0
  | 0x12 => pSet 0 0xFFFFFFFF 0
  | 0x13 => pSet 0 0xFFFFFFFF 0
  | 0x14 => pSet 0 0xFFFFFFFF 200
  | 0x80 => pRo 0
  | 0x81 => pRo 0
  | _ => none

/-- Class 0x51: the lehr. -/
def pLehr (m : Nat) : Option PInfo :=
  if 0x100 ≤ m ∧ m < 0x110 then pSet 0 7 4
  else if 0x200 ≤ m ∧ m < 0x210 then pSet 0 3 0
  else if 0x300 ≤ m ∧ m < 0x310 then pSet 0 4 4
  else if (0x400 ≤ m ∧ m < 0x404) ∨ (0x410 ≤ m ∧ m < 0x414) then pRo 0
  else match m with
  | 1 => pSet 200 3400 3400
  | 2 => pRo 0
  | 3 => pRo 1
  | 4 => pRo 0
  | _ => none

/-- Class 0x52: health. -/
def pHealth (m : Nat) : Option PInfo :=
  if (0x100 ≤ m ∧ m < 0x110) ∨ (0x200 ≤ m ∧ m < 0x210) ∨ m = 0x300 then pRo 0
  else match m with
  | 1 => pIn F.SCU_WIN_LEN .same 4096 16777215
  | 2 => pSet 1 65535 64
  | 3 => pSet 250 1000 750
  | _ => none

/-- Settings of a UART, in the order of R428: rates are in baud, data bits 7 or 8, stop bits 1 or 2. -/
def pUart (u k : Nat) : Option PInfo :=
  match k with
  -- the rates whose bit time is 16 to 1,048,575 kernel cycles (R398)
  | 0 => pSet 191 12903225 115200
  | 1 => pSet 7 8 8
  | 2 => pIn (F.UART_FMT_PAR u) .same 0 2
  | 3 => pIn (F.UART_FMT_STOP2 u) .plus1 1 2
  | 4 => pFld (F.UART_FMT_NINE u)
  | 5 => pFld (F.UART_ADDR_MATCHEN u)
  | 6 => pFld (F.UART_ADDR_ADDR u)
  | 7 => pFld (F.UART_ADDR_MASK u)
  | 8 => pFld (F.UART_ADDR_BCEN u)
  | 9 => pFld (F.UART_ADDR_BCAST u)
  | 10 => pFld (F.UART_FLOW_RXFC u)
  | 11 => pFld (F.UART_FLOW_TXFC u)
  | 12 => pFld (F.UART_FLOW_XON u)
  | 13 => pFld (F.UART_FLOW_XOFF u)
  | 14 => pFld (F.UART_FMT_SWIRE u)
  | 15 => pFld (F.UART_FMT_DEEN u)
  | 16 => pFld (F.UART_FMT_COLLEN u)
  | 17 => pFld (F.UART_DECFG_SETUP u)
  | 18 => pFld (F.UART_DECFG_HOLD u)
  | 19 => pFld (F.UART_DECFG_DEPOL u)
  | 20 => pFld (F.UART_FMT_RXECHO u)
  | 21 => if u = 0 then none else pSet 1 2400 2400
  | _ => none

/-- Class 0x60: serial peripherals. -/
def pSerial (m : Nat) : Option PInfo :=
  if 0x100 ≤ m ∧ m < 0x400 then pUart (m / 0x100 - 1) (m % 0x100)
  else match m with
  | 0x400 => pSet 100 1000 100
  | 0x401 => pFld F.I2C_TO_MS
  | 0x500 => pSet 976563 50000000 25000000
  | 0x501 => pFld F.PSC_CTRL_CPOL
  | 0x502 => pFld F.PSC_CTRL_CPHA
  | 0x503 => pFld F.PSC_CTRL_RXDLY
  | 0x504 => pFld F.PSC_CSCFG_SETUP
  | 0x505 => pFld F.PSC_CSCFG_HOLD
  | 0x506 => pFld F.PSC_CSCFG_IDLE
  | _ => none

/-- Class 0x70: the journal. -/
def pJournal (m : Nat) : Option PInfo :=
  if m = 1 then PInfo.as 3 (pSet 0 1 0) else if 2 ≤ m ∧ m ≤ 5 then pRo 0 else none

/-- The member that a pid names, image members apart (R391): the instance of an instanced class lies in its unit range,
and is 0 in every other class. -/
def pinfo (p : Nat) : Option PInfo :=
  let i := pidInst p
  let m := pidMember p
  let inst (n : Nat) (x : Option PInfo) : Option PInfo := if i < n then x else none
  if pidClass p = 0x01 then inst 1 (pDevice m)
  else if pidClass p = 0x02 then inst 4 (pDomain i m)
  else if pidClass p = 0x03 then inst 1 (pRoute m)
  else if pidClass p = 0x10 then inst 16 (pLe m)
  else if pidClass p = 0x20 then inst 8 (pAsp i m)
  else if pidClass p = 0x21 then inst 4 (pPdm i m)
  else if pidClass p = 0x22 then inst 1 (pIec m)
  else if pidClass p = 0x23 then inst 8 (pSrc i m)
  else if pidClass p = 0x40 then inst 1 (pNet m)
  else if pidClass p = 0x41 then inst 16 (pStr i m)
  else if pidClass p = 0x42 then inst 1 (pTimeClass m)
  else if pidClass p = 0x50 then inst 1 (pPower m)
  else if pidClass p = 0x51 then inst 1 (pLehr m)
  else if pidClass p = 0x52 then inst 1 (pHealth m)
  else if pidClass p = 0x60 then inst 1 (pSerial m)
  else if pidClass p = 0x70 then inst 1 (pJournal m)
  else none

/-- A pid names an image member (R166). -/
def isMember (p : Nat) : Bool := pidClass p = 0x10 && pidInst p < 16 && 0x1000 ≤ pidMember p

/-- A member of an image, as its maps declare it (R166, R385): counts and raw words are signed numbers on the wire
(log 30), meters read-only words. -/
def memberInfo (im : List Byte) (m : Nat) : Option PInfo :=
  match imgParam im m with
  | some q =>
    let t := if q.kind = 1 then 5 else if q.kind = 3 then 9 else 1
    some ⟨t, true, 4 * q.count, q.min, q.max, 0, 0, .other⟩
  | none => if (imgMeters im).any (·.2 = m) then pRo 0 else none

/-- The member that a pid names, with the image that decides for its logical engine. -/
def infoOf (im : List Byte) (p : Nat) : Option PInfo := if isMember p then memberInfo im (pidMember p) else pinfo p

/-! ## Values against their ranges (R169, check 2) -/

/-- A TIME value: bytes 6 and 7 zero, nanoseconds below 1,000,000,000. -/
def timeOk (v : List Byte) : Bool := leNat ((v.drop 6).take 2) = 0 && leNat (v.drop 8) < 1000000000

/-- A number as its type's signedness reads it. -/
def typed (t n : Nat) : Int := if t = 1 ∨ t = 5 then sext 32 n else n

/-- The value lies within the member's range and its code is one of the field's. -/
def PInfo.fits (x : PInfo) (v : List Byte) : Bool :=
  let n := leNat v
  if x.type = 2 ∨ x.type = 8 ∨ x.type = 10 then true
  else if x.type = 6 then leNat (v.drop 6) = 0
  else if x.type = 7 then timeOk v
  else if x.type = 9 then (chunks 4 v.length v).all fun w => x.min ≤ sext 32 (leNat w) ∧ sext 32 (leNat w) ≤ x.max
  else
    decide (x.min ≤ typed x.type n) && decide (typed x.type n ≤ x.max) && decide (n &&& x.rsv = 0) &&
      (match x.tgt with
        | .fld _ c => c.up (c.down n) = n || x.type = 1
        | _ => true)

/-! ## Configurations (R168, R183) -/

/-- What a configuration holds of a logical engine. -/
structure LeCfg where
  image : List Byte
  golden : List (Nat × Word)
  counts : List Nat
  gains : List (Nat × Int)
  tier : Nat
  lines : List Nat
  clock : Nat
  deriving DecidableEq, Repr

def LeCfg.init : LeCfg := ⟨[], [], [0, 0, 0, 0], [], 0, [], 4⟩

/-- A configuration: the applied values, or those with items laid over them. -/
structure Cfg where
  ps : List (Nat × List Byte)
  les : List LeCfg
  deriving DecidableEq, Repr

def Cfg.le (c : Cfg) (l : Nat) : LeCfg := c.les.getD l LeCfg.init
def Cfg.modLe (c : Cfg) (l : Nat) (g : LeCfg → LeCfg) : Cfg := { c with les := c.les.modify l g }

/-- The applied configuration, and a machine under a configuration. -/
def State.cfg (s : State) : Cfg :=
  ⟨s.params, (List.range 16).map fun l =>
    let x := s.le l
    ⟨x.image, x.golden, x.counts, x.gains, x.tier, x.lines, x.clock⟩⟩
def State.withCfg (s : State) (c : Cfg) : State :=
  { (s.forEach (List.range 16) fun s l =>
      let y := c.le l
      s.modLe l fun x => { x with
        image := y.image, golden := y.golden, counts := y.counts, gains := y.gains, tier := y.tier, lines := y.lines
        clock := y.clock }) with params := c.ps }

/-- What a command does while another configuration stands. -/
def State.under (s : State) (c : Cfg) (g : State → State) : State :=
  let old := s.cfg
  (g (s.withCfg c)).withCfg old

/-- The default of a member, and its value in a configuration as bytes: image members from the golden copies, and a gain that
nothing has committed from the word that the image holds (R167). -/
def PInfo.bytes0 (x : PInfo) : List Byte := leBytes x.size x.dflt
def LeCfg.member (y : LeCfg) (m : Nat) : List Byte :=
  match imgParam y.image m with
  | none => []
  | some q =>
    if q.space = 8 then leBytes 4 (y.counts.getD q.addr 0)
    else if q.kind = 1 then
      let g := (listed y.gains m).getD (gainOfWord q (memGet (imgCoef y.image) q.addr))
      leBytes 4 (wrapN 32 g)
    else (List.range q.count).flatMap fun i => leBytes 4 (memGet y.golden (q.addr + i)).toNat
def Cfg.val (c : Cfg) (p : Nat) : List Byte :=
  if isMember p then (c.le (pidInst p)).member (pidMember p)
  else match listed c.ps p with
    | some v => v
    | none => match pinfo p with
      | some x => x.bytes0
      | none => []
def Cfg.num (c : Cfg) (p : Nat) : Nat := leNat (c.val p)

/-- A parameter of a logical engine's image takes a value (R167). -/
def LeCfg.put (y : LeCfg) (m : Nat) (v : List Byte) : LeCfg :=
  match imgParam y.image m with
  | none => y
  | some q =>
    if q.space = 8 then { y with counts := y.counts.set q.addr (leNat v % 65536) }
    else if q.kind = 1 then
      let g := sext 32 (leNat v)
      { y with golden := memSet y.golden q.addr (BitVec.ofNat 32 (gainParamWord q g)), gains := smapIns y.gains m g }
    else { y with golden := ((chunks 4 v.length v).zipIdx.foldl (fun mem e =>
        memSet mem ((q.addr + e.2) % 16384) (BitVec.ofNat 32 (leNat e.1))) y.golden) }

/-- An image comes into a logical engine with its own content; an empty file removes it (R165, R172). -/
def LeCfg.install (y : LeCfg) (f : List Byte) : LeCfg :=
  { y with image := f, golden := imgCoef f, counts := (List.range 4).map (if f = [] then fun _ => 0 else imgCount f), gains := []
           lines := [] }

/-- A parameter takes a value; one that returns to its default, and a route that is removed, are no longer listed. -/
def Cfg.put (c : Cfg) (p : Nat) (v : List Byte) : Cfg :=
  if isMember p then c.modLe (pidInst p) fun y => y.put (pidMember p) v
  else
    let gone := pidClass p = 3 ∧ (leNat v).testBit 31 = false
    { c with ps := if gone ∨ (pinfo p).map PInfo.bytes0 = some v then smapDel c.ps p else smapIns c.ps p v }

/-- Priority, ceiling, pin and domain of a logical engine in a configuration (R188). -/
def Cfg.dom (c : Cfg) (l : Nat) : Nat := c.num (pid 0x10 l 1) % 4
def Cfg.ceiling (c : Cfg) (l : Nat) : Nat := min (c.num (pid 0x51 0 (0x200 + l))) (imgNTier (c.le l).image - 1)
def Cfg.pin (c : Cfg) (l : Nat) : Option Nat :=
  let v := c.num (pid 0x51 0 (0x300 + l))
  if 4 ≤ v then none else some (max (min v (imgNTier (c.le l).image - 1)) (c.ceiling l))

/-- The logical engines an epoch installs: those whose image it names, and those with an image that it moves to another
domain (R537), in ascending order. -/
def Cfg.installs (c : Cfg) (items : List Item) : List Nat :=
  (List.range 16).filter fun l =>
    items.any (fun
      | .image k _ => decide (k = l)
      | .param p v => decide (p = pid 0x10 l 1) && decide ((c.le l).image ≠ []) && decide (leNat v ≠ c.dom l)
      | .tier _ _ => false)

/-- Items laid over a configuration (R168): images first, an image moved to another domain anew, then the rest; then the
tiers that pins, ceilings and installations set (R190, R191), all at their lowest while hard holds (R178).  Outside hard, a tier
that the lehr sets leaves a pinned logical engine where it is, unless it is the pin (R189), and stays within the ceiling. -/
def Cfg.lay (c : Cfg) (items : List Item) (hard : Bool) : Cfg :=
  let ins := c.installs items
  let c1 := ins.foldl (fun c l => c.modLe l fun y => y.install y.image) c
  let c2 := items.foldl (fun c i => match i with
    | .image l f => c.modLe l fun y => y.install f
    | _ => c) c1
  let c3 := items.foldl (fun c i => match i with
    | .param p v => c.put p v
    | .tier l t =>
      let t := max (min t (imgNTier (c.le l).image - 1)) (c.ceiling l)
      if ((c.pin l).filter (· ≠ t)).isSome then c else c.modLe l fun y => { y with tier := t }
    | .image _ _ => c) c2
  (List.range 16).foldl (fun c l =>
    let names := fun (m : Nat) => items.any fun
      | .param p _ => decide (p = pid 0x51 0 (m + l))
      | _ => false
    let t := (c.le l).tier
    let t :=
      if hard then imgNTier (c.le l).image - 1
      else match c.pin l with
        | some q => if l ∈ ins ∨ names 0x300 then q else if names 0x200 then max t (c.ceiling l) else t
        | none => if l ∈ ins then c.ceiling l else if names 0x200 then max t (c.ceiling l) else t
    if (c.le l).image = [] then c else c.modLe l fun y => { y with tier := t }) c3

/-- The configuration that the applied epoch and every queued one build (R168). -/
def State.queuedCfg (s : State) : Cfg :=
  let inHand := 1 ≤ s.f F.STG_STAT_PHASE ∧ s.f F.STG_STAT_PHASE ≤ 3
  s.stg.queue.zipIdx.foldl (fun c e =>
    c.lay e.1.items (if e.2 = 0 ∧ inHand then s.stg.hard else s.b F.TSU_STAT_HARD)) s.cfg

/-! ## Owning domains (R42) -/

/-- The rate domain that a read-write member belongs to in a configuration; none for members of no rate domain. -/
def Cfg.owner (c : Cfg) (p : Nat) : Option Nat :=
  let i := pidInst p
  let m := pidMember p
  if pidClass p = 0x02 then some i
  else if pidClass p = 0x03 then
    (if (c.num p).testBit 31 then some (c.num p / 2 ^ 28 % 4) else none)
  else if pidClass p = 0x10 then some (c.dom i)
  else if pidClass p = 0x20 then some (c.num (pid 0x20 i 4))
  else if pidClass p = 0x21 then some (c.num (pid 0x21 i 3))
  else if pidClass p = 0x22 then
    (if 0x100 ≤ m then some (c.num (pid 0x22 0 0x103))
     else if c.num (pid 0x22 0 2) ≠ 0 then some (c.num (pid 0x22 0 3)) else none)
  else if pidClass p = 0x23 then some (c.num (pid 0x23 i 3))
  else if pidClass p = 0x41 then some (c.num (pid 0x41 i 2))
  else if pidClass p = 0x51 ∧ 0x100 ≤ m ∧ m < 0x310 then some (c.dom (m % 0x100))
  else none

/-- The unit that a member belongs to is enabled in a configuration. -/
def Cfg.unitOn (c : Cfg) (p : Nat) : Bool :=
  let m := if pidClass p = 0x22 ∧ 0x100 ≤ pidMember p then 0x101 else 1
  c.num (pid (pidClass p) (pidInst p) m) ≠ 0

/-- The domain at whose swap a member changes: a route that is removed belongs to the domain it had, and a unit that runs
changes with its old domain (R42, R286, R390). -/
def Cfg.atDom (old new : Cfg) (p : Nat) : Option Nat :=
  let c := pidClass p
  if c = 0x03 then (new.owner p).orElse fun _ => old.owner p
  else if (0x20 ≤ c ∧ c ≤ 0x23) ∨ c = 0x41 then (if old.unitOn p then old.owner p else new.owner p)
  else new.owner p

/-- The rate domains whose groups an item affects, between two configurations: a change of a logical engine's domain
touches both (R537). -/
def Cfg.itemDoms (old new : Cfg) : Item → List Nat
  | .image l _ => [new.dom l]
  | .tier l _ => [new.dom l]
  | .param p _ =>
    let n := (old.atDom new p).toList
    if p = pid 0x10 (pidInst p) 1 ∧ (old.le (pidInst p)).image ≠ [] then (old.dom (pidInst p) :: n).eraseDups else n

/-! ## Read-only members (R391) -/

/-- Seconds and nanoseconds as a TIME value, from ns. -/
def timeVal (ns : Nat) : List Byte := timeBytes ns

/-- The words of a run of registers as bytes. -/
def State.regBytes (s : State) (as : List Nat) : List Byte := as.flatMap fun a => leBytes 4 (s.reg a).toNat

/-- The version that a slot's stage 1 holds; 0 without a valid record. -/
def State.slotVersion (s : State) (b : Bool) : Nat :=
  let r := s.regionRead (slotRegion b) 0 64
  if slotValid r then hdrVersion (s.regionRead (slotRegion b) (slotS1 r).1 256) else 0

/-- The value of a read-only member, image members apart.  DESIGN CHOICE (log 38): the running firmware is 4.1.0 and reads so in
firmware_version whatever image an update boots. -/
def State.roBytes (s : State) (p : Nat) : List Byte :=
  let i := pidInst p
  let m := pidMember p
  let w := fun (n : Nat) => leBytes 4 n
  let r := fun (a : Nat) => leBytes 4 (s.reg a).toNat
  if pidClass p = 0x01 then
    (if m = 1 then w 0xB0 else if m = 2 then w 0x00040100 else if m = 3 then s.fuseBytes 54 2
     else w ((s.uarts[m - 0x30]?.getD Uart.init).discarded))
  else if pidClass p = 0x02 then (if m = 0x10 then leBytes 8 (s.sidx i) else r (R.RD_STAT i))
  else if pidClass p = 0x03 then r (R.XCH_SLOT (m - 0x1000))
  else if pidClass p = 0x10 then
    let x := s.le i
    let h := x.host.getD 16
    (match m with
      | 0x11 => (imgSect x.image 12 ++ List.replicate 64 0).take 64
      | 0x12 => if x.image = [] then List.replicate 32 0 else (x.image.drop 32).take 32
      | 0x20 => w x.tier
      | 0x21 => w (if x.host.isSome then s.f (F.ENG_TIERST_PTIER h) else x.tier)
      | 0x22 => w x.clock
      | 0x23 => w (x.host.getD 0xFF)
      | _ => w (b2n (x.muted || s.fbit F.XCH_MUTE_MUTE i)))
  else if pidClass p = 0x20 then
    (match m with
      | 0x200 => r (R.ASP_STAT i)
      | 0x201 => r (R.ASP_SLIP i)
      | 0x202 => r (R.ASP_MEAS i)
      | _ => r (R.ASP_PHASE i))
  else if pidClass p = 0x21 then (if m = 0x200 then r (R.PDM_STAT i) else r (R.PDM_DECIM i))
  else if pidClass p = 0x22 then
    (match m with
      | 0x80 => r R.IECR_STAT
      | 0x81 => r R.IECR_RATEMEAS
      | 0x82 => r R.IECR_SLIP
      | _ => s.regBytes ((List.range 6).map R.IECR_CSA ++ (List.range 6).map R.IECR_CSB ++ (List.range 6).map R.IECR_UDA ++
          (List.range 6).map R.IECR_UDB))
  else if pidClass p = 0x23 then
    (match m with
      | 0x200 => w (s.f (F.SRC_STAT_STATE i))
      | 0x201 => r (R.SRC_RATIO i)
      | _ => r (R.SRC_LAT i))
  else if pidClass p = 0x40 then
    let q := m - 0x180
    w (b2n (s.net.ports[q]?.getD NetPort.init).up * 2 ^ 31 + s.f (F.PORT_CTRL_SPEED q) * 2 ^ 28 +
      s.f (F.PORT_STAT_DROPS q))
  else if pidClass p = 0x41 then
    (match m with
      | 0x200 => r (R.STR_STAT i)
      -- a talker has no counters
      | 0x201 => if i < 8 then w 0 else r (R.STR_LATECNT (i - 8))
      | 0x202 => if i < 8 then w 0 else r (R.STR_EARLYCNT (i - 8))
      | _ => if i < 8 then w 0 else r (R.STR_SEQCNT (i - 8)))
  else if pidClass p = 0x42 then
    (if m = 2 then timeVal s.tuTime
     else if m = 3 then w (wrapN 32 s.tu.offset)
     else if 0x30 ≤ m ∧ m < 0x34 then w (s.anchorOf (m - 0x30)).code
     else if 0x40 ≤ m ∧ m < 0x44 then w (wrapN 32 (s.dom (s.leader (m - 0x40))).err)
     else timeVal s.tu.capLast)
  else if pidClass p = 0x50 then r (if m = 0x80 then R.PMU_STAT else R.PMU_WAKESRC)
  else if pidClass p = 0x51 then
    (match m with
      | 2 => w (s.f F.LA_PEST_MW)
      | 3 => w (wrapN 32 (sext 12 (s.f F.TSU_MAX_TJ)))
      | 4 => r R.TSU_STAT
      | _ => r (if m < 0x410 then R.LDS_USE (m - 0x400) else R.LDS_PEAK (m - 0x410)))
  else if pidClass p = 0x52 then
    (if m = 0x300 then w ((s.rolesOf .cullet).map (2 ^ ·)).sum
     else if m < 0x200 then w ((s.s0 - (s.le (m - 0x100)).checkAt) / hourNow)
     else w (b2n (s.le (m - 0x200)).excluded))
  else if pidClass p = 0x70 then
    (match m with
      | 2 => w (512 * (s.journal.frames.map JFrame.sectors).sum)
      | 3 => w ((s.journal.erases.map (·.2)).foldl max 0)
      | 4 => w (s.f (F.AON_RET_DATA 3) % 4)
      | _ => w (s.slotVersion !s.bootedB))
  else w 0

end Sys2Proof.Machine
end

