-- ==== Sys2Proof/Machine/Validate.lean ====
section
/-! DEFINITION. Validation of a commit (R168 to R171): the checks of R169 in their order, the placement of long lines
(R141) and the engine clocks that an epoch carries (R171). -/

namespace Sys2Proof.Machine

/-- A failed check: status, ITEM and LE (R379). -/
structure Fail where
  status : Nat
  item : Option Nat
  le : Option Nat
  deriving DecidableEq, Repr

/-- Statuses of R378. -/
def stBadRequest : Nat := 2
def stRange : Nat := 5
def stBudget : Nat := 7
def stRoute : Nat := 8
def stNoSpace : Nat := 10
def stNotInState : Nat := 12

/-- The first failure of a list of checks. -/
def firstFail : List (Option Fail) → Option Fail
  | [] => none
  | some x :: _ => some x
  | none :: xs => firstFail xs

/-- A check that must hold. -/
def failUnless (ok : Bool) (x : Fail) : Option Fail := if ok then none else some x

/-! ## Items (R379) -/

/-- The number of the first staged item that satisfies a test. -/
def itemWhere (items : List Item) (t : Item → Bool) : Option Nat := items.findIdx? t

/-- An item names a pid; an image is pid 10.ii.0010 (R383). -/
def Item.pid : Item → Nat
  | .param p _ => p
  | .image l _ => Sys2Proof.Machine.pid 0x10 l 0x10
  | .tier l _ => Sys2Proof.Machine.pid 0x10 l 0x20

/-- An item touches a logical engine, or a unit of a class. -/
def Item.touchesLe (l : Nat) (i : Item) : Bool :=
  let p := i.pid
  (pidClass p = 0x10 && pidInst p = l) ||
    (pidClass p = 0x51 && 0x100 ≤ pidMember p && pidMember p < 0x400 && pidMember p % 0x100 = l)
def Item.touchesUnit (c n : Nat) (i : Item) : Bool := pidClass i.pid = c && pidInst i.pid = n

/-- The logical engine of an item. -/
def Item.leOf (i : Item) : Option Nat := (List.range 16).find? fun l => i.touchesLe l

/-- ITEM for a fault at a pid, or else of a unit: the lowest item that names it. -/
def itemFor (items : List Item) (p : Nat) (unit : Item → Bool) : Option Nat :=
  (itemWhere items fun i => i.pid = p).orElse fun _ => itemWhere items unit

/-! ## Rate domains of a configuration -/

def Cfg.rd (c : Cfg) (d k : Nat) : Nat := c.num (pid 0x02 d k)
def Cfg.linked (c : Cfg) (d : Nat) : Bool := c.rd d 6 ≠ 0
def Cfg.leader (c : Cfg) (d : Nat) : Nat := if c.linked d then c.rd d 7 % 4 else d
def Cfg.ratio (c : Cfg) (d : Nat) : Nat := if c.linked d then c.rd d 8 else 1
def Cfg.group (c : Cfg) (d : Nat) : List Nat := (List.range 4).filter fun k => c.leader k = c.leader d
def Cfg.related (c : Cfg) (a b : Nat) : Bool := c.leader (a % 4) = c.leader (b % 4)

/-- The nominal rate, and the rate that validation takes (R35, R47). -/
def Cfg.rate (c : Cfg) (d : Nat) : Frac :=
  let l := c.leader d
  (acsNominal (c.rd l 2) * 2 ^ 32, (c.rd l 3 * 2 ^ 32 + c.rd l 4) * c.ratio d)
def Cfg.fs (c : Cfg) (d : Nat) : Frac :=
  let l := c.leader d
  let a := c.rd l 2 % 2
  checkRate a (c.rd l 3) (c.rd l 4) (c.ratio d) (min (c.num (pid 0x01 0 (0x10 + a))) 1000)

/-- The domain at the top of a chain of links, and whether a domain is enabled: the domain at its top is unlinked and is. -/
def Cfg.top (c : Cfg) : Nat → Nat → Nat
  | 0, d => d
  | n + 1, d => if c.linked d then c.top n (c.leader d) else d
def Cfg.enabled (c : Cfg) (d : Nat) : Bool :=
  let t := c.top 4 d
  !c.linked t && c.rd t 1 ≠ 0

/-- The settings of one domain are valid codes (R35, R38, R39). -/
def Cfg.codesOk (c : Cfg) (d : Nat) : Bool :=
  (List.range 8).all fun k => match pDomain d (k + 1) with
    | some x => x.fits (c.val (pid 0x02 d (k + 1)))
    | none => true

/-- An enabled domain keeps R35, R39 and R40. -/
def Cfg.domainOk (c : Cfg) (d : Nat) : Bool :=
  let l := c.leader d
  c.codesOk d && c.codesOk l && !c.linked l && c.rd l 3 ≠ 0 && rateOk (c.rate d) &&
    (d = l || (c.rd d 5 * c.ratio d = c.rd l 5 && c.rd l 9 % (c.rd l 5 * c.ratio d) = 0))

/-- ITEM for a domain that does not: of its leader when that fails by itself, otherwise of the domain, then its leader. -/
def Cfg.domainItem (c : Cfg) (items : List Item) (d : Nat) : Option Nat :=
  let l := c.leader d
  let of := fun (k : Nat) => itemWhere items fun i => i.touchesUnit 0x02 k
  if c.linked l || c.domainOk l then (of d).orElse fun _ => of l else of l

/-! ## Touched logical engines (R170) -/

/-- A domain that the commit enables, or whose source, divider, block length or link it changes, itself or by its leader. -/
def Cfg.domTouched (old new : Cfg) (d : Nat) : Bool :=
  let moved := fun (k : Nat) => (old.rd k 1 = 0 && new.rd k 1 ≠ 0) || (List.range 7).any fun j => old.rd k (j + 2) ≠ new.rd k (j + 2)
  moved d || moved (new.leader d)

/-- The logical engines whose image, counts or domain the commit touches; and those whose tier it changes too, whose
clocks the epoch carries (R171, R193). -/
def Cfg.touched (old new : Cfg) (items : List Item) : List Nat :=
  let ins := old.installs items
  (List.range 16).filter fun l =>
    l ∈ ins || (old.le l).counts ≠ (new.le l).counts || old.domTouched new (new.dom l)
def Cfg.clocked (old new : Cfg) (items : List Item) : List Nat :=
  let t := old.touched new items
  (List.range 16).filter fun l => (new.le l).image ≠ [] && (l ∈ t || (old.le l).tier ≠ (new.le l).tier)

/-- Cycles of a tier at the counts of a configuration (R164), and at the counts that CMAXCHK names (R170). -/
def LeCfg.cycles (y : LeCfg) (t : Nat) : Nat := imgCycles y.image t fun k => y.counts.getD k 0
def LeCfg.checkCycles (y : LeCfg) (t : Nat) : Nat :=
  let top := fun (k : Nat) =>
    let ms := ((imgParams y.image).filter fun q => q.space = 8 ∧ q.addr = k).map fun q => q.max.toNat
    if imgCmaxChk y.image ∧ ms ≠ [] then ms.foldl max 0 else y.counts.getD k 0
  imgCycles y.image t top

/-- The lowest engine clock whose budget covers the current tier (R171); the highest when none does. -/
def Cfg.clockOf (c : Cfg) (l : Nat) : Nat :=
  let y := c.le l
  ((List.range 17).find? fun n => 4 ≤ n ∧ y.cycles y.tier ≤ budget n (c.fs (c.dom l))).getD 16

/-! ## Long lines (R140, R141, R536) -/

/-- A placed line: its table entry, base, length and logical engine. -/
abbrev Line := Nat × Nat × Nat × Nat

/-- The line table of the state that a commit is validated against (R168): what is applied, less what queued epochs
free, and what they place. -/
def State.appliedLines (s : State) : List Line :=
  (List.range 256).filterMap fun i =>
    if s.b (F.LINEBASE_VALID i) then
      some (i, s.f (F.LINEBASE_BASE i), s.f (F.LINELEN_LEN i), s.f (F.LINELEN_LE i))
    else none
def State.queuedLines (s : State) : List Line :=
  s.stg.queue.foldl (fun t e => (t.filter fun x => x.1 ∉ e.freed ∧ ¬ e.lines.any (·.1 = x.1)) ++ e.lines) s.appliedLines

/-- The lowest base in a half at which a line of n words fits: 0, or the end of a line. -/
def fitIn (t : List Line) (half n : Nat) : Option Nat :=
  let lo := half * 2 ^ 20
  let hi := lo + 2 ^ 20
  let free := fun (b : Nat) => decide (lo ≤ b) && decide (b + n ≤ hi) &&
    t.all fun x => decide (x.2.1 + x.2.2.1 ≤ b) || decide (b + n ≤ x.2.1)
  ((lo :: t.map fun x => x.2.1 + x.2.2.1).filter free).foldl (fun acc b => match acc with
    | none => some b
    | some a => some (min a b)) none

/-- Place one line: the lowest free entry of the table, half A before half B. -/
def placeLine (t : List Line) (n l : Nat) : Option Line :=
  match (List.range 256).find? fun i => t.all fun x => x.1 ≠ i, (fitIn t 0 n).orElse fun _ => fitIn t 1 n with
  | some i, some b => some (i, b, n, l)
  | _, _ => none

/-- Lengths of the lines of its own that an image declares. -/
def ownLines (f : List Byte) : List Nat := (imgLLine f).filter (· < 2 ^ 31)

/-- Place lines in order; none when one does not fit. -/
def placeAll (t : List Line) : List (Nat × Nat) → Option (List Line)
  | [] => some []
  | (n, l) :: rest =>
    match placeLine t n l with
    | some x => (placeAll (t ++ [x]) rest).map (x :: ·)
    | none => none

/-- The length of an image-local line, its owner's for an import. -/
def Cfg.lineLen (c : Cfg) (l i : Nat) : Option Nat :=
  let ls := imgLLine (c.le l).image
  match ls[i]? with
  | none => none
  | some v =>
    if v < 2 ^ 31 then some v
    else
      let b := c.num (pid 0x10 l (0x200 + i))
      let os := imgLLine (c.le (b / 2 ^ 24 % 16)).image
      if b.testBit 31 then (os[b % 256]?).filter (· < 2 ^ 31) else none

/-! ## Check 1 -/

/-- A staged item as an epoch carries it: an image not yet ended is none. -/
def Staged.item : Staged → Option Item
  | .param p v => some (.param p v)
  | .image l cells ended =>
    if ended then some (.image l (cells.map fun x => x.getD 0)) else none

/-- Images (R162, R384) and image members (R385). -/
def check1 (staged : List Staged) (new : Cfg) : Option Fail :=
  let img := staged.zipIdx.map fun p => match p.1.item with
    | none => some ⟨stBadRequest, some p.2, none⟩
    | some (.image _ f) => if f = [] then none else failUnless (imgStatus f = 0) ⟨imgStatus f, some p.2, none⟩
    | _ => none
  let mem := staged.zipIdx.map fun p => match p.1 with
    | .param q v =>
      if isMember q then
        failUnless (match memberInfo (new.le (pidInst q)).image (pidMember q) with
          | some x => x.rw && x.size = v.length
          | none => false) ⟨stBadRequest, some p.2, none⟩
      else none
    | _ => none
  firstFail (img ++ mem)

/-! ## Check 2 -/

/-- Writers that a route may name: kind, IDs and indices (R69). -/
def routeOk (v : Nat) : Bool :=
  let kind := v / 2 ^ 24 % 8
  let i := v / 2 ^ 16 % 256
  let x := v % 128
  v.testBit 31 == false ||
    (match kind with
      | 1 => i < 16
      | 2 => i < 8 && x < 64
      | 3 => i < 4 && x < 2
      | 4 => i < 8 && x < 4
      | 5 => 8 ≤ i && i < 16 && x < 8
      | 6 => i = 0 && x < 2
      | _ => false)

/-- The nominal frequency of an ACS suits its reference (R391). -/
def Cfg.refOk (c : Cfg) (a : Nat) : Bool :=
  let hz := c.num (pid 0x01 0 (0x16 + a))
  match c.num (pid 0x01 0 (0x14 + a)) with
  | 0 => hz = 25000000
  | 1 => 10000000 ≤ hz && hz ≤ 50000000
  | _ => 8000000 ≤ hz && hz ≤ 50000000

/-- BT of a rate in baud (R428). -/
def baudBt (rate : Nat) : Nat := if rate = 0 then 0 else (2 * 200000000 + rate) / (2 * rate)

/-- A VLAN entry that is valid has a VID from 1 to 4,094 (R315). -/
def vlanOk (v : Nat) : Bool := !v.testBit 31 || (1 ≤ v % 4096 && v % 4096 ≤ 4094)

/-- A static MAC entry: its VID, if it is valid, its mask of ports, its valid byte, and zeros (R391, R315). -/
def macOk (b : List Byte) : Bool :=
  let valid := leNat ((b.drop 9).take 1)
  let vid := leNat ((b.drop 6).take 2)
  leNat ((b.drop 8).take 1) < 8 && valid ≤ 1 && leNat (b.drop 10) = 0 && (valid = 0 || (1 ≤ vid && vid ≤ 4094))

/-- Values that depend on more than their range. -/
def Cfg.valueOk (c : Cfg) (p : Nat) : Bool :=
  let m := pidMember p
  if pidClass p = 0x01 ∧ 0x14 ≤ m ∧ m ≤ 0x17 then c.refOk (m % 2)
  else if pidClass p = 0x03 then routeOk (c.num p)
  else if pidClass p = 0x40 ∧ 0x200 ≤ m ∧ m < 0x240 then vlanOk (c.num p)
  else if pidClass p = 0x40 ∧ 0x300 ≤ m then macOk (c.val p)
  else if pidClass p = 0x60 ∧ m < 0x400 ∧ m % 0x100 = 0 then
    16 ≤ baudBt (c.num p) && baudBt (c.num p) ≤ 1048575
  else if p = pid 0x60 0 0x400 then c.num p = 100 || c.num p = 400 || c.num p = 1000
  else true

/-- One value; the settings of a rate domain are checked whole, once it is enabled (R35). -/
def valueFits (new : Cfg) (i : Item) : Bool :=
  match i with
  | .param p v =>
    pidClass p = 0x02 ||
      ((match infoOf (new.le (pidInst p)).image p with
        | some x => x.fits v
        | none => false) && new.valueOk p)
  | _ => true

/-- Count registers within their parameters' limits. -/
def LeCfg.countsOk (y : LeCfg) : Bool :=
  (imgParams y.image).all fun q => q.space ≠ 8 ||
    (q.min ≤ (y.counts.getD q.addr 0 : Int) && (y.counts.getD q.addr 0 : Int) ≤ q.max)

/-- Long-line lengths, and the lines and delays of the two lists (R140, R146). -/
def Cfg.linesOk (c : Cfg) (l : Nat) : Bool :=
  let f := (c.le l).image
  let n := (imgLLine f).length
  let okEntry := fun (least v : Nat) =>
    decide (v / 2 ^ 24 < n) && decide (least ≤ v % 2 ^ 21) &&
      (match c.lineLen l (v / 2 ^ 24) with
        | some len => decide (v % 2 ^ 21 < len)
        | none => true)
  (ownLines f).all (fun v => v % 8 = 0 && 8 ≤ v && v ≤ 1048576) && (imgGath f).all (okEntry 2) && (imgLwr f).all (okEntry 0)

/-- INT as R278 takes it for a port's domain. -/
def Cfg.domInt (c : Cfg) (d : Nat) : Nat := c.rd (c.leader d) 3 * c.ratio d

/-- The frame of an audio port (R278). -/
def Cfg.aspOk (c : Cfg) (p : Nat) : Bool :=
  let v := fun (m : Nat) => c.num (pid 0x20 p m)
  v 0x14 ≤ v 0x13 && v 0x12 * v 0x13 ≤ v 0x10 && (v 3 ≠ 0 || v 0x10 ≤ c.domInt (v 4))

/-- A rate is one of a list of whole hertz. -/
def rateIn (fs : Frac) (l : List Nat) : Bool := l.any fun hz => fs.1 = hz * fs.2

/-- An enabled PDM port (R293), and an enabled IEC transmitter (R303). -/
def Cfg.pdmOk (c : Cfg) (n : Nat) : Bool :=
  let d := c.num (pid 0x21 n 3)
  let l := c.leader d
  c.num (pid 0x21 n 1) = 0 ||
    (c.rd l 2 = 0 && c.rd l 4 = 0 && rateIn (c.rate d) [8000, 16000, 24000, 32000, 48000] &&
      c.domInt d % max (c.num (pid 0x21 n 4)) 1 = 0)
def Cfg.iecOk (c : Cfg) : Bool :=
  let fs := c.rate (c.num (pid 0x22 0 0x103))
  c.num (pid 0x22 0 0x101) = 0 || (32000 * fs.2 ≤ fs.1 && fs.1 ≤ 192000 * fs.2)

/-- A stream (R337): its frame, its offset and, of one that is enabled, its rate. -/
def Cfg.strOk (c : Cfg) (k : Nat) : Bool :=
  let v := fun (m : Nat) => c.num (pid 0x41 k m)
  let fs := c.rate (v 2)
  v 6 * v 4 * (v 3 + 2) ≤ 1476 && (fs.1 = 0 || v 6 * fs.2 * 1000000000 < v 0x13 * fs.1) && (v 1 = 0 || nsrCode fs ≠ 0)

/-- The idle slopes of a network port take at most 75% of its link rate, where an item names them or the speed (R317); a link
that is up has the speed that firmware has set, until a queued epoch sets it (R168). -/
def State.slopesOk (s : State) (new : Cfg) (items : List Item) (p : Nat) : Bool :=
  let m := fun (k : Nat) => pid 0x40 0 (0x100 + 0x20 * p + k)
  let named := fun (k : Nat) => items.any fun i => i.pid = m k
  let set := named 1 || s.stg.queue.any fun e => e.items.any fun i => i.pid = m 1
  let speed := if set then new.num (m 1) else s.f (F.PORT_CTRL_SPEED p)
  !(named 1 || named 7 || named 8) || decide ((new.num (m 7) + new.num (m 8)) * 4 ≤ linkRate speed * 3)

/-- A port or stream that an item names, or that lies in a touched domain. -/
def unitTouched (old new : Cfg) (items : List Item) (cl n d : Nat) : Bool :=
  items.any (fun i => i.touchesUnit cl n) || old.domTouched new (d % 4)

/-- Check 2 of R169. -/
def State.check2 (s : State) (old new : Cfg) (items : List Item) : Option Fail :=
  let t := old.touched new items
  let vals := items.zipIdx.map fun p => failUnless (valueFits new p.1) ⟨stRange, some p.2, none⟩
  let imaged := (List.range 16).filter fun l => (new.le l).image ≠ []
  let counts := (imaged.filter (· ∈ t)).map fun l =>
    failUnless (new.le l).countsOk ⟨stRange, itemWhere items fun i => i.touchesLe l, none⟩
  let lines := imaged.map fun l =>
    failUnless (new.linesOk l) ⟨stRange, itemFor items (pid 0x10 l 0x10) fun i => i.touchesLe l, none⟩
  let asps := (List.range 8).map fun p =>
    failUnless (!unitTouched old new items 0x20 p (new.num (pid 0x20 p 4)) || new.aspOk p)
      ⟨stRange, itemWhere items fun i => i.touchesUnit 0x20 p, none⟩
  let pdms := (List.range 4).map fun n => failUnless (new.pdmOk n) ⟨stRange, itemWhere items fun i => i.touchesUnit 0x21 n, none⟩
  let iec := failUnless new.iecOk ⟨stRange, itemWhere items fun i => i.touchesUnit 0x22 0, none⟩
  let strs := (List.range 16).map fun k =>
    failUnless (!unitTouched old new items 0x41 k (new.num (pid 0x41 k 2)) || new.strOk k)
      ⟨stRange, itemWhere items fun i => i.touchesUnit 0x41 k, none⟩
  let doms := ((List.range 4).filter new.enabled).map fun d =>
    failUnless (new.domainOk d) ⟨stRange, new.domainItem items d, none⟩
  let nets := (List.range 2).map fun p => failUnless (s.slopesOk new items p)
    ⟨stRange, itemWhere items fun i => (List.range 2).any fun k => i.pid = pid 0x40 0 (0x107 + 0x20 * p + k), none⟩
  firstFail (vals ++ counts ++ lines ++ asps ++ pdms ++ [iec] ++ strs ++ nets ++ doms)

/-! ## Check 3 -/

/-- The valid routes of a configuration: slot and word. -/
def Cfg.routes (c : Cfg) : List (Nat × Nat) :=
  c.ps.filterMap fun p =>
    if pidClass p.1 = 3 ∧ pidMember p.1 < 0x800 ∧ (leNat p.2).testBit 31 then some (pidMember p.1, leNat p.2) else none

/-- The writer of a route: kind, ID and INDEX. -/
def writerOf (v : Nat) : Nat := v / 2 ^ 16 % 2 ^ 11 * 128 + v % 128

/-- A channel of an audio port: its pin is an output, and its slot is enabled for input. -/
def Cfg.aspOut (c : Cfg) (p ch : Nat) : Bool := c.num (pid 0x20 p (if ch < 32 then 5 else 6)) ≠ 0
def Cfg.aspRx (c : Cfg) (p ch : Nat) : Bool :=
  ch % 32 < c.num (pid 0x20 p 0x12) && (c.num (pid 0x20 p (if ch < 32 then 0x22 else 0x23))).testBit (ch % 32)

/-- A route's writer can write, in the slot's domain (R48, R280, R292, R305). -/
def Cfg.routeFits (c : Cfg) (v : Nat) : Bool :=
  let d := v / 2 ^ 28 % 4
  let i := v / 2 ^ 16 % 256
  let x := v % 128
  match v / 2 ^ 24 % 8 with
  | 1 => c.dom i = d
  | 2 => c.num (pid 0x20 i 4) = d && c.num (pid 0x20 i 3) ≠ 2 && !c.aspOut i x && c.aspRx i x
  | 3 => c.num (pid 0x21 i 3) = d
  | 4 => c.num (pid 0x23 i 3) = d && c.num (pid 0x23 i 2) = 0
  | 5 => c.num (pid 0x41 i 2) = d
  | _ => c.num (pid 0x22 0 2) = 0 || c.num (pid 0x22 0 3) = d

/-- A slot entry names a slot of a domain related to its reader's (R52). -/
def Cfg.slotFits (c : Cfg) (entry d : Nat) : Bool :=
  let r := c.num (pid 0x03 0 (entry % 2048))
  !entry.testBit 31 || !r.testBit 31 || c.related (r / 2 ^ 28 % 4) d

/-- Imports of a logical engine, and its long writes (R536). -/
def Cfg.importsOk (c : Cfg) (items : List Item) (l : Nat) : List (Option Fail) :=
  let f := (c.le l).image
  let imports := (imgLLine f).zipIdx.filter fun p => 2 ^ 31 ≤ p.1
  (imports.map fun p =>
    let q := pid 0x10 l (0x200 + p.2)
    failUnless ((c.lineLen l p.2).isSome && c.dom (c.num q / 2 ^ 24 % 16) = c.dom l)
      ⟨stRoute, itemFor items q fun i => i.touchesLe l, none⟩) ++
  [failUnless ((imgLwr f).all fun v => (imgLLine f).getD (v / 2 ^ 24) 0 < 2 ^ 31)
    ⟨stRoute, itemWhere items fun i => i.touchesLe l, none⟩]

/-- External channels of an ASRC group. -/
def Cfg.srcChans (c : Cfg) (g : Nat) : List Nat :=
  (List.range (c.num (pid 0x23 g 5))).map (· + c.num (pid 0x23 g 6))

/-- An enabled ASRC group has the direction of its pins and shares no external channel (R292, R305). -/
def Cfg.srcFits (c : Cfg) (g : Nat) : Bool :=
  let v := fun (k m : Nat) => c.num (pid 0x23 k m)
  v g 1 = 0 ||
    ((if v g 4 = 8 then v g 2 = 0
      else (c.srcChans g).all fun ch => c.aspOut (v g 4) ch = decide (v g 2 = 1)) &&
    (List.range 8).all fun k => k = g || v k 1 = 0 || v k 4 ≠ v g 4 || v k 2 ≠ v g 2 ||
      (c.srcChans k).all fun ch => !(c.srcChans g).contains ch)

/-- Check 3 of R169. -/
def check3 (new : Cfg) (items : List Item) : Option Fail :=
  let rs := new.routes
  let route := rs.map fun (k, v) =>
    let same := rs.filter fun r => writerOf r.2 = writerOf v
    let slots := if new.routeFits v then same.map (·.1) else [k]
    let unit := fun (i : Item) =>
      (routeKind (BitVec.ofNat 32 v) = 1 && i.touchesLe (v / 2 ^ 16 % 256)) ||
      (routeKind (BitVec.ofNat 32 v) = 2 && i.touchesUnit 0x20 (v / 2 ^ 16 % 256))
    failUnless (new.routeFits v && same.length = 1)
      ⟨stRoute, (itemWhere items fun i => slots.any fun j => i.pid = pid 0x03 0 j).orElse fun _ => itemWhere items unit, none⟩
  let listed := fun (cl lo hi : Nat) => new.ps.filter fun p =>
    pidClass p.1 = cl && lo ≤ pidMember p.1 && pidMember p.1 < hi
  let tx := (listed 0x20 0x100 0x140).map fun p =>
    let u := pidInst p.1
    let v := leNat p.2
    failUnless (!v.testBit 31 || (new.num (pid 0x20 u 3) ≠ 2 && new.aspOut u (pidMember p.1 - 0x100) &&
      new.slotFits v (new.num (pid 0x20 u 4)))) ⟨stRoute, itemFor items p.1 fun i => i.touchesUnit 0x20 u, none⟩
  let reads := fun (cl lo hi m : Nat) => (listed cl lo hi).map fun p =>
    failUnless (new.slotFits (leNat p.2) (if cl = 0x10 then new.dom (pidInst p.1) else new.num (pid cl (pidInst p.1) m)))
      ⟨stRoute, itemFor items p.1 fun i => i.touchesUnit cl (pidInst p.1), none⟩
  let imports := (List.range 16).flatMap fun l => new.importsOk items l
  let srcs := (List.range 8).map fun g => failUnless (new.srcFits g) ⟨stRoute, itemWhere items fun i => i.touchesUnit 0x23 g, none⟩
  firstFail (route ++ tx ++ reads 0x10 0x100 0x200 1 ++ reads 0x23 0x100 0x104 3 ++ reads 0x22 0x120 0x122 0x103 ++
    reads 0x41 0x100 0x108 2 ++ imports ++ srcs)

/-! ## Check 4 -/

/-- Bytes of the golden store that a configuration uses (R175). -/
def Cfg.goldenBytes (c : Cfg) : Nat :=
  (c.les.map fun y => if y.image = [] then 0 else y.image.length + 65536).sum

/-- Engines free to take a logical engine without a host: the punty, the reserve and those out of service that are in no
BIST and no CLEAR and no logical engine's already (R242). -/
def State.freeEngines (s : State) : Nat :=
  ((List.range 17).filter fun e => (s.eng e).role ≠ .cullet ∧ (s.eng e).role ≠ .live ∧ s.mode e ≠ 5 ∧ s.mode e ≠ 6 ∧
    s.claimed e = false ∧ ¬ (List.range 16).any (fun l => (s.le l).host = some e)).length

/-- A logical engine without a host and without an engine that is being loaded for it. -/
def State.unserved (s : State) (l : Nat) : Bool :=
  let x := s.le l
  x.host.isNone && x.inst.isNone && x.entry ≠ .cold &&
    !(List.range 17).any (fun e => decide (x.entry ∈ [.loading e, .ready e])) &&
    !(s.b F.SCU_PAIR_VALID && s.pairLe = l && (s.scuState = 7 || s.scuState = 8))

/-- The lines that an epoch places, in ascending order of logical engines and lines. -/
def Cfg.wants (old new : Cfg) (items : List Item) : List (Nat × Nat) :=
  (old.installs items).flatMap fun l => (ownLines (new.le l).image).map fun n => (n, l)

/-- Check 4 of R169: the placed lines, or the failure, whose ITEM is the lowest-numbered staged item that touches what is at fault
(R379): an item that places lines, an image, or the logical engine for which no engine is left. -/
def State.check4 (s : State) (old new : Cfg) (items : List Item) : Except Fail (List Line) :=
  let ins := old.installs items
  let imgItem := fun (l : Nat) => itemFor items (pid 0x10 l 0x10) fun i => i.touchesLe l
  let news := ins.filter fun l => (new.le l).image ≠ []
  let homeless := news.filter s.unserved
  let waiting := (List.range 16).filter fun l => l ∉ ins ∧ (old.le l).image ≠ [] ∧ s.unserved l
  let lined := news.filter fun l => ownLines (new.le l).image ≠ []
  let places := fun (i : Item) => lined.any fun l => i.pid = pid 0x10 l 0x10 || i.pid = pid 0x10 l 1
  let stores := fun (i : Item) => news.any fun l => i.pid = pid 0x10 l 0x10
  match placeAll s.queuedLines (old.wants new items) with
  | none => .error ⟨stNoSpace, itemWhere items places, none⟩
  | some ls =>
    if 2097152 < new.goldenBytes then .error ⟨stNoSpace, itemWhere items stores, none⟩
    else if homeless ≠ [] ∧ s.freeEngines < waiting.length + homeless.length then
      .error ⟨stNoSpace, homeless.getLast?.bind imgItem, none⟩
    else if 229376 < s.jLiveWith items then .error ⟨stNoSpace, none, none⟩
    else .ok ls

/-! ## Checks 5 and 6 -/

/-- f_lim as a multiplier (R170): the lowest FMAX outside the cullet, or the fused initial one. -/
def State.fLim (s : State) : Nat :=
  let es := (List.range 17).filter fun e => (s.eng e).role ≠ .cullet
  match es.map s.fmax with
  | [] => s.fusedFmax
  | x :: xs => xs.foldl min x

/-- Check 5 of R169: every tier of every touched logical engine fits. -/
def State.check5 (s : State) (old new : Cfg) (items : List Item) : Option Fail :=
  let ls := (old.touched new items).filter fun l =>
    (new.le l).image ≠ [] && (new.enabled (new.dom l) || rateOk (new.rate (new.dom l)))
  firstFail (ls.map fun l =>
    let y := new.le l
    failUnless ((List.range (imgNTier y.image)).all fun t => y.checkCycles t ≤ budget s.fLim (new.fs (new.dom l)))
      ⟨stBudget, itemWhere items fun i => i.touchesLe l || i.touchesUnit 0x02 (new.dom l) ||
        i.touchesUnit 0x02 (new.leader (new.dom l)), some l⟩)

/-- The list entries of a logical engine with the half of their line and their residue (R149). -/
def Cfg.accesses (c : Cfg) (tab : List Line) (l : Nat) : List (Nat × Nat) :=
  let f := (c.le l).image
  let base := fun (i : Nat) =>
    let own := fun (l i : Nat) => (tab.filter (·.2.2.2 = l))[((imgLLine (c.le l).image).take i |>.filter (· < 2 ^ 31)).length]?
    let x := if (imgLLine f).getD i 0 < 2 ^ 31 then own l i
      else
        let b := c.num (pid 0x10 l (0x200 + i))
        own (b / 2 ^ 24 % 16) (b % 256)
    ((x.map fun y => y.2.1).getD 0) / 2 ^ 20
  (imgGath f).map (fun v => (base (v / 2 ^ 24), (9 - v % 8) % 8)) ++
    (imgLwr f).map fun v => (base (v / 2 ^ 24), (8 - v % 8) % 8)

/-- Check 6 of R169 (R149): total, per half and per bank, for a line table.  DESIGN CHOICE (log 13): a domain that is not enabled
counts with the rate that its settings give, and with 0 when its INT is 0. -/
def Cfg.ldsOk (c : Cfg) (tab : List Line) : Bool :=
  let per := (List.range 16).map fun l => (l, c.accesses tab l)
  let q := fun (fs : Frac) => (fs.1 : Rat) / (fs.2 : Rat)
  let sum := fun (g : Nat × Nat → Bool) => (per.map fun p =>
    (((p.2.filter g).length : Nat) : Rat) * (if p.2 = [] then 0 else q (c.fs (c.dom p.1)))).sum
  let bank := fun (h : Nat) => ((List.range 4).map fun d =>
    let as := (per.filter fun p => c.dom p.1 = d).flatMap fun p => p.2.filter (·.1 = h)
    let m := ((List.range 8).map fun r => (as.filter (·.2 = r)).length).foldl max 0
    if m = 0 then 0 else (m : Rat) * q (c.fs d)).sum
  decide (sum (fun _ => true) ≤ 6400000000) &&
    (List.range 2).all fun h => decide (sum (fun a => a.1 = h) ≤ 3200000000) && decide (bank h ≤ 400000000)

/-- Check 6: ITEM is the lowest item that touches a logical engine with long lists, or a rate domain. -/
def check6 (new : Cfg) (tab : List Line) (items : List Item) : Option Fail :=
  let it := itemWhere items fun i => pidClass i.pid = 0x02 ||
    match i.leOf with
    | some l => imgGath (new.le l).image ≠ [] || imgLwr (new.le l).image ≠ []
    | none => false
  failUnless (new.ldsOk tab) ⟨stBudget, it, (it.bind fun n => items[n]?).bind Item.leOf⟩

/-! ## Checks 1 to 6, and what the epoch carries -/

/-- MODE or DOMAIN of a port changes while EN stays 1 (R286). -/
def portMoves (old new : Cfg) : Bool :=
  (List.range 8).any fun p =>
    let v := fun (c : Cfg) (m : Nat) => c.num (pid 0x20 p m)
    v old 1 ≠ 0 && v new 1 ≠ 0 && (v old 3 ≠ v new 3 || v old 4 ≠ v new 4)

/-- The clocks that an epoch carries between two configurations (R171, R193). -/
def Cfg.clocks (old new : Cfg) (items : List Item) : List (Nat × Nat) :=
  (old.clocked new items).map fun l => (l, new.clockOf l)

/-- The lines an epoch frees: those of every logical engine that it installs. -/
def linesFreed (tab : List Line) (ins : List Nat) : List Nat := (tab.filter fun x => x.2.2.2 ∈ ins).map (·.1)

/-- A parison through checks 1 to 6 of R169: its items with the lines placed, the lines freed and the clocks. -/
def State.validate (s : State) (staged : List Staged) :
    Except Fail (List Item × List Line × List Nat × List (Nat × Nat)) :=
  let items := staged.filterMap Staged.item
  let old := s.queuedCfg
  let new := old.lay items (s.b F.TSU_STAT_HARD)
  match check1 staged new with
  | some x => .error x
  | none =>
    match firstFail [s.check2 old new items, check3 new items] with
    | some x => .error x
    | none =>
      match s.check4 old new items with
      | .error x => .error x
      | .ok ls =>
        let freed := linesFreed s.queuedLines (old.installs items)
        let tab := (s.queuedLines.filter fun x => x.1 ∉ freed) ++ ls
        match firstFail [s.check5 old new items, check6 new tab items] with
        | some x => .error x
        | none => .ok (items, ls, freed, old.clocks new items)

end Sys2Proof.Machine
end

