-- ==== Sys2Proof/Machine/Apply.lean ====
section
/-! DEFINITION. Committed values reach the hardware: the register of each member in its code, and the units whose settings
start, stop or change them (R286 to R288, R296, R304, R307, R329, R390, R391, R413). -/

namespace Sys2Proof.Machine

/-! ## Registers -/

/-- A member's field takes its value (R390). -/
def State.applyFld (s : State) (p : Nat) (v : List Byte) : State :=
  match (pinfo p).map PInfo.tgt with
  | some (.fld x c) => s.setF x (c.down (leNat v))
  | some (.pair lo hi) => s.setF2 lo hi (leNat v)
  | _ => s

/-- The parameters of a list of items. -/
def paramsOf (items : List Item) : List (Nat × List Byte) :=
  items.filterMap fun
    | .param p v => some (p, v)
    | _ => none

/-- Every field of a list of parameters. -/
def State.applyFlds (s : State) (ps : List (Nat × List Byte)) : State := ps.foldl (fun s q => s.applyFld q.1 q.2) s

/-- The registers of a list whose words differ from another state's, with their new words. -/
def State.diff (s t : State) (as : List Nat) : List (Nat × Word) :=
  as.filterMap fun a => if s.reg a = t.reg a then none else some (a, t.reg a)

/-- Later writes win over earlier ones to the same register. -/
def mergeWrites (old new : List (Nat × Word)) : List (Nat × Word) := old.filter (fun w => ¬ new.any (·.1 = w.1)) ++ new

/-! ## Audio ports (R286 to R288) -/

/-- The epoch registers of a port. -/
def aspAddrs (p : Nat) : List Nat :=
  [R.ASP_CTRL p, R.ASP_FMT0 p, R.ASP_FMT1 p] ++ (List.range 4).map (R.ASP_SLOTMASK p) ++ (List.range 64).map (R.ASP_TXSRC p)

/-- New settings of a port.  A start sets SLIP to 0 and waits for the boundary tick in master mode and for an FSYNC in the
slave modes (R287); a running slave takes its settings at the first FSYNC, unless its clock is lost (R286). -/
def State.aspApply (s : State) (p : Nat) (ps : List (Nat × List Byte)) : State :=
  let t := s.applyFlds ps
  let en0 := s.b (F.ASP_CTRL_EN p)
  let en1 := t.b (F.ASP_CTRL_EN p)
  let ws := mergeWrites (s.asp p).swap (s.diff t (aspAddrs p))
  let slave := s.aspMode p = 1 ∨ s.aspMode p = 2
  if en0 && !en1 && s.aspRun p then
    let s := s.modAsp p fun a => { a with endSwap := s.diff t (aspAddrs p) }
    s.aspStop p (s.asp p).lost
  else if !en0 && en1 then
    let t := t.setReg (R.ASP_SLIP p) 0
    if t.aspRun p then t.modAsp p fun a => { a with stopping := false }
    else t.aspArm p (if t.aspMode p = 0 then .tick else .fsync)
  else if en1 && s.aspRun p && slave then
    let s := s.modAsp p fun a => { a with swap := ws, sinceSwap := 0 }
    if (s.asp p).lost then s.aspSwap p else s
  else if en0 && !en1 then t.modAsp p fun a => { a with start := .none }
  else t

/-! ## PDM, IEC, ASRC and streams -/

/-- New settings of a PDM port, an ASRC group or a stream: EN starts and stops the unit. -/
def State.pdmApply (s : State) (n : Nat) (ps : List (Nat × List Byte)) : State :=
  let t := s.applyFlds ps
  if s.b (F.PDM_CTRL_EN n) = t.b (F.PDM_CTRL_EN n) then t else t.pdmEnable n (t.b (F.PDM_CTRL_EN n))
def State.srcApply (s : State) (g : Nat) (ps : List (Nat × List Byte)) : State :=
  let t := s.applyFlds ps
  if s.b (F.SRC_CTRL_EN g) = t.b (F.SRC_CTRL_EN g) then t else t.srcEnable g (t.b (F.SRC_CTRL_EN g))
/-- A stream is switched on or off: it starts afresh (R336 to R341). -/
def State.strRestart (s : State) (k : Nat) : State :=
  let t := (s.setF (F.STR_STAT_RUN k) 0).setF (F.STR_STAT_MUTED k) 0
  if k < 8 then t.modTalker k fun x => { x with acc := [] }
  else
    let t := t.modListener (k - 8) fun _ => ⟨[], [], 0, 0, .pass, none⟩
    if t.b (F.STR_CTRL_EN k) then
      ((t.setReg (R.STR_LATECNT (k - 8)) 0).setReg (R.STR_EARLYCNT (k - 8)) 0).setReg (R.STR_SEQCNT (k - 8)) 0
    else t
def State.strApply (s : State) (k : Nat) (ps : List (Nat × List Byte)) : State :=
  let t := s.applyFlds ps
  let t := match ps.find? fun q => pidMember q.1 = 0x11 with
    | some q => t.setF2 (F.STR_DMACL_MAC k) (F.STR_DMACH_MAC k) (beNat (q.2.take 6))
    | none => t
  if s.b (F.STR_CTRL_EN k) = t.b (F.STR_CTRL_EN k) then t else t.strRestart k

/-- The six words of a status block. -/
def State.setBlock (s : State) (x : Nat → Nat) (v : List Byte) : State :=
  s.forEach (List.range 6) fun s w => s.setReg (x w) (BitVec.ofNat 32 (leNat ((v.drop (4 * w)).take 4)))

/-- New settings of the IEC receiver, and of the transmitter, whose status words go out from the next block (R304). -/
def State.iecRxApply (s : State) (ps : List (Nat × List Byte)) : State :=
  let t := s.applyFlds ps
  if s.b F.IECR_CTRL_EN = t.b F.IECR_CTRL_EN then t else t.iecRxEnable (t.b F.IECR_CTRL_EN)
def State.iecTxApply (s : State) (ps : List (Nat × List Byte)) : State :=
  let t := s.applyFlds ps
  let cs := fun (m : Nat) => (ps.find? fun q => pidMember q.1 = m).map (·.2)
  let t := match cs 0x110 with
    | some v => t.setBlock R.IECT_CSA v
    | none => t
  let t := match cs 0x111 with
    | some v => t.setBlock R.IECT_CSB v
    | none => t
  let t := if (cs 0x110).isSome ∨ (cs 0x111).isSome then t.iecCapSet else t
  if s.b F.IECT_CTRL_EN = t.b F.IECT_CTRL_EN then t else t.iecTxEnable (t.b F.IECT_CTRL_EN)

/-- A unit takes the parameters of an epoch that change at its domain's swap. -/
def State.unitApply (s : State) (c i : Nat) (tx : Bool) (ps : List (Nat × List Byte)) : State :=
  if ps = [] then s
  else if c = 0x20 then s.aspApply i ps
  else if c = 0x21 then s.pdmApply i ps
  else if c = 0x22 then (if tx then s.iecTxApply ps else s.iecRxApply ps)
  else if c = 0x23 then s.srcApply i ps
  else s.strApply i ps

/-- A unit that a parameter belongs to: class, instance, and the transmitter of class 0x22. -/
def unitOf (p : Nat) : Nat × Nat × Bool := (pidClass p, pidInst p, decide (pidClass p = 0x22) && decide (0x100 ≤ pidMember p))
def isUnit (p : Nat) : Bool := (0x20 ≤ pidClass p && pidClass p ≤ 0x23) || pidClass p = 0x41

/-- Every unit that the parameters name. -/
def State.unitsApply (s : State) (ps : List (Nat × List Byte)) : State :=
  let us := ((ps.filter fun q => isUnit q.1).map fun q => unitOf q.1).eraseDups
  us.foldl (fun s u => s.unitApply u.1 u.2.1 u.2.2 (ps.filter fun q => isUnit q.1 && unitOf q.1 = u)) s

/-! ## Routes -/

/-- A route takes effect; a route with VALID 0 leaves the slot without one, which reads 0 (R50, R68). -/
def State.routeApply (s : State) (p : Nat) (v : List Byte) : State :=
  let k := pidMember p
  s.setReg (R.XCH_ROUTE k) (if (leNat v).testBit 31 then BitVec.ofNat 32 (leNat v) else 0)

/-- Slots without a route publish 0, and hold no word for the next tick. -/
def State.clearUnrouted (s : State) : State :=
  let gone := fun (a : Nat) => R.XCH_SLOT 0 ≤ a ∧ a < R.XCH_SLOT 2048 ∧ s.b (F.XCH_ROUTE_VALID ((a - R.XCH_SLOT 0) / 4)) = false
  { s with
    regs := s.regs.filter fun p => ¬ gone p.1, slotWr := s.slotWr.filter fun q => s.b (F.XCH_ROUTE_VALID q.1) }

/-! ## Members of no rate domain (R177, step 6; R390) -/

/-- The reference of an ACS changes: a detector rate of at most 40 MHz, and the nominal ring, with its centre (log 31). -/
def State.acsRefApply (s : State) (a : Nat) (ref hz : Nat) : State :=
  let pre := (hz + 39999999) / 40000000
  let m := acsNominal a * 8 * 2 ^ 32 * pre / max hz 1
  let s := s.setReg (R.ACS_DIV a) (wordSet (wordSet (wordSet (wordSet (s.reg (R.ACS_DIV a)) 31 30 ref) 28 28 0) 26 24 (pre - 1))
    21 16 (m / 2 ^ 32))
  let s := (s.setReg (R.ACS_FRAC a) (BitVec.ofNat 32 m)).setReg (R.ACS_CENI a) (BitVec.ofNat 32 (m / 2 ^ 32))
  (s.setReg (R.ACS_CENF a) (BitVec.ofNat 32 m)).acsUpdate a

/-- The pull limit changes with an UPDATE of a set that meets it: the set as it stands, or the set nearest the centre that does,
by whole ppm below it where the limit leaves the centre no room, with a spacing that does (R270, log 31). -/
def State.acsLimitApply (s : State) (a : Nat) : State :=
  let x := s.acsBuffered a
  if s.acsCheck a x then s.acsUpdate a
  else
    let lim := min (s.f (F.ACS_LIMIT_LIMIT a)) 1000
    let need := 20 + s.f (F.ACS_LIMIT_REFTOL a)
    -- the first whole ppm that leaves room for stepping, but not beyond 1,000 ppm
    let m := x.centre - min ((x.centre * (need + 1 - lim) + 999999) / 1000000) (x.centre / 1000)
    let s := (s.setReg (R.ACS_DIV a) (wordSet x.div 21 16 (m / 2 ^ 32))).setReg (R.ACS_FRAC a) (BitVec.ofNat 32 m)
    -- what the limit leaves of the centre, in ppm of it, for stepping
    let rest : Nat := (((lim : Int) - need) * x.centre + (x.centre - m : Nat) * 1000000).toNat
    let sp := max x.spacing ((15625 * x.centre + rest - 1) / max rest 1)
    (s.setReg (R.ACS_DIV a) (wordSet (s.reg (R.ACS_DIV a)) 15 0 (min sp 65535))).acsUpdate a

/-- Settings of the device class. -/
def State.deviceApply (s : State) (new : Cfg) (ps : List (Nat × List Byte)) : State :=
  let has := fun (m : Nat) => ps.any fun q => q.1 = pid 0x01 0 m
  let s := s.applyFlds (ps.filter fun q => pidClass q.1 = 0x01)
  let s := if has 0x40 then s.setF F.CLK_SLOW_ACTIVE (s.f F.CLK_SLOW_SEL) else s
  s.forEach [0, 1] fun s a =>
    let s := if has (0x14 + a) ∨ has (0x16 + a) then
        s.acsRefApply a (new.num (pid 0x01 0 (0x14 + a))) (new.num (pid 0x01 0 (0x16 + a))) else s
    if has (0x10 + a) ∨ has (0x12 + a) then s.acsLimitApply a else s

/-- Static entries of the MAC table (R314, R391): address, VID, port mask and valid. -/
def macEntry (v : List Byte) : Option MacEnt :=
  if v.getD 9 0 = 0 then none
  else some ⟨beNat (v.take 6), leNat ((v.drop 6).take 2) % 4096, (v.getD 8 0).toNat, true, 0⟩
def State.macApply (s : State) (old new : List Byte) : State :=
  let s := match macEntry old with
    | some e => s.modNet fun n => { n with macs := n.macs.filter fun x => ¬ (x.mac = e.mac ∧ x.vid = e.vid ∧ x.static_) }
    | none => s
  match macEntry new with
  | some e => s.macPut e
  | none => s

/-- Settings of the network. -/
def State.netApply (s : State) (old : Cfg) (ps : List (Nat × List Byte)) : State :=
  let ps := ps.filter fun q => pidClass q.1 = 0x40
  ps.foldl (fun s q =>
    let m := pidMember q.1
    if m = 0x14 then (s.setF F.NSW_CTRL_SRPCPA (leNat q.2)).setF F.NSW_CTRL_SRPCPB (leNat q.2 / 16)
    else if 0x300 ≤ m ∧ m < 0x400 then s.macApply (old.val q.1) q.2
    else s.applyFld q.1 q.2) s

/-- A pulse generator takes its start, and arms or disarms by its enable (R329, R391); the registers of an active
generator ignore writes (R344). -/
def State.pulseApply (s : State) (k : Nat) (old new : Cfg) (ps : List (Nat × List Byte)) : State :=
  let m := fun (j : Nat) => pid 0x42 0 (0x100 + 0x10 * k + j)
  let mine := ps.filter fun q => pidClass q.1 = 0x42 ∧ pidMember q.1 / 0x10 = 0x10 + k
  let on0 := old.num (m 4) ≠ 0
  let on1 := new.num (m 4) ≠ 0
  let s := if s.b (F.TP_CTRL_ACTIVE k) then s
    else
      let s := s.applyFlds mine
      if mine.any (·.1 = m 0) then
        let v := new.val (m 0)
        let sec := leNat (v.take 6)
        (s.setF (F.TP_NS_NS k) (leNat (v.drop 8))).setF2 (F.TP_SECL_SEC k) (F.TP_SECH_SEC k) sec
      else s
  if on0 = on1 then s else if on1 then s.tpArm k else s.tpDisarm k

/-- Settings of the time unit. -/
def State.timeApply (s : State) (old new : Cfg) (ps : List (Nat × List Byte)) : State :=
  let s := s.applyFlds (ps.filter fun q => q.1 = pid 0x42 0 0x200)
  (s.pulseApply 0 old new ps).pulseApply 1 old new ps

/-- A bit of the requirement mask. -/
def State.req (s : State) (bit : Nat) : Bool := (s.reg R.PMU_REQMASK).getLsbD bit
/-- NET_KEEP (R207). -/
def State.netKeep (s : State) : Bool := s.req 1 || s.req 2
def State.netKeepSync (s : State) : State := s.setF F.PMU_STAT_NETKEEP (b2n s.netKeep)

/-- Power settings; the wake timer counts from application (R391). -/
def State.powerApply (s : State) (ps : List (Nat × List Byte)) : State :=
  let s := (s.applyFlds (ps.filter fun q => pidClass q.1 = 0x50)).netKeepSync
  match ps.find? fun q => q.1 = pid 0x50 0 3 with
  | some q =>
    let v := leNat q.2
    s.setF F.PMU_WKTIMER_CMP (if v = 0 then 0 else max 1 ((s.f F.PMU_SLOWCNT_COUNT + v) % 2 ^ 32))
  | none => s

/-- Settings of a UART: the rate and the format wait for the transmitter (R413, R428). -/
def State.uartApply (s : State) (u : Nat) (ps : List (Nat × List Byte)) : State :=
  let base := pid 0x60 0 (0x100 * (u + 1))
  let mine := ps.filter fun q => base ≤ q.1 ∧ q.1 < base + 0x100
  let get := fun (k : Nat) => (mine.find? fun q => q.1 = base + k).map fun q => leNat q.2
  let t := s.applyFlds mine
  let t := match get 0 with
    | some r => (t.setF (F.UART_BAUD_DIVI u) (baudBt r / 16)).setF (F.UART_BAUD_DIVF u) (baudBt r % 16)
    | none => t
  let t := match get 1 with
    | some n => t.setF (F.UART_FMT_D7 u) (b2n (n = 7))
    | none => t
  let t := match get 21 with
    | some r => t.setF (F.UART_SLOW_DIV u) (if r = 0 then 4095 else min (16 * 32768 / r) 4095)
    | none => t
  let late := s.diff t [R.UART_FMT u, R.UART_BAUD u]
  if mine = [] then s
  else if late = [] then t.uartSync u
  else
    let t := (t.setReg (R.UART_FMT u) (s.reg (R.UART_FMT u))).setReg (R.UART_BAUD u) (s.reg (R.UART_BAUD u))
    (t.modUart u fun x => { x with waiting := mergeWrites x.waiting late }).uartSync u

/-- Settings of the serial peripherals (R428). -/
def State.serialApply (s : State) (ps : List (Nat × List Byte)) : State :=
  let s := s.forEach (List.range 3) fun s u => s.uartApply u ps
  let s := s.applyFlds (ps.filter fun q => pidClass q.1 = 0x60 ∧ 0x400 ≤ pidMember q.1)
  let s := match ps.find? fun q => q.1 = pid 0x60 0 0x400 with
    | some q => s.setF F.I2C_CTRL_SPEED (if leNat q.2 = 100 then 0 else if leNat q.2 = 400 then 1 else 2)
    | none => s
  match ps.find? fun q => q.1 = pid 0x60 0 0x500 with
  | some q => s.setF F.PSC_CLK_DIV ((250000000 + leNat q.2 - 1) / max (leNat q.2) 1 - 1)
  | none => s

/-- Every member of no rate domain of an epoch that is applied. -/
def State.globalApply (s : State) (old new : Cfg) (ps : List (Nat × List Byte)) : State :=
  let ps := ps.filter fun q => (old.atDom new q.1).isNone
  let s := (((s.deviceApply new ps).netApply old ps).timeApply old new ps).powerApply ps
  let s := s.applyFlds (ps.filter fun q => pidClass q.1 = 0x52)
  (s.serialApply ps).unitsApply ps

end Sys2Proof.Machine
end

