-- ==== Sys2Proof/Machine/Health.lean ====
section
/-! DEFINITION. Cloning, compare windows and requested hand-overs, planned retirements and aging (R202, R224 to R247,
R251, R252). -/

namespace Sys2Proof.Machine

/-! ## Predictions (R195, R196) -/

/-- ENERGY × fs × (V / 0.80 V)² of a tier, in mW (R195). -/
def State.tierMw (s : State) (l t : Nat) : Rat :=
  let fs := s.rate (s.le l).dom
  (imgEnergy (s.le l).image t : Rat) * ((fs.1 : Rat) / fs.2) / 256000000 * ((s.f F.LA_VDD_MV : Rat) / 800) ^ 2

/-- The cost of shadowing a logical engine at its current tier. -/
def State.shadowMw (s : State) (l : Option Nat) : Rat :=
  match l with
  | some l => s.tierMw l (s.le l).tier
  | none => 0

/-- What shadow checking costs now: nothing while the punty shadows no logical engine. -/
def State.shadowCost (s : State) : Rat := s.shadowMw (if s.shadowing then some s.pairLe else none)

/-- A change that the lehr has applied, with the epoch that carried it or 0: the next decision takes its prediction (R196). -/
def State.predict (s : State) (num : Nat) (d : Rat) : State := s.modLehr fun x => { x with predicted := x.predicted ++ [(num, d)] }

/-- While shadow checking is paused and only a forced one runs (R202), its start and its end are predicted as well. -/
def State.noteShadow (s old : State) : State :=
  if s.lehr.paused ∧ old.shadowing ≠ s.shadowing then s.predict 0 (s.shadowCost - old.shadowCost) else s

/-! ## Planned retirement (R233, R244, R247, R387) -/

/-- An engine is to leave service as planned; `cause` is the cullet cause that it ends in, 0 when BIST decides.  Without
a spare its logical engine ramps out (R243). -/
def State.retireEngine (s : State) (e cause : Nat) : State :=
  let s1 := s.modEng e fun en => { en with retiring := if en.retiring = 0 then cause else en.retiring }
  match (s.eng e).role with
  | .live =>
    match s.leOf e with
    | some l =>
      let s2 := s1.modLe l fun x => { x with retire := true }
      if s2.soundEngines ≤ s2.imagedLes.length then s2.rampOut l
      -- a forced window is not cut short (R202)
      else (if s2.shadowing ∧ s2.pairLe ≠ l ∧ s2.pairLe ∉ s2.lehr.forced then s2.endShadow else s2).resumeShadow
    | none => s1
  | .punty =>
    if 5 ≤ s.scuState ∧ s.pairPunty = e then s1
    else (if cause = 0 then (s.endShadow).toBist e else (s.endShadow).cullEngine e cause).fillPunty
  | .reserve => if cause = 0 then s else s.cullEngine e cause
  | .out => s1
  | .cullet => s

/-! ## Cloning and windows -/

/-- SCU_SEL.GO: ignored while the machine is not IDLE (R251), and on an engine that has still to pass BIST (R241). -/
def State.cloneGo (s : State) : State :=
  let p := s.f F.SCU_SEL_PUNTY
  if s.scuState = 0 ∧ p < 17 ∧ s.mode p = 1 ∧ s.clean p then s.startClone p (s.f F.SCU_SEL_LE) else s

/-- CLONE_START (R226, step 1): a write of SCU_SEL with GO. -/
def execCloneStart (punty : BitVec 5) (le : Fin 16) (s : State) : Res State :=
  .next (if s.on 21 then ((s.setF F.SCU_SEL_PUNTY punty.toNat).setF F.SCU_SEL_LE le).cloneGo else s.busErr)

/-- The punty's state memory and tile equal the host's (R227), and its meter file follows (R184). -/
def State.mirror (s : State) (h p l : Nat) : State :=
  let en := s.eng h
  (s.modEng p fun x => { x with st := en.st, tile := en.tile }).loadMeters p l

/-- CLONE_COPY_DONE (R226, step 4): SYNC, with b_L the first boundary whose deadline is at or after now. -/
def execCloneCopyDone (s : State) : Res State :=
  .next <|
    if s.scuState = 2 then
      let l := s.pairLe
      let b := s.boundaryFrom l 0
      let s := (s.mirror s.pairHost s.pairPunty l).setScuState 3
      let s := (s.setF F.SCU_CLONE_DONE 1).setF F.SCU_CLONE_WORDS 139264
      { s with scu := { s.scu with bL := b } }
    else s

/-- The length of a compare window (R251): values below 4,096 act as 4,096. -/
def State.winLen (s : State) : Nat := max (s.f F.SCU_WIN_LEN) 4096

/-- COMPARE_WINDOW_DONE (R224): the window is complete with no fault; the case closes (R240) and the punty moves on. -/
def execCompareWindowDone (s : State) : Res State :=
  .next <|
    if s.scuState = 4 ∧ s.winLen ≤ s.f F.SCU_WCNT_COUNT then
      let l := s.pairLe
      let s := (s.flag F.SCU_STAT_WINDONE).modLe l fun x => { x with checkAt := s.s0, overdue := false, case := none }
      (s.unforce l).endShadow.resumeShadow.noteShadow s
    else s

/-- SHADOW_ABORT (R225). -/
def execShadowAbort (s : State) : Res State := .next (if s.on 21 then s.endShadow else s.busErr)

/-- SCU_HOREQ.GO: hot when the punty is in LOCK on the logical engine and COLD is 0, cold from IDLE (R251).  No other move takes an
engine to LIVE (R241), so the incoming engine of a cold one is out of service and in no need of BIST.  DESIGN CHOICE (log 46): a
request that names another, or a reload of a logical engine that has a host, does nothing. -/
def State.handoverGo (s : State) : State :=
  let l := s.f F.SCU_HOREQ_LE
  let i := s.f F.SCU_HOREQ_INCOMING
  let o := s.f F.SCU_HOREQ_OUTGOING
  if s.scuState = 4 ∧ s.pairLe = l ∧ s.b F.SCU_HOREQ_COLD = false then
    s.armHandover l s.pairPunty s.pairHost false false
  else if s.scuState = 0 ∧ i < 17 ∧ o < 17 ∧ s.mode i = 1 ∧ s.clean i ∧ s.claimed i = false then
    if i ≠ o then s.startCold l i o
    else if (s.le l).host.isNone then s.startSelf l i
    else s
  else s

/-- HANDOVER_REQUEST (R251). -/
def execHandoverRequest (cold : Bool) (incoming outgoing : BitVec 5) (le : Fin 16) (s : State) : Res State :=
  .next <|
    if s.on 21 then ((((s.setF F.SCU_HOREQ_COLD (b2n cold)).setF F.SCU_HOREQ_INCOMING incoming.toNat).setF
      F.SCU_HOREQ_OUTGOING outgoing.toNat).setF F.SCU_HOREQ_LE le).handoverGo
    else s.busErr

/-- Every word of the logical engine's long lines takes 0 (R239, step 4). -/
def State.zeroLines (s : State) (l : Nat) : State :=
  s.forEach (s.le l).lines fun s i => s.zeroLine i

/-- SHADOW_FORCE (R202): 23 hours without a window force shadow checking of the logical engine, but not while hard
holds or the engine is excluded (R240); one that is forced already keeps its window. -/
def execShadowForce (le : Fin 16) (s : State) : Res State :=
  .next <|
    if s.uncheckedFor le 23 ∧ (s.le le).image ≠ [] ∧ (s.le le).excluded = false then
      let cut := s.shadowing && s.pairLe ≠ le.val && !s.lehr.forced.contains s.pairLe
      let s := s.modLehr fun x => { x with forced := if le.val ∈ x.forced then x.forced else x.forced ++ [le.val] }
      (if cut then s.endShadow else s).resumeShadow.noteShadow s
    else s

/-- CHECK_OVERDUE (R242): while the engines outside the cullet are no more than the logical engines with images, 24 hours
without a window are reported once. -/
def execCheckOverdue (le : Fin 16) (s : State) : Res State :=
  .next <|
    if s.soundEngines ≤ s.imagedLes.length ∧ s.uncheckedFor le 24 ∧ (s.le le).image ≠ [] ∧ (s.le le).overdue = false then
      (s.modLe le fun x => { x with overdue := true }).raise 0x0309
        ([BitVec.ofNat 8 le, 0] ++ leBytes 2 ((s.s0 - (s.le le).checkAt) / hourNow))
    else s

/-! ## Aging (R245 to R247, R252) -/

/-- AGE_CTRL.GO starts a measurement. -/
def State.ageGo (s : State) : State := { s.setF F.AGE_STAT_BUSY 1 with lehr := { s.lehr with ageAt := s.s0 } }

/-- AGE_MEASURE (R245): a write of AGE_CTRL.GO. -/
def execAgeMeasure (s : State) : Res State := .next s.ageGo

/-- Firmware measures while AVSHI is in force: at its start, and then every 24 hours of S0 time (R245). -/
def State.ageDue (s : State) (start : Bool) : State :=
  if s.f F.LA_VDD_MV = s.avsHi ∧ s.b F.AGE_STAT_BUSY = false ∧ (start ∨ 24 * hourNow ≤ s.s0 - s.lehr.ageAt) then s.ageGo else s

/-- The power domain of an island of the lehr assist (R194): the LDS by its halves. -/
def State.islandOn (s : State) (i : Nat) : Bool :=
  match i with
  | 17 => s.on 17 || s.on 18
  | 18 => s.on 19
  | 19 => s.on 20
  | 20 => s.on 21
  | 21 => s.on 24
  | 22 => s.on 22
  | e => s.on e

/-- The sensor of an island (R197). -/
def islandSensor (i : Nat) : Nat := if i = 22 then 23 else i

/-- The slowdown of an island from its latest count (R245), scaled to 25 °C by the ring coefficient; free where the part
holds no reference count. -/
def State.slowdown (s : State) (i : Nat) : Rat × State :=
  let ref := s.f (F.AGE_REF_COUNT i)
  if ref = 0 then let (v, s) := s.free; ((v : Rat) / 10000, s)
  else
    let t : Rat := (sext 12 (s.f (F.TSU_T_TJ (islandSensor i))) : Rat) / 4 - 25
    let k : Rat := 1 + (sext 16 (s.f F.AGE_TC_PPMC) : Rat) * t / 1000000
    (1 - (s.f (F.AGE_CNT_COUNT i) : Rat) / k / ref, s)

/-- The event of an aging rule: island, FMAX and slowdown in units of 0.01%. -/
def State.agingEvent (s : State) (code i fmax : Nat) (sl : Rat) : State :=
  s.raise code ([BitVec.ofNat 8 i, BitVec.ofNat 8 fmax] ++ leBytes 2 (sl * 10000).floor.toNat)

/-- The retirement threshold in MHz (R247). -/
def State.retireMhz (s : State) : Nat := s.pval (pid 0x52 0 3) 750

/-- AGE_FMAX takes a lower value, and an engine that runs above it slows down (R246). -/
def State.setFmax (s : State) (e n : Nat) : State :=
  let s := s.setF (F.AGE_FMAX_N e) n
  (s.setF (F.ENG_CLKST_N e) (s.capClock e (s.f (F.ENG_CLKST_N e)))).setF (F.ENG_CLKST_NARM e) (s.capClock e (s.f (F.ENG_CLKST_NARM e)))

/-- Derating of an engine island (R246, R247). -/
def State.derate (s : State) (e : Nat) (sl : Rat) : State :=
  let steps := (sl * 1000 / 15).floor.toNat
  let eff := min steps (s.eng e).ageSteps
  let s := s.modEng e fun en => { en with ageSteps := steps }
  let n := s.fusedFmax - eff
  if s.fmax e ≤ n then s
  else
    let s := (s.setFmax e n).agingEvent 0x030A e n sl
    if 2 * s.retireMhz > 125 * n then s.retireEngine e 4
    else match s.leOf e with
      | some l =>
        if (s.eng e).role = .live ∧ n < s.needClock l (s.le l).tier then
          if s.puntyOf.any (fun p => s.needClock l (s.le l).tier ≤ s.fmax p) then s.retireEngine e 0
          else s.agingEvent 0x030B e n sl
        else s
      | none => s

/-- A fixed-clock island: a slowdown of 3% or more is an alarm (R247); it has no FMAX, so that byte is free. -/
def State.ageAlarm (s : State) (i : Nat) (sl : Rat) : State :=
  if (3 : Rat) / 100 ≤ sl then let (v, s) := s.free; s.agingEvent 0x030C i v sl else s

/-- AGE_MEASURE_DONE (R245 to R247): counts of powered islands, DONE, and firmware's deratings. -/
def execAgeMeasureDone (cnt : List Nat) (s : State) : Res State :=
  .next <|
    if s.b F.AGE_STAT_BUSY then
      let s := s.forEach (List.range 23) fun s i =>
        s.setF (F.AGE_CNT_COUNT i) (if s.islandOn i then cnt.getD i 0 else 0)
      let s := (s.setF F.AGE_STAT_BUSY 0).flag F.AGE_STAT_DONE
      s.forEach ((List.range 23).filter s.islandOn) fun s i =>
        let (sl, s) := s.slowdown i
        if i < 17 then s.derate i sl else s.ageAlarm i sl
    else s

/-- AGE_FMAX_WRITE (R252): only a value at or below the current one takes effect. -/
def execAgeFmaxWrite (e : Eng) (n : Word) (s : State) : Res State :=
  writeTo (R.AGE_FMAX e) n (if n.toNat % 32 ≤ s.fmax e then s.setFmax e (n.toNat % 32) else s)

end Sys2Proof.Machine
end

