-- ==== Sys2Proof/Machine/Lehr.lean ====
section
/-! DEFINITION. The lehr and the thermal thresholds (R188 to R206, R219, R220, R244). -/

namespace Sys2Proof.Machine

/-! ## The power estimate (R194, R195) -/

/-- floor(x · 2^(n / d)) for x = num / den: the largest k with (k · den)^d ≤ num^d · 2^n, by its bits from the top. -/
def floorPow2 (num den d : Nat) (n : Int) : Nat :=
  let ok (k : Nat) : Bool :=
    if 0 ≤ n then (k * den) ^ d ≤ num ^ d * 2 ^ n.toNat else (k * den) ^ d * 2 ^ (-n).toNat ≤ num ^ d
  (List.range 18).foldl (fun k i => if ok (k + 2 ^ (17 - i)) then k + 2 ^ (17 - i) else k) 0

/-- Leakage L0 / 10 · 2^((Tj / 4 − 25) / DT) · v³ in mW: rounded down, below 2^18, and whether it is a whole number. -/
def State.leak (s : State) : Nat × Bool :=
  let d := 4 * max (s.f F.LA_LEAK_DT) 1
  let num := s.f F.LA_LEAK_L0 * s.f F.LA_VDD_MV ^ 3
  let den := 10 * 800 ^ 3
  let n := sext 12 (s.f F.TSU_MAX_TJ) - 100
  let k := floorPow2 num den d n
  (k, decide ((k * den) ^ d * 2 ^ (-n).toNat = num ^ d * 2 ^ n.toNat))

/-- The length of a window in ns: WINBLK blocks of RD0, where 0 acts as 1, or SLOWWIN periods of the slow clock while RD0 stands
still (R194, R220).  A measured length within 1,000 ppm of the nominal one stands; no other is that of a window of these
settings (DESIGN CHOICE, log 2). -/
def State.windowNs (s : State) (measured : Nat) : Rat :=
  let fs := s.rate 0
  let n : Rat :=
    if s.running 0 then (max (s.f F.LA_CTRL_WINBLK) 1 * s.blen 0 : Nat) * 1000000000 * (fs.2 : Rat) / fs.1
    else (s.f F.LA_CTRL_SLOWWIN : Rat) * 1000000000 / 32768
  let d := (measured : Rat) - n
  if 1000 * d ≤ n ∧ -(1000 * d) ≤ n then measured else n

/-- The dynamic power of a window in mW, rounded down. -/
def State.dynMw (s : State) (ns : Rat) : Nat :=
  let e := ((List.range 23).map fun i => s.f (F.LA_CDYN_FJ i) * s.f (F.LA_ACT_COUNT i)).sum
  (((e * s.f F.LA_VDD_MV ^ 2 : Nat) : Rat) / (640000 * ns * 1000)).floor.toNat

/-- P of a window (R194).  The manual states no rounding of the leakage term, so its last milliwatt is free where it is no whole
number, and so is a result that the register cannot hold and one over a window of no length. -/
def State.estimate (s : State) (ns : Rat) : Nat × State :=
  let (k, whole) := s.leak
  let (v, s) := s.free
  let p := s.dynMw ns + k + (if whole then 0 else v % 2) + s.f F.LA_FIXED_MW
  (if ns = 0 ∨ 65535 < p then v % 65536 else p, s)

/-! ## Candidates (R192, R200) -/

/-- The tier ramp of a logical engine runs (R192): j < L. -/
def State.ramping (s : State) (l : Nat) : Bool :=
  match (s.le l).host with
  | some h => (s.eng h).tierChanged && (s.eng h).rampJ < imgRampLen (s.le l).image
  | none => false

/-- The best of a list under a strict preference; among equals the first. -/
def pick (better : Nat → Nat → Bool) (l : List Nat) : Option Nat :=
  l.foldl (fun acc x => match acc with
    | none => some x
    | some y => if better x y then some x else some y) none

/-- A logical engine that the lehr may move. -/
def State.movable (s : State) (l : Nat) : Bool := (s.le l).image ≠ [] && !s.pinned l && !s.ramping l

/-- lower_candidate: lowest priority, then highest number. -/
def State.lowerCandidate (s : State) : Option Nat :=
  pick (fun x y => s.prio x ≤ s.prio y) ((List.range 16).filter fun l => s.movable l && (s.le l).tier < s.lowest l)

/-- raise_candidate: in order of highest priority, then lowest number, the first whose predicted power stays within cap. -/
def State.raiseCandidate (s : State) (p : Rat) (cap : Nat) : Option Nat :=
  let gain := fun l => s.tierMw l ((s.le l).tier - 1) - s.tierMw l (s.le l).tier
  pick (fun x y => s.prio y < s.prio x) ((List.range 16).filter fun l =>
    s.movable l && s.ceiling l < (s.le l).tier && p + gain l ≤ cap)

/-! ## Decisions (R200 to R203) -/

/-- The power cap (R200). -/
def State.cap (s : State) : Nat := s.pval (pid 0x51 0 1) 3400

/-- Shadow checking or background flash work is running. -/
def State.background (s : State) : Bool := !s.lehr.paused && (s.shadowing || s.lehr.flashWork)

/-- Shadow checking and background flash work pause; the next decision predicts what that saves (R195, R196). -/
def State.pauseBackground (s : State) : State :=
  let t := (s.modLehr fun x => { x with paused := true }).endShadow
  if s.background then t.predict 0 (-s.shadowCost) else t

/-- The lehr moves one logical engine by one tier, unless R201 holds it back. -/
def State.lehrMove (s : State) (l t : Nat) : State :=
  if s.queueFull ∨ s.lehrPending then s
  else
    (s.lehrCommit [.tier l t]).modLehr fun x => { x with calm := if t < (s.le l).tier then 0 else x.calm }

/-- Over the cap or the soft threshold. -/
def State.lehrOver (s : State) (p : Rat) (tj : Int) : State :=
  let s := s.modLehr fun x => { x with calm := 0 }
  if s.background ∧ s.lehr.forced = [] then s.pauseBackground
  else match s.lowerCandidate with
    | some l => s.lehrMove l ((s.le l).tier + 1)
    | none =>
      if s.lehr.limitReported then s
      else
        (s.modLehr fun x => { x with limitReported := true }).raise 0x0202
          (leBytes 2 p.floor.toNat ++ leBytes 2 s.cap ++ leBytes 2 (wrapN 16 tj))

/-- A calm period. -/
def State.lehrCalm (s : State) (p : Rat) : State :=
  let s := s.modLehr fun x => { x with limitReported := false, calm := x.calm + 1 }
  if s.lehr.calm < 4 then s
  else
    let d := s.shadowMw (s.puntyOf.bind s.rotate)
    if s.lehr.paused ∧ 20 * (p + d) ≤ 17 * (s.cap : Rat) then
      ((s.modLehr fun x => { x with paused := false, calm := 0 }).predict 0 d).resumeShadow
    else match s.raiseCandidate p s.cap with
      | some l => s.lehrMove l ((s.le l).tier - 1)
      | none => s

/-- After hard has ended, an internal epoch sets pinned logical engines back to their pins (R198), once the epoch that carries the
lowest tiers, and any other epoch of the lehr, has been applied (R201). -/
def State.restorePins (s : State) : State :=
  let ls := (List.range 16).filter fun l => (s.le l).image ≠ [] ∧ s.pinned l ∧ (s.le l).tier ≠ s.pin l
  if s.lehr.restorePins = false ∨ s.queueFull ∨ s.lehrPending ∨ (s.inHand ∧ s.stg.hard) then s
  else
    let s := s.modLehr fun x => { x with restorePins := false }
    if ls = [] then s else s.lehrCommit (ls.map fun l => .tier l (s.pin l))

/-- Every powered engine runs at 625 MHz or below, and the epoch in hand raises none above it (R204 to R206). -/
def State.allSlow (s : State) : Bool :=
  ((List.range 17).all fun e => !s.on e || s.f (F.ENG_CLKST_N e) ≤ 10) &&
    (!s.inHand || (s.stg.queue.head?.map fun e => e.clocks.all fun k => decide (k.2 ≤ 10)).getD true)

/-- avs_update (R205, R206): AVSLO is requested after 8 such periods, and a raise that failed is tried again. -/
def State.avsUpdate (s : State) : State :=
  let s := s.modLehr fun x => { x with lowPeriods := if s.allSlow then x.lowPeriods + 1 else 0 }
  if s.stg.avsWait ∧ s.lehr.avs.isNone then s.avsRequest true
  else if 8 ≤ s.lehr.lowPeriods ∧ s.f F.LA_VDD_MV ≠ avsLo ∧ s.lehr.avs.isNone ∧ s.stg.avsWait = false then
    s.avsRequest false
  else s

/-- P as the lehr takes it (R196): after changes that have been applied, the P of its previous decision with their
predictions. -/
def State.lehrP (s : State) (measured : Nat) : Rat × State :=
  if s.lehr.predicted = [] then (measured, s)
  else (s.lehr.lastP + (s.lehr.predicted.map (·.2)).sum, s.modLehr fun x => { x with predicted := [] })

/-- One decision (R200).  Shadow checking that an abort, a stop or a power state has ended goes on with it (R225), and the aging
monitors are measured once a day (R245). -/
def State.lehrDecide (s : State) (measured : Nat) : State :=
  let (p, s) := s.lehrP measured
  let s := s.modLehr fun x => { x with lastP := p }
  let tj := sext 12 (s.f F.TSU_MAX_TJ)
  if s.b F.TSU_STAT_HARD then s.modLehr fun x => { x with calm := 0 }
  else
    let s := s.restorePins
    let s :=
      if (s.cap : Rat) < p ∨ 400 ≤ tj then s.lehrOver p tj
      else if 20 * p < 17 * (s.cap : Rat) ∧ tj < 380 then s.lehrCalm p
      else s.modLehr fun x => { x with limitReported := false, calm := 0 }
    (s.avsUpdate.resumeShadow).ageDue false

/-! ## The trend of corrected errors (R244) -/

/-- The ECC trend limit, and spans of S0 time. -/
def State.eccLimit (s : State) : Nat := s.pval (pid 0x52 0 2) 64
def dayNow : Nat := 24 * hourNow

/-- Readings that still bear on a window that ends now: those within 24 hours, and the last one before them. -/
def eccKeep (now : Nat) : List (Nat × Nat) → List (Nat × Nat)
  | [] => []
  | (c, t) :: l => if dayNow ≤ now - t then [(c, t)] else (c, t) :: eccKeep now l

/-- Firmware reads the count of one engine: a rise by the limit within 24 hours retires it, a second trend within 30
days sends it to the cullet. -/
def State.eccTrend (s : State) (e : Nat) : State :=
  let en := s.eng e
  let raw := s.f (F.ENGECC_COUNT e)
  let old := if en.eccHist = [] then [(0, s.s0)] else en.eccHist
  let c := ((old.head?.map (·.1)).getD 0) + if en.eccLast ≤ raw then raw - en.eccLast else raw
  let s := s.modEng e fun x => { x with eccLast := raw }
  let hist := eccKeep s.s0 (if old.head?.map (·.1) = some c then old else (c, s.s0) :: old)
  let base := (hist.getLast?.map (·.1)).getD c
  if s.eccLimit ≤ c - base then
    let again := en.trended.any fun t => s.s0 - t ≤ 30 * dayNow
    (s.modEng e fun x => { x with eccHist := [(c, s.s0)], trended := some s.s0 }).retireEngine e (if again then 3 else 0)
  else s.modEng e fun x => { x with eccHist := hist }

/-! ## Meanings -/

/-- WINDOW_END (R194): the activity counts and the estimate; in S0 the trend of every powered engine and the decision. -/
def execWindowEnd (el : Elapsed) (acts : List Nat) (lengthNs : Nat) (s : State) : Res State :=
  .next <|
    let s := s.advance el
    if s.b F.LA_CTRL_EN then
      let s := s.forEach (List.range 23) fun s i => s.setF (F.LA_ACT_COUNT i) (min (acts.getD i 0) (2 ^ 32 - 1))
      let (p, s) := s.estimate (s.windowNs lengthNs)
      let s := (s.setF F.LA_PEST_VALID 1).setF F.LA_PEST_MW p
      let s := (s.flag F.LA_STAT_DONE).wrap F.LA_STAT_WINDOWS 1
      if s.f F.PMU_STAT_STATE = 0 then
        (s.forEach ((List.range 17).filter s.on) State.eccTrend).lehrDecide p
      else s
    else s

/-- Hard begins (R198). -/
def State.hardBegin (s : State) : State :=
  let s := (s.setF F.TSU_STAT_HARD 1).flag F.TSU_STAT_HARDEV
  let s := s.raise 0x0201 ([1, BitVec.ofNat 8 (s.f F.TSU_STAT_HOT)] ++ leBytes 2 (wrapN 16 (sext 12 (s.f F.TSU_MAX_TJ))))
  let s := s.pauseBackground.modLehr fun x => { x with restorePins := false }
  -- the tiers that stand once the epoch in hand has applied
  let c := s.queuedCfg
  let low := fun (l : Nat) => imgNTier (c.le l).image - 1
  let ls := (List.range 16).filter fun l => (c.le l).image ≠ [] ∧ (c.le l).tier ≠ low l
  if s.yetToBegin = [] ∧ ls ≠ [] then s.lehrCommit (ls.map fun l => .tier l (low l)) else s

/-- Hard ends (R198): forced shadow checking resumes (R202). -/
def State.hardEnd (s : State) : State :=
  let s := s.setF F.TSU_STAT_HARD 0
  let s := s.raise 0x0201 ([0, BitVec.ofNat 8 (s.f F.TSU_STAT_HOT)] ++ leBytes 2 (wrapN 16 (sext 12 (s.f F.TSU_MAX_TJ))))
  let s := (s.modLehr fun x => { x with restorePins := true, coolRun := 0 }).restorePins
  s.resumeShadow.noteShadow s

/-- Trip fires (R199, steps 1 and 2): ALERT, the cause, and a ramp of every running domain from its next tick. -/
def State.trip (s : State) : State :=
  if s.pmu.tripped then s
  else
    let s := { s.setF F.PMU_RSTCAUSE_CAUSE 4 with pmu := { s.pmu with alert := true, tripped := true } }
    s.forEach ((List.range 4).filter s.running) fun s d => s.modDom d fun x => { x with tripRamp := some 0, tripDone := false }

/-- The readings of a sample: every sensor, the hottest and its lowest number (R197, R219). -/
def State.tsuRead (s : State) (t : List Int) : State :=
  let s := s.forEach (List.range 24) fun s i => s.setF (F.TSU_T_TJ i) (wrapN 12 (t.getD i 0))
  let val := fun i => sext 12 (s.f (F.TSU_T_TJ i))
  let hot := (pick (fun x y => val y < val x) (List.range 24)).getD 0
  let s := (s.setF F.TSU_MAX_TJ (wrapN 12 (val hot))).setF F.TSU_STAT_HOT hot
  s.setF F.TSU_STAT_SOFT (b2n (decide (400 ≤ val hot)))

/-- TSU_SAMPLE (R197): the readings and the thresholds; after a trip the AON sensor releases the lock (R199). -/
def execTsuSample (el : Elapsed) (t : List Int) (s : State) : Res State :=
  .next <|
    let old := s
    let s := (s.advance el).tsuRead t
    let tj := sext 12 (s.f F.TSU_MAX_TJ)
    let s := s.modLehr fun x => { x with
      hardRun := if 432 ≤ tj then x.hardRun + 1 else 0
      coolRun := if tj < 412 then x.coolRun + 1 else 0
      tripRun := if 460 ≤ tj then x.tripRun + 1 else 0 }
    let s :=
      if s.b F.TSU_STAT_HARD = false ∧ 2 ≤ s.lehr.hardRun then s.hardBegin
      else if s.b F.TSU_STAT_HARD ∧ 2 ≤ s.lehr.coolRun then s.hardEnd
      else s
    let s := if 2 ≤ s.lehr.tripRun then s.trip else s
    let s := if s.f F.TSU_STAT_SOFT ≠ old.f F.TSU_STAT_SOFT ∨ s.f F.TSU_STAT_HARD ≠ old.f F.TSU_STAT_HARD then s.irqEvent 24
      else s
    if s.b F.PMU_STAT_TRIPLOCK ∧ sext 12 (s.f (F.TSU_T_TJ 22)) < 360 then
      let go := s.pmu.resetReq
      { s.setF F.PMU_STAT_TRIPLOCK 0 with pmu := { s.pmu with
        alert := false, tripped := false, pwrenCore := s.pmu.pwrenCore || go, pwrenIo := s.pmu.pwrenIo || go } }
    else s

end Sys2Proof.Machine
end

