-- ==== Sys2Proof/Machine/Stg.lean ====
section
/-! DEFINITION. The commit stager: the writing and arming of an epoch, acknowledgements, GO and DEFER, the swap of a
boundary group with its installations and restarts, application, reconcile, and the meter snapshot (R57 to R64, R171 to
R187). -/

namespace Sys2Proof.Machine

/-! ## The epoch in hand -/

/-- An epoch laid over a configuration: its items, the lines it places and the clocks it carries. -/
def Epoch.over (e : Epoch) (old : Cfg) (hard : Bool) : Cfg :=
  let c := (old.installs e.items).foldl (fun c l => c.modLe l fun y =>
    { y with lines := (e.lines.filter fun x => x.2.2.2 = l).map (·.1) }) (old.lay e.items hard)
  e.clocks.foldl (fun c k => c.modLe k.1 fun y => { y with clock := k.2 }) c

/-- The configuration that the epoch in hand leads to. -/
def State.nextCfg (s : State) : Cfg :=
  match s.stg.queue with
  | e :: _ => e.over s.cfg s.stg.hard
  | [] => s.cfg

def State.modStg (s : State) (g : Stager → Stager) : State := { s with stg := g s.stg }

/-- The epoch in hand changes. -/
def State.modHead (s : State) (g : Epoch → Epoch) : State :=
  s.modStg fun x => { x with queue := match x.queue with
    | e :: q => g e :: q
    | [] => [] }

/-- The logical engines whose content the epoch in hand changes. -/
def State.changedLes (s : State) (new : Cfg) (items : List Item) : List Nat :=
  let old := s.cfg
  (List.range 16).filter fun l => old.le l ≠ new.le l || items.any fun i => i.touchesLe l

/-- The rate domains that the epoch in hand affects (R42, R171, R178). -/
def State.epochDoms (s : State) (e : Epoch) : List Nat :=
  let old := s.cfg
  let new := s.nextCfg
  let tiers := (List.range 16).filter fun l => (old.le l).tier ≠ (new.le l).tier ∨ (old.le l).clock ≠ (new.le l).clock
  (e.items.flatMap (old.itemDoms new) ++ tiers.map new.dom).eraseDups

/-- Domains whose leader the epoch changes, and the leaders they leave and join (R44). -/
def State.movers (s : State) (new : Cfg) : List Nat := (List.range 4).filter fun d => s.leader d ≠ new.leader d
def State.joint (s : State) (new : Cfg) : List Nat :=
  ((s.movers new).flatMap fun d => [s.leader d, new.leader d]).eraseDups

/-- The leaders of the affected groups. -/
def State.epochGroups (s : State) (e : Epoch) : List Nat :=
  let new := s.nextCfg
  ((s.epochDoms e).flatMap fun d => if s.leader d = new.leader d then [s.leader d] else [s.leader d, new.leader d]).eraseDups

/-! ## The lead of a commit (R177, step 2) -/

/-- Words that an item writes in step 3, and the words of an installation: two copies of both banks, the armed fields, and
the STATE section; of these the first copy and STATE lie outside CLEAR.  A route also rewrites the output-list entries of the
engines whose index it takes and gives up. -/
def Item.words : Item → Nat
  | .param _ v => (v.length + 3) / 4
  | .image _ _ => 0
  | .tier _ _ => 1
def installWords (f : List Byte) : Nat :=
  4 * 16384 + 8192 + 76 + (imgXin f).length + (imgXout f).length + (imgGath f).length + (imgLwr f).length +
    (imgMeters f).length
def outsideClear : Nat := 2 * 16384 + 8192
def Item.listWords (old : Cfg) : Item → Nat
  | .param p v =>
    let own := fun (w : Nat) => b2n (w.testBit 31 && routeKind (BitVec.ofNat 32 w) = 1)
    if pidClass p = 3 ∧ pidMember p < 0x800 then own (old.num p) + own (leNat v) else 0
  | _ => 0

/-- The punty as the incoming engine of an installation: no hand-over has it, and it is not in BIST or CLEAR (R172). -/
def State.spare (s : State) : Option Nat :=
  s.puntyOf.filter fun p => !(s.b F.SCU_PAIR_VALID && 5 ≤ s.scuState && s.pairPunty = p) && s.mode p ≠ 5 && s.mode p ≠ 6 && s.clean p

/-- The clocks of the engines that the installations of an epoch would take, in their order: the punty's, and those of the
RESERVE engines as they power up.  An installation under R173 has none. -/
def State.incomingClocks (s : State) : List Nat :=
  (s.spare.toList.map fun p => s.f (F.ENG_CLKST_N p)) ++ (s.rolesOf .reserve).map fun _ => 4

/-- The part of a CLEAR at engine clock n, in ns, that outlasts the words written while it runs. -/
def clearRest (words n : Nat) : Rat := max 0 ((32768 : Rat) * 16 / (max n 1) - 2 * ((words - outsideClear : Nat) : Rat))

/-- The lead of a commit in ns: the larger of 200 µs and the step 3 time, which is 2 ns a word and the rest of each CLEAR, plus
50 µs.  Among the words are both line-table words of a placed line, VALID of a freed one, and NARM of each clock. -/
def State.leadNs (s : State) (old new : Cfg) (items : List Item) (lines : List Line) (freed : List Nat) : Rat :=
  let served := ((old.installs items).filter fun l => (new.le l).image ≠ []).zip s.incomingClocks
  let words := (items.map fun i => i.words + i.listWords old).sum + (served.map fun q => installWords (new.le q.1).image).sum +
    (lines.map fun x => x.2.2.1 + 2).sum + freed.length + (old.clocks new items).length
  max 200000 (2 * (words : Rat) + (served.map fun q => clearRest words q.2).sum + 50000)

/-- Time from now until deadline(b) of the anchor's group; negative once it has passed. -/
def State.untilDeadline (s : State) (a b : Nat) : Rat :=
  let l := s.leader a
  let tick : Int := ((b * s.ratio a : Nat) : Int) - (s.blen l / 4 : Nat) - (s.sidx l : Nat)
  (tick : Rat) * 1000000000 * (s.rate l).2 / (s.rate l).1

/-- A timed epoch waits until its lead remains before its t_A, 32 µs before the deadline of its target. -/
def State.early (s : State) (e : Epoch) : Bool :=
  match e.target with
  | .index a b =>
    s.running a && decide (s.leadNs s.cfg (s.cfg.lay e.items (s.b F.TSU_STAT_HARD)) e.items e.lines e.freed <
      s.untilDeadline a b - 32000)
  | .untimed => false

/-! ## Steps 2 and 3 (R172, R177) -/

/-- The incoming engine of an installation: the punty for the first, unless a hand-over has it; else the lowest-numbered
RESERVE engine, which is powered up (R172); for the BOOT epoch the lowest-numbered free engine (R223). -/
def State.takeIncoming (s : State) (first boot : Bool) : Option Nat × State :=
  if boot then (s.bootFree.head?, s)
  else match s.spare.filter fun _ => first with
  | some p => (some p, (s.endShadow).setRole p .out)
  | none =>
    match (s.rolesOf .reserve).head? with
    | some e => (some e, ((s.powerEng e true).setMode e 1).setRole e .out)
    | none => (none, s)

/-- STG writes the incoming engine's banks and armed fields, and issues SWAP and CLEAR (R172, steps 2 and 3). -/
def State.loadIncoming (s : State) (new : Cfg) (e l : Nat) : State :=
  let s := s.under new fun s => ((s.loadBanks e l).loadFields e l).loadTier e l
  (s.startClear e).modLe l fun x => { x with inst := some e }

/-- A cold hand-over of a logical engine is under way before its new engine enters service (R239). -/
def State.coldDue (s : State) (l : Nat) : Bool :=
  s.b F.SCU_PAIR_VALID && s.pairLe = l && (s.scuState = 7 || s.scuState = 8)

/-- The installations of the epoch, in ascending order, each with its incoming engine; one without waits for its own
engine (R173), or takes the engine that is being loaded for its logical engine. -/
def State.beginInstalls (s : State) (new : Cfg) (ins : List Nat) (boot : Bool) : State :=
  let go := fun (acc : Bool × State) (l : Nat) =>
    let s := acc.2
    if (new.le l).image = [] then acc
    else
      match s.takeIncoming acc.1 boot with
      | (some e, s) => (false, s.loadIncoming new e l)
      | (none, s) => (false, if (s.le l).entry ≠ .none ∨ s.coldDue l then s else s.modLe l fun x => { x with entry := .reload })
  let s := (ins.foldl go (true, s)).2
  let news := ins.filter fun l => (new.le l).image ≠ []
  if boot then s.settleFree
  else if news = [] then s
  else
    let s := if s.puntyOf.isNone then { s with scu := { s.scu with held := none } } else s
    s.fillPunty

/-- The engines that hold a logical engine's live content: its host, and a punty that clones or shadows it or waits for its
hand-over (R228, R237). -/
def State.leEngines (s : State) (l : Nat) : List Nat :=
  (s.le l).host.toList ++ (if (s.shadowing ∨ s.scuState = 5) ∧ s.pairLe = l then [s.pairPunty] else [])

/-- New coefficient words go to the shadow banks of the host and of a punty that shadows it (R177, R228). -/
def State.writeShadow (s : State) (new : Cfg) (l : Nat) : State :=
  s.forEach (s.leEngines l) fun s e => s.modEng e fun en => en.newShadow en.progSh (new.le l).golden

/-- The words of a line that the epoch places take 0 (R141). -/
def State.zeroPlaced (s : State) (x : Line) : State :=
  let out := fun (w : Nat) => w < x.2.1 ∨ x.2.1 + x.2.2.1 ≤ w
  { s with lds := s.lds.filter (fun p => out p.1), ldsBad := s.ldsBad.filter out, ldsSoft := s.ldsSoft.filter out }

/-- The epoch would run an engine above 625 MHz while AVSHI is not in force (R204), or a lowering is in flight (R205). -/
def State.needsRaise (s : State) (e : Epoch) : Bool :=
  e.clocks.any (fun k => 10 < k.2) && (s.f F.LA_VDD_MV ≠ s.avsHi || s.lehr.avs.isSome)

/-- The epoch applies with no items (R186). -/
def Epoch.emptied (e : Epoch) : Epoch := { e with items := [], clocks := [], lines := [], freed := [] }

/-- The epoch of a queue record that failed its CRC: it applies with no items, and is logged as LOST (R185, R186). -/
def Epoch.lostRec (e : Epoch) : Epoch := { e.emptied with session := 0, transport := 0, target := .untimed, lost := true }

/-- Step 3: the shadow content and the armed fields of the epoch at the head are written.  Its clocks are those of the tiers that
it leads to (R171, R193). -/
def State.stageHead (s : State) (e : Epoch) : State :=
  let hard := s.b F.TSU_STAT_HARD
  let old := s.cfg
  let laid := old.lay e.items hard
  let e := { e with clocks := old.clocks laid e.items }
  let late : Bool := match e.target with
    | .index a _ => !s.running a
    | .untimed => false
  let e := if late then { e with target := .untimed, late := true } else e
  let s := (s.modStg fun x => { x with hard := hard }).modHead fun _ => e
  let new := s.nextCfg
  let ins := old.installs e.items
  let s := (s.setPhase 1).setReg R.STG_ARMED (BitVec.ofNat 32 e.num)
  let s := s.beginInstalls new ins (e.transport = 7)
  let s := s.forEach ((s.changedLes new e.items).filter fun l => l ∉ ins) fun s l => s.writeShadow new l
  let s := s.forEach ((e.lines.map fun x => ldsHalf x.2.1).eraseDups) fun s h => s.startHalf h
  let s := e.lines.foldl State.zeroPlaced s
  if s.needsRaise e then (s.modStg fun x => { x with avsWait := true }).avsRequest true else s

/-- EPOCH_WRITE (R177, steps 2 and 3): the epoch at the head, once the reconcile of the one before is complete, and
the BOOT epoch once the BIST of the start has ended (R223).  A double-bit error in a golden copy leaves the live content in place, and the epoch applies with no items (R186). -/
def execEpochWrite (goldenBad : Option (Fin 16)) (s : State) : Res State :=
  .next <|
    if s.phase ≠ 0 ∨ s.stg.recon.isSome then s
    else match s.stg.queue with
      | [] => s
      | e :: _ =>
        if (s.booting ∧ (List.range 17).any (fun x => s.mode x = 5)) ∨ s.early e then s
        else if goldenBad.isSome then (s.modHead fun e => { e.emptied with integrity := true }).stageHead
          { e.emptied with integrity := true }
        else s.stageHead e

/-! ## Swap of one logical engine (R61, R71, R94, R172, R173, R537) -/

/-- Input, output, gather and long-write lists as the configuration and the routes now give them. -/
def State.reloadLists (s : State) (l : Nat) : State :=
  let il := s.inListOf l
  let ol := s.outListOf l
  let g := s.listOf l (imgGath (s.le l).image)
  let w := s.listOf l (imgLwr (s.le l).image)
  s.forEach (s.leEngines l) fun s e => s.modEng e fun en => { en with inList := il, outList := ol, gath := g, lwr := w }

/-- The engine takes the tier, with PTIER the tier before and the ramp from its start (R94, R95). -/
def State.takeTier (s : State) (e t : Nat) : State :=
  let t0 := s.f (F.ENG_TIERST_TIER e)
  if t = t0 then s
  else ((s.setF (F.ENG_TIERST_TIER e) t).setF (F.ENG_TIERST_PTIER e) t0).modEng e fun en =>
    { en with rampJ := 0, tierChanged := true }

/-- The engine selects its tuned path: CLKST.N takes the new multiplier, at most AGE_FMAX (R258, R259). -/
def State.takeClock (s : State) (e n : Nat) : State :=
  let n := s.capClock e n
  ((s.setF (F.ENG_CLKST_N e) n).setF (F.ENG_CLKST_NARM e) n).modEng e fun en => { en with tuned := false }

/-- A logical engine whose image stays swaps its banks and armed fields. -/
def State.leSwap (s : State) (l : Nat) : State :=
  s.forEach (s.leEngines l) fun s e =>
    let s := s.forEach (List.range 4) fun s k => s.setF (F.ENG_CNT_COUNT e k) ((s.le l).counts.getD k 0)
    ((s.swapBanks e).takeTier e (s.le l).tier).takeClock e (s.le l).clock

/-- An engine leaves service as the outgoing engine of an installation, and is cleared (R172, step 7). -/
def State.outgoingLeaves (s : State) (e : Nat) : State :=
  ((s.leaveService e).startClear e).modEng e fun en => { en with clearRole := true }

/-- A logical engine loses its image: its host's writes fall over one block, when the domain runs (R173). -/
def State.leDepart (s : State) (l : Nat) (running : Bool) : State :=
  let s := s.endShadowOf l
  match (s.le l).host with
  | some h =>
    let s := s.modLe l fun x => { x with host := none }
    if running then s.modLe l fun x => { x with outgoing := some h, fade := .falling 0 (some 0) }
    else (s.outgoingLeaves h).modLe l fun x => { x with fade := .plain }
  | none => s

/-- An outgoing engine leaves: by BIST when a fault made it leave, else by CLEAR (R241). -/
def State.outgoingEnds (s : State) (e : Nat) : State := if (s.eng e).faulted then s.toBist e else s.outgoingLeaves e

/-- An engine that is being loaded for a logical engine has no more use, since its image goes, or another engine installs the new
one. -/
def State.dropIncoming (s : State) (l : Nat) : State :=
  let s := if s.coldDue l then s.scuIdle.outgoingLeaves s.pairPunty else s
  (match (s.le l).entry with
    | .ready e => s.outgoingLeaves e
    | .loading e => s.modEng e fun en => { en with clearRole := true }
    | _ => s).modLe l fun x => { x with entry := .none }

/-- An engine leaves service and is cleared, to be loaded for a logical engine again (R173). -/
def State.startReload (s : State) (l e : Nat) : State :=
  ((s.leaveService e).startClear e).modLe l fun x => { x with entry := .loading e, outgoing := none, fade := .silent none }

/-- The engine that renders in the domain left has no more to write there: it leaves service, or is loaded for the logical engine
when that has none (R173, R537). -/
def State.leavingEnd (s : State) (l : Nat) : State :=
  match (s.le l).leaving with
  | some v =>
    let x := s.le l
    let s := match v.out with
      | some o => s.outgoingEnds o
      | none => s
    let s := s.modLe l fun x => { x with leaving := none }
    if x.entry = .reload ∧ x.host = none then s.startReload l v.eng else s.outgoingLeaves v.eng
  | none => s

/-- The host of a logical engine stays behind in the domain od that it leaves, under a fade of its own (R537); an outgoing engine
whose block still falls stays with it, or leaves. -/
def State.stayBehind (s : State) (l h od : Nat) (f : Fade) (out : Option Nat) : State :=
  let s := s.leavingEnd l
  let s := match (s.le l).outgoing.filter fun o => out ≠ some o with
    | some o => s.outgoingEnds o
    | none => s
  s.modLe l fun x => { x with host := none, outgoing := none, fade := .silent none, leaving := some ⟨h, od, f, out⟩ }

/-- The old group of a logical engine that moves swaps: the outgoing block of its engine there begins (R537). -/
def State.leLeave (s : State) (l od : Nat) (running : Bool) : State :=
  let s := s.endShadowOf l
  let fall := fun (s : State) => if running then s else s.leavingEnd l
  match (s.le l).leaving.filter Leaving.stays, (s.le l).host with
  | some v, _ =>
    let s := match v.out with
      | some o => s.outgoingEnds o
      | none => s
    fall (s.modLe l fun x => { x with leaving := some { v with fade := .falling 0 none, out := none } })
  | none, some h => fall (s.stayBehind l h od (.falling 0 none) none)
  | none, none => s

/-- The new group of a logical engine that moves swaps before its old one: the host renders on in the old domain, with the silence
and the fade that are under way there (R172, R537). -/
def State.leMove (s : State) (l od : Nat) : State :=
  match (s.le l).host with
  | some h => (s.endShadowOf l).stayBehind l h od (s.le l).fade (if (s.le l).fade.isFalling then (s.le l).outgoing else none)
  | none => s

/-- An installation with no incoming engine: the host falls, and is then loaded (R173); with none, the logical engine is muted,
unless an engine that it leaves in another domain comes free for it (R537). -/
def State.installOwn (s : State) (l : Nat) (falls : Bool) : State :=
  let x := s.le l
  match x.host, x.outgoing with
  | some h, _ =>
    let s := s.modLe l fun x => { x with host := none }
    if falls then s.modLe l fun x => { x with entry := .reload, outgoing := some h, fade := .falling 0 none }
    else s.startReload l h
  | none, some o => s.startReload l o
  | none, none => s.modLe l fun x => { x with
      entry := if x.leaving.isSome then .reload else .none, muted := x.leaving.isNone, fade := .silent none }

/-- An image takes over a logical engine at its group's swap, at sample n of its domain; with no n the domain is stopped
(R63, R172, R173).  A load that is under way for it takes the new image. -/
def State.leInstall (s : State) (l dom : Nat) (n : Option Nat) (hadImage : Bool) : State :=
  let s := s.endShadowOf l
  let x := s.le l
  let s := s.modLe l fun x =>
    { x with dom := dom, excluded := false, case := none, checkAt := s.s0, overdue := false, ovr := 0, muteNext := false }
  let w := s.warm l
  let falls := n.isSome && hadImage && x.host.isSome
  let s := if falls then s else s.setFbit F.XCH_MUTE_MUTE l false
  match x.inst, x.entry with
  | some e, _ =>
    let s := s.dropIncoming l
    -- a host that a fault makes leave goes to BIST at the end
    let s := match x.outgoing.or (x.host.filter fun _ => x.entry.isRampOut) with
      | some o => if x.entry = Entry.cold ∨ x.entry.isRampOut then s.modEng o fun en => { en with faulted := true } else s
      | none => s
    let s := match x.outgoing with
      | some o => s.outgoingEnds o
      | none => s
    let s := (s.goLive e l (n.getD (s.sidx dom))).modLe l fun x =>
      { x with entry := .none, inst := none, exHost := none, muted := false, outgoing := none, fade := .silent (some w) }
    match x.host with
    | some h =>
      if falls then s.modLe l fun x => { x with outgoing := some h, fade := .falling 0 (some (w - s.blen dom)) }
      else s.outgoingEnds h
    | none => s
  | none, .ready _ | none, .loading _ => s
  | none, .cold =>
    let s := ((s.startClear s.pairPunty).setScuState 7).setF F.SCU_PAIR_DOMAIN dom
    { s with scu := { s.scu with
        b := if x.dom = dom then s.scu.b else n.getD (s.sidx dom), loaded := false, zeroed := false } }
  | none, .rampOut _ _ =>
    match x.host with
    | some h =>
      if falls then s.modLe l fun x => { x with host := none, outgoing := some h, fade := .falling 0 none }
      else (s.modLe l fun x => { x with entry := .none, host := none, muted := true, fade := .silent none }).toBist h
    | none => s
  | none, .none | none, .reload => if s.coldDue l then s else s.installOwn l falls

/-- An engine that is loaded and waits to enter service for a logical engine (R173, R239). -/
def State.waiting (s : State) (l : Nat) : Option Nat :=
  match (s.le l).entry with
  | .ready e => some e
  | _ => if s.coldDue l ∧ s.scuState = 8 then some s.pairPunty else none

/-- A waiting engine takes the content of the epoch that swaps. -/
def State.reloadWaiting (s : State) (l num : Nat) : State :=
  match s.waiting l with
  | some e => (s.loadAll e l).setF (F.ENG_EPOCH_E e) num
  | none => s

/-- The logical engine restarts from its image's initial state, with the cold warm-up (R44, R137). -/
def State.leRestart (s : State) (l : Nat) : State :=
  let s := s.endShadowOf l
  match (s.le l).host with
  | some h =>
    let s := s.modEng h fun en => { en.cleared with busy := false, done := false, drain := none, pend := [] }
    let s := ((s.loadState h l).loadTier h l).zeroLines l
    let w := s.warm l
    let s := match (s.le l).outgoing with
      | some o => s.outgoingEnds o
      | none => s
    s.modLe l fun x => { x with outgoing := none, fade := .silent (some w) }
  | none => s

/-! ## Stop, settings and start of a group (R43, R44) -/

/-- Every domain of a group stops: no tick occurs, its engines stay idle, and shadowing ends (R43, R225). -/
def State.stopGroup (s : State) (l : Nat) : State :=
  let ds := s.group l
  let s := s.forEach ds fun s d => (s.setF (F.RD_STAT_RUN d) 0).setF (F.RD_STAT_ACSWAIT d) 0
  -- its streams send and write nothing (R341)
  let s := s.forEach ((List.range 16).filter fun k => s.f (F.STR_CTRL_DOMAIN k) ∈ ds) fun s k => s.setF (F.STR_STAT_RUN k) 0
  if s.shadowing ∧ (s.le s.pairLe).dom ∈ ds then s.endShadow else s

/-- A domain's source, divider, block length or link differs between two configurations.  DEDUCED (log 10): the link is LINK,
LEADER and RATIO, and a change of any of these settings counts, be the domain linked or not. -/
def Cfg.keysDiffer (old new : Cfg) (d : Nat) : Bool := [2, 3, 4, 5, 6, 7, 8].any fun k => old.rd d k ≠ new.rd d k

/-- The epoch stops a running group at its boundary: EN of its leader clears, or settings of its domains change (R43,
R44). -/
def State.stops (s : State) (old new : Cfg) (l : Nat) : Bool :=
  (old.rd l 1 ≠ 0 && new.rd l 1 = 0) ||
    (List.range 4).any fun d => (s.leader d = l || new.leader d = l) && old.keysDiffer new d

/-- Enabled, unlinked domains of a list start: by the trigger when they are anchored (R37, R44, R333). -/
def State.startAll (s : State) (ds : List Nat) : State :=
  s.forEach ds fun s d =>
    if s.b (F.RD_CTRL_EN d) ∧ s.linked d = false ∧ s.running d = false then
      if s.anchoring d ∧ s.anchorable d ∧ s.sourceOk then s.anchorStart d else s.startDomain d false
    else s

/-- The settings of the domains of a group take effect once every group that a link change joins has swapped; stopped
domains whose settings changed then start (R39, R44, R63).  DEDUCED (log 10): any setting of class 0x02 in the group lets the
enabled domains of the group that are stopped start. -/
def State.domainsApply (s : State) (old new : Cfg) (e : Epoch) (l : Nat) (stopped : Bool) : State :=
  let joint := s.joint new
  if l ∈ joint ∧ s.stg.groups.any (fun g => g ≠ l ∧ g ∈ joint) then s
  else
    let ls := if l ∈ joint then joint else [l]
    let ds := (List.range 4).filter fun d => s.leader d ∈ ls ∨ new.leader d ∈ ls
    let ps := (paramsOf e.items).filter fun q => pidClass q.1 = 0x02 ∧ pidInst q.1 ∈ ds
    let restart := ds.any (old.keysDiffer new)
    let s := (s.applyFlds ps).forEach ds State.setDomPhase
    let s := if restart then
        s.forEach ((List.range 16).filter fun k => (s.le k).dom ∈ ds ∧ (s.le k).image ≠ []) State.leRestart else s
    if stopped ∨ ps ≠ [] then s.startAll ds else s

/-! ## Swap of a group (R61 to R63) -/

/-- The line table gives up the lines that the epoch frees of a logical engine, and takes those it places for it (R141, R153). -/
def State.freeLines (s : State) (e : Epoch) (l : Nat) : State :=
  s.forEach (e.freed.filter fun i => s.f (F.LINELEN_LE i) = l) fun s i => s.setF (F.LINEBASE_VALID i) 0
def State.putLines (s : State) (e : Epoch) (l dom : Nat) : State :=
  (e.lines.filter fun x => x.2.2.2 = l).foldl (fun s x =>
    let s := (s.setF (F.LINEBASE_VALID x.1) 1).setF (F.LINEBASE_BASE x.1) x.2.1
    ((s.setF (F.LINELEN_LEN x.1) x.2.2.1).setF (F.LINELEN_LE x.1) l).setF (F.LINELEN_DOMAIN x.1) dom) s

/-- An installation at the swap of a group of domains: in the domain left (R537), and in the logical engine's domain. -/
def State.leInstallSwap (s : State) (old new : Cfg) (e : Epoch) (ds : List Nat) (n : Option Nat) (l : Nat) : State :=
  let od := old.dom l
  let nd := new.dom l
  let hadImage := decide ((old.le l).image ≠ [])
  let moves := hadImage && od ≠ nd
  let s := if moves ∧ od ∈ ds then (s.freeLines e l).leLeave l od n.isSome else s
  if nd ∈ ds then
    let s := (if moves then (if od ∈ ds then s else s.leMove l od) else s.freeLines e l).unforce l
    let s := s.putLines e l nd
    if (new.le l).image = [] then
      ((if moves then s else s.leDepart l n.isSome).dropIncoming l).modLe l fun x => { x with dom := nd, muted := false }
    else s.under new fun s => (s.leInstall l nd (n.map fun m => m / s.ratio nd) (hadImage && !moves)).reloadLists l
  else s

/-- One logical engine at the swap of a group of domains, at leader sample n. -/
def State.leGroupSwap (s : State) (old new : Cfg) (e : Epoch) (ds : List Nat) (n : Option Nat) (l : Nat) : State :=
  let nd := new.dom l
  let s :=
    if l ∈ old.installs e.items then s.leInstallSwap old new e ds n l
    else if nd ∈ ds ∨ (s.le l).dom ∈ ds then
      let s := s.modLe l fun x => { x with dom := nd }
      if (new.le l).image = [] then s
      else s.under new fun s => (if l ∈ s.changedLes old e.items then s.leSwap l else s).reloadLists l
    else s
  if nd ∈ ds then s.under new fun s => s.reloadWaiting l e.num else s

/-- The units of a group take the epoch's content. -/
def State.unitsSwap (s : State) (old new : Cfg) (e : Epoch) (ds : List Nat) (n : Option Nat) : State :=
  let mine := (paramsOf e.items).filter fun q => match old.atDom new q.1 with
    | some d => decide (d ∈ ds)
    | none => false
  let s := (mine.filter fun q => pidClass q.1 = 0x03).foldl (fun s q => s.routeApply q.1 q.2) s
  let s := s.forEach (List.range 16) fun s l => s.leGroupSwap old new e ds n l
  let s := s.unitsApply mine
  let es := ((List.range 16).filter fun l => (s.le l).dom ∈ ds).flatMap s.leEngines
  s.forEach es fun s x => s.setF (F.ENG_EPOCH_E x) e.num

/-! ## Application (R177, step 6; R183, R185) -/

/-- The entry of the change log for an epoch (R185). -/
def State.logEntryOf (s : State) (e : Epoch) : LogEntry :=
  let timed := match e.target with
    | .untimed => 0
    | .index _ _ => 1
  let ns := s.tuTime
  { num := e.num, session := e.session, transport := e.transport
    flags := timed + 2 * b2n e.late + 4 * b2n e.lost + 8 * b2n e.integrity
    items := e.items.length, sec := ns / 1000000000, ns := ns % 1000000000
    defers := if e.lost then 0 else min s.stg.defers 65535 }

/-- The change log keeps the latest 1,024 entries. -/
def State.logAdd (s : State) (x : LogEntry) : State :=
  { s with log := (s.log ++ [x]).drop (s.log.length + 1 - 1024) }

/-- The lehr's prediction for an epoch that carries tiers of its own choice: the power that the changed tiers cost (R196). -/
def State.predictTiers (s : State) (e : Epoch) (old new : Cfg) : State :=
  let ls := (List.range 16).filter fun l => l ∉ old.installs e.items ∧ (old.le l).tier ≠ (new.le l).tier
  if (e.isLehr ∨ s.stg.hard) ∧ ls ≠ [] then
    s.predict e.num ((ls.map fun l => s.tierMw l (new.le l).tier - s.tierMw l (old.le l).tier).sum)
  else s

/-- The epoch in hand is applied: golden copies, reads, LASTAPPLIED, the members of no domain, the change log, the journal
and COMMIT_APPLIED; reconcile begins. -/
def State.applyEpoch (s : State) (e : Epoch) : State :=
  let old := s.cfg
  let new := s.nextCfg
  let s := (s.predictTiers e old new).globalApply old new (paramsOf e.items)
  let s := (s.withCfg new).setF F.AON_EPAPPLIED_E e.num
  let s := (s.setReg R.STG_APPLIED (BitVec.ofNat 32 e.num)).flag F.STG_STAT_APPLIED
  let s := (s.setF F.STG_STAT_GARM 0).setF F.STG_STAT_GSWAP 0
  let x := s.logEntryOf e
  let s := (s.logAdd x).jGather e.items (e.keepOut || e.transport = 7)
  let s := s.jMirror x (s.pval (pid 0x70 0 1) 0 ≠ 0)
  let s := (s.modStg fun g => { g with queue := g.queue.drop 1, recon := some e, groups := [], go := [], nack := [], defers := 0 }).setPhase 4
  let s := s.raise 0x0001 (leBytes 4 e.num ++ leBytes 2 e.session ++
    [BitVec.ofNat 8 e.transport, BitVec.ofNat 8 x.flags] ++ leBytes 4 x.items ++ leBytes 2 x.defers)
  let s := if (old.installs e.items) = [] then s else s.noSpare
  if (paramsOf e.items).any fun q => pidClass q.1 = 0x42 then s.anchorKick else s

/-- The count of DEFERs of a group, which its swap clears (R187). -/
def defcnt (l : Nat) : Fld :=
  match l with
  | 0 => F.STG_DEFCNT_G0
  | 1 => F.STG_DEFCNT_G1
  | 2 => F.STG_DEFCNT_G2
  | _ => F.STG_DEFCNT_G3

/-- A timed epoch whose anchor's group swaps at another boundary than its target is late (R181). -/
def State.lateAt (s : State) (e : Epoch) (l : Nat) (n : Option Nat) : Bool :=
  match e.target, n with
  | .index a b, some m => s.leader a = l && m ≠ b * s.ratio a
  | _, _ => false

/-- The group led by l swaps the epoch in hand: at boundary sample n of its leader, or as a stopped group (R61 to R63). -/
def State.groupSwap (s : State) (l : Nat) (n : Option Nat) : State :=
  match s.stg.queue with
  | [] => s
  | e :: _ =>
    let old := s.cfg
    let new := s.nextCfg
    let stop := n.isSome && s.stops old new l
    let ds := (List.range 4).filter fun d => s.leader d = l ∨ new.leader d = l
    let s := if s.lateAt e l n then s.modHead fun e => { e with late := true } else s
    let n := if stop then none else n
    let s := if stop then s.stopGroup l else s
    let s := s.unitsSwap old new e ds n
    let s := s.domainsApply old new e l stop
    let s := if n.isNone then s.clearUnrouted else s
    let s := (s.setF (defcnt l) 0).setPhase 3
    let s := (s.setFbit F.STG_STAT_GARM l false).setFbit F.STG_STAT_GSWAP l true
    s.modStg fun x => { x with groups := delNat x.groups l, go := delNat x.go l, nack := x.nack.filter (·.1 ≠ l) }

/-- Once the last affected group has swapped, the epoch is applied (R62). -/
def State.applyIfDone (s : State) : State :=
  if (s.phase = 2 ∨ s.phase = 3) ∧ s.stg.groups = [] then
    match s.stg.queue with
    | e :: _ => s.applyEpoch e
    | [] => s
  else s

/-! ## ARM, acknowledgement, GO and DEFER (R57 to R61, R64) -/

/-- The units that a parameter's class and a logical engine stand for, in the numbering of STG_NACKMAP (R187). -/
def unitBit (p : Nat) : Option Nat :=
  match pidClass p with
  | 0x02 => some 31
  | 0x03 => some 25
  | 0x20 => some (17 + pidInst p)
  | 0x21 => some 27
  | 0x22 => some 28
  | 0x23 => some 29
  | 0x41 => some 30
  | _ => none
def State.leUnits (s : State) (e : Epoch) (l : Nat) : List Nat :=
  (s.leEngines l ++ (s.le l).inst.toList ++ if e.lines.any (fun x => x.2.2.2 = l) then [26] else []).eraseDups

/-- The units of the epoch with their groups. -/
def State.unitsOf (s : State) (e : Epoch) : List (Nat × Nat) :=
  let old := s.cfg
  let new := s.nextCfg
  let us := (paramsOf e.items).filterMap fun q => match unitBit q.1, old.atDom new q.1 with
    | some u, some d => some (s.leader d, u)
    | _, _ => none
  let ls := (s.changedLes new e.items).flatMap fun l => (s.leUnits e l).map fun u => (s.leader (new.dom l), u)
  (us ++ ls).eraseDups

/-- Engines that take a new clock with the epoch: NARM (R259). -/
def State.armClocks (s : State) (e : Epoch) : State :=
  e.clocks.foldl (fun s k => s.forEach (s.leEngines k.1) fun s x => s.setF (F.ENG_CLKST_NARM x) (min k.2 (s.fmax x))) s

/-- The shadow content is complete: incoming engines are cleared, and the halves of new lines are READY (R57, R141). -/
def State.armReady (s : State) (e : Epoch) : Bool :=
  s.phase = 1 && !s.stg.avsWait &&
    (List.range 16).all (fun l => (s.le l).inst.all fun x => s.mode x = 1) &&
    e.lines.all fun x => s.half (ldsHalf x.2.1) = 2

/-- ARM (R57): every affected group is armed at once; stopped groups take the content now (R63). -/
def State.arm (s : State) : State :=
  match s.stg.queue with
  | [] => s
  | e :: _ =>
    if s.armReady e = false then s
    else
      let gs := s.epochGroups e
      let run := gs.filter s.running
      let us := (s.unitsOf e).filter fun u => u.1 ∈ run
      let late : Bool := match e.target with
        | .index a b =>
          let la := s.leader a
          decide (b * s.ratio a < s.sidx la + s.blen la / 4)
        | .untimed => false
      let s := (s.setPhase 2).modStg fun x => { x with armNs := s.now, groups := gs, go := [], nack := us, defers := 0 }
      let s := if late then s.modHead fun e => { e with late := true } else s
      let s := s.setF F.STG_STAT_GARM ((gs.map (2 ^ ·)).sum)
      let s := s.armClocks e
      let s := s.forEach (gs.filter fun g => g ∉ run) fun s g => s.groupSwap g none
      let s := if run = [] then s else s.setPhase (if gs = run then 2 else 3)
      s.applyIfDone

/-- UNIT_ACK (R59): a unit acknowledges; an engine with a new clock only once it is locked. -/
def execUnitAck (unit : BitVec 5) (s : State) : Res State :=
  let u := unit.toNat
  .next <|
    if (s.phase = 2 ∨ s.phase = 3) ∧
        (u < 17 → s.f (F.ENG_CLKST_N u) = s.f (F.ENG_CLKST_NARM u) ∨ (s.eng u).tuned) then
      s.modStg fun x => { x with nack := x.nack.filter (·.2 ≠ u) }
    else s

/-- The commit instant has passed at deadline tick n of leader l (R57, R58); for a timed commit it is the anchor's deadline
of the target boundary (R180). -/
def State.commitDue (s : State) (e : Epoch) (l n : Nat) : Bool :=
  s.stg.armNs + 32000 * nowNs ≤ s.now &&
    match e.target with
    | .untimed => true
    | .index a b =>
      let la := s.leader a
      if la = l then b * s.ratio a ≤ deadlineBoundary (s.blen l) (n - 1)
      else b * s.ratio a ≤ s.sidx la + s.blen la / 4

/-- GO or DEFER at deadline tick n of a group (R60, R61, R64).  A punty in CLONE_LOAD is a unit that does not yet acknowledge
(R228). -/
def State.goDefer (s : State) (l n : Nat) : State :=
  match s.stg.queue with
  | [] => s
  | e :: _ =>
    if (s.phase = 2 ∨ s.phase = 3) ∧ l ∈ s.stg.groups ∧ l ∉ s.stg.go ∧ s.commitDue e l n then
      let due := s.handoverDue (s.group l)
      let loading := s.scuState = 1 ∧ s.leader (s.le s.pairLe).dom = l ∧ s.pairLe ∈ s.changedLes s.nextCfg e.items
      let waiting := (s.stg.nack.filter (·.1 = l)).map (·.2) ++ if loading then [s.pairPunty] else []
      if waiting = [] ∧ due = false then s.modStg fun x => { x with go := addNat x.go l }
      else
        let ho := if due then [s.pairHost, s.pairPunty] else []
        let map := ((waiting ++ ho).eraseDups.map (2 ^ ·)).sum
        let s := (s.setReg R.STG_NACKMAP (BitVec.ofNat 32 map)).flag F.STG_STAT_DEFERRED
        let s := (s.sat (defcnt l) 1).modStg fun x => { x with defers := x.defers + 1 }
        if s.f (defcnt l) = 8 then
          s.raise 0x0002 (leBytes 4 e.num ++ [BitVec.ofNat 8 l, 0, 0, 0] ++ leBytes 4 map)
        else s
    else s

/-! ## Reconcile (R177, steps 7 and 8) -/

/-- The shadow banks of every logical engine's engines take the words of its golden copies (R175). -/
def State.reconcile (s : State) : State :=
  s.forEach (List.range 16) fun s l =>
    let p := imgProg (s.le l).image
    let c := (s.le l).golden
    s.forEach (s.leEngines l) fun s e => s.modEng e fun en => en.newShadow p c

/-- Reconcile ends (R177): shadow and live agree, and RECDONE sets; a double-bit error in a golden copy hands the engine
concerned over (R186). -/
def State.reconcileDone (s : State) (goldenBad : Option (Fin 16)) : State :=
  if s.phase ≠ 4 then s
  else
    let s := ((s.reconcile.flag F.STG_STAT_RECDONE).setPhase 0).modStg fun x => { x with recon := none }
    match goldenBad with
    | none => s
    | some l =>
      match (s.le l).host with
      | some h => s.hostFault l h 0
      | none => s

/-! ## Meter snapshots (R187) -/

/-- STG_METDATA_READ (R187): a snapshot word; the read with a new selection latches the snapshot's epoch tag and boundary
index.  DESIGN CHOICE (log 12): a second read with the same selection after a new snapshot answers the new word and leaves the tag
and the index as latched. -/
def execStgMetdataRead (_ : Initiator) (s : State) : Res State :=
  .next <|
    if s.on 21 = false then s.busErr
    else
      let en := s.eng (s.f F.STG_METSEL_ENG)
      let w := ((en.snap[s.f F.STG_METSEL_IDX]?).map (·.2)).getD 0
      let sel := 64 * s.f F.STG_METSEL_ENG + s.f F.STG_METSEL_IDX
      let s := s.setReg R.STG_METDATA w
      if s.stg.metSel = some sel then s.ret w
      else
        let s := (s.setReg R.STG_METEPOCH en.snapEpoch).setReg R.STG_METIDX (BitVec.ofNat 32 en.snapIdx)
        (s.modStg fun x => { x with metSel := some sel }).ret w

/-- A group has swapped the epoch in hand, which is not yet applied; the epoch in force in it; and the configuration and epoch of
a logical engine. -/
def State.swapped (s : State) (g : Nat) : Bool := s.phase = 3 && s.fbit F.STG_STAT_GSWAP g
def State.epochIn (s : State) (g : Nat) : Nat :=
  if s.swapped g then (s.stg.queue.head?.map (·.num)).getD (s.f F.AON_EPAPPLIED_E) else s.f F.AON_EPAPPLIED_E
def State.cfgOf (s : State) (l : Nat) : Cfg := if s.swapped (s.leader (s.le l).dom) then s.nextCfg else s.cfg
def State.epochOf (s : State) (l : Nat) : Nat := s.epochIn (s.leader (s.le l).dom)

/-- The epoch in hand is still to install an image in a logical engine, at the swap of another group (R537). -/
def State.moving (s : State) (l : Nat) : Bool :=
  match s.stg.queue with
  | e :: _ =>
    (s.phase = 2 || s.phase = 3) && l ∈ s.cfg.installs e.items && s.leader (s.nextCfg.dom l) ∈ s.stg.groups
  | [] => false

/-! ## Loads that end while epochs may be in hand (R105, R226, R239) -/

/-- A cleared engine is loaded with what its logical engine runs now.  DESIGN CHOICE (log 12): between its group's swap of an epoch
and the epoch's application that is the epoch's content, which the golden copies do not hold yet. -/
def State.loadNow (s : State) (e l : Nat) : State :=
  (s.under (s.cfgOf l) fun s => s.loadAll e l).setF (F.ENG_EPOCH_E e) (s.epochOf l)

/-- A punty that begins to shadow a logical engine while an epoch that touches it is in hand takes the epoch's words, and once the
epoch is armed it is a unit that has still to acknowledge (R228). -/
def State.joinEpoch (s : State) (p l : Nat) : State :=
  match s.stg.queue with
  | e :: _ =>
    let g := s.leader (s.le l).dom
    let touched := l ∈ s.changedLes s.nextCfg e.items ∧ l ∉ s.cfg.installs e.items
    if s.inHand = false ∨ s.swapped g ∨ ¬ touched then s
    else
      let s := s.writeShadow s.nextCfg l
      if s.phase = 1 ∨ g ∉ s.stg.groups then s
      else
        let s := (e.clocks.filter (·.1 = l)).foldl (fun s k => s.setF (F.ENG_CLKST_NARM p) (min k.2 (s.fmax p))) s
        if g ∈ s.stg.go then s else s.modStg fun x => { x with nack := x.nack ++ [(g, p)] }
  | [] => s

/-- CLONE_LOAD_DONE (R226, steps 2 and 3; R228): the punty's banks and armed fields hold what the logical engine runs, and its
shadow banks the words of an epoch in hand that its group has still to swap. -/
def execCloneLoadDone (s : State) : Res State :=
  .next <|
    if s.scuState = 1 then
      let p := s.pairPunty
      let l := s.pairLe
      let s := s.under (s.cfgOf l) fun s => (s.loadBanks p l).loadFields p l
      let s := s.joinEpoch p l
      (s.setF (F.ENG_EPOCH_E p) (s.epochOf l)).setScuState 2
    else s

/-- COLD_LOAD_DONE (R239, steps 2 and 4): the image is loaded and the long lines are zero, which is after tick b. -/
def execColdLoadDone (s : State) : Res State :=
  .next <|
    let l := s.pairLe
    if s.scuState = 7 ∧ (s.le l).entry = .cold then
      let p := s.pairPunty
      let s := ((s.modEng p Engine.cleared).setMode p 1).setF (F.ENG_STAT_BUSY p) 0
      let s := ((s.loadNow p l).zeroLines l).setScuState 8
      { s with scu := { s.scu with loaded := true, zeroed := true } }
    else s


/-- CLEAR_DONE (R105): memories are zero; the engine takes the STATE section of its installation, is loaded, freed, or
goes on with the next action. -/
def execClearDone (e : Eng) (s : State) : Res State :=
  .next <|
    if s.mode e = 6 then
      let s := ((s.modEng e Engine.cleared).setMode e 1).setF (F.ENG_STAT_BUSY e) 0
      match (List.range 16).find? fun l => (s.le l).inst = some e.val with
      | some l => s.under s.nextCfg fun s => s.loadState e l
      | none =>
        match (List.range 16).find? fun l => (s.le l).entry = .loading e.val with
        | some l => ((s.loadNow e l).zeroLines l).modLe l fun x => { x with entry := .ready e }
        | none =>
          if (s.eng e).clearRole then (s.freeEngine e).resumeShadow
          else s.goOn e
    else s

end Sys2Proof.Machine
end

