-- ==== Sys2Proof/Machine/Tick.lean ====
section
/-! DEFINITION. The sample tick of a boundary group and the end of a pass: publication, overruns, boundaries, swaps,
hand-overs, frames, prefetches and pass starts in the order of the sample pass (R34 to R68, R77 to R95, R145 to R148,
R172, R184, R226 to R239). -/

namespace Sys2Proof.Machine

/-! ## Comparison of host and punty (R230 to R233) -/

/-- The machine compares passes of a logical engine: LOCK and HOT_ARMED (R236). -/
def State.comparing (s : State) : Bool := s.scuState = 4 || s.scuState = 5

/-- A mismatch: SHADOW_MISMATCH, and in LOCK a hot hand-over (R233, R240, R250). -/
def State.shadowMismatch (s : State) (kind idx out : Nat) : State :=
  let l := s.pairLe
  let h := s.pairHost
  let p := s.pairPunty
  let s := s.recordFault kind idx (if kind = 1 then out else 0)
  let s := s.forEach [h, p] fun s e => s.modEng e fun en => { en with mismatches := en.mismatches + 1 }
  let s := s.raise 0x0301 ([BitVec.ofNat 8 l, BitVec.ofNat 8 h, BitVec.ofNat 8 p, BitVec.ofNat 8 kind] ++ leBytes 8 idx ++
    leBytes 4 out ++ leBytes 4 (s.f F.SCU_CRCH_CRC) ++ leBytes 4 (s.f F.SCU_CRCP_CRC))
  if s.scuState = 4 then
    (s.armHandover l p h false true).modLe l fun x => { x with case := some (x.case.getD []) }
  else s

/-- The first output index at which two passes differ: whether it was written, and its last value (R230). -/
def firstDiff (a b : List (Nat × Word)) : Option Nat := (List.range 128).find? fun i => listed a i ≠ listed b i

/-- Both engines have reported the pass done: their outputs are compared (R230). -/
def State.compareOutputs (s : State) : State :=
  if s.comparing && s.scu.hostDone && s.scu.puntyDone then
    let h := s.eng s.pairHost
    let p := s.eng s.pairPunty
    let s := { s with scu := { s.scu with hostDone := false, puntyDone := false } }
    match if s.b F.SCU_CTRL_OUTEN then firstDiff h.outs p.outs else none with
    | some i => (s.flag F.SCU_STAT_MISOUT).shadowMismatch 1 (s.engN s.pairHost) i
    | none => if s.scuState = 4 then s.sat F.SCU_WCNT_COUNT 1 else s
  else s

/-- A pass that has retired END drains, delivers and reports to the comparison (R93, R230). -/
def State.passEnd (s : State) (e : Nat) : State :=
  let old := (s.eng e).done
  let s := s.finishPass e
  if (s.eng e).done && !old && s.comparing then
    { s with scu := { s.scu with
        hostDone := s.scu.hostDone || s.pairHost = e, puntyDone := s.scu.puntyDone || s.pairPunty = e } }.compareOutputs
  else s

/-- PASS_DONE (R93): the engine runs its pass to END, unless its clock is not locked, drains and delivers. -/
def execPassDone (e : Eng) (s : State) : Res State :=
  .next <|
    if s.inService e = false ∨ (s.eng e).test ∨ (s.eng e).done then s
    else
      (if s.b (F.ENG_CLKST_LOCK e) then runPass e passFuel s else s).passEnd e

/-! ## Overruns (R65 to R67, R232) -/

/-- The slots of a logical engine that take an engine's writes (R48, R53). -/
def State.slotsOf (s : State) (l e : Nat) : List Nat :=
  (s.routes.filter fun q => routeKind q.2 = 1 ∧ routeId q.2 = l ∧ (s.le l).writer (routeDom q.2) = some e).map (·.1)

/-- An engine abandons its pass: memory writes stand, the long-write buffer is discarded (R65). -/
def State.abandonPass (s : State) (e : Nat) : State :=
  s.modEng e fun en => { en with busy := false, done := false, pend := [], nest := [], lw := [] }

/-- The bit of XCH_OVR, and SAMPLE_OVERRUN with the logical engine, the engine and n (R65). -/
def State.overrunEvent (s : State) (l e : Nat) : State :=
  s.raise 0x0101 ([BitVec.ofNat 8 l, BitVec.ofNat 8 e, 0, 0] ++ leBytes 8 (s.engN e))

/-- A live engine overran: its logical engine republishes, and a host is handed over (R65, R67). -/
def State.hostOverrun (s : State) (l e : Nat) : State :=
  let mine := s.slotsOf l e
  let s := (s.setFbit F.XCH_OVR_OVR e true).overrunEvent l e
  let s : State := { s with slotWr := s.slotWr.filter fun q => q.1 ∉ mine }
  let s := s.modLe l fun x =>
    if x.leaving.any (·.eng = e) then x else { x with ovr := x.ovr + 1, muteNext := x.muteNext || x.ovr = 2 }
  if (s.le l).host = some e then s.hostFault l e 5 else s

/-- The punty overran: a host that overran the same pass takes the fault (R232, R233). -/
def State.puntyOverrun (s : State) (l p : Nat) (both : Bool) : State :=
  let s := s.setFbit F.XCH_OVR_OVR p true
  if both then (s.flag F.SCU_STAT_POVR).overrunEvent l p else s.puntyFault p 3 F.SCU_STAT_POVR

/-- Every engine of a domain whose pass has not retired END at the tick. -/
def State.overruns (s : State) (d : Nat) : State :=
  let late := (s.engsOf d).filter fun e => (s.eng e).busy && !(s.eng e).test
  let live := late.filter fun e => s.mode e = 2
  let punty := late.filter fun e => s.mode e = 3
  let p := s.pairPunty
  let l := s.pairLe
  let both := s.comparing && decide (s.pairHost ∈ live)
  let s := s.forEach live fun s e => match s.leOf e with
    | some l => s.hostOverrun l e
    | none => s
  let s := s.forEach late State.abandonPass
  if p ∈ punty ∧ s.comparing then s.puntyOverrun l p both else s

/-- A mute under R67 begins: XCH_MUTE sets. -/
def State.muteTicks (s : State) (d : Nat) : State :=
  s.forEach ((List.range 16).filter fun l => (s.le l).muteNext && (s.le l).dom = d) fun s l =>
    (s.setFbit F.XCH_MUTE_MUTE l true).modLe l fun x => { x with muteNext := false }

/-! ## Publication (R50, R67, R172, R199, R238) -/

/-- The fade of a logical engine's slots of domain d (R537). -/
def LogEng.fadeIn (x : LogEng) (d : Nat) : Fade := ((x.leaving.filter (·.dom = d)).map (·.fade)).getD x.fade

/-- The words of a logical engine's slots of domain d publish as 0: muted, silent, or without an engine. -/
def State.silenced (s : State) (l d : Nat) : Bool :=
  s.fbit F.XCH_MUTE_MUTE l || ((s.le l).writer d).isNone || (match (s.le l).fadeIn d with
    | .silent _ => true
    | _ => false)

/-- The word that a slot publishes before a trip ramp: the written word under the fade of its logical engine, the previous
one without a write, or 0. -/
def State.slotNext (s : State) (d k : Nat) (route : Word) : Word :=
  let w := listed s.slotWr k
  let prev := s.reg (R.XCH_SLOT k)
  if routeKind route = 1 then
    let l := routeId route % 16
    if s.silenced l d then 0
    else match w with
      | some w => ((s.le l).fadeIn d).word (s.blen d) w
      | none => prev
  else w.getD prev

/-- One slot flips sides.  During a trip ramp its unscaled word stays on the write side, for the next tick (R199). -/
def State.publishSlot (s : State) (d k : Nat) (route : Word) : State :=
  let raw := s.slotNext d k route
  let b := s.blen d
  match (s.dom d).tripRamp with
  | none => { s with slotWr := smapDel s.slotWr k }.setReg (R.XCH_SLOT k) raw
  | some i =>
    let w := if i < b then fadeWord raw (b - i) b else 0
    { s with slotWr := smapIns s.slotWr k raw }.setReg (R.XCH_SLOT k) w

/-- The next sample of a fade over blocks of B samples; an image that is gone leaves none. -/
def Fade.next (x : Fade) (b : Nat) (image : Bool) : Fade :=
  let after := if image then .rising 0 else .plain
  match x with
  | .plain => .plain
  | .falling i sil =>
    if i + 1 < b then .falling (i + 1) sil
    else match sil with
      | none => .silent none
      | some 0 => after
      | some k => .silent (some k)
  | .silent none => .silent none
  | .silent (some k) => if k ≤ 1 then after else .silent (some (k - 1))
  | .rising i => if i + 1 < b then .rising (i + 1) else .plain

def Fade.isRising : Fade → Bool
  | .rising _ => true
  | _ => false

/-- LE_MUTED, with the domain's sample index (R243). -/
def State.muteEvent (s : State) (l : Nat) : State :=
  s.raise 0x0306 ([BitVec.ofNat 8 l, 0, 0, 0] ++ leBytes 8 (s.sidx (s.le l).dom))

/-- The falling block of a logical engine has ended: its outgoing engine leaves service (R172, R173, R239, R243). -/
def State.fallEnd (s : State) (l : Nat) : State :=
  let out := (s.le l).outgoing
  let s := s.modLe l fun x => { x with outgoing := none }
  match out with
  | none => s
  | some o =>
    match (s.le l).entry with
    | .reload => (s.startReload l o).setFbit F.XCH_MUTE_MUTE l false
    | .cold => s.toBist o
    | .rampOut _ _ =>
      let s := (s.modLe l fun x => { x with entry := .none, muted := true }).muteEvent l
      match (List.range 16).find? fun k => (s.le k).entry = .loading o with
      -- a logical engine of higher priority takes it by cold hand-over
      | some k =>
        let s := (s.leaveService o).modLe l fun x => { x with exHost := none }
        (s.modLe k fun x => { x with entry := .none, exHost := some o }).freeEngine o
      | none => s.toBist o
    | _ => (s.outgoingEnds o).setFbit F.XCH_MUTE_MUTE l false

/-- The fade of a logical engine moves on, and with it the hand-over machine: COLD_SILENT, COLD_FADE and HOT_FADE (R236). -/
def State.fadeTick (s : State) (l : Nat) : State :=
  let x := s.le l
  let f := x.fade.next (s.blen x.dom) (x.image ≠ [])
  let s := s.modLe l fun x => { x with fade := f }
  let s := if x.fade.isFalling && !f.isFalling then s.fallEnd l else s
  let mine := s.b F.SCU_PAIR_VALID && s.pairLe = l
  let s := if mine && s.scuState = 9 && f.isRising then s.setScuState 10 else s
  if mine && (s.scuState = 10 || s.scuState = 6) && x.fade.isRising && !f.isRising then s.handoverDone else s

/-- The fade of the engine that a logical engine leaves behind moves on (R537). -/
def State.leavingTick (s : State) (l : Nat) : State :=
  match (s.le l).leaving with
  | some v =>
    let f := v.fade.next (s.blen v.dom) true
    let ends := v.fade.isFalling && !f.isFalling
    match ends, v.out with
    | true, none => s.leavingEnd l
    | true, some o => (s.outgoingEnds o).modLe l fun x => { x with leaving := some { v with fade := f, out := none } }
    | false, _ => s.modLe l fun x => { x with leaving := some { v with fade := f } }
  | none => s

/-- Every slot of a domain publishes, and its fades and trip ramp move on. -/
def State.publish (s : State) (d : Nat) : State :=
  let rs := s.routes.filter fun q => routeDom q.2 = d
  let s := rs.foldl (fun s q => s.publishSlot d q.1 q.2) s
  let b := s.blen d
  let s := s.modDom d fun x => match x.tripRamp with
    | some i => { x with tripRamp := some (min (i + 1) (b + 1)), tripDone := decide (b ≤ i) }
    | none => x
  let s := s.forEach ((List.range 16).filter fun l => (s.le l).dom = d) State.fadeTick
  s.forEach ((List.range 16).filter fun l => (s.le l).leaving.any (·.dom = d)) State.leavingTick

/-! ## Block boundaries -/

/-- The meter files of the live engines of a domain, but some, are latched, tagged with b and the epoch in force at b − 1
(R184). -/
def State.snapshots (s : State) (d n tag : Nat) (but : List Nat) : State :=
  s.forEach ((s.engsOf d).filter fun e => s.mode e = 2 ∧ e ∉ but) fun s e =>
    s.modEng e fun en => { en with snap := en.met, snapIdx := n, snapEpoch := BitVec.ofNat 32 tag }

/-- The write CRCs of the block that has ended are compared, and a planned retirement follows a compared block (R231,
R233). -/
def State.crcBoundary (s : State) (d n : Nat) : State :=
  let s := s.forEach ((s.engsOf d).filter s.inService) fun s e =>
    s.modEng e fun en => { en with crcLast := en.crc ^^^ 0xFFFFFFFF, crc := 0xFFFFFFFF }
  let l := s.pairLe
  if s.comparing && (s.le l).dom = d then
    let h := (s.eng s.pairHost).crcLast
    let p := (s.eng s.pairPunty).crcLast
    let s := (s.setF F.SCU_CRCH_CRC h.toNat).setF F.SCU_CRCP_CRC p.toNat
    if s.b F.SCU_CTRL_CRCEN ∧ h ≠ p then (s.flag F.SCU_STAT_MISCRC).shadowMismatch 2 (n - s.blen d) 0xFFFFFFFF
    else if s.scuState = 4 ∧ (s.le l).retire then s.armHandover l s.pairPunty s.pairHost false false
    else s
  else s

/-- The punty locks at b_L: it copies N, the tiers and the ramp from the host (R226, step 5). -/
def State.lockEntry (s : State) (d n : Nat) : State :=
  let l := s.pairLe
  if s.scuState = 3 ∧ (s.le l).dom = d ∧ s.scu.bL ≤ n then
    let h := s.pairHost
    let p := s.pairPunty
    let s := ((s.setEngN p n).setReg (R.ENG_TIERST p) (s.reg (R.ENG_TIERST h))).setReg (R.ENG_TR p) (s.reg (R.ENG_TR h))
    let s := s.modEng p fun en =>
      { en with rampJ := (s.eng h).rampJ, tierChanged := (s.eng h).tierChanged, crc := 0xFFFFFFFF, busy := false, done := false }
    { s.setScuState 4 with scu := { s.scu with hostDone := false, puntyDone := false } }
  else s

/-- A hand-over whose new host must leave before its fade has ended is over (R234, R236). -/
def State.endFade (s : State) (l : Nat) : State :=
  if s.b F.SCU_PAIR_VALID ∧ s.pairLe = l ∧ (s.scuState = 6 ∨ s.scuState = 9 ∨ s.scuState = 10) then s.handoverDone else s

/-- What a change of host that waits for a boundary does at boundary n of its domain (R173, R209, R210, R239, R243). -/
def State.entryBoundary (s : State) (n l : Nat) : State :=
  let x := s.le l
  let s := if x.resume && s.f F.PMU_STAT_STATE = 0 then
      let b := s.blen x.dom
      let s := s.modLe l fun x => { x with resume := false, fade := .silent (some b) }
      match x.host with
      | some h => s.loadMeters h l
      | none => s
    else s
  match x.entry with
  | .ready e =>
    if s.moving l then s
    else
      let w := s.warm l
      let s := (s.goLive e l n).modLe l fun x =>
        { x with entry := .none, muted := false, ovr := 0, muteNext := false, fade := .silent (some w) }
      let s := s.setFbit F.XCH_MUTE_MUTE l false
      if x.muted then s.raise 0x0307 ([BitVec.ofNat 8 l, 0, 0, 0] ++ leBytes 8 n) else s
  | .rampOut _ b =>
    if b ≠ 0 ∧ b ≤ n ∧ x.outgoing.isNone then
      let s := (s.endShadowOf l).modLe l fun x => { x with exHost := x.host, rampB := n }
      match x.host, x.fade with
      -- slots that still publish 0 after a hand-over do so on
      | some h, .silent _ =>
        ((s.modLe l fun x => { x with entry := .none, host := none, muted := true, fade := .silent none }).muteEvent l).toBist h |>.endFade l
      | some h, _ => (s.modLe l fun x => { x with outgoing := some h, host := none, fade := .falling 0 none }).endFade l
      | none, _ => s.modLe l fun x => { x with entry := .none, muted := true }
    else s
  | _ => s

/-- Boundary n of a domain, after the group's swap. -/
def State.boundaryAfter (s : State) (d n : Nat) : State :=
  let ls := (List.range 16).filter fun l => (s.le l).dom = d
  let s := s.forEach ls fun s l => (s.scuBoundary l n).entryBoundary n l
  s.lockEntry d n

/-- Boundary n of a domain, before the group's swap: its time, the snapshots, the CRCs and the count of overruns. -/
def State.boundaryBefore (s : State) (d n : Nat) : State :=
  let s := ((s.captureBts d).snapshots d n (s.epochIn (s.leader d)) []).crcBoundary d n
  s.forEach ((List.range 16).filter fun l => (s.le l).dom = d) fun s l => s.modLe l fun x => { x with ovr := 0 }

/-! ## The long delay store at a tick (R145, R147, R153) -/

/-- LDS_LATE, kind 1 for a prefetch and 2 for a drain (R147). -/
def State.ldsLate (s : State) (d kind : Nat) : State :=
  (s.flag (if kind = 1 then F.LDS_STAT_PFLATE else F.LDS_STAT_DRLATE)).raise 0x0102 [BitVec.ofNat 8 d, BitVec.ofNat 8 kind]

/-- Drains that the tick finds incomplete are completed first. -/
def State.lateDrains (s : State) (d : Nat) : State :=
  let es := (s.engsOf d).filter fun e => (s.eng e).drain.isSome
  let late := es.any fun e => s.drainsToLds e && ((s.eng e).drain.map (·.2) ≠ some [])
  let s := s.forEach es State.drainEng
  if late then s.ldsLate d 2 else s

/-- The accesses of the period that ends are latched (R153). -/
def State.ldsUse (s : State) (d : Nat) : State :=
  let n := min (s.dom d).ldsAcc (2 ^ 18 - 1)
  let s := (s.setF (F.LDS_USE_ACC d) n).setF (F.LDS_PEAK_ACC d) (max n (s.f (F.LDS_PEAK_ACC d)))
  s.modDom d fun x => { x with ldsAcc := 0 }

/-- The error codes of a long-read buffer's back side, 11, become those of its front side, 9; entries not fetched have none. -/
def flipCodes (late : Nat → Bool) (cs : List Nat) : List Nat :=
  (cs.filter fun b => b / 0x10000 ≠ 9 ∧ ¬ (b / 0x10000 = 11 ∧ late (b % 0x10000))).map fun b =>
    if b / 0x10000 = 11 then b - 0x20000 else b

/-- The long-read buffers flip, entries not yet fetched read 0, and the prefetch for pass n + 1 begins; a punty takes what
its host's list fetches, each word in the same access (R145, R147, R148). -/
def State.ldsFlip (s : State) (d n : Nat) (late : List (Nat × Nat)) : State :=
  let es := s.engsOf d
  let pair := if 3 ≤ s.scuState ∧ s.mode s.pairPunty = 3 then [s.pairHost, s.pairPunty] else []
  let late := late ++ (late.filter (·.1 ∈ pair)).flatMap fun q => pair.map fun e => (e, q.2)
  let bad := late.filter fun q => q.1 ∈ es ∧ q.2 < (s.eng q.1).gath.length
  let s := s.forEach es fun s e =>
    let gone := fun (i : Nat) => decide ((e, i) ∈ bad)
    s.modEng e fun en =>
      { en with lr := en.lrBack.filter (fun q => !gone q.1), lrBack := []
                bad := flipCodes gone en.bad, soft := flipCodes gone en.soft }
  let s := if bad = [] then s else s.ldsLate d 1
  let s := s.forEach (es.filter fun e => s.mode e = 2) fun s e => s.prefetch d e (n + 1)
  s.forEach (es.filter fun e => s.mode e = 3 ∧ 3 ≤ s.scuState) fun s p =>
    s.modEng p fun en => { en with lrBack := (s.eng s.pairHost).lrBack }

/-! ## Input windows and pass starts (R49, R51, R52, R77, R79, R94, R95) -/

/-- The input window of an engine flips: it takes the published words of its list, and its write side stands empty; a slot of an
unrelated domain sets CROSSRD. -/
def State.latchWindow (s : State) (l e : Nat) : State :=
  let il := (s.eng e).inList
  let cross := il.any fun q => s.b (F.XCH_ROUTE_VALID q.2) && s.leader (s.f (F.XCH_ROUTE_DOMAIN q.2)) ≠ l
  let w := il.foldl (fun m q => memSet m q.1 (s.reg (R.XCH_SLOT q.2))) []
  let s := s.modEng e fun en => { en with win := w, winBack := [] }
  if cross then s.flag F.XCH_ERR_CROSSRD else s

/-- TR for pass j of the ramp (R95). -/
def rampTr (changed : Bool) (j len : Nat) : Nat := if changed ∧ j < len then j * 2 ^ 31 / len else 0x7FFFFFFF

/-- Pass n of an engine starts. -/
def State.startPass (s : State) (e n : Nat) : State :=
  let j := (s.eng e).rampJ
  let t := s.f (F.ENG_TIERST_TIER e)
  let tr := rampTr (s.eng e).tierChanged j (s.f (F.ENG_TIERST_RAMPLEN e))
  let s := (s.setEngN e n).setF (F.ENG_TR_TR e) tr
  let s := s.modEng e fun en => { en with rampJ := j + 1 }
  s.beginPass e (s.f (F.ENG_ENTRY_ADDR e t)) false t

/-- The engines of a domain that start a pass: no engine whose clock S1 or S2 stops, or that waits to resume (R66, R209). -/
def State.starters (s : State) (d : Nat) : List Nat :=
  if s.f F.PMU_STAT_STATE = 1 ∨ s.f F.PMU_STAT_STATE = 2 then []
  else (s.engsOf d).filter fun e =>
    (s.mode e = 2 || (s.mode e = 3 && s.comparing)) && (match s.leOf e with
      | some l => !(s.le l).resume
      | none => false)

/-! ## The tick of a group -/

/-- The sample that a leader's next tick begins (R36). -/
def State.nextIdx (s : State) (l : Nat) : Nat := if (s.dom l).first then s.sstart l else s.sidx l + 1

/-- The fractional divider: FRAC is added, and the next period lasts INT cycles, or INT + 1 on a carry (R34). -/
def State.divide (s : State) (l : Nat) : State :=
  let sum := (s.dom l).acc.toNat + s.f (F.RD_DIVF_FRAC l)
  s.modDom l fun x => { x with acc := BitVec.ofNat 32 sum, period := s.f (F.RD_DIVI_INT l) + sum / 2 ^ 32 }

/-- The index of a domain takes sample n, at the present instant. -/
def State.takeIdx (s : State) (d n : Nat) : State :=
  let s := s.setF2 (F.RD_SIDXL_SIDX d) (F.RD_SIDXH_SIDX d) n
  (s.setDomPhase d).modDom d fun x => { x with first := false, tickAt := s.now }

/-- The group stops at a boundary: EN is clear (R43), or firmware restarts it (R37, R335).  An epoch that the group holds
armed is taken as by a stopped domain (R63). -/
def State.stopAt (s : State) (l : Nat) : State :=
  let re := (s.dom l).restart
  let s := (s.stopGroup l).modDom l fun x => { x with restart := false, reanchor := re && x.reanchor }
  if s.b (F.RD_CTRL_EN l) then
    let ls := (List.range 16).filter fun k => (s.le k).dom ∈ s.group l ∧ (s.le k).image ≠ []
    let s := s.forEach ls State.leRestart
    if re then s.anchorStart l else s
  else if l ∈ s.stg.groups then (s.groupSwap l none).applyIfDone
  else s

/-- The domains of a group that tick at leader sample n, with their samples (R39). -/
def State.ticking (s : State) (l n : Nat) : List (Nat × Nat) :=
  ((s.group l).filter fun d => n % s.ratio d = 0).map fun d => (d, n / s.ratio d)

/-- Steps 1 to 4 of the sample pass for one domain: late work, overruns and publication. -/
def State.tickPublish (s : State) (d n : Nat) (i : TickIn) : State :=
  let s := (s.aspBefore d i.asp).takeIdx d n
  let s := s.forEach (s.engsOf d) State.passEnd
  let s := (s.lateDrains d).muteTicks d
  (s.overruns d).publish d

/-- The engines of a domain begin no pass with a report of the one before. -/
def State.clearDone (s : State) (d : Nat) : State :=
  let s := s.forEach (s.engsOf d) fun s e => s.modEng e fun en => { en with done := false }
  if (s.le s.pairLe).dom = d then { s with scu := { s.scu with hostDone := false, puntyDone := false } } else s

/-- Step 3, step 5's ports, and the frames and samples that begin at the tick. -/
def State.tickPorts (s : State) (d n : Nat) (bnd : Bool) (i : TickIn) : State :=
  let s := (((s.aspAfter d).pdmTick d i.pdm).srcTick d).iecRxTick d
  ((s.iecTxTick d).seTick d n).trigTick d bnd

/-- Steps 6 and 7: the long-read buffers flip, the windows stand and passes start. -/
def State.tickPasses (s : State) (l d n : Nat) (i : TickIn) : State :=
  let s := ((s.ldsUse d).ldsFlip d n i.lateFetch)
  let s := s.forEach ((s.engsOf d).filter s.inService) fun s e => s.latchWindow l e
  s.forEach (s.starters d) fun s e => s.startPass e n

/-- The deadline tick of a group: GO for a hand-over, then GO or DEFER for the epoch (R58, R60, R234). -/
def State.tickDeadline (s : State) (l n : Nat) : State :=
  let b := s.blen l
  if n % b = b - b / 4 then (s.scuDeadline (s.group l) (n + b / 4)).goDefer l n else s

/-- The tick of leader l that begins its sample n. -/
def State.groupTick (s : State) (l n : Nat) (i : TickIn) : State :=
  let ts := s.ticking l n
  let bnd := fun (s : State) (q : Nat × Nat) => decide (q.2 % s.blen q.1 = 0)
  let tag := s.epochIn l
  let s := s.divide l
  let s := ts.foldl (fun s q => s.tickPublish q.1 q.2 i) s
  let s := s.forEach (ts.map (·.1)) State.clearDone
  let s := (ts.filter (bnd s)).foldl (fun s q => s.boundaryBefore q.1 q.2) s
  let live := (List.range 17).filter fun e => s.mode e = 2
  let s := if n % s.blen l = 0 then s.anchorBoundary l n else s
  let s := if n % s.blen l = 0 ∧ l ∈ s.stg.go then (s.groupSwap l (some n)).applyIfDone else s
  let s := (ts.filter (bnd s)).foldl (fun s q => (s.boundaryAfter q.1 q.2).snapshots q.1 q.2 tag live) s
  let s := ts.foldl (fun s q => s.tickPorts q.1 q.2 (bnd s q) i) s
  let s := ts.foldl (fun s q => s.tickPasses l q.1 q.2 i) s
  (s.tickDeadline l n).clearUnrouted

/-- The tick of a running, unlinked domain and of its followers (R34); at a boundary where the group stops no tick occurs (R43,
R44). -/
def State.sampleTick (s : State) (l : Nat) (i : TickIn) : State :=
  if s.running l = false ∨ s.linked l then s
  else
    let n := s.nextIdx l
    if n % s.blen l = 0 ∧ (s.b (F.RD_CTRL_EN l) = false ∨ ((s.dom l).restart ∧ (s.dom l).first = false ∧ s.anchoring l)) then s.stopAt l
    else if n % s.blen l = 0 ∧ l ∈ s.stg.go ∧ s.stops s.cfg s.nextCfg l then (s.groupSwap l (some n)).applyIfDone
    else s.groupTick l n i

end Sys2Proof.Machine
end

