-- ==== Sys2Proof/Machine/Reset.lean ====
section
/-! DEFINITION. Resets of blocks and of power domains, with what their registers do not hold (R33, R69, R100, R153, R187,
R207, R220, R251, R473, R494), and what firmware sets up at its start (R209, R210, R220, R252, R454; log 32). -/

namespace Sys2Proof.Machine

/-! ## Blocks -/

/-- A 64 KiB slot of registers resets, but for some registers. -/
def State.resetKeep (s : State) (base : Nat) (keep : List Nat) : State :=
  keep.foldl (fun t a => t.setReg a (s.reg a)) (s.resetBlock base 0x10000)

/-- XCH and the rate domains. -/
def State.resetXch (s : State) : State :=
  { s.resetBlock 0x40030000 0x10000 with
    doms := s.doms.map fun d => { Domain.init with napIdx := d.napIdx }
    slotWr := [] }

/-- STG (R187). -/
def State.resetStg (s : State) : State :=
  (s.resetBlock 0x40040000 0x10000).modStg fun x =>
    { x with armNs := 0, nack := [], groups := [], go := [], defers := 0, recon := none, avsWait := false, hard := false
             metSel := none }

/-- The SCU. -/
def State.resetScu (s : State) : State :=
  { s.resetBlock 0x40180000 0x10000 with scu := State.reset.scu }

/-- CLK: the loops are bypassed, the ACSs are off and MCLKO is low (R256, R274); CLK_SLOW stands in AON (R276). -/
def State.resetClk (s : State) : State :=
  { s.resetKeep 0x40010000 [R.CLK_SLOW] with acs := State.reset.acs, sysLoop := State.reset.sysLoop, mclk := State.reset.mclk }

/-- DMA, HSP and SEC, whose fused fields show the fuses. -/
def State.resetDma (s : State) : State :=
  { s.resetBlock 0x40060000 0x10000 with dma := State.reset.dma, dmaLast := 15, dmaTurn := State.reset.dmaTurn }
def State.resetHsp (s : State) : State := { s.resetBlock 0x400A0000 0x10000 with hsp := State.reset.hsp }
def State.resetSec (s : State) : State := { s.resetBlock 0x40080000 0x10000 with sec := State.reset.sec }.secSync

/-- A UART resets; ADDR, SLOW and the receive queue of UART1 and UART2 stand in AON (R414). -/
def State.resetUart (s : State) (u : Nat) : State :=
  let x := s.uart u
  let a := s.reg (R.UART_ADDR u)
  let w := s.reg (R.UART_SLOW u)
  let s := s.resetBlock (0x400C0000 + 0x1000 * u) 0x1000
  if u = 0 then s.modUart u fun _ => Uart.init
  else
    (((s.modUart u fun _ => { Uart.init with rx := x.rx }).setReg (R.UART_ADDR u) a).setReg (R.UART_SLOW u) w).setF
      (F.UART_LEVEL_RX u) x.rx.length

/-- The serial peripherals.  A UART in slow mode runs on in AON while PD_SYS is off (R412), and GPIO_WAKE resets at VDD_AON
power-on alone (R427). -/
def State.resetSerial (s : State) (device : Bool) : State :=
  let s := s.forEach ((List.range 3).filter fun u => device || !(s.uart u).slow) State.resetUart
  { ((s.resetBlock 0x400B0000 0x10000).resetBlock 0x400D0000 0x10000).resetKeep 0x400E0000 [R.GPIO_WAKE] with
    psc := State.reset.psc, i2c := State.reset.i2c }

/-- What of the serial peripherals resets at VDD_AON power-on (R414, R427). -/
def State.resetSerialAon (s : State) : State :=
  { s.resetBlock R.GPIO_WAKE 4 with uarts := State.reset.uarts }.forEach [0, 1, 2] fun s u =>
    s.resetBlock (0x400C0000 + 0x1000 * u) 0x1000

/-- Both control cores reset, with their caches, MPUs and interrupt controllers. -/
def State.resetCores (s : State) : State :=
  { s with
    ccs := s.ccs.map fun c => { CtlCore.init with expiries := c.expiries, parked := false }
    irqs := s.irqs.filter (· < 61) }

/-! ## Power domains (R33, R207) -/

/-- PD_SYS loses its registers, but not the arrays of control SRAM nor the LDS control block (R153). -/
def State.loseSys (s : State) : State :=
  let s := (((s.resetXch.resetStg).resetScu).resetClk).resetBlock 0x40190000 0x10000
  let s := (((s.resetBlock 0x40050000 0x10000).resetDma).resetHsp).resetSec
  { (s.resetSerial false).setOn 21 false with eccAddr := 0, eccCnt := 0 }

/-- PD_AUD, PD_SRC, PD_NET, PD_XMP, the control cores, the LDS and the engines go off. -/
def State.loseAud (s : State) : State :=
  let s := ((s.resetBlock 0x40100000 0x10000).resetBlock 0x40110000 0x10000).resetBlock 0x40120000 0x10000
  { s.setOn 22 false with
    asps := State.reset.asps, pdms := State.reset.pdms, iecRx := State.reset.iecRx, iecTx := State.reset.iecTx }
def State.loseSrc (s : State) : State :=
  { (s.resetBlock 0x40130000 0x10000).setOn 23 false with srcs := State.reset.srcs }
def State.loseNet (s : State) : State :=
  let s := (s.resetBlock 0x40140000 0x10000).resetBlock 0x40150000 0x10000
  -- without the 125 MHz clock the TU counts on the slow clock (R322)
  let s := if s.b F.TU_STAT_SLOW then s else s.tuSource true
  { s.setOn 24 false with net := { Net.init with udpDrops := s.net.udpDrops } }
/-- XMP: XIPLOCK and the fields that it locks stand over a power cycle (R453). -/
def State.loseXmp (s : State) : State :=
  let lock := s.b F.XMP_CTRL_XIPLOCK
  let keep := if lock then [R.XMP_XIPCMD0, R.XMP_XIPCMD1] ++ (List.range 32).map (R.XIP_BASE 0 + 4 * ·) else []
  let s := ((s.xmpAbort.resetKeep 0x40090000 keep).setF F.XMP_CTRL_XIPLOCK (b2n lock)).setOn 25 false
  s.modFlash fun x => { x with fifo := [], run := none, sel := none, cache := [] }
def State.loseCores (s : State) : State := ((s.resetCores).setOn 19 false).setOn 20 false
def State.loseLds (s : State) : State :=
  s.forEach [0, 1] fun s b => ((s.clearHalf b).setOn (17 + b) false).setHalf b 0
def State.loseEngines (s : State) : State := s.forEach (List.range 17) fun s e => s.powerEng e false

/-- What firmware keeps for the lehr starts afresh; the run counts of the thresholds are the TSU's own (R197). -/
def Lehr.fresh (x : Lehr) : Lehr :=
  { State.reset.lehr with hardRun := x.hardRun, coolRun := x.coolRun, tripRun := x.tripRun }

/-- The device reset of every block but AON, the TSU and the TU. -/
def State.resetDevice (s : State) : State :=
  let s := ((((s.loseEngines).loseLds).loseAud).loseSrc).loseNet
  let s := ((s.loseXmp).loseCores).loseSys
  let s := ((s.resetSerial true).resetBlock 0x40170000 0x10000).resetBlock 0x40090000 0x10000
  { s with irqs := [], latch := [], slotWr := [], les := State.reset.les, lehr := s.lehr.fresh }

/-! ## What firmware sets up (log 32) -/

/-- The ROM aborts a transfer and starts XMP, in the mode that SFDP lets it read in, on the medium that BOOTCFG and the slot table
name (R440, R454 step 5, R457).  Whole words that were received stay in the FIFO (R432). -/
def State.romXmp (s : State) : State :=
  let s := (s.xmpAbort.setOn 25 true).setF F.XMP_CTRL_EN 1
  let s := s.xipSync.xmpModes (romMode s.flash.part) XMode.first
  match s.slotTable with
  | some t =>
    let media := (t.getD 6 0).toNat
    let s := (s.setF F.XMP_ECCCFG_MODE media).setF F.XMP_ECCCFG_PAGE4K (b2n (leNat ((t.drop 16).take 4) = 4096))
    if media = 1 then s.setF F.XMP_ECCCFG_PARBASE (s.flash.part.size / 32 * 31 / 65536) else s
  | none => s.setF F.XMP_ECCCFG_MODE (if s.nand then 2 else 0)

/-- Clocks as the ROM sets them (R454, step 2): left as they stand after a CC0 watchdog reset with the SYS MDLL locked. -/
def State.romClocks (s : State) (locks : Bool) : State :=
  let s :=
    if s.f F.PMU_RSTCAUSE_CAUSE = 3 ∧ s.fbit F.CLK_STAT_LOCK 0 then s
    else
      let refin := (s.fuseWord 56).getLsbD 1
      let s := (s.setF F.CLK_CTRL_REFSEL (b2n refin)).setF F.CLK_SYSI_INT (if refin then wordFld (s.fuseWord 56) 8 2 else 40)
      let s := (s.sysApply.setF F.CLK_CTRL_SYSEN 1).setFbit F.CLK_STAT_LOCK 0 locks
      if locks then s else s.setReg (R.AON_RET 7) (s.reg (R.AON_RET 7) ||| 0x100)
  s.setF F.CLK_CTRL_CC0EN 1

/-- Enables that firmware sets in PD_SYS and PD_NET: clocks of the other islands, both ACSs and the serial ports. -/
def State.enableSys (s : State) : State :=
  let s := (s.setF F.CLK_CTRL_LDSEN 1).setF F.CLK_CTRL_CC1EN 1
  let s := s.forEach [0, 1] fun s a => (s.setF (F.ACS_CTRL_EN a) 1).acsEnable a true
  let s := s.forEach (List.range 3) fun s u =>
    (((s.setF (F.UART_CTRL_EN u) 1).setF (F.UART_CTRL_TXEN u) 1).setF (F.UART_CTRL_RXEN u) 1).uartSync u
  (((s.setF F.HSP_CTRL_EN 1).setF F.I2C_CTRL_EN 1).setF F.PSC_CTRL_EN 1).pscSync false
def State.enableNet (s : State) : State := ((s.setOn 24 true).setF F.NSW_CTRL_EN 1).setF F.SE_CTRL_EN 1
def State.enableAud (s : State) : State := (s.setOn 22 true).setOn 23 true

/-- The mailbox block as firmware sets it up (R355). -/
def State.mbxRegs (s : State) : State :=
  ((s.setReg R.MBX_BASE 0x103FE000).setReg (R.MBX_REQEN 0) 0xFFFFFFFF).setReg (R.MBX_REQEN 1) 0xFFFFFFFF

/-- Firmware writes the last applied epoch into STG after its reset (R187). -/
def State.stgSetup (s : State) : State :=
  let w := s.reg R.AON_EPAPPLIED
  (s.setReg R.STG_ARMED w).setReg R.STG_APPLIED w

/-- Trims from the fuses: the power terms (R220); and the voltage in force (R204). -/
def State.laTrims (s : State) : State :=
  let s := s.setF F.LA_VDD_MV s.pmu.vddMv
  let s := (s.setF F.LA_FIXED_MW (s.fuseWord 58).toNat).setF F.LA_LEAK_L0 (wordFld (s.fuseWord 58) 31 16)
  let s := s.setF F.LA_LEAK_DT (wordFld (s.fuseWord 57) 23 16)
  s.forEach (List.range 23) fun s i => s.setReg (R.LA_CDYN i) (s.fuseWord (60 + i))

/-- The committed settings of some classes reach hardware that has lost its registers. -/
def State.reapply (s : State) (cs : List Nat) : State :=
  let ps := s.params.filter fun q => pidClass q.1 ∈ cs
  let new := s.cfg
  let old : Cfg := { new with ps := [] }
  let s := s.applyFlds (ps.filter fun q => pidClass q.1 = 0x02)
  let s := (ps.filter fun q => pidClass q.1 = 0x03).foldl (fun s q => s.routeApply q.1 q.2) s
  let s := (s.deviceApply new (ps.filter fun q => pidClass q.1 = 0x01)).netApply old (ps.filter fun q => pidClass q.1 = 0x40)
  let s := s.applyFlds (ps.filter fun q => pidClass q.1 = 0x52)
  (s.serialApply (ps.filter fun q => pidClass q.1 = 0x60)).unitsApply (ps.filter fun q => isUnit q.1)

end Sys2Proof.Machine
end

