-- ==== Sys2Proof/Machine/Power.lean ====
section
/-! DEFINITION. Power states: the choice of a target, entry, wake sources and exit, the trip shutdown (R199, R207 to R216,
R365, R411, R412, R426, R470). -/

namespace Sys2Proof.Machine

/-! ## Choosing a state (R212, R215) -/

def State.powerState (s : State) : Nat := s.f F.PMU_STAT_STATE

/-- Exit latency of a state in µs (R208). -/
def exitUs (t : Nat) : Nat :=
  match t with
  | 1 => 20
  | 2 => 150
  | 3 => 1500
  | 4 => 9000
  | _ => 170000

/-- UART1 or UART2 receives in slow mode in S3 and S4: 9 bits and matching (R412).  Its slow rate is at most 2,400 baud, since a DIV
below 218 acts as 218 (R414). -/
def State.uartSlowOk (s : State) (u : Nat) : Bool := s.b (F.UART_FMT_NINE u) && s.b (F.UART_ADDR_MATCHEN u)

/-- A wake source, by its bit in PMU_REQMASK, works in a state (R215); bit 8 is WAKE. -/
def State.wakeWorks (s : State) (bit t : Nat) : Bool :=
  match bit with
  | 8 | 9 | 10 | 15 => true
  | 11 => t ≤ 2 || ((s.uart 1).slow || s.uartSlowOk 1) && t ≤ 4
  | 12 => t ≤ 2 || ((s.uart 2).slow || s.uartSlowOk 2) && t ≤ 4
  | 13 => t ≤ 4
  | 14 => s.netKeep && t ≤ 3
  | _ => false

/-- The target state. -/
def State.target (s : State) : Nat :=
  if s.req 0 then 0
  else
    let ok := fun (t : Nat) =>
      exitUs t ≤ s.f F.PMU_LATTOL_TOL && (!s.netKeep || t ≤ 3) &&
        ((List.range 16).filter fun b => 9 ≤ b ∧ s.req b).all fun b => s.wakeWorks b t
    ([5, 4, 3, 2, 1].find? ok).getD 0

/-! ## Entry (R207, R213, R216, R225, R412, R426) -/

/-- POWER_STATE (R394), and the PMU interrupt of the change. -/
def State.powerEvent (s : State) (left entered : Nat) : State :=
  (s.raise 0x0204 ([BitVec.ofNat 8 left, BitVec.ofNat 8 entered] ++ leBytes 2 (s.reg R.PMU_WAKESRC).toNat)).irqEvent 23

/-- Engine clocks stop: shadowing ends, passes in progress are abandoned, and slots publish 0 until a block after the
resume (R66, R209, R225). -/
def State.stopEngines (s : State) : State :=
  let s := s.endShadow
  let s := s.forEach ((List.range 17).filter s.inService) State.abandonPass
  let s := if s.scuState = 6 ∨ s.scuState = 9 ∨ s.scuState = 10 then s.handoverDone else s
  s.forEach (List.range 16) fun s l =>
    let s := (if (s.le l).outgoing.isSome then s.fallEnd l else s).leavingEnd l
    if (s.le l).host.isSome then s.modLe l fun x => { x with fade := .silent none, resume := true } else s

/-- Each running, unlinked domain's index and time, for its restart; then the domains stop (R210). -/
def State.napDomains (s : State) : State :=
  let t := s.tuTime
  s.forEach ((List.range 4).filter fun d => !s.linked d) fun s d =>
    let n := if s.running d then some (s.sidx d, t) else none
    (if s.running d then s.stopGroup d else s).modDom d fun x => { x with napIdx := n }

/-- A hand-over that waits for its boundary, or for its engine to enter service, is given up: its incoming engine is loaded at the
wake, and an outgoing host that has the fault runs BIST then. -/
def State.sleepHandover (s : State) : State :=
  if s.b F.SCU_PAIR_VALID ∧ (s.scuState = 5 ∨ s.scuState = 7 ∨ s.scuState = 8) then
    let l := s.pairLe
    let h := s.pairHost
    let p := s.pairPunty
    let s := if h = p ∨ (s.le l).host ≠ some h then s else s.toBist h
    ((s.leaveService p).modLe l fun x => { x with host := none, entry := .loading p }).scuIdle
  else s

/-- Slots and roles while engines are off: hosts keep their logical engines, which publish 0, and so do engines that were being
loaded (R210). -/
def State.sleepEngines (s : State) : State :=
  let s := s.stopEngines.sleepHandover
  (s.loseEngines).forEach (List.range 16) fun s l => s.modLe l fun x =>
    { x with outgoing := none, leaving := none, entry := match x.entry with
        | .loading e | .ready e => .loading e
        | _ => .none }

/-- UART1 and UART2 switch to slow mode at entry to S3 and S4. -/
def State.slowUarts (s : State) : State :=
  s.forEach [1, 2] fun s u => let ok := s.uartSlowOk u; s.modUart u fun x => { x with slow := ok }

/-- From S3 on UART0 comes up with empty queues (R411), also where PD_SYS stays on. -/
def State.emptyUart0 (s : State) : State :=
  (s.modUart 0 fun x => { Uart.init with waiting := x.waiting, discarded := x.discarded }).uartSync 0

/-- What a state switches off (R207). -/
def State.enterDomains (s : State) (t : Nat) : State :=
  if t = 1 then (if s.netKeep then s.stopEngines else s.stopEngines.loseNet)
  else if t = 2 then
    let s := ((s.stopEngines.loseAud).loseSrc).loseXmp
    if s.netKeep then s else s.loseNet
  else
    let keep := s.netKeep && t = 3
    let s := (s.napDomains.sleepEngines).loseLds
    let s := ((s.loseAud).loseSrc).loseXmp
    let s := if keep then s else s.loseNet
    if t = 5 then
      let s := { (s.loseCores).loseSys with sram := [], sramBad := [], sramSoft := [], stg := { s.stg with queue := [], recon := none } }
      { s with pmu := { s.pmu with vddMv := 800, pwrenCore := false, pwrenIo := !s.b F.PMU_CTRL_IOOFF5, supplies := false, held := none } }
    else
      let s := { s with pmu := { s.pmu with held := some (s.f F.GPIO_DIR_DIR, s.f F.GPIO_OUT_OUT) } }
      let s := s.slowUarts.loseCores
      if keep then (s.emptyUart0.acsEnable 0 false).acsEnable 1 false else s.loseSys

/-- The PMU enters a state. -/
def State.pmuEnter (s : State) (t : Nat) : State :=
  let from_ := s.powerState
  let s := (s.enterDomains t).setF F.PMU_STAT_STATE t
  let s := { s with pmu := { s.pmu with reached := t } }
  if t = 1 then s.powerEvent from_ 1 else s.irqEvent 23

/-- Before S3 and S4 firmware leaves the word that lets the ROM resume it, and its resume address, which the manual leaves open
(R211, R470; log 47). -/
def State.leaveResume (s : State) : State :=
  let (v, s) := s.free
  (s.setReg (R.AON_RET 0) 0x5245534D).setReg (R.AON_RET 1) (BitVec.ofNat 32 v)

/-- The PMU enters a state; firmware first writes any pending journal frame and its stamp (R448). -/
def State.enterState (s : State) (t : Nat) : State :=
  let s := if 2 ≤ t ∧ s.journal.wait ≠ [] then s.jWrite.jStamp else s
  (if t = 3 ∨ t = 4 then s.leaveResume else s).pmuEnter t

/-! ## Exit (R209 to R211, R470) -/

/-- Exit from S1 or S2: the engines resume at their next boundary, what the state switched off comes back, and shadow checking goes
on (R209, R225). -/
def State.dozeExit (s : State) (from_ : Nat) : State :=
  let s := s.setF F.PMU_STAT_STATE 0
  let s := if from_ = 1 then s else (s.enableAud.romXmp.discover.xipOn).reapply [0x20, 0x21, 0x22, 0x23]
  (if s.on 24 then s else (s.enableNet).reapply [0x40, 0x41]).resumeShadow

/-- The index a domain restarts at: where it would stand had it kept ticking, rounded up to a boundary of the group. -/
def State.napStart (s : State) (d idx t : Nat) : Nat :=
  let fs := s.rate d
  let step := s.blen d * ((s.group d).map s.ratio).foldl max 1
  let n := idx + (s.tuTime - t) * fs.1 / (fs.2 * 1000000000)
  (n + step - 1) / step * step

/-- A domain that ran at entry restarts; an anchored one by the trigger, once its ACS is disciplined again (R210, R333): in this
model, once it has locked (log 32). -/
def State.napRestart (s : State) (d : Nat) : State :=
  match (s.dom d).napIdx with
  | none => s
  | some (idx, t) =>
    if s.anchoring d then s.anchorStart d
    else ((s.modDom d fun x => { x with napIdx := none }).setF2 (F.RD_SSTARTL_SSTART d) (F.RD_SSTARTH_SSTART d) (s.napStart d idx t)).startDomain d false

/-- Engines come back: a host is cleared and loaded for its logical engine as an installation under R173, the punty is
cleared, and an engine that was out of service runs BIST (R210, R222, R241). -/
def State.wakeEngines (s : State) : State :=
  s.forEach (List.range 17) fun s e =>
    match (s.eng e).role with
    | .live =>
      match (List.range 16).find? fun l => (s.le l).host = some e with
      | some l =>
        let s := (s.powerEng e true).modLe l fun x => { x with host := none, resume := false }
        s.startReload l e
      | none => s
    | .punty => ((s.powerEng e true).startClear e).modEng e fun en => { en with role := .out, clearRole := true }
    | .out =>
      match (List.range 16).find? fun l => (s.le l).entry = .loading e with
      | some l => (s.powerEng e true).startReload l e
      | none => (s.powerEng e true).startBist e
    | _ => s

/-- The ROM resumes firmware with derivation closed (R470). -/
def State.romResume (s : State) : State :=
  let s := ((s.setReg (R.AON_RET 0) 0).setF F.SEC_CTRL_PGMLOCK 1).kdfBound 0xC0000000
  let pc := (s.reg (R.AON_RET 1)).toNat
  { s.setF F.SEC_CTRL_ROMDONE 1 with ccs := vmod s.ccs 0 fun c => { c with pc := pc } }

/-- A request to the PMIC that the entry cut short is made again (R205). -/
def State.avsAgain (s : State) : State :=
  if s.lehr.avs.isSome && !s.lehr.avsSettle && !s.i2c.pmic then s.pmicStart else s

/-- The receivers in slow mode return to the kernel clock; the power-up of PD_SYS has reset what does not stand in AON (R412,
R414). -/
def State.slowEnd (s : State) (wasOff : Bool) : State :=
  s.forEach [1, 2] fun s u =>
    if (s.uart u).slow then
      let x := s.uart u
      if wasOff then (s.resetUart u).modUart u fun y => { y with frame := x.frame, esc := x.esc }
      else s.modUart u fun y => { y with slow := false }
    else s

/-- Exit from S3 or S4: PD_SYS and the cores come up in ROM; firmware resumes with its settings, or a full start follows
when RESUME does not hold its value (R210, R211, R470). -/
def State.standbyExit (s : State) : State :=
  let wasOff := !s.on 21
  let s := (((s.setF F.PMU_STAT_STATE 0).setOn 19 true).setOn 20 true).setOn 21 true
  let s := { s with ccs := vmod s.ccs 1 fun c => { c with parked := true } }
  let s := (s.romClocks true).setF F.HSP_CTRL_EN 1
  if s.reg (R.AON_RET 0) ≠ 0x5245534D then { s.setF F.PMU_STAT_BUSY 1 with pmu := { s.pmu with resetReq := true } }
  else
    let s := s.slowEnd wasOff
    let s := (((((s.romResume.romXmp.discover.xipOn).enableSys).enableAud).laTrims).stgSetup).mbxRegs
    let s := s.avsAgain
    let s := if s.on 24 then s else s.enableNet
    let s := s.reapply [0x01, 0x02, 0x03, 0x20, 0x21, 0x22, 0x23, 0x40, 0x41, 0x52, 0x60]
    let s := s.forEach [0, 1] fun s b =>
      if s.b (if b = 0 then F.LDS_CTRL_HAREQ else F.LDS_CTRL_HBREQ) then s.startHalf b else s
    (s.wakeEngines.forEach (List.range 4) State.napRestart).cc1Wakes.appStart

/-- Exit from S5: the supplies are released, and a full start follows once both monitors are valid (R211, R522).  The exit lasts until
firmware starts (R208). -/
def State.hibernateExit (s : State) (cause : Nat) : State :=
  { (s.setF F.PMU_RSTCAUSE_CAUSE cause).setF F.PMU_STAT_BUSY 1 with pmu := { s.pmu with
    pwrenCore := true, pwrenIo := true, supplies := false, resetReq := true } }

/-! ## Evaluation (R213) -/

/-- The PMU re-evaluates its target, and enters S1 at once, or leaves it for S0. -/
def State.pmuEval (s : State) : State :=
  let t := s.target
  let s := s.netKeepSync.setF F.PMU_STAT_TARGET t
  if s.powerState = 0 ∧ t = 1 then s.enterState 1
  else if s.powerState = 1 ∧ t = 0 then (s.dozeExit 1).powerEvent 1 0
  else s

/-- S2 to S5 are entered only with the queue empty and no reconcile to run (R186), while WAKE is released, and once XMP, which they
switch off, has nothing to do (R432). -/
def State.mayEnter (s : State) : Bool :=
  s.powerState ≤ 1 && 2 ≤ s.f F.PMU_STAT_TARGET && !s.b F.PMU_STAT_WAKEBLK && s.stg.queue.isEmpty &&
    s.stg.recon.isNone && s.phase = 0 && !s.b F.XMP_STAT_BUSY

/-! ## Waking (R214 to R216) -/

/-- A wake source fires: recorded, and the device leaves its state. -/
def State.wake (s : State) (bit : Nat) : State :=
  let t := s.powerState
  if t = 0 ∨ s.b F.PMU_STAT_TRIPLOCK ∨ s.wakeWorks bit t = false ∨ (bit ≠ 8 ∧ s.req bit = false) ∨
      (t = 5 ∧ s.pmu.resetReq) then s
  else
    let s := s.setReg R.PMU_WAKESRC (s.reg R.PMU_WAKESRC ||| BitVec.ofNat 32 (2 ^ bit))
    if t = 5 then s.hibernateExit 5
    else
      let s := if t ≤ 2 then s.dozeExit t else s.standbyExit
      (s.powerEvent t 0).pmuEval

/-- WAKE is active: the PMU enters no state from S2 to S5 (R216). -/
def State.wakeHeld (s : State) : State := { s with pmu := { s.pmu with wakePin := true } }.setF F.PMU_STAT_WAKEBLK 1

/-! ## Meanings -/

/-- TRIP_SHUTDOWN (R199, step 3): once every running domain has ramped to 0, or 35 ms after the trip. -/
def execTripShutdown (timeout : Bool) (s : State) : Res State :=
  .next <|
    let done := ((List.range 4).filter s.running).all fun d => (s.dom (s.leader d)).tripDone || (s.dom d).tripDone
    if s.pmu.tripped = false ∨ s.b F.PMU_STAT_TRIPLOCK ∨ ¬ (done ∨ timeout) then s
    else if s.powerState ≠ 5 then (s.pmuEnter 5).setF F.PMU_STAT_TRIPLOCK 1
    -- a trip in S5: an exit that has begun stops with it
    else { s.setF F.PMU_STAT_TRIPLOCK 1 with pmu := { s.pmu with
      pwrenCore := false, pwrenIo := !s.b F.PMU_CTRL_IOOFF5, supplies := false } }

/-- PMU_EVAL (R213). -/
def execPmuEval (s : State) : Res State := .next s.pmuEval

/-- POWER_STATE_ENTRY (R213): the entry, or, when a wake source fires meanwhile, the entry as far as it has come and then the exit
from the state reached (R214). -/
def execPowerStateEntry (wake : Option (Nat × Nat)) (s : State) : Res State :=
  .next <|
    if s.mayEnter then
      let t := s.f F.PMU_STAT_TARGET
      match wake with
      | some (bit, reached) =>
        let s := if bit = 8 then s.wakeHeld else s
        if s.wakeWorks bit t && (bit = 8 || s.req bit) then (s.enterState (max 1 (min reached t))).wake bit else s.enterState t
      | none => s.enterState t
    else s

/-- WAKE_PIN (R216). -/
def execWakePin (s : State) : Res State :=
  .next (s.wakeHeld.wake 8)

/-- WAKE_RELEASE (R216). -/
def execWakeRelease (s : State) : Res State :=
  .next (({ s with pmu := { s.pmu with wakePin := false } }.setF F.PMU_STAT_WAKEBLK 0).pmuEval)

/-- WAKE_TIMER (R215): the timer fires when the count equals its compare; 0 disables it. -/
def execWakeTimer (el : Elapsed) (s : State) : Res State :=
  .next <|
    let s := s.advance el
    if s.f F.PMU_WKTIMER_CMP ≠ 0 ∧ s.f F.PMU_SLOWCNT_COUNT = s.f F.PMU_WKTIMER_CMP then s.wake 15 else s

/-- VDDIO_G is powered: by PWREN_IO, or in S5 by the board's other means (R426). -/
def State.vddioG (s : State) : Bool := s.powerState ≠ 5 || s.pmu.pwrenIo || Config.vddioGKept

/-- GPIO_WAKE (R426). -/
def execGpioWake (pin : BitVec 3) (rise : Bool) (held : Nat) (s : State) : Res State :=
  .next <|
    let k := pin.toNat
    if s.vddioG ∧ s.fbit F.GPIO_WAKE_EN k ∧ s.fbit F.GPIO_WAKE_RISE k = rise ∧ s.f F.GPIO_WAKE_WFILT ≤ held then s.wake 9
    else s

/-- UART0_START_WAKE (R411): in S3 and deeper states the character of the edge is lost. -/
def execUart0StartWake (s : State) : Res State := .next (s.wake 10)

/-- UART_ADDRESS_WAKE (R412): the character is received, and an address match wakes the device. -/
def execUartAddressWake (two : Bool) (c : UartChar) (s : State) : Res State :=
  .next <|
    let u := if two then 2 else 1
    let addr := s.uartRuns u && s.b (F.UART_FMT_NINE u) && s.b (F.UART_ADDR_MATCHEN u) &&
      (!(s.uart u).brk || s.uartQuiet u c.highFor) &&
      (s.uartRead u c).any fun r => r.stop && r.data.getLsbD 8 && s.uartMatch u (r.data.toNat % 256)
    let s := s.uartHear u c
    if addr then s.wake (10 + u) else s

/-- HSP_WAKE (R365): from S3 and S4 the frame is not received. -/
def execHspWake (s : State) : Res State := .next (s.wake 13)

/-- NETFRAME_WAKE (R345): a frame for the internal port, received while NSW is powered, goes to the receive ring and wakes the
device.  DESIGN CHOICE (log 20): its entry names port A and the present time, since the event names no port. -/
def execNetframeWake (frame : List Byte) (s : State) : Res State :=
  .next (if s.on 24 then (s.ringPut frame 0 s.tuTime).wake 14 else s)

end Sys2Proof.Machine
end

