-- ==== Sys2Proof/Machine/Boot.lean ====
section
/-! DEFINITION. Resets and starts: the mask ROM with its slots, checks, hand-over and recovery (R454 to R469), the loader
(R464), what firmware does at its start (R161, R185, R186, R217, R223, R354, R465), the watchdogs (R494, R503) and the
supplies (R217, R218, R520 to R522). -/

namespace Sys2Proof.Machine

/-! ## The ROM's words (R454) -/

def State.romMode (s : State) : Bool := !s.b F.SEC_CTRL_ROMDONE
def State.aonRet (s : State) (k : Nat) : Word := s.reg (R.AON_RET k)
def State.setAonRet (s : State) (k : Nat) (v : Word) : State := s.setReg (R.AON_RET k) v

/-- The latest failure of a source: 0 slot A, 1 slot B, 2 recovery. -/
def State.romCause (s : State) (src cause : Nat) : State :=
  s.setAonRet 4 (wordSet (s.aonRet 4) (8 * src + 7) (8 * src) cause)

/-- A slot's SKIP flag, and both cleared. -/
def State.skip (s : State) (src : Nat) : Bool := (s.aonRet 7).getLsbD src
def State.clearSkips (s : State) : State := s.setAonRet 7 (s.aonRet 7 &&& 0xFFFFFFFC)

/-- The retry (R469). -/
def State.romRetry (s : State) : State :=
  let n := min ((s.aonRet 5).toNat + 1) 0xFFFFFFFF
  ({ s with rom := ⟨false, none, false, false⟩ }.setAonRet 5 (BitVec.ofNat 32 n)).clearSkips.requestReset 6

/-! ## Sources of images (R455, R467, R468) -/

/-- The staging area, as an offset in control SRAM. -/
def stagingOff : Nat := 0x200000

/-- Bytes of slot A, slot B or the staging area. -/
def State.slotAt (s : State) (src off n : Nat) : List Byte :=
  if src = 2 then s.sramGet (stagingOff + off) n else s.regionRead (src + 1) off n

/-- A source has a valid record; on NAND only under a valid slot table (R457). -/
def State.slotOk (s : State) (src : Nat) : Bool :=
  (src == 2 || !s.nand || s.slotTable.isSome) && slotValid (s.slotAt src 0 64)

/-- Stage 1 of a source with a valid record: copied to control SRAM and checked there (R458, R459). -/
def State.stage1Check (s : State) (src : Nat) (readFails : Bool) : Nat × State :=
  if readFails then (2, s.romCause src 2)
  else
    let (o, n) := slotS1 (s.slotAt src 0 64)
    let s := s.sramSet 0 (s.slotAt src o (min n 0x20000))
    let c := s.checkImage (s.sramGet 0 (min n 0x20000)) 1 n none
    (c, if c = 0 then s else s.romCause src c)

/-! ## Hand-over and the loader (R463, R464) -/

/-- Four regions of a header, programmed into CC0's MPU from region `first` on, and locked. -/
def State.lockRegions (s : State) (h : List Byte) (first : Nat) : State :=
  s.forEach (List.range 4) fun s k =>
    let (b, l, a) := hdrRegion h k
    let n := first + k
    s.modCc 0 fun c =>
      ((c.setSr (0x80 + n) (BitVec.ofNat 32 b &&& 0xFFFFF000)).setSr (0x90 + n) (BitVec.ofNat 32 l &&& 0xFFFFF000)).setSr
        (0xA0 + n) ((BitVec.ofNat 32 a &&& 0x80000007) ||| 0x40000000)

/-- The ROM hands over to stage 1, which stands at the start of control SRAM. -/
def State.romHandOver (s : State) (src : Nat) : State :=
  let h := s.sramGet 0 256
  let s2 := (slotS2 (s.slotAt src 0 64)).1
  let s := s.lockRegions h 0
  let s := s.setAonRet 3 (BitVec.ofNat 32 (src + 2 ^ 8 * (hdrKeySlot h % 4) + 2 ^ 16 * (hdrSvn h % 256)))
  let s := s.setAonRet 6 (BitVec.ofNat 32 (if src = 2 then sramBase + stagingOff + s2
    else s.physAt (src + 1) (s.goodBlocks (src + 1)) s2))
  { s.setF F.SEC_CTRL_ROMDONE 1 with rom := ⟨false, none, false, false⟩ }

/-- The loader reads stage 2 and checks it; a failure tries the other slot, or after recovery the retry (R464). -/
def State.loader (s : State) (src : Nat) : Bool × State :=
  let h1 := s.sramGet 0 256
  let (o, n) := slotS2 (s.slotAt src 0 64)
  let img := s.slotAt src o (min n 0x100000)
  let c := s.checkImage img 2 n (some (hdrSvn h1))
  let load := hdrLoad img
  let s := if 0x10020000 ≤ load ∧ load + img.length ≤ 0x10120000 then s.sramStore load img else s
  if c ≠ 0 then
    let s := s.romCause src (0x80 + c)
    (false, if src = 2 then s.romRetry
      else (s.setAonRet 7 (s.aonRet 7 ||| BitVec.ofNat 32 (2 ^ src))).requestReset 7)
  else
    let s := (s.kdfBound (BitVec.ofNat 32 (2 ^ 31 + hdrSvn img))).lockRegions img 4
    (true, s.modCc 0 fun k => { k with pc := hdrEntry img })

/-! ## The start of firmware -/

/-- Records that firmware takes from the journal of a flash that it supports: committed ones, sealed ones only under its own SVN or
a lower one (R433, R447, R466). -/
def State.bootRecs (s : State) : List JRec :=
  if s.flash.supported = false then [] else (liveRecs (s.journal.committed.filter fun r => !recSettings r.2 || r.1 ≤ s.svn)).map (·.2)

/-- The image that a digest names in the image store (R440). -/
def State.storedImage (s : State) (d : List Byte) : Option (List Byte) :=
  if d = [] then some [] else s.flash.store.find? fun f => imgDigest f = d

/-- What the BOOT epoch restores (R161). -/
def State.bootItems (s : State) (recs : List JRec) : List Staged :=
  recs.filterMap fun
    | .param p v => some (.param p v)
    | .image l d => (s.storedImage d).map fun f => .image l (f.map some) true
    | _ => none

/-- The BOOT epoch: an item that no longer validates stays out (log 33). -/
def State.bootEpoch : Nat → State → List Staged → Epoch
  | 0, _, _ => internalEpoch 7 []
  | fuel + 1, s, l =>
    match s.validate l with
    | .ok (items, ls, freed, clocks) => { internalEpoch 7 items with lines := ls, freed := freed, clocks := clocks }
    | .error x => State.bootEpoch fuel s (l.eraseIdx (x.item.getD (l.length - 1)))

/-- Numbers after LASTAPPLIED up to LASTASSIGNED; the log keeps no more than 1,024 of them. -/
def State.lostNumbers (s : State) : List Nat :=
  let a := s.f F.AON_EPAPPLIED_E
  let b := s.f F.AON_EPASSIGN_E
  let d := epochD a b
  if epochAfter b a then (List.range (min d 1024)).map fun k => epochAdd a (d - min d 1024 + k + 1) else []

/-- A lost epoch is logged, with what its record says when it survives (R185, R186). -/
def State.logLost (s : State) (bad : List Nat) (n : Nat) : State :=
  let ns := s.tuTime
  let rec_ := (s.stg.queue.zipIdx.find? fun p => p.1.num = n ∧ p.2 ∉ bad).map (·.1)
  s.logAdd <| match rec_ with
    | some e => ⟨n, e.session, e.transport, 4, e.items.length, ns / 1000000000, ns % 1000000000, 0⟩
    | none => ⟨n, 0, 0, 4, 0, ns / 1000000000, ns % 1000000000, 0⟩

/-- Mailboxes as firmware sets them up (R355). -/
def State.mbxSetup (s : State) : State :=
  let s := s.forEach (List.range 64) fun s m => s.modMb m fun b => { b with
    reqBase := BitVec.ofNat 32 (mbxArea m), rspBase := BitVec.ofNat 32 (mbxArea m + 0x1000) }
  s.mbxRegs

/-- The cullet, FMAX and the aging references from the journal and the fuses (R223, R246, R471); FMAX never rises (R252). -/
def State.bootHealth (s : State) (recs : List JRec) : State :=
  let s := (s.setReg R.AGE_TC (s.fuseWord 59)).forEach (List.range 23) fun s i => s.setReg (R.AGE_REF i) (s.fuseWord (83 + i))
  let lower := fun (s : State) (i n : Nat) => if n ≤ s.fmax i then s.setF (F.AGE_FMAX_N i) n else s
  let s := s.forEach (List.range 17) fun s i => lower s i s.fusedFmax
  let s := s.laTrims.forEach (List.range 17) fun s e =>
    ((s.powerEng e false).modEng e fun en => { en with role := .out, cause := 0, faulted := false })
  recs.foldl (fun s r => match r with
    | .cullet e c => if c = 0 then s else s.modEng e fun en => { en with role := .cullet, cause := c }
    | .fmax i v => lower s i v
    | _ => s) s

/-- Every engine outside the cullet runs BIST, all together; the results, where they are known (R223). -/
def State.bootBist (s : State) (pass : Option (BitVec 17)) : State :=
  let es : List Eng := (List.finRange 17).filter fun e => (s.eng e.val).role ≠ .cullet
  let s := es.foldl (fun s e => (s.powerEng e true).startBist e) s
  match pass with
  | some p => es.foldl (fun s e => s.bistDone e (if p.getLsbD e then 0 else 1)) s
  | none => s

/-- Settings that AON and the time unit keep over a device reset return to their defaults; retained words keep theirs. -/
def State.bootAon (s : State) : State :=
  let s := (s.setF F.PMU_LATTOL_TOL 0).setReg R.PMU_REQMASK (regReset R.PMU_REQMASK)
  let s := ((s.setF F.PMU_CTRL_IOOFF5 0).setF F.PMU_WKTIMER_CMP 0).netKeepSync
  let s := s.setF F.TCAP_CTRL_EDGE (wordFld (regReset F.TCAP_CTRL_EDGE.addr) F.TCAP_CTRL_EDGE.hi F.TCAP_CTRL_EDGE.lo)
  let s := s.forEach [0, 1] fun s k =>
    ((((s.tpEnd k false).setF (F.TP_PERIOD_NS k) 0).setF (F.TP_WIDTH_NS k) 0).setF (F.TP_CTRL_POL k) 0)
  let kept := (List.range 48).filterMap fun k =>
    let v := s.aonRet (16 + k)
    if v = 0 then none else some (pid 0x50 0 (0x30 + k), leBytes 4 v.toNat)
  { s with params := kept }

/-- A start after a power-on, a device reset or an exit from S5: the log and the settings come from the journal, lost
numbers are logged, and the BOOT epoch follows (R161, R186, R217, R223). -/
def State.fwFresh (s : State) (pass : Option (BitVec 17)) (bad : List Nat) : State :=
  let s := s.discover.firstTable.modJ fun j => { j with
    frames := j.frames.filter (·.stamped), wait := [], sync := false, clearing := false, report := false }
  let recs := s.bootRecs
  let s := { s with
    mbx := State.reset.mbx, fw := State.reset.fw, scu := State.reset.scu, lehr := s.lehr.fresh, les := State.reset.les
    log := (recs.filterMap fun
      | JRec.log e => some e
      | _ => none) }
  let s := match s.journal.mark with
    | some m => if s.f F.AON_EPASSIGN_E = 0 then (s.setF F.AON_EPASSIGN_E m).setF F.AON_EPAPPLIED_E m else s
    | none => s
  let s := s.lostNumbers.foldl (State.logLost · bad) s
  -- the highest epoch that a host has had stays known, unless the numbers start again
  let host := if s.f F.AON_EPASSIGN_E = 0 then 0 else s.stg.lastHost
  let s := (({ s with stg := { State.reset.stg with lastHost := host } }.resetStg).stgSetup.enableSys.enableNet).enableAud
  let s := ((s.mbxSetup.bootAon).bootHealth recs).ageDue true
  let items := s.bootItems recs
  let s := s.enqueue (s.bootEpoch (items.length + 1) items)
  s.bootBist pass

/-- The number after a mailbox's generation (R348). -/
def genNext (g : Nat) : Nat := if 1023 ≤ g then 1 else g + 1

/-- Engines that hardware holds for an epoch that is armed, or for a hand-over (R186, R223). -/
def State.heldByHw (s : State) (e : Nat) : Bool :=
  (List.range 16).any (fun l => decide ((s.le l).inst = some e)) ||
    (s.b F.SCU_PAIR_VALID && s.pairPunty = e && 5 ≤ s.scuState)

/-- Firmware begins step 3 of an epoch afresh that was not yet armed when it stopped (R186): its installations let go of their
engines. -/
def State.redoStep3 (s : State) : State :=
  if s.phase = 1 then
    (s.forEach (List.range 16) fun s l => s.modLe l fun x => { x with
      inst := none, entry := if x.entry = .reload then .none else x.entry }).setPhase 0
  else s

/-- Engines that were out of service run BIST, and one that was loaded for a logical engine is loaded anew after it (R223). -/
def State.resumeBist (s : State) : State :=
  s.forEach ((s.rolesOf .out).filter fun e => s.on e ∧ s.mode e ≠ 5 ∧ s.heldByHw e = false) fun s e =>
    (s.startBist e).forEach (List.range 16) fun s l => s.modLe l fun x =>
      { x with entry := if x.entry = .ready e then .loading e else x.entry }

/-- A start after a CC0 watchdog reset: sessions close and generations advance, engines that were out of service run BIST,
and the queue goes on (R186, R223, R354). -/
def State.fwResume (s : State) (bad : List Nat) : State :=
  let s := s.forEach (List.range 64) fun s m =>
    let b := s.mb m
    let g := if b.opened then genNext b.gen else b.gen
    (s.closeSession m).modMb m fun b => { Mailbox.init with gen := g, reqN := b.reqN, rspN := b.rspN }
  -- what a UART's transport had framed and not yet queued, or had begun to receive, is lost
  let s := s.forEach [0, 1, 2] fun s u => s.modUart u fun x => { x with out := [], frame := none, esc := false }
  let s : State := { s.fwAbandon with fw := { s.fwAbandon.fw with reset := false }, lehr := { s.fwAbandon.lehr with calm := 0 } }
  -- an epoch that is armed completes in STG
  let held := if s.phase = 2 ∨ s.phase = 3 then 1 else 0
  let s := s.modStg fun x => { x with queue := x.queue.zipIdx.map fun p =>
    if held ≤ p.2 ∧ p.2 ∈ bad then p.1.lostRec else p.1 }
  ((s.redoStep3.resumeBist).laTrims.discover.ageDue true).mbxSetup

/-- Firmware starts: it clears both SKIP flags and the cause it has read (R218, R465), and has CC1 start its application. -/
def State.fwStart (s : State) (pass : Option (BitVec 17)) (bad : List Nat) : State :=
  let s := s.clearSkips
  let s := if s.f F.PMU_RSTCAUSE_CAUSE = 3 then s.fwResume bad else s.fwFresh pass bad
  ((s.setF F.PMU_RSTCAUSE_CAUSE 0).setF F.PMU_STAT_BUSY 0).appStart

/-- What a full start takes from the body of stage 2: the XIP regions of its manifest, and the CC1 application, at 0x1012_0000
(R441, R451, R465, R501). -/
def State.bodyStart (s : State) (body : List Byte) : State :=
  (s.xipRewrite.xipSetup (Config.manifest body)).sramStore 0x10120000 ((Config.ccApp body).take 0x40000)

/-- Hand-over to the loader, and to firmware when stage 2 passes; a start after a CC0 watchdog reset leaves control SRAM outside the
images, and the locked XIP regions, as they stood (R494). -/
def State.startImage (s : State) (src : Nat) (pass : Option (BitVec 17)) (bad : List Nat) : State :=
  let (o, n) := slotS2 (s.slotAt src 0 64)
  let body := (s.slotAt src o (min n 0x100000)).drop 256
  match (s.romHandOver src).loader src with
  | (true, s) =>
    if s.f F.PMU_RSTCAUSE_CAUSE = 3 then s.fwStart pass bad else (s.fwStart pass bad).bodyStart body
  | (false, s) => s

/-! ## The choice of a slot (R457 to R461) -/

/-- The ROM opens the recovery window (R468). -/
def State.openWindow (s : State) (first : Bool) : State := { s with rom := ⟨true, none, false, first⟩ }

/-- Candidates in descending order of SEQ, slot A first among equals. -/
def State.candidates (s : State) : List Nat :=
  let cs := [0, 1].filter fun k => s.slotOk k && !s.skip k
  let sq := fun (k : Nat) => slotSeq (s.slotAt k 0 64)
  if cs = [0, 1] ∧ sq 0 < sq 1 then [1, 0] else cs

/-- The first candidate whose stage 1 passes boots, with the results of BIST where they are known; when none does, the recovery
window opens. -/
def State.tryList (i : BootIn) (pass : Option (BitVec 17)) : List Nat → State → State
  | [], s => s.openWindow false
  | k :: ks, s =>
    match s.stage1Check k (if k = 0 then i.failA else i.failB) with
    | (0, s) => (s.fuseActions (s.sramGet 0 256) i.stuckFuse).startImage k pass i.badRecords
    | (_, s) => State.tryList i pass ks s
def State.trySlots (s : State) (i : BootIn) (pass : Option (BitVec 17)) : State :=
  let s := s.forEach [0, 1] fun s k => if s.slotOk k then s else s.romCause k 1
  State.tryList i pass s.candidates s

/-- CC0 starts in ROM (R454): RETIRED serves HSP only, BLANK opens the recovery window, SECURE boots. -/
def State.romStart (s : State) (i : BootIn) : State :=
  let s := { s.modCc 1 fun k => { k with parked := true } with rom := ⟨false, none, false, false⟩ }
  let s := s.modFlash fun x => { x with part := i.part }
  if s.lifecycle = 2 then s.setF F.HSP_CTRL_EN 1
  else
    let s := ((s.romClocks i.sysLocks).setF F.HSP_CTRL_EN 1).romXmp
    if s.lifecycle = 0 then s.openWindow false else if i.wake then s.openWindow true else s.trySlots i (some i.bistPass)

/-! ## Device reset -/

/-- What every device reset leaves, with PD_SYS and the cores on. -/
def State.devReset (s : State) : State :=
  let s := ((s.resetDevice.setOn 19 true).setOn 20 true).setOn 21 true
  let s := (s.setF F.PMU_STAT_STATE 0).setF F.PMU_STAT_TARGET 0
  { s with
    ccs := s.ccs.map fun _ => CtlCore.init
    pmu := { s.pmu with resetReq := false, reached := 0, held := none } }

/-- The internal reset can release: RST_N is high, the supplies are valid, and no trip locks S5 (R199, R520, R522). -/
def State.released (s : State) : Bool := s.pmu.rstN && s.pmu.supplies && !s.pmu.inReset && !s.b F.PMU_STAT_TRIPLOCK

/-- DEVICE_RESET (R454): the internal reset is released, after either reference has run (R253). -/
def execDeviceReset (i : BootIn) (s : State) : Res State :=
  .next <|
    if s.released then
      let s := s.devReset.setF F.CLK_CTRL_REFSEL (b2n i.refin)
      { s with sysLoop := { s.sysLoop with ref := i.refin } }.romStart i
    else s

/-! ## ROM mode (R467, R468) -/

/-- The ROM's reply: owed to the next READ of channel 0, and IRQ_N asserts. -/
def State.romReply (s : State) (ws : List Word) : State :=
  ((s.modHsp fun h => { h with tx := ws }).setF (F.HSP_RSPLEN_WORDS 0) ws.length).hspSync

def romStatusWord (n : Nat) : Word := BitVec.ofNat 32 n

/-- STATUS. -/
def State.romStat (s : State) : State :=
  s.romReply [0, s.reg R.SEC_STAT, s.aonRet 5, s.aonRet 4,
    BitVec.ofNat 32 (s.arbCount + 2 ^ 8 * wordFld (s.fuseWord 32) 3 0 + 2 ^ 16 * b2n s.rom.window)]

/-- BEGIN: a load into the staging area. -/
def State.romLoad (s : State) (total : Nat) : State :=
  { s with rom := { s.rom with load := some total } }.romReply [0]

/-- DATA. -/
def State.romData (s : State) (off : Nat) (ws : List Word) : State :=
  match s.rom.load with
  | none => s.romReply [romStatusWord stNotInState]
  | some total =>
    if total < off + 4 * ws.length then s.romReply [romStatusWord stRange]
    else (s.sramSet (stagingOff + off) (ws.flatMap fun w => leBytes 4 w.toNat)).romReply [0]

/-- END: the pushed image is checked as a slot of source 2; one that passes waits for its hand-over. -/
def State.romEnd (s : State) (stuck : Bool) : State :=
  if s.rom.load.isNone then s.romReply [romStatusWord stNotInState]
  else
    let s := { s with rom := { s.rom with load := none } }
    let (c, s) := if s.slotOk 2 then s.stage1Check 2 false else (1, s.romCause 2 1)
    let s := s.romReply [romStatusWord (checkStatus c), BitVec.ofNat 32 c]
    if c = 0 then { s.fuseActions (s.sramGet 0 256) stuck with rom := { s.rom with handover := true } } else s

/-- A request: a whole MSG on channel 0. -/
def State.romMessage (s : State) (ws : List Word) (stuck : Bool) : State :=
  match ws with
  | [] => s.romReply [romStatusWord stBadRequest]
  | w :: rest =>
    let op := w.toNat / 2 ^ 24
    let form := decide (w.toNat % 2 ^ 24 = 0) && (match op with
      | 1 => rest.isEmpty
      | 2 => rest.length == 1 && (rest.headD 0).toNat ≤ 2031616 && (rest.headD 0).toNat % 4 == 0
      | 3 => 2 ≤ rest.length && rest.length ≤ 257
      | 4 => rest.isEmpty
      | _ => false)
    if !form then s.romReply [romStatusWord stBadRequest]
    else if op = 1 then s.romStat
    else if s.rom.window = false ∨ s.rom.handover then s.romReply [romStatusWord stNotInState]
    else if op = 2 then s.romLoad (rest.headD 0).toNat
    else if op = 3 then s.romData (rest.headD 0).toNat (rest.drop 1)
    else s.romEnd stuck

/-- The words of a MSG frame in ROM mode; one cut short is in no valid form. -/
def State.romTake (s : State) (f : HspFrame) : State :=
  let ws := hspWords (hspLanes f.dl.toNat) f.len.toNat f.inp
  if (ws.map (·.2)).sum < 32 * f.len.toNat then s.hspPart.romReply [romStatusWord stBadRequest]
  else s.romMessage (ws.map (·.1)) false

/-- A frame of the host, to the ROM or to firmware; the READ that carried the reply to a good END ends ROM mode. -/
def State.hostFrame (s : State) (op : Nat) (f : HspFrame) : State :=
  let rom := s.romMode
  let s := s.hspFrame rom (fun s => if rom then s.romTake f else s.hspIn f) op f
  if rom && s.rom.handover && s.f (F.HSP_RSPLEN_WORDS 0) == 0 then s.startImage 2 none [] else s

/-- HSP_MSG (R359). -/
def execHspMsg (f : HspFrame) (s : State) : Res State := .next (s.hostFrame 1 f)

/-- HSP_READ (R359). -/
def execHspRead (f : HspFrame) (s : State) : Res State := .next (s.hostFrame 2 f)

/-- HSP_STATUS (R359): also a command with a reserved OP. -/
def execHspStatus (op : BitVec 4) (f : HspFrame) (s : State) : Res State :=
  .next (s.hostFrame (if op = 1 ∨ op = 2 then 3 else op.toNat) f)

/-- A ROM request that arrives whole.  Once firmware runs, the message goes to its ring like any other (R467). -/
def State.romRequest (s : State) (ch op : Nat) (words : List Word) (stuck : Bool) : State :=
  let ws := BitVec.ofNat 32 (op * 2 ^ 24) :: words
  if s.on 21 = false ∨ s.b F.HSP_CTRL_EN = false then s
  else if s.romMode = false then
    let b := s.mb ch
    if b.reqN ≤ b.req.length then s.hspBusy true
    else (s.hspBusy false).pushReq ch (ws.flatMap fun w => leBytes 4 w.toNat) 0
  else if ch ≠ 0 then (s.flag F.HSP_STAT_CMDERR).flag F.HSP_STAT_CMDEV
  else (s.romMessage ws stuck).flag F.HSP_STAT_CMDEV

/-- ROM_STATUS (R467). -/
def execRomStatus (ch : BitVec 2) (words : List Word) (s : State) : Res State :=
  .next (s.romRequest ch.toNat 1 words false)

/-- ROM_BEGIN (R467). -/
def execRomBegin (ch : BitVec 2) (words : List Word) (s : State) : Res State :=
  .next (s.romRequest ch.toNat 2 words false)

/-- ROM_DATA (R467). -/
def execRomData (ch : BitVec 2) (words : List Word) (s : State) : Res State :=
  .next (s.romRequest ch.toNat 3 words false)

/-- ROM_END (R468). -/
def execRomEnd (ch : BitVec 2) (words : List Word) (stuckFuse : Bool) (s : State) : Res State :=
  .next (s.romRequest ch.toNat 4 words stuckFuse)

/-- A start from the window, which has no operands: no read and no fuse fails (log 19), and BIST_DONE brings the results of BIST. -/
def State.cleanStart (s : State) : BootIn := ⟨false, false, true, false, false, BitVec.allOnes 17, false, [], s.flash.part⟩

/-- RECOVERY_WINDOW_CLOSE (R468, R469): 200 ms, or 1 s without a frame during a load, or 10 ms after a good END.  A window
that WAKE opened leads on to the slots; in BLANK it has no time limit, and only the load ends. -/
def execRecoveryWindowClose (csHigh idle1s : Bool) (s : State) : Res State :=
  .next <|
    if s.rom.handover then s.startImage 2 none []
    else if s.rom.window = false ∨ csHigh = false ∨ (s.rom.load.isSome ∧ idle1s = false) then s
    else if s.lifecycle ≠ 1 then { s with rom := { s.rom with load := none } }
    else if s.rom.first then { s with rom := ⟨false, none, false, false⟩ }.trySlots s.cleanStart none
    else s.romRetry

/-! ## Supplies and RST_N (R217, R218, R516, R520 to R522) -/

/-- The device is held in reset. -/
def State.holdReset (s : State) : State :=
  let s := s.resetDevice
  { s with pmu := { s.pmu with resetReq := true, held := none } }

/-- What a loss of the core supply takes with it: control SRAM with the queue; the PMIC starts again at 0.80 V (DESIGN CHOICE,
log 17). -/
def State.loseCore (s : State) : State :=
  { s with sram := [], sramBad := [], sramSoft := [], stg := { s.stg with queue := [], recon := none }, pmu := { s.pmu with vddMv := 800 } }

/-- SUPPLY_MONITOR_FAIL (R521): in S0 to S4. -/
def execSupplyMonitorFail (s : State) : Res State :=
  .next <|
    if s.powerState = 5 then s else ((s.setF F.PMU_RSTCAUSE_CAUSE 1).setAonRet 0 0).holdReset.loseCore

/-- AON, the TSU and the time unit take their reset values, and so does CLK_SLOW, which stands in AON (R276). -/
def State.aonReset (s : State) : State :=
  let s := ((s.resetBlock 0x40000000 0x10000).resetBlock 0x40070000 0x10000).resetBlock R.CLK_SLOW 4
  -- WAKE may be held meanwhile (R216)
  let s := s.setF F.PMU_STAT_WAKEBLK (b2n s.pmu.wakePin)
  { s.resetSerialAon.resetBlock 0x40020000 0x10000 with tu := State.reset.tu, lehr := State.reset.lehr }

/-- VDD_AON_LOSS (R521): the whole device resets. -/
def execVddAonLoss (s : State) : Res State :=
  .next <|
    let s := s.holdReset.loseCore.aonReset
    { s with pmu := { State.reset.pmu with rstN := s.pmu.rstN, wakePin := s.pmu.wakePin, inReset := true } }

/-- AON_POWER_ON (R520, step 1): the power-on reset ends; ALERT is low, and PWREN_CORE and PWREN_IO are released. -/
def execAonPowerOn (s : State) : Res State :=
  .next <|
    let s := s.holdReset.loseCore.aonReset
    { s with pmu := { State.reset.pmu with rstN := s.pmu.rstN, wakePin := s.pmu.wakePin } }

/-- RST_N held low long enough to act: certainly from 1 µs on, and not below 100 ns (R522, log 6 between). -/
def State.rstActs (s : State) (lowNs : Nat) : Bool × State :=
  if 1000 ≤ lowNs then (true, s)
  else if lowNs < 100 then (false, s)
  else
    let (v, s) := s.free
    (v % 2 = 1, s)

/-- RST_N (R218, R522): the device is held in reset while it is low; a release in S5 ends it, unless a trip locks it or
the supplies are already being started. -/
def execRstN (lowNs : Nat) (released : Bool) (s : State) : Res State :=
  .next <|
    let retrying := s.powerState == 5 && s.pmu.resetReq && s.pmu.rstN
    let (acts, s) := s.rstActs lowNs
    if !acts || retrying then s
    else
      let s : State := (s.setF F.PMU_RSTCAUSE_CAUSE 2).resetBlock R.PMU_CTRL 4
      let s : State := (((s.resetBlock R.PMU_LATTOL 4).resetBlock R.PMU_REQMASK 4).netKeepSync).holdReset
      let s : State := { s with pmu := { s.pmu with rstN := released } }
      if s.powerState ≠ 5 ∨ released = false then s
      else if s.b F.PMU_STAT_TRIPLOCK then s
      else s.hibernateExit 2

/-- S5_EXIT_RETRY (R522): both monitors are valid within 50 ms, or PWREN_CORE goes low for 100 ms and the start is tried
again. -/
def execS5ExitRetry (valid : Bool) (s : State) : Res State :=
  .next <|
    if s.powerState ≠ 5 ∨ s.pmu.resetReq = false ∨ s.pmu.rstN = false ∨ s.b F.PMU_STAT_TRIPLOCK then s
    else if valid then { s with pmu := { s.pmu with pwrenCore := true, supplies := true, retries := 0 } }
    else { s with pmu := { s.pmu with pwrenCore := false, retries := s.pmu.retries + 1 } }

/-! ## Watchdogs (R494, R503) -/

/-- WATCHDOG_EXPIRY (R494): CC0's watchdog resets both cores, DMA, MBX, HSP and SEC; a full start follows, which leaves
the engines and the queue as they stand. -/
def execWatchdogExpiry (i : BootIn) (s : State) : Res State :=
  .next <|
    if s.clocked 0 = false ∨ (s.cc 0).sf 0x20 31 31 = 0 then s
    else
      let s := ((s.resetCores.resetDma).resetHsp).resetSec
      ((s.resetBlock 0x40050000 0x10000).setF F.PMU_RSTCAUSE_CAUSE 3).romStart i

/-- Expiries of CC1's watchdog within the latest 60 s of S0 time. -/
def State.cc1Recent (s : State) : List Nat := (s.cc 1).expiries.filter fun t => s.s0 < t + 60000000000 * nowNs

/-- CC1_WATCHDOG_EXPIRY (R494, R503): CC1 waits in ROM, unless its doorbell is pending (R454), line 62 latches, and firmware closes
session 7. -/
def execCc1WatchdogExpiry (sinceMs : Nat) (s : State) : Res State :=
  .next <|
    if s.clocked 1 = false ∨ (s.cc 1).sf 0x20 31 31 = 0 then s
    else
      let old := if 60000 ≤ sinceMs then [] else s.cc1Recent
      let t := s.s0
      -- the latch of line 61 stands in CC1's interrupt controller, which is reset too
      let s := { s with irqs := delNat s.irqs 125 }
      let s := (s.modCc 1 fun _ => { CtlCore.init with parked := true, expiries := old ++ [t] }).irqEvent 62
      (s.closeSession 7).cc1Wakes

/-- CC1_APP_RESTART (R503): 100 ms after an expiry, unless it is the third within 60 s. -/
def execCc1AppRestart (s : State) : Res State :=
  .next <|
    if (s.cc 1).parked && (s.cc 1).expiries != [] && (s.cc 1).expiries.length < 3 && s.on 20 then s.rspBell 7 else s

end Sys2Proof.Machine
end

