-- ==== Sys2Proof/Machine/Session.lean ====
section
/-! DEFINITION. Requests of the Baost Command Protocol: their items, the checks of R375, the reply to each request and its
resend, sessions, parisons and the items staged in them (R154 to R157, R348 to R352, R373 to R380). -/

namespace Sys2Proof.Machine

/-! ## Items of a request (R376, R377) -/

/-- An item of a request: its position, type and value. -/
structure It where
  idx : Nat
  type : Nat
  val : List Byte
  deriving DecidableEq, Repr

/-- The item types. -/
def tPid : Nat := 1
def tPv : Nat := 2
def tItem : Nat := 3
def tEpoch : Nat := 4
def tTtime : Nat := 5
def tTindex : Nat := 6
def tAnchor : Nat := 7
def tOpt : Nat := 8
def tLe : Nat := 9
def tEng : Nat := 10
def tChunk : Nat := 11
def tCount : Nat := 12
def tEvmask : Nat := 13
def tSnap : Nat := 14
def tRec : Nat := 15
def tTime : Nat := 17

/-- The items of a payload as far as they lie within it, and the position of one that does not. -/
def parseItems : Nat → Nat → List Byte → List It × Option Nat
  | 0, _, _ => ([], none)
  | fuel + 1, i, bs =>
    if bs = [] then ([], none)
    else
      let n := leNat ((bs.drop 2).take 2)
      if bs.length < 4 + n then ([], some i)
      else
        let r := parseItems fuel (i + 1) (bs.drop (4 + n + (4 - n % 4) % 4))
        (⟨i, leNat (bs.take 2), (bs.drop 4).take n⟩ :: r.1, r.2)

/-- LEN suits the type; a CHUNK's offset and data are multiples of 4. -/
def It.lenOk (x : It) : Bool :=
  let n := x.val.length
  if x.type = tPv then 4 ≤ n
  else if x.type = tTtime then n = 12
  else if x.type = tTindex then n = 8
  else if x.type = tChunk then 4 ≤ n && n % 4 = 0 && leNat (x.val.take 4) % 4 = 0
  else n = 4

/-- An item type that an opcode takes, with the least and the greatest number of items. -/
abbrev Take := Nat × Nat × Nat

/-- The position of the first item at fault: a type that the opcode does not take, too many of it, or a wrong LEN. -/
def badItem (ts : List Take) : List Nat → List It → Option Nat
  | _, [] => none
  | seen, x :: xs =>
    if 0x8000 ≤ x.type then badItem ts seen xs
    else match ts.find? (·.1 = x.type) with
      | none => some x.idx
      | some t => if t.2.2 ≤ seen.count x.type || !x.lenOk then some x.idx else badItem ts (x.type :: seen) xs

/-- The items of a request that an opcode takes. -/
abbrev Ask := List It
def Ask.all (a : Ask) (t : Nat) : List It := List.filter (fun x => x.type = t) a
def Ask.one (a : Ask) (t : Nat) : Option It := List.find? (fun x => x.type = t) a
def Ask.get (a : Ask) (t : Nat) : It := (a.one t).getD ⟨0, t, []⟩

/-- The number an item holds, and the data of a PV or CHUNK after its first word. -/
def It.num (x : It) : Nat := leNat (x.val.take 4)
def It.data (x : It) : List Byte := x.val.drop 4

/-! ## Answers (R376, R378) -/

/-- A reply, and what the request does once the reply is sent (R351). -/
structure Answer where
  status : Nat
  items : List Byte
  act : State → State

def num32 (type n : Nat) : List Byte := item type (leBytes 4 n)
def answer (items : List Byte) (act : State → State) : Answer := ⟨0, items, act⟩
def refuse (status : Nat) : Answer := ⟨status, [], id⟩
def refuseAt (status : Nat) (x : It) : Answer := ⟨status, num32 tItem x.idx, id⟩

/-- The statuses of R378 that validation does not give. -/
def stBusy : Nat := 1
def stNoSession : Nat := 3
def stUnknownPid : Nat := 4
def stEpochMismatch : Nat := 6
def stLate : Nat := 9
def stStorage : Nat := 11

/-! ## Serving (R350 to R352, R375) -/

/-- The payload limit of a mailbox's transport (R375). -/
def payloadLimit (m : Nat) : Nat := if 8 ≤ m then 1456 else 4096

/-- The opcodes (R380, R383, R387, R395). -/
def bcpOpcodes : List Nat :=
  [0x00, 0x01, 0x02, 0x10, 0x11, 0x12, 0x13, 0x14, 0x15, 0x16, 0x20, 0x21, 0x22, 0x23, 0x24, 0x25, 0x30, 0x31, 0x32,
   0x40, 0x41, 0x50, 0x51, 0x52, 0x60, 0x61, 0x62, 0x70, 0x71, 0x72, 0x73, 0x74]

/-- A MAC address for a datagram: that of a UDP mailbox with the same address, otherwise what ARP gives (log 20). -/
def State.macOf (s : State) (ip : Nat) : List Byte × State :=
  match ((List.range 56).map (· + 8)).find? fun m => (s.mb m).peerAddr.toNat = ip ∧ (s.mb m).peerMac ≠ [] with
  | some m => ((s.mb m).peerMac, s)
  | none =>
    let (v, s) := s.free
    (leBytes 6 v, s)

/-- A reply goes to the session's ring, or as a datagram to a UDP peer that is not the mailbox's. -/
def State.reply (s : State) (m : Nat) (rq : Req) (bytes : List Byte) : State :=
  let b := s.mb m
  if 8 ≤ m ∧ (b.peerAddr ≠ rq.peerAddr ∨ b.peerPort ≠ rq.peerPort) then
    let (mac, s) := s.macOf rq.peerAddr.toNat
    s.sendInternal (s.udpFrame mac (beBytes 4 rq.peerAddr.toNat) rq.peerPort.toNat bytes) none none
  else s.pushRsp m bytes 0

/-- The reply to a request with its own session and sequence. -/
def State.replyTo (s : State) (op : Nat) (rq : Req) (status : Nat) (items : List Byte) : List Byte :=
  s.bcpReply op rq.session.toNat rq.seq.toNat status items

/-- Step 2: VERSION, LENGTH and the payload limit. -/
def reqForm (rq : Req) : Bool :=
  rq.version = 4 && rq.length.toNat = rq.payload.length && rq.payload.length ≤ payloadLimit rq.mbx

/-- Step 3: the session is the open one of its mailbox, from its peer (R349, R369). -/
def State.sessionOk (s : State) (rq : Req) : Bool :=
  let b := s.mb rq.mbx
  b.opened && s.session rq.mbx = rq.session.toNat &&
    (rq.mbx.val < 8 || (b.peerAddr == rq.peerAddr && b.peerPort == rq.peerPort))

/-- Steps 5 and 6, and then the opcode's own checks; `staged` allows FLAGS.STAGED (R374). -/
def reqAsk (rq : Req) (ts : List Take) (staged : Bool) (h : Ask → Answer) : Answer :=
  if rq.flags ≠ 0 ∧ !(staged && rq.flags == 1) then refuse stBadRequest
  else
    let (xs, cut) := parseItems (rq.payload.length + 1) 0 rq.payload
    match badItem ts [] xs, cut with
    | some i, _ => ⟨stBadRequest, num32 tItem i, id⟩
    | none, some i => ⟨stBadRequest, num32 tItem i, id⟩
    | none, none =>
      let a : Ask := xs.filter fun x => x.type < 0x8000
      if ts.all fun t => t.2.1 ≤ (a.all t.1).length then h a else refuse stBadRequest

/-- A ring entry that no command names: one cut short on its way (R363), shorter than a header, or of an undefined
opcode. -/
def Frame.odd (x : Frame) : Bool :=
  x.flags.testBit 0 || x.bytes.length < 16 || !bcpOpcodes.contains (x.bytes.getD 1 0).toNat

/-- A byte of a frame was received whole: of a partial last word, whose bits the TAG counts, the highest come first (R358, R363). -/
def Frame.whole (x : Frame) (i : Nat) : Bool :=
  i < x.bytes.length && (!x.flags.testBit 0 || x.tag = 0 || i / 4 + 1 < x.bytes.length / 4 || 32 - x.tag ≤ 8 * (i % 4))

/-- The request that a frame of 16 bytes or more spells, for the session checks. -/
def Frame.req (x : Frame) (m : Fin 64) (b : Mailbox) : Req :=
  { mbx := m, peerAddr := b.peerAddr, peerPort := b.peerPort, version := x.bytes.getD 0 0
    flags := BitVec.ofNat 16 (frameU16 x.bytes 2), session := BitVec.ofNat 16 (frameU16 x.bytes 4)
    seq := BitVec.ofNat 16 (frameU16 x.bytes 6), length := BitVec.ofNat 32 (leNat ((x.bytes.drop 8).take 4))
    epoch := BitVec.ofNat 32 (leNat ((x.bytes.drop 12).take 4)), payload := x.bytes.drop 16 }

/-- The reply becomes that of LASTSEQ (R350). -/
def State.served (s : State) (m : Nat) (seq : BitVec 16) (bytes : List Byte) : State :=
  s.modMb m fun b => { b with lastSeq := seq, lastReply := bytes }

/-- Steps 2 to 4 of R375, and then a served request (R350). -/
def State.checked (s : State) (op : Nat) (rq : Req) (go : State → State) : State :=
  let b := s.mb rq.mbx
  let no := fun (st : Nat) => s.reply rq.mbx rq (s.replyTo op rq st [])
  if !reqForm rq then no stBadRequest
  else if !s.sessionOk rq then no stNoSession
  else if rq.seq = b.lastSeq then s.reply rq.mbx rq b.lastReply
  else if rq.seq ≠ b.lastSeq + 1 then no stBadRequest
  else go s

/-- A served request: its reply is sent and kept, and then it takes effect (R350, R351). -/
def State.serveAnswer (s : State) (op : Nat) (rq : Req) (x : Answer) : State :=
  let bytes := s.replyTo op rq x.status x.items
  x.act ((s.served rq.mbx rq.seq bytes).reply rq.mbx rq bytes)

/-- Firmware answers the entries at the head of a ring that no command names, in their order. -/
def State.serveOdd (m : Fin 64) : Nat → State → State
  | 0, s => s
  | fuel + 1, s =>
    match (s.mb m).req with
    | x :: _ =>
      if !x.odd || (s.mb m).held ≠ [] then s
      else
        let b := x.bytes
        let s := s.modMb m fun k => { k with req := k.req.drop 1, reqTail := k.reqTail + 1 }
        let at2 := fun (o : Nat) => if x.whole o && x.whole (o + 1) then frameU16 b o else 0
        let s :=
          if x.flags.testBit 0 then
            s.pushRsp m (s.bcpReply (b.getD 1 0).toNat (at2 4) (at2 6) stBadRequest []) 0
          else if b.length < 16 then s
          else s.checked (b.getD 1 0).toNat (x.req m (s.mb m)) fun s =>
            s.serveAnswer (b.getD 1 0).toNat (x.req m (s.mb m)) (refuse stBadRequest)
        State.serveOdd m fuel s
    | [] => s

/-- The frame that a request with an opcode is (R373). -/
def reqFrame (rq : Req) (op : Nat) : List Byte :=
  [rq.version, BitVec.ofNat 8 op] ++ leBytes 2 rq.flags.toNat ++ leBytes 2 rq.session.toNat ++ leBytes 2 rq.seq.toNat ++
    leBytes 4 rq.length.toNat ++ leBytes 4 rq.epoch.toNat ++ rq.payload

/-- Firmware takes the request from its ring.  A request that is not the one at the head came by no ring, and the ring stays
(log 9). -/
def State.takeReq (s : State) (op : Nat) (rq : Req) : State :=
  s.modMb rq.mbx fun b => if (b.req.head?.map (·.bytes)) = some (reqFrame rq op) then
    { b with req := b.req.drop 1, reqTail := b.reqTail + 1 } else b

/-- A request is not taken yet: CC0 is off, in S3 and below (R211), or a reply of its session still waits for room on the response
ring (R351, R393).  It waits in its ring. -/
def State.asleep (s : State) (m : Nat) : Bool := 3 ≤ s.f F.PMU_STAT_STATE || (s.mb m).held ≠ []

/-- Firmware turns to a request: it first answers what stands before it in its ring that no command names. -/
def State.turnTo (s : State) (op : Nat) (rq : Req) (go : State → State) : State :=
  let m := rq.mbx
  if s.asleep m then s
  else
    let s := State.serveOdd m (s.mb m).req.length s
    if s.asleep m then s else go (s.takeReq op rq)

/-- A request of an open session. -/
def State.serve (s : State) (op : Nat) (rq : Req) (ts : List Take) (staged : Bool) (h : State → Ask → Answer) : State :=
  s.turnTo op rq fun s => s.checked op rq fun s => s.serveAnswer op rq (reqAsk rq ts staged (h s))

/-! ## OPEN, CLOSE and PING (R349, R380) -/

/-- The mailbox that a UDP OPEN opens: that of its peer, or the lowest free one. -/
def State.openAt (s : State) (rq : Req) : Option (Fin 64) :=
  if rq.mbx.val < 8 then some rq.mbx
  else
    let ms := (List.finRange 64).filter fun m => 8 ≤ m.val
    let s := match s.udpOf rq.peerAddr.toNat rq.peerPort.toNat with
      | some m => s.closeSession m
      | none => s
    ms.find? fun m => !(s.mb m).opened

/-- The session opens. -/
def State.openSession (s : State) (rq : Req) (m : Fin 64) : State :=
  let mac := if rq.mbx.val < 8 then ([], s) else s.macOf rq.peerAddr.toNat
  let s := mac.2
  let s := match s.udpOf rq.peerAddr.toNat rq.peerPort.toNat with
    | some k => if rq.mbx.val < 8 then s else s.closeSession k
    | none => s
  (s.closeSession m).modMb m fun b => { b with
    gen := genNext b.gen, opened := true, lastSeq := rq.seq, evMask := 0, evCount := 0, evDrops := 0, parison := []
    peerAddr := if m.val < 8 then b.peerAddr else rq.peerAddr, peerPort := if m.val < 8 then b.peerPort else rq.peerPort
    peerMac := if m.val < 8 then b.peerMac else mac.1 }

/-- OPEN (R349, R380). -/
def State.openReq (s : State) (rq : Req) : State :=
  s.turnTo 0 rq fun s =>
  let no := fun (x : Answer) => s.reply rq.mbx rq (s.replyTo 0 rq x.status x.items)
  if !reqForm rq then no (refuse stBadRequest)
  else
    let x := reqAsk rq [] false fun _ => answer (num32 tCount (payloadLimit rq.mbx)) id
    if x.status ≠ 0 then no x
    else match s.openAt rq with
      | none => no (refuse stNoSpace)
      | some m =>
        let s := s.openSession rq m
        let bytes := s.bcpReply 0 (s.session m) rq.seq.toNat 0 x.items
        (s.served m rq.seq bytes).pushRsp m bytes 0

/-- OPEN (R349). -/
def execBcpOpen (rq : Req) (s : State) : Res State := .next (s.openReq rq)

/-- CLOSE (R380): the session closes after the reply. -/
def execBcpClose (rq : Req) (s : State) : Res State :=
  .next (s.serve 0x01 rq [] false fun _ _ => answer [] fun s => s.closeSession rq.mbx)

/-- PING (R380). -/
def execBcpPing (rq : Req) (s : State) : Res State :=
  .next (s.serve 0x02 rq [] false fun s _ => answer (item tTime (timeBytes s.tuTime)) id)

/-! ## The parison (R154, R155, R379) -/

/-- The pid of a staged item (R383), its cost (R155), and its place in the parison of a mailbox. -/
def Staged.pid : Staged → Nat
  | .param p _ => p
  | .image l _ _ => Sys2Proof.Machine.pid 0x10 l 0x10
def Staged.cost : Staged → Nat
  | .param _ v => 8 + (v.length + 3) / 4 * 4
  | .image _ cells _ => cells.length
def parisonCost (l : List Staged) : Nat := (l.map Staged.cost).sum
def State.stagedAt (s : State) (m p : Nat) : Option Staged := (s.mb m).parison.find? fun x => x.pid = p

/-- An item joins a parison, last; one already staged for its pid goes (R155, R379). -/
def putStaged (l : List Staged) (x : Staged) : List Staged := l.filter (fun y => y.pid ≠ x.pid) ++ [x]

/-- The cost of every other parison. -/
def State.othersCost (s : State) (m : Nat) : Nat :=
  ((List.range 64).map fun k => if k = m then 0 else parisonCost (s.mb k).parison).sum

/-- The limits of R155. -/
def State.parisonOk (s : State) (m : Nat) (l : List Staged) : Bool :=
  parisonCost l ≤ 262144 && parisonCost l + s.othersCost m ≤ 1048576

/-- Items join a parison one after the other; the first that would exceed a limit is at fault. -/
def State.putAll (s : State) (m : Nat) : List Staged → List (It × Staged) → Except It (List Staged)
  | l, [] => .ok l
  | l, (x, y) :: rest =>
    let l' := putStaged l y
    if s.parisonOk m l' then s.putAll m l' rest else .error x

def State.setParison (s : State) (m : Nat) (l : List Staged) : State := s.modMb m fun b => { b with parison := l }

/-- The image that decides about a logical engine's members: a completed staged one, otherwise the installed one (R385). -/
def State.stagedImage (s : State) (m l : Nat) : Option (List Byte) :=
  match s.stagedAt m (pid 0x10 l 0x10) with
  | some (.image _ cells true) => if cells = [] then none else some (cells.map fun c => c.getD 0)
  | _ => none
def State.imageFor (s : State) (m l : Nat) : List Byte := (s.stagedImage m l).getD (s.le l).image

/-- The member of a pid, as staging and DESCRIBE see it. -/
def State.stagedInfo (s : State) (m p : Nat) : Option PInfo := infoOf (s.imageFor m (pidInst p)) p

end Sys2Proof.Machine
end

