-- ==== Sys2Proof/Machine/Bcp.lean ====
section
/-! DEFINITION. The opcodes of the Baost Command Protocol but for COMMIT and the firmware update: reads, staging, images and
tables, meters, health, power, the log and the journal (R154 to R158, R183, R184, R249, R380 to R389, R392, R393). -/

namespace Sys2Proof.Machine

/-- A handler that needs a logical engine, or a physical one; beyond the last it fails with RANGE (R377). -/
def withLe (a : Ask) (h : Nat → Answer) : Answer :=
  let x := a.get tLe
  if 15 < x.num then refuseAt stRange x else h x.num
def withEng (a : Ask) (h : Nat → Answer) : Answer :=
  let x := a.get tEng
  if 16 < x.num then refuseAt stRange x else h x.num

/-- An answer of several items, or that of the one at fault. -/
def collect : List (Except Answer (List Byte)) → (List Byte → Answer) → Answer
  | [], h => h []
  | .error x :: _, _ => x
  | .ok v :: rest, h => collect rest fun w => h (v ++ w)

/-- Values that must fit: the first one that goes beyond the room is at fault (R380). -/
def fitting (limit : Nat) : Nat → List (It × Except Answer (List Byte)) → List (Except Answer (List Byte))
  | _, [] => []
  | used, (x, .ok v) :: rest =>
    (if limit < used + v.length then .error (refuseAt stBadRequest x) else .ok v) :: fitting limit (used + v.length) rest
  | used, (_, .error e) :: rest => .error e :: fitting limit used rest

/-! ## Reads (R183, R184, R380, R382) -/

/-- The word of meter `member` in the latest snapshot of a logical engine: free when no engine holds one (log 6). -/
def State.meterWord (s : State) (l member k : Nat) : Nat :=
  let i := (imgMeters (s.le l).image).findIdx? (·.2 = member)
  match (s.le l).host, i with
  | some h, some i => match (s.eng h).snap[i]? with
    | some w => w.2.toNat
    | none => 0
  | _, _ => (BitVec.ofNat 32 (Config.freeValue (s.freeCtr + k))).toNat
def State.tookFree (s : State) (n : Nat) : State := { s with freeCtr := s.freeCtr + n }

/-- The applied value of a member; one that only a staged image declares reads as that image would install it (log 35). -/
def State.readPid (s : State) (im : List Byte) (p : Nat) (x : PInfo) (k : Nat) : List Byte :=
  let l := pidInst p
  if isMember p then
    if !x.rw then leBytes 4 (s.meterWord l (pidMember p) k)
    else if memberInfo (s.le l).image (pidMember p) = some x then s.cfg.val p
    else (LeCfg.init.install im).member (pidMember p)
  else if x.rw then s.cfg.val p
  else s.roBytes p

/-- One PID of a GET: its PV item (R183). -/
def State.getOne (s : State) (m : Nat) (staged : Bool) (x : It) : Except Answer (List Byte) :=
  let p := x.num
  let im := if staged then s.imageFor m (pidInst p) else (s.le (pidInst p)).image
  match infoOf im p with
  | none => .error (refuseAt stUnknownPid x)
  | some q =>
    if q.type = 9 ∨ q.type = 10 then .error (refuseAt stBadRequest x)
    else
      let v := match if staged then s.stagedAt m p else none with
        | some (.param _ v) => v
        | _ => s.readPid im p q x.idx
      .ok (item tPv (leBytes 4 p ++ v))

/-- GET (R380, R183). -/
def execBcpGet (rq : Req) (s : State) : Res State :=
  .next (s.serve 0x10 rq [(tPid, 1, 256)] true fun s a =>
    let xs := a.all tPid
    let staged := rq.flags == 1
    collect (fitting (payloadLimit rq.mbx) 4 (xs.map fun x => (x, s.getOne rq.mbx staged x)))
      fun bs => answer bs fun s => s.tookFree 65536)

/-- The name of a member: a parameter of an image has its own; the manual gives the others none (log 6). -/
def State.pidName (s : State) (im : List Byte) (p k : Nat) : List Byte :=
  match if isMember p then imgParam im (pidMember p) else none with
  | some q => (q.name ++ List.replicate 12 0).take 12
  | none => (List.range 3).flatMap fun i => leBytes 4 (Config.freeValue (s.freeCtr + 3 * k + i))

/-- A DESCRIBE record (R382). -/
def State.describe (s : State) (m : Nat) (x : It) : Except Answer (List Byte) :=
  let p := x.num
  match s.stagedInfo m p with
  | none => .error (refuseAt stUnknownPid x)
  | some q =>
    let lim := fun (v : Int) => if q.type ∈ [2, 6, 7, 8, 10] then [0, 0, 0, 0] else leBytes 4 (wrapN 32 v)
    let own := if pidClass p = 3 ∧ 0x1000 ≤ pidMember p then pid 3 0 (pidMember p - 0x1000) else p
    .ok (leBytes 4 p ++ [BitVec.ofNat 8 q.type, BitVec.ofNat 8 (b2n q.rw),
      BitVec.ofNat 8 ((s.cfg.owner own).getD 0xFF), 0] ++ lim q.min ++ lim q.max ++
      leBytes 4 (if q.type = 9 then q.size / 4 else if q.type = 10 then 262144 else q.size) ++
      s.pidName (s.imageFor m (pidInst p)) p x.idx)

/-- DESCRIBE (R382). -/
def execBcpDescribe (rq : Req) (s : State) : Res State :=
  .next (s.serve 0x16 rq [(tPid, 1, 64)] false fun s a =>
    collect (fitting (payloadLimit rq.mbx) 8 ((a.all tPid).map fun x => (x, s.describe rq.mbx x)))
      fun bs => answer (item tRec bs) fun s => s.tookFree 4096)

/-- LIST (R380): records from an index on, as many as fit. -/
def execBcpList (rq : Req) (s : State) : Res State :=
  .next (s.serve 0x15 rq [(tCount, 1, 1)] false fun s a =>
    let x := a.get tCount
    let l := (s.mb rq.mbx).parison
    if l.length < x.num then refuseAt stRange x
    else answer (item tRec (((l.drop x.num).take ((payloadLimit rq.mbx - 8) / 8)).flatMap fun y =>
      leBytes 4 y.pid ++ leBytes 4 y.cost)) id)

/-! ## Staging (R154 to R157, R380) -/

/-- One PV of a STAGE (R156, R380). -/
def State.stageOne (s : State) (m : Nat) (x : It) : Except Answer Staged :=
  match s.stagedInfo m x.num with
  | none => .error (refuseAt stUnknownPid x)
  | some q =>
    if !q.rw ∨ q.type = 9 ∨ q.type = 10 ∨ x.data.length ≠ q.size then .error (refuseAt stBadRequest x)
    else .ok (.param x.num x.data)

/-- The items of a STAGE, or the answer of the first at fault. -/
def State.stageItems (s : State) (m : Nat) : List It → Except Answer (List (It × Staged))
  | [] => .ok []
  | x :: xs => match s.stageOne m x with
    | .error e => .error e
    | .ok y => match s.stageItems m xs with
      | .error e => .error e
      | .ok l => .ok ((x, y) :: l)

/-- Staged items join the parison, or none does. -/
def State.stageAll (s : State) (m : Nat) (l : List (It × Staged)) : Answer :=
  match s.putAll m (s.mb m).parison l with
  | .error x => refuseAt stNoSpace x
  | .ok l => answer [] fun s => s.setParison m l

/-- STAGE (R380). -/
def execBcpStage (rq : Req) (s : State) : Res State :=
  .next (s.serve 0x11 rq [(tPv, 1, 256)] false fun s a =>
    match s.stageItems rq.mbx (a.all tPv) with
    | .error e => e
    | .ok l => s.stageAll rq.mbx l)

/-- UNSTAGE (R380): a pid that is not staged is passed over. -/
def execBcpUnstage (rq : Req) (s : State) : Res State :=
  .next (s.serve 0x12 rq [(tPid, 1, 256)] false fun s a =>
    let xs := a.all tPid
    match xs.find? fun x => (s.stagedAt rq.mbx x.num).isNone && (s.stagedInfo rq.mbx x.num).isNone with
    | some x => refuseAt stUnknownPid x
    | none =>
      let ps := xs.map It.num
      answer [] fun s => s.setParison rq.mbx ((s.mb rq.mbx).parison.filter fun y => y.pid ∉ ps))

/-- DISCARD (R380). -/
def execBcpDiscard (rq : Req) (s : State) : Res State :=
  .next (s.serve 0x13 rq [] false fun _ _ => answer [] fun s => s.setParison rq.mbx [])

/-! ## Images and tables (R383 to R386) -/

/-- IMGBEGIN (R384): a length of 0 stages the removal of the image. -/
def execBcpImgbegin (rq : Req) (s : State) : Res State :=
  .next (s.serve 0x20 rq [(tLe, 1, 1), (tCount, 1, 1)] false fun s a => withLe a fun l =>
    let x := a.get tCount
    let n := x.num
    if n = 0 then s.stageAll rq.mbx [(x, .image l [] true)]
    else if n < 256 ∨ 262144 < n ∨ n % 4 ≠ 0 then refuseAt stRange x
    else s.stageAll rq.mbx [(x, .image l (List.replicate n none) false)])

/-- The staged image of a logical engine, for IMGDATA and IMGEND. -/
def State.withImage (s : State) (m l : Nat) (h : List (Option Byte) → Bool → Answer) : Answer :=
  match s.stagedAt m (pid 0x10 l 0x10) with
  | some (.image _ cells ended) => h cells ended
  | _ => refuse stNotInState

/-- A staged item changes where it stands. -/
def State.restage (s : State) (m : Nat) (x : Staged) : State :=
  s.setParison m ((s.mb m).parison.map fun y => if y.pid = x.pid then x else y)

/-- Bytes written over a list from an offset. -/
def overlay {α : Type} (l : List α) (off : Nat) (v : List α) : List α := l.take off ++ v ++ l.drop (off + v.length)

/-- IMGDATA (R384). -/
def execBcpImgdata (rq : Req) (s : State) : Res State :=
  .next (s.serve 0x21 rq [(tLe, 1, 1), (tChunk, 1, 1)] false fun s a => withLe a fun l =>
    let x := a.get tChunk
    s.withImage rq.mbx l fun cells ended =>
      if cells.length < x.num + x.data.length then refuseAt stRange x
      else answer [] fun s => s.restage rq.mbx (.image l (overlay cells x.num (x.data.map some)) ended))

/-- IMGEND (R384): every byte has been written. -/
def execBcpImgend (rq : Req) (s : State) : Res State :=
  .next (s.serve 0x22 rq [(tLe, 1, 1)] false fun s a => withLe a fun l =>
    s.withImage rq.mbx l fun cells _ =>
      match cells.findIdx? Option.isNone with
      | some o => ⟨stBadRequest, num32 tCount o, id⟩
      | none => answer [] fun s => s.restage rq.mbx (.image l cells true))

/-- A read of bytes: a CHUNK with no data gives the offset, and COUNT the number. -/
def readBytes (m : Nat) (a : Ask) (bs : List Byte) : Answer :=
  let x := a.get tChunk
  let c := a.get tCount
  if x.data ≠ [] then refuseAt stBadRequest x
  else if c.num % 4 ≠ 0 then refuseAt stBadRequest c
  else if bs.length < x.num + c.num then refuseAt stRange x
  else if payloadLimit m < 12 + c.num then refuseAt stBadRequest c
  else answer (item tChunk (leBytes 4 x.num ++ (bs.drop x.num).take c.num)) id

/-- IMGREAD (R386): the golden copy of the applied image. -/
def execBcpImgread (rq : Req) (s : State) : Res State :=
  .next (s.serve 0x23 rq [(tLe, 1, 1), (tChunk, 1, 1), (tCount, 1, 1)] false fun s a => withLe a fun l =>
    let f := (s.le l).image
    if f = [] then refuse stNotInState else readBytes rq.mbx a f)

/-- TBLGET (R386): the applied value of a TABLE parameter. -/
def execBcpTblget (rq : Req) (s : State) : Res State :=
  .next (s.serve 0x24 rq [(tPid, 1, 1), (tChunk, 1, 1), (tCount, 1, 1)] false fun s a =>
    let x := a.get tPid
    match infoOf (s.le (pidInst x.num)).image x.num with
    | none => refuseAt stUnknownPid x
    | some q => if q.type ≠ 9 then refuseAt stBadRequest x else readBytes rq.mbx a (s.cfg.val x.num))

/-- A table as it will stand (R168, R386): the staged item, or the value that the queue and the parison lead to. -/
def State.tableOf (s : State) (m p size : Nat) : Bool × List Byte :=
  match s.stagedAt m p with
  | some (.param _ v) => if v.length = size then (true, v) else (false, (v ++ List.replicate size 0).take size)
  | _ =>
    let c := s.queuedCfg.lay ((s.mb m).parison.filterMap Staged.item) (s.b F.TSU_STAT_HARD)
    (false, (c.val p ++ List.replicate size 0).take size)

/-- TBLSTAGE (R386). -/
def execBcpTblstage (rq : Req) (s : State) : Res State :=
  .next (s.serve 0x25 rq [(tPid, 1, 1), (tChunk, 1, 1)] false fun s a =>
    let x := a.get tPid
    let c := a.get tChunk
    match s.stagedInfo rq.mbx x.num with
    | none => refuseAt stUnknownPid x
    | some q =>
      if q.type ≠ 9 then refuseAt stBadRequest x
      else if q.size < c.num + c.data.length then refuseAt stRange c
      else
        let (there, v) := s.tableOf rq.mbx x.num q.size
        let y : Staged := .param x.num (overlay v c.num c.data)
        if there then answer [] fun s => s.restage rq.mbx y else s.stageAll rq.mbx [(x, y)])

/-! ## Meters and events (R184, R387, R392, R393) -/

/-- One meter of METERS: a pid of the logical engine that its image declares as a meter. -/
def State.meterPv (s : State) (l : Nat) (x : It) : Except Answer (List Byte) :=
  let p := x.num
  if infoOf (s.le (pidInst p)).image p = none then .error (refuseAt stUnknownPid x)
  else if isMember p ∧ pidInst p = l ∧ (imgMeters (s.le l).image).any (·.2 = pidMember p) then
    .ok (item tPv (leBytes 4 p ++ leBytes 4 (s.meterWord l (pidMember p) x.idx)))
  else .error (refuseAt stBadRequest x)

/-- SNAP of a logical engine (R184): free when no engine holds a snapshot. -/
def State.snapItem (s : State) (l : Nat) : List Byte :=
  match (s.le l).host with
  | some h => item tSnap (leBytes 8 (s.eng h).snapIdx ++ leBytes 4 (s.eng h).snapEpoch.toNat)
  | none => item tSnap ((List.range 3).flatMap fun i => leBytes 4 (Config.freeValue (s.freeCtr + 65536 + i)))

/-- METERS (R387). -/
def execBcpMeters (rq : Req) (s : State) : Res State :=
  .next (s.serve 0x30 rq [(tLe, 1, 1), (tPid, 0, 64)] false fun s a => withLe a fun l =>
    let im := (s.le l).image
    let given := a.all tPid
    let xs := if given = [] then
        (imgMeters im).zipIdx.map fun q => (⟨q.2, tPid, leBytes 4 (pid 0x10 l q.1.2)⟩ : It)
      else given
    if im = [] then refuse stNotInState
    else collect (xs.map (s.meterPv l)) fun bs => answer (s.snapItem l ++ bs) fun s => s.tookFree 65539)

/-- SUBSCRIBE (R392): mask bits 8 to 31 are ignored. -/
def execBcpSubscribe (rq : Req) (s : State) : Res State :=
  .next (s.serve 0x31 rq [(tEvmask, 1, 1)] false fun _ a =>
    let v := BitVec.ofNat 8 (a.get tEvmask).num
    answer (num32 tEvmask v.toNat) fun s => s.modMb rq.mbx fun b => { b with evMask := v })

/-- EVSTAT (R387, R393). -/
def execBcpEvstat (rq : Req) (s : State) : Res State :=
  .next (s.serve 0x32 rq [] false fun s _ =>
    answer (num32 tCount (s.mb rq.mbx).evDrops) fun s => s.modMb rq.mbx fun b => { b with evDrops := 0 })

/-! ## Power and health (R249, R387) -/

/-- The POWERSTAT record. -/
def State.powerRec (s : State) : List Byte :=
  let flags := b2n (s.b F.TSU_STAT_SOFT) + 2 * b2n (s.b F.TSU_STAT_HARD) + 4 * b2n s.netKeep + 8 * b2n s.lehr.paused
  [BitVec.ofNat 8 (s.f F.PMU_STAT_STATE), BitVec.ofNat 8 (s.f F.PMU_STAT_TARGET), BitVec.ofNat 8 flags, 0] ++
    leBytes 2 (s.f F.LA_PEST_MW) ++ leBytes 2 s.cap ++ leBytes 2 (wrapN 16 (sext 12 (s.f F.TSU_MAX_TJ))) ++
    leBytes 2 (s.f F.LA_VDD_MV) ++ leBytes 2 ((s.reg R.PMU_WAKESRC).toNat % 65536) ++ [0, 0]

/-- POWERSTAT (R387). -/
def execBcpPowerstat (rq : Req) (s : State) : Res State :=
  .next (s.serve 0x40 rq [] false fun s _ => answer (item tRec s.powerRec) id)

/-- The LEHRSTAT record of a logical engine. -/
def State.lehrRec (s : State) (l : Nat) : List Byte :=
  let x := s.le l
  let pin := s.cfg.num (pid 0x51 0 (0x300 + l))
  let flags := b2n (x.image ≠ []) + 2 * b2n (s.ramping l) + 4 * b2n (x.muted || s.fbit F.XCH_MUTE_MUTE l)
  [l, x.tier, if x.image = [] then 0 else imgNTier x.image, s.cfg.num (pid 0x51 0 (0x200 + l)),
    if 4 ≤ pin then 0xFF else pin, s.prio l, x.clock, flags].map (BitVec.ofNat 8)

/-- LEHRSTAT (R387). -/
def execBcpLehrstat (rq : Req) (s : State) : Res State :=
  .next (s.serve 0x41 rq [] false fun s _ => answer (item tRec ((List.range 16).flatMap s.lehrRec)) id)

/-- The code of a role. -/
def Role.code : Role → Nat
  | .live => 0
  | .punty => 1
  | .reserve => 2
  | .out => 3
  | .cullet => 4

/-- The engine map record of an engine (R249): the logical engine that ENGn.MAP names. -/
def State.engRec (s : State) (e : Nat) : List Byte :=
  let en := s.eng e
  [e, en.role.code, (s.leOf e).getD 0xFF, if en.role = .punty then s.scuState else 0xFF, s.fmax e, en.cause].map (BitVec.ofNat 8) ++
    leBytes 2 en.bistTotal ++ leBytes 4 en.mismatches ++ leBytes 4 (s.f (F.ENGECC_COUNT e))

/-- ENGMAP (R249). -/
def execBcpEngmap (rq : Req) (s : State) : Res State :=
  .next (s.serve 0x50 rq [] false fun s _ => answer (item tRec ((List.range 17).flatMap s.engRec)) id)

/-- RELEASE (R223, R389): the engine is powered and runs BIST; it stays in the cullet until that passes. -/
def execBcpRelease (rq : Req) (s : State) : Res State :=
  .next (s.serve 0x51 rq [(tEng, 1, 1)] false fun s a => withEng a fun e =>
    if (List.range 17).any fun k => (s.eng k).released then refuse stBusy
    else if (s.eng e).role ≠ .cullet then refuse stNotInState
    else answer [] fun s => ((s.powerEng e true).startBist e).modEng e fun en => { en with released := true })

/-- RETIRE (R233, R243, R387): refused where the engine hosts a logical engine that no other could take. -/
def execBcpRetire (rq : Req) (s : State) : Res State :=
  .next (s.serve 0x52 rq [(tEng, 1, 1)] false fun s a => withEng a fun e =>
    if (List.range 17).any fun k => (s.eng k).retiring = 5 then refuse stBusy
    else if (s.eng e).role = .cullet ∨ ((s.eng e).role = .live ∧ s.soundEngines ≤ s.imagedLes.length) then
      refuse stNotInState
    else answer [] fun s => s.retireEngine e 5)

/-! ## The log and the journal (R185, R387, R448) -/

/-- An entry of the change log as bytes (R185). -/
def LogEntry.bytes (e : LogEntry) : List Byte :=
  leBytes 4 e.num ++ leBytes 2 e.session ++ [BitVec.ofNat 8 e.transport, BitVec.ofNat 8 e.flags] ++ leBytes 4 e.items ++
    leBytes 6 e.sec ++ leBytes 4 e.ns ++ leBytes 2 e.defers

/-- The log from an epoch on: from the oldest entry when it is gone, and none when it lies after the newest. -/
def logFrom (log : List LogEntry) (x : Nat) : List LogEntry :=
  match log.findIdx? fun e => e.num = x with
  | some i => log.drop i
  | none => if x ≠ 0 ∧ log.getLast?.any (fun e => epochAfter x e.num) then [] else log

/-- LOGREAD (R387). -/
def execBcpLogread (rq : Req) (s : State) : Res State :=
  .next (s.serve 0x60 rq [(tEpoch, 1, 1), (tCount, 1, 1)] false fun s a =>
    let n := min (a.get tCount).num ((payloadLimit rq.mbx - 8) / 24)
    answer (item tRec (((logFrom s.log (a.get tEpoch).num).take n).flatMap LogEntry.bytes)) id)

/-- JSYNC (R389, R448). -/
def execBcpJsync (rq : Req) (s : State) : Res State :=
  .next (s.serve 0x61 rq [] false fun s _ =>
    if s.journal.sync then refuse stBusy else answer [] fun s => (s.modJ fun j => { j with sync := true }).jWrite)

/-- JCLEAR (R387, R389). -/
def execBcpJclear (rq : Req) (s : State) : Res State :=
  .next (s.serve 0x62 rq [] false fun s _ =>
    if s.journal.clearing then refuse stBusy else answer [] fun s => (s.modJ fun j => { j with clearing := true }).jClear)

end Sys2Proof.Machine
end

