-- ==== Sys2Proof/Machine/CpuAlu.lean ====
section
/-! DEFINITION. The instructions of the control cores that touch no data memory: arithmetic (R477, R478), branches and
delay slots (R475, R479, R480), traps and returns (R488, R489), WAIT (R493), SYNC and ISYNC (R499), and the system
registers (R500); with fetching (R482, R495, R497). -/

namespace Sys2Proof.Machine

/-! ## MPU (R495) -/

/-- An access to an address with a permission, 0 read, 1 write, 2 execute, is allowed. -/
def CtlCore.mpuOk (k : CtlCore) (a perm : Nat) : Bool :=
  let cover := (List.range 16).filter fun n =>
    k.sf (0xA0 + n) 31 31 == 1 && decide ((k.sr (0x80 + n)).toNat ≤ a) && decide (a ≤ (k.sr (0x90 + n)).toNat + 4095)
  let allows (n : Nat) := (k.sr (0xA0 + n)).getLsbD perm
  cover.all (fun n => !k.mpuLocked n || allows n) && (k.sf 0x40 0 0 == 0 || cover.any allows)

/-! ## The instruction cache and fetching (R482, R497) -/

def lineBytes : Nat := 64
def lineBase (a : Nat) : Nat := a / lineBytes * lineBytes
/-- The lines that share a set with a line: 128 sets of 4 ways. -/
def sameSet (b : Nat) (l : CLine) : Bool := l.base / lineBytes % 128 == b / lineBytes % 128

/-- ROM, the cached alias of control SRAM and the XIP window are cacheable. -/
def cacheable (a : Nat) : Bool := a < 0x10000 || (0x10000000 ≤ a && a < 0x10400000) || (0x60000000 ≤ a && a < 0x70000000)

/-- Where a core may fetch (R482). -/
def fetchable (a : Nat) : Bool := cacheable a || (0x18000000 ≤ a && a < 0x18400000)

/-- The line that leaves a full set for a new one: the manual names no replacement policy (log 6). -/
def State.victim (s : State) (lines : List CLine) (b : Nat) : Option CLine × State :=
  let set := lines.filter (sameSet b)
  if set.length < 4 then (none, s)
  else
    let (v, s) := s.free
    (set[v % 4]?, s)

/-- The content of a line that a fetch loads; the manual does not give the ROM's content. -/
def State.codeLine (s : State) (b : Nat) : List Byte :=
  if 0x10000000 ≤ b ∧ b < 0x10400000 then s.sramGet (b - 0x10000000) lineBytes else []

/-- A line enters the instruction cache when it is on. -/
def State.icacheFill (s : State) (c a : Nat) : State :=
  let b := lineBase a
  let k := s.cc c
  if k.sf 2 0 0 = 0 ∨ cacheable a = false ∨ k.icache.any (·.base == b) then s
  else
    let (v, s) := s.victim k.icache b
    let line : CLine := ⟨b, s.codeLine b, false⟩
    s.modCc c fun k => { k with icache := line :: k.icache.filter fun l => some l ≠ v }

/-! ## Fetches from control SRAM (R25, R487) -/

/-- Words of control SRAM that a fetch reads: false once one of them is uncorrectable. -/
def State.eccWords : List Nat → State → Bool × State
  | [], s => (true, s)
  | off :: rest, s =>
    let e := s.eccAt off .clean
    let t := s.eccSeen off e
    if e = .double then (false, t) else State.eccWords rest t

/-- The words that a fetch of an address reads: the line that enters the instruction cache, or the instruction. -/
def State.fetchOffs (s : State) (c a : Nat) : List Nat :=
  match sramOff a with
  | some off =>
    if (s.cc c).sf 2 0 0 = 1 && cacheable a then
      if (s.cc c).icache.any (·.base == lineBase a) then []
      else (List.range 16).map fun i => lineBase off + 4 * i
    else [off]
  | none => []

/-- A fetch at the pc: the exception it takes, if any.  A line of the XIP window that the cache lacks is read and checked
(R444); a fetch from control SRAM meets its ECC (R25, R487). -/
def State.ccFetch (s : State) (c : Nat) : Option Exc × State :=
  let k := s.cc c
  let a := k.pc
  if a % 4 ≠ 0 then (some (excAt 1 a 0), s)
  else if fetchable a = false then (some (excAt 1 a 1), s)
  else if k.mpuOk a 2 = false then (some (excAt 3 a 5), s)
  else if 0x60000000 ≤ a ∧ (k.icache.any (·.base == lineBase a)) = false then
    let old := s.resp
    let integ := s.b F.XMP_STAT_INTEG
    let s1 := s.xipRead (a - 0x60000000) 4
    let kind := if s1.b F.XMP_STAT_INTEG && !integ then 4 else if s.on 25 then 1 else 2
    if s1.resp.err then (some (excAt 1 a kind), { s1 with resp := old }) else (none, { s1 with resp := old }.icacheFill c a)
  else
    match State.eccWords (s.fetchOffs c a) s with
    | (false, s) => (some (excAt 1 a 3), s)
    | (true, s) => (none, s.icacheFill c a)

/-! ## Issue -/

/-- The instruction at the pc is fetched, and the results that are due land; or its fetch takes an exception. -/
def State.ccStart (s : State) (c : Nat) : Bool × State :=
  match s.ccFetch c with
  | (some e, s) => (false, s.raiseCc c e)
  | (none, s) => (true, s.landTick c)

/-- A core may issue: while it runs; in WAIT only once a line that is enabled
and above CPL is pending, which is taken first when IE is 1 (R493). -/
def State.ccReady (s : State) (c : Nat) : Bool × State :=
  let k := s.cc c
  if !s.coreRuns c then (false, s)
  else if k.waiting then
    match s.bestLine c with
    | none => (false, s)
    | some n =>
      (if k.ie && !k.exl && !k.wexl then s.enterIrq c n else s.modCc c fun k => { k with waiting := false }).ccStart c
  else s.ccStart c

/-- A core issues an instruction, with its effect. -/
def State.ccIssue (s : State) (c : Nat) (body : State → State) : State :=
  match s.ccReady c with
  | (true, s) => body s
  | (false, s) => s

/-- The same for an instruction that stores. -/
def State.ccIssueR (s : State) (c : Nat) (body : State → Res State) : Res State :=
  match s.ccReady c with
  | (true, s) => body s
  | (false, s) => .next s

/-- The instruction ends: the pc moves on, or the transfer of the branch before it takes effect, with a CALL's window
(R480). -/
def State.ccNext (s : State) (c : Nat) : State :=
  s.modCc c fun k =>
    match k.slot with
    | some sl =>
      let k1 := if sl.call then k.setWin (k.wbase + 1) (k.wres + 1) else k
      { k1 with pc := sl.target, slot := none }
    | none => { k with pc := (k.pc + 4) % 2 ^ 32 }

/-- A branch: its delay slot comes next. -/
def State.ccBranch (s : State) (c target : Nat) (call ret : Bool) : State :=
  s.modCc c fun k => { k with slot := some ⟨k.pc, target % 2 ^ 32, call, ret⟩, pc := (k.pc + 4) % 2 ^ 32 }

/-- An instruction that may not stand in a delay slot (R480). -/
def State.noSlot (s : State) (c : Nat) (body : State → State) : State :=
  s.ccIssue c fun s => if (s.cc c).slot.isSome then s.raiseCc c (exc 5) else body s

/-- An instruction of format R or I: it writes a register and moves on. -/
def State.ccAlu (s : State) (c : Nat) (rd : BitVec 5) (dist : Nat) (v : State → Word) : State :=
  s.ccIssue c fun s => (s.wr c rd (v s) dist).ccNext c
def State.ccAluR (s : State) (c : Nat) (o : RegOp) (dist : Nat) (g : Word → Word → Word) : State :=
  s.ccAlu c o.rd dist fun s => g (s.rd c o.ra) (s.rd c o.rb)
def State.ccAluI (s : State) (c : Nat) (o : ImmOp) (g : Word → BitVec 16 → Word) : State :=
  s.ccAlu c o.rd 1 fun s => g (s.rd c o.ra) o.imm

/-! ## Arithmetic (R477, R478) -/

/-- CC_ADD (R478). -/
def execCcAdd (c : Core) (o : RegOp) (s : State) : Res State := .next (s.ccAluR c o 1 fun a b => a + b)

/-- CC_SUB (R478). -/
def execCcSub (c : Core) (o : RegOp) (s : State) : Res State := .next (s.ccAluR c o 1 fun a b => a - b)

/-- CC_AND (R477). -/
def execCcAnd (c : Core) (o : RegOp) (s : State) : Res State := .next (s.ccAluR c o 1 fun a b => a &&& b)

/-- CC_OR (R477). -/
def execCcOr (c : Core) (o : RegOp) (s : State) : Res State := .next (s.ccAluR c o 1 fun a b => a ||| b)

/-- CC_XOR (R477). -/
def execCcXor (c : Core) (o : RegOp) (s : State) : Res State := .next (s.ccAluR c o 1 fun a b => a ^^^ b)

/-- A shift by a register.  The manual states no result for an amount of 32 or more: an open value (log 6). -/
def State.ccShift (s : State) (c : Nat) (o : RegOp) (g : Word → Nat → Word) : State :=
  s.ccIssue c fun s =>
    let n := (s.rd c o.rb).toNat
    if n < 32 then (s.wr c o.rd (g (s.rd c o.ra) n) 1).ccNext c
    else
      let (v, s) := s.free
      (s.wr c o.rd (BitVec.ofNat 32 v) 1).ccNext c

/-- CC_SHL (R477). -/
def execCcShl (c : Core) (o : RegOp) (s : State) : Res State := .next (s.ccShift c o fun a n => a <<< n)

/-- CC_SHR (R477). -/
def execCcShr (c : Core) (o : RegOp) (s : State) : Res State := .next (s.ccShift c o fun a n => a >>> n)

/-- CC_ASR (R477). -/
def execCcAsr (c : Core) (o : RegOp) (s : State) : Res State := .next (s.ccShift c o fun a n => a.sshiftRight n)

/-- CC_SLT (R477). -/
def execCcSlt (c : Core) (o : RegOp) (s : State) : Res State := .next (s.ccAluR c o 1 fun a b => if a.slt b then 1 else 0)

/-- CC_SLTU (R477). -/
def execCcSltu (c : Core) (o : RegOp) (s : State) : Res State := .next (s.ccAluR c o 1 fun a b => if a.ult b then 1 else 0)

/-- CC_MUL (R478). -/
def execCcMul (c : Core) (o : RegOp) (s : State) : Res State := .next (s.ccAluR c o 3 fun a b => a * b)

/-- The high 32 bits of a signed and of an unsigned product. -/
def mulHigh (a b : Int) : Word := BitVec.ofInt 32 (a * b / 2 ^ 32)

/-- CC_MULH (R478). -/
def execCcMulh (c : Core) (o : RegOp) (s : State) : Res State := .next (s.ccAluR c o 3 fun a b => mulHigh a.toInt b.toInt)

/-- CC_MULHU (R478). -/
def execCcMulhu (c : Core) (o : RegOp) (s : State) : Res State := .next (s.ccAluR c o 3 fun a b => mulHigh a.toNat b.toNat)

/-- Division and remainder: by zero the quotient is all ones and the remainder the dividend. -/
def divS (a b : Word) : Word := if b = 0 then 0xFFFFFFFF else BitVec.ofInt 32 (a.toInt.tdiv b.toInt)
def remS (a b : Word) : Word := if b = 0 then a else BitVec.ofInt 32 (a.toInt.tmod b.toInt)
def divU (a b : Word) : Word := if b = 0 then 0xFFFFFFFF else a / b
def remU (a b : Word) : Word := if b = 0 then a else a % b

/-- CC_DIV (R478). -/
def execCcDiv (c : Core) (o : RegOp) (s : State) : Res State := .next (s.ccAluR c o 18 fun a b => divS a b)

/-- CC_DIVU (R478). -/
def execCcDivu (c : Core) (o : RegOp) (s : State) : Res State := .next (s.ccAluR c o 18 fun a b => divU a b)

/-- CC_REM (R478). -/
def execCcRem (c : Core) (o : RegOp) (s : State) : Res State := .next (s.ccAluR c o 18 fun a b => remS a b)

/-- CC_REMU (R478). -/
def execCcRemu (c : Core) (o : RegOp) (s : State) : Res State := .next (s.ccAluR c o 18 fun a b => remU a b)

/-- CC_ADDI (R477). -/
def execCcAddi (c : Core) (o : ImmOp) (s : State) : Res State := .next (s.ccAluI c o fun a i => a + i.signExtend 32)

/-- CC_SLTI (R477). -/
def execCcSlti (c : Core) (o : ImmOp) (s : State) : Res State := .next (s.ccAluI c o fun a i => if a.slt (i.signExtend 32) then 1 else 0)

/-- CC_ANDI (R477). -/
def execCcAndi (c : Core) (o : ImmOp) (s : State) : Res State := .next (s.ccAluI c o fun a i => a &&& i.zeroExtend 32)

/-- CC_ORI (R477). -/
def execCcOri (c : Core) (o : ImmOp) (s : State) : Res State := .next (s.ccAluI c o fun a i => a ||| i.zeroExtend 32)

/-- CC_XORI (R477). -/
def execCcXori (c : Core) (o : ImmOp) (s : State) : Res State := .next (s.ccAluI c o fun a i => a ^^^ i.zeroExtend 32)

/-- CC_SHLI (R477). -/
def execCcShli (c : Core) (o : ImmOp) (s : State) : Res State := .next (s.ccAluI c o fun a i => a <<< (i.toNat % 32))

/-- CC_SHRI (R477). -/
def execCcShri (c : Core) (o : ImmOp) (s : State) : Res State := .next (s.ccAluI c o fun a i => a >>> (i.toNat % 32))

/-- CC_ASRI (R477). -/
def execCcAsri (c : Core) (o : ImmOp) (s : State) : Res State := .next (s.ccAluI c o fun a i => a.sshiftRight (i.toNat % 32))

/-- CC_LUI (R477). -/
def execCcLui (c : Core) (o : ImmOp) (s : State) : Res State := .next (s.ccAluI c o fun _ i => i.zeroExtend 32 <<< 16)

/-! ## Branches (R475, R479, R480) -/

/-- The condition of a branch; none for a reserved code. -/
def ccHolds (cc : BitVec 3) (a b : Word) : Option Bool :=
  match cc.toNat with
  | 0 => some (a == b)
  | 1 => some (a != b)
  | 2 => some (a.slt b)
  | 3 => some (!a.slt b)
  | 4 => some (a.ult b)
  | 5 => some (!a.ult b)
  | _ => none

/-- The address of the instruction plus 4 × OFF. -/
def relTarget (pc : Nat) (off : Int) : Nat := (((pc : Int) + 4 * off) % (2 ^ 32 : Int)).toNat

/-- A conditional branch on two words. -/
def State.condBranch (s : State) (c : Nat) (cc : BitVec 3) (off : BitVec 13) (a b : State → Word) : State :=
  s.noSlot c fun s =>
    match ccHolds cc (a s) (b s) with
    | some t => s.ccBranch c (if t then relTarget (s.cc c).pc off.toInt else (s.cc c).pc + 8) false false
    | none => s.raiseCc c (exc 5)

/-- CC_CB (R479). -/
def execCcCb (c : Core) (o : BrOp) (s : State) : Res State :=
  .next (s.condBranch c o.cc o.off (fun s => s.rd c o.ra) fun s => s.rd c o.rb)

/-- CC_CBI (R479): IMM5 is sign-extended, but for LTU and GEU. -/
def execCcCbi (c : Core) (o : BrOp) (s : State) : Res State :=
  .next (s.condBranch c o.cc o.off (fun s => s.rd c o.ra) fun _ =>
    if o.cc.toNat < 4 then o.rb.signExtend 32 else o.rb.zeroExtend 32)

/-- CC_J (R479). -/
def execCcJ (c : Core) (off : BitVec 26) (s : State) : Res State :=
  .next (s.noSlot c fun s => s.ccBranch c (relTarget (s.cc c).pc off.toInt) false false)

/-- A call to a target: the window overflow trap at eight frames; otherwise the return address goes to the callee's w15. -/
def State.callTo (s : State) (c target : Nat) : State :=
  let k := s.cc c
  if k.wres = 8 then s.windowTrap c 7
  else (s.result c (.reg (frameReg (k.wbase + 1) 15)) (BitVec.ofNat 32 (k.pc + 8)) 1).ccBranch c target true false

/-- CC_CALL (R475, R479). -/
def execCcCall (c : Core) (off : BitVec 26) (s : State) : Res State :=
  .next (s.noSlot c fun s => s.callTo c (relTarget (s.cc c).pc off.toInt))

/-- CC_CALLR (R475, R479). -/
def execCcCallr (c : Core) (ra : BitVec 5) (s : State) : Res State :=
  .next (s.noSlot c fun s => s.callTo c (s.rd c ra).toNat)

/-- CC_RET (R475, R479, R480): the window moves back before the delay slot. -/
def execCcRet (c : Core) (s : State) : Res State :=
  .next (s.noSlot c fun s =>
    let k := s.cc c
    if k.wres = 1 then s.windowTrap c 8
    else
      (s.modCc c fun k => k.setWin (k.wbase + 7) (k.wres - 1)).ccBranch c (k.get (frameReg k.wbase 15)).toNat false true)

/-! ## Traps, returns and waiting -/

/-- CC_TRAP (R487). -/
def execCcTrap (c : Core) (o : ImmOp) (s : State) : Res State :=
  .next (s.ccIssue c fun s => s.raiseCc c ⟨6, some (o.imm.toNat % 256), none⟩)

/-- CC_ERET (R488). -/
def execCcEret (c : Core) (s : State) : Res State :=
  .next (s.noSlot c fun s => s.modCc c fun k =>
    { ((k.setSf 1 31 31 (k.sf 5 31 31)).setSf 1 26 24 (k.sf 5 26 24)).setSf 1 30 30 0 with pc := (k.sr 4).toNat })

/-- CC_WERET (R489). -/
def execCcWeret (c : Core) (s : State) : Res State :=
  .next (s.noSlot c fun s => s.modCc c fun k => { k.setSf 1 29 29 0 with pc := (k.sr 7).toNat })

/-- CC_WAIT (R493). -/
def execCcWait (c : Core) (s : State) : Res State :=
  .next (s.ccIssue c fun s => (s.ccNext c).modCc c fun k => { k with waiting := true })

/-- CC_SYNC (R499): every access of the model has completed when its command ends. -/
def execCcSync (c : Core) (s : State) : Res State := .next (s.ccIssue c fun s => s.ccNext c)

/-- Every earlier MTS completes (R499). -/
def State.landSys (s : State) (c : Nat) : State :=
  State.landDue c [] ((s.cc c).pend.map fun p => match p.dest with
    | .sys _ => { p with left := 0 }
    | .reg _ => p) s

/-- CC_ISYNC (R499). -/
def execCcIsync (c : Core) (s : State) : Res State := .next (s.ccIssue c fun s => (s.landSys c).ccNext c)

/-- CC_ILLEGAL_INSTRUCTION (R477). -/
def execCcIllegalInstruction (c : Core) (_w : Word) (s : State) : Res State :=
  .next (s.ccIssue c fun s => s.raiseCc c (exc 5))

/-! ## System registers (R500) -/

/-- The cycle counter: the manual ties it to a clock that commands do not count (log 6).  A read of CYCLEL latches
CYCLEH. -/
def State.cycles (s : State) (c : Nat) : Word × State :=
  let (v, s) := s.free
  (BitVec.ofNat 32 v, s.modCc c fun k => { k with cycleH := BitVec.ofNat 32 (v / 2 ^ 32) })

/-- A read of a system register; `hw` corrected words and uncorrectable reads are counted in the cycle of a read of ECCCNT
(R8).  EPC and WEPC read 0 in bits [1:0]. -/
def State.sysRd (s : State) (c n : Nat) (hw : Nat × Nat) : Word × State :=
  let k := s.cc c
  if n = 0 then (BitVec.ofNat 32 c, s)
  else if n = 0xB then (s.eccAddr, s)
  else if n = 0xC then (s.eccCnt, { s with eccCnt := eccUncPlus (eccPlus 0 hw.1) hw.2 })
  else if n = 0x12 then (s.pendWord c 0, s)
  else if n = 0x13 then (s.pendWord c 1, s)
  else if n = 0x22 then s.cycles c
  else if n = 0x23 then (k.cycleH, s)
  else if n = 4 ∨ n = 7 then (k.sr n &&& 0xFFFFFFFC, s)
  else (k.sr n, s)

/-- A read of a system register into RD. -/
def State.mfs (s : State) (c : Nat) (rd : BitVec 5) (n : Nat) (hw : Nat × Nat) : State :=
  s.ccIssue c fun s =>
    if (sysRow n).isNone then s.raiseCc c (exc 5)
    else
      let (v, s) := s.sysRd c n hw
      (s.wr c rd v 1).ccNext c

/-- CC_MFS (R500). -/
def execCcMfs (c : Core) (o : ImmOp) (s : State) : Res State := .next (s.mfs c o.rd o.imm.toNat (0, 0))

/-- CC_MTS (R500): RA goes to the system register; a 1 for a reserved bit has no defined effect (R5). -/
def execCcMts (c : Core) (o : ImmOp) (s : State) : Res State :=
  s.ccIssueR c fun s =>
    let n := o.imm.toNat
    match sysRow n with
    | none => .next (s.raiseCc c (exc 5))
    | some r =>
      if (s.rd c o.ra).toNat &&& (0xFFFFFFFF - r.2.2.2) ≠ 0 then .fault (.reservedBitWritten n)
      else .next ((s.result c (.sys n) (s.rd c o.ra) 3).ccNext c)

/-- CYCLE_COUNTER_READ (R500): MFS of CYCLEL. -/
def execCycleCounterRead (c : Core) (rd : BitVec 5) (s : State) : Res State := .next (s.mfs c rd 0x22 (0, 0))

/-- ECCCNT_READ (R500, R8): MFS of ECCCNT. -/
def execEcccntRead (c : Core) (rd : BitVec 5) (hwCorr hwUnc : Nat) (s : State) : Res State :=
  .next (s.mfs c rd 0xC (hwCorr, hwUnc))

/-- WDKICK_WRITE (R494). -/
def execWdkickWrite (c : Core) (data : Word) (s : State) : Res State :=
  if data.toNat ≥ 65536 then .fault (.reservedBitWritten 0x21) else .next (s.sysWrite c 0x21 data)

/-- WATCHDOG_WARN (R494). -/
def execWatchdogWarn (c : Core) (s : State) : Res State :=
  .next (if s.clocked c && (s.cc c).sf 0x20 31 31 == 1 then s.modCc c fun k => k.setSf 0x20 30 30 1 else s)

/-- MPU_REGION_LOCK (R496). -/
def execMpuRegionLock (c : Core) (n : BitVec 4) (s : State) : Res State :=
  .next (s.modCc c fun k => k.setSf (0xA0 + n.toNat) 30 30 1)

end Sys2Proof.Machine
end

