-- ==== Sys2Proof/Machine/Map.lean ====
section
/-! DEFINITION. The crossbar as its initiators see it: the memory map and bus errors (R18, R19, R23 to R33), control SRAM
with its ECC and the mailbox control blocks (R25, R355 to R357), engine windows (R28 to R31), the LDS (R27), and reads of
the peripheral registers with what each of them does (R6 and the register rules of the blocks). -/

namespace Sys2Proof.Machine

/-! ## Parts of words -/

/-- The `width` bytes of a word at a byte offset, as a number; and the word with those bytes replaced. -/
def wordPart (w : Word) (off width : Nat) : Nat := w.toNat / 256 ^ (off % 4) % 256 ^ width
def wordMerge (w : Word) (off width v : Nat) : Word :=
  BitVec.ofNat 32 (w.toNat - wordPart w off width * 256 ^ (off % 4) + v % 256 ^ width * 256 ^ (off % 4))

/-! ## The map (R18, R19, R23, R32) -/

/-- The power domain of a peripheral block is on; AON, TU and TSU are always reachable (R33). -/
def State.blockOn (s : State) (n : Nat) : Bool :=
  let k := (n - 0x40000000) / 0x10000
  if k = 0 ∨ k = 2 ∨ k = 7 then true
  else if k = 0xF then s.on 16
  else if k = 0x16 then s.on ((n - 0x40160000) / 0x1000)
  else if k = 0x10 ∨ k = 0x11 ∨ k = 0x12 then s.on 22
  else if k = 0x13 then s.on 23
  else if k = 0x14 ∨ k = 0x15 then s.on 24
  else if k = 9 then s.on 25
  else s.on 21

def isCore (w : Initiator) : Bool := w == .cc0 || w == .cc1

/-- The kind of bus error that an access meets before it has any effect, as ESTAT.FKIND numbers it (R19, R500): 0 width or
alignment, 1 unassigned or read-only, 2 a domain that is off or the access gate. -/
def State.busKind (s : State) (a : Access) : Option Nat :=
  let n := a.addr.toNat
  let bad := !(a.width == 1 || a.width == 2 || a.width == 4) || n % a.width != 0
  let wide := isCore a.who || a.who == .dma
  if (sramOff n).isSome then if bad then some 0 else if s.on 21 then none else some 2
  else if !wide then some 1
  else if n < 0x10000 then if bad then some 0 else if a.write || !isCore a.who then some 1 else none
  else if 0x20000000 ≤ n ∧ n < 0x21100000 then
    let e := (n - 0x20000000) / 0x100000
    let off := n % 0x100000
    if bad then some 0
    else if 0x28000 ≤ off ∧ off < 0x80000 then some 1
    else if s.on e = false ∨ (a.write ∧ s.b (F.ENG_CTRL_HOSTACC e) = false) then some 2 else none
  else if 0x30000000 ≤ n ∧ n < 0x30800000 then
    if bad then some 0 else if s.on (17 + (n - 0x30000000) / 0x400000) then none else some 2
  else if 0x40000000 ≤ n ∧ n < 0x50000000 then
    if a.width ≠ 4 ∨ n % 4 ≠ 0 then some 0
    else if (regRow n).isNone then some 1
    else if s.blockOn n then none else some 2
  else if 0x60000000 ≤ n ∧ n < 0x70000000 then if bad then some 0 else if a.write then some 1 else none
  else some 1

/-! ## Control SRAM (R25, R355 to R357) -/

/-- The mailbox whose control block holds a byte offset of control SRAM, with the offset in the block (R355). -/
def State.mbxBlock (s : State) (off : Nat) : Option (Nat × Nat) :=
  let base := (s.reg R.MBX_BASE).toNat
  if sramBase ≤ base ∧ base - sramBase ≤ off ∧ off < base - sramBase + 4096 then
    some ((off - (base - sramBase)) / 64, (off - (base - sramBase)) % 64)
  else none

/-- A word of a control block, as firmware keeps it (R355). -/
def State.mbxWord (s : State) (m o : Nat) : Word :=
  let b := s.mb m
  if o = 0 then b.reqBase
  else if o = 4 then BitVec.ofNat 32 (b.reqN % 65536)
  else if o = 8 then b.reqHead
  else if o = 12 then b.reqTail
  else if o = 16 then b.rspBase
  else if o = 20 then BitVec.ofNat 32 (b.rspN % 65536)
  else if o = 24 then b.rspHead
  else if o = 28 then b.rspTail
  else if o = 32 then
    if b.opened then BitVec.ofNat 32 (s.session m + 2 ^ 16 + mbxTransport m * 2 ^ 24)
    else BitVec.ofNat 32 (mbxTransport m * 2 ^ 24)
  else if o = 36 then b.peerAddr
  else if o = 40 then b.peerPort.setWidth 32
  else if o = 44 then b.lastSeq.setWidth 32
  else 0

/-- The word of control SRAM at a multiple of 4. -/
def State.sramWord (s : State) (off : Nat) : Word :=
  match s.mbxBlock off with
  | some (m, o) => s.mbxWord m o
  | none => BitVec.ofNat 32 (leNat (s.sramGet off 4))

/-- The frame that a producer left in memory: a ring entry with its buffer (R356). -/
def State.ringFrame (s : State) (at_ : Nat) : Frame × State :=
  let (e, s) := s.sramLoad at_ 12
  let (bytes, s) := s.sramLoad (leNat (e.take 4)) (min (leNat ((e.drop 4).take 4)) 65536)
  (⟨bytes, leNat ((e.drop 8).take 2), leNat ((e.drop 10).take 2)⟩, s)

/-- The frames of n entries of a ring from an index on. -/
def State.ringFrames (base dep : Nat) : Nat → Nat → State → List Frame × State
  | 0, _, s => ([], s)
  | n + 1, i, s =>
    let (f, s) := s.ringFrame (base + 16 * (i % max dep 1))
    let (fs, s) := State.ringFrames base dep n (i + 1) s
    (f :: fs, s)

/-- A write of a word of a control block (R355).  A producer that moves a HEAD adds the frames that stand in its ring; a consumer
that moves a TAIL takes entries out of it; every other field takes the value, but for TRANSPORT, which the mailbox fixes
(R347). -/
def State.mbxWrite (s : State) (m o : Nat) (v : Word) : State :=
  let b := s.mb m
  if o = 0 then s.modMb m fun b => { b with reqBase := v }
  else if o = 4 then s.modMb m fun b => { b with reqN := v.toNat % 65536 }
  else if o = 8 then
    let n := min (v - b.reqHead).toNat (b.reqN - b.req.length)
    let (fs, s) := State.ringFrames b.reqBase.toNat b.reqN n b.reqHead.toNat s
    s.modMb m fun b => { b with req := b.req ++ fs, reqHead := v }
  else if o = 12 then s.modMb m fun b => { b with req := b.req.drop (v - b.reqTail).toNat, reqTail := v }
  else if o = 16 then s.modMb m fun b => { b with rspBase := v }
  else if o = 20 then s.modMb m fun b => { b with rspN := v.toNat % 65536 }
  else if o = 24 then
    let n := min (v - b.rspHead).toNat (b.rspN - b.rsp.length)
    let (fs, s) := State.ringFrames b.rspBase.toNat b.rspN n b.rspHead.toNat s
    s.modMb m fun b => { b with rsp := b.rsp ++ fs, rspHead := v }
  else if o = 28 then s.rspTaken m (v - b.rspTail).toNat
  else if o = 32 then s.modMb m fun b => { b with gen := v.toNat / 64 % 1024, opened := v.getLsbD 16 }
  else if o = 36 then s.modMb m fun b => { b with peerAddr := v }
  else if o = 40 then s.modMb m fun b => { b with peerPort := v.setWidth 16 }
  else if o = 44 then s.modMb m fun b => { b with lastSeq := v.setWidth 16 }
  else s

/-- A write of a doorbell word (R357): any write in the word's place counts. -/
def State.bellWrite (s : State) (off : Nat) : State :=
  if 0x3FF000 ≤ off ∧ off < 0x3FF100 then
    let m := (off - 0x3FF000) / 4
    s.setFbit (F.MBX_REQPEND_PEND (m / 32)) (m % 32) true
  else if 0x3FF100 ≤ off ∧ off < 0x3FF200 then s.rspBell ((off - 0x3FF100) / 4)
  else s

/-- A read and a write of control SRAM.  A byte or halfword write reads the whole word under ECC first (R25).  An error that
a whole-word write names stands in the word after it (DESIGN CHOICE, log 8: no command of its own upsets a word). -/
def State.sramRead (s : State) (off width : Nat) (e : EccSeen) : State :=
  let seen := s.eccAt off e
  let t := s.eccSeen off seen
  match seen with
  | .double => t.busErr
  | _ => t.ret (BitVec.ofNat 32 (wordPart (s.sramWord (off / 4 * 4)) off width))
def State.sramUpset (s : State) (off : Nat) (e : EccSeen) : State :=
  match e with
  | .clean => s
  | .single => { s with sramSoft := addNat s.sramSoft (off / 4) }
  | .double => { s with sramBad := addNat s.sramBad (off / 4) }
def State.sramWrite (s : State) (off width : Nat) (data : Word) (e : EccSeen) : State :=
  let seen := if width = 4 then .clean else s.eccAt off e
  let t := s.eccSeen off seen
  match seen with
  | .double => t.busErr
  | _ =>
    let at_ := off / 4 * 4
    let w := wordMerge (s.sramWord at_) off width data.toNat
    let t := match s.mbxBlock at_ with
      | some (m, o) => t.mbxWrite m o w
      | none => t.sramSet at_ (leBytes 4 w.toNat)
    let t := (t.eccHeal at_).sramUpset at_ (if width = 4 then e else .clean)
    (t.bellWrite off).ret 0

/-! ## Engine windows (R28 to R31) -/

/-- The number of an initiator, for the halves that reads latch. -/
def initNum : Initiator → Nat
  | .cc0 => 0
  | .cc1 => 1
  | .dma => 2
  | .stg => 3
  | .nsw => 4
  | .se => 5
  | .iec => 6

/-- A word of an engine memory, corrected or not (R150): an uncorrectable one is flagged, and the manual states no data for
it (log 6). -/
def State.winData {n : Nat} (s : State) (e key : Nat) (w : BitVec n) : BitVec n × State :=
  let en := s.eng e
  if key ∈ en.bad then
    let (v, s) := s.free
    (BitVec.ofNat n v, s.flag (F.ENG_STAT_ECCU e))
  else if key ∈ en.soft then
    (w, (s.modEng e fun x => { x with soft := delNat x.soft key }).sat (F.ENGECC_COUNT e) 1)
  else (w, s)

/-- A read of the state or tile view of an engine in service waits for the idle interval: a pass that runs reaches END
first (R30). -/
def State.idleFirst (s : State) (e : Nat) : State :=
  if s.inService e && (s.eng e).busy then stateOf s (execPassDone (Fin.ofNat 17 e) s) else s

/-- A read of an engine window: the shadow banks, the state memory, and the tile bank by bank.  A read of a lower half
latches the upper half for its initiator; the latched half goes to one read (R31). -/
def State.winRead (s : State) (who : Initiator) (e off width : Nat) : State :=
  let w4 := off % 0x10000 / 4
  let (w, s) : Word × State :=
    if off < 0x10000 then
      let i := off / 8
      let who := 8192 * initNum who + i
      let latch := if off % 8 < 4 then none else listed (s.eng e).halfRd who
      match latch with
      | some h => (h, s.modEng e fun x => { x with halfRd := x.halfRd.filter fun q => q.1 ≠ who })
      | none =>
        let half := fun (s : State) (hi : Bool) => s.winData e (progShCode i hi) (half64 (memGet (s.eng e).progSh i) hi)
        if off % 8 < 4 then
          let (lo, s) := half s false
          let (hi, s) := half s true
          (lo, s.modEng e fun x => { x with halfRd := (who, hi) :: x.halfRd.filter fun q => q.1 ≠ who })
        else half s true
    else if off < 0x20000 then s.winData e (coefShCode w4) (memGet (s.eng e).coefSh w4)
    else
      let s := s.idleFirst e
      if off < 0x28000 then s.winData e w4 (memGet (s.eng e).st w4)
      else
        let k := (off - 0x80000) / 4
        s.winData e (0x40000 + k) (memGet (s.eng e).tile k)
  s.ret (BitVec.ofNat 32 (wordPart w off width))

/-- A write to an engine window that the gate accepts: the engine needs BIST before service (R241).  The halves of a program
word are written together (R31).  DESIGN CHOICE (log 8): an upper half that no lower half waits for joins the lower half that
the shadow bank holds, and a waiting lower half is completed by the upper half of any initiator. -/
def State.winWrite (s : State) (e off width : Nat) (data : Word) : State :=
  let w4 := off % 0x10000 / 4
  let put (w : Word) := wordMerge w off width data.toNat
  let mend (key : Nat) (x : Engine) : Engine := { x.heal key with dirty := true }
  let t :=
    if off < 0x10000 then
      let i := off / 8
      s.modEng e fun x =>
        let p := memGet x.progSh i
        let lo := (listed x.halfWr i).getD (half64 p false)
        let others := x.halfWr.filter fun h => h.1 ≠ i
        if off % 8 < 4 then { x with halfWr := (i, put lo) :: others, dirty := true }
        else mend (progShCode i false) <| mend (progShCode i true) { x with
          progSh := memSet x.progSh i (join64 lo (put (half64 p true))), halfWr := others }
    else if off < 0x20000 then
      s.modEng e fun x => mend (coefShCode w4) { x with coefSh := memSet x.coefSh w4 (put (memGet x.coefSh w4)) }
    else if off < 0x28000 then s.modEng e fun x => mend w4 { x with st := memSet x.st w4 (put (memGet x.st w4)) }
    else
      let k := (off - 0x80000) / 4
      s.modEng e fun x => mend (0x40000 + k) { x with tile := memSet x.tile k (put (memGet x.tile k)) }
  t.ret 0

/-! ## The LDS (R27) -/

def State.ldsRead (s : State) (off width : Nat) : State :=
  let w := off / 4
  let (v, s) := if w ∈ s.ldsBad then
      let (x, s) := s.free
      (BitVec.ofNat 32 x, s.ldsBadRead w)
    else s.readLds w
  s.ret (BitVec.ofNat 32 (wordPart v off width))
def State.ldsWrite (s : State) (off width : Nat) (data : Word) : State :=
  (s.setLds (off / 4) (wordMerge (memGet s.lds (off / 4)) off width data.toNat)).ret 0

/-- The content of the mask ROM, which the manual does not give: the same at every read (log 6). -/
def romWord (off width : Nat) : Word :=
  BitVec.ofNat 32 (leNat ((List.range width).map fun i => Config.romByte (off + i)))

/-! ## Reads of registers -/

/-- A read of a register under R6: a word latched by an earlier read is taken, and RC fields clear. -/
def State.plainRead (s : State) (a : Nat) : State :=
  let (v, s) := s.takeLatch a (s.reg a)
  match regRow a with
  | some r => if r.rc = 0 then s.ret v else (s.setReg a (s.reg a &&& ~~~ (BitVec.ofNat 32 r.rc))).ret v
  | none => s.ret v

/-- A read that latches other words of the same instant. -/
def State.latchRead (s : State) (a : Nat) (also : List Nat) : State := (also.foldl State.latchReg s).plainRead a

/-- The index of an address in a run of n registers `st` bytes apart. -/
def nth (base st n a : Nat) : Option Nat :=
  if base ≤ a ∧ a < base + st * n ∧ (a - base) % st = 0 then some ((a - base) / st) else none

/-- A read of a register of the blocks that lie in slots 0 to 9 (R32). -/
def State.readLow (s : State) (who : Initiator) (a : Nat) : State :=
  if let some i := nth (R.ACS_LIVE 0) 0x40 2 a then stateOf s (execAcsLiveRead who (i == 1) s)
  else if a = R.TU_NS then stateOf s (execTuNsRead who s)
  else if a = R.TU_LNSL then stateOf s (execTuLnslRead who s)
  else if a = R.TU_SUBNS ∨ a = R.TU_SECL ∨ a = R.TU_SECH then s.tuWords.plainRead a
  else if a = R.TU_LNSH ∨ a = R.TU_LFRAC then s.legWords.plainRead a
  else if a = R.TCAP_NS then stateOf s (execTcapRead who s)
  else if let some d := nth (R.RD_SIDXL 0) 0x40 4 a then s.latchRead a [R.RD_SIDXH d]
  else if let some d := nth (R.RD_BTSNS 0) 0x40 4 a then s.latchRead a [R.RD_BTSSUB d, R.RD_BTSSECL d, R.RD_BTSSECH d]
  else if a = R.STG_METDATA then stateOf s (execStgMetdataRead who s)
  else if let some k := nth (R.SEC_FUSE 0) 4 128 a then s.ret (s.fuseShown k)
  else if a = R.XMP_DATA then s.xmpTake
  else s.plainRead a

/-- A read of a register of the other blocks. -/
def State.readHigh (s : State) (who : Initiator) (a : Nat) : State :=
  if a = R.HSP_RXDATA then stateOf s (execHspRxdataRead who s)
  else if a = R.PSC_RXDATA then stateOf s (execPscRxdataRead who s)
  else if let some u := nth (R.UART_RXDATA 0) 0x1000 3 a then s.uartTake u
  else if a = R.I2C_DATA then stateOf s (execI2cDataRead who s)
  else if let some p := nth (R.ASP_SLOTMASK 0 0) 0x1000 8 a then
    s.latchRead a [R.ASP_SLOTMASK p 1, R.ASP_SLOTMASK p 2, R.ASP_SLOTMASK p 3]
  else if a = R.IECR_CSA 0 then stateOf s (execIecStatusRead who s)
  else if a = R.NSW_TSF_INFO then stateOf s (execTsfInfoRead who s)
  else if let some e := (List.range 17).find? fun e => a = R.ENG_SCNTL e then s.latchRead a [R.ENG_SCNTH e]
  else if a = R.SCU_MISIDXL then s.latchRead a [R.SCU_MISIDXH, R.SCU_MISINFO]
  else if a = R.SCU_HOBNDL then s.latchRead a [R.SCU_HOBNDH]
  else s.plainRead a

/-- A read of a register. -/
def State.regRead (s : State) (who : Initiator) (a : Nat) : State :=
  if a < 0x400A0000 then s.readLow who a else s.readHigh who a

/-! ## Reads (R19 to R27) -/

/-- A read that the map and the domains allow leaves its data in `resp`; a bus error has no other effect. -/
def State.busRead (s : State) (a : Access) : State :=
  let n := a.addr.toNat
  if (s.busKind a).isSome then s.busErr
  else if let some off := sramOff n then s.sramRead off a.width a.ecc
  else if n < 0x10000 then s.ret (romWord n a.width)
  else if n < 0x30000000 then s.winRead a.who ((n - 0x20000000) / 0x100000) (n % 0x100000) a.width
  else if n < 0x40000000 then s.ldsRead (n - 0x30000000) a.width
  else if n < 0x60000000 then s.regRead a.who n
  else s.xipRead (n - 0x60000000) a.width

end Sys2Proof.Machine
end

