-- ==== Sys2Proof/Machine/DmaCtl.lean ====
section
/-! DEFINITION. The DMA controller between bursts: starting, stopping and halting a channel, and beginning a descriptor
(R504, R505, R511 to R513). -/

namespace Sys2Proof.Machine

def State.dmaCh (s : State) (c : Nat) : DmaCh := s.dma[c]?.getD ⟨none, 0⟩
def State.modDma (s : State) (c : Nat) (g : DmaCh → DmaCh) : State := { s with dma := vmod s.dma c g }

/-- A channel issues nothing more (R513). -/
def State.dmaStop (s : State) (c : Nat) : State :=
  (s.modDma c fun _ => ⟨none, 0⟩).setFbit F.DMA_STAT_ACTIVE c false

/-- A bus error or a malformed descriptor halts every channel (R511): the first one is recorded. -/
def State.dmaHalt (s : State) (c kind addr : Nat) : State :=
  let s := s.forEach (List.range 16) fun s k => s.dmaStop k
  let s := ((s.setReg R.DMA_ERR 0).setF F.DMA_ERR_VALID 1).setF F.DMA_ERR_KIND kind
  ((s.setF F.DMA_ERR_CH c).setReg R.DMA_ERRADDR (BitVec.ofNat 32 addr)).setF F.DMA_STAT_HALTED 1

/-- CLRHALT (R512). -/
def State.dmaClear (s : State) : State := (s.setF F.DMA_STAT_HALTED 0).setReg R.DMA_ERR 0

/-- The words of a descriptor (R504): SRC, DST, LENGTH, CTRL, NEXT, INDEX and ESIZE. -/
def dW (d : List Word) (i : Nat) : Nat := (d.getD i 0).toNat
def dMode (d : List Word) : Nat := wordFld (d.getD 3 0) 30 29
def dBit (d : List Word) (i : Nat) : Bool := (d.getD 3 0).getLsbD i
def dLen (d : List Word) : Nat := wordFld (d.getD 2 0) 23 0
def dEsize (d : List Word) : Nat := wordFld (d.getD 6 0) 15 0
/-- Beats of a burst. -/
def dBeats (d : List Word) : Nat := wordFld (d.getD 3 0) 20 15 + 1

/-- A descriptor is malformed (R505). -/
def dBad (at_ : Nat) (d : List Word) : Bool :=
  let indexed := dMode d == 1 || dMode d == 2
  at_ % 32 != 0 || wordFld (d.getD 2 0) 31 24 != 0 || wordFld (d.getD 3 0) 14 0 != 0 || dMode d == 3 || dLen d == 0 ||
    (dBit d 28 && (dW d 0 % 4 != 0 || dLen d % 4 != 0)) || (dBit d 27 && (dW d 1 % 4 != 0 || dLen d % 4 != 0)) ||
    (dBit d 28 && dMode d == 1) || (dBit d 27 && dMode d == 2) ||
    wordFld (d.getD 6 0) 31 16 != 0 || wordFld (d.getD 7 0) 30 24 != 0 || (indexed && (dEsize d == 0 || dLen d % dEsize d != 0))

/-- Words read one after the other by DMA: with the address of the first that ends with a bus error. -/
def dmaWords (s : State) : Nat → Nat → List Word → Except Nat (List Word) × State
  | 0, _, acc => (.ok acc.reverse, s)
  | n + 1, a, acc =>
    let t := s.busRead ⟨.dma, false, 4, BitVec.ofNat 32 a, 0, .clean⟩
    if t.resp.err then (.error a, t) else dmaWords t n (a + 4) (t.resp.data :: acc)

/-- A channel begins a descriptor: it is read once, and checked (R504, R505). -/
def State.dmaBegin (s : State) (c at_ : Nat) : State :=
  let s := s.setReg (R.CH_CUR c) (BitVec.ofNat 32 at_)
  if at_ % 32 ≠ 0 then s.dmaHalt c 5 at_
  else
    match dmaWords s 8 at_ [] with
    | (.error a, s) => s.dmaHalt c 0 a
    | (.ok d, s) =>
      if dBad at_ d then s.dmaHalt c 5 at_
      else
        ((s.modDma c fun _ => ⟨some d, 0⟩).setFbit F.DMA_STAT_ACTIVE c true).setReg (R.CH_REM c) (BitVec.ofNat 32 (dLen d))

/-- GO (R512, R513): while DMA runs, is not halted, and the channel is not active. -/
def State.dmaStart (s : State) (c : Nat) : State :=
  if s.b F.DMA_CTRL_EN && !s.b F.DMA_STAT_HALTED && !s.fbit F.DMA_STAT_ACTIVE c then
    s.dmaBegin c (s.reg (R.CH_DESC c)).toNat
  else s

end Sys2Proof.Machine
end

