-- ==== Sys2Proof/Machine/Bus.lean ====
section
/-! DEFINITION. Writes on the crossbar: what a write of each peripheral register does (R5, R6 and the register rules of the
blocks), and the commands of the crossbar (R19, R27, R28, R30). -/

namespace Sys2Proof.Machine

/-! ## Writes of registers -/

/-- Locked bits: the XIP fields under XIPLOCK (R441, R453). -/
def State.lockedBits (s : State) (a : Nat) : Word :=
  if R.XMP_CTRL < a ∧ a < R.XMP_CTRL + 0x10000 ∧ s.b F.XMP_CTRL_XIPLOCK then 0xFFFFFFFF else 0

/-- A write under R6, with nothing else to it. -/
def State.plainWrite (s : State) (a : Nat) (d : Word) : State :=
  match regRow a with
  | some r => s.setReg a (regWriteVal r (s.lockedBits a) (s.reg a) d)
  | none => s

/-- A write of which some bits are ignored: they keep their value. -/
def State.keepWrite (s : State) (a : Nat) (keep d : Word) : State :=
  (s.plainWrite a ((d &&& ~~~ keep) ||| (s.reg a &&& keep)))

/-- AON/PMU (R218). -/
def State.writeAon (s : State) (a : Nat) (d : Word) : State :=
  let t := s.plainWrite a d
  if a = R.PMU_CTRL ∧ d.msb then t.pmuEval
  else if a = R.PMU_REQMASK then t.netKeepSync
  else t

/-- ACSa_CTRL: the enable, then CLRQ, UPDATE and RELOCK (R263 to R273). -/
def State.writeAcsCtrl (s : State) (i : Nat) (d : Word) : State :=
  let t := s.plainWrite (R.ACS_CTRL i) d
  let t := if t.b (F.ACS_CTRL_EN i) = s.b (F.ACS_CTRL_EN i) then t else t.acsEnable i (t.b (F.ACS_CTRL_EN i))
  let t := if d.getLsbD 3 then t.setPsq i 0 else t
  let t := if d.getLsbD 0 then t.acsUpdate i else t
  if d.getLsbD 4 && t.b (F.ACS_STAT_COAST i) && t.b (F.ACS_STAT_REFOK i) then t.acsDoRelock i else t

/-- CLK (R253 to R276): a loop whose enable clears stops, and SYSUPD applies. -/
def State.writeClk (s : State) (a : Nat) (d : Word) : State :=
  let t := s.plainWrite a d
  if a = R.CLK_CTRL then
    let t := t.forEach [0, 1, 2, 3] fun t l => if t.loopEnabled l then t else t.setFbit F.CLK_STAT_LOCK l false
    if d.msb then t.sysUpd t.sysEdge else t
  else if a = R.CLK_SLOW then t.setF F.CLK_SLOW_ACTIVE (t.f F.CLK_SLOW_SEL)
  else if let some e := nth (R.CLK_ENGN 0) 4 17 a then s.engineClock e d.toNat
  else if let some i := nth (R.ACS_CTRL 0) 0x40 2 a then s.writeAcsCtrl i d
  else if let some i := nth (R.ACS_PSTEP 0) 0x40 2 a then s.psqAdd i (sext 13 d.toNat)
  else t

/-- TPk: a running generator ignores every write but DISARM (R329). -/
def State.writePulse (s : State) (k a : Nat) (d : Word) : State :=
  if s.b (F.TP_CTRL_ACTIVE k) then if a = R.TP_CTRL k ∧ d.getLsbD 30 then s.tpDisarm k else s
  else if a = R.TP_CTRL k ∧ d.msb then (s.plainWrite a d).tpArm k
  else s.plainWrite a d

/-- TU (R321 to R333, R344). -/
def State.writeTu (s : State) (a : Nat) (d : Word) : State :=
  if a = R.TU_CTRL then
    let t := (s.plainWrite a d).tuCtrl d.msb (d.getLsbD 30)
    if d.getLsbD 30 && !d.msb then t.stepAnchors else t
  else if a = R.TU_LNSL then s.legLoad d
  else if a = R.TU_LNSH then { s with tu := { s.tu with lnsh := d } }
  else if a = R.TRIG_CTRL then
    let t := s.plainWrite a d
    let t := if d.getLsbD 30 then t.trigDisarm else t
    if d.msb then t.trigArm else t
  else if a = R.TP_CTRL 0 ∨ a = R.TP_NS 0 ∨ a = R.TP_SECL 0 ∨ a = R.TP_SECH 0 ∨ a = R.TP_PERIOD 0 ∨ a = R.TP_WIDTH 0 then
    s.writePulse 0 a d
  else if a = R.TP_CTRL 1 ∨ a = R.TP_NS 1 ∨ a = R.TP_SECL 1 ∨ a = R.TP_SECH 1 ∨ a = R.TP_PERIOD 1 ∨ a = R.TP_WIDTH 1 then
    s.writePulse 1 a d
  else s.plainWrite a d

/-- XCH (R69): START, and the settings of a running domain, of which only EN is written. -/
def State.writeXch (s : State) (a : Nat) (d : Word) : State :=
  if a = R.XCH_CTRL then
    (s.plainWrite a d).forEach ((List.range 4).filter fun k => d.getLsbD k) fun s k => s.startDomain k false
  else if R.RD_CTRL 0 ≤ a ∧ a < R.RD_CTRL 4 then
    let k := (a - R.RD_CTRL 0) / 0x40
    if s.b (F.RD_STAT_RUN k) = false then (s.plainWrite a d).setDomPhase k
    else if a = R.RD_CTRL k then s.keepWrite a 0x7FFFFFFF d
    else s
  else s.plainWrite a d

/-- STG (R187): the epoch registers take writes in IDLE only. -/
def State.writeStg (s : State) (a : Nat) (d : Word) : State :=
  if (a = R.STG_ARMED ∨ a = R.STG_APPLIED) ∧ s.phase ≠ 0 then s else s.plainWrite a d

/-- MBX (R502): CC1 writes RSPPEND and RSPEN only. -/
def State.writeMbx (s : State) (who : Initiator) (a : Nat) (d : Word) : State :=
  if who = .cc1 ∧ ¬ (a = R.MBX_RSPPEND 0 ∨ a = R.MBX_RSPPEND 1 ∨ a = R.MBX_RSPEN 0 ∨ a = R.MBX_RSPEN 1) then s
  else s.plainWrite a d

/-- TSU and aging monitors (R219, R245, R252). -/
def State.writeTsu (s : State) (a : Nat) (d : Word) : State :=
  if let some e := nth (R.AGE_FMAX 0) 4 17 a then if d.toNat % 32 ≤ s.fmax e then s.setFmax e (d.toNat % 32) else s
  else if a = R.AGE_CTRL ∧ d.getLsbD 0 then (s.plainWrite a d).ageGo
  else s.plainWrite a d

/-- SEC (R466, R472, R473). -/
def State.writeSec (s : State) (a : Nat) (d : Word) : State :=
  let t := s.plainWrite a d
  if a = R.SEC_CTRL then if d.getLsbD 29 then t.keyClear else t
  else if a = R.SEC_KDFBOUND then s.kdfBound d
  else if a = R.SEC_KDFCMD then if d.msb then t.kdf (t.f F.SEC_KDFCMD_VER) else t
  else if a = R.SEC_HCTRL then
    let t := if d.msb then t.hashStart else t
    if d.getLsbD 30 then t.hashFinish else t
  else if a = R.SEC_HDATA then s.hashData d
  else if a = R.SEC_VCTRL then if d.msb then t.verifyGo else t
  else if a = R.SEC_FUSECMD then if d.msb then t.fuseProgram (t.f F.SEC_FUSECMD_BIT) true else t
  else t

/-- XMP_CTRL (R431, R432, R441, R444). -/
def State.writeXmpCtrl (s : State) (d : Word) : State :=
  let t := (s.keepWrite R.XMP_CTRL 0x40000000 d).xipSync
  let t := if d.getLsbD 30 then t.xipEnable else if s.b F.XMP_CTRL_XIPEN then t.xipDisable else t
  let t := if d.getLsbD 26 then t.xipFlush else t
  if d.getLsbD 27 then t.xmpAbort else t

/-- XMP (R431 to R453).  A transfer that a plain write starts finds no device that drives the lines or takes its data: the
command XMP_TRANSFER says what the flash does. -/
def State.writeXmp (s : State) (a : Nat) (d : Word) : State :=
  if a = R.XMP_CTRL then s.writeXmpCtrl d
  else if a = R.XMP_CMD1 then
    let t := s.plainWrite a d
    if d.msb then t.xmpGo ⟨[], none, none⟩ else t
  else if a = R.XMP_DATA then s.xmpPut d
  else if (nth (R.XIP_BASE 0) 0x20 4 a).isSome ∨ (nth (R.XIP_SIZE 0) 0x20 4 a).isSome then s.plainWrite a (d &&& 0xFFFFF000)
  else if (nth (R.XIP_TREE 0) 0x20 4 a).isSome then s.plainWrite a (d &&& 0xFFFFFF00)
  else s.plainWrite a d

/-- HSP (R372). -/
def State.writeHsp (s : State) (a : Nat) (d : Word) : State :=
  if a = R.HSP_TXDATA then s.hspPut d
  else if let some c := nth (R.HSP_RSPLEN 0) 4 4 a then s.hspOffer c d.toNat
  else if a = R.HSP_CTRL ∧ d.msb ∧ s.b F.HSP_CTRL_EN = false then (s.plainWrite a d).modHsp fun h => { h with owed := none }
  else s.plainWrite a d

/-- PSC and I2C (R416 to R424).  How many pulses a bus clear needs is the bus's (log 6). -/
def State.writePsc (s : State) (a : Nat) (d : Word) : Res State :=
  if a = R.PSC_CTRL then let t := (s.plainWrite a d).pscSync (s.b F.PSC_STAT_STALL); if d.getLsbD 30 then execPscAbort [] t else .next t
  else if a = R.PSC_CMD then .next (s.pscCommand d)
  else if a = R.PSC_TXDATA then .next (s.pscPut d)
  else .next (s.plainWrite a d)
def State.writeI2c (s : State) (a : Nat) (d : Word) : Res State :=
  if a = R.I2C_CTRL ∧ d.getLsbD 30 then
    let (v, t) := (s.plainWrite a d).free
    execI2cClear (v % 11) t
  else if a = R.I2C_CTRL then
    let t := s.plainWrite a d
    .next (if t.b F.I2C_CTRL_EN then t else t.i2cStop)
  else if a = R.I2C_XFER then .next (s.i2cGo d)
  else if a = R.I2C_DATA then .next (s.i2cPut (d.setWidth 8))
  else .next (s.plainWrite a d)

/-- UART (R402 to R414). -/
def State.writeUart (s : State) (u a : Nat) (d : Word) : State :=
  if a = R.UART_CTRL u then
    let t := s.plainWrite a d
    let t := if d.getLsbD 26 then t.modUart u fun x => { x with rx := [] } else t
    let t := if d.getLsbD 25 then t.modUart u fun x => { x with tx := [] } else t
    (if s.b (F.UART_CTRL_EN u) && !d.msb then t.uartOff u else t).uartSync u
  else if a = R.UART_TXDATA u then s.uartPut u d
  else if a = R.UART_SLOW u ∧ u = 0 then s
  else if a = R.UART_QCFG u ∧ s.b (F.UART_CTRL_EN u) then s
  else (s.plainWrite a d).uartSync u

/-- GPIO (R425 to R427). -/
def State.writeGpio (s : State) (a : Nat) (d : Word) : State :=
  if a = R.GPIO_SET then s.gpioRaise d
  else if a = R.GPIO_CLR then s.gpioLower d
  else if a = R.GPIO_DIR then { s.plainWrite a d with pmu := { s.pmu with held := none } }.gpioFollow
  else (s.plainWrite a d).gpioFollow

/-- ENG (R28, R101): HOSTACC stays clear in service, where most registers ignore writes; a CTRL write that names an action
is ignored while BUSY. -/
def State.writeEngCtrl (s : State) (e : Eng) (d : Word) : State :=
  let acts := [(0, 8), (1, 4), (2, 0), (3, 9)].filterMap fun p => if d.getLsbD p.2 then some p.1 else none
  if s.b (F.ENG_STAT_BUSY e) && !acts.isEmpty then s
  else
    let t := s.plainWrite (R.ENG_CTRL e) d
    let t := if (s.inService e || (s.eng e).role == .punty) && d.msb then t.setF (F.ENG_CTRL_HOSTACC e) (s.f (F.ENG_CTRL_HOSTACC e)) else t
    if acts.isEmpty then t else t.ctrlActs e acts
def State.writeEng (s : State) (e : Eng) (a : Nat) (d : Word) : State :=
  if a = R.ENG_CTRL e then s.writeEngCtrl e d
  else if a = R.ENG_STAT e then s.plainWrite a d
  else if s.inService e then s
  else s.plainWrite a d

/-- LDS control (R139, R153). -/
def State.writeLds (s : State) (a : Nat) (d : Word) : State :=
  if a = R.LDS_CTRL then
    let t := s.keepWrite a 3 d
    t.forEach [0, 1] fun t b =>
      if d.getLsbD b then if s.fbit ⟨R.LDS_CTRL, 1, 0⟩ b then t else t.startHalf b
      else if s.fbit ⟨R.LDS_CTRL, 1, 0⟩ b then t.stopHalf b else t
  else s.plainWrite a d

/-- SCU (R251). -/
def State.writeScu (s : State) (a : Nat) (d : Word) : State :=
  let t := s.plainWrite a d
  if a = R.SCU_CTRL ∧ d.getLsbD 8 then t.endShadow
  else if a = R.SCU_SEL ∧ d.msb then t.cloneGo
  else if a = R.SCU_HOREQ ∧ d.msb then t.handoverGo
  else t

/-- ASP (R287, R288, R309): what shows the applied epoch takes writes only while the port is stopped. -/
def State.writeAsp (s : State) (p a : Nat) (d : Word) : Res State :=
  let run := s.aspRun p
  if a = R.ASP_CTRL p then
    let t := s.keepWrite a (if run then 0xBC000E00 else 0x80000000) d
    .next (if d.msb then if s.b (F.ASP_CTRL_EN p) then t else t.aspStart p
      else if s.b (F.ASP_CTRL_EN p) then t.aspStop p false else t)
  else if a = R.ASP_TRIG then
    if d.msb then execAspTrigGo (Fin.ofNat 4 (wordFld d 19 18)) (d.getLsbD 17) (d.getLsbD 16)
        (BitVec.ofNat 4 (wordFld d 15 12)) (d.setWidth 8) s
    else .next (s.plainWrite a d)
  else if run && (a != R.ASP_STAT p) then .next s
  else .next (s.plainWrite a d)

/-- PDM, IEC and SRC (R310): epoch fields take writes only while the unit is stopped. -/
def State.writePdm (s : State) (n a : Nat) (d : Word) : State :=
  if a = R.PDM_CTRL n then
    let t := s.keepWrite a (if s.b (F.PDM_STAT_RUN n) then 0x30007F30 else 0) d
    if t.b (F.PDM_CTRL_EN n) = s.b (F.PDM_CTRL_EN n) then t else t.pdmEnable n (t.b (F.PDM_CTRL_EN n))
  else s.plainWrite a d
def State.writeIec (s : State) (a : Nat) (d : Word) : State :=
  if a = R.IECR_CTRL then
    let t := s.keepWrite a (if s.b F.IECR_CTRL_EN then 0x70000000 else 0) d
    if t.b F.IECR_CTRL_EN = s.b F.IECR_CTRL_EN then t else t.iecRxEnable (t.b F.IECR_CTRL_EN)
  else if a = R.IECR_BUFBASE ∨ a = R.IECR_BUFSIZE then s.plainWrite a (d &&& 0xFFFFFFC0)
  else if a = R.IECT_CTRL then
    let t := s.keepWrite a (if s.b F.IECT_STAT_RUN then 0x3000000E else 0) d
    let t := if t.b F.IECT_CTRL_EN = s.b F.IECT_CTRL_EN then t else t.iecTxEnable (t.b F.IECT_CTRL_EN)
    if d.getLsbD 4 then t.iecCapSet else t
  else if (a = R.IECT_TXSRC 0 ∨ a = R.IECT_TXSRC 1) ∧ s.b F.IECT_STAT_RUN then s
  else s.plainWrite a d
def State.writeSrc (s : State) (g a : Nat) (d : Word) : State :=
  if a = R.SRC_CTRL g then
    let t := s.keepWrite a (if s.srcState g = 0 then 0 else 0x7F037F00) d
    if t.b (F.SRC_CTRL_EN g) = s.b (F.SRC_CTRL_EN g) then t else t.srcEnable g (t.b (F.SRC_CTRL_EN g))
  else if (nth (R.SRC_SRCSEL g 0) 4 4 a).isSome && s.srcState g != 0 then s
  else s.plainWrite a d

/-- NSW (R313 to R326, R345).  A PHY's answer to an MDIO read is the PHY's (log 6). -/
def State.writeNsw (s : State) (a : Nat) (d : Word) : State :=
  if a = R.NSW_MTCMD ∧ d.msb then
    let t := s.plainWrite a d
    t.mtRun (t.f F.NSW_MTCMD_OP)
  else if a = R.NSW_MDIO ∧ d.msb then
    let t := s.plainWrite a d
    let op := t.f F.NSW_MDIO_OP
    if op = 1 ∨ op = 4 then
      let (v, t) := t.free
      t.mdioRun op (some v)
    else t
  else if a = R.NSW_RXBASE ∨ a = R.NSW_TXBASE then s.plainWrite a (d &&& 0xFFFFFFF0)
  else s.plainWrite a d

/-- SE (R346): EN of a stream starts it afresh or stops it. -/
def State.writeSe (s : State) (a : Nat) (d : Word) : State :=
  let t := s.plainWrite a d
  match nth (R.STR_CTRL 0) 0x40 16 a with
  | some k => if s.b (F.STR_CTRL_EN k) = t.b (F.STR_CTRL_EN k) then t else t.strRestart k
  | none => if t.b F.SE_CTRL_EN then t else t.forEach (List.range 16) fun t k => t.setF (F.STR_STAT_RUN k) 0

/-- DMA (R511 to R513). -/
def State.writeDma (s : State) (a : Nat) (d : Word) : State :=
  if a = R.DMA_CTRL then
    let t := s.plainWrite a d
    if d.getLsbD 30 then t.dmaClear else t
  else if let some c := nth (R.CH_CTRL 0) 0x20 16 a then
    let t := s.plainWrite a d
    if s.fbit F.DMA_STAT_ACTIVE c then (if d.getLsbD 30 then t.dmaStop c else t)
    else if d.msb then t.dmaStart c else t
  else if let some c := nth (R.CH_DESC 0) 0x20 16 a then
    if s.fbit F.DMA_STAT_ACTIVE c then s else s.plainWrite a (d &&& 0xFFFFFFE0)
  else s.plainWrite a d

/-- A write of a register that the map lists, by the slot of its block (R32). -/
def State.regWrite (s : State) (who : Initiator) (a : Nat) (d : Word) : Res State :=
  let k := (a - 0x40000000) / 0x10000
  let i := a % 0x10000 / 0x1000
  match k with
  | 0x00 => .next (s.writeAon a d)
  | 0x01 => .next (s.writeClk a d)
  | 0x02 => .next (s.writeTu a d)
  | 0x03 => .next (s.writeXch a d)
  | 0x04 => .next (s.writeStg a d)
  | 0x05 => .next (s.writeMbx who a d)
  | 0x06 => .next (s.writeDma a d)
  | 0x07 => .next (s.writeTsu a d)
  | 0x08 => .next (s.writeSec a d)
  | 0x09 => .next (s.writeXmp a d)
  | 0x0A => .next (s.writeHsp a d)
  | 0x0B => s.writePsc a d
  | 0x0C => .next (s.writeUart i a d)
  | 0x0D => s.writeI2c a d
  | 0x0E => .next (s.writeGpio a d)
  | 0x0F => .next (s.writeEng 16 a d)
  | 0x10 => s.writeAsp i a d
  | 0x11 => .next (s.writePdm i a d)
  | 0x12 => .next (s.writeIec a d)
  | 0x13 => .next (s.writeSrc i a d)
  | 0x14 => .next (s.writeNsw a d)
  | 0x15 => .next (s.writeSe a d)
  | 0x16 => .next (s.writeEng (Fin.ofNat 17 i) a d)
  | 0x17 => .next (s.writeLds a d)
  | 0x18 => .next (s.writeScu a d)
  | _ => .next (s.plainWrite a d)

/-! ## Accesses (R19 to R27) -/

/-- What follows an outcome. -/
def bindRes (r : Res State) (g : State → Res State) : Res State :=
  match r with
  | .next s => g s
  | .fault x => .fault x
  | .refused x => .refused x

/-- A write. -/
def State.busWrite (s : State) (a : Access) : Res State :=
  let n := a.addr.toNat
  if (s.busKind a).isSome then .next s.busErr
  else if let some off := sramOff n then .next (s.sramWrite off a.width a.data a.ecc)
  else if n < 0x30000000 then .next (s.winWrite ((n - 0x20000000) / 0x100000) (n % 0x100000) a.width a.data)
  else if n < 0x40000000 then .next (s.ldsWrite (n - 0x30000000) a.width a.data)
  else bindRes (writeTo n a.data s) fun s => bindRes (s.regWrite a.who n a.data) fun s => .next (s.ret 0)

/-- An access. -/
def State.busAccess (s : State) (a : Access) : Res State := if a.write then s.busWrite a else .next (s.busRead a)

/-- What a bus error does at its initiator (R19): one of DMA halts every channel, and one of a control core is a data abort on
that core.  DESIGN CHOICE (log 8): an access that no descriptor makes is recorded on the channel served last. -/
def State.errAt (s : State) (a : Access) (kind : Nat) : State :=
  let abort (c : Nat) := if !s.coreRuns c then s else s.raiseCc c (excAt 2 a.addr.toNat kind)
  match a.who with
  | .dma => if s.b F.DMA_STAT_HALTED then s else s.dmaHalt s.dmaLast (if a.write then 3 else 2) a.addr.toNat
  | .cc0 => abort 0
  | .cc1 => abort 1
  | _ => s

/-- The kind of a bus error that an access met, as ESTAT.FKIND numbers it (R500): `t` is the state after the access. -/
def State.errKind (s t : State) (a : Access) : Nat :=
  match s.busKind a with
  | some k => k
  | none =>
    if (sramOff a.addr.toNat).isSome then 3
    else if t.b F.XMP_STAT_INTEG && !s.b F.XMP_STAT_INTEG then 4
    else if s.on 25 then 1 else 2

/-- An access with what its bus error does. -/
def State.busOne (s : State) (a : Access) : Res State :=
  bindRes (s.busAccess a) fun t => .next (if t.resp.err then t.errAt a (s.errKind t a) else t)

/-- Accesses one after the other; each leaves what it returned. -/
def busSeq : List Access → State → Res State
  | [], s => .next s
  | a :: rest, s => bindRes (s.busOne a) fun t => busSeq rest { t with resps := t.resps ++ [(a.who, t.resp)] }

/-- REGISTER_WRITE (R6): a 32-bit write to a register; `meets` are W1C bits that hardware sets in the same cycle (R7). -/
def execRegisterWrite (who : Initiator) (addr data meets : Word) (s : State) : Res State :=
  bindRes (s.busOne ⟨who, true, 4, addr, data, .clean⟩) fun t =>
    .next (if t.resp.err then t else t.meet addr.toNat meets)

/-- The order in which the crossbar grants accesses of the same cycle (R21). -/
def grantOrder : List Initiator := [.stg, .dma, .nsw, .se, .iec, .cc0, .cc1]

/-- BUS_ACCESS (R19): an access, among those that other initiators present in the same cycle (R21).  `resp` is what the
access itself returned. -/
def execBusAccess (a : Access) (others : List Access) (s : State) : Res State :=
  let all := a :: others.filter fun b => b.who ≠ a.who
  bindRes (busSeq (grantOrder.flatMap fun w => all.filter fun b => b.who = w) { s with resps := [] }) fun t =>
    .next { t with resp := (t.resps.find? fun r => r.1 = a.who).elim t.resp (·.2) }

/-- ENGINE_WINDOW_WRITE (R28): by a control core or DMA. -/
def execEngineWindowWrite (who : Initiator) (e : Eng) (off : BitVec 20) (width : Nat) (data : Word) (s : State) : Res State :=
  s.busOne ⟨who, true, width, BitVec.ofNat 32 (0x20000000 + 0x100000 * e.val + off.toNat), data, .clean⟩

/-- ENGINE_WINDOW_READ (R30). -/
def execEngineWindowRead (who : Initiator) (e : Eng) (off : BitVec 20) (width : Nat) (s : State) : Res State :=
  s.busOne ⟨who, false, width, BitVec.ofNat 32 (0x20000000 + 0x100000 * e.val + off.toNat), 0, .clean⟩

/-- XIP_READ (R444): a read of the window. -/
def execXipRead (who : Initiator) (off : BitVec 28) (width : Nat) (s : State) : Res State :=
  s.busOne ⟨who, false, width, BitVec.ofNat 32 (0x60000000 + off.toNat), 0, .clean⟩

/-- LDS_HOST_ACCESS (R27): a control core's access to an address of the LDS. -/
def execLdsHostAccess (who : Core) (write : Bool) (width : Nat) (addr data : Word) (s : State) : Res State :=
  let c : Initiator := if who = 0 then .cc0 else .cc1
  s.busOne ⟨c, write, width, BitVec.ofNat 32 (0x30000000 + addr.toNat % 0x800000), data, .clean⟩

end Sys2Proof.Machine
end

