-- ==== Sys2Proof/Machine/Commit.lean ====
section
/-! DEFINITION. COMMIT: validation, timing and acceptance of a parison as an epoch (R158, R161, R168, R169, R176 to R182,
R336, R381). -/

namespace Sys2Proof.Machine

/-! ## The epochs ahead of a commit (R181) -/

/-- The block of a running group in ns, under a configuration. -/
def Cfg.blockNs (c : Cfg) (l : Nat) : Rat := (c.rd l 5 : Rat) * 1000000000 * (c.rate l).2 / (c.rate l).1

/-- For every queued epoch, one block of the longest block length among the running groups it affects, be it by its items, or by the
tiers and clocks that they or the hard threshold change (R42, R171, R178). -/
def State.queueNs (s : State) : Rat :=
  (s.stg.queue.foldl (fun (acc : Cfg × Rat) e =>
    let new := acc.1.lay e.items (s.b F.TSU_STAT_HARD)
    let tiers := (List.range 16).filter fun l => (acc.1.le l).tier ≠ (new.le l).tier ∨
      (acc.1.clocks new e.items).any fun k => k.1 = l && k.2 ≠ (acc.1.le l).clock
    let gs := ((e.items.flatMap (acc.1.itemDoms new) ++ tiers.map new.dom).map new.leader).eraseDups.filter s.running
    (new, acc.2 + (gs.map acc.1.blockNs).foldl max 0)) (s.cfg, 0)).2

/-! ## Targets (R179 to R181, R336) -/

/-- The first multiple of the block length at or after a number. -/
def ceilBlock (b n : Nat) : Nat := (n + b - 1) / b * b

/-- The first block boundary of a domain whose nominal time is at or after an instant in ns. -/
def State.boundaryAt (s : State) (d ns : Nat) : Nat :=
  let fs := s.rate d
  ceilBlock (s.blen d) (((ns - s.t0 d) * fs.1 + 1000000000 * fs.2 - 1) / (1000000000 * fs.2))

/-- What a timed commit asks for: its item, the anchor domain, the target boundary, and whether it lies more than 10 s
ahead; none when the anchor does not stand. -/
def State.askTarget (s : State) (a : Ask) (d : Nat) : Option (It × Nat × Bool) :=
  match a.one tTtime, a.one tTindex with
  | some x, _ =>
    let t := leNat (x.val.take 6) * 1000000000 + leNat (x.val.drop 8)
    let b := s.boundaryAt d t
    if s.onTime d && s.running d then some (x, b, decide ((s.tuTime : Rat) + 10000000000 < s.nominal d b)) else none
  | none, some x =>
    let b := ceilBlock (s.blen d) (leNat x.val)
    let fs := s.rate d
    if s.running d then some (x, b, decide (10 * fs.1 < (b - s.sidx d) * fs.2)) else none
  | none, none => none

/-- The earliest ARM that the queue allows lies after the one that the target needs (R181). -/
def State.cannotMeet (s : State) (a b : Nat) (lead : Rat) : Bool :=
  decide (s.untilDeadline a b - 32000 < s.queueNs + lead)

/-! ## Acceptance (R158, R161, R182, R381) -/

/-- The expected epoch X holds (R182). -/
def State.expects (s : State) (x : Nat) : Bool :=
  let n := s.f F.AON_EPASSIGN_E
  x = 0 || ((x = n || epochAfter n x) && (s.stg.lastHost = 0 || !epochAfter s.stg.lastHost x))
def State.mismatch (s : State) : Answer := ⟨stEpochMismatch, num32 tEpoch s.stg.lastHost, id⟩

/-- A failed check as an answer (R378, R379). -/
def failAnswer (x : Fail) : Answer :=
  ⟨x.status, ((x.item.map (num32 tItem)).getD []) ++
    (if x.status = stBudget then (x.le.map (num32 tLe)).getD [] else []), id⟩

/-- The epoch joins the queue, and the parison empties (R157, R161). -/
def State.acceptEpoch (s : State) (m : Nat) (e : Epoch) : State :=
  let s := s.enqueue e
  let n := s.f F.AON_EPASSIGN_E
  ({ s with stg := { s.stg with lastHost := n } }).setParison m []

/-- Acceptance of a validated parison, with its target when it stands. -/
def State.acceptAnswer (s : State) (rq : Req) (vol : Bool) (items : List Item) (lines : List Line) (freed : List Nat)
    (clocks : List (Nat × Nat)) (target : Option (Nat × Nat)) : Answer :=
  if !s.expects rq.epoch.toNat then s.mismatch
  else
    let e : Epoch :=
      { num := 0, session := s.session rq.mbx, transport := mbxTransport rq.mbx
        target := match target with
          | some (a, b) => .index a b
          | none => .untimed
        keepOut := vol, late := false, lost := false, integrity := false, items := items, clocks := clocks, lines := lines
        freed := freed }
    answer (num32 tEpoch (epochNext (s.f F.AON_EPASSIGN_E)) ++ (match target with
      | some (_, b) => item tTindex (leBytes 8 b)
      | none => [])) fun s => s.acceptEpoch rq.mbx e

/-- The form of a COMMIT's items (R377, R381): the fault, if any.  ITEM names a staged item for COMMIT, so none is given (R379). -/
def commitForm (a : Ask) : Option Answer :=
  let timed := (a.one tTtime).isSome || (a.one tTindex).isSome
  if (a.one tTtime).isSome && (a.one tTindex).isSome then some (refuse stBadRequest)
  else if (a.one tAnchor).isSome && !timed then some (refuse stBadRequest)
  else match (a.one tTtime).filter (fun x => !timeOk x.val), (a.one tAnchor).filter (fun x => 3 < x.num),
      (a.one tOpt).filter (fun x => 3 < x.num) with
    | some _, _, _ => some (refuse stBadRequest)
    | _, some _, _ => some (refuse stRange)
    | _, _, some _ => some (refuse stBadRequest)
    | none, none, none => none

/-- COMMIT of a parison: checks 1 to 8 of R169 in their order. -/
def State.commit (s : State) (rq : Req) (a : Ask) : Answer :=
  let opt := ((a.one tOpt).map It.num).getD 0
  let d := ((a.one tAnchor).map It.num).getD 0
  let staged := (s.mb rq.mbx).parison
  match commitForm a with
  | some x => x
  | none =>
    if staged = [] then (if s.expects rq.epoch.toNat then answer [] id else s.mismatch)
    else match s.validate staged with
      | .error x => failAnswer x
      | .ok (items, lines, freed, clocks) =>
        let old := s.queuedCfg
        let new := old.lay items (s.b F.TSU_STAT_HARD)
        let vol := opt.testBit 1
        if s.queueFull then refuse stBusy
        else if portMoves old new then refuse stNotInState
        else if (a.one tTtime).isNone && (a.one tTindex).isNone then
          s.acceptAnswer rq vol items lines freed clocks none
        else match s.askTarget a d with
          | none => refuse stNotInState
          | some (_, b, far) =>
            if far then refuse stRange
            else if s.cannotMeet d b (s.leadNs old new items lines freed) then
              (if opt.testBit 0 then refuse stLate else s.acceptAnswer rq vol items lines freed clocks none)
            else s.acceptAnswer rq vol items lines freed clocks (some (d, b))

/-- COMMIT (R381). -/
def execBcpCommit (rq : Req) (s : State) : Res State :=
  .next (s.serve 0x14 rq [(tTtime, 0, 1), (tTindex, 0, 1), (tAnchor, 0, 1), (tOpt, 0, 1)] false fun s a => s.commit rq a)

end Sys2Proof.Machine
end

