-- ==== Sys2Proof/Machine/CpuMem.lean ====
section
/-! DEFINITION. The instructions of the control cores that touch data memory: loads and stores (R481, R482), spills and
fills of the window (R476), string instructions (R483, R484), and the data and instruction caches (R495, R497, R498). -/

namespace Sys2Proof.Machine

def coreInit (c : Nat) : Initiator := if c = 0 then .cc0 else .cc1

/-! ## The data cache (R497) -/

/-- A dirty line is written back to its place in control SRAM.  DESIGN CHOICE (log 9): a line of the doorbell region rings every
doorbell that it holds, for each of its words is written. -/
def State.writeBack (s : State) (l : CLine) : State :=
  let old := s.resp
  { (s.forEach (List.range 16) fun s i =>
      s.sramWrite (l.base - sramBase + 4 * i) 4 (BitVec.ofNat 32 (leNat ((l.bytes.drop (4 * i)).take 4))) .clean) with resp := old }

/-- The bytes of a line that a miss fetches; or the kind of its bus error. -/
def fetchWords (c base : Nat) : Nat → State → List Byte → Except Nat (List Byte) × State
  | 0, s, acc => (.ok acc, s)
  | n + 1, s, acc =>
    let t := s.busRead ⟨coreInit c, false, 4, BitVec.ofNat 32 (base + acc.length), 0, .clean⟩
    if t.resp.err then
      (.error (s.errKind t ⟨coreInit c, false, 4, BitVec.ofNat 32 (base + acc.length), 0, .clean⟩), t)
    else fetchWords c base n t (acc ++ leBytes 4 t.resp.data.toNat)

/-- A line enters the data cache; the line it displaces goes back when it is dirty. -/
def State.dFill (s : State) (c a : Nat) : Except Nat CLine × State :=
  let b := lineBase a
  match fetchWords c b 16 s [] with
  | (.error k, s) => (.error k, s)
  | (.ok bs, s) =>
    let (v, s) := s.victim (s.cc c).dcache b
    let s := match v with
      | some l => if l.dirty then s.writeBack l else s
      | none => s
    let line : CLine := ⟨b, bs, false⟩
    (.ok line, s.modCc c fun k => { k with dcache := line :: k.dcache.filter fun l => some l ≠ v })

/-- The line of an address, in the cache or fetched. -/
def State.dLine (s : State) (c a : Nat) : Except Nat CLine × State :=
  match (s.cc c).dcache.find? (·.base == lineBase a) with
  | some l => (.ok l, s)
  | none => s.dFill c a

/-- Data accesses go through the cache. -/
def CtlCore.dCached (k : CtlCore) (a : Nat) : Bool := k.sf 2 1 1 = 1 && cacheable a

/-! ## Data accesses (R481, R482, R487, R495) -/

/-- A load of `width` bytes: its data, or its exception. -/
def State.dLoad (s : State) (c a width : Nat) : Except Exc Nat × State :=
  let k := s.cc c
  let acc : Access := ⟨coreInit c, false, width, BitVec.ofNat 32 a, 0, .clean⟩
  if k.mpuOk a 0 = false then (.error (excAt 4 a 5), s)
  else if a % width ≠ 0 then (.error (excAt 2 a 0), s)
  else if k.dCached a then
    match s.dLine c a with
    | (.ok l, s) => (.ok (leNat ((l.bytes.drop (a % lineBytes)).take width)), s)
    | (.error n, s) => (.error (excAt 2 a n), s)
  else
    let t := s.busRead acc
    if t.resp.err then (.error (excAt 2 a (s.errKind t acc)), t) else (.ok t.resp.data.toNat, t)

/-- A store of `width` bytes, with its exception if it takes one. -/
def State.dStore (s : State) (c a width : Nat) (v : Word) : Res (Option Exc × State) :=
  let k := s.cc c
  let acc : Access := ⟨coreInit c, true, width, BitVec.ofNat 32 a, v, .clean⟩
  if k.mpuOk a 1 = false then .next (some (excAt 4 a 5), s)
  else
    match s.busKind acc with
    | some n => .next (some (excAt 2 a n), s)
    | none =>
      if k.dCached a then
        match s.dLine c a with
        | (.ok l, s) =>
          let l' : CLine := ⟨l.base, patch l.bytes (a % lineBytes) (leBytes width v.toNat), true⟩
          .next (none, s.modCc c fun k => { k with dcache := k.dcache.map fun x => if x.base = l.base then l' else x })
        | (.error n, s) => .next (some (excAt 2 a n), s)
      else
        match s.busWrite acc with
        | .next t => .next (if t.resp.err then some (excAt 2 a (s.errKind t acc)) else none, t)
        | .fault x => .fault x
        | .refused x => .refused x

/-! ## Loads and stores (R481) -/

/-- The address of an M-format operand and the new value of RA; none for an illegal form. -/
def State.memAddr (s : State) (c : Nat) (o : MemOp) : Option (Nat × Option Word) :=
  let ra := s.rd c o.ra
  match o.mode.toNat with
  | 0 => some ((ra + o.disp.signExtend 32).toNat, none)
  | 1 => some (ra.toNat, some (ra + o.disp.signExtend 32))
  | 2 => some ((ra - o.disp.zeroExtend 32).toNat, some (ra - o.disp.zeroExtend 32))
  | _ =>
    if o.disp.toNat % 32 ≠ 0 then none
    else some ((ra + (s.rd c (o.disp.extractLsb' 7 5) <<< (o.disp.extractLsb' 5 2).toNat)).toNat, none)

/-- RA takes its new value. -/
def State.baseUpdate (s : State) (c : Nat) (o : MemOp) (v : Option Word) : State :=
  match v with
  | some w => s.wr c o.ra w 1
  | none => s

/-- A load: RD takes the data at distance 2 (R485). -/
def State.ccLoad (s : State) (c : Nat) (o : MemOp) (ext : Nat → Nat → Word) : State :=
  s.ccIssue c fun s =>
    if o.size = 3 then s.raiseCc c (exc 5)
    else
      match s.memAddr c o with
      | none => s.raiseCc c (exc 5)
      | some (a, upd) =>
        let width := 2 ^ o.size.toNat
        match s.dLoad c a width with
        | (.error e, s) => s.raiseCc c e
        | (.ok v, s) => ((s.baseUpdate c o upd).wr c o.rd (ext width v) 2).ccNext c

/-- CC_LD (R481): sign-extended. -/
def execCcLd (c : Core) (o : MemOp) (s : State) : Res State :=
  .next (s.ccLoad c o fun width v => BitVec.ofInt 32 (sext (8 * width) v))

/-- CC_LDU (R481): zero-extended. -/
def execCcLdu (c : Core) (o : MemOp) (s : State) : Res State := .next (s.ccLoad c o fun _ v => BitVec.ofNat 32 v)

/-- A store's outcome: its exception, or what follows it. -/
def afterStore (c : Nat) (r : Res (Option Exc × State)) (g : State → Res State) : Res State :=
  match r with
  | .next (some e, s) => .next (s.raiseCc c e)
  | .next (none, s) => g s
  | .fault x => .fault x
  | .refused x => .refused x

/-- CC_ST (R481). -/
def execCcSt (c : Core) (o : MemOp) (s : State) : Res State :=
  s.ccIssueR c fun s =>
    if o.size = 3 then .next (s.raiseCc c (exc 5))
    else
      match s.memAddr c o with
      | none => .next (s.raiseCc c (exc 5))
      | some (a, upd) =>
        afterStore c (s.dStore c a (2 ^ o.size.toNat) (s.rd c o.rd)) fun s => .next ((s.baseUpdate c o upd).ccNext c)

/-! ## Spills and fills (R476) -/

/-- The words of a frame slot go to memory, one after the other. -/
def spillWords (c slot a : Nat) : Nat → Nat → State → Res State
  | 0, _, s => .next ((s.modCc c fun k => k.setWin k.wbase (k.wres - 1)).ccNext c)
  | n + 1, i, s =>
    afterStore c (s.dStore c ((a + 4 * i) % 2 ^ 32) 4 ((s.cc c).get (frameReg slot i))) fun s => spillWords c slot a n (i + 1) s

/-- CC_WSPILL (R476): the oldest resident frame. -/
def execCcWspill (c : Core) (ra : BitVec 5) (s : State) : Res State :=
  s.ccIssueR c fun s =>
    let k := s.cc c
    if k.wres = 1 then .next (s.ccNext c)
    else spillWords c (k.wbase + 9 - k.wres) (s.rd c ra).toNat 16 0 s

/-- The words of a frame slot come from memory. -/
def fillWords (c slot a : Nat) : Nat → Nat → State → State
  | 0, _, s => (s.modCc c fun k => k.setWin k.wbase (k.wres + 1)).ccNext c
  | n + 1, i, s =>
    match s.dLoad c ((a + 4 * i) % 2 ^ 32) 4 with
    | (.error e, s) => s.raiseCc c e
    | (.ok v, s) => fillWords c slot a n (i + 1) (s.result c (.reg (frameReg slot i)) (BitVec.ofNat 32 v) 2)

/-- CC_WFILL (R476): the frame of the caller. -/
def execCcWfill (c : Core) (ra : BitVec 5) (s : State) : Res State :=
  .next <| s.ccIssue c fun s =>
    let k := s.cc c
    if k.wres = 8 then s.ccNext c
    else fillWords c (k.wbase + 7) (s.rd c ra).toNat 16 0 s

/-! ## String instructions (R483, R484) -/

/-- The pass registers p4 to p7 of a string instruction. -/
def State.pReg (s : State) (c n : Nat) : Word := (s.cc c).get (8 + n)
def State.setP (s : State) (c n : Nat) (v : Word) : State := s.result c (.reg (8 + n)) v 1

/-- p4 and p5 advance by one element where named, and p6 falls by one. -/
def State.strNext (s : State) (c e : Nat) (dst src : Bool) : State :=
  let s := if dst then s.setP c 4 (s.pReg c 4 + BitVec.ofNat 32 e) else s
  let s := if src then s.setP c 5 (s.pReg c 5 + BitVec.ofNat 32 e) else s
  s.setP c 6 (s.pReg c 6 - 1)

/-- One element of an instruction: an exception, the end of the instruction, or on to the next element. -/
inductive StrStep where
  | trap (e : Exc) (s : State)
  | stop (s : State)
  | more (s : State)

/-- An interrupt that a string instruction takes between two elements: not in a delay slot (R480, R484). -/
def State.strIrq (s : State) (c : Nat) : Option Nat :=
  let k := s.cc c
  if k.slot.isSome || !k.ie || k.exl || k.wexl then none else s.bestLine c

/-- The elements of a string instruction: p6 of them at most; after `irq` of them a pending interrupt is taken, with the
instruction's own address to return to. -/
def strRun (c : Nat) (one : State → Res StrStep) (irq : Option Nat) : Nat → Nat → State → Res State
  | 0, _, s => .next (s.ccNext c)
  | n + 1, i, s =>
    match one s with
    | .fault x => .fault x
    | .refused x => .refused x
    | .next (.trap e s) => .next (s.raiseCc c e)
    | .next (.stop s) => .next (s.ccNext c)
    | .next (.more s) =>
      match if irq = some (i + 1) ∧ n ≠ 0 then s.strIrq c else none with
      | some l => .next (s.enterIrq c l)
      | none => strRun c one irq n (i + 1) s

/-- A string instruction of a core; element size code 3 is reserved. -/
def State.strExec (s : State) (c : Nat) (e : BitVec 2) (irq : Option Nat) (init : State → State)
    (one : Nat → State → Res StrStep) : Res State :=
  s.ccIssueR c fun s =>
    if e = 3 then .next (s.raiseCc c (exc 5))
    else
      let s := init s
      strRun c (one (2 ^ e.toNat)) irq (s.pReg c 6).toNat 0 s

/-- A load and a store of one element. -/
def strLoad (c a e : Nat) (s : State) (g : Nat → State → Res StrStep) : Res StrStep :=
  match s.dLoad c a e with
  | (.error x, s) => .next (.trap x s)
  | (.ok v, s) => g v s
def strStore (c a e : Nat) (v : Word) (s : State) (g : State → StrStep) : Res StrStep :=
  match s.dStore c a e v with
  | .next (some x, s) => .next (.trap x s)
  | .next (none, s) => .next (g s)
  | .fault x => .fault x
  | .refused x => .refused x

/-- CC_SMOV (R483). -/
def execCcSmov (c : Core) (e : BitVec 2) (stopAfter : Option Nat) (s : State) : Res State :=
  s.strExec c e stopAfter id fun e s =>
    strLoad c (s.pReg c 5).toNat e s fun v s =>
      strStore c (s.pReg c 4).toNat e (BitVec.ofNat 32 v) s fun s => .more (s.strNext c e true true)

/-- CC_SFILL (R483). -/
def execCcSfill (c : Core) (e : BitVec 2) (stopAfter : Option Nat) (s : State) : Res State :=
  s.strExec c e stopAfter id fun e s =>
    strStore c (s.pReg c 4).toNat e (s.pReg c 7) s fun s => .more (s.strNext c e true false)

/-- CC_SCMP (R483). -/
def execCcScmp (c : Core) (e : BitVec 2) (stopAfter : Option Nat) (s : State) : Res State :=
  s.strExec c e stopAfter (fun s => s.setP c 7 0) fun e s =>
    strLoad c (s.pReg c 4).toNat e s fun x s =>
      strLoad c (s.pReg c 5).toNat e s fun y s =>
        .next (if x = y then .more (s.strNext c e true true) else .stop (s.setP c 7 (if y < x then 1 else 0xFFFFFFFF)))

/-- CC_SFIND (R483). -/
def execCcSfind (c : Core) (e : BitVec 2) (stopAfter : Option Nat) (s : State) : Res State :=
  s.strExec c e stopAfter id fun e s =>
    strLoad c (s.pReg c 5).toNat e s fun x s =>
      .next (if x = (s.pReg c 7).toNat % 256 ^ e then .stop s else .more (s.strNext c e false true))

/-! ## CACHE (R495, R498) -/

/-- A CACHE operation on the line that holds an address: with its permission, 0 read or 1 write. -/
def State.cacheOp (s : State) (c : Nat) (o : MemOp) (perm : Nat) (g : State → Nat → State) : State :=
  s.ccIssue c fun s =>
    match s.memAddr c o with
    | none => s.raiseCc c (exc 5)
    | some (a, upd) =>
      if (s.cc c).mpuOk a perm = false then s.raiseCc c (excAt 4 a 5)
      else ((g s (lineBase a)).baseUpdate c o upd).ccNext c

/-- An operation on every line: no address is accessed. -/
def State.cacheAll (s : State) (c : Nat) (o : MemOp) (g : State → State) : State :=
  s.ccIssue c fun s =>
    match s.memAddr c o with
    | none => s.raiseCc c (exc 5)
    | some (_, upd) => ((g s).baseUpdate c o upd).ccNext c

/-- The dirty lines that a test picks go back to memory and stay valid; the lines that it picks are discarded. -/
def State.dClean (s : State) (c : Nat) (p : CLine → Bool) : State :=
  (((s.cc c).dcache.filter fun l => l.dirty && p l).foldl State.writeBack s).modCc c fun k =>
    { k with dcache := k.dcache.map fun l => if p l then { l with dirty := false } else l }
def State.dDrop (s : State) (c : Nat) (p : CLine → Bool) : State :=
  s.modCc c fun k => { k with dcache := k.dcache.filter fun l => !p l }
def State.iDrop (s : State) (c : Nat) (p : CLine → Bool) : State :=
  s.modCc c fun k => { k with icache := k.icache.filter fun l => !p l }

/-- CC_DCLEAN (R498). -/
def execCcDclean (c : Core) (o : MemOp) (s : State) : Res State :=
  .next (s.cacheOp c o 0 fun s b => s.dClean c fun l => l.base == b)

/-- CC_DINVAL (R498). -/
def execCcDinval (c : Core) (o : MemOp) (s : State) : Res State :=
  .next (s.cacheOp c o 1 fun s b => s.dDrop c fun l => l.base == b)

/-- CC_DFLUSH (R498). -/
def execCcDflush (c : Core) (o : MemOp) (s : State) : Res State :=
  .next (s.cacheOp c o 1 fun s b => (s.dClean c fun l => l.base == b).dDrop c fun l => l.base == b)

/-- CC_DCLEAN_ALL (R498). -/
def execCcDcleanAll (c : Core) (o : MemOp) (s : State) : Res State :=
  .next (s.cacheAll c o fun s => s.dClean c fun _ => true)

/-- CC_DFLUSH_ALL (R498). -/
def execCcDflushAll (c : Core) (o : MemOp) (s : State) : Res State :=
  .next (s.cacheAll c o fun s => (s.dClean c fun _ => true).dDrop c fun _ => true)

/-- CC_IINVAL (R498). -/
def execCcIinval (c : Core) (o : MemOp) (s : State) : Res State :=
  .next (s.cacheOp c o 1 fun s b => s.iDrop c fun l => l.base == b)

/-- CC_IINVAL_ALL (R498). -/
def execCcIinvalAll (c : Core) (o : MemOp) (s : State) : Res State :=
  .next (s.cacheAll c o fun s => s.iDrop c fun _ => true)

end Sys2Proof.Machine
end

