-- ==== Sys2Proof/Machine/Dma.lean ====
section
/-! DEFINITION. The commands of the DMA controller, and its bursts (R506 to R513). -/

namespace Sys2Proof.Machine

/-! ## Request lines (R507) -/

/-- A request line is active. -/
def State.dmaLine (s : State) (n : Nat) : Bool :=
  if n = 0 then decide (8 ≤ s.hsp.rx.length)
  else if n = 1 then decide (s.hsp.tx.length + 8 ≤ 64)
  else if n = 2 then decide (8 ≤ s.psc.rx.length)
  else if n = 3 then decide (s.psc.tx.length + 8 ≤ 32)
  else if n < 10 then
    let u := (n - 4) / 2
    if n % 2 = 0 then s.b (F.UART_STAT_RXTRIG u) else s.b (F.UART_STAT_TXTRIG u)
  else if n = 10 then
    match s.flash.run with
    | some r => if r.write then decide (s.flash.fifo.length + 8 ≤ fifoDepth) else decide (8 ≤ s.flash.fifo.length)
    | none => decide (8 ≤ s.flash.fifo.length)
  else if n = 11 then true
  else if n < 16 then false
  else s.fbit F.DMA_SWREQ_REQ (n - 16)

/-- The request line of a paced descriptor. -/
def dReq (d : List Word) : Nat := wordFld (d.getD 3 0) 25 21

/-- A channel may start a burst. -/
def State.dmaReady (s : State) (c : Nat) : Bool :=
  s.fbit F.DMA_STAT_ACTIVE c &&
    match (s.dmaCh c).desc with
    | some d => !dBit d 26 || s.dmaLine (dReq d)
    | none => false

/-- The ready channels of a class of PRIO, from the one after the channel that the class had served last. -/
def State.dmaClass (s : State) (p : Nat) : List Nat :=
  ((List.range 16).map fun i => (s.dmaTurn[p]?.getD 15 + 1 + i) % 16).filter fun c => s.dmaReady c && s.f (F.CH_CTRL_PRIO c) = p

/-- Arbitration (R510): PRIO 1 before PRIO 0, round robin among channels of equal PRIO. -/
def State.dmaPick (s : State) : Option Nat := (s.dmaClass 1 ++ s.dmaClass 0).head?

/-! ## A burst (R506 to R509) -/

/-- The words that cover n bytes from an address. -/
def coverWords (a n : Nat) : List Nat := (List.range ((a % 4 + n + 3) / 4)).map fun i => (a / 4 * 4 + 4 * i) % 2 ^ 32

/-- Whole words read one after the other, with the first address that ends with a bus error. -/
def dmaReads : List Nat → State → List Byte → Except Nat (List Byte) × State
  | [], s, acc => (.ok acc, s)
  | a :: rest, s, acc =>
    let t := s.busRead ⟨.dma, false, 4, BitVec.ofNat 32 a, 0, .clean⟩
    if t.resp.err then (.error a, t) else dmaReads rest t (acc ++ leBytes 4 t.resp.data.toNat)

/-- The bytes of one word that a write enables: offset in the word and value. -/
def laneBytes (dst : Nat) (bs : List Byte) (i : Nat) : List (Nat × Byte) :=
  (List.range 4).filterMap fun k =>
    let p := 4 * i + k
    if dst % 4 ≤ p then (bs[p - dst % 4]?).map fun b => (k, b) else none

/-- One word is written with byte enables: whole, or the enabled bytes (R508). -/
def dmaWriteWord (a : Nat) (lanes : List (Nat × Byte)) (s : State) : Res State :=
  if lanes.length = 4 then
    s.busWrite ⟨.dma, true, 4, BitVec.ofNat 32 a, BitVec.ofNat 32 (leNat (lanes.map (·.2))), .clean⟩
  else
    lanes.foldl (fun r p => bindRes r fun t =>
      if t.resp.err then .next t else t.busWrite ⟨.dma, true, 1, BitVec.ofNat 32 (a + p.1), p.2.setWidth 32, .clean⟩)
      (.next (s.ret 0))

/-- Bytes of a burst that its first words have written. -/
def dmaWritten (dst n words : Nat) : Nat := min n (4 * words - dst % 4)

/-- Words written one after the other; the first bus error halts DMA, and REM counts what the words before it have written
(R511, R513). -/
def dmaWrites (c : Nat) (dst : Nat) (bs : List Byte) (fixed : Bool) : List Nat → Nat → State → (State → Res State) → Res State
  | [], _, s, g => g s
  | a :: rest, i, s, g =>
    bindRes (dmaWriteWord (if fixed then dst else a) (laneBytes dst bs i) s) fun t =>
      if t.resp.err then
        .next ((t.setReg (R.CH_REM c) (t.reg (R.CH_REM c) - BitVec.ofNat 32 (dmaWritten dst bs.length i))).dmaHalt c 3
          (if fixed then dst else a))
      else dmaWrites c dst bs fixed rest (i + 1) t g

/-- The descriptor is complete: STATUS with DONE, the flag, and only then NEXT (R506). -/
def State.dmaDone (s : State) (c : Nat) (d : List Word) : Res State :=
  let at_ := (s.reg (R.CH_CUR c)).toNat + 28
  bindRes (s.busWrite ⟨.dma, true, 4, BitVec.ofNat 32 at_, BitVec.ofNat 32 (2 ^ 31 + dLen d), .clean⟩) fun t =>
    if t.resp.err then .next (t.dmaHalt c 4 at_)
    else
      let t := if dBit d 31 then t.setFbit F.DMA_DONE_DONE c true else t
      .next (if dW d 4 = 0 then t.dmaStop c else t.dmaBegin c (dW d 4))

/-- The bytes of a burst have moved. -/
def State.dmaMoved (s : State) (c : Nat) (d : List Word) (n : Nat) : Res State :=
  let m := (s.dmaCh c).moved + n
  let s := (s.modDma c fun x => { x with moved := m }).setReg (R.CH_REM c) (BitVec.ofNat 32 (dLen d - m))
  if m = dLen d then s.dmaDone c d else .next s

/-- A burst of n bytes from an address to an address. -/
def State.dmaMove (s : State) (c : Nat) (d : List Word) (src dst n : Nat) : Res State :=
  let from_ := if dBit d 28 then List.replicate ((n + 3) / 4) src else coverWords src n
  match dmaReads from_ s [] with
  | (.error a, s) => .next (s.dmaHalt c 2 a)
  | (.ok bs, s) =>
    let bs := (bs.drop (src % 4)).take n
    dmaWrites c dst bs (dBit d 27) (coverWords dst n) 0 s fun s => s.dmaMoved c d n

/-- The next burst of a channel: at most BURSTM1 + 1 words read, within one element in MODE 1 and 2 (R506, R509). -/
def State.dmaBurst (s : State) (c : Nat) (d : List Word) : Res State :=
  let p := (s.dmaCh c).moved
  let cap (src : Nat) := if dBit d 28 then 4 * dBeats d else 4 * dBeats d - src % 4
  if dMode d = 0 then
    let src := if dBit d 28 then dW d 0 else (dW d 0 + p) % 2 ^ 32
    let dst := if dBit d 27 then dW d 1 else (dW d 1 + p) % 2 ^ 32
    s.dmaMove c d src dst (min (dLen d - p) (cap src))
  else
    let i := p / dEsize d
    let q := p % dEsize d
    let at_ := (dW d 5 + 4 * i) % 2 ^ 32
    let t := s.busRead ⟨.dma, false, 4, BitVec.ofNat 32 at_, 0, .clean⟩
    if t.resp.err then .next (t.dmaHalt c 1 at_)
    else
      let x := t.resp.data.toNat
      let fixed (b : Bool) (a : Nat) := if b then a else (a + q) % 2 ^ 32
      let src := if dMode d = 1 then (dW d 0 + x + q) % 2 ^ 32 else fixed (dBit d 28) (dW d 0 + i * dEsize d * b2n (!dBit d 28))
      let dst := if dMode d = 2 then (dW d 1 + x + q) % 2 ^ 32 else fixed (dBit d 27) (dW d 1 + i * dEsize d * b2n (!dBit d 27))
      t.dmaMove c d src dst (min (dEsize d - q) (cap src))

/-- DMA_BURST (R507, R510): the channel that wins starts a burst; a software request that paces it clears. -/
def execDmaBurst (s : State) : Res State :=
  if s.on 21 && s.b F.DMA_CTRL_EN && !s.b F.DMA_STAT_HALTED then
    match s.dmaPick with
    | some c =>
      match (s.dmaCh c).desc with
      | some d =>
        let s := { s with dmaLast := c, dmaTurn := vmod s.dmaTurn (s.f (F.CH_CTRL_PRIO c)) fun _ => c }
        let s := if dBit d 26 && decide (16 ≤ dReq d) then s.setFbit F.DMA_SWREQ_REQ (dReq d - 16) false else s
        s.dmaBurst c d
      | none => .next s
    | none => .next s
  else .next s

/-! ## Registers (R507, R512, R513) -/

/-- DMA_GO (R513). -/
def execDmaGo (ch : BitVec 4) (s : State) : Res State :=
  .next (if s.on 21 then s.dmaStart ch.toNat else s.busErr)

/-- DMA_STOP (R513). -/
def execDmaStop (ch : BitVec 4) (s : State) : Res State :=
  .next (if s.on 21 then (if s.fbit F.DMA_STAT_ACTIVE ch.toNat then s.dmaStop ch.toNat else s) else s.busErr)

/-- DMA_CLRHALT (R512). -/
def execDmaClrhalt (s : State) : Res State := .next (if s.on 21 then s.dmaClear else s.busErr)

/-- DMA_SWREQ_WRITE (R507). -/
def execDmaSwreqWrite (data : Word) (s : State) : Res State :=
  if s.on 21 then writeTo R.DMA_SWREQ data (s.plainWrite R.DMA_SWREQ data) else .next s.busErr

end Sys2Proof.Machine
end

