-- ==== Sys2Proof/Machine/Settle.lean ====
section
/-! DEFINITION. Commands after which firmware looks again at what it waits for: the power state, once a host epoch has changed the
tolerance or the mask or the queue has run empty (R186, R213), and anchored domains that wait for their ACS (R210). -/

namespace Sys2Proof.Machine

/-- The queue is empty and no reconcile is left (R186). -/
def State.settled (s : State) : Bool := s.stg.queue.isEmpty && s.stg.recon.isNone && s.phase = 0

/-- Firmware writes EVAL when the tolerance or the mask has changed between two states, and when the conditions of R186 have become
true (R213). -/
def State.settle (s t : State) : State :=
  if s.reg R.PMU_LATTOL ≠ t.reg R.PMU_LATTOL ∨ s.reg R.PMU_REQMASK ≠ t.reg R.PMU_REQMASK ∨ (s.settled = false ∧ t.settled) then
    t.pmuEval
  else t

/-- ARM (R57, R63). -/
def execArm (s : State) : Res State := .next (s.settle s.arm)

/-- SAMPLE_TICK (R34). -/
def execSampleTick (d : Dom) (i : TickIn) (s : State) : Res State :=
  let s := s.advance i.el
  .next (s.settle (s.sampleTick d i))

/-- RECONCILE_DONE (R177, R186). -/
def execReconcileDone (goldenBad : Option (Fin 16)) (s : State) : Res State := .next (s.settle (s.reconcileDone goldenBad))

/-- ACS_LOCK (R37, R210): waiting starts proceed, and anchored domains that ran at the entry to S3 or S4 start by the trigger. -/
def execAcsLock (a : Bool) (s : State) : Res State :=
  let s := s.acsLocked (b2n a)
  .next (s.forEach ((List.range 4).filter fun d => (s.dom d).napIdx.isSome ∧ s.anchoring d) State.anchorStart)

end Sys2Proof.Machine
end

