-- ==== Sys2Proof/Machine/Update.lean ====
section
/-! DEFINITION. The firmware update and the reset that a host asks for (R389, R395 to R397). -/

namespace Sys2Proof.Machine

def State.modFw (s : State) (g : FwUpdate → FwUpdate) : State := { s with fw := g s.fw }

/-- The flash region of the slot being updated. -/
def State.fwRegion (s : State) : Nat := slotRegion s.fw.slot

/-- Where the update package stands in its slot: after the 4 KiB that hold the slot record (log 36). -/
def pkgOff : Nat := 4096

/-- FWBEGIN (R395, R396): the slot not booted is erased, which leaves its record invalid. -/
def execBcpFwbegin (rq : Req) (s : State) : Res State :=
  .next (s.serve 0x70 rq [(tCount, 1, 1)] false fun s a =>
    let x := a.get tCount
    let n := x.num
    if s.fw.owner.isSome ∧ s.fw.owner ≠ some (s.session rq.mbx) then refuse stNotInState
    else if s.fw.run ≠ 0 then refuse stBusy
    else if n < 4096 ∨ 8388608 < n ∨ n % 4 ≠ 0 then refuseAt stRange x
    else answer [] fun s =>
      let s := s.modFw fun u =>
        { u with st := 1, slot := !s.bootedB, got := 0, len := n, status := 0, owner := some (s.session rq.mbx), run := 1 }
      s.regionErase s.fwRegion)

/-- FW_ERASE_DONE (R395): FW_READY. -/
def execFwEraseDone (ok : Bool) (s : State) : Res State :=
  .next <|
    if s.fw.run ≠ 1 then s
    else
      let st := if ok then 0 else stStorage
      let s := s.modFw fun u => { u with
        run := 0, status := st, st := if u.owner.isNone then u.st else if ok then 2 else 5
        owner := if ok then u.owner else none }
      s.raise 0x0702 (leBytes 4 st)

/-- FWDATA (R396): the reply follows the programming of the chunk. -/
def execBcpFwdata (rq : Req) (flashOk : Bool) (s : State) : Res State :=
  .next (s.serve 0x71 rq [(tChunk, 1, 1)] false fun s a =>
    let x := a.get tChunk
    let n := x.data.length
    if s.fw.owner ≠ some (s.session rq.mbx) ∨ s.fw.st ≠ 2 then refuse stNotInState
    else if x.num ≠ s.fw.got then ⟨stRange, num32 tItem x.idx ++ num32 tCount s.fw.got, id⟩
    else if s.fw.len < x.num + n then refuseAt stRange x
    else if !flashOk ∨ s.regionShort s.fwRegion ∨ slotBytes < pkgOff + x.num + n then refuse stStorage
    else answer [] fun s => (s.regionWrite s.fwRegion (pkgOff + x.num) x.data).modFw fun u => { u with got := u.got + n })

/-- FWEND (R396). -/
def execBcpFwend (rq : Req) (s : State) : Res State :=
  .next (s.serve 0x72 rq [] false fun s _ =>
    if s.fw.run = 2 then refuse stBusy
    else if s.fw.owner ≠ some (s.session rq.mbx) ∨ s.fw.st ≠ 2 ∨ s.fw.got ≠ s.fw.len then refuse stNotInState
    else answer [] fun s => s.modFw fun u => { u with st := 3, run := 2 })

/-- The two images of a package, stage 1 first and stage 2 at the next multiple of 4 KiB (log 36): the places, and the
cause of the first failed check, 0 when both pass (R459). -/
def State.pkgCheck (s : State) : Nat × Nat × Nat × Nat × Nat :=
  let r := s.fwRegion
  let n1 := 256 + hdrLength (s.regionRead r pkgOff 256)
  let o2 := pkgOff + ceilBlock 4096 n1
  let n2 := 256 + hdrLength (s.regionRead r o2 256)
  let i1 := s.regionRead r pkgOff (min n1 0x20000)
  let c1 := s.checkImage i1 1 n1 none
  let c := if c1 ≠ 0 then c1
    else if pkgOff + s.fw.len < o2 + n2 then 4
    else s.checkImage (s.regionRead r o2 (min n2 0x100000)) 2 n2 (some (hdrSvn i1))
  (n1, o2, n2, hdrVersion i1, c)

/-- The sequence number of the booted slot. -/
def State.bootedSeq (s : State) : Nat :=
  let r := s.regionRead (slotRegion s.bootedB) 0 64
  if slotValid r then slotSeq r else 0

/-- FW_VERIFIED: status, version and slot (R394). -/
def State.fwVerified (s : State) (st version : Nat) : State :=
  (s.modFw fun u => { u with run := 0, status := st, owner := none, st := if st = 0 then 4 else 5 }).raise 0x0703
    (leBytes 4 st ++ leBytes 4 version ++ [BitVec.ofNat 8 (b2n s.fw.slot)])

/-- FW_VERIFY_DONE (R396): the record is written when both images pass; an abandoned update leaves it invalid, and which
of the failures the event then carries is free (log 6). -/
def execFwVerifyDone (flashOk : Bool) (s : State) : Res State :=
  .next <|
    if s.fw.run ≠ 2 then s
    else
      let (n1, o2, n2, ver, c) := s.pkgCheck
      if !flashOk ∨ s.regionShort s.fwRegion then s.fwVerified stStorage ver
      else if c ≠ 0 then s.fwVerified (checkStatus c) ver
      else if s.fw.owner.isNone then
        let (v, s) := s.free
        s.fwVerified ([14, 5, 11].getD (v % 3) 14) ver
      else
        let rec_ := slotRecord ((s.bootedSeq + 1) % 2 ^ 32) pkgOff n1 o2 n2
        (s.regionWrite s.fwRegion 0 rec_).fwVerified 0 ver

/-- FWSTAT (R395). -/
def execBcpFwstat (rq : Req) (s : State) : Res State :=
  .next (s.serve 0x73 rq [] false fun s _ =>
    let u := s.fw
    answer (item tRec ([BitVec.ofNat 8 u.st, BitVec.ofNat 8 (b2n u.slot), 0, 0] ++ leBytes 4 u.got ++ leBytes 4 u.len ++
      leBytes 4 u.status)) id)

/-- RESET (R397): the delay starts after the reply. -/
def execBcpReset (rq : Req) (s : State) : Res State :=
  .next (s.serve 0x74 rq [(tCount, 1, 1)] false fun _ a =>
    let x := a.get tCount
    if 10000 < x.num then refuseAt stRange x else answer [] fun s => s.modFw fun u => { u with reset := true })

/-- RESET_DELAY_EXPIRY (R397): the journal is written, every session closes, and the device resets with cause 7. -/
def execResetDelayExpiry (s : State) : Res State :=
  .next <|
    if !s.fw.reset then s
    else
      let s := (s.jWrite.jStamp).modFw fun u => { u with reset := false }
      (s.forEach (List.range 64) State.closeSession).requestReset 7

end Sys2Proof.Machine
end

