-- ==== Sys2Proof/Machine/Dispatch.lean ====
section
/-! DEFINITION. One arm per command of the table: its meaning. -/

namespace Sys2Proof.Machine

/-- The effect of a command on everything but the queue. -/
def exec (i : Instr) (s : State) : Host.Outcome State Fault Refusal :=
  match i with
  | .registerWrite who addr data meets => Sys2Proof.Machine.execRegisterWrite who addr data meets s
  | .busAccess a others => Sys2Proof.Machine.execBusAccess a others s
  | .engineWindowWrite who e off width data => Sys2Proof.Machine.execEngineWindowWrite who e off width data s
  | .engineWindowRead who e off width => Sys2Proof.Machine.execEngineWindowRead who e off width s
  | .ldsHostAccess who write width addr data => Sys2Proof.Machine.execLdsHostAccess who write width addr data s
  | .sampleTick d inp => Sys2Proof.Machine.execSampleTick d inp s
  | .domainStart mask => Sys2Proof.Machine.execDomainStart mask s
  | .longWriteDrain e => Sys2Proof.Machine.execLongWriteDrain e s
  | .passDone e => Sys2Proof.Machine.execPassDone e s
  | .rNop e h => Sys2Proof.Machine.execRNop e h s
  | .rEnd e h => Sys2Proof.Machine.execREnd e h s
  | .rRpt e h count body => Sys2Proof.Machine.execRRpt e h count body s
  | .rRptc e h cr body => Sys2Proof.Machine.execRRptc e h cr body s
  | .rMac e h o => Sys2Proof.Machine.execRMac e h o s
  | .rMacd e h o => Sys2Proof.Machine.execRMacd e h o s
  | .rMacw e h o => Sys2Proof.Machine.execRMacw e h o s
  | .rMacqd e h o => Sys2Proof.Machine.execRMacqd e h o s
  | .rMacqc e h o => Sys2Proof.Machine.execRMacqc e h o s
  | .rTap e h o => Sys2Proof.Machine.execRTap e h o s
  | .rTapm e h o => Sys2Proof.Machine.execRTapm e h o s
  | .rFdr e h dl dd kb qa neg z => Sys2Proof.Machine.execRFdr e h dl dd kb qa neg z s
  | .rClrq e h mask => Sys2Proof.Machine.execRClrq e h mask s
  | .rLdq e h qa dn neg acc => Sys2Proof.Machine.execRLdq e h qa dn neg acc s
  | .rAddq e h qa qb neg => Sys2Proof.Machine.execRAddq e h qa qb neg s
  | .rStq e h qa sh mop => Sys2Proof.Machine.execRStq e h qa sh mop s
  | .rLd e h dn mop => Sys2Proof.Machine.execRLd e h dn mop s
  | .rSt e h dn mop => Sys2Proof.Machine.execRSt e h dn mop s
  | .rLuti e h dd ds base log2n sgn => Sys2Proof.Machine.execRLuti e h dd ds base log2n sgn s
  | .rMov e h o => Sys2Proof.Machine.execRMov e h o s
  | .rAdd e h o => Sys2Proof.Machine.execRAdd e h o s
  | .rAdds e h o => Sys2Proof.Machine.execRAdds e h o s
  | .rSub e h o => Sys2Proof.Machine.execRSub e h o s
  | .rSubs e h o => Sys2Proof.Machine.execRSubs e h o s
  | .rAnd e h o => Sys2Proof.Machine.execRAnd e h o s
  | .rOr e h o => Sys2Proof.Machine.execROr e h o s
  | .rXor e h o => Sys2Proof.Machine.execRXor e h o s
  | .rShl e h o => Sys2Proof.Machine.execRShl e h o s
  | .rShr e h o => Sys2Proof.Machine.execRShr e h o s
  | .rAsr e h o => Sys2Proof.Machine.execRAsr e h o s
  | .rMin e h o => Sys2Proof.Machine.execRMin e h o s
  | .rMax e h o => Sys2Proof.Machine.execRMax e h o s
  | .rAbs e h o => Sys2Proof.Machine.execRAbs e h o s
  | .rMovs e h dd db sel => Sys2Proof.Machine.execRMovs e h dd db sel s
  | .rMova e h an imm => Sys2Proof.Machine.execRMova e h an imm s
  | .rAdda e h an mm rm imm => Sys2Proof.Machine.execRAdda e h an mm rm imm s
  | .rMovm e h mm imm => Sys2Proof.Machine.execRMovm e h mm imm s
  | .rMovad e h an dn => Sys2Proof.Machine.execRMovad e h an dn s
  | .rMovmd e h mm dn => Sys2Proof.Machine.execRMovmd e h mm dn s
  | .rCmp e h pd cc da db inp sr imm => Sys2Proof.Machine.execRCmp e h pd cc da db inp sr imm s
  | .rPlog e h pd pa pb lop => Sys2Proof.Machine.execRPlog e h pd pa pb lop s
  | .rPset e h pd val => Sys2Proof.Machine.execRPset e h pd val s
  | .unassignedRenderOpcode e w => Sys2Proof.Machine.execUnassignedRenderOpcode e w s
  | .engSwap e => Sys2Proof.Machine.execEngSwap e s
  | .engClear e => Sys2Proof.Machine.execEngClear e s
  | .clearDone e => Sys2Proof.Machine.execClearDone e s
  | .bistGo e => Sys2Proof.Machine.execBistGo e s
  | .bistDone e failmap => Sys2Proof.Machine.execBistDone e failmap s
  | .testPass e ttier => Sys2Proof.Machine.execTestPass e ttier s
  | .testPassLimit e => Sys2Proof.Machine.execTestPassLimit e s
  | .halfRequest b => Sys2Proof.Machine.execHalfRequest b s
  | .halfClearDone b => Sys2Proof.Machine.execHalfClearDone b s
  | .scrub => Sys2Proof.Machine.execScrub s
  | .epochWrite goldenBad => Sys2Proof.Machine.execEpochWrite goldenBad s
  | .arm => Sys2Proof.Machine.execArm s
  | .unitAck unit => Sys2Proof.Machine.execUnitAck unit s
  | .reconcileDone goldenBad => Sys2Proof.Machine.execReconcileDone goldenBad s
  | .stgMetdataRead who => Sys2Proof.Machine.execStgMetdataRead who s
  | .sampleIndexRead who d => Sys2Proof.Machine.execSampleIndexRead who d s
  | .boundaryTimeRead who d => Sys2Proof.Machine.execBoundaryTimeRead who d s
  | .sampleCounterRead who e => Sys2Proof.Machine.execSampleCounterRead who e s
  | .passmaxRead who e hwset => Sys2Proof.Machine.execPassmaxRead who e hwset s
  | .ldsPeakRead who d hwset => Sys2Proof.Machine.execLdsPeakRead who d hwset s
  | .windowEnd el acts lengthNs => Sys2Proof.Machine.execWindowEnd el acts lengthNs s
  | .tsuSample el t => Sys2Proof.Machine.execTsuSample el t s
  | .tripShutdown timeout => Sys2Proof.Machine.execTripShutdown timeout s
  | .shadowForce le => Sys2Proof.Machine.execShadowForce le s
  | .avsSettled => Sys2Proof.Machine.execAvsSettled s
  | .pmuEval => Sys2Proof.Machine.execPmuEval s
  | .powerStateEntry wake => Sys2Proof.Machine.execPowerStateEntry wake s
  | .wakePin => Sys2Proof.Machine.execWakePin s
  | .wakeTimer el => Sys2Proof.Machine.execWakeTimer el s
  | .gpioWake pin rise held => Sys2Proof.Machine.execGpioWake pin rise held s
  | .uart0StartWake => Sys2Proof.Machine.execUart0StartWake s
  | .uartAddressWake two c => Sys2Proof.Machine.execUartAddressWake two c s
  | .hspWake => Sys2Proof.Machine.execHspWake s
  | .netframeWake frame => Sys2Proof.Machine.execNetframeWake frame s
  | .cloneStart punty le => Sys2Proof.Machine.execCloneStart punty le s
  | .cloneLoadDone => Sys2Proof.Machine.execCloneLoadDone s
  | .cloneCopyDone => Sys2Proof.Machine.execCloneCopyDone s
  | .compareWindowDone => Sys2Proof.Machine.execCompareWindowDone s
  | .shadowAbort => Sys2Proof.Machine.execShadowAbort s
  | .handoverRequest cold incoming outgoing le => Sys2Proof.Machine.execHandoverRequest cold incoming outgoing le s
  | .coldLoadDone => Sys2Proof.Machine.execColdLoadDone s
  | .ageMeasure => Sys2Proof.Machine.execAgeMeasure s
  | .ageMeasureDone cnt => Sys2Proof.Machine.execAgeMeasureDone cnt s
  | .ageFmaxWrite e n => Sys2Proof.Machine.execAgeFmaxWrite e n s
  | .sysupd edge => Sys2Proof.Machine.execSysupd edge s
  | .loopLock l => Sys2Proof.Machine.execLoopLock l s
  | .engineClockSet e n => Sys2Proof.Machine.execEngineClockSet e n s
  | .engineClockLock e => Sys2Proof.Machine.execEngineClockLock e s
  | .acsUpdate a => Sys2Proof.Machine.execAcsUpdate a s
  | .acsLock a => Sys2Proof.Machine.execAcsLock a s
  | .acsRelock a => Sys2Proof.Machine.execAcsRelock a s
  | .acsClrq a => Sys2Proof.Machine.execAcsClrq a s
  | .phaseStepAdd a add => Sys2Proof.Machine.execPhaseStepAdd a add s
  | .phaseStepIssue a => Sys2Proof.Machine.execPhaseStepIssue a s
  | .acsCoast a => Sys2Proof.Machine.execAcsCoast a s
  | .frequencyCheck a count expected => Sys2Proof.Machine.execFrequencyCheck a count expected s
  | .referenceReturn a => Sys2Proof.Machine.execReferenceReturn a s
  | .systemReferenceLost => Sys2Proof.Machine.execSystemReferenceLost s
  | .mdllUnlock l ms => Sys2Proof.Machine.execMdllUnlock l ms s
  | .engineMdllUnlock e => Sys2Proof.Machine.execEngineMdllUnlock e s
  | .slowClockLoss => Sys2Proof.Machine.execSlowClockLoss s
  | .acsLiveRead who a => Sys2Proof.Machine.execAcsLiveRead who a s
  | .aspStart p => Sys2Proof.Machine.execAspStart p s
  | .aspStop p ended => Sys2Proof.Machine.execAspStop p ended s
  | .aspTrigGo dom bnd iectx pdm asp => Sys2Proof.Machine.execAspTrigGo dom bnd iectx pdm asp s
  | .slaveFrame p inp => Sys2Proof.Machine.execSlaveFrame p inp s
  | .clockLost p => Sys2Proof.Machine.execClockLost p s
  | .slotmaskRead who p => Sys2Proof.Machine.execSlotmaskRead who p s
  | .pdmStuck p ch => Sys2Proof.Machine.execPdmStuck p ch s
  | .iecRxFrame inp => Sys2Proof.Machine.execIecRxFrame inp s
  | .iecLockLoss => Sys2Proof.Machine.execIecLockLoss s
  | .iecStatusRead who => Sys2Proof.Machine.execIecStatusRead who s
  | .iecCsUpdate => Sys2Proof.Machine.execIecCsUpdate s
  | .srcAcquired g ratio => Sys2Proof.Machine.execSrcAcquired g ratio s
  | .srcRampDone g => Sys2Proof.Machine.execSrcRampDone g s
  | .frameReceive el port frame fcsOk offset => Sys2Proof.Machine.execFrameReceive el port frame fcsOk offset s
  | .egressTransmit el port => Sys2Proof.Machine.execEgressTransmit el port s
  | .internalPortTransmit el => Sys2Proof.Machine.execInternalPortTransmit el s
  | .macAgeing seconds => Sys2Proof.Machine.execMacAgeing seconds s
  | .mtRead => Sys2Proof.Machine.execMtRead s
  | .mtWriteStatic => Sys2Proof.Machine.execMtWriteStatic s
  | .mtDelete => Sys2Proof.Machine.execMtDelete s
  | .mtFlush => Sys2Proof.Machine.execMtFlush s
  | .mdioC22Write => Sys2Proof.Machine.execMdioC22Write s
  | .mdioC22Read phy => Sys2Proof.Machine.execMdioC22Read phy s
  | .mdioC45Address => Sys2Proof.Machine.execMdioC45Address s
  | .mdioC45Write => Sys2Proof.Machine.execMdioC45Write s
  | .mdioC45Read phy => Sys2Proof.Machine.execMdioC45Read phy s
  | .tsfInfoRead who => Sys2Proof.Machine.execTsfInfoRead who s
  | .dropsRead who port hwset => Sys2Proof.Machine.execDropsRead who port hwset s
  | .linkDown port led => Sys2Proof.Machine.execLinkDown port led s
  | .linkUp port speed half step ldelay offset => Sys2Proof.Machine.execLinkUp port speed half step ldelay offset s
  | .timeSourceLoss => Sys2Proof.Machine.execTimeSourceLoss s
  | .tuSet => Sys2Proof.Machine.execTuSet s
  | .tuStep => Sys2Proof.Machine.execTuStep s
  | .tuSourceSwitch slow => Sys2Proof.Machine.execTuSourceSwitch slow s
  | .tuNsRead who => Sys2Proof.Machine.execTuNsRead who s
  | .tuLnslRead who => Sys2Proof.Machine.execTuLnslRead who s
  | .tuLnslWrite data => Sys2Proof.Machine.execTuLnslWrite data s
  | .tpulseArm k => Sys2Proof.Machine.execTpulseArm k s
  | .tpulseDisarm k => Sys2Proof.Machine.execTpulseDisarm k s
  | .tpulseEdge k el => Sys2Proof.Machine.execTpulseEdge k el s
  | .tcapEdge el rise sinceNs => Sys2Proof.Machine.execTcapEdge el rise sinceNs s
  | .tcapRead who => Sys2Proof.Machine.execTcapRead who s
  | .trigArm => Sys2Proof.Machine.execTrigArm s
  | .trigDisarm => Sys2Proof.Machine.execTrigDisarm s
  | .trigFire el => Sys2Proof.Machine.execTrigFire el s
  | .doorbellWrite who rsp m ackMeets => Sys2Proof.Machine.execDoorbellWrite who rsp m ackMeets s
  | .sessionIdleTimeout m => Sys2Proof.Machine.execSessionIdleTimeout m s
  | .hspMsg f => Sys2Proof.Machine.execHspMsg f s
  | .hspRead f => Sys2Proof.Machine.execHspRead f s
  | .hspStatus op f => Sys2Proof.Machine.execHspStatus op f s
  | .hspRxdataRead who => Sys2Proof.Machine.execHspRxdataRead who s
  | .hspTxdataWrite data => Sys2Proof.Machine.execHspTxdataWrite data s
  | .hspRsplenWrite c data => Sys2Proof.Machine.execHspRsplenWrite c data s
  | .bcpOpen rq => Sys2Proof.Machine.execBcpOpen rq s
  | .bcpClose rq => Sys2Proof.Machine.execBcpClose rq s
  | .bcpPing rq => Sys2Proof.Machine.execBcpPing rq s
  | .bcpGet rq => Sys2Proof.Machine.execBcpGet rq s
  | .bcpStage rq => Sys2Proof.Machine.execBcpStage rq s
  | .bcpUnstage rq => Sys2Proof.Machine.execBcpUnstage rq s
  | .bcpDiscard rq => Sys2Proof.Machine.execBcpDiscard rq s
  | .bcpCommit rq => Sys2Proof.Machine.execBcpCommit rq s
  | .bcpList rq => Sys2Proof.Machine.execBcpList rq s
  | .bcpDescribe rq => Sys2Proof.Machine.execBcpDescribe rq s
  | .bcpImgbegin rq => Sys2Proof.Machine.execBcpImgbegin rq s
  | .bcpImgdata rq => Sys2Proof.Machine.execBcpImgdata rq s
  | .bcpImgend rq => Sys2Proof.Machine.execBcpImgend rq s
  | .bcpImgread rq => Sys2Proof.Machine.execBcpImgread rq s
  | .bcpTblget rq => Sys2Proof.Machine.execBcpTblget rq s
  | .bcpTblstage rq => Sys2Proof.Machine.execBcpTblstage rq s
  | .bcpMeters rq => Sys2Proof.Machine.execBcpMeters rq s
  | .bcpSubscribe rq => Sys2Proof.Machine.execBcpSubscribe rq s
  | .bcpEvstat rq => Sys2Proof.Machine.execBcpEvstat rq s
  | .bcpPowerstat rq => Sys2Proof.Machine.execBcpPowerstat rq s
  | .bcpLehrstat rq => Sys2Proof.Machine.execBcpLehrstat rq s
  | .bcpEngmap rq => Sys2Proof.Machine.execBcpEngmap rq s
  | .bcpRelease rq => Sys2Proof.Machine.execBcpRelease rq s
  | .bcpRetire rq => Sys2Proof.Machine.execBcpRetire rq s
  | .bcpLogread rq => Sys2Proof.Machine.execBcpLogread rq s
  | .bcpJsync rq => Sys2Proof.Machine.execBcpJsync rq s
  | .bcpJclear rq => Sys2Proof.Machine.execBcpJclear rq s
  | .bcpFwbegin rq => Sys2Proof.Machine.execBcpFwbegin rq s
  | .fwEraseDone ok => Sys2Proof.Machine.execFwEraseDone ok s
  | .bcpFwdata rq flashOk => Sys2Proof.Machine.execBcpFwdata rq flashOk s
  | .bcpFwend rq => Sys2Proof.Machine.execBcpFwend rq s
  | .fwVerifyDone flashOk => Sys2Proof.Machine.execFwVerifyDone flashOk s
  | .bcpFwstat rq => Sys2Proof.Machine.execBcpFwstat rq s
  | .bcpReset rq => Sys2Proof.Machine.execBcpReset rq s
  | .resetDelayExpiry => Sys2Proof.Machine.execResetDelayExpiry s
  | .uartRxCharacter u c => Sys2Proof.Machine.execUartRxCharacter u c s
  | .autobaudTimeout u => Sys2Proof.Machine.execAutobaudTimeout u s
  | .uartTxCharacter u back => Sys2Proof.Machine.execUartTxCharacter u back s
  | .deHoldExpiry u => Sys2Proof.Machine.execDeHoldExpiry u s
  | .uartTxdataWrite u data => Sys2Proof.Machine.execUartTxdataWrite u data s
  | .uartRxdataRead who u => Sys2Proof.Machine.execUartRxdataRead who u s
  | .uartBaudWrite u data => Sys2Proof.Machine.execUartBaudWrite u data s
  | .uartRxflush u => Sys2Proof.Machine.execUartRxflush u s
  | .uartTxflush u => Sys2Proof.Machine.execUartTxflush u s
  | .uartTxbrk u on => Sys2Proof.Machine.execUartTxbrk u on s
  | .uartDisable u => Sys2Proof.Machine.execUartDisable u s
  | .pscCommandWrite data => Sys2Proof.Machine.execPscCommandWrite data s
  | .pscTransfer inp => Sys2Proof.Machine.execPscTransfer inp s
  | .pscAbort inp => Sys2Proof.Machine.execPscAbort inp s
  | .pscTxdataWrite data => Sys2Proof.Machine.execPscTxdataWrite data s
  | .pscRxdataRead who => Sys2Proof.Machine.execPscRxdataRead who s
  | .i2cXferGo data => Sys2Proof.Machine.execI2cXferGo data s
  | .i2cTimeout => Sys2Proof.Machine.execI2cTimeout s
  | .i2cClear pulse => Sys2Proof.Machine.execI2cClear pulse s
  | .i2cDataWrite data => Sys2Proof.Machine.execI2cDataWrite data s
  | .i2cDataRead who => Sys2Proof.Machine.execI2cDataRead who s
  | .gpioEdge pin rise heldNs heldSlow sinceNs => Sys2Proof.Machine.execGpioEdge pin rise heldNs heldSlow sinceNs s
  | .gpioSet data => Sys2Proof.Machine.execGpioSet data s
  | .gpioClr data => Sys2Proof.Machine.execGpioClr data s
  | .xmpTransfer data dev => Sys2Proof.Machine.execXmpTransfer data dev s
  | .xmpPollDone status failed => Sys2Proof.Machine.execXmpPollDone status failed s
  | .xmpPollTimeout => Sys2Proof.Machine.execXmpPollTimeout s
  | .xmpAbort => Sys2Proof.Machine.execXmpAbort s
  | .xmpEcccntRead who hwCorr hwUncorr hwMaxsec => Sys2Proof.Machine.execXmpEcccntRead who hwCorr hwUncorr hwMaxsec s
  | .xipEnable => Sys2Proof.Machine.execXipEnable s
  | .xipLock => Sys2Proof.Machine.execXipLock s
  | .xipRead who off width => Sys2Proof.Machine.execXipRead who off width s
  | .xipCacheInvalidate => Sys2Proof.Machine.execXipCacheInvalidate s
  | .journalFrameWrite => Sys2Proof.Machine.execJournalFrameWrite s
  | .journalStamp => Sys2Proof.Machine.execJournalStamp s
  | .journalWriteDone ok => Sys2Proof.Machine.execJournalWriteDone ok s
  | .retentionScan hours found => Sys2Proof.Machine.execRetentionScan hours found s
  | .deviceReset inp => Sys2Proof.Machine.execDeviceReset inp s
  | .romStatus ch words => Sys2Proof.Machine.execRomStatus ch words s
  | .romBegin ch words => Sys2Proof.Machine.execRomBegin ch words s
  | .romData ch words => Sys2Proof.Machine.execRomData ch words s
  | .romEnd ch words stuckFuse => Sys2Proof.Machine.execRomEnd ch words stuckFuse s
  | .recoveryWindowClose csHigh idle1s => Sys2Proof.Machine.execRecoveryWindowClose csHigh idle1s s
  | .fuseProgram data blows => Sys2Proof.Machine.execFuseProgram data blows s
  | .kdfGo data => Sys2Proof.Machine.execKdfGo data s
  | .kdfBoundSet data => Sys2Proof.Machine.execKdfBoundSet data s
  | .keyClear => Sys2Proof.Machine.execKeyClear s
  | .hashStart => Sys2Proof.Machine.execHashStart s
  | .hashDataWrite data => Sys2Proof.Machine.execHashDataWrite data s
  | .hashFinish last => Sys2Proof.Machine.execHashFinish last s
  | .verifyGo => Sys2Proof.Machine.execVerifyGo s
  | .verifyDone => Sys2Proof.Machine.execVerifyDone s
  | .supplyMonitorFail => Sys2Proof.Machine.execSupplyMonitorFail s
  | .vddAonLoss => Sys2Proof.Machine.execVddAonLoss s
  | .rstN lowNs released => Sys2Proof.Machine.execRstN lowNs released s
  | .s5ExitRetry valid => Sys2Proof.Machine.execS5ExitRetry valid s
  | .ccAdd c o => Sys2Proof.Machine.execCcAdd c o s
  | .ccSub c o => Sys2Proof.Machine.execCcSub c o s
  | .ccAnd c o => Sys2Proof.Machine.execCcAnd c o s
  | .ccOr c o => Sys2Proof.Machine.execCcOr c o s
  | .ccXor c o => Sys2Proof.Machine.execCcXor c o s
  | .ccShl c o => Sys2Proof.Machine.execCcShl c o s
  | .ccShr c o => Sys2Proof.Machine.execCcShr c o s
  | .ccAsr c o => Sys2Proof.Machine.execCcAsr c o s
  | .ccSlt c o => Sys2Proof.Machine.execCcSlt c o s
  | .ccSltu c o => Sys2Proof.Machine.execCcSltu c o s
  | .ccMul c o => Sys2Proof.Machine.execCcMul c o s
  | .ccMulh c o => Sys2Proof.Machine.execCcMulh c o s
  | .ccMulhu c o => Sys2Proof.Machine.execCcMulhu c o s
  | .ccDiv c o => Sys2Proof.Machine.execCcDiv c o s
  | .ccDivu c o => Sys2Proof.Machine.execCcDivu c o s
  | .ccRem c o => Sys2Proof.Machine.execCcRem c o s
  | .ccRemu c o => Sys2Proof.Machine.execCcRemu c o s
  | .ccAddi c o => Sys2Proof.Machine.execCcAddi c o s
  | .ccSlti c o => Sys2Proof.Machine.execCcSlti c o s
  | .ccAndi c o => Sys2Proof.Machine.execCcAndi c o s
  | .ccOri c o => Sys2Proof.Machine.execCcOri c o s
  | .ccXori c o => Sys2Proof.Machine.execCcXori c o s
  | .ccShli c o => Sys2Proof.Machine.execCcShli c o s
  | .ccShri c o => Sys2Proof.Machine.execCcShri c o s
  | .ccAsri c o => Sys2Proof.Machine.execCcAsri c o s
  | .ccLui c o => Sys2Proof.Machine.execCcLui c o s
  | .ccMfs c o => Sys2Proof.Machine.execCcMfs c o s
  | .ccMts c o => Sys2Proof.Machine.execCcMts c o s
  | .ccTrap c o => Sys2Proof.Machine.execCcTrap c o s
  | .ccLd c o => Sys2Proof.Machine.execCcLd c o s
  | .ccLdu c o => Sys2Proof.Machine.execCcLdu c o s
  | .ccSt c o => Sys2Proof.Machine.execCcSt c o s
  | .ccCb c o => Sys2Proof.Machine.execCcCb c o s
  | .ccCbi c o => Sys2Proof.Machine.execCcCbi c o s
  | .ccJ c off => Sys2Proof.Machine.execCcJ c off s
  | .ccCall c off => Sys2Proof.Machine.execCcCall c off s
  | .ccCallr c ra => Sys2Proof.Machine.execCcCallr c ra s
  | .ccRet c => Sys2Proof.Machine.execCcRet c s
  | .ccEret c => Sys2Proof.Machine.execCcEret c s
  | .ccWeret c => Sys2Proof.Machine.execCcWeret c s
  | .ccWait c => Sys2Proof.Machine.execCcWait c s
  | .ccSync c => Sys2Proof.Machine.execCcSync c s
  | .ccIsync c => Sys2Proof.Machine.execCcIsync c s
  | .ccWspill c ra => Sys2Proof.Machine.execCcWspill c ra s
  | .ccWfill c ra => Sys2Proof.Machine.execCcWfill c ra s
  | .ccSmov c e stopAfter => Sys2Proof.Machine.execCcSmov c e stopAfter s
  | .ccSfill c e stopAfter => Sys2Proof.Machine.execCcSfill c e stopAfter s
  | .ccScmp c e stopAfter => Sys2Proof.Machine.execCcScmp c e stopAfter s
  | .ccSfind c e stopAfter => Sys2Proof.Machine.execCcSfind c e stopAfter s
  | .ccDclean c o => Sys2Proof.Machine.execCcDclean c o s
  | .ccDinval c o => Sys2Proof.Machine.execCcDinval c o s
  | .ccDflush c o => Sys2Proof.Machine.execCcDflush c o s
  | .ccDcleanAll c o => Sys2Proof.Machine.execCcDcleanAll c o s
  | .ccDflushAll c o => Sys2Proof.Machine.execCcDflushAll c o s
  | .ccIinval c o => Sys2Proof.Machine.execCcIinval c o s
  | .ccIinvalAll c o => Sys2Proof.Machine.execCcIinvalAll c o s
  | .ccIllegalInstruction c w => Sys2Proof.Machine.execCcIllegalInstruction c w s
  | .irqEntry c => Sys2Proof.Machine.execIrqEntry c s
  | .cycleCounterRead c rd => Sys2Proof.Machine.execCycleCounterRead c rd s
  | .ecccntRead c rd hwCorr hwUnc => Sys2Proof.Machine.execEcccntRead c rd hwCorr hwUnc s
  | .wdkickWrite c data => Sys2Proof.Machine.execWdkickWrite c data s
  | .watchdogWarn c => Sys2Proof.Machine.execWatchdogWarn c s
  | .watchdogExpiry inp => Sys2Proof.Machine.execWatchdogExpiry inp s
  | .cc1WatchdogExpiry sinceMs => Sys2Proof.Machine.execCc1WatchdogExpiry sinceMs s
  | .cc1AppRestart => Sys2Proof.Machine.execCc1AppRestart s
  | .mpuRegionLock c n => Sys2Proof.Machine.execMpuRegionLock c n s
  | .dmaGo ch => Sys2Proof.Machine.execDmaGo ch s
  | .dmaStop ch => Sys2Proof.Machine.execDmaStop ch s
  | .dmaClrhalt => Sys2Proof.Machine.execDmaClrhalt s
  | .dmaSwreqWrite data => Sys2Proof.Machine.execDmaSwreqWrite data s
  | .dmaBurst => Sys2Proof.Machine.execDmaBurst s
  | .wakeRelease => Sys2Proof.Machine.execWakeRelease s
  | .systemReferenceReturn => Sys2Proof.Machine.execSystemReferenceReturn s
  | .stoppedDomainFrame p => Sys2Proof.Machine.execStoppedDomainFrame p s
  | .ratioOutOfRange g => Sys2Proof.Machine.execRatioOutOfRange g s
  | .i2cTransferEnd b => Sys2Proof.Machine.execI2cTransferEnd b s
  | .checkOverdue le => Sys2Proof.Machine.execCheckOverdue le s
  | .aonPowerOn => Sys2Proof.Machine.execAonPowerOn s
  | .receiveClockChange port present => Sys2Proof.Machine.execReceiveClockChange port present s

end Sys2Proof.Machine
end

