-- ==== Sys2Proof/Safety.lean ====
section
/-! DEFINITION. What counts as a safe run: a step that answers a next state, and a run of such steps. -/

namespace Sys2Proof.Machine

/-- The step at a state answers a next state. -/
abbrev Moves (s : State) : Prop := ∃ t, step s = .next t

/-- A run: each state is followed by the one that its step answers. -/
inductive Reaches : State → State → Prop where
  | refl (s : State) : Reaches s s
  | tail {s t u : State} : Reaches s t → step t = .next u → Reaches s u

/-! ## What a command leaves alone -/

/-- Two states that differ at most in the registers, the program address, the issue slot, the repeat nest with its cache and the
pipeline of one engine: everything else is alike. -/
structure SameButIssue (s t : State) (e : Nat) : Prop where
  rest : { t with engs := s.engs, regs := s.regs } = s
  others : ∀ j, j ≠ e → t.eng j = s.eng j
  regs : ∀ a, a ≠ R.ENG_STAT e → t.reg a = s.reg a
  own : { t.eng e with
    pend := (s.eng e).pend, pc := (s.eng e).pc, nest := (s.eng e).nest, slot := (s.eng e).slot, rpt := (s.eng e).rpt } = s.eng e

/-- Only one engine, and what the access returns, may differ. -/
abbrev OnlyEng (s t : State) (e : Nat) : Prop :=
  { t with engs := s.engs, resp := s.resp } = s ∧ ∀ j, j ≠ e → t.eng j = s.eng j

/-- Only the registers of a list may differ. -/
abbrev OnlyRegs (s t : State) (as : List Nat) : Prop :=
  { t with regs := s.regs } = s ∧ ∀ a, a ∉ as → t.reg a = s.reg a

/-- Only the registers of a list, partner words that a read latches, and what the access returns, may differ. -/
abbrev OnlyRead (s t : State) (as : List Nat) : Prop :=
  { t with regs := s.regs, latch := s.latch, resp := s.resp, resps := s.resps } = s ∧ ∀ a, a ∉ as → t.reg a = s.reg a

/-- In the issue slot that follows, every register and word but those of a list reads in each stage as this slot would have
read it one cycle later. -/
abbrev KeepsView (s t : State) (e : Nat) (ds : List RDest) : Prop :=
  ∀ x, x ∉ ds → ∀ r, t.see e x r = s.see e x (r + 1)

/-- A command completes, and of the places of an engine it writes those of a list, each with its stage and its word: the
next issue slot sees the word one stage after (R97, R98); nothing else of the machine changes but the engine's flags and
its place in the program. -/
abbrev WritesPlaces (s u : State) (c : Instr) (e : Nat) (ws : List (RDest × Nat × Int)) : Prop :=
  ∃ t, exec c s = .next t ∧ (∀ w ∈ ws, t.see e w.1 w.2.1 = w.2.2) ∧ KeepsView u t e (ws.map (·.1)) ∧ SameButIssue u t e

/-- An engine is in a pass with its clock locked, and the guard of the instruction in its issue slot holds (R86, R93, R275). -/
abbrev Runs (s : State) (e : Nat) (h : Hdr) : Prop := s.issues e = true ∧ (s.atIssue e).guard e h = true

/-- No word of an engine's memories has an error that ECC would find (R150, R151). -/
abbrev NoEcc (s : State) (e : Nat) : Prop := (s.eng e).bad = [] ∧ (s.eng e).soft = []

/-- The commands that write one register by its name, with the register and the data. -/
def regWritten : Instr → Option (Nat × Word)
  | .ageFmaxWrite e d => some (R.AGE_FMAX e, d)
  | .hspRsplenWrite c d => some (R.HSP_RSPLEN c, d)
  | .uartTxdataWrite u d => some (R.UART_TXDATA u, d)
  | .uartBaudWrite u d => some (R.UART_BAUD u, d)
  | .pscCommandWrite d => some (R.PSC_CMD, d)
  | .i2cXferGo d => some (R.I2C_XFER, d)
  | .i2cDataWrite d => some (R.I2C_DATA, d)
  | .gpioSet d => some (R.GPIO_SET, d)
  | .gpioClr d => some (R.GPIO_CLR, d)
  | .xmpTransfer d _ => some (R.XMP_CMD1, d)
  | .fuseProgram d _ => some (R.SEC_FUSECMD, d)
  | .kdfGo d => some (R.SEC_KDFCMD, d)
  | .kdfBoundSet d => some (R.SEC_KDFBOUND, d)
  | .dmaSwreqWrite d => some (R.DMA_SWREQ, d)
  | _ => none

/-- The commands whose write goes to a register that an address, a core's state or a descriptor names, or to a system
register of a core. -/
def mayStore : Instr → Bool
  | .registerWrite .. | .busAccess .. | .ccMts .. | .ccSt .. | .ccWspill .. | .ccSmov .. | .ccSfill .. | .wdkickWrite ..
  | .dmaBurst => true
  | _ => false

/-! ## Idle units -/

/-- No engine, logical engine, port, converter or stream belongs to a rate domain or waits for its ticks, and it has no
follower. -/
structure Quiet (s : State) (d : Nat) : Prop where
  group : s.group d = [d]
  engines : s.engsOf d = []
  logical : ∀ l, l < 16 → (s.le l).dom ≠ d ∧ (s.le l).leaving.all (fun v => v.dom ≠ d) = true
  ports : ∀ p, p < 8 → s.aspDom p ≠ d ∧ (s.asp p).start.due d false = false
  pdms : ∀ n, n < 4 → s.f (F.PDM_CTRL_DOMAIN n) ≠ d ∧ (s.pdm n).start.due d false = false
  converters : ∀ g, g < 8 → s.f (F.SRC_CTRL_DOMAIN g) ≠ d
  iec : s.f F.IECR_CTRL_DOMAIN ≠ d ∧ s.f F.IECT_CTRL_DOMAIN ≠ d ∧ s.iecTx.start.due d false = false
  streams : s.b F.SE_CTRL_EN = false

/-- The registers in their canonical form: addresses strictly rising, and none listed at its reset value. -/
abbrev RegsWf (s : State) : Prop := smapWf regReset s.regs = true

/-! ## Render instructions: their headers and their places -/

/-- The places that a memory operand, a coefficient operand and the delay of a tap post-modify (R110): AN, in stage A. -/
def mopPlaces (u : State) (e : Nat) (o : Mop) : List (RDest × Nat × Int) :=
  if mopIsReg o ∧ mopPm o then [(.a (mopAn o), stA, u.postVal e (mopAn o) (mopMm o))] else []
def copPlaces (u : State) (e : Nat) (o : Cop) : List (RDest × Nat × Int) :=
  if o.cf.toNat = 1 ∧ copPm o then [(.a (copAn o), stA, u.postVal e (copAn o) (copMm o))] else []
def tapPlaces (u : State) (e : Nat) (o : TapOp) : List (RDest × Nat × Int) :=
  if o.reg ∧ o.k.getLsbD 9 then
    [(.a (o.k.toNat / 2 ^ 13), stA, u.postVal e (o.k.toNat / 2 ^ 13) (o.k.toNat / 2 ^ 10 % 8))] else []

/-- Two operands that post-modify: for one address register, the coefficient operand's stands (R110). -/
def withCop (ps cs : List (RDest × Nat × Int)) : List (RDest × Nat × Int) :=
  cs ++ ps.filter fun p => p.1 ∉ cs.map (·.1)

/-- A guarded render instruction, with its engine, its header and its post-modifications; END, RPT and RPTC ignore their
guard (R88). -/
inductive Guarded (u : State) : Instr → Eng → Hdr → List (RDest × Nat × Int) → Prop where
  | nop (e h) : Guarded u (.rNop e h) e h []
  | mac (e h) (o : MacOp) : Guarded u (.rMac e h o) e h (withCop (mopPlaces u e o.mop) (copPlaces u e o.cop))
  | macd (e h) (o : MacOp) : Guarded u (.rMacd e h o) e h (withCop (mopPlaces u e o.mop) (copPlaces u e o.cop))
  | macw (e h) (o : MacOp) : Guarded u (.rMacw e h o) e h (withCop (mopPlaces u e o.mop) (copPlaces u e o.cop))
  | macqd (e h) (o : MacOp) : Guarded u (.rMacqd e h o) e h (withCop (mopPlaces u e o.mop) (copPlaces u e o.cop))
  | macqc (e h) (o : MacOp) : Guarded u (.rMacqc e h o) e h (withCop (mopPlaces u e o.mop) (copPlaces u e o.cop))
  | tap (e h) (o : TapOp) : Guarded u (.rTap e h o) e h (withCop (tapPlaces u e o) (copPlaces u e o.cop))
  | tapm (e h) (o : TapOp) : Guarded u (.rTapm e h o) e h (withCop (tapPlaces u e o) (copPlaces u e o.cop))
  | fdr (e h dl dd kb qa neg z) : Guarded u (.rFdr e h dl dd kb qa neg z) e h []
  | clrq (e h mask) : Guarded u (.rClrq e h mask) e h []
  | ldq (e h qa dn neg acc) : Guarded u (.rLdq e h qa dn neg acc) e h []
  | addq (e h qa qb neg) : Guarded u (.rAddq e h qa qb neg) e h []
  | stq (e h qa sh mop) : Guarded u (.rStq e h qa sh mop) e h (mopPlaces u e mop)
  | ld (e h dn mop) : Guarded u (.rLd e h dn mop) e h (mopPlaces u e mop)
  | st (e h dn mop) : Guarded u (.rSt e h dn mop) e h (mopPlaces u e mop)
  | luti (e h dd ds base log2n sgn) : Guarded u (.rLuti e h dd ds base log2n sgn) e h []
  | mov (e h o) : Guarded u (.rMov e h o) e h []
  | add (e h o) : Guarded u (.rAdd e h o) e h []
  | adds (e h o) : Guarded u (.rAdds e h o) e h []
  | sub (e h o) : Guarded u (.rSub e h o) e h []
  | subs (e h o) : Guarded u (.rSubs e h o) e h []
  | and_ (e h o) : Guarded u (.rAnd e h o) e h []
  | or_ (e h o) : Guarded u (.rOr e h o) e h []
  | xor (e h o) : Guarded u (.rXor e h o) e h []
  | shl (e h o) : Guarded u (.rShl e h o) e h []
  | shr (e h o) : Guarded u (.rShr e h o) e h []
  | asr (e h o) : Guarded u (.rAsr e h o) e h []
  | min (e h o) : Guarded u (.rMin e h o) e h []
  | max (e h o) : Guarded u (.rMax e h o) e h []
  | abs (e h o) : Guarded u (.rAbs e h o) e h []
  | movs (e h dd db sel) : Guarded u (.rMovs e h dd db sel) e h []
  | mova (e h an imm) : Guarded u (.rMova e h an imm) e h []
  | adda (e h an mm rm imm) : Guarded u (.rAdda e h an mm rm imm) e h []
  | movm (e h mm imm) : Guarded u (.rMovm e h mm imm) e h []
  | movad (e h an dn) : Guarded u (.rMovad e h an dn) e h []
  | movmd (e h mm dn) : Guarded u (.rMovmd e h mm dn) e h []
  | cmp (e h pd cc da db i sr imm) : Guarded u (.rCmp e h pd cc da db i sr imm) e h []
  | plog (e h pd pa pb lop) : Guarded u (.rPlog e h pd pa pb lop) e h []
  | pset (e h pd val) : Guarded u (.rPset e h pd val) e h []

/-- The word of a special-value code 0 to 8, as R127 lists them; in a test pass TIER and PTIER read TTIER and TR reads
complete (R103). -/
def specialWord (u : State) (e : Nat) (sel : Nat) : Word :=
  if sel = 0 then BitVec.ofNat 32 (if (u.eng e).test then (u.eng e).ttier else u.f (F.ENG_TIERST_TIER e))
  else if sel = 1 then BitVec.ofNat 32 (if (u.eng e).test then (u.eng e).ttier else u.f (F.ENG_TIERST_PTIER e))
  else if sel = 2 then (if (u.eng e).test then 0x7FFFFFFF else u.reg (R.ENG_TR e))
  else if sel = 3 then u.reg (R.ENG_SCNTL e) else if sel = 4 then u.reg (R.ENG_SCNTH e)
  else if 5 ≤ sel ∧ sel ≤ 8 then BitVec.ofNat 32 (u.f (F.ENG_CNT_COUNT e (sel - 5))) else 0

/-- The places of a store: the destination that its memory operand names, none for a space it does not accept (R111). -/
def destPlaces (u : State) (e : Nat) (o : Mop) (v : Int) : List (RDest × Nat × Int) :=
  match u.mopDest e o with
  | some x => [(x, stW, v)]
  | none => []

/-- A render instruction of an engine; the word of an unassigned opcode is none of the others (R113). -/
inductive Issued : Instr → Eng → Prop where
  | guarded {u c e h ps} : Guarded u c e h ps → Issued c e
  | fin (e h) : Issued (.rEnd e h) e
  | rpt (e h count body) : Issued (.rRpt e h count body) e
  | rptc (e h cr body) : Issued (.rRptc e h cr body) e

/-! ## Requests of the Baost Command Protocol -/

/-- A command that carries a request of an open session, with its opcode (R380, R383, R387, R395). -/
inductive BcpRequest : Instr → Nat → Req → Prop where
  | close (rq) : BcpRequest (.bcpClose rq) 0x01 rq
  | ping (rq) : BcpRequest (.bcpPing rq) 0x02 rq
  | get (rq) : BcpRequest (.bcpGet rq) 0x10 rq
  | stage (rq) : BcpRequest (.bcpStage rq) 0x11 rq
  | unstage (rq) : BcpRequest (.bcpUnstage rq) 0x12 rq
  | discard (rq) : BcpRequest (.bcpDiscard rq) 0x13 rq
  | commit (rq) : BcpRequest (.bcpCommit rq) 0x14 rq
  | list (rq) : BcpRequest (.bcpList rq) 0x15 rq
  | describe (rq) : BcpRequest (.bcpDescribe rq) 0x16 rq
  | imgbegin (rq) : BcpRequest (.bcpImgbegin rq) 0x20 rq
  | imgdata (rq) : BcpRequest (.bcpImgdata rq) 0x21 rq
  | imgend (rq) : BcpRequest (.bcpImgend rq) 0x22 rq
  | imgread (rq) : BcpRequest (.bcpImgread rq) 0x23 rq
  | tblget (rq) : BcpRequest (.bcpTblget rq) 0x24 rq
  | tblstage (rq) : BcpRequest (.bcpTblstage rq) 0x25 rq
  | meters (rq) : BcpRequest (.bcpMeters rq) 0x30 rq
  | subscribe (rq) : BcpRequest (.bcpSubscribe rq) 0x31 rq
  | evstat (rq) : BcpRequest (.bcpEvstat rq) 0x32 rq
  | powerstat (rq) : BcpRequest (.bcpPowerstat rq) 0x40 rq
  | lehrstat (rq) : BcpRequest (.bcpLehrstat rq) 0x41 rq
  | engmap (rq) : BcpRequest (.bcpEngmap rq) 0x50 rq
  | release (rq) : BcpRequest (.bcpRelease rq) 0x51 rq
  | retire (rq) : BcpRequest (.bcpRetire rq) 0x52 rq
  | logread (rq) : BcpRequest (.bcpLogread rq) 0x60 rq
  | jsync (rq) : BcpRequest (.bcpJsync rq) 0x61 rq
  | jclear (rq) : BcpRequest (.bcpJclear rq) 0x62 rq
  | fwbegin (rq) : BcpRequest (.bcpFwbegin rq) 0x70 rq
  | fwdata (rq flashOk) : BcpRequest (.bcpFwdata rq flashOk) 0x71 rq
  | fwend (rq) : BcpRequest (.bcpFwend rq) 0x72 rq
  | fwstat (rq) : BcpRequest (.bcpFwstat rq) 0x73 rq
  | reset (rq) : BcpRequest (.bcpReset rq) 0x74 rq

/-- A request that firmware serves (R375): CC0 is on, nothing waits before it in its ring, its reply finds room (R393), its form is
good, it is one of the mailbox's open session with the next sequence number and no flag, and its payload holds the items. -/
structure Asked (s : State) (rq : Req) (xs : List It) : Prop where
  awake : s.f F.PMU_STAT_STATE < 3
  ring : (s.mb rq.mbx).req = []
  room : (s.mb rq.mbx).held = [] ∧ (s.mb rq.mbx).rsp.length < (s.mb rq.mbx).rspN
  form : reqForm rq = true
  session : s.sessionOk rq = true
  seq : rq.seq = (s.mb rq.mbx).lastSeq + 1
  flags : rq.flags = 0
  items : parseItems (rq.payload.length + 1) 0 rq.payload = (xs, none)

/-- A reply joins the session's ring, and is kept for a resend (R350, R376). -/
abbrev Replied (s t : State) (op : Nat) (rq : Req) (status : Nat) (items : List Byte) : Prop :=
  (t.mb rq.mbx).rsp = (s.mb rq.mbx).rsp ++ [⟨s.replyTo op rq status items, 0, 0⟩] ∧ (t.mb rq.mbx).lastSeq = rq.seq ∧
    (t.mb rq.mbx).lastReply = s.replyTo op rq status items

/-- Nothing changes but a mailbox with its doorbell, which may start CC1 (R454), the place in control SRAM that its ring and its
frame buffers have (R355, R356), and free values taken. -/
abbrev OnlyMailbox (s t : State) (m : Nat) : Prop :=
  { t with mbx := s.mbx, regs := s.regs, ccs := s.ccs, freeCtr := s.freeCtr, sram := s.sram, sramBad := s.sramBad
           sramSoft := s.sramSoft } = s ∧
    (∀ j, j ≠ m → t.mb j = s.mb j) ∧ ∀ a, a ≠ R.MBX_RSPPEND (m / 32) → t.reg a = s.reg a

/-- A reply, and nothing else of the session or of the machine. -/
abbrev OnlyReplied (s t : State) (op : Nat) (rq : Req) (items : List Byte) : Prop :=
  Replied s t op rq 0 items ∧ OnlyMailbox s t rq.mbx ∧ (t.mb rq.mbx).parison = (s.mb rq.mbx).parison ∧
    (t.mb rq.mbx).opened = true

/-- An item of a type with a value of four bytes. -/
abbrev It.Plain (x : It) (t : Nat) : Prop := x.type = t ∧ x.val.length = 4

/-! ## Control cores -/

/-- A control core executes the instruction at its pc: it runs, the fetch takes no exception, and the results that are due
have landed in u (R480, R485). -/
structure Issues (s : State) (c : Core) (u : State) : Prop where
  runs : s.coreRuns c = true ∧ (s.cc c).waiting = false
  start : s.ccStart c = (true, u)

/-- The registers of one control core become those of k; nothing else changes. -/
abbrev CoreIs (u t : State) (c : Core) (k : CtlCore) : Prop :=
  { t with ccs := u.ccs } = u ∧ t.cc c = k ∧ ∀ j : Core, j ≠ c → t.cc j = u.cc j

/-- The core goes on: at the next word, or after a delay slot at the branch's target, with the window of a CALL (R480). -/
def CtlCore.went (k : CtlCore) : CtlCore :=
  match k.slot with
  | none => { k with pc := (k.pc + 4) % 2 ^ 32 }
  | some sl => { (if sl.call then k.setWin (k.wbase + 1) (k.wres + 1) else k) with pc := sl.target, slot := none }

/-- A register takes a value at distance 1: register 0 reads 0 whatever is written (R474, R485). -/
def CtlCore.put (k : CtlCore) (i : Nat) (v : Word) : CtlCore :=
  { k with regs := if i = 0 then k.regs else k.regs.setIfInBounds i v, pend := k.pend.filter fun p => p.dest ≠ .reg i }

/-- A result on its way to a register or a system register. -/
def CtlCore.owe (k : CtlCore) (d : CDest) (v : Word) (dist : Nat) : CtlCore := { k with pend := k.pend ++ [⟨d, v, dist⟩] }

/-- A result of an instruction with its distance, and the core goes on. -/
def CtlCore.gave (k : CtlCore) (i : Nat) (v : Word) (dist : Nat) : CtlCore :=
  (if dist = 1 then k.put i v else k.owe (.reg i) v dist).went

/-- A core has entered the vector of a cause (R488): the saved status, the return address, and IE 0 with EXL 1. -/
structure Entered (u t : State) (c : Core) (cause epc : Nat) (bd : Bool) : Prop where
  rest : { t with ccs := u.ccs } = u ∧ ∀ j : Core, j ≠ c → t.cc j = u.cc j
  pc : (t.cc c).pc = (((u.cc c).sr 3).toNat + 0x40 * cause) % 2 ^ 32
  epc : (t.cc c).sr 4 = BitVec.ofNat 32 (epc / 4 * 4)
  cause : (t.cc c).sf 5 3 0 = cause ∧ ((t.cc c).sf 5 30 30 = 1 ↔ bd = true)
  saved : ((t.cc c).sf 5 31 31 = 1 ↔ (u.cc c).ie = true) ∧ (t.cc c).sf 5 26 24 = (u.cc c).cpl
  status : (t.cc c).ie = false ∧ (t.cc c).exl = true ∧ (t.cc c).slot = none
  regs : (t.cc c).regs = (u.cc c).regs

/-- No MPU region of a core is enabled, and addresses outside the regions are allowed (R495). -/
abbrev MpuOpen (k : CtlCore) : Prop := k.sf 0x40 0 0 = 0 ∧ ∀ n, n < 16 → k.sf (0xA0 + n) 31 31 = 0

/-- An access to the uncached alias of control SRAM that meets no control block, doorbell, misalignment or ECC error (R17,
R25). -/
structure PlainMem (s : State) (c : Core) (a width : Nat) : Prop where
  on : s.on 21 = true
  mpu : MpuOpen (s.cc c)
  place : 0x18000000 ≤ a ∧ a + width ≤ 0x183FF000 ∧ a % width = 0
  sound : (a - 0x18000000) / 4 ∉ s.sramBad ∧ (a - 0x18000000) / 4 ∉ s.sramSoft
  ring : ∀ n, a ≤ n + 0x18000003 → n + 0x18000000 < a + width → s.mbxBlock n = none

end Sys2Proof.Machine
end

