-- ==== Sys2Proof/Certificates/Slice0/Obligations.lean ====
section
/-! DEFINITION. The statements for the provers: each docstring names the rules of the spec that it formalises or rests on. -/

open Sys2Proof Sys2Proof.Machine

/-! ## The block -/

/-- A step takes the command at the front of the queue and has its effect on the machine with the queue's rest. -/
def Obligations.StepRunsFrontCommand : Prop :=
  ∀ (c : Instr) (rest : List Instr) (s : State),
    step { s with pending := c :: rest } = exec c { s with pending := rest }

/-! ## The crossbar (R5, R6, R17 to R31) -/

/-- R5, R6, R7: a write that the map and the power domains accept of a 1 to a reserved bit stops, for its effect is not
defined; every other write to a register that the map lists and the domains allow completes without a bus error, and a
W1C bit that hardware sets in the cycle of the write stands set after it. R6, R7: in the registers of the exchange
(error, route and slot registers) and of the LDS (line table and counters), which have no more to a write than their
field types, RW bits take the data, W1C bits clear and W1S bits set where the data is 1, a W1C bit that hardware sets
in the same cycle ends as 1, and every other bit and every other register stays. -/
def Obligations.RegisterWritesFollowTheirFieldTypes : Prop :=
  (∀ (who : Initiator) (addr data meets : Word) (r : RegRow) (s : State),
      s.busKind ⟨who, true, 4, addr, data, .clean⟩ = none → 0x40000000 ≤ addr.toNat → addr.toNat < 0x50000000 →
      regRow addr.toNat = some r →
      (data.toNat &&& r.reserved ≠ 0 → exec (.registerWrite who addr data meets) s = .fault (.reservedBitWritten addr.toNat)) ∧
      (data.toNat &&& r.reserved = 0 → ∃ t, exec (.registerWrite who addr data meets) s = .next t ∧ t.resp = ⟨0, false⟩ ∧
        ∀ i, i < 32 → r.w1c.testBit i = true → meets.getLsbD i = true → (t.reg addr.toNat).getLsbD i = true)) ∧
  (∀ (who : Initiator) (a : Nat) (data meets : Word) (r : RegRow) (s : State),
      who = .cc0 ∨ who = .cc1 ∨ who = .dma → s.on 21 = true →
      (R.XCH_ERR ≤ a ∧ a ≤ R.XCH_MUTE) ∨ (R.XCH_ROUTE 0 ≤ a ∧ a < 0x40040000) ∨ (R.LDS_CTRL < a ∧ a < 0x40180000) →
      regRow a = some r → a % 4 = 0 → data.toNat &&& r.reserved = 0 →
      ∃ t, exec (.registerWrite who (BitVec.ofNat 32 a) data meets) s = .next t ∧ t.resp = ⟨0, false⟩ ∧
        { t with regs := s.regs, resp := s.resp } = s ∧ (∀ b, b ≠ a → t.reg b = s.reg b) ∧
        ∀ i, i < 32 → (t.reg a).getLsbD i =
          ((((if (r.rw ||| r.rwl).testBit i then data.getLsbD i else (s.reg a).getLsbD i) &&
            !(r.w1c.testBit i && data.getLsbD i)) || (r.w1s.testBit i && data.getLsbD i)) ||
            (r.w1c.testBit i && meets.getLsbD i)))

/-- R18, R19: an access to an unassigned address, a misaligned one, one that is not 32 bits wide in the peripheral region,
a write to ROM or to the XIP window, an access to a block whose power domain is off and a write that the engine access
gate refuses complete with a bus error and have no effect, but for this: one of DMA halts every DMA channel, with its
address recorded, and one of a control core is a data abort on that core. R21: of two accesses of the same word in the
same cycle, a write of one initiator and a read of another, the read returns the word that stands after the initiators
before it in the order STG, DMA, NSW, SE, IEC, CC0, CC1. R17, R25: control SRAM by either alias, outside the mailbox
control blocks and the doorbells, in a word without an error. A write stores the bytes of its width, least significant
first, and no other byte changes; a read returns them and changes nothing; a read that meets a single-bit error
returns the corrected data and counts it; one that meets a double-bit error completes with a bus error, counts it and
raises event 0x0104. -/
def Obligations.BusErrorsAndControlSram : Prop :=
  (∀ (a : Access) (s : State),
      let n := a.addr.toNat
      let rom := n < 0x10000
      let sram := (0x10000000 ≤ n ∧ n < 0x10400000) ∨ (0x18000000 ≤ n ∧ n < 0x18400000)
      let eng := 0x20000000 ≤ n ∧ n < 0x21100000
      let lds := 0x30000000 ≤ n ∧ n < 0x30800000
      let per := 0x40000000 ≤ n ∧ n < 0x50000000
      let xip := 0x60000000 ≤ n ∧ n < 0x70000000
      let e := (n - 0x20000000) / 0x100000
      (¬ (rom ∨ sram ∨ eng ∨ lds ∨ per ∨ xip)) ∨ (per ∧ regRow n = none) ∨
        (a.width = 2 ∧ n % 2 ≠ 0) ∨ (a.width = 4 ∧ n % 4 ≠ 0) ∨ (per ∧ (a.width = 1 ∨ a.width = 2)) ∨
        ((a.write = true) ∧ (rom ∨ xip)) ∨ (sram ∧ s.on 21 = false) ∨ (eng ∧ s.on e = false) ∨
        (lds ∧ s.on (17 + (n - 0x30000000) / 0x400000) = false) ∨ (per ∧ s.blockOn n = false) ∨
        (eng ∧ (a.write = true) ∧ s.b (F.ENG_CTRL_HOSTACC e) = false) →
      let u : State := { s with resp := ⟨0, true⟩, resps := [(a.who, ⟨0, true⟩)] }
      (a.who ≠ .dma → a.who ≠ .cc0 → a.who ≠ .cc1 → exec (.busAccess a []) s = .next u) ∧
      (a.who = .dma → s.b F.DMA_STAT_HALTED = false → ∃ t, exec (.busAccess a []) s = .next t ∧
        t.b F.DMA_STAT_HALTED = true ∧ t.reg R.DMA_ERRADDR = a.addr ∧ t.reg R.DMA_STAT &&& 0xFFFF = 0 ∧
        (∀ c, c < 16 → (t.dmaCh c).desc = none) ∧ { t with regs := s.regs, dma := s.dma } = u ∧
        ∀ b, b ∉ [R.DMA_STAT, R.DMA_ERR, R.DMA_ERRADDR] → t.reg b = s.reg b) ∧
      (∀ c : Core, a.who = (if c = 0 then .cc0 else .cc1) → s.coreRuns c = true →
        (s.cc c).exl = false → (s.cc c).wexl = false → (s.cc c).slot = none → (s.cc c).pend = [] →
        ∃ t, exec (.busAccess a []) s = .next t ∧ Entered u t c 2 (s.cc c).pc false ∧ (t.cc c).sr 6 = a.addr)) ∧
  (∀ (w r : Initiator) (off : Nat) (data : Word) (s : State), w ≠ r → s.on 21 = true → off % 4 = 0 → off + 4 ≤ 0x3FF000 →
      s.mbxBlock off = none → off / 4 ∉ s.sramBad → off / 4 ∉ s.sramSoft →
      let addr := BitVec.ofNat 32 (0x18000000 + off)
      let old : Word := BitVec.ofNat 32 (leNat ((List.range 4).map fun i => memGet s.sram (off + i)))
      ∃ t, exec (.busAccess ⟨r, false, 4, addr, 0, .clean⟩ [⟨w, true, 4, addr, data, .clean⟩]) s = .next t ∧
        t.resp = ⟨if grantOrder.idxOf w < grantOrder.idxOf r then data else old, false⟩ ∧
        ∀ i, i < 4 → memGet t.sram (off + i) = BitVec.ofNat 8 (data.toNat / 256 ^ i)) ∧
  (∀ (who : Initiator) (width base off : Nat) (data : Word) (s : State),
      s.on 21 = true → width = 1 ∨ width = 2 ∨ width = 4 → base = 0x10000000 ∨ base = 0x18000000 → off % width = 0 →
      off + width ≤ 0x3FF000 → s.mbxBlock (off / 4 * 4) = none → off / 4 ∉ s.sramBad → off / 4 ∉ s.sramSoft →
      let addr := BitVec.ofNat 32 (base + off)
      let word : Word := BitVec.ofNat 32 (leNat ((List.range width).map fun i => memGet s.sram (off + i)))
      (∃ t, exec (.busAccess ⟨who, true, width, addr, data, .clean⟩ []) s = .next t ∧ t.resp = ⟨0, false⟩ ∧
        (∀ i, i < width → memGet t.sram (off + i) = BitVec.ofNat 8 (data.toNat / 256 ^ i)) ∧
        (∀ j, j < off ∨ off + width ≤ j → memGet t.sram j = memGet s.sram j) ∧
        { t with sram := s.sram, resp := s.resp, resps := s.resps } = s) ∧
      exec (.busAccess ⟨who, false, width, addr, data, .clean⟩ []) s =
        .next { s with resp := ⟨word, false⟩, resps := [(who, ⟨word, false⟩)] } ∧
      (∃ t, exec (.busAccess ⟨who, false, width, addr, data, .single⟩ []) s = .next t ∧ t.resp = ⟨word, false⟩ ∧
        t.sram = s.sram ∧ 61 ∈ t.irqs ∧ 125 ∈ t.irqs ∧ t.eccAddr = BitVec.ofNat 32 (off / 4 * 4) ∧
        wordFld t.eccCnt 15 0 = min (wordFld s.eccCnt 15 0 + 1) 65535) ∧
      (∃ t, exec (.busAccess ⟨who, false, width, addr, data, .double⟩ []) s = .next t ∧ t.resp = ⟨0, true⟩ ∧
        ((∀ m, m < 64 → (s.mb m).opened = false) → t.sram = s.sram) ∧ 61 ∈ t.irqs ∧ 125 ∈ t.irqs ∧ wordFld t.eccCnt 31 16 = min (wordFld s.eccCnt 31 16 + 1) 65535))

/-- R28, R31, R241: with the gate set, writes to the coefficient, state and tile views of an engine window replace one
word; the two halves of a program word are written together when a write of the upper half follows one of the lower
half, and a write of the lower half alone changes no program word. A read of the lower half latches the upper half,
which the same initiator's next read of it returns whatever has happened to the program since. R30: reads of an engine
window of words without an error. The coefficient view of the shadow bank reads as it stands; the state and tile views
of an engine whose pass does not run read as they stand, and of one in service whose pass runs, as the pass leaves
them at its END. R18, R27, R28, R30: every access of an accepted width and alignment to an engine window or to the LDS
completes without a bus error: reads of a powered engine, writes with the gate set besides, and accesses to a powered
half. R27, R150: a control core's access to the LDS. A 32-bit write replaces one word and makes it good; a read of a
word without an error returns it and changes nothing. -/
def Obligations.WindowAndLdsAccesses : Prop :=
  (∀ (who : Initiator) (e : Eng) (data lo : Word) (s : State), who = .cc0 ∨ who = .cc1 ∨ who = .dma → s.on e = true →
      let at_ (n : Nat) : BitVec 20 := BitVec.ofNat 20 n
      let mended (t : State) : Engine := { t.eng e with bad := (s.eng e).bad, soft := (s.eng e).soft, dirty := (s.eng e).dirty }
      (s.b (F.ENG_CTRL_HOSTACC e) = true →
        (∀ i, i < 0x4000 → ∃ t, exec (.engineWindowWrite who e (at_ (0x10000 + 4 * i)) 4 data) s = .next t ∧ OnlyEng s t e ∧
          (∀ j, memGet (t.eng e).coefSh j = if j = i then data else memGet (s.eng e).coefSh j) ∧
          { mended t with coefSh := (s.eng e).coefSh } = s.eng e) ∧
        (∀ i, i < 0x2000 → ∃ t, exec (.engineWindowWrite who e (at_ (0x20000 + 4 * i)) 4 data) s = .next t ∧ OnlyEng s t e ∧
          (∀ j, memGet (t.eng e).st j = if j = i then data else memGet (s.eng e).st j) ∧
          { mended t with st := (s.eng e).st } = s.eng e) ∧
        (∀ i, i < 0x20000 → ∃ t, exec (.engineWindowWrite who e (at_ (0x80000 + 4 * i)) 4 data) s = .next t ∧ OnlyEng s t e ∧
          (∀ j, memGet (t.eng e).tile j = if j = i then data else memGet (s.eng e).tile j) ∧
          { mended t with tile := (s.eng e).tile } = s.eng e) ∧
        (∀ i, i < 0x2000 → ∃ t, exec (.engineWindowWrite who e (at_ (8 * i)) 4 lo) s = .next t ∧ OnlyEng s t e ∧
          { t.eng e with halfWr := (s.eng e).halfWr, dirty := (s.eng e).dirty } = s.eng e ∧
          ∀ v : State, (v.eng e).halfWr = (t.eng e).halfWr → v.on e = true → v.b (F.ENG_CTRL_HOSTACC e) = true →
            ∃ u, exec (.engineWindowWrite who e (at_ (8 * i + 4)) 4 data) v = .next u ∧ OnlyEng v u e ∧
              ∀ j, memGet (u.eng e).progSh j = if j = i then data ++ lo else memGet (v.eng e).progSh j)) ∧
      (∀ i, i < 0x2000 → (∀ hi, progShCode i hi ∉ (s.eng e).bad ∧ progShCode i hi ∉ (s.eng e).soft) →
        ∃ t, exec (.engineWindowRead who e (at_ (8 * i)) 4) s = .next t ∧ OnlyEng s t e ∧
          t.resp = ⟨(memGet (s.eng e).progSh i).setWidth 32, false⟩ ∧
          ∀ v : State, (v.eng e).halfRd = (t.eng e).halfRd → v.on e = true →
            ∃ u, exec (.engineWindowRead who e (at_ (8 * i + 4)) 4) v = .next u ∧ OnlyEng v u e ∧
              u.resp = ⟨((memGet (s.eng e).progSh i) >>> 32).setWidth 32, false⟩)) ∧
  (∀ (who : Initiator) (e : Eng) (s : State), who = .cc0 ∨ who = .cc1 ∨ who = .dma → s.on e = true →
      let at_ (n : Nat) : BitVec 20 := BitVec.ofNat 20 n
      let sound (u : State) (k : Nat) := k ∉ (u.eng e).bad ∧ k ∉ (u.eng e).soft
      (∀ i, i < 0x4000 → sound s (coefShCode i) → exec (.engineWindowRead who e (at_ (0x10000 + 4 * i)) 4) s =
        .next { s with resp := ⟨memGet (s.eng e).coefSh i, false⟩ }) ∧
      ((s.inService e = false ∨ (s.eng e).busy = false) →
        (∀ i, i < 0x2000 → sound s i → exec (.engineWindowRead who e (at_ (0x20000 + 4 * i)) 4) s =
          .next { s with resp := ⟨memGet (s.eng e).st i, false⟩ }) ∧
        (∀ i, i < 0x20000 → sound s (0x40000 + i) → exec (.engineWindowRead who e (at_ (0x80000 + 4 * i)) 4) s =
          .next { s with resp := ⟨memGet (s.eng e).tile i, false⟩ })) ∧
      (s.inService e = true → (s.eng e).busy = true → ∃ u, exec (.passDone e) s = .next u ∧
        (∀ i, i < 0x2000 → sound u i → exec (.engineWindowRead who e (at_ (0x20000 + 4 * i)) 4) s =
          .next { u with resp := ⟨memGet (u.eng e).st i, false⟩ }) ∧
        (∀ i, i < 0x20000 → sound u (0x40000 + i) → exec (.engineWindowRead who e (at_ (0x80000 + 4 * i)) 4) s =
          .next { u with resp := ⟨memGet (u.eng e).tile i, false⟩ }))) ∧
  ((∀ (who : Initiator) (e : Eng) (off : BitVec 20) (width : Nat) (data : Word) (s : State),
      who = .cc0 ∨ who = .cc1 ∨ who = .dma → s.on e = true → width = 1 ∨ width = 2 ∨ width = 4 → off.toNat % width = 0 →
      off.toNat < 0x28000 ∨ 0x80000 ≤ off.toNat →
      (∃ t, exec (.engineWindowRead who e off width) s = .next t ∧ t.resp.err = false) ∧
      (s.b (F.ENG_CTRL_HOSTACC e) = true →
        ∃ t, exec (.engineWindowWrite who e off width data) s = .next t ∧ t.resp = ⟨0, false⟩ ∧ OnlyEng s t e)) ∧
    (∀ (who : Core) (width : Nat) (addr data : Word) (s : State), width = 1 ∨ width = 2 ∨ width = 4 → addr.toNat % width = 0 →
      s.on (17 + addr.toNat % 0x800000 / 0x400000) = true →
      (∃ t, exec (.ldsHostAccess who false width addr data) s = .next t ∧ t.resp.err = false) ∧
      (∃ t, exec (.ldsHostAccess who true width addr data) s = .next t ∧ t.resp = ⟨0, false⟩))) ∧
  (∀ (who : Core) (w : Nat) (data : Word) (s : State), w < 0x200000 → s.on (17 + w / 0x100000) = true →
      let addr := BitVec.ofNat 32 (4 * w)
      (∃ t, exec (.ldsHostAccess who true 4 addr data) s = .next t ∧ t.resp = ⟨0, false⟩ ∧
        (∀ v, memGet t.lds v = if v = w then data else memGet s.lds v) ∧ w ∉ t.ldsBad ∧ w ∉ t.ldsSoft ∧
        { t with lds := s.lds, ldsBad := s.ldsBad, ldsSoft := s.ldsSoft, resp := s.resp } = s) ∧
      (w ∉ s.ldsBad → w ∉ s.ldsSoft →
        exec (.ldsHostAccess who false 4 addr data) s = .next { s with resp := ⟨memGet s.lds w, false⟩ }))

/-! ## Sample timing (R34 to R69, R93, R102, R144, R145) -/

/-- R68, R102, R184, R6, R8: a read of the low word of a sample index, a boundary time or a sample counter latches its
partners, which their next reads return whatever has happened since; a read of a peak register returns the value
before a set of the same cycle, and the set stays. R35, R37, R39, R40, R69: a write of START with one mask bit. An
enabled, unlinked, stopped domain whose settings and whose followers' are valid starts when its synthesiser is locked
or coasting, and otherwise waits with ACSWAIT; invalid settings set CFGERR; any other domain is left alone. With no
port of the domain, no punty and no engine that waits for BIST, nothing else changes. -/
def Obligations.IndexReadsAndDomainStarts : Prop :=
  (∀ (who : Initiator) (d : Dom) (e : Eng) (hw : Nat) (s : State), s.on 21 = true → s.on e = true →
      (∃ t, exec (.sampleIndexRead who d) s = .next t ∧ t.resp = ⟨s.reg (R.RD_SIDXL d), false⟩ ∧ OnlyRead s t [] ∧
        listed t.latch (R.RD_SIDXH d) = some (s.reg (R.RD_SIDXH d))) ∧
      (∃ t, exec (.boundaryTimeRead who d) s = .next t ∧ t.resp = ⟨s.reg (R.RD_BTSNS d), false⟩ ∧ OnlyRead s t [] ∧
        ∀ a ∈ [R.RD_BTSSUB d, R.RD_BTSSECL d, R.RD_BTSSECH d], listed t.latch a = some (s.reg a)) ∧
      (∃ t, exec (.sampleCounterRead who e) s = .next t ∧ t.resp = ⟨s.reg (R.ENG_SCNTL e), false⟩ ∧ OnlyRead s t [] ∧
        listed t.latch (R.ENG_SCNTH e) = some (s.reg (R.ENG_SCNTH e))) ∧
      (∃ t, exec (.passmaxRead who e hw) s = .next t ∧ t.resp = ⟨s.reg (R.ENG_PASSMAX e), false⟩ ∧
        OnlyRead s t [R.ENG_PASSMAX e] ∧ t.f (F.ENG_PASSMAX_CYC e) = hw % 2 ^ 20) ∧
      (∃ t, exec (.ldsPeakRead who d hw) s = .next t ∧ t.resp = ⟨s.reg (R.LDS_PEAK d), false⟩ ∧
        OnlyRead s t [R.LDS_PEAK d] ∧ t.f (F.LDS_PEAK_ACC d) = hw % 2 ^ 18) ∧
      (∀ (c : Initiator) (a : Nat) (v : Word), c = .cc0 ∨ c = .cc1 → a = R.RD_SIDXH d ∨ a = R.RD_BTSSECL d →
        listed s.latch a = some v →
        ∃ t, exec (.busAccess ⟨c, false, 4, BitVec.ofNat 32 a, 0, .clean⟩ []) s = .next t ∧ t.resp = ⟨v, false⟩ ∧
          listed t.latch a = (listed (smapDel s.latch a) a) ∧ OnlyRead s t [])) ∧
  (∀ (d : Dom) (s : State), s.on 21 = true → s.group d = [d.val] → s.chained d = [] →
      let c : Instr := .domainStart (BitVec.ofNat 4 (2 ^ d.val))
      let a := s.f (F.RD_CTRL_SRC d)
      let may := s.b (F.RD_CTRL_EN d) = true ∧ s.linked d = false ∧ s.running d = false
      let valid := s.groupOk d = true ∧ s.b (F.ACS_CTRL_EN a) = true
      let edge := s.b (F.ACS_STAT_LOCK a) = true ∨ s.b (F.ACS_STAT_COAST a) = true
      let frame (t : State) := { t with regs := s.regs, doms := s.doms } = s ∧ (∀ b, b ≠ R.RD_STAT d → t.reg b = s.reg b) ∧
        ∀ j, j ≠ d.val → t.dom j = s.dom j
      (may → valid → edge → ∃ t, exec c s = .next t ∧ t.running d = true ∧ t.b (F.RD_STAT_CFGERR d) = false ∧
        t.b (F.RD_STAT_ACSWAIT d) = false ∧ (t.dom d).first = true ∧ (t.dom d).acc = 0 ∧
        ((∀ p, p < 8 → s.aspDom p ≠ d) → s.puntyOf = none → (∀ e, e < 17 → s.clean e = true) → frame t)) ∧
      (may → valid → ¬ edge → ∃ t, exec c s = .next t ∧ t.running d = false ∧ t.b (F.RD_STAT_ACSWAIT d) = true ∧ frame t) ∧
      (may → ¬ valid → ∃ t, exec c s = .next t ∧ t.running d = false ∧ t.b (F.RD_STAT_CFGERR d) = true ∧ frame t) ∧
      (¬ may → exec c s = .next s))

/-- R34, R36, R50, R53: a tick, neither a boundary nor a deadline, of a running, unlinked domain that no engine and no
audio unit belongs to. The index takes the next sample, SSTART at the first tick after a start; the divider adds FRAC
and the period lasts INT cycles, or INT + 1 on a carry; every slot of a writer other than an engine publishes the word
written in the period, or keeps its word. R43: at a boundary of a domain whose EN is clear no tick occurs and the
domain stops. R93, R144, R145, R148, R150: an engine in service whose END has retired, and that the SCU does not
compare, drains its pipeline and is reported done; its long-write entries wait under its N. The drain of a host whose
memories have no error then writes each entry's word to the LDS word that the entry names, where the half is READY. -/
def Obligations.SampleTicksAndPasses : Prop :=
  (∀ (d : Dom) (i : TickIn) (s : State), RegsWf s → Quiet s d → s.running d = true →
      s.linked d = false → (s.dom d).tripRamp = none →
      let n := if (s.dom d).first then s.sstart d else s.sidx d + 1
      n < 2 ^ 64 → n % s.blen d ≠ 0 → n % s.blen d ≠ s.blen d - s.blen d / 4 →
      ∃ t, exec (.sampleTick d i) s = .next t ∧ t.sidx d = n ∧ t.f (F.RD_STAT_PHASE d) = n % s.blen d ∧
        t.running d = true ∧ (t.dom d).first = false ∧
        (t.dom d).acc.toNat = ((s.dom d).acc.toNat + s.f (F.RD_DIVF_FRAC d)) % 2 ^ 32 ∧
        (t.dom d).period = s.f (F.RD_DIVI_INT d) + ((s.dom d).acc.toNat + s.f (F.RD_DIVF_FRAC d)) / 2 ^ 32 ∧
        ∀ k, k < 2048 → s.b (F.XCH_ROUTE_VALID k) = true → s.f (F.XCH_ROUTE_DOMAIN k) = d →
          s.f (F.XCH_ROUTE_KIND k) ≠ 1 → t.reg (R.XCH_SLOT k) = (listed s.slotWr k).getD (s.reg (R.XCH_SLOT k))) ∧
  (∀ (d : Dom) (i : TickIn) (s : State), s.running d = true → s.linked d = false → s.b (F.RD_CTRL_EN d) = false →
      d.val ∉ s.stg.groups →
      (if (s.dom d).first then s.sstart d else s.sidx d + 1) % s.blen d = 0 →
      ∃ t, exec (.sampleTick d i) s = .next t ∧ t.running d = false ∧ t.b (F.RD_STAT_ACSWAIT d) = false ∧
        t.sidx d = s.sidx d) ∧
  (∀ (e : Eng) (s : State),
      (s.inService e = true → (s.eng e).test = false → (s.eng e).done = false → (s.eng e).busy = false →
        s.comparing = false → s.scuState ≠ 2 → s.scuState ≠ 3 →
        ∃ t, exec (.passDone e) s = .next t ∧ (t.eng e).done = true ∧ (t.eng e).busy = false ∧ (t.eng e).lw = [] ∧
          (t.eng e).drain = some (s.engN e, ((s.drainPipe e).eng e).lw.filter fun p => p.1 < (s.eng e).lwr.length) ∧
          ∀ j, j ≠ e.val → t.eng j = s.eng j) ∧
      (∀ (n : Nat) (ws : List (Nat × Word)), NoEcc s e → (s.eng e).drain = some (n, ws) → s.drainsToLds e = true →
        let at_ (p : Nat × Word) : Nat :=
          s.lineAddr (entryLine ((s.eng e).lwr.getD p.1 0)) ((n : Int) - entryDelay ((s.eng e).lwr.getD p.1 0))
        (∀ p ∈ ws, s.half (ldsHalf (at_ p)) = 2) →
        ∃ t, exec (.longWriteDrain e) s = .next t ∧ (t.eng e).drain = none ∧
          t.lds = ws.foldl (fun m p => memSet m (at_ p) p.2) s.lds ∧ t.regs = s.regs))

/-! ## The control block of an engine (R101 to R105) -/

/-- R71, R101, R105: the actions of CTRL act while an engine is out of service, not OFF and not busy. SWAP exchanges the
banks, CLEAR and BISTGO begin with their mode and BUSY, BISTGO while the engine's clock is locked (R260); in service,
OFF or busy they change nothing. Nothing else changes, but for the place of a punty, which another engine takes
(R222). R105: the end of CLEAR leaves state memory, the tile, the repeat cache and the long buffers zero and the banks
as they were; the mode is OUT and BUSY clears. R104, R222, R223: the end of BIST with no logical engine installed, no
PUNTY held and no reserve left. A pass leaves every memory zero and the engine, when there is no punty, as the punty;
a failure sends it to the cullet, with its domain off. R95, R103, R260: a test pass whose first instruction is END,
from the entry point of TTIER, runs under a locked clock and sets TDONE; N rises by 1, the mode returns to OUT and
BUSY clears. A test pass that is still running when 2^20 cycles have passed stops with TLIMIT as well. -/
def Obligations.EngineActionsBistAndTestPasses : Prop :=
  (∀ (e : Eng) (s : State), s.mode e ≠ 0 →
      (s.inService e = false → s.b (F.ENG_STAT_BUSY e) = false →
        (∃ t, exec (.engSwap e) s = .next t ∧ (t.eng e).prog = (s.eng e).progSh ∧ (t.eng e).progSh = (s.eng e).prog ∧
          (t.eng e).coef = (s.eng e).coefSh ∧ (t.eng e).coefSh = (s.eng e).coef ∧ (t.eng e).st = (s.eng e).st ∧
          (t.eng e).tile = (s.eng e).tile ∧ t.regs = s.regs ∧ OnlyEng s t e) ∧
        (∃ t, exec (.engClear e) s = .next t ∧ t.mode e = 6 ∧ t.b (F.ENG_STAT_BUSY e) = true ∧
          (s.puntyOf ≠ some e.val → ∀ a, a ≠ R.ENG_STAT e → t.reg a = s.reg a) ∧ (t.eng e).st = (s.eng e).st) ∧
        (s.b (F.ENG_CLKST_LOCK e) = true → ∃ t, exec (.bistGo e) s = .next t ∧ t.mode e = 5 ∧ t.b (F.ENG_STAT_BUSY e) = true ∧
          t.b (F.ENG_BIST_DONE e) = false ∧
          (s.puntyOf ≠ some e.val → ∀ a, a ≠ R.ENG_STAT e → a ≠ R.ENG_BIST e → t.reg a = s.reg a))) ∧
      (s.inService e = true ∨ s.b (F.ENG_STAT_BUSY e) = true →
        exec (.engSwap e) s = .next s ∧ exec (.engClear e) s = .next s ∧ exec (.bistGo e) s = .next s)) ∧
  (∀ (e : Eng) (s : State), s.mode e = 6 → (s.eng e).clearRole = false → (s.eng e).acts = [] →
      (∀ l, l < 16 → (s.le l).entry = .none ∧ (s.le l).inst = none) →
      ∃ t, exec (.clearDone e) s = .next t ∧ t.mode e = 1 ∧ t.b (F.ENG_STAT_BUSY e) = false ∧
        (∀ w, memGet (t.eng e).st w = 0) ∧ (∀ w, memGet (t.eng e).tile w = 0) ∧ (∀ w, memGet (t.eng e).lr w = 0) ∧
        (∀ w, memGet (t.eng e).lw w = 0) ∧ (t.eng e).rpt = [] ∧ (t.eng e).prog = (s.eng e).prog ∧ (t.eng e).coef = (s.eng e).coef ∧
        (t.eng e).progSh = (s.eng e).progSh ∧ (t.eng e).coefSh = (s.eng e).coefSh ∧ OnlyEng { s with regs := t.regs } t e ∧
        ∀ a, a ≠ R.ENG_STAT e → t.reg a = s.reg a) ∧
  (∀ (e : Eng) (failmap : BitVec 13) (s : State), s.mode e = 5 → s.b (F.ENG_CLKST_LOCK e) = true →
      (s.eng e).acts = [] → (s.eng e).role = .out →
      (s.eng e).retiring = 0 → (s.eng e).released = false → (s.eng e).faulted = false → s.scu.held = none →
      (s.eng e).caseLe = none →
      s.puntyOf = none → s.rolesOf .reserve = [] → s.stg.queue = [] →
      (∀ l, l < 16 → (s.le l).image = [] ∧ (s.le l).entry = .none ∧ (s.le l).inst = none) →
      (failmap = 0 → ∃ t, exec (.bistDone e failmap) s = .next t ∧ (t.eng e).role = .punty ∧ t.mode e = 1 ∧
        t.b (F.ENG_STAT_BUSY e) = false ∧ t.b (F.ENG_BIST_DONE e) = true ∧ t.b (F.ENG_BIST_PASS e) = true ∧
        t.f (F.ENG_BIST_FAILMAP e) = 0 ∧ t.f (F.ENG_BIST_RUNS e) = min (s.f (F.ENG_BIST_RUNS e) + 1) 255 ∧
        (t.eng e).st = [] ∧ (t.eng e).tile = [] ∧ (t.eng e).prog = [] ∧ (t.eng e).coef = [] ∧ (t.eng e).progSh = [] ∧
        (t.eng e).coefSh = [] ∧ (t.eng e).rpt = [] ∧ (t.eng e).lr = [] ∧ (t.eng e).lw = [] ∧ (t.eng e).win = [] ∧
        (t.eng e).bistTotal = (s.eng e).bistTotal + 1) ∧
      (failmap ≠ 0 → ∃ t, exec (.bistDone e failmap) s = .next t ∧ (t.eng e).role = .cullet ∧ (t.eng e).cause = 1 ∧
        t.mode e = 0 ∧ t.on e = false)) ∧
  (∀ (e : Eng) (s : State), (s.eng e).acts = [] → s.engN e + 1 < 2 ^ 64 →
      let ends (t : State) := t.mode e = 1 ∧ t.b (F.ENG_STAT_BUSY e) = false ∧ t.b (F.ENG_STAT_TDONE e) = true ∧
        t.engN e = s.engN e + 1 ∧ (t.eng e).busy = false ∧ (t.eng e).test = false
      (∀ (k : BitVec 2) (h : Hdr), s.inService e = false → s.mode e ≠ 0 → s.b (F.ENG_STAT_BUSY e) = false → NoEcc s e →
        s.b (F.ENG_CLKST_LOCK e) = true →
        memGet (s.eng e).prog (s.f (F.ENG_ENTRY_ADDR e k.toNat)) = renderWord h 0x01 0 →
        ∃ t, exec (.testPass e k) s = .next t ∧ ends t ∧ t.f (F.ENG_CTRL_TTIER e) = k.toNat) ∧
      (s.mode e = 4 → (s.eng e).busy = true → (s.eng e).pend = [] →
        ∃ t, exec (.testPassLimit e) s = .next t ∧ ends t ∧ t.b (F.ENG_STAT_TLIMIT e) = true))

/-! ## Render instructions (R86 to R131) -/

/-- R86, R87, R110, R116: an instruction whose guard fails takes its issue slot and, only with U = 1, its
post-modifications; NOP does no more whatever its guard. Outside a pass nothing issues. -/
def Obligations.FailedGuardLeavesOnlyPostModifications : Prop :=
  (∀ (c : Instr) (s : State) (e : Eng) (h : Hdr) (ps : List (RDest × Nat × Int)),
    Guarded (s.atIssue e) c e h ps → s.issues e = true → (s.atIssue e).guard e h = false →
    WritesPlaces s (s.atIssue e) c e (if h.u then ps else [])) ∧
  (∀ (e : Eng) (h : Hdr) (s : State), s.issues e = true → WritesPlaces s (s.atIssue e) (.rNop e h) e []) ∧
  (∀ (c : Instr) (s : State) (e : Eng) (h : Hdr) (ps : List (RDest × Nat × Int)),
    Guarded (s.atIssue e) c e h ps → s.issues e = false → exec c s = .next s)

/-- R126: the data operations write D[DD] in stage X1. -/
def Obligations.DataOperationsWriteTheirResult : Prop :=
  ∀ (e : Eng) (h : Hdr) (o : AluOp) (s : State), Runs s e h →
    let u := s.atIssue e
    let a : Word := BitVec.ofInt 32 (u.see e (.d o.da.toNat) stM)
    let b : Word := if o.i then o.imm else BitVec.ofInt 32 (u.see e (.d o.db.toNat) stM)
    let n := b.toNat % 32
    let clamp (x : Int) : Int := max (-2 ^ 31) (min (2 ^ 31 - 1) x)
    let gives (c : Instr) (v : Int) : Prop := WritesPlaces s u c e [(.d o.dd.toNat, stX1, v)]
    gives (.rMov e h o) b.toInt ∧
    gives (.rAdd e h o) (BitVec.ofInt 32 (a.toInt + b.toInt)).toInt ∧
    gives (.rSub e h o) (BitVec.ofInt 32 (a.toInt - b.toInt)).toInt ∧
    gives (.rAdds e h o) (clamp (a.toInt + b.toInt)) ∧
    gives (.rSubs e h o) (clamp (a.toInt - b.toInt)) ∧
    gives (.rAnd e h o) (a &&& b).toInt ∧ gives (.rOr e h o) (a ||| b).toInt ∧ gives (.rXor e h o) (a ^^^ b).toInt ∧
    gives (.rShl e h o) (BitVec.ofNat 32 (a.toNat * 2 ^ n)).toInt ∧
    gives (.rShr e h o) (BitVec.ofNat 32 (a.toNat / 2 ^ n)).toInt ∧
    gives (.rAsr e h o) (a.toInt / 2 ^ n) ∧
    gives (.rMin e h o) (min a.toInt b.toInt) ∧ gives (.rMax e h o) (max a.toInt b.toInt) ∧
    gives (.rAbs e h o) (clamp |a.toInt|)

/-- R127, R128: MOVS writes D[DD] in X1 from the special value that SEL selects; the address and offset operations write
in M. R129, R130, R76: CMP, PLOG and PSET write P[PD] in M; writes to P0 are ignored. -/
def Obligations.MovesAndPredicates : Prop :=
  (∀ (e : Eng) (h : Hdr) (s : State), Runs s e h →
      let u := s.atIssue e
      (∀ dd db sel : BitVec 4, WritesPlaces s u (.rMovs e h dd db sel) e
        [(.d dd.toNat, stX1,
          if sel = 9 then (BitVec.ofInt 32 (u.see e (.a db.toNat) stM)).toInt
          else if sel = 10 then (BitVec.ofInt 32 (u.see e (.m (db.toNat % 8)) stM)).toInt
          else (specialWord u e sel.toNat).toInt)]) ∧
      (∀ (an : BitVec 4) (imm : BitVec 20), WritesPlaces s u (.rMova e h an imm) e [(.a an.toNat, stM, imm.toNat)]) ∧
      (∀ (an : BitVec 4) (mm : BitVec 3) (rm : Bool) (imm : BitVec 20), WritesPlaces s u (.rAdda e h an mm rm imm) e
        [(.a an.toNat, stM, (u.see e (.a an.toNat) stM + if rm then u.see e (.m mm.toNat) stM else imm.toInt) % 2 ^ 20)]) ∧
      (∀ (mm : BitVec 3) (imm : BitVec 20), WritesPlaces s u (.rMovm e h mm imm) e [(.m mm.toNat, stM, imm.toInt)]) ∧
      (∀ an dn : BitVec 4, WritesPlaces s u (.rMovad e h an dn) e
        [(.a an.toNat, stM, u.see e (.d dn.toNat) stM % 2 ^ 20)]) ∧
      (∀ (mm : BitVec 3) (dn : BitVec 4), WritesPlaces s u (.rMovmd e h mm dn) e
        [(.m mm.toNat, stM, (BitVec.ofInt 20 (u.see e (.d dn.toNat) stM)).toInt)])) ∧
  (∀ (e : Eng) (h : Hdr) (pd : BitVec 3) (s : State), Runs s e h →
      let u := s.atIssue e
      let p (n : BitVec 3) : Bool := decide (u.see e (.p n.toNat) stM ≠ 0)
      let gives (c : Instr) (v : Bool) : Prop :=
        WritesPlaces s u c e (if pd = 0 then [] else [(.p pd.toNat, stM, if v then 1 else 0)])
      (∀ (cc : BitVec 3) (da db : BitVec 4) (i sr : Bool) (imm : Word),
        let a : Word := if sr then specialWord u e da.toNat else BitVec.ofInt 32 (u.see e (.d da.toNat) stM)
        let b : Word := if i then imm else BitVec.ofInt 32 (u.see e (.d db.toNat) stM)
        gives (.rCmp e h pd cc da db i sr imm)
          ((cc = 0 ∧ a = b) ∨ (cc = 1 ∧ a ≠ b) ∨ (cc = 2 ∧ a.toInt < b.toInt) ∨ (cc = 3 ∧ a.toInt ≥ b.toInt) ∨
           (cc = 4 ∧ a.toNat < b.toNat) ∨ (cc = 5 ∧ a.toNat ≥ b.toNat) ∨ (cc = 6 ∧ a.toInt ≤ b.toInt) ∨
           (cc = 7 ∧ a.toInt > b.toInt))) ∧
      (∀ (pa pb : BitVec 3) (lop : BitVec 2), gives (.rPlog e h pd pa pb lop)
        (if lop = 0 then p pa && p pb else if lop = 1 then p pa || p pb else if lop = 2 then p pa ^^ p pb
         else p pa && !(p pb))) ∧
      (∀ v : Bool, gives (.rPset e h pd v) v))

/-- R119, R123: CLRQ, LDQ and ADDQ write accumulators in X2, modulo 2^72, and QWRAP sets when an exact result lies outside
−2^71 to 2^71 − 1. R83, R122, R124, R125: LD and LUTI write D[DD] in W, ST and STQ their destination in W, with the
post-modification of the operand; STQ converts with saturation and sets SAT when it saturates. -/
def Obligations.AccumulatorsLoadsAndTables : Prop :=
  (∀ (e : Eng) (h : Hdr) (s : State), Runs s e h →
      let u := s.atIssue e
      let fits (x : Int) : Prop := -2 ^ 71 ≤ x ∧ x ≤ 2 ^ 71 - 1
      let gives (c : Instr) (q : Nat) (x : Int) : Prop :=
        WritesPlaces s u c e [(.q q, stX2, (x + 2 ^ 71) % 2 ^ 72 - 2 ^ 71)] ∧
        ∀ t, exec c s = .next t → (t.b (F.ENG_STAT_QWRAP e) = true ↔ u.b (F.ENG_STAT_QWRAP e) = true ∨ ¬ fits x)
      (∀ mask : Byte, WritesPlaces s u (.rClrq e h mask) e
        (((List.range 8).filter fun q => mask.getLsbD q).map fun q => (.q q, stX2, 0))) ∧
      (∀ (qa : BitVec 3) (dn : BitVec 4) (neg acc : Bool),
        gives (.rLdq e h qa dn neg acc) qa.toNat
          ((if acc then u.see e (.q qa.toNat) stX2 else 0) + (if neg then -1 else 1) * u.see e (.d dn.toNat) stM * 2 ^ 31)) ∧
      (∀ (qa qb : BitVec 3) (neg : Bool),
        gives (.rAddq e h qa qb neg) qa.toNat
          (u.see e (.q qa.toNat) stX2 + (if neg then -1 else 1) * u.see e (.q qb.toNat) stM))) ∧
  (∀ (e : Eng) (h : Hdr) (s : State), Runs s e h → NoEcc (s.atIssue e) e →
      let u := s.atIssue e
      (∀ (dn : BitVec 4) (mop : Mop), WritesPlaces s u (.rLd e h dn mop) e
        ((.d dn.toNat, stW, (u.mopRead e mop [0, 1, 2, 3, 4, 7]).1) :: mopPlaces u e mop)) ∧
      (∀ (dn : BitVec 4) (mop : Mop), WritesPlaces s u (.rSt e h dn mop) e
        (destPlaces u e mop (u.see e (.d dn.toNat) stM) ++ mopPlaces u e mop)) ∧
      (∀ (qa : BitVec 3) (sh : BitVec 4) (mop : Mop),
        let q := u.see e (.q qa.toNat) stM
        let x := if sh.toInt < 0 then q / 2 ^ (31 + (-sh.toInt).toNat) else q * 2 ^ sh.toInt.toNat / 2 ^ 31
        let v := max (-2 ^ 31) (min (2 ^ 31 - 1) x)
        WritesPlaces s u (.rStq e h qa sh mop) e (destPlaces u e mop v ++ mopPlaces u e mop) ∧
        ∀ t, exec (.rStq e h qa sh mop) s = .next t →
          (t.b (F.ENG_STAT_SAT e) = true ↔ u.b (F.ENG_STAT_SAT e) = true ∨ v ≠ x)) ∧
      (∀ (dd ds : BitVec 4) (base : BitVec 14) (log2n : BitVec 4) (sgn : Bool),
        let d := (BitVec.ofInt 32 (u.see e (.d ds.toNat) stM)).toNat
        let w := if sgn then (d + 0x80000000) % 2 ^ 32 else d
        let n := min log2n.toNat 13
        let f : Int := (w * 2 ^ n % 2 ^ 32 / 2 ^ 16 : Nat)
        let tab (i : Nat) : Int := (memGet (u.eng e).coef ((base.toNat + i) % 16384)).toInt
        let i := w / 2 ^ (32 - n)
        WritesPlaces s u (.rLuti e h dd ds base log2n sgn) e
          [(.d dd.toNat, stW, tab i + (tab (i + 1) - tab i) * f / 65536)]))

/-- R85, R117, R118, R119: the multiply-accumulate instructions write their accumulators in X2, over the data words that
the memory operand names and the coefficients that the coefficient operand names, with the post-modifications of both. -/
def Obligations.MultiplyAccumulate : Prop :=
  ∀ (e : Eng) (h : Hdr) (o : MacOp) (s : State), Runs s e h → NoEcc (s.atIssue e) e →
    let u := s.atIssue e
    let prod (x c : Int) : Int := (if o.neg then -1 else 1) * (x * c) * (if o.s then 8 else 1)
    let acc (q : Nat) : Int := if o.z then 0 else u.see e (.q q) stX2
    let wrap (x : Int) : Int := (x + 2 ^ 71) % 2 ^ 72 - 2 ^ 71
    let post := withCop (mopPlaces u e o.mop) (copPlaces u e o.cop)
    let gives (c : Instr) (qs : List (Nat × Int)) : Prop :=
      WritesPlaces s u c e (qs.map (fun p => (.q p.1, stX2, wrap (acc p.1 + p.2))) ++ post) ∧
      ∀ t, exec c s = .next t → (t.b (F.ENG_STAT_QWRAP e) = true ↔
        u.b (F.ENG_STAT_QWRAP e) = true ∨ ∃ p ∈ qs, ¬ (-2 ^ 71 ≤ acc p.1 + p.2 ∧ acc p.1 + p.2 ≤ 2 ^ 71 - 1))
    let a := o.qa.toNat
    let k := u.mopIdx e o.mop
    let dl := o.mop.dl.toNat
    let d0 := (u.macData e o.mop).1
    let d (j : Nat) : Int := ((u.macdData e o.mop).1)[j]?.getD 0
    let c (j : Nat) : Int := ((u.copRead e o.cop 4).1)[j]?.getD 0
    let line (ks : List (Nat × Int)) (j : Nat) : Int :=
      if o.mop.space = 4 then ((u.readTiles e (ks.map fun p => u.lineWord e p.1 p.2)).1)[j]?.getD 0 else 0
    let along := line ((List.range 4).map fun (j : Nat) => (dl, ((k + j : Nat) : Int)))
    let across := line ((List.range 4).map fun j => (dl + j, (k : Int)))
    gives (.rMac e h o) [(a, prod d0 (c 0))] ∧
    gives (.rMacd e h o) [(a / 2 * 2, prod (d 0) (c 0)), (a / 2 * 2 + 1, prod (d 1) (c 1))] ∧
    gives (.rMacw e h o)
      [(a, prod (along 0) (c 0) + prod (along 1) (c 1) + prod (along 2) (c 2) + prod (along 3) (c 3))] ∧
    gives (.rMacqd e h o) ((List.range 4).map fun j => (a / 4 * 4 + j, prod d0 (c j))) ∧
    gives (.rMacqc e h o) ((List.range 4).map fun j => (a / 4 * 4 + j, prod (across j) (c 0)))

/-- R117, R120, R121: TAP and TAPM add one product, TAPM also moves the word it read to x(DLD, 0); FDR adds the four
products of the Lagrange weights. -/
def Obligations.DelayOperations : Prop :=
  ∀ (e : Eng) (h : Hdr) (s : State), Runs s e h → NoEcc (s.atIssue e) e →
    let u := s.atIssue e
    let acc (z : Bool) (q : Nat) : Int := if z then 0 else u.see e (.q q) stX2
    let wrap (x : Int) : Int := (x + 2 ^ 71) % 2 ^ 72 - 2 ^ 71
    (∀ o : TapOp,
      let k : Nat := if o.reg then (u.see e (.a (o.k.toNat / 2 ^ 13)) stA).toNat else o.k.toNat
      let x := u.see e (.tile (u.lineWord e o.dl.toNat k)) stM
      let c0 := ((u.copRead e o.cop 1).1)[0]?.getD 0
      let r := acc o.z o.qa.toNat + (if o.neg then -1 else 1) * (x * c0) * (if o.s then 8 else 1)
      let post := withCop (tapPlaces u e o) (copPlaces u e o.cop)
      WritesPlaces s u (.rTap e h o) e ((.q o.qa.toNat, stX2, wrap r) :: post) ∧
      WritesPlaces s u (.rTapm e h o) e
        ((.q o.qa.toNat, stX2, wrap r) :: (.tile (u.lineWord e o.dld.toNat 0), stW, x) :: post)) ∧
    (∀ (dl : BitVec 6) (dd : BitVec 4) (kb : BitVec 16) (qa : BitVec 3) (neg z : Bool),
      let t : Nat := kb.toNat * 65536 + (BitVec.ofInt 32 (u.see e (.d dd.toNat) stM)).toNat
      let k : Int := (t / 65536 : Nat)
      let v : Int := (t % 65536 : Nat)
      let b : Int := 65536
      let xs := (u.readTiles e ((List.range 4).map fun (j : Nat) => u.lineWord e dl.toNat (k - 1 + (j : Int)))).1
      let x (j : Nat) : Int := xs[j]?.getD 0
      let h0 := (-v * (v - b) * (v - 2 * b)) / (6 * 2 ^ 20)
      let h1 := ((v + b) * (v - b) * (v - 2 * b)) / (2 * 2 ^ 20)
      let h2 := (-(v + b) * v * (v - 2 * b)) / (2 * 2 ^ 20)
      let h3 := ((v + b) * v * (v - b)) / (6 * 2 ^ 20)
      let sum := (x 0 * h0 + x 1 * h1 + x 2 * h2 + x 3 * h3) * 8
      WritesPlaces s u (.rFdr e h dl dd kb qa neg z) e
        [(.q qa.toNat, stX2, wrap (acc z qa.toNat + if neg then -sum else sum))])

/-- R88 to R93, R113, R115, R116: END ends the pass and records its cycles (2^20 of them as 2^20 - 1, the model's choice
of log 45); a repeat opens a level of the nest over the body that follows, with an empty cache for a body of up to 32
instructions; one with BODY 0 sets RPTERR and does nothing, one with count 0 passes its body. NOP takes its issue slot
and does nothing else, and an unassigned opcode issues as a NOP: both complete in every such state. -/
def Obligations.RenderControl : Prop :=
  ∀ (e : Eng) (h : Hdr) (s : State), s.issues e = true →
    let u := s.atIssue e
    let pc := (u.eng e).pc
    let cyc := min ((s.eng e).slot + 1) (2 ^ 20 - 1)
    (∃ t, exec (.rEnd e h) s = .next t ∧ (t.eng e).busy = false ∧ t.f (F.ENG_PASSLAST_CYC e) = cyc ∧
      t.f (F.ENG_PASSMAX_CYC e) = max (u.f (F.ENG_PASSMAX_CYC e)) cyc ∧
      KeepsView u t e [] ∧ (∀ j, j ≠ e.val → t.eng j = u.eng j) ∧
      (∀ a, a ≠ R.ENG_PASSLAST e → a ≠ R.ENG_PASSMAX e → t.reg a = u.reg a) ∧
      { t with engs := u.engs, regs := u.regs } = u) ∧
    (∃ t, exec (.rNop e h) s = .next t ∧ KeepsView u t e [] ∧ SameButIssue u t e) ∧
    (∀ (w : Word64), ∃ t, exec (.unassignedRenderOpcode e w) s = .next t ∧ KeepsView u t e [] ∧ SameButIssue u t e) ∧
    (∀ (c : Instr) (count : Nat) (body : BitVec 13),
      (∃ n : BitVec 16, c = .rRpt e h n body ∧ count = n.toNat) ∨
        (∃ r : BitVec 2, c = .rRptc e h r body ∧ count = s.f (F.ENG_CNT_COUNT e r.toNat)) →
      WritesPlaces s u c e [] ∧
      ∃ t, exec c s = .next t ∧
        (body = 0 → t.b (F.ENG_STAT_RPTERR e) = true) ∧
        (body ≠ 0 → count = 0 → (u.eng e).nest = [] → (t.eng e).nest = [] ∧
          (t.eng e).pc = (pc + body.toNat + 1) % 8192) ∧
        (body ≠ 0 → count ≠ 0 → (u.eng e).nest.length < 3 →
          (t.eng e).nest = ⟨(pc + 1) % 8192, body.toNat, count, true⟩ :: (u.eng e).nest.filter (fun r => r.last ≠ pc) ∧
          (t.eng e).pc = (pc + 1) % 8192 ∧ (body.toNat ≤ 32 → (t.eng e).rpt = [])))

/-- R106 to R113: decoding the word of a render instruction gives it back, with every operand at every value; and every
word decodes to an instruction whose word decodes to the same instruction (the bits shown as "—" are ignored, R107). -/
def Obligations.RenderWordsDecodeAsEncoded : Prop :=
  (∀ (c : Instr) (e : Eng), Issued c e → ∃ w, encodeRender c = some w ∧ decodeRender e w = c) ∧
  (∀ (e : Eng) (w : Word64), ∃ v, encodeRender (decodeRender e w) = some v ∧ decodeRender e v = decodeRender e w)

/-! ## The long delay store (R139, R152) -/

/-- R139: a request for a half that is OFF powers it and starts to clear it, and one for a half that is on sets its
request bit only; the end of clearing leaves every word of the half 0 and the half READY, and no word of the other
half changes; in a half that does not clear nothing ends. R152, R150: a round of the scrubber over engines without an
uncorrectable word. Every correctable word of a powered engine and of a READY half is good again with its value and
counted, every uncorrectable word of a READY half is rewritten as 0 and counted, and no other word changes; without
SCRUBEN nothing happens. -/
def Obligations.LongDelayStoreHalves : Prop :=
  (∀ (b : Bool) (s : State),
      let k := b2n b
      (s.on 21 = true → s.half k = 0 → ∃ t, exec (.halfRequest b) s = .next t ∧ t.half k = 1 ∧ t.on (17 + k) = true ∧
        t.fbit ⟨R.LDS_CTRL, 1, 0⟩ k = true ∧ t.half (1 - k) = s.half (1 - k) ∧ { t with regs := s.regs } = s) ∧
      (s.on 21 = true → s.half k ≠ 0 → ∃ t, exec (.halfRequest b) s = .next t ∧ t.fbit ⟨R.LDS_CTRL, 1, 0⟩ k = true ∧
        t.half k = s.half k ∧ OnlyRegs s t [R.LDS_CTRL]) ∧
      (s.half k = 1 → ∃ t, exec (.halfClearDone b) s = .next t ∧ t.half k = 2 ∧ t.half (1 - k) = s.half (1 - k) ∧
        (∀ w, ldsHalf w = k → memGet t.lds w = 0 ∧ w ∉ t.ldsBad ∧ w ∉ t.ldsSoft) ∧
        (∀ w, ldsHalf w ≠ k → memGet t.lds w = memGet s.lds w ∧ (w ∈ t.ldsBad ↔ w ∈ s.ldsBad)) ∧
        { t with regs := s.regs, lds := s.lds, ldsBad := s.ldsBad, ldsSoft := s.ldsSoft } = s) ∧
      (s.half k ≠ 1 → exec (.halfClearDone b) s = .next s)) ∧
  (∀ s : State,
      let ready (w : Nat) : Bool := decide (s.half (ldsHalf w) = 2)
      (s.b F.LDS_CTRL_SCRUBEN = true → (∀ e, e < 17 → (s.eng e).bad = []) →
        ∃ t, exec .scrub s = .next t ∧
          (∀ w, ready w = true → w ∉ t.ldsBad ∧ w ∉ t.ldsSoft ∧
            memGet t.lds w = if w ∈ s.ldsBad then 0 else memGet s.lds w) ∧
          (∀ w, ready w = false → memGet t.lds w = memGet s.lds w ∧ (w ∈ t.ldsBad ↔ w ∈ s.ldsBad)) ∧
          t.f F.LDS_ECCC_COUNT = min (s.f F.LDS_ECCC_COUNT + (s.ldsSoft.filter ready).length) (2 ^ 32 - 1) ∧
          t.f F.LDS_ECCUC_COUNT = min (s.f F.LDS_ECCUC_COUNT + (s.ldsBad.filter ready).length) 65535 ∧
          t.f F.LDS_SCRUB_ROUNDS = min (s.f F.LDS_SCRUB_ROUNDS + 1) 65535 ∧
          ∀ e, e < 17 → { t.eng e with soft := (s.eng e).soft } = s.eng e ∧
            (s.on e = true → (t.eng e).soft = [] ∧
              t.f (F.ENGECC_COUNT e) = min (s.f (F.ENGECC_COUNT e) + (s.eng e).soft.length) (2 ^ 32 - 1))) ∧
      (s.b F.LDS_CTRL_SCRUBEN = false → exec .scrub s = .next s))

/-! ## Epochs (R57 to R64, R177 to R187) -/

/-- R171, R177, R186: EPOCH_WRITE of an epoch that installs no image, places no line and needs no higher voltage. Phase 1
begins and STG_ARMED shows the epoch's number; the epoch carries the clocks of the tiers that it leads to; a host
whose logical engine's golden copy the epoch changes takes the new words into its shadow bank, where a word that is
rewritten is sound, and every live bank keeps its words. With a double-bit error in a golden copy the epoch is left
with no items and no engine changes. Out of phase 0, while the epoch before is reconciled, on an empty queue, and
while a timed epoch's lead has not begun nothing happens. -/
def Obligations.EpochsAreWrittenToShadow : Prop :=
  ∀ (e : Epoch) (q : List Epoch) (s : State),
    (s.phase = 0 → s.stg.recon = none → s.stg.queue = e :: q → s.booting = false → s.b F.TSU_STAT_HARD = false →
      s.shadowing = false → s.scuState ≠ 5 → s.early e = false → (∀ a b, e.target = .index a b → s.running a = true) →
      let written (t : State) := t.phase = 1 ∧ t.reg R.STG_ARMED = BitVec.ofNat 32 e.num ∧
        (∀ a, a ≠ R.STG_STAT → a ≠ R.STG_ARMED → t.reg a = s.reg a) ∧
        { t with regs := s.regs, engs := s.engs, stg := s.stg } = s
      let clocks (items : List Item) := s.cfg.clocks (s.cfg.lay items false) items
      (e.lines = [] → s.cfg.installs e.items = [] → (∀ k ∈ clocks e.items, k.2 ≤ 10) →
        (∀ l k h, (s.le l).host = some h → (s.le k).host = some h → l = k) →
        ∃ t, exec (.epochWrite none) s = .next t ∧ written t ∧
          t.stg.queue = { e with clocks := clocks e.items } :: q ∧
          (∀ l h, l < 16 → h < 17 → (s.le l).host = some h → s.cfg.le l ≠ t.nextCfg.le l →
            (t.eng h).coefSh = (t.nextCfg.le l).golden) ∧
          ∀ x, { t.eng x with coefSh := (s.eng x).coefSh, bad := (s.eng x).bad, soft := (s.eng x).soft } = s.eng x) ∧
      (s.cfg.lay [] false = s.cfg → clocks [] = [] →
        ∀ g, ∃ t, exec (.epochWrite (some g)) s = .next t ∧ written t ∧ t.engs = s.engs ∧
          t.stg.queue = { e with items := [], clocks := [], lines := [], freed := [], integrity := true } :: q)) ∧
    (s.phase ≠ 0 ∨ s.stg.recon ≠ none ∨ s.stg.queue = [] ∨ (∃ x r, s.stg.queue = x :: r ∧ s.early x = true) → ∀ g, exec (.epochWrite g) s = .next s)

/-- R57, R62, R177, R180: ARM of an epoch whose shadow content is complete. With every affected group running, phase 2
begins, the units of those groups have yet to acknowledge, their GARM bits set, a timed epoch past its target's
deadline is late, and no live content changes. An epoch with no items, and so no group, is applied at once and
reconcile begins. An epoch that is not complete, and an empty queue, are left alone. R59, R175, R177, R186, R187: an
acknowledgement takes its unit from those awaited, an engine with a new clock only once it is locked. Reconcile writes
the program and the golden copy of every logical engine to the shadow banks of its host and sets RECDONE; on an empty
queue the PMU then evaluates its target (R213). A read of STG_METDATA returns the selected word of the snapshot; the
read with a new selection latches its tag and its boundary in STG_METEPOCH and STG_METIDX. -/
def Obligations.ArmingAndReconcile : Prop :=
  (∀ (e : Epoch) (q : List Epoch) (s : State), s.stg.queue = e :: q →
      (s.armReady e = true → e.clocks = [] → s.epochGroups e ≠ [] → (∀ g ∈ s.epochGroups e, s.running g = true) →
        let late : Bool := match e.target with
          | .index a b => decide (b * s.ratio a < s.sidx (s.leader a) + s.blen (s.leader a) / 4)
          | .untimed => false
        ∃ t, exec .arm s = .next t ∧ t.phase = 2 ∧ t.stg.groups = s.epochGroups e ∧ t.stg.armNs = s.now ∧ t.stg.go = [] ∧
          t.stg.nack = (s.unitsOf e).filter (fun u => decide (u.1 ∈ s.epochGroups e)) ∧
          t.f F.STG_STAT_GARM = ((s.epochGroups e).map (2 ^ ·)).sum % 16 ∧
          t.stg.queue = { e with late := e.late || late } :: q ∧ (∀ a, a ≠ R.STG_STAT → t.reg a = s.reg a) ∧
          { t with regs := s.regs, stg := s.stg } = s) ∧
      (s.armReady e = true → e.target = .untimed → e.items = [] → e.clocks = [] → s.epochGroups e = [] →
        ∃ t, exec .arm s = .next t ∧ t.phase = 4 ∧ t.stg.queue = q ∧ t.stg.recon = some e ∧ t.stg.groups = [] ∧
          t.reg R.STG_APPLIED = BitVec.ofNat 32 e.num ∧ t.b F.STG_STAT_APPLIED = true ∧ t.f F.STG_STAT_GARM = 0 ∧
          t.engs = s.engs) ∧
      (s.armReady e = false → exec .arm s = .next s)) ∧
  (∀ (unit : BitVec 5) (who : Initiator) (s : State),
      ((s.phase = 2 ∨ s.phase = 3) → (unit.toNat < 17 → s.f (F.ENG_CLKST_N unit.toNat) ≠ s.f (F.ENG_CLKST_NARM unit.toNat) →
          (s.eng unit.toNat).tuned = true) →
        exec (.unitAck unit) s =
          .next { s with stg := { s.stg with nack := s.stg.nack.filter fun u => decide (u.2 ≠ unit.toNat) } }) ∧
      (¬ (s.phase = 2 ∨ s.phase = 3) → exec (.unitAck unit) s = .next s) ∧
      (unit.toNat < 17 → s.f (F.ENG_CLKST_N unit.toNat) ≠ s.f (F.ENG_CLKST_NARM unit.toNat) →
        (s.eng unit.toNat).tuned = false → exec (.unitAck unit) s = .next s) ∧
      (s.phase = 4 → (∀ l k h, (s.le l).host = some h → (s.le k).host = some h → l = k) → s.shadowing = false →
        s.scuState ≠ 5 → ∃ t, exec (.reconcileDone none) s = .next (if s.stg.queue = [] then t.pmuEval else t) ∧ t.phase = 0 ∧ t.b F.STG_STAT_RECDONE = true ∧
        t.stg = { s.stg with recon := none } ∧ (∀ a, a ≠ R.STG_STAT → t.reg a = s.reg a) ∧
        (∀ l h, l < 16 → h < 17 → (s.le l).host = some h →
          (t.eng h).progSh = imgProg (s.le l).image ∧ (t.eng h).coefSh = (s.le l).golden) ∧
        (∀ x, { t.eng x with
          progSh := (s.eng x).progSh, coefSh := (s.eng x).coefSh, bad := (s.eng x).bad, soft := (s.eng x).soft } = s.eng x) ∧
        { t with regs := s.regs, stg := s.stg, engs := s.engs } = s) ∧
      (s.phase ≠ 4 → ∀ g, exec (.reconcileDone g) s = .next s) ∧
      (s.on 21 = true →
        let en := s.eng (s.f F.STG_METSEL_ENG)
        let sel := 64 * s.f F.STG_METSEL_ENG + s.f F.STG_METSEL_IDX
        ∃ t, exec (.stgMetdataRead who) s = .next t ∧
          t.resp = ⟨((en.snap[s.f F.STG_METSEL_IDX]?).map (·.2)).getD 0, false⟩ ∧ t.stg = { s.stg with metSel := some sel } ∧
          (s.stg.metSel ≠ some sel → t.reg R.STG_METEPOCH = en.snapEpoch ∧ t.reg R.STG_METIDX = BitVec.ofNat 32 en.snapIdx) ∧
          (s.stg.metSel = some sel → t.reg R.STG_METEPOCH = s.reg R.STG_METEPOCH ∧ t.reg R.STG_METIDX = s.reg R.STG_METIDX) ∧
          OnlyRead s { t with stg := s.stg } [R.STG_METDATA, R.STG_METEPOCH, R.STG_METIDX]))

/-! ## The lehr, the thresholds and the power states (R194 to R216, R365, R411, R412, R426) -/

/-- R194: the end of a window of the lehr assist, outside S0, or in S0 while hard holds and no engine is powered. The
activity counts are those of the window, whose length is that of the settings to within 1,000 ppm (log 2), DONE sets,
WINDOWS counts, and PEST is valid; its milliwatts are the dynamic and the fixed term with the leakage, which is
rounded down, with a last milliwatt that the manual leaves open where it is no whole number (log 6). In S0 under hard
the calm count is 0. R197, R198, R199, R219: a sample of the temperature sensors; sensor k is the hottest, and no
lower number is as hot. Every reading, the maximum, its sensor and SOFT follow the sample. Hard begins with a second
sample in a row of at least 108 °C and pauses the background work; it ends with a second below 103 °C; a second of at
least 115 °C trips: ALERT, the cause, and a ramp of every running domain. A trip lock ends once the AON sensor reads
below 90 °C. -/
def Obligations.PowerEstimateAndThresholds : Prop :=
  (∀ (el : Elapsed) (acts : List Nat) (ns : Nat) (s : State),
      let u := s.advance el
      (s.b F.LA_CTRL_EN = true →
        (s.powerState ≠ 0 ∨ s.b F.TSU_STAT_HARD = true ∧ ∀ e, e < 17 → s.on e = false) →
        ∃ t, exec (.windowEnd el acts ns) s = .next t ∧
          (∀ i, i < 23 → t.f (F.LA_ACT_COUNT i) = min (acts.getD i 0) (2 ^ 32 - 1)) ∧
          t.b F.LA_STAT_DONE = true ∧ t.f F.LA_STAT_WINDOWS = (u.f F.LA_STAT_WINDOWS + 1) % 2 ^ 16 ∧
          t.b F.LA_PEST_VALID = true ∧ (s.powerState = 0 → t.lehr.calm = 0) ∧ t.engs = s.engs ∧
          let p := t.dynMw (u.windowNs ns) + u.leak.1 + (if u.leak.2 then 0 else Config.freeValue u.freeCtr % 2) +
            u.f F.LA_FIXED_MW
          (u.windowNs ns ≠ 0 → p ≤ 65535 → t.f F.LA_PEST_MW = p)) ∧
      (s.b F.LA_CTRL_EN = false → exec (.windowEnd el acts ns) s = .next u)) ∧
  (∀ (el : Elapsed) (ts : List Int) (k : Nat) (s : State),
      let v (i : Nat) : Int := ts.getD i 0
      let tj := v k
      k < 24 → (∀ i, i < 24 → -2048 ≤ v i ∧ v i ≤ tj ∧ v i < 2048) → (∀ i, i < k → v i < tj) →
      (∀ l, l < 16 → (s.le l).image = []) → s.shadowing = false → s.puntyOf = none →
      let c : Instr := .tsuSample el ts
      let read (t : State) := (∀ i, i < 24 → sext 12 (t.f (F.TSU_T_TJ i)) = v i) ∧ sext 12 (t.f F.TSU_MAX_TJ) = tj ∧
        t.f F.TSU_STAT_HOT = k ∧ t.b F.TSU_STAT_SOFT = decide (400 ≤ tj) ∧ t.engs = s.engs
      (s.b F.PMU_STAT_TRIPLOCK = false →
        (s.b F.TSU_STAT_HARD = false → tj < 432 → ∃ t, exec c s = .next t ∧ read t ∧ t.b F.TSU_STAT_HARD = false ∧
          t.lehr.hardRun = 0 ∧ t.lehr.tripRun = 0) ∧
        (s.b F.TSU_STAT_HARD = false → 1 ≤ s.lehr.hardRun → 432 ≤ tj → tj < 460 → ∃ t, exec c s = .next t ∧ read t ∧
          t.b F.TSU_STAT_HARD = true ∧ t.b F.TSU_STAT_HARDEV = true ∧ t.lehr.paused = true ∧ 24 ∈ t.irqs) ∧
        (s.b F.TSU_STAT_HARD = true → 1 ≤ s.lehr.coolRun → tj < 412 → ∃ t, exec c s = .next t ∧ read t ∧
          t.b F.TSU_STAT_HARD = false ∧ 24 ∈ t.irqs) ∧
        (s.b F.TSU_STAT_HARD = true → 1 ≤ s.lehr.tripRun → 460 ≤ tj → s.pmu.tripped = false → ∃ t, exec c s = .next t ∧
          read t ∧ t.pmu.alert = true ∧ t.pmu.tripped = true ∧ t.f F.PMU_RSTCAUSE_CAUSE = 4 ∧
          ∀ d, d < 4 → s.running d = true → (t.dom d).tripRamp = some 0)) ∧
      (s.b F.PMU_STAT_TRIPLOCK = true → s.b F.TSU_STAT_HARD = false → tj < 432 → v 22 < 360 →
        ∃ t, exec c s = .next t ∧ read t ∧ t.b F.PMU_STAT_TRIPLOCK = false ∧ t.pmu.alert = false ∧ t.pmu.tripped = false))

/-- R207, R212, R213, R199: the evaluation of the target: S0 while it is required, else a state at least as deep as every
one whose exit is fast enough, that NET_KEEP allows and in which every required wake source works; S1 is entered and
left at once. The entry of S2 to S5, or the shutdown that follows a trip, takes the target, or S5 with the trip lock;
a wake that fires during an entry acts on the state that the entry had then reached (R214), and a source that does not
wake changes nothing; S5 leaves no control SRAM, no queued epoch and no supply. -/
def Obligations.PowerStatesAreTaken : Prop :=
  ∀ s : State,
    let fits (n : Nat) := exitUs n ≤ s.f F.PMU_LATTOL_TOL ∧ (s.netKeep = true → n ≤ 3) ∧
      ∀ b, 9 ≤ b → b < 16 → s.req b = true → s.wakeWorks b n = true
    (s.req 0 = true → s.target = 0) ∧ (s.req 0 = false → ∀ n, 1 ≤ n → n ≤ 5 → fits n → n ≤ s.target) ∧
    (s.target ≠ 0 → s.req 0 = false ∧ fits s.target) ∧
    (¬ (s.powerState = 0 ∧ s.target = 1) → ¬ (s.powerState = 1 ∧ s.target = 0) →
      ∃ t, exec .pmuEval s = .next t ∧ t.f F.PMU_STAT_TARGET = s.target ∧ t.b F.PMU_STAT_NETKEEP = s.netKeep ∧
        t.powerState = s.powerState ∧ OnlyRegs s t [R.PMU_STAT]) ∧
    (s.powerState = 0 → s.target = 1 → ∃ t, exec .pmuEval s = .next t ∧ t.powerState = 1) ∧
    (s.powerState = 1 → s.target = 0 → ∃ t, exec .pmuEval s = .next t ∧ t.powerState = 0) ∧
    (let entered (t : State) (n : Nat) := t.powerState = n ∧ t.pmu.reached = n ∧
      (n = 5 → t.sram = [] ∧ t.stg.queue = [] ∧ t.pmu.pwrenCore = false ∧ t.pmu.supplies = false)
     (s.mayEnter = true → s.f F.PMU_STAT_TARGET ≤ 5 →
        ∃ t, exec (.powerStateEntry none) s = .next t ∧ entered t (s.f F.PMU_STAT_TARGET)) ∧
     (s.mayEnter = false → ∀ w, exec (.powerStateEntry w) s = .next s) ∧
     (∀ b r, s.wakeWorks b (s.f F.PMU_STAT_TARGET) = false ∨ (b ≠ 8 ∧ s.req b = false) →
        exec (.powerStateEntry (some (b, r))) s = exec (.powerStateEntry none) s) ∧
     (∀ b r, s.mayEnter = true → s.wakeWorks b (s.f F.PMU_STAT_TARGET) = true → b = 8 ∨ s.req b = true →
        exec (.powerStateEntry (some (b, r))) s =
          .next (((if b = 8 then s.wakeHeld else s).enterState (max 1 (min r (s.f F.PMU_STAT_TARGET)))).wake b)) ∧
     (s.pmu.tripped = true → s.b F.PMU_STAT_TRIPLOCK = false →
        ∃ t, exec (.tripShutdown true) s = .next t ∧ t.b F.PMU_STAT_TRIPLOCK = true ∧ t.powerState = 5 ∧
          t.pmu.pwrenCore = false ∧ t.pmu.supplies = false ∧ (s.powerState ≠ 5 → entered t 5)) ∧
     (s.pmu.tripped = false ∨ s.b F.PMU_STAT_TRIPLOCK = true → ∀ timeout, exec (.tripShutdown timeout) s = .next s))

/-- R214, R215, R216, R345, R365, R411, R412, R426: each wake source in S1, when its requirement is set, brings the device
to S0 and is recorded in PMU_WAKESRC; in S5 the WAKE pin has the supplies brought up for a full start, with cause 5; a
source whose requirement is clear, or a pin of a group without its supply, does nothing. The release of WAKE ends
WAKEBLK. -/
def Obligations.WakeSources : Prop :=
  ∀ (el : Elapsed) (pin : BitVec 3) (rise : Bool) (held : Nat) (two : Bool) (ch : UartChar) (frame : List Byte) (s : State),
    let woken (c : Instr) (bit : Nat) := ∃ t, exec c s = .next t ∧ t.powerState = 0 ∧
      t.reg R.PMU_WAKESRC = s.reg R.PMU_WAKESRC ||| BitVec.ofNat 32 (2 ^ bit)
    (s.powerState = 1 → s.b F.PMU_STAT_TRIPLOCK = false → s.target ≠ 1 →
      (∃ t, exec .wakePin s = .next t ∧ t.powerState = 0 ∧ t.pmu.wakePin = true ∧ t.b F.PMU_STAT_WAKEBLK = true ∧
        t.reg R.PMU_WAKESRC = s.reg R.PMU_WAKESRC ||| 0x100) ∧
      (s.req 15 = true → (s.advance el).f F.PMU_WKTIMER_CMP ≠ 0 →
        (s.advance el).f F.PMU_SLOWCNT_COUNT = (s.advance el).f F.PMU_WKTIMER_CMP → woken (.wakeTimer el) 15) ∧
      (s.req 9 = true → s.fbit F.GPIO_WAKE_EN pin.toNat = true → s.fbit F.GPIO_WAKE_RISE pin.toNat = rise →
        s.f F.GPIO_WAKE_WFILT ≤ held → woken (.gpioWake pin rise held) 9) ∧
      (s.req 10 = true → woken .uart0StartWake 10) ∧ (s.req 13 = true → woken .hspWake 13) ∧
      (s.req 14 = true → s.netKeep = true → s.on 24 = true → woken (.netframeWake frame) 14) ∧
      (let u := 1 + b2n two
       s.req (10 + u) = true → s.uartRuns u = true → s.b (F.UART_FMT_NINE u) = true →
        s.b (F.UART_ADDR_MATCHEN u) = true → (s.uart u).brk = false →
        (∃ r, s.uartRead u ch = some r ∧ r.stop = true ∧ r.data.getLsbD 8 = true ∧
          s.uartMatch u (r.data.toNat % 256) = true) → (s.uartHear u ch).target ≠ 1 →
        woken (.uartAddressWake two ch) (10 + u))) ∧
    (s.powerState = 5 → s.b F.PMU_STAT_TRIPLOCK = false → s.pmu.resetReq = false →
      ∃ t, exec .wakePin s = .next t ∧ t.pmu.resetReq = true ∧ t.pmu.pwrenCore = true ∧ t.pmu.pwrenIo = true ∧
        t.pmu.supplies = false ∧ t.f F.PMU_RSTCAUSE_CAUSE = 5 ∧
        t.reg R.PMU_WAKESRC = s.reg R.PMU_WAKESRC ||| 0x100) ∧
    (∃ t, exec (.gpioWake pin rise held) s = .next t ∧ (s.vddioG = true ∨ t = s)) ∧
    (s.req 10 = false → exec .uart0StartWake s = .next s) ∧ (s.req 13 = false → exec .hspWake s = .next s) ∧
    (2 ≤ s.powerState → ∃ t, exec .wakeRelease s = .next t ∧ t.pmu.wakePin = false ∧ t.b F.PMU_STAT_WAKEBLK = false ∧
      t.powerState = s.powerState ∧ t.f F.PMU_STAT_TARGET = s.target)

/-! ## The punty, hand-overs and aging (R202, R205, R224 to R252) -/

/-- R224 to R227, R251: a clone starts from IDLE on a hosted logical engine with an engine that is out of service; loading
gives it the golden banks, copying the host's state memory and tile; a complete window sets WINDONE, closes the case
and, with no engine left to shadow, returns the machine to IDLE; an abort ends shadowing. The host's memories never
change. R234, R236, R239, R251: a hand-over that firmware asks for is hot when the punty is in LOCK on the logical
engine, with the fault instant 2 µs on and the expected boundary in HOBND, and cold from IDLE with an engine that is
out of service and in no need of BIST, which is OUT and in CLEAR. The load of a cold one gives it the golden banks,
out of service, after tick b. -/
def Obligations.ShadowCheckingAndHandOvers : Prop :=
  (∀ (p : BitVec 5) (le : Fin 16) (h : Nat) (s : State), h < 17 →
      let ended (t : State) := t.scuState = 0 ∧ t.b F.SCU_PAIR_VALID = false ∧ t.f F.SCU_WCNT_COUNT = 0 ∧
        t.mode s.pairPunty = 1 ∧ (t.eng s.pairPunty).role = .punty ∧ (t.eng s.pairPunty).busy = false
      (s.on 21 = true → s.scuState = 0 → p.toNat < 17 → p.toNat ≠ h → s.mode p.toNat = 1 → s.clean p.toNat = true →
        (s.le le).host = some h →
        ∃ t, exec (.cloneStart p le) s = .next t ∧ t.scuState = 1 ∧ t.b F.SCU_PAIR_VALID = true ∧ t.pairLe = le ∧
          t.pairHost = h ∧ t.pairPunty = p.toNat ∧ t.mode p.toNat = 3 ∧ t.f F.SCU_WCNT_COUNT = 0 ∧ t.scu.lastLe = le ∧
          ∀ j, j ≠ p.toNat → t.eng j = s.eng j) ∧
      (s.on 21 = false → exec (.cloneStart p le) s = .next s.busErr ∧ exec .shadowAbort s = .next s.busErr) ∧
      (s.pairPunty < 17 → s.pairPunty ≠ s.pairHost → s.pairLe < 16 →
        (s.scuState = 1 → s.phase = 0 → ∃ t, exec .cloneLoadDone s = .next t ∧ t.scuState = 2 ∧
          (t.eng s.pairPunty).prog = imgProg (s.le s.pairLe).image ∧ (t.eng s.pairPunty).coef = (s.le s.pairLe).golden ∧
          ∀ j, j ≠ s.pairPunty → t.eng j = s.eng j) ∧
        (s.scuState = 2 → ∃ t, exec .cloneCopyDone s = .next t ∧ t.scuState = 3 ∧
          (t.eng s.pairPunty).st = (s.eng s.pairHost).st ∧ (t.eng s.pairPunty).tile = (s.eng s.pairHost).tile ∧
          t.b F.SCU_CLONE_DONE = true ∧ t.f F.SCU_CLONE_WORDS = 139264 ∧ ∀ j, j ≠ s.pairPunty → t.eng j = s.eng j) ∧
        (s.scuState = 4 → s.winLen ≤ s.f F.SCU_WCNT_COUNT → s.lehr.paused = true →
          (∀ l ∈ s.lehr.forced, l = s.pairLe) → (∀ l, l < 16 → (s.le l).retire = false) →
          (∀ e, e < 17 → (s.eng e).role = .punty → e = s.pairPunty) → s.clean s.pairPunty = true →
          ∃ t, exec .compareWindowDone s = .next t ∧ ended t ∧ t.b F.SCU_STAT_WINDONE = true ∧ t.lehr.forced = [] ∧
            (t.le s.pairLe).checkAt = s.s0 ∧ (t.le s.pairLe).case = none ∧ (t.le s.pairLe).overdue = false ∧
            ∀ j, j ≠ s.pairPunty → t.eng j = s.eng j) ∧
        (s.on 21 = true → s.shadowing = true → ∃ t, exec .shadowAbort s = .next t ∧ ended t ∧
          ∀ j, j ≠ s.pairPunty → t.eng j = s.eng j)) ∧
      (s.on 21 = true → s.shadowing = false → exec .shadowAbort s = .next s)) ∧
  (∀ (inc out : BitVec 5) (le : Fin 16) (s : State), s.on 21 = true →
      (s.scuState = 4 → s.pairLe = le → ∃ t, exec (.handoverRequest false inc out le) s = .next t ∧ t.scuState = 5 ∧
        t.pairLe = le ∧ t.pairHost = s.pairHost ∧ t.pairPunty = s.pairPunty ∧ t.scu.after = s.plus2us ∧ t.scu.go = false ∧
        t.scu.cold = false ∧ t.f F.SCU_HOBNDL_IDX = s.expectedB le % 2 ^ 32 ∧ t.engs = s.engs ∧ t.les = s.les) ∧
      (s.scuState = 0 → inc.toNat < 17 → out.toNat < 17 → inc ≠ out → s.mode inc.toNat = 1 → s.clean inc.toNat = true →
        s.claimed inc.toNat = false → ∃ t, exec (.handoverRequest true inc out le) s = .next t ∧ t.scuState = 7 ∧ t.pairLe = le ∧ t.pairHost = out.toNat ∧
          t.pairPunty = inc.toNat ∧ t.scu.cold = true ∧ t.scu.go = false ∧ t.mode inc.toNat = 6 ∧
          t.b (F.ENG_STAT_BUSY inc.toNat) = true ∧ (t.eng inc.toNat).role = .out ∧
          (s.rolesOf .reserve = [] → ∀ j, j ≠ inc.toNat → t.eng j = s.eng j) ∧ t.les = s.les) ∧
      (s.scuState = 7 → s.phase = 0 → s.pairPunty < 17 → s.pairLe < 16 → (s.le s.pairLe).entry = .cold → (s.le s.pairLe).lines = [] →
        ∃ t, exec .coldLoadDone s = .next t ∧ t.scuState = 8 ∧ t.scu.loaded = true ∧ t.mode s.pairPunty = 1 ∧
          t.b (F.ENG_STAT_BUSY s.pairPunty) = false ∧ (t.eng s.pairPunty).prog = imgProg (s.le s.pairLe).image ∧
          (t.eng s.pairPunty).coef = (s.le s.pairLe).golden ∧ ∀ j, j ≠ s.pairPunty → t.eng j = s.eng j))

/-- R202, R205, R242: with no punty and no engine that waits for BIST, a logical engine that has gone 23 hours without a
window is forced, and one that has gone 24 hours is reported overdue, once; the end of the settle time puts the raised
voltage in force and lets the waiting epoch go on. R245, R246, R252: AGE_CTRL.GO starts a measurement. Its end gives
the count of every powered island, 0 for the others, and lowers no FMAX when no engine had a step before, since a step
takes effect with the second measurement in a row. AGE_FMAX takes a value at or below the current one, and keeps its
own against a higher one. -/
def Obligations.OverdueChecksVoltageAndAging : Prop :=
  (∀ (le : Fin 16) (s : State),
      (s.puntyOf = none → (∀ e, e < 17 → s.clean e = true) → s.shadowing = false → (s.le le).image ≠ [] →
        (s.uncheckedFor le 23 = true → (s.le le).excluded = false →
          ∃ t, exec (.shadowForce le) s = .next t ∧
            t = { s with lehr := { s.lehr with forced := t.lehr.forced } } ∧ ∀ l, l ∈ t.lehr.forced ↔ l ∈ s.lehr.forced ∨ l = le.val) ∧
        (s.uncheckedFor le 23 = false → exec (.shadowForce le) s = .next s) ∧
        (s.soundEngines ≤ s.imagedLes.length → s.uncheckedFor le 24 = true → (s.le le).overdue = false →
          ∃ t, exec (.checkOverdue le) s = .next t ∧ (t.le le).overdue = true ∧ (∀ l, l ≠ le.val → t.le l = s.le l) ∧
            t.engs = s.engs ∧ t.scu = s.scu) ∧
        (s.imagedLes.length < s.soundEngines ∨ (s.le le).overdue = true → exec (.checkOverdue le) s = .next s)) ∧
      (s.lehr.avs = some true → s.lehr.avsSettle = true →
        ∃ t, exec .avsSettled s = .next t ∧ t.f F.LA_VDD_MV = s.avsHi ∧ t.lehr.avs = none ∧ t.stg.avsWait = false ∧
          t.stg.queue = s.stg.queue ∧ ∀ a, a ≠ F.LA_VDD_MV.addr → t.reg a = s.reg a) ∧
      (s.lehr.avs ≠ some true → exec .avsSettled s = .next s)) ∧
  (∀ (e : Eng) (n : Word) (cnt : List Nat) (s : State),
      (∃ t, exec .ageMeasure s = .next t ∧ t.b F.AGE_STAT_BUSY = true ∧ t.lehr.ageAt = s.s0 ∧
        OnlyRegs { s with lehr := { s.lehr with ageAt := s.s0 } } t [R.AGE_STAT]) ∧
      (s.b F.AGE_STAT_BUSY = true → (∀ j, j < 17 → (s.eng j).ageSteps = 0 ∧ s.fmax j ≤ s.fusedFmax) →
        ∃ t, exec (.ageMeasureDone cnt) s = .next t ∧ t.b F.AGE_STAT_BUSY = false ∧ t.b F.AGE_STAT_DONE = true ∧
          (∀ i, i < 23 → t.f (F.AGE_CNT_COUNT i) = if s.islandOn i then cnt.getD i 0 % 2 ^ 24 else 0) ∧
          ∀ j, j < 17 → t.fmax j = s.fmax j) ∧
      (s.b F.AGE_STAT_BUSY = false → exec (.ageMeasureDone cnt) s = .next s) ∧
      (n.toNat ≤ s.fmax e → ∃ t, exec (.ageFmaxWrite e n) s = .next t ∧ t.fmax e = n.toNat ∧ OnlyRegs s t [R.AGE_FMAX e, R.ENG_CLKST e]) ∧
      (s.fmax e < n.toNat → n.toNat < 32 → exec (.ageFmaxWrite e n) s = .next s))

/-! ## Clocks (R253 to R276) -/

/-- R254 to R260, R275: the commands of the fixed loops and of the engine clocks. SYSUPD applies reference and multiplier
together and drops LOCK at an edge of the newly selected reference, and waits without one; loss and return of the
reference; a loop locks when it is enabled and the SYS MDLL is locked; an unlock sets its flag, and of 1 ms in SYS or
a CC asks for a device reset; an engine takes a new multiplier only out of service, at its LOCK. -/
def Obligations.FixedLoopsAndEngineClocks : Prop :=
  ∀ (l : BitVec 2) (ms edge : Bool) (e : Eng) (n : Word) (s : State),
    let lock (t : State) (j : Nat) := t.fbit F.CLK_STAT_LOCK j
    (s.on 21 = true →
      (∃ t, exec (.sysupd true) s = .next t ∧ lock t 0 = false ∧
        t.sysLoop = ⟨s.b F.CLK_CTRL_REFSEL, s.f F.CLK_SYSI_INT, s.reg R.CLK_SYSF, s.sysLoop.mash⟩ ∧ t.b F.CLK_STAT_SYSPEND = false ∧
        ∀ a, a ≠ R.CLK_STAT → t.reg a = s.reg a) ∧
      (∃ t, exec (.sysupd false) s = .next t ∧ t.b F.CLK_STAT_SYSPEND = true ∧ OnlyRegs s t [R.CLK_STAT]) ∧
      (s.inService e = false → ∃ t, exec (.engineClockSet e n) s = .next t ∧ t.f (F.CLK_ENGN_N e) = n.toNat % 32 ∧
        t.b (F.ENG_CLKST_LOCK e) = false ∧ OnlyRegs s t [R.CLK_ENGN e, R.ENG_CLKST e]) ∧
      (s.inService e = true → exec (.engineClockSet e n) s = .next s)) ∧
    (s.on 21 = false → exec (.sysupd edge) s = .next s.busErr ∧ exec (.engineClockSet e n) s = .next s.busErr) ∧
    (s.loopEnabled l.toNat = true → l = 0 ∨ lock s 0 = true →
      ∃ t, exec (.loopLock l) s = .next t ∧ lock t l.toNat = true ∧ (∀ j, j < 4 → j ≠ l.toNat → lock t j = lock s j) ∧
        OnlyRegs s t [R.CLK_STAT]) ∧
    (s.loopEnabled l.toNat = false → exec (.loopLock l) s = .next s) ∧
    (s.inService e = true → exec (.engineClockLock e) s = .next (s.modEng e fun x => { x with tuned := true })) ∧
    (s.inService e = false → (s.eng e).acts = [] →
      ∃ t, exec (.engineClockLock e) s = .next t ∧ t.f (F.ENG_CLKST_N e) = s.engnEff e ∧
        t.f (F.ENG_CLKST_NARM e) = s.engnEff e ∧ t.b (F.ENG_CLKST_LOCK e) = true ∧ OnlyRegs s t [R.ENG_CLKST e]) ∧
    (∃ t, exec .systemReferenceLost s = .next t ∧ t.b F.CLK_STAT_SYSCOAST = true ∧ t.b F.CLK_MON_REFLOST = true ∧
      lock t 0 = false ∧ t.sysLoop = s.sysLoop ∧ t.engs = s.engs) ∧
    (s.b F.CLK_STAT_SYSCOAST = true → ∃ t, exec .systemReferenceReturn s = .next t ∧
      t.b F.CLK_STAT_SYSCOAST = false ∧ lock t 0 = true ∧ t.b F.CLK_STAT_SYSPEND = false ∧
      t.sysLoop =
        if s.b F.CLK_STAT_SYSPEND then ⟨s.b F.CLK_CTRL_REFSEL, s.f F.CLK_SYSI_INT, s.reg R.CLK_SYSF, s.sysLoop.mash⟩
        else s.sysLoop) ∧
    (s.b F.CLK_STAT_SYSCOAST = false → s.b F.CLK_STAT_SYSPEND = false → exec .systemReferenceReturn s = .next s) ∧
    (∃ t, exec (.mdllUnlock l ms) s = .next t ∧ lock t l.toNat = false ∧
      t.b (if l = 0 then F.CLK_MON_SYSUNLOCK else if l = 1 then F.CLK_MON_LDSUNLOCK else F.CLK_MON_CCUNLOCK) = true ∧
      (ms = true → l ≠ 1 → t.pmu.resetReq = true ∧ t.f F.PMU_RSTCAUSE_CAUSE = 7) ∧
      (ms = false ∨ l = 1 → OnlyRegs s t [R.CLK_MON, R.CLK_STAT])) ∧
    (∃ t, exec (.engineMdllUnlock e) s = .next t ∧ t.b F.CLK_MON_ENGUNLOCK = true ∧ t.f F.CLK_MON_ENG = e ∧
      t.b (F.ENG_CLKST_LOCK e) = false ∧ OnlyRegs s t [R.CLK_MON, R.ENG_CLKST e]) ∧
    (s.b F.CLK_SLOW_SEL = true → ∃ t, exec .slowClockLoss s = .next t ∧ t.b F.CLK_SLOW_ACTIVE = false ∧
      t.b F.CLK_MON_SLOWLOST = true ∧ OnlyRegs s t [R.CLK_SLOW, R.CLK_MON]) ∧
    (s.b F.CLK_SLOW_SEL = false → exec .slowClockLoss s = .next s)

/-- R263 to R267, R276: the sets and the phase steps of an audio clock synthesiser. An UPDATE whose set fails the check
sets REFUSED and leaves the set in force; one that passes is applied, or waits while the synthesiser coasts. An ADD
saturates at 4,095 steps with QOVF, a step goes one toward zero and NETSTEP counts it, CLRQ empties the queue; a read
of LIVE latches LIVEF. -/
def Obligations.AcsSetsAndPhaseSteps : Prop :=
  ∀ (a : Bool) (add : BitVec 13) (who : Initiator) (s : State), s.on 21 = true →
    let k := b2n a
    let x := s.acsBuffered k
    let live := s.reg (R.ACS_LIVE k)
    let same := wordFld x.div 31 30 = wordFld live 31 30 ∧ wordFld x.div 26 24 = wordFld live 26 24
    let q := s.psq k
    (s.b (F.ACS_CTRL_RESEED k) = false →
      (s.acsCheck k x = false → ∃ t, exec (.acsUpdate a) s = .next t ∧ t.b (F.ACS_STAT_REFUSED k) = true ∧
        t.b (F.ACS_STAT_UPDPEND k) = false ∧ (t.acsOf k).cap = none ∧ ∀ b, b ≠ R.ACS_STAT k → t.reg b = s.reg b) ∧
      (s.acsCheck k x = true → s.b (F.ACS_CTRL_EN k) = true → same →
        (s.b (F.ACS_STAT_COAST k) = false → ∃ t, exec (.acsUpdate a) s = .next t ∧
          t.reg (R.ACS_LIVE k) = x.div &&& 0xD73FFFFF ∧ t.reg (R.ACS_LIVEF k) = x.frac ∧
          t.b (F.ACS_STAT_UPDPEND k) = false ∧ (t.acsOf k).cap = none ∧
          ∀ b, b ∉ [R.ACS_STAT k, R.ACS_LIVE k, R.ACS_LIVEF k] → t.reg b = s.reg b) ∧
        (s.b (F.ACS_STAT_COAST k) = true → ∃ t, exec (.acsUpdate a) s = .next t ∧ t.b (F.ACS_STAT_UPDPEND k) = true ∧
          (t.acsOf k).cap = some x ∧ ∀ b, b ≠ R.ACS_STAT k → t.reg b = s.reg b))) ∧
    (∃ t, exec (.acsClrq a) s = .next t ∧ t.psq k = 0 ∧ OnlyRegs s t [R.ACS_PSQ k]) ∧
    (∃ t, exec (.phaseStepAdd a add) s = .next t ∧ t.psq k = max (-4095) (min 4095 (q + add.toInt)) ∧
      t.b (F.ACS_STAT_QOVF k) = (s.b (F.ACS_STAT_QOVF k) || decide (4095 < (q + add.toInt).natAbs)) ∧
      OnlyRegs s t [R.ACS_PSQ k, R.ACS_STAT k]) ∧
    (s.b (F.ACS_CTRL_EN k) = true → q ≠ 0 → ∃ t, exec (.phaseStepIssue a) s = .next t ∧
      t.psq k = (if 0 < q then q - 1 else q + 1) ∧
      t.reg (R.ACS_NETSTEP k) = (if 0 < q then s.reg (R.ACS_NETSTEP k) + 1 else s.reg (R.ACS_NETSTEP k) - 1) ∧
      OnlyRegs s t [R.ACS_PSQ k, R.ACS_NETSTEP k]) ∧
    (s.b (F.ACS_CTRL_EN k) = false ∨ q = 0 → exec (.phaseStepIssue a) s = .next s) ∧
    (∃ t, exec (.acsLiveRead who a) s = .next t ∧ t.resp = ⟨live, false⟩ ∧
      listed t.latch (R.ACS_LIVEF k) = some (s.reg (R.ACS_LIVEF k)) ∧ OnlyRead s t [])

/-- R37, R271 to R273: lock, coasting and relock of an audio clock synthesiser with no waiting set, no waiting start and
no domain that goes on after a nap. An enabled one locks; two bad periods, or a count of edges beyond twice the
tolerance and 50 ppm on a reference other than the system's, make it coast; good periods set REFOK, and it relocks at
once in automatic mode, else by RELOCK. -/
def Obligations.AcsLocksAndCoasts : Prop :=
  ∀ (a : Bool) (count expected : Nat) (s : State),
    let k := b2n a
    let st (t : State) (lock coast refok : Bool) := t.b (F.ACS_STAT_LOCK k) = lock ∧ t.b (F.ACS_STAT_COAST k) = coast ∧
      t.b (F.ACS_STAT_REFOK k) = refok ∧ t.reg (R.ACS_LIVE k) = s.reg (R.ACS_LIVE k) ∧ t.engs = s.engs ∧ t.doms = s.doms
    let far := (2 * s.f (F.ACS_LIMIT_REFTOL k) + 50) * expected < ((count : Int) - expected).natAbs * 1000000
    (s.acsOf k).cap = none → (∀ d, d < 4 → s.b (F.RD_STAT_ACSWAIT d) = false ∧ (s.dom d).napIdx = none) →
    (s.b (F.ACS_STAT_COAST k) = false →
      (s.b (F.ACS_CTRL_EN k) = true →
        (∃ t, exec (.acsLock a) s = .next t ∧ st t true false true) ∧
        (∃ t, exec (.acsCoast a) s = .next t ∧ st t false true false ∧ t.b (F.ACS_STAT_COASTEV k) = true ∧
          (t.acsOf k).cause = 1) ∧
        (s.b (F.ACS_CTRL_FCHK k) = true → s.acsOnSysRef k = false → far →
          ∃ t, exec (.frequencyCheck a count expected) s = .next t ∧ st t false true false ∧
            t.b (F.ACS_STAT_FREQERR k) = true ∧ (t.acsOf k).cause = 2)) ∧
      (s.b (F.ACS_CTRL_EN k) = false → exec (.acsLock a) s = .next s) ∧
      (∃ t, exec (.referenceReturn a) s = .next t ∧ st t (s.b (F.ACS_STAT_LOCK k)) false true)) ∧
    (s.b (F.ACS_STAT_COAST k) = true → s.b (F.ACS_CTRL_EN k) = true → s.b (F.ACS_CTRL_FCHK k) = true →
      s.acsOnSysRef k = false → far → ∃ t, exec (.frequencyCheck a count expected) s = .next t ∧
        st t (s.b (F.ACS_STAT_LOCK k)) true false ∧ t.b (F.ACS_STAT_FREQERR k) = true) ∧
    (¬ far → exec (.frequencyCheck a count expected) s = .next s) ∧
    (s.b (F.ACS_STAT_COAST k) = true →
      (s.b (F.ACS_CTRL_RLAUTO k) = true → ∃ t, exec (.referenceReturn a) s = .next t ∧ st t true false true ∧
        t.b (F.ACS_STAT_RELOCKED k) = true) ∧
      (s.b (F.ACS_CTRL_RLAUTO k) = false → (s.acsOf k).cause ≠ 3 → ∃ t, exec (.referenceReturn a) s = .next t ∧
        st t (s.b (F.ACS_STAT_LOCK k)) true true) ∧
      (s.on 21 = true → s.b (F.ACS_STAT_REFOK k) = true → ∃ t, exec (.acsRelock a) s = .next t ∧ st t true false true ∧
        t.b (F.ACS_STAT_RELOCKED k) = true) ∧
      (s.on 21 = true → s.b (F.ACS_STAT_REFOK k) = false → exec (.acsRelock a) s = .next s))

/-! ## Audio ports, PDM, IEC 60958 and the converters (R277 to R310) -/

/-- R281, R282, R287, R288, R309: EN of a stopped port clears SLIP and waits for the tick, or for an FSYNC; bad settings
set CFGERR, and ARM waits for the trigger. A running port goes on to the end of its frame when EN clears, and then
stops; the trigger arms a unit of its group, and sets CFGERR of one outside it; a master port of a stopped domain
sends zeros; a read of SLOTMASK[0] latches the others. -/
def Obligations.AudioPortsStartAndStop : Prop :=
  ∀ (p : Fin 8) (dom : Dom) (bnd ended : Bool) (who : Initiator) (s : State),
    let only (t : State) (as : List Nat) := { t with regs := s.regs, asps := s.asps, slotWr := s.slotWr } = s ∧
      (∀ a, a ∉ as → t.reg a = s.reg a) ∧ ∀ j, j ≠ p.val → t.asp j = s.asp j
    let ctl := [R.ASP_CTRL p, R.ASP_SLIP p]
    (s.on 22 = true →
      (s.aspRun p = false →
        (s.aspBad p = false → s.b (F.ASP_CTRL_ARM p) = false → ∃ t, exec (.aspStart p) s = .next t ∧
          t.b (F.ASP_CTRL_EN p) = true ∧ t.reg (R.ASP_SLIP p) = 0 ∧ (t.asp p).sinceStart = 0 ∧ only t ctl ∧
          (t.asp p).start = if s.aspMode p = 0 then .tick else if s.aspMode p = 1 then .thenFsync else .fsync) ∧
        (s.aspBad p = true → ∃ t, exec (.aspStart p) s = .next t ∧ t.b (F.ASP_CTRL_EN p) = true ∧
          t.b (F.ASP_STAT_CFGERR p) = true ∧ t.asps = s.asps ∧ only t (R.ASP_STAT p :: ctl)) ∧
        (s.aspBad p = false → s.b (F.ASP_CTRL_ARM p) = true → ∃ t, exec (.aspStart p) s = .next t ∧
          t.b (F.ASP_CTRL_EN p) = true ∧ t.asps = s.asps ∧ only t ctl)) ∧
      (s.aspRun p = true → ∃ t, exec (.aspStop p false) s = .next t ∧ t.b (F.ASP_CTRL_EN p) = false ∧
        t.aspRun p = true ∧ (t.asp p).stopping = true ∧ (t.asp p).start = .none ∧ only t ctl) ∧
      ((s.asp p).swap = [] → (s.asp p).endSwap = [] → ended = true ∨ s.aspRun p = false → ∃ t, exec (.aspStop p ended) s = .next t ∧
        t.b (F.ASP_CTRL_EN p) = false ∧ t.aspRun p = false ∧ t.b (F.ASP_STAT_MUTED p) = false ∧
        t.b (F.ASP_PHASE_VALID p) = false ∧
        t.asp p = { AspPort.init with
          hist := (s.asp p).hist, late := (s.asp p).late
          frame := (if (s.asp p).tail then (s.asp p).frame else []) ++ [s.restBit p 0] }) ∧
      (s.aspRun p = false → s.aspBad p = false →
        let c : Instr := .aspTrigGo dom bnd false 0 (BitVec.ofNat 8 (2 ^ p.val))
        (s.leader (s.aspDom p) = s.leader dom → s.b (F.ASP_CTRL_EN p) = true → s.b (F.ASP_CTRL_ARM p) = true →
          ∃ t, exec c s = .next t ∧ (t.asp p).start = .trig dom bnd ∧ only t [R.ASP_TRIG]) ∧
        (s.leader (s.aspDom p) ≠ s.leader dom ∨ s.b (F.ASP_CTRL_EN p) = false →
          ∃ t, exec c s = .next t ∧ t.b (F.ASP_STAT_CFGERR p) = true ∧ t.asps = s.asps ∧
            only t [R.ASP_TRIG, R.ASP_STAT p])) ∧
      (∃ t, exec (.slotmaskRead who p) s = .next t ∧ t.resp = ⟨s.reg (R.ASP_SLOTMASK p 0), false⟩ ∧ OnlyRead s t [] ∧
        ∀ k, 1 ≤ k → k ≤ 3 → listed t.latch (R.ASP_SLOTMASK p k) = some (s.reg (R.ASP_SLOTMASK p k)))) ∧
    (s.on 22 = false → exec (.aspStart p) s = .next s.busErr ∧ exec (.aspStop p ended) s = .next s.busErr) ∧
    (s.aspRun p = true → s.aspMode p = 0 → s.running (s.aspDom p) = false → (s.asp p).stopping = false →
      ∃ t, exec (.stoppedDomainFrame p) s = .next t ∧ only t [] ∧ (∀ w ∈ (t.asp p).out, w.2 = 0) ∧
        (t.asp p).out.map (·.1) = s.outChans p ∧ (t.asp p).frame.length = s.flen p) ∧
    (s.aspRun p = false → exec (.stoppedDomainFrame p) s = .next s)

/-- R279, R283, R284, R289 to R291: a synchronous slave that runs unmuted, with no settings and no ramp under way, before
the end of a measuring run. A frame has the bits up to the one in which the port next samples FSYNC active. A good
frame whose phase lies within a quarter period of the one in force keeps the alignment, takes its words as those held,
and sends the words that its tick published; a first bad frame counts a slip and sets BADFRAME, and a second in a row
mutes. A lost clock sets CLKLOST, counts, and mutes. Bits that no active FSYNC begins and ends are no frame. R307: the
states of a converter group. A stable ratio from 1/8 to 8 leads from ACQUIRE to RAMPIN, with RATIO and LOCKEV; any
other, and one out of range, to RANGE with RATIO 0; the end of a ramp leads from RAMPIN to RUN, or to HOLD when the
clock is lost, and from HOLD to WAIT. In every other state the three do nothing. -/
def Obligations.SlaveFramesAndConverterGroups : Prop :=
  (∀ (p : Fin 8) (i : SlaveIn) (s : State), s.aspRun p = true → s.aspMode p = 1 → s.b (F.ASP_STAT_MUTED p) = false →
      (s.asp p).start = .none → (s.asp p).swap = [] → (s.asp p).stopping = false → (s.asp p).tail = false →
      (s.asp p).ramp = .pass →
      (s.asp p).cnt < 15 →
      let u := s.advance i.el
      let x := s.asp p
      let sent := s.frameOf p ((x.hist[ticksBack (s.period2 p) i.phi i.age]?).getD (x.hist.getLastD []))
      let measured (t : State) := (t.asp p).out = sent ∧ (t.asp p).cnt = x.cnt + 1 ∧ (t.asp p).sum = x.sum + i.period
      (s.frameBits p i.fsync = none → exec (.slaveFrame p i) s = .next u) ∧
      (s.frameBits p i.fsync = some (s.flen p) → x.a ≠ 0 → atMost (((i.phi : Int) - x.phi).natAbs) (s.period2 p) 1 4 = true →
        ∃ t, exec (.slaveFrame p i) s = .next t ∧ measured t ∧ (t.asp p).goodRun = x.goodRun + 1 ∧ (t.asp p).badRun = 0 ∧
          (t.asp p).hold = s.frameIn p i.d0 i.d1 ∧ (t.asp p).a = x.a ∧ t.regs = u.regs) ∧
      (∀ n, s.frameBits p i.fsync = some n → n ≠ s.flen p → ∃ t, exec (.slaveFrame p i) s = .next t ∧ measured t ∧ (t.asp p).goodRun = 0 ∧
        (t.asp p).badRun = x.badRun + 1 ∧ t.b (F.ASP_STAT_BADFRAME p) = true ∧
        t.f (F.ASP_SLIP_SLIPS p) = min (s.f (F.ASP_SLIP_SLIPS p) + 1) 65535 ∧
        t.b (F.ASP_STAT_MUTED p) = decide (1 ≤ x.badRun)) ∧
      (x.lost = false → ∃ t, exec (.clockLost p) s = .next t ∧ (t.asp p).lost = true ∧ t.b (F.ASP_STAT_CLKLOST p) = true ∧
        t.f (F.ASP_SLIP_CLKLOSS p) = min (s.f (F.ASP_SLIP_CLKLOSS p) + 1) 65535 ∧ t.b (F.ASP_STAT_MUTED p) = true ∧
        (t.asp p).ramp = .fall 0) ∧
      (x.lost = true → exec (.clockLost p) s = .next s)) ∧
  (∀ (g : Fin 8) (ratio : Word) (s : State),
      let out (c : Instr) := ∃ t, exec c s = .next t ∧ t.srcState g = 6 ∧ t.reg (R.SRC_RATIO g) = 0
      (s.srcState g = 1 → 2 ^ 21 ≤ ratio.toNat → ratio.toNat ≤ 2 ^ 27 → ∃ t, exec (.srcAcquired g ratio) s = .next t ∧
        t.srcState g = 2 ∧ t.reg (R.SRC_RATIO g) = ratio ∧ t.b (F.SRC_STAT_LOCKEV g) = true) ∧
      (s.srcState g = 1 → ratio.toNat < 2 ^ 21 ∨ 2 ^ 27 < ratio.toNat → out (.srcAcquired g ratio)) ∧
      (s.srcState g = 1 → out (.ratioOutOfRange g)) ∧
      (s.srcState g ≠ 1 → exec (.srcAcquired g ratio) s = .next s ∧ exec (.ratioOutOfRange g) s = .next s) ∧
      (s.srcState g = 2 → ∃ t, exec (.srcRampDone g) s = .next t ∧ t.srcState g = (if s.srcExtLost g then 4 else 3) ∧
        OnlyRegs { s with srcs := t.srcs } t [R.SRC_STAT g] ∧ ∀ j, j ≠ g.val → t.src j = s.src j) ∧
      (s.srcState g = 4 → ∃ t, exec (.srcRampDone g) s = .next t ∧ t.srcState g = 5 ∧ t.reg (R.SRC_RATIO g) = 0) ∧
      (s.srcState g ≠ 2 → s.srcState g ≠ 4 → exec (.srcRampDone g) s = .next s))

/-- R297 to R301, R304, R310: a frame of a locked receiver at its held rate, of a PCM stream, outside a block, as its
cells decode. Its words go to the path four frames long, a subframe with a parity error with the last good sample of
its channel, counted. Cells with no valid preambles, and a rate outside the range, are no frame. Loss of lock empties
the path; a read of CSA[0] latches the block; an update of the transmitter's status captures it; a stuck PDM line is
flagged. -/
def Obligations.Iec60958AndPdm : Prop :=
  ∀ (i : IecIn) (who : Initiator) (n : Dom) (ch : Bool) (s : State),
    (iecRateOk i.rateHz = false ∨ iecFrameOf i.cells = none → exec (.iecRxFrame i) s = .next (s.advance i.el)) ∧
    (∀ x : IecFrame, iecRateOk i.rateHz = true → iecFrameOf i.cells = some x →
      s.b F.IECR_CTRL_EN = true → s.on 22 = true → s.b F.IECR_STAT_LOCK = true → s.b F.IECR_STAT_NONPCM = false →
      ((i.rateHz : Int) - s.iecRx.heldRate).natAbs * 200 ≤ s.iecRx.heldRate → iecSync x = false →
      s.iecRx.npBlock = false → s.iecRx.frame = none → x.blockStart = false → s.iecRx.pipe.length ≤ 4 →
      let a := if x.badA then s.iecRx.goodA else BitVec.ofNat 32 (x.a.toNat * 256)
      let b := if x.badB then s.iecRx.goodB else BitVec.ofNat 32 (x.b.toNat * 256)
      ∃ t, exec (.iecRxFrame i) s = .next t ∧ t.f F.IECR_RATEMEAS_HZ = i.rateHz ∧ t.iecRx.goodA = a ∧ t.iecRx.goodB = b ∧
        t.iecRx.pipe = (s.iecRx.pipe.drop (s.iecRx.pipe.length - 3)) ++ [(a, b, false)] ∧
        t.b F.IECR_STAT_PARERR = (s.b F.IECR_STAT_PARERR || x.badA || x.badB) ∧
        t.f F.IECR_SLIP_PARERRS = min (s.f F.IECR_SLIP_PARERRS + b2n x.badA + b2n x.badB) 65535) ∧
    (s.b F.IECR_STAT_LOCK = true → ∃ t, exec .iecLockLoss s = .next t ∧ t.b F.IECR_STAT_LOCK = false ∧
      t.b F.IECR_STAT_LOCKLOST = true ∧ t.iecRx.pipe = [] ∧ t.iecRx.frame = none) ∧
    (s.b F.IECR_STAT_LOCK = false → exec .iecLockLoss s = .next s) ∧
    (s.on 22 = true →
      (∃ t, exec (.iecStatusRead who) s = .next t ∧ t.resp = ⟨s.reg (R.IECR_CSA 0), false⟩ ∧ OnlyRead s t [] ∧
        (∀ w, 1 ≤ w → w < 6 → listed t.latch (R.IECR_CSA w) = some (s.reg (R.IECR_CSA w))) ∧
        ∀ w, w < 6 → listed t.latch (R.IECR_CSB w) = some (s.reg (R.IECR_CSB w)) ∧
          listed t.latch (R.IECR_UDA w) = some (s.reg (R.IECR_UDA w)) ∧
          listed t.latch (R.IECR_UDB w) = some (s.reg (R.IECR_UDB w))) ∧
      (∃ t, exec .iecCsUpdate s = .next t ∧ t.b F.IECT_STAT_CSPEND = true ∧ OnlyRegs { s with iecTx := t.iecTx } t [R.IECT_STAT] ∧
        t.iecTx.cap = some ((List.range 6).map (fun w => s.reg (R.IECT_CSA w)),
          (List.range 6).map fun w => s.reg (if s.b F.IECT_CTRL_CSSEP then R.IECT_CSB w else R.IECT_CSA w)))) ∧
    (s.on 22 = false → exec (.iecStatusRead who) s = .next s.busErr ∧ exec .iecCsUpdate s = .next s.busErr) ∧
    (s.b (F.PDM_STAT_RUN n) = true → ∃ t, exec (.pdmStuck n ch) s = .next t ∧
      t.b (if ch then F.PDM_STAT_STUCK1 n else F.PDM_STAT_STUCK0 n) = true ∧ t.slotWr = s.slotWr) ∧
    (s.b (F.PDM_STAT_RUN n) = false → exec (.pdmStuck n ch) s = .next s)

/-! ## The switch, time and the links (R311 to R345) -/

/-- R312 to R319: frames through the switch. An untagged frame to a known station of the other port, in a VLAN that both
ports belong to, joins that port's queue with its time stamp and its source is learned; a frame with a bad FCS or size
is dropped and counted. A port without shaping sends its only waiting frame. An entry of the transmit ring passes back
to its owner, and HW moves on. -/
def Obligations.SwitchMovesFrames : Prop :=
  ∀ (el : Elapsed) (port fcsOk : Bool) (f : List Byte) (o : Option Int) (k : Pkt) (s : State), s.on 24 = true → s.b F.NSW_CTRL_EN = true →
    let u := s.advance el
    let p := b2n port
    let q := 1 - p
    (s.b (F.PORT_CTRL_EN p) = true →
      (¬ (fcsOk = true ∧ 60 ≤ f.length ∧ f.length ≤ 1518) → ∃ t, exec (.frameReceive el port f fcsOk o) s = .next t ∧
        t.f (F.PORT_STAT_DROPS p) = min (s.f (F.PORT_STAT_DROPS p) + 1) 65535 ∧ OnlyRegs u t [R.PORT_STAT p]) ∧
      (∀ (e : MacEnt) (vid pcp mem unt : Nat), o = none ∨ ptpOff f = none → fcsOk = true → 60 ≤ f.length → f.length ≤ 1518 → frameTagged f = false →
        linkLocal f = false → s.f F.NSW_CTRL_PTPMODE ≠ 2 → s.b F.SE_CTRL_EN = false →
        vid = s.f (F.PORT_CTRL_PVID p) → pcp = s.f (F.PORT_CTRL_DEFPCP p) → s.isSr pcp = false →
        s.vlan vid = some (mem, unt) → mem.testBit q = true → s.macFind (frameDst f) vid = some e → e.ports = 2 ^ q →
        s.macFind (frameSrc f) vid = none → s.net.macs.length < 1024 → s.passes p q = true →
        s.bufUse + f.length + 8 ≤ 196608 →
        ∃ t, exec (.frameReceive el port f fcsOk o) s = .next t ∧
          (t.netPort q).q = (s.netPort q).q ++
            [⟨s.leave q vid pcp f, pcp, p, (u.tuTime : Int) + s.inCorr p, none, false, false⟩] ∧
          (t.netPort p).q = (s.netPort p).q ∧ t.net.macs = s.net.macs ++ [⟨frameSrc f, vid, 2 ^ p, false, 0⟩] ∧
          t.regs = u.regs)) ∧
    (s.b (F.PORT_CTRL_EN p) = false → exec (.frameReceive el port f fcsOk o) s = .next u ∧
      exec (.egressTransmit el port) s = .next u) ∧
    (s.b (F.PORT_CTRL_EN p) = true → s.b (F.PORT_CTRL_SRON p) = true → s.f (F.PORT_IDLEA_KBPS p) = 0 →
      s.f (F.PORT_IDLEB_KBPS p) = 0 → (s.netPort p).q = [k] → k.pcp < 8 → k.tag = none → k.oneStep = false →
      k.twoStep = false → ∃ t, exec (.egressTransmit el port) s = .next t ∧ (t.netPort p).q = [] ∧
        (t.netPort p).out = k.bytes ∧ t.netPort q = s.netPort q ∧ t.net.macs = s.net.macs ∧ t.regs = u.regs) ∧
    (let hw := s.f F.NSW_TXIDX_HW
     let at_ := s.f F.NSW_TXBASE_ADDR + 16 * hw
     let off := at_ - sramBase
     hw ≠ s.f F.NSW_TXIDX_SW → sramBase ≤ at_ → at_ + 16 ≤ sramBase + sramSize → s.sramBad = [] → s.sramSoft = [] →
      ∃ t, exec (.internalPortTransmit el) s = .next t ∧ t.f F.NSW_TXIDX_HW = (hw + 1) % (s.f F.NSW_TXIDX_SIZE + 1) ∧
        leNat (t.sramGet (off + 4) 4) = leNat (s.sramGet (off + 4) 4) % 2 ^ 31 ∧
        ∀ b, b < off + 4 ∨ off + 8 ≤ b → memGet t.sram b = memGet s.sram b)

/-- R6, R314, R345: the address table by its registers: a read finds a key or not, a write sets a static entry, a delete
takes a key out, a flush the learned entries; ageing takes out learned entries that are not refreshed. The MDIO
operations; a read of TSF_INFO takes a record; a read of PORT_STAT clears DROPS but for drops of its cycle; a change
of the receive clock is flagged. -/
def Obligations.AddressTableAndPhyAccess : Prop :=
  ∀ (phy : BitVec 16) (seconds hw : Nat) (port present : Bool) (who : Initiator) (s : State), s.on 24 = true →
    let key := s.mtKey
    let vid := s.mtVid
    let p := b2n port
    let mdio (c : Instr) (op : Nat) (rd : Bool) := ∃ t, exec c s = .next t ∧ t.f F.NSW_MDIO_OP = op ∧
      t.f F.NSW_MDIO_DATA = (if rd then phy.toNat else s.f F.NSW_MDIO_DATA) ∧ OnlyRegs s t [R.NSW_MDIO]
    (∀ e, s.macFind key vid = some e → ∃ t, exec .mtRead s = .next t ∧ t.b F.NSW_MTCMD_FOUND = true ∧
      t.f F.NSW_MTCMD_PORTS = e.ports % 8 ∧ OnlyRegs s t [R.NSW_MTCMD]) ∧
    (s.macFind key vid = none → ∃ t, exec .mtRead s = .next t ∧ t.b F.NSW_MTCMD_FOUND = false ∧
      OnlyRegs s t [R.NSW_MTCMD]) ∧
    (s.macFind key vid ≠ none ∨ s.net.macs.length < 1024 → ∃ t, exec .mtWriteStatic s = .next t ∧
      t.macFind key vid = some ⟨key, vid, s.f F.NSW_MTCMD_PORTS, true, 0⟩ ∧
      ∀ m v, ¬ (m = key ∧ v = vid) → t.macFind m v = s.macFind m v) ∧
    (∃ t, exec .mtDelete s = .next t ∧ t.macFind key vid = none ∧
      ∀ m v, ¬ (m = key ∧ v = vid) → t.macFind m v = s.macFind m v) ∧
    (∃ t, exec .mtFlush s = .next t ∧ t.net = { s.net with macs := s.net.macs.filter fun e => e.static_ } ∧
      ∀ a, a ≠ R.NSW_MTCMD → t.reg a = s.reg a) ∧
    (s.f F.NSW_CTRL_AGE ≠ 0 → ∃ t, exec (.macAgeing seconds) s = .next t ∧ t.regs = s.regs ∧
      t.net.macs = (s.net.macs.map fun e => { e with age := e.age + seconds }).filter fun e =>
        e.static_ || decide (e.age < s.f F.NSW_CTRL_AGE)) ∧
    (s.f F.NSW_CTRL_AGE = 0 → exec (.macAgeing seconds) s = .next s) ∧
    mdio .mdioC22Write 0 false ∧ mdio (.mdioC22Read phy) 1 true ∧ mdio .mdioC45Address 2 false ∧
    mdio .mdioC45Write 3 false ∧ mdio (.mdioC45Read phy) 4 true ∧
    (∀ info ns rest, s.net.tsf = (info, ns) :: rest → info < 2 ^ 31 → ∃ t, exec (.tsfInfoRead who) s = .next t ∧
      t.resp = ⟨BitVec.ofNat 32 (2 ^ 31 + info), false⟩ ∧ t.net = { s.net with tsf := rest } ∧
      t.f F.TSF_NS_NS = ns % 1000000000 ∧ t.f F.TSF_SECL_SEC = ns / 1000000000 % 2 ^ 32) ∧
    (s.net.tsf = [] → ∃ t, exec (.tsfInfoRead who) s = .next t ∧ t.b F.NSW_TSF_INFO_VALID = false ∧
      t.resp = ⟨t.reg R.NSW_TSF_INFO, false⟩ ∧ t.net = s.net) ∧
    (∃ t, exec (.dropsRead who port hw) s = .next t ∧ t.resp = ⟨s.reg (R.PORT_STAT p), false⟩ ∧
      t.f (F.PORT_STAT_DROPS p) = min hw 65535 ∧ OnlyRead s t [R.PORT_STAT p]) ∧
    (s.b (F.PORT_STAT_RXCLK p) ≠ present → ∃ t, exec (.receiveClockChange port present) s = .next t ∧
      t.b (F.PORT_STAT_RXCLK p) = present ∧ t.b F.NSW_STAT_RXCHG = true ∧ OnlyRegs s t [R.PORT_STAT p, R.NSW_STAT]) ∧
    (s.b (F.PORT_STAT_RXCLK p) = present → exec (.receiveClockChange port present) s = .next s)

/-- R311, R328, R342, R343: links and the time source, with no anchored domain. A link that goes down loses its queues and
its SR reservations, and the time source with it when it led there; the whole rejoining order brings a port up with
its speed, its link delay and SRON; a half-duplex link is reported up and stays disabled. A gPTP message of the chosen
source names the offset that firmware removes: by a STEP when it is above 10 µs. R322 to R325: the time unit. A SET
takes effect at the next tick, in place of a step that waits; the source switches to the slow clock, and back while
PD_NET is on; a read of TU_NS or TU_LNSL latches the other words of the same count; a write of TU_LNSL loads the
legacy counter with the pending high word and no fraction. -/
def Obligations.TimeUnitAndItsSource : Prop :=
  (∀ (el : Elapsed) (port led : Bool) (f : List Byte) (speed : BitVec 2) (ldelay : BitVec 24) (offset : Int) (s : State),
      (∀ d, d < 4 → s.anchoring d = false ∧ (s.dom d).anchor = .free) →
      let p := b2n port
      (∃ t, exec (.linkDown port led) s = .next t ∧ (t.netPort p).q = [] ∧ (t.netPort p).up = false ∧
        (t.netPort p).creditA = 0 ∧ (t.netPort p).creditB = 0 ∧ t.b (F.PORT_CTRL_SRON p) = false ∧
        t.f (F.PORT_LDELAY_NS p) = 0 ∧ t.tu = { s.tu with source := s.tu.source && !led } ∧
        t.netPort (1 - p) = s.netPort (1 - p) ∧ t.doms = s.doms) ∧
      (offset.natAbs ≤ 1000 → ∃ t, exec (.linkUp port speed false 4 ldelay offset) s = .next t ∧
        t.f (F.PORT_CTRL_SPEED p) = speed.toNat ∧ t.b (F.PORT_CTRL_EN p) = true ∧ t.b (F.PORT_CTRL_SRON p) = true ∧
        t.f (F.PORT_LDELAY_NS p) = ldelay.toNat ∧ (t.netPort p).up = true ∧
        t.tu = { s.tu with source := true, offset := offset } ∧ t.doms = s.doms) ∧
      (∀ step, ∃ t, exec (.linkUp port speed true step ldelay offset) s = .next t ∧ t.b (F.PORT_CTRL_EN p) = false ∧
        t.f (F.PORT_CTRL_SPEED p) = speed.toNat ∧ (t.netPort p).up = true ∧ t.tu = s.tu ∧ t.doms = s.doms ∧
        t.netPort (1 - p) = s.netPort (1 - p) ∧ ((s.netPort p).up = false → t.b (F.PORT_CTRL_SRON p) = false)) ∧
      (s.on 24 = true → s.b F.NSW_CTRL_EN = true → s.b (F.PORT_CTRL_EN p) = true → s.f F.NSW_CTRL_PTPMODE = 3 →
        s.b F.SE_CTRL_EN = false → s.isSr (s.f (F.PORT_CTRL_DEFPCP p)) = false → 60 ≤ f.length → f.length ≤ 1518 →
        frameTagged f = false → linkLocal f = true → frameType f = 0x88F7 → ∃ t, exec (.frameReceive el port f true (some offset)) s = .next t ∧
          t.tu.source = true ∧ t.tu.offset = offset ∧ t.tu.t = (s.advance el).tu.t ∧
          (10000 < offset.natAbs → t.tu.stepPend = true ∧ t.reg R.TU_STEPNS = BitVec.ofInt 32 (-offset)) ∧
          (offset.natAbs ≤ 10000 → t.tu.stepPend = (s.advance el).tu.stepPend ∧ t.reg R.TU_STEPNS = s.reg R.TU_STEPNS)) ∧
      exec .timeSourceLoss s = .next { s with tu := { s.tu with source := false } }) ∧
  (∀ (slow : Bool) (who : Initiator) (data : Word) (s : State),
      (s.f F.TU_SETNS_NS < 1000000000 → ∃ t, exec .tuSet s = .next t ∧
        t = { s with tu := { s.tu with setPend := true, stepOver := s.tu.stepPend } } ∧
        (t.advance { ticks := 1, slow := 0 }).tu.t = s.tuSetVal ∧
        (t.advance { ticks := 1, slow := 0 }).b F.TU_STAT_SETEV = true) ∧
      ((sext 32 (s.f F.TU_STEPNS_NS)).natAbs ≤ 1000 →
        exec .tuStep s = .next { s with tu := { s.tu with stepPend := true, stepOver := false } }) ∧
      (slow ≠ s.b F.TU_STAT_SLOW → slow = true ∨ s.on 24 = true → ∃ t, exec (.tuSourceSwitch slow) s = .next t ∧
        t.b F.TU_STAT_SLOW = slow ∧ t.b F.TU_STAT_CLKSW = true ∧ t.tu.t = s.tu.t ∧ t.tu.leg = s.tu.leg) ∧
      (slow = s.b F.TU_STAT_SLOW → exec (.tuSourceSwitch slow) s = .next s) ∧
      (let ns := s.tu.t / 2 ^ 32
       ∃ t, exec (.tuNsRead who) s = .next t ∧ t.resp = ⟨t.reg R.TU_NS, false⟩ ∧ t.f F.TU_NS_NS = ns % 1000000000 ∧
        t.f F.TU_SUBNS_SUB = s.tu.t / 2 ^ 16 % 2 ^ 16 ∧ t.f F.TU_SECL_SEC = ns / 1000000000 % 2 ^ 32 ∧ t.tu = s.tu ∧
        (∀ a ∈ [R.TU_SUBNS, R.TU_SECL, R.TU_SECH], listed t.latch a = some (t.reg a)) ∧
        OnlyRead s t [R.TU_NS, R.TU_SUBNS, R.TU_SECL, R.TU_SECH]) ∧
      (∃ t, exec (.tuLnslRead who) s = .next t ∧ t.resp = ⟨BitVec.ofNat 32 (s.tu.leg / 2 ^ 32), false⟩ ∧
        listed t.latch R.TU_LNSH = some (BitVec.ofNat 32 (s.tu.leg / 2 ^ 64)) ∧
        listed t.latch R.TU_LFRAC = some (BitVec.ofNat 32 s.tu.leg) ∧
        OnlyRead s t [R.TU_LNSL, R.TU_LNSH, R.TU_LFRAC]) ∧
      exec (.tuLnslWrite data) s =
        .next { s with tu := { s.tu with leg := (s.tu.lnsh.toNat * 2 ^ 32 + data.toNat) * 2 ^ 32 } })

/-- R329, R330, R333, R344: pulses, capture and the trigger. A generator armed for later than 256 ns from now becomes
active; its edge fires once the time has come; DISARM ends it, in an active phase at that phase's end. A captured edge
joins the FIFO, and a read of TCAP_NS takes it. An armed trigger fires once the time has come and starts the domains
it names. -/
def Obligations.PulsesCaptureAndTrigger : Prop :=
  ∀ (g rise : Bool) (el : Elapsed) (since : Nat) (who : Initiator) (d : Dom) (s : State),
    let k := b2n g
    let u := s.advance el
    let tp (t : State) := { t with regs := s.regs, tu := { t.tu with tp := s.tu.tp } } = s
    (s.b (F.TP_CTRL_ACTIVE k) = false →
      (s.tuTime + 256 < s.tpStart k → ∃ t, exec (.tpulseArm g) s = .next t ∧ t.b (F.TP_CTRL_ACTIVE k) = true ∧
        t.b (F.TP_CTRL_LATE k) = s.b (F.TP_CTRL_LATE k) ∧ t.pulse k = ⟨0, false, false, false⟩ ∧ tp t) ∧
      (s.tpStart k ≤ s.tuTime + 256 → s.tpPeriod k = 0 → ∃ t, exec (.tpulseArm g) s = .next t ∧
        t.b (F.TP_CTRL_ACTIVE k) = false ∧ t.b (F.TP_CTRL_LATE k) = true ∧ t.b (F.TP_CTRL_DONE k) = true ∧ tp t) ∧
      exec (.tpulseDisarm g) s = .next s) ∧
    (s.b (F.TP_CTRL_ACTIVE k) = true → exec (.tpulseArm g) s = .next s ∧
      ((s.pulse k).phase = true → ∃ t, exec (.tpulseDisarm g) s = .next t ∧ (t.pulse k).disarm = true ∧
        t.regs = s.regs ∧ tp t) ∧
      ((s.pulse k).phase = false → ∃ t, exec (.tpulseDisarm g) s = .next t ∧ t.b (F.TP_CTRL_ACTIVE k) = false ∧ tp t)) ∧
    (u.b (F.TP_CTRL_ACTIVE k) = true → u.b F.TU_STAT_SLOW = false → (u.pulse k).phase = false →
      u.tpStart k + (u.pulse k).j * u.tpPeriod k ≤ u.tuTime → ∃ t, exec (.tpulseEdge g el) s = .next t ∧
        (t.pulse k).phase = true ∧ (t.pulse k).active = decide (u.tpWidth k ≠ 0) ∧ t.regs = u.regs) ∧
    ((s.f F.TCAP_CTRL_EDGE).testBit (if rise then 0 else 1) = true → 100 ≤ since → s.tu.cap.length < 16 →
      ∃ t, exec (.tcapEdge el rise since) s = .next t ∧ t.tu.cap = s.tu.cap ++ [(u.tuTime, rise)] ∧
        t.f F.TCAP_CTRL_COUNT = s.tu.cap.length + 1 ∧ ∀ a, a ≠ R.TCAP_CTRL → t.reg a = u.reg a) ∧
    (∀ ns r rest, s.tu.cap = (ns, r) :: rest → rest.length < 16 → ∃ t, exec (.tcapRead who) s = .next t ∧
      t.resp = ⟨t.reg R.TCAP_NS, false⟩ ∧ t.b F.TCAP_NS_VALID = true ∧ t.f F.TCAP_NS_NS = ns % 1000000000 ∧
      t.f F.TCAP_SECL_SEC = ns / 1000000000 % 2 ^ 32 ∧ t.b F.TCAP_SECH_RISE = r ∧ t.tu.cap = rest ∧
      t.f F.TCAP_CTRL_COUNT = rest.length) ∧
    (s.tuTime + 256 < s.trigTime → exec .trigArm s = .next { s with tu := { s.tu with trigArmed := true } }) ∧
    (s.trigTime ≤ s.tuTime + 256 → ∃ t, exec .trigArm s = .next t ∧ t.b F.TRIG_CTRL_LATE = true ∧
      OnlyRegs { s with tu := { s.tu with trigArmed := false } } t [R.TRIG_CTRL]) ∧
    exec .trigDisarm s = .next { s with tu := { s.tu with trigArmed := false } } ∧
    (u.tu.trigArmed = true → u.trigTime ≤ u.tuTime → s.f F.TRIG_CTRL_DOMAINS = 2 ^ d.val →
      (∀ j, j < 4 → s.anchoring j = false ∧ (s.dom j).anchor = .free) →
      s.b (F.RD_CTRL_EN d) = true → s.linked d = false → s.running d = false → s.group d = [d.val] → s.chained d = [] →
      s.groupOk d = true → s.b (F.ACS_CTRL_EN (s.f (F.RD_CTRL_SRC d))) = true →
      s.b (F.ACS_STAT_LOCK (s.f (F.RD_CTRL_SRC d))) = true →
      ∃ t, exec (.trigFire el) s = .next t ∧ t.running d = true ∧ (t.dom d).first = true ∧ t.tu.trigArmed = false ∧
        t.b F.TRIG_CTRL_DONE = true) ∧
    (u.tu.trigArmed = false → exec (.trigFire el) s = .next u)

/-! ## Mailboxes and the host SPI target (R348 to R372) -/

/-- R353, R357, R359 to R363, R372: doorbells set their pending bit, and that of mailbox 7 starts a parked CC1; an idle
timeout closes a session. A frame of the host, firmware running: the status word and then the reply words owed go out
and the command is recorded; READ owes its words, MSG brings its words to the receive FIFO. The read that takes the
last word of a message puts it on its ring; writes fill the transmit FIFO and offer a reply, whose place on the ring a
reply takes that waited for room (R393). -/
def Obligations.MailboxesAndTheHostSpiTarget : Prop :=
  ∀ (who : Initiator) (met : Bool) (m : Fin 64) (f : HspFrame) (op : BitVec 4) (c : Dom) (data : Word) (s : State),
    (s.on 21 = true →
      (∃ t, exec (.doorbellWrite who false m met) s = .next t ∧
        t.fbit (F.MBX_REQPEND_PEND (m.val / 32)) (m.val % 32) = true ∧ OnlyRegs s t [R.MBX_REQPEND (m.val / 32)]) ∧
      (m ≠ 7 → ∃ t, exec (.doorbellWrite who true m met) s = .next t ∧
        t.fbit (F.MBX_RSPPEND_PEND (m.val / 32)) (m.val % 32) = true ∧ OnlyRegs s t [R.MBX_RSPPEND (m.val / 32)]) ∧
      (s.on 20 = true → (s.ccs[1]).parked = true → ∃ t, exec (.doorbellWrite who true 7 met) s = .next t ∧
        (t.ccs[1]).parked = false ∧ (t.ccs[1]).pc = (s.reg (R.AON_RET 2)).toNat ∧ t.regs = s.regs)) ∧
    (s.on 21 = false → exec (.doorbellWrite who false m met) s = .next s.busErr ∧
      exec (.hspRxdataRead who) s = .next s.busErr ∧ exec (.hspTxdataWrite data) s = .next s.busErr) ∧
    (s.idleTimeout m ≠ 0 → s.powerState ≤ 2 → (s.mb m).opened = true → ∃ t, exec (.sessionIdleTimeout m) s = .next t ∧
      (t.mb m).opened = false ∧ (t.mb m).parison = [] ∧ (∀ j, j ≠ m.val → t.mb j = s.mb j) ∧ t.regs = s.regs) ∧
    (s.idleTimeout m = 0 → exec (.sessionIdleTimeout m) s = .next s) ∧
    (s.on 21 = true → s.b F.HSP_CTRL_EN = true → s.romMode = false → f.cutCmd = false → f.outCut = 0 → f.dl ≠ 3 →
      let (oc, k) := s.hsp.owed.getD (0, 0)
      let fifo := s.hsp.tx ++ f.refill
      oc < 4 → k < f.outWords → k ≤ fifo.length → k ≤ s.f (F.HSP_RSPLEN_WORDS oc) →
      let common (t : State) (op : Nat) := t.hsp.tx = (fifo.drop k).take 64 ∧
        t.hsp.out = s.hspStatus false :: fifo.take k ++ List.replicate (f.outWords - 1 - k) 0xFFFFFFFF ∧
        t.f (F.HSP_RSPLEN_WORDS oc) = s.f (F.HSP_RSPLEN_WORDS oc) - k ∧ t.reg R.HSP_CMD = hspCmd op f ∧
        t.b F.HSP_STAT_CMDEV = true
      (∃ t, exec (.hspStatus 3 f) s = .next t ∧ common t 3 ∧ t.hsp.owed = none ∧ t.hsp.rx = s.hsp.rx) ∧
      (op = 0 ∨ 3 < op.toNat → ∃ t, exec (.hspStatus op f) s = .next t ∧ common t op.toNat ∧ t.hsp.owed = none ∧
        t.b F.HSP_STAT_CMDERR = true) ∧
      (∃ t, exec (.hspRead f) s = .next t ∧ common t 2 ∧ t.hsp.owed = some (f.ch.toNat, f.len.toNat) ∧
        t.hsp.rx = s.hsp.rx) ∧
      (let ws := hspWords (hspLanes f.dl.toNat) f.len.toNat f.inp
       32 * f.len.toNat ≤ hspLanes f.dl.toNat * f.inp.length → f.taken = 0 → (s.mb f.ch.toNat).req.length < (s.mb f.ch.toNat).reqN →
        s.hsp.rx.length + ws.length ≤ 64 → ∃ t, exec (.hspMsg f) s = .next t ∧ common t 1 ∧ t.hsp.owed = none ∧
          t.hsp.rx = s.hsp.rx ++ ws.zipIdx.map fun w =>
            ⟨w.1.1, false, decide (w.2 + 1 = ws.length), 32, f.ch.toNat, false⟩)) ∧
    (∀ w rest, s.on 21 = true → s.hsp.rx = w :: rest → ∃ t, exec (.hspRxdataRead who) s = .next t ∧
      t.resp = ⟨w.word, false⟩ ∧ t.hsp.rx = rest ∧
      (w.last = false → t.hsp.msg = s.hsp.msg ++ [w] ∧ t.mbx = s.mbx) ∧
      (w.last = true → w.ch < 64 → (s.mb w.ch).req.length < (s.mb w.ch).reqN → t.hsp.msg = [] ∧
        (t.mb w.ch).req = (s.mb w.ch).req ++ [⟨hspBytes (s.hsp.msg ++ [w]), w.nbits % 32, b2n w.cut⟩])) ∧
    (s.on 21 = true → s.hsp.tx.length < 64 → ∃ t, exec (.hspTxdataWrite data) s = .next t ∧
      t.hsp = { s.hsp with tx := s.hsp.tx ++ [data] } ∧ t.f F.HSP_LEVEL_TX = s.hsp.tx.length + 1) ∧
    (s.on 21 = true → 64 ≤ s.hsp.tx.length → exec (.hspTxdataWrite data) s = .next s) ∧
    (s.on 21 = true → data.toNat < 2 ^ 16 → ∃ t, exec (.hspRsplenWrite c data) s = .next t ∧
      t.f (F.HSP_RSPLEN_WORDS c) = data.toNat ∧
      ((s.mb c).held = [] → ∀ a, a ≠ R.HSP_RSPLEN c → t.reg a = s.reg a) ∧
      (t.mb c).rsp = if data = 0 ∨ (s.mb c).rsp = [] then (s.mb c).rsp
        else (s.mb c).rsp.drop 1 ++ (s.mb c).held.take ((s.mb c).rspN - ((s.mb c).rsp.length - 1)))

/-! ## The Baost Command Protocol (R154 to R186, R348 to R397) -/

/-- R375, R350: a request of a mailbox with an own ring. One whose version, length or size is wrong gets BAD_REQUEST, one
that is not of the open session NO_SESSION, one that repeats the latest sequence number the reply it had, and one out
of sequence BAD_REQUEST; none of them changes the session or the machine. R211: while CC0 is off, in S3 and below,
every request waits in its ring; R351, R393: so it does while a reply of its session waits for room on the response
ring, and a reply that meets a full ring waits so. R161, R169, R176, R182, R381: an untimed COMMIT. A parison that
passes validation, in a session that expects the epoch, becomes the next epoch at the end of the queue, the parison
empties, and the reply gives its number; a failed check, a full queue and an epoch that is not the expected one refuse
it, and change nothing. -/
def Obligations.RequestsAndCommitsAreChecked : Prop :=
  (∀ (c : Instr) (op : Nat) (rq : Req) (s : State), BcpRequest c op rq →
      let b := s.mb rq.mbx
      (3 ≤ s.powerState ∨ b.held ≠ [] → exec c s = .next s ∧ exec (.bcpOpen rq) s = .next s) ∧
      (s.powerState < 3 → rq.mbx.val < 8 → b.req = [] → b.held = [] →
      let answers (bytes : List Byte) := ∃ t, exec c s = .next t ∧
        (b.rsp.length < b.rspN → (t.mb rq.mbx).rsp = b.rsp ++ [⟨bytes, 0, 0⟩] ∧ (t.mb rq.mbx).held = []) ∧
        (b.rspN ≤ b.rsp.length → (t.mb rq.mbx).rsp = b.rsp ∧ (t.mb rq.mbx).held = [⟨bytes, 0, 0⟩]) ∧
        (t.mb rq.mbx).lastSeq = b.lastSeq ∧ (t.mb rq.mbx).parison = b.parison ∧ OnlyMailbox s t rq.mbx
      (reqForm rq = false → answers (s.replyTo op rq stBadRequest [])) ∧
      (reqForm rq = true → s.sessionOk rq = false → answers (s.replyTo op rq stNoSession [])) ∧
      (reqForm rq = true → s.sessionOk rq = true → rq.seq = (s.mb rq.mbx).lastSeq → answers (s.mb rq.mbx).lastReply) ∧
      (reqForm rq = true → s.sessionOk rq = true → rq.seq ≠ (s.mb rq.mbx).lastSeq →
        rq.seq ≠ (s.mb rq.mbx).lastSeq + 1 → answers (s.replyTo op rq stBadRequest [])))) ∧
  (∀ (rq : Req) (s : State), Asked s rq [] →
      let m := rq.mbx.val
      let staged := (s.mb m).parison
      let no (status : Nat) (items : List Byte) := ∃ t, exec (.bcpCommit rq) s = .next t ∧
        Replied s t 0x14 rq status items ∧ (t.mb m).parison = staged ∧ OnlyMailbox s t m
      let mismatch := no stEpochMismatch (num32 tEpoch s.stg.lastHost)
      (staged = [] → (s.expects rq.epoch.toNat = true → no 0 []) ∧ (s.expects rq.epoch.toNat = false → mismatch)) ∧
      (staged ≠ [] →
        (∀ x, s.validate staged = .error x → no x.status (((x.item.map (num32 tItem)).getD []) ++
          if x.status = stBudget then (x.le.map (num32 tLe)).getD [] else [])) ∧
        ∀ items lines freed clocks, s.validate staged = .ok (items, lines, freed, clocks) →
          (8 ≤ s.stg.queue.length → no stBusy []) ∧
          (s.stg.queue.length < 8 → portMoves s.queuedCfg (s.queuedCfg.lay items (s.b F.TSU_STAT_HARD)) = false →
            (s.expects rq.epoch.toNat = false → mismatch) ∧
            (s.expects rq.epoch.toNat = true →
              let n := epochNext (s.f F.AON_EPASSIGN_E)
              ∃ t, exec (.bcpCommit rq) s = .next t ∧ Replied s t 0x14 rq 0 (num32 tEpoch n) ∧ (t.mb m).parison = [] ∧
                t.f F.AON_EPASSIGN_E = n ∧ t.stg.lastHost = n ∧ t.engs = s.engs ∧ t.params = s.params ∧
                t.stg.queue = s.stg.queue ++ [{ num := n, session := s.session m, transport := mbxTransport m
                                                target := .untimed, keepOut := false, late := false, lost := false
                                                integrity := false, items := items, clocks := clocks, lines := lines
                                                freed := freed }]))))

/-- R376: a payload of items, each with its type, its length, its value and padding to a multiple of 4, reads as those
items in their order, for every number of items and every value. -/
def Obligations.PayloadsReadAsTheirItems : Prop :=
  ∀ (l : List (Nat × List Byte)) (fuel i : Nat), (∀ x ∈ l, x.1 < 2 ^ 16 ∧ x.2.length < 2 ^ 16) → l.length < fuel →
    parseItems fuel i (l.flatMap fun x => item x.1 x.2) =
      ((l.zipIdx i).map fun x => ⟨x.2, x.1.1, x.1.2⟩, none)

/-- R183 to R185, R249, R349, R380, R387, R392, R393, R395: sessions, and the requests that report. OPEN on a closed
mailbox opens its next generation with an empty parison; CLOSE closes it. PING gives the time; EVSTAT the drops, which
it clears; SUBSCRIBE sets the mask; POWERSTAT, LEHRSTAT, ENGMAP, FWSTAT and LOGREAD give their records. -/
def Obligations.SessionsAndReports : Prop :=
  ∀ (rq : Req) (s : State),
    let m := rq.mbx.val
    (m < 8 → s.powerState < 3 → (s.mb m).req = [] → (s.mb m).held = [] → (s.mb m).rsp.length < (s.mb m).rspN →
      (s.mb m).opened = false → reqForm rq = true → rq.flags = 0 → rq.payload = [] →
      ∃ t, exec (.bcpOpen rq) s = .next t ∧ (t.mb m).opened = true ∧ (t.mb m).gen = genNext (s.mb m).gen ∧
        (t.mb m).lastSeq = rq.seq ∧ (t.mb m).evMask = 0 ∧ (t.mb m).evCount = 0 ∧ (t.mb m).evDrops = 0 ∧
        (t.mb m).parison = [] ∧ OnlyMailbox s t m ∧ (t.mb m).rsp = (s.mb m).rsp ++
          [⟨s.bcpReply 0 (genNext (s.mb m).gen * 64 + m) rq.seq.toNat 0 (num32 tCount 4096), 0, 0⟩]) ∧
    (Asked s rq [] →
      (s.fw.owner ≠ some (s.session m) → ∃ t, exec (.bcpClose rq) s = .next t ∧ Replied s t 0x01 rq 0 [] ∧
        (t.mb m).opened = false ∧ (t.mb m).parison = [] ∧ (t.mb m).evMask = 0 ∧ OnlyMailbox s t m) ∧
      (∃ t, exec (.bcpPing rq) s = .next t ∧ OnlyReplied s t 0x02 rq (item tTime (timeBytes s.tuTime))) ∧
      (∃ t, exec (.bcpEvstat rq) s = .next t ∧ OnlyReplied s t 0x32 rq (num32 tCount (s.mb m).evDrops) ∧
        (t.mb m).evDrops = 0) ∧
      (∃ t, exec (.bcpPowerstat rq) s = .next t ∧ OnlyReplied s t 0x40 rq (item tRec s.powerRec)) ∧
      (∃ t, exec (.bcpLehrstat rq) s = .next t ∧
        OnlyReplied s t 0x41 rq (item tRec ((List.range 16).flatMap s.lehrRec))) ∧
      (∃ t, exec (.bcpEngmap rq) s = .next t ∧
        OnlyReplied s t 0x50 rq (item tRec ((List.range 17).flatMap s.engRec))) ∧
      (∃ t, exec (.bcpFwstat rq) s = .next t ∧ OnlyReplied s t 0x73 rq (item tRec
        ([BitVec.ofNat 8 s.fw.st, BitVec.ofNat 8 (b2n s.fw.slot), 0, 0] ++ leBytes 4 s.fw.got ++ leBytes 4 s.fw.len ++
          leBytes 4 s.fw.status)))) ∧
    (∀ x, Asked s rq [x] → x.Plain tEvmask → ∃ t, exec (.bcpSubscribe rq) s = .next t ∧
      OnlyReplied s t 0x31 rq (num32 tEvmask (x.num % 256)) ∧ (t.mb m).evMask.toNat = x.num % 256) ∧
    (∀ x y, Asked s rq [x, y] → x.Plain tEpoch → y.Plain tCount → ∃ t, exec (.bcpLogread rq) s = .next t ∧
      OnlyReplied s t 0x60 rq (item tRec (((logFrom s.log x.num).take (min y.num ((payloadLimit m - 8) / 24))).flatMap
        LogEntry.bytes)))

/-- R183, R184, R380, R382, R386, R387: the requests that read parameters. GET gives the applied value of every pid asked
for, DESCRIBE their records, LIST the pids and costs of the parison from an index on, IMGREAD bytes of the golden
copy, TBLGET bytes of a table, METERS a snapshot and its words; none changes the session or the machine. -/
def Obligations.ParametersAreRead : Prop :=
  ∀ (rq : Req) (v : It → List Byte) (xs : List It) (s : State),
    let m := rq.mbx.val
    let img (x : It) := (s.le (pidInst x.num)).image
    (Asked s rq xs → (∀ x ∈ xs, x.Plain tPid) → 1 ≤ xs.length →
      (xs.length ≤ 256 → 4 + (xs.map fun x => (v x).length).sum ≤ payloadLimit m →
        (∀ x ∈ xs, ∃ q, infoOf (img x) x.num = some q ∧ q.type ≠ 9 ∧ q.type ≠ 10 ∧
          v x = item tPv (leBytes 4 x.num ++ s.readPid (img x) x.num q x.idx)) →
        ∃ t, exec (.bcpGet rq) s = .next t ∧ OnlyReplied s t 0x10 rq (xs.flatMap v)) ∧
      (xs.length ≤ 64 → 8 + (xs.map fun x => (v x).length).sum ≤ payloadLimit m →
        (∀ x ∈ xs, s.describe m x = .ok (v x)) →
        ∃ t, exec (.bcpDescribe rq) s = .next t ∧ OnlyReplied s t 0x16 rq (item tRec (xs.flatMap v)))) ∧
    (∀ x, Asked s rq [x] → x.Plain tCount → x.num ≤ (s.mb m).parison.length → ∃ t, exec (.bcpList rq) s = .next t ∧
      OnlyReplied s t 0x15 rq (item tRec ((((s.mb m).parison.drop x.num).take ((payloadLimit m - 8) / 8)).flatMap fun y =>
        leBytes 4 y.pid ++ leBytes 4 y.cost))) ∧
    (∀ x c n, Asked s rq [x, c, n] → c.Plain tChunk → c.num % 4 = 0 → n.Plain tCount → n.num % 4 = 0 →
      12 + n.num ≤ payloadLimit m →
      let got (bs : List Byte) := item tChunk (leBytes 4 c.num ++ (bs.drop c.num).take n.num)
      (x.Plain tLe → x.num < 16 → (s.le x.num).image ≠ [] → c.num + n.num ≤ (s.le x.num).image.length →
        ∃ t, exec (.bcpImgread rq) s = .next t ∧ OnlyReplied s t 0x23 rq (got (s.le x.num).image)) ∧
      (∀ q, x.Plain tPid → infoOf (img x) x.num = some q → q.type = 9 → c.num + n.num ≤ (s.cfg.val x.num).length →
        ∃ t, exec (.bcpTblget rq) s = .next t ∧ OnlyReplied s t 0x24 rq (got (s.cfg.val x.num)))) ∧
    (∀ x, Asked s rq (x :: xs) → x.Plain tLe → x.num < 16 → (s.le x.num).image ≠ [] → (∀ y ∈ xs, y.Plain tPid) →
      1 ≤ xs.length → xs.length ≤ 64 → (∀ y ∈ xs, s.meterPv x.num y = .ok (v y)) →
      ∃ t, exec (.bcpMeters rq) s = .next t ∧ OnlyReplied s t 0x30 rq (s.snapItem x.num ++ xs.flatMap v))

/-- R154 to R157, R380, R384, R386: the requests that change the parison, and nothing else. STAGE adds its items, all or
none; UNSTAGE takes pids out, DISCARD everything; IMGBEGIN stages an empty image, or its removal, IMGDATA writes bytes
of it, IMGEND completes it, or names the first byte that is missing; TBLSTAGE writes bytes of a staged table. -/
def Obligations.ParisonsAreBuilt : Prop :=
  ∀ (rq : Req) (s : State),
    let m := rq.mbx.val
    let old := (s.mb m).parison
    let becomes (c : Instr) (op : Nat) (l : List Staged) := ∃ t, exec c s = .next t ∧ Replied s t op rq 0 [] ∧
      (t.mb m).parison = l ∧ OnlyMailbox s t m
    let imageAt (l : Nat) := (s.stagedAt m (pid 0x10 l 0x10))
    let swap (y : Staged) := old.map fun z => if z.pid = y.pid then y else z
    (∀ xs l, Asked s rq xs → 1 ≤ xs.length → xs.length ≤ 256 → (∀ x ∈ xs, x.type = tPv ∧ 4 ≤ x.val.length) →
      (∀ y : It → Staged, (∀ x ∈ xs, s.stageOne m x = .ok (y x)) → s.putAll m old (xs.map fun x => (x, y x)) = .ok l →
        becomes (.bcpStage rq) 0x11 l) ∧
      (∀ y : It → Staged, ∀ z, (∀ x ∈ xs, s.stageOne m x = .ok (y x)) →
        s.putAll m old (xs.map fun x => (x, y x)) = .error z → ∃ t, exec (.bcpStage rq) s = .next t ∧
          Replied s t 0x11 rq stNoSpace (num32 tItem z.idx) ∧ (t.mb m).parison = old ∧ OnlyMailbox s t m)) ∧
    (∀ xs, Asked s rq xs → 1 ≤ xs.length → xs.length ≤ 256 → (∀ x ∈ xs, x.Plain tPid) →
      (∀ x ∈ xs, s.stagedAt m x.num ≠ none ∨ s.stagedInfo m x.num ≠ none) →
      becomes (.bcpUnstage rq) 0x12 (old.filter fun y => decide (y.pid ∉ xs.map It.num))) ∧
    (Asked s rq [] → becomes (.bcpDiscard rq) 0x13 []) ∧
    (∀ x n, Asked s rq [x, n] → x.Plain tLe → x.num < 16 → n.Plain tCount →
      let y : Staged := if n.num = 0 then .image x.num [] true else .image x.num (List.replicate n.num none) false
      n.num = 0 ∨ 256 ≤ n.num ∧ n.num ≤ 262144 ∧ n.num % 4 = 0 → s.parisonOk m (putStaged old y) = true →
        becomes (.bcpImgbegin rq) 0x20 (putStaged old y)) ∧
    (∀ x c k cells ended, Asked s rq [x, c] → x.Plain tLe → x.num < 16 → c.type = tChunk → 4 ≤ c.val.length →
      c.val.length % 4 = 0 → c.num % 4 = 0 → imageAt x.num = some (.image k cells ended) →
      c.num + c.data.length ≤ cells.length →
        becomes (.bcpImgdata rq) 0x21 (swap (.image x.num (overlay cells c.num (c.data.map some)) ended))) ∧
    (∀ x k cells ended, Asked s rq [x] → x.Plain tLe → x.num < 16 → imageAt x.num = some (.image k cells ended) →
      ((∀ b ∈ cells, b ≠ none) → becomes (.bcpImgend rq) 0x22 (swap (.image x.num cells true))) ∧
      (∀ i, cells.findIdx? Option.isNone = some i → ∃ t, exec (.bcpImgend rq) s = .next t ∧
        Replied s t 0x22 rq stBadRequest (num32 tCount i) ∧ (t.mb m).parison = old ∧ OnlyMailbox s t m)) ∧
    (∀ x c p v q, Asked s rq [x, c] → x.Plain tPid → c.type = tChunk → 4 ≤ c.val.length → c.val.length % 4 = 0 →
      c.num % 4 = 0 → s.stagedInfo m x.num = some q → q.type = 9 → s.stagedAt m x.num = some (.param p v) →
      v.length = q.size → c.num + c.data.length ≤ q.size →
        becomes (.bcpTblstage rq) 0x25 (swap (.param x.num (overlay v c.num c.data))))

/-- R223, R233, R387, R389, R448: requests for the health of the engines and the journal. RELEASE powers an engine of the
cullet and starts its BIST; RETIRE marks a host, and its logical engine, to leave service; JSYNC has the waiting
records written; JCLEAR voids the settings records. An engine that is not in the cullet refuses RELEASE. -/
def Obligations.HealthAndJournalRequests : Prop :=
  ∀ (rq : Req) (x : It) (s : State),
    (Asked s rq [x] → x.Plain tEng → x.num < 17 →
      ((∀ k, k < 17 → (s.eng k).released = false) →
        ((s.eng x.num).role = .cullet → ∃ t, exec (.bcpRelease rq) s = .next t ∧ Replied s t 0x51 rq 0 [] ∧
          (t.eng x.num).released = true ∧ (t.eng x.num).role = .cullet ∧ t.mode x.num = 5 ∧ t.on x.num = true ∧
          t.b (F.ENG_STAT_BUSY x.num) = true ∧ ∀ j, j ≠ x.num → t.eng j = s.eng j) ∧
        ((s.eng x.num).role ≠ .cullet → ∃ t, exec (.bcpRelease rq) s = .next t ∧ Replied s t 0x51 rq stNotInState [] ∧
          t.engs = s.engs)) ∧
      (∀ l, l < 16 → (∀ k, k < 17 → (s.eng k).retiring ≠ 5) → (s.eng x.num).role = .live → s.leOf x.num = some l →
        s.imagedLes.length < s.soundEngines → s.shadowing = false → s.puntyOf = none →
        ∃ t, exec (.bcpRetire rq) s = .next t ∧ Replied s t 0x52 rq 0 [] ∧
          (t.eng x.num).retiring = (if (s.eng x.num).retiring = 0 then 5 else (s.eng x.num).retiring) ∧
          (t.le l).retire = true ∧ (∀ j, j ≠ x.num → t.eng j = s.eng j) ∧ ∀ j, j ≠ l → t.le j = s.le j)) ∧
    (Asked s rq [] →
      (s.journal.sync = false → s.flash.supported = true → ∃ t, exec (.bcpJsync rq) s = .next t ∧ Replied s t 0x61 rq 0 [] ∧
        t.journal.sync = true ∧ t.journal.wait = []) ∧
      (s.journal.sync = true → ∃ t, exec (.bcpJsync rq) s = .next t ∧ Replied s t 0x61 rq stBusy [] ∧
        t.journal = s.journal) ∧
      (s.journal.clearing = false → ∃ t, exec (.bcpJclear rq) s = .next t ∧ Replied s t 0x62 rq 0 [] ∧
        t.journal.clearing = true ∧ (∀ f ∈ t.journal.frames, ∀ r ∈ f.recs, recSettings r.2 = false) ∧
        ∀ r ∈ t.journal.wait, recSettings r = false))

/-- R389, R395 to R397: a firmware update. FWBEGIN erases the slot not booted (while an erase or, by the model's choice of
log 36, a check runs it answers BUSY), the end of the erase makes it ready, FWDATA programs the next chunk, FWEND
starts the check, whose end verifies the update or fails it; RESET starts the delay, whose expiry closes every session
and asks for a device reset with cause 7. R438: on NAND, a slot that lacks good blocks fails every write with STORAGE.
The bytes of the flash are stated for NOR. -/
def Obligations.FirmwareUpdates : Prop :=
  ∀ (rq : Req) (ok : Bool) (s : State),
    let me := some (s.session rq.mbx)
    (∀ x, Asked s rq [x] → x.Plain tCount →
      (s.fw.owner = none ∨ s.fw.owner = me → s.fw.run ≠ 0 → ∃ t, exec (.bcpFwbegin rq) s = .next t ∧
        Replied s t 0x70 rq stBusy [] ∧ t.fw = s.fw ∧ t.flash = s.flash) ∧
      (s.fw.owner = none ∨ s.fw.owner = me → s.fw.run = 0 → 4096 ≤ x.num → x.num ≤ 8388608 → x.num % 4 = 0 →
        ∃ t, exec (.bcpFwbegin rq) s = .next t ∧ Replied s t 0x70 rq 0 [] ∧ t.fw.st = 1 ∧ t.fw.run = 1 ∧ t.fw.got = 0 ∧
          t.fw.len = x.num ∧ t.fw.owner = me ∧ t.fw.slot = !s.bootedB ∧
          (s.nand = false → ∀ i, i < slotBytes → t.cell (s.regionBase (slotRegion (!s.bootedB)) + i) = 0xFF)) ∧
      (x.num ≤ 10000 → ∃ t, exec (.bcpReset rq) s = .next t ∧ Replied s t 0x74 rq 0 [] ∧
        t.fw = { s.fw with reset := true })) ∧
    (s.fw.run = 1 → s.fw.owner ≠ none → ∃ t, exec (.fwEraseDone ok) s = .next t ∧ t.fw.run = 0 ∧
      t.fw.st = (if ok then 2 else 5) ∧ t.fw.status = (if ok then 0 else stStorage) ∧ t.flash = s.flash) ∧
    (s.fw.run ≠ 1 → exec (.fwEraseDone ok) s = .next s) ∧
    (∀ c, Asked s rq [c] → c.type = tChunk → 4 ≤ c.val.length → c.val.length % 4 = 0 → c.num % 4 = 0 →
      s.fw.owner = me → s.fw.st = 2 → c.num = s.fw.got → c.num + c.data.length ≤ s.fw.len →
      pkgOff + c.num + c.data.length ≤ slotBytes →
        let base := s.regionBase (slotRegion s.fw.slot) + pkgOff + c.num
        (s.regionShort s.fwRegion = false → ∃ t, exec (.bcpFwdata rq true) s = .next t ∧ Replied s t 0x71 rq 0 [] ∧
          t.fw = { s.fw with got := s.fw.got + c.data.length } ∧
          (s.nand = false → (∀ i, i < c.data.length → t.cell (base + i) = s.cell (base + i) &&& c.data.getD i 0) ∧
            ∀ a, a < base ∨ base + c.data.length ≤ a → t.cell a = s.cell a)) ∧
        (ok = false ∨ s.regionShort s.fwRegion = true → ∃ t, exec (.bcpFwdata rq ok) s = .next t ∧
          Replied s t 0x71 rq stStorage [] ∧ t.flash = s.flash ∧ t.fw = s.fw)) ∧
    (Asked s rq [] → s.fw.run ≠ 2 → s.fw.owner = me → s.fw.st = 2 → s.fw.got = s.fw.len →
      ∃ t, exec (.bcpFwend rq) s = .next t ∧ Replied s t 0x72 rq 0 [] ∧ t.fw = { s.fw with st := 3, run := 2 }) ∧
    (s.fw.run = 2 →
      (ok = false ∨ s.regionShort s.fwRegion = true → ∃ t, exec (.fwVerifyDone ok) s = .next t ∧
        t.fw.st = 5 ∧ t.fw.status = stStorage ∧ t.fw.run = 0 ∧
        t.fw.owner = none ∧ t.flash = s.flash) ∧
      (s.regionShort s.fwRegion = false → s.pkgCheck.2.2.2.2 = 0 → s.fw.owner ≠ none →
        ∃ t, exec (.fwVerifyDone true) s = .next t ∧ t.fw.st = 4 ∧ t.fw.status = 0 ∧ t.fw.run = 0 ∧ t.fw.owner = none)) ∧
    (s.fw.run ≠ 2 → exec (.fwVerifyDone ok) s = .next s) ∧
    (s.fw.reset = true → ∃ t, exec .resetDelayExpiry s = .next t ∧ t.fw.reset = false ∧ t.pmu.resetReq = true ∧
      t.f F.PMU_RSTCAUSE_CAUSE = 7 ∧ ∀ m, m < 64 → (t.mb m).opened = false) ∧
    (s.fw.reset = false → exec .resetDelayExpiry s = .next s)

/-! ## UARTs, the SPI and I2C controllers and GPIO (R398 to R427) -/

/-- R400 to R405, R410: a character on the line. A start edge on a receiver that is off, or that waits after a BREAK for a
quiet line, is ignored, and a false start queues nothing; BREAK, a framing error and a good character each queue their
entry, and a full queue loses it with OVR. A character leaves from the head of the queue, after an owed XOFF or XON;
where the receiver compares the line and a bit differs, COLL sets, the line is released and the character stays. R402,
R405, R406, R409, R414: rate measurement sets the rate from the count, and its timeout ends it with ABDERR; DE falls
with an empty queue. RXDATA takes the head, TXDATA appends or sets TXOVF, a flush empties its queue, and DISABLE keeps
both. -/
def Obligations.UartCharactersAndQueues : Prop :=
  (∀ (u : Fin 3) (c : UartChar) (s : State),
      let x := s.uart u
      let others (t : State) := ∀ v : Fin 3, v ≠ u → t.uart v = s.uart v
      let heard (t : State) := { t with uarts := s.uarts } = s ∧ t.uart u = { x with brk := false } ∧ others t
      let sent (t : State) (d : BitVec 9) := (t.uart u).de = s.b (F.UART_FMT_DEEN u) ∧
        (t.uart u).line = s.uartDrive u (s.uartBits u d) ∧ (t.uart u).bt = s.uartBt u ∧ (t.uart u).rx = x.rx ∧ others t
      (s.uartRuns u = false ∨ s.uartBlocked u c = true → exec (.uartRxCharacter u c) s = .next s) ∧
      (s.uartRuns u = true → s.uartBlocked u c = false → s.b (F.UART_CTRL_ABDEN u) = false →
        (s.uartDeaf u = true ∨ s.uartRead u c = none → ∃ t, exec (.uartRxCharacter u c) s = .next t ∧ heard t) ∧
        (∀ r, s.uartDeaf u = false → s.uartRead u c = some r → x.waiting = [] → s.b (F.UART_FMT_NINE u) = false →
          s.rxfc u = false → s.txfc u = false →
          let ent : RxEnt := if r.allLow then ⟨0, false, false, true⟩ else ⟨r.data, !r.stop, r.stop && s.uartPe u r, false⟩
          ∃ t, exec (.uartRxCharacter u c) s = .next t ∧ (t.uart u).brk = r.allLow ∧
            (r.allLow = true → t.b (F.UART_STAT_BREAK u) = true) ∧
            (r.allLow = false → r.stop = false → t.b (F.UART_STAT_FE u) = true) ∧
            (r.allLow = false → r.stop = true → s.uartPe u r = true → t.b (F.UART_STAT_PE u) = true) ∧
            (x.rx.length < s.rxDepth u → (t.uart u).rx = x.rx ++ [ent]) ∧
            (s.rxDepth u ≤ x.rx.length → (t.uart u).rx = x.rx ∧ t.b (F.UART_STAT_OVR u) = true) ∧
            (t.uart u).tx = x.tx ∧ others t)) ∧
      (s.b (F.UART_CTRL_EN u) = true → s.b (F.UART_CTRL_TXEN u) = true → s.b (F.UART_CTRL_TXBRK u) = false →
        s.b (F.UART_STAT_COLL u) = false → x.out = [] → (s.mb (4 + u.val)).rsp = [] → x.waiting = [] →
        (∀ o rest, x.xctl = o :: rest → s.uartChecks u = false → s.rxfc u = false → ∃ t, exec (.uartTxCharacter u c) s = .next t ∧
          (t.uart u).xctl = rest ∧ (t.uart u).tx = x.tx ∧
          sent t (BitVec.ofNat 9 (s.f (if o then F.UART_FLOW_XOFF u else F.UART_FLOW_XON u)))) ∧
        (∀ b rest, x.xctl = [] → x.tx = b :: rest → s.b (F.UART_STAT_TXSTOP u) = false →
          (s.uartChecks u = false ∨ s.uartDiffers u b c = none ∧ s.b (F.UART_FMT_RXECHO u) = false →
            ∃ t, exec (.uartTxCharacter u c) s = .next t ∧ (t.uart u).tx = rest ∧ sent t b) ∧
          ∀ bit, s.uartChecks u = true → s.uartDiffers u b c = some bit → ∃ t, exec (.uartTxCharacter u c) s = .next t ∧
            t.b (F.UART_STAT_COLL u) = true ∧ (t.uart u).tx = x.tx ∧ (t.uart u).de = false ∧
            (t.uart u).line = s.uartDrive u ((s.uartBits u b).take (bit + 1))))) ∧
  (∀ (who : Initiator) (u : Fin 3) (c : UartChar) (d : Word) (on : Bool) (s : State),
      (∀ n, s.uartRuns u = true → s.uartBlocked u c = false → (s.uart u).slow = false → s.b (F.UART_CTRL_ABDEN u) = true →
        c.edges[7]? = some n → 124 ≤ n → n ≤ 8388603 →
        ∃ t, exec (.uartRxCharacter u c) s = .next t ∧ t.b (F.UART_STAT_ABDONE u) = true ∧
          t.b (F.UART_CTRL_ABDEN u) = false ∧ t.f (F.UART_ABD_COUNT u) = n ∧
          t.f (F.UART_BAUD_DIVI u) * 16 + t.f (F.UART_BAUD_DIVF u) = (n + 4) / 8 ∧ (t.uart u).rx = (s.uart u).rx ∧
          (t.uart u).tx = (s.uart u).tx) ∧
      (s.b (F.UART_CTRL_ABDEN u) = true → ∃ t, exec (.autobaudTimeout u) s = .next t ∧
        t.b (F.UART_STAT_ABDERR u) = true ∧ t.b (F.UART_CTRL_ABDEN u) = false ∧
        OnlyRegs s t [R.UART_CTRL u, R.UART_STAT u]) ∧
      (s.b (F.UART_CTRL_ABDEN u) = false → exec (.autobaudTimeout u) s = .next s) ∧
      ((s.uart u).tx = [] → (s.uart u).xoff = false → s.rxfc u = false → (s.uart u).waiting = [] →
        ∃ t, exec (.deHoldExpiry u) s = .next t ∧ (t.uart u).de = false ∧ t.b (F.UART_STAT_TXBUSY u) = false ∧
          (t.uart u).tx = [] ∧ (t.uart u).rx = (s.uart u).rx) ∧
      (s.on 21 = true → s.rxfc u = false → (s.uart u).xoff = false → (s.uart u).waiting = [] →
        (d.toNat < 512 → (s.uart u).tx.length < s.txDepth u → ∃ t, exec (.uartTxdataWrite u d) s = .next t ∧
          (t.uart u).tx = (s.uart u).tx ++ [d.setWidth 9] ∧ t.f (F.UART_LEVEL_TX u) = (s.uart u).tx.length + 1 ∧
          (t.uart u).rx = (s.uart u).rx) ∧
        (d.toNat < 512 → s.txDepth u ≤ (s.uart u).tx.length → ∃ t, exec (.uartTxdataWrite u d) s = .next t ∧
          t.b (F.UART_STAT_TXOVF u) = true ∧ OnlyRegs s t [R.UART_STAT u]) ∧
        (∀ x rest, (s.uart u).rx = x :: rest → ∃ t, exec (.uartRxdataRead who u) s = .next t ∧
          t.resp = ⟨x.word, false⟩ ∧ (t.uart u).rx = rest ∧ (t.uart u).tx = (s.uart u).tx) ∧
        ((s.uart u).rx = [] → ∃ t, exec (.uartRxdataRead who u) s = .next t ∧ t.resp.err = false ∧
          t.resp.data.getLsbD 31 = false ∧ t.regs = s.regs ∧ t.uarts = s.uarts) ∧
        (d.toNat < 2 ^ 20 → ∃ t, exec (.uartBaudWrite u d) s = .next t ∧ t.reg (R.UART_BAUD u) = d ∧
          OnlyRegs s t [R.UART_BAUD u]) ∧
        (∃ t, exec (.uartRxflush u) s = .next t ∧ (t.uart u).rx = [] ∧ t.f (F.UART_LEVEL_RX u) = 0 ∧
          (t.uart u).tx = (s.uart u).tx) ∧
        (∃ t, exec (.uartTxflush u) s = .next t ∧ (t.uart u).tx = [] ∧ t.f (F.UART_LEVEL_TX u) = 0 ∧
          (t.uart u).rx = (s.uart u).rx) ∧
        (∃ t, exec (.uartTxbrk u on) s = .next t ∧ t.b (F.UART_CTRL_TXBRK u) = on ∧ OnlyRegs s t [R.UART_CTRL u]) ∧
        (∃ t, exec (.uartDisable u) s = .next t ∧ t.b (F.UART_CTRL_EN u) = false ∧ (t.uart u).de = false ∧
          (t.uart u).tx = (s.uart u).tx ∧ (t.uart u).rx = (s.uart u).rx)) ∧
      (s.on 21 = false → ∀ c' ∈ [Instr.uartRxdataRead who u, .uartRxflush u, .uartTxflush u, .uartTxbrk u on, .uartDisable u],
        exec c' s = .next s.busErr))

/-- R416 to R419: a good command joins the queue of eight and a bad one sets CMDERR; a one-unit transmit drives its bits
on the lanes, a one-unit receive delivers what they carry, an abort empties queue and FIFO and delivers the bits of a
unit begun; RXDATA latches RXINFO. -/
def Obligations.SpiController : Prop :=
  ∀ (who : Initiator) (c d : Word) (bs : List (BitVec 4)) (s : State), s.on 21 = true →
    (pscBad c = false → s.psc.cmds.length < 8 → c &&& 0x000F0000#32 = 0 → ∃ t, exec (.pscCommandWrite c) s = .next t ∧
      t.psc = { s.psc with cmds := s.psc.cmds ++ [c] } ∧ t.f F.PSC_STAT_CMDLVL = s.psc.cmds.length + 1) ∧
    (pscBad c = true → c &&& 0x000F0000#32 = 0 → ∃ t, exec (.pscCommandWrite c) s = .next t ∧
      t.b F.PSC_STAT_CMDERR = true ∧ OnlyRegs s t [R.PSC_STAT]) ∧
    (s.b F.PSC_CTRL_EN = true → s.psc.cmds = [c] → pscBits c ≤ pscW c → s.psc.moved = 0 →
      let ends (t : State) := t.psc.cmds = [] ∧ (c.getLsbD 29 = false → t.b F.PSC_STAT_DONE = true ∧ t.psc.sel = none) ∧
        (c.getLsbD 29 = true → t.psc.sel = some (pscCs c))
      (∀ w rest, pscDir c = 0 → s.psc.tx = w :: rest → ∃ t, exec (.pscTransfer bs) s = .next t ∧
        t.psc.out = laneDrive 0 (pscLanes c) ((msbBits (pscW c) w.toNat).take (pscBits c)) ∧ t.psc.tx = rest ∧
        t.psc.rx = s.psc.rx ∧ ends t) ∧
      (pscDir c = 1 → s.psc.rx.length < 32 →
        let l := pscSampled c (pscBits c) bs
        ∃ t, exec (.pscTransfer bs) s = .next t ∧
        t.psc.rx = s.psc.rx ++ [(BitVec.ofNat 32 (bitsNat l), l.length, decide (l.length < pscW c))] ∧
        t.psc.tx = s.psc.tx ∧ ends t) ∧
      (pscDir c ≠ 1 → s.psc.tx = [] → ∃ t, exec (.pscTransfer bs) s = .next t ∧ t.b F.PSC_STAT_STALL = true ∧
        t.psc.cmds = [c])) ∧
    (s.psc.cmds = [] → exec (.pscTransfer bs) s = .next s) ∧
    (let ended (t : State) := t.b F.PSC_STAT_ABORTED = true ∧ t.b F.PSC_STAT_BUSY = false
      let off (rx : List (Word × Nat × Bool)) : Psc := { s.psc with cmds := [], tx := [], rx := rx, moved := 0, sel := none }
      (bs = [] → ∃ t, exec (.pscAbort bs) s = .next t ∧ ended t ∧ t.psc = off s.psc.rx) ∧
      ∀ rest, s.psc.cmds = c :: rest → pscDir c ≠ 0 →
        let l := bs.flatMap (laneBits 1 (pscLanes c))
        l ≠ [] → ∃ t, exec (.pscAbort bs) s = .next t ∧ ended t ∧ t.b F.PSC_STAT_PARTIAL = true ∧
          t.psc = off (s.psc.rx ++ [(BitVec.ofNat 32 (bitsNat l), l.length, true)])) ∧
    (s.psc.tx.length < 32 → ∃ t, exec (.pscTxdataWrite d) s = .next t ∧ t.psc = { s.psc with tx := s.psc.tx ++ [d] }) ∧
    (32 ≤ s.psc.tx.length → exec (.pscTxdataWrite d) s = .next s) ∧
    (∀ w n p rest, s.psc.rx = (w, n, p) :: rest → n < 64 → ∃ t, exec (.pscRxdataRead who) s = .next t ∧
      t.resp = ⟨w, false⟩ ∧ t.psc.rx = rest ∧ t.b F.PSC_RXINFO_VALID = true ∧ t.b F.PSC_RXINFO_PARTIAL = p ∧
      t.f F.PSC_RXINFO_NBITS = n) ∧
    (s.psc.rx = [] → ∃ t, exec (.pscRxdataRead who) s = .next t ∧ t.resp.err = false ∧ t.b F.PSC_RXINFO_VALID = false ∧
      t.psc = s.psc)

/-- R421 to R427: XFER.GO starts a transfer, or waits for a free bus; it ends with ANACK or DNACK, with ARBLOST, or when
all its bytes have moved, and a timeout ends it; what passes on the bus stands in its order. CLEAR frees the bus or
sets CLRFAIL; DATA moves the FIFOs. R425, R427: SET and CLR raise and lower the outputs, which GPIO_IN follows where
no filter count holds it; a level that a pin has held long enough for its filter moves GPIO_IN and makes the event
that its setting selects, or merges into the event before it. -/
def Obligations.I2cAndGpio : Prop :=
  (∀ (who : Initiator) (x : Word) (m p : Nat) (b : I2cBus) (s : State),
      (s.on 21 = true → x &&& ~~~ 0xF3FF01FF#32 = 0 →
        (x.getLsbD 31 = true → s.b F.I2C_CTRL_EN = true → s.i2c.run = none → ∃ t, exec (.i2cXferGo x) s = .next t ∧
          t.b F.I2C_STAT_BUSY = true ∧ t.b F.I2C_STAT_BBUSY = true ∧
          t.i2c = { s.i2c with run := some (x, 0), held := false, pmic := false,
                               sent := if s.i2c.held ∨ s.b F.I2C_STAT_BBUSY = false then [.start] else [] }) ∧
        (s.b F.I2C_CTRL_EN = false ∨ s.i2c.run.isSome = true → ∃ t, exec (.i2cXferGo x) s = .next t ∧ t.i2c = s.i2c ∧
          OnlyRegs s t [R.I2C_XFER])) ∧
      (s.i2c.run = some (x, m) → s.i2c.pmic = false → s.i2c.pmicWait = false → m ≤ 256 →
        let passed := s.i2c.sent ≠ [] ∧ s.i2c.sent ≠ [.start]
        let head := if passed then s.i2c.sent else [.start] ++ i2cAddrSyms x b.addrAcks
        let ended (t : State) (n : Nat) := t.i2c.run = none ∧ t.f F.I2C_STAT_COUNT = n
        let lost (n : Nat) := ∃ t, exec (.i2cTransferEnd b) s = .next t ∧ t.b F.I2C_STAT_ARBLOST = true ∧ ended t n ∧
          t.b F.I2C_STAT_BBUSY = b.busy
        let stop := if x.getLsbD 29 then ([] : List I2cSym) else [.stop]
        (¬ passed → b.addrAcks < (i2cAddress x).length →
          (b.arbLost = true → lost 0) ∧
          (b.arbLost = false → ∃ t, exec (.i2cTransferEnd b) s = .next t ∧ t.b F.I2C_STAT_ANACK = true ∧
            t.b F.I2C_STAT_DONE = true ∧ ended t 0 ∧ t.b F.I2C_STAT_BBUSY = false ∧ t.i2c.sent = head ++ [.stop])) ∧
        (passed ∨ (i2cAddress x).length ≤ b.addrAcks → m ≤ min (wordFld x 8 0) 256 →
          let left := min (wordFld x 8 0) 256 - m
          (x.getLsbD 28 = true → b.arbLost = false → left ≤ b.rx.length → left + s.i2c.rx.length ≤ 16 →
            ∃ t, exec (.i2cTransferEnd b) s = .next t ∧ ended t (m + left) ∧ t.i2c.rx = s.i2c.rx ++ b.rx.take left ∧
              t.b F.I2C_STAT_DONE = true ∧ t.i2c.sent = head ++ i2cReadSyms (m + left) m (b.rx.take left) ++ stop) ∧
          (x.getLsbD 28 = true → b.arbLost = true → b.rx.length ≤ left → b.rx.length + s.i2c.rx.length ≤ 16 →
            lost (m + b.rx.length)) ∧
          (x.getLsbD 28 = false → b.arbLost = false → left ≤ b.acked → left ≤ s.i2c.tx.length →
            ∃ t, exec (.i2cTransferEnd b) s = .next t ∧ ended t (m + left) ∧ t.i2c.tx = s.i2c.tx.drop left ∧
              t.b F.I2C_STAT_DONE = true ∧ t.i2c.sent = head ++ (s.i2c.tx.take left).map (fun y => .out y true) ++ stop) ∧
          (x.getLsbD 28 = false → b.arbLost = false → b.acked < left → b.acked < s.i2c.tx.length →
            ∃ t, exec (.i2cTransferEnd b) s = .next t ∧ ended t (m + b.acked) ∧ t.i2c.tx = s.i2c.tx.drop (b.acked + 1) ∧
              t.b F.I2C_STAT_DNACK = true ∧ t.b F.I2C_STAT_DONE = true ∧ t.b F.I2C_STAT_BBUSY = false)) ∧
        ∃ t, exec .i2cTimeout s = .next t ∧ t.b F.I2C_STAT_TIMEOUT = true ∧ ended t m) ∧
      (s.i2c.run = none → exec .i2cTimeout s = .next s ∧ ∃ t, exec (.i2cTransferEnd b) s = .next t ∧ OnlyRegs s t [R.I2C_STAT]) ∧
      (s.on 21 = true →
        (s.i2c.run = none → s.i2c.held = true ∨ (1 ≤ p ∧ p ≤ 9) → ∃ t, exec (.i2cClear p) s = .next t ∧
          t.b F.I2C_STAT_DONE = true ∧ t.b F.I2C_STAT_BBUSY = false ∧ t.b F.I2C_STAT_BUSY = false ∧
          t.i2c = { s.i2c with held := false, sent := s.i2c.sent ++ [.stop] }) ∧
        (s.i2c.run = none → s.i2c.held = false → p = 0 ∨ 9 < p → ∃ t, exec (.i2cClear p) s = .next t ∧
          t.b F.I2C_STAT_CLRFAIL = true ∧ OnlyRegs s t [R.I2C_STAT]) ∧
        (s.i2c.run.isSome = true → exec (.i2cClear p) s = .next s) ∧
        (x.toNat < 256 → s.i2c.tx.length < 16 → ∃ t, exec (.i2cDataWrite x) s = .next t ∧
          t.i2c = { s.i2c with tx := s.i2c.tx ++ [x.setWidth 8] }) ∧
        (∀ v rest, s.i2c.rx = v :: rest → ∃ t, exec (.i2cDataRead who) s = .next t ∧
          t.resp = ⟨v.setWidth 32, false⟩ ∧ t.i2c = { s.i2c with rx := rest }))) ∧
  (∀ (x : Word) (pin : BitVec 3) (rise : Bool) (held slow since : Nat) (s : State),
      (s.on 21 = true → x.toNat < 256 →
        let drives (t : State) := OnlyRegs { s with freeCtr := t.freeCtr } t [R.GPIO_OUT, R.GPIO_IN, R.GPIO_EVT] ∧
          ∀ j, j < 8 → t.fbit F.GPIO_IN_IN j = (if s.fbit F.GPIO_DIR_DIR j && s.f (F.GPIO_FILT_COUNT j) = 0 then
            t.fbit F.GPIO_OUT_OUT j else s.fbit F.GPIO_IN_IN j)
        (∃ t, exec (.gpioSet x) s = .next t ∧ t.f F.GPIO_OUT_OUT = (s.f F.GPIO_OUT_OUT ||| x.toNat) ∧ drives t) ∧
        ∃ t, exec (.gpioClr x) s = .next t ∧ (∀ j, j < 8 → t.fbit F.GPIO_OUT_OUT j =
          (s.fbit F.GPIO_OUT_OUT j && !x.getLsbD j)) ∧ drives t) ∧
      (let k := 2 * pin.toNat + (if rise then 0 else 1)
        let n := s.f (F.GPIO_FILT_COUNT pin.toNat)
        let long := if n = 0 then 20 ≤ held else if s.b (F.GPIO_FILT_UNIT pin.toNat) then n ≤ slow else 20 * n ≤ held
        let stays := s.on 21 = false ∨ s.fbit F.GPIO_IN_IN pin.toNat = rise ∨
          (s.fbit F.GPIO_DIR_DIR pin.toNat = true ∧ s.fbit F.GPIO_OUT_OUT pin.toNat ≠ rise)
        (stays ∨ n ≠ 0 ∧ ¬ long → exec (.gpioEdge pin rise held slow since) s = .next s) ∧
        (¬ stays → long → ∃ t, exec (.gpioEdge pin rise held slow since) s = .next t ∧ t.fbit F.GPIO_IN_IN pin.toNat = rise ∧
          ((s.f F.GPIO_EDGE_EDGE).testBit k = true → since < 100 → t.fbit F.GPIO_EVT_OVR pin.toNat = true) ∧
          ((s.f F.GPIO_EDGE_EDGE).testBit k = true → 100 ≤ since → t.fbit F.GPIO_EVT_EVT pin.toNat = true) ∧
          OnlyRegs s t [R.GPIO_IN, R.GPIO_EVT])))

/-! ## The flash port, execution in place and the journal (R429 to R453) -/

/-- R431, R432, R441, R444, R453, R8: a read transfer fills the FIFO with the words that the flash drives on the lanes of
its data phase, after the phases that XMP_CMD0 gives, and ends with DONE; an erase is polled, and ends with DONE once
the status bit says so, or with TIMEOUT; an abort ends a transfer; a read of the counter clears it but for what
hardware counts in its cycle. XIPEN is set when the regions hold and refused otherwise, and XIPLOCK locks. -/
def Obligations.FlashPortTransfers : Prop :=
  ∀ (who : Initiator) (d : Word) (dev : FlashDev) (n hc hu hm : Nat) (r : XmpRun) (s : State), s.on 25 = true →
    let c0 := s.reg R.XMP_CMD0
    let bytes := xmpBytes (2 ^ wordFld c0 24 23) dev.rx
    let closed : Flash := { s.flash with run := none, sel := none }
    (d &&& 0x70700000#32 = 0 → wordFld d 19 0 = 4 * n → n ≤ 64 → 0 < n → d.getLsbD 31 = true → s.b F.XMP_CTRL_EN = true →
      s.b F.XMP_STAT_BUSY = false → s.flash.fifo = [] → bytes.length = 4 * n →
      ∃ t, exec (.xmpTransfer d dev) s = .next t ∧ t.flash.fifo.length = n ∧
        (∀ i, i < n → t.flash.fifo[i]? = some (BitVec.ofNat 32 (leNat ((bytes.drop (4 * i)).take 4)))) ∧
        t.flash.run = none ∧ t.flash.sel = none ∧
        t.flash.bus = xmpHead c0 (wordFld c0 7 0) (xmpAddrBytes c0) (s.f F.XMP_ADDR_ADDR) (wordFld d 27 23) ∧ t.b F.XMP_STAT_DONE = true ∧ t.b F.XMP_STAT_BUSY = false ∧ t.f F.XMP_LEVEL_WORDS = n ∧
        t.flash.cells = s.flash.cells) ∧
    (d &&& 0x00700000#32 = 0 → d.getLsbD 31 = true → d.getLsbD 29 = true → wordFld d 19 0 % 512 ≠ 0 →
      s.b F.XMP_CTRL_EN = true → s.b F.XMP_STAT_BUSY = false → ∃ t, exec (.xmpTransfer d dev) s = .next t ∧
        t.b F.XMP_STAT_CMDERR = true ∧ OnlyRegs s t [R.XMP_CMD1, R.XMP_STAT]) ∧
    (∀ a m, d &&& 0x207FFFFF#32 = 0 → d.getLsbD 31 = true → d.getLsbD 30 = true → d.getLsbD 28 = true →
      c0.getLsbD 31 = false → dev.progAt = none → dev.eraseAt = some (a, m) → s.b F.XMP_CTRL_EN = true → s.b F.XMP_STAT_BUSY = false →
      ∃ t, exec (.xmpTransfer d dev) s = .next t ∧ t.b F.XMP_STAT_BUSY = true ∧
        (t.flash.run.map (·.polling)) = some true ∧
        ∀ x, t.cell x = if a ≤ x ∧ x < a + m then 0xFF else s.cell x) ∧
    (s.flash.run = some r → r.polling = true → s.nand = false →
      (∀ status failed,
        (s.pollBusy status = true → exec (.xmpPollDone status failed) s = .next s) ∧
        (s.pollBusy status = false → ∃ t, exec (.xmpPollDone status failed) s = .next t ∧ t.b F.XMP_STAT_DONE = true ∧
          t.b F.XMP_STAT_BUSY = false ∧ t.flash = closed)) ∧
      ∃ t, exec .xmpPollTimeout s = .next t ∧ t.b F.XMP_STAT_TIMEOUT = true ∧ t.b F.XMP_STAT_BUSY = false ∧
        t.flash = closed) ∧
    (s.flash.run = some r → r.write = false ∨ r.polling = true → ∃ t, exec .xmpAbort s = .next t ∧
      t.b F.XMP_STAT_ABORTED = true ∧ t.b F.XMP_STAT_BUSY = false ∧ t.flash = closed) ∧
    (s.flash.run = none → exec .xmpAbort s = .next s ∧ exec .xmpPollTimeout s = .next s) ∧
    (∃ t, exec (.xmpEcccntRead who hc hu hm) s = .next t ∧ t.resp = ⟨s.reg R.XMP_ECCCNT, false⟩ ∧
      t.f F.XMP_ECCCNT_CORR = min hc 65535 ∧ t.f F.XMP_ECCCNT_UNCORR = min hu 255 ∧ t.f F.XMP_ECCCNT_MAXSEC = min hm 8 ∧
      t.b F.XMP_STAT_ECCC = (s.b F.XMP_STAT_ECCC || decide (hc ≠ 0)) ∧
      t.b F.XMP_STAT_ECCU = (s.b F.XMP_STAT_ECCU || decide (hu ≠ 0)) ∧ OnlyRead s t [R.XMP_ECCCNT, R.XMP_STAT]) ∧
    (s.b F.XMP_CTRL_XIPEN = false → s.xipRefused = false → ∃ t, exec .xipEnable s = .next t ∧
      t.b F.XMP_CTRL_XIPEN = true ∧ (t.b F.XMP_STAT_XIPACT = s.b F.XMP_CTRL_EN) ∧ OnlyRegs s t [R.XMP_CTRL, R.XMP_STAT]) ∧
    (s.b F.XMP_CTRL_XIPEN = false → s.xipRefused = true → ∃ t, exec .xipEnable s = .next t ∧
      t.b F.XMP_STAT_XIPERR = true ∧ OnlyRegs s t [R.XMP_STAT]) ∧
    (∃ t, exec .xipLock s = .next t ∧ t.b F.XMP_CTRL_XIPLOCK = true ∧ OnlyRegs s t [R.XMP_CTRL]) ∧
    ∃ t, exec .xipCacheInvalidate s = .next t ∧ { t with flash := s.flash } = s ∧ t.flash = { s.flash with cache := [] }

/-- R443, R444: a read of the window answers from a verified chunk of the cache; a chunk of a region of one tree level, in
the flash on the first chip select, is read with its node, and is decrypted and served when its hash is its entry of
the node and the node's hash is the root. Any mismatch is a bus error that serves no byte, records INTEG and the
offset, and asks for a device reset with cause 7. R26: a read beyond the attached NOR flash, with NAND, or in no
region is a bus error that reads nothing. -/
def Obligations.ExecuteInPlaceIsVerified : Prop :=
  ∀ (who : Initiator) (off : BitVec 28) (w : Nat) (s : State), who = .cc0 ∨ who = .cc1 ∨ who = .dma →
    let o := off.toNat
    let base := s.f (F.XIP_BASE_OFFSET 0)
    let size := s.f (F.XIP_SIZE_BYTES 0)
    let chunk := o / 256 * 256
    let inside := s.on 25 = true ∧ s.b F.XMP_STAT_XIPACT = true ∧ s.b (F.XIP_BASE_VALID 0) = true ∧ base ≤ o ∧
      o + w ≤ base + size ∧ (w = 1 ∨ w = 2 ∨ w = 4) ∧ o % w = 0 ∧ s.nand = false ∧ s.flash.part.nand = false ∧
      o + w ≤ s.flash.part.size
    (∀ c, inside → listed s.flash.cache chunk = some c → ∃ t, exec (.xipRead who off w) s = .next t ∧
      t.resp = ⟨BitVec.ofNat 32 (leNat ((c.drop (o % 256)).take w)), false⟩ ∧ t.regs = s.regs ∧
      t.flash.cells = s.flash.cells) ∧
    (inside → base % 256 = 0 → size % 256 = 0 → size ≤ 4096 → s.eccMode ≠ 1 →
      (s.reg R.XMP_XIPCMD0).getLsbD 31 = false → listed s.flash.cache chunk = none →
      listed s.flash.cache (s.f (F.XIP_TREE_OFFSET 0)) = none →
      let ver := s.f (F.XIP_VER_VER 0)
      let rel := chunk - base
      let bytes := s.cellBytes chunk 256
      let node := s.cellBytes (s.f (F.XIP_TREE_OFFSET 0)) 256
      let good := (node.drop (16 * (rel / 256))).take 16 =
          (sha256 (leBytes 4 ver ++ [0] ++ leBytes 4 rel ++ bytes)).take 16 ∧
        (sha256 (leBytes 4 ver ++ [1] ++ leBytes 4 0 ++ node)).take 16 =
          (List.range 4).flatMap fun k => leBytes 4 (s.f (F.XIP_ROOT_ROOT 0 k))
      let plain := xipDecrypt s.xipKey ver chunk bytes
      (good → ∃ t, exec (.xipRead who off w) s = .next t ∧ t.regs = s.regs ∧ t.flash.cells = s.flash.cells ∧
        t.resp = ⟨BitVec.ofNat 32 (leNat ((plain.drop (o % 256)).take w)), false⟩ ∧
        listed t.flash.cache chunk = some plain) ∧
      (¬ good → ∃ t, exec (.xipRead who off w) s = .next t ∧ t.resp.err = true ∧ t.b F.XMP_STAT_INTEG = true ∧
        t.flash.cache = s.flash.cache ∧ t.f F.PMU_RSTCAUSE_CAUSE = 7 ∧ t.pmu.resetReq = true ∧
        (s.b F.XMP_XIPFAIL_VALID = false → t.f F.XMP_XIPFAIL_OFFSET = chunk % 2 ^ 26) ∧
        t.journal.wait = s.journal.wait ++ [JRec.integrity chunk])) ∧
    ((∀ k, k < 4 → s.b (F.XIP_BASE_VALID k) = false) ∨ s.nand = true ∨ s.flash.part.nand = true ∨ s.flash.part.size < o + w →
      ∃ t, exec (.xipRead who off w) s = .next t ∧ t.resp = ⟨0, true⟩ ∧ t.flash = s.flash)

/-- R447, R448, R450, R451: a frame holds what was gathered and what has changed, and stamps every frame before it; a
stamp closes the latest frame; nothing is written to a flash that firmware does not support (R433); a failed write, or
any write on NAND once the region lacks good blocks (R438), keeps its records for another try. A scan that is due
rewrites a region and records it, and one that the lehr has paused waits. -/
def Obligations.JournalFramesAndRetention : Prop :=
  ∀ (h m : Nat) (fails : Bool) (s : State),
    let stamped := s.journal.frames.map fun f => { f with stamped := true }
    let due := (s.journal.wait ++ s.jChanges).map fun r => (s.svn, r)
    let quiet := ∀ j, j < 64 → (s.mb j).opened = false
    (due = [] ∨ s.flash.supported = false → exec .journalFrameWrite s = .next s) ∧
    (due ≠ [] → s.flash.supported = true → s.jReserve ≤ s.jFree → ∃ t f, exec .journalFrameWrite s = .next t ∧ { t with journal := s.journal } = s ∧
      t.journal.frames = stamped ++ [f] ∧ f.recs = due ∧ f.seq = s.journal.seq + 1 ∧ f.stamped = false ∧
      t.journal.seq = s.journal.seq + 1 ∧ t.journal.wait = [] ∧ t.journal.report = true) ∧
    ((∀ f ∈ s.journal.frames, f.stamped = true) → exec .journalStamp s = .next s) ∧
    ((∃ f ∈ s.journal.frames, f.stamped = false) → ∃ t f, exec .journalStamp s = .next t ∧
      t.journal.frames = stamped ++ [f] ∧ f.recs = [] ∧ f.stamped = true ∧ t.journal.wait = s.journal.wait ∧
      { t with journal := s.journal } = s) ∧
    (quiet → s.journal.report = true →
      (s.regionShort 3 = false → (∀ f ∈ s.journal.frames, f.stamped = true) → ∃ t,
        exec (.journalWriteDone true) s = .next t ∧
        t.journal = { s.journal with sync := false, clearing := false, report := false }) ∧
      ∀ ok, ok = false ∨ s.regionShort 3 = true → ∃ t, exec (.journalWriteDone ok) s = .next t ∧ t.journal.report = false ∧
        t.journal.frames = s.journal.frames.filter (·.stamped) ∧
        t.journal.wait = ((s.journal.frames.filter fun f => !f.stamped).flatMap (·.recs)).map (·.2) ++ s.journal.wait) ∧
    (h < s.flash.hours + 8766 → exec (.retentionScan h [(m, fails)]) s = .next s) ∧
    (s.flash.hours + 8766 ≤ h → s.lehr.paused = true → exec (.retentionScan h [(m, fails)]) s =
      .next { s with lehr := { s.lehr with flashWork := true } }) ∧
    (s.flash.hours + 8766 ≤ h → s.lehr.paused = false → s.journal.find (6, 0) = none →
      ∃ t, exec (.retentionScan h [(m, fails)]) s = .next t ∧ t.flash = { s.flash with hours := h } ∧
        t.lehr.flashWork = false ∧
        if ((s.nand = true ∨ s.eccMode = 1) ∧ 2 ≤ m) ∨ 43830 ≤ h ∨ fails = true
        then ∃ k, k < 9 ∧ t.journal.wait = s.journal.wait ++ [.region 0 h k] else t.journal = s.journal)

/-! ## The mask ROM, SEC and the supplies (R454 to R473, R494, R520 to R522) -/

/-- R454, R467 to R469: a device reset starts CC0 in ROM: a blank part and WAKE open the recovery window, a retired part
serves the host only. In ROM mode STATUS replies with the state words, BEGIN opens a load, DATA stores its words in
the staging area, END checks them; requests outside the window are refused, and the window closes with a retry; that
of a blank part has no time limit. -/
def Obligations.TheRomServesTheHost : Prop :=
  ∀ (i : BootIn) (n off : Nat) (ws : List Word) (stuck idle : Bool) (s : State),
    (s.released = false → exec (.deviceReset i) s = .next s) ∧
    (s.released = true → s.lifecycle = 0 ∨ s.lifecycle = 2 ∨ i.wake = true → ∃ t, exec (.deviceReset i) s = .next t ∧
      t.on 19 = true ∧ t.on 21 = true ∧ t.powerState = 0 ∧ t.pmu.resetReq = false ∧ t.romMode = true ∧
      (t.cc 1).parked = true ∧ (t.cc 0).pc = 0 ∧ t.b F.HSP_CTRL_EN = true ∧ t.fuse = s.fuse ∧
      t.rom.window = decide (s.lifecycle ≠ 2) ∧ t.rom.first = decide (s.lifecycle = 1)) ∧
    (s.on 21 = true → s.b F.HSP_CTRL_EN = true → s.romMode = true →
      let replied (t : State) (w : List Word) := t.hsp.tx = w ∧ t.f (F.HSP_RSPLEN_WORDS 0) = w.length ∧
        t.b F.HSP_STAT_CMDEV = true ∧ t.fuse = s.fuse
      let size := BitVec.ofNat 32 n
      let shut := s.rom.window = false ∨ s.rom.handover = true
      (∃ t, exec (.romStatus 0 []) s = .next t ∧ replied t [0, s.reg R.SEC_STAT, s.reg (R.AON_RET 5), s.reg (R.AON_RET 4),
        BitVec.ofNat 32 (s.arbCount + 2 ^ 8 * (s.fuseWord 32).toNat % 2 ^ 12 + 2 ^ 16 * b2n s.rom.window)] ∧ t.rom = s.rom ∧
        t.sram = s.sram) ∧
      (∀ x, x ≠ 0 → ∀ c ∈ [Instr.romStatus x [], .romBegin x [size], .romData x (size :: ws), .romEnd x [] stuck],
        ∃ t, exec c s = .next t ∧ t.b F.HSP_STAT_CMDERR = true ∧ t.b F.HSP_STAT_CMDEV = true ∧ OnlyRegs s t [R.HSP_STAT]) ∧
      (shut → 1 ≤ ws.length → ws.length ≤ 256 → n ≤ 2031616 → n % 4 = 0 →
        ∀ c ∈ [Instr.romBegin 0 [size], .romData 0 (size :: ws), .romEnd 0 [] stuck],
          ∃ t, exec c s = .next t ∧ replied t [BitVec.ofNat 32 stNotInState] ∧ t.rom = s.rom ∧ t.sram = s.sram) ∧
      (¬ shut →
        (n ≤ 2031616 → n % 4 = 0 → ∃ t, exec (.romBegin 0 [size]) s = .next t ∧ replied t [0] ∧
          t.rom = { s.rom with load := some n } ∧ t.sram = s.sram) ∧
        (s.rom.load = some n → 1 ≤ ws.length → ws.length ≤ 256 → off + 4 * ws.length ≤ n → n ≤ 2031616 →
          ∃ t, exec (.romData 0 (BitVec.ofNat 32 off :: ws)) s = .next t ∧ replied t [0] ∧ t.rom = s.rom ∧
            ∀ x, memGet t.sram x = if 0x200000 + off ≤ x ∧ x < 0x200000 + off + 4 * ws.length then
              (ws.flatMap fun w => leBytes 4 w.toNat).getD (x - 0x200000 - off) 0 else memGet s.sram x) ∧
        (s.rom.load = some n → s.slotOk 2 = false → ∃ t, exec (.romEnd 0 [] stuck) s = .next t ∧ replied t [14, 1] ∧
          t.rom = { s.rom with load := none } ∧ wordFld (t.reg (R.AON_RET 4)) 23 16 = 1 ∧ t.sram = s.sram) ∧
        (s.rom.load = some n → s.slotOk 2 = true → (s.stage1Check 2 false).1 = 0 → s.lifecycle = 0 →
          ∃ t, exec (.romEnd 0 [] stuck) s = .next t ∧ replied t [0, 0] ∧
            t.rom = { s.rom with load := none, handover := true })) ∧
      (s.rom.handover = false → s.rom.window = true → s.lifecycle = 1 → s.rom.load = none ∨ idle = true →
        s.rom.first = false → ∃ t, exec (.recoveryWindowClose true idle) s = .next t ∧ t.rom = ⟨false, none, false, false⟩ ∧
          t.pmu.resetReq = true ∧ t.f F.PMU_RSTCAUSE_CAUSE = 6 ∧ t.fuse = s.fuse ∧
          (t.reg (R.AON_RET 5)).toNat = min ((s.reg (R.AON_RET 5)).toNat + 1) 0xFFFFFFFF)) ∧
    (s.rom.handover = false → s.rom.window = true → s.lifecycle ≠ 1 → s.rom.load = none ∨ idle = true →
      exec (.recoveryWindowClose true idle) s = .next { s with rom := { s.rom with load := none } }) ∧
    (s.rom.handover = false → exec (.recoveryWindowClose false idle) s = .next s)

/-- R466, R472, R473: a fuse command blows its one bit, but not under PGMLOCK nor a secret outside BLANK; a derivation
gives HKDF of the root secret with purpose and version, or KDFERR beyond its bound; the bound is set once; the hash
engine gives SHA-256 of the bytes written, the verify engine the ECDSA result of its latched inputs, and the key
clears. -/
def Obligations.SecurityEngines : Prop :=
  ∀ (bit ver : Nat) (blows : Bool) (d : Word) (last : BitVec 2) (m : List Byte) (s : State), s.on 21 = true →
    let fuseCmd := BitVec.ofNat 32 (2 ^ 31 + bit)
    let open_ := s.b F.SEC_CTRL_PGMLOCK = false ∧ (bit / 32 < 38 ∨ 53 < bit / 32 ∨ s.lifecycle = 0)
    (bit < 4096 →
      (open_ → ∃ t, exec (.fuseProgram fuseCmd true) s = .next t ∧ t.b F.SEC_STAT_DONE = true ∧
        (∀ w j, j < 32 → (t.fuseWord w).getLsbD j = ((s.fuseWord w).getLsbD j || decide (32 * w + j = bit))) ∧
        { t with regs := s.regs, fuse := s.fuse } = s) ∧
      (open_ → ∃ t, exec (.fuseProgram fuseCmd false) s = .next t ∧ t.b F.SEC_STAT_PGMERR = true ∧
        t.b F.SEC_STAT_DONE = true ∧ OnlyRegs s t [R.SEC_FUSECMD, R.SEC_STAT]) ∧
      (¬ open_ → ∃ t, exec (.fuseProgram fuseCmd blows) s = .next t ∧ t.b F.SEC_STAT_PGMERR = true ∧
        OnlyRegs s t [R.SEC_FUSECMD, R.SEC_STAT])) ∧
    (ver < 256 →
      let may := s.b F.SEC_KDFBOUND_SET = true ∧ s.b F.SEC_KDFBOUND_CLOSED = false ∧ ver ≤ s.f F.SEC_KDFBOUND_BOUND ∧
        s.lifecycle = 1
      let key := hkdf (s.fuseBytes 38 8) ((List.range 4).flatMap (fun k => leBytes 4 (s.reg (R.SEC_KDFP k)).toNat) ++
        leBytes 4 ver)
      (may → ∃ t, exec (.kdfGo (BitVec.ofNat 32 (2 ^ 31 + ver))) s = .next t ∧ t.b F.SEC_STAT_DONE = true ∧
        (∀ k, k < 8 → t.reg (R.SEC_KOUT k) = BitVec.ofNat 32 (leNat ((key.drop (4 * k)).take 4))) ∧
        { t with regs := s.regs } = s) ∧
      (¬ may → ∃ t, exec (.kdfGo (BitVec.ofNat 32 (2 ^ 31 + ver))) s = .next t ∧ t.b F.SEC_STAT_KDFERR = true ∧
        OnlyRegs s t [R.SEC_KDFCMD, R.SEC_STAT]) ∧
      ∃ t, exec (.kdfBoundSet (BitVec.ofNat 32 (2 ^ 31 + ver))) s = .next t ∧ t.b F.SEC_KDFBOUND_SET = true ∧
        t.f F.SEC_KDFBOUND_BOUND = (if s.b F.SEC_KDFBOUND_SET then s.f F.SEC_KDFBOUND_BOUND else ver) ∧
        OnlyRegs s t [R.SEC_KDFBOUND]) ∧
    (∃ t, exec .keyClear s = .next t ∧ (∀ k, k < 8 → t.reg (R.SEC_KOUT k) = 0) ∧
      OnlyRegs s t ((List.range 8).map R.SEC_KOUT)) ∧
    (∃ t, exec .hashStart s = .next t ∧ t.sec = { s.sec with msg := some [] } ∧ { t with sec := s.sec } = s) ∧
    (s.sec.msg = some m →
      (∃ t, exec (.hashDataWrite d) s = .next t ∧ t.sec = { s.sec with msg := some (m ++ leBytes 4 d.toNat) } ∧
        { t with sec := s.sec } = s) ∧
      ∃ t, exec (.hashFinish last) s = .next t ∧ t.sec.msg = none ∧ t.b F.SEC_STAT_DONE = true ∧
        let all := m.take (m.length - if last = 0 then 0 else 4 - last.toNat)
        ∀ k, k < 8 → t.reg (R.SEC_HOUT k) = BitVec.ofNat 32 (leNat (((sha256 all).drop (4 * k)).take 4))) ∧
    (s.sec.verify = none → ∃ t, exec .verifyGo s = .next t ∧ t.b F.SEC_VCTRL_VALID = false ∧ t.b F.SEC_STAT_VBUSY = true ∧
      t.sec.verify = some ((List.range 40).flatMap fun k => leBytes 4 (s.reg (R.SEC_VIN k)).toNat)) ∧
    (∀ v, s.sec.verify = some v → ∃ t, exec .verifyDone s = .next t ∧ t.sec.verify = none ∧
      t.b F.SEC_VCTRL_VALID = true ∧ t.b F.SEC_STAT_VBUSY = false ∧ t.b F.SEC_STAT_DONE = true ∧
      t.b F.SEC_VCTRL_PASS = ecdsaVerify (v.take 64) ((v.drop 64).take 64) (v.drop 128))

/-- R218, R494, R503, R520 to R522: a supply failure and RST_N hold the device in reset with their cause; the loss of the
AON supply and its return reset AON and the time unit too, but for WAKEBLK while WAKE is held; the exit from S5
retries until both monitors are valid. The expiry of CC0's watchdog starts the ROM with cause 3 and leaves the engines
and the queue; that of CC1 parks it until its restart, or has it start at once where its doorbell is pending (R454). -/
def Obligations.SuppliesAndWatchdogs : Prop :=
  ∀ (ns ms : Nat) (released valid : Bool) (i : BootIn) (s : State),
    let held (t : State) := t.pmu.resetReq = true ∧ t.on 19 = false ∧ t.on 20 = false ∧ t.on 21 = false ∧ t.fuse = s.fuse
    let aon (t : State) := (∀ a, 0x40000000 ≤ a → a < 0x40010000 → a ≠ R.PMU_STAT → t.reg a = regReset a) ∧
      t.reg R.PMU_STAT = wordSet (regReset R.PMU_STAT) 24 24 (b2n s.pmu.wakePin) ∧ t.tu = State.reset.tu ∧
      t.sram = [] ∧ t.stg.queue = [] ∧ t.fuse = s.fuse
    (s.powerState ≠ 5 → ∃ t, exec .supplyMonitorFail s = .next t ∧ held t ∧ t.f F.PMU_RSTCAUSE_CAUSE = 1 ∧
      t.reg (R.AON_RET 0) = 0 ∧ t.sram = [] ∧ t.stg.queue = []) ∧
    (s.powerState = 5 → exec .supplyMonitorFail s = .next s) ∧
    (∃ t, exec .vddAonLoss s = .next t ∧ aon t ∧ t.pmu.inReset = true) ∧
    (∃ t, exec .aonPowerOn s = .next t ∧ aon t ∧ t.pmu.inReset = false) ∧
    (1000 ≤ ns → s.powerState ≠ 5 → ∃ t, exec (.rstN ns released) s = .next t ∧ held t ∧
      t.f F.PMU_RSTCAUSE_CAUSE = 2 ∧ t.pmu.rstN = released ∧ t.sram = s.sram) ∧
    (ns < 100 → exec (.rstN ns released) s = .next s) ∧
    (s.powerState = 5 → s.pmu.resetReq = true → s.pmu.rstN = true → s.b F.PMU_STAT_TRIPLOCK = false →
      ∃ t, exec (.s5ExitRetry valid) s = .next t ∧ { t with pmu := s.pmu } = s ∧
        (valid = true → t.pmu = { s.pmu with pwrenCore := true, supplies := true, retries := 0 }) ∧
        (valid = false → t.pmu = { s.pmu with pwrenCore := false, retries := s.pmu.retries + 1 })) ∧
    (s.clocked 0 = true → (s.cc 0).sf 0x20 31 31 = 1 → s.lifecycle ≠ 1 ∨ i.wake = true →
      ∃ t, exec (.watchdogExpiry i) s = .next t ∧ t.f F.PMU_RSTCAUSE_CAUSE = 3 ∧ t.romMode = true ∧ (t.cc 0).pc = 0 ∧
        (t.cc 1).parked = true ∧ t.b F.HSP_CTRL_EN = true ∧ t.engs = s.engs ∧ t.stg = s.stg ∧ t.les = s.les) ∧
    ((s.cc 0).sf 0x20 31 31 = 0 → exec (.watchdogExpiry i) s = .next s) ∧
    (s.clocked 1 = true → (s.cc 1).sf 0x20 31 31 = 1 → (s.mb 7).opened = false →
      (s.fbit (F.MBX_RSPPEND_PEND 0) 7 = false → ∃ t, exec (.cc1WatchdogExpiry ms) s = .next t ∧
        (t.cc 1).parked = true ∧ s.s0 ∈ (t.cc 1).expiries ∧ 62 ∈ t.irqs ∧ t.cc 0 = s.cc 0 ∧
        { t with ccs := s.ccs, irqs := s.irqs } = s) ∧
      (s.fbit (F.MBX_RSPPEND_PEND 0) 7 = true → ∃ t, exec (.cc1WatchdogExpiry ms) s = .next t ∧
        (t.cc 1).parked = false ∧ (t.cc 1).pc = (s.reg (R.AON_RET 2)).toNat ∧ t.fbit (F.MBX_RSPPEND_PEND 0) 7 = false ∧
        s.s0 ∈ (t.cc 1).expiries ∧ 62 ∈ t.irqs ∧ t.cc 0 = s.cc 0)) ∧
    (s.on 20 = true → (s.cc 1).parked = true → (s.cc 1).expiries ≠ [] →
      ((s.cc 1).expiries.length < 3 →
        ∃ t, exec .cc1AppRestart s = .next t ∧ CoreIs s t 1 { s.cc 1 with parked := false, pc := (s.reg (R.AON_RET 2)).toNat }) ∧
      (3 ≤ (s.cc 1).expiries.length → exec .cc1AppRestart s = .next s))

/-! ## The control cores (R474 to R500) -/

/-- R477, R478, R485: an instruction that computes a register gives it the value of the spec at its distance, reads its
operands before it writes, and changes nothing else; register 0 stays 0. A shift by 32 or more gives a free value.
R480, R482, R485, R495: an instruction issues from ROM, from control SRAM and from a line of the window that the cache
holds when it is aligned, the MPU does not forbid it, its word has no ECC error and the cache takes no new lines; what
is due at distance 1 has landed, and other results are one instruction closer. A core that has stopped, that waits in
ROM or that has no clock executes nothing. -/
def Obligations.CoreArithmetic : Prop :=
  (∀ (c : Core) (o : RegOp) (m : ImmOp) (s u : State), Issues s c u →
      let k := u.cc c
      let a := u.rd c o.ra
      let b := u.rd c o.rb
      let x := u.rd c m.ra
      let y : Word := m.imm.signExtend 32
      let z : Word := m.imm.zeroExtend 32
      (∀ p ∈ [(Instr.ccAdd c o, a + b, 1), (.ccSub c o, a - b, 1), (.ccAnd c o, a &&& b, 1), (.ccOr c o, a ||| b, 1),
          (.ccXor c o, a ^^^ b, 1), (.ccSlt c o, if a.slt b then 1 else 0, 1), (.ccSltu c o, if a.ult b then 1 else 0, 1),
          (.ccMul c o, a * b, 3), (.ccMulh c o, (a.signExtend 64 * b.signExtend 64).extractLsb' 32 32, 3),
          (.ccMulhu c o, (a.zeroExtend 64 * b.zeroExtend 64).extractLsb' 32 32, 3),
          (.ccDiv c o, if b = 0 then 0xFFFFFFFF else a.sdiv b, 18), (.ccDivu c o, if b = 0 then 0xFFFFFFFF else a / b, 18),
          (.ccRem c o, if b = 0 then a else a.srem b, 18), (.ccRemu c o, if b = 0 then a else a % b, 18)],
        ∃ t, exec p.1 s = .next t ∧ CoreIs u t c (k.gave (k.idx o.rd.toNat) p.2.1 p.2.2)) ∧
      (∀ p ∈ [(Instr.ccAddi c m, x + y), (.ccSlti c m, if x.slt y then 1 else 0), (.ccAndi c m, x &&& z), (.ccOri c m, x ||| z),
          (.ccXori c m, x ^^^ z), (.ccShli c m, x <<< (m.imm.toNat % 32)), (.ccShri c m, x >>> (m.imm.toNat % 32)),
          (.ccAsri c m, x.sshiftRight (m.imm.toNat % 32)), (.ccLui c m, m.imm ++ 0#16)],
        ∃ t, exec p.1 s = .next t ∧ CoreIs u t c (k.gave (k.idx m.rd.toNat) p.2 1)) ∧
      (∀ p ∈ [(Instr.ccShl c o, a <<< b.toNat), (.ccShr c o, a >>> b.toNat), (.ccAsr c o, a.sshiftRight b.toNat)],
        (b.toNat < 32 → ∃ t, exec p.1 s = .next t ∧ CoreIs u t c (k.gave (k.idx o.rd.toNat) p.2 1)) ∧
        (32 ≤ b.toNat → ∃ t v, exec p.1 s = .next t ∧
          CoreIs { u with freeCtr := u.freeCtr + 1 } t c (k.gave (k.idx o.rd.toNat) v 1)))) ∧
  (∀ (c : Core) (o : RegOp) (s : State),
      let k := s.cc c
      (s.coreRuns c = true → k.waiting = false → MpuOpen k → k.pc % 4 = 0 → k.sf 2 0 0 = 0 →
        k.pc < 0x10000 ∨ (0x10000000 ≤ k.pc ∧ k.pc < 0x10400000) ∨ (0x18000000 ≤ k.pc ∧ k.pc < 0x18400000) ∨
          (0x60000000 ≤ k.pc ∧ k.pc < 0x70000000 ∧ ∃ l ∈ k.icache, l.base = k.pc / 64 * 64) →
        (∀ off, sramOff k.pc = some off → off / 4 ∉ s.sramBad ∧ off / 4 ∉ s.sramSoft) →
        (k.pend = [] → Issues s c s) ∧
        (∀ i v n, i < 144 → i ≠ 0 → k.pend = [⟨.reg i, v, n⟩] → ∃ u, Issues s c u ∧
          CoreIs s u c (if n ≤ 1 then { k with pend := [], regs := k.regs.setIfInBounds i v }
            else { k with pend := [⟨.reg i, v, n - 1⟩] }))) ∧
      (s.coreRuns c = false → exec (.ccAdd c o) s = .next s ∧ exec (.ccSync c) s = .next s))

/-- R475, R479, R480: a branch puts its target behind the delay slot; CALL saves the address after the slot in the
callee's w15, RET moves the window back at once; WAIT, SYNC and ISYNC go on, with every earlier MTS in effect after
ISYNC. -/
def Obligations.BranchesCallsAndBarriers : Prop :=
  ∀ (c : Core) (b : BrOp) (off : BitVec 26) (ra : BitVec 5) (s u : State), Issues s c u →
    let k := u.cc c
    let pc := BitVec.ofNat 32 k.pc
    let next := (k.pc + 4) % 2 ^ 32
    let x := u.rd c b.ra
    let holds (y : Word) : Bool := [x == y, x != y, x.slt y, !x.slt y, x.ult y, !x.ult y].getD b.cc.toNat false
    let dest (taken : Bool) : Nat := (if taken then pc + 4 * b.off.signExtend 32 else pc + 8).toNat
    let far := (pc + 4 * off.signExtend 32).toNat
    (k.slot = none →
      (b.cc.toNat < 6 → ∃ t, exec (.ccCb c b) s = .next t ∧
        CoreIs u t c { k with slot := some ⟨k.pc, dest (holds (u.rd c b.rb)), false, false⟩, pc := next }) ∧
      (b.cc.toNat < 6 → ∃ t, exec (.ccCbi c b) s = .next t ∧ CoreIs u t c { k with
        slot := some ⟨k.pc, dest (holds (if b.cc.toNat < 4 then b.rb.signExtend 32 else b.rb.zeroExtend 32)), false, false⟩
        pc := next }) ∧
      (∃ t, exec (.ccJ c off) s = .next t ∧ CoreIs u t c { k with slot := some ⟨k.pc, far, false, false⟩, pc := next }) ∧
      (k.wres ≠ 8 →
        let called : CtlCore := k.put (frameReg (k.wbase + 1) 15) (pc + 8)
        (∃ t, exec (.ccCall c off) s = .next t ∧
          CoreIs u t c { called with slot := some ⟨k.pc, far, true, false⟩, pc := next }) ∧
        ∃ t, exec (.ccCallr c ra) s = .next t ∧
          CoreIs u t c { called with slot := some ⟨k.pc, (u.rd c ra).toNat, true, false⟩, pc := next }) ∧
      (k.wres ≠ 1 → ∃ t, exec (.ccRet c) s = .next t ∧ CoreIs u t c { k.setWin (k.wbase + 7) (k.wres - 1) with
        slot := some ⟨k.pc, (k.get (frameReg k.wbase 15)).toNat, false, true⟩, pc := next })) ∧
    (∃ t, exec (.ccWait c) s = .next t ∧ CoreIs u t c { k.went with waiting := true }) ∧
    (∃ t, exec (.ccSync c) s = .next t ∧ CoreIs u t c k.went) ∧
    (k.pend = [] → ∃ t, exec (.ccIsync c) s = .next t ∧ CoreIs u t c k.went) ∧
    ∀ v n, k.pend = [⟨.sys 3, v, n⟩] → ∃ t, exec (.ccIsync c) s = .next t ∧ (t.cc c).pend = [] ∧
      (t.cc c).sr 3 = ((k.sr 3 &&& 0x3FF) ||| (v &&& 0xFFFFFC00))

/-- R487 to R491: a trap, an illegal word, a reserved condition and a transfer in a delay slot enter their vector, with
the branch as the return address and BD 1 in a slot; while EXL is 1 the core stops. ERET and WERET return; a CALL with
eight resident frames and a RET with one take the window traps; a pending line above CPL enters cause 15. -/
def Obligations.ExceptionsAndReturns : Prop :=
  ∀ (c : Core) (o : RegOp) (m : ImmOp) (b : BrOp) (off : BitVec 26) (ra : BitVec 5) (w : Word) (s u : State),
    Issues s c u →
    let k := u.cc c
    let moved := [Instr.ccCb c b, .ccCbi c b, .ccJ c off, .ccCall c off, .ccCallr c ra, .ccRet c, .ccEret c, .ccWeret c]
    (k.pend = [] → k.exl = false → k.wexl = false →
      (k.slot = none →
        (∃ t, exec (.ccTrap c m) s = .next t ∧ Entered u t c 6 k.pc false ∧ (t.cc c).sf 5 23 16 = m.imm.toNat % 256) ∧
        (∃ t, exec (.ccIllegalInstruction c w) s = .next t ∧ Entered u t c 5 k.pc false) ∧
        (6 ≤ b.cc.toNat → (∃ t, exec (.ccCb c b) s = .next t ∧ Entered u t c 5 k.pc false) ∧
          ∃ t, exec (.ccCbi c b) s = .next t ∧ Entered u t c 5 k.pc false)) ∧
      (∀ sl, k.slot = some sl → sl.ret = false → ∀ i ∈ Instr.ccIllegalInstruction c w :: moved,
        ∃ t, exec i s = .next t ∧ Entered u t c 5 sl.branch true)) ∧
    (k.exl = true → k.pend = [] → ∃ t, exec (.ccTrap c m) s = .next t ∧ CoreIs u t c { k with dead := true } ∧
      exec (.ccAdd c o) t = .next t) ∧
    (k.slot = none →
      (∃ t, exec (.ccEret c) s = .next t ∧ (t.cc c).pc = (k.sr 4).toNat ∧ (t.cc c).exl = false ∧
        ((t.cc c).ie = true ↔ k.sf 5 31 31 = 1) ∧ (t.cc c).cpl = k.sf 5 26 24 ∧ (t.cc c).regs = k.regs ∧
        { t with ccs := u.ccs } = u) ∧
      (∃ t, exec (.ccWeret c) s = .next t ∧ (t.cc c).pc = (k.sr 7).toNat ∧ (t.cc c).wexl = false ∧
        (t.cc c).ie = k.ie ∧ (t.cc c).exl = k.exl ∧ (t.cc c).regs = k.regs ∧ { t with ccs := u.ccs } = u) ∧
      (k.pend = [] → k.wexl = false →
        let trapped (t : State) (cause : Nat) := (t.cc c).sr 7 = BitVec.ofNat 32 k.pc ∧ (t.cc c).wexl = true ∧
          (t.cc c).pc = ((k.sr 3).toNat + 0x40 * cause) % 2 ^ 32 ∧ (t.cc c).regs = k.regs ∧ (t.cc c).wbase = k.wbase
        (k.wres = 8 → (∃ t, exec (.ccCall c off) s = .next t ∧ trapped t 7) ∧
          ∃ t, exec (.ccCallr c ra) s = .next t ∧ trapped t 7) ∧
        (k.wres = 1 → ∃ t, exec (.ccRet c) s = .next t ∧ trapped t 8))) ∧
    (∀ n, s.bestLine c = some n → s.coreRuns c = true →
      (s.cc c).pend = [] → (s.cc c).slot = none → n < 64 → n ≠ 23 → n ≠ 24 → n ≠ 60 →
      (s.cc c).ie = true → (s.cc c).exl = false → (s.cc c).wexl = false →
      ∃ t, exec (.irqEntry c) s = .next t ∧ (t.cc c).pc = (((s.cc c).sr 3).toNat + 0x40 * 15) % 2 ^ 32 ∧
        (t.cc c).sr 4 = BitVec.ofNat 32 ((s.cc c).pc / 4 * 4) ∧ (t.cc c).sr 0xA = BitVec.ofNat 32 n ∧
        (t.cc c).cpl = (s.cc c).prio n ∧ (t.cc c).ie = false ∧ (t.cc c).exl = true ∧ (t.cc c).sf 5 3 0 = 15 ∧
        { t with ccs := s.ccs } = s) ∧
    ((s.cc c).ie = false → exec (.irqEntry c) s = .next s)

/-- R5, R494, R496, R500: MFS reads the register of its number and MTS writes it at distance 3, an unassigned number is
illegal, and a 1 for a reserved bit stops. CYCLEL latches the high word, ECCCNT clears but for what is counted in the
cycle of its read, the key kicks the watchdog and any other value does not, a warning latches, and a region locks. -/
def Obligations.SystemRegisters : Prop :=
  ∀ (c : Core) (m : ImmOp) (rd : BitVec 5) (hc hu : Nat) (d : Word) (n : BitVec 4) (s u : State),
    let j := m.imm.toNat
    (Issues s c u →
      let k := u.cc c
      let gives (t : State) (v : Word) := CoreIs u t c (k.gave (k.idx m.rd.toNat) v 1)
      (j ∈ [1, 2, 3, 5, 6, 8, 9, 0xA, 0x10, 0x11, 0x20, 0x21, 0x40] ∨ (0x18 ≤ j ∧ j < 0x20) ∨ (0x80 ≤ j ∧ j < 0xB0) →
        ∃ t, exec (.ccMfs c m) s = .next t ∧ gives t (k.sr j)) ∧
      (∀ p ∈ [(0, BitVec.ofNat 32 c.val), (4, k.sr 4 &&& 0xFFFFFFFC), (7, k.sr 7 &&& 0xFFFFFFFC), (0xB, u.eccAddr), (0x12, u.pendWord c 0), (0x13, u.pendWord c 1),
          (0x23, k.cycleH)], j = p.1 → ∃ t, exec (.ccMfs c m) s = .next t ∧ gives t p.2) ∧
      (sysRow j = none → k.pend = [] → k.exl = false → k.wexl = false → k.slot = none →
        (∃ t, exec (.ccMfs c m) s = .next t ∧ Entered u t c 5 k.pc false) ∧
        ∃ t, exec (.ccMts c m) s = .next t ∧ Entered u t c 5 k.pc false) ∧
      (∀ r, sysRow j = some r →
        let v := u.rd c m.ra
        (v.toNat &&& (0xFFFFFFFF - r.2.2.2) = 0 → ∃ t, exec (.ccMts c m) s = .next t ∧
          CoreIs u t c (k.owe (.sys j) v 3).went) ∧
        (v.toNat &&& (0xFFFFFFFF - r.2.2.2) ≠ 0 → exec (.ccMts c m) s = .fault (.reservedBitWritten j))) ∧
      (∃ t v, exec (.cycleCounterRead c rd) s = .next t ∧ (t.cc c).cycleH = BitVec.ofNat 32 (v / 2 ^ 32) ∧
        t.cc c = { k.gave (k.idx rd.toNat) (BitVec.ofNat 32 v) 1 with cycleH := (t.cc c).cycleH } ∧
        { t with ccs := u.ccs, freeCtr := u.freeCtr } = u) ∧
      (∃ t, exec (.ecccntRead c rd hc hu) s = .next t ∧ t.cc c = k.gave (k.idx rd.toNat) u.eccCnt 1 ∧
        wordFld t.eccCnt 15 0 = min hc 65535 ∧ wordFld t.eccCnt 31 16 = min hu 65535 ∧ { t with ccs := u.ccs, eccCnt := u.eccCnt } = u)) ∧
    (d.toNat < 65536 → ∃ t, exec (.wdkickWrite c d) s = .next t ∧
      CoreIs s t c { s.cc c with kickAt := if d = 0x5A3C then s.now else (s.cc c).kickAt }) ∧
    (65536 ≤ d.toNat → exec (.wdkickWrite c d) s = .fault (.reservedBitWritten 0x21)) ∧
    (s.clocked c = true → (s.cc c).sf 0x20 31 31 = 1 → ∃ t, exec (.watchdogWarn c) s = .next t ∧ (t.cc c).sf 0x20 30 30 = 1 ∧
      t.line c 63 = true ∧ { t with ccs := s.ccs } = s) ∧
    ((s.cc c).sf 0x20 31 31 = 0 → exec (.watchdogWarn c) s = .next s) ∧
    ∃ t, exec (.mpuRegionLock c n) s = .next t ∧ (t.cc c).mpuLocked n.toNat = true ∧
      (∀ x, x ≠ 0xA0 + n.toNat → (t.cc c).sr x = (s.cc c).sr x) ∧ { t with ccs := s.ccs } = s

/-- R476, R481 to R483: loads and stores of each size, in each address form, on uncached control SRAM, and the string
instructions there; a load lands at distance 2 and the base at distance 1, a store changes the bytes of its width
only. -/
def Obligations.LoadsStoresAndStrings : Prop :=
  ∀ (c : Core) (o : MemOp) (ra : BitVec 5) (e : BitVec 2) (s u : State), Issues s c u →
    let k := u.cc c
    let w := 2 ^ o.size.toNat
    let base := u.rd c o.ra
    let index := u.rd c (o.disp.extractLsb' 7 5) <<< (o.disp.extractLsb' 5 2).toNat
    let form : Word × Option Word := match o.mode.toNat with
      | 0 => (base + o.disp.signExtend 32, none)
      | 1 => (base, some (base + o.disp.signExtend 32))
      | 2 => (base - o.disp.zeroExtend 32, some (base - o.disp.zeroExtend 32))
      | _ => (base + index, none)
    let a := form.1.toNat
    let off := a - 0x18000000
    let based (k : CtlCore) : CtlCore := match form.2 with
      | some v => k.put (k.idx o.ra.toNat) v
      | none => k
    let v := leNat ((List.range w).map fun i => memGet u.sram (off + i))
    let i := k.idx o.rd.toNat
    let p (n : Nat) : Word := k.get (8 + n)
    let z := 2 ^ e.toNat
    let sz := (p 6).toNat * z
    let byte (x : Nat) := memGet u.sram (x - 0x18000000)
    (o.size ≠ 3 → (o.mode = 3 → o.disp.toNat % 32 = 0) → PlainMem u c a w →
      (∃ t, exec (.ccLd c o) s = .next t ∧ t.cc c = ((based k).owe (.reg i) (BitVec.ofInt 32 (sext (8 * w) v)) 2).went ∧
        { t with ccs := u.ccs, resp := u.resp } = u) ∧
      (∃ t, exec (.ccLdu c o) s = .next t ∧ t.cc c = ((based k).owe (.reg i) (BitVec.ofNat 32 v) 2).went ∧
        { t with ccs := u.ccs, resp := u.resp } = u) ∧
      (∃ t, exec (.ccSt c o) s = .next t ∧ t.cc c = (based k).went ∧ { t with ccs := u.ccs, sram := u.sram, resp := u.resp } = u ∧
        (∀ x, x < w → memGet t.sram (off + x) = BitVec.ofNat 8 ((u.rd c o.rd).toNat / 256 ^ x)) ∧
        ∀ x, x < off ∨ off + w ≤ x → memGet t.sram x = memGet u.sram x)) ∧
    (o.size = 3 ∨ (o.mode = 3 ∧ o.disp.toNat % 32 ≠ 0) → k.pend = [] → k.exl = false → k.wexl = false → k.slot = none →
      ∀ x ∈ [Instr.ccLd c o, .ccLdu c o, .ccSt c o], ∃ t, exec x s = .next t ∧ Entered u t c 5 k.pc false) ∧
    (let at_ := (u.rd c ra).toNat;
      (k.wres = 1 → ∃ t, exec (.ccWspill c ra) s = .next t ∧ CoreIs u t c k.went) ∧
      (k.wres = 8 → ∃ t, exec (.ccWfill c ra) s = .next t ∧ CoreIs u t c k.went) ∧
      (k.wres ≠ 1 → at_ % 4 = 0 → (∀ x, x < 16 → PlainMem u c (at_ + 4 * x) 4) → ∃ t, exec (.ccWspill c ra) s = .next t ∧
        t.cc c = (k.setWin k.wbase (k.wres - 1)).went ∧ { t with ccs := u.ccs, sram := u.sram, resp := u.resp } = u ∧
        (∀ x, x < 64 → memGet t.sram (at_ - 0x18000000 + x) =
          BitVec.ofNat 8 ((k.get (frameReg (k.wbase + 9 - k.wres) (x / 4))).toNat / 256 ^ (x % 4))) ∧
        ∀ x, x < at_ - 0x18000000 ∨ at_ - 0x18000000 + 64 ≤ x → memGet t.sram x = memGet u.sram x) ∧
      (k.wres ≠ 8 → at_ % 4 = 0 → (∀ x, x < 16 → PlainMem u c (at_ + 4 * x) 4) →
        let fetched := (List.range 16).map fun x => CPend.mk (.reg (frameReg (k.wbase + 7) x))
          (BitVec.ofNat 32 (leNat ((List.range 4).map fun y => byte (at_ + 4 * x + y)))) 2
        ∃ t, exec (.ccWfill c ra) s = .next t ∧ { t with ccs := u.ccs, resp := u.resp } = u ∧
          t.cc c = ({ k with pend := k.pend ++ fetched }.setWin k.wbase (k.wres + 1)).went)) ∧
    (e ≠ 3 → k.pend = [] →
      let fits (x : Nat) := ∀ y, y < (p 6).toNat → PlainMem u c (x + z * y) z
      let ends (t : State) (moved4 moved5 n : Nat) (p7 : Word) := CoreIs { u with sram := t.sram, resp := t.resp } t c
        ((((k.put 12 (p 4 + BitVec.ofNat 32 moved4)).put 13 (p 5 + BitVec.ofNat 32 moved5)).put 14
          (p 6 - BitVec.ofNat 32 n)).put 15 p7).went
      (fits (p 4).toNat → ∃ t, exec (.ccSfill c e none) s = .next t ∧ ends t sz 0 (p 6).toNat (p 7) ∧
        ∀ x, memGet t.sram x = if (p 4).toNat ≤ x + 0x18000000 ∧ x + 0x18000000 < (p 4).toNat + sz
          then BitVec.ofNat 8 ((p 7).toNat / 256 ^ ((x + 0x18000000 - (p 4).toNat) % z)) else memGet u.sram x) ∧
      (fits (p 4).toNat → fits (p 5).toNat → (p 4).toNat + sz ≤ (p 5).toNat ∨ (p 5).toNat + sz ≤ (p 4).toNat →
        ∃ t, exec (.ccSmov c e none) s = .next t ∧ ends t sz sz (p 6).toNat (p 7) ∧
          ∀ x, memGet t.sram x = if (p 4).toNat ≤ x + 0x18000000 ∧ x + 0x18000000 < (p 4).toNat + sz
            then byte (x + 0x18000000 - (p 4).toNat + (p 5).toNat) else memGet u.sram x) ∧
      (fits (p 5).toNat → ∀ n, n ≤ (p 6).toNat →
        let el (y : Nat) := leNat ((List.range z).map fun j => byte ((p 5).toNat + z * y + j))
        ((∀ y, y < n → el y ≠ (p 7).toNat % 256 ^ z) → n = (p 6).toNat ∨ el n = (p 7).toNat % 256 ^ z →
          ∃ t, exec (.ccSfind c e none) s = .next t ∧ t.sram = u.sram ∧ ends t 0 (z * n) n (p 7))) ∧
      (fits (p 4).toNat → fits (p 5).toNat → ∀ n, n ≤ (p 6).toNat →
        let el (q y : Nat) := leNat ((List.range z).map fun j => byte (q + z * y + j))
        ((∀ y, y < n → el (p 4).toNat y = el (p 5).toNat y) →
        n = (p 6).toNat ∨ el (p 4).toNat n ≠ el (p 5).toNat n →
          ∃ t, exec (.ccScmp c e none) s = .next t ∧ t.sram = u.sram ∧ ends t (z * n) (z * n) n
            (if n = (p 6).toNat then 0 else if el (p 5).toNat n < el (p 4).toNat n then 1 else 0xFFFFFFFF))))

/-- R497, R498: an operation on a line, by its address, and on all lines: cleaning stores the bytes of a dirty line and
keeps it, invalidating discards it without a store, flushing does both; the instruction cache only discards. -/
def Obligations.CacheMaintenance : Prop :=
  ∀ (c : Core) (o : MemOp) (s u : State) (l : CLine), Issues s c u → o.mode = 0 → u.on 21 = true → MpuOpen (u.cc c) →
    let k := u.cc c
    let a := (u.rd c o.ra + o.disp.signExtend 32).toNat
    let hit := decide (a / 64 * 64 = l.base)
    let kept (t : State) := { t with ccs := u.ccs, sram := u.sram } = u ∧ ∀ j : Core, j ≠ c → t.cc j = u.cc j
    let stored (t : State) := (∀ x, x < 64 → memGet t.sram (l.base - 0x10000000 + x) = l.bytes.getD x 0) ∧
      ∀ x, x < l.base - 0x10000000 ∨ l.base - 0x10000000 + 64 ≤ x → memGet t.sram x = memGet u.sram x
    (k.dcache = [l] → l.dirty = true → l.bytes.length = 64 → 0x10000000 ≤ l.base → l.base < 0x103FF000 → l.base % 64 = 0 →
      (∀ x, x < 16 → (l.base - 0x10000000) / 4 + x ∉ u.sramBad ∧ (l.base - 0x10000000) / 4 + x ∉ u.sramSoft) →
      (∀ n, u.mbxBlock n ≠ none → n < l.base - 0x10000000 ∨ l.base - 0x10000000 + 64 ≤ n) →
      (hit = true →
        (∃ t, exec (.ccDclean c o) s = .next t ∧ kept t ∧ stored t ∧ t.cc c = { k with dcache := [{ l with dirty := false }] }.went) ∧
        (∃ t, exec (.ccDflush c o) s = .next t ∧ kept t ∧ stored t ∧ t.cc c = { k with dcache := [] }.went) ∧
        ∃ t, exec (.ccDinval c o) s = .next t ∧ kept t ∧ t.sram = u.sram ∧ t.cc c = { k with dcache := [] }.went) ∧
      (hit = false → ∀ i ∈ [Instr.ccDclean c o, .ccDflush c o, .ccDinval c o],
        ∃ t, exec i s = .next t ∧ kept t ∧ t.sram = u.sram ∧ t.cc c = k.went) ∧
      (∃ t, exec (.ccDcleanAll c o) s = .next t ∧ kept t ∧ stored t ∧
        t.cc c = { k with dcache := [{ l with dirty := false }] }.went) ∧
      ∃ t, exec (.ccDflushAll c o) s = .next t ∧ kept t ∧ stored t ∧ t.cc c = { k with dcache := [] }.went) ∧
    (∃ t, exec (.ccIinval c o) s = .next t ∧
      CoreIs u t c { k with icache := k.icache.filter fun l => l.base ≠ a / 64 * 64 }.went) ∧
    ∃ t, exec (.ccIinvalAll c o) s = .next t ∧ CoreIs u t c { k with icache := [] }.went

/-! ## DMA (R504 to R513) -/

/-- R504 to R513: GO reads the descriptor once, activates a well-formed one and halts DMA on a malformed one; a burst of
the one ready channel copies its bytes between uncached control SRAM places, and the last one writes STATUS and ends
the chain; STOP ends a channel, CLRHALT clears the record, software requests set. -/
def Obligations.DmaMovesBlocks : Prop :=
  ∀ (c : BitVec 4) (d : Word) (ds : List Word) (s : State), s.on 21 = true → (∀ n, n < 0x3FE000 → s.mbxBlock n = none) →
    s.sramBad = [] → s.sramSoft = [] →
    let k := c.toNat
    let at_ := (s.reg (R.CH_DESC k)).toNat
    let word (i : Nat) : Word := BitVec.ofNat 32 (leNat ((List.range 4).map fun j => memGet s.sram (at_ - 0x18000000 + 4 * i + j)))
    let src := (ds.getD 0 0).toNat
    let dst := (ds.getD 1 0).toNat
    let len := (ds.getD 2 0).toNat
    let cur := (s.reg (R.CH_CUR k)).toNat + 28
    (s.b F.DMA_CTRL_EN = true → s.b F.DMA_STAT_HALTED = false → s.fbit F.DMA_STAT_ACTIVE k = false →
      0x18000000 ≤ at_ → at_ < 0x183FE000 → at_ % 32 = 0 →
      (∃ t, exec (.dmaGo c) s = .next t ∧
        if dBad at_ ((List.range 8).map word) then
          t.b F.DMA_STAT_HALTED = true ∧ t.f F.DMA_ERR_KIND = 5 ∧ t.f F.DMA_ERR_CH = k ∧ t.f F.DMA_STAT_ACTIVE = 0
        else t.fbit F.DMA_STAT_ACTIVE k = true ∧ t.dmaCh k = ⟨some ((List.range 8).map word), 0⟩ ∧
          t.reg (R.CH_CUR k) = BitVec.ofNat 32 at_ ∧ t.f (F.CH_REM_BYTES k) = wordFld (word 2) 23 0 ∧ t.sram = s.sram)) ∧
    (s.b F.DMA_CTRL_EN = false ∨ s.b F.DMA_STAT_HALTED = true ∨ s.fbit F.DMA_STAT_ACTIVE k = true →
      exec (.dmaGo c) s = .next s) ∧
    (s.fbit F.DMA_STAT_ACTIVE k = true → ∃ t, exec (.dmaStop c) s = .next t ∧ t.fbit F.DMA_STAT_ACTIVE k = false ∧
      t.dmaCh k = ⟨none, 0⟩ ∧ (∀ j, j ≠ k → t.dmaCh j = s.dmaCh j) ∧ t.sram = s.sram) ∧
    (∃ t, exec .dmaClrhalt s = .next t ∧ t.b F.DMA_STAT_HALTED = false ∧ t.reg R.DMA_ERR = 0 ∧
      OnlyRegs s t [R.DMA_STAT, R.DMA_ERR]) ∧
    (d.toNat < 2 ^ 16 → ∃ t, exec (.dmaSwreqWrite d) s = .next t ∧ OnlyRegs s t [R.DMA_SWREQ] ∧
      ∀ j, j < 16 → t.fbit F.DMA_SWREQ_REQ j = (s.fbit F.DMA_SWREQ_REQ j || d.getLsbD j)) ∧
    (s.b F.DMA_CTRL_EN = true → s.b F.DMA_STAT_HALTED = false → s.fbit F.DMA_STAT_ACTIVE k = true →
      (∀ j, j < 16 → j ≠ k → s.fbit F.DMA_STAT_ACTIVE j = false) → s.dmaCh k = ⟨some ds, 0⟩ →
      dBit ds 26 = false → dBit ds 27 = false → dBit ds 28 = false → dMode ds = 0 → dW ds 4 = 0 →
      src % 4 = 0 → dst % 4 = 0 → len % 4 = 0 → 0 < len → len ≤ 4 * dBeats ds →
      (∀ p ∈ [(src, len), (dst, len), (cur, 4)], 0x18000000 ≤ p.1 ∧ p.1 + p.2 ≤ 0x183FE000) → cur % 4 = 0 →
      cur + 4 ≤ dst ∨ dst + len ≤ cur → src + len ≤ dst ∨ dst + len ≤ src →
      ∃ t, exec .dmaBurst s = .next t ∧ t.fbit F.DMA_STAT_ACTIVE k = false ∧ t.dmaCh k = ⟨none, 0⟩ ∧
        (dBit ds 31 = true → t.fbit F.DMA_DONE_DONE k = true) ∧ t.dmaLast = k ∧
        (∀ x, x < len → memGet t.sram (dst - 0x18000000 + x) = memGet s.sram (src - 0x18000000 + x)) ∧
        (∀ x, x < 4 → memGet t.sram (cur - 0x18000000 + x) = BitVec.ofNat 8 ((2 ^ 31 + len) / 256 ^ x)) ∧
        ∀ x, (x + 0x18000000 < dst ∨ dst + len ≤ x + 0x18000000) → (x + 0x18000000 < cur ∨ cur + 4 ≤ x + 0x18000000) →
          memGet t.sram x = memGet s.sram x) ∧
    (s.b F.DMA_CTRL_EN = false ∨ s.b F.DMA_STAT_HALTED = true → exec .dmaBurst s = .next s)

/-! ## The whole block -/

/-- R5: every command completes in every state, on every operand, whatever modes, power domains and gates say, but for a
write of 1 to a reserved bit. Of the commands that write one register by name, each completes when its data names no
reserved bit; those whose store may reach a register (a bus access, a core's store, string fill or move, window spill
or MTS, a DMA burst) have no other stop than that one; and every other command completes without a condition. -/
def Obligations.CommandsComplete : Prop :=
  ∀ (c : Instr) (s : State),
    (regWritten c = none → mayStore c = false → ∃ t, exec c s = .next t) ∧
    (∀ a d, regWritten c = some (a, d) → (∀ r, regRow a = some r → d.toNat &&& r.reserved = 0) → ∃ t, exec c s = .next t) ∧
    ((∃ t, exec c s = .next t) ∨ ∃ a, exec c s = .fault (.reservedBitWritten a))

/-- Every step keeps the registers and control SRAM in their canonical form (log 4): addresses strictly rising, nothing
listed at what an unlisted address reads as. -/
def Obligations.StepsKeepTheCanonicalForm : Prop :=
  ∀ s t : State, RegsWf s → Memory.wf s.sram = true → step s = .next t → RegsWf t ∧ Memory.wf t.sram = true

/-- The state right after reset: the canonical form, every register at the reset value of its field types, memories with
nothing listed, no session, an empty queue, and an idle step that only lets a tick of the time unit pass. The spec
gives no reset value to memories and to some registers, and no idle step: those are the model's choices (logs 1, 3 and
4). -/
def Obligations.ResetState : Prop :=
  RegsWf State.reset ∧ Memory.wf State.reset.sram = true ∧ (∀ a, State.reset.reg a = regReset a) ∧
    (∀ a, memGet State.reset.sram a = 0) ∧ (∀ e : Eng, (State.reset.eng e).busy = false ∧
      ∀ a, memGet (State.reset.eng e).st a = 0 ∧ memGet (State.reset.eng e).tile a = 0) ∧
    (∀ m : Fin 64, (State.reset.mb m).opened = false ∧ (State.reset.mb m).req = []) ∧ State.reset.pending = [] ∧
    State.reset.romMode = true ∧ (∀ c : Core, (State.reset.cc c).pc = 0 ∧ (State.reset.cc c).dead = false) ∧
    ∀ s : State, s.pending = [] → step s = .next (s.advance { ticks := 1, slow := 0 })
end

