-- ==== Sys2Proof/Laws/Exec.lean ====
section
/-! SUPPORT. The arms of exec: each command is its meaning. -/

namespace Sys2Proof.Machine

@[simp] theorem exec_registerWrite (who : Initiator) (addr data meets : Word) (s : State) : exec (.registerWrite who addr data meets) s = execRegisterWrite who addr data meets s := rfl
@[simp] theorem exec_busAccess (a : Access) (others : List Access) (s : State) : exec (.busAccess a others) s = execBusAccess a others s := rfl
@[simp] theorem exec_engineWindowWrite (who : Initiator) (e : Eng) (off : BitVec 20) (width : Nat) (data : Word) (s : State) : exec (.engineWindowWrite who e off width data) s = execEngineWindowWrite who e off width data s := rfl
@[simp] theorem exec_engineWindowRead (who : Initiator) (e : Eng) (off : BitVec 20) (width : Nat) (s : State) : exec (.engineWindowRead who e off width) s = execEngineWindowRead who e off width s := rfl
@[simp] theorem exec_ldsHostAccess (who : Core) (write : Bool) (width : Nat) (addr data : Word) (s : State) : exec (.ldsHostAccess who write width addr data) s = execLdsHostAccess who write width addr data s := rfl
@[simp] theorem exec_sampleTick (d : Dom) (inp : TickIn) (s : State) : exec (.sampleTick d inp) s = execSampleTick d inp s := rfl
@[simp] theorem exec_domainStart (mask : BitVec 4) (s : State) : exec (.domainStart mask) s = execDomainStart mask s := rfl
@[simp] theorem exec_longWriteDrain (e : Eng) (s : State) : exec (.longWriteDrain e) s = execLongWriteDrain e s := rfl
@[simp] theorem exec_passDone (e : Eng) (s : State) : exec (.passDone e) s = execPassDone e s := rfl
@[simp] theorem exec_rNop (e : Eng) (h : Hdr) (s : State) : exec (.rNop e h) s = execRNop e h s := rfl
@[simp] theorem exec_rEnd (e : Eng) (h : Hdr) (s : State) : exec (.rEnd e h) s = execREnd e h s := rfl
@[simp] theorem exec_rRpt (e : Eng) (h : Hdr) (count : BitVec 16) (body : BitVec 13) (s : State) : exec (.rRpt e h count body) s = execRRpt e h count body s := rfl
@[simp] theorem exec_rRptc (e : Eng) (h : Hdr) (cr : BitVec 2) (body : BitVec 13) (s : State) : exec (.rRptc e h cr body) s = execRRptc e h cr body s := rfl
@[simp] theorem exec_rMac (e : Eng) (h : Hdr) (o : MacOp) (s : State) : exec (.rMac e h o) s = execRMac e h o s := rfl
@[simp] theorem exec_rMacd (e : Eng) (h : Hdr) (o : MacOp) (s : State) : exec (.rMacd e h o) s = execRMacd e h o s := rfl
@[simp] theorem exec_rMacw (e : Eng) (h : Hdr) (o : MacOp) (s : State) : exec (.rMacw e h o) s = execRMacw e h o s := rfl
@[simp] theorem exec_rMacqd (e : Eng) (h : Hdr) (o : MacOp) (s : State) : exec (.rMacqd e h o) s = execRMacqd e h o s := rfl
@[simp] theorem exec_rMacqc (e : Eng) (h : Hdr) (o : MacOp) (s : State) : exec (.rMacqc e h o) s = execRMacqc e h o s := rfl
@[simp] theorem exec_rTap (e : Eng) (h : Hdr) (o : TapOp) (s : State) : exec (.rTap e h o) s = execRTap e h o s := rfl
@[simp] theorem exec_rTapm (e : Eng) (h : Hdr) (o : TapOp) (s : State) : exec (.rTapm e h o) s = execRTapm e h o s := rfl
@[simp] theorem exec_rFdr (e : Eng) (h : Hdr) (dl : BitVec 6) (dd : BitVec 4) (kb : BitVec 16) (qa : BitVec 3) (neg z : Bool) (s : State) : exec (.rFdr e h dl dd kb qa neg z) s = execRFdr e h dl dd kb qa neg z s := rfl
@[simp] theorem exec_rClrq (e : Eng) (h : Hdr) (mask : Byte) (s : State) : exec (.rClrq e h mask) s = execRClrq e h mask s := rfl
@[simp] theorem exec_rLdq (e : Eng) (h : Hdr) (qa : BitVec 3) (dn : BitVec 4) (neg acc : Bool) (s : State) : exec (.rLdq e h qa dn neg acc) s = execRLdq e h qa dn neg acc s := rfl
@[simp] theorem exec_rAddq (e : Eng) (h : Hdr) (qa qb : BitVec 3) (neg : Bool) (s : State) : exec (.rAddq e h qa qb neg) s = execRAddq e h qa qb neg s := rfl
@[simp] theorem exec_rStq (e : Eng) (h : Hdr) (qa : BitVec 3) (sh : BitVec 4) (mop : Mop) (s : State) : exec (.rStq e h qa sh mop) s = execRStq e h qa sh mop s := rfl
@[simp] theorem exec_rLd (e : Eng) (h : Hdr) (dn : BitVec 4) (mop : Mop) (s : State) : exec (.rLd e h dn mop) s = execRLd e h dn mop s := rfl
@[simp] theorem exec_rSt (e : Eng) (h : Hdr) (dn : BitVec 4) (mop : Mop) (s : State) : exec (.rSt e h dn mop) s = execRSt e h dn mop s := rfl
@[simp] theorem exec_rLuti (e : Eng) (h : Hdr) (dd ds : BitVec 4) (base : BitVec 14) (log2n : BitVec 4) (sgn : Bool) (s : State) : exec (.rLuti e h dd ds base log2n sgn) s = execRLuti e h dd ds base log2n sgn s := rfl
@[simp] theorem exec_rMov (e : Eng) (h : Hdr) (o : AluOp) (s : State) : exec (.rMov e h o) s = execRMov e h o s := rfl
@[simp] theorem exec_rAdd (e : Eng) (h : Hdr) (o : AluOp) (s : State) : exec (.rAdd e h o) s = execRAdd e h o s := rfl
@[simp] theorem exec_rAdds (e : Eng) (h : Hdr) (o : AluOp) (s : State) : exec (.rAdds e h o) s = execRAdds e h o s := rfl
@[simp] theorem exec_rSub (e : Eng) (h : Hdr) (o : AluOp) (s : State) : exec (.rSub e h o) s = execRSub e h o s := rfl
@[simp] theorem exec_rSubs (e : Eng) (h : Hdr) (o : AluOp) (s : State) : exec (.rSubs e h o) s = execRSubs e h o s := rfl
@[simp] theorem exec_rAnd (e : Eng) (h : Hdr) (o : AluOp) (s : State) : exec (.rAnd e h o) s = execRAnd e h o s := rfl
@[simp] theorem exec_rOr (e : Eng) (h : Hdr) (o : AluOp) (s : State) : exec (.rOr e h o) s = execROr e h o s := rfl
@[simp] theorem exec_rXor (e : Eng) (h : Hdr) (o : AluOp) (s : State) : exec (.rXor e h o) s = execRXor e h o s := rfl
@[simp] theorem exec_rShl (e : Eng) (h : Hdr) (o : AluOp) (s : State) : exec (.rShl e h o) s = execRShl e h o s := rfl
@[simp] theorem exec_rShr (e : Eng) (h : Hdr) (o : AluOp) (s : State) : exec (.rShr e h o) s = execRShr e h o s := rfl
@[simp] theorem exec_rAsr (e : Eng) (h : Hdr) (o : AluOp) (s : State) : exec (.rAsr e h o) s = execRAsr e h o s := rfl
@[simp] theorem exec_rMin (e : Eng) (h : Hdr) (o : AluOp) (s : State) : exec (.rMin e h o) s = execRMin e h o s := rfl
@[simp] theorem exec_rMax (e : Eng) (h : Hdr) (o : AluOp) (s : State) : exec (.rMax e h o) s = execRMax e h o s := rfl
@[simp] theorem exec_rAbs (e : Eng) (h : Hdr) (o : AluOp) (s : State) : exec (.rAbs e h o) s = execRAbs e h o s := rfl
@[simp] theorem exec_rMovs (e : Eng) (h : Hdr) (dd db sel : BitVec 4) (s : State) : exec (.rMovs e h dd db sel) s = execRMovs e h dd db sel s := rfl
@[simp] theorem exec_rMova (e : Eng) (h : Hdr) (an : BitVec 4) (imm : BitVec 20) (s : State) : exec (.rMova e h an imm) s = execRMova e h an imm s := rfl
@[simp] theorem exec_rAdda (e : Eng) (h : Hdr) (an : BitVec 4) (mm : BitVec 3) (rm : Bool) (imm : BitVec 20) (s : State) : exec (.rAdda e h an mm rm imm) s = execRAdda e h an mm rm imm s := rfl
@[simp] theorem exec_rMovm (e : Eng) (h : Hdr) (mm : BitVec 3) (imm : BitVec 20) (s : State) : exec (.rMovm e h mm imm) s = execRMovm e h mm imm s := rfl
@[simp] theorem exec_rMovad (e : Eng) (h : Hdr) (an dn : BitVec 4) (s : State) : exec (.rMovad e h an dn) s = execRMovad e h an dn s := rfl
@[simp] theorem exec_rMovmd (e : Eng) (h : Hdr) (mm : BitVec 3) (dn : BitVec 4) (s : State) : exec (.rMovmd e h mm dn) s = execRMovmd e h mm dn s := rfl
@[simp] theorem exec_rCmp (e : Eng) (h : Hdr) (pd cc : BitVec 3) (da db : BitVec 4) (inp sr : Bool) (imm : Word) (s : State) : exec (.rCmp e h pd cc da db inp sr imm) s = execRCmp e h pd cc da db inp sr imm s := rfl
@[simp] theorem exec_rPlog (e : Eng) (h : Hdr) (pd pa pb : BitVec 3) (lop : BitVec 2) (s : State) : exec (.rPlog e h pd pa pb lop) s = execRPlog e h pd pa pb lop s := rfl
@[simp] theorem exec_rPset (e : Eng) (h : Hdr) (pd : BitVec 3) (val : Bool) (s : State) : exec (.rPset e h pd val) s = execRPset e h pd val s := rfl
@[simp] theorem exec_unassignedRenderOpcode (e : Eng) (w : Word64) (s : State) : exec (.unassignedRenderOpcode e w) s = execUnassignedRenderOpcode e w s := rfl
@[simp] theorem exec_engSwap (e : Eng) (s : State) : exec (.engSwap e) s = execEngSwap e s := rfl
@[simp] theorem exec_engClear (e : Eng) (s : State) : exec (.engClear e) s = execEngClear e s := rfl
@[simp] theorem exec_clearDone (e : Eng) (s : State) : exec (.clearDone e) s = execClearDone e s := rfl
@[simp] theorem exec_bistGo (e : Eng) (s : State) : exec (.bistGo e) s = execBistGo e s := rfl
@[simp] theorem exec_bistDone (e : Eng) (failmap : BitVec 13) (s : State) : exec (.bistDone e failmap) s = execBistDone e failmap s := rfl
@[simp] theorem exec_testPass (e : Eng) (ttier : BitVec 2) (s : State) : exec (.testPass e ttier) s = execTestPass e ttier s := rfl
@[simp] theorem exec_testPassLimit (e : Eng) (s : State) : exec (.testPassLimit e) s = execTestPassLimit e s := rfl
@[simp] theorem exec_halfRequest (b : Bool) (s : State) : exec (.halfRequest b) s = execHalfRequest b s := rfl
@[simp] theorem exec_halfClearDone (b : Bool) (s : State) : exec (.halfClearDone b) s = execHalfClearDone b s := rfl
@[simp] theorem exec_scrub (s : State) : exec (.scrub) s = execScrub s := rfl
@[simp] theorem exec_epochWrite (goldenBad : Option (Fin 16)) (s : State) : exec (.epochWrite goldenBad) s = execEpochWrite goldenBad s := rfl
@[simp] theorem exec_arm (s : State) : exec (.arm) s = execArm s := rfl
@[simp] theorem exec_unitAck (unit : BitVec 5) (s : State) : exec (.unitAck unit) s = execUnitAck unit s := rfl
@[simp] theorem exec_reconcileDone (goldenBad : Option (Fin 16)) (s : State) : exec (.reconcileDone goldenBad) s = execReconcileDone goldenBad s := rfl
@[simp] theorem exec_stgMetdataRead (who : Initiator) (s : State) : exec (.stgMetdataRead who) s = execStgMetdataRead who s := rfl
@[simp] theorem exec_sampleIndexRead (who : Initiator) (d : Dom) (s : State) : exec (.sampleIndexRead who d) s = execSampleIndexRead who d s := rfl
@[simp] theorem exec_boundaryTimeRead (who : Initiator) (d : Dom) (s : State) : exec (.boundaryTimeRead who d) s = execBoundaryTimeRead who d s := rfl
@[simp] theorem exec_sampleCounterRead (who : Initiator) (e : Eng) (s : State) : exec (.sampleCounterRead who e) s = execSampleCounterRead who e s := rfl
@[simp] theorem exec_passmaxRead (who : Initiator) (e : Eng) (hwset : Nat) (s : State) : exec (.passmaxRead who e hwset) s = execPassmaxRead who e hwset s := rfl
@[simp] theorem exec_ldsPeakRead (who : Initiator) (d : Dom) (hwset : Nat) (s : State) : exec (.ldsPeakRead who d hwset) s = execLdsPeakRead who d hwset s := rfl
@[simp] theorem exec_windowEnd (el : Elapsed) (acts : List Nat) (lengthNs : Nat) (s : State) : exec (.windowEnd el acts lengthNs) s = execWindowEnd el acts lengthNs s := rfl
@[simp] theorem exec_tsuSample (el : Elapsed) (t : List Int) (s : State) : exec (.tsuSample el t) s = execTsuSample el t s := rfl
@[simp] theorem exec_tripShutdown (timeout : Bool) (s : State) : exec (.tripShutdown timeout) s = execTripShutdown timeout s := rfl
@[simp] theorem exec_shadowForce (le : Fin 16) (s : State) : exec (.shadowForce le) s = execShadowForce le s := rfl
@[simp] theorem exec_avsSettled (s : State) : exec (.avsSettled) s = execAvsSettled s := rfl
@[simp] theorem exec_pmuEval (s : State) : exec (.pmuEval) s = execPmuEval s := rfl
@[simp] theorem exec_powerStateEntry (wake : Option (Nat × Nat)) (s : State) : exec (.powerStateEntry wake) s = execPowerStateEntry wake s := rfl
@[simp] theorem exec_wakePin (s : State) : exec (.wakePin) s = execWakePin s := rfl
@[simp] theorem exec_wakeTimer (el : Elapsed) (s : State) : exec (.wakeTimer el) s = execWakeTimer el s := rfl
@[simp] theorem exec_gpioWake (pin : BitVec 3) (rise : Bool) (held : Nat) (s : State) : exec (.gpioWake pin rise held) s = execGpioWake pin rise held s := rfl
@[simp] theorem exec_uart0StartWake (s : State) : exec (.uart0StartWake) s = execUart0StartWake s := rfl
@[simp] theorem exec_uartAddressWake (two : Bool) (c : UartChar) (s : State) : exec (.uartAddressWake two c) s = execUartAddressWake two c s := rfl
@[simp] theorem exec_hspWake (s : State) : exec (.hspWake) s = execHspWake s := rfl
@[simp] theorem exec_netframeWake (frame : List Byte) (s : State) : exec (.netframeWake frame) s = execNetframeWake frame s := rfl
@[simp] theorem exec_cloneStart (punty : BitVec 5) (le : Fin 16) (s : State) : exec (.cloneStart punty le) s = execCloneStart punty le s := rfl
@[simp] theorem exec_cloneLoadDone (s : State) : exec (.cloneLoadDone) s = execCloneLoadDone s := rfl
@[simp] theorem exec_cloneCopyDone (s : State) : exec (.cloneCopyDone) s = execCloneCopyDone s := rfl
@[simp] theorem exec_compareWindowDone (s : State) : exec (.compareWindowDone) s = execCompareWindowDone s := rfl
@[simp] theorem exec_shadowAbort (s : State) : exec (.shadowAbort) s = execShadowAbort s := rfl
@[simp] theorem exec_handoverRequest (cold : Bool) (incoming outgoing : BitVec 5) (le : Fin 16) (s : State) : exec (.handoverRequest cold incoming outgoing le) s = execHandoverRequest cold incoming outgoing le s := rfl
@[simp] theorem exec_coldLoadDone (s : State) : exec (.coldLoadDone) s = execColdLoadDone s := rfl
@[simp] theorem exec_ageMeasure (s : State) : exec (.ageMeasure) s = execAgeMeasure s := rfl
@[simp] theorem exec_ageMeasureDone (cnt : List Nat) (s : State) : exec (.ageMeasureDone cnt) s = execAgeMeasureDone cnt s := rfl
@[simp] theorem exec_ageFmaxWrite (e : Eng) (n : Word) (s : State) : exec (.ageFmaxWrite e n) s = execAgeFmaxWrite e n s := rfl
@[simp] theorem exec_sysupd (edge : Bool) (s : State) : exec (.sysupd edge) s = execSysupd edge s := rfl
@[simp] theorem exec_loopLock (l : BitVec 2) (s : State) : exec (.loopLock l) s = execLoopLock l s := rfl
@[simp] theorem exec_engineClockSet (e : Eng) (n : Word) (s : State) : exec (.engineClockSet e n) s = execEngineClockSet e n s := rfl
@[simp] theorem exec_engineClockLock (e : Eng) (s : State) : exec (.engineClockLock e) s = execEngineClockLock e s := rfl
@[simp] theorem exec_acsUpdate (a : Bool) (s : State) : exec (.acsUpdate a) s = execAcsUpdate a s := rfl
@[simp] theorem exec_acsLock (a : Bool) (s : State) : exec (.acsLock a) s = execAcsLock a s := rfl
@[simp] theorem exec_acsRelock (a : Bool) (s : State) : exec (.acsRelock a) s = execAcsRelock a s := rfl
@[simp] theorem exec_acsClrq (a : Bool) (s : State) : exec (.acsClrq a) s = execAcsClrq a s := rfl
@[simp] theorem exec_phaseStepAdd (a : Bool) (add : BitVec 13) (s : State) : exec (.phaseStepAdd a add) s = execPhaseStepAdd a add s := rfl
@[simp] theorem exec_phaseStepIssue (a : Bool) (s : State) : exec (.phaseStepIssue a) s = execPhaseStepIssue a s := rfl
@[simp] theorem exec_acsCoast (a : Bool) (s : State) : exec (.acsCoast a) s = execAcsCoast a s := rfl
@[simp] theorem exec_frequencyCheck (a : Bool) (count expected : Nat) (s : State) : exec (.frequencyCheck a count expected) s = execFrequencyCheck a count expected s := rfl
@[simp] theorem exec_referenceReturn (a : Bool) (s : State) : exec (.referenceReturn a) s = execReferenceReturn a s := rfl
@[simp] theorem exec_systemReferenceLost (s : State) : exec (.systemReferenceLost) s = execSystemReferenceLost s := rfl
@[simp] theorem exec_mdllUnlock (l : BitVec 2) (ms : Bool) (s : State) : exec (.mdllUnlock l ms) s = execMdllUnlock l ms s := rfl
@[simp] theorem exec_engineMdllUnlock (e : Eng) (s : State) : exec (.engineMdllUnlock e) s = execEngineMdllUnlock e s := rfl
@[simp] theorem exec_slowClockLoss (s : State) : exec (.slowClockLoss) s = execSlowClockLoss s := rfl
@[simp] theorem exec_acsLiveRead (who : Initiator) (a : Bool) (s : State) : exec (.acsLiveRead who a) s = execAcsLiveRead who a s := rfl
@[simp] theorem exec_aspStart (p : Fin 8) (s : State) : exec (.aspStart p) s = execAspStart p s := rfl
@[simp] theorem exec_aspStop (p : Fin 8) (ended : Bool) (s : State) : exec (.aspStop p ended) s = execAspStop p ended s := rfl
@[simp] theorem exec_aspTrigGo (dom : Dom) (bnd iectx : Bool) (pdm : BitVec 4) (asp : Byte) (s : State) : exec (.aspTrigGo dom bnd iectx pdm asp) s = execAspTrigGo dom bnd iectx pdm asp s := rfl
@[simp] theorem exec_slaveFrame (p : Fin 8) (inp : SlaveIn) (s : State) : exec (.slaveFrame p inp) s = execSlaveFrame p inp s := rfl
@[simp] theorem exec_clockLost (p : Fin 8) (s : State) : exec (.clockLost p) s = execClockLost p s := rfl
@[simp] theorem exec_slotmaskRead (who : Initiator) (p : Fin 8) (s : State) : exec (.slotmaskRead who p) s = execSlotmaskRead who p s := rfl
@[simp] theorem exec_pdmStuck (p : Dom) (ch : Bool) (s : State) : exec (.pdmStuck p ch) s = execPdmStuck p ch s := rfl
@[simp] theorem exec_iecRxFrame (inp : IecIn) (s : State) : exec (.iecRxFrame inp) s = execIecRxFrame inp s := rfl
@[simp] theorem exec_iecLockLoss (s : State) : exec (.iecLockLoss) s = execIecLockLoss s := rfl
@[simp] theorem exec_iecStatusRead (who : Initiator) (s : State) : exec (.iecStatusRead who) s = execIecStatusRead who s := rfl
@[simp] theorem exec_iecCsUpdate (s : State) : exec (.iecCsUpdate) s = execIecCsUpdate s := rfl
@[simp] theorem exec_srcAcquired (g : Fin 8) (ratio : Word) (s : State) : exec (.srcAcquired g ratio) s = execSrcAcquired g ratio s := rfl
@[simp] theorem exec_srcRampDone (g : Fin 8) (s : State) : exec (.srcRampDone g) s = execSrcRampDone g s := rfl
@[simp] theorem exec_frameReceive (el : Elapsed) (port : Bool) (frame : List Byte) (fcsOk : Bool) (offset : Option Int) (s : State) : exec (.frameReceive el port frame fcsOk offset) s = execFrameReceive el port frame fcsOk offset s := rfl
@[simp] theorem exec_egressTransmit (el : Elapsed) (port : Bool) (s : State) : exec (.egressTransmit el port) s = execEgressTransmit el port s := rfl
@[simp] theorem exec_internalPortTransmit (el : Elapsed) (s : State) : exec (.internalPortTransmit el) s = execInternalPortTransmit el s := rfl
@[simp] theorem exec_macAgeing (seconds : Nat) (s : State) : exec (.macAgeing seconds) s = execMacAgeing seconds s := rfl
@[simp] theorem exec_mtRead (s : State) : exec (.mtRead) s = execMtRead s := rfl
@[simp] theorem exec_mtWriteStatic (s : State) : exec (.mtWriteStatic) s = execMtWriteStatic s := rfl
@[simp] theorem exec_mtDelete (s : State) : exec (.mtDelete) s = execMtDelete s := rfl
@[simp] theorem exec_mtFlush (s : State) : exec (.mtFlush) s = execMtFlush s := rfl
@[simp] theorem exec_mdioC22Write (s : State) : exec (.mdioC22Write) s = execMdioC22Write s := rfl
@[simp] theorem exec_mdioC22Read (phy : BitVec 16) (s : State) : exec (.mdioC22Read phy) s = execMdioC22Read phy s := rfl
@[simp] theorem exec_mdioC45Address (s : State) : exec (.mdioC45Address) s = execMdioC45Address s := rfl
@[simp] theorem exec_mdioC45Write (s : State) : exec (.mdioC45Write) s = execMdioC45Write s := rfl
@[simp] theorem exec_mdioC45Read (phy : BitVec 16) (s : State) : exec (.mdioC45Read phy) s = execMdioC45Read phy s := rfl
@[simp] theorem exec_tsfInfoRead (who : Initiator) (s : State) : exec (.tsfInfoRead who) s = execTsfInfoRead who s := rfl
@[simp] theorem exec_dropsRead (who : Initiator) (port : Bool) (hwset : Nat) (s : State) : exec (.dropsRead who port hwset) s = execDropsRead who port hwset s := rfl
@[simp] theorem exec_linkDown (port led : Bool) (s : State) : exec (.linkDown port led) s = execLinkDown port led s := rfl
@[simp] theorem exec_linkUp (port : Bool) (speed : BitVec 2) (half : Bool) (step : Nat) (ldelay : BitVec 24) (offset : Int) (s : State) : exec (.linkUp port speed half step ldelay offset) s = execLinkUp port speed half step ldelay offset s := rfl
@[simp] theorem exec_timeSourceLoss (s : State) : exec (.timeSourceLoss) s = execTimeSourceLoss s := rfl
@[simp] theorem exec_tuSet (s : State) : exec (.tuSet) s = execTuSet s := rfl
@[simp] theorem exec_tuStep (s : State) : exec (.tuStep) s = execTuStep s := rfl
@[simp] theorem exec_tuSourceSwitch (slow : Bool) (s : State) : exec (.tuSourceSwitch slow) s = execTuSourceSwitch slow s := rfl
@[simp] theorem exec_tuNsRead (who : Initiator) (s : State) : exec (.tuNsRead who) s = execTuNsRead who s := rfl
@[simp] theorem exec_tuLnslRead (who : Initiator) (s : State) : exec (.tuLnslRead who) s = execTuLnslRead who s := rfl
@[simp] theorem exec_tuLnslWrite (data : Word) (s : State) : exec (.tuLnslWrite data) s = execTuLnslWrite data s := rfl
@[simp] theorem exec_tpulseArm (k : Bool) (s : State) : exec (.tpulseArm k) s = execTpulseArm k s := rfl
@[simp] theorem exec_tpulseDisarm (k : Bool) (s : State) : exec (.tpulseDisarm k) s = execTpulseDisarm k s := rfl
@[simp] theorem exec_tpulseEdge (k : Bool) (el : Elapsed) (s : State) : exec (.tpulseEdge k el) s = execTpulseEdge k el s := rfl
@[simp] theorem exec_tcapEdge (el : Elapsed) (rise : Bool) (sinceNs : Nat) (s : State) : exec (.tcapEdge el rise sinceNs) s = execTcapEdge el rise sinceNs s := rfl
@[simp] theorem exec_tcapRead (who : Initiator) (s : State) : exec (.tcapRead who) s = execTcapRead who s := rfl
@[simp] theorem exec_trigArm (s : State) : exec (.trigArm) s = execTrigArm s := rfl
@[simp] theorem exec_trigDisarm (s : State) : exec (.trigDisarm) s = execTrigDisarm s := rfl
@[simp] theorem exec_trigFire (el : Elapsed) (s : State) : exec (.trigFire el) s = execTrigFire el s := rfl
@[simp] theorem exec_doorbellWrite (who : Initiator) (rsp : Bool) (m : Fin 64) (ackMeets : Bool) (s : State) : exec (.doorbellWrite who rsp m ackMeets) s = execDoorbellWrite who rsp m ackMeets s := rfl
@[simp] theorem exec_sessionIdleTimeout (m : Fin 64) (s : State) : exec (.sessionIdleTimeout m) s = execSessionIdleTimeout m s := rfl
@[simp] theorem exec_hspMsg (f : HspFrame) (s : State) : exec (.hspMsg f) s = execHspMsg f s := rfl
@[simp] theorem exec_hspRead (f : HspFrame) (s : State) : exec (.hspRead f) s = execHspRead f s := rfl
@[simp] theorem exec_hspStatus (op : BitVec 4) (f : HspFrame) (s : State) : exec (.hspStatus op f) s = execHspStatus op f s := rfl
@[simp] theorem exec_hspRxdataRead (who : Initiator) (s : State) : exec (.hspRxdataRead who) s = execHspRxdataRead who s := rfl
@[simp] theorem exec_hspTxdataWrite (data : Word) (s : State) : exec (.hspTxdataWrite data) s = execHspTxdataWrite data s := rfl
@[simp] theorem exec_hspRsplenWrite (c : Dom) (data : Word) (s : State) : exec (.hspRsplenWrite c data) s = execHspRsplenWrite c data s := rfl
@[simp] theorem exec_bcpOpen (rq : Req) (s : State) : exec (.bcpOpen rq) s = execBcpOpen rq s := rfl
@[simp] theorem exec_bcpClose (rq : Req) (s : State) : exec (.bcpClose rq) s = execBcpClose rq s := rfl
@[simp] theorem exec_bcpPing (rq : Req) (s : State) : exec (.bcpPing rq) s = execBcpPing rq s := rfl
@[simp] theorem exec_bcpGet (rq : Req) (s : State) : exec (.bcpGet rq) s = execBcpGet rq s := rfl
@[simp] theorem exec_bcpStage (rq : Req) (s : State) : exec (.bcpStage rq) s = execBcpStage rq s := rfl
@[simp] theorem exec_bcpUnstage (rq : Req) (s : State) : exec (.bcpUnstage rq) s = execBcpUnstage rq s := rfl
@[simp] theorem exec_bcpDiscard (rq : Req) (s : State) : exec (.bcpDiscard rq) s = execBcpDiscard rq s := rfl
@[simp] theorem exec_bcpCommit (rq : Req) (s : State) : exec (.bcpCommit rq) s = execBcpCommit rq s := rfl
@[simp] theorem exec_bcpList (rq : Req) (s : State) : exec (.bcpList rq) s = execBcpList rq s := rfl
@[simp] theorem exec_bcpDescribe (rq : Req) (s : State) : exec (.bcpDescribe rq) s = execBcpDescribe rq s := rfl
@[simp] theorem exec_bcpImgbegin (rq : Req) (s : State) : exec (.bcpImgbegin rq) s = execBcpImgbegin rq s := rfl
@[simp] theorem exec_bcpImgdata (rq : Req) (s : State) : exec (.bcpImgdata rq) s = execBcpImgdata rq s := rfl
@[simp] theorem exec_bcpImgend (rq : Req) (s : State) : exec (.bcpImgend rq) s = execBcpImgend rq s := rfl
@[simp] theorem exec_bcpImgread (rq : Req) (s : State) : exec (.bcpImgread rq) s = execBcpImgread rq s := rfl
@[simp] theorem exec_bcpTblget (rq : Req) (s : State) : exec (.bcpTblget rq) s = execBcpTblget rq s := rfl
@[simp] theorem exec_bcpTblstage (rq : Req) (s : State) : exec (.bcpTblstage rq) s = execBcpTblstage rq s := rfl
@[simp] theorem exec_bcpMeters (rq : Req) (s : State) : exec (.bcpMeters rq) s = execBcpMeters rq s := rfl
@[simp] theorem exec_bcpSubscribe (rq : Req) (s : State) : exec (.bcpSubscribe rq) s = execBcpSubscribe rq s := rfl
@[simp] theorem exec_bcpEvstat (rq : Req) (s : State) : exec (.bcpEvstat rq) s = execBcpEvstat rq s := rfl
@[simp] theorem exec_bcpPowerstat (rq : Req) (s : State) : exec (.bcpPowerstat rq) s = execBcpPowerstat rq s := rfl
@[simp] theorem exec_bcpLehrstat (rq : Req) (s : State) : exec (.bcpLehrstat rq) s = execBcpLehrstat rq s := rfl
@[simp] theorem exec_bcpEngmap (rq : Req) (s : State) : exec (.bcpEngmap rq) s = execBcpEngmap rq s := rfl
@[simp] theorem exec_bcpRelease (rq : Req) (s : State) : exec (.bcpRelease rq) s = execBcpRelease rq s := rfl
@[simp] theorem exec_bcpRetire (rq : Req) (s : State) : exec (.bcpRetire rq) s = execBcpRetire rq s := rfl
@[simp] theorem exec_bcpLogread (rq : Req) (s : State) : exec (.bcpLogread rq) s = execBcpLogread rq s := rfl
@[simp] theorem exec_bcpJsync (rq : Req) (s : State) : exec (.bcpJsync rq) s = execBcpJsync rq s := rfl
@[simp] theorem exec_bcpJclear (rq : Req) (s : State) : exec (.bcpJclear rq) s = execBcpJclear rq s := rfl
@[simp] theorem exec_bcpFwbegin (rq : Req) (s : State) : exec (.bcpFwbegin rq) s = execBcpFwbegin rq s := rfl
@[simp] theorem exec_fwEraseDone (ok : Bool) (s : State) : exec (.fwEraseDone ok) s = execFwEraseDone ok s := rfl
@[simp] theorem exec_bcpFwdata (rq : Req) (flashOk : Bool) (s : State) : exec (.bcpFwdata rq flashOk) s = execBcpFwdata rq flashOk s := rfl
@[simp] theorem exec_bcpFwend (rq : Req) (s : State) : exec (.bcpFwend rq) s = execBcpFwend rq s := rfl
@[simp] theorem exec_fwVerifyDone (flashOk : Bool) (s : State) : exec (.fwVerifyDone flashOk) s = execFwVerifyDone flashOk s := rfl
@[simp] theorem exec_bcpFwstat (rq : Req) (s : State) : exec (.bcpFwstat rq) s = execBcpFwstat rq s := rfl
@[simp] theorem exec_bcpReset (rq : Req) (s : State) : exec (.bcpReset rq) s = execBcpReset rq s := rfl
@[simp] theorem exec_resetDelayExpiry (s : State) : exec (.resetDelayExpiry) s = execResetDelayExpiry s := rfl
@[simp] theorem exec_uartRxCharacter (u : Fin 3) (c : UartChar) (s : State) : exec (.uartRxCharacter u c) s = execUartRxCharacter u c s := rfl
@[simp] theorem exec_autobaudTimeout (u : Fin 3) (s : State) : exec (.autobaudTimeout u) s = execAutobaudTimeout u s := rfl
@[simp] theorem exec_uartTxCharacter (u : Fin 3) (back : UartChar) (s : State) : exec (.uartTxCharacter u back) s = execUartTxCharacter u back s := rfl
@[simp] theorem exec_deHoldExpiry (u : Fin 3) (s : State) : exec (.deHoldExpiry u) s = execDeHoldExpiry u s := rfl
@[simp] theorem exec_uartTxdataWrite (u : Fin 3) (data : Word) (s : State) : exec (.uartTxdataWrite u data) s = execUartTxdataWrite u data s := rfl
@[simp] theorem exec_uartRxdataRead (who : Initiator) (u : Fin 3) (s : State) : exec (.uartRxdataRead who u) s = execUartRxdataRead who u s := rfl
@[simp] theorem exec_uartBaudWrite (u : Fin 3) (data : Word) (s : State) : exec (.uartBaudWrite u data) s = execUartBaudWrite u data s := rfl
@[simp] theorem exec_uartRxflush (u : Fin 3) (s : State) : exec (.uartRxflush u) s = execUartRxflush u s := rfl
@[simp] theorem exec_uartTxflush (u : Fin 3) (s : State) : exec (.uartTxflush u) s = execUartTxflush u s := rfl
@[simp] theorem exec_uartTxbrk (u : Fin 3) (on : Bool) (s : State) : exec (.uartTxbrk u on) s = execUartTxbrk u on s := rfl
@[simp] theorem exec_uartDisable (u : Fin 3) (s : State) : exec (.uartDisable u) s = execUartDisable u s := rfl
@[simp] theorem exec_pscCommandWrite (data : Word) (s : State) : exec (.pscCommandWrite data) s = execPscCommandWrite data s := rfl
@[simp] theorem exec_pscTransfer (inp : List (BitVec 4)) (s : State) : exec (.pscTransfer inp) s = execPscTransfer inp s := rfl
@[simp] theorem exec_pscAbort (inp : List (BitVec 4)) (s : State) : exec (.pscAbort inp) s = execPscAbort inp s := rfl
@[simp] theorem exec_pscTxdataWrite (data : Word) (s : State) : exec (.pscTxdataWrite data) s = execPscTxdataWrite data s := rfl
@[simp] theorem exec_pscRxdataRead (who : Initiator) (s : State) : exec (.pscRxdataRead who) s = execPscRxdataRead who s := rfl
@[simp] theorem exec_i2cXferGo (data : Word) (s : State) : exec (.i2cXferGo data) s = execI2cXferGo data s := rfl
@[simp] theorem exec_i2cTimeout (s : State) : exec (.i2cTimeout) s = execI2cTimeout s := rfl
@[simp] theorem exec_i2cClear (pulse : Nat) (s : State) : exec (.i2cClear pulse) s = execI2cClear pulse s := rfl
@[simp] theorem exec_i2cDataWrite (data : Word) (s : State) : exec (.i2cDataWrite data) s = execI2cDataWrite data s := rfl
@[simp] theorem exec_i2cDataRead (who : Initiator) (s : State) : exec (.i2cDataRead who) s = execI2cDataRead who s := rfl
@[simp] theorem exec_gpioEdge (pin : BitVec 3) (rise : Bool) (heldNs heldSlow sinceNs : Nat) (s : State) : exec (.gpioEdge pin rise heldNs heldSlow sinceNs) s = execGpioEdge pin rise heldNs heldSlow sinceNs s := rfl
@[simp] theorem exec_gpioSet (data : Word) (s : State) : exec (.gpioSet data) s = execGpioSet data s := rfl
@[simp] theorem exec_gpioClr (data : Word) (s : State) : exec (.gpioClr data) s = execGpioClr data s := rfl
@[simp] theorem exec_xmpTransfer (data : Word) (dev : FlashDev) (s : State) : exec (.xmpTransfer data dev) s = execXmpTransfer data dev s := rfl
@[simp] theorem exec_xmpPollDone (status : Byte) (failed : Bool) (s : State) : exec (.xmpPollDone status failed) s = execXmpPollDone status failed s := rfl
@[simp] theorem exec_xmpPollTimeout (s : State) : exec (.xmpPollTimeout) s = execXmpPollTimeout s := rfl
@[simp] theorem exec_xmpAbort (s : State) : exec (.xmpAbort) s = execXmpAbort s := rfl
@[simp] theorem exec_xmpEcccntRead (who : Initiator) (hwCorr hwUncorr hwMaxsec : Nat) (s : State) : exec (.xmpEcccntRead who hwCorr hwUncorr hwMaxsec) s = execXmpEcccntRead who hwCorr hwUncorr hwMaxsec s := rfl
@[simp] theorem exec_xipEnable (s : State) : exec (.xipEnable) s = execXipEnable s := rfl
@[simp] theorem exec_xipLock (s : State) : exec (.xipLock) s = execXipLock s := rfl
@[simp] theorem exec_xipRead (who : Initiator) (off : BitVec 28) (width : Nat) (s : State) : exec (.xipRead who off width) s = execXipRead who off width s := rfl
@[simp] theorem exec_xipCacheInvalidate (s : State) : exec (.xipCacheInvalidate) s = execXipCacheInvalidate s := rfl
@[simp] theorem exec_journalFrameWrite (s : State) : exec (.journalFrameWrite) s = execJournalFrameWrite s := rfl
@[simp] theorem exec_journalStamp (s : State) : exec (.journalStamp) s = execJournalStamp s := rfl
@[simp] theorem exec_journalWriteDone (ok : Bool) (s : State) : exec (.journalWriteDone ok) s = execJournalWriteDone ok s := rfl
@[simp] theorem exec_retentionScan (hours : Nat) (found : List (Nat × Bool)) (s : State) : exec (.retentionScan hours found) s = execRetentionScan hours found s := rfl
@[simp] theorem exec_deviceReset (inp : BootIn) (s : State) : exec (.deviceReset inp) s = execDeviceReset inp s := rfl
@[simp] theorem exec_romStatus (ch : BitVec 2) (words : List Word) (s : State) : exec (.romStatus ch words) s = execRomStatus ch words s := rfl
@[simp] theorem exec_romBegin (ch : BitVec 2) (words : List Word) (s : State) : exec (.romBegin ch words) s = execRomBegin ch words s := rfl
@[simp] theorem exec_romData (ch : BitVec 2) (words : List Word) (s : State) : exec (.romData ch words) s = execRomData ch words s := rfl
@[simp] theorem exec_romEnd (ch : BitVec 2) (words : List Word) (stuckFuse : Bool) (s : State) : exec (.romEnd ch words stuckFuse) s = execRomEnd ch words stuckFuse s := rfl
@[simp] theorem exec_recoveryWindowClose (csHigh idle1s : Bool) (s : State) : exec (.recoveryWindowClose csHigh idle1s) s = execRecoveryWindowClose csHigh idle1s s := rfl
@[simp] theorem exec_fuseProgram (data : Word) (blows : Bool) (s : State) : exec (.fuseProgram data blows) s = execFuseProgram data blows s := rfl
@[simp] theorem exec_kdfGo (data : Word) (s : State) : exec (.kdfGo data) s = execKdfGo data s := rfl
@[simp] theorem exec_kdfBoundSet (data : Word) (s : State) : exec (.kdfBoundSet data) s = execKdfBoundSet data s := rfl
@[simp] theorem exec_keyClear (s : State) : exec (.keyClear) s = execKeyClear s := rfl
@[simp] theorem exec_hashStart (s : State) : exec (.hashStart) s = execHashStart s := rfl
@[simp] theorem exec_hashDataWrite (data : Word) (s : State) : exec (.hashDataWrite data) s = execHashDataWrite data s := rfl
@[simp] theorem exec_hashFinish (last : BitVec 2) (s : State) : exec (.hashFinish last) s = execHashFinish last s := rfl
@[simp] theorem exec_verifyGo (s : State) : exec (.verifyGo) s = execVerifyGo s := rfl
@[simp] theorem exec_verifyDone (s : State) : exec (.verifyDone) s = execVerifyDone s := rfl
@[simp] theorem exec_supplyMonitorFail (s : State) : exec (.supplyMonitorFail) s = execSupplyMonitorFail s := rfl
@[simp] theorem exec_vddAonLoss (s : State) : exec (.vddAonLoss) s = execVddAonLoss s := rfl
@[simp] theorem exec_rstN (lowNs : Nat) (released : Bool) (s : State) : exec (.rstN lowNs released) s = execRstN lowNs released s := rfl
@[simp] theorem exec_s5ExitRetry (valid : Bool) (s : State) : exec (.s5ExitRetry valid) s = execS5ExitRetry valid s := rfl
@[simp] theorem exec_ccAdd (c : Core) (o : RegOp) (s : State) : exec (.ccAdd c o) s = execCcAdd c o s := rfl
@[simp] theorem exec_ccSub (c : Core) (o : RegOp) (s : State) : exec (.ccSub c o) s = execCcSub c o s := rfl
@[simp] theorem exec_ccAnd (c : Core) (o : RegOp) (s : State) : exec (.ccAnd c o) s = execCcAnd c o s := rfl
@[simp] theorem exec_ccOr (c : Core) (o : RegOp) (s : State) : exec (.ccOr c o) s = execCcOr c o s := rfl
@[simp] theorem exec_ccXor (c : Core) (o : RegOp) (s : State) : exec (.ccXor c o) s = execCcXor c o s := rfl
@[simp] theorem exec_ccShl (c : Core) (o : RegOp) (s : State) : exec (.ccShl c o) s = execCcShl c o s := rfl
@[simp] theorem exec_ccShr (c : Core) (o : RegOp) (s : State) : exec (.ccShr c o) s = execCcShr c o s := rfl
@[simp] theorem exec_ccAsr (c : Core) (o : RegOp) (s : State) : exec (.ccAsr c o) s = execCcAsr c o s := rfl
@[simp] theorem exec_ccSlt (c : Core) (o : RegOp) (s : State) : exec (.ccSlt c o) s = execCcSlt c o s := rfl
@[simp] theorem exec_ccSltu (c : Core) (o : RegOp) (s : State) : exec (.ccSltu c o) s = execCcSltu c o s := rfl
@[simp] theorem exec_ccMul (c : Core) (o : RegOp) (s : State) : exec (.ccMul c o) s = execCcMul c o s := rfl
@[simp] theorem exec_ccMulh (c : Core) (o : RegOp) (s : State) : exec (.ccMulh c o) s = execCcMulh c o s := rfl
@[simp] theorem exec_ccMulhu (c : Core) (o : RegOp) (s : State) : exec (.ccMulhu c o) s = execCcMulhu c o s := rfl
@[simp] theorem exec_ccDiv (c : Core) (o : RegOp) (s : State) : exec (.ccDiv c o) s = execCcDiv c o s := rfl
@[simp] theorem exec_ccDivu (c : Core) (o : RegOp) (s : State) : exec (.ccDivu c o) s = execCcDivu c o s := rfl
@[simp] theorem exec_ccRem (c : Core) (o : RegOp) (s : State) : exec (.ccRem c o) s = execCcRem c o s := rfl
@[simp] theorem exec_ccRemu (c : Core) (o : RegOp) (s : State) : exec (.ccRemu c o) s = execCcRemu c o s := rfl
@[simp] theorem exec_ccAddi (c : Core) (o : ImmOp) (s : State) : exec (.ccAddi c o) s = execCcAddi c o s := rfl
@[simp] theorem exec_ccSlti (c : Core) (o : ImmOp) (s : State) : exec (.ccSlti c o) s = execCcSlti c o s := rfl
@[simp] theorem exec_ccAndi (c : Core) (o : ImmOp) (s : State) : exec (.ccAndi c o) s = execCcAndi c o s := rfl
@[simp] theorem exec_ccOri (c : Core) (o : ImmOp) (s : State) : exec (.ccOri c o) s = execCcOri c o s := rfl
@[simp] theorem exec_ccXori (c : Core) (o : ImmOp) (s : State) : exec (.ccXori c o) s = execCcXori c o s := rfl
@[simp] theorem exec_ccShli (c : Core) (o : ImmOp) (s : State) : exec (.ccShli c o) s = execCcShli c o s := rfl
@[simp] theorem exec_ccShri (c : Core) (o : ImmOp) (s : State) : exec (.ccShri c o) s = execCcShri c o s := rfl
@[simp] theorem exec_ccAsri (c : Core) (o : ImmOp) (s : State) : exec (.ccAsri c o) s = execCcAsri c o s := rfl
@[simp] theorem exec_ccLui (c : Core) (o : ImmOp) (s : State) : exec (.ccLui c o) s = execCcLui c o s := rfl
@[simp] theorem exec_ccMfs (c : Core) (o : ImmOp) (s : State) : exec (.ccMfs c o) s = execCcMfs c o s := rfl
@[simp] theorem exec_ccMts (c : Core) (o : ImmOp) (s : State) : exec (.ccMts c o) s = execCcMts c o s := rfl
@[simp] theorem exec_ccTrap (c : Core) (o : ImmOp) (s : State) : exec (.ccTrap c o) s = execCcTrap c o s := rfl
@[simp] theorem exec_ccLd (c : Core) (o : MemOp) (s : State) : exec (.ccLd c o) s = execCcLd c o s := rfl
@[simp] theorem exec_ccLdu (c : Core) (o : MemOp) (s : State) : exec (.ccLdu c o) s = execCcLdu c o s := rfl
@[simp] theorem exec_ccSt (c : Core) (o : MemOp) (s : State) : exec (.ccSt c o) s = execCcSt c o s := rfl
@[simp] theorem exec_ccCb (c : Core) (o : BrOp) (s : State) : exec (.ccCb c o) s = execCcCb c o s := rfl
@[simp] theorem exec_ccCbi (c : Core) (o : BrOp) (s : State) : exec (.ccCbi c o) s = execCcCbi c o s := rfl
@[simp] theorem exec_ccJ (c : Core) (off : BitVec 26) (s : State) : exec (.ccJ c off) s = execCcJ c off s := rfl
@[simp] theorem exec_ccCall (c : Core) (off : BitVec 26) (s : State) : exec (.ccCall c off) s = execCcCall c off s := rfl
@[simp] theorem exec_ccCallr (c : Core) (ra : BitVec 5) (s : State) : exec (.ccCallr c ra) s = execCcCallr c ra s := rfl
@[simp] theorem exec_ccRet (c : Core) (s : State) : exec (.ccRet c) s = execCcRet c s := rfl
@[simp] theorem exec_ccEret (c : Core) (s : State) : exec (.ccEret c) s = execCcEret c s := rfl
@[simp] theorem exec_ccWeret (c : Core) (s : State) : exec (.ccWeret c) s = execCcWeret c s := rfl
@[simp] theorem exec_ccWait (c : Core) (s : State) : exec (.ccWait c) s = execCcWait c s := rfl
@[simp] theorem exec_ccSync (c : Core) (s : State) : exec (.ccSync c) s = execCcSync c s := rfl
@[simp] theorem exec_ccIsync (c : Core) (s : State) : exec (.ccIsync c) s = execCcIsync c s := rfl
@[simp] theorem exec_ccWspill (c : Core) (ra : BitVec 5) (s : State) : exec (.ccWspill c ra) s = execCcWspill c ra s := rfl
@[simp] theorem exec_ccWfill (c : Core) (ra : BitVec 5) (s : State) : exec (.ccWfill c ra) s = execCcWfill c ra s := rfl
@[simp] theorem exec_ccSmov (c : Core) (e : BitVec 2) (stopAfter : Option Nat) (s : State) : exec (.ccSmov c e stopAfter) s = execCcSmov c e stopAfter s := rfl
@[simp] theorem exec_ccSfill (c : Core) (e : BitVec 2) (stopAfter : Option Nat) (s : State) : exec (.ccSfill c e stopAfter) s = execCcSfill c e stopAfter s := rfl
@[simp] theorem exec_ccScmp (c : Core) (e : BitVec 2) (stopAfter : Option Nat) (s : State) : exec (.ccScmp c e stopAfter) s = execCcScmp c e stopAfter s := rfl
@[simp] theorem exec_ccSfind (c : Core) (e : BitVec 2) (stopAfter : Option Nat) (s : State) : exec (.ccSfind c e stopAfter) s = execCcSfind c e stopAfter s := rfl
@[simp] theorem exec_ccDclean (c : Core) (o : MemOp) (s : State) : exec (.ccDclean c o) s = execCcDclean c o s := rfl
@[simp] theorem exec_ccDinval (c : Core) (o : MemOp) (s : State) : exec (.ccDinval c o) s = execCcDinval c o s := rfl
@[simp] theorem exec_ccDflush (c : Core) (o : MemOp) (s : State) : exec (.ccDflush c o) s = execCcDflush c o s := rfl
@[simp] theorem exec_ccDcleanAll (c : Core) (o : MemOp) (s : State) : exec (.ccDcleanAll c o) s = execCcDcleanAll c o s := rfl
@[simp] theorem exec_ccDflushAll (c : Core) (o : MemOp) (s : State) : exec (.ccDflushAll c o) s = execCcDflushAll c o s := rfl
@[simp] theorem exec_ccIinval (c : Core) (o : MemOp) (s : State) : exec (.ccIinval c o) s = execCcIinval c o s := rfl
@[simp] theorem exec_ccIinvalAll (c : Core) (o : MemOp) (s : State) : exec (.ccIinvalAll c o) s = execCcIinvalAll c o s := rfl
@[simp] theorem exec_ccIllegalInstruction (c : Core) (w : Word) (s : State) : exec (.ccIllegalInstruction c w) s = execCcIllegalInstruction c w s := rfl
@[simp] theorem exec_irqEntry (c : Core) (s : State) : exec (.irqEntry c) s = execIrqEntry c s := rfl
@[simp] theorem exec_cycleCounterRead (c : Core) (rd : BitVec 5) (s : State) : exec (.cycleCounterRead c rd) s = execCycleCounterRead c rd s := rfl
@[simp] theorem exec_ecccntRead (c : Core) (rd : BitVec 5) (hwCorr hwUnc : Nat) (s : State) : exec (.ecccntRead c rd hwCorr hwUnc) s = execEcccntRead c rd hwCorr hwUnc s := rfl
@[simp] theorem exec_wdkickWrite (c : Core) (data : Word) (s : State) : exec (.wdkickWrite c data) s = execWdkickWrite c data s := rfl
@[simp] theorem exec_watchdogWarn (c : Core) (s : State) : exec (.watchdogWarn c) s = execWatchdogWarn c s := rfl
@[simp] theorem exec_watchdogExpiry (inp : BootIn) (s : State) : exec (.watchdogExpiry inp) s = execWatchdogExpiry inp s := rfl
@[simp] theorem exec_cc1WatchdogExpiry (sinceMs : Nat) (s : State) : exec (.cc1WatchdogExpiry sinceMs) s = execCc1WatchdogExpiry sinceMs s := rfl
@[simp] theorem exec_cc1AppRestart (s : State) : exec (.cc1AppRestart) s = execCc1AppRestart s := rfl
@[simp] theorem exec_mpuRegionLock (c : Core) (n : BitVec 4) (s : State) : exec (.mpuRegionLock c n) s = execMpuRegionLock c n s := rfl
@[simp] theorem exec_dmaGo (ch : BitVec 4) (s : State) : exec (.dmaGo ch) s = execDmaGo ch s := rfl
@[simp] theorem exec_dmaStop (ch : BitVec 4) (s : State) : exec (.dmaStop ch) s = execDmaStop ch s := rfl
@[simp] theorem exec_dmaClrhalt (s : State) : exec (.dmaClrhalt) s = execDmaClrhalt s := rfl
@[simp] theorem exec_dmaSwreqWrite (data : Word) (s : State) : exec (.dmaSwreqWrite data) s = execDmaSwreqWrite data s := rfl
@[simp] theorem exec_dmaBurst (s : State) : exec (.dmaBurst) s = execDmaBurst s := rfl
@[simp] theorem exec_wakeRelease (s : State) : exec (.wakeRelease) s = execWakeRelease s := rfl
@[simp] theorem exec_systemReferenceReturn (s : State) : exec (.systemReferenceReturn) s = execSystemReferenceReturn s := rfl
@[simp] theorem exec_stoppedDomainFrame (p : Fin 8) (s : State) : exec (.stoppedDomainFrame p) s = execStoppedDomainFrame p s := rfl
@[simp] theorem exec_ratioOutOfRange (g : Fin 8) (s : State) : exec (.ratioOutOfRange g) s = execRatioOutOfRange g s := rfl
@[simp] theorem exec_i2cTransferEnd (b : I2cBus) (s : State) : exec (.i2cTransferEnd b) s = execI2cTransferEnd b s := rfl
@[simp] theorem exec_checkOverdue (le : Fin 16) (s : State) : exec (.checkOverdue le) s = execCheckOverdue le s := rfl
@[simp] theorem exec_aonPowerOn (s : State) : exec (.aonPowerOn) s = execAonPowerOn s := rfl
@[simp] theorem exec_receiveClockChange (port present : Bool) (s : State) : exec (.receiveClockChange port present) s = execReceiveClockChange port present s := rfl

end Sys2Proof.Machine
end

