-- ==== Sys2Proof/Laws/Memory.lean ====
section
/-! SUPPORT. Sparse memories: a read after a write, and the canonical form that every operation keeps. -/

namespace Sys2Proof.Machine

section
variable {α : Type} (dflt : Nat → α)

@[simp] theorem smapGet_smapIns_same (m : List (Nat × α)) (k : Nat) (v : α) : smapGet dflt (smapIns m k v) k = v := by
  induction m with
  | nil => simp [smapIns, smapGet]
  | cons p m ih =>
    obtain ⟨a, w⟩ := p
    simp only [smapIns]
    split
    · simp [smapGet]
    · split
      · simp [smapGet]
      · rename_i h1 h2
        simp [smapGet, ih, Ne.symm h2]

theorem smapGet_smapIns_ne (m : List (Nat × α)) {k j : Nat} (v : α) (h : j ≠ k) :
    smapGet dflt (smapIns m k v) j = smapGet dflt m j := by
  induction m with
  | nil => simp [smapIns, smapGet, Ne.symm h]
  | cons p m ih =>
    obtain ⟨a, w⟩ := p
    simp only [smapIns]
    split
    · simp [smapGet, Ne.symm h]
    · split
      · rename_i _ hk
        subst hk
        simp [smapGet, Ne.symm h]
      · simp [smapGet, ih]

@[simp] theorem smapGet_smapDel_same (m : List (Nat × α)) (k : Nat) : smapGet dflt (smapDel m k) k = dflt k := by
  induction m with
  | nil => rfl
  | cons p m ih =>
    obtain ⟨a, w⟩ := p
    simp only [smapDel]
    split
    · exact ih
    · rename_i h
      simp [smapGet, ih, Ne.symm h]

theorem smapGet_smapDel_ne (m : List (Nat × α)) {k j : Nat} (h : j ≠ k) :
    smapGet dflt (smapDel m k) j = smapGet dflt m j := by
  induction m with
  | nil => rfl
  | cons p m ih =>
    obtain ⟨a, w⟩ := p
    simp only [smapDel]
    split
    · rename_i hk
      subst hk
      simp [smapGet, ih, Ne.symm h]
    · simp [smapGet, ih]

variable [DecidableEq α]

/-- A read after a write to the same place gives the value written. -/
@[simp] theorem smapGet_smapSet_same (m : List (Nat × α)) (k : Nat) (v : α) :
    smapGet dflt (smapSet dflt m k v) k = v := by
  unfold smapSet
  split
  · rename_i h
    simp [h]
  · simp

/-- A write leaves every other place alone. -/
theorem smapGet_smapSet_ne (m : List (Nat × α)) {k j : Nat} (v : α) (h : j ≠ k) :
    smapGet dflt (smapSet dflt m k v) j = smapGet dflt m j := by
  unfold smapSet
  split
  · exact smapGet_smapDel_ne dflt m h
  · exact smapGet_smapIns_ne dflt m v h

/-! ## The canonical form -/

/-- Every address of a list lies above a bound, the addresses rise, and no entry equals its default. -/
def smapAbove (dflt : Nat → α) : Nat → List (Nat × α) → Prop
  | _, [] => True
  | b, (a, v) :: m => b ≤ a ∧ v ≠ dflt a ∧ smapAbove dflt (a + 1) m

theorem smapWf_iff (m : List (Nat × α)) : smapWf dflt m = true ↔ smapAbove dflt 0 m := by
  suffices h : ∀ (m : List (Nat × α)) (b : Nat), smapAbove dflt b m ↔
      smapWf dflt m = true ∧ ∀ p ∈ m.head?, b ≤ p.1 by
    simp [h m 0]
  intro m
  induction m with
  | nil => simp [smapAbove, smapWf]
  | cons p m ih =>
    obtain ⟨a, v⟩ := p
    intro b
    cases m with
    | nil => simp [smapAbove, smapWf]; tauto
    | cons q m =>
      obtain ⟨c, w⟩ := q
      have hw := ih (a + 1)
      simp only [smapAbove, smapWf] at hw ⊢
      rw [hw]
      simp
      tauto

omit [DecidableEq α] in
theorem smapAbove_mono {b c : Nat} (h : c ≤ b) {m : List (Nat × α)} (hm : smapAbove dflt b m) : smapAbove dflt c m := by
  cases m with
  | nil => trivial
  | cons p m => exact ⟨h.trans hm.1, hm.2⟩

omit [DecidableEq α] in
theorem smapAbove_smapIns {m : List (Nat × α)} {b k : Nat} {v : α} (hb : b ≤ k) (hv : v ≠ dflt k)
    (hm : smapAbove dflt b m) : smapAbove dflt b (smapIns m k v) := by
  induction m generalizing b with
  | nil => exact ⟨hb, hv, trivial⟩
  | cons p m ih =>
    obtain ⟨a, w⟩ := p
    obtain ⟨h1, h2, h3⟩ := hm
    simp only [smapIns]
    split
    · rename_i hk
      exact ⟨hb, hv, hk, h2, h3⟩
    · split
      · rename_i hk
        subst hk
        exact ⟨hb, hv, h3⟩
      · exact ⟨h1, h2, ih (by omega) h3⟩

omit [DecidableEq α] in
theorem smapAbove_smapDel {m : List (Nat × α)} {b : Nat} (k : Nat) (hm : smapAbove dflt b m) :
    smapAbove dflt b (smapDel m k) := by
  induction m generalizing b with
  | nil => trivial
  | cons p m ih =>
    obtain ⟨a, w⟩ := p
    obtain ⟨h1, h2, h3⟩ := hm
    simp only [smapDel]
    split
    · exact smapAbove_mono dflt (by omega) (ih h3)
    · exact ⟨h1, h2, ih h3⟩

/-- A write keeps the canonical form. -/
theorem smapSet_keeps_wf {m : List (Nat × α)} (k : Nat) (v : α) (hm : smapWf dflt m = true) :
    smapWf dflt (smapSet dflt m k v) = true := by
  rw [smapWf_iff] at hm ⊢
  unfold smapSet
  split
  · exact smapAbove_smapDel dflt k hm
  · rename_i h
    exact smapAbove_smapIns dflt (Nat.zero_le k) h hm

end

/-! ## Memories whose unlisted words are 0 -/

@[simp] theorem memGet_memSet_same {w : Nat} (m : List (Nat × BitVec w)) (k : Nat) (v : BitVec w) :
    memGet (memSet m k v) k = v := smapGet_smapSet_same _ m k v

theorem memGet_memSet_ne {w : Nat} (m : List (Nat × BitVec w)) {k j : Nat} (v : BitVec w) (h : j ≠ k) :
    memGet (memSet m k v) j = memGet m j := smapGet_smapSet_ne _ m v h

/-- Reading a listed memory at any key after one write. -/
theorem memGet_memSet {w : Nat} (m : List (Nat × BitVec w)) (k j : Nat) (v : BitVec w) :
    memGet (memSet m k v) j = if j = k then v else memGet m j := by
  split
  · rename_i h
    subst h
    simp
  · rename_i h
    exact memGet_memSet_ne m v h

/-! ## Runs of words -/

section
variable {α : Type} (dflt : Nat → α)

theorem smapAbove_iff (m : List (Nat × α)) (b : Nat) :
    smapAbove dflt b m ↔ (∀ p ∈ m, b ≤ p.1 ∧ p.2 ≠ dflt p.1) ∧ m.Pairwise fun p q => p.1 < q.1 := by
  induction m generalizing b with
  | nil => simp [smapAbove]
  | cons p m ih =>
    obtain ⟨a, v⟩ := p
    simp only [smapAbove, ih, List.forall_mem_cons, List.pairwise_cons]
    constructor
    · rintro ⟨h1, h2, h3, h4⟩
      exact ⟨⟨⟨h1, h2⟩, fun q hq => ⟨h1.trans (Nat.le_of_succ_le (h3 q hq).1), (h3 q hq).2⟩⟩, fun q hq => (h3 q hq).1, h4⟩
    · rintro ⟨⟨⟨h1, h2⟩, h3⟩, h4, h5⟩
      exact ⟨h1, h2, fun q hq => ⟨h4 q hq, (h3 q hq).2⟩, h5⟩

/-- The canonical form: no entry equals its default, and the addresses rise. -/
theorem smapWf_pairwise [DecidableEq α] (m : List (Nat × α)) :
    smapWf dflt m = true ↔ (∀ p ∈ m, p.2 ≠ dflt p.1) ∧ m.Pairwise fun p q => p.1 < q.1 := by
  simp [smapWf_iff, smapAbove_iff]

/-- What an address reads as that a list does not hold. -/
theorem smapGet_of_not_mem (m : List (Nat × α)) (k : Nat) (h : ∀ p ∈ m, p.1 ≠ k) : smapGet dflt m k = dflt k := by
  induction m with
  | nil => rfl
  | cons p m ih =>
    obtain ⟨a, v⟩ := p
    simp only [List.forall_mem_cons] at h
    simp [smapGet, h.1, ih h.2]

/-- An address of one part of a list reads as that part alone. -/
theorem smapGet_append_of_not_mem (l m : List (Nat × α)) (k : Nat) (h : ∀ p ∈ l, p.1 ≠ k) :
    smapGet dflt (l ++ m) k = smapGet dflt m k := by
  induction l with
  | nil => rfl
  | cons p l ih =>
    obtain ⟨a, v⟩ := p
    simp only [List.forall_mem_cons] at h
    simp [smapGet, h.1, ih h.2]

theorem smapGet_append_left (l m : List (Nat × α)) (k : Nat) (h : ∀ p ∈ m, p.1 ≠ k) :
    smapGet dflt (l ++ m) k = smapGet dflt l k := by
  induction l with
  | nil => exact smapGet_of_not_mem dflt m k h
  | cons p l ih =>
    obtain ⟨a, v⟩ := p
    simp [smapGet, ih]

theorem smapGet_filter (f : Nat → Bool) (m : List (Nat × α)) (k : Nat) (h : f k = true) :
    smapGet dflt (m.filter fun p => f p.1) k = smapGet dflt m k := by
  induction m with
  | nil => rfl
  | cons p m ih =>
    obtain ⟨a, v⟩ := p
    by_cases ha : f a
    · simp [ha, smapGet, ih]
    · have : a ≠ k := fun e => ha (e ▸ h)
      simp [ha, smapGet, ih, this]

end

/-- The entries of a run of words from a key on lie in the run, rise, and are not 0. -/
theorem run_above {w : Nat} (vs : List (BitVec w)) (k : Nat) :
    smapAbove (fun _ => 0#w) k (((vs.zipIdx k).filter fun p => p.1 ≠ 0#w).map fun p => (p.2, p.1)) := by
  induction vs generalizing k with
  | nil => trivial
  | cons v vs ih =>
    by_cases hv : v = 0#w
    · simpa [List.zipIdx_cons, hv] using smapAbove_mono _ (Nat.le_succ k) (ih (k + 1))
    · simpa [List.zipIdx_cons, hv, smapAbove] using ih (k + 1)

theorem run_below {w : Nat} (vs : List (BitVec w)) (k : Nat) :
    ∀ p ∈ ((vs.zipIdx k).filter fun p => p.1 ≠ 0#w).map (fun p => (p.2, p.1)), p.1 < k + vs.length := by
  simp only [List.mem_map, List.mem_filter]
  rintro p ⟨q, ⟨hq, -⟩, rfl⟩
  have := List.snd_lt_add_of_mem_zipIdx hq
  simpa [Nat.add_comm] using this

theorem memGet_run {w : Nat} (vs : List (BitVec w)) (k j : Nat) :
    memGet (((vs.zipIdx k).filter fun p => p.1 ≠ 0#w).map fun p => (p.2, p.1)) j =
      if k ≤ j then vs.getD (j - k) 0#w else 0#w := by
  induction vs generalizing k with
  | nil => simp [memGet, smapGet]
  | cons v vs ih =>
    have key : memGet ((((v :: vs).zipIdx k).filter fun p => p.1 ≠ 0#w).map fun p => (p.2, p.1)) j =
        if k = j then v else memGet (((vs.zipIdx (k + 1)).filter fun p => p.1 ≠ 0#w).map fun p => (p.2, p.1)) j := by
      by_cases hv : v = 0#w
      · by_cases hk : k = j
        · subst hk
          simpa [List.zipIdx_cons, hv] using ih (k + 1)
        · simp [List.zipIdx_cons, hv, hk]
      · simp [List.zipIdx_cons, hv, memGet, smapGet]
    rw [key, ih]
    rcases Nat.lt_trichotomy k j with h | h | h
    · obtain ⟨d, rfl⟩ : ∃ d, j = k + 1 + d := ⟨j - (k + 1), by omega⟩
      have h1 : k + 1 + d - k = d + 1 := by omega
      simp [Nat.ne_of_lt h, h1, show k ≤ k + 1 + d by omega]
    · simp [h]
    · simp [Nat.ne_of_gt h, show ¬ k ≤ j by omega, show ¬ k + 1 ≤ j by omega]

/-- What a run of words written from a key on reads as, and that the other words keep their values. -/
theorem memGet_memSplice {w : Nat} (m : List (Nat × BitVec w)) (k j : Nat) (vs : List (BitVec w)) :
    memGet (memSplice m k vs) j = if k ≤ j ∧ j < k + vs.length then vs.getD (j - k) 0#w else memGet m j := by
  have hr := run_above vs k
  rw [smapAbove_iff] at hr
  have hb := run_below vs k
  have hrun := memGet_run vs k j
  simp only [memGet] at hrun ⊢
  unfold memSplice
  by_cases h1 : j < k
  · rw [smapGet_append_left _ _ _ _ (fun p hp => by simp at hp; omega),
      smapGet_append_left _ _ _ _ (fun p hp => by have := (hr.1 p hp).1; omega),
      smapGet_filter _ (fun a => decide (a < k)) m j (by simpa using h1)]
    simp [show ¬ (k ≤ j ∧ j < k + vs.length) by omega]
  · by_cases h2 : j < k + vs.length
    · rw [smapGet_append_left _ _ _ _ (fun p hp => by simp at hp; omega),
        smapGet_append_of_not_mem _ _ _ _ (fun p hp => by simp at hp; omega), hrun]
      simp [show k ≤ j ∧ j < k + vs.length by omega]
    · rw [List.append_assoc, smapGet_append_of_not_mem _ _ _ _ (fun p hp => by simp at hp; omega),
        smapGet_append_of_not_mem _ _ _ _ (fun p hp => by have := hb p hp; omega),
        smapGet_filter _ (fun a => decide (k + vs.length ≤ a)) m j (by simpa using Nat.le_of_not_lt h2)]
      simp [h2]

/-- Writing a run of words keeps the canonical form. -/
theorem memSplice_keeps_wf {w : Nat} {m : List (Nat × BitVec w)} (k : Nat) (vs : List (BitVec w))
    (hm : smapWf (fun _ => 0#w) m = true) : smapWf (fun _ => 0#w) (memSplice m k vs) = true := by
  have hr := run_above vs k
  rw [smapAbove_iff] at hr
  have hb := run_below vs k
  rw [smapWf_pairwise] at hm ⊢
  obtain ⟨hv, hp⟩ := hm
  unfold memSplice
  refine ⟨fun p h => ?_, ?_⟩
  · rcases List.mem_append.1 h with h | h
    · rcases List.mem_append.1 h with h | h
      · exact hv p (List.mem_filter.1 h).1
      · exact (hr.1 p h).2
    · exact hv p (List.mem_filter.1 h).1
  · refine List.pairwise_append.2 ⟨List.pairwise_append.2 ⟨hp.filter _, hr.2, fun p h q g => ?_⟩, hp.filter _, fun p h q g => ?_⟩
    · have := (hr.1 q g).1
      simp at h
      omega
    · simp at g
      rcases List.mem_append.1 h with h | h
      · simp at h
        omega
      · have := hb p h
        omega

/-- A write of bytes to control SRAM keeps its canonical form. -/
theorem sramSet_keeps_wf {s : State} (off : Nat) (bs : List Byte) (h : Memory.wf s.sram = true) :
    Memory.wf (s.sramSet off bs).sram = true := memSplice_keeps_wf off bs h

end Sys2Proof.Machine
end

