-- ==== Sys2Proof/Laws/Registers.lean ====
section
/-! SUPPORT. Registers and fields: what a read of one gives after a write of it or of another. -/

namespace Sys2Proof.Machine

@[simp] theorem reg_setReg_same (s : State) (a : Nat) (v : Word) : (s.setReg a v).reg a = v :=
  smapGet_smapSet_same _ _ _ _

theorem reg_setReg_ne (s : State) {a b : Nat} (v : Word) (h : b ≠ a) : (s.setReg a v).reg b = s.reg b :=
  smapGet_smapSet_ne _ _ _ h

/-- A register after a write to one. -/
theorem reg_setReg (s : State) (a b : Nat) (v : Word) : (s.setReg a v).reg b = if b = a then v else s.reg b := by
  split
  · rename_i h
    subst h
    simp
  · rename_i h
    exact reg_setReg_ne s v h

/-- A write of a field leaves the other registers alone. -/
theorem reg_setF_ne (s : State) {x : Fld} {b : Nat} (v : Nat) (h : b ≠ x.addr) : (s.setF x v).reg b = s.reg b :=
  reg_setReg_ne s _ h

theorem f_setReg_ne (s : State) {x : Fld} {a : Nat} (v : Word) (h : x.addr ≠ a) : (s.setReg a v).f x = s.f x := by
  simp only [State.f, reg_setReg_ne s v h]

/-- A field lies in its register. -/
abbrev Fld.ok (x : Fld) : Prop := x.lo ≤ x.hi ∧ x.hi < 32

/-- Two fields share no bit. -/
abbrev Fld.apart (x y : Fld) : Prop := x.addr ≠ y.addr ∨ x.hi < y.lo ∨ y.hi < x.lo

/-- The three parts of a word around a field. -/
theorem word_parts (n lo k : Nat) :
    n = n / 2 ^ (lo + k) * 2 ^ (lo + k) + n / 2 ^ lo % 2 ^ k * 2 ^ lo + n % 2 ^ lo := by
  have h1 := Nat.div_add_mod n (2 ^ lo)
  have h2 := Nat.div_add_mod (n / 2 ^ lo) (2 ^ k)
  rw [Nat.div_div_eq_div_mul, ← Nat.pow_add] at h2
  calc n = 2 ^ lo * (n / 2 ^ lo) + n % 2 ^ lo := h1.symm
    _ = 2 ^ lo * (2 ^ k * (n / 2 ^ (lo + k)) + n / 2 ^ lo % 2 ^ k) + n % 2 ^ lo := by rw [h2]
    _ = _ := by rw [Nat.pow_add]; ring

/-- The bits of a number, one at a time. -/
theorem testBit_wordSet (w : Word) (hi lo v i : Nat) (hx : lo ≤ hi ∧ hi < 32) :
    (wordSet w hi lo v).toNat.testBit i = if lo ≤ i ∧ i ≤ hi then v.testBit (i - lo) else w.toNat.testBit i := by
  set k := hi + 1 - lo with hk
  have hw := w.isLt
  have hp := word_parts w.toNat lo k
  have hv : v % 2 ^ k < 2 ^ k := Nat.mod_lt _ (by positivity)
  have hm : w.toNat / 2 ^ lo % 2 ^ k < 2 ^ k := Nat.mod_lt _ (by positivity)
  have hl : w.toNat % 2 ^ lo < 2 ^ lo := Nat.mod_lt _ (by positivity)
  set H := w.toNat / 2 ^ (lo + k) with hH
  have hval : w.toNat - wordFld w hi lo * 2 ^ lo + v % 2 ^ k * 2 ^ lo =
      2 ^ (lo + k) * H + (2 ^ lo * (v % 2 ^ k) + w.toNat % 2 ^ lo) := by
    have : wordFld w hi lo = w.toNat / 2 ^ lo % 2 ^ k := rfl
    rw [this]
    have h2 : w.toNat - w.toNat / 2 ^ lo % 2 ^ k * 2 ^ lo = H * 2 ^ (lo + k) + w.toNat % 2 ^ lo := by omega
    rw [h2]
    ring
  have hlow : 2 ^ lo * (v % 2 ^ k) + w.toNat % 2 ^ lo < 2 ^ (lo + k) := by
    rw [Nat.pow_add]
    calc 2 ^ lo * (v % 2 ^ k) + w.toNat % 2 ^ lo < 2 ^ lo * (v % 2 ^ k) + 2 ^ lo := by omega
      _ = 2 ^ lo * (v % 2 ^ k + 1) := by ring
      _ ≤ 2 ^ lo * 2 ^ k := Nat.mul_le_mul_left _ hv
  have hlt : 2 ^ (lo + k) * H + (2 ^ lo * (v % 2 ^ k) + w.toNat % 2 ^ lo) < 2 ^ 32 := by
    have hk32 : lo + k ≤ 32 := by omega
    have hH2 : H < 2 ^ (32 - (lo + k)) := by
      rw [hH, Nat.div_lt_iff_lt_mul (by positivity), ← Nat.pow_add]
      have : 32 - (lo + k) + (lo + k) = 32 := by omega
      rw [this]
      exact hw
    calc _ < 2 ^ (lo + k) * H + 2 ^ (lo + k) := by omega
      _ = 2 ^ (lo + k) * (H + 1) := by ring
      _ ≤ 2 ^ (lo + k) * 2 ^ (32 - (lo + k)) := Nat.mul_le_mul_left _ hH2
      _ = 2 ^ 32 := by rw [← Nat.pow_add]; congr 1; omega
  have hset : (wordSet w hi lo v).toNat = 2 ^ (lo + k) * H + (2 ^ lo * (v % 2 ^ k) + w.toNat % 2 ^ lo) := by
    unfold wordSet
    rw [BitVec.toNat_ofNat, ← hk, hval, Nat.mod_eq_of_lt hlt]
  rw [hset, Nat.testBit_two_pow_mul_add _ hlow]
  by_cases h1 : i < lo + k
  · rw [if_pos h1, Nat.testBit_two_pow_mul_add _ hl]
    by_cases h2 : i < lo
    · rw [if_pos h2, if_neg (by omega), Nat.testBit_mod_two_pow]
      simp [h2]
    · rw [if_neg h2, if_pos (by omega), Nat.testBit_mod_two_pow]
      have : i - lo < k := by omega
      simp [this]
  · rw [if_neg h1, if_neg (by omega), hH, Nat.testBit_div_two_pow]
    congr 1
    omega

/-- The bits of a field. -/
theorem testBit_wordFld (w : Word) (hi lo i : Nat) :
    (wordFld w hi lo).testBit i = (decide (i < hi + 1 - lo) && w.toNat.testBit (lo + i)) := by
  unfold wordFld
  rw [Nat.testBit_mod_two_pow, Nat.testBit_div_two_pow, Nat.add_comm i lo]

/-- A field reads as it was written, to its width. -/
theorem f_setF_same (s : State) (x : Fld) (v : Nat) (hx : x.ok) : (s.setF x v).f x = v % 2 ^ (x.hi + 1 - x.lo) := by
  unfold State.f State.setF
  rw [reg_setReg_same]
  apply Nat.eq_of_testBit_eq
  intro i
  rw [testBit_wordFld, testBit_wordSet _ _ _ _ _ hx, Nat.testBit_mod_two_pow]
  by_cases h : i < x.hi + 1 - x.lo
  · rw [if_pos (by omega)]
    simp [h]
  · simp [h]

/-- A write of a field leaves every field apart from it alone. -/
theorem f_setF_ne (s : State) {x y : Fld} (v : Nat) (hx : x.ok) (h : y.apart x) : (s.setF x v).f y = s.f y := by
  by_cases ha : y.addr = x.addr
  · have hd : y.hi < x.lo ∨ x.hi < y.lo := by
      rcases h with h | h
      · exact absurd ha h
      · exact h
    unfold State.f State.setF
    rw [ha, reg_setReg_same]
    apply Nat.eq_of_testBit_eq
    intro i
    rw [testBit_wordFld, testBit_wordFld, testBit_wordSet _ _ _ _ _ hx]
    by_cases hi : i < y.hi + 1 - y.lo
    · rw [if_neg (by omega)]
    · simp [hi]
  · unfold State.f
    rw [reg_setF_ne s v ha]

/-- A field stays below the bound its width gives. -/
theorem f_lt (s : State) (x : Fld) : s.f x < 2 ^ (x.hi + 1 - x.lo) := Nat.mod_lt _ (by positivity)

/-- A flag reads 1 once it is set. -/
theorem b_flag_same (s : State) (x : Fld) (hx : x.ok) : (s.flag x).b x = true := by
  unfold State.b State.flag
  rw [f_setF_same s x 1 hx]
  have : 1 < 2 ^ (x.hi + 1 - x.lo) := Nat.one_lt_two_pow (by omega)
  simp [Nat.mod_eq_of_lt this]

theorem b_setF_ne (s : State) {x y : Fld} (v : Nat) (hx : x.ok) (h : y.apart x) : (s.setF x v).b y = s.b y := by
  unfold State.b
  rw [f_setF_ne s v hx h]

/-! ## Partner words latched by a read -/

@[simp] theorem reg_setLatch (s : State) (a b : Nat) (v : Word) : (s.setLatch a v).reg b = s.reg b := rfl
@[simp] theorem reg_latchReg (s : State) (a b : Nat) : (s.latchReg a).reg b = s.reg b := rfl
@[simp] theorem reg_ret (s : State) (v : Word) (b : Nat) : (s.ret v).reg b = s.reg b := rfl
@[simp] theorem reg_busErr (s : State) (b : Nat) : s.busErr.reg b = s.reg b := rfl

/-! ## Units -/

@[simp] theorem vmod_getElem? {α : Type} {n : Nat} (v : Vector α n) (i j : Nat) (g : α → α) :
    (vmod v i g)[j]? = if i = j then v[j]?.map g else v[j]? := by
  unfold vmod
  split
  · rename_i x hx
    rw [Vector.getElem?_setIfInBounds]
    split
    · rename_i h
      subst h
      have : i < n := by
        rcases Nat.lt_or_ge i n with h | h
        · exact h
        · simp [Vector.getElem?_eq_none h] at hx
      rw [hx]
      simp [this]
    · rfl
  · rename_i hx
    split
    · rename_i h
      subst h
      simp [hx]
    · rfl

theorem eng_modEng_same (s : State) (e : Nat) (g : Engine → Engine) (h : e < 17) : (s.modEng e g).eng e = g (s.eng e) := by
  unfold State.eng State.modEng
  rw [vmod_getElem?, if_pos rfl]
  simp [h]

theorem eng_modEng_ne (s : State) {e j : Nat} (g : Engine → Engine) (h : j ≠ e) : (s.modEng e g).eng j = s.eng j := by
  simp [State.eng, State.modEng, Ne.symm h]

theorem le_modLe_same (s : State) (l : Nat) (g : LogEng → LogEng) (h : l < 16) : (s.modLe l g).le l = g (s.le l) := by
  unfold State.le State.modLe
  rw [vmod_getElem?, if_pos rfl]
  simp [h]

theorem le_modLe_ne (s : State) {l j : Nat} (g : LogEng → LogEng) (h : j ≠ l) : (s.modLe l g).le j = s.le j := by
  simp [State.le, State.modLe, Ne.symm h]

theorem dom_modDom_same (s : State) (d : Nat) (g : Domain → Domain) (h : d < 4) : (s.modDom d g).dom d = g (s.dom d) := by
  unfold State.dom State.modDom
  rw [vmod_getElem?, if_pos rfl]
  simp [h]

theorem dom_modDom_ne (s : State) {d j : Nat} (g : Domain → Domain) (h : j ≠ d) : (s.modDom d g).dom j = s.dom j := by
  simp [State.dom, State.modDom, Ne.symm h]

theorem mb_modMb_same (s : State) (m : Nat) (g : Mailbox → Mailbox) (h : m < 64) : (s.modMb m g).mb m = g (s.mb m) := by
  unfold State.mb State.modMb
  rw [vmod_getElem?, if_pos rfl]
  simp [h]

theorem mb_modMb_ne (s : State) {m j : Nat} (g : Mailbox → Mailbox) (h : j ≠ m) : (s.modMb m g).mb j = s.mb j := by
  simp [State.mb, State.modMb, Ne.symm h]

end Sys2Proof.Machine
end

