-- ==== Sys2Proof/Laws/State.lean ====
section
/-! SUPPORT. What each update of the state leaves alone: one lemma per field per update. -/

namespace Sys2Proof.Machine


/-! ## setReg -/

@[simp] theorem State.setReg_pending (s : State) (a : Nat) (v : Word) : (s.setReg a v).pending = s.pending := rfl
@[simp] theorem State.setReg_latch (s : State) (a : Nat) (v : Word) : (s.setReg a v).latch = s.latch := rfl
@[simp] theorem State.setReg_resp (s : State) (a : Nat) (v : Word) : (s.setReg a v).resp = s.resp := rfl
@[simp] theorem State.setReg_resps (s : State) (a : Nat) (v : Word) : (s.setReg a v).resps = s.resps := rfl
@[simp] theorem State.setReg_freeCtr (s : State) (a : Nat) (v : Word) : (s.setReg a v).freeCtr = s.freeCtr := rfl
@[simp] theorem State.setReg_now (s : State) (a : Nat) (v : Word) : (s.setReg a v).now = s.now := rfl
@[simp] theorem State.setReg_s0 (s : State) (a : Nat) (v : Word) : (s.setReg a v).s0 = s.s0 := rfl
@[simp] theorem State.setReg_sram (s : State) (a : Nat) (v : Word) : (s.setReg a v).sram = s.sram := rfl
@[simp] theorem State.setReg_sramBad (s : State) (a : Nat) (v : Word) : (s.setReg a v).sramBad = s.sramBad := rfl
@[simp] theorem State.setReg_sramSoft (s : State) (a : Nat) (v : Word) : (s.setReg a v).sramSoft = s.sramSoft := rfl
@[simp] theorem State.setReg_lds (s : State) (a : Nat) (v : Word) : (s.setReg a v).lds = s.lds := rfl
@[simp] theorem State.setReg_ldsBad (s : State) (a : Nat) (v : Word) : (s.setReg a v).ldsBad = s.ldsBad := rfl
@[simp] theorem State.setReg_ldsSoft (s : State) (a : Nat) (v : Word) : (s.setReg a v).ldsSoft = s.ldsSoft := rfl
@[simp] theorem State.setReg_engs (s : State) (a : Nat) (v : Word) : (s.setReg a v).engs = s.engs := rfl
@[simp] theorem State.setReg_les (s : State) (a : Nat) (v : Word) : (s.setReg a v).les = s.les := rfl
@[simp] theorem State.setReg_doms (s : State) (a : Nat) (v : Word) : (s.setReg a v).doms = s.doms := rfl
@[simp] theorem State.setReg_slotWr (s : State) (a : Nat) (v : Word) : (s.setReg a v).slotWr = s.slotWr := rfl
@[simp] theorem State.setReg_stg (s : State) (a : Nat) (v : Word) : (s.setReg a v).stg = s.stg := rfl
@[simp] theorem State.setReg_scu (s : State) (a : Nat) (v : Word) : (s.setReg a v).scu = s.scu := rfl
@[simp] theorem State.setReg_lehr (s : State) (a : Nat) (v : Word) : (s.setReg a v).lehr = s.lehr := rfl
@[simp] theorem State.setReg_pmu (s : State) (a : Nat) (v : Word) : (s.setReg a v).pmu = s.pmu := rfl
@[simp] theorem State.setReg_params (s : State) (a : Nat) (v : Word) : (s.setReg a v).params = s.params := rfl
@[simp] theorem State.setReg_log (s : State) (a : Nat) (v : Word) : (s.setReg a v).log = s.log := rfl
@[simp] theorem State.setReg_mbx (s : State) (a : Nat) (v : Word) : (s.setReg a v).mbx = s.mbx := rfl
@[simp] theorem State.setReg_tu (s : State) (a : Nat) (v : Word) : (s.setReg a v).tu = s.tu := rfl
@[simp] theorem State.setReg_acs (s : State) (a : Nat) (v : Word) : (s.setReg a v).acs = s.acs := rfl
@[simp] theorem State.setReg_mclk (s : State) (a : Nat) (v : Word) : (s.setReg a v).mclk = s.mclk := rfl
@[simp] theorem State.setReg_sysLoop (s : State) (a : Nat) (v : Word) : (s.setReg a v).sysLoop = s.sysLoop := rfl
@[simp] theorem State.setReg_uarts (s : State) (a : Nat) (v : Word) : (s.setReg a v).uarts = s.uarts := rfl
@[simp] theorem State.setReg_psc (s : State) (a : Nat) (v : Word) : (s.setReg a v).psc = s.psc := rfl
@[simp] theorem State.setReg_i2c (s : State) (a : Nat) (v : Word) : (s.setReg a v).i2c = s.i2c := rfl
@[simp] theorem State.setReg_hsp (s : State) (a : Nat) (v : Word) : (s.setReg a v).hsp = s.hsp := rfl
@[simp] theorem State.setReg_asps (s : State) (a : Nat) (v : Word) : (s.setReg a v).asps = s.asps := rfl
@[simp] theorem State.setReg_pdms (s : State) (a : Nat) (v : Word) : (s.setReg a v).pdms = s.pdms := rfl
@[simp] theorem State.setReg_iecRx (s : State) (a : Nat) (v : Word) : (s.setReg a v).iecRx = s.iecRx := rfl
@[simp] theorem State.setReg_iecTx (s : State) (a : Nat) (v : Word) : (s.setReg a v).iecTx = s.iecTx := rfl
@[simp] theorem State.setReg_srcs (s : State) (a : Nat) (v : Word) : (s.setReg a v).srcs = s.srcs := rfl
@[simp] theorem State.setReg_net (s : State) (a : Nat) (v : Word) : (s.setReg a v).net = s.net := rfl
@[simp] theorem State.setReg_fw (s : State) (a : Nat) (v : Word) : (s.setReg a v).fw = s.fw := rfl
@[simp] theorem State.setReg_flash (s : State) (a : Nat) (v : Word) : (s.setReg a v).flash = s.flash := rfl
@[simp] theorem State.setReg_journal (s : State) (a : Nat) (v : Word) : (s.setReg a v).journal = s.journal := rfl
@[simp] theorem State.setReg_sec (s : State) (a : Nat) (v : Word) : (s.setReg a v).sec = s.sec := rfl
@[simp] theorem State.setReg_rom (s : State) (a : Nat) (v : Word) : (s.setReg a v).rom = s.rom := rfl
@[simp] theorem State.setReg_ccs (s : State) (a : Nat) (v : Word) : (s.setReg a v).ccs = s.ccs := rfl
@[simp] theorem State.setReg_eccAddr (s : State) (a : Nat) (v : Word) : (s.setReg a v).eccAddr = s.eccAddr := rfl
@[simp] theorem State.setReg_eccCnt (s : State) (a : Nat) (v : Word) : (s.setReg a v).eccCnt = s.eccCnt := rfl
@[simp] theorem State.setReg_dma (s : State) (a : Nat) (v : Word) : (s.setReg a v).dma = s.dma := rfl
@[simp] theorem State.setReg_dmaLast (s : State) (a : Nat) (v : Word) : (s.setReg a v).dmaLast = s.dmaLast := rfl
@[simp] theorem State.setReg_dmaTurn (s : State) (a : Nat) (v : Word) : (s.setReg a v).dmaTurn = s.dmaTurn := rfl
@[simp] theorem State.setReg_irqs (s : State) (a : Nat) (v : Word) : (s.setReg a v).irqs = s.irqs := rfl
@[simp] theorem State.setReg_fuse (s : State) (a : Nat) (v : Word) : (s.setReg a v).fuse = s.fuse := rfl


/-! ## setF -/

@[simp] theorem State.setF_pending (s : State) (x : Fld) (v : Nat) : (s.setF x v).pending = s.pending := rfl
@[simp] theorem State.setF_latch (s : State) (x : Fld) (v : Nat) : (s.setF x v).latch = s.latch := rfl
@[simp] theorem State.setF_resp (s : State) (x : Fld) (v : Nat) : (s.setF x v).resp = s.resp := rfl
@[simp] theorem State.setF_resps (s : State) (x : Fld) (v : Nat) : (s.setF x v).resps = s.resps := rfl
@[simp] theorem State.setF_freeCtr (s : State) (x : Fld) (v : Nat) : (s.setF x v).freeCtr = s.freeCtr := rfl
@[simp] theorem State.setF_now (s : State) (x : Fld) (v : Nat) : (s.setF x v).now = s.now := rfl
@[simp] theorem State.setF_s0 (s : State) (x : Fld) (v : Nat) : (s.setF x v).s0 = s.s0 := rfl
@[simp] theorem State.setF_sram (s : State) (x : Fld) (v : Nat) : (s.setF x v).sram = s.sram := rfl
@[simp] theorem State.setF_sramBad (s : State) (x : Fld) (v : Nat) : (s.setF x v).sramBad = s.sramBad := rfl
@[simp] theorem State.setF_sramSoft (s : State) (x : Fld) (v : Nat) : (s.setF x v).sramSoft = s.sramSoft := rfl
@[simp] theorem State.setF_lds (s : State) (x : Fld) (v : Nat) : (s.setF x v).lds = s.lds := rfl
@[simp] theorem State.setF_ldsBad (s : State) (x : Fld) (v : Nat) : (s.setF x v).ldsBad = s.ldsBad := rfl
@[simp] theorem State.setF_ldsSoft (s : State) (x : Fld) (v : Nat) : (s.setF x v).ldsSoft = s.ldsSoft := rfl
@[simp] theorem State.setF_engs (s : State) (x : Fld) (v : Nat) : (s.setF x v).engs = s.engs := rfl
@[simp] theorem State.setF_les (s : State) (x : Fld) (v : Nat) : (s.setF x v).les = s.les := rfl
@[simp] theorem State.setF_doms (s : State) (x : Fld) (v : Nat) : (s.setF x v).doms = s.doms := rfl
@[simp] theorem State.setF_slotWr (s : State) (x : Fld) (v : Nat) : (s.setF x v).slotWr = s.slotWr := rfl
@[simp] theorem State.setF_stg (s : State) (x : Fld) (v : Nat) : (s.setF x v).stg = s.stg := rfl
@[simp] theorem State.setF_scu (s : State) (x : Fld) (v : Nat) : (s.setF x v).scu = s.scu := rfl
@[simp] theorem State.setF_lehr (s : State) (x : Fld) (v : Nat) : (s.setF x v).lehr = s.lehr := rfl
@[simp] theorem State.setF_pmu (s : State) (x : Fld) (v : Nat) : (s.setF x v).pmu = s.pmu := rfl
@[simp] theorem State.setF_params (s : State) (x : Fld) (v : Nat) : (s.setF x v).params = s.params := rfl
@[simp] theorem State.setF_log (s : State) (x : Fld) (v : Nat) : (s.setF x v).log = s.log := rfl
@[simp] theorem State.setF_mbx (s : State) (x : Fld) (v : Nat) : (s.setF x v).mbx = s.mbx := rfl
@[simp] theorem State.setF_tu (s : State) (x : Fld) (v : Nat) : (s.setF x v).tu = s.tu := rfl
@[simp] theorem State.setF_acs (s : State) (x : Fld) (v : Nat) : (s.setF x v).acs = s.acs := rfl
@[simp] theorem State.setF_mclk (s : State) (x : Fld) (v : Nat) : (s.setF x v).mclk = s.mclk := rfl
@[simp] theorem State.setF_sysLoop (s : State) (x : Fld) (v : Nat) : (s.setF x v).sysLoop = s.sysLoop := rfl
@[simp] theorem State.setF_uarts (s : State) (x : Fld) (v : Nat) : (s.setF x v).uarts = s.uarts := rfl
@[simp] theorem State.setF_psc (s : State) (x : Fld) (v : Nat) : (s.setF x v).psc = s.psc := rfl
@[simp] theorem State.setF_i2c (s : State) (x : Fld) (v : Nat) : (s.setF x v).i2c = s.i2c := rfl
@[simp] theorem State.setF_hsp (s : State) (x : Fld) (v : Nat) : (s.setF x v).hsp = s.hsp := rfl
@[simp] theorem State.setF_asps (s : State) (x : Fld) (v : Nat) : (s.setF x v).asps = s.asps := rfl
@[simp] theorem State.setF_pdms (s : State) (x : Fld) (v : Nat) : (s.setF x v).pdms = s.pdms := rfl
@[simp] theorem State.setF_iecRx (s : State) (x : Fld) (v : Nat) : (s.setF x v).iecRx = s.iecRx := rfl
@[simp] theorem State.setF_iecTx (s : State) (x : Fld) (v : Nat) : (s.setF x v).iecTx = s.iecTx := rfl
@[simp] theorem State.setF_srcs (s : State) (x : Fld) (v : Nat) : (s.setF x v).srcs = s.srcs := rfl
@[simp] theorem State.setF_net (s : State) (x : Fld) (v : Nat) : (s.setF x v).net = s.net := rfl
@[simp] theorem State.setF_fw (s : State) (x : Fld) (v : Nat) : (s.setF x v).fw = s.fw := rfl
@[simp] theorem State.setF_flash (s : State) (x : Fld) (v : Nat) : (s.setF x v).flash = s.flash := rfl
@[simp] theorem State.setF_journal (s : State) (x : Fld) (v : Nat) : (s.setF x v).journal = s.journal := rfl
@[simp] theorem State.setF_sec (s : State) (x : Fld) (v : Nat) : (s.setF x v).sec = s.sec := rfl
@[simp] theorem State.setF_rom (s : State) (x : Fld) (v : Nat) : (s.setF x v).rom = s.rom := rfl
@[simp] theorem State.setF_ccs (s : State) (x : Fld) (v : Nat) : (s.setF x v).ccs = s.ccs := rfl
@[simp] theorem State.setF_eccAddr (s : State) (x : Fld) (v : Nat) : (s.setF x v).eccAddr = s.eccAddr := rfl
@[simp] theorem State.setF_eccCnt (s : State) (x : Fld) (v : Nat) : (s.setF x v).eccCnt = s.eccCnt := rfl
@[simp] theorem State.setF_dma (s : State) (x : Fld) (v : Nat) : (s.setF x v).dma = s.dma := rfl
@[simp] theorem State.setF_dmaLast (s : State) (x : Fld) (v : Nat) : (s.setF x v).dmaLast = s.dmaLast := rfl
@[simp] theorem State.setF_dmaTurn (s : State) (x : Fld) (v : Nat) : (s.setF x v).dmaTurn = s.dmaTurn := rfl
@[simp] theorem State.setF_irqs (s : State) (x : Fld) (v : Nat) : (s.setF x v).irqs = s.irqs := rfl
@[simp] theorem State.setF_fuse (s : State) (x : Fld) (v : Nat) : (s.setF x v).fuse = s.fuse := rfl


/-! ## flag -/

@[simp] theorem State.flag_pending (s : State) (x : Fld) : (s.flag x).pending = s.pending := rfl
@[simp] theorem State.flag_latch (s : State) (x : Fld) : (s.flag x).latch = s.latch := rfl
@[simp] theorem State.flag_resp (s : State) (x : Fld) : (s.flag x).resp = s.resp := rfl
@[simp] theorem State.flag_resps (s : State) (x : Fld) : (s.flag x).resps = s.resps := rfl
@[simp] theorem State.flag_freeCtr (s : State) (x : Fld) : (s.flag x).freeCtr = s.freeCtr := rfl
@[simp] theorem State.flag_now (s : State) (x : Fld) : (s.flag x).now = s.now := rfl
@[simp] theorem State.flag_s0 (s : State) (x : Fld) : (s.flag x).s0 = s.s0 := rfl
@[simp] theorem State.flag_sram (s : State) (x : Fld) : (s.flag x).sram = s.sram := rfl
@[simp] theorem State.flag_sramBad (s : State) (x : Fld) : (s.flag x).sramBad = s.sramBad := rfl
@[simp] theorem State.flag_sramSoft (s : State) (x : Fld) : (s.flag x).sramSoft = s.sramSoft := rfl
@[simp] theorem State.flag_lds (s : State) (x : Fld) : (s.flag x).lds = s.lds := rfl
@[simp] theorem State.flag_ldsBad (s : State) (x : Fld) : (s.flag x).ldsBad = s.ldsBad := rfl
@[simp] theorem State.flag_ldsSoft (s : State) (x : Fld) : (s.flag x).ldsSoft = s.ldsSoft := rfl
@[simp] theorem State.flag_engs (s : State) (x : Fld) : (s.flag x).engs = s.engs := rfl
@[simp] theorem State.flag_les (s : State) (x : Fld) : (s.flag x).les = s.les := rfl
@[simp] theorem State.flag_doms (s : State) (x : Fld) : (s.flag x).doms = s.doms := rfl
@[simp] theorem State.flag_slotWr (s : State) (x : Fld) : (s.flag x).slotWr = s.slotWr := rfl
@[simp] theorem State.flag_stg (s : State) (x : Fld) : (s.flag x).stg = s.stg := rfl
@[simp] theorem State.flag_scu (s : State) (x : Fld) : (s.flag x).scu = s.scu := rfl
@[simp] theorem State.flag_lehr (s : State) (x : Fld) : (s.flag x).lehr = s.lehr := rfl
@[simp] theorem State.flag_pmu (s : State) (x : Fld) : (s.flag x).pmu = s.pmu := rfl
@[simp] theorem State.flag_params (s : State) (x : Fld) : (s.flag x).params = s.params := rfl
@[simp] theorem State.flag_log (s : State) (x : Fld) : (s.flag x).log = s.log := rfl
@[simp] theorem State.flag_mbx (s : State) (x : Fld) : (s.flag x).mbx = s.mbx := rfl
@[simp] theorem State.flag_tu (s : State) (x : Fld) : (s.flag x).tu = s.tu := rfl
@[simp] theorem State.flag_acs (s : State) (x : Fld) : (s.flag x).acs = s.acs := rfl
@[simp] theorem State.flag_mclk (s : State) (x : Fld) : (s.flag x).mclk = s.mclk := rfl
@[simp] theorem State.flag_sysLoop (s : State) (x : Fld) : (s.flag x).sysLoop = s.sysLoop := rfl
@[simp] theorem State.flag_uarts (s : State) (x : Fld) : (s.flag x).uarts = s.uarts := rfl
@[simp] theorem State.flag_psc (s : State) (x : Fld) : (s.flag x).psc = s.psc := rfl
@[simp] theorem State.flag_i2c (s : State) (x : Fld) : (s.flag x).i2c = s.i2c := rfl
@[simp] theorem State.flag_hsp (s : State) (x : Fld) : (s.flag x).hsp = s.hsp := rfl
@[simp] theorem State.flag_asps (s : State) (x : Fld) : (s.flag x).asps = s.asps := rfl
@[simp] theorem State.flag_pdms (s : State) (x : Fld) : (s.flag x).pdms = s.pdms := rfl
@[simp] theorem State.flag_iecRx (s : State) (x : Fld) : (s.flag x).iecRx = s.iecRx := rfl
@[simp] theorem State.flag_iecTx (s : State) (x : Fld) : (s.flag x).iecTx = s.iecTx := rfl
@[simp] theorem State.flag_srcs (s : State) (x : Fld) : (s.flag x).srcs = s.srcs := rfl
@[simp] theorem State.flag_net (s : State) (x : Fld) : (s.flag x).net = s.net := rfl
@[simp] theorem State.flag_fw (s : State) (x : Fld) : (s.flag x).fw = s.fw := rfl
@[simp] theorem State.flag_flash (s : State) (x : Fld) : (s.flag x).flash = s.flash := rfl
@[simp] theorem State.flag_journal (s : State) (x : Fld) : (s.flag x).journal = s.journal := rfl
@[simp] theorem State.flag_sec (s : State) (x : Fld) : (s.flag x).sec = s.sec := rfl
@[simp] theorem State.flag_rom (s : State) (x : Fld) : (s.flag x).rom = s.rom := rfl
@[simp] theorem State.flag_ccs (s : State) (x : Fld) : (s.flag x).ccs = s.ccs := rfl
@[simp] theorem State.flag_eccAddr (s : State) (x : Fld) : (s.flag x).eccAddr = s.eccAddr := rfl
@[simp] theorem State.flag_eccCnt (s : State) (x : Fld) : (s.flag x).eccCnt = s.eccCnt := rfl
@[simp] theorem State.flag_dma (s : State) (x : Fld) : (s.flag x).dma = s.dma := rfl
@[simp] theorem State.flag_dmaLast (s : State) (x : Fld) : (s.flag x).dmaLast = s.dmaLast := rfl
@[simp] theorem State.flag_dmaTurn (s : State) (x : Fld) : (s.flag x).dmaTurn = s.dmaTurn := rfl
@[simp] theorem State.flag_irqs (s : State) (x : Fld) : (s.flag x).irqs = s.irqs := rfl
@[simp] theorem State.flag_fuse (s : State) (x : Fld) : (s.flag x).fuse = s.fuse := rfl


/-! ## sat -/

@[simp] theorem State.sat_pending (s : State) (x : Fld) (n : Nat) : (s.sat x n).pending = s.pending := rfl
@[simp] theorem State.sat_latch (s : State) (x : Fld) (n : Nat) : (s.sat x n).latch = s.latch := rfl
@[simp] theorem State.sat_resp (s : State) (x : Fld) (n : Nat) : (s.sat x n).resp = s.resp := rfl
@[simp] theorem State.sat_resps (s : State) (x : Fld) (n : Nat) : (s.sat x n).resps = s.resps := rfl
@[simp] theorem State.sat_freeCtr (s : State) (x : Fld) (n : Nat) : (s.sat x n).freeCtr = s.freeCtr := rfl
@[simp] theorem State.sat_now (s : State) (x : Fld) (n : Nat) : (s.sat x n).now = s.now := rfl
@[simp] theorem State.sat_s0 (s : State) (x : Fld) (n : Nat) : (s.sat x n).s0 = s.s0 := rfl
@[simp] theorem State.sat_sram (s : State) (x : Fld) (n : Nat) : (s.sat x n).sram = s.sram := rfl
@[simp] theorem State.sat_sramBad (s : State) (x : Fld) (n : Nat) : (s.sat x n).sramBad = s.sramBad := rfl
@[simp] theorem State.sat_sramSoft (s : State) (x : Fld) (n : Nat) : (s.sat x n).sramSoft = s.sramSoft := rfl
@[simp] theorem State.sat_lds (s : State) (x : Fld) (n : Nat) : (s.sat x n).lds = s.lds := rfl
@[simp] theorem State.sat_ldsBad (s : State) (x : Fld) (n : Nat) : (s.sat x n).ldsBad = s.ldsBad := rfl
@[simp] theorem State.sat_ldsSoft (s : State) (x : Fld) (n : Nat) : (s.sat x n).ldsSoft = s.ldsSoft := rfl
@[simp] theorem State.sat_engs (s : State) (x : Fld) (n : Nat) : (s.sat x n).engs = s.engs := rfl
@[simp] theorem State.sat_les (s : State) (x : Fld) (n : Nat) : (s.sat x n).les = s.les := rfl
@[simp] theorem State.sat_doms (s : State) (x : Fld) (n : Nat) : (s.sat x n).doms = s.doms := rfl
@[simp] theorem State.sat_slotWr (s : State) (x : Fld) (n : Nat) : (s.sat x n).slotWr = s.slotWr := rfl
@[simp] theorem State.sat_stg (s : State) (x : Fld) (n : Nat) : (s.sat x n).stg = s.stg := rfl
@[simp] theorem State.sat_scu (s : State) (x : Fld) (n : Nat) : (s.sat x n).scu = s.scu := rfl
@[simp] theorem State.sat_lehr (s : State) (x : Fld) (n : Nat) : (s.sat x n).lehr = s.lehr := rfl
@[simp] theorem State.sat_pmu (s : State) (x : Fld) (n : Nat) : (s.sat x n).pmu = s.pmu := rfl
@[simp] theorem State.sat_params (s : State) (x : Fld) (n : Nat) : (s.sat x n).params = s.params := rfl
@[simp] theorem State.sat_log (s : State) (x : Fld) (n : Nat) : (s.sat x n).log = s.log := rfl
@[simp] theorem State.sat_mbx (s : State) (x : Fld) (n : Nat) : (s.sat x n).mbx = s.mbx := rfl
@[simp] theorem State.sat_tu (s : State) (x : Fld) (n : Nat) : (s.sat x n).tu = s.tu := rfl
@[simp] theorem State.sat_acs (s : State) (x : Fld) (n : Nat) : (s.sat x n).acs = s.acs := rfl
@[simp] theorem State.sat_mclk (s : State) (x : Fld) (n : Nat) : (s.sat x n).mclk = s.mclk := rfl
@[simp] theorem State.sat_sysLoop (s : State) (x : Fld) (n : Nat) : (s.sat x n).sysLoop = s.sysLoop := rfl
@[simp] theorem State.sat_uarts (s : State) (x : Fld) (n : Nat) : (s.sat x n).uarts = s.uarts := rfl
@[simp] theorem State.sat_psc (s : State) (x : Fld) (n : Nat) : (s.sat x n).psc = s.psc := rfl
@[simp] theorem State.sat_i2c (s : State) (x : Fld) (n : Nat) : (s.sat x n).i2c = s.i2c := rfl
@[simp] theorem State.sat_hsp (s : State) (x : Fld) (n : Nat) : (s.sat x n).hsp = s.hsp := rfl
@[simp] theorem State.sat_asps (s : State) (x : Fld) (n : Nat) : (s.sat x n).asps = s.asps := rfl
@[simp] theorem State.sat_pdms (s : State) (x : Fld) (n : Nat) : (s.sat x n).pdms = s.pdms := rfl
@[simp] theorem State.sat_iecRx (s : State) (x : Fld) (n : Nat) : (s.sat x n).iecRx = s.iecRx := rfl
@[simp] theorem State.sat_iecTx (s : State) (x : Fld) (n : Nat) : (s.sat x n).iecTx = s.iecTx := rfl
@[simp] theorem State.sat_srcs (s : State) (x : Fld) (n : Nat) : (s.sat x n).srcs = s.srcs := rfl
@[simp] theorem State.sat_net (s : State) (x : Fld) (n : Nat) : (s.sat x n).net = s.net := rfl
@[simp] theorem State.sat_fw (s : State) (x : Fld) (n : Nat) : (s.sat x n).fw = s.fw := rfl
@[simp] theorem State.sat_flash (s : State) (x : Fld) (n : Nat) : (s.sat x n).flash = s.flash := rfl
@[simp] theorem State.sat_journal (s : State) (x : Fld) (n : Nat) : (s.sat x n).journal = s.journal := rfl
@[simp] theorem State.sat_sec (s : State) (x : Fld) (n : Nat) : (s.sat x n).sec = s.sec := rfl
@[simp] theorem State.sat_rom (s : State) (x : Fld) (n : Nat) : (s.sat x n).rom = s.rom := rfl
@[simp] theorem State.sat_ccs (s : State) (x : Fld) (n : Nat) : (s.sat x n).ccs = s.ccs := rfl
@[simp] theorem State.sat_eccAddr (s : State) (x : Fld) (n : Nat) : (s.sat x n).eccAddr = s.eccAddr := rfl
@[simp] theorem State.sat_eccCnt (s : State) (x : Fld) (n : Nat) : (s.sat x n).eccCnt = s.eccCnt := rfl
@[simp] theorem State.sat_dma (s : State) (x : Fld) (n : Nat) : (s.sat x n).dma = s.dma := rfl
@[simp] theorem State.sat_dmaLast (s : State) (x : Fld) (n : Nat) : (s.sat x n).dmaLast = s.dmaLast := rfl
@[simp] theorem State.sat_dmaTurn (s : State) (x : Fld) (n : Nat) : (s.sat x n).dmaTurn = s.dmaTurn := rfl
@[simp] theorem State.sat_irqs (s : State) (x : Fld) (n : Nat) : (s.sat x n).irqs = s.irqs := rfl
@[simp] theorem State.sat_fuse (s : State) (x : Fld) (n : Nat) : (s.sat x n).fuse = s.fuse := rfl


/-! ## wrap -/

@[simp] theorem State.wrap_pending (s : State) (x : Fld) (n : Nat) : (s.wrap x n).pending = s.pending := rfl
@[simp] theorem State.wrap_latch (s : State) (x : Fld) (n : Nat) : (s.wrap x n).latch = s.latch := rfl
@[simp] theorem State.wrap_resp (s : State) (x : Fld) (n : Nat) : (s.wrap x n).resp = s.resp := rfl
@[simp] theorem State.wrap_resps (s : State) (x : Fld) (n : Nat) : (s.wrap x n).resps = s.resps := rfl
@[simp] theorem State.wrap_freeCtr (s : State) (x : Fld) (n : Nat) : (s.wrap x n).freeCtr = s.freeCtr := rfl
@[simp] theorem State.wrap_now (s : State) (x : Fld) (n : Nat) : (s.wrap x n).now = s.now := rfl
@[simp] theorem State.wrap_s0 (s : State) (x : Fld) (n : Nat) : (s.wrap x n).s0 = s.s0 := rfl
@[simp] theorem State.wrap_sram (s : State) (x : Fld) (n : Nat) : (s.wrap x n).sram = s.sram := rfl
@[simp] theorem State.wrap_sramBad (s : State) (x : Fld) (n : Nat) : (s.wrap x n).sramBad = s.sramBad := rfl
@[simp] theorem State.wrap_sramSoft (s : State) (x : Fld) (n : Nat) : (s.wrap x n).sramSoft = s.sramSoft := rfl
@[simp] theorem State.wrap_lds (s : State) (x : Fld) (n : Nat) : (s.wrap x n).lds = s.lds := rfl
@[simp] theorem State.wrap_ldsBad (s : State) (x : Fld) (n : Nat) : (s.wrap x n).ldsBad = s.ldsBad := rfl
@[simp] theorem State.wrap_ldsSoft (s : State) (x : Fld) (n : Nat) : (s.wrap x n).ldsSoft = s.ldsSoft := rfl
@[simp] theorem State.wrap_engs (s : State) (x : Fld) (n : Nat) : (s.wrap x n).engs = s.engs := rfl
@[simp] theorem State.wrap_les (s : State) (x : Fld) (n : Nat) : (s.wrap x n).les = s.les := rfl
@[simp] theorem State.wrap_doms (s : State) (x : Fld) (n : Nat) : (s.wrap x n).doms = s.doms := rfl
@[simp] theorem State.wrap_slotWr (s : State) (x : Fld) (n : Nat) : (s.wrap x n).slotWr = s.slotWr := rfl
@[simp] theorem State.wrap_stg (s : State) (x : Fld) (n : Nat) : (s.wrap x n).stg = s.stg := rfl
@[simp] theorem State.wrap_scu (s : State) (x : Fld) (n : Nat) : (s.wrap x n).scu = s.scu := rfl
@[simp] theorem State.wrap_lehr (s : State) (x : Fld) (n : Nat) : (s.wrap x n).lehr = s.lehr := rfl
@[simp] theorem State.wrap_pmu (s : State) (x : Fld) (n : Nat) : (s.wrap x n).pmu = s.pmu := rfl
@[simp] theorem State.wrap_params (s : State) (x : Fld) (n : Nat) : (s.wrap x n).params = s.params := rfl
@[simp] theorem State.wrap_log (s : State) (x : Fld) (n : Nat) : (s.wrap x n).log = s.log := rfl
@[simp] theorem State.wrap_mbx (s : State) (x : Fld) (n : Nat) : (s.wrap x n).mbx = s.mbx := rfl
@[simp] theorem State.wrap_tu (s : State) (x : Fld) (n : Nat) : (s.wrap x n).tu = s.tu := rfl
@[simp] theorem State.wrap_acs (s : State) (x : Fld) (n : Nat) : (s.wrap x n).acs = s.acs := rfl
@[simp] theorem State.wrap_mclk (s : State) (x : Fld) (n : Nat) : (s.wrap x n).mclk = s.mclk := rfl
@[simp] theorem State.wrap_sysLoop (s : State) (x : Fld) (n : Nat) : (s.wrap x n).sysLoop = s.sysLoop := rfl
@[simp] theorem State.wrap_uarts (s : State) (x : Fld) (n : Nat) : (s.wrap x n).uarts = s.uarts := rfl
@[simp] theorem State.wrap_psc (s : State) (x : Fld) (n : Nat) : (s.wrap x n).psc = s.psc := rfl
@[simp] theorem State.wrap_i2c (s : State) (x : Fld) (n : Nat) : (s.wrap x n).i2c = s.i2c := rfl
@[simp] theorem State.wrap_hsp (s : State) (x : Fld) (n : Nat) : (s.wrap x n).hsp = s.hsp := rfl
@[simp] theorem State.wrap_asps (s : State) (x : Fld) (n : Nat) : (s.wrap x n).asps = s.asps := rfl
@[simp] theorem State.wrap_pdms (s : State) (x : Fld) (n : Nat) : (s.wrap x n).pdms = s.pdms := rfl
@[simp] theorem State.wrap_iecRx (s : State) (x : Fld) (n : Nat) : (s.wrap x n).iecRx = s.iecRx := rfl
@[simp] theorem State.wrap_iecTx (s : State) (x : Fld) (n : Nat) : (s.wrap x n).iecTx = s.iecTx := rfl
@[simp] theorem State.wrap_srcs (s : State) (x : Fld) (n : Nat) : (s.wrap x n).srcs = s.srcs := rfl
@[simp] theorem State.wrap_net (s : State) (x : Fld) (n : Nat) : (s.wrap x n).net = s.net := rfl
@[simp] theorem State.wrap_fw (s : State) (x : Fld) (n : Nat) : (s.wrap x n).fw = s.fw := rfl
@[simp] theorem State.wrap_flash (s : State) (x : Fld) (n : Nat) : (s.wrap x n).flash = s.flash := rfl
@[simp] theorem State.wrap_journal (s : State) (x : Fld) (n : Nat) : (s.wrap x n).journal = s.journal := rfl
@[simp] theorem State.wrap_sec (s : State) (x : Fld) (n : Nat) : (s.wrap x n).sec = s.sec := rfl
@[simp] theorem State.wrap_rom (s : State) (x : Fld) (n : Nat) : (s.wrap x n).rom = s.rom := rfl
@[simp] theorem State.wrap_ccs (s : State) (x : Fld) (n : Nat) : (s.wrap x n).ccs = s.ccs := rfl
@[simp] theorem State.wrap_eccAddr (s : State) (x : Fld) (n : Nat) : (s.wrap x n).eccAddr = s.eccAddr := rfl
@[simp] theorem State.wrap_eccCnt (s : State) (x : Fld) (n : Nat) : (s.wrap x n).eccCnt = s.eccCnt := rfl
@[simp] theorem State.wrap_dma (s : State) (x : Fld) (n : Nat) : (s.wrap x n).dma = s.dma := rfl
@[simp] theorem State.wrap_dmaLast (s : State) (x : Fld) (n : Nat) : (s.wrap x n).dmaLast = s.dmaLast := rfl
@[simp] theorem State.wrap_dmaTurn (s : State) (x : Fld) (n : Nat) : (s.wrap x n).dmaTurn = s.dmaTurn := rfl
@[simp] theorem State.wrap_irqs (s : State) (x : Fld) (n : Nat) : (s.wrap x n).irqs = s.irqs := rfl
@[simp] theorem State.wrap_fuse (s : State) (x : Fld) (n : Nat) : (s.wrap x n).fuse = s.fuse := rfl


/-! ## setFbit -/

@[simp] theorem State.setFbit_pending (s : State) (x : Fld) (i : Nat) (v : Bool) : (s.setFbit x i v).pending = s.pending := rfl
@[simp] theorem State.setFbit_latch (s : State) (x : Fld) (i : Nat) (v : Bool) : (s.setFbit x i v).latch = s.latch := rfl
@[simp] theorem State.setFbit_resp (s : State) (x : Fld) (i : Nat) (v : Bool) : (s.setFbit x i v).resp = s.resp := rfl
@[simp] theorem State.setFbit_resps (s : State) (x : Fld) (i : Nat) (v : Bool) : (s.setFbit x i v).resps = s.resps := rfl
@[simp] theorem State.setFbit_freeCtr (s : State) (x : Fld) (i : Nat) (v : Bool) : (s.setFbit x i v).freeCtr = s.freeCtr := rfl
@[simp] theorem State.setFbit_now (s : State) (x : Fld) (i : Nat) (v : Bool) : (s.setFbit x i v).now = s.now := rfl
@[simp] theorem State.setFbit_s0 (s : State) (x : Fld) (i : Nat) (v : Bool) : (s.setFbit x i v).s0 = s.s0 := rfl
@[simp] theorem State.setFbit_sram (s : State) (x : Fld) (i : Nat) (v : Bool) : (s.setFbit x i v).sram = s.sram := rfl
@[simp] theorem State.setFbit_sramBad (s : State) (x : Fld) (i : Nat) (v : Bool) : (s.setFbit x i v).sramBad = s.sramBad := rfl
@[simp] theorem State.setFbit_sramSoft (s : State) (x : Fld) (i : Nat) (v : Bool) : (s.setFbit x i v).sramSoft = s.sramSoft := rfl
@[simp] theorem State.setFbit_lds (s : State) (x : Fld) (i : Nat) (v : Bool) : (s.setFbit x i v).lds = s.lds := rfl
@[simp] theorem State.setFbit_ldsBad (s : State) (x : Fld) (i : Nat) (v : Bool) : (s.setFbit x i v).ldsBad = s.ldsBad := rfl
@[simp] theorem State.setFbit_ldsSoft (s : State) (x : Fld) (i : Nat) (v : Bool) : (s.setFbit x i v).ldsSoft = s.ldsSoft := rfl
@[simp] theorem State.setFbit_engs (s : State) (x : Fld) (i : Nat) (v : Bool) : (s.setFbit x i v).engs = s.engs := rfl
@[simp] theorem State.setFbit_les (s : State) (x : Fld) (i : Nat) (v : Bool) : (s.setFbit x i v).les = s.les := rfl
@[simp] theorem State.setFbit_doms (s : State) (x : Fld) (i : Nat) (v : Bool) : (s.setFbit x i v).doms = s.doms := rfl
@[simp] theorem State.setFbit_slotWr (s : State) (x : Fld) (i : Nat) (v : Bool) : (s.setFbit x i v).slotWr = s.slotWr := rfl
@[simp] theorem State.setFbit_stg (s : State) (x : Fld) (i : Nat) (v : Bool) : (s.setFbit x i v).stg = s.stg := rfl
@[simp] theorem State.setFbit_scu (s : State) (x : Fld) (i : Nat) (v : Bool) : (s.setFbit x i v).scu = s.scu := rfl
@[simp] theorem State.setFbit_lehr (s : State) (x : Fld) (i : Nat) (v : Bool) : (s.setFbit x i v).lehr = s.lehr := rfl
@[simp] theorem State.setFbit_pmu (s : State) (x : Fld) (i : Nat) (v : Bool) : (s.setFbit x i v).pmu = s.pmu := rfl
@[simp] theorem State.setFbit_params (s : State) (x : Fld) (i : Nat) (v : Bool) : (s.setFbit x i v).params = s.params := rfl
@[simp] theorem State.setFbit_log (s : State) (x : Fld) (i : Nat) (v : Bool) : (s.setFbit x i v).log = s.log := rfl
@[simp] theorem State.setFbit_mbx (s : State) (x : Fld) (i : Nat) (v : Bool) : (s.setFbit x i v).mbx = s.mbx := rfl
@[simp] theorem State.setFbit_tu (s : State) (x : Fld) (i : Nat) (v : Bool) : (s.setFbit x i v).tu = s.tu := rfl
@[simp] theorem State.setFbit_acs (s : State) (x : Fld) (i : Nat) (v : Bool) : (s.setFbit x i v).acs = s.acs := rfl
@[simp] theorem State.setFbit_mclk (s : State) (x : Fld) (i : Nat) (v : Bool) : (s.setFbit x i v).mclk = s.mclk := rfl
@[simp] theorem State.setFbit_sysLoop (s : State) (x : Fld) (i : Nat) (v : Bool) : (s.setFbit x i v).sysLoop = s.sysLoop := rfl
@[simp] theorem State.setFbit_uarts (s : State) (x : Fld) (i : Nat) (v : Bool) : (s.setFbit x i v).uarts = s.uarts := rfl
@[simp] theorem State.setFbit_psc (s : State) (x : Fld) (i : Nat) (v : Bool) : (s.setFbit x i v).psc = s.psc := rfl
@[simp] theorem State.setFbit_i2c (s : State) (x : Fld) (i : Nat) (v : Bool) : (s.setFbit x i v).i2c = s.i2c := rfl
@[simp] theorem State.setFbit_hsp (s : State) (x : Fld) (i : Nat) (v : Bool) : (s.setFbit x i v).hsp = s.hsp := rfl
@[simp] theorem State.setFbit_asps (s : State) (x : Fld) (i : Nat) (v : Bool) : (s.setFbit x i v).asps = s.asps := rfl
@[simp] theorem State.setFbit_pdms (s : State) (x : Fld) (i : Nat) (v : Bool) : (s.setFbit x i v).pdms = s.pdms := rfl
@[simp] theorem State.setFbit_iecRx (s : State) (x : Fld) (i : Nat) (v : Bool) : (s.setFbit x i v).iecRx = s.iecRx := rfl
@[simp] theorem State.setFbit_iecTx (s : State) (x : Fld) (i : Nat) (v : Bool) : (s.setFbit x i v).iecTx = s.iecTx := rfl
@[simp] theorem State.setFbit_srcs (s : State) (x : Fld) (i : Nat) (v : Bool) : (s.setFbit x i v).srcs = s.srcs := rfl
@[simp] theorem State.setFbit_net (s : State) (x : Fld) (i : Nat) (v : Bool) : (s.setFbit x i v).net = s.net := rfl
@[simp] theorem State.setFbit_fw (s : State) (x : Fld) (i : Nat) (v : Bool) : (s.setFbit x i v).fw = s.fw := rfl
@[simp] theorem State.setFbit_flash (s : State) (x : Fld) (i : Nat) (v : Bool) : (s.setFbit x i v).flash = s.flash := rfl
@[simp] theorem State.setFbit_journal (s : State) (x : Fld) (i : Nat) (v : Bool) : (s.setFbit x i v).journal = s.journal := rfl
@[simp] theorem State.setFbit_sec (s : State) (x : Fld) (i : Nat) (v : Bool) : (s.setFbit x i v).sec = s.sec := rfl
@[simp] theorem State.setFbit_rom (s : State) (x : Fld) (i : Nat) (v : Bool) : (s.setFbit x i v).rom = s.rom := rfl
@[simp] theorem State.setFbit_ccs (s : State) (x : Fld) (i : Nat) (v : Bool) : (s.setFbit x i v).ccs = s.ccs := rfl
@[simp] theorem State.setFbit_eccAddr (s : State) (x : Fld) (i : Nat) (v : Bool) : (s.setFbit x i v).eccAddr = s.eccAddr := rfl
@[simp] theorem State.setFbit_eccCnt (s : State) (x : Fld) (i : Nat) (v : Bool) : (s.setFbit x i v).eccCnt = s.eccCnt := rfl
@[simp] theorem State.setFbit_dma (s : State) (x : Fld) (i : Nat) (v : Bool) : (s.setFbit x i v).dma = s.dma := rfl
@[simp] theorem State.setFbit_dmaLast (s : State) (x : Fld) (i : Nat) (v : Bool) : (s.setFbit x i v).dmaLast = s.dmaLast := rfl
@[simp] theorem State.setFbit_dmaTurn (s : State) (x : Fld) (i : Nat) (v : Bool) : (s.setFbit x i v).dmaTurn = s.dmaTurn := rfl
@[simp] theorem State.setFbit_irqs (s : State) (x : Fld) (i : Nat) (v : Bool) : (s.setFbit x i v).irqs = s.irqs := rfl
@[simp] theorem State.setFbit_fuse (s : State) (x : Fld) (i : Nat) (v : Bool) : (s.setFbit x i v).fuse = s.fuse := rfl


/-! ## setF2 -/

@[simp] theorem State.setF2_pending (s : State) (lo hi : Fld) (v : Nat) : (s.setF2 lo hi v).pending = s.pending := rfl
@[simp] theorem State.setF2_latch (s : State) (lo hi : Fld) (v : Nat) : (s.setF2 lo hi v).latch = s.latch := rfl
@[simp] theorem State.setF2_resp (s : State) (lo hi : Fld) (v : Nat) : (s.setF2 lo hi v).resp = s.resp := rfl
@[simp] theorem State.setF2_resps (s : State) (lo hi : Fld) (v : Nat) : (s.setF2 lo hi v).resps = s.resps := rfl
@[simp] theorem State.setF2_freeCtr (s : State) (lo hi : Fld) (v : Nat) : (s.setF2 lo hi v).freeCtr = s.freeCtr := rfl
@[simp] theorem State.setF2_now (s : State) (lo hi : Fld) (v : Nat) : (s.setF2 lo hi v).now = s.now := rfl
@[simp] theorem State.setF2_s0 (s : State) (lo hi : Fld) (v : Nat) : (s.setF2 lo hi v).s0 = s.s0 := rfl
@[simp] theorem State.setF2_sram (s : State) (lo hi : Fld) (v : Nat) : (s.setF2 lo hi v).sram = s.sram := rfl
@[simp] theorem State.setF2_sramBad (s : State) (lo hi : Fld) (v : Nat) : (s.setF2 lo hi v).sramBad = s.sramBad := rfl
@[simp] theorem State.setF2_sramSoft (s : State) (lo hi : Fld) (v : Nat) : (s.setF2 lo hi v).sramSoft = s.sramSoft := rfl
@[simp] theorem State.setF2_lds (s : State) (lo hi : Fld) (v : Nat) : (s.setF2 lo hi v).lds = s.lds := rfl
@[simp] theorem State.setF2_ldsBad (s : State) (lo hi : Fld) (v : Nat) : (s.setF2 lo hi v).ldsBad = s.ldsBad := rfl
@[simp] theorem State.setF2_ldsSoft (s : State) (lo hi : Fld) (v : Nat) : (s.setF2 lo hi v).ldsSoft = s.ldsSoft := rfl
@[simp] theorem State.setF2_engs (s : State) (lo hi : Fld) (v : Nat) : (s.setF2 lo hi v).engs = s.engs := rfl
@[simp] theorem State.setF2_les (s : State) (lo hi : Fld) (v : Nat) : (s.setF2 lo hi v).les = s.les := rfl
@[simp] theorem State.setF2_doms (s : State) (lo hi : Fld) (v : Nat) : (s.setF2 lo hi v).doms = s.doms := rfl
@[simp] theorem State.setF2_slotWr (s : State) (lo hi : Fld) (v : Nat) : (s.setF2 lo hi v).slotWr = s.slotWr := rfl
@[simp] theorem State.setF2_stg (s : State) (lo hi : Fld) (v : Nat) : (s.setF2 lo hi v).stg = s.stg := rfl
@[simp] theorem State.setF2_scu (s : State) (lo hi : Fld) (v : Nat) : (s.setF2 lo hi v).scu = s.scu := rfl
@[simp] theorem State.setF2_lehr (s : State) (lo hi : Fld) (v : Nat) : (s.setF2 lo hi v).lehr = s.lehr := rfl
@[simp] theorem State.setF2_pmu (s : State) (lo hi : Fld) (v : Nat) : (s.setF2 lo hi v).pmu = s.pmu := rfl
@[simp] theorem State.setF2_params (s : State) (lo hi : Fld) (v : Nat) : (s.setF2 lo hi v).params = s.params := rfl
@[simp] theorem State.setF2_log (s : State) (lo hi : Fld) (v : Nat) : (s.setF2 lo hi v).log = s.log := rfl
@[simp] theorem State.setF2_mbx (s : State) (lo hi : Fld) (v : Nat) : (s.setF2 lo hi v).mbx = s.mbx := rfl
@[simp] theorem State.setF2_tu (s : State) (lo hi : Fld) (v : Nat) : (s.setF2 lo hi v).tu = s.tu := rfl
@[simp] theorem State.setF2_acs (s : State) (lo hi : Fld) (v : Nat) : (s.setF2 lo hi v).acs = s.acs := rfl
@[simp] theorem State.setF2_mclk (s : State) (lo hi : Fld) (v : Nat) : (s.setF2 lo hi v).mclk = s.mclk := rfl
@[simp] theorem State.setF2_sysLoop (s : State) (lo hi : Fld) (v : Nat) : (s.setF2 lo hi v).sysLoop = s.sysLoop := rfl
@[simp] theorem State.setF2_uarts (s : State) (lo hi : Fld) (v : Nat) : (s.setF2 lo hi v).uarts = s.uarts := rfl
@[simp] theorem State.setF2_psc (s : State) (lo hi : Fld) (v : Nat) : (s.setF2 lo hi v).psc = s.psc := rfl
@[simp] theorem State.setF2_i2c (s : State) (lo hi : Fld) (v : Nat) : (s.setF2 lo hi v).i2c = s.i2c := rfl
@[simp] theorem State.setF2_hsp (s : State) (lo hi : Fld) (v : Nat) : (s.setF2 lo hi v).hsp = s.hsp := rfl
@[simp] theorem State.setF2_asps (s : State) (lo hi : Fld) (v : Nat) : (s.setF2 lo hi v).asps = s.asps := rfl
@[simp] theorem State.setF2_pdms (s : State) (lo hi : Fld) (v : Nat) : (s.setF2 lo hi v).pdms = s.pdms := rfl
@[simp] theorem State.setF2_iecRx (s : State) (lo hi : Fld) (v : Nat) : (s.setF2 lo hi v).iecRx = s.iecRx := rfl
@[simp] theorem State.setF2_iecTx (s : State) (lo hi : Fld) (v : Nat) : (s.setF2 lo hi v).iecTx = s.iecTx := rfl
@[simp] theorem State.setF2_srcs (s : State) (lo hi : Fld) (v : Nat) : (s.setF2 lo hi v).srcs = s.srcs := rfl
@[simp] theorem State.setF2_net (s : State) (lo hi : Fld) (v : Nat) : (s.setF2 lo hi v).net = s.net := rfl
@[simp] theorem State.setF2_fw (s : State) (lo hi : Fld) (v : Nat) : (s.setF2 lo hi v).fw = s.fw := rfl
@[simp] theorem State.setF2_flash (s : State) (lo hi : Fld) (v : Nat) : (s.setF2 lo hi v).flash = s.flash := rfl
@[simp] theorem State.setF2_journal (s : State) (lo hi : Fld) (v : Nat) : (s.setF2 lo hi v).journal = s.journal := rfl
@[simp] theorem State.setF2_sec (s : State) (lo hi : Fld) (v : Nat) : (s.setF2 lo hi v).sec = s.sec := rfl
@[simp] theorem State.setF2_rom (s : State) (lo hi : Fld) (v : Nat) : (s.setF2 lo hi v).rom = s.rom := rfl
@[simp] theorem State.setF2_ccs (s : State) (lo hi : Fld) (v : Nat) : (s.setF2 lo hi v).ccs = s.ccs := rfl
@[simp] theorem State.setF2_eccAddr (s : State) (lo hi : Fld) (v : Nat) : (s.setF2 lo hi v).eccAddr = s.eccAddr := rfl
@[simp] theorem State.setF2_eccCnt (s : State) (lo hi : Fld) (v : Nat) : (s.setF2 lo hi v).eccCnt = s.eccCnt := rfl
@[simp] theorem State.setF2_dma (s : State) (lo hi : Fld) (v : Nat) : (s.setF2 lo hi v).dma = s.dma := rfl
@[simp] theorem State.setF2_dmaLast (s : State) (lo hi : Fld) (v : Nat) : (s.setF2 lo hi v).dmaLast = s.dmaLast := rfl
@[simp] theorem State.setF2_dmaTurn (s : State) (lo hi : Fld) (v : Nat) : (s.setF2 lo hi v).dmaTurn = s.dmaTurn := rfl
@[simp] theorem State.setF2_irqs (s : State) (lo hi : Fld) (v : Nat) : (s.setF2 lo hi v).irqs = s.irqs := rfl
@[simp] theorem State.setF2_fuse (s : State) (lo hi : Fld) (v : Nat) : (s.setF2 lo hi v).fuse = s.fuse := rfl


/-! ## setOn -/

@[simp] theorem State.setOn_pending (s : State) (pd : Nat) (v : Bool) : (s.setOn pd v).pending = s.pending := rfl
@[simp] theorem State.setOn_latch (s : State) (pd : Nat) (v : Bool) : (s.setOn pd v).latch = s.latch := rfl
@[simp] theorem State.setOn_resp (s : State) (pd : Nat) (v : Bool) : (s.setOn pd v).resp = s.resp := rfl
@[simp] theorem State.setOn_resps (s : State) (pd : Nat) (v : Bool) : (s.setOn pd v).resps = s.resps := rfl
@[simp] theorem State.setOn_freeCtr (s : State) (pd : Nat) (v : Bool) : (s.setOn pd v).freeCtr = s.freeCtr := rfl
@[simp] theorem State.setOn_now (s : State) (pd : Nat) (v : Bool) : (s.setOn pd v).now = s.now := rfl
@[simp] theorem State.setOn_s0 (s : State) (pd : Nat) (v : Bool) : (s.setOn pd v).s0 = s.s0 := rfl
@[simp] theorem State.setOn_sram (s : State) (pd : Nat) (v : Bool) : (s.setOn pd v).sram = s.sram := rfl
@[simp] theorem State.setOn_sramBad (s : State) (pd : Nat) (v : Bool) : (s.setOn pd v).sramBad = s.sramBad := rfl
@[simp] theorem State.setOn_sramSoft (s : State) (pd : Nat) (v : Bool) : (s.setOn pd v).sramSoft = s.sramSoft := rfl
@[simp] theorem State.setOn_lds (s : State) (pd : Nat) (v : Bool) : (s.setOn pd v).lds = s.lds := rfl
@[simp] theorem State.setOn_ldsBad (s : State) (pd : Nat) (v : Bool) : (s.setOn pd v).ldsBad = s.ldsBad := rfl
@[simp] theorem State.setOn_ldsSoft (s : State) (pd : Nat) (v : Bool) : (s.setOn pd v).ldsSoft = s.ldsSoft := rfl
@[simp] theorem State.setOn_engs (s : State) (pd : Nat) (v : Bool) : (s.setOn pd v).engs = s.engs := rfl
@[simp] theorem State.setOn_les (s : State) (pd : Nat) (v : Bool) : (s.setOn pd v).les = s.les := rfl
@[simp] theorem State.setOn_doms (s : State) (pd : Nat) (v : Bool) : (s.setOn pd v).doms = s.doms := rfl
@[simp] theorem State.setOn_slotWr (s : State) (pd : Nat) (v : Bool) : (s.setOn pd v).slotWr = s.slotWr := rfl
@[simp] theorem State.setOn_stg (s : State) (pd : Nat) (v : Bool) : (s.setOn pd v).stg = s.stg := rfl
@[simp] theorem State.setOn_scu (s : State) (pd : Nat) (v : Bool) : (s.setOn pd v).scu = s.scu := rfl
@[simp] theorem State.setOn_lehr (s : State) (pd : Nat) (v : Bool) : (s.setOn pd v).lehr = s.lehr := rfl
@[simp] theorem State.setOn_pmu (s : State) (pd : Nat) (v : Bool) : (s.setOn pd v).pmu = s.pmu := rfl
@[simp] theorem State.setOn_params (s : State) (pd : Nat) (v : Bool) : (s.setOn pd v).params = s.params := rfl
@[simp] theorem State.setOn_log (s : State) (pd : Nat) (v : Bool) : (s.setOn pd v).log = s.log := rfl
@[simp] theorem State.setOn_mbx (s : State) (pd : Nat) (v : Bool) : (s.setOn pd v).mbx = s.mbx := rfl
@[simp] theorem State.setOn_tu (s : State) (pd : Nat) (v : Bool) : (s.setOn pd v).tu = s.tu := rfl
@[simp] theorem State.setOn_acs (s : State) (pd : Nat) (v : Bool) : (s.setOn pd v).acs = s.acs := rfl
@[simp] theorem State.setOn_mclk (s : State) (pd : Nat) (v : Bool) : (s.setOn pd v).mclk = s.mclk := rfl
@[simp] theorem State.setOn_sysLoop (s : State) (pd : Nat) (v : Bool) : (s.setOn pd v).sysLoop = s.sysLoop := rfl
@[simp] theorem State.setOn_uarts (s : State) (pd : Nat) (v : Bool) : (s.setOn pd v).uarts = s.uarts := rfl
@[simp] theorem State.setOn_psc (s : State) (pd : Nat) (v : Bool) : (s.setOn pd v).psc = s.psc := rfl
@[simp] theorem State.setOn_i2c (s : State) (pd : Nat) (v : Bool) : (s.setOn pd v).i2c = s.i2c := rfl
@[simp] theorem State.setOn_hsp (s : State) (pd : Nat) (v : Bool) : (s.setOn pd v).hsp = s.hsp := rfl
@[simp] theorem State.setOn_asps (s : State) (pd : Nat) (v : Bool) : (s.setOn pd v).asps = s.asps := rfl
@[simp] theorem State.setOn_pdms (s : State) (pd : Nat) (v : Bool) : (s.setOn pd v).pdms = s.pdms := rfl
@[simp] theorem State.setOn_iecRx (s : State) (pd : Nat) (v : Bool) : (s.setOn pd v).iecRx = s.iecRx := rfl
@[simp] theorem State.setOn_iecTx (s : State) (pd : Nat) (v : Bool) : (s.setOn pd v).iecTx = s.iecTx := rfl
@[simp] theorem State.setOn_srcs (s : State) (pd : Nat) (v : Bool) : (s.setOn pd v).srcs = s.srcs := rfl
@[simp] theorem State.setOn_net (s : State) (pd : Nat) (v : Bool) : (s.setOn pd v).net = s.net := rfl
@[simp] theorem State.setOn_fw (s : State) (pd : Nat) (v : Bool) : (s.setOn pd v).fw = s.fw := rfl
@[simp] theorem State.setOn_flash (s : State) (pd : Nat) (v : Bool) : (s.setOn pd v).flash = s.flash := rfl
@[simp] theorem State.setOn_journal (s : State) (pd : Nat) (v : Bool) : (s.setOn pd v).journal = s.journal := rfl
@[simp] theorem State.setOn_sec (s : State) (pd : Nat) (v : Bool) : (s.setOn pd v).sec = s.sec := rfl
@[simp] theorem State.setOn_rom (s : State) (pd : Nat) (v : Bool) : (s.setOn pd v).rom = s.rom := rfl
@[simp] theorem State.setOn_ccs (s : State) (pd : Nat) (v : Bool) : (s.setOn pd v).ccs = s.ccs := rfl
@[simp] theorem State.setOn_eccAddr (s : State) (pd : Nat) (v : Bool) : (s.setOn pd v).eccAddr = s.eccAddr := rfl
@[simp] theorem State.setOn_eccCnt (s : State) (pd : Nat) (v : Bool) : (s.setOn pd v).eccCnt = s.eccCnt := rfl
@[simp] theorem State.setOn_dma (s : State) (pd : Nat) (v : Bool) : (s.setOn pd v).dma = s.dma := rfl
@[simp] theorem State.setOn_dmaLast (s : State) (pd : Nat) (v : Bool) : (s.setOn pd v).dmaLast = s.dmaLast := rfl
@[simp] theorem State.setOn_dmaTurn (s : State) (pd : Nat) (v : Bool) : (s.setOn pd v).dmaTurn = s.dmaTurn := rfl
@[simp] theorem State.setOn_irqs (s : State) (pd : Nat) (v : Bool) : (s.setOn pd v).irqs = s.irqs := rfl
@[simp] theorem State.setOn_fuse (s : State) (pd : Nat) (v : Bool) : (s.setOn pd v).fuse = s.fuse := rfl


/-! ## resetBlock -/

@[simp] theorem State.resetBlock_pending (s : State) (base len : Nat) : (s.resetBlock base len).pending = s.pending := rfl
@[simp] theorem State.resetBlock_resp (s : State) (base len : Nat) : (s.resetBlock base len).resp = s.resp := rfl
@[simp] theorem State.resetBlock_resps (s : State) (base len : Nat) : (s.resetBlock base len).resps = s.resps := rfl
@[simp] theorem State.resetBlock_freeCtr (s : State) (base len : Nat) : (s.resetBlock base len).freeCtr = s.freeCtr := rfl
@[simp] theorem State.resetBlock_now (s : State) (base len : Nat) : (s.resetBlock base len).now = s.now := rfl
@[simp] theorem State.resetBlock_s0 (s : State) (base len : Nat) : (s.resetBlock base len).s0 = s.s0 := rfl
@[simp] theorem State.resetBlock_sram (s : State) (base len : Nat) : (s.resetBlock base len).sram = s.sram := rfl
@[simp] theorem State.resetBlock_sramBad (s : State) (base len : Nat) : (s.resetBlock base len).sramBad = s.sramBad := rfl
@[simp] theorem State.resetBlock_sramSoft (s : State) (base len : Nat) : (s.resetBlock base len).sramSoft = s.sramSoft := rfl
@[simp] theorem State.resetBlock_lds (s : State) (base len : Nat) : (s.resetBlock base len).lds = s.lds := rfl
@[simp] theorem State.resetBlock_ldsBad (s : State) (base len : Nat) : (s.resetBlock base len).ldsBad = s.ldsBad := rfl
@[simp] theorem State.resetBlock_ldsSoft (s : State) (base len : Nat) : (s.resetBlock base len).ldsSoft = s.ldsSoft := rfl
@[simp] theorem State.resetBlock_engs (s : State) (base len : Nat) : (s.resetBlock base len).engs = s.engs := rfl
@[simp] theorem State.resetBlock_les (s : State) (base len : Nat) : (s.resetBlock base len).les = s.les := rfl
@[simp] theorem State.resetBlock_doms (s : State) (base len : Nat) : (s.resetBlock base len).doms = s.doms := rfl
@[simp] theorem State.resetBlock_slotWr (s : State) (base len : Nat) : (s.resetBlock base len).slotWr = s.slotWr := rfl
@[simp] theorem State.resetBlock_stg (s : State) (base len : Nat) : (s.resetBlock base len).stg = s.stg := rfl
@[simp] theorem State.resetBlock_scu (s : State) (base len : Nat) : (s.resetBlock base len).scu = s.scu := rfl
@[simp] theorem State.resetBlock_lehr (s : State) (base len : Nat) : (s.resetBlock base len).lehr = s.lehr := rfl
@[simp] theorem State.resetBlock_pmu (s : State) (base len : Nat) : (s.resetBlock base len).pmu = s.pmu := rfl
@[simp] theorem State.resetBlock_params (s : State) (base len : Nat) : (s.resetBlock base len).params = s.params := rfl
@[simp] theorem State.resetBlock_log (s : State) (base len : Nat) : (s.resetBlock base len).log = s.log := rfl
@[simp] theorem State.resetBlock_mbx (s : State) (base len : Nat) : (s.resetBlock base len).mbx = s.mbx := rfl
@[simp] theorem State.resetBlock_tu (s : State) (base len : Nat) : (s.resetBlock base len).tu = s.tu := rfl
@[simp] theorem State.resetBlock_acs (s : State) (base len : Nat) : (s.resetBlock base len).acs = s.acs := rfl
@[simp] theorem State.resetBlock_mclk (s : State) (base len : Nat) : (s.resetBlock base len).mclk = s.mclk := rfl
@[simp] theorem State.resetBlock_sysLoop (s : State) (base len : Nat) : (s.resetBlock base len).sysLoop = s.sysLoop := rfl
@[simp] theorem State.resetBlock_uarts (s : State) (base len : Nat) : (s.resetBlock base len).uarts = s.uarts := rfl
@[simp] theorem State.resetBlock_psc (s : State) (base len : Nat) : (s.resetBlock base len).psc = s.psc := rfl
@[simp] theorem State.resetBlock_i2c (s : State) (base len : Nat) : (s.resetBlock base len).i2c = s.i2c := rfl
@[simp] theorem State.resetBlock_hsp (s : State) (base len : Nat) : (s.resetBlock base len).hsp = s.hsp := rfl
@[simp] theorem State.resetBlock_asps (s : State) (base len : Nat) : (s.resetBlock base len).asps = s.asps := rfl
@[simp] theorem State.resetBlock_pdms (s : State) (base len : Nat) : (s.resetBlock base len).pdms = s.pdms := rfl
@[simp] theorem State.resetBlock_iecRx (s : State) (base len : Nat) : (s.resetBlock base len).iecRx = s.iecRx := rfl
@[simp] theorem State.resetBlock_iecTx (s : State) (base len : Nat) : (s.resetBlock base len).iecTx = s.iecTx := rfl
@[simp] theorem State.resetBlock_srcs (s : State) (base len : Nat) : (s.resetBlock base len).srcs = s.srcs := rfl
@[simp] theorem State.resetBlock_net (s : State) (base len : Nat) : (s.resetBlock base len).net = s.net := rfl
@[simp] theorem State.resetBlock_fw (s : State) (base len : Nat) : (s.resetBlock base len).fw = s.fw := rfl
@[simp] theorem State.resetBlock_flash (s : State) (base len : Nat) : (s.resetBlock base len).flash = s.flash := rfl
@[simp] theorem State.resetBlock_journal (s : State) (base len : Nat) : (s.resetBlock base len).journal = s.journal := rfl
@[simp] theorem State.resetBlock_sec (s : State) (base len : Nat) : (s.resetBlock base len).sec = s.sec := rfl
@[simp] theorem State.resetBlock_rom (s : State) (base len : Nat) : (s.resetBlock base len).rom = s.rom := rfl
@[simp] theorem State.resetBlock_ccs (s : State) (base len : Nat) : (s.resetBlock base len).ccs = s.ccs := rfl
@[simp] theorem State.resetBlock_eccAddr (s : State) (base len : Nat) : (s.resetBlock base len).eccAddr = s.eccAddr := rfl
@[simp] theorem State.resetBlock_eccCnt (s : State) (base len : Nat) : (s.resetBlock base len).eccCnt = s.eccCnt := rfl
@[simp] theorem State.resetBlock_dma (s : State) (base len : Nat) : (s.resetBlock base len).dma = s.dma := rfl
@[simp] theorem State.resetBlock_dmaLast (s : State) (base len : Nat) : (s.resetBlock base len).dmaLast = s.dmaLast := rfl
@[simp] theorem State.resetBlock_dmaTurn (s : State) (base len : Nat) : (s.resetBlock base len).dmaTurn = s.dmaTurn := rfl
@[simp] theorem State.resetBlock_irqs (s : State) (base len : Nat) : (s.resetBlock base len).irqs = s.irqs := rfl
@[simp] theorem State.resetBlock_fuse (s : State) (base len : Nat) : (s.resetBlock base len).fuse = s.fuse := rfl


/-! ## setLatch -/

@[simp] theorem State.setLatch_pending (s : State) (a : Nat) (v : Word) : (s.setLatch a v).pending = s.pending := rfl
@[simp] theorem State.setLatch_regs (s : State) (a : Nat) (v : Word) : (s.setLatch a v).regs = s.regs := rfl
@[simp] theorem State.setLatch_resp (s : State) (a : Nat) (v : Word) : (s.setLatch a v).resp = s.resp := rfl
@[simp] theorem State.setLatch_resps (s : State) (a : Nat) (v : Word) : (s.setLatch a v).resps = s.resps := rfl
@[simp] theorem State.setLatch_freeCtr (s : State) (a : Nat) (v : Word) : (s.setLatch a v).freeCtr = s.freeCtr := rfl
@[simp] theorem State.setLatch_now (s : State) (a : Nat) (v : Word) : (s.setLatch a v).now = s.now := rfl
@[simp] theorem State.setLatch_s0 (s : State) (a : Nat) (v : Word) : (s.setLatch a v).s0 = s.s0 := rfl
@[simp] theorem State.setLatch_sram (s : State) (a : Nat) (v : Word) : (s.setLatch a v).sram = s.sram := rfl
@[simp] theorem State.setLatch_sramBad (s : State) (a : Nat) (v : Word) : (s.setLatch a v).sramBad = s.sramBad := rfl
@[simp] theorem State.setLatch_sramSoft (s : State) (a : Nat) (v : Word) : (s.setLatch a v).sramSoft = s.sramSoft := rfl
@[simp] theorem State.setLatch_lds (s : State) (a : Nat) (v : Word) : (s.setLatch a v).lds = s.lds := rfl
@[simp] theorem State.setLatch_ldsBad (s : State) (a : Nat) (v : Word) : (s.setLatch a v).ldsBad = s.ldsBad := rfl
@[simp] theorem State.setLatch_ldsSoft (s : State) (a : Nat) (v : Word) : (s.setLatch a v).ldsSoft = s.ldsSoft := rfl
@[simp] theorem State.setLatch_engs (s : State) (a : Nat) (v : Word) : (s.setLatch a v).engs = s.engs := rfl
@[simp] theorem State.setLatch_les (s : State) (a : Nat) (v : Word) : (s.setLatch a v).les = s.les := rfl
@[simp] theorem State.setLatch_doms (s : State) (a : Nat) (v : Word) : (s.setLatch a v).doms = s.doms := rfl
@[simp] theorem State.setLatch_slotWr (s : State) (a : Nat) (v : Word) : (s.setLatch a v).slotWr = s.slotWr := rfl
@[simp] theorem State.setLatch_stg (s : State) (a : Nat) (v : Word) : (s.setLatch a v).stg = s.stg := rfl
@[simp] theorem State.setLatch_scu (s : State) (a : Nat) (v : Word) : (s.setLatch a v).scu = s.scu := rfl
@[simp] theorem State.setLatch_lehr (s : State) (a : Nat) (v : Word) : (s.setLatch a v).lehr = s.lehr := rfl
@[simp] theorem State.setLatch_pmu (s : State) (a : Nat) (v : Word) : (s.setLatch a v).pmu = s.pmu := rfl
@[simp] theorem State.setLatch_params (s : State) (a : Nat) (v : Word) : (s.setLatch a v).params = s.params := rfl
@[simp] theorem State.setLatch_log (s : State) (a : Nat) (v : Word) : (s.setLatch a v).log = s.log := rfl
@[simp] theorem State.setLatch_mbx (s : State) (a : Nat) (v : Word) : (s.setLatch a v).mbx = s.mbx := rfl
@[simp] theorem State.setLatch_tu (s : State) (a : Nat) (v : Word) : (s.setLatch a v).tu = s.tu := rfl
@[simp] theorem State.setLatch_acs (s : State) (a : Nat) (v : Word) : (s.setLatch a v).acs = s.acs := rfl
@[simp] theorem State.setLatch_mclk (s : State) (a : Nat) (v : Word) : (s.setLatch a v).mclk = s.mclk := rfl
@[simp] theorem State.setLatch_sysLoop (s : State) (a : Nat) (v : Word) : (s.setLatch a v).sysLoop = s.sysLoop := rfl
@[simp] theorem State.setLatch_uarts (s : State) (a : Nat) (v : Word) : (s.setLatch a v).uarts = s.uarts := rfl
@[simp] theorem State.setLatch_psc (s : State) (a : Nat) (v : Word) : (s.setLatch a v).psc = s.psc := rfl
@[simp] theorem State.setLatch_i2c (s : State) (a : Nat) (v : Word) : (s.setLatch a v).i2c = s.i2c := rfl
@[simp] theorem State.setLatch_hsp (s : State) (a : Nat) (v : Word) : (s.setLatch a v).hsp = s.hsp := rfl
@[simp] theorem State.setLatch_asps (s : State) (a : Nat) (v : Word) : (s.setLatch a v).asps = s.asps := rfl
@[simp] theorem State.setLatch_pdms (s : State) (a : Nat) (v : Word) : (s.setLatch a v).pdms = s.pdms := rfl
@[simp] theorem State.setLatch_iecRx (s : State) (a : Nat) (v : Word) : (s.setLatch a v).iecRx = s.iecRx := rfl
@[simp] theorem State.setLatch_iecTx (s : State) (a : Nat) (v : Word) : (s.setLatch a v).iecTx = s.iecTx := rfl
@[simp] theorem State.setLatch_srcs (s : State) (a : Nat) (v : Word) : (s.setLatch a v).srcs = s.srcs := rfl
@[simp] theorem State.setLatch_net (s : State) (a : Nat) (v : Word) : (s.setLatch a v).net = s.net := rfl
@[simp] theorem State.setLatch_fw (s : State) (a : Nat) (v : Word) : (s.setLatch a v).fw = s.fw := rfl
@[simp] theorem State.setLatch_flash (s : State) (a : Nat) (v : Word) : (s.setLatch a v).flash = s.flash := rfl
@[simp] theorem State.setLatch_journal (s : State) (a : Nat) (v : Word) : (s.setLatch a v).journal = s.journal := rfl
@[simp] theorem State.setLatch_sec (s : State) (a : Nat) (v : Word) : (s.setLatch a v).sec = s.sec := rfl
@[simp] theorem State.setLatch_rom (s : State) (a : Nat) (v : Word) : (s.setLatch a v).rom = s.rom := rfl
@[simp] theorem State.setLatch_ccs (s : State) (a : Nat) (v : Word) : (s.setLatch a v).ccs = s.ccs := rfl
@[simp] theorem State.setLatch_eccAddr (s : State) (a : Nat) (v : Word) : (s.setLatch a v).eccAddr = s.eccAddr := rfl
@[simp] theorem State.setLatch_eccCnt (s : State) (a : Nat) (v : Word) : (s.setLatch a v).eccCnt = s.eccCnt := rfl
@[simp] theorem State.setLatch_dma (s : State) (a : Nat) (v : Word) : (s.setLatch a v).dma = s.dma := rfl
@[simp] theorem State.setLatch_dmaLast (s : State) (a : Nat) (v : Word) : (s.setLatch a v).dmaLast = s.dmaLast := rfl
@[simp] theorem State.setLatch_dmaTurn (s : State) (a : Nat) (v : Word) : (s.setLatch a v).dmaTurn = s.dmaTurn := rfl
@[simp] theorem State.setLatch_irqs (s : State) (a : Nat) (v : Word) : (s.setLatch a v).irqs = s.irqs := rfl
@[simp] theorem State.setLatch_fuse (s : State) (a : Nat) (v : Word) : (s.setLatch a v).fuse = s.fuse := rfl


/-! ## latchReg -/

@[simp] theorem State.latchReg_pending (s : State) (a : Nat) : (s.latchReg a).pending = s.pending := rfl
@[simp] theorem State.latchReg_regs (s : State) (a : Nat) : (s.latchReg a).regs = s.regs := rfl
@[simp] theorem State.latchReg_resp (s : State) (a : Nat) : (s.latchReg a).resp = s.resp := rfl
@[simp] theorem State.latchReg_resps (s : State) (a : Nat) : (s.latchReg a).resps = s.resps := rfl
@[simp] theorem State.latchReg_freeCtr (s : State) (a : Nat) : (s.latchReg a).freeCtr = s.freeCtr := rfl
@[simp] theorem State.latchReg_now (s : State) (a : Nat) : (s.latchReg a).now = s.now := rfl
@[simp] theorem State.latchReg_s0 (s : State) (a : Nat) : (s.latchReg a).s0 = s.s0 := rfl
@[simp] theorem State.latchReg_sram (s : State) (a : Nat) : (s.latchReg a).sram = s.sram := rfl
@[simp] theorem State.latchReg_sramBad (s : State) (a : Nat) : (s.latchReg a).sramBad = s.sramBad := rfl
@[simp] theorem State.latchReg_sramSoft (s : State) (a : Nat) : (s.latchReg a).sramSoft = s.sramSoft := rfl
@[simp] theorem State.latchReg_lds (s : State) (a : Nat) : (s.latchReg a).lds = s.lds := rfl
@[simp] theorem State.latchReg_ldsBad (s : State) (a : Nat) : (s.latchReg a).ldsBad = s.ldsBad := rfl
@[simp] theorem State.latchReg_ldsSoft (s : State) (a : Nat) : (s.latchReg a).ldsSoft = s.ldsSoft := rfl
@[simp] theorem State.latchReg_engs (s : State) (a : Nat) : (s.latchReg a).engs = s.engs := rfl
@[simp] theorem State.latchReg_les (s : State) (a : Nat) : (s.latchReg a).les = s.les := rfl
@[simp] theorem State.latchReg_doms (s : State) (a : Nat) : (s.latchReg a).doms = s.doms := rfl
@[simp] theorem State.latchReg_slotWr (s : State) (a : Nat) : (s.latchReg a).slotWr = s.slotWr := rfl
@[simp] theorem State.latchReg_stg (s : State) (a : Nat) : (s.latchReg a).stg = s.stg := rfl
@[simp] theorem State.latchReg_scu (s : State) (a : Nat) : (s.latchReg a).scu = s.scu := rfl
@[simp] theorem State.latchReg_lehr (s : State) (a : Nat) : (s.latchReg a).lehr = s.lehr := rfl
@[simp] theorem State.latchReg_pmu (s : State) (a : Nat) : (s.latchReg a).pmu = s.pmu := rfl
@[simp] theorem State.latchReg_params (s : State) (a : Nat) : (s.latchReg a).params = s.params := rfl
@[simp] theorem State.latchReg_log (s : State) (a : Nat) : (s.latchReg a).log = s.log := rfl
@[simp] theorem State.latchReg_mbx (s : State) (a : Nat) : (s.latchReg a).mbx = s.mbx := rfl
@[simp] theorem State.latchReg_tu (s : State) (a : Nat) : (s.latchReg a).tu = s.tu := rfl
@[simp] theorem State.latchReg_acs (s : State) (a : Nat) : (s.latchReg a).acs = s.acs := rfl
@[simp] theorem State.latchReg_mclk (s : State) (a : Nat) : (s.latchReg a).mclk = s.mclk := rfl
@[simp] theorem State.latchReg_sysLoop (s : State) (a : Nat) : (s.latchReg a).sysLoop = s.sysLoop := rfl
@[simp] theorem State.latchReg_uarts (s : State) (a : Nat) : (s.latchReg a).uarts = s.uarts := rfl
@[simp] theorem State.latchReg_psc (s : State) (a : Nat) : (s.latchReg a).psc = s.psc := rfl
@[simp] theorem State.latchReg_i2c (s : State) (a : Nat) : (s.latchReg a).i2c = s.i2c := rfl
@[simp] theorem State.latchReg_hsp (s : State) (a : Nat) : (s.latchReg a).hsp = s.hsp := rfl
@[simp] theorem State.latchReg_asps (s : State) (a : Nat) : (s.latchReg a).asps = s.asps := rfl
@[simp] theorem State.latchReg_pdms (s : State) (a : Nat) : (s.latchReg a).pdms = s.pdms := rfl
@[simp] theorem State.latchReg_iecRx (s : State) (a : Nat) : (s.latchReg a).iecRx = s.iecRx := rfl
@[simp] theorem State.latchReg_iecTx (s : State) (a : Nat) : (s.latchReg a).iecTx = s.iecTx := rfl
@[simp] theorem State.latchReg_srcs (s : State) (a : Nat) : (s.latchReg a).srcs = s.srcs := rfl
@[simp] theorem State.latchReg_net (s : State) (a : Nat) : (s.latchReg a).net = s.net := rfl
@[simp] theorem State.latchReg_fw (s : State) (a : Nat) : (s.latchReg a).fw = s.fw := rfl
@[simp] theorem State.latchReg_flash (s : State) (a : Nat) : (s.latchReg a).flash = s.flash := rfl
@[simp] theorem State.latchReg_journal (s : State) (a : Nat) : (s.latchReg a).journal = s.journal := rfl
@[simp] theorem State.latchReg_sec (s : State) (a : Nat) : (s.latchReg a).sec = s.sec := rfl
@[simp] theorem State.latchReg_rom (s : State) (a : Nat) : (s.latchReg a).rom = s.rom := rfl
@[simp] theorem State.latchReg_ccs (s : State) (a : Nat) : (s.latchReg a).ccs = s.ccs := rfl
@[simp] theorem State.latchReg_eccAddr (s : State) (a : Nat) : (s.latchReg a).eccAddr = s.eccAddr := rfl
@[simp] theorem State.latchReg_eccCnt (s : State) (a : Nat) : (s.latchReg a).eccCnt = s.eccCnt := rfl
@[simp] theorem State.latchReg_dma (s : State) (a : Nat) : (s.latchReg a).dma = s.dma := rfl
@[simp] theorem State.latchReg_dmaLast (s : State) (a : Nat) : (s.latchReg a).dmaLast = s.dmaLast := rfl
@[simp] theorem State.latchReg_dmaTurn (s : State) (a : Nat) : (s.latchReg a).dmaTurn = s.dmaTurn := rfl
@[simp] theorem State.latchReg_irqs (s : State) (a : Nat) : (s.latchReg a).irqs = s.irqs := rfl
@[simp] theorem State.latchReg_fuse (s : State) (a : Nat) : (s.latchReg a).fuse = s.fuse := rfl


/-! ## ret -/

@[simp] theorem State.ret_pending (s : State) (v : Word) : (s.ret v).pending = s.pending := rfl
@[simp] theorem State.ret_regs (s : State) (v : Word) : (s.ret v).regs = s.regs := rfl
@[simp] theorem State.ret_latch (s : State) (v : Word) : (s.ret v).latch = s.latch := rfl
@[simp] theorem State.ret_resps (s : State) (v : Word) : (s.ret v).resps = s.resps := rfl
@[simp] theorem State.ret_freeCtr (s : State) (v : Word) : (s.ret v).freeCtr = s.freeCtr := rfl
@[simp] theorem State.ret_now (s : State) (v : Word) : (s.ret v).now = s.now := rfl
@[simp] theorem State.ret_s0 (s : State) (v : Word) : (s.ret v).s0 = s.s0 := rfl
@[simp] theorem State.ret_sram (s : State) (v : Word) : (s.ret v).sram = s.sram := rfl
@[simp] theorem State.ret_sramBad (s : State) (v : Word) : (s.ret v).sramBad = s.sramBad := rfl
@[simp] theorem State.ret_sramSoft (s : State) (v : Word) : (s.ret v).sramSoft = s.sramSoft := rfl
@[simp] theorem State.ret_lds (s : State) (v : Word) : (s.ret v).lds = s.lds := rfl
@[simp] theorem State.ret_ldsBad (s : State) (v : Word) : (s.ret v).ldsBad = s.ldsBad := rfl
@[simp] theorem State.ret_ldsSoft (s : State) (v : Word) : (s.ret v).ldsSoft = s.ldsSoft := rfl
@[simp] theorem State.ret_engs (s : State) (v : Word) : (s.ret v).engs = s.engs := rfl
@[simp] theorem State.ret_les (s : State) (v : Word) : (s.ret v).les = s.les := rfl
@[simp] theorem State.ret_doms (s : State) (v : Word) : (s.ret v).doms = s.doms := rfl
@[simp] theorem State.ret_slotWr (s : State) (v : Word) : (s.ret v).slotWr = s.slotWr := rfl
@[simp] theorem State.ret_stg (s : State) (v : Word) : (s.ret v).stg = s.stg := rfl
@[simp] theorem State.ret_scu (s : State) (v : Word) : (s.ret v).scu = s.scu := rfl
@[simp] theorem State.ret_lehr (s : State) (v : Word) : (s.ret v).lehr = s.lehr := rfl
@[simp] theorem State.ret_pmu (s : State) (v : Word) : (s.ret v).pmu = s.pmu := rfl
@[simp] theorem State.ret_params (s : State) (v : Word) : (s.ret v).params = s.params := rfl
@[simp] theorem State.ret_log (s : State) (v : Word) : (s.ret v).log = s.log := rfl
@[simp] theorem State.ret_mbx (s : State) (v : Word) : (s.ret v).mbx = s.mbx := rfl
@[simp] theorem State.ret_tu (s : State) (v : Word) : (s.ret v).tu = s.tu := rfl
@[simp] theorem State.ret_acs (s : State) (v : Word) : (s.ret v).acs = s.acs := rfl
@[simp] theorem State.ret_mclk (s : State) (v : Word) : (s.ret v).mclk = s.mclk := rfl
@[simp] theorem State.ret_sysLoop (s : State) (v : Word) : (s.ret v).sysLoop = s.sysLoop := rfl
@[simp] theorem State.ret_uarts (s : State) (v : Word) : (s.ret v).uarts = s.uarts := rfl
@[simp] theorem State.ret_psc (s : State) (v : Word) : (s.ret v).psc = s.psc := rfl
@[simp] theorem State.ret_i2c (s : State) (v : Word) : (s.ret v).i2c = s.i2c := rfl
@[simp] theorem State.ret_hsp (s : State) (v : Word) : (s.ret v).hsp = s.hsp := rfl
@[simp] theorem State.ret_asps (s : State) (v : Word) : (s.ret v).asps = s.asps := rfl
@[simp] theorem State.ret_pdms (s : State) (v : Word) : (s.ret v).pdms = s.pdms := rfl
@[simp] theorem State.ret_iecRx (s : State) (v : Word) : (s.ret v).iecRx = s.iecRx := rfl
@[simp] theorem State.ret_iecTx (s : State) (v : Word) : (s.ret v).iecTx = s.iecTx := rfl
@[simp] theorem State.ret_srcs (s : State) (v : Word) : (s.ret v).srcs = s.srcs := rfl
@[simp] theorem State.ret_net (s : State) (v : Word) : (s.ret v).net = s.net := rfl
@[simp] theorem State.ret_fw (s : State) (v : Word) : (s.ret v).fw = s.fw := rfl
@[simp] theorem State.ret_flash (s : State) (v : Word) : (s.ret v).flash = s.flash := rfl
@[simp] theorem State.ret_journal (s : State) (v : Word) : (s.ret v).journal = s.journal := rfl
@[simp] theorem State.ret_sec (s : State) (v : Word) : (s.ret v).sec = s.sec := rfl
@[simp] theorem State.ret_rom (s : State) (v : Word) : (s.ret v).rom = s.rom := rfl
@[simp] theorem State.ret_ccs (s : State) (v : Word) : (s.ret v).ccs = s.ccs := rfl
@[simp] theorem State.ret_eccAddr (s : State) (v : Word) : (s.ret v).eccAddr = s.eccAddr := rfl
@[simp] theorem State.ret_eccCnt (s : State) (v : Word) : (s.ret v).eccCnt = s.eccCnt := rfl
@[simp] theorem State.ret_dma (s : State) (v : Word) : (s.ret v).dma = s.dma := rfl
@[simp] theorem State.ret_dmaLast (s : State) (v : Word) : (s.ret v).dmaLast = s.dmaLast := rfl
@[simp] theorem State.ret_dmaTurn (s : State) (v : Word) : (s.ret v).dmaTurn = s.dmaTurn := rfl
@[simp] theorem State.ret_irqs (s : State) (v : Word) : (s.ret v).irqs = s.irqs := rfl
@[simp] theorem State.ret_fuse (s : State) (v : Word) : (s.ret v).fuse = s.fuse := rfl


/-! ## busErr -/

@[simp] theorem State.busErr_pending (s : State) : s.busErr.pending = s.pending := rfl
@[simp] theorem State.busErr_regs (s : State) : s.busErr.regs = s.regs := rfl
@[simp] theorem State.busErr_latch (s : State) : s.busErr.latch = s.latch := rfl
@[simp] theorem State.busErr_resps (s : State) : s.busErr.resps = s.resps := rfl
@[simp] theorem State.busErr_freeCtr (s : State) : s.busErr.freeCtr = s.freeCtr := rfl
@[simp] theorem State.busErr_now (s : State) : s.busErr.now = s.now := rfl
@[simp] theorem State.busErr_s0 (s : State) : s.busErr.s0 = s.s0 := rfl
@[simp] theorem State.busErr_sram (s : State) : s.busErr.sram = s.sram := rfl
@[simp] theorem State.busErr_sramBad (s : State) : s.busErr.sramBad = s.sramBad := rfl
@[simp] theorem State.busErr_sramSoft (s : State) : s.busErr.sramSoft = s.sramSoft := rfl
@[simp] theorem State.busErr_lds (s : State) : s.busErr.lds = s.lds := rfl
@[simp] theorem State.busErr_ldsBad (s : State) : s.busErr.ldsBad = s.ldsBad := rfl
@[simp] theorem State.busErr_ldsSoft (s : State) : s.busErr.ldsSoft = s.ldsSoft := rfl
@[simp] theorem State.busErr_engs (s : State) : s.busErr.engs = s.engs := rfl
@[simp] theorem State.busErr_les (s : State) : s.busErr.les = s.les := rfl
@[simp] theorem State.busErr_doms (s : State) : s.busErr.doms = s.doms := rfl
@[simp] theorem State.busErr_slotWr (s : State) : s.busErr.slotWr = s.slotWr := rfl
@[simp] theorem State.busErr_stg (s : State) : s.busErr.stg = s.stg := rfl
@[simp] theorem State.busErr_scu (s : State) : s.busErr.scu = s.scu := rfl
@[simp] theorem State.busErr_lehr (s : State) : s.busErr.lehr = s.lehr := rfl
@[simp] theorem State.busErr_pmu (s : State) : s.busErr.pmu = s.pmu := rfl
@[simp] theorem State.busErr_params (s : State) : s.busErr.params = s.params := rfl
@[simp] theorem State.busErr_log (s : State) : s.busErr.log = s.log := rfl
@[simp] theorem State.busErr_mbx (s : State) : s.busErr.mbx = s.mbx := rfl
@[simp] theorem State.busErr_tu (s : State) : s.busErr.tu = s.tu := rfl
@[simp] theorem State.busErr_acs (s : State) : s.busErr.acs = s.acs := rfl
@[simp] theorem State.busErr_mclk (s : State) : s.busErr.mclk = s.mclk := rfl
@[simp] theorem State.busErr_sysLoop (s : State) : s.busErr.sysLoop = s.sysLoop := rfl
@[simp] theorem State.busErr_uarts (s : State) : s.busErr.uarts = s.uarts := rfl
@[simp] theorem State.busErr_psc (s : State) : s.busErr.psc = s.psc := rfl
@[simp] theorem State.busErr_i2c (s : State) : s.busErr.i2c = s.i2c := rfl
@[simp] theorem State.busErr_hsp (s : State) : s.busErr.hsp = s.hsp := rfl
@[simp] theorem State.busErr_asps (s : State) : s.busErr.asps = s.asps := rfl
@[simp] theorem State.busErr_pdms (s : State) : s.busErr.pdms = s.pdms := rfl
@[simp] theorem State.busErr_iecRx (s : State) : s.busErr.iecRx = s.iecRx := rfl
@[simp] theorem State.busErr_iecTx (s : State) : s.busErr.iecTx = s.iecTx := rfl
@[simp] theorem State.busErr_srcs (s : State) : s.busErr.srcs = s.srcs := rfl
@[simp] theorem State.busErr_net (s : State) : s.busErr.net = s.net := rfl
@[simp] theorem State.busErr_fw (s : State) : s.busErr.fw = s.fw := rfl
@[simp] theorem State.busErr_flash (s : State) : s.busErr.flash = s.flash := rfl
@[simp] theorem State.busErr_journal (s : State) : s.busErr.journal = s.journal := rfl
@[simp] theorem State.busErr_sec (s : State) : s.busErr.sec = s.sec := rfl
@[simp] theorem State.busErr_rom (s : State) : s.busErr.rom = s.rom := rfl
@[simp] theorem State.busErr_ccs (s : State) : s.busErr.ccs = s.ccs := rfl
@[simp] theorem State.busErr_eccAddr (s : State) : s.busErr.eccAddr = s.eccAddr := rfl
@[simp] theorem State.busErr_eccCnt (s : State) : s.busErr.eccCnt = s.eccCnt := rfl
@[simp] theorem State.busErr_dma (s : State) : s.busErr.dma = s.dma := rfl
@[simp] theorem State.busErr_dmaLast (s : State) : s.busErr.dmaLast = s.dmaLast := rfl
@[simp] theorem State.busErr_dmaTurn (s : State) : s.busErr.dmaTurn = s.dmaTurn := rfl
@[simp] theorem State.busErr_irqs (s : State) : s.busErr.irqs = s.irqs := rfl
@[simp] theorem State.busErr_fuse (s : State) : s.busErr.fuse = s.fuse := rfl


/-! ## modEng -/

@[simp] theorem State.modEng_pending (s : State) (e : Nat) (g : Engine → Engine) : (s.modEng e g).pending = s.pending := rfl
@[simp] theorem State.modEng_regs (s : State) (e : Nat) (g : Engine → Engine) : (s.modEng e g).regs = s.regs := rfl
@[simp] theorem State.modEng_latch (s : State) (e : Nat) (g : Engine → Engine) : (s.modEng e g).latch = s.latch := rfl
@[simp] theorem State.modEng_resp (s : State) (e : Nat) (g : Engine → Engine) : (s.modEng e g).resp = s.resp := rfl
@[simp] theorem State.modEng_resps (s : State) (e : Nat) (g : Engine → Engine) : (s.modEng e g).resps = s.resps := rfl
@[simp] theorem State.modEng_freeCtr (s : State) (e : Nat) (g : Engine → Engine) : (s.modEng e g).freeCtr = s.freeCtr := rfl
@[simp] theorem State.modEng_now (s : State) (e : Nat) (g : Engine → Engine) : (s.modEng e g).now = s.now := rfl
@[simp] theorem State.modEng_s0 (s : State) (e : Nat) (g : Engine → Engine) : (s.modEng e g).s0 = s.s0 := rfl
@[simp] theorem State.modEng_sram (s : State) (e : Nat) (g : Engine → Engine) : (s.modEng e g).sram = s.sram := rfl
@[simp] theorem State.modEng_sramBad (s : State) (e : Nat) (g : Engine → Engine) : (s.modEng e g).sramBad = s.sramBad := rfl
@[simp] theorem State.modEng_sramSoft (s : State) (e : Nat) (g : Engine → Engine) : (s.modEng e g).sramSoft = s.sramSoft := rfl
@[simp] theorem State.modEng_lds (s : State) (e : Nat) (g : Engine → Engine) : (s.modEng e g).lds = s.lds := rfl
@[simp] theorem State.modEng_ldsBad (s : State) (e : Nat) (g : Engine → Engine) : (s.modEng e g).ldsBad = s.ldsBad := rfl
@[simp] theorem State.modEng_ldsSoft (s : State) (e : Nat) (g : Engine → Engine) : (s.modEng e g).ldsSoft = s.ldsSoft := rfl
@[simp] theorem State.modEng_les (s : State) (e : Nat) (g : Engine → Engine) : (s.modEng e g).les = s.les := rfl
@[simp] theorem State.modEng_doms (s : State) (e : Nat) (g : Engine → Engine) : (s.modEng e g).doms = s.doms := rfl
@[simp] theorem State.modEng_slotWr (s : State) (e : Nat) (g : Engine → Engine) : (s.modEng e g).slotWr = s.slotWr := rfl
@[simp] theorem State.modEng_stg (s : State) (e : Nat) (g : Engine → Engine) : (s.modEng e g).stg = s.stg := rfl
@[simp] theorem State.modEng_scu (s : State) (e : Nat) (g : Engine → Engine) : (s.modEng e g).scu = s.scu := rfl
@[simp] theorem State.modEng_lehr (s : State) (e : Nat) (g : Engine → Engine) : (s.modEng e g).lehr = s.lehr := rfl
@[simp] theorem State.modEng_pmu (s : State) (e : Nat) (g : Engine → Engine) : (s.modEng e g).pmu = s.pmu := rfl
@[simp] theorem State.modEng_params (s : State) (e : Nat) (g : Engine → Engine) : (s.modEng e g).params = s.params := rfl
@[simp] theorem State.modEng_log (s : State) (e : Nat) (g : Engine → Engine) : (s.modEng e g).log = s.log := rfl
@[simp] theorem State.modEng_mbx (s : State) (e : Nat) (g : Engine → Engine) : (s.modEng e g).mbx = s.mbx := rfl
@[simp] theorem State.modEng_tu (s : State) (e : Nat) (g : Engine → Engine) : (s.modEng e g).tu = s.tu := rfl
@[simp] theorem State.modEng_acs (s : State) (e : Nat) (g : Engine → Engine) : (s.modEng e g).acs = s.acs := rfl
@[simp] theorem State.modEng_mclk (s : State) (e : Nat) (g : Engine → Engine) : (s.modEng e g).mclk = s.mclk := rfl
@[simp] theorem State.modEng_sysLoop (s : State) (e : Nat) (g : Engine → Engine) : (s.modEng e g).sysLoop = s.sysLoop := rfl
@[simp] theorem State.modEng_uarts (s : State) (e : Nat) (g : Engine → Engine) : (s.modEng e g).uarts = s.uarts := rfl
@[simp] theorem State.modEng_psc (s : State) (e : Nat) (g : Engine → Engine) : (s.modEng e g).psc = s.psc := rfl
@[simp] theorem State.modEng_i2c (s : State) (e : Nat) (g : Engine → Engine) : (s.modEng e g).i2c = s.i2c := rfl
@[simp] theorem State.modEng_hsp (s : State) (e : Nat) (g : Engine → Engine) : (s.modEng e g).hsp = s.hsp := rfl
@[simp] theorem State.modEng_asps (s : State) (e : Nat) (g : Engine → Engine) : (s.modEng e g).asps = s.asps := rfl
@[simp] theorem State.modEng_pdms (s : State) (e : Nat) (g : Engine → Engine) : (s.modEng e g).pdms = s.pdms := rfl
@[simp] theorem State.modEng_iecRx (s : State) (e : Nat) (g : Engine → Engine) : (s.modEng e g).iecRx = s.iecRx := rfl
@[simp] theorem State.modEng_iecTx (s : State) (e : Nat) (g : Engine → Engine) : (s.modEng e g).iecTx = s.iecTx := rfl
@[simp] theorem State.modEng_srcs (s : State) (e : Nat) (g : Engine → Engine) : (s.modEng e g).srcs = s.srcs := rfl
@[simp] theorem State.modEng_net (s : State) (e : Nat) (g : Engine → Engine) : (s.modEng e g).net = s.net := rfl
@[simp] theorem State.modEng_fw (s : State) (e : Nat) (g : Engine → Engine) : (s.modEng e g).fw = s.fw := rfl
@[simp] theorem State.modEng_flash (s : State) (e : Nat) (g : Engine → Engine) : (s.modEng e g).flash = s.flash := rfl
@[simp] theorem State.modEng_journal (s : State) (e : Nat) (g : Engine → Engine) : (s.modEng e g).journal = s.journal := rfl
@[simp] theorem State.modEng_sec (s : State) (e : Nat) (g : Engine → Engine) : (s.modEng e g).sec = s.sec := rfl
@[simp] theorem State.modEng_rom (s : State) (e : Nat) (g : Engine → Engine) : (s.modEng e g).rom = s.rom := rfl
@[simp] theorem State.modEng_ccs (s : State) (e : Nat) (g : Engine → Engine) : (s.modEng e g).ccs = s.ccs := rfl
@[simp] theorem State.modEng_eccAddr (s : State) (e : Nat) (g : Engine → Engine) : (s.modEng e g).eccAddr = s.eccAddr := rfl
@[simp] theorem State.modEng_eccCnt (s : State) (e : Nat) (g : Engine → Engine) : (s.modEng e g).eccCnt = s.eccCnt := rfl
@[simp] theorem State.modEng_dma (s : State) (e : Nat) (g : Engine → Engine) : (s.modEng e g).dma = s.dma := rfl
@[simp] theorem State.modEng_dmaLast (s : State) (e : Nat) (g : Engine → Engine) : (s.modEng e g).dmaLast = s.dmaLast := rfl
@[simp] theorem State.modEng_dmaTurn (s : State) (e : Nat) (g : Engine → Engine) : (s.modEng e g).dmaTurn = s.dmaTurn := rfl
@[simp] theorem State.modEng_irqs (s : State) (e : Nat) (g : Engine → Engine) : (s.modEng e g).irqs = s.irqs := rfl
@[simp] theorem State.modEng_fuse (s : State) (e : Nat) (g : Engine → Engine) : (s.modEng e g).fuse = s.fuse := rfl


/-! ## modLe -/

@[simp] theorem State.modLe_pending (s : State) (l : Nat) (g : LogEng → LogEng) : (s.modLe l g).pending = s.pending := rfl
@[simp] theorem State.modLe_regs (s : State) (l : Nat) (g : LogEng → LogEng) : (s.modLe l g).regs = s.regs := rfl
@[simp] theorem State.modLe_latch (s : State) (l : Nat) (g : LogEng → LogEng) : (s.modLe l g).latch = s.latch := rfl
@[simp] theorem State.modLe_resp (s : State) (l : Nat) (g : LogEng → LogEng) : (s.modLe l g).resp = s.resp := rfl
@[simp] theorem State.modLe_resps (s : State) (l : Nat) (g : LogEng → LogEng) : (s.modLe l g).resps = s.resps := rfl
@[simp] theorem State.modLe_freeCtr (s : State) (l : Nat) (g : LogEng → LogEng) : (s.modLe l g).freeCtr = s.freeCtr := rfl
@[simp] theorem State.modLe_now (s : State) (l : Nat) (g : LogEng → LogEng) : (s.modLe l g).now = s.now := rfl
@[simp] theorem State.modLe_s0 (s : State) (l : Nat) (g : LogEng → LogEng) : (s.modLe l g).s0 = s.s0 := rfl
@[simp] theorem State.modLe_sram (s : State) (l : Nat) (g : LogEng → LogEng) : (s.modLe l g).sram = s.sram := rfl
@[simp] theorem State.modLe_sramBad (s : State) (l : Nat) (g : LogEng → LogEng) : (s.modLe l g).sramBad = s.sramBad := rfl
@[simp] theorem State.modLe_sramSoft (s : State) (l : Nat) (g : LogEng → LogEng) : (s.modLe l g).sramSoft = s.sramSoft := rfl
@[simp] theorem State.modLe_lds (s : State) (l : Nat) (g : LogEng → LogEng) : (s.modLe l g).lds = s.lds := rfl
@[simp] theorem State.modLe_ldsBad (s : State) (l : Nat) (g : LogEng → LogEng) : (s.modLe l g).ldsBad = s.ldsBad := rfl
@[simp] theorem State.modLe_ldsSoft (s : State) (l : Nat) (g : LogEng → LogEng) : (s.modLe l g).ldsSoft = s.ldsSoft := rfl
@[simp] theorem State.modLe_engs (s : State) (l : Nat) (g : LogEng → LogEng) : (s.modLe l g).engs = s.engs := rfl
@[simp] theorem State.modLe_doms (s : State) (l : Nat) (g : LogEng → LogEng) : (s.modLe l g).doms = s.doms := rfl
@[simp] theorem State.modLe_slotWr (s : State) (l : Nat) (g : LogEng → LogEng) : (s.modLe l g).slotWr = s.slotWr := rfl
@[simp] theorem State.modLe_stg (s : State) (l : Nat) (g : LogEng → LogEng) : (s.modLe l g).stg = s.stg := rfl
@[simp] theorem State.modLe_scu (s : State) (l : Nat) (g : LogEng → LogEng) : (s.modLe l g).scu = s.scu := rfl
@[simp] theorem State.modLe_lehr (s : State) (l : Nat) (g : LogEng → LogEng) : (s.modLe l g).lehr = s.lehr := rfl
@[simp] theorem State.modLe_pmu (s : State) (l : Nat) (g : LogEng → LogEng) : (s.modLe l g).pmu = s.pmu := rfl
@[simp] theorem State.modLe_params (s : State) (l : Nat) (g : LogEng → LogEng) : (s.modLe l g).params = s.params := rfl
@[simp] theorem State.modLe_log (s : State) (l : Nat) (g : LogEng → LogEng) : (s.modLe l g).log = s.log := rfl
@[simp] theorem State.modLe_mbx (s : State) (l : Nat) (g : LogEng → LogEng) : (s.modLe l g).mbx = s.mbx := rfl
@[simp] theorem State.modLe_tu (s : State) (l : Nat) (g : LogEng → LogEng) : (s.modLe l g).tu = s.tu := rfl
@[simp] theorem State.modLe_acs (s : State) (l : Nat) (g : LogEng → LogEng) : (s.modLe l g).acs = s.acs := rfl
@[simp] theorem State.modLe_mclk (s : State) (l : Nat) (g : LogEng → LogEng) : (s.modLe l g).mclk = s.mclk := rfl
@[simp] theorem State.modLe_sysLoop (s : State) (l : Nat) (g : LogEng → LogEng) : (s.modLe l g).sysLoop = s.sysLoop := rfl
@[simp] theorem State.modLe_uarts (s : State) (l : Nat) (g : LogEng → LogEng) : (s.modLe l g).uarts = s.uarts := rfl
@[simp] theorem State.modLe_psc (s : State) (l : Nat) (g : LogEng → LogEng) : (s.modLe l g).psc = s.psc := rfl
@[simp] theorem State.modLe_i2c (s : State) (l : Nat) (g : LogEng → LogEng) : (s.modLe l g).i2c = s.i2c := rfl
@[simp] theorem State.modLe_hsp (s : State) (l : Nat) (g : LogEng → LogEng) : (s.modLe l g).hsp = s.hsp := rfl
@[simp] theorem State.modLe_asps (s : State) (l : Nat) (g : LogEng → LogEng) : (s.modLe l g).asps = s.asps := rfl
@[simp] theorem State.modLe_pdms (s : State) (l : Nat) (g : LogEng → LogEng) : (s.modLe l g).pdms = s.pdms := rfl
@[simp] theorem State.modLe_iecRx (s : State) (l : Nat) (g : LogEng → LogEng) : (s.modLe l g).iecRx = s.iecRx := rfl
@[simp] theorem State.modLe_iecTx (s : State) (l : Nat) (g : LogEng → LogEng) : (s.modLe l g).iecTx = s.iecTx := rfl
@[simp] theorem State.modLe_srcs (s : State) (l : Nat) (g : LogEng → LogEng) : (s.modLe l g).srcs = s.srcs := rfl
@[simp] theorem State.modLe_net (s : State) (l : Nat) (g : LogEng → LogEng) : (s.modLe l g).net = s.net := rfl
@[simp] theorem State.modLe_fw (s : State) (l : Nat) (g : LogEng → LogEng) : (s.modLe l g).fw = s.fw := rfl
@[simp] theorem State.modLe_flash (s : State) (l : Nat) (g : LogEng → LogEng) : (s.modLe l g).flash = s.flash := rfl
@[simp] theorem State.modLe_journal (s : State) (l : Nat) (g : LogEng → LogEng) : (s.modLe l g).journal = s.journal := rfl
@[simp] theorem State.modLe_sec (s : State) (l : Nat) (g : LogEng → LogEng) : (s.modLe l g).sec = s.sec := rfl
@[simp] theorem State.modLe_rom (s : State) (l : Nat) (g : LogEng → LogEng) : (s.modLe l g).rom = s.rom := rfl
@[simp] theorem State.modLe_ccs (s : State) (l : Nat) (g : LogEng → LogEng) : (s.modLe l g).ccs = s.ccs := rfl
@[simp] theorem State.modLe_eccAddr (s : State) (l : Nat) (g : LogEng → LogEng) : (s.modLe l g).eccAddr = s.eccAddr := rfl
@[simp] theorem State.modLe_eccCnt (s : State) (l : Nat) (g : LogEng → LogEng) : (s.modLe l g).eccCnt = s.eccCnt := rfl
@[simp] theorem State.modLe_dma (s : State) (l : Nat) (g : LogEng → LogEng) : (s.modLe l g).dma = s.dma := rfl
@[simp] theorem State.modLe_dmaLast (s : State) (l : Nat) (g : LogEng → LogEng) : (s.modLe l g).dmaLast = s.dmaLast := rfl
@[simp] theorem State.modLe_dmaTurn (s : State) (l : Nat) (g : LogEng → LogEng) : (s.modLe l g).dmaTurn = s.dmaTurn := rfl
@[simp] theorem State.modLe_irqs (s : State) (l : Nat) (g : LogEng → LogEng) : (s.modLe l g).irqs = s.irqs := rfl
@[simp] theorem State.modLe_fuse (s : State) (l : Nat) (g : LogEng → LogEng) : (s.modLe l g).fuse = s.fuse := rfl


/-! ## modDom -/

@[simp] theorem State.modDom_pending (s : State) (d : Nat) (g : Domain → Domain) : (s.modDom d g).pending = s.pending := rfl
@[simp] theorem State.modDom_regs (s : State) (d : Nat) (g : Domain → Domain) : (s.modDom d g).regs = s.regs := rfl
@[simp] theorem State.modDom_latch (s : State) (d : Nat) (g : Domain → Domain) : (s.modDom d g).latch = s.latch := rfl
@[simp] theorem State.modDom_resp (s : State) (d : Nat) (g : Domain → Domain) : (s.modDom d g).resp = s.resp := rfl
@[simp] theorem State.modDom_resps (s : State) (d : Nat) (g : Domain → Domain) : (s.modDom d g).resps = s.resps := rfl
@[simp] theorem State.modDom_freeCtr (s : State) (d : Nat) (g : Domain → Domain) : (s.modDom d g).freeCtr = s.freeCtr := rfl
@[simp] theorem State.modDom_now (s : State) (d : Nat) (g : Domain → Domain) : (s.modDom d g).now = s.now := rfl
@[simp] theorem State.modDom_s0 (s : State) (d : Nat) (g : Domain → Domain) : (s.modDom d g).s0 = s.s0 := rfl
@[simp] theorem State.modDom_sram (s : State) (d : Nat) (g : Domain → Domain) : (s.modDom d g).sram = s.sram := rfl
@[simp] theorem State.modDom_sramBad (s : State) (d : Nat) (g : Domain → Domain) : (s.modDom d g).sramBad = s.sramBad := rfl
@[simp] theorem State.modDom_sramSoft (s : State) (d : Nat) (g : Domain → Domain) : (s.modDom d g).sramSoft = s.sramSoft := rfl
@[simp] theorem State.modDom_lds (s : State) (d : Nat) (g : Domain → Domain) : (s.modDom d g).lds = s.lds := rfl
@[simp] theorem State.modDom_ldsBad (s : State) (d : Nat) (g : Domain → Domain) : (s.modDom d g).ldsBad = s.ldsBad := rfl
@[simp] theorem State.modDom_ldsSoft (s : State) (d : Nat) (g : Domain → Domain) : (s.modDom d g).ldsSoft = s.ldsSoft := rfl
@[simp] theorem State.modDom_engs (s : State) (d : Nat) (g : Domain → Domain) : (s.modDom d g).engs = s.engs := rfl
@[simp] theorem State.modDom_les (s : State) (d : Nat) (g : Domain → Domain) : (s.modDom d g).les = s.les := rfl
@[simp] theorem State.modDom_slotWr (s : State) (d : Nat) (g : Domain → Domain) : (s.modDom d g).slotWr = s.slotWr := rfl
@[simp] theorem State.modDom_stg (s : State) (d : Nat) (g : Domain → Domain) : (s.modDom d g).stg = s.stg := rfl
@[simp] theorem State.modDom_scu (s : State) (d : Nat) (g : Domain → Domain) : (s.modDom d g).scu = s.scu := rfl
@[simp] theorem State.modDom_lehr (s : State) (d : Nat) (g : Domain → Domain) : (s.modDom d g).lehr = s.lehr := rfl
@[simp] theorem State.modDom_pmu (s : State) (d : Nat) (g : Domain → Domain) : (s.modDom d g).pmu = s.pmu := rfl
@[simp] theorem State.modDom_params (s : State) (d : Nat) (g : Domain → Domain) : (s.modDom d g).params = s.params := rfl
@[simp] theorem State.modDom_log (s : State) (d : Nat) (g : Domain → Domain) : (s.modDom d g).log = s.log := rfl
@[simp] theorem State.modDom_mbx (s : State) (d : Nat) (g : Domain → Domain) : (s.modDom d g).mbx = s.mbx := rfl
@[simp] theorem State.modDom_tu (s : State) (d : Nat) (g : Domain → Domain) : (s.modDom d g).tu = s.tu := rfl
@[simp] theorem State.modDom_acs (s : State) (d : Nat) (g : Domain → Domain) : (s.modDom d g).acs = s.acs := rfl
@[simp] theorem State.modDom_mclk (s : State) (d : Nat) (g : Domain → Domain) : (s.modDom d g).mclk = s.mclk := rfl
@[simp] theorem State.modDom_sysLoop (s : State) (d : Nat) (g : Domain → Domain) : (s.modDom d g).sysLoop = s.sysLoop := rfl
@[simp] theorem State.modDom_uarts (s : State) (d : Nat) (g : Domain → Domain) : (s.modDom d g).uarts = s.uarts := rfl
@[simp] theorem State.modDom_psc (s : State) (d : Nat) (g : Domain → Domain) : (s.modDom d g).psc = s.psc := rfl
@[simp] theorem State.modDom_i2c (s : State) (d : Nat) (g : Domain → Domain) : (s.modDom d g).i2c = s.i2c := rfl
@[simp] theorem State.modDom_hsp (s : State) (d : Nat) (g : Domain → Domain) : (s.modDom d g).hsp = s.hsp := rfl
@[simp] theorem State.modDom_asps (s : State) (d : Nat) (g : Domain → Domain) : (s.modDom d g).asps = s.asps := rfl
@[simp] theorem State.modDom_pdms (s : State) (d : Nat) (g : Domain → Domain) : (s.modDom d g).pdms = s.pdms := rfl
@[simp] theorem State.modDom_iecRx (s : State) (d : Nat) (g : Domain → Domain) : (s.modDom d g).iecRx = s.iecRx := rfl
@[simp] theorem State.modDom_iecTx (s : State) (d : Nat) (g : Domain → Domain) : (s.modDom d g).iecTx = s.iecTx := rfl
@[simp] theorem State.modDom_srcs (s : State) (d : Nat) (g : Domain → Domain) : (s.modDom d g).srcs = s.srcs := rfl
@[simp] theorem State.modDom_net (s : State) (d : Nat) (g : Domain → Domain) : (s.modDom d g).net = s.net := rfl
@[simp] theorem State.modDom_fw (s : State) (d : Nat) (g : Domain → Domain) : (s.modDom d g).fw = s.fw := rfl
@[simp] theorem State.modDom_flash (s : State) (d : Nat) (g : Domain → Domain) : (s.modDom d g).flash = s.flash := rfl
@[simp] theorem State.modDom_journal (s : State) (d : Nat) (g : Domain → Domain) : (s.modDom d g).journal = s.journal := rfl
@[simp] theorem State.modDom_sec (s : State) (d : Nat) (g : Domain → Domain) : (s.modDom d g).sec = s.sec := rfl
@[simp] theorem State.modDom_rom (s : State) (d : Nat) (g : Domain → Domain) : (s.modDom d g).rom = s.rom := rfl
@[simp] theorem State.modDom_ccs (s : State) (d : Nat) (g : Domain → Domain) : (s.modDom d g).ccs = s.ccs := rfl
@[simp] theorem State.modDom_eccAddr (s : State) (d : Nat) (g : Domain → Domain) : (s.modDom d g).eccAddr = s.eccAddr := rfl
@[simp] theorem State.modDom_eccCnt (s : State) (d : Nat) (g : Domain → Domain) : (s.modDom d g).eccCnt = s.eccCnt := rfl
@[simp] theorem State.modDom_dma (s : State) (d : Nat) (g : Domain → Domain) : (s.modDom d g).dma = s.dma := rfl
@[simp] theorem State.modDom_dmaLast (s : State) (d : Nat) (g : Domain → Domain) : (s.modDom d g).dmaLast = s.dmaLast := rfl
@[simp] theorem State.modDom_dmaTurn (s : State) (d : Nat) (g : Domain → Domain) : (s.modDom d g).dmaTurn = s.dmaTurn := rfl
@[simp] theorem State.modDom_irqs (s : State) (d : Nat) (g : Domain → Domain) : (s.modDom d g).irqs = s.irqs := rfl
@[simp] theorem State.modDom_fuse (s : State) (d : Nat) (g : Domain → Domain) : (s.modDom d g).fuse = s.fuse := rfl


/-! ## modMb -/

@[simp] theorem State.modMb_pending (s : State) (m : Nat) (g : Mailbox → Mailbox) : (s.modMb m g).pending = s.pending := rfl
@[simp] theorem State.modMb_regs (s : State) (m : Nat) (g : Mailbox → Mailbox) : (s.modMb m g).regs = s.regs := rfl
@[simp] theorem State.modMb_latch (s : State) (m : Nat) (g : Mailbox → Mailbox) : (s.modMb m g).latch = s.latch := rfl
@[simp] theorem State.modMb_resp (s : State) (m : Nat) (g : Mailbox → Mailbox) : (s.modMb m g).resp = s.resp := rfl
@[simp] theorem State.modMb_resps (s : State) (m : Nat) (g : Mailbox → Mailbox) : (s.modMb m g).resps = s.resps := rfl
@[simp] theorem State.modMb_freeCtr (s : State) (m : Nat) (g : Mailbox → Mailbox) : (s.modMb m g).freeCtr = s.freeCtr := rfl
@[simp] theorem State.modMb_now (s : State) (m : Nat) (g : Mailbox → Mailbox) : (s.modMb m g).now = s.now := rfl
@[simp] theorem State.modMb_s0 (s : State) (m : Nat) (g : Mailbox → Mailbox) : (s.modMb m g).s0 = s.s0 := rfl
@[simp] theorem State.modMb_sram (s : State) (m : Nat) (g : Mailbox → Mailbox) : (s.modMb m g).sram = s.sram := rfl
@[simp] theorem State.modMb_sramBad (s : State) (m : Nat) (g : Mailbox → Mailbox) : (s.modMb m g).sramBad = s.sramBad := rfl
@[simp] theorem State.modMb_sramSoft (s : State) (m : Nat) (g : Mailbox → Mailbox) : (s.modMb m g).sramSoft = s.sramSoft := rfl
@[simp] theorem State.modMb_lds (s : State) (m : Nat) (g : Mailbox → Mailbox) : (s.modMb m g).lds = s.lds := rfl
@[simp] theorem State.modMb_ldsBad (s : State) (m : Nat) (g : Mailbox → Mailbox) : (s.modMb m g).ldsBad = s.ldsBad := rfl
@[simp] theorem State.modMb_ldsSoft (s : State) (m : Nat) (g : Mailbox → Mailbox) : (s.modMb m g).ldsSoft = s.ldsSoft := rfl
@[simp] theorem State.modMb_engs (s : State) (m : Nat) (g : Mailbox → Mailbox) : (s.modMb m g).engs = s.engs := rfl
@[simp] theorem State.modMb_les (s : State) (m : Nat) (g : Mailbox → Mailbox) : (s.modMb m g).les = s.les := rfl
@[simp] theorem State.modMb_doms (s : State) (m : Nat) (g : Mailbox → Mailbox) : (s.modMb m g).doms = s.doms := rfl
@[simp] theorem State.modMb_slotWr (s : State) (m : Nat) (g : Mailbox → Mailbox) : (s.modMb m g).slotWr = s.slotWr := rfl
@[simp] theorem State.modMb_stg (s : State) (m : Nat) (g : Mailbox → Mailbox) : (s.modMb m g).stg = s.stg := rfl
@[simp] theorem State.modMb_scu (s : State) (m : Nat) (g : Mailbox → Mailbox) : (s.modMb m g).scu = s.scu := rfl
@[simp] theorem State.modMb_lehr (s : State) (m : Nat) (g : Mailbox → Mailbox) : (s.modMb m g).lehr = s.lehr := rfl
@[simp] theorem State.modMb_pmu (s : State) (m : Nat) (g : Mailbox → Mailbox) : (s.modMb m g).pmu = s.pmu := rfl
@[simp] theorem State.modMb_params (s : State) (m : Nat) (g : Mailbox → Mailbox) : (s.modMb m g).params = s.params := rfl
@[simp] theorem State.modMb_log (s : State) (m : Nat) (g : Mailbox → Mailbox) : (s.modMb m g).log = s.log := rfl
@[simp] theorem State.modMb_tu (s : State) (m : Nat) (g : Mailbox → Mailbox) : (s.modMb m g).tu = s.tu := rfl
@[simp] theorem State.modMb_acs (s : State) (m : Nat) (g : Mailbox → Mailbox) : (s.modMb m g).acs = s.acs := rfl
@[simp] theorem State.modMb_mclk (s : State) (m : Nat) (g : Mailbox → Mailbox) : (s.modMb m g).mclk = s.mclk := rfl
@[simp] theorem State.modMb_sysLoop (s : State) (m : Nat) (g : Mailbox → Mailbox) : (s.modMb m g).sysLoop = s.sysLoop := rfl
@[simp] theorem State.modMb_uarts (s : State) (m : Nat) (g : Mailbox → Mailbox) : (s.modMb m g).uarts = s.uarts := rfl
@[simp] theorem State.modMb_psc (s : State) (m : Nat) (g : Mailbox → Mailbox) : (s.modMb m g).psc = s.psc := rfl
@[simp] theorem State.modMb_i2c (s : State) (m : Nat) (g : Mailbox → Mailbox) : (s.modMb m g).i2c = s.i2c := rfl
@[simp] theorem State.modMb_hsp (s : State) (m : Nat) (g : Mailbox → Mailbox) : (s.modMb m g).hsp = s.hsp := rfl
@[simp] theorem State.modMb_asps (s : State) (m : Nat) (g : Mailbox → Mailbox) : (s.modMb m g).asps = s.asps := rfl
@[simp] theorem State.modMb_pdms (s : State) (m : Nat) (g : Mailbox → Mailbox) : (s.modMb m g).pdms = s.pdms := rfl
@[simp] theorem State.modMb_iecRx (s : State) (m : Nat) (g : Mailbox → Mailbox) : (s.modMb m g).iecRx = s.iecRx := rfl
@[simp] theorem State.modMb_iecTx (s : State) (m : Nat) (g : Mailbox → Mailbox) : (s.modMb m g).iecTx = s.iecTx := rfl
@[simp] theorem State.modMb_srcs (s : State) (m : Nat) (g : Mailbox → Mailbox) : (s.modMb m g).srcs = s.srcs := rfl
@[simp] theorem State.modMb_net (s : State) (m : Nat) (g : Mailbox → Mailbox) : (s.modMb m g).net = s.net := rfl
@[simp] theorem State.modMb_fw (s : State) (m : Nat) (g : Mailbox → Mailbox) : (s.modMb m g).fw = s.fw := rfl
@[simp] theorem State.modMb_flash (s : State) (m : Nat) (g : Mailbox → Mailbox) : (s.modMb m g).flash = s.flash := rfl
@[simp] theorem State.modMb_journal (s : State) (m : Nat) (g : Mailbox → Mailbox) : (s.modMb m g).journal = s.journal := rfl
@[simp] theorem State.modMb_sec (s : State) (m : Nat) (g : Mailbox → Mailbox) : (s.modMb m g).sec = s.sec := rfl
@[simp] theorem State.modMb_rom (s : State) (m : Nat) (g : Mailbox → Mailbox) : (s.modMb m g).rom = s.rom := rfl
@[simp] theorem State.modMb_ccs (s : State) (m : Nat) (g : Mailbox → Mailbox) : (s.modMb m g).ccs = s.ccs := rfl
@[simp] theorem State.modMb_eccAddr (s : State) (m : Nat) (g : Mailbox → Mailbox) : (s.modMb m g).eccAddr = s.eccAddr := rfl
@[simp] theorem State.modMb_eccCnt (s : State) (m : Nat) (g : Mailbox → Mailbox) : (s.modMb m g).eccCnt = s.eccCnt := rfl
@[simp] theorem State.modMb_dma (s : State) (m : Nat) (g : Mailbox → Mailbox) : (s.modMb m g).dma = s.dma := rfl
@[simp] theorem State.modMb_dmaLast (s : State) (m : Nat) (g : Mailbox → Mailbox) : (s.modMb m g).dmaLast = s.dmaLast := rfl
@[simp] theorem State.modMb_dmaTurn (s : State) (m : Nat) (g : Mailbox → Mailbox) : (s.modMb m g).dmaTurn = s.dmaTurn := rfl
@[simp] theorem State.modMb_irqs (s : State) (m : Nat) (g : Mailbox → Mailbox) : (s.modMb m g).irqs = s.irqs := rfl
@[simp] theorem State.modMb_fuse (s : State) (m : Nat) (g : Mailbox → Mailbox) : (s.modMb m g).fuse = s.fuse := rfl


/-! ## irqEvent -/

@[simp] theorem State.irqEvent_pending (s : State) (l : Nat) : (s.irqEvent l).pending = s.pending := rfl
@[simp] theorem State.irqEvent_regs (s : State) (l : Nat) : (s.irqEvent l).regs = s.regs := rfl
@[simp] theorem State.irqEvent_latch (s : State) (l : Nat) : (s.irqEvent l).latch = s.latch := rfl
@[simp] theorem State.irqEvent_resp (s : State) (l : Nat) : (s.irqEvent l).resp = s.resp := rfl
@[simp] theorem State.irqEvent_resps (s : State) (l : Nat) : (s.irqEvent l).resps = s.resps := rfl
@[simp] theorem State.irqEvent_freeCtr (s : State) (l : Nat) : (s.irqEvent l).freeCtr = s.freeCtr := rfl
@[simp] theorem State.irqEvent_now (s : State) (l : Nat) : (s.irqEvent l).now = s.now := rfl
@[simp] theorem State.irqEvent_s0 (s : State) (l : Nat) : (s.irqEvent l).s0 = s.s0 := rfl
@[simp] theorem State.irqEvent_sram (s : State) (l : Nat) : (s.irqEvent l).sram = s.sram := rfl
@[simp] theorem State.irqEvent_sramBad (s : State) (l : Nat) : (s.irqEvent l).sramBad = s.sramBad := rfl
@[simp] theorem State.irqEvent_sramSoft (s : State) (l : Nat) : (s.irqEvent l).sramSoft = s.sramSoft := rfl
@[simp] theorem State.irqEvent_lds (s : State) (l : Nat) : (s.irqEvent l).lds = s.lds := rfl
@[simp] theorem State.irqEvent_ldsBad (s : State) (l : Nat) : (s.irqEvent l).ldsBad = s.ldsBad := rfl
@[simp] theorem State.irqEvent_ldsSoft (s : State) (l : Nat) : (s.irqEvent l).ldsSoft = s.ldsSoft := rfl
@[simp] theorem State.irqEvent_engs (s : State) (l : Nat) : (s.irqEvent l).engs = s.engs := rfl
@[simp] theorem State.irqEvent_les (s : State) (l : Nat) : (s.irqEvent l).les = s.les := rfl
@[simp] theorem State.irqEvent_doms (s : State) (l : Nat) : (s.irqEvent l).doms = s.doms := rfl
@[simp] theorem State.irqEvent_slotWr (s : State) (l : Nat) : (s.irqEvent l).slotWr = s.slotWr := rfl
@[simp] theorem State.irqEvent_stg (s : State) (l : Nat) : (s.irqEvent l).stg = s.stg := rfl
@[simp] theorem State.irqEvent_scu (s : State) (l : Nat) : (s.irqEvent l).scu = s.scu := rfl
@[simp] theorem State.irqEvent_lehr (s : State) (l : Nat) : (s.irqEvent l).lehr = s.lehr := rfl
@[simp] theorem State.irqEvent_pmu (s : State) (l : Nat) : (s.irqEvent l).pmu = s.pmu := rfl
@[simp] theorem State.irqEvent_params (s : State) (l : Nat) : (s.irqEvent l).params = s.params := rfl
@[simp] theorem State.irqEvent_log (s : State) (l : Nat) : (s.irqEvent l).log = s.log := rfl
@[simp] theorem State.irqEvent_mbx (s : State) (l : Nat) : (s.irqEvent l).mbx = s.mbx := rfl
@[simp] theorem State.irqEvent_tu (s : State) (l : Nat) : (s.irqEvent l).tu = s.tu := rfl
@[simp] theorem State.irqEvent_acs (s : State) (l : Nat) : (s.irqEvent l).acs = s.acs := rfl
@[simp] theorem State.irqEvent_mclk (s : State) (l : Nat) : (s.irqEvent l).mclk = s.mclk := rfl
@[simp] theorem State.irqEvent_sysLoop (s : State) (l : Nat) : (s.irqEvent l).sysLoop = s.sysLoop := rfl
@[simp] theorem State.irqEvent_uarts (s : State) (l : Nat) : (s.irqEvent l).uarts = s.uarts := rfl
@[simp] theorem State.irqEvent_psc (s : State) (l : Nat) : (s.irqEvent l).psc = s.psc := rfl
@[simp] theorem State.irqEvent_i2c (s : State) (l : Nat) : (s.irqEvent l).i2c = s.i2c := rfl
@[simp] theorem State.irqEvent_hsp (s : State) (l : Nat) : (s.irqEvent l).hsp = s.hsp := rfl
@[simp] theorem State.irqEvent_asps (s : State) (l : Nat) : (s.irqEvent l).asps = s.asps := rfl
@[simp] theorem State.irqEvent_pdms (s : State) (l : Nat) : (s.irqEvent l).pdms = s.pdms := rfl
@[simp] theorem State.irqEvent_iecRx (s : State) (l : Nat) : (s.irqEvent l).iecRx = s.iecRx := rfl
@[simp] theorem State.irqEvent_iecTx (s : State) (l : Nat) : (s.irqEvent l).iecTx = s.iecTx := rfl
@[simp] theorem State.irqEvent_srcs (s : State) (l : Nat) : (s.irqEvent l).srcs = s.srcs := rfl
@[simp] theorem State.irqEvent_net (s : State) (l : Nat) : (s.irqEvent l).net = s.net := rfl
@[simp] theorem State.irqEvent_fw (s : State) (l : Nat) : (s.irqEvent l).fw = s.fw := rfl
@[simp] theorem State.irqEvent_flash (s : State) (l : Nat) : (s.irqEvent l).flash = s.flash := rfl
@[simp] theorem State.irqEvent_journal (s : State) (l : Nat) : (s.irqEvent l).journal = s.journal := rfl
@[simp] theorem State.irqEvent_sec (s : State) (l : Nat) : (s.irqEvent l).sec = s.sec := rfl
@[simp] theorem State.irqEvent_rom (s : State) (l : Nat) : (s.irqEvent l).rom = s.rom := rfl
@[simp] theorem State.irqEvent_ccs (s : State) (l : Nat) : (s.irqEvent l).ccs = s.ccs := rfl
@[simp] theorem State.irqEvent_eccAddr (s : State) (l : Nat) : (s.irqEvent l).eccAddr = s.eccAddr := rfl
@[simp] theorem State.irqEvent_eccCnt (s : State) (l : Nat) : (s.irqEvent l).eccCnt = s.eccCnt := rfl
@[simp] theorem State.irqEvent_dma (s : State) (l : Nat) : (s.irqEvent l).dma = s.dma := rfl
@[simp] theorem State.irqEvent_dmaLast (s : State) (l : Nat) : (s.irqEvent l).dmaLast = s.dmaLast := rfl
@[simp] theorem State.irqEvent_dmaTurn (s : State) (l : Nat) : (s.irqEvent l).dmaTurn = s.dmaTurn := rfl
@[simp] theorem State.irqEvent_fuse (s : State) (l : Nat) : (s.irqEvent l).fuse = s.fuse := rfl


/-! ## sramSet -/

@[simp] theorem State.sramSet_pending (s : State) (off : Nat) (bs : List Byte) : (s.sramSet off bs).pending = s.pending := rfl
@[simp] theorem State.sramSet_regs (s : State) (off : Nat) (bs : List Byte) : (s.sramSet off bs).regs = s.regs := rfl
@[simp] theorem State.sramSet_latch (s : State) (off : Nat) (bs : List Byte) : (s.sramSet off bs).latch = s.latch := rfl
@[simp] theorem State.sramSet_resp (s : State) (off : Nat) (bs : List Byte) : (s.sramSet off bs).resp = s.resp := rfl
@[simp] theorem State.sramSet_resps (s : State) (off : Nat) (bs : List Byte) : (s.sramSet off bs).resps = s.resps := rfl
@[simp] theorem State.sramSet_freeCtr (s : State) (off : Nat) (bs : List Byte) : (s.sramSet off bs).freeCtr = s.freeCtr := rfl
@[simp] theorem State.sramSet_now (s : State) (off : Nat) (bs : List Byte) : (s.sramSet off bs).now = s.now := rfl
@[simp] theorem State.sramSet_s0 (s : State) (off : Nat) (bs : List Byte) : (s.sramSet off bs).s0 = s.s0 := rfl
@[simp] theorem State.sramSet_sramBad (s : State) (off : Nat) (bs : List Byte) : (s.sramSet off bs).sramBad = s.sramBad := rfl
@[simp] theorem State.sramSet_sramSoft (s : State) (off : Nat) (bs : List Byte) : (s.sramSet off bs).sramSoft = s.sramSoft := rfl
@[simp] theorem State.sramSet_lds (s : State) (off : Nat) (bs : List Byte) : (s.sramSet off bs).lds = s.lds := rfl
@[simp] theorem State.sramSet_ldsBad (s : State) (off : Nat) (bs : List Byte) : (s.sramSet off bs).ldsBad = s.ldsBad := rfl
@[simp] theorem State.sramSet_ldsSoft (s : State) (off : Nat) (bs : List Byte) : (s.sramSet off bs).ldsSoft = s.ldsSoft := rfl
@[simp] theorem State.sramSet_engs (s : State) (off : Nat) (bs : List Byte) : (s.sramSet off bs).engs = s.engs := rfl
@[simp] theorem State.sramSet_les (s : State) (off : Nat) (bs : List Byte) : (s.sramSet off bs).les = s.les := rfl
@[simp] theorem State.sramSet_doms (s : State) (off : Nat) (bs : List Byte) : (s.sramSet off bs).doms = s.doms := rfl
@[simp] theorem State.sramSet_slotWr (s : State) (off : Nat) (bs : List Byte) : (s.sramSet off bs).slotWr = s.slotWr := rfl
@[simp] theorem State.sramSet_stg (s : State) (off : Nat) (bs : List Byte) : (s.sramSet off bs).stg = s.stg := rfl
@[simp] theorem State.sramSet_scu (s : State) (off : Nat) (bs : List Byte) : (s.sramSet off bs).scu = s.scu := rfl
@[simp] theorem State.sramSet_lehr (s : State) (off : Nat) (bs : List Byte) : (s.sramSet off bs).lehr = s.lehr := rfl
@[simp] theorem State.sramSet_pmu (s : State) (off : Nat) (bs : List Byte) : (s.sramSet off bs).pmu = s.pmu := rfl
@[simp] theorem State.sramSet_params (s : State) (off : Nat) (bs : List Byte) : (s.sramSet off bs).params = s.params := rfl
@[simp] theorem State.sramSet_log (s : State) (off : Nat) (bs : List Byte) : (s.sramSet off bs).log = s.log := rfl
@[simp] theorem State.sramSet_mbx (s : State) (off : Nat) (bs : List Byte) : (s.sramSet off bs).mbx = s.mbx := rfl
@[simp] theorem State.sramSet_tu (s : State) (off : Nat) (bs : List Byte) : (s.sramSet off bs).tu = s.tu := rfl
@[simp] theorem State.sramSet_acs (s : State) (off : Nat) (bs : List Byte) : (s.sramSet off bs).acs = s.acs := rfl
@[simp] theorem State.sramSet_mclk (s : State) (off : Nat) (bs : List Byte) : (s.sramSet off bs).mclk = s.mclk := rfl
@[simp] theorem State.sramSet_sysLoop (s : State) (off : Nat) (bs : List Byte) : (s.sramSet off bs).sysLoop = s.sysLoop := rfl
@[simp] theorem State.sramSet_uarts (s : State) (off : Nat) (bs : List Byte) : (s.sramSet off bs).uarts = s.uarts := rfl
@[simp] theorem State.sramSet_psc (s : State) (off : Nat) (bs : List Byte) : (s.sramSet off bs).psc = s.psc := rfl
@[simp] theorem State.sramSet_i2c (s : State) (off : Nat) (bs : List Byte) : (s.sramSet off bs).i2c = s.i2c := rfl
@[simp] theorem State.sramSet_hsp (s : State) (off : Nat) (bs : List Byte) : (s.sramSet off bs).hsp = s.hsp := rfl
@[simp] theorem State.sramSet_asps (s : State) (off : Nat) (bs : List Byte) : (s.sramSet off bs).asps = s.asps := rfl
@[simp] theorem State.sramSet_pdms (s : State) (off : Nat) (bs : List Byte) : (s.sramSet off bs).pdms = s.pdms := rfl
@[simp] theorem State.sramSet_iecRx (s : State) (off : Nat) (bs : List Byte) : (s.sramSet off bs).iecRx = s.iecRx := rfl
@[simp] theorem State.sramSet_iecTx (s : State) (off : Nat) (bs : List Byte) : (s.sramSet off bs).iecTx = s.iecTx := rfl
@[simp] theorem State.sramSet_srcs (s : State) (off : Nat) (bs : List Byte) : (s.sramSet off bs).srcs = s.srcs := rfl
@[simp] theorem State.sramSet_net (s : State) (off : Nat) (bs : List Byte) : (s.sramSet off bs).net = s.net := rfl
@[simp] theorem State.sramSet_fw (s : State) (off : Nat) (bs : List Byte) : (s.sramSet off bs).fw = s.fw := rfl
@[simp] theorem State.sramSet_flash (s : State) (off : Nat) (bs : List Byte) : (s.sramSet off bs).flash = s.flash := rfl
@[simp] theorem State.sramSet_journal (s : State) (off : Nat) (bs : List Byte) : (s.sramSet off bs).journal = s.journal := rfl
@[simp] theorem State.sramSet_sec (s : State) (off : Nat) (bs : List Byte) : (s.sramSet off bs).sec = s.sec := rfl
@[simp] theorem State.sramSet_rom (s : State) (off : Nat) (bs : List Byte) : (s.sramSet off bs).rom = s.rom := rfl
@[simp] theorem State.sramSet_ccs (s : State) (off : Nat) (bs : List Byte) : (s.sramSet off bs).ccs = s.ccs := rfl
@[simp] theorem State.sramSet_eccAddr (s : State) (off : Nat) (bs : List Byte) : (s.sramSet off bs).eccAddr = s.eccAddr := rfl
@[simp] theorem State.sramSet_eccCnt (s : State) (off : Nat) (bs : List Byte) : (s.sramSet off bs).eccCnt = s.eccCnt := rfl
@[simp] theorem State.sramSet_dma (s : State) (off : Nat) (bs : List Byte) : (s.sramSet off bs).dma = s.dma := rfl
@[simp] theorem State.sramSet_dmaLast (s : State) (off : Nat) (bs : List Byte) : (s.sramSet off bs).dmaLast = s.dmaLast := rfl
@[simp] theorem State.sramSet_dmaTurn (s : State) (off : Nat) (bs : List Byte) : (s.sramSet off bs).dmaTurn = s.dmaTurn := rfl
@[simp] theorem State.sramSet_irqs (s : State) (off : Nat) (bs : List Byte) : (s.sramSet off bs).irqs = s.irqs := rfl
@[simp] theorem State.sramSet_fuse (s : State) (off : Nat) (bs : List Byte) : (s.sramSet off bs).fuse = s.fuse := rfl

/-! ## Operations over lists of units -/

/-- What every single operation keeps, an operation for each number of a list keeps. -/
theorem forEach_keeps {P : State → Prop} {g : State → Nat → State} (l : List Nat) {s : State} (hs : P s)
    (h : ∀ s n, n ∈ l → P s → P (g s n)) : P (s.forEach l g) := by
  unfold State.forEach
  induction l generalizing s with
  | nil => exact hs
  | cons n l ih => exact ih (h s n (by simp) hs) fun s m hm => h s m (by simp [hm])

@[simp] theorem forEach_nil (s : State) (g : State → Nat → State) : s.forEach [] g = s := rfl
@[simp] theorem forEach_cons (s : State) (n : Nat) (l : List Nat) (g : State → Nat → State) :
    s.forEach (n :: l) g = (g s n).forEach l g := rfl

end Sys2Proof.Machine
end

