-- ==== Sys2Proof/Laws/Render.lean ====
section
/-! SUPPORT. The pipeline of a render engine: what an instruction sees of earlier writes, and what issue leaves alone. -/

namespace Sys2Proof.Machine

/-! ## What a read sees -/

theorem visible_append (pend : List RWrite) (w : RWrite) (x : RDest) (t : Nat) :
    visible (pend ++ [w]) x t =
      if w.dest = x ∧ w.land < t ∧ (visible pend x t).elim 0 RWrite.land ≤ w.land then some w else visible pend x t := by
  unfold visible
  rw [List.foldl_append]
  rfl

theorem visible_land_lt (pend : List RWrite) (x : RDest) (t : Nat) (w : RWrite) (h : visible pend x t = some w) :
    w.land < t := by
  induction pend using List.reverseRecOn with
  | nil => simp [visible] at h
  | append_singleton l a ih =>
    rw [visible_append] at h
    split at h
    · rename_i hc
      simp only [Option.some.injEq] at h
      exact h ▸ hc.2.1
    · exact ih h

/-- A write that has just been issued is what a read sees one cycle after it lands. -/
theorem visible_append_same (pend : List RWrite) (x : RDest) (n : Nat) (v : Int) :
    visible (pend ++ [⟨n, x, v⟩]) x (n + 1) = some ⟨n, x, v⟩ := by
  rw [visible_append, if_pos]
  refine ⟨rfl, by simp, ?_⟩
  cases ha : visible pend x (n + 1) with
  | none => exact Nat.zero_le _
  | some a => exact Nat.lt_succ_iff.mp (visible_land_lt _ _ _ _ ha)

theorem visible_append_ne (pend : List RWrite) {x y : RDest} (n t : Nat) (v : Int) (h : y ≠ x) :
    visible (pend ++ [⟨n, x, v⟩]) y t = visible pend y t := by
  rw [visible_append, if_neg]
  intro hc
  exact h hc.1.symm

/-- A write lands only in the cycles after its own. -/
theorem visible_append_early (pend : List RWrite) (x y : RDest) {n t : Nat} (v : Int) (h : t ≤ n) :
    visible (pend ++ [⟨n, x, v⟩]) y t = visible pend y t := by
  rw [visible_append, if_neg]
  intro hc
  have := hc.2.1
  simp at this
  omega

/-- The engines that both states hold alike but for their program address, issue slot and repeat nest. -/
theorem see_congr {s t : State} {e : Nat} {x : RDest} {r q : Nat} (hp : (t.eng e).pend = (s.eng e).pend)
    (hs : (t.eng e).slot + r = (s.eng e).slot + q) (hb : (t.eng e).base x = (s.eng e).base x) :
    t.see e x r = s.see e x q := by
  unfold State.see Engine.see
  rw [hp, hs, hb]

theorem eng_put (s : State) (e : Nat) (x : RDest) (st : Nat) (v : Int) (h : e < 17) :
    (s.put e x st v).eng e = (s.eng e).put x st v := eng_modEng_same s e _ h

theorem eng_put_ne (s : State) {e j : Nat} (x : RDest) (st : Nat) (v : Int) (h : j ≠ e) :
    (s.put e x st v).eng j = s.eng j := eng_modEng_ne s _ h

@[simp] theorem base_put (en : Engine) (x y : RDest) (st : Nat) (v : Int) : (en.put x st v).base y = en.base y := by
  cases y <;> rfl

/-- What was issued for one place leaves what is seen of every other alone. -/
theorem see_put_ne (s : State) (e : Nat) {x y : RDest} (st r : Nat) (v : Int) (he : e < 17) (h : y ≠ x) :
    (s.put e x st v).see e y r = s.see e y r := by
  unfold State.see Engine.see
  rw [eng_put _ _ _ _ _ he, base_put]
  simp only [Engine.put]
  rw [visible_append_ne _ _ _ _ h]

/-- A write is not seen in its own stage or an earlier one. -/
theorem see_put_early (s : State) (e : Nat) (x y : RDest) {st r : Nat} (v : Int) (he : e < 17) (h : r ≤ st) :
    (s.put e x st v).see e y r = s.see e y r := by
  unfold State.see Engine.see
  rw [eng_put _ _ _ _ _ he, base_put]
  simp only [Engine.put]
  rw [visible_append_early _ _ _ _ (by omega)]

/-- A write is seen in the stage after its own. -/
theorem see_put_same (s : State) (e : Nat) (x : RDest) (st : Nat) (v : Int) (he : e < 17) :
    (s.put e x st v).see e x (st + 1) = v := by
  unfold State.see Engine.see
  rw [eng_put _ _ _ _ _ he]
  simp only [Engine.put]
  rw [← Nat.add_assoc, visible_append_same]

@[simp] theorem reg_put (s : State) (e : Nat) (x : RDest) (st : Nat) (v : Int) (a : Nat) : (s.put e x st v).reg a = s.reg a :=
  rfl

/-! ## What flags leave alone -/

@[simp] theorem eng_setF (s : State) (x : Fld) (v e : Nat) : (s.setF x v).eng e = s.eng e := rfl
@[simp] theorem eng_flag (s : State) (x : Fld) (e : Nat) : (s.flag x).eng e = s.eng e := rfl
@[simp] theorem see_flag (s : State) (x : Fld) (e : Nat) (y : RDest) (r : Nat) : (s.flag x).see e y r = s.see e y r := rfl

@[simp] theorem eng_qwrapFlag (s : State) (e j : Nat) (xs : List Int) : (s.qwrapFlag e xs).eng j = s.eng j := by
  unfold State.qwrapFlag
  split <;> rfl

@[simp] theorem see_qwrapFlag (s : State) (e j : Nat) (xs : List Int) (y : RDest) (r : Nat) :
    (s.qwrapFlag e xs).see j y r = s.see j y r := by
  unfold State.see
  simp

@[simp] theorem eng_satFlag (s : State) (e j : Nat) (x : Int) : (s.satFlag e x).eng j = s.eng j := by
  unfold State.satFlag
  split <;> rfl

@[simp] theorem see_satFlag (s : State) (e j : Nat) (x : Int) (y : RDest) (r : Nat) :
    (s.satFlag e x).see j y r = s.see j y r := by
  unfold State.see
  simp

/-! ## Issue -/

theorem SameButIssue.refl (s : State) (e : Nat) : SameButIssue s s e := ⟨rfl, fun _ _ => rfl, fun _ _ => rfl, rfl⟩

theorem SameButIssue.trans {s t u : State} {e : Nat} (h : SameButIssue s t e) (k : SameButIssue t u e) :
    SameButIssue s u e where
  rest := by
    have h1 := h.rest
    have k1 := k.rest
    rw [← h1, ← k1]
  others j hj := (k.others j hj).trans (h.others j hj)
  regs a ha := (k.regs a ha).trans (h.regs a ha)
  own := by
    have h1 := h.own
    have k1 := k.own
    rw [← h1, ← k1]

theorem sameButIssue_flag (s : State) (e : Nat) (x : Fld) (hx : x.addr = R.ENG_STAT e) : SameButIssue s (s.flag x) e where
  rest := rfl
  others _ _ := rfl
  regs a ha := reg_setF_ne s 1 (by rw [hx]; exact ha)
  own := rfl

theorem sameButIssue_modEng (s : State) (e : Nat) (g : Engine → Engine) (he : e < 17)
    (hg : ∀ en : Engine, { g en with pend := en.pend, pc := en.pc, nest := en.nest, slot := en.slot, rpt := en.rpt } = en) :
    SameButIssue s (s.modEng e g) e where
  rest := rfl
  others j hj := eng_modEng_ne s g hj
  regs _ _ := rfl
  own := by
    rw [eng_modEng_same s e g he]
    exact hg _

theorem sameButIssue_put (s : State) (e : Nat) (x : RDest) (st : Nat) (v : Int) (he : e < 17) :
    SameButIssue s (s.put e x st v) e := sameButIssue_modEng s e _ he fun _ => rfl

theorem sameButIssue_qwrapFlag (s : State) (e : Nat) (xs : List Int) : SameButIssue s (s.qwrapFlag e xs) e := by
  unfold State.qwrapFlag
  split
  · exact .refl s e
  · exact sameButIssue_flag s e _ rfl

theorem sameButIssue_satFlag (s : State) (e : Nat) (x : Int) : SameButIssue s (s.satFlag e x) e := by
  unfold State.satFlag
  split
  · exact .refl s e
  · exact sameButIssue_flag s e _ rfl

theorem sameButIssue_putQ (s : State) (e q : Nat) (x : Int) (he : e < 17) : SameButIssue s (s.putQ e q x) e :=
  (sameButIssue_qwrapFlag s e [x]).trans (sameButIssue_put _ e _ _ _ he)

theorem sameButIssue_putP (s : State) (e p : Nat) (v : Bool) (he : e < 17) : SameButIssue s (s.putP e p v) e := by
  unfold State.putP
  split
  · exact .refl s e
  · exact sameButIssue_put s e _ _ _ he

/-- The program address moves; the registers, the pipeline and the issue slot stay. -/
theorem bumpPc_keeps (s : State) (e pc n : Nat) (he : e < 17) :
    SameButIssue s (s.bumpPc e pc n) e ∧ ((s.bumpPc e pc n).eng e).pend = (s.eng e).pend ∧
      ((s.bumpPc e pc n).eng e).slot = (s.eng e).slot := by
  have key : ∀ s : State, SameButIssue s (s.modEng e fun en => { en with pc := (pc + n) % 8192 }) e ∧
      ((s.modEng e fun en => { en with pc := (pc + n) % 8192 }).eng e).pend = (s.eng e).pend ∧
      ((s.modEng e fun en => { en with pc := (pc + n) % 8192 }).eng e).slot = (s.eng e).slot := by
    intro s
    rw [eng_modEng_same s e _ he]
    exact ⟨sameButIssue_modEng s e _ he fun _ => rfl, rfl, rfl⟩
  unfold State.bumpPc
  dsimp only
  split
  · obtain ⟨h1, h2, h3⟩ := key (s.flag (F.ENG_STAT_PCWRAP e))
    exact ⟨(sameButIssue_flag s e _ rfl).trans h1, h2, h3⟩
  · exact key s

/-- Issue moves past an instruction: the registers, the pipeline and the issue slot stay. -/
theorem nextPc_keeps (s : State) (e pc : Nat) (he : e < 17) :
    SameButIssue s (s.nextPc e pc) e ∧ ((s.nextPc e pc).eng e).pend = (s.eng e).pend ∧
      ((s.nextPc e pc).eng e).slot = (s.eng e).slot := by
  unfold State.nextPc
  dsimp only
  generalize hl : loopBack pc (s.eng e).nest = l
  obtain ⟨nest, back, err⟩ := l
  dsimp only
  have h1 : SameButIssue s (s.modEng e fun en => { en with nest := nest }) e :=
    sameButIssue_modEng s e _ he fun _ => rfl
  have p1 : ((s.modEng e fun en => { en with nest := nest }).eng e).pend = (s.eng e).pend ∧
      ((s.modEng e fun en => { en with nest := nest }).eng e).slot = (s.eng e).slot := by
    rw [eng_modEng_same s e _ he]
    exact ⟨rfl, rfl⟩
  generalize s.modEng e (fun en => { en with nest := nest }) = u at h1 p1
  have h2 : ∀ v : State, v = (if err = true then u.flag (F.ENG_STAT_RPTERR e) else u) →
      SameButIssue s v e ∧ (v.eng e).pend = (s.eng e).pend ∧ (v.eng e).slot = (s.eng e).slot := by
    intro v hv
    subst hv
    split
    · exact ⟨h1.trans (sameButIssue_flag u e _ rfl), p1⟩
    · exact ⟨h1, p1⟩
  obtain ⟨k1, k2, k3⟩ := h2 _ rfl
  generalize (if err = true then u.flag (F.ENG_STAT_RPTERR e) else u) = v at k1 k2 k3 ⊢
  cases back with
  | none =>
    obtain ⟨b1, b2, b3⟩ := bumpPc_keeps v e pc 1 he
    exact ⟨k1.trans b1, b2.trans k2, b3.trans k3⟩
  | some a =>
    dsimp only
    rw [eng_modEng_same v e _ he]
    exact ⟨k1.trans (sameButIssue_modEng v e _ he fun _ => rfl), k2, k3⟩

/-- The base values of an engine depend on what issue does not change. -/
theorem SameButIssue.base {s t : State} {e : Nat} (h : SameButIssue s t e) (x : RDest) :
    (t.eng e).base x = (s.eng e).base x := by
  have h1 := h.own
  cases x <;> (rw [← h1]; rfl)

/-- The next issue slot sees in a stage what this one would have seen one stage later. -/
theorem see_nextSlot (s : State) (e pc : Nat) (he : e < 17) (x : RDest) (r : Nat) :
    ((s.nextPc e pc).endSlot e).see e x r = s.see e x (r + 1) := by
  obtain ⟨h1, h2, h3⟩ := nextPc_keeps s e pc he
  have hE : ((s.nextPc e pc).endSlot e).eng e = { (s.nextPc e pc).eng e with slot := ((s.nextPc e pc).eng e).slot + 1 } :=
    eng_modEng_same _ e _ he
  apply see_congr
  · rw [hE]
    exact h2
  · rw [hE]
    simp only
    rw [h3]
    omega
  · rw [← h1.base x, hE]
    cases x <;> rfl

theorem sameButIssue_nextSlot (s : State) (e pc : Nat) (he : e < 17) :
    SameButIssue s ((s.nextPc e pc).endSlot e) e :=
  (nextPc_keeps s e pc he).1.trans (sameButIssue_modEng _ e _ he fun _ => rfl)

/-! ## What one issue slot writes -/

/-- Within one issue slot: places take their words, everything else of an engine is seen as before. -/
structure Within (u v : State) (e : Nat) (ws : List (RDest × Nat × Int)) : Prop where
  vals : ∀ w ∈ ws, v.see e w.1 (w.2.1 + 1) = w.2.2
  view : ∀ x, x ∉ ws.map (·.1) → ∀ r, v.see e x r = u.see e x r
  same : SameButIssue u v e

theorem Within.refl (u : State) (e : Nat) : Within u u e [] := ⟨by simp, by simp, .refl u e⟩

/-- One more place is written; it stands over an earlier write of the same place. -/
theorem Within.put {u v : State} {e : Nat} {ws} (he : e < 17) (h : Within u v e ws) (x : RDest) (st : Nat) (val : Int) :
    Within u (v.put e x st val) e ((x, st, val) :: ws.filter (fun w => w.1 ≠ x)) where
  vals w hw := by
    simp only [List.mem_cons, List.mem_filter, decide_eq_true_eq] at hw
    rcases hw with rfl | ⟨hw, hne⟩
    · exact see_put_same v e x st val he
    · rw [see_put_ne v e _ _ _ he hne]; exact h.vals w hw
  view y hy r := by
    simp only [List.map_cons, List.mem_cons, not_or] at hy
    rw [see_put_ne v e _ _ _ he hy.1]
    apply h.view
    intro hm
    apply hy.2
    simp only [List.mem_map, List.mem_filter, decide_eq_true_eq] at hm ⊢
    obtain ⟨w, hw, rfl⟩ := hm
    exact ⟨w, ⟨hw, hy.1⟩, rfl⟩
  same := h.same.trans (sameButIssue_put v e x st val he)

theorem Within.congr {u v : State} {e : Nat} {ws ws'} (h : Within u v e ws) (hm : ∀ w, w ∈ ws ↔ w ∈ ws') : Within u v e ws' where
  vals w hw := h.vals w ((hm w).2 hw)
  view x hx r := h.view x (by
    intro hc; apply hx
    simp only [List.mem_map] at hc ⊢
    obtain ⟨w, hw, rfl⟩ := hc
    exact ⟨w, (hm w).1 hw, rfl⟩) r
  same := h.same

theorem Within.same_see {u v v' : State} {e : Nat} {ws} (h : Within u v e ws) (hs : ∀ x r, v'.see e x r = v.see e x r)
    (hb : SameButIssue v v' e) : Within u v' e ws :=
  ⟨fun w hw => by rw [hs]; exact h.vals w hw, fun x hx r => by rw [hs]; exact h.view x hx r, h.same.trans hb⟩

/-- An instruction writes what its operation and its post-modifications write within the slot. -/
theorem writesPlaces_of_within {s : State} {e : Eng} {c : Instr} {post op : State → State} {h : Hdr} {ws}
    (hc : exec c s = .next (s.issue e h post op)) (hb : s.issues e = true)
    (hw : Within (s.atIssue e) (let run := (s.atIssue e).guard e h
      let v := if run then op (s.atIssue e) else s.atIssue e
      if run ∨ h.u then post v else v) e ws) : WritesPlaces s (s.atIssue e) c e ws := by
  refine ⟨_, hc, ?_⟩
  unfold State.issue
  rw [if_pos hb]
  dsimp only at hw ⊢
  generalize (if (s.atIssue e).guard ↑e h = true ∨ h.u = true then
      post (if (s.atIssue e).guard ↑e h = true then op (s.atIssue e) else s.atIssue e)
      else if (s.atIssue e).guard ↑e h = true then op (s.atIssue e) else s.atIssue e) = v at hw
  refine ⟨fun w hw' => ?_, fun x hx r => ?_, ?_⟩
  · rw [see_nextSlot _ _ _ e.isLt]; exact hw.vals w hw'
  · rw [see_nextSlot _ _ _ e.isLt]; exact hw.view x hx _
  · exact hw.same.trans (sameButIssue_nextSlot _ _ _ e.isLt)

theorem writesPlaces_of_run {s : State} {e : Eng} {c : Instr} {post op : State → State} {h : Hdr} {ws}
    (hc : exec c s = .next (s.issue e h post op)) (hr : Runs s e h)
    (hw : Within (s.atIssue e) (post (op (s.atIssue e))) e ws) : WritesPlaces s (s.atIssue e) c e ws := by
  apply writesPlaces_of_within hc hr.1
  simpa [hr.2] using hw

theorem writesPlaces_of_op {s : State} {e : Eng} {c : Instr} {op : State → State} {h : Hdr} {ws}
    (hc : exec c s = .next (s.issue e h id op)) (hr : Runs s e h)
    (hw : Within (s.atIssue e) (op (s.atIssue e)) e ws) : WritesPlaces s (s.atIssue e) c e ws := writesPlaces_of_run hc hr hw

theorem within_put (u : State) (e : Eng) (x st val) : Within u (u.put e x st val) e [(x, st, val)] := by
  simpa using (Within.refl u e).put e.isLt x st val


/-- The reduction of R119. -/
theorem wrapQ_eq (x : Int) : wrapQ x = (x + 2 ^ 71) % 2 ^ 72 - 2 ^ 71 := by
  unfold wrapQ
  rw [BitVec.toInt_ofInt, Int.bmod_def]
  norm_num
  split <;> omega

theorem noEcc_readWord {u : State} {e code x} (h : NoEcc u e) : u.readWord e code x = (u.see e x stM, u) := by
  unfold State.readWord State.softFix
  rw [h.1, h.2]; simp

theorem noEcc_readCoef {u : State} {e c} (h : NoEcc u e) : u.readCoef e c = ((memGet (u.eng e).coef (c % 16384)).toInt, u) := by
  unfold State.readCoef State.softFix
  rw [h.1, h.2]; simp

theorem noEcc_readLr {u : State} {e i} (h : NoEcc u e) :
    u.readLr e i = ((if (u.eng e).test then 0 else (memGet (u.eng e).lr (i % 2048)).toInt), u) := by
  unfold State.readLr State.softFix
  rw [h.1, h.2]
  dsimp only
  split <;> simp

theorem noEcc_readCoefs {u : State} {e} (h : NoEcc u e) (cs : List Nat) :
    u.readCoefs e cs = (cs.map fun c => (memGet (u.eng e).coef (c % 16384)).toInt, u) := by
  induction cs with
  | nil => rfl
  | cons c cs ih => simp [State.readCoefs, noEcc_readCoef h, ih]

theorem noEcc_copRead {u : State} {e o n} (h : NoEcc u e) : (u.copRead e o n).2 = u := by
  unfold State.copRead
  split <;> try rfl
  rw [noEcc_readCoefs h]

theorem noEcc_mopRead {u : State} {e o l} (h : NoEcc u e) : (u.mopRead e o l).2 = u := by
  unfold State.mopRead
  dsimp only
  split
  · split <;> simp [noEcc_readWord h, noEcc_readCoef h, noEcc_readLr h]
  · rfl

theorem within_flag {u : State} {e : Nat} (x : Fld) (hx : x.addr = R.ENG_STAT e) : Within u (u.flag x) e [] :=
  (Within.refl u e).same_see (fun _ _ => rfl) (sameButIssue_flag u e x hx)

theorem within_tiles {u : State} {e : Nat} (h : NoEcc u e) (ws : List Nat) : Within u (u.readTiles e ws).2 e [] ∧
    ((u.readTiles e ws).2.eng e).coef = (u.eng e).coef ∧ NoEcc (u.readTiles e ws).2 e := by
  have fold : ∀ (l : List Nat) (v : State) (acc : List Int), NoEcc v e →
      (l.foldl (fun acc w =>
        let (x, s) := acc.2.readWord e (0x40000 + w) (.tile w)
        (acc.1 ++ [x], s)) (acc, v)).2 = v := by
    intro l
    induction l with
    | nil => intros; rfl
    | cons a l ih =>
      intro v acc hv
      simp only [List.foldl_cons, noEcc_readWord hv]
      exact ih v _ hv
  unfold State.readTiles
  dsimp only
  split
  · rw [fold _ _ _ (by exact h)]
    exact ⟨within_flag _ rfl, rfl, h⟩
  · rw [fold _ _ _ h]
    exact ⟨Within.refl _ _, rfl, h⟩

theorem Within.putQ {u v : State} {e : Nat} {ws} (he : e < 17) (h : Within u v e ws) (q : Nat) (x : Int) :
    Within u (v.putQ e q x) e ((.q q, stX2, wrapQ x) :: ws.filter (fun w => w.1 ≠ .q q)) := by
  unfold State.putQ
  apply Within.put he
  exact h.same_see (fun _ _ => by simp) (sameButIssue_qwrapFlag v e [x])

theorem mopPost_within {u v : State} {e : Nat} {ws} (he : e < 17) (h : Within u v e ws) (o : Mop)
    (hv : ∀ n, v.see e (.a n) stA = u.see e (.a n) stA) (hm : ∀ n, v.see e (.m n) stA = u.see e (.m n) stA) :
    Within u (v.mopPost e o) e (mopPlaces u e o ++ ws.filter (fun w => w.1 ∉ (mopPlaces u e o).map (·.1))) := by
  unfold State.mopPost mopPlaces
  split
  · have : v.postVal e (mopAn o) (mopMm o) = u.postVal e (mopAn o) (mopMm o) := by
      unfold State.postVal; rw [hv, hm]
    rw [this]
    have k := h.put he (.a (mopAn o)) stA (u.postVal e (mopAn o) (mopMm o))
    simpa using k
  · simpa using h

theorem copPost_within {u v : State} {e : Nat} {ws} (he : e < 17) (h : Within u v e ws) (o : Cop)
    (hv : ∀ n, v.see e (.a n) stA = u.see e (.a n) stA) (hm : ∀ n, v.see e (.m n) stA = u.see e (.m n) stA) :
    Within u (v.copPost e o) e (copPlaces u e o ++ ws.filter (fun w => w.1 ∉ (copPlaces u e o).map (·.1))) := by
  unfold State.copPost copPlaces
  split
  · have : v.postVal e (copAn o) (copMm o) = u.postVal e (copAn o) (copMm o) := by
      unfold State.postVal; rw [hv, hm]
    rw [this]
    have k := h.put he (.a (copAn o)) stA (u.postVal e (copAn o) (copMm o))
    simpa using k
  · simpa using h

theorem see_mopPost_stA (v : State) (e : Nat) (he : e < 17) (o : Mop) (x : RDest) : (v.mopPost e o).see e x stA = v.see e x stA := by
  unfold State.mopPost
  split
  · exact see_put_early v e _ _ _ he (le_refl _)
  · rfl

def isAM : RDest → Prop | .a _ => True | .m _ => True | _ => False

/-- The post-modifications of the multiply-accumulate format, after an operation that writes no address register. -/
theorem macPost_within {u v : State} {e : Nat} {ws} (he : e < 17) (h : Within u v e ws) (o : MacOp)
    (hws : ∀ w ∈ ws, ¬ isAM w.1) :
    Within u (v.macPost e o) e (ws ++ withCop (mopPlaces u e o.mop) (copPlaces u e o.cop)) := by
  have hv : ∀ x, isAM x → ∀ r, v.see e x r = u.see e x r := by
    intro x hx r
    apply h.view
    intro hm
    simp only [List.mem_map] at hm
    obtain ⟨w, hw, rfl⟩ := hm
    exact hws w hw hx
  unfold State.macPost
  have k1 := mopPost_within he h o.mop (fun n => hv (.a n) trivial _) (fun n => hv (.m n) trivial _)
  have k2 := copPost_within he k1 o.cop (fun n => by rw [see_mopPost_stA _ _ he]; exact hv (.a n) trivial _)
    (fun n => by rw [see_mopPost_stA _ _ he]; exact hv (.m n) trivial _)
  have hmo : ∀ w ∈ mopPlaces u e o.mop, isAM w.1 := by
    unfold mopPlaces; split <;> simp [isAM]
  have hco : ∀ w ∈ copPlaces u e o.cop, isAM w.1 := by
    unfold copPlaces; split <;> simp [isAM]
  apply k2.congr
  intro w
  simp only [withCop, List.mem_append, List.mem_filter, decide_eq_true_eq, List.mem_map, not_exists, not_and]
  constructor
  · rintro (h1 | ⟨h1 | ⟨h1, h2⟩, h3⟩)
    · exact .inr (.inl h1)
    · exact .inr (.inr ⟨h1, h3⟩)
    · exact .inl h1
  · rintro (h1 | h1 | ⟨h1, h2⟩)
    · refine .inr ⟨.inr ⟨h1, ?_⟩, ?_⟩
      · intro p hp hpe; exact hws w h1 (hpe ▸ hmo p hp)
      · intro p hp hpe; exact hws w h1 (hpe ▸ hco p hp)
    · exact .inl h1
    · exact .inr ⟨.inl h1, h2⟩

end Sys2Proof.Machine
end

