-- ==== Sys2Proof/WellFormed.lean ====
section
/-! DEFINITION. Which operands the outside can present: the checks that the types of the commands leave.  A sender makes
well-formed commands only; the meanings are total and give any command an outcome. -/

namespace Sys2Proof

/-- The widths of an access: 1, 2 or 4 bytes (R18). -/
def widthOk (w : Nat) : Bool := w == 1 || w == 2 || w == 4

/-- The engine windows and the LDS take writes of a control core or DMA (R28). -/
def fabricMaster (w : Initiator) : Bool := w == .cc0 || w == .cc1 || w == .dma

/-- An access: its width, and for a write data that its width holds. -/
def Access.wf (a : Access) : Bool := widthOk a.width && (!a.write || decide (a.data.toNat < 2 ^ (8 * a.width)))

/-- What a PDM channel presents: no more ones than a sample period has bits (R293). -/
def PdmIn.wf (p : PdmIn) : Bool := p.port < 4 && p.chan < 2 && p.ones ≤ 768

/-- What a tick samples: ports, data pins and channels (R277, R294) and gather entries that exist (R142). -/
def TickIn.wf (i : TickIn) : Bool :=
  i.asp.all (fun c => c.port < 8 && c.pin < 2) && i.pdm.all PdmIn.wf && i.lateFetch.all fun p => p.1 < 17

/-- An HSP frame: a cut falls inside a 32-bit word, and inside the command word only when nothing followed (R363). -/
def HspFrame.wf (f : HspFrame) : Bool := f.outCut < 32 && (!f.cutCmd || (f.inp.isEmpty && f.outWords == 0 && f.outCut == 0))

/-- A frame of a slave port takes time (R283). -/
def SlaveIn.wf (i : SlaveIn) : Bool := i.period != 0

/-- A transfer on I2C: data acknowledged only after the address (R421). -/
def I2cBus.wf (b : I2cBus) : Bool := b.addrAcks != 0 || (b.acked == 0 && b.rx.isEmpty)

/-- What a flash does: it takes a program operation or an erase, not both. -/
def FlashDev.wf (d : FlashDev) : Bool := d.progAt.isNone || d.eraseAt.isNone

/-- What a start finds: records of epochs that a queue can hold (R176). -/
def BootIn.wf (i : BootIn) : Bool := i.badRecords.all (· < 8)

/-- A well-formed command. -/
def Instr.wf : Instr → Bool
  | .registerWrite _ _ _ _ => true
  | .busAccess a others => a.wf && others.all Access.wf
  | .engineWindowWrite who _ _ width _ => fabricMaster who && widthOk width
  | .engineWindowRead _ _ _ width => widthOk width
  | .ldsHostAccess _ _ width _ _ => widthOk width
  | .sampleTick _ i => i.wf
  | .domainStart _ => true
  | .longWriteDrain _ => true
  | .passDone _ => true
  | .rNop _ _ => true
  | .rEnd _ _ => true
  | .rRpt _ _ _ _ => true
  | .rRptc _ _ _ _ => true
  | .rMac _ _ _ => true
  | .rMacd _ _ _ => true
  | .rMacw _ _ _ => true
  | .rMacqd _ _ _ => true
  | .rMacqc _ _ _ => true
  | .rTap _ _ _ => true
  | .rTapm _ _ _ => true
  | .rFdr _ _ _ _ _ _ _ _ => true
  | .rClrq _ _ _ => true
  | .rLdq _ _ _ _ _ _ => true
  | .rAddq _ _ _ _ _ => true
  | .rStq _ _ _ _ _ => true
  | .rLd _ _ _ _ => true
  | .rSt _ _ _ _ => true
  | .rLuti _ _ _ _ _ _ _ => true
  | .rMov _ _ _ => true
  | .rAdd _ _ _ => true
  | .rAdds _ _ _ => true
  | .rSub _ _ _ => true
  | .rSubs _ _ _ => true
  | .rAnd _ _ _ => true
  | .rOr _ _ _ => true
  | .rXor _ _ _ => true
  | .rShl _ _ _ => true
  | .rShr _ _ _ => true
  | .rAsr _ _ _ => true
  | .rMin _ _ _ => true
  | .rMax _ _ _ => true
  | .rAbs _ _ _ => true
  | .rMovs _ _ _ _ _ => true
  | .rMova _ _ _ _ => true
  | .rAdda _ _ _ _ _ _ => true
  | .rMovm _ _ _ _ => true
  | .rMovad _ _ _ _ => true
  | .rMovmd _ _ _ _ => true
  | .rCmp _ _ _ _ _ _ _ _ _ => true
  | .rPlog _ _ _ _ _ _ => true
  | .rPset _ _ _ _ => true
  | .unassignedRenderOpcode _ _ => true
  | .engSwap _ => true
  | .engClear _ => true
  | .clearDone _ => true
  | .bistGo _ => true
  | .bistDone _ _ => true
  | .testPass _ _ => true
  | .testPassLimit _ => true
  | .halfRequest _ => true
  | .halfClearDone _ => true
  | .scrub => true
  | .epochWrite _ => true
  | .arm => true
  | .unitAck _ => true
  | .reconcileDone _ => true
  | .stgMetdataRead _ => true
  | .sampleIndexRead _ _ => true
  | .boundaryTimeRead _ _ => true
  | .sampleCounterRead _ _ => true
  | .passmaxRead _ _ _ => true
  | .ldsPeakRead _ _ _ => true
  | .windowEnd _ acts _ => acts.length == 23
  | .tsuSample _ t => t.length == 24
  | .tripShutdown _ => true
  | .shadowForce _ => true
  | .avsSettled => true
  | .pmuEval => true
  | .powerStateEntry wake => wake.all fun w => w.1 < 16 && 1 ≤ w.2 && w.2 ≤ 5
  | .wakePin => true
  | .wakeTimer _ => true
  | .gpioWake _ _ _ => true
  | .uart0StartWake => true
  | .uartAddressWake _ _ => true
  | .hspWake => true
  | .netframeWake _ => true
  | .cloneStart _ _ => true
  | .cloneLoadDone => true
  | .cloneCopyDone => true
  | .compareWindowDone => true
  | .shadowAbort => true
  | .handoverRequest _ _ _ _ => true
  | .coldLoadDone => true
  | .ageMeasure => true
  | .ageMeasureDone cnt => cnt.length == 23
  | .ageFmaxWrite _ _ => true
  | .sysupd _ => true
  | .loopLock _ => true
  | .engineClockSet _ _ => true
  | .engineClockLock _ => true
  | .acsUpdate _ => true
  | .acsLock _ => true
  | .acsRelock _ => true
  | .acsClrq _ => true
  | .phaseStepAdd _ _ => true
  | .phaseStepIssue _ => true
  | .acsCoast _ => true
  | .frequencyCheck _ _ _ => true
  | .referenceReturn _ => true
  | .systemReferenceLost => true
  | .mdllUnlock _ _ => true
  | .engineMdllUnlock _ => true
  | .slowClockLoss => true
  | .acsLiveRead _ _ => true
  | .aspStart _ => true
  | .aspStop _ _ => true
  | .aspTrigGo _ _ _ _ _ => true
  | .slaveFrame _ i => i.wf
  | .clockLost _ => true
  | .slotmaskRead _ _ => true
  | .pdmStuck _ _ => true
  | .iecRxFrame _ => true
  | .iecLockLoss => true
  | .iecStatusRead _ => true
  | .iecCsUpdate => true
  | .srcAcquired _ _ => true
  | .srcRampDone _ => true
  | .frameReceive _ _ _ _ _ => true
  | .egressTransmit _ _ => true
  | .internalPortTransmit _ => true
  | .macAgeing _ => true
  | .mtRead => true
  | .mtWriteStatic => true
  | .mtDelete => true
  | .mtFlush => true
  | .mdioC22Write => true
  | .mdioC22Read _ => true
  | .mdioC45Address => true
  | .mdioC45Write => true
  | .mdioC45Read _ => true
  | .tsfInfoRead _ => true
  | .dropsRead _ _ _ => true
  | .linkDown _ _ => true
  | .linkUp _ _ _ step _ _ => 1 ≤ step && step ≤ 5
  | .timeSourceLoss => true
  | .tuSet => true
  | .tuStep => true
  | .tuSourceSwitch _ => true
  | .tuNsRead _ => true
  | .tuLnslRead _ => true
  | .tuLnslWrite _ => true
  | .tpulseArm _ => true
  | .tpulseDisarm _ => true
  | .tpulseEdge _ _ => true
  | .tcapEdge _ _ _ => true
  | .tcapRead _ => true
  | .trigArm => true
  | .trigDisarm => true
  | .trigFire _ => true
  | .doorbellWrite _ _ _ _ => true
  | .sessionIdleTimeout _ => true
  | .hspMsg f => f.wf
  | .hspRead f => f.wf
  | .hspStatus _ f => f.wf
  | .hspRxdataRead _ => true
  | .hspTxdataWrite _ => true
  | .hspRsplenWrite _ _ => true
  | .bcpOpen _ => true
  | .bcpClose _ => true
  | .bcpPing _ => true
  | .bcpGet _ => true
  | .bcpStage _ => true
  | .bcpUnstage _ => true
  | .bcpDiscard _ => true
  | .bcpCommit _ => true
  | .bcpList _ => true
  | .bcpDescribe _ => true
  | .bcpImgbegin _ => true
  | .bcpImgdata _ => true
  | .bcpImgend _ => true
  | .bcpImgread _ => true
  | .bcpTblget _ => true
  | .bcpTblstage _ => true
  | .bcpMeters _ => true
  | .bcpSubscribe _ => true
  | .bcpEvstat _ => true
  | .bcpPowerstat _ => true
  | .bcpLehrstat _ => true
  | .bcpEngmap _ => true
  | .bcpRelease _ => true
  | .bcpRetire _ => true
  | .bcpLogread _ => true
  | .bcpJsync _ => true
  | .bcpJclear _ => true
  | .bcpFwbegin _ => true
  | .fwEraseDone _ => true
  | .bcpFwdata _ _ => true
  | .bcpFwend _ => true
  | .fwVerifyDone _ => true
  | .bcpFwstat _ => true
  | .bcpReset _ => true
  | .resetDelayExpiry => true
  | .uartRxCharacter _ _ => true
  | .autobaudTimeout _ => true
  | .uartTxCharacter _ _ => true
  | .deHoldExpiry _ => true
  | .uartTxdataWrite _ _ => true
  | .uartRxdataRead _ _ => true
  | .uartBaudWrite _ _ => true
  | .uartRxflush _ => true
  | .uartTxflush _ => true
  | .uartTxbrk _ _ => true
  | .uartDisable _ => true
  | .pscCommandWrite _ => true
  | .pscTransfer _ => true
  | .pscAbort _ => true
  | .pscTxdataWrite _ => true
  | .pscRxdataRead _ => true
  | .i2cXferGo _ => true
  | .i2cTimeout => true
  | .i2cClear pulse => pulse ≤ 9
  | .i2cDataWrite _ => true
  | .i2cDataRead _ => true
  | .gpioEdge _ _ _ _ _ => true
  | .gpioSet _ => true
  | .gpioClr _ => true
  | .xmpTransfer _ dev => dev.wf
  | .xmpPollDone _ _ => true
  | .xmpPollTimeout => true
  | .xmpAbort => true
  | .xmpEcccntRead _ _ _ _ => true
  | .xipEnable => true
  | .xipLock => true
  | .xipRead _ _ width => widthOk width
  | .xipCacheInvalidate => true
  | .journalFrameWrite => true
  | .journalStamp => true
  | .journalWriteDone _ => true
  | .retentionScan _ _ => true
  | .deviceReset i => i.wf
  | .romStatus _ _ => true
  | .romBegin _ _ => true
  | .romData _ _ => true
  | .romEnd _ _ _ => true
  | .recoveryWindowClose _ _ => true
  | .fuseProgram _ _ => true
  | .kdfGo _ => true
  | .kdfBoundSet _ => true
  | .keyClear => true
  | .hashStart => true
  | .hashDataWrite _ => true
  | .hashFinish _ => true
  | .verifyGo => true
  | .verifyDone => true
  | .supplyMonitorFail => true
  | .vddAonLoss => true
  | .rstN lowNs released => released || lowNs != 0
  | .s5ExitRetry _ => true
  | .ccAdd _ _ => true
  | .ccSub _ _ => true
  | .ccAnd _ _ => true
  | .ccOr _ _ => true
  | .ccXor _ _ => true
  | .ccShl _ _ => true
  | .ccShr _ _ => true
  | .ccAsr _ _ => true
  | .ccSlt _ _ => true
  | .ccSltu _ _ => true
  | .ccMul _ _ => true
  | .ccMulh _ _ => true
  | .ccMulhu _ _ => true
  | .ccDiv _ _ => true
  | .ccDivu _ _ => true
  | .ccRem _ _ => true
  | .ccRemu _ _ => true
  | .ccAddi _ _ => true
  | .ccSlti _ _ => true
  | .ccAndi _ _ => true
  | .ccOri _ _ => true
  | .ccXori _ _ => true
  | .ccShli _ _ => true
  | .ccShri _ _ => true
  | .ccAsri _ _ => true
  | .ccLui _ _ => true
  | .ccMfs _ _ => true
  | .ccMts _ _ => true
  | .ccTrap _ _ => true
  | .ccLd _ _ => true
  | .ccLdu _ _ => true
  | .ccSt _ _ => true
  | .ccCb _ _ => true
  | .ccCbi _ _ => true
  | .ccJ _ _ => true
  | .ccCall _ _ => true
  | .ccCallr _ _ => true
  | .ccRet _ => true
  | .ccEret _ => true
  | .ccWeret _ => true
  | .ccWait _ => true
  | .ccSync _ => true
  | .ccIsync _ => true
  | .ccWspill _ _ => true
  | .ccWfill _ _ => true
  | .ccSmov _ _ _ => true
  | .ccSfill _ _ _ => true
  | .ccScmp _ _ _ => true
  | .ccSfind _ _ _ => true
  | .ccDclean _ _ => true
  | .ccDinval _ _ => true
  | .ccDflush _ _ => true
  | .ccDcleanAll _ _ => true
  | .ccDflushAll _ _ => true
  | .ccIinval _ _ => true
  | .ccIinvalAll _ _ => true
  | .ccIllegalInstruction _ _ => true
  | .irqEntry _ => true
  | .cycleCounterRead _ _ => true
  | .ecccntRead _ _ _ _ => true
  | .wdkickWrite _ _ => true
  | .watchdogWarn _ => true
  | .watchdogExpiry i => i.wf
  | .cc1WatchdogExpiry _ => true
  | .cc1AppRestart => true
  | .mpuRegionLock _ _ => true
  | .dmaGo _ => true
  | .dmaStop _ => true
  | .dmaClrhalt => true
  | .dmaSwreqWrite _ => true
  | .dmaBurst => true
  | .wakeRelease => true
  | .systemReferenceReturn => true
  | .stoppedDomainFrame _ => true
  | .ratioOutOfRange _ => true
  | .i2cTransferEnd b => b.wf
  | .checkOverdue _ => true
  | .aonPowerOn => true
  | .receiveClockChange _ _ => true

end Sys2Proof
end

