-- ==== Sys2Proof/Tests/Slice0.lean ====
section
/-! SUPPORT. Small tests of single commands and of the checks of WellFormed, and for each statement states and operands that
meet the hypotheses of each of its clauses (`wit_<statement>_<k>`), most with what the spec's rules give there.  Expected
values come from the rules that the statement names. -/

open Sys2Proof Sys2Proof.Machine

namespace Sys2Proof.Tests

set_option Elab.async false

/-- Every power domain is on. -/
def on : State := State.reset.setF F.PMU_PDSTAT_ON 0x3FFFFFF

/-- Fields take numbers. -/
def put (s : State) (l : List (Fld × Nat)) : State := l.foldl (fun s p => s.setF p.1 p.2) s

/-- The command answers a next state with a property. -/
def after (o : Res State) (p : State → Bool) : Bool :=
  match o with
  | .next t => p t
  | _ => false

def row (a : Nat) : RegRow := (regRow a).getD ⟨0, 0, 0, 0, 0, 0, 0, 0, 0, 0, 0, 0, 0⟩

/-- No time passes; one tick of the time unit. -/
def now : Elapsed := { ticks := 0, slow := 0 }
def tick : Elapsed := { ticks := 1, slow := 0 }

/-- Nothing goes wrong at a start, with the flash that the reset state has. -/
def start : BootIn := ⟨false, false, true, false, false, 0x1FFFF, false, [], State.reset.flash.part⟩

theorem test_reset_queue : State.reset.pending = [] := by decide

/-- An empty queue: one tick of the time unit passes, of the slow clock after reset (log 1). -/
theorem test_idle_tick : after (step State.reset) (fun t => t.now == 3906250 && t.pending == []) = true := by decide

/-! ## The block and the crossbar -/

theorem test_step_pops : after (step { on with pending := [.arm, .scrub] }) (fun t => t.pending == [.scrub]) = true := by
  decide +kernel

def stops (o : Res State) (a : Nat) : Bool :=
  match o with
  | .fault (.reservedBitWritten b) => a == b
  | _ => false

theorem wit_RegisterWrites_1 : ∃ (who : Initiator) (addr data meets : Word) (r : RegRow) (s : State),
    s.busKind ⟨who, true, 4, addr, data, .clean⟩ = none ∧ 0x40000000 ≤ addr.toNat ∧ addr.toNat < 0x50000000 ∧
      regRow addr.toNat = some r ∧ data.toNat &&& r.reserved ≠ 0 ∧
      stops (exec (.registerWrite who addr data meets) s) addr.toNat = true :=
  ⟨.cc0, 0x40030004, 0x80000000, 0, row 0x40030004, on, by decide +kernel⟩

/-- W1C bits of the error register clear where the data is 1, but for one that hardware sets in the cycle (R7); the last route register keeps its RO bits. -/
def plainWrite (who : Initiator) (a : Nat) (data : Word) (r : RegRow) (s : State) : Prop :=
  (who = .cc0 ∨ who = .cc1 ∨ who = .dma) ∧ s.on 21 = true ∧
    ((R.XCH_ERR ≤ a ∧ a ≤ R.XCH_MUTE) ∨ (R.XCH_ROUTE 0 ≤ a ∧ a < 0x40040000) ∨ (R.LDS_CTRL < a ∧ a < 0x40180000)) ∧
    regRow a = some r ∧ a % 4 = 0 ∧ data.toNat &&& r.reserved = 0
theorem wit_RegisterWrites_2 : plainWrite .dma R.XCH_ERR 3 (row R.XCH_ERR) (on.setReg R.XCH_ERR 3) ∧
    after (exec (.registerWrite .dma (BitVec.ofNat 32 R.XCH_ERR) 3 2) (on.setReg R.XCH_ERR 3))
      (fun t => t.reg R.XCH_ERR == 2) = true := by simp only [plainWrite]; decide +kernel
theorem wit_RegisterWrites_3 : plainWrite .cc1 (R.XCH_ROUTE 2047) 0x80000000 (row (R.XCH_ROUTE 2047)) on ∧
    after (exec (.registerWrite .cc1 (BitVec.ofNat 32 (R.XCH_ROUTE 2047)) 0x80000000 0) on)
      (fun t => t.reg (R.XCH_ROUTE 2047) == 0 && !t.resp.err) = true := by simp only [plainWrite]; decide +kernel

/-- Bus errors: each ground once, at boundary addresses. -/
def err (w : Bool) (width : Nat) (a : Word) (s : State) : Bool :=
  after (exec (.busAccess ⟨.nsw, w, width, a, 0, .clean⟩ []) s) fun t =>
    t.resp == ⟨0, true⟩ && t.regs == s.regs && t.sram == s.sram
theorem wit_BusErrors_unassigned : err false 4 0x00010000 on = true ∧ err false 4 0x10400000 on = true ∧
    err false 4 0x21100000 on = true ∧ err false 4 0x70000000 on = true := by decide +kernel
theorem wit_BusErrors_noRegister : regRow 0x4FFFFFFC = none ∧ err false 4 0x4FFFFFFC on = true := by decide +kernel
theorem wit_BusErrors_alignment : err false 2 0x10000001 on = true ∧ err false 4 0x10000002 on = true ∧
    err false 1 0x40030000 on = true ∧ err false 2 0x40030000 on = true := by decide +kernel
theorem wit_BusErrors_readOnly : err true 4 0 on = true ∧ err true 4 0x60000000 on = true := by decide +kernel
theorem wit_BusErrors_off : let s := on.setF F.PMU_PDSTAT_ON 0
    s.on 21 = false ∧ s.on 16 = false ∧ s.on 18 = false ∧ s.blockOn 0x40030000 = false ∧ err false 4 0x103FFFFC s = true ∧
      err false 4 0x21000000 s = true ∧ err false 4 0x30400000 s = true ∧ err false 4 0x40030000 s = true := by decide +kernel
theorem wit_BusErrors_gate : on.b (F.ENG_CTRL_HOSTACC 16) = false ∧ err true 4 0x21000000 on = true := by decide +kernel
/-- The same of DMA, which halts with the address recorded, and of a running core, which takes its data abort. -/
theorem wit_BusErrors_dma : on.b F.DMA_STAT_HALTED = false ∧ after (exec (.busAccess ⟨.dma, false, 4, 0x70000000, 0, .clean⟩ []) on)
    (fun t => t.b F.DMA_STAT_HALTED && t.reg R.DMA_ERRADDR == 0x70000000) = true := by decide +kernel
def runs0 : State := on.modCc 0 fun k => { k.setSr 3 0x10000400 with pc := 0x100 }
theorem wit_BusErrors_core : (runs0.coreRuns 0 = true ∧ (runs0.cc 0).exl = false ∧
    (runs0.cc 0).wexl = false ∧ (runs0.cc 0).slot = none ∧ (runs0.cc 0).pend = []) ∧
    after (exec (.busAccess ⟨.cc0, true, 4, 0x70000000, 0, .clean⟩ []) runs0)
      (fun t => (t.cc 0).pc == 0x10000480 && (t.cc 0).sr 4 == 0x100 && (t.cc 0).sr 6 == 0x70000000) = true := by decide +kernel

/-- A word that a lower initiator in the grant order writes in the same cycle. -/
theorem wit_SameCycle : ∃ (w r : Initiator) (off : Nat) (data : Word) (s : State), (w ≠ r ∧ s.on 21 = true ∧ off % 4 = 0 ∧
    off + 4 ≤ 0x3FF000 ∧ s.mbxBlock off = none ∧ off / 4 ∉ s.sramBad ∧ off / 4 ∉ s.sramSoft) ∧
    after (exec (.busAccess ⟨r, false, 4, BitVec.ofNat 32 (0x18000000 + off), 0, .clean⟩
      [⟨w, true, 4, BitVec.ofNat 32 (0x18000000 + off), data, .clean⟩]) s) (fun t => t.resp == ⟨data, false⟩) = true :=
  ⟨.stg, .cc1, 0x3FEFFC, 0x01020304, on, by decide +kernel⟩
theorem test_grant_order : after (exec (.busAccess ⟨.stg, false, 4, 0x18000000, 0, .clean⟩
    [⟨.cc1, true, 4, 0x18000000, 5, .clean⟩]) on) (fun t => t.resp == ⟨0, false⟩ && memGet t.sram 0 == 5) = true := by
  decide +kernel

/-- Control SRAM by the second alias, at the last halfword below the doorbells. -/
theorem wit_ControlSram : ∃ (who : Initiator) (width base off : Nat) (data : Word) (s : State),
    s.on 21 = true ∧ (width = 1 ∨ width = 2 ∨ width = 4) ∧ (base = 0x10000000 ∨ base = 0x18000000) ∧ off % width = 0 ∧
      off + width ≤ 0x3FF000 ∧ s.mbxBlock (off / 4 * 4) = none ∧ off / 4 ∉ s.sramBad ∧ off / 4 ∉ s.sramSoft ∧
      after (exec (.busAccess ⟨who, true, width, BitVec.ofNat 32 (base + off), data, .clean⟩ []) s)
        (fun t => t.sram == [(off, 0x34), (off + 1, 0x12)]) = true :=
  ⟨.stg, 2, 0x18000000, 0x3FEFFE, 0xABCD1234, on, by decide +kernel⟩

theorem test_sram_double_error : after (exec (.busAccess ⟨.se, false, 4, 0x10000100, 0, .double⟩ []) on)
    (fun t => t.resp == ⟨0, true⟩ && t.eccAddr == 0x80000100 && t.sramBad == [64]) = true := by decide +kernel

theorem wit_WindowWrites : ∃ (who : Initiator) (e : Eng) (s : State), (who = .cc0 ∨ who = .cc1 ∨ who = .dma) ∧ s.on e = true ∧
    s.b (F.ENG_CTRL_HOSTACC e) = true ∧
    after (exec (.engineWindowWrite who e 0x1FFFC 4 0x12345678) s) (fun t => memGet (t.eng e).coefSh 0x3FFF == 0x12345678)
      = true ∧
    after (exec (.engineWindowWrite who e 0xFFFFC 4 7) s) (fun t => memGet (t.eng e).tile 0x1FFFF == 7) = true ∧
    after (exec (.engineWindowWrite who e 0xFFF8 4 1) s) (fun t => (t.eng e).progSh == [] && after
      (exec (.engineWindowWrite who e 0xFFFC 4 2) t) fun u => memGet (u.eng e).progSh 0x1FFF == 0x200000001) = true :=
  ⟨.dma, 16, put on [(F.ENG_CTRL_HOSTACC 16, 1)], by decide +kernel⟩

/-- Reads of a sound word: of an engine out of service, and of one in service in a pass, which runs to its END first. -/
def words (s : State) : State := s.modEng 3 fun x => { x with st := [(0x1FFF, 9)], coefSh := [(0, 8)], progSh := [(0, 0x600000005)] }
theorem wit_WindowReads : ∃ (e : Eng) (s : State), (s.on e = true ∧ (s.eng e).busy = false ∧ 0x1FFF ∉ (s.eng e).bad ∧
    0x1FFF ∉ (s.eng e).soft ∧ coefShCode 0 ∉ (s.eng e).bad ∧ ∀ hi, progShCode 0 hi ∉ (s.eng e).bad ∧ progShCode 0 hi ∉ (s.eng e).soft) ∧
    after (exec (.engineWindowRead .cc0 e 0x27FFC 4) s) (fun t => t.resp == ⟨9, false⟩) = true ∧
    after (exec (.engineWindowRead .cc0 e 0x10000 4) s) (fun t => t.resp == ⟨8, false⟩) = true ∧
    after (exec (.engineWindowRead .cc0 e 0 4) s) (fun t => t.resp == ⟨5, false⟩ && after
      (exec (.engineWindowRead .cc0 e 4 4) (t.modEng e fun x => { x with progSh := [] })) fun u => u.resp == ⟨6, false⟩) = true :=
  ⟨3, words on, by decide +kernel⟩
def inPass : State := (words (put on [(F.ENG_STAT_MODE 3, 2), (F.ENG_CLKST_LOCK 3, 1)])).modEng 3 fun x =>
  { x with busy := true, prog := [(0, renderWord ⟨0, false, false⟩ 0x01 0)] }
theorem wit_WindowReads_inPass : (inPass.inService 3 = true ∧ (inPass.eng 3).busy = true) ∧
    after (exec (.engineWindowRead .cc1 3 0x27FFC 4) inPass) (fun t => t.resp == ⟨9, false⟩ && !(t.eng 3).busy && (t.eng 3).done)
      = true := by decide +kernel

theorem wit_LdsAccess : ∃ (who : Core) (w : Nat) (data : Word) (s : State), w < 0x200000 ∧
    s.on (17 + w / 0x100000) = true ∧ w ∉ s.ldsBad ∧ w ∉ s.ldsSoft ∧
    after (exec (.ldsHostAccess who true 4 (BitVec.ofNat 32 (4 * w)) data) s) (fun t => t.lds == [(w, data)]) = true :=
  ⟨1, 0x1FFFFF, 0xFFFFFFFF, on, by decide +kernel⟩

/-! ## Sample timing -/

/-- Domain 1 runs at sample 8 of its blocks of 8, its divider at 1024 and a half. -/
def run1 : State := put on [(F.RD_STAT_RUN 1, 1), (F.RD_SIDXL_SIDX 1, 8), (F.RD_CTRL_BLEN 1, 0), (F.RD_CTRL_EN 1, 1),
  (F.RD_DIVI_INT 1, 1024), (F.RD_DIVF_FRAC 1, 0x80000000), (F.XCH_ROUTE_VALID 5, 1), (F.XCH_ROUTE_DOMAIN 5, 1)]

theorem wit_IndexReads : ∃ (who : Initiator) (d : Dom) (e : Eng) (hw : Nat) (s : State), s.on 21 = true ∧ s.on e = true ∧
    listed s.latch (R.RD_SIDXH d) = some 7 ∧
    after (exec (.sampleIndexRead who d) s) (fun t => t.resp.data == 8 && listed t.latch (R.RD_SIDXH d) == some 0) = true ∧
    after (exec (.passmaxRead who e hw) s) (fun t => t.resp.data == 0 && t.f (F.ENG_PASSMAX_CYC e) == hw) = true ∧
    after (exec (.busAccess ⟨.cc1, false, 4, BitVec.ofNat 32 (R.RD_SIDXH d), 0, .clean⟩ []) s)
      (fun t => t.resp.data == 7 && t.latch == []) = true :=
  ⟨.cc0, 1, 16, 0xFFFFF, run1.setLatch (R.RD_SIDXH 1) 7, by decide +kernel⟩

/-- Domain 3 may start: its settings are valid and its synthesiser is on. -/
def may3 : State := put on [(F.RD_CTRL_EN 3, 1), (F.RD_DIVI_INT 3, 1024), (F.ACS_CTRL_EN 0, 1)]
def startHyps (d : Nat) (s : State) : Bool := s.on 21 && s.group d == [d] && s.chained d == []
def may (d : Nat) (s : State) : Bool := s.b (F.RD_CTRL_EN d) && !s.linked d && !s.running d
theorem wit_DomainStart_locked : ∃ s : State, (startHyps 3 s = true ∧ may 3 s = true ∧ s.groupOk 3 = true ∧
    s.b (F.ACS_CTRL_EN (s.f (F.RD_CTRL_SRC 3))) = true ∧ s.b (F.ACS_STAT_LOCK (s.f (F.RD_CTRL_SRC 3))) = true ∧
    (∀ p, p < 8 → s.aspDom p ≠ 3) ∧ s.puntyOf = none ∧ ∀ e, e < 17 → s.clean e = true) ∧
    after (exec (.domainStart 8) s) (fun t => t.running 3 && (t.dom 3).first) = true :=
  ⟨put may3 [(F.ACS_STAT_LOCK 0, 1)], by decide +kernel⟩
theorem wit_DomainStart_waits : ∃ s : State, (startHyps 3 s = true ∧ may 3 s = true ∧ s.groupOk 3 = true ∧
    s.b (F.ACS_CTRL_EN (s.f (F.RD_CTRL_SRC 3))) = true ∧ s.b (F.ACS_STAT_LOCK (s.f (F.RD_CTRL_SRC 3))) = false ∧
    s.b (F.ACS_STAT_COAST (s.f (F.RD_CTRL_SRC 3))) = false) ∧
    after (exec (.domainStart 8) s) (fun t => !t.running 3 && t.b (F.RD_STAT_ACSWAIT 3)) = true :=
  ⟨may3, by decide +kernel⟩
theorem wit_DomainStart_invalid : ∃ s : State, (startHyps 3 s = true ∧ may 3 s = true ∧ s.groupOk 3 = false) ∧
    after (exec (.domainStart 8) s) (fun t => !t.running 3 && t.b (F.RD_STAT_CFGERR 3)) = true :=
  ⟨put may3 [(F.RD_DIVI_INT 3, 0)], by decide +kernel⟩
theorem wit_DomainStart_alone : startHyps 0 on = true ∧ may 0 on = false ∧
    after (exec (.domainStart 1) on) (fun t => t.regs == on.regs) = true := by decide +kernel

/-- No unit belongs to domain 1. -/
theorem quiet1 : Quiet run1 1 where
  group := by decide +kernel
  engines := by decide +kernel
  logical := by decide +kernel
  ports := by decide +kernel
  pdms := by decide +kernel
  converters := by decide +kernel
  iec := by decide +kernel
  streams := by decide +kernel
theorem wit_SampleTick : ∃ (d : Dom) (i : TickIn) (s : State), (RegsWf s ∧ s.running d = true ∧ s.linked d = false ∧
    (s.dom d).tripRamp = none ∧ (s.dom d).first = false ∧ s.sidx d + 1 < 2 ^ 64 ∧ (s.sidx d + 1) % s.blen d ≠ 0 ∧
    (s.sidx d + 1) % s.blen d ≠ s.blen d - s.blen d / 4 ∧ s.b (F.XCH_ROUTE_VALID 5) = true ∧
    s.f (F.XCH_ROUTE_DOMAIN 5) = d ∧ s.f (F.XCH_ROUTE_KIND 5) ≠ 1) ∧
    after (exec (.sampleTick d i) s) (fun t => t.sidx d == 9 && t.f (F.RD_STAT_PHASE d) == 1 &&
      (t.dom d).acc == 0x80000000 && (t.dom d).period == 1024) = true :=
  ⟨1, ⟨now, [], [], []⟩, run1, by decide +kernel⟩

/-- A boundary with EN clear. -/
theorem wit_SampleTick_stops : ∃ (d : Dom) (i : TickIn) (s : State), (s.running d = true ∧ s.linked d = false ∧
    s.b (F.RD_CTRL_EN d) = false ∧ d.val ∉ s.stg.groups ∧ (s.dom d).first = false ∧ (s.sidx d + 1) % s.blen d = 0) ∧
    after (exec (.sampleTick d i) s) (fun t => !t.running d && t.sidx d == 15) = true :=
  ⟨1, ⟨now, [], [], []⟩, put run1 [(F.RD_CTRL_EN 1, 0), (F.RD_SIDXL_SIDX 1, 15)], by decide +kernel⟩

/-- Engine 3 is live, its END has retired, and its pass wrote one long-write entry: line 2, delay 5. -/
def live3 : State := ((put on [(F.ENG_STAT_MODE 3, 2), (F.ENG_SCNTL_N 3, 9), (F.LDS_STAT_HAST, 2), (F.LDS_STAT_HBST, 2),
  (F.LINELEN_LEN 2, 16), (F.LINEBASE_VALID 2, 1), (F.ENG_MAP_VALID 3, 1), (F.ENG_MAP_LE 3, 6)]).modLe 6
  (fun x => { x with host := some 3 })).modEng 3 fun x => { x with lwr := [BitVec.ofNat 32 (2 * 2 ^ 24 + 5)], lw := [(0, 77)] }
theorem wit_PassDone : ∃ (e : Eng) (s : State), (s.inService e = true ∧ (s.eng e).test = false ∧ (s.eng e).done = false ∧
    (s.eng e).busy = false ∧ s.comparing = false ∧ s.scuState ≠ 2 ∧ s.scuState ≠ 3) ∧
    after (exec (.passDone e) s) (fun t => (t.eng e).done && (t.eng e).drain == some (9, [(0, 77)]) && (t.eng e).lw == [])
      = true :=
  ⟨3, live3, by decide +kernel⟩
theorem wit_LongWriteDrain : ∃ (e : Eng) (n : Nat) (ws : List (Nat × Word)) (s : State),
    (NoEcc s e ∧ (s.eng e).drain = some (n, ws) ∧ s.drainsToLds e = true ∧ ∀ p ∈ ws, s.half (ldsHalf
      (s.lineAddr (entryLine ((s.eng e).lwr.getD p.1 0)) ((n : Int) - entryDelay ((s.eng e).lwr.getD p.1 0)))) = 2) ∧
    after (exec (.longWriteDrain e) s) (fun t => (t.eng e).drain == none && t.lds == [(4, 77)]) = true :=
  ⟨3, 9, [(0, 77)], live3.modEng 3 fun x => { x with drain := some (9, [(0, 77)]) }, by decide +kernel⟩

/-! ## The control block of an engine -/

def out5 : State := (put on [(F.ENG_STAT_MODE 5, 1), (F.ENG_CLKST_LOCK 5, 1)]).modEng 5 fun x => { x with prog := [(0, 1)], coefSh := [(1, 2)] }
theorem wit_EngineActions : ∃ (e : Eng) (s : State),
    (s.mode e ≠ 0 ∧ s.inService e = false ∧ s.b (F.ENG_STAT_BUSY e) = false ∧ s.b (F.ENG_CLKST_LOCK e) = true ∧
      s.puntyOf ≠ some e.val) ∧
    after (exec (.engSwap e) s) (fun t => (t.eng e).progSh == [(0, 1)] && (t.eng e).coef == [(1, 2)]) = true ∧
    after (exec (.engClear e) s) (fun t => t.mode e == 6 && t.b (F.ENG_STAT_BUSY e)) = true ∧
    after (exec (.bistGo e) s) (fun t => t.mode e == 5) = true := ⟨5, out5, by decide +kernel⟩
theorem wit_EngineActions_refused : ∃ (e : Eng) (s : State), (s.mode e ≠ 0 ∧ s.inService e = true) ∧
    after (exec (.engClear e) s) (fun t => t.regs == s.regs) = true := ⟨3, live3, by decide +kernel⟩
theorem wit_ClearDone : ∃ (e : Eng) (s : State), (s.mode e = 6 ∧ (s.eng e).clearRole = false ∧ (s.eng e).acts = [] ∧
    ∀ l, l < 16 → (s.le l).entry = .none ∧ (s.le l).inst = none) ∧
    after (exec (.clearDone e) s) (fun t => t.mode e == 1 && (t.eng e).st == [] && (t.eng e).prog == [(0, 1)]) = true :=
  ⟨5, (put out5 [(F.ENG_STAT_MODE 5, 6), (F.ENG_STAT_BUSY 5, 1)]).modEng 5 fun x => { x with st := [(3, 3)] },
    by decide +kernel⟩

/-- Engine 5 is in BIST, and no engine has a role. -/
def bist5 : State := put on [(F.ENG_STAT_MODE 5, 5), (F.ENG_STAT_BUSY 5, 1), (F.ENG_BIST_RUNS 5, 255), (F.ENG_CLKST_LOCK 5, 1)]
theorem wit_BistDone : ∃ (e : Eng) (s : State), (s.mode e = 5 ∧ s.b (F.ENG_CLKST_LOCK e) = true ∧ (s.eng e).acts = [] ∧ (s.eng e).role = .out ∧
    (s.eng e).retiring = 0 ∧ (s.eng e).released = false ∧ (s.eng e).faulted = false ∧ s.scu.held = none ∧ (s.eng e).caseLe = none ∧
    s.puntyOf = none ∧ s.rolesOf .reserve = [] ∧ s.stg.queue = [] ∧ ∀ l, l < 16 → (s.le l).image = [] ∧ (s.le l).entry = .none ∧ (s.le l).inst = none) ∧
    after (exec (.bistDone e 0) s) (fun t => (t.eng e).role == .punty && t.b (F.ENG_BIST_PASS e) &&
      t.f (F.ENG_BIST_RUNS e) == 255 && t.mode e == 1) = true ∧
    after (exec (.bistDone e 0x1000) s) (fun t => (t.eng e).role == .cullet && t.mode e == 0 && !t.on e) = true :=
  ⟨5, bist5, by decide +kernel⟩
theorem wit_TestPass : ∃ (e : Eng) (k : BitVec 2) (h : Hdr) (s : State), ((s.eng e).acts = [] ∧ s.engN e + 1 < 2 ^ 64 ∧
    s.inService e = false ∧ s.mode e ≠ 0 ∧ s.b (F.ENG_STAT_BUSY e) = false ∧ (s.eng e).bad = [] ∧ (s.eng e).soft = [] ∧
    s.b (F.ENG_CLKST_LOCK e) = true ∧ memGet (s.eng e).prog (s.f (F.ENG_ENTRY_ADDR e k.toNat)) = renderWord h 0x01 0) ∧
    after (exec (.testPass e k) s) (fun t => t.mode e == 1 && t.b (F.ENG_STAT_TDONE e) && t.engN e == 1 &&
      t.f (F.ENG_CTRL_TTIER e) == 3) = true :=
  ⟨5, 3, ⟨0, false, false⟩, (put out5 [(F.ENG_ENTRY_ADDR 5 3, 8191)]).modEng 5
    fun x => { x with prog := [(8191, renderWord ⟨0, false, false⟩ 0x01 0)] }, by decide +kernel⟩
theorem wit_TestPassLimit : ∃ (e : Eng) (s : State), ((s.eng e).acts = [] ∧ s.engN e + 1 < 2 ^ 64 ∧ s.mode e = 4 ∧
    (s.eng e).busy = true ∧ (s.eng e).pend = []) ∧
    after (exec (.testPassLimit e) s) (fun t => t.b (F.ENG_STAT_TLIMIT e) && t.b (F.ENG_STAT_TDONE e) && !(t.eng e).busy)
      = true :=
  ⟨5, (put out5 [(F.ENG_STAT_MODE 5, 4), (F.ENG_STAT_BUSY 5, 1)]).modEng 5
    fun x => { x with busy := true, test := true }, by decide +kernel⟩

/-! ## Render instructions -/

/-- Engine 7 in a pass, with words in its registers and memories; line 5 is the striped line of R137's example, at its N. -/
def pass7 : State := (put on [(F.ENG_STAT_MODE 7, 2), (F.ENG_CLKST_LOCK 7, 1), (F.ENG_SCNTL_N 7, 1000003), (F.ENG_CNT_COUNT 7 2, 3),
  (F.ENG_TIERST_TIER 7, 1), (F.ENG_DESC_ST 7 5, 1), (F.ENG_DESC_BASE 7 5, 0x100), (F.ENG_DESC_LENM1 7 5, 1023),
  (F.ENG_DESC_ST 7 6, 0), (F.ENG_DESC_BASE 7 6, 0x2000), (F.ENG_DESC_LENM1 7 6, 299)]).modEng 7
  fun x => { x with
    busy := true, pc := 8190, slot := 10
    d := ((((x.d.set 0 0x7FFFFFFF).set 1 1).set 2 (-8)).set 4 0x80000000).set 6 0x20000000
    a := (x.a.set 0 0x20).set 1 0x30
    m := (x.m.set 0 4).set 1 (-1)
    q := (x.q.set 0 (BitVec.ofNat 72 (2 ^ 40))).set 1 3
    p := x.p.set 1 true
    st := [(0x20, 99)]
    coef := [(0x30, 10), (0x31, 20), (0x32, 30), (0x33, 40), (0x2028, 0x1234), (0x2029, 0x2234)]
    tile := [(656, 4), (32768 + 656, 3), (65536 + 103, 77), (65536 + 656, 2), (98304 + 656, 1)] }

def G0 : Hdr := ⟨0, false, false⟩
/-- The guard P2 does not hold. -/
def GF : Hdr := ⟨2, false, true⟩
/-- After a command, the next issue slot sees a word in a place, one stage after the one that writes it. -/
def seen (c : Instr) (x : RDest) (st : Nat) (v : Int) : Bool := after (exec c pass7) fun t => t.see 7 x st == v
def D (c : Instr) (v : Int) : Bool := seen c (.d 3) stX1 v
def alu (da db : Nat) : AluOp := ⟨3, BitVec.ofNat 4 da, BitVec.ofNat 4 db, false, 0⟩
def aluI (da : Nat) (imm : Word) : AluOp := ⟨3, BitVec.ofNat 4 da, 0, true, imm⟩

theorem wit_Runs : Runs pass7 7 G0 ∧ NoEcc (pass7.atIssue 7) 7 := by decide +kernel
theorem wit_FailedGuard : pass7.issues 7 = true ∧ (pass7.atIssue 7).guard 7 GF = false ∧
    on.issues 7 = false := by decide +kernel
theorem test_nop : after (exec (.rNop 7 G0) pass7) (fun t => (t.eng 7).pc == 8191 && (t.eng 7).slot == 11) = true := by
  decide +kernel
theorem test_idle_engine : after (exec (.rNop 7 G0) on) (fun t => t.regs == on.regs) = true := by decide +kernel
theorem test_unassigned : after (exec (.unassignedRenderOpcode 7 0xFFFFFFFFFFFFFFFF) pass7) (fun t => (t.eng 7).pc == 8191)
    = true := by decide +kernel

theorem test_mov : D (.rMov 7 G0 (aluI 0 0x80000000)) (-2147483648) = true := by decide +kernel
theorem test_add : D (.rAdd 7 G0 (alu 0 1)) (-2147483648) = true := by decide +kernel
theorem test_adds : D (.rAdds 7 G0 (alu 0 1)) 2147483647 = true := by decide +kernel
theorem test_sub : D (.rSub 7 G0 (alu 2 0)) 2147483641 = true := by decide +kernel
theorem test_subs : D (.rSubs 7 G0 (alu 2 0)) (-2147483648) = true := by decide +kernel
theorem test_and : D (.rAnd 7 G0 (alu 0 2)) 2147483640 = true := by decide +kernel
theorem test_or : D (.rOr 7 G0 (alu 0 2)) (-1) = true := by decide +kernel
theorem test_xor : D (.rXor 7 G0 (alu 0 2)) (-2147483641) = true := by decide +kernel
theorem test_shl_mod_32 : D (.rShl 7 G0 (aluI 1 33)) 2 = true := by decide +kernel
theorem test_shr : D (.rShr 7 G0 (aluI 2 1)) 0x7FFFFFFC = true := by decide +kernel
theorem test_asr : D (.rAsr 7 G0 (aluI 2 1)) (-4) = true := by decide +kernel
theorem test_min : D (.rMin 7 G0 (alu 2 1)) (-8) = true := by decide +kernel
theorem test_max : D (.rMax 7 G0 (alu 2 1)) 1 = true := by decide +kernel
theorem test_abs_saturates : D (.rAbs 7 G0 (alu 4 0)) 2147483647 = true := by decide +kernel

theorem test_movs : D (.rMovs 7 G0 3 1 9) 0x30 = true ∧ D (.rMovs 7 G0 3 1 10) (-1) = true ∧ D (.rMovs 7 G0 3 0 3) 1000003 = true ∧
    D (.rMovs 7 G0 3 0 7) 3 = true ∧ D (.rMovs 7 G0 3 0 0) 1 = true := by decide +kernel
theorem test_mova : seen (.rMova 7 G0 15 0xFFFFF) (.a 15) stM 0xFFFFF = true := by decide +kernel
theorem test_adda_wraps : seen (.rAdda 7 G0 0 0 false 0xFFFDF) (.a 0) stM 0xFFFFF = true ∧
    seen (.rAdda 7 G0 0 1 true 0) (.a 0) stM 0x1F = true := by decide +kernel
theorem test_movm : seen (.rMovm 7 G0 7 0xFFFFF) (.m 7) stM (-1) = true := by decide +kernel
theorem test_movad : seen (.rMovad 7 G0 4 2) (.a 4) stM 0xFFFF8 = true := by decide +kernel
theorem test_movmd : seen (.rMovmd 7 G0 3 2) (.m 3) stM (-8) = true := by decide +kernel
theorem test_cmp : seen (.rCmp 7 G0 2 2 2 1 false false 0) (.p 2) stM 1 = true ∧
    seen (.rCmp 7 G0 2 4 2 1 false false 0) (.p 2) stM 0 = true := by decide +kernel
theorem test_plog : seen (.rPlog 7 G0 3 1 2 3) (.p 3) stM 1 = true ∧ seen (.rPset 7 G0 0 false) (.p 0) stM 1 = true := by
  decide +kernel
theorem test_pset : seen (.rPset 7 G0 7 true) (.p 7) stM 1 = true := by decide +kernel

theorem test_clrq : seen (.rClrq 7 G0 0x80 ) (.q 0) stX2 (2 ^ 40) = true ∧ seen (.rClrq 7 G0 1) (.q 0) stX2 0 = true := by
  decide +kernel
theorem test_ldq : seen (.rLdq 7 G0 1 2 true true) (.q 1) stX2 (3 + 2 ^ 34) = true := by decide +kernel
theorem test_addq : seen (.rAddq 7 G0 1 0 true) (.q 1) stX2 (3 - 2 ^ 40) = true := by decide +kernel
theorem test_qwrap : after (exec (.rAddq 7 G0 0 0 false)
    (pass7.modEng 7 fun x => { x with q := x.q.set 0 (BitVec.ofNat 72 (2 ^ 71 - 1)) }))
    (fun t => t.b (F.ENG_STAT_QWRAP 7) && t.see 7 (.q 0) stX2 == -2) = true := by decide +kernel
/-- The operand S[A0]+M0. -/
def sA0 : Mop := ⟨1, true, 0, 0x0100⟩
theorem test_stq : seen (.rStq 7 G0 0 0 sA0) (.st 0x20) stW 512 = true ∧ seen (.rStq 7 G0 0 0 sA0) (.a 0) stA 0x24 = true :=
  by decide +kernel
theorem test_stq_saturates : after (exec (.rStq 7 G0 0 7 ⟨5, false, 0, 127⟩)
    (pass7.modEng 7 fun x => { x with q := x.q.set 0 (BitVec.ofNat 72 (2 ^ 55)) }))
    (fun t => t.see 7 (.out 127) stW == 2147483647 && t.b (F.ENG_STAT_SAT 7)) = true := by decide +kernel
theorem test_ld : seen (.rLd 7 G0 3 sA0) (.d 3) stW 99 = true := by decide +kernel
theorem test_st : seen (.rSt 7 G0 2 ⟨6, false, 0, 2047⟩) (.lw 2047) stW (-8) = true := by decide +kernel
/-- R122's example: input 0.25 in a signed table of 64 segments at 0x2000 gives the entry at 0x2028. -/
theorem test_luti : seen (.rLuti 7 G0 3 6 0x2000 6 true) (.d 3) stW 0x1234 = true := by decide +kernel

/-- D2 times the coefficient at 0x30, times 8, negated. -/
theorem test_mac : seen (.rMac 7 G0 ⟨⟨0, true, 0, 0xF102⟩, ⟨0, 0x30⟩, 1, true, true, false⟩) (.q 1) stX2 (3 + 640) = true := by
  decide +kernel
theorem test_macd : seen (.rMacd 7 G0 ⟨⟨0, false, 0, 0⟩, ⟨0, 0x30⟩, 1, false, false, true⟩) (.q 1) stX2 20 = true ∧
    seen (.rMacd 7 G0 ⟨⟨0, false, 0, 0⟩, ⟨0, 0x30⟩, 1, false, false, true⟩) (.q 0) stX2 21474836470 = true := by decide +kernel
/-- R137: positions 579 to 576 of line 5 lie in banks 3, 2, 1 and 0 at word 656. -/
theorem test_macw : seen (.rMacw 7 G0 ⟨⟨4, false, 5, 0⟩, ⟨0, 0x30⟩, 1, false, false, false⟩) (.q 1) stX2 303 = true := by
  decide +kernel
theorem test_macqd : seen (.rMacqd 7 G0 ⟨⟨0, false, 0, 2⟩, ⟨2, 2⟩, 7, false, false, true⟩) (.q 4) stX2 64 = true := by
  decide +kernel
/-- Line 5 in lane 0; the linear line 6 (word 103 of bank 2, R137) in lane 1. -/
theorem test_macqc : seen (.rMacqc 7 G0 ⟨⟨4, false, 5, 0⟩, ⟨0, 0x33⟩, 3, false, false, true⟩) (.q 0) stX2 40 = true ∧
    seen (.rMacqc 7 G0 ⟨⟨4, false, 5, 0⟩, ⟨0, 0x33⟩, 3, false, false, true⟩) (.q 1) stX2 3080 = true := by decide +kernel
theorem test_tap : seen (.rTap 7 G0 ⟨6, false, 0, ⟨0, 0x30⟩, 2, false, false, true, 0⟩) (.q 2) stX2 770 = true := by
  decide +kernel
theorem test_tapm : seen (.rTapm 7 G0 ⟨6, false, 0, ⟨0, 0x30⟩, 2, false, false, true, 5⟩) (.tile (98304 + 656)) stW 77 = true :=
  by decide +kernel
/-- At v = 0 an integer delay returns x(DL, K) × 2^31: K = 1 is the word with 2 (R121). -/
theorem test_fdr : seen (.rFdr 7 G0 5 7 1 2 false true) (.q 2) stX2 (2 * 2 ^ 31) = true := by decide +kernel

theorem test_end : after (exec (.rEnd 7 G0) pass7) (fun t => !(t.eng 7).busy && t.f (F.ENG_PASSLAST_CYC 7) == 11) = true := by
  decide +kernel
theorem wit_Repeats : pass7.issues 7 = true ∧ ((pass7.atIssue 7).eng 7).nest = [] ∧
    after (exec (.rRpt 7 G0 2 1) pass7) (fun t => (t.eng 7).nest == [⟨8191, 1, 2, true⟩] && (t.eng 7).pc == 8191) = true ∧
    after (exec (.rRpt 7 G0 0 1) pass7) (fun t => (t.eng 7).nest == [] && (t.eng 7).pc == 0) = true ∧
    after (exec (.rRpt 7 G0 2 0) pass7) (fun t => t.b (F.ENG_STAT_RPTERR 7)) = true := by decide +kernel
theorem test_rptc : after (exec (.rRptc 7 G0 2 4) pass7) (fun t => (t.eng 7).nest == [⟨8191, 4, 3, true⟩]) = true := by
  decide +kernel

/-- The worked example of R106 to R112: `MACW Q0, DL5[A0]+M0, C[A1]+M1`. -/
theorem test_decode_macw : decodeRender 0 0x00A9140401130000 =
    .rMacw 0 ⟨0, false, false⟩ ⟨⟨4, true, 5, 0x0100⟩, ⟨1, 0x04C0⟩, 0, false, false, false⟩ := by decide +kernel

/-! ## The long delay store and epochs -/

theorem wit_HalfRequest : ∃ s : State, (s.on 21 = true ∧ s.half 1 = 0) ∧
    after (exec (.halfRequest true) s) (fun t => t.half 1 == 1 && t.on 18 && t.half 0 == 0) = true ∧
    after (exec (.halfRequest false) s) (fun t => t.half 0 == 1) = true := ⟨on, by decide +kernel⟩
def ready : State := { put on [(F.LDS_STAT_HAST, 2), (F.LDS_STAT_HBST, 1), (F.LDS_CTRL_SCRUBEN, 1)] with
  lds := [(3, 5), (0x100000, 6)], ldsBad := [3, 0x100000], ldsSoft := [7] }
theorem wit_HalfClearDone : ready.half 1 = 1 ∧ ready.half 0 = 2 ∧
    after (exec (.halfClearDone true) ready) (fun t => t.half 1 == 2 && t.lds == [(3, 5)] && t.ldsBad == [3]) = true := by
  decide +kernel
theorem wit_Scrub : (ready.b F.LDS_CTRL_SCRUBEN = true ∧ ∀ e, e < 17 → (ready.eng e).bad = []) ∧ (put on [(F.LDS_CTRL_SCRUBEN, 0)]).b F.LDS_CTRL_SCRUBEN = false ∧
    after (exec .scrub ready) (fun t => t.lds == [(0x100000, 6)] && t.ldsBad == [0x100000] && t.ldsSoft == [] &&
      t.f F.LDS_ECCC_COUNT == 1 && t.f F.LDS_SCRUB_ROUNDS == 1) = true ∧
    after (exec .scrub (put on [(F.LDS_CTRL_SCRUBEN, 0)])) (fun t => t.regs == (put on [(F.LDS_CTRL_SCRUBEN, 0)]).regs) = true := by decide +kernel

/-- A route of slot 6 to domain 1, in the layout of XCH_ROUTE. -/
def route : Item := .param (pid 0x03 0 6) (leBytes 4 0x90000000)
def ep (items : List Item) : Epoch := ⟨5, 1, 2, .untimed, false, false, false, false, items, [], [], []⟩
def queued (s : State) (items : List Item) : State := { s with stg := { s.stg with queue := [ep items] } }
def written (s : State) : State := stateOf s (exec (.epochWrite none) s)

theorem no_hosts (l : Nat) : ((queued run1 [route]).le l).host = none := by
  by_cases h : l < 16
  · have : ∀ l < 16, ((queued run1 [route]).le l).host = none := by decide +kernel
    exact this l h
  · have : (queued run1 [route]).les = Vector.replicate 16 LogEng.init := by decide +kernel
    simp [State.le, this, h, LogEng.init]
theorem wit_EpochWrite : ∃ (e : Epoch) (q : List Epoch) (s : State), (s.phase = 0 ∧ s.stg.recon = none ∧
    s.stg.queue = e :: q ∧ s.booting = false ∧ s.b F.TSU_STAT_HARD = false ∧ s.shadowing = false ∧ s.scuState ≠ 5 ∧
    s.early e = false ∧ e.target = .untimed ∧ e.lines = [] ∧ s.cfg.installs e.items = [] ∧
    (∀ k ∈ s.cfg.clocks (s.cfg.lay e.items false) e.items, k.2 ≤ 10) ∧ s.cfg.lay [] false = s.cfg ∧
    s.cfg.clocks (s.cfg.lay [] false) [] = []) ∧
    after (exec (.epochWrite none) s) (fun t => t.phase == 1 && t.reg R.STG_ARMED == 5 && t.engs == s.engs) = true ∧
    after (exec (.epochWrite (some 3)) s) (fun t => t.stg.queue.map (·.items) == [[]] && t.phase == 1) = true :=
  ⟨ep [route], [], queued run1 [route], by decide +kernel⟩
theorem wit_EpochWrite_hosts : ∀ l k h, ((queued run1 [route]).le l).host = some h →
    ((queued run1 [route]).le k).host = some h → l = k := by
  intro l k h hl
  rw [no_hosts] at hl
  cases hl
theorem wit_EpochWrite_waits : on.stg.queue = [] ∧ after (exec (.epochWrite none) on) (fun t => t.regs == on.regs) = true := by
  decide +kernel

theorem wit_Arm : let s := written (queued run1 [route])
    (s.stg.queue = [ep [route]] ∧ s.armReady (ep [route]) = true ∧ s.epochGroups (ep [route]) ≠ [] ∧
      ∀ g ∈ s.epochGroups (ep [route]), s.running g = true) ∧
    after (exec .arm s) (fun t => t.phase == 2 && t.stg.nack == [(1, 25)] && t.f F.STG_STAT_GARM == 2 &&
      t.stg.groups == [1]) = true := by decide +kernel
/-- A timed epoch whose target's deadline, sample 6 of the block before boundary 8, has passed is late (R180). -/
theorem test_arm_late : let e : Epoch := { ep [route] with target := .index 1 8 }
    let s := { written (queued run1 [route]) with stg := { (written (queued run1 [route])).stg with queue := [e] } }
    after (exec .arm s) (fun t => t.stg.queue.map (·.late) == [true]) = true := by decide +kernel
theorem wit_Arm_empty : let s := written (queued on [])
    (s.stg.queue = [ep []] ∧ s.armReady (ep []) = true ∧ s.epochGroups (ep []) = []) ∧
    after (exec .arm s) (fun t => t.phase == 4 && t.stg.recon == some (ep []) && t.reg R.STG_APPLIED == 5) = true := by
  decide +kernel
theorem wit_Arm_waits : (queued on []).armReady (ep []) = false ∧
    after (exec .arm (queued on [])) (fun t => t.regs == (queued on []).regs) = true := by decide +kernel

/-- Phase 3, with XCH of group 1 and engine 3 yet to acknowledge. -/
def armed : State := { live3.setPhase 3 with stg := { live3.stg with nack := [(1, 25), (1, 3)] } }
theorem wit_UnitAck : (armed.phase = 3 ∧ armed.f (F.ENG_CLKST_N 3) = armed.f (F.ENG_CLKST_NARM 3)) ∧ on.phase = 0 ∧
    after (exec (.unitAck 25) armed) (fun t => t.stg.nack == [(1, 3)]) = true ∧
    after (exec (.unitAck 3) armed) (fun t => t.stg.nack == [(1, 25)]) = true ∧
    after (exec (.unitAck 25) on) (fun t => t.regs == on.regs) = true := by decide +kernel
/-- Engine 3 with a new clock acknowledges only once its other delay path is tuned. -/
theorem test_unitAck_clock : let s := put armed [(F.ENG_CLKST_N 3, 8), (F.ENG_CLKST_NARM 3, 10)]
    after (exec (.unitAck 3) s) (fun t => t.regs == s.regs) = true ∧
    after (exec (.unitAck 3) (s.modEng 3 fun x => { x with tuned := true })) (fun t => t.stg.nack == [(1, 25)]) = true := by
  decide +kernel
theorem wit_Reconcile : let s := (live3.setPhase 4).modEng 3 fun x => { x with prog := [(1, 2)], coefSh := [(3, 4)] }
    (s.phase = 4 ∧ s.shadowing = false ∧ s.scuState ≠ 5) ∧ on.phase ≠ 4 ∧
    after (exec (.reconcileDone none) s) (fun t => t.phase == 0 && t.b F.STG_STAT_RECDONE && (t.eng 3).progSh == [] &&
      (t.eng 3).prog == [(1, 2)] && (t.eng 3).coefSh == []) = true := by decide +kernel
theorem test_metdata : let s := ((put on [(F.STG_METSEL_ENG, 3), (F.STG_METSEL_IDX, 1)]).modEng 3
      fun x => { x with snap := [(9, 10), (8, 11)], snapIdx := 64, snapEpoch := 7 })
    s.on 21 = true ∧ after (exec (.stgMetdataRead .cc0) s)
      (fun t => t.resp.data == 11 && t.reg R.STG_METEPOCH == 7 && t.reg R.STG_METIDX == 64) = true := by decide +kernel

/-! ## The lehr, thresholds, power states and wake sources -/

def sleepy (n : Nat) : State := put on [(F.PMU_STAT_STATE, n)]
def fewPeriods : State := put (sleepy 1) [(F.LA_CTRL_EN, 1), (F.LA_CTRL_SLOWWIN, 1024)]
theorem wit_WindowEnd : fewPeriods.b F.LA_CTRL_EN = true ∧ fewPeriods.powerState ≠ 0 := by decide +kernel
theorem wit_WindowEnd_length : (fewPeriods.advance now).windowNs 31250000 = 31250000 := by
  have h1 : (fewPeriods.advance now).running 0 = false := by decide +kernel
  have h2 : (fewPeriods.advance now).f F.LA_CTRL_SLOWWIN = 1024 := by decide +kernel
  unfold State.windowNs
  rw [h1, h2]
  norm_num
theorem wit_WindowEnd_hard : let s := put on [(F.LA_CTRL_EN, 1), (F.TSU_STAT_HARD, 1), (F.PMU_PDSTAT_ON, 0)]
    s.powerState = 0 ∧ s.b F.TSU_STAT_HARD = true ∧ ∀ e, e < 17 → s.on e = false := by decide +kernel
theorem wit_WindowEnd_off : (put on [(F.LA_CTRL_EN, 0)]).b F.LA_CTRL_EN = false := by decide +kernel

/-- Every sensor at one reading, in 0.25 °C. -/
def temps (t : Int) : List Int := List.replicate 24 t
def cool (ts : List Int) (k : Nat) (s : State) : Bool :=
  k < 24 && (List.range 24).all (fun i => -2048 ≤ ts.getD i 0 && ts.getD i 0 ≤ ts.getD k 0 && ts.getD i 0 < 2048) &&
    (List.range k).all (fun i => ts.getD i 0 < ts.getD k 0) && (List.range 16).all (fun l => (s.le l).image == []) &&
    !s.shadowing && s.puntyOf == none
theorem wit_TsuSample_mild : let s := put on [(F.PMU_STAT_TRIPLOCK, 0)]
    (cool (temps 431) 0 s = true ∧ s.b F.PMU_STAT_TRIPLOCK = false ∧ s.b F.TSU_STAT_HARD = false) ∧
    after (exec (.tsuSample now (temps 431)) s) (fun t => t.b F.TSU_STAT_SOFT && !t.b F.TSU_STAT_HARD &&
      t.f F.TSU_MAX_TJ == 431 && t.f F.TSU_STAT_HOT == 0) = true := by decide +kernel
theorem wit_TsuSample_hard : let s := { on with lehr := { on.lehr with hardRun := 1 } }
    (cool ((temps 0).set 5 432) 5 s = true ∧ 1 ≤ s.lehr.hardRun) ∧
    after (exec (.tsuSample now ((temps 0).set 5 432)) s) (fun t => t.b F.TSU_STAT_HARD && t.b F.TSU_STAT_HARDEV &&
      t.lehr.paused && t.f F.TSU_STAT_HOT == 5 && decide (24 ∈ t.irqs)) = true := by decide +kernel
theorem wit_TsuSample_release : let s := { put on [(F.TSU_STAT_HARD, 1)] with lehr := { on.lehr with coolRun := 1 } }
    (cool (temps 411) 0 s = true ∧ s.b F.TSU_STAT_HARD = true ∧ 1 ≤ s.lehr.coolRun) ∧
    after (exec (.tsuSample now (temps 411)) s) (fun t => !t.b F.TSU_STAT_HARD) = true := by decide +kernel
theorem wit_TsuSample_trip : let s := { put run1 [(F.TSU_STAT_HARD, 1)] with lehr := { on.lehr with tripRun := 1 } }
    (cool (temps 460) 0 s = true ∧ s.b F.TSU_STAT_HARD = true ∧ 1 ≤ s.lehr.tripRun ∧ s.pmu.tripped = false ∧
      s.running 1 = true) ∧
    after (exec (.tsuSample now (temps 460)) s) (fun t => t.pmu.alert && t.pmu.tripped && t.f F.PMU_RSTCAUSE_CAUSE == 4 &&
      (t.dom 1).tripRamp == some 0) = true := by decide +kernel
theorem wit_TsuSample_lock : let s := { put on [(F.PMU_STAT_TRIPLOCK, 1)] with pmu := { on.pmu with alert := true } }
    (cool (temps 359) 0 s = true ∧ s.b F.PMU_STAT_TRIPLOCK = true) ∧
    after (exec (.tsuSample now (temps 359)) s) (fun t => !t.b F.PMU_STAT_TRIPLOCK && !t.pmu.alert) = true := by
  decide +kernel

/-- S0 is not required, and any state but S5 is quick enough. -/
def lazy_ : State := (put on [(F.PMU_LATTOL_TOL, 9000)]).setReg R.PMU_REQMASK 0
theorem wit_PmuEval : lazy_.req 0 = false ∧ lazy_.target = 4 ∧ (lazy_.powerState = 0 ∧ lazy_.target ≠ 1) ∧
    after (exec .pmuEval lazy_) (fun t => t.f F.PMU_STAT_TARGET == 4 && t.powerState == 0) = true := by decide +kernel
theorem wit_PmuEval_S1 : let s := put lazy_ [(F.PMU_LATTOL_TOL, 149)]
    (s.powerState = 0 ∧ s.target = 1) ∧ after (exec .pmuEval s) (fun t => t.powerState == 1) = true := by decide +kernel
theorem wit_PmuEval_S0 : let s := (sleepy 1).setReg R.PMU_REQMASK 1
    (s.powerState = 1 ∧ s.req 0 = true ∧ s.target = 0) ∧ after (exec .pmuEval s) (fun t => t.powerState == 0) = true := by
  decide +kernel
def going (n : Nat) : State := { put on [(F.PMU_STAT_TARGET, n)] with sram := [(0, 1)] }
theorem wit_StateEntry_S3 : (going 3).mayEnter = true ∧
    after (exec (.powerStateEntry none) (going 3)) (fun t => t.pmu.reached == 3) = true := by decide +kernel
theorem wit_StateEntry : ((going 5).mayEnter = true ∧ (going 1).mayEnter = false) ∧
    after (exec (.powerStateEntry none) (going 5)) (fun t => t.powerState == 5 && t.sram == [] && !t.pmu.pwrenCore) = true ∧
    after (exec (.powerStateEntry none) (going 1)) (fun t => t.regs == (going 1).regs) = true := by decide +kernel
theorem wit_StateEntry_wake : ((going 3).setReg R.PMU_REQMASK 0x2000).mayEnter = true ∧
    ((going 3).setReg R.PMU_REQMASK 0x2000).wakeWorks 8 3 = true ∧ (going 3).req 13 = false ∧ (going 3).mayEnter = true := by
  decide +kernel
/-- A trip that fires in S5 locks it (R199). -/
theorem wit_TripShutdown_S5 : let s := { sleepy 5 with pmu := { (sleepy 5).pmu with tripped := true } }.setF F.PMU_STAT_TRIPLOCK 0
    (s.pmu.tripped = true ∧ s.b F.PMU_STAT_TRIPLOCK = false ∧ s.powerState = 5) ∧ (s.setF F.PMU_STAT_TRIPLOCK 1).b F.PMU_STAT_TRIPLOCK = true ∧
    after (exec (.tripShutdown false) s) (fun t => t.powerState == 5 && t.b F.PMU_STAT_TRIPLOCK) = true := by decide +kernel
theorem wit_TripShutdown : let s := { on with pmu := { on.pmu with tripped := true } }
    (s.pmu.tripped = true ∧ s.b F.PMU_STAT_TRIPLOCK = false ∧ s.powerState ≠ 5) ∧ on.pmu.tripped = false ∧
    after (exec (.tripShutdown true) s) (fun t => t.powerState == 5 && t.b F.PMU_STAT_TRIPLOCK) = true ∧
    after (exec (.tripShutdown true) on) (fun t => t.regs == on.regs) = true := by decide +kernel

/-- In S1, where the state that the requirements allow is S2: every wake source of R215 is required. -/
def nap : State := put ((sleepy 1).setReg R.PMU_REQMASK 0xFF00) [(F.PMU_LATTOL_TOL, 150), (F.PMU_STAT_TRIPLOCK, 0),
  (F.PMU_WKTIMER_CMP, 1), (F.GPIO_WAKE_EN, 0x80), (F.GPIO_WAKE_RISE, 0x80)]
/-- The nine bits 0x155 at 115,200 baud. -/
def mark : UartChar := ⟨(List.range 9).map fun i => 1736 * (i + 1), 0⟩
theorem wit_Wakes : (nap.powerState = 1 ∧ nap.b F.PMU_STAT_TRIPLOCK = false ∧ nap.target ≠ 1) ∧ nap.req 15 = true ∧
    (nap.advance { ticks := 0, slow := 1 }).f F.PMU_SLOWCNT_COUNT = (nap.advance { ticks := 0, slow := 1 }).f F.PMU_WKTIMER_CMP ∧ nap.req 9 = true ∧
    nap.fbit F.GPIO_WAKE_EN 7 = true ∧ nap.fbit F.GPIO_WAKE_RISE 7 = true ∧ nap.f F.GPIO_WAKE_WFILT ≤ 70 ∧
    nap.req 10 = true ∧ nap.req 13 = true := by
  decide +kernel
theorem wit_Wakes_frame : let s := nap.setReg R.PMU_REQMASK 0xFF02
    (s.powerState = 1 ∧ s.target ≠ 1 ∧ s.req 14 = true ∧ s.netKeep = true ∧ s.on 24 = true) := by decide +kernel
theorem wit_Wakes_address : let s := put nap [(F.UART_CTRL_EN 2, 1), (F.UART_CTRL_RXEN 2, 1), (F.UART_FMT_NINE 2, 1),
      (F.UART_ADDR_MATCHEN 2, 1), (F.UART_ADDR_ADDR 2, 0x55), (F.UART_ADDR_MASK 2, 0xFF)]
    (s.powerState = 1 ∧ s.req 12 = true ∧ s.uartRuns 2 = true ∧ s.b (F.UART_FMT_NINE 2) = true ∧
      s.b (F.UART_ADDR_MATCHEN 2) = true ∧ (s.uart 2).brk = false ∧ s.uartRead 2 mark = some ⟨0x155, true, true, false⟩ ∧
      s.uartMatch 2 0x55 = true ∧ (s.uartHear 2 mark).target ≠ 1) := by decide +kernel
theorem wit_Wake_S5 : let s := put (sleepy 5) [(F.PMU_STAT_TRIPLOCK, 0)]
    (s.powerState = 5 ∧ s.b F.PMU_STAT_TRIPLOCK = false ∧ s.pmu.resetReq = false) ∧
    after (exec .wakePin s) (fun t => t.pmu.resetReq && t.pmu.pwrenCore && t.f F.PMU_RSTCAUSE_CAUSE == 5) = true := by
  decide +kernel
theorem wit_Wake_notRequired : (lazy_.req 10 = false ∧ lazy_.req 13 = false) ∧ 2 ≤ (sleepy 2).powerState ∧
    after (exec .hspWake lazy_) (fun t => t.regs == lazy_.regs) = true ∧
    after (exec .wakeRelease (put (sleepy 2) [(F.PMU_STAT_WAKEBLK, 1)])) (fun t => !t.b F.PMU_STAT_WAKEBLK) = true := by
  decide +kernel

/-! ## The punty, hand-overs and aging -/

/-- Engine 2 is out of service, engine 3 hosts logical engine 4. -/
def spare : State := (put on [(F.ENG_STAT_MODE 2, 1), (F.ENG_STAT_MODE 3, 2), (F.ENG_CTRL_HOSTACC 2, 1)]).modLe 4
  fun x => { x with host := some 3, image := [1] }
theorem wit_CloneStart : (spare.on 21 = true ∧ spare.scuState = 0 ∧ spare.mode 2 = 1 ∧ spare.clean 2 = true ∧
    (spare.le 4).host = some 3) ∧ spare.shadowing = false ∧
    after (exec (.cloneStart 2 4) spare) (fun t => t.scuState == 1 && t.pairHost == 3 && t.mode 2 == 3) = true := by
  decide +kernel
def gone : State := put on [(F.PMU_PDSTAT_ON, 0)]
theorem wit_CloneStart_off : gone.on 21 = false ∧ after (exec (.cloneStart 2 4) gone) (fun t => t.resp.err) = true := by
  decide +kernel
/-- The pair of punty 2 and host 3 on logical engine 4, in a state of the machine. -/
def pair (n : Nat) : State := (put spare [(F.SCU_STAT_STATE, n), (F.SCU_PAIR_VALID, 1), (F.SCU_PAIR_LE, 4), (F.SCU_PAIR_HOST, 3),
  (F.SCU_PAIR_PUNTY, 2)]).modEng 3 fun x => { x with st := [(5, 6)] }
theorem wit_Clone : ((pair 1).pairPunty < 17 ∧ (pair 1).pairPunty ≠ (pair 1).pairHost ∧ (pair 1).pairLe < 16 ∧
    (pair 1).scuState = 1 ∧ (pair 1).phase = 0) ∧ (pair 2).scuState = 2 ∧
    after (exec .cloneCopyDone (pair 2)) (fun t => t.scuState == 3 && (t.eng 2).st == [(5, 6)]) = true := by decide +kernel
def windowOver : State := { (put (pair 4) [(F.SCU_WCNT_COUNT, 0xFFFFFF)]).modEng 2 (fun x => { x with role := .punty }) with
  lehr := { on.lehr with paused := true, forced := [4] } }
theorem wit_CompareWindow : (windowOver.scuState = 4 ∧ windowOver.winLen ≤ windowOver.f F.SCU_WCNT_COUNT ∧
    windowOver.lehr.paused = true ∧ (∀ l ∈ windowOver.lehr.forced, l = windowOver.pairLe) ∧
    (∀ l, l < 16 → (windowOver.le l).retire = false) ∧
    (∀ e, e < 17 → (windowOver.eng e).role = .punty → e = windowOver.pairPunty) ∧ windowOver.clean 2 = true) ∧
    after (exec .compareWindowDone windowOver) (fun t => t.scuState == 0 && t.b F.SCU_STAT_WINDONE && t.lehr.forced == [])
      = true := by decide +kernel
theorem wit_ShadowAbort : ((pair 3).on 21 = true ∧ (pair 3).shadowing = true) ∧
    after (exec .shadowAbort (pair 3)) (fun t => t.scuState == 0 && t.mode 2 == 1 && (t.eng 2).role == .punty) = true := by
  decide +kernel

theorem wit_Handover_hot : ((pair 4).on 21 = true ∧ (pair 4).scuState = 4 ∧ (pair 4).pairLe = 4) ∧
    after (exec (.handoverRequest false 2 3 4) (pair 4)) (fun t => t.scuState == 5 && t.scu.after == t.plus2us) = true := by
  decide +kernel
theorem wit_Handover_cold : (spare.scuState = 0 ∧ spare.mode 2 = 1 ∧ spare.clean 2 = true ∧ spare.claimed 2 = false ∧
    spare.rolesOf .reserve = []) ∧
    after (exec (.handoverRequest true 2 3 4) spare) (fun t => t.scuState == 7 && t.mode 2 == 6 && t.pairHost == 3) = true := by
  decide +kernel
theorem wit_ColdLoad : let s := (pair 7).modLe 4 fun x => { x with entry := .cold }
    s.scuState = 7 ∧ s.phase = 0 ∧ s.pairPunty < 17 ∧ s.pairLe < 16 ∧ (s.le s.pairLe).entry = .cold ∧
      (s.le s.pairLe).lines = [] := by decide +kernel

/-- 24 hours and a little of S0 time, sixteen images, and one engine of seventeen in the cullet. -/
def crowded : State := { (on.modEng 0 fun x => { x with role := .cullet }).forEach (List.range 16) (fun s l => s.modLe l fun x =>
  { x with image := [1] }) with s0 := 24 * hourNow + 1 }
theorem wit_Overdue : (crowded.puntyOf = none ∧ (∀ e, e < 17 → crowded.clean e = true) ∧ crowded.shadowing = false ∧ (crowded.le 15).image ≠ [] ∧
    crowded.uncheckedFor 15 23 = true ∧ (crowded.le 15).excluded = false ∧ crowded.soundEngines ≤ crowded.imagedLes.length ∧
    crowded.uncheckedFor 15 24 = true ∧ (crowded.le 15).overdue = false) ∧
    after (exec (.checkOverdue 15) crowded) (fun t => (t.le 15).overdue && !(t.le 14).overdue) = true ∧
    after (exec (.shadowForce 15) crowded) (fun t => t.lehr.forced == [15]) = true := by decide +kernel
theorem wit_Overdue_not : on.puntyOf = none ∧ (spare.le 4).image ≠ [] ∧ spare.uncheckedFor 4 23 = false ∧
    spare.imagedLes.length < spare.soundEngines := by decide +kernel
theorem wit_AvsSettled : let s := { on with lehr := { on.lehr with avs := some true, avsSettle := true } }
    (s.lehr.avs = some true ∧ s.lehr.avsSettle = true) ∧ on.lehr.avs ≠ some true ∧
    after (exec .avsSettled s) (fun t => t.lehr.avs == none && t.f F.LA_VDD_MV == s.avsHi) = true := by decide +kernel
theorem wit_AgeMeasureDone : let s := put on [(F.AGE_STAT_BUSY, 1)]
    (s.b F.AGE_STAT_BUSY = true ∧ ∀ j, j < 17 → (s.eng j).ageSteps = 0 ∧ s.fmax j ≤ s.fusedFmax) ∧ on.b F.AGE_STAT_BUSY = false := by
  decide +kernel
theorem wit_AgeFmax : let s := put on [(F.AGE_FMAX_N 16, 12), (F.ENG_CLKST_N 16, 12)]
    ((11 : Word).toNat ≤ s.fmax 16) ∧ s.fmax 16 < (13 : Word).toNat ∧ (13 : Word).toNat < 32 ∧
    after (exec (.ageFmaxWrite 16 11) s) (fun t => t.fmax 16 == 11 && t.f (F.ENG_CLKST_N 16) == 11) = true ∧
    after (exec (.ageFmaxWrite 16 13) s) (fun t => t.regs == s.regs) = true := by decide +kernel

/-! ## Clocks -/

theorem wit_Sysupd : on.on 21 = true ∧ gone.on 21 = false ∧
    after (exec (.sysupd true) (put on [(F.CLK_CTRL_REFSEL, 1), (F.CLK_STAT_LOCK, 1)])) (fun t => t.sysLoop.ref &&
      t.f F.CLK_STAT_LOCK == 0) = true ∧
    after (exec (.sysupd false) on) (fun t => t.b F.CLK_STAT_SYSPEND) = true ∧
    after (exec (.sysupd true) gone) (fun t => t.resp.err) = true := by decide +kernel
theorem wit_EngineClock : (out5.inService 5 = false ∧ (out5.eng 5).acts = []) ∧ live3.inService 3 = true ∧
    after (exec (.engineClockSet 5 9) out5) (fun t => t.f (F.CLK_ENGN_N 5) == 9 && !t.b (F.ENG_CLKST_LOCK 5)) = true ∧
    after (exec (.engineClockSet 3 9) live3) (fun t => t.regs == live3.regs) = true ∧
    after (exec (.engineClockLock 5) (put out5 [(F.CLK_ENGN_N 5, 9), (F.AGE_FMAX_N 5, 8)]))
      (fun t => t.f (F.ENG_CLKST_N 5) == 8) = true := by decide +kernel
theorem wit_LoopLock : let s := put on [(F.CLK_CTRL_SYSEN, 1), (F.CLK_CTRL_CC1EN, 1), (F.CLK_CTRL_LDSEN, 0), (F.CLK_STAT_LOCK, 1)]
    (s.loopEnabled 0 = true ∧ s.loopEnabled 3 = true ∧ s.fbit F.CLK_STAT_LOCK 0 = true ∧ s.loopEnabled 1 = false) ∧
    after (exec (.loopLock 3) s) (fun t => t.f F.CLK_STAT_LOCK == 9) = true := by decide +kernel
theorem wit_ReferenceReturn : let s := put on [(F.CLK_STAT_SYSCOAST, 1), (F.CLK_STAT_SYSPEND, 1), (F.CLK_SYSI_INT, 20)]
    s.b F.CLK_STAT_SYSCOAST = true ∧ (on.b F.CLK_STAT_SYSCOAST = false ∧ on.b F.CLK_STAT_SYSPEND = false) ∧
    after (exec .systemReferenceReturn s) (fun t => t.f F.CLK_STAT_LOCK == 1 && t.sysLoop.int == 20) = true := by decide +kernel
theorem wit_MdllUnlock : after (exec (.mdllUnlock 3 true) on) (fun t => t.pmu.resetReq && t.b F.CLK_MON_CCUNLOCK) = true ∧
    after (exec (.mdllUnlock 1 true) on) (fun t => !t.pmu.resetReq && t.b F.CLK_MON_LDSUNLOCK) = true := by decide +kernel
theorem wit_SlowClock : (put on [(F.CLK_SLOW_SEL, 1)]).b F.CLK_SLOW_SEL = true ∧ (put on [(F.CLK_SLOW_SEL, 0)]).b F.CLK_SLOW_SEL = false := by
  decide +kernel

/-- ACS1 with a set in the check's bounds: INT 16, the centre 16, a pull limit of 200 ppm. -/
def acs1 : State := put on [(F.ACS_CTRL_EN 1, 1), (F.ACS_DIV_INT 1, 16), (F.ACS_CENI_INT 1, 16), (F.ACS_LIMIT_LIMIT 1, 1000)]
def sameRef (s : State) (k : Nat) : Bool :=
  let x := s.acsBuffered k
  wordFld x.div 31 30 == wordFld (s.reg (R.ACS_LIVE k)) 31 30 && wordFld x.div 26 24 == wordFld (s.reg (R.ACS_LIVE k)) 26 24
theorem wit_AcsUpdate : (acs1.on 21 = true ∧ acs1.b (F.ACS_CTRL_RESEED 1) = false ∧ acs1.acsCheck 1 (acs1.acsBuffered 1) = true ∧
    acs1.b (F.ACS_CTRL_EN 1) = true ∧ sameRef acs1 1 = true ∧ acs1.b (F.ACS_STAT_COAST 1) = false) ∧
    after (exec (.acsUpdate true) acs1) (fun t => t.f (F.ACS_LIVE_INT 1) == 16 && !t.b (F.ACS_STAT_UPDPEND 1)) = true := by
  decide +kernel
theorem wit_AcsUpdate_coasts : let s := put acs1 [(F.ACS_STAT_COAST 1, 1)]
    s.b (F.ACS_STAT_COAST 1) = true ∧
    after (exec (.acsUpdate true) s) (fun t => t.f (F.ACS_LIVE_INT 1) == 0 && t.b (F.ACS_STAT_UPDPEND 1)) = true := by decide +kernel
theorem wit_AcsUpdate_refused : let s := put acs1 [(F.ACS_DIV_INT 1, 57)]
    s.acsCheck 1 (s.acsBuffered 1) = false ∧ after (exec (.acsUpdate true) s) (fun t => t.b (F.ACS_STAT_REFUSED 1)) = true := by
  decide +kernel
theorem wit_PhaseSteps : let s := acs1.setPsq 1 (-4095)
    s.b (F.ACS_CTRL_EN 1) = true ∧ s.psq 1 ≠ 0 ∧ on.psq 0 = 0 ∧
    after (exec (.phaseStepAdd true (-1)) s) (fun t => t.psq 1 == -4095 && t.b (F.ACS_STAT_QOVF 1)) = true ∧
    after (exec (.phaseStepIssue true) s) (fun t => t.psq 1 == -4094 && t.reg (R.ACS_NETSTEP 1) == -1) = true := by decide +kernel

theorem wit_AcsLock : ((acs1.acsOf 1).cap = none ∧ (∀ d, d < 4 → acs1.b (F.RD_STAT_ACSWAIT d) = false ∧ (acs1.dom d).napIdx = none) ∧
    acs1.b (F.ACS_STAT_COAST 1) = false ∧ acs1.b (F.ACS_CTRL_EN 1) = true) ∧ on.b (F.ACS_CTRL_EN 0) = false ∧
    after (exec (.acsLock true) acs1) (fun t => t.b (F.ACS_STAT_LOCK 1)) = true := by decide +kernel
theorem wit_AcsCoast : let s := put acs1 [(F.ACS_CTRL_FCHK 1, 1), (F.ACS_LIMIT_REFTOL 1, 20), (F.ACS_DIV_REFSEL 1, 1),
      (F.ACS_LIVE_REFSEL 1, 1), (F.ACS_STAT_LOCK 1, 1)]
    (s.b (F.ACS_CTRL_FCHK 1) = true ∧ s.acsOnSysRef 1 = false ∧
      (2 * s.f (F.ACS_LIMIT_REFTOL 1) + 50) * 100000 < (((100010 : Nat) : Int) - 100000).natAbs * 1000000) ∧
    ¬ ((2 * s.f (F.ACS_LIMIT_REFTOL 1) + 50) * 100000 < (((100009 : Nat) : Int) - 100000).natAbs * 1000000) ∧
    after (exec (.frequencyCheck true 100010 100000) s) (fun t => t.b (F.ACS_STAT_COAST 1) && t.b (F.ACS_STAT_FREQERR 1)) = true ∧
    after (exec (.frequencyCheck true 100009 100000) s) (fun t => t.regs == s.regs) = true ∧
    after (exec (.acsCoast true) s) (fun t => t.b (F.ACS_STAT_COAST 1) && !t.b (F.ACS_STAT_LOCK 1)) = true := by decide +kernel
theorem wit_AcsCoast_check : let s := put acs1 [(F.ACS_CTRL_FCHK 1, 1), (F.ACS_LIMIT_REFTOL 1, 20), (F.ACS_DIV_REFSEL 1, 1),
      (F.ACS_LIVE_REFSEL 1, 1), (F.ACS_STAT_COAST 1, 1), (F.ACS_STAT_REFOK 1, 1)]
    ((s.acsOf 1).cap = none ∧ s.b (F.ACS_STAT_COAST 1) = true ∧ s.b (F.ACS_CTRL_EN 1) = true ∧ s.b (F.ACS_CTRL_FCHK 1) = true ∧ s.acsOnSysRef 1 = false) ∧
    after (exec (.frequencyCheck true 100010 100000) s) (fun t => !t.b (F.ACS_STAT_REFOK 1) && t.b (F.ACS_STAT_FREQERR 1)) = true := by
  decide +kernel
theorem wit_AcsRelock : let s := put acs1 [(F.ACS_STAT_COAST 1, 1), (F.ACS_STAT_REFOK 1, 1), (F.ACS_CTRL_RLAUTO 1, 1)]
    (s.b (F.ACS_STAT_COAST 1) = true ∧ s.b (F.ACS_CTRL_RLAUTO 1) = true ∧ s.b (F.ACS_STAT_REFOK 1) = true) ∧
    after (exec (.referenceReturn true) s) (fun t => t.b (F.ACS_STAT_LOCK 1) && t.b (F.ACS_STAT_RELOCKED 1)) = true := by
  decide +kernel
theorem wit_AcsRelock_manual : let s := put acs1 [(F.ACS_STAT_COAST 1, 1), (F.ACS_CTRL_RLAUTO 1, 0)]
    s.b (F.ACS_CTRL_RLAUTO 1) = false ∧ (s.acsOf 1).cause ≠ 3 ∧ s.b (F.ACS_STAT_REFOK 1) = false ∧
    after (exec (.referenceReturn true) s) (fun t => !t.b (F.ACS_STAT_LOCK 1) && t.b (F.ACS_STAT_REFOK 1)) = true ∧
    after (exec (.acsRelock true) s) (fun t => t.regs == s.regs) = true := by decide +kernel

/-! ## Audio ports, PDM, IEC 60958 and the converters -/

/-- Port 3: two slots of 32 bits in a frame of 64, data of 24 bits, output on channels 0 to 31. -/
def port3 (mode : Nat) : State := put on [(F.ASP_FMT0_FLENM1 3, 63), (F.ASP_FMT0_NSLOTM1 3, 1), (F.ASP_FMT0_SLOTWM1 3, 31),
  (F.ASP_FMT0_DATAWM1 3, 23), (F.ASP_CTRL_MODE 3, mode), (F.ASP_CTRL_DIR0 3, 1)]
def port3runs (mode : Nat) : State := put (port3 mode) [(F.ASP_STAT_RUN 3, 1), (F.ASP_CTRL_EN 3, 1)]
theorem wit_AspStart : (((port3runs 0).asp 3).swap = [] ∧ ((port3runs 0).asp 3).endSwap = []) ∧ ((port3 1).on 22 = true ∧ (port3 1).aspRun 3 = false ∧ (port3 1).aspBad 3 = false ∧
    (port3 1).b (F.ASP_CTRL_ARM 3) = false) ∧ (port3 3).aspBad 3 = true ∧ (port3runs 0).aspRun 3 = true ∧ gone.on 22 = false ∧
    after (exec (.aspStart 3) (port3 1)) (fun t => (t.asp 3).start == .thenFsync) = true ∧
    after (exec (.aspStart 3) (port3 0)) (fun t => (t.asp 3).start == .tick) = true ∧
    after (exec (.aspStart 3) (port3 3)) (fun t => t.b (F.ASP_STAT_CFGERR 3)) = true ∧
    after (exec (.aspStop 3 false) (port3runs 0)) (fun t => t.aspRun 3 && (t.asp 3).stopping) = true ∧
    after (exec (.aspStop 3 true) (port3runs 0)) (fun t => !t.aspRun 3) = true := by decide +kernel
theorem wit_AspTrigger : let s := put (port3 0) [(F.ASP_CTRL_EN 3, 1), (F.ASP_CTRL_ARM 3, 1)]
    (s.aspRun 3 = false ∧ s.aspBad 3 = false ∧ s.leader (s.aspDom 3) = s.leader 0 ∧ s.b (F.ASP_CTRL_EN 3) = true ∧
      s.b (F.ASP_CTRL_ARM 3) = true) ∧ s.leader 1 ≠ s.leader (s.aspDom 3) ∧ (port3 0).b (F.ASP_CTRL_EN 3) = false ∧
    after (exec (.aspTrigGo 0 true false 0 8) s) (fun t => (t.asp 3).start == .trig 0 true) = true ∧
    after (exec (.aspTrigGo 1 true false 0 8) s) (fun t => t.b (F.ASP_STAT_CFGERR 3)) = true := by decide +kernel
theorem wit_StoppedDomainFrame : ((port3runs 0).aspRun 3 = true ∧ (port3runs 0).aspMode 3 = 0 ∧
    (port3runs 0).running ((port3runs 0).aspDom 3) = false ∧ ((port3runs 0).asp 3).stopping = false) ∧
    after (exec (.slotmaskRead .cc0 3) (port3 0)) (fun t => (listed t.latch (R.ASP_SLOTMASK 3 2)).isSome) = true := by decide +kernel

/-- A frame of so many bits: FSYNC is active in its first bit and in that after its last. -/
def slaveIn (bits : Nat) : SlaveIn := ⟨now, [true] ++ List.replicate (bits - 1) false ++ [true], 500, 0, 100, [], [], []⟩
def slave3 (bad : Nat) : State := (put (port3runs 1) [(F.ASP_FMT1_FSPOL 3, 0)]).modAsp 3 fun a => { a with a := 7, badRun := bad }
theorem wit_SlaveFrame : ((slave3 0).aspRun 3 = true ∧ (slave3 0).aspMode 3 = 1 ∧ (slave3 0).b (F.ASP_STAT_MUTED 3) = false ∧
    ((slave3 0).asp 3).start = .none ∧ ((slave3 0).asp 3).swap = [] ∧ ((slave3 0).asp 3).stopping = false ∧
    ((slave3 0).asp 3).tail = false ∧ ((slave3 0).asp 3).ramp = .pass ∧ ((slave3 0).asp 3).cnt < 15) ∧
    ((slave3 0).frameBits 3 (slaveIn 64).fsync = some ((slave3 0).flen 3) ∧ ((slave3 0).asp 3).a ≠ 0 ∧
      atMost ((((slaveIn 64).phi : Int) - ((slave3 0).asp 3).phi).natAbs) ((slave3 0).period2 3) 1 4 = true) ∧
    ((slave3 0).frameBits 3 (slaveIn 63).fsync = some 63 ∧ 63 ≠ (slave3 0).flen 3) ∧ ((slave3 0).asp 3).lost = false ∧
    (slave3 0).frameBits 3 [false, true] = none := by decide +kernel
theorem wit_SlaveFrame_bad :
    after (exec (.slaveFrame 3 (slaveIn 63)) (slave3 0)) (fun t => t.b (F.ASP_STAT_BADFRAME 3) && !t.b (F.ASP_STAT_MUTED 3)) = true ∧
    after (exec (.slaveFrame 3 (slaveIn 63)) (slave3 1)) (fun t => t.b (F.ASP_STAT_MUTED 3)) = true ∧
    after (exec (.slaveFrame 3 (slaveIn 64)) (slave3 1)) (fun t => (t.asp 3).goodRun == 1 && !t.b (F.ASP_STAT_BADFRAME 3)) = true := by
  decide +kernel
theorem wit_ClockLost : after (exec (.clockLost 3) (slave3 0)) (fun t => (t.asp 3).lost && t.b (F.ASP_STAT_CLKLOST 3) &&
    t.f (F.ASP_SLIP_CLKLOSS 3) == 1) = true ∧
    (let s := (slave3 0).modAsp 3 fun a => { a with lost := true }
     (s.asp 3).lost = true ∧ after (exec (.clockLost 3) s) (fun t => t.regs == s.regs) = true) := by decide +kernel

/-- Converter group 2 in a state. -/
def src2 (n : Nat) : State := put on [(F.SRC_STAT_STATE 2, n)]
theorem wit_Src : ((src2 1).srcState 2 = 1 ∧ 2 ^ 21 ≤ (0x1000000 : Word).toNat ∧ (0x1000000 : Word).toNat ≤ 2 ^ 27) ∧
    (src2 2).srcState 2 = 2 ∧ (src2 4).srcState 2 = 4 ∧ (src2 3).srcState 2 ≠ 1 ∧
    after (exec (.srcAcquired 2 0x1000000) (src2 1)) (fun t => t.srcState 2 == 2 && t.f (F.SRC_STAT_LOCKEV 2) == 1) = true ∧
    after (exec (.srcAcquired 2 0x200000) (src2 1)) (fun t => t.srcState 2 == 2) = true ∧
    after (exec (.srcAcquired 2 0x8000000) (src2 1)) (fun t => t.srcState 2 == 2) = true ∧
    after (exec (.srcAcquired 2 0x1FFFFF) (src2 1)) (fun t => t.srcState 2 == 6) = true ∧
    after (exec (.srcAcquired 2 0x8000001) (src2 1)) (fun t => t.srcState 2 == 6) = true ∧
    after (exec (.ratioOutOfRange 2) (src2 1)) (fun t => t.srcState 2 == 6) = true ∧
    after (exec (.srcRampDone 2) (src2 2)) (fun t => t.srcState 2 == 3) = true ∧
    after (exec (.srcRampDone 2) (src2 4)) (fun t => t.srcState 2 == 5) = true ∧
    after (exec (.srcRampDone 2) (src2 3)) (fun t => t.regs == (src2 3).regs) = true := by decide +kernel

/-- A frame inside a block: subframe A with even parity, subframe B with a parity error. -/
def iecCells : List Bool :=
  let a := iecSub false 0x12345600 ⟨1, false, false, false, true⟩
  a ++ iecSub (a.getLastD false) 0xABCDEF00 ⟨2, false, false, false, false⟩
def iecIn : IecIn := ⟨now, iecCells, 48000, []⟩
def iecFrame : IecFrame := ⟨0x123456, 0xABCDEF, false, true, false, false, false, false, false, false, false⟩
def iecOn : State := let s := put on [(F.IECR_CTRL_EN, 1), (F.IECR_STAT_LOCK, 1)]
  { s with iecRx := { s.iecRx with heldRate := 48000, goodB := 0x77 } }
theorem wit_IecFrame : (iecOn.b F.IECR_CTRL_EN = true ∧ iecOn.on 22 = true ∧ iecOn.b F.IECR_STAT_LOCK = true ∧
    iecOn.b F.IECR_STAT_NONPCM = false ∧ ((iecIn.rateHz : Int) - iecOn.iecRx.heldRate).natAbs * 200 ≤ iecOn.iecRx.heldRate ∧
    iecRateOk iecIn.rateHz = true ∧ iecFrameOf iecIn.cells = some iecFrame ∧ iecSync iecFrame = false ∧ iecOn.iecRx.npBlock = false ∧ iecOn.iecRx.frame = none ∧
    iecFrame.blockStart = false ∧ iecOn.iecRx.pipe.length ≤ 4) ∧
    iecFrameOf [] = none ∧
    after (exec (.iecRxFrame iecIn) iecOn) (fun t => t.iecRx.pipe == [(0x12345600, 0x77, false)] &&
      t.f F.IECR_SLIP_PARERRS == 1) = true := by decide +kernel
theorem wit_IecLockLoss : iecOn.b F.IECR_STAT_LOCK = true ∧ on.b F.IECR_STAT_LOCK = false ∧
    after (exec .iecLockLoss iecOn) (fun t => !t.b F.IECR_STAT_LOCK && t.b F.IECR_STAT_LOCKLOST) = true := by decide +kernel
theorem wit_IecStatus : after (exec (.iecStatusRead .cc0) on) (fun t => (listed t.latch (R.IECR_UDB 5)).isSome) = true ∧
    after (exec .iecCsUpdate on) (fun t => t.b F.IECT_STAT_CSPEND) = true ∧
    after (exec .iecCsUpdate gone) (fun t => t.resp.err) = true := by decide +kernel
theorem wit_PdmStuck : let s := put on [(F.PDM_STAT_RUN 1, 1)]
    s.b (F.PDM_STAT_RUN 1) = true ∧ on.b (F.PDM_STAT_RUN 1) = false ∧
    after (exec (.pdmStuck 1 true) s) (fun t => t.b (F.PDM_STAT_STUCK1 1) && !t.b (F.PDM_STAT_STUCK0 1)) = true := by decide +kernel

/-! ## The switch, time and the links -/

/-- Both ports are enabled members of VLAN 1, which is their own, and port 1 leads to station 2. -/
def lan : State := (put on [(F.NSW_CTRL_EN, 1), (F.PORT_CTRL_EN 0, 1), (F.PORT_CTRL_EN 1, 1), (F.PORT_CTRL_PVID 0, 1),
  (F.NSW_VLAN_VALID 7, 1), (F.NSW_VLAN_VID 7, 1), (F.NSW_VLAN_MEMBER 7, 3), (F.NSW_VLAN_UNTAG 7, 3), (F.NSW_CTRL_SRPCPA, 3),
  (F.NSW_CTRL_SRPCPB, 2), (F.NSW_MTMACL_MAC, 2), (F.NSW_MTCMD_VID, 1), (F.NSW_MTCMD_PORTS, 1), (F.NSW_CTRL_AGE, 300)]).modNet
  fun n => { n with macs := [⟨2, 1, 2, false, 0⟩] }
/-- A frame of 60 bytes from station 1 to station 2. -/
def frame12 : List Byte := [0, 0, 0, 0, 0, 2, 0, 0, 0, 0, 0, 1, 8, 0] ++ List.replicate 46 0
theorem wit_FrameReceive : (lan.on 24 = true ∧ lan.b F.NSW_CTRL_EN = true ∧ lan.b (F.PORT_CTRL_EN 0) = true) ∧
    ((none : Option Int) = none ∧ 60 ≤ frame12.length ∧ frame12.length ≤ 1518 ∧ frameTagged frame12 = false ∧ linkLocal frame12 = false ∧
      lan.f F.NSW_CTRL_PTPMODE ≠ 2 ∧ lan.b F.SE_CTRL_EN = false ∧ 1 = lan.f (F.PORT_CTRL_PVID 0) ∧
      0 = lan.f (F.PORT_CTRL_DEFPCP 0) ∧ lan.isSr 0 = false ∧ lan.vlan 1 = some (3, 3) ∧ (3 : Nat).testBit 1 = true ∧
      lan.macFind (frameDst frame12) 1 = some ⟨2, 1, 2, false, 0⟩ ∧ lan.macFind (frameSrc frame12) 1 = none ∧
      lan.net.macs.length < 1024 ∧ lan.passes 0 1 = true ∧ lan.bufUse + frame12.length + 8 ≤ 196608) := by decide +kernel
theorem wit_FrameReceive_moves :
    after (exec (.frameReceive now false frame12 true none) lan) (fun t => ((t.netPort 1).q.map (·.bytes)) == [frame12] &&
      t.net.macs == [⟨2, 1, 2, false, 0⟩, ⟨1, 1, 1, false, 0⟩]) = true ∧
    after (exec (.frameReceive now false frame12 false none) lan) (fun t => t.f (F.PORT_STAT_DROPS 0) == 1 &&
      (t.netPort 1).q == []) = true ∧ on.b (F.PORT_CTRL_EN 0) = false ∧ (put on [(F.NSW_CTRL_EN, 1)]).b (F.PORT_CTRL_EN 0) = false := by
  decide +kernel
def pkt : Pkt := ⟨frame12, 0, 1, 0, none, false, false⟩
theorem wit_EgressTransmit : let s := (put lan [(F.PORT_CTRL_SRON 0, 1)]).modPort 0 fun p => { p with q := [pkt] }
    (s.b (F.PORT_CTRL_EN 0) = true ∧ s.b (F.PORT_CTRL_SRON 0) = true ∧ s.f (F.PORT_IDLEA_KBPS 0) = 0 ∧
      s.f (F.PORT_IDLEB_KBPS 0) = 0 ∧ (s.netPort 0).q = [pkt] ∧ pkt.pcp < 8 ∧ pkt.tag = none ∧ pkt.oneStep = false ∧
      pkt.twoStep = false) ∧
    after (exec (.egressTransmit now false) s) (fun t => (t.netPort 0).out == frame12 && (t.netPort 0).q == []) = true := by
  decide +kernel
theorem wit_InternalPort : let s := put lan [(F.NSW_TXBASE_ADDR, sramBase), (F.NSW_TXIDX_SIZE, 7), (F.NSW_TXIDX_SW, 1)]
    s.f F.NSW_TXIDX_HW ≠ s.f F.NSW_TXIDX_SW ∧ sramBase ≤ s.f F.NSW_TXBASE_ADDR + 16 * s.f F.NSW_TXIDX_HW ∧
      s.f F.NSW_TXBASE_ADDR + 16 * s.f F.NSW_TXIDX_HW + 16 ≤ sramBase + sramSize ∧ s.sramBad = [] ∧ s.sramSoft = [] ∧
    after (exec (.internalPortTransmit now) s) (fun t => t.f F.NSW_TXIDX_HW == 1) = true := by decide +kernel

theorem wit_AddressTable : lan.macFind lan.mtKey lan.mtVid = some ⟨2, 1, 2, false, 0⟩ ∧ on.macFind on.mtKey on.mtVid = none ∧
    after (exec .mtRead lan) (fun t => t.b F.NSW_MTCMD_FOUND && t.f F.NSW_MTCMD_PORTS == 2) = true ∧
    after (exec .mtRead on) (fun t => !t.b F.NSW_MTCMD_FOUND) = true ∧
    after (exec .mtWriteStatic lan) (fun t => t.macFind 2 1 == some ⟨2, 1, 1, true, 0⟩) = true ∧
    after (exec .mtDelete lan) (fun t => t.net.macs == []) = true ∧ after (exec .mtFlush lan) (fun t => t.net.macs == []) = true := by
  decide +kernel
theorem wit_Ageing : lan.f F.NSW_CTRL_AGE ≠ 0 ∧ (put on [(F.NSW_CTRL_AGE, 0)]).f F.NSW_CTRL_AGE = 0 ∧
    after (exec (.macAgeing 299) lan) (fun t => t.net.macs.length == 1) = true ∧
    after (exec (.macAgeing 300) lan) (fun t => t.net.macs == []) = true := by decide +kernel
theorem wit_Mdio : after (exec (.mdioC45Read 0xBEEF) lan) (fun t => t.f F.NSW_MDIO_DATA == 0xBEEF && t.f F.NSW_MDIO_OP == 4) = true ∧
    after (exec .mdioC45Address lan) (fun t => t.f F.NSW_MDIO_OP == 2) = true := by decide +kernel
theorem wit_TsfInfo : let s := lan.modNet fun n => { n with tsf := [(5, 1000000007)] }
    (s.net.tsf = [(5, 1000000007)] ∧ 5 < 2 ^ 31) ∧ lan.net.tsf = [] ∧
    after (exec (.tsfInfoRead .cc0) s) (fun t => t.resp.data == 0x80000005 && t.f F.TSF_NS_NS == 7 && t.f F.TSF_SECL_SEC == 1 &&
      t.net.tsf == []) = true := by decide +kernel
theorem wit_PortStat : let s := put lan [(F.PORT_STAT_DROPS 1, 9)]
    after (exec (.dropsRead .cc0 true 3) s) (fun t => t.resp.data == s.reg (R.PORT_STAT 1) && t.f (F.PORT_STAT_DROPS 1) == 3) = true ∧
    s.b (F.PORT_STAT_RXCLK 1) ≠ true ∧
    after (exec (.receiveClockChange true true) s) (fun t => t.b (F.PORT_STAT_RXCLK 1) && t.b F.NSW_STAT_RXCHG) = true := by
  decide +kernel

theorem wit_Links : (∀ d, d < 4 → on.anchoring d = false ∧ (on.dom d).anchor = .free) ∧ (-1000 : Int).natAbs ≤ 1000 ∧
    after (exec (.linkUp true 2 false 4 500 0) on) (fun t => t.b (F.PORT_CTRL_SRON 1) && t.f (F.PORT_LDELAY_NS 1) == 500 &&
      t.f (F.PORT_CTRL_SPEED 1) == 2 && t.tu.source) = true ∧
    after (exec (.linkUp true 1 true 1 500 0) on) (fun t => !t.b (F.PORT_CTRL_EN 1) && (t.netPort 1).up && t.f (F.PORT_CTRL_SPEED 1) == 1) = true ∧
    after (exec (.linkUp true 2 false 4 500 10001) on) (fun t => !t.b (F.PORT_CTRL_SRON 1)) = true ∧
    after (exec (.linkDown true true) lan) (fun t => t.b (F.PORT_CTRL_EN 0) && !t.tu.source) = true := by decide +kernel

/-- A gPTP message, and in mode 2 a Follow_Up to a two-step Sync that has left port B. -/
def gptp : List Byte := [1, 0x80, 0xC2, 0, 0, 0x0E, 0, 0, 0, 0, 0, 1, 0x88, 0xF7, 8] ++ List.replicate 47 0
def sync2 (type flags : Byte) : List Byte := [1, 0x1B, 0x19, 0, 0, 0, 0, 0, 0, 0, 0, 1, 0x88, 0xF7, type, 2, 0, 0, 0, 0, flags, 0] ++
  List.replicate 12 0 ++ [0, 0, 0, 0, 0, 0, 0, 7, 0, 1, 0, 9] ++ List.replicate 18 0
theorem wit_TimeMessage : let s := put lan [(F.NSW_CTRL_PTPMODE, 3)]
    (∀ d, d < 4 → s.anchoring d = false ∧ (s.dom d).anchor = .free) ∧ (s.on 24 = true ∧ s.b F.NSW_CTRL_EN = true ∧
      s.b (F.PORT_CTRL_EN 0) = true ∧ s.f F.NSW_CTRL_PTPMODE = 3 ∧ s.b F.SE_CTRL_EN = false ∧
      s.isSr (s.f (F.PORT_CTRL_DEFPCP 0)) = false) ∧ (60 ≤ gptp.length ∧ gptp.length ≤ 1518 ∧ frameTagged gptp = false ∧
      linkLocal gptp = true ∧ frameType gptp = 0x88F7) ∧ 10000 < (-10001 : Int).natAbs ∧ (10000 : Int).natAbs ≤ 10000 ∧
    after (exec (.frameReceive now false gptp true (some (-10001))) s) (fun t => t.tu.source && t.tu.stepPend &&
      t.reg R.TU_STEPNS == 10001) = true ∧
    after (exec (.frameReceive now false gptp true (some 10000)) s) (fun t => t.tu.offset == 10000 && !t.tu.stepPend) = true := by decide +kernel
/-- The Follow_Up of a Sync whose residence is 2,348 ns gains that and the link delay of 412 ns (R327's example). -/
theorem test_followUp :
    let s := (put lan [(F.NSW_CTRL_PTPMODE, 2), (F.PORT_LDELAY_NS 0, 412), (F.NSW_VLAN_MEMBER 7, 7), (F.NSW_VLAN_UNTAG 7, 7)]).modPort 1 fun p => { p with
      q := [⟨sync2 0 2, 0, 0, -2348, none, false, true⟩] }
    after (exec (.egressTransmit now true) s) (fun t => t.net.tsf.length == 1 && after (exec (.frameReceive now false (sync2 8 0) true none) t)
      fun w => (w.netPort 1).q.map (fun p => frameAt p.bytes 22 8) == [0x0AC80000] && w.net.fups == []) = true := by decide +kernel

theorem wit_TuSet : (put on [(F.TU_SETSECL_SEC, 1)]).f F.TU_SETNS_NS < 1000000000 ∧ (sext 32 ((put on [(F.TU_STEPNS_NS, 0xFFFFFC18)]).f F.TU_STEPNS_NS)).natAbs ≤ 1000 ∧
    after (exec .tuSet (put on [(F.TU_SETSECL_SEC, 1)])) (fun t => (t.advance tick).tu.t == 1000000000 * 2 ^ 32) = true ∧
    false ≠ on.b F.TU_STAT_SLOW ∧ on.on 24 = true ∧ true = on.b F.TU_STAT_SLOW ∧
    (true ≠ (put on [(F.TU_STAT_SLOW, 0)]).b F.TU_STAT_SLOW) ∧
    after (exec (.tuSourceSwitch false) on) (fun t => !t.b F.TU_STAT_SLOW && t.b F.TU_STAT_CLKSW) = true := by decide +kernel
/-- 3 s, 7 ns and a quarter. -/
def clock3 : State := { on with tu := { on.tu with t := 3000000007 * 2 ^ 32 + 2 ^ 30, leg := 5 * 2 ^ 64 + 6 * 2 ^ 32 + 7, lnsh := 9 } }
theorem wit_TuReads : after (exec (.tuNsRead .cc0) clock3) (fun t => t.resp.data == t.reg R.TU_NS && t.f F.TU_NS_NS == 7 &&
      t.f F.TU_SUBNS_SUB == 0x4000 && t.f F.TU_SECL_SEC == 3) = true ∧
    after (exec (.tuLnslRead .cc0) clock3) (fun t => t.resp.data == 6 && listed t.latch R.TU_LNSH == some 5 &&
      listed t.latch R.TU_LFRAC == some 7) = true ∧
    after (exec (.tuLnslWrite 4) clock3) (fun t => t.tu.leg == 9 * 2 ^ 64 + 4 * 2 ^ 32) = true := by decide +kernel

def pulse1 (active : Nat) (phase : Bool) : State := (put clock3 [(F.TP_CTRL_ACTIVE 1, active), (F.TP_SECL_SEC 1, 3),
  (F.TP_NS_NS 1, if active = 1 then 7 else 264), (F.TP_WIDTH_NS 1, 64), (F.TU_STAT_SLOW, 0)]).modPulse 1 fun p => { p with phase := phase }
theorem wit_PulseArm : ((pulse1 0 false).b (F.TP_CTRL_ACTIVE 1) = false ∧ (pulse1 0 false).tuTime + 256 < (pulse1 0 false).tpStart 1) ∧
    (let s := put (pulse1 0 false) [(F.TP_NS_NS 1, 263)]
     s.tpStart 1 ≤ s.tuTime + 256 ∧ s.tpPeriod 1 = 0 ∧
      after (exec (.tpulseArm true) s) (fun t => t.b (F.TP_CTRL_LATE 1) && t.b (F.TP_CTRL_DONE 1)) = true) ∧
    after (exec (.tpulseArm true) (pulse1 0 false)) (fun t => t.b (F.TP_CTRL_ACTIVE 1)) = true := by decide +kernel
theorem wit_PulseDisarm : ((pulse1 1 true).b (F.TP_CTRL_ACTIVE 1) = true ∧ ((pulse1 1 true).pulse 1).phase = true) ∧
    ((pulse1 1 false).pulse 1).phase = false ∧
    after (exec (.tpulseDisarm true) (pulse1 1 true)) (fun t => t.b (F.TP_CTRL_ACTIVE 1) && (t.pulse 1).disarm) = true ∧
    after (exec (.tpulseDisarm true) (pulse1 1 false)) (fun t => !t.b (F.TP_CTRL_ACTIVE 1)) = true := by decide +kernel
theorem wit_PulseEdge : let u := (pulse1 1 false).advance now
    (u.b (F.TP_CTRL_ACTIVE 1) = true ∧ u.b F.TU_STAT_SLOW = false ∧ (u.pulse 1).phase = false ∧
      u.tpStart 1 + (u.pulse 1).j * u.tpPeriod 1 ≤ u.tuTime) ∧
    after (exec (.tpulseEdge true now) (pulse1 1 false)) (fun t => (t.pulse 1).phase && (t.pulse 1).active) = true := by decide +kernel
theorem wit_Capture : let s := put clock3 [(F.TCAP_CTRL_EDGE, 1)]
    let c := { s with tu := { s.tu with cap := [(2000000001, true)] } }
    ((s.f F.TCAP_CTRL_EDGE).testBit 0 = true ∧ s.tu.cap.length < 16) ∧ c.tu.cap = [(2000000001, true)] ∧
    after (exec (.tcapEdge now true 100) s) (fun t => t.tu.cap == [(3000000007, true)] && t.f F.TCAP_CTRL_COUNT == 1) = true ∧
    after (exec (.tcapEdge now true 99) s) (fun t => t.tu.cap == []) = true ∧
    after (exec (.tcapRead .cc0) c) (fun t => t.f F.TCAP_NS_NS == 1 && t.f F.TCAP_SECL_SEC == 2 && t.b F.TCAP_SECH_RISE &&
      t.tu.cap == []) = true := by decide +kernel
theorem wit_TrigArm : on.trigTime ≤ on.tuTime + 256 ∧ (put on [(F.TRIG_NS_NS, 257)]).tuTime + 256 < (put on [(F.TRIG_NS_NS, 257)]).trigTime ∧
    after (exec .trigArm on) (fun t => t.b F.TRIG_CTRL_LATE) = true ∧
    after (exec .trigArm (put on [(F.TRIG_NS_NS, 257)])) (fun t => t.tu.trigArmed) = true := by decide +kernel
theorem wit_TrigFire : let s := put may3 [(F.ACS_STAT_LOCK 0, 1), (F.TRIG_CTRL_DOMAINS, 8)]
    let s : State := { s with tu := { s.tu with trigArmed := true } }
    ((s.advance now).tu.trigArmed = true ∧ (s.advance now).trigTime ≤ (s.advance now).tuTime ∧ s.f F.TRIG_CTRL_DOMAINS = 8 ∧
      (∀ j, j < 4 → s.anchoring j = false ∧ (s.dom j).anchor = .free) ∧ startHyps 3 s = true ∧ may 3 s = true ∧
      s.groupOk 3 = true ∧ s.b (F.ACS_CTRL_EN (s.f (F.RD_CTRL_SRC 3))) = true ∧
      s.b (F.ACS_STAT_LOCK (s.f (F.RD_CTRL_SRC 3))) = true) ∧
    (on.advance now).tu.trigArmed = false ∧
    after (exec (.trigFire now) s) (fun t => t.running 3 && t.b F.TRIG_CTRL_DONE) = true := by decide +kernel

/-! ## Mailboxes and the host SPI target -/

/-- CC1 is parked, and firmware runs. -/
def parked1 : State := { (put on [(⟨R.AON_RET 2, 31, 0⟩, 0x18000100), (F.HSP_CTRL_EN, 1), (F.SEC_CTRL_ROMDONE, 1)]).modCc 1 fun k => { k with parked := true } with
  hsp := { on.hsp with tx := [0x11, 0x22, 0x33], owed := some (2, 2) } }
theorem wit_Doorbells : parked1.on 21 = true ∧ parked1.on 20 = true ∧ (parked1.ccs[1]).parked = true ∧ gone.on 21 = false ∧
    after (exec (.doorbellWrite .cc0 false 40 true) parked1) (fun t => t.fbit (F.MBX_REQPEND_PEND 1) 8) = true ∧
    after (exec (.doorbellWrite .cc0 true 40 true) parked1) (fun t => t.fbit (F.MBX_RSPPEND_PEND 1) 8 && (t.ccs[1]).parked) = true ∧
    after (exec (.doorbellWrite .cc0 true 7 false) parked1) (fun t => !(t.ccs[1]).parked && (t.ccs[1]).pc == 0x18000100) = true := by
  decide +kernel
theorem wit_IdleTimeout : let s := (on.modMb 2 fun b => { b with opened := true })
    let z := { s with params := [(pid 0x01 0 0x20, [60, 0, 0, 0])] }
    s.idleTimeout 2 = 0 ∧ (z.idleTimeout 2 ≠ 0 ∧ z.powerState ≤ 2 ∧ (z.mb 2).opened = true) ∧
    after (exec (.sessionIdleTimeout 2) z) (fun t => !(t.mb 2).opened) = true := by decide +kernel
/-- A frame of channel 1 on one lane: four out words, then the words, most significant bit first (R358). -/
def hspIn (len : Nat) (words : List Word) : HspFrame :=
  ⟨0, 1, 0, BitVec.ofNat 16 len, false, 4, 0, words.flatMap fun w => (List.range 32).map fun i => BitVec.ofNat 4 (b2n (w.getLsbD (31 - i))), [], 0⟩
theorem wit_HspFrame : let s := put parked1 [(F.HSP_RSPLEN_WORDS 2, 3)]
    (s.on 21 = true ∧ s.b F.HSP_CTRL_EN = true ∧ s.romMode = false ∧ (hspIn 2 [5, 6]).cutCmd = false ∧
      (hspIn 2 [5, 6]).outCut = 0 ∧ (hspIn 2 [5, 6]).dl ≠ 3) ∧
    (s.hsp.owed = some (2, 2) ∧ 2 < (hspIn 2 [5, 6]).outWords ∧ 2 ≤ s.hsp.tx.length ∧ 2 ≤ s.f (F.HSP_RSPLEN_WORDS 2)) ∧
    (32 * (hspIn 2 [5, 6]).len.toNat ≤ hspLanes 0 * (hspIn 2 [5, 6]).inp.length ∧ (s.mb 1).req.length < (s.mb 1).reqN) ∧
    after (exec (.hspStatus 3 (hspIn 0 [])) s) (fun t => t.hsp.tx == [0x33] && t.hsp.out.drop 1 == [0x11, 0x22, 0xFFFFFFFF] &&
      t.hsp.owed == none) = true ∧
    after (exec (.hspStatus 9 (hspIn 0 [])) s) (fun t => t.b F.HSP_STAT_CMDERR) = true ∧
    after (exec (.hspRead (hspIn 7 [])) s) (fun t => t.hsp.owed == some (1, 7)) = true ∧
    after (exec (.hspMsg (hspIn 2 [5, 6])) s) (fun t => t.hsp.rx.map (fun w => (w.word, w.last)) == [(5, false), (6, true)]) = true := by
  decide +kernel
theorem wit_HspRxdata : let w : HspRx := ⟨6, false, true, 32, 1, false⟩
    let s := parked1.modHsp fun h => { h with rx := [w], msg := [⟨5, false, false, 32, 1, false⟩] }
    (s.on 21 = true ∧ s.hsp.rx = [w] ∧ w.last = true ∧ w.ch < 64 ∧ (s.mb w.ch).req.length < (s.mb w.ch).reqN) ∧
    after (exec (.hspRxdataRead .cc0) s) (fun t => t.resp.data == 6 && t.hsp.rx == [] &&
      (t.mb 1).req.map (·.bytes) == [[5, 0, 0, 0, 6, 0, 0, 0]]) = true := by decide +kernel
theorem wit_HspTxdata : parked1.hsp.tx.length < 64 ∧ (parked1.modHsp fun h => { h with tx := List.replicate 64 1 }).hsp.tx.length = 64 ∧
    after (exec (.hspTxdataWrite 0x44) parked1) (fun t => t.hsp.tx == [0x11, 0x22, 0x33, 0x44] && t.f F.HSP_LEVEL_TX == 4) = true ∧
    after (exec (.hspRsplenWrite 1 9) (parked1.modMb 1 fun b => { b with rsp := [⟨[1], 0, 0⟩] })) (fun t =>
      t.f (F.HSP_RSPLEN_WORDS 1) == 9 && (t.mb 1).rsp == []) = true := by decide +kernel

/-! ## The Baost Command Protocol -/

/-- Mailbox 2 has an open session, with request 9 the latest served. -/
def talk : State := on.modMb 2 fun b => { b with opened := true, gen := 1, lastSeq := 9, lastReply := [7], evDrops := 3 }
/-- Request 10 of that session, with a payload. -/
def rq2 (payload : List Byte) : Req := ⟨2, 0, 0, 4, 0, 66, 10, BitVec.ofNat 32 payload.length, 0, payload⟩
def it (idx type : Nat) (val : List Byte) : It := ⟨idx, type, val⟩
theorem asked_of {s : State} {rq : Req} {xs : List It} (h : s.f F.PMU_STAT_STATE < 3 ∧ (s.mb rq.mbx).req = [] ∧
    ((s.mb rq.mbx).held = [] ∧ (s.mb rq.mbx).rsp.length < (s.mb rq.mbx).rspN) ∧ reqForm rq = true ∧ s.sessionOk rq = true ∧ rq.seq = (s.mb rq.mbx).lastSeq + 1 ∧ rq.flags = 0 ∧
    parseItems (rq.payload.length + 1) 0 rq.payload = (xs, none)) : Asked s rq xs :=
  ⟨h.1, h.2.1, h.2.2.1, h.2.2.2.1, h.2.2.2.2.1, h.2.2.2.2.2.1, h.2.2.2.2.2.2.1, h.2.2.2.2.2.2.2⟩
/-- Items of a payload, and what it reads as. -/
def pay (l : List (Nat × List Byte)) : List Byte := l.flatMap fun x => item x.1 x.2
def its (l : List (Nat × List Byte)) : List It := l.zipIdx.map fun x => ⟨x.2, x.1.1, x.1.2⟩
/-- The status of the latest reply of mailbox 2, and that reply's items. -/
def status2 (t : State) : Nat := fileNat (((t.mb 2).rsp.getLastD ⟨[], 0, 0⟩).bytes) 16 4

/-- Its response ring holds N messages. -/
def fullRing : State := talk.modMb 2 fun b => { b with rsp := List.replicate b.rspN ⟨[], 0, 0⟩ }
theorem wit_Checked : BcpRequest (.bcpPing (rq2 [])) 0x02 (rq2 []) ∧ (3 ≤ (put talk [(F.PMU_STAT_STATE, 3)]).powerState) ∧
    ((talk.modMb 2 fun b => { b with held := [⟨[], 0, 0⟩] }).mb 2).held ≠ [] ∧ (fullRing.mb 2).rspN ≤ (fullRing.mb 2).rsp.length ∧
    (talk.powerState < 3 ∧ (rq2 []).mbx.val < 8 ∧ (talk.mb (rq2 []).mbx).req = [] ∧ (talk.mb 2).held = [] ∧
      (talk.mb 2).rsp.length < (talk.mb 2).rspN) ∧
    reqForm { rq2 [] with version := 3 } = false ∧ (reqForm (rq2 []) = true ∧ on.sessionOk (rq2 []) = false) ∧
    (talk.sessionOk { rq2 [] with seq := 9 } = true ∧ (9 : BitVec 16) = (talk.mb 2).lastSeq) ∧
    ((12 : BitVec 16) ≠ (talk.mb 2).lastSeq ∧ (12 : BitVec 16) ≠ (talk.mb 2).lastSeq + 1) ∧
    after (exec (.bcpPing { rq2 [] with seq := 9 }) talk) (fun t => (t.mb 2).rsp.map (·.bytes) == [[7]]) = true ∧
    after (exec (.bcpPing { rq2 [] with seq := 9 }) fullRing) (fun t => (t.mb 2).held.map (·.bytes) == [[7]]) = true :=
  ⟨.ping _, by decide +kernel⟩
theorem wit_Payload : ∀ x ∈ [(tLe, leBytes 4 3), (tChunk, [1, 2, 3])], x.1 < 2 ^ 16 ∧ x.2.length < 2 ^ 16 := by decide +kernel
theorem test_payload : parseItems 3 0 (pay [(tLe, leBytes 4 3), (tChunk, [1, 2, 3])]) =
    (its [(tLe, leBytes 4 3), (tChunk, [1, 2, 3])], none) := by decide +kernel
theorem wit_Open : let s := put on []
    let rq := { rq2 [] with session := 0 }
    (rq.mbx.val < 8 ∧ s.powerState < 3 ∧ (s.mb 2).req = [] ∧ (s.mb 2).held = [] ∧ (s.mb 2).rsp.length < (s.mb 2).rspN ∧ (s.mb 2).opened = false ∧ reqForm rq = true ∧ rq.flags = 0 ∧
      rq.payload = []) ∧
    after (exec (.bcpOpen rq) s) (fun t => (t.mb 2).opened && (t.mb 2).gen == 1 && (t.mb 2).lastSeq == 10) = true := by decide +kernel
theorem wit_Asked : Asked talk (rq2 []) [] := asked_of (by decide +kernel)
theorem wit_Reports : talk.fw.owner ≠ some (talk.session 2) ∧
    after (exec (.bcpClose (rq2 [])) talk) (fun t => !(t.mb 2).opened && t.fbit (F.MBX_RSPPEND_PEND 0) 2) = true ∧
    after (exec (.bcpPing (rq2 [])) talk) (fun t => (t.mb 2).rsp.length == 1 && (t.mb 2).lastSeq == 10) = true ∧
    after (exec (.bcpEvstat (rq2 [])) talk) (fun t => (t.mb 2).evDrops == 0) = true ∧
    after (exec (.bcpEngmap (rq2 [])) talk) (fun t => (t.mb 2).rsp.map (·.bytes.length) == [20 + 4 + 17 * 16]) = true := by decide +kernel
theorem wit_Subscribe : let p := pay [(tEvmask, leBytes 4 0x1FF)]
    Asked talk (rq2 p) [it 0 tEvmask (leBytes 4 0x1FF)] ∧ (it 0 tEvmask (leBytes 4 0x1FF)).Plain tEvmask ∧
    after (exec (.bcpSubscribe (rq2 p)) talk) (fun t => (t.mb 2).evMask == 0xFF) = true :=
  ⟨asked_of (by decide +kernel), by decide +kernel, by decide +kernel⟩
theorem wit_Logread : let l := [(tEpoch, leBytes 4 0), (tCount, leBytes 4 5)]
    Asked talk (rq2 (pay l)) (its l) ∧ (it 0 tEpoch (leBytes 4 0)).Plain tEpoch ∧ (it 1 tCount (leBytes 4 5)).Plain tCount ∧
    after (exec (.bcpLogread (rq2 (pay l))) talk) (fun t => (t.mb 2).rsp.length == 1) = true :=
  ⟨asked_of (by decide +kernel), by decide +kernel, by decide +kernel, by decide +kernel⟩

/-- An image with a meter, member 0x1000, and a table of 2 words, member 0x1001. -/
def image2 : List Byte := List.replicate 28 0 ++ leBytes 2 2 ++ List.replicate 162 0 ++
  (leBytes 4 10 ++ leBytes 4 216 ++ leBytes 4 8) ++ (leBytes 4 11 ++ leBytes 4 224 ++ leBytes 4 32) ++
  (leBytes 4 9 ++ leBytes 4 0x1000) ++ (List.replicate 16 65 ++ leBytes 2 0x1001 ++ [3, 1] ++ leBytes 2 4 ++ leBytes 2 2 ++ leBytes 8 0)
/-- Logical engine 3 has it, in engine 5. -/
def imaged : State := talk.modLe 3 fun x => { x with image := image2, golden := [(4, 0x04030201), (5, 0x08070605)], host := some 5 }
def p2 (p : Nat) : Nat × List Byte := (tPid, leBytes 4 p)
theorem wit_Get : let l := [p2 (pid 0x01 0 0x20)]
    let x := it 0 tPid (leBytes 4 (pid 0x01 0 0x20))
    Asked talk (rq2 (pay l)) [x] ∧ x.Plain tPid ∧ (infoOf (talk.le (pidInst x.num)).image x.num).any (fun q => q.type ≠ 9 && q.type ≠ 10) = true ∧
    (talk.describe 2 x).toOption.isSome = true ∧
    after (exec (.bcpGet (rq2 (pay l))) talk) (fun t => status2 t == 0 && (t.mb 2).rsp.map (·.bytes.length) == [20 + 12]) = true :=
  ⟨asked_of (by decide +kernel), by decide +kernel, by decide +kernel, by decide +kernel, by decide +kernel⟩
theorem wit_List : let l := [(tCount, leBytes 4 0)]
    Asked talk (rq2 (pay l)) (its l) ∧ (it 0 tCount (leBytes 4 0)).Plain tCount ∧ (it 0 tCount (leBytes 4 0)).num ≤ (talk.mb 2).parison.length :=
  ⟨asked_of (by decide +kernel), by decide +kernel, by decide +kernel⟩
def c4 : It := it 1 tChunk (leBytes 4 4)
def n4 : It := it 2 tCount (leBytes 4 4)
theorem wit_Imgread : let l := [(tLe, leBytes 4 3), (tChunk, leBytes 4 4), (tCount, leBytes 4 4)]
    Asked imaged (rq2 (pay l)) [it 0 tLe (leBytes 4 3), c4, n4] ∧ (c4.Plain tChunk ∧ c4.num % 4 = 0 ∧ n4.Plain tCount ∧ n4.num % 4 = 0 ∧
      12 + n4.num ≤ payloadLimit 2) ∧ ((it 0 tLe (leBytes 4 3)).num < 16 ∧ (imaged.le 3).image ≠ [] ∧ c4.num + n4.num ≤ (imaged.le 3).image.length) ∧
    after (exec (.bcpImgread (rq2 (pay l))) imaged) (fun t => status2 t == 0) = true :=
  ⟨asked_of (by decide +kernel), by decide +kernel, by decide +kernel, by decide +kernel⟩
theorem wit_Tblget : let l := [p2 (pid 0x10 3 0x1001), (tChunk, leBytes 4 4), (tCount, leBytes 4 4)]
    Asked imaged (rq2 (pay l)) [it 0 tPid (leBytes 4 (pid 0x10 3 0x1001)), c4, n4] ∧
    (infoOf (imaged.le 3).image (pid 0x10 3 0x1001)).any (·.type = 9) = true ∧
    c4.num + n4.num ≤ (imaged.cfg.val (pid 0x10 3 0x1001)).length ∧
    after (exec (.bcpTblget (rq2 (pay l))) imaged) (fun t => ((t.mb 2).rsp.map fun f => f.bytes.drop 28) == [[5, 6, 7, 8]]) = true :=
  ⟨asked_of (by decide +kernel), by decide +kernel, by decide +kernel, by decide +kernel⟩
theorem wit_Meters : let l := [(tLe, leBytes 4 3), p2 (pid 0x10 3 0x1000)]
    let x := it 1 tPid (leBytes 4 (pid 0x10 3 0x1000))
    Asked imaged (rq2 (pay l)) [it 0 tLe (leBytes 4 3), x] ∧ x.Plain tPid ∧ (imaged.meterPv 3 x).toOption.isSome = true ∧
    after (exec (.bcpMeters (rq2 (pay l))) imaged) (fun t => status2 t == 0) = true :=
  ⟨asked_of (by decide +kernel), by decide +kernel, by decide +kernel, by decide +kernel⟩

/-- The parison of mailbox 2. -/
def staging (l : List Staged) : State := imaged.modMb 2 fun b => { b with parison := l }
def routeVal : List Byte := leBytes 4 0x90000000
theorem wit_Stage : let l := [(tPv, leBytes 4 (pid 3 0 6) ++ routeVal)]
    let x := it 0 tPv (leBytes 4 (pid 3 0 6) ++ routeVal)
    Asked talk (rq2 (pay l)) [x] ∧ (x.type = tPv ∧ 4 ≤ x.val.length) ∧
    (talk.stageOne 2 x).toOption = some (.param (pid 3 0 6) routeVal) ∧
    (talk.putAll 2 [] [(x, .param (pid 3 0 6) routeVal)]).toOption = some [.param (pid 3 0 6) routeVal] ∧
    after (exec (.bcpStage (rq2 (pay l))) talk) (fun t => (t.mb 2).parison == [.param (pid 3 0 6) routeVal]) = true :=
  ⟨asked_of (by decide +kernel), by decide +kernel, by decide +kernel, by decide +kernel, by decide +kernel⟩
theorem wit_Unstage : let l := [p2 (pid 3 0 6)]
    let s := staging [.param (pid 3 0 6) routeVal, .param (pid 3 0 7) routeVal]
    Asked s (rq2 (pay l)) [it 0 tPid (leBytes 4 (pid 3 0 6))] ∧ (s.stagedAt 2 (pid 3 0 6)).isSome = true ∧
    after (exec (.bcpUnstage (rq2 (pay l))) s) (fun t => (t.mb 2).parison == [.param (pid 3 0 7) routeVal]) = true ∧
    after (exec (.bcpDiscard (rq2 [])) s) (fun t => (t.mb 2).parison == []) = true :=
  ⟨asked_of (by decide +kernel), by decide +kernel, by decide +kernel, by decide +kernel⟩
theorem wit_Imgbegin : let l (n : Nat) := [(tLe, leBytes 4 3), (tCount, leBytes 4 n)]
    Asked talk (rq2 (pay (l 256))) [it 0 tLe (leBytes 4 3), it 1 tCount (leBytes 4 256)] ∧
    Asked talk (rq2 (pay (l 0))) [it 0 tLe (leBytes 4 3), it 1 tCount (leBytes 4 0)] ∧
    talk.parisonOk 2 (putStaged [] (.image 3 (List.replicate 256 none) false)) = true ∧
    after (exec (.bcpImgbegin (rq2 (pay (l 0)))) talk) (fun t => (t.mb 2).parison == [.image 3 [] true]) = true ∧
    after (exec (.bcpImgbegin (rq2 (pay (l 252)))) talk) (fun t => (t.mb 2).parison == []) = true :=
  ⟨asked_of (by decide +kernel), asked_of (by decide +kernel), by decide +kernel, by decide +kernel, by decide +kernel⟩
theorem wit_Imgdata : let l := [(tLe, leBytes 4 3), (tChunk, leBytes 4 4 ++ [1, 2, 3, 4])]
    let s := staging [.image 3 (List.replicate 8 none) false]
    let c := it 1 tChunk (leBytes 4 4 ++ [1, 2, 3, 4])
    Asked s (rq2 (pay l)) [it 0 tLe (leBytes 4 3), c] ∧ (4 ≤ c.val.length ∧ c.val.length % 4 = 0 ∧ c.num % 4 = 0) ∧
    s.stagedAt 2 (pid 0x10 3 0x10) = some (.image 3 (List.replicate 8 none) false) ∧ c.num + c.data.length ≤ 8 ∧
    after (exec (.bcpImgdata (rq2 (pay l))) s) (fun t =>
      (t.mb 2).parison == [.image 3 [none, none, none, none, some 1, some 2, some 3, some 4] false]) = true :=
  ⟨asked_of (by decide +kernel), by decide +kernel, by decide +kernel, by decide +kernel, by decide +kernel⟩
theorem wit_Imgend : let l := [(tLe, leBytes 4 3)]
    let s (b : Option Byte) := staging [.image 3 [some 1, b] false]
    Asked (s none) (rq2 (pay l)) [it 0 tLe (leBytes 4 3)] ∧ Asked (s (some 2)) (rq2 (pay l)) [it 0 tLe (leBytes 4 3)] ∧
    (∀ b ∈ [some (1 : Byte), some 2], b ≠ none) ∧ [some (1 : Byte), none].findIdx? Option.isNone = some 1 ∧
    after (exec (.bcpImgend (rq2 (pay l))) (s (some 2))) (fun t => (t.mb 2).parison == [.image 3 [some 1, some 2] true]) = true ∧
    after (exec (.bcpImgend (rq2 (pay l))) (s none)) (fun t => status2 t == stBadRequest) = true :=
  ⟨asked_of (by decide +kernel), asked_of (by decide +kernel), by decide +kernel, by decide +kernel, by decide +kernel, by decide +kernel⟩
theorem wit_Tblstage : let l := [p2 (pid 0x10 3 0x1001), (tChunk, leBytes 4 4 ++ [1, 2, 3, 4])]
    let s := staging [.param (pid 0x10 3 0x1001) (List.replicate 8 0)]
    let c := it 1 tChunk (leBytes 4 4 ++ [1, 2, 3, 4])
    Asked s (rq2 (pay l)) [it 0 tPid (leBytes 4 (pid 0x10 3 0x1001)), c] ∧
    (s.stagedInfo 2 (pid 0x10 3 0x1001)).any (fun q => q.type = 9 && q.size = 8 && c.num + c.data.length ≤ q.size) = true ∧
    after (exec (.bcpTblstage (rq2 (pay l))) s) (fun t =>
      (t.mb 2).parison == [.param (pid 0x10 3 0x1001) [0, 0, 0, 0, 1, 2, 3, 4]]) = true :=
  ⟨asked_of (by decide +kernel), by decide +kernel, by decide +kernel⟩

def toCommit : State := talk.modMb 2 fun b => { b with parison := [.param (pid 0x01 0 0x20) (leBytes 4 60)] }
theorem wit_Commit : Asked toCommit (rq2 []) [] ∧ (toCommit.mb 2).parison ≠ [] ∧ (talk.mb 2).parison = [] ∧
    (toCommit.validate (toCommit.mb 2).parison).toOption.isSome = true ∧ toCommit.stg.queue.length < 8 ∧
    toCommit.expects 0 = true ∧ toCommit.expects 77 = false :=
  ⟨asked_of (by decide +kernel), by decide +kernel⟩
theorem wit_Commit_moves : (match toCommit.validate (toCommit.mb 2).parison with
    | .ok (items, _) => portMoves toCommit.queuedCfg (toCommit.queuedCfg.lay items (toCommit.b F.TSU_STAT_HARD)) == false
    | .error _ => false) = true := by decide +kernel
theorem wit_Commit_refused : let s := staging [.param (pid 3 0 6) (leBytes 4 0xFFFFFFFF)]
    (s.validate (s.mb 2).parison).toOption = none ∧
    after (exec (.bcpCommit (rq2 [])) s) (fun t => (t.mb 2).parison.length == 1 && t.stg.queue == []) = true := by decide +kernel
theorem test_commit : after (exec (.bcpCommit (rq2 [])) toCommit) (fun t => t.stg.queue.length == 1 && (t.mb 2).parison == []) = true := by
  decide +kernel

theorem wit_Health : let l := [(tEng, leBytes 4 6)]
    let s := talk.modEng 6 fun x => { x with role := .cullet }
    Asked s (rq2 (pay l)) [it 0 tEng (leBytes 4 6)] ∧ (∀ k, k < 17 → (s.eng k).released = false) ∧ (talk.eng 6).role ≠ .cullet ∧
    after (exec (.bcpRelease (rq2 (pay l))) s) (fun t => (t.eng 6).released && t.mode 6 == 5 && t.on 6) = true ∧
    after (exec (.bcpRelease (rq2 (pay l))) talk) (fun t => status2 t == stNotInState) = true :=
  ⟨asked_of (by decide +kernel), by decide +kernel, by decide +kernel, by decide +kernel, by decide +kernel⟩
theorem wit_Retire : let l := [(tEng, leBytes 4 5)]
    let s := (put imaged [(F.ENG_MAP_VALID 5, 1), (F.ENG_MAP_LE 5, 3)]).modEng 5 fun x => { x with role := .live }
    Asked s (rq2 (pay l)) [it 0 tEng (leBytes 4 5)] ∧ ((∀ k, k < 17 → (s.eng k).retiring ≠ 5) ∧ (s.eng 5).role = .live ∧
      s.leOf 5 = some 3 ∧ s.imagedLes.length < s.soundEngines ∧ s.shadowing = false ∧ s.puntyOf = none) ∧
    after (exec (.bcpRetire (rq2 (pay l))) s) (fun t => (t.eng 5).retiring == 5 && (t.le 3).retire) = true ∧
    after (exec (.bcpRetire (rq2 (pay l))) (s.modEng 5 fun x => { x with retiring := 2 })) (fun t => (t.eng 5).retiring == 2) = true :=
  ⟨asked_of (by decide +kernel), by decide +kernel, by decide +kernel, by decide +kernel⟩
theorem wit_JournalRequests : (talk.journal.sync = false ∧ talk.flash.supported = true) ∧ talk.journal.clearing = false ∧
    (let s := { talk with journal := { talk.journal with sync := true } }
     s.journal.sync = true ∧ after (exec (.bcpJsync (rq2 [])) s) (fun t => status2 t == stBusy) = true) ∧
    after (exec (.bcpJclear (rq2 [])) talk) (fun t => t.journal.clearing) = true := by decide +kernel

theorem wit_Fwbegin : let l := [(tCount, leBytes 4 4096)]
    Asked talk (rq2 (pay l)) [it 0 tCount (leBytes 4 4096)] ∧ talk.nand = false ∧ talk.fw.owner = none ∧ talk.fw.run = 0 ∧
    (let s := { talk with fw := { talk.fw with owner := some (talk.session 2), run := 2 } }
     Asked s (rq2 (pay l)) [it 0 tCount (leBytes 4 4096)] ∧ s.fw.owner = some (s.session 2) ∧ s.fw.run ≠ 0 ∧
       after (exec (.bcpFwbegin (rq2 (pay l))) s) (fun t => status2 t == stBusy && t.fw.run == 2) = true) ∧
    after (exec (.bcpFwbegin (rq2 (pay l))) talk) (fun t => t.fw.st == 1 && t.fw.run == 1) = true :=
  ⟨asked_of (by decide +kernel), by decide +kernel, by decide +kernel, by decide +kernel,
    ⟨asked_of (by decide +kernel), by decide +kernel⟩, by decide +kernel⟩
theorem wit_Reset : let l := [(tCount, leBytes 4 10000)]
    Asked talk (rq2 (pay l)) [it 0 tCount (leBytes 4 10000)] ∧
    after (exec (.bcpReset (rq2 (pay l))) talk) (fun t => t.fw.reset) = true :=
  ⟨asked_of (by decide +kernel), by decide +kernel⟩
/-- An update of 4,096 bytes by mailbox 2, in a state. -/
def updating (st run got : Nat) : State :=
  { talk with fw := { talk.fw with owner := some 66, st := st, run := run, got := got, len := 4096 } }
theorem wit_FwErase : ((updating 1 1 0).fw.run = 1 ∧ (updating 1 1 0).fw.owner ≠ none) ∧ talk.fw.run ≠ 1 ∧
    after (exec (.fwEraseDone true) (updating 1 1 0)) (fun t => t.fw.st == 2 && t.fw.run == 0) = true ∧
    after (exec (.fwEraseDone false) (updating 1 1 0)) (fun t => t.fw.st == 5 && t.fw.status == stStorage) = true := by decide +kernel
theorem wit_Fwdata : let l := [(tChunk, leBytes 4 4 ++ [1, 2, 3, 4])]
    let c := it 0 tChunk (leBytes 4 4 ++ [1, 2, 3, 4])
    let s := updating 2 0 4
    Asked s (rq2 (pay l)) [c] ∧ (c.type = tChunk ∧ 4 ≤ c.val.length ∧ c.val.length % 4 = 0 ∧ c.num % 4 = 0 ∧
      s.fw.owner = some (s.session 2) ∧ s.fw.st = 2 ∧ c.num = s.fw.got ∧ c.num + c.data.length ≤ s.fw.len ∧
      pkgOff + c.num + c.data.length ≤ slotBytes) ∧
    after (exec (.bcpFwdata (rq2 (pay l)) true) s) (fun t => t.fw.got == 8 &&
      t.cell (t.regionBase (slotRegion t.fw.slot) + pkgOff + 5) == 2) = true :=
  ⟨asked_of (by decide +kernel), by decide +kernel, by decide +kernel⟩
theorem wit_Fwend : let s := updating 2 0 4096
    (Asked s (rq2 []) [] ∧ s.fw.run ≠ 2 ∧ s.fw.owner = some (s.session 2) ∧ s.fw.st = 2 ∧ s.fw.got = s.fw.len) ∧
    after (exec (.bcpFwend (rq2 [])) s) (fun t => t.fw.st == 3 && t.fw.run == 2) = true :=
  ⟨⟨asked_of (by decide +kernel), by decide +kernel⟩, by decide +kernel⟩
theorem wit_FwVerify : (updating 3 2 4096).fw.run = 2 ∧ (updating 3 2 4096).fw.owner ≠ none ∧ talk.fw.run ≠ 2 ∧
    after (exec (.fwVerifyDone false) (updating 3 2 4096)) (fun t => t.fw.st == 5 && t.fw.owner == none) = true := by decide +kernel
theorem wit_ResetDelay : let s := { talk with fw := { talk.fw with reset := true } }
    s.fw.reset = true ∧ talk.fw.reset = false ∧
    after (exec .resetDelayExpiry s) (fun t => t.pmu.resetReq && t.f F.PMU_RSTCAUSE_CAUSE == 7 && !(t.mb 2).opened) = true := by
  decide +kernel

/-! ## UARTs, the SPI and I2C controllers and GPIO -/

def uart1 : State := put on [(F.UART_QCFG_RXDEPTH 1, 0), (F.UART_QCFG_TXDEPTH 1, 0), (F.UART_CTRL_EN 1, 1), (F.UART_CTRL_RXEN 1, 1), (F.UART_CTRL_TXEN 1, 1)]
def uartHas (g : Uart → Uart) : State := { uart1 with uarts := vmod uart1.uarts 1 g }
/-- The line at some bits of 1,736 kernel cycles (115,200 baud), the first of them low, after a long quiet time. -/
def wave (bits : List Bool) : UartChar :=
  ⟨(((bits.zip (bits.drop 1 ++ [true])).zipIdx).filter fun p => p.1.1 != p.1.2).map fun p => 1736 * (p.2 + 1), 20000⟩
/-- Eight data bits, least significant first, and a stop bit. -/
def char (d : Nat) (stop : Bool) : UartChar := wave ([false] ++ (List.range 8).map d.testBit ++ [stop])
/-- A start edge whose line is high again after 10 cycles, and one 17,359 cycles after the end of a BREAK. -/
def glitch : UartChar := ⟨[10], 20000⟩
def early : UartChar := { char 1 true with highFor := 17359 }
theorem wit_UartRx : (uart1.uartRuns 1 = true ∧ uart1.uartBlocked 1 glitch = false ∧ uart1.b (F.UART_CTRL_ABDEN 1) = false ∧
    uart1.uartDeaf 1 = false ∧ (uart1.uart 1).waiting = [] ∧ uart1.b (F.UART_FMT_NINE 1) = false ∧ uart1.rxfc 1 = false ∧ uart1.txfc 1 = false) ∧
    on.uartRuns 1 = false ∧ uart1.uartRead 1 glitch = none ∧ uart1.uartRead 1 (char 0x41 true) = some ⟨0x41, false, true, false⟩ ∧
    (uart1.uart 1).rx.length < uart1.rxDepth 1 ∧
    (let s := uartHas fun x => { x with brk := true }
     s.uartBlocked 1 early = true ∧ s.uartBlocked 1 { early with highFor := 17360 } = false) ∧
    after (exec (.uartRxCharacter 1 (char 0x41 true)) uart1) (fun t => (t.uart 1).rx == [⟨0x41, false, false, false⟩]) = true ∧
    after (exec (.uartRxCharacter 1 (char 0x41 false)) uart1) (fun t => t.b (F.UART_STAT_FE 1) && (t.uart 1).rx == [⟨0x41, true, false, false⟩])
      = true ∧
    after (exec (.uartRxCharacter 1 (char 0 false)) uart1) (fun t => t.b (F.UART_STAT_BREAK 1) && (t.uart 1).brk) = true := by decide +kernel
/-- A UART that sends in DE form without RXECHO; even parity, and a character whose ones are odd; a full receive queue. -/
theorem wit_UartRx_errors : let s := put uart1 [(F.UART_FMT_PAR 1, 1)]
    let odd := wave ([false] ++ (List.range 8).map (Nat.testBit 1) ++ [false, true])
    let f := uartHas fun x => { x with rx := List.replicate 16 ⟨1, false, false, false⟩ }
    ((put (uartHas fun x => { x with de := true }) [(F.UART_FMT_DEEN 1, 1)]).uartDeaf 1 = true) ∧ f.rxDepth 1 ≤ (f.uart 1).rx.length ∧
    after (exec (.uartRxCharacter 1 odd) s) (fun t => t.b (F.UART_STAT_PE 1) && (t.uart 1).rx == [⟨1, false, true, false⟩]) = true ∧
    after (exec (.uartRxCharacter 1 (char 1 true)) f) (fun t => t.b (F.UART_STAT_OVR 1) && (t.uart 1).rx.length == 16) = true := by
  decide +kernel
/-- 0x55, whose fifth falling edge comes after a count. -/
def measured (n : Nat) : UartChar := ⟨[1, 2, 3, 4, 5, 6, 7, n], 20000⟩
theorem wit_Autobaud : let s := put uart1 [(F.UART_CTRL_ABDEN 1, 1)]
    (s.uartRuns 1 = true ∧ s.uartBlocked 1 (measured 124) = false ∧ (s.uart 1).slow = false ∧ s.b (F.UART_CTRL_ABDEN 1) = true ∧
      (measured 124).edges[7]? = some 124) ∧ uart1.b (F.UART_CTRL_ABDEN 1) = false ∧
    after (exec (.uartRxCharacter 1 (measured 124)) s) (fun t => t.b (F.UART_STAT_ABDONE 1) && t.f (F.UART_BAUD_DIVI 1) == 1 &&
      t.f (F.UART_BAUD_DIVF 1) == 0) = true ∧
    after (exec (.uartRxCharacter 1 (measured 8388603)) s) (fun t => t.b (F.UART_STAT_ABDONE 1) && t.f (F.UART_BAUD_DIVI 1) == 65535) = true ∧
    after (exec (.autobaudTimeout 1) s) (fun t => t.b (F.UART_STAT_ABDERR 1) && !t.b (F.UART_CTRL_ABDEN 1)) = true := by decide +kernel
def sends (xctl : List Bool) : State := uartHas fun x => { x with tx := [0x42, 0x43], xctl := xctl }
/-- The same UART on a single wire, whose bits the receiver compares. -/
def wired : State := put (sends []) [(F.UART_FMT_SWIRE 1, 1)]
theorem wit_UartTx : ((sends []).b (F.UART_CTRL_EN 1) = true ∧ (sends []).b (F.UART_CTRL_TXEN 1) = true ∧
    (sends []).b (F.UART_CTRL_TXBRK 1) = false ∧ (sends []).b (F.UART_STAT_COLL 1) = false ∧ ((sends []).uart 1).out = [] ∧
    ((sends []).mb 5).rsp = [] ∧ ((sends []).uart 1).waiting = [] ∧ (sends [true]).uartChecks 1 = false ∧ (sends [true]).rxfc 1 = false) ∧
    ((sends []).uart 1).tx = [0x42, 0x43] ∧ (sends []).b (F.UART_STAT_TXSTOP 1) = false ∧ ((sends [true]).uart 1).xctl = [true] ∧
    (wired.uartChecks 1 = true ∧ wired.uartDiffers 1 0x42 (char 0x42 true) = none ∧ wired.b (F.UART_FMT_RXECHO 1) = false ∧
      wired.uartDiffers 1 0x42 (char 0x40 true) = some 2) ∧
    after (exec (.uartTxCharacter 1 (char 0 true)) (sends [])) (fun t => (t.uart 1).tx == [0x43] && (t.uart 1).bt == 1736 &&
      (t.uart 1).line == [some false, some false, some true, some false, some false, some false, some false, some true, some false, some true])
      = true ∧
    after (exec (.uartTxCharacter 1 (char 0 true)) (sends [true])) (fun t => (t.uart 1).tx.length == 2 && (t.uart 1).xctl == []) = true ∧
    after (exec (.uartTxCharacter 1 (char 0x40 true)) wired) (fun t => (t.uart 1).tx.length == 2 && t.b (F.UART_STAT_COLL 1) &&
      (t.uart 1).line == [some false, some false, none] && (t.uart 1).rx == [⟨0x40, false, false, false⟩]) = true := by decide +kernel
theorem wit_DeHold : ((uart1.uart 1).tx = [] ∧ (uart1.uart 1).xoff = false ∧ uart1.rxfc 1 = false ∧ (uart1.uart 1).waiting = []) ∧
    after (exec (.deHoldExpiry 1) (uartHas fun x => { x with de := true })) (fun t => !(t.uart 1).de) = true := by decide +kernel
theorem wit_UartQueues : let f := uartHas fun x => { x with tx := List.replicate 16 1 }
    let r := uartHas fun x => { x with rx := [⟨0x41, true, false, false⟩] }
    uart1.on 21 = true ∧ gone.on 21 = false ∧ ((uart1.uart 1).tx.length < uart1.txDepth 1) ∧ f.txDepth 1 ≤ (f.uart 1).tx.length ∧
    after (exec (.uartTxdataWrite 1 0x1FF) uart1) (fun t => (t.uart 1).tx == [0x1FF] && t.f (F.UART_LEVEL_TX 1) == 1) = true ∧
    after (exec (.uartTxdataWrite 1 1) f) (fun t => t.b (F.UART_STAT_TXOVF 1) && (t.uart 1).tx.length == 16) = true ∧
    after (exec (.uartRxdataRead .cc0 1) r) (fun t => t.resp.data.getLsbD 31 && (t.uart 1).rx == []) = true ∧
    (uart1.uart 1).rx = [] ∧
    after (exec (.uartBaudWrite 1 0xFFFFF) uart1) (fun t => t.reg (R.UART_BAUD 1) == 0xFFFFF) = true ∧
    after (exec (.uartTxflush 1) f) (fun t => (t.uart 1).tx == []) = true ∧
    after (exec (.uartDisable 1) f) (fun t => (t.uart 1).tx.length == 16 && !t.b (F.UART_CTRL_EN 1)) = true := by decide +kernel

/-- Eight bits on one lane, to select 1, in units of 8: out, out with the select held, and in. -/
def psc8 : Word := 0x40700007
def pscHold : Word := 0x60700007
def pscIn : Word := 0x42700007
/-- IO1 at the bits of 0xA5. -/
def lanesA5 : List (BitVec 4) := [2, 0, 2, 0, 0, 2, 0, 2]
def pscOn (cmds tx : List Word) : State := let s := put on [(F.PSC_CTRL_EN, 1)]
  { s with psc := { s.psc with cmds := cmds, tx := tx } }
theorem wit_PscCommand : (pscBad psc8 = false ∧ on.psc.cmds.length < 8 ∧ psc8 &&& 0x000F0000#32 = 0) ∧
    (pscBad 0x40200007 = true ∧ (0x40200007 : Word) &&& 0x000F0000#32 = 0) ∧
    after (exec (.pscCommandWrite psc8) on) (fun t => t.psc.cmds == [psc8] && t.f F.PSC_STAT_CMDLVL == 1) = true ∧
    after (exec (.pscCommandWrite 0x40200007) on) (fun t => t.b F.PSC_STAT_CMDERR) = true := by decide +kernel
theorem wit_PscTransfer : ((pscOn [psc8] [0xA5]).b F.PSC_CTRL_EN = true ∧ (pscOn [psc8] [0xA5]).psc.cmds = [psc8] ∧ pscDir psc8 = 0 ∧
    pscBits psc8 ≤ pscW psc8 ∧ (pscOn [psc8] [0xA5]).psc.moved = 0 ∧ (pscOn [psc8] [0xA5]).psc.tx = [0xA5]) ∧
    (psc8.getLsbD 29 = false ∧ pscHold.getLsbD 29 = true ∧ pscDir pscHold = 0 ∧ pscBits pscHold ≤ pscW pscHold) ∧
    (pscDir pscIn = 1 ∧ pscBits pscIn ≤ pscW pscIn ∧ (pscOn [pscIn] []).psc.rx.length < 32 ∧ pscDir pscIn ≠ 0) ∧ on.psc.cmds = [] ∧
    lanesA5.flatMap (laneBits 1 (pscLanes pscIn)) ≠ [] ∧
    after (exec (.pscTransfer []) (pscOn [psc8] [0xA5])) (fun t =>
      t.psc.out == [(1, 1), (1, 0), (1, 1), (1, 0), (1, 0), (1, 1), (1, 0), (1, 1)] && t.b F.PSC_STAT_DONE && t.psc.sel == none) = true ∧
    after (exec (.pscTransfer []) (pscOn [pscHold] [0xA5])) (fun t => t.psc.sel == some 1 && t.psc.cmds == []) = true ∧
    after (exec (.pscTransfer lanesA5) (pscOn [pscIn] [])) (fun t => t.psc.rx == [(0xA5, 8, false)]) = true ∧
    after (exec (.pscTransfer []) (pscOn [psc8] [])) (fun t => t.b F.PSC_STAT_STALL && t.psc.cmds == [psc8]) = true ∧
    after (exec (.pscAbort []) (pscOn [psc8] [1])) (fun t => t.b F.PSC_STAT_ABORTED && t.psc.cmds == [] && t.psc.tx == []) = true ∧
    after (exec (.pscAbort [2, 0, 2]) (pscOn [pscIn] [])) (fun t => t.psc.rx == [(5, 3, true)] && t.b F.PSC_STAT_PARTIAL) = true := by
  decide +kernel
theorem wit_PscData : let s := { on with psc := { on.psc with rx := [(0x5A, 7, true)] } }
    (s.psc.rx = [(0x5A, 7, true)] ∧ 7 < 64) ∧ on.psc.rx = [] ∧ on.psc.tx.length < 32 ∧
    32 ≤ (pscOn [] (List.replicate 32 0)).psc.tx.length ∧
    after (exec (.pscRxdataRead .cc0) s) (fun t => t.resp.data == 0x5A && t.f F.PSC_RXINFO_NBITS == 7 && t.b F.PSC_RXINFO_PARTIAL) = true ∧
    after (exec (.pscTxdataWrite 3) on) (fun t => t.psc.tx == [3]) = true := by decide +kernel

/-- GO: 2 bytes to, or from, target 0x20 (R421: [25:23] are ignored). -/
def xferW : Word := 0x80A00002
def xferR : Word := 0x90A00002
def i2cRun (x : Word) (m : Nat) : State := let s := put on [(F.I2C_CTRL_EN, 1)]
  { s with i2c := { s.i2c with run := some (x, m), tx := [7, 8], sent := [.start] } }
/-- The same with the address passed. -/
def i2cPassed (x : Word) (m : Nat) : State := let s := i2cRun x m
  { s with i2c := { s.i2c with sent := [.start, .out 0x41 true] } }
def busOf (a d : Nat) (rx : List Byte) : I2cBus := ⟨a, d, rx, false, false⟩
theorem wit_I2cGo : let s := put on [(F.I2C_CTRL_EN, 1)]
    (s.on 21 = true ∧ xferW &&& ~~~ 0xF3FF01FF#32 = 0 ∧ xferR &&& ~~~ 0xF3FF01FF#32 = 0 ∧ xferW.getLsbD 31 = true ∧
      s.b F.I2C_CTRL_EN = true ∧ s.i2c.run = none) ∧ on.b F.I2C_CTRL_EN = false ∧ (i2cRun xferW 0).i2c.run.isSome = true ∧
    after (exec (.i2cXferGo xferW) s) (fun t => t.i2c.run == some (xferW, 0) && t.b F.I2C_STAT_BUSY && t.i2c.sent == [.start]) = true ∧
    after (exec (.i2cXferGo xferW) (put s [(F.I2C_STAT_BBUSY, 1)])) (fun t => t.b F.I2C_STAT_BUSY && t.i2c.sent == []) = true := by decide +kernel
theorem wit_I2cEnd : ((i2cRun xferW 0).i2c.run = some (xferW, 0) ∧ (i2cRun xferW 0).i2c.pmic = false ∧ (i2cRun xferW 0).i2c.pmicWait = false ∧
    0 ≤ min (wordFld xferW 8 0) 256) ∧ (xferW.getLsbD 28 = false ∧ 2 ≤ (i2cRun xferW 0).i2c.tx.length) ∧ xferR.getLsbD 28 = true ∧
    min (wordFld xferR 8 0) 256 - 1 + (i2cPassed xferR 1).i2c.rx.length ≤ 16 ∧ ((i2cPassed xferR 1).i2c.sent ≠ [] ∧ (i2cPassed xferR 1).i2c.sent ≠ [.start]) ∧
    (i2cAddress xferW).length ≤ 1 ∧ 0 < (i2cAddress xferW).length ∧
    after (exec (.i2cTransferEnd (busOf 1 2 [])) (i2cRun xferW 0)) (fun t => t.i2c.run == none && t.i2c.tx == [] &&
      t.f F.I2C_STAT_COUNT == 2 && t.b F.I2C_STAT_DONE && t.i2c.sent == [.start, .out 0x40 true, .out 7 true, .out 8 true, .stop]) = true ∧
    after (exec (.i2cTransferEnd (busOf 1 0 [])) (i2cRun xferW 0)) (fun t => t.b F.I2C_STAT_DNACK && t.i2c.tx == [8] &&
      t.f F.I2C_STAT_COUNT == 0) = true ∧ i2cAddress xferR = [0x41] ∧ i2cAddress 0xD2340002 = [0xF4, 0x34, 0xF5] ∧
    after (exec (.i2cTransferEnd (busOf 1 0 [9])) (i2cPassed xferR 1)) (fun t => t.i2c.rx == [9] && t.f F.I2C_STAT_COUNT == 2 &&
      t.i2c.sent == [.start, .out 0x41 true, .inp 9 false, .stop]) = true := by decide +kernel
theorem wit_I2cEnd_errors :
    after (exec (.i2cTransferEnd (busOf 0 0 [])) (i2cRun xferW 0)) (fun t => t.b F.I2C_STAT_ANACK && t.i2c.run == none &&
      t.i2c.sent == [.start, .out 0x40 false, .stop]) = true ∧
    after (exec (.i2cTransferEnd ⟨0, 0, [], true, true⟩) (i2cRun xferW 0)) (fun t => t.b F.I2C_STAT_ARBLOST && t.f F.I2C_STAT_COUNT == 0 &&
      t.b F.I2C_STAT_BBUSY) = true ∧
    after (exec (.i2cTransferEnd ⟨1, 0, [5], true, false⟩) (i2cRun xferR 0)) (fun t => t.b F.I2C_STAT_ARBLOST && t.f F.I2C_STAT_COUNT == 1 &&
      !t.b F.I2C_STAT_BBUSY) = true ∧
    after (exec .i2cTimeout (i2cRun xferW 1)) (fun t => t.b F.I2C_STAT_TIMEOUT && t.i2c.run == none) = true ∧
    after (exec (.i2cTransferEnd ⟨0, 0, [], false, true⟩) on) (fun t => t.b F.I2C_STAT_BBUSY) = true := by decide +kernel
theorem wit_I2cClear : let h := { on with i2c := { on.i2c with held := true, rx := [4] } }
    (on.i2c.run = none ∧ on.i2c.held = false) ∧ h.i2c.held = true ∧
    after (exec (.i2cClear 9) on) (fun t => t.b F.I2C_STAT_DONE) = true ∧
    after (exec (.i2cClear 0) h) (fun t => !t.i2c.held && t.i2c.sent == [.stop]) = true ∧
    after (exec (.i2cClear 0) on) (fun t => t.b F.I2C_STAT_CLRFAIL) = true ∧
    after (exec (.i2cClear 10) on) (fun t => t.b F.I2C_STAT_CLRFAIL) = true ∧
    after (exec (.i2cDataWrite 0xFF) on) (fun t => t.i2c.tx == [0xFF]) = true ∧
    after (exec (.i2cDataRead .cc0) h) (fun t => t.resp.data == 4 && t.i2c.rx == []) = true := by decide +kernel

theorem wit_Gpio : let s := put on [(F.GPIO_DIR_DIR, 0xC0), (F.GPIO_OUT_OUT, 0x0F), (F.GPIO_EDGE_EDGE, 1 <<< 10), (F.GPIO_FILT_COUNT 6, 3),
      (F.GPIO_FILT_COUNT 4, 5), (F.GPIO_FILT_UNIT 4, 1)]
    ((s.f F.GPIO_EDGE_EDGE).testBit (2 * 5) = true ∧ s.f (F.GPIO_FILT_COUNT 5) = 0 ∧ s.fbit F.GPIO_IN_IN 5 = false ∧
      s.fbit F.GPIO_DIR_DIR 5 = false ∧ s.fbit F.GPIO_DIR_DIR 7 = true ∧ s.fbit F.GPIO_OUT_OUT 7 = false) ∧ gone.on 21 = false ∧
    after (exec (.gpioSet 0xB0) s) (fun t => t.f F.GPIO_OUT_OUT == 0xBF && t.fbit F.GPIO_IN_IN 7 && !t.fbit F.GPIO_IN_IN 5) = true ∧
    after (exec (.gpioSet 0x40) s) (fun t => !t.fbit F.GPIO_IN_IN 6) = true ∧
    after (exec (.gpioClr 0x05) s) (fun t => t.f F.GPIO_OUT_OUT == 0x0A) = true ∧
    after (exec (.gpioEdge 5 true 20 0 100) s) (fun t => t.fbit F.GPIO_EVT_EVT 5 && t.fbit F.GPIO_IN_IN 5) = true ∧
    after (exec (.gpioEdge 5 true 20 0 99) s) (fun t => t.fbit F.GPIO_EVT_OVR 5 && !t.fbit F.GPIO_EVT_EVT 5) = true ∧
    after (exec (.gpioEdge 4 true 1000 5 100) s) (fun t => t.fbit F.GPIO_IN_IN 4) = true ∧
    after (exec (.gpioEdge 4 true 1000 4 100) s) (fun t => !t.fbit F.GPIO_IN_IN 4) = true := by decide +kernel
/-! ## The flash port, execution in place and the journal -/

def port : State := put on [(F.XMP_CTRL_EN, 1)]
/-- GO, a read of 4n bytes; a program or an erase that is polled. -/
def device (rx : List Byte) (erase : Option (Nat × Nat)) : FlashDev := ⟨rx, none, erase⟩
/-- The lane IO1 at the bits of some bytes, the most significant first (R429). -/
def onIo1 (l : List Byte) : List Byte := l.flatMap fun b => (List.range 8).map fun i => if b.getLsbD (7 - i) then 2 else 0
theorem wit_XmpRead : let d : Word := 0x80000008
    (port.on 25 = true ∧ d &&& 0x70700000#32 = 0 ∧ wordFld d 19 0 = 4 * 2 ∧ d.getLsbD 31 = true ∧ port.b F.XMP_CTRL_EN = true ∧
      port.b F.XMP_STAT_BUSY = false ∧ port.flash.fifo = [] ∧ (xmpBytes (2 ^ wordFld (port.reg R.XMP_CMD0) 24 23) (onIo1 [1, 2, 3, 4, 5, 6, 7, 8])).length = 4 * 2) ∧
    (let d : Word := 0x80000100
     wordFld d 19 0 = 4 * 64 ∧ d &&& 0x70700000#32 = 0) ∧
    after (exec (.xmpTransfer d (device (onIo1 [1, 2, 3, 4, 5, 6, 7, 8]) none)) port) (fun t => t.flash.fifo == [0x04030201, 0x08070605] &&
      t.b F.XMP_STAT_DONE && t.f F.XMP_LEVEL_WORDS == 2) = true := by decide +kernel
theorem wit_XmpBadCommand : let d : Word := 0xA0000008
    (d &&& 0x00700000#32 = 0 ∧ d.getLsbD 31 = true ∧ d.getLsbD 29 = true ∧ wordFld d 19 0 % 512 ≠ 0) ∧
    after (exec (.xmpTransfer d (device [] none)) port) (fun t => t.b F.XMP_STAT_CMDERR && !t.b F.XMP_STAT_BUSY) = true := by decide +kernel
theorem wit_XmpErase : let d : Word := 0xD0000000
    let s := port.modFlash fun x => { x with cells := [(0x1000, 1), (0x2000, 2)] }
    (d &&& 0x207FFFFF#32 = 0 ∧ (s.reg R.XMP_CMD0).getLsbD 31 = false ∧ d.getLsbD 31 = true ∧ d.getLsbD 30 = true ∧ d.getLsbD 28 = true) ∧
    after (exec (.xmpTransfer d (device [] (some (0x1000, 0x1000)))) s) (fun t => t.flash.cells == [(0x2000, 2)] &&
      (t.flash.run.map (·.polling)) == some true) = true := by decide +kernel
def polls : State := port.modFlash fun x => { x with run := some ⟨true, false, 0, 0, [], [], [], none, none, true, false, 1, false⟩ }
theorem wit_XmpPoll : (polls.flash.run = some ⟨true, false, 0, 0, [], [], [], none, none, true, false, 1, false⟩ ∧ polls.nand = false ∧
      polls.pollBusy 1 = true ∧ polls.pollBusy 0 = false) ∧ port.flash.run = none ∧
    after (exec (.xmpPollDone 0 false) polls) (fun t => t.b F.XMP_STAT_DONE && t.flash.run == none) = true ∧
    after (exec (.xmpPollDone 1 false) polls) (fun t => !t.b F.XMP_STAT_DONE && t.flash.run.isSome) = true ∧
    after (exec .xmpPollTimeout polls) (fun t => t.b F.XMP_STAT_TIMEOUT && t.flash.run == none) = true ∧
    after (exec .xmpAbort polls) (fun t => t.b F.XMP_STAT_ABORTED && t.flash.run == none) = true := by decide +kernel
theorem wit_XmpEccount : let s := put port [(F.XMP_ECCCNT_CORR, 77)]
    after (exec (.xmpEcccntRead .cc0 3 1 9) s) (fun t => t.resp.data == s.reg R.XMP_ECCCNT && t.f F.XMP_ECCCNT_CORR == 3 &&
      t.f F.XMP_ECCCNT_UNCORR == 1 && t.f F.XMP_ECCCNT_MAXSEC == 8 && t.b F.XMP_STAT_ECCU) = true := by decide +kernel

/-- Region 0 holds one erased chunk, with its tree node in flash at 0x1000 and the root of both. -/
def xip0 : State := (put on [(F.XMP_STAT_XIPACT, 1), (F.XIP_BASE_VALID 0, 1), (F.XIP_SIZE_BYTES 0, 256), (F.XIP_TREE_OFFSET 0, 0x1000),
  (F.XIP_ROOT_ROOT 0 0, 0x19CA49D4), (F.XIP_ROOT_ROOT 0 1, 0x9130B170), (F.XIP_ROOT_ROOT 0 2, 0x832DEBE4), (F.XIP_ROOT_ROOT 0 3, 0x969981AC)]).modFlash
  fun x => { x with cells := [(0x1000, 0x64), (0x1001, 0x40), (0x1002, 0xE4), (0x1003, 0x8F), (0x1004, 0x48), (0x1005, 0xDE), (0x1006, 0xD7), (0x1007, 0x61), (0x1008, 0x15), (0x1009, 0x57), (0x100A, 0xE8), (0x100B, 0x4D), (0x100C, 0x2D), (0x100D, 0x51), (0x100E, 0x1F), (0x100F, 0xAA)] }
theorem wit_XipEnable : port.b F.XMP_CTRL_XIPEN = false ∧ port.xipRefused = false ∧
    xip0.b F.XMP_CTRL_XIPEN = false ∧ xip0.xipRefused = true ∧
    after (exec .xipEnable port) (fun t => t.b F.XMP_STAT_XIPACT) = true ∧ after (exec .xipEnable xip0) (fun t => t.b F.XMP_STAT_XIPERR) = true ∧
    after (exec .xipLock port) (fun t => t.b F.XMP_CTRL_XIPLOCK) = true := by decide +kernel
theorem wit_XipInside : (xip0.on 25 = true ∧ xip0.b F.XMP_STAT_XIPACT = true ∧ xip0.b (F.XIP_BASE_VALID 0) = true ∧ xip0.f (F.XIP_BASE_OFFSET 0) ≤ 0xFC ∧
    0xFC + 4 ≤ xip0.f (F.XIP_BASE_OFFSET 0) + xip0.f (F.XIP_SIZE_BYTES 0) ∧ xip0.nand = false ∧ xip0.flash.part.nand = false ∧
    0xFC + 4 ≤ xip0.flash.part.size) ∧ (xip0.eccMode ≠ 1 ∧ (xip0.reg R.XMP_XIPCMD0).getLsbD 31 = false ∧ listed xip0.flash.cache 0 = none ∧
      listed xip0.flash.cache (xip0.f (F.XIP_TREE_OFFSET 0)) = none) := by decide +kernel
/-- The chunk is its entry of the node, and the node's hash is the root. -/
theorem wit_Xip_good : let node := xip0.cellBytes 0x1000 256
    (node.drop (16 * (0 / 256))).take 16 = (sha256 (leBytes 4 0 ++ [0] ++ leBytes 4 0 ++ xip0.cellBytes 0 256)).take 16 ∧
    (sha256 (leBytes 4 0 ++ [1] ++ leBytes 4 0 ++ node)).take 16 =
      (List.range 4).flatMap fun k => leBytes 4 (xip0.f (F.XIP_ROOT_ROOT 0 k)) := by decide +kernel
theorem wit_Xip_bad : let s := put xip0 [(F.XIP_ROOT_ROOT 0 3, 0)]
    (sha256 (leBytes 4 0 ++ [1] ++ leBytes 4 0 ++ s.cellBytes 0x1000 256)).take 16 ≠
      (List.range 4).flatMap fun k => leBytes 4 (s.f (F.XIP_ROOT_ROOT 0 k)) := by decide +kernel
theorem test_xip_cached : let s := xip0.modFlash fun x => { x with cache := [(0, (List.range 256).map (BitVec.ofNat 8))] }
    listed s.flash.cache 0 = some ((List.range 256).map (BitVec.ofNat 8)) ∧
    after (exec (.xipRead .cc1 0xFC 4) s) (fun t => t.resp == ⟨0xFFFEFDFC, false⟩) = true := by decide +kernel
theorem wit_Xip_outside : (∀ k, k < 4 → port.b (F.XIP_BASE_VALID k) = false) ∧ xip0.flash.part.size < 0xFFFFFFC + 4 ∧
    (xip0.modFlash fun x => { x with part := { x.part with nand := true } }).flash.part.nand = true ∧
    after (exec (.xipRead .dma 0xFFFFFFC 4) xip0) (fun t => t.resp.err) = true := by decide +kernel

def frame5 (stamped : Bool) : JFrame := ⟨5, [(0, .remove 7)], 0, 1, 0, stamped⟩
def jour (fs : List JFrame) (w : List JRec) : State := { on with journal := { on.journal with frames := fs, wait := w, seq := 5, report := true } }
theorem wit_JournalFrame : (on.journal.wait ++ on.jChanges = [] ∧ on.flash.supported = true) ∧
    ((jour [] [.remove 7]).journal.wait ≠ [] ∧ (jour [] [.remove 7]).flash.supported = true ∧
      (jour [] [.remove 7]).jReserve ≤ (jour [] [.remove 7]).jFree) ∧
    ((jour [] [.remove 7]).modFlash fun x => { x with supported := false }).flash.supported = false ∧
    after (exec .journalFrameWrite (jour [frame5 false] [.remove 9])) (fun t => t.journal.seq == 6 && t.journal.wait == [] &&
      t.journal.frames.map (·.stamped) == [true, false]) = true := by decide +kernel
theorem wit_JournalStamp : (∀ f ∈ (jour [frame5 true] []).journal.frames, f.stamped = true) ∧
    (frame5 false ∈ (jour [frame5 false] []).journal.frames ∧ (frame5 false).stamped = false) ∧
    after (exec .journalStamp (jour [frame5 false] [])) (fun t => t.journal.frames.map (fun f => (f.stamped, f.recs.length)) ==
      [(true, 1), (true, 0)]) = true := by decide +kernel
theorem wit_JournalDone : ((∀ j, j < 64 → ((jour [frame5 false] []).mb j).opened = false) ∧ (jour [frame5 false] []).journal.report = true) ∧
    after (exec (.journalWriteDone false) (jour [frame5 false] [])) (fun t => t.journal.frames == [] && t.journal.wait == [.remove 7]) = true ∧
    after (exec (.journalWriteDone true) (jour [frame5 true] [])) (fun t => !t.journal.report && t.journal.frames.length == 1) = true := by
  decide +kernel
theorem wit_Retention : on.flash.hours + 8766 ≤ 8766 ∧ on.lehr.paused = false ∧ on.journal.find (6, 0) = none ∧
    ¬ 8765 ≥ on.flash.hours + 8766 ∧
    (let s := { on with lehr := { on.lehr with paused := true } }
     s.lehr.paused = true ∧ after (exec (.retentionScan 8766 [(0, true)]) s) (fun t => t.lehr.flashWork && t.flash.hours == 0) = true) ∧
    after (exec (.retentionScan 8766 [(2, false)]) on) (fun t => t.journal.wait == [] && t.flash.hours == 8766) = true ∧
    after (exec (.retentionScan 8766 [(0, true)]) on) (fun t => t.journal.wait.length == 1) = true := by decide +kernel
/-- R438: a NAND flash with no table has no good blocks. -/
theorem wit_RegionShort : ({ on with fuse := [(56, 1)] } : State).regionShort 3 = true ∧ on.regionShort 3 = false := by decide +kernel
/-! ## The mask ROM, SEC and the supplies -/

/-- A stage 1 image of 16 bytes, of version 4.2.0, signed for the key whose secret is 1. -/
def stage1 : List Byte :=
  beBytes 56 0x445a42490100010010000000000000100001001000000000000204000000000000000000ffff111005000080000000000000000000000000 ++
  beBytes 56 0xbe45cb2605bf36bebde684841a28f0fd43c69850a3dce5fedba69928ee3a8991 ++
  beBytes 56 0x6b17d1f2e12c4247f8bce6e563a440f277037d812deb33a0f4a13945d898c2964fe342e2fe1a7f9b8ee7eb4a7c0f9e162bce33576b315ece ++
  beBytes 56 0xcbb6406837bf51f5000000000000000000000000000000007cf27b188d034f7e8a52380304b51ac3c08969e277f21b35a60b48fc47669978 ++
  beBytes 48 0xe98d8dc51231f43a21317f18f4e0755854937800d549b02f79a3320ab91436b9000102030405060708090a0b0c0d0e0f
/-- The same as a stage 2 image. -/
def stage2 : List Byte :=
  beBytes 56 0x445a42490100020010000000000002100001021000000000000204000000000000000000ffff111005000080000000000000000000000000 ++
  beBytes 56 0xfc2e2c73072bfa2bda03ff9307472debd3cc8105028a8a9e235e35ba8d2e37f4 ++
  beBytes 56 0x6b17d1f2e12c4247f8bce6e563a440f277037d812deb33a0f4a13945d898c2964fe342e2fe1a7f9b8ee7eb4a7c0f9e162bce33576b315ece ++
  beBytes 56 0xcbb6406837bf51f5000000000000000000000000000000007cf27b188d034f7e8a52380304b51ac3c08969e277f21b35a60b48fc47669978 ++
  beBytes 48 0x7b647cc36b1f886fd4c7f7d4809021cae01de7709b081c90ee9a12e37d9c6ea101112131415161718191a1b1c1d1e1f
/-- Memory content at a place, without the bytes that an unlisted address reads as. -/
def placed (bs : List Byte) (a : Nat) (skip : Byte) : List (Nat × Byte) :=
  (bs.zipIdx.map fun p => (a + p.2, p.1)).filter (·.2 ≠ skip)
theorem test_signature : ecdsaVerify ((stage1.drop 112).take 64) ((stage1.drop 192).take 64) (sha256 (stage1.take 192)) = true ∧
    ecdsaVerify ((stage1.drop 112).take 64) ((stage1.drop 192).take 64) (sha256 (stage1.take 191)) = false := by decide +kernel
def package : State := { updating 3 2 4368 with
  fw := { (updating 3 2 4368).fw with len := 4368 }
  flash := { talk.flash with cells := placed stage1 (0x100000 + 4096) 0xFF ++ placed stage2 (0x100000 + 8192) 0xFF } }
theorem wit_FwVerify_good : (package.fw.run = 2 ∧ package.fw.owner ≠ none ∧ package.nand = false) ∧ package.fw.slot = false ∧
    package.pkgCheck.2.2.2.2 = 0 := by decide +kernel
/-- ROM serves the host; its window is open, a load of 2,048 bytes runs, and the staging area holds a record with stage 1. -/
def rom : State := { (put on [(F.HSP_CTRL_EN, 1)]) with
  rom := ⟨true, some 2048, false, false⟩
  sram := placed (slotRecord 1 64 272 1024 16 ++ stage1) 0x200000 0 }
def shut : State := { rom with rom := ⟨false, some 2048, false, false⟩ }
theorem wit_DeviceReset : (State.reset.released = true ∧ State.reset.lifecycle = 0) ∧
    (let s := { State.reset with fuse := [(33, 1)] }
     s.released = true ∧ s.lifecycle = 1 ∧ ({ start with wake := true } : BootIn).wake = true) ∧
    ({ State.reset with pmu := { State.reset.pmu with inReset := true } }).released = false ∧
    after (exec (.deviceReset start) State.reset) (fun t => t.romMode && t.rom.window && t.on 19 && (t.cc 1).parked) = true := by
  decide +kernel
theorem wit_RomRequests : (rom.on 21 = true ∧ rom.b F.HSP_CTRL_EN = true ∧ rom.romMode = true) ∧
    (shut.rom.window = false ∧ shut.on 21 = true ∧ shut.b F.HSP_CTRL_EN = true ∧ shut.romMode = true) ∧
    (rom.rom.window = true ∧ rom.rom.handover = false ∧ rom.rom.load = some 2048) ∧
    after (exec (.romStatus 0 []) rom) (fun t => t.hsp.tx.length == 5 && t.f (F.HSP_RSPLEN_WORDS 0) == 5) = true ∧
    after (exec (.romStatus 2 []) rom) (fun t => t.b F.HSP_STAT_CMDERR && t.hsp.tx == []) = true ∧
    after (exec (.romBegin 0 [64]) shut) (fun t => t.hsp.tx == [BitVec.ofNat 32 stNotInState]) = true ∧
    after (exec (.romBegin 0 [64]) rom) (fun t => t.hsp.tx == [0] && t.rom.load == some 64) = true := by decide +kernel
theorem wit_RomData : 1 ≤ [0xDDCCBBAA#32].length ∧ 2044 + 4 * 1 ≤ 2048 ∧
    after (exec (.romData 0 [2044, 0xDDCCBBAA]) rom) (fun t => t.hsp.tx == [0] && memGet t.sram (0x200000 + 2047) == 0xDD) = true := by
  decide +kernel
theorem wit_RomEnd_bad : let s := { rom with sram := [] }
    (s.rom.load = some 2048 ∧ s.slotOk 2 = false) ∧
    after (exec (.romEnd 0 [] false) s) (fun t => t.hsp.tx == [14, 1] && t.rom.load == none) = true := by decide +kernel
theorem wit_RomEnd_good : rom.slotOk 2 = true ∧ (rom.stage1Check 2 false).1 = 0 ∧ rom.lifecycle = 0 := by decide +kernel
theorem wit_WindowClose : let s := { rom with fuse := [(33, 1)], rom := ⟨true, none, false, false⟩ }
    (s.rom.handover = false ∧ s.rom.window = true ∧ s.lifecycle = 1 ∧ s.rom.load = none ∧ s.rom.first = false) ∧
    after (exec (.recoveryWindowClose true false) s) (fun t => t.pmu.resetReq && t.f F.PMU_RSTCAUSE_CAUSE == 6 &&
      t.reg (R.AON_RET 5) == 1) = true := by decide +kernel

theorem wit_WindowBlank : (rom.rom.handover = false ∧ rom.rom.window = true ∧ rom.lifecycle ≠ 1) ∧
    after (exec (.recoveryWindowClose true true) rom) (fun t => t.rom.window && t.rom.load == none) = true := by decide +kernel

theorem wit_Fuse : (on.b F.SEC_CTRL_PGMLOCK = false ∧ on.lifecycle = 0) ∧ (put on [(F.SEC_CTRL_PGMLOCK, 1)]).b F.SEC_CTRL_PGMLOCK = true ∧
    (let s := { on with fuse := [(33, 1)] }
     s.lifecycle ≠ 0 ∧ ¬ (1216 / 32 < 38 ∨ 53 < 1216 / 32 ∨ s.lifecycle = 0) ∧
     after (exec (.fuseProgram (BitVec.ofNat 32 (2 ^ 31 + 1216)) true) s) (fun t => t.b F.SEC_STAT_PGMERR && t.fuse == [(33, 1)]) = true) ∧
    after (exec (.fuseProgram (BitVec.ofNat 32 (2 ^ 31 + 4095)) true) on) (fun t => t.fuse == [(127, 0x80000000)]) = true ∧
    after (exec (.fuseProgram (BitVec.ofNat 32 (2 ^ 31 + 4095)) false) on) (fun t => t.b F.SEC_STAT_PGMERR && t.fuse == []) = true := by
  decide +kernel
def kdf (bound : Nat) : State := { put on [(F.SEC_KDFBOUND_SET, 1), (F.SEC_KDFBOUND_BOUND, bound)] with fuse := [(33, 1)] }
theorem wit_Kdf : ((kdf 3).b F.SEC_KDFBOUND_SET = true ∧ (kdf 3).b F.SEC_KDFBOUND_CLOSED = false ∧ 3 ≤ (kdf 3).f F.SEC_KDFBOUND_BOUND ∧
    (kdf 3).lifecycle = 1) ∧ ¬ 4 ≤ (kdf 3).f F.SEC_KDFBOUND_BOUND ∧
    after (exec (.kdfGo (BitVec.ofNat 32 (2 ^ 31 + 4))) (kdf 3)) (fun t => t.b F.SEC_STAT_KDFERR && t.reg (R.SEC_KOUT 0) == 0) = true ∧
    after (exec (.kdfBoundSet (BitVec.ofNat 32 (2 ^ 31 + 9))) (kdf 3)) (fun t => t.f F.SEC_KDFBOUND_BOUND == 3) = true ∧
    after (exec (.kdfBoundSet (BitVec.ofNat 32 (2 ^ 31 + 9))) on) (fun t => t.f F.SEC_KDFBOUND_BOUND == 9 && t.b F.SEC_KDFBOUND_SET) = true ∧
    after (exec .keyClear (put on [(⟨R.SEC_KOUT 7, 31, 0⟩, 5)])) (fun t => t.reg (R.SEC_KOUT 7) == 0) = true := by decide +kernel
/-- The digest of "abc", FIPS 180-4's example. -/
theorem test_hash : let s := { on with sec := ⟨some (leBytes 4 0x00636261), none⟩ }
    after (exec (.hashFinish 3) s) (fun t => t.reg (R.SEC_HOUT 0) == 0xBF1678BA && t.reg (R.SEC_HOUT 7) == 0xAD1500F2 && t.sec.msg == none)
      = true := by decide +kernel
theorem wit_HashVerify : let s := { on with sec := ⟨some [1], some (List.replicate 160 0)⟩ }
    s.sec.msg = some [1] ∧ s.sec.verify = some (List.replicate 160 0) ∧ on.sec.verify = none ∧
    after (exec (.hashDataWrite 0x05040302) s) (fun t => t.sec.msg == some [1, 2, 3, 4, 5]) = true ∧
    after (exec .hashStart s) (fun t => t.sec.msg == some []) = true ∧
    after (exec .verifyGo on) (fun t => t.sec.verify == some (List.replicate 160 0) && t.b F.SEC_STAT_VBUSY) = true ∧
    after (exec .verifyDone s) (fun t => t.b F.SEC_VCTRL_VALID && !t.b F.SEC_VCTRL_PASS && t.sec.verify == none) = true := by decide +kernel

theorem wit_Supplies : on.powerState ≠ 5 ∧ (put on [(F.PMU_STAT_STATE, 5)]).powerState = 5 ∧
    after (exec .supplyMonitorFail on) (fun t => t.pmu.resetReq && t.f F.PMU_RSTCAUSE_CAUSE == 1 && !t.on 19) = true ∧
    after (exec .vddAonLoss on) (fun t => t.pmu.inReset) = true ∧ after (exec .aonPowerOn on) (fun t => !t.pmu.inReset) = true ∧
    after (exec (.rstN 1000 false) on) (fun t => t.f F.PMU_RSTCAUSE_CAUSE == 2 && !t.pmu.rstN) = true ∧
    after (exec (.rstN 99 false) on) (fun t => t.regs == on.regs) = true := by decide +kernel
theorem wit_S5Exit : let s := { put on [(F.PMU_STAT_STATE, 5)] with pmu := { on.pmu with resetReq := true } }
    (s.powerState = 5 ∧ s.pmu.resetReq = true ∧ s.pmu.rstN = true ∧ s.b F.PMU_STAT_TRIPLOCK = false) ∧
    after (exec (.s5ExitRetry false) s) (fun t => t.pmu.retries == s.pmu.retries + 1 && !t.pmu.pwrenCore) = true := by decide +kernel
def wd (c : Nat) : State := on.modCc c fun k => k.setSf 0x20 31 31 1
theorem wit_Watchdog : ((wd 0).on 19 = true ∧ ((wd 0).cc 0).sf 0x20 31 31 = 1 ∧ (wd 0).lifecycle ≠ 1) ∧ (on.cc 0).sf 0x20 31 31 = 0 ∧
    after (exec (.watchdogExpiry start) (wd 0)) (fun t => t.f F.PMU_RSTCAUSE_CAUSE == 3 && t.romMode && (t.cc 1).parked) = true := by
  decide +kernel
theorem wit_Cc1Watchdog : ((wd 1).on 20 = true ∧ ((wd 1).cc 1).sf 0x20 31 31 = 1 ∧ ((wd 1).mb 7).opened = false ∧
      (wd 1).fbit (F.MBX_RSPPEND_PEND 0) 7 = false) ∧
    (let r := (wd 1).setFbit (F.MBX_RSPPEND_PEND 0) 7 true
     r.clocked 1 = true ∧ (r.cc 1).sf 0x20 31 31 = 1 ∧ (r.mb 7).opened = false ∧ r.fbit (F.MBX_RSPPEND_PEND 0) 7 = true ∧
       after (exec (.cc1WatchdogExpiry 5) r) (fun t => !(t.cc 1).parked) = true) ∧
    (let p := on.modCc 1 fun k => { k with parked := true, expiries := [0, 0] }
     let q := on.modCc 1 fun k => { k with parked := true, expiries := [0, 0, 0] }
     ((p.cc 1).parked = true ∧ (p.cc 1).expiries ≠ [] ∧
       (p.cc 1).expiries.length < 3) ∧
     3 ≤ (q.cc 1).expiries.length ∧
     after (exec .cc1AppRestart p) (fun t => !(t.cc 1).parked) = true ∧
     after (exec .cc1AppRestart q) (fun t => (t.cc 1).parked) = true) ∧
    after (exec (.cc1WatchdogExpiry 5) (wd 1)) (fun t => (t.cc 1).parked && (t.cc 1).expiries == [t.s0]) = true := by decide +kernel

/-! ## The control cores -/

/-- Core 0 runs in ROM at 0x1000, with what `g` makes of it. -/
def core (g : CtlCore → CtlCore) : State := on.modCc 0 fun k => g { k with pc := 0x1000, parked := false, waiting := false }
theorem issues_of {s : State} (h : s.coreRuns 0 = true ∧ (s.cc 0).waiting = false)
    (e : s.ccStart 0 = (true, s)) : Issues s 0 s := ⟨h, e⟩
/-- The core of a next state has a property. -/
def core0 (o : Res State) (p : CtlCore → Bool) : Bool := after o fun t => p (t.cc 0)

/-- Registers 2 and 3 of the core. -/
def two (a b : Word) : State := core fun k => (k.put 2 a).put 3 b
theorem wit_Alu : Issues (two 7 0xFFFFFFFE) 0 (two 7 0xFFFFFFFE) ∧ ((two 7 31).rd 0 3).toNat < 32 ∧ 32 ≤ ((two 7 32).rd 0 3).toNat ∧
    core0 (exec (.ccSub 0 ⟨4, 2, 3⟩) (two 7 0xFFFFFFFE)) (fun k => k.get 4 == 9 && k.pc == 0x1004) = true ∧
    core0 (exec (.ccSlt 0 ⟨4, 3, 2⟩) (two 7 0xFFFFFFFE)) (fun k => k.get 4 == 1) = true ∧
    core0 (exec (.ccSltu 0 ⟨4, 3, 2⟩) (two 7 0xFFFFFFFE)) (fun k => k.get 4 == 0) = true ∧
    core0 (exec (.ccMulh 0 ⟨4, 2, 3⟩) (two 7 0xFFFFFFFE)) (fun k => k.pend == [⟨.reg 4, 0xFFFFFFFF, 3⟩]) = true ∧
    core0 (exec (.ccMulhu 0 ⟨4, 2, 3⟩) (two 7 0xFFFFFFFE)) (fun k => k.pend == [⟨.reg 4, 6, 3⟩]) = true ∧
    core0 (exec (.ccRem 0 ⟨4, 3, 2⟩) (two 7 0xFFFFFFFE)) (fun k => k.pend == [⟨.reg 4, 0xFFFFFFFE, 18⟩]) = true ∧
    core0 (exec (.ccDiv 0 ⟨4, 2, 3⟩) (two 7 0)) (fun k => k.pend == [⟨.reg 4, 0xFFFFFFFF, 18⟩]) = true :=
  ⟨issues_of (by decide +kernel) rfl, by decide +kernel⟩
theorem test_cpu_imm : core0 (exec (.ccAddi 0 ⟨4, 2, 0xFFFF⟩) (two 7 0)) (fun k => k.get 4 == 6) = true ∧
    core0 (exec (.ccOri 0 ⟨4, 2, 0xFFF0⟩) (two 7 0)) (fun k => k.get 4 == 0xFFF7) = true ∧
    core0 (exec (.ccAsri 0 ⟨4, 3, 4⟩) (two 7 0x80000000)) (fun k => k.get 4 == 0xF8000000) = true ∧
    core0 (exec (.ccLui 0 ⟨4, 0, 0x1234⟩) (two 7 0)) (fun k => k.get 4 == 0x12340000) = true ∧
    core0 (exec (.ccAdd 0 ⟨0, 2, 2⟩) (two 7 0)) (fun k => k.get 0 == 0) = true := by decide +kernel

def fetchFrom (a : Nat) (g : CtlCore → CtlCore) : State := core fun k => g { k with pc := a }
/-- The places that an instruction issues from. -/
theorem wit_Fetch : ∀ s ∈ [fetchFrom 0xFFFC id, fetchFrom 0x10000000 id, fetchFrom 0x183FFFFC id,
      fetchFrom 0x60000044 fun k => { k with icache := [⟨0x60000040, [], false⟩] }],
    s.coreRuns 0 = true ∧ (s.cc 0).waiting = false ∧ (s.cc 0).pc % 4 = 0 ∧ (s.cc 0).sf 2 0 0 = 0 ∧
      (s.cc 0).sf 0x40 0 0 = 0 ∧ (∀ n, n < 16 → (s.cc 0).sf (0xA0 + n) 31 31 = 0) ∧ s.sramBad = [] ∧ s.sramSoft = [] ∧ (s.cc 0).pend = [] := by
  decide +kernel
theorem wit_Fetch_pending : let s (n : Nat) := core fun k => { k with pend := [⟨.reg 5, 9, n⟩] }
    ((s 1).cc 0).pend = [⟨.reg 5, 9, 1⟩] ∧ ((s 2).cc 0).pend = [⟨.reg 5, 9, 2⟩] ∧
    core0 (exec (.ccAdd 0 ⟨4, 5, 0⟩) (s 1)) (fun k => k.get 4 == 9) = true ∧
    core0 (exec (.ccAdd 0 ⟨4, 5, 0⟩) (s 2)) (fun k => k.get 4 == 0 && k.pend == [⟨.reg 5, 9, 1⟩]) = true ∧
    (core fun k => { k with dead := true }).coreRuns 0 = false := by decide +kernel

def slot1 : CSlot := ⟨0xFFC, 0x2000, false, false⟩
def framed (res : Nat) : State := core fun k => k.setWin 2 res
theorem wit_Branch : Issues (two 7 0xFFFFFFFE) 0 (two 7 0xFFFFFFFE) ∧ ((two 7 0xFFFFFFFE).cc 0).slot = none ∧ ((two 7 0xFFFFFFFE).cc 0).pend = [] ∧
    core0 (exec (.ccCb 0 ⟨3, 2, 2, 0x1FFF⟩) (two 7 0xFFFFFFFE)) (fun k => k.slot == some ⟨0x1000, 0xFFC, false, false⟩ && k.pc == 0x1004) = true ∧
    core0 (exec (.ccCbi 0 ⟨2, 7, 1, 4⟩) (two 7 0)) (fun k => k.slot == some ⟨0x1000, 0x1008, false, false⟩) = true ∧
    core0 (exec (.ccAdd 0 ⟨4, 2, 2⟩) (core fun k => { k.put 2 7 with slot := some slot1 })) (fun k => k.pc == 0x2000 && k.slot == none) = true :=
  ⟨issues_of (by decide +kernel) rfl, by decide +kernel⟩
theorem wit_Call : Issues (framed 3) 0 (framed 3) ∧ (((framed 3).cc 0).slot = none ∧ ((framed 3).cc 0).wres ≠ 8 ∧ ((framed 3).cc 0).wres ≠ 1) ∧
    core0 (exec (.ccCall 0 0x100) (framed 3)) (fun k => k.get (frameReg 3 15) == 0x1008 && k.slot == some ⟨0x1000, 0x1400, true, false⟩) = true ∧
    core0 (exec (.ccRet 0) (framed 3)) (fun k => k.wbase == 1 && k.wres == 2) = true ∧
    core0 (exec (.ccWait 0) (framed 3)) (fun k => k.waiting && k.pc == 0x1004) = true :=
  ⟨issues_of (by decide +kernel) rfl, by decide +kernel⟩
theorem wit_Isync : let s := core fun k => { k with pend := [⟨.sys 3, 0x12345678, 3⟩] }
    s.ccStart 0 = (true, core fun k => { k with pend := [⟨.sys 3, 0x12345678, 2⟩] }) ∧
    ((core fun k => { k with pend := [⟨.sys 3, 0x12345678, 2⟩] }).cc 0).pend = [⟨.sys 3, 0x12345678, 2⟩] ∧
    core0 (exec (.ccIsync 0) s) (fun k => k.sr 3 &&& 0xFFFFFC00 == 0x12345400 && k.pend == []) = true :=
  ⟨rfl, by decide +kernel, by decide +kernel⟩

/-- EXL 0 or 1, and the rest of STATUS. -/
def status (exl : Nat) : State := core fun k => (k.setSf 1 30 30 exl).setSf 3 31 10 0x40
theorem wit_Trap : Issues (status 0) 0 (status 0) ∧ (((status 0).cc 0).pend = [] ∧ ((status 0).cc 0).exl = false ∧ ((status 0).cc 0).wexl = false ∧
    ((status 0).cc 0).slot = none) ∧
    core0 (exec (.ccTrap 0 ⟨0, 0, 0x1AB⟩) (status 0)) (fun k => k.pc == 0x10180 && k.sr 4 == 0x1000 && k.sf 5 23 16 == 0xAB && k.exl) = true ∧
    core0 (exec (.ccCb 0 ⟨0, 0, 6, 0⟩) (status 0)) (fun k => k.sf 5 3 0 == 5) = true :=
  ⟨issues_of (by decide +kernel) rfl, by decide +kernel⟩
theorem wit_Trap_slot : let s := core fun k => { k.setSf 1 30 30 0 with slot := some slot1 }
    Issues s 0 s ∧ (s.cc 0).slot = some slot1 ∧ slot1.ret = false ∧ (s.cc 0).exl = false ∧ (s.cc 0).wexl = false ∧
    core0 (exec (.ccJ 0 5) s) (fun k => k.sr 4 == 0xFFC && k.sf 5 30 30 == 1 && k.sf 5 3 0 == 5) = true :=
  ⟨issues_of (by decide +kernel) rfl, by decide +kernel⟩
theorem wit_DoubleFault : Issues (status 1) 0 (status 1) ∧ ((status 1).cc 0).exl = true ∧ ((status 1).cc 0).pend = [] ∧
    core0 (exec (.ccTrap 0 ⟨0, 0, 1⟩) (status 1)) (fun k => k.dead) = true := ⟨issues_of (by decide +kernel) rfl, by decide +kernel⟩
theorem wit_Eret : let s := core fun k => ((k.setSf 1 30 30 1).setSr 4 0x3000).setSf 5 26 24 5
    Issues s 0 s ∧ (s.cc 0).slot = none ∧ core0 (exec (.ccEret 0) s) (fun k => k.pc == 0x3000 && !k.exl && k.cpl == 5) = true :=
  ⟨issues_of (by decide +kernel) rfl, by decide +kernel⟩
theorem wit_WindowTraps : Issues (framed 8) 0 (framed 8) ∧ Issues (framed 1) 0 (framed 1) ∧ ((framed 8).cc 0).wres = 8 ∧
    ((framed 1).cc 0).wres = 1 ∧ ((framed 8).cc 0).wexl = false ∧ ((framed 1).cc 0).wexl = false ∧
    core0 (exec (.ccCall 0 0x100) (framed 8)) (fun k => k.wexl && k.sr 7 == 0x1000) = true ∧
    core0 (exec (.ccRet 0) (framed 1)) (fun k => k.wexl && k.sf 5 3 0 == 0) = true :=
  ⟨issues_of (by decide +kernel) rfl, issues_of (by decide +kernel) rfl, by decide +kernel⟩
/-- Line 36, the pins of GPIO, is pending with priority 3. -/
def interrupted : State := (put on [(F.GPIO_EVT_EVT, 4), (F.GPIO_IE_IE, 4)]).modCc 0 fun k => (((({ k with pc := 0x1000, parked := false }.setSf 1 30 30 0).setSf 1 31 31 1).setSr 0x11
  0x10).setSf 0x1C 18 16 3)
theorem wit_Irq : (interrupted.bestLine 0 = some 36 ∧ interrupted.coreRuns 0 = true ∧
    (interrupted.cc 0).pend = [] ∧ (interrupted.cc 0).slot = none ∧ (interrupted.cc 0).ie = true ∧ (interrupted.cc 0).exl = false ∧
    (interrupted.cc 0).wexl = false) ∧ (on.cc 0).ie = false ∧
    core0 (exec (.irqEntry 0) interrupted) (fun k => k.sr 0xA == 36 && k.cpl == 3 && !k.ie && k.sr 4 == 0x1000) = true := by decide +kernel

theorem wit_Mfs : Issues (two 7 0) 0 (two 7 0) ∧ sysRow 0x41 = none ∧ (sysRow 3).isSome = true ∧
    ((two 7 0).rd 0 2).toNat &&& (0xFFFFFFFF - 0xFFFFFC00) ≠ 0 ∧ ((two 0x400 0).rd 0 2).toNat &&& (0xFFFFFFFF - 0xFFFFFC00) = 0 ∧
    core0 (exec (.ccMts 0 ⟨0, 2, 3⟩) (two 0x400 0)) (fun k => k.pend == [⟨.sys 3, 0x400, 3⟩]) = true ∧
    (exec (.ccMts 0 ⟨0, 2, 3⟩) (two 7 0) matches .fault (.reservedBitWritten 3)) = true ∧
    core0 (exec (.ccMfs 0 ⟨4, 0, 0x41⟩) (status 0)) (fun k => k.sf 5 3 0 == 5) = true :=
  ⟨issues_of (by decide +kernel) rfl, by decide +kernel⟩
theorem wit_EcccntRead : let s := { two 7 0 with eccCnt := 0x50003 }
    Issues s 0 s ∧ after (exec (.ecccntRead 0 4 2 1) s) (fun t => (t.cc 0).get 4 == 0x50003 && t.eccCnt == 0x10002) = true :=
  ⟨issues_of (by decide +kernel) rfl, by decide +kernel⟩
theorem wit_Wdkick : after (exec (.wdkickWrite 0 0x5A3C) { on with now := 9 }) (fun t => (t.cc 0).kickAt == 9) = true ∧
    after (exec (.wdkickWrite 0 0x5A3D) { on with now := 9 }) (fun t => (t.cc 0).kickAt == 0) = true ∧
    (exec (.wdkickWrite 0 0x10000) on matches .fault (.reservedBitWritten 0x21)) = true ∧
    ((wd 0).cc 0).sf 0x20 31 31 = 1 ∧ core0 (exec (.watchdogWarn 0) (wd 0)) (fun k => k.sf 0x20 30 30 == 1) = true ∧
    core0 (exec (.mpuRegionLock 0 15) on) (fun k => k.mpuLocked 15) = true := by decide +kernel

theorem no_block {s : State} (h : (s.reg R.MBX_BASE).toNat < sramBase) (n : Nat) : s.mbxBlock n = none := by
  simp only [State.mbxBlock]
  rw [if_neg fun x => Nat.not_le.2 h x.1]
/-- Control SRAM holds four bytes at 0x40; register 2 points there. -/
def mem (g : CtlCore → CtlCore) : State := { (core fun k => g ((k.put 2 0x18000040).put 3 0xDDCCBBAA)) with sram := [(0x40, 0x80), (0x41, 1), (0x42, 2), (0x43, 3)] }
theorem plain_mem (a w : Nat) (h : 0x18000000 ≤ a ∧ a + w ≤ 0x183FF000 ∧ a % w = 0) : PlainMem (mem id) 0 a w where
  on := by decide +kernel
  mpu := by decide +kernel
  place := h
  sound := ⟨by simp only [show (mem id).sramBad = [] by decide +kernel]; exact List.not_mem_nil,
    by simp only [show (mem id).sramSoft = [] by decide +kernel]; exact List.not_mem_nil⟩
  ring := fun n _ _ => no_block (by decide +kernel) n
theorem wit_Load : Issues (mem id) 0 (mem id) ∧ PlainMem (mem id) 0 0x18000040 1 ∧
    core0 (exec (.ccLd 0 ⟨4, 2, 0, 0, 0⟩) (mem id)) (fun k => k.pend == [⟨.reg 4, 0xFFFFFF80, 2⟩]) = true ∧
    core0 (exec (.ccLdu 0 ⟨4, 2, 1, 1, 2⟩) (mem id)) (fun k => k.pend == [⟨.reg 4, 0x180, 2⟩] && k.get 2 == 0x18000042) = true ∧
    core0 (exec (.ccLd 0 ⟨4, 2, 0, 2, 0⟩) (mem id)) (fun k => k.pend == [⟨.reg 4, 0x03020180, 2⟩]) = true ∧
    core0 (exec (.ccLd 0 ⟨4, 2, 0, 3, 0⟩) (mem fun k => k.setSf 1 30 30 0)) (fun k => k.sf 5 3 0 == 5) = true :=
  ⟨issues_of (by decide +kernel) rfl, plain_mem _ _ (by decide), by decide +kernel⟩
theorem wit_Store : PlainMem (mem id) 0 0x1800003C 4 ∧
    after (exec (.ccSt 0 ⟨3, 2, 2, 2, 4⟩) (mem id)) (fun t => (List.range 4).map (memGet t.sram <| 0x3C + ·) == [0xAA, 0xBB, 0xCC, 0xDD] &&
      memGet t.sram 0x40 == 0x80 && (t.cc 0).get 2 == 0x1800003C) = true := ⟨plain_mem _ _ (by decide), by decide +kernel⟩
theorem wit_Reserved : let s := mem fun k => k.setSf 1 30 30 0
    Issues s 0 s ∧ (s.cc 0).exl = false ∧ (s.cc 0).wexl = false ∧ (s.cc 0).slot = none ∧ (s.cc 0).pend = [] :=
  ⟨issues_of (by decide +kernel) (by decide +kernel), by decide +kernel⟩
theorem wit_Windows : let s (n : Nat) := mem fun k => (k.setWin 2 n).put (frameReg (2 + 9 - n) 0) 0x01020304
    Issues (s 3) 0 (s 3) ∧ ((s 3).cc 0).wres ≠ 1 ∧ ((s 3).cc 0).wres ≠ 8 ∧ ((s 1).cc 0).wres = 1 ∧ ((s 8).cc 0).wres = 8 ∧
    after (exec (.ccWspill 0 2) (s 3)) (fun t => (List.range 4).map (memGet t.sram <| 0x40 + ·) == [4, 3, 2, 1] && (t.cc 0).wres == 2) = true ∧
    core0 (exec (.ccWfill 0 2) (s 3)) (fun k => k.wres == 4 && k.pend.length == 16) = true :=
  ⟨issues_of (by decide +kernel) (by decide +kernel), by decide +kernel⟩
theorem wit_Windows_plain (x : Nat) (h : x < 16) : PlainMem (mem id) 0 (0x18000040 + 4 * x) 4 := plain_mem _ _ (by omega)
/-- The string registers: to 0x18000080 and from 0x18000040, two elements, the element 1. -/
def strings : State := mem fun k => (((k.put 12 0x18000080).put 13 0x18000040).put 14 2).put 15 1
theorem wit_Strings : Issues strings 0 strings ∧ (strings.cc 0).pend = [] ∧ ((strings.cc 0).get 14).toNat = 2 ∧
    0x18000080 + 2 ≤ 0x183FF000 ∧
    after (exec (.ccSfill 0 0 none) strings) (fun t => memGet t.sram 0x81 == 1 && memGet t.sram 0x82 == 0 && (t.cc 0).get 12 == 0x18000082) = true ∧
    after (exec (.ccSmov 0 0 none) strings) (fun t => memGet t.sram 0x80 == 0x80 && memGet t.sram 0x81 == 1) = true ∧
    core0 (exec (.ccSfind 0 0 none) strings) (fun k => k.get 13 == 0x18000041 && k.get 14 == 1) = true ∧
    core0 (exec (.ccScmp 0 0 none) strings) (fun k => k.get 15 == 0xFFFFFFFF) = true :=
  ⟨issues_of (by decide +kernel) (by decide +kernel), by decide +kernel⟩

/-- The data cache holds a dirty line; register 2 points into it. -/
def dline : CLine := ⟨0x10000040, List.replicate 64 9, true⟩
def cached (at_ : Word) : State := core fun k => { k.put 2 at_ with dcache := [dline], icache := [⟨0x60000040, [], false⟩] }
theorem wit_Caches : Issues (cached 0x1000007F) 0 (cached 0x1000007F) ∧ (cached 0x1000007F).on 21 = true ∧ MpuOpen ((cached 0x1000007F).cc 0) ∧
    (((cached 0x1000007F).cc 0).dcache = [dline] ∧ dline.dirty = true ∧ dline.bytes.length = 64 ∧ dline.base % 64 = 0 ∧
      (cached 0x1000007F).sramBad = [] ∧ (cached 0x1000007F).sramSoft = []) ∧
    after (exec (.ccDclean 0 ⟨0, 2, 0, 0, 0⟩) (cached 0x1000007F)) (fun t => memGet t.sram 0x7F == 9 && (t.cc 0).dcache.map (·.dirty) == [false]) = true ∧
    after (exec (.ccDinval 0 ⟨0, 2, 0, 0, 0⟩) (cached 0x1000007F)) (fun t => t.sram == [] && (t.cc 0).dcache == []) = true ∧
    after (exec (.ccDflush 0 ⟨0, 2, 0, 0, 0⟩) (cached 0x10000080)) (fun t => t.sram == [] && (t.cc 0).dcache == [dline]) = true ∧
    core0 (exec (.ccIinval 0 ⟨0, 2, 0, 0, 0⟩) (cached 0x6000007F)) (fun k => k.icache == [] && k.dcache == [dline]) = true ∧
    (∀ n, (cached 0).mbxBlock n = none) :=
  ⟨issues_of (by decide +kernel) rfl, by decide +kernel, by decide +kernel, by decide +kernel, by decide +kernel, by decide +kernel,
    by decide +kernel, by decide +kernel, no_block (by decide +kernel)⟩

/-! ## DMA -/

/-- DMA is on; channel 5 points to the descriptor at 0x18000100: 8 bytes from 0x18000200 to 0x18000300, DONE at its end. -/
def dmaWords : List Word := [0x18000200, 0x18000300, 8, 0x80008000, 0, 0, 0, 0]
def dma5 (words : List Word) : State := { put on [(F.DMA_CTRL_EN, 1), (⟨R.CH_DESC 5, 31, 0⟩, 0x18000100)] with
  sram := placed (words.flatMap fun w => leBytes 4 w.toNat) 0x100 0 ++ placed [1, 2, 3, 4, 5, 6, 7, 8] 0x200 0 }
theorem wit_DmaGo : ((dma5 dmaWords).on 21 = true ∧ (∀ n, (dma5 dmaWords).mbxBlock n = none) ∧ (dma5 dmaWords).sramBad = [] ∧
    (dma5 dmaWords).sramSoft = []) ∧ ((dma5 dmaWords).b F.DMA_CTRL_EN = true ∧ (dma5 dmaWords).b F.DMA_STAT_HALTED = false ∧
    (dma5 dmaWords).fbit F.DMA_STAT_ACTIVE 5 = false) ∧ on.b F.DMA_CTRL_EN = false ∧ dBad 0x18000100 dmaWords = false ∧
    after (exec (.dmaGo 5) (dma5 dmaWords)) (fun t => t.dmaCh 5 == ⟨some dmaWords, 0⟩ && t.f (F.CH_REM_BYTES 5) == 8) = true ∧
    after (exec (.dmaGo 5) (dma5 [0x18000200, 0x18000300, 0])) (fun t => t.b F.DMA_STAT_HALTED && t.f F.DMA_ERR_KIND == 5 &&
      t.f F.DMA_ERR_CH == 5) = true :=
  ⟨⟨by decide +kernel, no_block (by decide +kernel), by decide +kernel, by decide +kernel⟩, by decide +kernel, by decide +kernel, by decide +kernel,
    by decide +kernel, by decide +kernel⟩
def bursting : State := (put (dma5 dmaWords) [(F.DMA_STAT_ACTIVE, 32), (⟨R.CH_CUR 5, 31, 0⟩, 0x18000100)]).modDma 5
  fun x => { x with desc := some dmaWords }
theorem wit_DmaBurst : (bursting.fbit F.DMA_STAT_ACTIVE 5 = true ∧ (∀ j, j < 16 → j ≠ 5 → bursting.fbit F.DMA_STAT_ACTIVE j = false) ∧
    bursting.dmaCh 5 = ⟨some dmaWords, 0⟩ ∧ dBit dmaWords 26 = false ∧ dBit dmaWords 27 = false ∧ dBit dmaWords 28 = false ∧
    dMode dmaWords = 0 ∧ dW dmaWords 4 = 0 ∧ 8 ≤ 4 * dBeats dmaWords ∧ (bursting.reg (R.CH_CUR 5)).toNat + 28 = 0x1800011C) ∧
    after (exec .dmaBurst bursting) (fun t => (List.range 8).map (memGet t.sram <| 0x300 + ·) == [1, 2, 3, 4, 5, 6, 7, 8] &&
      t.fbit F.DMA_DONE_DONE 5 && (List.range 4).map (memGet t.sram <| 0x11C + ·) == [8, 0, 0, 0x80]) = true := by decide +kernel
theorem wit_DmaStop : after (exec (.dmaStop 5) bursting) (fun t => !t.fbit F.DMA_STAT_ACTIVE 5 && t.dmaCh 5 == ⟨none, 0⟩) = true ∧
    (put on [(F.DMA_STAT_HALTED, 1)]).b F.DMA_STAT_HALTED = true ∧
    after (exec .dmaClrhalt (put on [(F.DMA_STAT_HALTED, 1), (F.DMA_ERR_KIND, 5)])) (fun t => !t.b F.DMA_STAT_HALTED && t.reg R.DMA_ERR == 0)
      = true ∧ after (exec (.dmaSwreqWrite 0x8001) on) (fun t => t.f F.DMA_SWREQ_REQ == 0x8001) = true := by decide +kernel

/-! ## Ill-formed commands, and commands that stop -/

theorem wf_access : (Instr.busAccess ⟨.cc0, false, 3, 0, 0, .clean⟩ []).wf = false ∧
    (Instr.busAccess ⟨.cc0, true, 1, 0, 0x100, .clean⟩ []).wf = false ∧
    (Instr.busAccess ⟨.cc0, false, 4, 0, 0, .clean⟩ [⟨.dma, true, 2, 0, 0x10000, .clean⟩]).wf = false ∧
    (Instr.busAccess ⟨.cc0, true, 1, 0, 0xFF, .clean⟩ [⟨.dma, false, 2, 0, 0x10000, .clean⟩]).wf = true := by decide
theorem wf_windows : (Instr.engineWindowWrite .se 0 0 4 0).wf = false ∧ (Instr.engineWindowWrite .cc1 0 0 8 0).wf = false ∧
    (Instr.engineWindowRead .se 0 0 0).wf = false ∧ (Instr.ldsHostAccess 0 true 5 0 0).wf = false ∧
    (Instr.xipRead .cc0 0 3).wf = false ∧ (Instr.engineWindowWrite .dma 16 0 2 0).wf = true := by decide
theorem wf_tick : (Instr.sampleTick 0 ⟨now, [⟨8, 0, []⟩], [], []⟩).wf = false ∧ (Instr.sampleTick 0 ⟨now, [⟨7, 2, []⟩], [], []⟩).wf = false ∧
    (Instr.sampleTick 0 ⟨now, [], [⟨0, 0, 769⟩], []⟩).wf = false ∧ (Instr.sampleTick 0 ⟨now, [], [⟨4, 0, 0⟩], []⟩).wf = false ∧
    (Instr.sampleTick 0 ⟨now, [], [⟨0, 2, 0⟩], []⟩).wf = false ∧ (Instr.sampleTick 0 ⟨now, [], [], [(17, 0)]⟩).wf = false ∧
    (Instr.sampleTick 0 ⟨now, [⟨7, 1, []⟩], [⟨3, 1, 768⟩], [(16, 0)]⟩).wf = true := by decide
theorem wf_serial : (Instr.hspMsg { hspIn 0 [] with outCut := 32 }).wf = false ∧ (Instr.hspRead { hspIn 0 [1] with cutCmd := true }).wf = false ∧
    (Instr.hspStatus 3 { hspIn 0 [] with outCut := 31 }).wf = true ∧ (Instr.slaveFrame 0 { slaveIn 64 with period := 0 }).wf = false ∧
    (Instr.i2cTransferEnd ⟨0, 1, [], false, false⟩).wf = false ∧ (Instr.i2cTransferEnd ⟨0, 0, [1], false, false⟩).wf = false ∧
    (Instr.i2cClear 10).wf = false ∧ (Instr.xmpTransfer 0 ⟨[], some 0, some (0, 1)⟩).wf = false := by decide
theorem wf_starts : (Instr.deviceReset { start with badRecords := [8] }).wf = false ∧ (Instr.watchdogExpiry { start with badRecords := [8] }).wf = false ∧
    (Instr.watchdogExpiry { start with badRecords := [7] }).wf = true ∧ (Instr.rstN 0 false).wf = false ∧ (Instr.rstN 1 false).wf = true := by decide
theorem wf_power : (Instr.windowEnd now [] 5).wf = false ∧ (Instr.tsuSample now []).wf = false ∧ (Instr.ageMeasureDone []).wf = false ∧
    (Instr.powerStateEntry (some (16, 1))).wf = false ∧ (Instr.powerStateEntry (some (0, 6))).wf = false ∧
    (Instr.powerStateEntry (some (0, 0))).wf = false ∧ (Instr.powerStateEntry (some (15, 5))).wf = true ∧
    (Instr.linkUp true 0 false 0 0 0).wf = false ∧ (Instr.linkUp true 0 false 6 0 0).wf = false ∧ (Instr.linkUp true 0 false 5 0 0).wf = true := by
  decide

/-- A write that names no reserved bit, and one that does: bit 30 of HSP_RSPLEN is reserved (R372). -/
theorem wit_Complete : regWritten (.hspRsplenWrite 1 9) = some (R.HSP_RSPLEN 1, 9) ∧
    (∀ r, regRow (R.HSP_RSPLEN 1) = some r → (9 : Word).toNat &&& r.reserved = 0) ∧
    regWritten (.arm) = none ∧ mayStore .arm = false ∧
    (exec (.hspRsplenWrite 1 0x40000000) on matches .fault (.reservedBitWritten _)) = true := by
  refine ⟨by decide, ?_, by decide, by decide, by decide +kernel⟩
  intro r h
  have : r = row (R.HSP_RSPLEN 1) := by simp [row, h]
  subst this
  decide +kernel
theorem wit_CanonicalForm : RegsWf State.reset ∧ Memory.wf State.reset.sram = true ∧ (∃ t, step State.reset = .next t) := by
  exact ⟨by decide, by decide, _, rfl⟩
/-- A step takes the command at the front of the queue. -/
theorem test_step : after (step { on with pending := [.gpioSet 3, .gpioClr 1] }) (fun t => t.f F.GPIO_OUT_OUT == 3 && t.pending == [.gpioClr 1])
    = true := by decide +kernel
theorem test_decode : after (step (State.reset.withFetchWord 32 0)) (fun t => t.pending == []) = true := by decide +kernel


end Sys2Proof.Tests
end

section
namespace Sys2Proof.Machine

/-! ## The canonical form -/

/-- Registers and control SRAM are in their canonical form (log 4). -/
def Canon (s : State) : Prop := RegsWf s ∧ Memory.wf s.sram = true

/-- Every field but the registers and control SRAM may change. -/
theorem Canon.frame {s : State} (h : Canon s)
    {pending' latch' resp' resps' freeCtr' now' s0' sramBad' sramSoft' lds' ldsBad' ldsSoft' engs' les' doms'
      slotWr' stg' scu' lehr' pmu' params' log' mbx' tu' acs' mclk' sysLoop' uarts' psc' i2c' hsp' asps' pdms'
      iecRx' iecTx' srcs' net' fw' flash' journal' sec' rom' ccs' eccAddr' eccCnt' dma' dmaLast' dmaTurn' irqs'
      fuse'} :
    Canon { s with
      pending := pending', latch := latch', resp := resp', resps := resps', freeCtr := freeCtr', now := now',
      s0 := s0', sramBad := sramBad', sramSoft := sramSoft', lds := lds', ldsBad := ldsBad', ldsSoft :=
      ldsSoft', engs := engs', les := les', doms := doms', slotWr := slotWr', stg := stg', scu := scu', lehr
      := lehr', pmu := pmu', params := params', log := log', mbx := mbx', tu := tu', acs := acs', mclk :=
      mclk', sysLoop := sysLoop', uarts := uarts', psc := psc', i2c := i2c', hsp := hsp', asps := asps', pdms
      := pdms', iecRx := iecRx', iecTx := iecTx', srcs := srcs', net := net', fw := fw', flash := flash',
      journal := journal', sec := sec', rom := rom', ccs := ccs', eccAddr := eccAddr', eccCnt := eccCnt', dma
      := dma', dmaLast := dmaLast', dmaTurn := dmaTurn', irqs := irqs', fuse := fuse' } := h

theorem Canon.ite {c : Prop} [Decidable c] {s t : State} (hs : Canon s) (ht : Canon t) : Canon (if c then s else t) := by
  split
  · exact hs
  · exact ht

theorem Canon.ite_snd {α : Type} {c : Prop} [Decidable c] {p q : α × State} (hp : Canon p.2) (hq : Canon q.2) :
    Canon (if c then p else q).2 := by
  split
  · exact hp
  · exact hq

theorem Canon.of_snd {α : Type} {p : α × State} {a : α} {t : State} (e : p = (a, t)) (h : Canon p.2) : Canon t := by
  rwa [e] at h

theorem Canon.dite {c : Prop} [Decidable c] {s : c → State} {t : ¬ c → State} (hs : ∀ h, Canon (s h))
    (ht : ∀ h, Canon (t h)) : Canon (if h : c then s h else t h) := by
  split
  · exact hs _
  · exact ht _

theorem Canon.optionElim {α : Type} {o : Option α} {f : α → State → State} {s : State} (h : Canon s)
    (hf : ∀ x t, Canon t → Canon (f x t)) : Canon (o.elim id f s) := by
  cases o with
  | none => exact h
  | some x => exact hf x s h

theorem Canon.foldl {α : Type} {l : List α} {g : State → α → State} {s : State} (hs : Canon s)
    (hg : ∀ t x, Canon t → Canon (g t x)) : Canon (l.foldl g s) := by
  induction l generalizing s with
  | nil => exact hs
  | cons x l ih => exact ih (hg s x hs)

theorem Canon.foldl_snd {α β : Type} {l : List α} {g : β × State → α → β × State} {p : β × State} (hp : Canon p.2)
    (hg : ∀ q x, Canon q.2 → Canon (g q x).2) : Canon (l.foldl g p).2 := by
  induction l generalizing p with
  | nil => exact hp
  | cons x l ih => exact ih (hg p x hp)

theorem Canon.forEach {l : List Nat} {g : State → Nat → State} {s : State} (hs : Canon s)
    (hg : ∀ t x, Canon t → Canon (g t x)) : Canon (s.forEach l g) := .foldl hs hg

theorem smapWf_filter {α : Type} [DecidableEq α] {dflt : Nat → α} {m : List (Nat × α)} {p : Nat × α → Bool}
    (h : smapWf dflt m = true) : smapWf dflt (m.filter p) = true := by
  rw [smapWf_pairwise] at h ⊢
  exact ⟨fun q hq => h.1 q (List.mem_filter.1 hq).1, h.2.filter p⟩

theorem Canon.setReg {s : State} {a v} (h : Canon s) : Canon (s.setReg a v) :=
  ⟨smapSet_keeps_wf regReset a v h.1, h.2⟩

theorem Canon.resetBlock {s : State} {b n} (h : Canon s) : Canon (s.resetBlock b n) := ⟨smapWf_filter h.1, h.2⟩

theorem Canon.sramSet {s : State} {off bs} (h : Canon s) : Canon (s.sramSet off bs) :=
  ⟨h.1, sramSet_keeps_wf off bs h.2⟩

/-! ## Outcomes -/

/-- What a command does to the canonical form of its state. -/
def Keeps (s t : State) : Prop := Canon s → Canon t

/-- An outcome is a value of which P holds, or a fault of F; never a refusal. -/
def Ends {α : Type} (F : Fault → Prop) (P : α → Prop) : Res α → Prop
  | .next a => P a
  | .fault x => F x
  | .refused _ => False

/-- Every write of 1 to a reserved bit is among the faults. -/
abbrev Stops (F : Fault → Prop) : Prop := ∀ a, F (.reservedBitWritten a)

/-- A write of this word to a register is among the faults when it names a reserved bit. -/
abbrev ReservedStops (F : Fault → Prop) (a : Nat) (d : Word) : Prop :=
  ∀ r, regRow a = some r → d.toNat &&& r.reserved ≠ 0 → F (.reservedBitWritten a)

theorem Ends.next {F} {s t : State} (h : Canon s → Canon t) : Ends F (Keeps s) (.next t) := h

theorem Ends.nextSnd {F} {s : State} {α : Type} {q : α × State} (h : Canon s → Canon q.2) :
    Ends F (fun q => Keeps s q.2) (.next q) := h

theorem Ends.ite {α : Type} {F} {P : α → Prop} {c : Prop} [Decidable c] {x y : Res α} (hx : Ends F P x) (hy : Ends F P y) :
    Ends F P (if c then x else y) := by
  split
  · exact hx
  · exact hy

theorem Ends.imp {α : Type} {F} {P Q : α → Prop} {r : Res α} (h : ∀ a, P a → Q a) (hr : Ends F P r) : Ends F Q r := by
  cases r with
  | next a => exact h a hr
  | fault x => exact hr
  | refused x => exact hr

theorem Ends.mono {F} {s t : State} {r : Res State} (hr : Ends F (Keeps t) r) (h : Canon s → Canon t) : Ends F (Keeps s) r :=
  .imp (fun _ hk hs => hk (h hs)) hr

theorem Ends.keeps {F} {s t : State} {r : Res State} (hr : Ends F (Keeps s) r) (e : r = .next t) (h : Canon s) : Canon t := by
  subst e
  exact hr h

/-- The state that one element of a string instruction leaves. -/
def StrStep.state : StrStep → State
  | .trap _ s => s
  | .stop s => s
  | .more s => s

theorem Ends.nextStep {F} {s : State} {x : StrStep} (h : Canon s → Canon x.state) :
    Ends F (fun x => Keeps s x.state) (.next x) := h

/-- What an answer of BCP does keeps the canonical form. -/
def Answer.Keeps (x : Answer) : Prop := ∀ t, Canon t → Canon (x.act t)

theorem Answer.Keeps.mk {n items act} (h : ∀ t, Canon t → Canon (act t)) : (Answer.mk n items act).Keeps := h
theorem Answer.Keeps.answer {items act} (h : ∀ t, Canon t → Canon (act t)) : (answer items act).Keeps := h
theorem Answer.Keeps.refuse {n} : (refuse n).Keeps := fun _ h => h
theorem Answer.Keeps.refuseAt {n x} : (refuseAt n x).Keeps := fun _ h => h

theorem Answer.Keeps.ite {c : Prop} [Decidable c] {x y : Answer} (hx : x.Keeps) (hy : y.Keeps) :
    (if c then x else y).Keeps := by
  split
  · exact hx
  · exact hy

/-- An item at fault has an answer that keeps the canonical form. -/
def Except.Safe {α : Type} (r : Except Answer α) : Prop := ∀ x, r = .error x → x.Keeps

theorem Except.Safe.error {α : Type} {x : Answer} (h : x.Keeps) : Except.Safe (.error x : Except Answer α) :=
  fun _ e => by cases e; exact h

theorem Except.Safe.ok {α : Type} {v : α} : Except.Safe (.ok v : Except Answer α) := nofun

/-! ## The operations of the model -/

/-! ### Ops -/

theorem Canon.setF {s : State} {x v} (h : Canon s) : Canon (s.setF x v) := .setReg h
theorem Canon.flag {s : State} {x} (h : Canon s) : Canon (s.flag x) := .setF h
theorem Canon.sat {s : State} {x n} (h : Canon s) : Canon (s.sat x n) := .setF h
theorem Canon.wrap {s : State} {x n} (h : Canon s) : Canon (s.wrap x n) := .setF h
theorem Canon.setFbit {s : State} {x i v} (h : Canon s) : Canon (s.setFbit x i v) := .setF h
theorem Canon.setF2 {s : State} {lo hi v} (h : Canon s) : Canon (s.setF2 lo hi v) := .setF (.setF h)

theorem Ends.writeTo {F} {s t : State} {a d} (hF : ReservedStops F a d) (ht : Canon s → Canon t) :
    Ends F (Keeps s) (writeTo a d t) := by
  unfold Machine.writeTo
  split
  · split
    · exact hF _ ‹_› ‹_›
    · exact ht
  · exact ht

theorem Canon.irqEvent {s : State} {line} (h : Canon s) : Canon (s.irqEvent line) := .frame h

theorem Canon.meet {s : State} {a bits} (h : Canon s) : Canon (s.meet a bits) := by
  unfold State.meet
  split
  · exact .setReg h
  · exact h

theorem Canon.setLatch {s : State} {a v} (h : Canon s) : Canon (s.setLatch a v) := .frame h
theorem Canon.latchReg {s : State} {a} (h : Canon s) : Canon (s.latchReg a) := .setLatch h

theorem Canon.takeLatch {s : State} {a cur} (h : Canon s) : Canon (s.takeLatch a cur).2 := by
  unfold State.takeLatch
  split
  · exact .frame h
  · exact h

theorem Canon.ret {s : State} {v} (h : Canon s) : Canon (s.ret v) := .frame h
theorem Canon.busErr {s : State} (h : Canon s) : Canon s.busErr := .frame h

theorem Canon.sramFill {s : State} {addr bs} (h : Canon s) : Canon (s.sramFill addr bs) := by
  unfold State.sramFill
  split
  · exact .frame (.sramSet h)
  · exact h

theorem Canon.modEng {s : State} {e g} (h : Canon s) : Canon (s.modEng e g) := .frame h
theorem Canon.modLe {s : State} {l g} (h : Canon s) : Canon (s.modLe l g) := .frame h
theorem Canon.modDom {s : State} {d g} (h : Canon s) : Canon (s.modDom d g) := .frame h
theorem Canon.modMb {s : State} {m g} (h : Canon s) : Canon (s.modMb m g) := .frame h
theorem Canon.free {s : State} (h : Canon s) : Canon s.free.2 := .frame h
theorem Canon.setOn {s : State} {pd v} (h : Canon s) : Canon (s.setOn pd v) := .setFbit h

theorem Canon.tpEnd {s : State} {k done} (h : Canon s) : Canon (s.tpEnd k done) :=
  .ite (.flag (.setF (.frame h))) (.setF (.frame h))

theorem Canon.tpSkip {s : State} {k} (h : Canon s) : Canon (s.tpSkip k) := .ite h (.ite (.tpEnd h) (.frame h))

theorem Canon.tuTick {s : State} (h : Canon s) : Canon s.tuTick :=
  .ite (.tpSkip (.tpSkip (.ite (.flag (.ite (.flag (.flag (.frame h))) (.frame h))) (.ite (.flag (.flag (.frame h)))
  (.frame h))))) (.ite (.flag (.ite (.flag (.flag (.frame h))) (.frame h))) (.ite (.flag (.flag (.frame h))) (.frame
  h)))

theorem Canon.tuTicks {s : State} {n} (h : Canon s) : Canon (s.tuTicks n) := .ite h (.frame (.tuTick h))

theorem Canon.tuSource {s : State} {slow} (h : Canon s) : Canon (s.tuSource slow) :=
  .ite (.frame (.flag (.setF h))) (.tpSkip (.tpSkip (.flag (.setF h))))

theorem Canon.acsDet {s : State} {i n} (h : Canon s) : Canon (s.acsDet i n) := .ite h (.frame h)
theorem Canon.sysDet {s : State} {n} (h : Canon s) : Canon (s.sysDet n) := .ite h (.frame h)

theorem Canon.mclkCycles {s : State} {n0 n1} (h : Canon s) : Canon (s.mclkCycles n0 n1) :=
  .ite h (.forEach h (fun _ _ h1 => .frame h1))

theorem Canon.advance {s : State} {el} (h : Canon s) : Canon (s.advance el) :=
  .tuTicks (.mclkCycles (.acsDet (.acsDet (.sysDet (.wrap (.frame h))))))

/-! ### Mailbox -/

theorem Canon.rspBell {s : State} {m} (h : Canon s) : Canon (s.rspBell m) := .ite (.frame h) (.setFbit h)
theorem Canon.cc1Wakes {s : State} (h : Canon s) : Canon s.cc1Wakes := .ite (.rspBell (.setFbit h)) h
theorem Canon.appStart {s : State} (h : Canon s) : Canon s.appStart := .ite (.rspBell h) h

theorem Canon.ringWrite {s : State} {base n i buf f} (h : Canon s) : Canon (s.ringWrite base n i buf f) :=
  .ite h (.sramFill (.sramFill h))

theorem Canon.putRsp {s : State} {m f} (h : Canon s) : Canon (s.putRsp m f) := .rspBell (.modMb (.ringWrite h))

theorem Canon.pushRsp {s : State} {m bytes flags} (h : Canon s) : Canon (s.pushRsp m bytes flags) :=
  .ite (.putRsp h) (.modMb h)

theorem Canon.rspTaken {s : State} {m n} (h : Canon s) : Canon (s.rspTaken m n) :=
  .foldl (.modMb (.modMb h)) (fun _ _ h1 => .putRsp h1)

theorem Canon.pushReqTag {s : State} {m bytes tag flags} (h : Canon s) : Canon (s.pushReqTag m bytes tag flags) :=
  .ite (.setFbit (.modMb (.ringWrite h))) (.pushRsp h)

theorem Canon.pushReq {s : State} {m bytes flags} (h : Canon s) : Canon (s.pushReq m bytes flags) := .pushReqTag h

theorem Canon.eventTo {s : State} {code evt m} (h : Canon s) : Canon (s.eventTo code evt m) :=
  .ite (.ite (.pushRsp (.modMb h)) (.modMb h)) h

theorem Canon.raiseAt {s : State} {code ns data} (h : Canon s) : Canon (s.raiseAt code ns data) :=
  .forEach h (fun _ _ h1 => .eventTo h1)

theorem Canon.raise {s : State} {code data} (h : Canon s) : Canon (s.raise code data) := .raiseAt h

/-! ### Sram -/

theorem Canon.eccSeen {s : State} {off e} (h : Canon s) : Canon (s.eccSeen off e) := by
  unfold State.eccSeen
  dsimp only
  split
  · exact h
  · exact .frame (.frame h)
  · exact .raise (.frame (.frame h))

theorem Canon.eccHeal {s : State} {off} (h : Canon s) : Canon (s.eccHeal off) := .frame h

theorem Canon.eccRun {s : State} {off n} (h : Canon s) : Canon (s.eccRun off n) :=
  .ite h (.forEach h (fun _ _ h1 => .eccSeen h1))

theorem Canon.sramLoad {s : State} {addr n} (h : Canon s) : Canon (s.sramLoad addr n).2 := by
  unfold State.sramLoad
  split
  · exact .ite_snd (.eccRun h) (.free (.eccRun h))
  · exact .free h

theorem Canon.sramStore {s : State} {addr bs} (h : Canon s) : Canon (s.sramStore addr bs) := by
  unfold State.sramStore
  split
  · exact .ite (.sramFill h) (.sramFill (.forEach h (fun _ _ h1 => .eccSeen h1)))
  · exact h

/-! ### Rates -/

theorem Canon.setMode {s : State} {e m} (h : Canon s) : Canon (s.setMode e m) := .setF h
theorem Canon.setEngN {s : State} {e n} (h : Canon s) : Canon (s.setEngN e n) := .setF2 h
theorem Canon.enterService {s : State} {e mode} (h : Canon s) : Canon (s.enterService e mode) := .setF (.setMode h)

/-! ### LogicalEngines -/

theorem Canon.toWindows {s : State} {k v} (h : Canon s) : Canon (s.toWindows k v) :=
  .forEach h (fun _ _ h1 => .modEng h1)

theorem Canon.slotPut {s : State} {k v} (h : Canon s) : Canon (s.slotPut k v) := .toWindows (.frame h)

theorem Canon.writeFrom {s : State} {kind id index v} (h : Canon s) : Canon (s.writeFrom kind id index v) := by
  unfold State.writeFrom
  split
  · exact .slotPut h
  · exact h

theorem Canon.loadMeters {s : State} {e l} (h : Canon s) : Canon (s.loadMeters e l) := .modEng h
theorem Canon.loadBanks {s : State} {e l} (h : Canon s) : Canon (s.loadBanks e l) := .modEng h

theorem Canon.loadFields {s : State} {e l} (h : Canon s) : Canon (s.loadFields e l) :=
  .modEng (.setF (.setF (.setF (.setF (.forEach (.forEach (.forEach h (fun _ _ h1 => .setF h1)) (fun _ _ h1 => .setF
  h1)) (fun _ _ h1 => .setReg h1))))))

theorem Canon.loadTier {s : State} {e l} (h : Canon s) : Canon (s.loadTier e l) :=
  .modEng (.setF (.setF (.setF (.setF (.setF (.setF h))))))

theorem Canon.loadState {s : State} {e l} (h : Canon s) : Canon (s.loadState e l) := .loadMeters (.modEng h)

theorem Canon.loadAll {s : State} {e l} (h : Canon s) : Canon (s.loadAll e l) :=
  .setF (.loadState (.loadTier (.loadFields (.loadBanks h))))

theorem Canon.mapEng {s : State} {e l} (h : Canon s) : Canon (s.mapEng e l) := .setF (.setF (.setF h))
theorem Canon.unmapEng {s : State} {e} (h : Canon s) : Canon (s.unmapEng e) := .setReg h

theorem Canon.goLive {s : State} {e l n} (h : Canon s) : Canon (s.goLive e l n) :=
  .modLe (.modEng (.setEngN (.mapEng (.enterService h))))

theorem Canon.leaveService {s : State} {e} (h : Canon s) : Canon (s.leaveService e) :=
  .modEng (.unmapEng (.setMode h))

theorem Canon.resetEngRegs {s : State} {e} (h : Canon s) : Canon (s.resetEngRegs e) := .resetBlock h

theorem Canon.powerEng {s : State} {e v} (h : Canon s) : Canon (s.powerEng e v) :=
  .ite (.setF (.modEng (.resetEngRegs (.setOn h)))) (.setMode (.modEng (.resetEngRegs (.setOn h))))

theorem Canon.startClear {s : State} {e} (h : Canon s) : Canon (s.startClear e) := .setF (.setMode h)
theorem Canon.startBist {s : State} {e} (h : Canon s) : Canon (s.startBist e) := .setF (.setF (.setMode h))

/-! ### Punty -/

theorem Canon.unforce {s : State} {l} (h : Canon s) : Canon (s.unforce l) := .frame h
theorem Canon.setRole {s : State} {e r} (h : Canon s) : Canon (s.setRole e r) := .modEng h
theorem Canon.makePunty {s : State} {e} (h : Canon s) : Canon (s.makePunty e) := .setF (.setRole h)
theorem Canon.noSpare {s : State} (h : Canon s) : Canon s.noSpare := .ite (.raise h) h

theorem Canon.fillPunty {s : State} (h : Canon s) : Canon s.fillPunty :=
  .ite h (by split; exacts [(.modEng (.startBist (.powerEng h))), h])

theorem Canon.cullEngine {s : State} {e cause} (h : Canon s) : Canon (s.cullEngine e cause) :=
  .noSpare (.raise (.modEng (.powerEng h)))

theorem Canon.rebist {s : State} {e} (h : Canon s) : Canon (s.rebist e) := .fillPunty (.setRole (.startBist h))
theorem Canon.toBist {s : State} {e} (h : Canon s) : Canon (s.toBist e) := .modEng (.startBist (.leaveService h))
theorem Canon.setScuState {s : State} {n} (h : Canon s) : Canon (s.setScuState n) := .setF h

theorem Canon.setPair {s : State} {le host punty} (h : Canon s) : Canon (s.setPair le host punty) :=
  .setF (.setF (.setF (.setF (.setF h))))

theorem Canon.scuIdle {s : State} (h : Canon s) : Canon s.scuIdle := .setF (.setScuState h)

theorem Canon.endShadow {s : State} (h : Canon s) : Canon s.endShadow :=
  .ite (.setF (.scuIdle (.makePunty (.leaveService h)))) h

theorem Canon.endShadowOf {s : State} {l} (h : Canon s) : Canon (s.endShadowOf l) := .ite (.endShadow h) h

theorem Canon.recordFault {s : State} {kind idx out} (h : Canon s) : Canon (s.recordFault kind idx out) :=
  .ite h (.setF (.setF (.setF (.setF2 h))))

theorem Canon.setHobnd {s : State} {b} (h : Canon s) : Canon (s.setHobnd b) := .setF2 h

theorem Canon.armHandover {s : State} {l incoming outgoing cold mismatch} (h : Canon s) : Canon (s.armHandover l
    incoming outgoing cold mismatch) :=
  .frame (.setHobnd (.setScuState (.setPair h)))

theorem Canon.startCold {s : State} {l incoming outgoing} (h : Canon s) : Canon (s.startCold l incoming outgoing) :=
  .fillPunty (.modEng (.armHandover (.startClear h)))

theorem Canon.startSelf {s : State} {l e} (h : Canon s) : Canon (s.startSelf l e) :=
  .frame (.setHobnd (.modLe (.startCold h)))

theorem Canon.handoverEvent {s : State} {l out inc cold b b2} (h : Canon s) : Canon (s.handoverEvent l out inc cold b
    b2) :=
  .raise h

theorem Canon.rampOut {s : State} {l} (h : Canon s) : Canon (s.rampOut l) := .modLe h
theorem Canon.giveUpHold {s : State} (h : Canon s) : Canon s.giveUpHold := .ite (.fillPunty (.frame h)) h

theorem Canon.coldFor {s : State} {l hd} (h : Canon s) : Canon (s.coldFor l hd) :=
  .ite (.rampOut (.startCold (.leaveService (.scuIdle h)))) (by split; exacts [(.ite (.startCold h) (.ite (.startCold
  (.endShadow h)) (.rampOut h))), (by split; exacts [(.rampOut (.ite (.rebist h) h)), (.rampOut (.giveUpHold h))])])

theorem Canon.hostFault {s : State} {l hd kind} (h : Canon s) : Canon (s.hostFault l hd kind) :=
  .ite (.recordFault h) (.ite (.armHandover (.recordFault h)) (.coldFor (.recordFault h)))

theorem Canon.puntyFault {s : State} {p kind flag} (h : Canon s) : Canon (s.puntyFault p kind flag) :=
  .ite (.fillPunty (.toBist (.endShadow (.flag (.recordFault h))))) (.flag (.recordFault h))

theorem Canon.eccFault {s : State} {e} (h : Canon s) : Canon (s.eccFault e) := by
  unfold State.eccFault
  dsimp only
  split
  · exact .ite (.puntyFault (.flag h)) (.ite (.hostFault (.flag h)) (.flag h))
  · exact .flag h

theorem Canon.freeEngine {s : State} {e} (h : Canon s) : Canon (s.freeEngine e) :=
  .ite (.fillPunty (.cullEngine (.modEng h))) (.ite (.setRole (.setMode (.modEng h))) (by split; exacts [(.ite
  (.startSelf (.modEng h)) (.ite (.startSelf (.endShadow (.modEng h))) (.setRole (.setMode (.modEng h))))), (.ite
  (.frame (.makePunty (.setMode (.modEng h)))) (.setRole (.powerEng (.modEng h))))]))

theorem Canon.settleFree {s : State} (h : Canon s) : Canon s.settleFree :=
  .forEach h (fun _ _ h1 => .ite (.makePunty h1) (.setRole (.powerEng h1)))

theorem Canon.handoverDone {s : State} (h : Canon s) : Canon s.handoverDone := by
  unfold State.handoverDone
  dsimp only
  split
  · split; exacts [(.startSelf (.flag (.scuIdle h))), (.fillPunty (.flag (.scuIdle h)))]
  · exact .fillPunty (.flag (.scuIdle h))

theorem Canon.hotSwap {s : State} {l n} (h : Canon s) : Canon (s.hotSwap l n) :=
  .ite (.fillPunty (.setScuState (.ite (.modEng (.frame (.handoverEvent (.modLe (.setFbit (.goLive (.toBist h)))))))
  (.frame (.handoverEvent (.modLe (.setFbit (.goLive (.toBist h))))))))) (.handoverDone (.ite (.modEng (.frame
  (.handoverEvent (.modLe (.setFbit (.goLive (.toBist h))))))) (.frame (.handoverEvent (.modLe (.setFbit (.goLive
  (.toBist h))))))))

theorem Canon.coldSwap {s : State} {l} (h : Canon s) : Canon (s.coldSwap l) := .modLe h

theorem Canon.coldEnter {s : State} {l n} (h : Canon s) : Canon (s.coldEnter l n) :=
  .ite (.raise (.handoverEvent (.frame (.setScuState (.setHobnd (.modLe (.setFbit (.goLive h)))))))) (.handoverEvent
  (.frame (.setScuState (.setHobnd (.modLe (.setFbit (.goLive h)))))))

theorem Canon.scuBoundary {s : State} {l n} (h : Canon s) : Canon (s.scuBoundary l n) :=
  .ite (.ite (.hotSwap h) (.ite (.coldSwap h) (.ite (.coldEnter h) h))) h

theorem Canon.scuDeadline {s : State} {g bnd} (h : Canon s) : Canon (s.scuDeadline g bnd) :=
  .forEach (.ite (.frame (.setHobnd h)) h) (fun _ _ h1 => by split; exacts [(.ite (.modLe h1) h1), h1])

/-! ### Flags -/

theorem Canon.qwrapFlag {s : State} {e xs} (h : Canon s) : Canon (s.qwrapFlag e xs) := .ite h (.flag h)
theorem Canon.satFlag {s : State} {e raw} (h : Canon s) : Canon (s.satFlag e raw) := .ite h (.flag h)

/-! ### Operands -/

theorem Canon.put {s : State} {e x stage v} (h : Canon s) : Canon (s.put e x stage v) := .modEng h

theorem Canon.slotWrite {s : State} {kind id index slot v} (h : Canon s) : Canon (s.slotWrite kind id index slot v) :=
  .ite (.ite (.flag h) (.setF (.setF (.setF (.setF (.flag h)))))) (.ite (.slotPut h) (.ite (.flag h) (.setF (.setF
  (.setF (.setF (.flag h)))))))

theorem Canon.engineOut {s : State} {e i v} (h : Canon s) : Canon (s.engineOut e i v) := by
  unfold State.engineOut
  split
  · exact .ite (by split; exacts [(.slotWrite h), h]) h
  · exact h

theorem Canon.land {s : State} {e w} (h : Canon s) : Canon (s.land e w) := by
  unfold State.land
  dsimp only
  split
  · exact .modEng h
  · exact .modEng h
  · exact .modEng h
  · exact .modEng h
  · exact .ite h (.modEng h)
  · exact .ite (.modEng (.modEng h)) (.modEng h)
  · exact .ite (.modEng (.modEng h)) (.modEng h)
  · exact .modEng h
  · exact .ite (.setF h) (.engineOut (.modEng h))

theorem Canon.landBefore {s : State} {e t} (h : Canon s) : Canon (s.landBefore e t) :=
  .foldl (.modEng h) (fun _ _ h1 => .land h1)

theorem Canon.drainPipe {s : State} {e} (h : Canon s) : Canon (s.drainPipe e) :=
  .forEach h (fun _ _ h1 => .landBefore h1)

theorem Canon.bumpPc {s : State} {e pc n} (h : Canon s) : Canon (s.bumpPc e pc n) := .modEng (.ite (.flag h) h)

theorem Canon.nextPc {s : State} {e pc} (h : Canon s) : Canon (s.nextPc e pc) := by
  unfold State.nextPc
  dsimp only
  split
  · exact .modEng (.ite (.flag (.modEng h)) (.modEng h))
  · exact .bumpPc (.ite (.flag (.modEng h)) (.modEng h))

theorem Canon.endSlot {s : State} {e} (h : Canon s) : Canon (s.endSlot e) := .modEng h
theorem Canon.atIssue {s : State} {e} (h : Canon s) : Canon (s.atIssue e) := .landBefore h

theorem Canon.issue {s : State} {e hd post op} (h : Canon s) (hpost : ∀ t, Canon t → Canon (post t)) (hop : ∀ t, Canon
    t → Canon (op t)) : Canon (s.issue e hd post op) :=
  .ite (.endSlot (.nextPc (.ite (hpost _ (.ite (hop _ (.atIssue h)) (.atIssue h))) (.ite (hop _ (.atIssue h))
  (.atIssue h))))) h

theorem Canon.softFix {s : State} {e code} (h : Canon s) : Canon (s.softFix e code) := .ite (.sat (.modEng h)) h

theorem Canon.readWord {s : State} {e code x} (h : Canon s) : Canon (s.readWord e code x).2 :=
  .ite_snd (.eccFault h) (.softFix h)

theorem Canon.readCoef {s : State} {e c} (h : Canon s) : Canon (s.readCoef e c).2 :=
  .ite_snd (.eccFault h) (.softFix h)

theorem Canon.readCoefs {s : State} {e cs} (h : Canon s) : Canon (s.readCoefs e cs).2 := by
  induction cs generalizing s with
  | nil => exact h
  | cons c cs ih => exact ih (.readCoef h)

theorem Canon.readTiles {s : State} {e ws} (h : Canon s) : Canon (s.readTiles e ws).2 :=
  .foldl_snd (.ite (.flag h) h) fun _ _ h => .readWord h

theorem Canon.mopPost {s : State} {e o} (h : Canon s) : Canon (s.mopPost e o) := .ite (.put h) h

theorem Canon.readLr {s : State} {e i} (h : Canon s) : Canon (s.readLr e i).2 :=
  .ite_snd h (.ite_snd (.eccFault h) (.softFix h))

theorem Canon.mopRead {s : State} {e o accepted} (h : Canon s) : Canon (s.mopRead e o accepted).2 :=
  .ite_snd (by split; exacts [h, (.readWord h), h, (.readLr h), (.readWord h), (.readCoef h), h]) h

theorem Canon.mopWrite {s : State} {e o v} (h : Canon s) : Canon (s.mopWrite e o v) := by
  unfold State.mopWrite
  split
  · exact .put h
  · exact h

theorem Canon.copRead {s : State} {e o n} (h : Canon s) : Canon (s.copRead e o n).2 := by
  unfold State.copRead
  split
  · exact h
  · exact h
  · exact .readCoefs h

theorem Canon.copPost {s : State} {e o} (h : Canon s) : Canon (s.copPost e o) := .ite (.put h) h

/-! ### RenderIsa -/

theorem Ends.renderDone {F} {s : State} : Ends F (Keeps s) (renderDone s) := .next fun h => h
theorem Canon.putQ {s : State} {e q x} (h : Canon s) : Canon (s.putQ e q x) := .put (.qwrapFlag h)
theorem Canon.putP {s : State} {e p v} (h : Canon s) : Canon (s.putP e p v) := .ite h (.put h)
theorem Canon.putAlu {s : State} {e dd v} (h : Canon s) : Canon (s.putAlu e dd v) := .put h
theorem Canon.macPost {s : State} {e o} (h : Canon s) : Canon (s.macPost e o) := .copPost (.mopPost h)
theorem Canon.macData {s : State} {e o} (h : Canon s) : Canon (s.macData e o).2 := .ite_snd h (.mopRead h)

theorem Canon.macdData {s : State} {e o} (h : Canon s) : Canon (s.macdData e o).2 := by
  unfold State.macdData
  split
  · exact h
  · exact h
  · exact .readLr (.readLr h)
  · exact .readTiles h
  · exact h

theorem Canon.quadTiles {s : State} {e o ws} (h : Canon s) : Canon (s.quadTiles e o ws).2 := .ite_snd (.readTiles h) h

theorem Canon.addProds {s : State} {e q z ps} (h : Canon s) : Canon (s.addProds e q z ps) :=
  .foldl h (fun _ _ h1 => .putQ h1)

theorem Ends.execRNop {F e hd} {s : State} : Ends F (Keeps s) (execRNop e hd s) :=
  .mono .renderDone fun h => .issue h (fun _ h1 => h1) (fun _ h1 => h1)

theorem Canon.issueEnd {s : State} {e} (h : Canon s) : Canon (s.issueEnd e) :=
  .ite (.modEng (.setF (.setF (.endSlot (.atIssue h))))) h

theorem Ends.execREnd {F e hd} {s : State} : Ends F (Keeps s) (execREnd e hd s) :=
  .mono .renderDone fun h => .issueEnd h

theorem Canon.issueRpt {s : State} {e count body} (h : Canon s) : Canon (s.issueRpt e count body) :=
  .ite (.endSlot (.ite (.nextPc (.flag (.atIssue h))) (.ite (.nextPc (.ite (.flag (.atIssue h)) (.atIssue h)))
  (.bumpPc (.modEng (.ite (.atIssue h) (.flag (.atIssue h)))))))) h

theorem Ends.execRRpt {F e hd count body} {s : State} : Ends F (Keeps s) (execRRpt e hd count body s) :=
  .mono .renderDone fun h => .issueRpt h

theorem Ends.execRRptc {F e hd cr body} {s : State} : Ends F (Keeps s) (execRRptc e hd cr body s) :=
  .mono .renderDone fun h => .issueRpt h

theorem Ends.execRMac {F e hd o} {s : State} : Ends F (Keeps s) (execRMac e hd o s) :=
  .mono .renderDone fun h => .issue h (fun _ h1 => .macPost h1) (fun _ h1 => .addProds (by split; exacts [(.macData
  h1), (.macData h1), (.readCoefs (.macData h1))]))

theorem Ends.execRMacd {F e hd o} {s : State} : Ends F (Keeps s) (execRMacd e hd o s) :=
  .mono .renderDone fun h => .issue h (fun _ h1 => .macPost h1) (fun _ h1 => .addProds (by split; exacts [(.macdData
  h1), (.macdData h1), (.readCoefs (.macdData h1))]))

theorem Ends.execRMacw {F e hd o} {s : State} : Ends F (Keeps s) (execRMacw e hd o s) :=
  .mono .renderDone fun h => .issue h (fun _ h1 => .macPost h1) (fun _ h1 => .putQ (by split; exacts [(.quadTiles h1),
  (.quadTiles h1), (.readCoefs (.quadTiles h1))]))

theorem Ends.execRMacqd {F e hd o} {s : State} : Ends F (Keeps s) (execRMacqd e hd o s) :=
  .mono .renderDone fun h => .issue h (fun _ h1 => .macPost h1) (fun _ h1 => .addProds (by split; exacts [(.macData
  h1), (.macData h1), (.readCoefs (.macData h1))]))

theorem Ends.execRMacqc {F e hd o} {s : State} : Ends F (Keeps s) (execRMacqc e hd o s) :=
  .mono .renderDone fun h => .issue h (fun _ h1 => .macPost h1) (fun _ h1 => .addProds (by split; exacts [(.quadTiles
  h1), (.quadTiles h1), (.readCoefs (.quadTiles h1))]))

theorem Canon.tapPost {s : State} {e o} (h : Canon s) : Canon (s.tapPost e o) := .copPost (.ite (.put h) h)

theorem Canon.tapOp {s : State} {e o} (h : Canon s) : Canon (s.tapOp e o).2 :=
  .putQ (by split; exacts [(.readWord h), (.readWord h), (.readCoefs (.readWord h))])

theorem Ends.execRTap {F e hd o} {s : State} : Ends F (Keeps s) (execRTap e hd o s) :=
  .mono .renderDone fun h => .issue h (fun _ h1 => .tapPost h1) (fun _ h1 => .tapOp h1)

theorem Ends.execRTapm {F e hd o} {s : State} : Ends F (Keeps s) (execRTapm e hd o s) :=
  .mono .renderDone fun h => .issue h (fun _ h1 => .tapPost h1) (fun _ h1 => .put (.tapOp h1))

theorem Ends.execRFdr {F e hd dl dd kb qa neg z} {s : State} : Ends F (Keeps s) (execRFdr e hd dl dd kb qa neg z s) := by
  unfold Machine.execRFdr
  dsimp only
  exact .mono .renderDone fun h => .issue h (fun _ h1 => h1) (fun _ h1 => .putQ (.readTiles h1))

theorem Ends.execRClrq {F e hd mask} {s : State} : Ends F (Keeps s) (execRClrq e hd mask s) :=
  .mono .renderDone fun h => .issue h (fun _ h1 => h1) (fun _ h1 => .forEach h1 (fun _ _ h2 => .putQ h2))

theorem Ends.execRLdq {F e hd qa dn neg acc} {s : State} : Ends F (Keeps s) (execRLdq e hd qa dn neg acc s) :=
  .mono .renderDone fun h => .issue h (fun _ h1 => h1) (fun _ h1 => .putQ h1)

theorem Ends.execRAddq {F e hd qa qb neg} {s : State} : Ends F (Keeps s) (execRAddq e hd qa qb neg s) :=
  .mono .renderDone fun h => .issue h (fun _ h1 => h1) (fun _ h1 => .putQ h1)

theorem Ends.execRStq {F e hd qa sh mop} {s : State} : Ends F (Keeps s) (execRStq e hd qa sh mop s) :=
  .mono .renderDone fun h => .issue h (fun _ h1 => .mopPost h1) (fun _ h1 => .mopWrite (.satFlag h1))

theorem Ends.execRLd {F e hd dn mop} {s : State} : Ends F (Keeps s) (execRLd e hd dn mop s) :=
  .mono .renderDone fun h => .issue h (fun _ h1 => .mopPost h1) (fun _ h1 => .put (.mopRead h1))

theorem Ends.execRSt {F e hd dn mop} {s : State} : Ends F (Keeps s) (execRSt e hd dn mop s) :=
  .mono .renderDone fun h => .issue h (fun _ h1 => .mopPost h1) (fun _ h1 => .mopWrite h1)

theorem Ends.execRLuti {F e hd dd ds base log2n sgn} {s : State} : Ends F (Keeps s) (execRLuti e hd dd ds base log2n
    sgn s) := by
  unfold Machine.execRLuti
  dsimp only
  exact .mono .renderDone fun h => .issue h (fun _ h1 => h1) (fun _ h1 => .put (.readCoefs h1))

theorem Ends.alu {F} {s : State} {e hd o g} : Ends F (Keeps s) (s.alu e hd o g) :=
  .mono .renderDone fun h => .issue h (fun _ h1 => h1) (fun _ h1 => .putAlu h1)

theorem Ends.execRMov {F e hd o} {s : State} : Ends F (Keeps s) (execRMov e hd o s) := .alu
theorem Ends.execRAdd {F e hd o} {s : State} : Ends F (Keeps s) (execRAdd e hd o s) := .alu
theorem Ends.execRAdds {F e hd o} {s : State} : Ends F (Keeps s) (execRAdds e hd o s) := .alu
theorem Ends.execRSub {F e hd o} {s : State} : Ends F (Keeps s) (execRSub e hd o s) := .alu
theorem Ends.execRSubs {F e hd o} {s : State} : Ends F (Keeps s) (execRSubs e hd o s) := .alu
theorem Ends.execRAnd {F e hd o} {s : State} : Ends F (Keeps s) (execRAnd e hd o s) := .alu
theorem Ends.execROr {F e hd o} {s : State} : Ends F (Keeps s) (execROr e hd o s) := .alu
theorem Ends.execRXor {F e hd o} {s : State} : Ends F (Keeps s) (execRXor e hd o s) := .alu
theorem Ends.execRShl {F e hd o} {s : State} : Ends F (Keeps s) (execRShl e hd o s) := .alu
theorem Ends.execRShr {F e hd o} {s : State} : Ends F (Keeps s) (execRShr e hd o s) := .alu
theorem Ends.execRAsr {F e hd o} {s : State} : Ends F (Keeps s) (execRAsr e hd o s) := .alu
theorem Ends.execRMin {F e hd o} {s : State} : Ends F (Keeps s) (execRMin e hd o s) := .alu
theorem Ends.execRMax {F e hd o} {s : State} : Ends F (Keeps s) (execRMax e hd o s) := .alu
theorem Ends.execRAbs {F e hd o} {s : State} : Ends F (Keeps s) (execRAbs e hd o s) := .alu

theorem Ends.execRMovs {F e hd dd db sel} {s : State} : Ends F (Keeps s) (execRMovs e hd dd db sel s) :=
  .mono .renderDone fun h => .issue h (fun _ h1 => h1) (fun _ h1 => .putAlu h1)

theorem Ends.execRMova {F e hd an imm} {s : State} : Ends F (Keeps s) (execRMova e hd an imm s) :=
  .mono .renderDone fun h => .issue h (fun _ h1 => h1) (fun _ h1 => .put h1)

theorem Ends.execRAdda {F e hd an mm rm imm} {s : State} : Ends F (Keeps s) (execRAdda e hd an mm rm imm s) :=
  .mono .renderDone fun h => .issue h (fun _ h1 => h1) (fun _ h1 => .put h1)

theorem Ends.execRMovm {F e hd mm imm} {s : State} : Ends F (Keeps s) (execRMovm e hd mm imm s) :=
  .mono .renderDone fun h => .issue h (fun _ h1 => h1) (fun _ h1 => .put h1)

theorem Ends.execRMovad {F e hd an dn} {s : State} : Ends F (Keeps s) (execRMovad e hd an dn s) :=
  .mono .renderDone fun h => .issue h (fun _ h1 => h1) (fun _ h1 => .put h1)

theorem Ends.execRMovmd {F e hd mm dn} {s : State} : Ends F (Keeps s) (execRMovmd e hd mm dn s) :=
  .mono .renderDone fun h => .issue h (fun _ h1 => h1) (fun _ h1 => .put h1)

theorem Ends.execRCmp {F e hd pd cc da db i sr imm} {s : State} : Ends F (Keeps s) (execRCmp e hd pd cc da db i sr imm
    s) :=
  .mono .renderDone fun h => .issue h (fun _ h1 => h1) (fun _ h1 => .putP h1)

theorem Ends.execRPlog {F e hd pd pa pb lop} {s : State} : Ends F (Keeps s) (execRPlog e hd pd pa pb lop s) :=
  .mono .renderDone fun h => .issue h (fun _ h1 => h1) (fun _ h1 => .putP h1)

theorem Ends.execRPset {F e hd pd val} {s : State} : Ends F (Keeps s) (execRPset e hd pd val s) :=
  .mono .renderDone fun h => .issue h (fun _ h1 => h1) (fun _ h1 => .putP h1)

theorem Ends.execUnassignedRenderOpcode {F e w} {s : State} : Ends F (Keeps s) (execUnassignedRenderOpcode e w s) :=
  .mono .renderDone fun h => .issue h (fun _ h1 => h1) (fun _ h1 => h1)

/-! ### RenderRun -/

theorem Canon.stateOf {s : State} {r : Res State} (h : Canon s) (hr : ∀ t, r = .next t → Canon t) :
    Canon (stateOf s r) := by
  unfold Machine.stateOf
  split
  · exact hr _ rfl
  · exact h

theorem Ends.renderExec {F} {i} {s : State} : Ends F (Keeps s) (renderExec i s) := by
  unfold Machine.renderExec
  split
  · exact .execRNop
  · exact .execREnd
  · exact .execRRpt
  · exact .execRRptc
  · exact .execRMac
  · exact .execRMacd
  · exact .execRMacw
  · exact .execRMacqd
  · exact .execRMacqc
  · exact .execRTap
  · exact .execRTapm
  · exact .execRFdr
  · exact .execRClrq
  · exact .execRLdq
  · exact .execRAddq
  · exact .execRStq
  · exact .execRLd
  · exact .execRSt
  · exact .execRLuti
  · exact .execRMov
  · exact .execRAdd
  · exact .execRAdds
  · exact .execRSub
  · exact .execRSubs
  · exact .execRAnd
  · exact .execROr
  · exact .execRXor
  · exact .execRShl
  · exact .execRShr
  · exact .execRAsr
  · exact .execRMin
  · exact .execRMax
  · exact .execRAbs
  · exact .execRMovs
  · exact .execRMova
  · exact .execRAdda
  · exact .execRMovm
  · exact .execRMovad
  · exact .execRMovmd
  · exact .execRCmp
  · exact .execRPlog
  · exact .execRPset
  · exact .execUnassignedRenderOpcode
  · exact .next id

theorem Canon.fetchHalf {s : State} {e pc hi} (h : Canon s) : Canon (s.fetchHalf e pc hi).2 :=
  .ite_snd (.eccFault h) (.softFix h)

theorem Canon.fetchWord {s : State} {e pc} (h : Canon s) : Canon (s.fetchWord e pc).2 := .fetchHalf (.fetchHalf h)

theorem Canon.fetch {s : State} {e} (h : Canon s) : Canon (s.fetch e).2 := by
  unfold State.fetch
  dsimp only
  split
  · split; exacts [h, (.modEng (.fetchWord h))]
  · exact .fetchWord h

theorem Canon.runPass {e n} {s : State} (h : Canon s) : Canon (runPass e n s) := by
  induction n generalizing s with
  | zero => exact h
  | succ n ih =>
    exact .ite (ih (.stateOf (.fetch h) fun _ hr => (Ends.renderExec (F := fun _ => False)).keeps hr (.fetch h))) h

theorem Canon.beginPass {s : State} {e entry test ttier} (h : Canon s) : Canon (s.beginPass e entry test ttier) :=
  .modEng h

theorem Canon.retireWrites {s : State} {e} (h : Canon s) : Canon (s.retireWrites e) := .modEng h

theorem Canon.finishPass {s : State} {e} (h : Canon s) : Canon (s.finishPass e) :=
  .ite h (.modEng (.retireWrites (.drainPipe h)))

theorem Canon.endTest {s : State} {e limit} (h : Canon s) : Canon (s.endTest e limit) :=
  .setF (.setMode (.ite (.flag (.flag (.setEngN (.modEng (.drainPipe h))))) (.flag (.setEngN (.modEng (.drainPipe
  h))))))

/-! ### Lds -/

theorem Canon.setHalf {s : State} {b v} (h : Canon s) : Canon (s.setHalf b v) := .ite (.setF h) (.setF h)
theorem Canon.setLds {s : State} {w v} (h : Canon s) : Canon (s.setLds w v) := .frame h

theorem Canon.ldsBadRead {s : State} {w} (h : Canon s) : Canon (s.ldsBadRead w) :=
  .raise (.ite (.flag (.sat h)) (.setF (.setF (.flag (.sat h)))))

theorem Canon.ldsSoftRead {s : State} {w} (h : Canon s) : Canon (s.ldsSoftRead w) := .ite (.flag (.sat (.frame h))) h

theorem Canon.readLds {s : State} {w} (h : Canon s) : Canon (s.readLds w).2 := by
  unfold State.readLds
  split <;> dsimp only
  · exact .ldsBadRead h
  · exact .ldsSoftRead h

theorem Canon.gatherWord {s : State} {d n en} (h : Canon s) : Canon (s.gatherWord d n en).2 :=
  .ite_snd (.flag h) (.ite_snd (.modDom h) (.readLds (.modDom h)))

theorem Canon.prefetch {s : State} {d e n} (h : Canon s) : Canon (s.prefetch d e n) :=
  .modEng (.foldl_snd h fun _ _ h => .gatherWord h)

theorem Canon.drainWord {s : State} {d n en v} (h : Canon s) : Canon (s.drainWord d n en v) :=
  .ite (.flag h) (.setLds (.modDom h))

theorem Canon.lwWord {s : State} {e i v} (h : Canon s) : Canon (s.lwWord e i v).2 :=
  .ite_snd (.eccFault (.modEng (.free h))) (.softFix h)

theorem Canon.drainEng {s : State} {e} (h : Canon s) : Canon (s.drainEng e) := by
  unfold State.drainEng
  split
  · exact .modEng (.ite (.foldl h (fun _ _ h1 => .drainWord (.lwWord h1))) h)
  · exact h

theorem Canon.zeroLine {s : State} {line} (h : Canon s) : Canon (s.zeroLine line) := .frame h
theorem Canon.clearHalf {s : State} {b} (h : Canon s) : Canon (s.clearHalf b) := .frame h

theorem Canon.startHalf {s : State} {b} (h : Canon s) : Canon (s.startHalf b) :=
  .ite (.setHalf (.setOn (.setF h))) (.setF h)

theorem Canon.stopHalf {s : State} {b} (h : Canon s) : Canon (s.stopHalf b) :=
  .ite (.setF h) (.setHalf (.setOn (.clearHalf (.setF h))))

theorem Ends.execLongWriteDrain {F e} {s : State} : Ends F (Keeps s) (execLongWriteDrain e s) :=
  .next fun h => .drainEng h

theorem Ends.execHalfRequest {F b} {s : State} : Ends F (Keeps s) (execHalfRequest b s) :=
  .next fun h => .ite (.startHalf h) (.busErr h)

theorem Ends.execHalfClearDone {F b} {s : State} : Ends F (Keeps s) (execHalfClearDone b s) :=
  .next fun h => .ite (.setHalf (.clearHalf h)) h

theorem Canon.scrubEng {s : State} {e} (h : Canon s) : Canon (s.scrubEng e) :=
  .ite (.ite (.eccFault (.sat (.modEng h))) (.sat (.modEng h))) h

theorem Canon.scrubLds {s : State} (h : Canon s) : Canon s.scrubLds :=
  .forEach (.ite (.sat (.sat h)) (.flag (.sat (.sat h)))) (fun _ _ h1 => .setLds h1)

theorem Ends.execScrub {F} {s : State} : Ends F (Keeps s) (execScrub s) :=
  .next fun h => .ite (.sat (.scrubLds (.forEach h (fun _ _ h1 => .scrubEng h1)))) h

/-! ### EngineCtl -/

theorem Canon.swapBanks {s : State} {e} (h : Canon s) : Canon (s.swapBanks e) := .modEng h

theorem Canon.runTest {s : State} {e} (h : Canon s) : Canon (s.runTest e) :=
  .ite (.runPass (.beginPass (.modEng (.setF (.setF (.setMode h)))))) (.endTest (.runPass (.beginPass (.modEng (.setF
  (.setF (.setMode h)))))))

theorem Canon.dropPunty {s : State} {e} (h : Canon s) : Canon (s.dropPunty e) :=
  .ite (.fillPunty (.modEng (.setRole h))) h

theorem Canon.nextAct {s : State} {e n} (h : Canon s) : Canon (s.nextAct e n) := by
  induction n generalizing s with
  | zero => exact h
  | succ n ih =>
    unfold State.nextAct
    split
    · exact h
    · refine .ite h (.ite (.setF h) ?_)
      split
      · exact ih (.swapBanks (.modEng h))
      · exact .startClear (.dropPunty (.modEng h))
      · exact .startBist (.dropPunty (.modEng h))
      · exact .ite (.runTest (.dropPunty (.modEng h))) (ih (.runTest (.dropPunty (.modEng h))))

theorem Canon.ctrlActs {s : State} {e acts} (h : Canon s) : Canon (s.ctrlActs e acts) := .ite (.nextAct (.modEng h)) h

theorem Canon.startClone {s : State} {p l} (h : Canon s) : Canon (s.startClone p l) := by
  unfold State.startClone
  split
  · exact .frame (.modEng (.setF (.setF (.setReg (.setF (.mapEng (.enterService (.setScuState (.setPair h)))))))))
  · exact h

theorem Canon.resumeShadow {s : State} (h : Canon s) : Canon s.resumeShadow := by
  unfold State.resumeShadow
  split
  · exact .ite (.rebist h) (.ite (by split; exacts [(.startClone h), h]) h)
  · exact .ite h (by split; exacts [(.startBist h), h])

theorem Canon.isolate {s : State} {hd l} (h : Canon s) : Canon (s.isolate hd l) :=
  .ite h (.ite (.raise (.unforce (.modLe (.modLe h)))) (.modLe h))

theorem Canon.rejoin {s : State} {hd l} (h : Canon s) : Canon (s.rejoin hd l) :=
  .ite (.startClone (.frame (.modEng (.makePunty (.setMode h))))) (.resumeShadow (.ite (.frame (.frame (.modEng
  (.makePunty (.setMode h))))) (.frame (.modEng (.makePunty (.setMode h))))))

theorem Canon.takeLower {s : State} {k} (h : Canon s) : Canon (s.takeLower k) := by
  unfold State.takeLower
  dsimp only
  split
  · exact .ite (by split; exacts [(.modLe (.rampOut h)), h]) h
  · exact h

theorem Canon.bistResult {s : State} {e pass} (h : Canon s) : Canon (s.bistResult e pass) := by
  unfold State.bistResult
  extract_lets en wasHeld s1 s2 s3 scu s4 s5 s6 t1 t2 t3
  have h1 : Canon s1 := .forEach h fun _ _ h => .modLe h
  have h2 : Canon s2 := .ite (.modEng (.powerEng h1)) (.cullEngine h1)
  have h3 : Canon s3 := by
    unfold s3
    split
    · exact .modLe h2
    · exact h2
  have h5 : Canon s5 := .modEng (.ite (.frame h3) h3)
  have h6 : Canon s6 := by
    unfold s6
    split
    · exact .takeLower (.modLe h5)
    · exact h5
  have k2 : Canon t2 := by
    unfold t2
    split
    · exact .isolate (.modEng h)
    · exact .modEng h
  have k3 : Canon t3 := .modEng k2
  refine .ite h (.ite (.resumeShadow h) (.ite (.startClear h) (.ite (.fillPunty h6) (.ite (.fillPunty (.cullEngine h)) ?_))))
  split
  · exact .ite (.rejoin k3) (.frame (.freeEngine k3))
  · exact .resumeShadow (.freeEngine k3)

theorem Ends.execEngSwap {F e} {s : State} : Ends F (Keeps s) (execEngSwap e s) := .next fun h => .ctrlActs h
theorem Ends.execEngClear {F e} {s : State} : Ends F (Keeps s) (execEngClear e s) := .next fun h => .ctrlActs h
theorem Ends.execBistGo {F e} {s : State} : Ends F (Keeps s) (execBistGo e s) := .next fun h => .ctrlActs h

theorem Canon.decideBist {s : State} {e} (h : Canon s) : Canon (s.decideBist e) :=
  .ite (.ite (.bistResult (.modEng h)) (.modEng h)) h

theorem Canon.goOn {s : State} {e} (h : Canon s) : Canon (s.goOn e) := .decideBist (.nextAct h)

theorem Canon.bistDone {s : State} {e failmap} (h : Canon s) : Canon (s.bistDone e failmap) :=
  .ite (.goOn (.modEng (.raise (.setF (.setMode (.modEng (.sat (.setF (.setF (.setF h)))))))))) h

theorem Ends.execBistDone {F e failmap} {s : State} : Ends F (Keeps s) (execBistDone e failmap s) :=
  .next fun h => .bistDone h

theorem Ends.execTestPass {F e ttier} {s : State} : Ends F (Keeps s) (execTestPass e ttier s) :=
  .next fun h => .ite h (.ctrlActs (.setF h))

theorem Ends.execTestPassLimit {F e} {s : State} : Ends F (Keeps s) (execTestPassLimit e s) :=
  .next fun h => .ite (.goOn (.endTest h)) h

/-! ### Timing -/

theorem Canon.setGroup {s : State} {l x v} (h : Canon s) : Canon (s.setGroup l x v) :=
  .forEach h (fun _ _ h1 => .setF h1)

theorem Canon.setDomPhase {s : State} {d} (h : Canon s) : Canon (s.setDomPhase d) := .setF h
theorem Canon.modAsp {s : State} {p g} (h : Canon s) : Canon (s.modAsp p g) := .frame h
theorem Canon.cutFrame {s : State} {p} (h : Canon s) : Canon (s.cutFrame p) := .modAsp (.free h)

theorem Canon.startNow {s : State} {l} (h : Canon s) : Canon (s.startNow l) :=
  .resumeShadow (.forEach (.forEach (.setGroup (.setGroup (.setGroup h))) (fun _ _ h1 => .modDom h1)) (fun _ _ h1 =>
  .cutFrame h1))

theorem Canon.startFails {s : State} {l} (h : Canon s) : Canon (s.startFails l) :=
  .forEach (.setGroup h) (fun _ _ h1 => .setF h1)

theorem Canon.startDomain {s : State} {l byTrigger} (h : Canon s) : Canon (s.startDomain l byTrigger) :=
  .ite (.ite (.startFails (.modDom h)) (.ite (.startNow (.modDom h)) (.setGroup (.modDom h)))) h

theorem Canon.startWaiting {s : State} {a} (h : Canon s) : Canon (s.startWaiting a) :=
  .forEach h (fun _ _ h1 => .ite (.ite (.setGroup h1) (.ite (.startFails (.setGroup h1)) (.modDom (.startNow
  (.setGroup h1))))) h1)

theorem Canon.captureBts {s : State} {d} (h : Canon s) : Canon (s.captureBts d) := .setF (.setF (.setF (.setF h)))

theorem Canon.sysRead {s : State} {latched a} (h : Canon s) : Canon (s.sysRead latched a) :=
  .ite (.ret (.forEach h (fun _ _ h1 => .latchReg h1))) (.busErr h)

theorem Ends.execDomainStart {F mask} {s : State} : Ends F (Keeps s) (execDomainStart mask s) :=
  .next fun h => .ite (.forEach h (fun _ _ h1 => .startDomain h1)) (.busErr h)

theorem Ends.execSampleIndexRead {F who d} {s : State} : Ends F (Keeps s) (execSampleIndexRead who d s) :=
  .next fun h => .sysRead h

theorem Ends.execBoundaryTimeRead {F who d} {s : State} : Ends F (Keeps s) (execBoundaryTimeRead who d s) :=
  .next fun h => .sysRead h

theorem Ends.execSampleCounterRead {F who e} {s : State} : Ends F (Keeps s) (execSampleCounterRead who e s) :=
  .next fun h => .ite (.ret (.latchReg h)) (.busErr h)

theorem Canon.readClear {s : State} {x hwset} (h : Canon s) : Canon (s.readClear x hwset) := .setF (.ret h)

theorem Ends.execPassmaxRead {F who e hwset} {s : State} : Ends F (Keeps s) (execPassmaxRead who e hwset s) :=
  .next fun h => .ite (.readClear h) (.busErr h)

theorem Ends.execLdsPeakRead {F who d hwset} {s : State} : Ends F (Keeps s) (execLdsPeakRead who d hwset s) :=
  .next fun h => .ite (.readClear h) (.busErr h)

/-! ### Audio -/

theorem Canon.modPdm {s : State} {p g} (h : Canon s) : Canon (s.modPdm p g) := .frame h
theorem Canon.modSrc {s : State} {g hd} (h : Canon s) : Canon (s.modSrc g hd) := .frame h
theorem Canon.modIecRx {s : State} {g} (h : Canon s) : Canon (s.modIecRx g) := .frame h
theorem Canon.modIecTx {s : State} {g} (h : Canon s) : Canon (s.modIecTx g) := .frame h
theorem Canon.sendFrame {s : State} {p per ws} (h : Canon s) : Canon (s.sendFrame p per ws) := .modAsp h
theorem Canon.sendCut {s : State} {p n ws} (h : Canon s) : Canon (s.sendCut p n ws) := .modAsp h

theorem Canon.writeIn {s : State} {p ws} (h : Canon s) : Canon (s.writeIn p ws) :=
  .foldl h (fun _ _ h1 => .writeFrom h1)

theorem Canon.zeroIn {s : State} {p} (h : Canon s) : Canon (s.zeroIn p) := .writeIn h
theorem Canon.aspBegin {s : State} {p} (h : Canon s) : Canon (s.aspBegin p) := .modAsp (.setF (.setF h))
theorem Canon.aspArm {s : State} {p x} (h : Canon s) : Canon (s.aspArm p x) := .ite (.setF h) (.ite h (.modAsp h))

theorem Canon.aspStart {s : State} {p} (h : Canon s) : Canon (s.aspStart p) :=
  .ite (.modAsp (.setReg (.setF h))) (.aspArm (.setReg (.setF h)))

theorem Canon.aspEnd {s : State} {p} (h : Canon s) : Canon (s.aspEnd p) :=
  .modAsp (.foldl (.setF (.setF (.setF (.ite (.zeroIn h) h)))) (fun _ _ h1 => .setReg h1))

theorem Canon.aspStop {s : State} {p ended} (h : Canon s) : Canon (s.aspStop p ended) :=
  .ite (.aspEnd (.modAsp (.setF h))) (.modAsp (.setF h))

theorem Canon.setSrc {s : State} {g n} (h : Canon s) : Canon (s.setSrc g n) :=
  .modSrc (.ite (.setF h) (.setReg (.setF h)))

theorem Canon.srcEnable {s : State} {g on} (h : Canon s) : Canon (s.srcEnable g on) :=
  .ite (.ite (.setSrc h) h) (.setSrc h)

theorem Canon.srcHold {s : State} {ext} (h : Canon s) : Canon (s.srcHold ext) :=
  .forEach h (fun _ _ h1 => .ite (.setSrc h1) h1)

theorem Canon.srcLost {s : State} {ext} (h : Canon s) : Canon (s.srcLost ext) :=
  .srcHold (.forEach h (fun _ _ h1 => .flag h1))

theorem Canon.srcRate {s : State} {ext} (h : Canon s) : Canon (s.srcRate ext) :=
  .srcHold (.forEach h (fun _ _ h1 => .ite (.setSrc (.flag h1)) (.flag h1)))

theorem Canon.srcFrame {s : State} {ext good} (h : Canon s) : Canon (s.srcFrame ext good) :=
  .forEach h (fun _ _ h1 => .ite (.ite (.setSrc h1) (.modSrc h1)) h1)

theorem Canon.srcTake {s : State} {g ws} (h : Canon s) : Canon (s.srcTake g ws) := .ite (.modSrc h) h
theorem Canon.srcSample {s : State} {g j} (h : Canon s) : Canon (s.srcSample g j).2 := .ite_snd (.free h) h
theorem Canon.srcStep {s : State} {g} (h : Canon s) : Canon (s.srcStep g) := .ite (.modSrc h) h

theorem Canon.srcTick {s : State} {d} (h : Canon s) : Canon (s.srcTick d) :=
  .forEach h (fun _ _ h1 => .ite (.srcTake h1) (.srcStep (.forEach h1 (fun _ _ h2 => .ite (.writeFrom (.srcSample h2))
  h2))))

theorem Canon.srcOut {s : State} {p} (h : Canon s) : Canon (s.srcOut p) :=
  .forEach (.modAsp h) (fun _ _ h1 => .srcStep (.forEach h1 (fun _ _ h2 => .ite (.modAsp (.srcSample h2)) h2)))

theorem Canon.srcIn {s : State} {ext good word} (h : Canon s) : Canon (s.srcIn ext good word) :=
  .forEach h (fun _ _ h1 => .srcTake h1)

theorem Canon.setRatio {s : State} {g ratio} (h : Canon s) : Canon (s.setRatio g ratio) := .setF (.setReg h)

theorem Canon.srcTrack {s : State} {ext ratios} (h : Canon s) : Canon (s.srcTrack ext ratios) :=
  .forEach h (fun _ _ h1 => by split; exacts [(.ite (.setRatio h1) h1), h1])

theorem Canon.realign {s : State} {p phi} (h : Canon s) : Canon (s.realign p phi) := .modAsp (.setF (.setF h))
theorem Canon.muteIn {s : State} {p} (h : Canon s) : Canon (s.muteIn p) := .modAsp (.setF h)
theorem Canon.slaveWrite {s : State} {p ws} (h : Canon s) : Canon (s.slaveWrite p ws) := .ite (.modAsp h) (.writeIn h)

theorem Canon.slaveWords {s : State} {p ws} (h : Canon s) : Canon (s.slaveWords p ws) := by
  unfold State.slaveWords
  split
  · exact .slaveWrite (.modAsp h)
  · exact .slaveWrite h

theorem Canon.syncGood {s : State} {p i} (h : Canon s) : Canon (s.syncGood p i) :=
  .ite (.ite (.ite (.raise (.modAsp (.setF (.realign (.modAsp h))))) (.modAsp (.setF (.realign (.modAsp h)))))
  (.modAsp h)) (.slaveWords (.modAsp (.ite (.realign (.modAsp h)) (.ite (.modAsp h) (.realign (.sat (.modAsp h)))))))

theorem Canon.slaveBad {s : State} {p} (h : Canon s) : Canon (s.slaveBad p) :=
  .ite (.ite (.muteIn (.modAsp (.flag (.sat h)))) (.ite (.modAsp (.flag (.sat h))) (.slaveWords (.modAsp (.flag (.sat
  h)))))) (.ite (.srcHold (.srcFrame (.modAsp (.flag (.sat h))))) (.srcFrame (.modAsp (.flag (.sat h)))))

theorem Canon.measure {s : State} {p period} (h : Canon s) : Canon (s.measure p period) :=
  .ite (.modAsp h) (.ite (.modAsp (.setF (.setF (.modAsp h)))) (.ite (.modAsp (.muteIn (.raise (.modAsp (.flag
  (.modAsp (.setF (.setF (.modAsp h))))))))) (.srcRate (.raise (.modAsp (.flag (.modAsp (.setF (.setF (.modAsp
  h))))))))))

theorem Canon.aspSwap {s : State} {p} (h : Canon s) : Canon (s.aspSwap p) :=
  .modAsp (.foldl h (fun _ _ h1 => .setReg h1))

theorem Canon.slaveRun {s : State} {p n i} (h : Canon s) : Canon (s.slaveRun p n i) := by
  unfold State.slaveRun
  extract_lets good t hist k s1 s2 a t2 s3
  have h1 : Canon s1 := .ite (.sendCut (.srcOut h)) (.sendCut h)
  have h2 : Canon s2 := .ite (.srcTrack (.srcIn h1)) h1
  have k2 : Canon t2 := .modAsp (.srcFrame h2)
  have h3 : Canon s3 := .ite (.slaveBad h2) (.ite (.syncGood h2) (.ite (.raise (.modAsp k2)) k2))
  exact .measure h3

theorem Canon.slaveLast {s : State} {p} (h : Canon s) : Canon (s.slaveLast p) := .ite (.aspEnd h) (.modAsp h)
theorem Canon.slaveTail {s : State} {p} (h : Canon s) : Canon (s.slaveTail p) := .aspEnd (.modAsp h)

theorem Ends.execSlaveFrame {F p i} {s : State} : Ends F (Keeps s) (execSlaveFrame p i s) := .next fun h => by
  extract_lets u a t t1
  have hu : Canon u := .advance h
  have ht : Canon t := .ite (.aspBegin hu) hu
  have h1 : Canon t1 := .ite (.aspSwap ht) ht
  refine .ite (.ite (.slaveTail ht) ?_) hu
  split
  · exact .ite (.slaveLast (.slaveRun h1)) (.slaveRun h1)
  · exact hu

theorem Ends.execClockLost {F p} {s : State} : Ends F (Keeps s) (execClockLost p s) :=
  .next fun h => .ite (.ite (.aspEnd (.ite (.muteIn (.raise (.modAsp (.sat (.flag h))))) (.srcLost (.raise (.modAsp
  (.sat (.flag h))))))) (.ite (.muteIn (.raise (.modAsp (.sat (.flag h))))) (.srcLost (.raise (.modAsp (.sat (.flag
  h))))))) h

theorem Canon.masterIn {s : State} {p ins rest} (h : Canon s) : Canon (s.masterIn p ins rest) :=
  .ite (.modAsp (.writeIn h)) (.modAsp (.writeIn (.writeIn h)))

theorem Canon.aspCount {s : State} {p} (h : Canon s) : Canon (s.aspCount p) := .modAsp h

theorem Canon.aspBefore {s : State} {d ins} (h : Canon s) : Canon (s.aspBefore d ins) :=
  .forEach h (fun _ _ h1 => .ite (.aspCount h1) (.ite (.masterIn (.aspCount h1)) (.zeroIn (.aspCount h1))))

theorem Canon.muteTick {s : State} {p} (h : Canon s) : Canon (s.muteTick p) := by
  unfold State.muteTick
  split
  · exact .modAsp (.writeIn h)
  · exact .zeroIn h
  · exact h

theorem Canon.aspLast {s : State} {p per} (h : Canon s) : Canon (s.aspLast p per) :=
  .ite (.aspEnd h) (.modAsp (.sendFrame h))

theorem Canon.masterFrame {s : State} {p} (h : Canon s) : Canon (s.masterFrame p) := .modAsp (.sendFrame h)

theorem Canon.aspAfter {s : State} {d} (h : Canon s) : Canon (s.aspAfter d) := .forEach h fun t p h => by
  extract_lets late t1 t2 pub t3 t4 per
  have h2 : Canon t2 := .modAsp (.writeIn (.ite (.zeroIn h) h))
  have h3 : Canon t3 := .ite (.modAsp h2) h2
  have h4 : Canon t4 := by
    unfold t4
    split
    · exact .aspBegin h3
    · exact .modAsp h3
    · exact h3
  exact .ite h4 (.ite (.aspLast h4) (.ite (.masterFrame h4) (.ite (.muteTick h4) h4)))

theorem Canon.pdmArm {s : State} {n} (h : Canon s) : Canon (s.pdmArm n) := .ite (.setF h) (.ite h (.modPdm h))

theorem Canon.pdmBegin {s : State} {n} (h : Canon s) : Canon (s.pdmBegin n) :=
  .modPdm (.setF (.setF (.setF (.setF h))))

theorem Canon.pdmEnable {s : State} {n on} (h : Canon s) : Canon (s.pdmEnable n on) :=
  .ite (.ite h (.pdmArm h)) (.modPdm (.setF (.setF (.setReg (.forEach h (fun _ _ h1 => .writeFrom h1))))))

theorem Canon.pdmBits {s : State} {n ins} (h : Canon s) : Canon (s.pdmBits n ins) := .modPdm h
theorem Canon.pdmSample {s : State} {n c} (h : Canon s) : Canon (s.pdmSample n c).2 := .ite_snd h (.free h)

theorem Canon.pdmTick {s : State} {d ins} (h : Canon s) : Canon (s.pdmTick d ins) :=
  .forEach h (fun _ _ h1 => .ite (.ite (.pdmBegin h1) h1) (.ite (.ite (.setF (.modPdm (.forEach (.pdmBits (.ite
  (.pdmBegin h1) h1)) (fun _ _ h2 => .writeFrom h2)))) (.modPdm (.forEach (.pdmBits (.ite (.pdmBegin h1) h1)) (fun _ _
  h2 => .writeFrom h2)))) (.forEach (.pdmBits (.ite (.pdmBegin h1) h1)) (fun _ _ h2 => .writeFrom (.pdmSample h2)))))

theorem Ends.execPdmStuck {F p ch} {s : State} : Ends F (Keeps s) (execPdmStuck p ch s) :=
  .next fun h => .ite (.raise (.flag h)) h

theorem Canon.iecBlock {s : State} (h : Canon s) : Canon s.iecBlock :=
  .ite (.forEach h (fun _ _ h1 => .setReg (.setReg (.setReg (.setReg h1))))) (.raise (.flag (.forEach h (fun _ _ h1 =>
  .setReg (.setReg (.setReg (.setReg h1)))))))

theorem Canon.iecBits {s : State} {i} (h : Canon s) : Canon (s.iecBits i) := by
  unfold State.iecBits
  dsimp only
  split
  · exact h
  · exact .ite (.iecBlock (.modIecRx h)) (.modIecRx h)

theorem Canon.iecNonPcm {s : State} {i} (h : Canon s) : Canon (s.iecNonPcm i) :=
  .ite (.raise (.flag (.ite (.modIecRx (.ite (.modIecRx (.setF h)) (.ite (.ite (.modIecRx (.setF (.modIecRx h)))
  (.modIecRx h)) h))) (.ite (.modIecRx (.setF h)) (.ite (.ite (.modIecRx (.setF (.modIecRx h))) (.modIecRx h)) h)))))
  (.ite (.modIecRx (.ite (.modIecRx (.setF h)) (.ite (.ite (.modIecRx (.setF (.modIecRx h))) (.modIecRx h)) h))) (.ite
  (.modIecRx (.setF h)) (.ite (.ite (.modIecRx (.setF (.modIecRx h))) (.modIecRx h)) h)))

theorem Canon.iecCapture {s : State} {i} (h : Canon s) : Canon (s.iecCapture i) :=
  .ite h (.ite (.flag h) (.setF (.sramStore h)))

theorem Canon.iecWords {s : State} {i} (h : Canon s) : Canon (s.iecWords i).2.2 := .modIecRx (.ite h (.sat (.flag h)))

theorem Canon.iecOut {s : State} (h : Canon s) : Canon s.iecOut :=
  .ite (.modIecRx (.writeFrom (.writeFrom (.modIecRx h)))) (.srcIn (.modIecRx h))

theorem Canon.iecMeasure {s : State} {hz} (h : Canon s) : Canon (s.iecMeasure hz) :=
  .ite (.modIecRx (.setF (.setF (.setF h)))) (.ite (.setF (.setF h)) (.srcRate (.raise (.modIecRx (.flag (.setF (.setF
  h)))))))

theorem Canon.iecFrame {s : State} {i} (h : Canon s) : Canon (s.iecFrame i) :=
  .iecOut (.ite (.modIecRx (.iecCapture (.iecNonPcm (.modIecRx (.iecBits (.iecWords h)))))) (.iecCapture (.iecNonPcm
  (.modIecRx (.iecBits (.iecWords h))))))

theorem Ends.execIecRxFrame {F i} {s : State} : Ends F (Keeps s) (execIecRxFrame i s) :=
  .next fun h => .ite (by split; exacts [(.srcTrack (.iecFrame (.srcFrame (.iecMeasure (.advance h))))), (.advance
  h)]) (.advance h)

theorem Ends.execIecLockLoss {F} {s : State} : Ends F (Keeps s) (execIecLockLoss s) :=
  .next fun h => .ite (.ite (.writeFrom (.writeFrom (.raise (.modIecRx (.flag (.setF h)))))) (.srcLost (.raise
  (.modIecRx (.flag (.setF h)))))) h

theorem Canon.iecRxTick {s : State} {d} (h : Canon s) : Canon (s.iecRxTick d) := .ite (.modIecRx (.ite h (.sat h))) h

theorem Canon.iecRxEnable {s : State} {on} (h : Canon s) : Canon (s.iecRxEnable on) :=
  .ite h (.frame (.setF (.setF (.ite (.writeFrom (.writeFrom h)) (.srcLost h)))))

theorem Canon.iecTxArm {s : State} (h : Canon s) : Canon s.iecTxArm := .ite (.setF h) (.ite h (.modIecTx h))
theorem Canon.iecTxBegin {s : State} (h : Canon s) : Canon s.iecTxBegin := .modIecTx (.setF (.setF h))

theorem Canon.iecTxEnable {s : State} {on} (h : Canon s) : Canon (s.iecTxEnable on) :=
  .ite (.ite h (.iecTxArm h)) (.modIecTx (.setF h))

theorem Canon.iecCapSet {s : State} (h : Canon s) : Canon s.iecCapSet := .modIecTx (.setF h)
theorem Canon.iecSend {s : State} {per a b} (h : Canon s) : Canon (s.iecSend per a b) := .modIecTx h

theorem Canon.iecTxTick {s : State} {d} (h : Canon s) : Canon (s.iecTxTick d) :=
  .ite h (.ite (.ite (.iecTxBegin h) h) (.iecSend (by split; exacts [(.modIecTx (.flag (.setF (.ite (.iecTxBegin h)
  h)))), (.ite (.iecTxBegin h) h)])))

theorem Ends.execIecCsUpdate {F} {s : State} : Ends F (Keeps s) (execIecCsUpdate s) :=
  .next fun h => .ite (.iecCapSet h) (.busErr h)

theorem Canon.trigUnit {s : State} {grp en arm run err go} (h : Canon s) (hgo : ∀ t, Canon t → Canon (go t)) : Canon
    (s.trigUnit grp en arm run err go) :=
  .ite (.setF h) (.ite (hgo _ h) h)

theorem Ends.execAspTrigGo {F dom bnd iectx pdm asp} {s : State} : Ends F (Keeps s) (execAspTrigGo dom bnd iectx pdm
    asp s) :=
  .next fun h => .ite (.busErr h) (.ite (.trigUnit (.forEach (.forEach (.setReg h) (fun _ _ h1 => .trigUnit h1 (fun _
  h2 => .ite (.setF h2) (.modAsp h2)))) (fun _ _ h1 => .trigUnit h1 (fun _ h2 => .ite (.modPdm h2) (.setF h2)))) (fun
  _ h1 => .ite (.modIecTx h1) (.setF h1))) (.forEach (.forEach (.setReg h) (fun _ _ h1 => .trigUnit h1 (fun _ h2 =>
  .ite (.setF h2) (.modAsp h2)))) (fun _ _ h1 => .trigUnit h1 (fun _ h2 => .ite (.modPdm h2) (.setF h2)))))

theorem Canon.trigTick {s : State} {d bnd} (h : Canon s) : Canon (s.trigTick d bnd) :=
  .ite (.iecTxTick (.iecTxBegin (.forEach (.forEach h (fun _ _ h1 => .ite (.masterFrame (.aspBegin h1)) (.modAsp h1)))
  (fun _ _ h1 => .pdmBegin h1)))) (.forEach (.forEach h (fun _ _ h1 => .ite (.masterFrame (.aspBegin h1)) (.modAsp
  h1))) (fun _ _ h1 => .pdmBegin h1))

theorem Ends.execAspStart {F p} {s : State} : Ends F (Keeps s) (execAspStart p s) :=
  .next fun h => .ite (.aspStart h) (.busErr h)

theorem Ends.execAspStop {F p ended} {s : State} : Ends F (Keeps s) (execAspStop p ended s) :=
  .next fun h => .ite (.aspStop h) (.busErr h)

theorem Ends.execStoppedDomainFrame {F p} {s : State} : Ends F (Keeps s) (execStoppedDomainFrame p s) :=
  .next fun h => .ite (.ite (.aspLast (.modAsp h)) (.modAsp (.sendFrame h))) h

theorem Ends.execSlotmaskRead {F who p} {s : State} : Ends F (Keeps s) (execSlotmaskRead who p s) :=
  .next fun h => .ite (.ret (.forEach h (fun _ _ h1 => .latchReg h1))) (.busErr h)

theorem Ends.execIecStatusRead {F who} {s : State} : Ends F (Keeps s) (execIecStatusRead who s) :=
  .next fun h => .ite (.ret (.forEach (.forEach h (fun _ _ h1 => .latchReg h1)) (fun _ _ h1 => .latchReg (.latchReg
  (.latchReg h1))))) (.busErr h)

theorem Ends.execSrcAcquired {F g ratio} {s : State} : Ends F (Keeps s) (execSrcAcquired g ratio s) :=
  .next fun h => .ite (.ite (.raise (.flag (.setRatio (.setSrc h)))) (.setSrc h)) h

theorem Ends.execRatioOutOfRange {F g} {s : State} : Ends F (Keeps s) (execRatioOutOfRange g s) :=
  .next fun h => .ite (.setSrc h) h

theorem Ends.execSrcRampDone {F g} {s : State} : Ends F (Keeps s) (execSrcRampDone g s) :=
  .next fun h => .ite (.setSrc h) (.ite (.setSrc h) h)

/-! ### Cpu -/

theorem Canon.modCc {s : State} {c g} (h : Canon s) : Canon (s.modCc c g) := .frame h

theorem Canon.sysWrite {s : State} {c n v} (h : Canon s) : Canon (s.sysWrite c n v) := by
  unfold State.sysWrite
  dsimp only
  split
  · exact h
  · exact .ite (.frame h) (.ite (.ite (.modCc h) h) (.ite h (.ite (.modCc (.modCc h)) (.modCc h))))

theorem Canon.landRes {s : State} {c d v} (h : Canon s) : Canon (s.landRes c d v) := by
  unfold State.landRes
  split
  · exact .ite h (.modCc h)
  · exact .sysWrite h

theorem Canon.landDue {c acc l} {s : State} (h : Canon s) : Canon (State.landDue c acc l s) := by
  induction l generalizing s acc with
  | nil => exact .modCc h
  | cons p l ih => exact .ite (ih (.landRes h)) (ih h)

theorem Canon.landTick {s : State} {c} (h : Canon s) : Canon (s.landTick c) := .landDue h
theorem Canon.landAll {s : State} {c} (h : Canon s) : Canon (s.landAll c) := .landDue h

theorem Canon.result {s : State} {c d v dist} (h : Canon s) : Canon (s.result c d v dist) :=
  .ite (.landRes (.modCc h)) (.modCc h)

theorem Canon.wr {s : State} {c sp v dist} (h : Canon s) : Canon (s.wr c sp v dist) := .result h
theorem Canon.stopCore {s : State} {c} (h : Canon s) : Canon (s.stopCore c) := .modCc h

theorem Canon.windowTrap {s : State} {c cause} (h : Canon s) : Canon (s.windowTrap c cause) :=
  .ite (.stopCore (.landAll h)) (.modCc (.landAll h))

theorem Canon.raiseCc {s : State} {c e} (h : Canon s) : Canon (s.raiseCc c e) :=
  .ite (.stopCore (.landAll h)) (by split; exacts [(.modCc (.landAll h)), (.modCc (.landAll h))])

theorem Canon.taken {s : State} {n} (h : Canon s) : Canon (s.taken n) := .ite (.frame h) h
theorem Canon.enterIrq {s : State} {c n} (h : Canon s) : Canon (s.enterIrq c n) := .taken (.modCc (.landAll h))

theorem Ends.execIrqEntry {F c} {s : State} : Ends F (Keeps s) (execIrqEntry c s) :=
  .next fun h => .ite h (by split; exacts [(.enterIrq h), h])

/-! ### I2c -/

theorem Canon.modI2c {s : State} {g} (h : Canon s) : Canon (s.modI2c g) := .frame h
theorem Canon.modLehr {s : State} {g} (h : Canon s) : Canon (s.modLehr g) := .frame h
theorem Canon.i2cSync {s : State} (h : Canon s) : Canon s.i2cSync := .setF (.setF (.setF h))
theorem Canon.i2cPut {s : State} {b} (h : Canon s) : Canon (s.i2cPut b) := .ite (.i2cSync (.modI2c h)) h

theorem Canon.i2cTake {s : State} (h : Canon s) : Canon s.i2cTake := by
  unfold State.i2cTake
  split
  · exact .ret (.i2cSync (.modI2c h))
  · exact .ret (.free h)

theorem Canon.i2cBegin {s : State} {owned} (h : Canon s) : Canon (s.i2cBegin owned) := .ite (.setF (.modI2c h)) h

theorem Canon.i2cGo {s : State} {data} (h : Canon s) : Canon (s.i2cGo data) :=
  .ite (.i2cSync (.i2cBegin (.modI2c (.setReg h)))) (.setReg h)

theorem Canon.i2cStop {s : State} (h : Canon s) : Canon s.i2cStop := .ite (.i2cSync (.setF (.modI2c h))) h
theorem Canon.avsCode {s : State} {mv} (h : Canon s) : Canon (s.avsCode mv).2 := .ite_snd (.free h) h

theorem Canon.pmicStart {s : State} (h : Canon s) : Canon s.pmicStart := by
  unfold State.pmicStart
  split
  · exact .ite (.modI2c h) (.modI2c (.i2cGo (.i2cPut (.i2cPut (.setF (.avsCode h))))))
  · exact h

theorem Canon.setVdd {s : State} {mv} (h : Canon s) : Canon (s.setVdd mv) := .frame (.setF h)
theorem Canon.avsRequest {s : State} {up} (h : Canon s) : Canon (s.avsRequest up) := .ite h (.pmicStart (.modLehr h))

theorem Canon.pmicDone {s : State} {ok} (h : Canon s) : Canon (s.pmicDone ok) := by
  unfold State.pmicDone
  split
  · exact h
  · exact .ite (.ite (.modLehr h) (.ite (.avsRequest (.modLehr (.setVdd h))) (.modLehr (.setVdd h)))) (.ite
      (.pmicStart (.modLehr h)) (.raise (.ite (.frame (.modLehr h)) (.modLehr h))))

theorem Canon.i2cPass {s : State} {l} (h : Canon s) : Canon (s.i2cPass l) := .modI2c h

theorem Canon.i2cEnd {s : State} {count done stop ok} (h : Canon s) : Canon (s.i2cEnd count done stop ok) :=
  .ite (.pmicDone (.i2cSync (.ite (.setF (.i2cPass (.ite (.flag (.modI2c (.setF h))) (.modI2c (.setF h))))) (.ite
  (.flag (.modI2c (.setF h))) (.modI2c (.setF h)))))) (.ite (.pmicStart (.i2cSync (.ite (.setF (.i2cPass (.ite (.flag
  (.modI2c (.setF h))) (.modI2c (.setF h))))) (.ite (.flag (.modI2c (.setF h))) (.modI2c (.setF h)))))) (.i2cSync
  (.ite (.setF (.i2cPass (.ite (.flag (.modI2c (.setF h))) (.modI2c (.setF h))))) (.ite (.flag (.modI2c (.setF h)))
  (.modI2c (.setF h))))))

theorem Canon.i2cLost {s : State} {count busy} (h : Canon s) : Canon (s.i2cLost count busy) :=
  .i2cEnd (.setF (.flag h))

theorem Canon.i2cRead {s : State} {x moved b} (h : Canon s) : Canon (s.i2cRead x moved b) :=
  .ite (.i2cLost (.i2cSync (.i2cPass (.modI2c h)))) (.ite (.i2cEnd (.i2cSync (.i2cPass (.modI2c h)))) (.i2cSync
  (.i2cPass (.modI2c h))))

theorem Canon.i2cWrite {s : State} {x moved b} (h : Canon s) : Canon (s.i2cWrite x moved b) :=
  .ite (.i2cLost (.i2cSync (.i2cPass (.modI2c h)))) (.ite (.i2cEnd (.flag (.i2cSync (.i2cPass (.modI2c h))))) (.ite
  (.i2cEnd (.i2cSync (.i2cPass (.modI2c h)))) (.i2cSync (.i2cPass (.modI2c h)))))

theorem Ends.execI2cXferGo {F data} {s : State} (hF : ReservedStops F R.I2C_XFER data) : Ends F (Keeps s)
    (execI2cXferGo data s) :=
  .ite (.writeTo hF fun h => .i2cGo h) (.next fun h => .busErr h)

theorem Canon.i2cHead {s : State} {x b} (h : Canon s) : Canon (s.i2cHead x b) :=
  .ite (.i2cPass (.ite (.i2cBegin h) h)) (.ite (.i2cBegin h) h)

theorem Ends.execI2cTransferEnd {F b} {s : State} : Ends F (Keeps s) (execI2cTransferEnd b s) :=
  .next fun h => by split; exacts [(.ite (.setF h) h), (.ite (.ite (.i2cLost (.i2cHead h)) (.i2cEnd (.flag (.i2cHead
  h)))) (.ite (.i2cRead (.i2cHead h)) (.i2cWrite (.i2cHead h))))]

theorem Ends.execI2cTimeout {F} {s : State} : Ends F (Keeps s) (execI2cTimeout s) :=
  .next fun h => by split; exacts [h, (.i2cEnd (.flag h))]

theorem Ends.execI2cClear {F pulse} {s : State} : Ends F (Keeps s) (execI2cClear pulse s) :=
  .next fun h => .ite (.busErr h) (.ite h (.ite (.flag (.i2cSync (.setF (.i2cPass (.modI2c h))))) (.flag h)))

theorem Ends.execI2cDataWrite {F data} {s : State} (hF : ReservedStops F R.I2C_DATA data) : Ends F (Keeps s)
    (execI2cDataWrite data s) :=
  .ite (.writeTo hF fun h => .i2cPut h) (.next fun h => .busErr h)

theorem Ends.execI2cDataRead {F who} {s : State} : Ends F (Keeps s) (execI2cDataRead who s) :=
  .next fun h => .ite (.i2cTake h) (.busErr h)

theorem Ends.execAvsSettled {F} {s : State} : Ends F (Keeps s) (execAvsSettled s) :=
  .next fun h => .ite (.frame (.modLehr (.setVdd h))) h

/-! ### Clocks -/

theorem Canon.modAcs {s : State} {a g} (h : Canon s) : Canon (s.modAcs a g) := .frame h

theorem Canon.acsApply {s : State} {a x} (h : Canon s) : Canon (s.acsApply a x) :=
  .modAcs (.setF (.setReg (.setReg h)))

theorem Canon.acsCoast {s : State} {a cause} (h : Canon s) : Canon (s.acsCoast a cause) :=
  .raise (.modAcs (.flag (.setF (.setF h))))

theorem Canon.acsDoRelock {s : State} {a} (h : Canon s) : Canon (s.acsDoRelock a) :=
  .startWaiting (.raise (by split; exacts [(.acsApply (.flag (.setF (.setF h)))), (.flag (.setF (.setF h)))]))

theorem Canon.acsTake {s : State} {a x} (h : Canon s) : Canon (s.acsTake a x) :=
  .ite h (.ite (.setF (.acsCoast (.acsApply h))) (.ite h (.acsApply h)))

theorem Canon.acsSeed {s : State} {a} (h : Canon s) : Canon (s.acsSeed a) := .modAcs h

theorem Canon.acsUpdate {s : State} {a} (h : Canon s) : Canon (s.acsUpdate a) :=
  .ite (.acsTake (.modAcs (.setF (.ite (.acsSeed h) h)))) (.flag (.modAcs (.setF (.ite (.acsSeed h) h))))

theorem Canon.acsEnable {s : State} {a on} (h : Canon s) : Canon (s.acsEnable a on) :=
  .ite (.acsApply (.setReg (.modAcs (.acsSeed h)))) (.setReg h)

theorem Canon.setPsq {s : State} {a v} (h : Canon s) : Canon (s.setPsq a v) := .setReg h

theorem Canon.psqAdd {s : State} {a add} (h : Canon s) : Canon (s.psqAdd a add) :=
  .ite (.flag (.setPsq h)) (.ite (.flag (.setPsq h)) (.setPsq h))

theorem Canon.sysApply {s : State} (h : Canon s) : Canon s.sysApply := .setFbit (.setF (.frame h))
theorem Canon.requestReset {s : State} {cause} (h : Canon s) : Canon (s.requestReset cause) := .frame (.setF h)
theorem Canon.sysUpd {s : State} {edge} (h : Canon s) : Canon (s.sysUpd edge) := .ite (.sysApply h) (.setF h)

theorem Canon.sysDo {s : State} {g} (h : Canon s) (hg : ∀ t, Canon t → Canon (g t)) : Canon (s.sysDo g) :=
  .ite (hg _ h) (.busErr h)

theorem Ends.execSysupd {F edge} {s : State} : Ends F (Keeps s) (execSysupd edge s) :=
  .next fun h => .sysDo h (fun _ h1 => .sysUpd h1)

theorem Ends.execLoopLock {F l} {s : State} : Ends F (Keeps s) (execLoopLock l s) :=
  .next fun h => .ite (.setFbit h) h

theorem Canon.engineClock {s : State} {e n} (h : Canon s) : Canon (s.engineClock e n) := .ite h (.setF (.setF h))

theorem Ends.execEngineClockSet {F e n} {s : State} : Ends F (Keeps s) (execEngineClockSet e n s) :=
  .next fun h => .sysDo h (fun _ h1 => .engineClock h1)

theorem Ends.execEngineClockLock {F e} {s : State} : Ends F (Keeps s) (execEngineClockLock e s) :=
  .next fun h => .ite (.modEng h) (.ite (.setF (.setF (.setF h))) (.goOn (.setF (.setF (.setF h)))))

theorem Ends.execAcsUpdate {F a} {s : State} : Ends F (Keeps s) (execAcsUpdate a s) :=
  .next fun h => .sysDo h (fun _ h1 => .acsUpdate h1)

theorem Canon.acsLocked {s : State} {a} (h : Canon s) : Canon (s.acsLocked a) :=
  .ite (.startWaiting (.setF (.setF h))) h

theorem Ends.execAcsRelock {F a} {s : State} : Ends F (Keeps s) (execAcsRelock a s) :=
  .next fun h => .sysDo h (fun _ h1 => .ite (.acsDoRelock h1) h1)

theorem Ends.execAcsClrq {F a} {s : State} : Ends F (Keeps s) (execAcsClrq a s) :=
  .next fun h => .sysDo h (fun _ h1 => .setPsq h1)

theorem Ends.execPhaseStepAdd {F a add} {s : State} : Ends F (Keeps s) (execPhaseStepAdd a add s) :=
  .next fun h => .sysDo h (fun _ h1 => .psqAdd h1)

theorem Ends.execPhaseStepIssue {F a} {s : State} : Ends F (Keeps s) (execPhaseStepIssue a s) :=
  .next fun h => .ite h (.setReg (.setPsq h))

theorem Ends.execAcsCoast {F a} {s : State} : Ends F (Keeps s) (execAcsCoast a s) :=
  .next fun h => .ite (.setF (.acsCoast h)) (.setF h)

theorem Ends.execFrequencyCheck {F a count expected} {s : State} : Ends F (Keeps s) (execFrequencyCheck a count
    expected s) :=
  .next fun h => .ite (.ite (.setF (.flag h)) (.acsCoast (.setF (.flag h)))) h

theorem Ends.execReferenceReturn {F a} {s : State} : Ends F (Keeps s) (execReferenceReturn a s) :=
  .next fun h => .ite (.acsDoRelock (.setF h)) (.setF h)

theorem Ends.execSystemReferenceLost {F} {s : State} : Ends F (Keeps s) (execSystemReferenceLost s) :=
  .next fun h => .raise (.setFbit (.flag (.setF h)))

theorem Ends.execSystemReferenceReturn {F} {s : State} : Ends F (Keeps s) (execSystemReferenceReturn s) :=
  .next fun h => .ite (.setFbit (.setF (.ite (.sysApply h) h))) (.ite (.sysApply h) h)

theorem Ends.execMdllUnlock {F l ms} {s : State} : Ends F (Keeps s) (execMdllUnlock l ms s) :=
  .next fun h => .ite (.requestReset (.setFbit (.flag h))) (.setFbit (.flag h))

theorem Ends.execEngineMdllUnlock {F e} {s : State} : Ends F (Keeps s) (execEngineMdllUnlock e s) :=
  .next fun h => .setF (.setF (.flag h))

theorem Ends.execSlowClockLoss {F} {s : State} : Ends F (Keeps s) (execSlowClockLoss s) :=
  .next fun h => .ite (.flag (.setF h)) h

theorem Ends.execAcsLiveRead {F who a} {s : State} : Ends F (Keeps s) (execAcsLiveRead who a s) :=
  .next fun h => .sysRead h

/-! ### Flash -/

theorem Canon.modFlash {s : State} {g} (h : Canon s) : Canon (s.modFlash g) := .frame h
theorem Canon.program {s : State} {a bs} (h : Canon s) : Canon (s.program a bs) := .modFlash h
theorem Canon.eraseCells {s : State} {a n} (h : Canon s) : Canon (s.eraseCells a n) := .modFlash h
theorem Canon.xmpModes {s : State} {rd pr} (h : Canon s) : Canon (s.xmpModes rd pr) := .setF (.modFlash h)
theorem Canon.discover {s : State} (h : Canon s) : Canon s.discover := .xmpModes (.modFlash (.ite (.setF h) h))
theorem Canon.eccCount {s : State} {bits} (h : Canon s) : Canon (s.eccCount bits) := .ite h (.setF (.flag (.sat h)))

theorem Canon.eccUncorrectable {s : State} {sector} (h : Canon s) : Canon (s.eccUncorrectable sector) :=
  .ite (.flag (.sat h)) (.setF (.setF (.flag (.sat h))))

theorem Canon.sectorIn {s : State} {sector raw} (h : Canon s) : Canon (s.sectorIn sector raw).2 := by
  unfold State.sectorIn
  split
  · exact .eccCount h
  · exact .eccUncorrectable h

theorem Canon.xmpSync {s : State} (h : Canon s) : Canon s.xmpSync := .setF h
theorem Canon.xmpEnd {s : State} (h : Canon s) : Canon s.xmpEnd := .setF (.modFlash h)

theorem Canon.xmpSelect {s : State} {c0 op addrBytes addr dummy} (h : Canon s) : Canon (s.xmpSelect c0 op addrBytes
    addr dummy) :=
  .modFlash h

theorem Canon.xmpDevice {s : State} {r} (h : Canon s) : Canon (s.xmpDevice r) := by
  unfold State.xmpDevice
  extract_lets t
  have ht : Canon t := by
    unfold t
    split
    · exact h
    · exact .ite (.forEach (.program h) fun _ _ h => .ite (.program h) (.ite (.modFlash h) h)) (.program h)
  refine .ite h ?_
  split
  · exact ht
  · exact .modFlash (.eraseCells ht)

theorem Canon.xmpDataDone {s : State} {r} (h : Canon s) : Canon (s.xmpDataDone r) :=
  .ite (.xmpSelect (.modFlash (.ite (.xmpDevice h) h))) (.flag (.xmpEnd (.ite (.xmpDevice h) h)))

theorem Canon.xmpFetch {s : State} {r} (h : Canon s) : Canon (s.xmpFetch r).2 := .ite_snd h (.ite_snd (.sectorIn h) h)
theorem Canon.tailWord {s : State} {bs} (h : Canon s) : Canon (s.tailWord bs).2 := .ite_snd h (.free h)

theorem Canon.xmpMove {n} {s : State} (h : Canon s) : Canon (State.xmpMove n s) := by
  induction n generalizing s with
  | zero => exact h
  | succ n ih =>
    unfold State.xmpMove
    split
    · exact h
    · refine .ite h (.ite (.xmpDataDone h) (.ite ?_ (.ite h (ih (.modFlash (.tailWord (.xmpFetch h)))))))
      split
      · exact h
      · exact ih (.modFlash h)

theorem Canon.xmpPump {s : State} (h : Canon s) : Canon s.xmpPump := .xmpSync (.xmpMove h)

theorem Canon.xmpGo {s : State} {dev} (h : Canon s) : Canon (s.xmpGo dev) :=
  .ite h (.ite (.flag h) (.xmpPump (.setF (.xmpSelect (.modFlash h)))))

theorem Ends.execXmpTransfer {F data dev} {s : State} (hF : ReservedStops F R.XMP_CMD1 data) : Ends F (Keeps s)
    (execXmpTransfer data dev s) :=
  .ite (.next fun h => .busErr h) (.writeTo hF fun h => .ite (.xmpGo (.setReg h)) (.setReg h))

theorem Canon.xmpTake {s : State} (h : Canon s) : Canon s.xmpTake := by
  unfold State.xmpTake
  split
  · exact .xmpPump (.ret (.modFlash h))
  · exact .ret (.free h)

theorem Canon.xmpPut {s : State} {data} (h : Canon s) : Canon (s.xmpPut data) := .ite h (.xmpPump (.modFlash h))

theorem Ends.execXmpPollTimeout {F} {s : State} : Ends F (Keeps s) (execXmpPollTimeout s) :=
  .next fun h => by split; exacts [(.ite (.flag (.xmpEnd h)) h), h]

theorem Canon.scramble {s : State} {a n} (h : Canon s) : Canon (s.scramble a n) :=
  .forEach h (fun _ _ h1 => .modFlash (.free h1))

theorem Canon.xmpAbort {s : State} (h : Canon s) : Canon s.xmpAbort := by
  unfold State.xmpAbort
  split
  · exact h
  · exact .flag (.xmpEnd (by split; exacts [(.ite (.scramble h) h), h]))

theorem Ends.execXmpAbort {F} {s : State} : Ends F (Keeps s) (execXmpAbort s) :=
  .next fun h => .ite (.xmpAbort h) (.busErr h)

theorem Canon.ecccntTake {s : State} {hwCorr hwUncorr hwMaxsec} (h : Canon s) : Canon (s.ecccntTake hwCorr hwUncorr
    hwMaxsec) :=
  .setF (.ite (.ite (.setReg (.ret h)) (.flag (.sat (.setReg (.ret h))))) (.flag (.sat (.ite (.setReg (.ret h)) (.flag
  (.sat (.setReg (.ret h))))))))

theorem Ends.execXmpEcccntRead {F who hwCorr hwUncorr hwMaxsec} {s : State} : Ends F (Keeps s) (execXmpEcccntRead who
    hwCorr hwUncorr hwMaxsec s) :=
  .next fun h => .ite (.ecccntTake h) (.busErr h)

theorem Canon.regionWrite {s : State} {r off bs} (h : Canon s) : Canon (s.regionWrite r off bs) := .modFlash h

theorem Canon.regionErase {s : State} {r} (h : Canon s) : Canon (s.regionErase r) :=
  .ite (.forEach h (fun _ _ h1 => .eraseCells h1)) (.eraseCells h)

theorem Canon.writeTable {s : State} {good t} (h : Canon s) : Canon (s.writeTable good t) :=
  .forEach h (fun _ _ h1 => .program (.eraseCells h1))

theorem Canon.moveRegion {s : State} {old new} (h : Canon s) : Canon (s.moveRegion old new) := .modFlash h

theorem Canon.growBad {s : State} {b} (h : Canon s) : Canon (s.growBad b) := by
  unfold State.growBad
  dsimp only
  split
  · exact .writeTable (.moveRegion (.modFlash h))
  · exact .modFlash h

theorem Ends.execXmpPollDone {F status failed} {s : State} : Ends F (Keeps s) (execXmpPollDone status failed s) :=
  .next fun h => by split; exacts [(.ite (.flag (.xmpEnd (by split; exacts [(.growBad h), h]))) h), h]

theorem Canon.firstTable {s : State} (h : Canon s) : Canon s.firstTable := .ite (.writeTable h) h
theorem Canon.xipSync {s : State} (h : Canon s) : Canon s.xipSync := .setF h
theorem Canon.xipFlush {s : State} (h : Canon s) : Canon s.xipFlush := .modFlash h
theorem Canon.xipEnable {s : State} (h : Canon s) : Canon s.xipEnable := .ite h (.ite (.flag h) (.xipSync (.setF h)))
theorem Canon.xipDisable {s : State} (h : Canon s) : Canon s.xipDisable := .xipSync (.xipFlush (.setF h))

theorem Canon.xipRegion {s : State} {r x} (h : Canon s) : Canon (s.xipRegion r x) :=
  .forEach (.setF (.setF (.setF (.setF (.setF h))))) (fun _ _ h1 => .setReg h1)

theorem Canon.xipOn {s : State} (h : Canon s) : Canon s.xipOn := .ite (.xipEnable (.setF h)) h

theorem Canon.xipSetup {s : State} {rs} (h : Canon s) : Canon (s.xipSetup rs) :=
  .ite h (.xipOn (.setF (.foldl h (fun _ _ h1 => .xipRegion h1))))

theorem Ends.execXipEnable {F} {s : State} : Ends F (Keeps s) (execXipEnable s) :=
  .next fun h => .ite (.xipEnable h) (.busErr h)

theorem Ends.execXipLock {F} {s : State} : Ends F (Keeps s) (execXipLock s) :=
  .next fun h => .ite (.setF h) (.busErr h)

theorem Ends.execXipCacheInvalidate {F} {s : State} : Ends F (Keeps s) (execXipCacheInvalidate s) :=
  .next fun h => .ite (.xipFlush h) (.busErr h)

theorem Canon.xipFetch {s : State} {a} (h : Canon s) : Canon (s.xipFetch a).2 := by
  unfold State.xipFetch
  extract_lets c0 t
  have ht : Canon t := .modFlash h
  split
  · generalize hq : t.free = q
    exact .of_snd hq ht.free
  · split
    · generalize hq : t.sectorIn _ _ = q
      obtain ⟨d, u⟩ := q
      exact .of_snd hq ht.sectorIn
    · exact ht

theorem Canon.xipClimb {r fuel} {s : State} {hash level j n at_ nodes} (h : Canon s) :
    Canon (State.xipClimb r fuel s hash level j n at_ nodes).2.2 := by
  induction fuel generalizing s hash level j n at_ nodes with
  | zero => exact h
  | succ fuel ih =>
    unfold State.xipClimb
    dsimp only
    split
    · exact h
    · have hf := Canon.xipFetch (a := at_ + 256 * (j / 16)) h
      split
      · exact hf
      · split
        · exact hf
        · exact ih hf

theorem Canon.xipFail {s : State} {off} (h : Canon s) : Canon (s.xipFail off) :=
  .requestReset (.frame (.ite (.flag (.busErr h)) (.setF (.setF (.flag (.busErr h))))))

theorem Canon.xmpSendOp {s : State} {op} (h : Canon s) : Canon (s.xmpSendOp op) := .modFlash h
theorem Canon.xipBegin {s : State} (h : Canon s) : Canon s.xipBegin := .ite (.xmpSendOp h) (.ite h (.modFlash h))
theorem Canon.xipEnd {s : State} (h : Canon s) : Canon s.xipEnd := .ite (.xmpSendOp h) h

theorem Canon.xipChunk {s : State} {r off} (h : Canon s) : Canon (s.xipChunk r off).2 := by
  unfold State.xipChunk
  split
  · exact .modFlash h
  · generalize hf : s.xipBegin.xipFetch off = p
    have hp : Canon p.2 := .of_snd hf (.xipFetch (.xipBegin h))
    obtain ⟨c, u⟩ := p
    dsimp only
    generalize hc : State.xipClimb _ _ _ _ _ _ _ _ _ = q
    have hq : Canon q.2.2 := hc ▸ .xipClimb hp
    obtain ⟨ok, nodes, v⟩ := q
    dsimp only
    split
    · exact .modFlash (.xipEnd hq)
    · exact .xipFail (.xipEnd hq)

theorem Canon.xipRead {s : State} {off width} (h : Canon s) : Canon (s.xipRead off width) := by
  unfold State.xipRead
  split <;> rename_i e
  · exact .ite (by split <;> rename_i e; exacts [(.ret (.of_snd e (.xipChunk h))), (.of_snd e (.xipChunk h))])
      (.busErr h)
  · exact .busErr h

/-! ### Journal -/

theorem Canon.modJ {s : State} {g} (h : Canon s) : Canon (s.modJ g) := .frame h
theorem Canon.jSector {s : State} (h : Canon s) : Canon s.jSector := .modJ h

theorem Canon.jProgram {s : State} {recs stamped} (h : Canon s) : Canon (s.jProgram recs stamped) :=
  .modJ (.forEach h (fun _ _ h1 => .jSector h1))

theorem Canon.jReclaim {s : State} (h : Canon s) : Canon s.jReclaim := .modJ (.ite h (.jProgram (.jProgram h)))

theorem Canon.jMakeRoom {n} {s : State} (h : Canon s) : Canon (State.jMakeRoom n s) := by
  induction n generalizing s with
  | zero => exact h
  | succ n ih => exact .ite (ih (.jReclaim h)) h

theorem Canon.jWrite {s : State} (h : Canon s) : Canon s.jWrite := .ite h (.modJ (.jProgram (.jMakeRoom h)))
theorem Canon.jStamp {s : State} (h : Canon s) : Canon s.jStamp := .ite (.jProgram h) h

theorem Ends.execJournalFrameWrite {F} {s : State} : Ends F (Keeps s) (execJournalFrameWrite s) :=
  .next fun h => .jWrite h

theorem Ends.execJournalStamp {F} {s : State} : Ends F (Keeps s) (execJournalStamp s) := .next fun h => .jStamp h

theorem Ends.execJournalWriteDone {F ok} {s : State} : Ends F (Keeps s) (execJournalWriteDone ok s) :=
  .next fun h => .ite h (.ite (.ite h (.raise (.modJ h))) (.raise (.modJ h)))

theorem Canon.jClear {s : State} (h : Canon s) : Canon s.jClear := .modJ h
theorem Canon.storeImage {s : State} {file} (h : Canon s) : Canon (s.storeImage file) := .ite h (.modFlash h)

theorem Canon.jGather {s : State} {items keepOut} (h : Canon s) : Canon (s.jGather items keepOut) :=
  .ite h (.foldl (.modJ h) (fun _ _ h1 => by split; exacts [(.storeImage h1), h1]))

theorem Canon.jMirror {s : State} {e on} (h : Canon s) : Canon (s.jMirror e on) := .ite (.modJ h) h

theorem Canon.jReserveFor {s : State} {n} (h : Canon s) : Canon (s.jReserveFor n) :=
  .ite (.jProgram (.jProgram (.jMakeRoom h))) h

theorem Canon.copySlot {s : State} {src} (h : Canon s) : Canon (s.copySlot src) :=
  .ite h (.forEach h (fun _ _ h1 => .modFlash (.eraseCells h1)))

theorem Canon.jRewrite {s : State} (h : Canon s) : Canon s.jRewrite := .forEach h (fun _ _ h1 => .jReclaim h1)

theorem Canon.rewriteRegion {s : State} {r} (h : Canon s) : Canon (s.rewriteRegion r) :=
  .ite (.copySlot h) (.ite (.jRewrite h) (.ite (.modFlash h) h))

theorem Canon.restoreRegion {s : State} {r} (h : Canon s) : Canon (s.restoreRegion r) :=
  .ite (.copySlot h) (.ite (.copySlot h) (.rewriteRegion h))

theorem Canon.regionRec {s : State} {hours r} (h : Canon s) : Canon (s.regionRec hours r) := .modJ (.free h)

theorem Canon.scanRegion {s : State} {hours r maxsec fails} (h : Canon s) : Canon (s.scanRegion hours r maxsec fails)
    :=
  .ite (.ite (.ite (.restoreRegion h) (.rewriteRegion h)) (.regionRec (.ite (.restoreRegion h) (.rewriteRegion h)))) h

theorem Canon.xipRewrite {s : State} (h : Canon s) : Canon s.xipRewrite :=
  .modFlash (.forEach h (fun _ _ h1 => .regionRec h1))

theorem Canon.retention {s : State} {hours found} (h : Canon s) : Canon (s.retention hours found) :=
  .ite (.frame h) (.frame (.modFlash (.foldl h (fun _ _ h1 => .scanRegion h1))))

theorem Ends.execRetentionScan {F hours found} {s : State} : Ends F (Keeps s) (execRetentionScan hours found s) :=
  .next fun h => .ite (.retention h) h

/-! ### Sec -/

theorem Canon.secSync {s : State} (h : Canon s) : Canon s.secSync := .setF (.setF (.setF h))
theorem Canon.blow {s : State} {bit} (h : Canon s) : Canon (s.blow bit) := .secSync (.frame h)

theorem Canon.fuseProgram {s : State} {bit blows} (h : Canon s) : Canon (s.fuseProgram bit blows) :=
  .ite (.flag h) (.ite (.flag (.blow h)) (.flag (.flag h)))

theorem Ends.execFuseProgram {F data blows} {s : State} (hF : ReservedStops F R.SEC_FUSECMD data) : Ends F (Keeps s)
    (execFuseProgram data blows s) :=
  .ite (.next fun h => .busErr h) (.writeTo hF fun h => .ite (.fuseProgram (.setF h)) (.setF h))

theorem Canon.secPut {s : State} {reg bs} (h : Canon s) : Canon (s.secPut reg bs) :=
  .forEach h (fun _ _ h1 => .setReg h1)

theorem Canon.kdf {s : State} {ver} (h : Canon s) : Canon (s.kdf ver) := .ite (.flag h) (.flag (.secPut h))

theorem Ends.execKdfGo {F data} {s : State} (hF : ReservedStops F R.SEC_KDFCMD data) : Ends F (Keeps s) (execKdfGo
    data s) :=
  .ite (.next fun h => .busErr h) (.writeTo hF fun h => .ite (.kdf (.setF h)) (.setF h))

theorem Canon.kdfBound {s : State} {data} (h : Canon s) : Canon (s.kdfBound data) := .setReg (.ite h (.setF h))

theorem Ends.execKdfBoundSet {F data} {s : State} (hF : ReservedStops F R.SEC_KDFBOUND data) : Ends F (Keeps s)
    (execKdfBoundSet data s) :=
  .ite (.writeTo hF fun h => .kdfBound h) (.next fun h => .busErr h)

theorem Canon.keyClear {s : State} (h : Canon s) : Canon s.keyClear := .secPut h

theorem Ends.execKeyClear {F} {s : State} : Ends F (Keeps s) (execKeyClear s) :=
  .next fun h => .ite (.keyClear h) (.busErr h)

theorem Canon.hashStart {s : State} (h : Canon s) : Canon s.hashStart := .frame h

theorem Canon.hashData {s : State} {data} (h : Canon s) : Canon (s.hashData data) := by
  unfold State.hashData
  split
  · exact .frame h
  · exact h

theorem Canon.hashFinish {s : State} (h : Canon s) : Canon s.hashFinish := by
  unfold State.hashFinish
  split
  · exact .flag (.frame (.secPut h))
  · exact h

theorem Ends.execHashStart {F} {s : State} : Ends F (Keeps s) (execHashStart s) :=
  .next fun h => .ite (.hashStart h) (.busErr h)

theorem Ends.execHashDataWrite {F data} {s : State} : Ends F (Keeps s) (execHashDataWrite data s) :=
  .next fun h => .ite (.hashData h) (.busErr h)

theorem Ends.execHashFinish {F last} {s : State} : Ends F (Keeps s) (execHashFinish last s) :=
  .next fun h => .ite (.hashFinish (.setF h)) (.busErr h)

theorem Canon.verifyGo {s : State} (h : Canon s) : Canon s.verifyGo := .ite h (.setF (.setF (.frame h)))

theorem Ends.execVerifyGo {F} {s : State} : Ends F (Keeps s) (execVerifyGo s) :=
  .next fun h => .ite (.verifyGo h) (.busErr h)

theorem Ends.execVerifyDone {F} {s : State} : Ends F (Keeps s) (execVerifyDone s) :=
  .next fun h => by split; exacts [(.flag (.setF (.setF (.setF (.frame h))))), h]

theorem Canon.fuseActions {s : State} {hd stuck} (h : Canon s) : Canon (s.fuseActions hd stuck) :=
  .ite (.setF (.ite (.setReg (.forEach h (fun _ _ h1 => .blow h1))) (.forEach h (fun _ _ h1 => .blow h1)))) h

/-! ### TimeUnit -/

theorem Canon.setAnchor {s : State} {d a} (h : Canon s) : Canon (s.setAnchor d a) := .ite h (.raise (.modDom h))

theorem Canon.anchorStart {s : State} {d} (h : Canon s) : Canon (s.anchorStart d) :=
  .ite (.setAnchor (.frame (.setF (.setF2 (.setF (.setF2 (.modDom h))))))) h

theorem Canon.anchorKick {s : State} (h : Canon s) : Canon s.anchorKick :=
  .forEach h (fun _ _ h1 => .ite (.setAnchor h1) (.anchorStart (by split; exacts [(.ite (.setAnchor h1) h1), (.ite h1
  (.setAnchor h1)), (.ite (.setAnchor h1) h1), h1])))

theorem Canon.adjustFrac {s : State} {a} (h : Canon s) : Canon (s.adjustFrac a) :=
  .ite h (.ite (.modAcs (.acsUpdate (.setF (.free h)))) (.free h))

theorem Canon.discipline {s : State} {d e} (h : Canon s) : Canon (s.discipline d e) :=
  .ite (.ite (.psqAdd h) (.adjustFrac (.psqAdd h))) h

theorem Canon.anchorAgain {s : State} {d} (h : Canon s) : Canon (s.anchorAgain d) := .modDom h

theorem Canon.anchorBoundary {s : State} {d n} (h : Canon s) : Canon (s.anchorBoundary d n) := by
  unfold State.anchorBoundary
  dsimp only
  exact .ite (.setAnchor h) (by split; exacts [(.ite (.ite (.setAnchor (.modDom (.discipline (.modDom h)))) (.modDom
    (.discipline (.modDom h)))) (.anchorAgain (.modDom h))), (.ite (.discipline (.modDom h)) (.ite (.discipline
    (.setAnchor (.modDom h))) (.anchorAgain (.setAnchor (.modDom h))))), (.ite (.setAnchor (.modDom h)) (.modDom h)),
    (.modDom h)])

theorem Canon.tuWords {s : State} (h : Canon s) : Canon s.tuWords := .setF2 (.setF (.setF h))
theorem Canon.legWords {s : State} (h : Canon s) : Canon s.legWords := .setF (.setF2 h)

theorem Ends.execTimeSourceLoss {F} {s : State} : Ends F (Keeps s) (execTimeSourceLoss s) :=
  .next fun h => .anchorKick (.frame h)

theorem Canon.tuCtrl {s : State} {set step} (h : Canon s) : Canon (s.tuCtrl set step) := .frame h

theorem Canon.stepAnchors {s : State} (h : Canon s) : Canon s.stepAnchors :=
  .ite (.forEach h (fun _ _ h1 => .ite (.setAnchor h1) h1)) h

theorem Ends.execTuSet {F} {s : State} : Ends F (Keeps s) (execTuSet s) := .next fun h => .tuCtrl h
theorem Ends.execTuStep {F} {s : State} : Ends F (Keeps s) (execTuStep s) := .next fun h => .stepAnchors (.tuCtrl h)

theorem Ends.execTuSourceSwitch {F slow} {s : State} : Ends F (Keeps s) (execTuSourceSwitch slow s) :=
  .next fun h => .ite h (.tuSource h)

theorem Ends.execTuNsRead {F who} {s : State} : Ends F (Keeps s) (execTuNsRead who s) :=
  .next fun h => .ret (.latchReg (.latchReg (.latchReg (.tuWords h))))

theorem Ends.execTuLnslRead {F who} {s : State} : Ends F (Keeps s) (execTuLnslRead who s) :=
  .next fun h => .ret (.latchReg (.latchReg (.legWords h)))

theorem Canon.legLoad {s : State} {data} (h : Canon s) : Canon (s.legLoad data) := .frame h

theorem Ends.execTuLnslWrite {F data} {s : State} : Ends F (Keeps s) (execTuLnslWrite data s) :=
  .next fun h => .legLoad h

theorem Canon.modPulse {s : State} {k g} (h : Canon s) : Canon (s.modPulse k g) := .frame h

theorem Canon.tpArm {s : State} {k} (h : Canon s) : Canon (s.tpArm k) :=
  .ite h (.ite (.flag (.ite (.flag h) h)) (.setF (.modPulse (.ite (.flag h) h))))

theorem Canon.tpDisarm {s : State} {k} (h : Canon s) : Canon (s.tpDisarm k) := .ite h (.ite (.modPulse h) (.tpEnd h))
theorem Ends.execTpulseArm {F k} {s : State} : Ends F (Keeps s) (execTpulseArm k s) := .next fun h => .tpArm h

theorem Ends.execTpulseDisarm {F k} {s : State} : Ends F (Keeps s) (execTpulseDisarm k s) :=
  .next fun h => .tpDisarm h

theorem Canon.tpEdge {s : State} {k} (h : Canon s) : Canon (s.tpEdge k) :=
  .ite h (.ite (.modPulse h) (.ite (.tpEnd h) (.modPulse h)))

theorem Ends.execTpulseEdge {F k el} {s : State} : Ends F (Keeps s) (execTpulseEdge k el s) :=
  .next fun h => .tpEdge (.advance h)

theorem Ends.execTcapEdge {F el rise sinceNs} {s : State} : Ends F (Keeps s) (execTcapEdge el rise sinceNs s) :=
  .next fun h => .ite (.advance h) (.ite (.flag (.advance h)) (.ite (.flag (.advance h)) (.setF (.frame (.advance
  h)))))

theorem Canon.tcapTake {s : State} (h : Canon s) : Canon s.tcapTake := by
  unfold State.tcapTake
  split
  · exact .ret (.setF (.setF2 (.setF (.setF (.setF (.frame h))))))
  · exact .ret (.setF h)

theorem Ends.execTcapRead {F who} {s : State} : Ends F (Keeps s) (execTcapRead who s) := .next fun h => .tcapTake h
theorem Canon.trigArm {s : State} (h : Canon s) : Canon s.trigArm := .ite (.flag (.frame h)) (.frame h)
theorem Canon.trigDisarm {s : State} (h : Canon s) : Canon s.trigDisarm := .frame h
theorem Ends.execTrigArm {F} {s : State} : Ends F (Keeps s) (execTrigArm s) := .next fun h => .trigArm h
theorem Ends.execTrigDisarm {F} {s : State} : Ends F (Keeps s) (execTrigDisarm s) := .next fun h => .trigDisarm h

theorem Ends.execTrigFire {F el} {s : State} : Ends F (Keeps s) (execTrigFire el s) :=
  .next fun h => .ite (.anchorKick (.forEach (.flag (.frame (.advance h))) (fun _ _ h1 => .startDomain h1))) (.advance
  h)

/-! ### Queue -/

theorem Canon.enqueue {s : State} {e} (h : Canon s) : Canon (s.enqueue e) := .frame (.setF (.jReserveFor h))
theorem Canon.setPhase {s : State} {n} (h : Canon s) : Canon (s.setPhase n) := .setF h
theorem Canon.lehrCommit {s : State} {items} (h : Canon s) : Canon (s.lehrCommit items) := .ite h (.enqueue h)

/-! ### Serial -/

theorem Canon.modUart {s : State} {u g} (h : Canon s) : Canon (s.modUart u g) := .frame h

theorem Canon.uartSettle {s : State} {u} (h : Canon s) : Canon (s.uartSettle u) :=
  .ite (.modUart (.foldl h (fun _ _ h1 => .setReg h1))) h

theorem Canon.uartSync {s : State} {u} (h : Canon s) : Canon (s.uartSync u) :=
  .ite (.modUart (.setF (.setF (.setF (.setF (.setF (.setF (.uartSettle h)))))))) (.ite (.modUart (.setF (.setF (.setF
  (.setF (.setF (.setF (.uartSettle h)))))))) (.ite (.modUart (.setF (.setF (.setF (.setF (.setF (.setF (.uartSettle
  h)))))))) (.setF (.setF (.setF (.setF (.setF (.setF (.uartSettle h)))))))))

theorem Canon.uartDrop {s : State} {u} (h : Canon s) : Canon (s.uartDrop u) := .modUart h

theorem Canon.uartDeliver {s : State} {u bs} (h : Canon s) : Canon (s.uartDeliver u bs) :=
  .ite h (.ite (.uartDrop h) (.pushReq h))

theorem Canon.uartByte {s : State} {u b} (h : Canon s) : Canon (s.uartByte u b) :=
  .ite h (.ite (.modUart (.ite (.uartDrop h) (.uartDeliver h))) (by split; exacts [h, (.ite (.modUart h) (.ite
  (.modUart h) (.modUart h)))]))

theorem Canon.uartCut {s : State} {u} (h : Canon s) : Canon (s.uartCut u) := .modUart h

theorem Canon.uartTransport {s : State} {u e} (h : Canon s) : Canon (s.uartTransport u e) :=
  .ite (.uartCut h) (.ite h (.uartByte h))

theorem Canon.uartFeed {s : State} {u} (h : Canon s) : Canon (s.uartFeed u) :=
  .modUart (by split; exacts [(.modUart (.rspTaken h)), h])

theorem Canon.uartQueue {s : State} {u e} (h : Canon s) : Canon (s.uartQueue u e) :=
  .ite (.uartSync (.flag h)) (.uartSync (.uartTransport (.modUart h)))

theorem Canon.uartNine {s : State} {u e} (h : Canon s) : Canon (s.uartNine u e) :=
  .ite (.uartQueue h) (.ite (.ite (.uartQueue (.flag (.setF h))) (.uartSync (.setF h))) (.ite h (.uartQueue h)))

theorem Canon.uartReceive {s : State} {u c} (h : Canon s) : Canon (s.uartReceive u c) :=
  .ite (.uartQueue (.modUart (.flag h))) (.ite (.ite (.flag h) (.uartQueue (.flag h))) (.ite (.setF (.ite (.flag h)
  h)) (.ite (.uartNine (.ite (.flag h) h)) (.uartQueue (.ite (.flag h) h)))))

theorem Canon.autobaud {s : State} {u count} (h : Canon s) : Canon (s.autobaud u count) :=
  .ite (.flag (.setF h)) (.ite (.flag (.setF (.setF (.setF (.setF (.setF h)))))) (.flag (.setF (.setF (.setF h)))))

theorem Canon.autobaudChar {s : State} {u c} (h : Canon s) : Canon (s.autobaudChar u c) := by
  unfold State.autobaudChar
  split
  · exact .autobaud h
  · exact h

theorem Canon.uartHear {s : State} {u c} (h : Canon s) : Canon (s.uartHear u c) :=
  .ite h (.ite h (.ite (.autobaudChar (.modUart h)) (.ite (.modUart h) (by split; exacts [(.uartReceive (.modUart h)),
  (.modUart h)]))))

theorem Ends.execUartRxCharacter {F u c} {s : State} : Ends F (Keeps s) (execUartRxCharacter u c s) :=
  .next fun h => .uartHear h

theorem Ends.execAutobaudTimeout {F u} {s : State} : Ends F (Keeps s) (execAutobaudTimeout u s) :=
  .next fun h => .ite (.flag (.setF h)) h

theorem Canon.uartSent {s : State} {u d g} (h : Canon s) : Canon (s.uartSent u d g) := .uartSync (.modUart h)

theorem Canon.uartCollide {s : State} {u d bit back} (h : Canon s) : Canon (s.uartCollide u d bit back) := by
  unfold State.uartCollide
  dsimp only
  split
  · exact .uartReceive (.uartSync (.modUart (.flag h)))
  · exact .uartSync (.modUart (.flag h))

theorem Canon.uartEcho {s : State} {u back} (h : Canon s) : Canon (s.uartEcho u back) :=
  .ite (by split; exacts [(.uartReceive h), h]) h

theorem Canon.uartSend {s : State} {u d back g} (h : Canon s) : Canon (s.uartSend u d back g) :=
  .ite (by split; exacts [(.uartCollide h), (.uartSent (.uartEcho h))]) (.uartSent h)

theorem Ends.execUartTxCharacter {F u back} {s : State} : Ends F (Keeps s) (execUartTxCharacter u back s) :=
  .next fun h => .ite (.uartSync (.uartFeed h)) (by split; exacts [(.uartSend (.uartFeed h)), (by split; exacts [(.ite
  (.uartSync (.uartFeed h)) (.uartSend (.uartFeed h))), (.uartSync (.uartFeed h))])])

theorem Ends.execDeHoldExpiry {F u} {s : State} : Ends F (Keeps s) (execDeHoldExpiry u s) :=
  .next fun h => .ite (.uartSync (.modUart h)) h

theorem Canon.uartPut {s : State} {u data} (h : Canon s) : Canon (s.uartPut u data) :=
  .ite (.flag h) (.uartSync (.modUart h))

theorem Canon.uartTake {s : State} {u} (h : Canon s) : Canon (s.uartTake u) := by
  unfold State.uartTake
  split
  · exact .ret (.uartSync (.modUart h))
  · exact .ret (.free h)

theorem Canon.uartOff {s : State} {u} (h : Canon s) : Canon (s.uartOff u) := .uartSync (.modUart h)

theorem Ends.execUartTxdataWrite {F} {u : Fin 3} {data} {s : State} (hF : ReservedStops F (R.UART_TXDATA u) data) :
    Ends F (Keeps s) (execUartTxdataWrite u data s) := .ite (.writeTo hF fun h => .uartPut h) (.next fun h => .busErr h)

theorem Ends.execUartRxdataRead {F who u} {s : State} : Ends F (Keeps s) (execUartRxdataRead who u s) :=
  .next fun h => .ite (.uartTake h) (.busErr h)

theorem Ends.execUartBaudWrite {F} {u : Fin 3} {data} {s : State} (hF : ReservedStops F (R.UART_BAUD u) data) :
    Ends F (Keeps s) (execUartBaudWrite u data s) := .ite (.writeTo hF fun h => .setReg h) (.next fun h => .busErr h)

theorem Ends.execUartRxflush {F u} {s : State} : Ends F (Keeps s) (execUartRxflush u s) :=
  .next fun h => .ite (.uartSync (.modUart h)) (.busErr h)

theorem Ends.execUartTxflush {F u} {s : State} : Ends F (Keeps s) (execUartTxflush u s) :=
  .next fun h => .ite (.uartSync (.modUart h)) (.busErr h)

theorem Ends.execUartTxbrk {F u on} {s : State} : Ends F (Keeps s) (execUartTxbrk u on s) :=
  .next fun h => .ite (.setF h) (.busErr h)

theorem Ends.execUartDisable {F u} {s : State} : Ends F (Keeps s) (execUartDisable u s) :=
  .next fun h => .ite (.uartOff (.setF h)) (.busErr h)

theorem Canon.pscSync {s : State} {stall} (h : Canon s) : Canon (s.pscSync stall) :=
  .setF (.setF (.setF (.setF (.setF h))))

theorem Canon.pscCommand {s : State} {c} (h : Canon s) : Canon (s.pscCommand c) :=
  .ite (.flag h) (.ite (.pscSync (.frame h)) h)

theorem Canon.pscDeliver {s : State} {w bits} (h : Canon s) : Canon (s.pscDeliver w bits) :=
  .ite (.flag (.frame h)) (.frame h)

theorem Canon.pscEnd {s : State} {c} (h : Canon s) : Canon (s.pscEnd c) := .ite (.flag (.frame h)) (.frame h)

theorem Canon.pscUnits {c inp n} {s : State} (h : Canon s) : Canon (pscUnits c inp n s) := by
  induction n generalizing s inp with
  | zero => exact h
  | succ n ih =>
    exact .ite (.pscSync (.pscEnd h)) (.ite (.pscSync h) (ih (.frame
      (.ite (.frame h) (.pscDeliver (.frame h))))))

theorem Ends.execPscCommandWrite {F data} {s : State} (hF : ReservedStops F R.PSC_CMD data) : Ends F (Keeps s)
    (execPscCommandWrite data s) :=
  .ite (.writeTo hF fun h => .pscCommand h) (.next fun h => .busErr h)

theorem Ends.execPscTransfer {F inp} {s : State} : Ends F (Keeps s) (execPscTransfer inp s) :=
  .next fun h => by split; exacts [(.ite (.pscUnits (.frame h)) h), h]

theorem Ends.execPscAbort {F inp} {s : State} : Ends F (Keeps s) (execPscAbort inp s) :=
  .next fun h => .ite (.busErr h) (.pscSync (.flag (.frame (by split; exacts [(.ite (.pscDeliver h) h), h]))))

theorem Canon.pscPut {s : State} {data} (h : Canon s) : Canon (s.pscPut data) := .ite (.pscSync (.frame h)) h

theorem Canon.pscTake {s : State} (h : Canon s) : Canon s.pscTake := by
  unfold State.pscTake
  split
  · exact .ret (.setF (.setF (.setF (.pscSync (.frame h)))))
  · exact .ret (.free (.setF h))

theorem Ends.execPscTxdataWrite {F data} {s : State} : Ends F (Keeps s) (execPscTxdataWrite data s) :=
  .next fun h => .ite (.pscPut h) (.busErr h)

theorem Ends.execPscRxdataRead {F who} {s : State} : Ends F (Keeps s) (execPscRxdataRead who s) :=
  .next fun h => .ite (.pscTake h) (.busErr h)

theorem Canon.gpioMove {s : State} {p v soon} (h : Canon s) : Canon (s.gpioMove p v soon) :=
  .ite (.ite (.setFbit (.setFbit h)) (.setFbit (.setFbit h))) (.setFbit h)

theorem Canon.gpioFollow {s : State} (h : Canon s) : Canon s.gpioFollow :=
  .forEach h (fun _ _ h1 => .ite (.gpioMove (.free h1)) h1)

theorem Canon.gpioPasses {s : State} {p heldNs heldSlow} (h : Canon s) : Canon (s.gpioPasses p heldNs heldSlow).2 :=
  .ite_snd h (.ite_snd h (.free h))

theorem Ends.execGpioEdge {F pin rise heldNs heldSlow sinceNs} {s : State} : Ends F (Keeps s) (execGpioEdge pin rise
    heldNs heldSlow sinceNs s) :=
  .next fun h => .ite h (.ite (.gpioMove (.gpioPasses h)) (.gpioPasses h))

theorem Canon.gpioOut {s : State} {v} (h : Canon s) : Canon (s.gpioOut v) := .gpioFollow (.setF h)
theorem Canon.gpioRaise {s : State} {d} (h : Canon s) : Canon (s.gpioRaise d) := .gpioOut h
theorem Canon.gpioLower {s : State} {d} (h : Canon s) : Canon (s.gpioLower d) := .gpioOut h

theorem Ends.execGpioSet {F data} {s : State} (hF : ReservedStops F R.GPIO_SET data) : Ends F (Keeps s) (execGpioSet
    data s) :=
  .ite (.writeTo hF fun h => .gpioRaise h) (.next fun h => .busErr h)

theorem Ends.execGpioClr {F data} {s : State} (hF : ReservedStops F R.GPIO_CLR data) : Ends F (Keeps s) (execGpioClr
    data s) :=
  .ite (.writeTo hF fun h => .gpioLower h) (.next fun h => .busErr h)

/-! ### Transport -/

theorem Canon.fwAbandon {s : State} (h : Canon s) : Canon s.fwAbandon := .ite (.frame h) h

theorem Canon.closeSession {s : State} {m} (h : Canon s) : Canon (s.closeSession m) :=
  .ite (.modMb (.ite (.fwAbandon h) h)) h

theorem Ends.execSessionIdleTimeout {F m} {s : State} : Ends F (Keeps s) (execSessionIdleTimeout m s) :=
  .next fun h => .ite (.closeSession h) h

theorem Ends.execDoorbellWrite {F who rsp m ackMeets} {s : State} : Ends F (Keeps s) (execDoorbellWrite who rsp m
    ackMeets s) :=
  .next fun h => .ite (.busErr h) (.ite (.rspBell h) (.setFbit h))

theorem Canon.modHsp {s : State} {g} (h : Canon s) : Canon (s.modHsp g) := .frame h
theorem Canon.hspSync {s : State} (h : Canon s) : Canon s.hspSync := .setF (.setF h)

theorem Canon.hspOut {s : State} {rom f} (h : Canon s) : Canon (s.hspOut rom f) :=
  .hspSync (.ite (.flag (.setF (.modHsp h))) (.setF (.modHsp h)))

theorem Canon.hspBusy {s : State} {v} (h : Canon s) : Canon (s.hspBusy v) := .modHsp h

theorem Canon.hspDeliver {s : State} {ch ws cut} (h : Canon s) : Canon (s.hspDeliver ch ws cut) :=
  .ite (.hspBusy h) (.pushReqTag h)

theorem Canon.hspTake {s : State} (h : Canon s) : Canon s.hspTake := by
  unfold State.hspTake
  split
  · exact .ite (.hspDeliver (.ret (.setF (.setF (.setF (.setF (.hspSync (.modHsp h)))))))) (.ret (.setF (.setF (.setF
      (.setF (.hspSync (.modHsp h)))))))
  · exact .ret (.free (.setF h))

theorem Canon.hspPart {s : State} (h : Canon s) : Canon s.hspPart := .modHsp (.flag h)

theorem Canon.hspIn {s : State} {f} (h : Canon s) : Canon (s.hspIn f) :=
  .ite (.hspBusy (.ite (.hspPart h) h)) (.ite (.hspBusy (.ite (.hspPart h) h)) (.ite (.hspBusy (.flag (.ite (.hspPart
  h) h))) (.ite (.hspDeliver (.hspBusy (.ite (.hspPart h) h))) (.forEach (.hspSync (.modHsp (.hspBusy (.ite (.hspPart
  h) h)))) (fun _ _ h1 => .ite h1 (.hspTake h1))))))

theorem Canon.hspFrame {s : State} {rom take op f} (h : Canon s) (htake : ∀ t, Canon t → Canon (take t)) :
    Canon (s.hspFrame rom take op f) := by
  unfold State.hspFrame
  extract_lets bad op' t t1 t2 t3
  have h1 : Canon t1 := .hspOut (.ite (.flag h) h)
  have h2 : Canon t2 := .ite (.hspPart h1) h1
  have h3 : Canon t3 := by
    unfold t3
    clear_value op'
    split
    · exact htake _ h2
    · exact .modHsp h2
    · exact h2
  exact .ite h (.ite (.modHsp h) (.flag (.setReg h3)))

theorem Ends.execHspRxdataRead {F who} {s : State} : Ends F (Keeps s) (execHspRxdataRead who s) :=
  .next fun h => .ite (.hspTake h) (.busErr h)

theorem Canon.hspPut {s : State} {data} (h : Canon s) : Canon (s.hspPut data) := .ite (.hspSync (.modHsp h)) h

theorem Ends.execHspTxdataWrite {F data} {s : State} : Ends F (Keeps s) (execHspTxdataWrite data s) :=
  .next fun h => .ite (.hspPut h) (.busErr h)

theorem Canon.hspOffer {s : State} {c n} (h : Canon s) : Canon (s.hspOffer c n) :=
  .ite (.setF h) (.ite (.setF h) (.rspTaken (.setF h)))

theorem Ends.execHspRsplenWrite {F} {c : Dom} {data} {s : State} (hF : ReservedStops F (R.HSP_RSPLEN c) data) :
    Ends F (Keeps s) (execHspRsplenWrite c data s) := .ite (.writeTo hF fun h => .hspOffer h) (.next fun h => .busErr h)

theorem Canon.udpDatagram {s : State} {mac ip port bs} (h : Canon s) : Canon (s.udpDatagram mac ip port bs).2 :=
  .ite_snd (.frame h) (.ite_snd (by split; exacts [(.pushReq (.modMb h)), h]) (by split; exacts [(.ite_snd (.pushReq
  h) h), h]))

theorem Canon.udpNext {s : State} (h : Canon s) : Canon s.udpNext.2 := by
  unfold State.udpNext
  split
  · exact .rspTaken h
  · exact h

/-! ### Net -/

theorem Canon.modNet {s : State} {g} (h : Canon s) : Canon (s.modNet g) := .frame h
theorem Canon.modPort {s : State} {p g} (h : Canon s) : Canon (s.modPort p g) := .modNet h

theorem Canon.macPut {s : State} {e} (h : Canon s) : Canon (s.macPut e) :=
  .ite (.modNet h) (.ite (.modNet h) (.ite h (.flag h)))

theorem Canon.learn {s : State} {mac vid port} (h : Canon s) : Canon (s.learn mac vid port) := .ite h (.macPut h)
theorem Canon.drop {s : State} {p} (h : Canon s) : Canon (s.drop p) := .ite (.sat h) h
theorem Canon.creditTick {s : State} {q} (h : Canon s) : Canon (s.creditTick q) := .modPort h

theorem Canon.enqueuePkt {s : State} {q p} (h : Canon s) : Canon (s.enqueuePkt q p) :=
  .ite (.drop h) (.ite (.drop (.flag h)) (.modPort (.creditTick h)))

theorem Canon.sendInternal {s : State} {f queue tag} (h : Canon s) : Canon (s.sendInternal f queue tag) :=
  .ite h (.forEach (.learn h) (fun _ _ h1 => .enqueuePkt h1))

theorem Canon.sendBy {s : State} {q f tag} (h : Canon s) : Canon (s.sendBy q f tag) := .ite (.enqueuePkt (.learn h)) h

theorem Canon.followUps {s : State} (h : Canon s) : Canon s.followUps :=
  .foldl h (fun _ _ h1 => by split; exacts [h1, (.sendBy (.modNet h1))])

theorem Canon.followUp {s : State} {f} (h : Canon s) : Canon (s.followUp f) := .ite (.followUps (.modNet h)) h

theorem Canon.ringPut {s : State} {f ingress stamp} (h : Canon s) : Canon (s.ringPut f ingress stamp) :=
  .ite (.flag h) (.setF (.sramStore (.sramStore (.sramLoad h))))

theorem Canon.arp {s : State} {f} (h : Canon s) : Canon (s.arp f) := .ite (.sendInternal h) h

theorem Canon.ipIn {s : State} {f} (h : Canon s) : Canon (s.ipIn f) := by
  unfold State.ipIn
  dsimp only
  exact .ite h (.ite (.ite (.modNet h) h) (.ite (.sendInternal h) (.ite (by split; exacts [(.sendInternal
    (.udpDatagram h)), (.udpDatagram h)]) h)))

theorem Canon.deliver {s : State} {f ingress stamp} (h : Canon s) : Canon (s.deliver f ingress stamp) :=
  .followUp (.ipIn (.arp (.ringPut h)))

theorem Canon.modListener {s : State} {k g} (h : Canon s) : Canon (s.modListener k g) := .modNet h

theorem Canon.strFlag {s : State} {k x} (h : Canon s) : Canon (s.strFlag k x) :=
  .ite (.setFbit (.flag h)) (.irqEvent (.setFbit (.flag h)))

theorem Canon.place {s : State} {k d ts n nch bytes p} (h : Canon s) : Canon (s.place k d ts n nch bytes p) :=
  .forEach h (fun _ _ h1 => .ite (.strFlag (.sat h1)) (.ite h1 (.modListener h1)))

theorem Canon.strSeq {s : State} {k seq} (h : Canon s) : Canon (s.strSeq k seq) :=
  .ite (.sat (.modListener h)) (.modListener h)

theorem Canon.listenOne {s : State} {k f} (h : Canon s) : Canon (s.listenOne k f) :=
  .ite (.ite (.place (.strSeq h)) (.strSeq h)) (.strFlag (.strSeq h))

theorem Canon.listen {s : State} {f} (h : Canon s) : Canon (s.listen f) :=
  .ite (.forEach h (fun _ _ h1 => .listenOne h1)) h

theorem Canon.strWrite {s : State} {k ws} (h : Canon s) : Canon (s.strWrite k ws) :=
  .foldl h (fun _ _ h1 => .writeFrom h1)

theorem Canon.streamLost {s : State} {k} (h : Canon s) : Canon (s.streamLost k) :=
  .raise (.modListener (.setF (.strFlag h)))

theorem Canon.strRamp {s : State} {k fresh} (h : Canon s) : Canon (s.strRamp k fresh) := by
  unfold State.strRamp
  dsimp only
  split
  · exact .ite (.strWrite h) h
  · exact .ite (.streamLost (.strWrite h)) (.modListener (.strWrite h))
  · exact .strWrite h
  · exact .ite (.modListener (.strWrite h)) h

theorem Canon.listenTick {s : State} {k t} (h : Canon s) : Canon (s.listenTick k t) := by
  unfold State.listenTick
  dsimp only
  split
  · exact .strRamp (.ite (.modListener (.setF (.modListener (.modListener (.setF h))))) (.modListener (.modListener
      (.setF h))))
  · exact .strRamp (.ite (.modListener (.modListener (.ite (.strFlag (.sat (.modListener (.setF h)))) (.modListener
      (.setF h))))) (.modListener (.ite (.strFlag (.sat (.modListener (.setF h)))) (.modListener (.setF h)))))

theorem Canon.modTalker {s : State} {k g} (h : Canon s) : Canon (s.modTalker k g) := .modNet h

theorem Canon.talkTick {s : State} {k n} (h : Canon s) : Canon (s.talkTick k n) :=
  .ite (.modTalker (.setF h)) (.ite (.ite (.modTalker (.ite (.modTalker (.sendInternal (.setF h))) (.setF h))) (.setF
  h)) (.modTalker (.ite (.modTalker (.ite (.modTalker (.sendInternal (.setF h))) (.setF h))) (.setF h))))

theorem Canon.seTick {s : State} {d n} (h : Canon s) : Canon (s.seTick d n) :=
  .ite (.forEach h (fun _ _ h1 => .ite (.strFlag h1) (.ite (.talkTick h1) (.listenTick h1)))) h

theorem Canon.forward {s : State} {ingress q vid pcp f stamp sync} (h : Canon s) : Canon (s.forward ingress q vid pcp
    f stamp sync) :=
  .ite h (.ite (.deliver h) (.enqueuePkt h))

theorem Canon.relay {s : State} {p vid pcp f stamp} (h : Canon s) : Canon (s.relay p vid pcp f stamp) :=
  .ite h (.ite (.enqueuePkt h) (.ite (.enqueuePkt h) h))

theorem Canon.accept {s : State} {p f} (h : Canon s) : Canon (s.accept p f) :=
  .ite (.relay (.forward (.listen (.learn h)))) (by split; exacts [(.forEach (.listen (.learn h)) (fun _ _ h1 =>
  .forward h1)), (.forEach (.listen (.learn h)) (fun _ _ h1 => .forward h1))])

theorem Canon.disciplineTu {s : State} {offset} (h : Canon s) : Canon (s.disciplineTu offset) :=
  .ite h (.ite (.stepAnchors (.tuCtrl (.setReg h))) (.setF (.free h)))

theorem Canon.timeMessage {s : State} {offset} (h : Canon s) : Canon (s.timeMessage offset) :=
  .disciplineTu (.anchorKick (.frame h))

theorem Ends.execFrameReceive {F} {el port frame fcsOk offset} {s : State} :
    Ends F (Keeps s) (execFrameReceive el port frame fcsOk offset s) :=
  .next fun h => .ite (.advance h) (.ite (.drop (.advance h)) (.optionElim (.accept (.advance h)) fun _ _ h => .timeMessage h))

theorem Canon.tsfPut {s : State} {info stamp} (h : Canon s) : Canon (s.tsfPut info stamp) :=
  .ite (.flag h) (.modNet h)

theorem Canon.syncSent {s : State} {q info p eg} (h : Canon s) : Canon (s.syncSent q info p eg) :=
  .ite (.tsfPut h) (.followUps (.modNet (.tsfPut h)))

theorem Canon.emit {s : State} {q p} (h : Canon s) : Canon (s.emit q p) := by
  unfold State.emit
  dsimp only
  split
  · exact .tsfPut (.modPort h)
  · exact .ite (.syncSent (.modPort h)) (.modPort h)

theorem Canon.transmit {s : State} {q} (h : Canon s) : Canon (s.transmit q) := by
  unfold State.transmit
  dsimp only
  split
  · exact .ite (.creditTick h) (.sat (.creditTick (.modPort (.creditTick h))))
  · split; exacts [(.ite (.creditTick h) (.sat (.creditTick (.modPort (.creditTick h))))), (.emit (.modPort (.modPort
      (.ite (.creditTick h) (.sat (.creditTick (.modPort (.creditTick h))))))))]

theorem Ends.execEgressTransmit {F el port} {s : State} : Ends F (Keeps s) (execEgressTransmit el port s) :=
  .next fun h => .ite (.transmit (.advance h)) (.advance h)

theorem Canon.sendEntry {s : State} {at_} (h : Canon s) : Canon (s.sendEntry at_) := by
  have hf {b : List Byte} {n} : Canon ((s.sramLoad at_ 8).2.sramLoad (leNat b) n).2 := .sramLoad (.sramLoad h)
  exact .ite (.sendBy hf) (.sendInternal hf)

theorem Ends.execInternalPortTransmit {F el} {s : State} : Ends F (Keeps s) (execInternalPortTransmit el s) :=
  .next fun h => by
    dsimp only
    exact .ite (.advance h) (.ite (.setF (.sramStore (.sramLoad (.sendEntry (.advance h))))) (by split; exacts
      [(.sendInternal (.udpNext (.advance h))), (.udpNext (.advance h))]))

theorem Ends.execMacAgeing {F seconds} {s : State} : Ends F (Keeps s) (execMacAgeing seconds s) :=
  .next fun h => .ite h (.modNet h)

theorem Canon.mtRun {s : State} {op} (h : Canon s) : Canon (s.mtRun op) := by
  unfold State.mtRun
  dsimp only
  split
  · split; exacts [(.setF (.setF (.setF h))), (.setF (.setF h))]
  · exact .macPut (.setF h)
  · exact .modNet (.setF h)
  · exact .modNet (.setF h)

theorem Canon.netDo {s : State} {g} (h : Canon s) (hg : ∀ t, Canon t → Canon (g t)) : Canon (s.netDo g) :=
  .ite (hg _ h) (.busErr h)

theorem Ends.execMtRead {F} {s : State} : Ends F (Keeps s) (execMtRead s) :=
  .next fun h => .netDo h (fun _ h1 => .mtRun h1)

theorem Ends.execMtWriteStatic {F} {s : State} : Ends F (Keeps s) (execMtWriteStatic s) :=
  .next fun h => .netDo h (fun _ h1 => .mtRun h1)

theorem Ends.execMtDelete {F} {s : State} : Ends F (Keeps s) (execMtDelete s) :=
  .next fun h => .netDo h (fun _ h1 => .mtRun h1)

theorem Ends.execMtFlush {F} {s : State} : Ends F (Keeps s) (execMtFlush s) :=
  .next fun h => .netDo h (fun _ h1 => .mtRun h1)

theorem Canon.mdioRun {s : State} {op phy} (h : Canon s) : Canon (s.mdioRun op phy) := by
  unfold State.mdioRun
  dsimp only
  split
  · exact .setF (.setF h)
  · exact .setF h

theorem Ends.execMdioC22Write {F} {s : State} : Ends F (Keeps s) (execMdioC22Write s) :=
  .next fun h => .netDo h (fun _ h1 => .mdioRun h1)

theorem Ends.execMdioC22Read {F phy} {s : State} : Ends F (Keeps s) (execMdioC22Read phy s) :=
  .next fun h => .netDo h (fun _ h1 => .mdioRun h1)

theorem Ends.execMdioC45Address {F} {s : State} : Ends F (Keeps s) (execMdioC45Address s) :=
  .next fun h => .netDo h (fun _ h1 => .mdioRun h1)

theorem Ends.execMdioC45Write {F} {s : State} : Ends F (Keeps s) (execMdioC45Write s) :=
  .next fun h => .netDo h (fun _ h1 => .mdioRun h1)

theorem Ends.execMdioC45Read {F phy} {s : State} : Ends F (Keeps s) (execMdioC45Read phy s) :=
  .next fun h => .netDo h (fun _ h1 => .mdioRun h1)

theorem Canon.tsfTake {s : State} (h : Canon s) : Canon s.tsfTake := by
  unfold State.tsfTake
  split
  · exact .ret (.setF2 (.setF (.setReg (.modNet h))))
  · exact .ret (.setF h)

theorem Ends.execTsfInfoRead {F who} {s : State} : Ends F (Keeps s) (execTsfInfoRead who s) :=
  .next fun h => .netDo h (fun _ h1 => .tsfTake h1)

theorem Canon.dropsTake {s : State} {p hwset} (h : Canon s) : Canon (s.dropsTake p hwset) := .setF (.ret h)

theorem Ends.execDropsRead {F who port hwset} {s : State} : Ends F (Keeps s) (execDropsRead who port hwset s) :=
  .next fun h => .netDo h (fun _ h1 => .dropsTake h1)

theorem Ends.execReceiveClockChange {F port present} {s : State} : Ends F (Keeps s) (execReceiveClockChange port
    present s) :=
  .next fun h => .ite h (.flag (.setF h))

theorem Canon.linkEvent {s : State} {p speed up} (h : Canon s) : Canon (s.linkEvent p speed up) := .raise h

theorem Ends.execLinkDown {F port led} {s : State} : Ends F (Keeps s) (execLinkDown port led s) :=
  .next fun h => .ite (.anchorKick (.frame (.linkEvent (.setF (.setF (.modPort h)))))) (.linkEvent (.setF (.setF
  (.modPort h))))

theorem Canon.tscFromParams {s : State} {p} (h : Canon s) : Canon (s.tscFromParams p) :=
  .setF (.setF (.setF (.setF (.setF (.setF h)))))

theorem Canon.linkStep1 {s : State} {p speed half} (h : Canon s) : Canon (s.linkStep1 p speed half) :=
  .ite (.setF (.tscFromParams (.setF h))) (.linkEvent (.modPort (.setF (.setF (.tscFromParams (.setF h))))))

theorem Ends.execLinkUp {F port speed half step ldelay offset} {s : State} : Ends F (Keeps s) (execLinkUp port speed
    half step ldelay offset s) :=
  .next fun h => .ite (.linkStep1 h) (.ite (.ite (.ite (.linkStep1 h) (.anchorKick (.frame (.setF (.linkStep1 h)))))
  (.disciplineTu (.ite (.linkStep1 h) (.anchorKick (.frame (.setF (.linkStep1 h))))))) (.anchorKick (.setF (.ite (.ite
  (.linkStep1 h) (.anchorKick (.frame (.setF (.linkStep1 h))))) (.disciplineTu (.ite (.linkStep1 h) (.anchorKick
  (.frame (.setF (.linkStep1 h))))))))))

/-! ### Params -/

theorem Canon.withCfg {s : State} {c} (h : Canon s) : Canon (s.withCfg c) :=
  .frame (.forEach h (fun _ _ h1 => .modLe h1))

theorem Canon.under {s : State} {c g} (h : Canon s) (hg : ∀ t, Canon t → Canon (g t)) : Canon (s.under c g) :=
  .withCfg (hg _ (.withCfg h))

/-! ### Apply -/

theorem Canon.applyFld {s : State} {p v} (h : Canon s) : Canon (s.applyFld p v) := by
  unfold State.applyFld
  split
  · exact .setF h
  · exact .setF2 h
  · exact h

theorem Canon.applyFlds {s : State} {ps} (h : Canon s) : Canon (s.applyFlds ps) :=
  .foldl h (fun _ _ h1 => .applyFld h1)

theorem Canon.aspApply {s : State} {p ps} (h : Canon s) : Canon (s.aspApply p ps) :=
  .ite (.aspStop (.modAsp h)) (.ite (.ite (.modAsp (.setReg (.applyFlds h))) (.aspArm (.setReg (.applyFlds h)))) (.ite
  (.ite (.aspSwap (.modAsp h)) (.modAsp h)) (.ite (.modAsp (.applyFlds h)) (.applyFlds h))))

theorem Canon.pdmApply {s : State} {n ps} (h : Canon s) : Canon (s.pdmApply n ps) :=
  .ite (.applyFlds h) (.pdmEnable (.applyFlds h))

theorem Canon.srcApply {s : State} {g ps} (h : Canon s) : Canon (s.srcApply g ps) :=
  .ite (.applyFlds h) (.srcEnable (.applyFlds h))

theorem Canon.strRestart {s : State} {k} (h : Canon s) : Canon (s.strRestart k) :=
  .ite (.modTalker (.setF (.setF h))) (.ite (.setReg (.setReg (.setReg (.modListener (.setF (.setF h))))))
  (.modListener (.setF (.setF h))))

theorem Canon.strApply {s : State} {k ps} (h : Canon s) : Canon (s.strApply k ps) :=
  .ite (by split; exacts [(.setF2 (.applyFlds h)), (.applyFlds h)]) (.strRestart (by split; exacts [(.setF2
  (.applyFlds h)), (.applyFlds h)]))

theorem Canon.setBlock {s : State} {x v} (h : Canon s) : Canon (s.setBlock x v) :=
  .forEach h (fun _ _ h1 => .setReg h1)

theorem Canon.iecRxApply {s : State} {ps} (h : Canon s) : Canon (s.iecRxApply ps) :=
  .ite (.applyFlds h) (.iecRxEnable (.applyFlds h))

theorem Canon.iecTxApply {s : State} {ps} (h : Canon s) : Canon (s.iecTxApply ps) := by
  unfold State.iecTxApply
  extract_lets t cs t1 t2 t3
  have h1 : Canon t1 := by
    unfold t1
    split
    · exact .setBlock (.applyFlds h)
    · exact .applyFlds h
  have h2 : Canon t2 := by
    unfold t2
    split
    · exact .setBlock h1
    · exact h1
  have h3 : Canon t3 := .ite (.iecCapSet h2) h2
  exact .ite h3 (.iecTxEnable h3)

theorem Canon.unitApply {s : State} {c i tx ps} (h : Canon s) : Canon (s.unitApply c i tx ps) :=
  .ite h (.ite (.aspApply h) (.ite (.pdmApply h) (.ite (.ite (.iecTxApply h) (.iecRxApply h)) (.ite (.srcApply h)
  (.strApply h)))))

theorem Canon.unitsApply {s : State} {ps} (h : Canon s) : Canon (s.unitsApply ps) :=
  .foldl h (fun _ _ h1 => .unitApply h1)

theorem Canon.routeApply {s : State} {p v} (h : Canon s) : Canon (s.routeApply p v) := .setReg h
theorem Canon.clearUnrouted {s : State} (h : Canon s) : Canon s.clearUnrouted := ⟨smapWf_filter h.1, h.2⟩

theorem Canon.acsRefApply {s : State} {a ref hz} (h : Canon s) : Canon (s.acsRefApply a ref hz) :=
  .acsUpdate (.setReg (.setReg (.setReg (.setReg h))))

theorem Canon.acsLimitApply {s : State} {a} (h : Canon s) : Canon (s.acsLimitApply a) :=
  .ite (.acsUpdate h) (.acsUpdate (.setReg (.setReg (.setReg h))))

theorem Canon.deviceApply {s : State} {new ps} (h : Canon s) : Canon (s.deviceApply new ps) :=
  .forEach (.ite (.setF (.applyFlds h)) (.applyFlds h)) (fun _ _ h1 => .ite (.acsLimitApply (.ite (.acsRefApply h1)
  h1)) (.ite (.acsRefApply h1) h1))

theorem Canon.macApply {s : State} {old new} (h : Canon s) : Canon (s.macApply old new) := by
  unfold State.macApply
  dsimp only
  split
  · exact .macPut (by split; exacts [(.modNet h), h])
  · split; exacts [(.modNet h), h]

theorem Canon.netApply {s : State} {old ps} (h : Canon s) : Canon (s.netApply old ps) :=
  .foldl h (fun _ _ h1 => .ite (.setF (.setF h1)) (.ite (.macApply h1) (.applyFld h1)))

theorem Canon.pulseApply {s : State} {k old new ps} (h : Canon s) : Canon (s.pulseApply k old new ps) :=
  .ite (.ite h (.ite (.setF2 (.setF (.applyFlds h))) (.applyFlds h))) (.ite (.tpArm (.ite h (.ite (.setF2 (.setF
  (.applyFlds h))) (.applyFlds h)))) (.tpDisarm (.ite h (.ite (.setF2 (.setF (.applyFlds h))) (.applyFlds h)))))

theorem Canon.timeApply {s : State} {old new ps} (h : Canon s) : Canon (s.timeApply old new ps) :=
  .pulseApply (.pulseApply (.applyFlds h))

theorem Canon.netKeepSync {s : State} (h : Canon s) : Canon s.netKeepSync := .setF h

theorem Canon.powerApply {s : State} {ps} (h : Canon s) : Canon (s.powerApply ps) := by
  unfold State.powerApply
  dsimp only
  split
  · exact .setF (.netKeepSync (.applyFlds h))
  · exact .netKeepSync (.applyFlds h)

theorem Canon.uartApply {s : State} {u ps} (h : Canon s) : Canon (s.uartApply u ps) := by
  unfold State.uartApply
  extract_lets base mine get t t1 t2 t3 late
  have h1 : Canon t1 := by
    unfold t1
    split
    · exact .setF (.setF (.applyFlds h))
    · exact .applyFlds h
  have h2 : Canon t2 := by
    unfold t2
    split
    · exact .setF h1
    · exact h1
  have h3 : Canon t3 := by
    unfold t3
    split
    · exact .setF h2
    · exact h2
  exact .ite h (.ite (.uartSync h3) (.uartSync (.modUart (.setReg (.setReg h3)))))

theorem Canon.serialApply {s : State} {ps} (h : Canon s) : Canon (s.serialApply ps) := by
  unfold State.serialApply
  extract_lets t t1 t2
  have h1 : Canon t1 := .applyFlds (.forEach h fun _ _ h => .uartApply h)
  have h2 : Canon t2 := by
    unfold t2
    split
    · exact .setF h1
    · exact h1
  split
  · exact .setF h2
  · exact h2

theorem Canon.globalApply {s : State} {old new ps} (h : Canon s) : Canon (s.globalApply old new ps) :=
  .unitsApply (.serialApply (.applyFlds (.powerApply (.timeApply (.netApply (.deviceApply h))))))

/-! ### Health -/

theorem Canon.predict {s : State} {num d} (h : Canon s) : Canon (s.predict num d) := .modLehr h

theorem Canon.noteShadow {s : State} {old : State} (h : Canon s) : Canon (s.noteShadow old) :=
  .ite (.predict h) h

theorem Canon.retireEngine {s : State} {e cause} (h : Canon s) : Canon (s.retireEngine e cause) := by
  unfold State.retireEngine
  dsimp only
  split
  · split; exacts [(.ite (.rampOut (.modLe (.modEng h))) (.resumeShadow (.ite (.endShadow (.modLe (.modEng h)))
      (.modLe (.modEng h))))), (.modEng h)]
  · exact .ite (.modEng h) (.fillPunty (.ite (.toBist (.endShadow h)) (.cullEngine (.endShadow h))))
  · exact .ite h (.cullEngine h)
  · exact .modEng h
  · exact h

theorem Canon.cloneGo {s : State} (h : Canon s) : Canon s.cloneGo := .ite (.startClone h) h

theorem Ends.execCloneStart {F punty le} {s : State} : Ends F (Keeps s) (execCloneStart punty le s) :=
  .next fun h => .ite (.cloneGo (.setF (.setF h))) (.busErr h)

theorem Canon.mirror {s : State} {hd p l} (h : Canon s) : Canon (s.mirror hd p l) := .loadMeters (.modEng h)

theorem Ends.execCloneCopyDone {F} {s : State} : Ends F (Keeps s) (execCloneCopyDone s) :=
  .next fun h => .ite (.frame (.setF (.setF (.setScuState (.mirror h))))) h

theorem Ends.execCompareWindowDone {F} {s : State} : Ends F (Keeps s) (execCompareWindowDone s) :=
  .next fun h => .ite (.noteShadow (.resumeShadow (.endShadow (.unforce (.modLe (.flag h)))))) h

theorem Ends.execShadowAbort {F} {s : State} : Ends F (Keeps s) (execShadowAbort s) :=
  .next fun h => .ite (.endShadow h) (.busErr h)

theorem Canon.handoverGo {s : State} (h : Canon s) : Canon s.handoverGo :=
  .ite (.armHandover h) (.ite (.ite (.startCold h) (.ite (.startSelf h) h)) h)

theorem Ends.execHandoverRequest {F cold incoming outgoing le} {s : State} : Ends F (Keeps s) (execHandoverRequest
    cold incoming outgoing le s) :=
  .next fun h => .ite (.handoverGo (.setF (.setF (.setF (.setF h))))) (.busErr h)

theorem Canon.zeroLines {s : State} {l} (h : Canon s) : Canon (s.zeroLines l) :=
  .forEach h (fun _ _ h1 => .zeroLine h1)

theorem Ends.execShadowForce {F le} {s : State} : Ends F (Keeps s) (execShadowForce le s) :=
  .next fun h => .ite (.noteShadow (.resumeShadow (.ite (.endShadow (.modLehr h)) (.modLehr h)))) h

theorem Ends.execCheckOverdue {F le} {s : State} : Ends F (Keeps s) (execCheckOverdue le s) :=
  .next fun h => .ite (.raise (.modLe h)) h

theorem Canon.ageGo {s : State} (h : Canon s) : Canon s.ageGo := .frame (.setF h)
theorem Ends.execAgeMeasure {F} {s : State} : Ends F (Keeps s) (execAgeMeasure s) := .next fun h => .ageGo h
theorem Canon.ageDue {s : State} {start} (h : Canon s) : Canon (s.ageDue start) := .ite (.ageGo h) h
theorem Canon.slowdown {s : State} {i} (h : Canon s) : Canon (s.slowdown i).2 := .ite_snd (.free h) h
theorem Canon.agingEvent {s : State} {code i fmax sl} (h : Canon s) : Canon (s.agingEvent code i fmax sl) := .raise h
theorem Canon.setFmax {s : State} {e n} (h : Canon s) : Canon (s.setFmax e n) := .setF (.setF (.setF h))

theorem Canon.derate {s : State} {e sl} (h : Canon s) : Canon (s.derate e sl) :=
  .ite (.modEng h) (.ite (.retireEngine (.agingEvent (.setFmax (.modEng h)))) (by split; exacts [(.ite (.ite
  (.retireEngine (.agingEvent (.setFmax (.modEng h)))) (.agingEvent (.agingEvent (.setFmax (.modEng h)))))
  (.agingEvent (.setFmax (.modEng h)))), (.agingEvent (.setFmax (.modEng h)))]))

theorem Canon.ageAlarm {s : State} {i sl} (h : Canon s) : Canon (s.ageAlarm i sl) := .ite (.agingEvent (.free h)) h

theorem Ends.execAgeMeasureDone {F cnt} {s : State} : Ends F (Keeps s) (execAgeMeasureDone cnt s) :=
  .next fun h => .ite (.forEach (.flag (.setF (.forEach h (fun _ _ h1 => .setF h1)))) (fun _ _ h1 => .ite (.derate
  (.slowdown h1)) (.ageAlarm (.slowdown h1)))) h

theorem Ends.execAgeFmaxWrite {F} {e : Eng} {n} {s : State} (hF : ReservedStops F (R.AGE_FMAX e) n) :
    Ends F (Keeps s) (execAgeFmaxWrite e n s) := .writeTo hF fun h => .ite (.setFmax h) h

/-! ### Lehr -/

theorem Canon.estimate {s : State} {ns} (h : Canon s) : Canon (s.estimate ns).2 := .frame h

theorem Canon.pauseBackground {s : State} (h : Canon s) : Canon s.pauseBackground :=
  .ite (.predict (.endShadow (.modLehr h))) (.endShadow (.modLehr h))

theorem Canon.lehrMove {s : State} {l t} (h : Canon s) : Canon (s.lehrMove l t) := .ite h (.modLehr (.lehrCommit h))

theorem Canon.lehrOver {s : State} {p tj} (h : Canon s) : Canon (s.lehrOver p tj) :=
  .ite (.pauseBackground (.modLehr h)) (by split; exacts [(.lehrMove (.modLehr h)), (.ite (.modLehr h) (.raise
  (.modLehr (.modLehr h))))])

theorem Canon.lehrCalm {s : State} {p} (h : Canon s) : Canon (s.lehrCalm p) :=
  .ite (.modLehr h) (.ite (.resumeShadow (.predict (.modLehr (.modLehr h)))) (by split; exacts [(.lehrMove (.modLehr
  h)), (.modLehr h)]))

theorem Canon.restorePins {s : State} (h : Canon s) : Canon s.restorePins :=
  .ite h (.ite (.modLehr h) (.lehrCommit (.modLehr h)))

theorem Canon.avsUpdate {s : State} (h : Canon s) : Canon s.avsUpdate :=
  .ite (.avsRequest (.modLehr h)) (.ite (.avsRequest (.modLehr h)) (.modLehr h))

theorem Canon.lehrP {s : State} {measured} (h : Canon s) : Canon (s.lehrP measured).2 := .ite_snd h (.modLehr h)

theorem Canon.lehrDecide {s : State} {measured} (h : Canon s) : Canon (s.lehrDecide measured) :=
  .ite (.modLehr (.modLehr (.lehrP h))) (.ageDue (.resumeShadow (.avsUpdate (.ite (.lehrOver (.restorePins (.modLehr
  (.lehrP h)))) (.ite (.lehrCalm (.restorePins (.modLehr (.lehrP h)))) (.modLehr (.restorePins (.modLehr (.lehrP
  h)))))))))

theorem Canon.eccTrend {s : State} {e} (h : Canon s) : Canon (s.eccTrend e) :=
  .ite (.retireEngine (.modEng (.modEng h))) (.modEng (.modEng h))

theorem Ends.execWindowEnd {F el acts lengthNs} {s : State} : Ends F (Keeps s) (execWindowEnd el acts lengthNs s) :=
  .next fun h => by
    dsimp only
    exact .ite (.ite (.lehrDecide (.forEach (.wrap (.flag (.setF (.setF (.estimate (.forEach (.advance h) (fun _ _
      h1 => .setF h1))))))) (fun _ _ h1 => .eccTrend h1))) (.wrap (.flag (.setF (.setF (.estimate (.forEach (.advance
      h) (fun _ _ h1 => .setF h1)))))))) (.advance h)

theorem Canon.hardBegin {s : State} (h : Canon s) : Canon s.hardBegin :=
  .ite (.lehrCommit (.modLehr (.pauseBackground (.raise (.flag (.setF h)))))) (.modLehr (.pauseBackground (.raise
  (.flag (.setF h)))))

theorem Canon.hardEnd {s : State} (h : Canon s) : Canon s.hardEnd :=
  .noteShadow (.resumeShadow (.restorePins (.modLehr (.raise (.setF h)))))

theorem Canon.trip {s : State} (h : Canon s) : Canon s.trip :=
  .ite h (.forEach (.frame (.setF h)) (fun _ _ h1 => .modDom h1))

theorem Canon.tsuRead {s : State} {t} (h : Canon s) : Canon (s.tsuRead t) :=
  .setF (.setF (.setF (.forEach h (fun _ _ h1 => .setF h1))))

theorem Ends.execTsuSample {F el t} {s : State} : Ends F (Keeps s) (execTsuSample el t s) :=
  .next fun h => .ite (.frame (.setF (.ite (.irqEvent (.ite (.trip (.ite (.hardBegin (.modLehr (.tsuRead (.advance
  h)))) (.ite (.hardEnd (.modLehr (.tsuRead (.advance h)))) (.modLehr (.tsuRead (.advance h)))))) (.ite (.hardBegin
  (.modLehr (.tsuRead (.advance h)))) (.ite (.hardEnd (.modLehr (.tsuRead (.advance h)))) (.modLehr (.tsuRead
  (.advance h))))))) (.ite (.trip (.ite (.hardBegin (.modLehr (.tsuRead (.advance h)))) (.ite (.hardEnd (.modLehr
  (.tsuRead (.advance h)))) (.modLehr (.tsuRead (.advance h)))))) (.ite (.hardBegin (.modLehr (.tsuRead (.advance
  h)))) (.ite (.hardEnd (.modLehr (.tsuRead (.advance h)))) (.modLehr (.tsuRead (.advance h))))))))) (.ite (.irqEvent
  (.ite (.trip (.ite (.hardBegin (.modLehr (.tsuRead (.advance h)))) (.ite (.hardEnd (.modLehr (.tsuRead (.advance
  h)))) (.modLehr (.tsuRead (.advance h)))))) (.ite (.hardBegin (.modLehr (.tsuRead (.advance h)))) (.ite (.hardEnd
  (.modLehr (.tsuRead (.advance h)))) (.modLehr (.tsuRead (.advance h))))))) (.ite (.trip (.ite (.hardBegin (.modLehr
  (.tsuRead (.advance h)))) (.ite (.hardEnd (.modLehr (.tsuRead (.advance h)))) (.modLehr (.tsuRead (.advance h))))))
  (.ite (.hardBegin (.modLehr (.tsuRead (.advance h)))) (.ite (.hardEnd (.modLehr (.tsuRead (.advance h)))) (.modLehr
  (.tsuRead (.advance h)))))))

/-! ### Stg -/

theorem Canon.modStg {s : State} {g} (h : Canon s) : Canon (s.modStg g) := .frame h
theorem Canon.modHead {s : State} {g} (h : Canon s) : Canon (s.modHead g) := .modStg h

theorem Canon.takeIncoming {s : State} {first boot} (h : Canon s) : Canon (s.takeIncoming first boot).2 :=
  .ite_snd h (by split; exacts [(.setRole (.endShadow h)), (by split; exacts [(.setRole (.setMode (.powerEng h))),
  h])])

theorem Canon.loadIncoming {s : State} {new e l} (h : Canon s) : Canon (s.loadIncoming new e l) :=
  .modLe (.startClear (.under h (fun _ h1 => .loadTier (.loadFields (.loadBanks h1)))))

theorem Canon.beginInstalls {s : State} {new ins boot} (h : Canon s) : Canon (s.beginInstalls new ins boot) := by
  have hs : Canon (ins.foldl (fun (acc : Bool × State) (l : Nat) =>
      let s := acc.2
      if (new.le l).image = [] then acc
      else
        match s.takeIncoming acc.1 boot with
        | (some e, s) => (false, s.loadIncoming new e l)
        | (none, s) => (false, if (s.le l).entry ≠ .none ∨ s.coldDue l then s else s.modLe l fun x => { x with entry := .reload }))
      (true, s)).2 := by
    refine .foldl_snd h fun q l hq => ?_
    dsimp only
    split
    · exact hq
    · have ht := Canon.takeIncoming (first := q.1) (boot := boot) hq
      split <;> rename_i e
      · exact .loadIncoming (.of_snd e ht)
      · exact .ite (.of_snd e ht) (.modLe (.of_snd e ht))
  exact .ite (.settleFree hs) (.ite hs (.fillPunty (.ite (.frame hs) hs)))

theorem Canon.writeShadow {s : State} {new l} (h : Canon s) : Canon (s.writeShadow new l) :=
  .forEach h (fun _ _ h1 => .modEng h1)

theorem Canon.zeroPlaced {s : State} {x} (h : Canon s) : Canon (s.zeroPlaced x) := .frame h

theorem Canon.stageHead {s : State} {e} (h : Canon s) : Canon (s.stageHead e) :=
  .ite (.avsRequest (.modStg (.foldl (.forEach (.forEach (.beginInstalls (.setReg (.setPhase (.modHead (.modStg h)))))
  (fun _ _ h1 => .writeShadow h1)) (fun _ _ h1 => .startHalf h1)) (fun _ _ h1 => .zeroPlaced h1)))) (.foldl (.forEach
  (.forEach (.beginInstalls (.setReg (.setPhase (.modHead (.modStg h))))) (fun _ _ h1 => .writeShadow h1)) (fun _ _ h1
  => .startHalf h1)) (fun _ _ h1 => .zeroPlaced h1))

theorem Ends.execEpochWrite {F goldenBad} {s : State} : Ends F (Keeps s) (execEpochWrite goldenBad s) :=
  .next fun h => .ite h (by split; exacts [h, (.ite h (.ite (.stageHead (.modHead h)) (.stageHead h)))])

theorem Canon.reloadLists {s : State} {l} (h : Canon s) : Canon (s.reloadLists l) :=
  .forEach h (fun _ _ h1 => .modEng h1)

theorem Canon.takeTier {s : State} {e t} (h : Canon s) : Canon (s.takeTier e t) := .ite h (.modEng (.setF (.setF h)))
theorem Canon.takeClock {s : State} {e n} (h : Canon s) : Canon (s.takeClock e n) := .modEng (.setF (.setF h))

theorem Canon.leSwap {s : State} {l} (h : Canon s) : Canon (s.leSwap l) :=
  .forEach h (fun _ _ h1 => .takeClock (.takeTier (.swapBanks (.forEach h1 (fun _ _ h2 => .setF h2)))))

theorem Canon.outgoingLeaves {s : State} {e} (h : Canon s) : Canon (s.outgoingLeaves e) :=
  .modEng (.startClear (.leaveService h))

theorem Canon.leDepart {s : State} {l running} (h : Canon s) : Canon (s.leDepart l running) := by
  unfold State.leDepart
  dsimp only
  split
  · exact .ite (.modLe (.modLe (.endShadowOf h))) (.modLe (.outgoingLeaves (.modLe (.endShadowOf h))))
  · exact .endShadowOf h

theorem Canon.outgoingEnds {s : State} {e} (h : Canon s) : Canon (s.outgoingEnds e) :=
  .ite (.toBist h) (.outgoingLeaves h)

theorem Canon.dropIncoming {s : State} {l} (h : Canon s) : Canon (s.dropIncoming l) :=
  .modLe (by split; exacts [(.outgoingLeaves (.ite (.outgoingLeaves (.scuIdle h)) h)), (.modEng (.ite (.outgoingLeaves
  (.scuIdle h)) h)), (.ite (.outgoingLeaves (.scuIdle h)) h)])

theorem Canon.startReload {s : State} {l e} (h : Canon s) : Canon (s.startReload l e) :=
  .modLe (.startClear (.leaveService h))

theorem Canon.leavingEnd {s : State} {l} (h : Canon s) : Canon (s.leavingEnd l) := by
  unfold State.leavingEnd
  split
  · extract_lets x t t1
    have h1 : Canon t := by
      unfold t
      split
      · exact .outgoingEnds h
      · exact h
    exact .ite (.startReload (.modLe h1)) (.outgoingLeaves (.modLe h1))
  · exact h

theorem Canon.stayBehind {s : State} {l hd od f out} (h : Canon s) : Canon (s.stayBehind l hd od f out) :=
  .modLe (by split; exacts [(.outgoingEnds (.leavingEnd h)), (.leavingEnd h)])

theorem Canon.leLeave {s : State} {l od running} (h : Canon s) : Canon (s.leLeave l od running) := by
  unfold State.leLeave
  dsimp only
  split
  · exact .ite (.modLe (by split; exacts [(.outgoingEnds (.endShadowOf h)), (.endShadowOf h)])) (.leavingEnd (.modLe
      (by split; exacts [(.outgoingEnds (.endShadowOf h)), (.endShadowOf h)])))
  · exact .ite (.stayBehind (.endShadowOf h)) (.leavingEnd (.stayBehind (.endShadowOf h)))
  · exact .endShadowOf h

theorem Canon.leMove {s : State} {l od} (h : Canon s) : Canon (s.leMove l od) := by
  unfold State.leMove
  split
  · exact .stayBehind (.endShadowOf h)
  · exact h

theorem Canon.installOwn {s : State} {l falls} (h : Canon s) : Canon (s.installOwn l falls) := by
  unfold State.installOwn
  dsimp only
  split
  · exact .ite (.modLe (.modLe h)) (.startReload (.modLe h))
  · exact .startReload h
  · exact .modLe h

theorem Canon.leInstall {s : State} {l dom n hadImage} (h : Canon s) : Canon (s.leInstall l dom n hadImage) := by
  unfold State.leInstall
  extract_lets t x t1 w falls t2 u u1 u2 r
  have h2 : Canon t2 := .ite (.modLe (.endShadowOf h)) (.setFbit (.modLe (.endShadowOf h)))
  split
  · have k1 : Canon u1 := by
      unfold u1
      split
      · exact .ite (.modEng (.dropIncoming h2)) (.dropIncoming h2)
      · exact .dropIncoming h2
    have k2 : Canon u2 := by
      unfold u2
      split
      · exact .outgoingEnds k1
      · exact k1
    extract_lets v
    have k3 : Canon v := .modLe (.goLive k2)
    split
    · exact .ite (.modLe k3) (.outgoingEnds k3)
    · exact k3
  · exact h2
  · exact h2
  · exact .frame (.setF (.setScuState (.startClear h2)))
  · split
    · exact .ite (.modLe h2) (.toBist (.modLe h2))
    · exact h2
  · exact .ite h2 (.installOwn h2)
  · exact .ite h2 (.installOwn h2)

theorem Canon.reloadWaiting {s : State} {l num} (h : Canon s) : Canon (s.reloadWaiting l num) := by
  unfold State.reloadWaiting
  split
  · exact .setF (.loadAll h)
  · exact h

theorem Canon.leRestart {s : State} {l} (h : Canon s) : Canon (s.leRestart l) := by
  unfold State.leRestart
  dsimp only
  split
  · exact .modLe (by split; exacts [(.outgoingEnds (.zeroLines (.loadTier (.loadState (.modEng (.endShadowOf h)))))),
      (.zeroLines (.loadTier (.loadState (.modEng (.endShadowOf h)))))])
  · exact .endShadowOf h

theorem Canon.stopGroup {s : State} {l} (h : Canon s) : Canon (s.stopGroup l) :=
  .ite (.endShadow (.forEach (.forEach h (fun _ _ h1 => .setF (.setF h1))) (fun _ _ h1 => .setF h1))) (.forEach
  (.forEach h (fun _ _ h1 => .setF (.setF h1))) (fun _ _ h1 => .setF h1))

theorem Canon.startAll {s : State} {ds} (h : Canon s) : Canon (s.startAll ds) :=
  .forEach h (fun _ _ h1 => .ite (.ite (.anchorStart h1) (.startDomain h1)) h1)

theorem Canon.domainsApply {s : State} {old new e l stopped} (h : Canon s) : Canon (s.domainsApply old new e l
    stopped) :=
  .ite h (.ite (.startAll (.ite (.forEach (.forEach (.applyFlds h) (fun _ _ h1 => .setDomPhase h1)) (fun _ _ h1 =>
  .leRestart h1)) (.forEach (.applyFlds h) (fun _ _ h1 => .setDomPhase h1)))) (.ite (.forEach (.forEach (.applyFlds h)
  (fun _ _ h1 => .setDomPhase h1)) (fun _ _ h1 => .leRestart h1)) (.forEach (.applyFlds h) (fun _ _ h1 => .setDomPhase
  h1))))

theorem Canon.freeLines {s : State} {e l} (h : Canon s) : Canon (s.freeLines e l) :=
  .forEach h (fun _ _ h1 => .setF h1)

theorem Canon.putLines {s : State} {e l dom} (h : Canon s) : Canon (s.putLines e l dom) :=
  .foldl h (fun _ _ h1 => .setF (.setF (.setF (.setF (.setF h1)))))

theorem Canon.leInstallSwap {s : State} {old new e ds n l} (h : Canon s) : Canon (s.leInstallSwap old new e ds n l) := by
  unfold State.leInstallSwap
  extract_lets od nd hadImage moves t u v
  have ht : Canon t := .ite (.leLeave (.freeLines h)) h
  have hv : Canon v := .putLines (.unforce (.ite (.ite ht (.leMove ht)) (.freeLines ht)))
  exact .ite (.ite (.modLe (.dropIncoming (.ite hv (.leDepart hv)))) (.under hv fun _ h => .reloadLists (.leInstall h))) ht

theorem Canon.leGroupSwap {s : State} {old new e ds n l} (h : Canon s) : Canon (s.leGroupSwap old new e ds n l) :=
  .ite (.under (.ite (.leInstallSwap h) (.ite (.ite (.modLe h) (.under (.modLe h) (fun _ h1 => .reloadLists (.ite
  (.leSwap h1) h1)))) h)) (fun _ h1 => .reloadWaiting h1)) (.ite (.leInstallSwap h) (.ite (.ite (.modLe h) (.under
  (.modLe h) (fun _ h1 => .reloadLists (.ite (.leSwap h1) h1)))) h))

theorem Canon.unitsSwap {s : State} {old new e ds n} (h : Canon s) : Canon (s.unitsSwap old new e ds n) :=
  .forEach (.unitsApply (.forEach (.foldl h (fun _ _ h1 => .routeApply h1)) (fun _ _ h1 => .leGroupSwap h1))) (fun _ _
  h1 => .setF h1)

theorem Canon.logAdd {s : State} {x} (h : Canon s) : Canon (s.logAdd x) := .frame h

theorem Canon.predictTiers {s : State} {e old new} (h : Canon s) : Canon (s.predictTiers e old new) :=
  .ite (.predict h) h

theorem Canon.applyEpoch {s : State} {e} (h : Canon s) : Canon (s.applyEpoch e) := by
  unfold State.applyEpoch
  extract_lets old new s1 s2 s3 s4 x s5 s6 s7 s8 s9
  have h1 : Canon s1 := .globalApply (.predictTiers h)
  have h4 : Canon s4 := .setF (.setF (.flag (.setReg (.setF (.withCfg h1)))))
  have h8 : Canon s8 := .raise (.setPhase (.modStg (.jMirror (.jGather (.logAdd h4)))))
  have h9 : Canon s9 := .ite h8 (.noSpare h8)
  exact .ite (.anchorKick h9) h9

theorem Canon.groupSwap {s : State} {l n} (h : Canon s) : Canon (s.groupSwap l n) := by
  unfold State.groupSwap
  split
  · exact h
  · exact .modStg (.setFbit (.setFbit (.setPhase (.setF (.ite (.clearUnrouted (.domainsApply (.unitsSwap (.ite
      (.stopGroup (.ite (.modHead h) h)) (.ite (.modHead h) h))))) (.domainsApply (.unitsSwap (.ite (.stopGroup (.ite
      (.modHead h) h)) (.ite (.modHead h) h)))))))))

theorem Canon.applyIfDone {s : State} (h : Canon s) : Canon s.applyIfDone :=
  .ite (by split; exacts [(.applyEpoch h), h]) h

theorem Canon.armClocks {s : State} {e} (h : Canon s) : Canon (s.armClocks e) :=
  .foldl h (fun _ _ h1 => .forEach h1 (fun _ _ h2 => .setF h2))

theorem Canon.arm {s : State} (h : Canon s) : Canon s.arm := by
  unfold State.arm
  split
  · exact h
  · exact .ite h (.applyIfDone (.ite (.forEach (.armClocks (.setF (.ite (.modHead (.modStg (.setPhase h))) (.modStg
      (.setPhase h))))) (fun _ _ h1 => .groupSwap h1)) (.setPhase (.forEach (.armClocks (.setF (.ite (.modHead
      (.modStg (.setPhase h))) (.modStg (.setPhase h))))) (fun _ _ h1 => .groupSwap h1)))))

theorem Ends.execUnitAck {F unit} {s : State} : Ends F (Keeps s) (execUnitAck unit s) :=
  .next fun h => .ite (.modStg h) h

theorem Canon.goDefer {s : State} {l n} (h : Canon s) : Canon (s.goDefer l n) := by
  unfold State.goDefer
  split
  · exact h
  · exact .ite (.ite (.modStg h) (.ite (.raise (.modStg (.sat (.flag (.setReg h))))) (.modStg (.sat (.flag (.setReg
      h)))))) h

theorem Canon.reconcile {s : State} (h : Canon s) : Canon s.reconcile :=
  .forEach h (fun _ _ h1 => .forEach h1 (fun _ _ h2 => .modEng h2))

theorem Canon.reconcileDone {s : State} {goldenBad} (h : Canon s) : Canon (s.reconcileDone goldenBad) := by
  unfold State.reconcileDone
  dsimp only
  exact .ite h (by split; exacts [(.modStg (.setPhase (.flag (.reconcile h)))), (by split; exacts [(.hostFault
    (.modStg (.setPhase (.flag (.reconcile h))))), (.modStg (.setPhase (.flag (.reconcile h))))])])

theorem Ends.execStgMetdataRead {F who} {s : State} : Ends F (Keeps s) (execStgMetdataRead who s) :=
  .next fun h => .ite (.busErr h) (.ite (.ret (.setReg h)) (.ret (.modStg (.setReg (.setReg (.setReg h))))))

theorem Canon.loadNow {s : State} {e l} (h : Canon s) : Canon (s.loadNow e l) :=
  .setF (.under h (fun _ h1 => .loadAll h1))

theorem Canon.joinEpoch {s : State} {p l} (h : Canon s) : Canon (s.joinEpoch p l) := by
  unfold State.joinEpoch
  split
  · exact .ite h (.ite (.writeShadow h) (.ite (.foldl (.writeShadow h) (fun _ _ h1 => .setF h1)) (.modStg (.foldl
      (.writeShadow h) (fun _ _ h1 => .setF h1)))))
  · exact h

theorem Ends.execCloneLoadDone {F} {s : State} : Ends F (Keeps s) (execCloneLoadDone s) :=
  .next fun h => .ite (.setScuState (.setF (.joinEpoch (.under h (fun _ h1 => .loadFields (.loadBanks h1)))))) h

theorem Ends.execColdLoadDone {F} {s : State} : Ends F (Keeps s) (execColdLoadDone s) :=
  .next fun h => .ite (.frame (.setScuState (.zeroLines (.loadNow (.setF (.setMode (.modEng h))))))) h

theorem Ends.execClearDone {F e} {s : State} : Ends F (Keeps s) (execClearDone e s) :=
  .next fun h => .ite (by
    extract_lets t
    have hc : Canon t := .setF (.setMode (.modEng h))
    split
    · exact .under hc fun _ h => .loadState h
    · split
      · exact .modLe (.zeroLines (.loadNow hc))
      · exact .ite (.resumeShadow (.freeEngine hc)) (.goOn hc)) h

/-! ### Tick -/

theorem Canon.shadowMismatch {s : State} {kind idx out} (h : Canon s) : Canon (s.shadowMismatch kind idx out) :=
  .ite (.modLe (.armHandover (.raise (.forEach (.recordFault h) (fun _ _ h1 => .modEng h1))))) (.raise (.forEach
  (.recordFault h) (fun _ _ h1 => .modEng h1)))

theorem Canon.compareOutputs {s : State} (h : Canon s) : Canon s.compareOutputs := by
  unfold State.compareOutputs
  dsimp only
  exact .ite (by split; exacts [(.shadowMismatch (.flag (.frame h))), (.ite (.sat (.frame h)) (.frame h))]) h

theorem Canon.passEnd {s : State} {e} (h : Canon s) : Canon (s.passEnd e) :=
  .ite (.compareOutputs (.frame (.finishPass h))) (.finishPass h)

theorem Ends.execPassDone {F e} {s : State} : Ends F (Keeps s) (execPassDone e s) :=
  .next fun h => .ite h (.passEnd (.ite (.runPass h) h))

theorem Canon.abandonPass {s : State} {e} (h : Canon s) : Canon (s.abandonPass e) := .modEng h
theorem Canon.overrunEvent {s : State} {l e} (h : Canon s) : Canon (s.overrunEvent l e) := .raise h

theorem Canon.hostOverrun {s : State} {l e} (h : Canon s) : Canon (s.hostOverrun l e) :=
  .ite (.hostFault (.modLe (.frame (.overrunEvent (.setFbit h))))) (.modLe (.frame (.overrunEvent (.setFbit h))))

theorem Canon.puntyOverrun {s : State} {l p both} (h : Canon s) : Canon (s.puntyOverrun l p both) :=
  .ite (.overrunEvent (.flag (.setFbit h))) (.puntyFault (.setFbit h))

theorem Canon.overruns {s : State} {d} (h : Canon s) : Canon (s.overruns d) := by
  unfold State.overruns
  extract_lets late live punty p l both t t1
  have h1 : Canon t1 := by
    refine .forEach (.forEach h fun _ _ h => ?_) fun _ _ h => .abandonPass h
    split
    · exact .hostOverrun h
    · exact h
  exact .ite (.puntyOverrun h1) h1

theorem Canon.muteTicks {s : State} {d} (h : Canon s) : Canon (s.muteTicks d) :=
  .forEach h (fun _ _ h1 => .modLe (.setFbit h1))

theorem Canon.publishSlot {s : State} {d k route} (h : Canon s) : Canon (s.publishSlot d k route) := by
  unfold State.publishSlot
  dsimp only
  split
  · exact .setReg (.frame h)
  · exact .setReg (.frame h)

theorem Canon.muteEvent {s : State} {l} (h : Canon s) : Canon (s.muteEvent l) := .raise h

theorem Canon.fallEnd {s : State} {l} (h : Canon s) : Canon (s.fallEnd l) := by
  unfold State.fallEnd
  dsimp only
  split
  · exact .modLe h
  · split; exacts [(.setFbit (.startReload (.modLe h))), (.toBist (.modLe h)), (by split; exacts [(.freeEngine
      (.modLe (.modLe (.leaveService (.muteEvent (.modLe (.modLe h))))))), (.toBist (.muteEvent (.modLe (.modLe
      h))))]), (.setFbit (.outgoingEnds (.modLe h)))]

theorem Canon.fadeTick {s : State} {l} (h : Canon s) : Canon (s.fadeTick l) :=
  .ite (.handoverDone (.ite (.setScuState (.ite (.fallEnd (.modLe h)) (.modLe h))) (.ite (.fallEnd (.modLe h)) (.modLe
  h)))) (.ite (.setScuState (.ite (.fallEnd (.modLe h)) (.modLe h))) (.ite (.fallEnd (.modLe h)) (.modLe h)))

theorem Canon.leavingTick {s : State} {l} (h : Canon s) : Canon (s.leavingTick l) := by
  unfold State.leavingTick
  split
  · dsimp only
    split
    · exact .leavingEnd h
    · exact .modLe (.outgoingEnds h)
    · exact .modLe h
  · exact h

theorem Canon.publish {s : State} {d} (h : Canon s) : Canon (s.publish d) :=
  .forEach (.forEach (.modDom (.foldl h (fun _ _ h1 => .publishSlot h1))) (fun _ _ h1 => .fadeTick h1)) (fun _ _ h1 =>
  .leavingTick h1)

theorem Canon.snapshots {s : State} {d n tag but} (h : Canon s) : Canon (s.snapshots d n tag but) :=
  .forEach h (fun _ _ h1 => .modEng h1)

theorem Canon.crcBoundary {s : State} {d n} (h : Canon s) : Canon (s.crcBoundary d n) :=
  .ite (.ite (.shadowMismatch (.flag (.setF (.setF (.forEach h (fun _ _ h1 => .modEng h1)))))) (.ite (.armHandover
  (.setF (.setF (.forEach h (fun _ _ h1 => .modEng h1))))) (.setF (.setF (.forEach h (fun _ _ h1 => .modEng h1))))))
  (.forEach h (fun _ _ h1 => .modEng h1))

theorem Canon.lockEntry {s : State} {d n} (h : Canon s) : Canon (s.lockEntry d n) :=
  .ite (.frame (.setScuState (.modEng (.setReg (.setReg (.setEngN h)))))) h

theorem Canon.endFade {s : State} {l} (h : Canon s) : Canon (s.endFade l) := .ite (.handoverDone h) h

theorem Canon.entryBoundary {s : State} {n l} (h : Canon s) : Canon (s.entryBoundary n l) := by
  unfold State.entryBoundary
  extract_lets x b r t
  have ht : Canon t := by
    refine .ite ?_ h
    split
    · exact .loadMeters (.modLe h)
    · exact .modLe h
  split
  · have hl {e g} : Canon ((t.goLive e l n).modLe l g) := .modLe (.goLive ht)
    exact .ite ht (.ite (.raise (.setFbit hl)) (.setFbit hl))
  · refine .ite ?_ ht
    have hl {g} : Canon ((t.endShadowOf l).modLe l g) := .modLe (.endShadowOf ht)
    split
    · exact .endFade (.toBist (.muteEvent (.modLe hl)))
    · exact .endFade (.modLe hl)
    · exact .modLe hl
  · exact ht

theorem Canon.boundaryAfter {s : State} {d n} (h : Canon s) : Canon (s.boundaryAfter d n) :=
  .lockEntry (.forEach h (fun _ _ h1 => .entryBoundary (.scuBoundary h1)))

theorem Canon.boundaryBefore {s : State} {d n} (h : Canon s) : Canon (s.boundaryBefore d n) :=
  .forEach (.crcBoundary (.snapshots (.captureBts h))) (fun _ _ h1 => .modLe h1)

theorem Canon.ldsLate {s : State} {d kind} (h : Canon s) : Canon (s.ldsLate d kind) := .raise (.flag h)

theorem Canon.lateDrains {s : State} {d} (h : Canon s) : Canon (s.lateDrains d) :=
  .ite (.ldsLate (.forEach h (fun _ _ h1 => .drainEng h1))) (.forEach h (fun _ _ h1 => .drainEng h1))

theorem Canon.ldsUse {s : State} {d} (h : Canon s) : Canon (s.ldsUse d) := .modDom (.setF (.setF h))

theorem Canon.ldsFlip {s : State} {d n late} (h : Canon s) : Canon (s.ldsFlip d n late) :=
  .forEach (.forEach (.ite (.forEach h (fun _ _ h1 => .modEng h1)) (.ldsLate (.forEach h (fun _ _ h1 => .modEng h1))))
  (fun _ _ h1 => .prefetch h1)) (fun _ _ h1 => .modEng h1)

theorem Canon.latchWindow {s : State} {l e} (h : Canon s) : Canon (s.latchWindow l e) :=
  .ite (.flag (.modEng h)) (.modEng h)

theorem Canon.startPass {s : State} {e n} (h : Canon s) : Canon (s.startPass e n) :=
  .beginPass (.modEng (.setF (.setEngN h)))

theorem Canon.divide {s : State} {l} (h : Canon s) : Canon (s.divide l) := .modDom h
theorem Canon.takeIdx {s : State} {d n} (h : Canon s) : Canon (s.takeIdx d n) := .modDom (.setDomPhase (.setF2 h))

theorem Canon.stopAt {s : State} {l} (h : Canon s) : Canon (s.stopAt l) :=
  .ite (.ite (.anchorStart (.forEach (.modDom (.stopGroup h)) (fun _ _ h1 => .leRestart h1))) (.forEach (.modDom
  (.stopGroup h)) (fun _ _ h1 => .leRestart h1))) (.ite (.applyIfDone (.groupSwap (.modDom (.stopGroup h)))) (.modDom
  (.stopGroup h)))

theorem Canon.tickPublish {s : State} {d n i} (h : Canon s) : Canon (s.tickPublish d n i) :=
  .publish (.overruns (.muteTicks (.lateDrains (.forEach (.takeIdx (.aspBefore h)) (fun _ _ h1 => .passEnd h1)))))

theorem Canon.clearDone {s : State} {d} (h : Canon s) : Canon (s.clearDone d) :=
  .ite (.frame (.forEach h (fun _ _ h1 => .modEng h1))) (.forEach h (fun _ _ h1 => .modEng h1))

theorem Canon.tickPorts {s : State} {d n bnd i} (h : Canon s) : Canon (s.tickPorts d n bnd i) :=
  .trigTick (.seTick (.iecTxTick (.iecRxTick (.srcTick (.pdmTick (.aspAfter h))))))

theorem Canon.tickPasses {s : State} {l d n i} (h : Canon s) : Canon (s.tickPasses l d n i) :=
  .forEach (.forEach (.ldsFlip (.ldsUse h)) (fun _ _ h1 => .latchWindow h1)) (fun _ _ h1 => .startPass h1)

theorem Canon.tickDeadline {s : State} {l n} (h : Canon s) : Canon (s.tickDeadline l n) :=
  .ite (.goDefer (.scuDeadline h)) h

theorem Canon.groupTick {s : State} {l n i} (h : Canon s) : Canon (s.groupTick l n i) := by
  unfold State.groupTick
  extract_lets ts bnd tag s1 s2 s3 s4 live s5 s6 s7 s8 s9
  have h2 : Canon s2 := .foldl (.divide h) fun _ _ h => .tickPublish h
  have h3 : Canon s3 := .forEach h2 fun _ _ h => .clearDone h
  have h4 : Canon s4 := .foldl h3 fun _ _ h => .boundaryBefore h
  have h5 : Canon s5 := .ite (.anchorBoundary h4) h4
  have h6 : Canon s6 := .ite (.applyIfDone (.groupSwap h5)) h5
  have h7 : Canon s7 := .foldl h6 fun _ _ h => .snapshots (.boundaryAfter h)
  have h8 : Canon s8 := .foldl h7 fun _ _ h => .tickPorts h
  have h9 : Canon s9 := .foldl h8 fun _ _ h => .tickPasses h
  exact .clearUnrouted (.tickDeadline h9)

theorem Canon.sampleTick {s : State} {l i} (h : Canon s) : Canon (s.sampleTick l i) :=
  .ite h (.ite (.stopAt h) (.ite (.applyIfDone (.groupSwap h)) (.groupTick h)))

/-! ### Reset -/

theorem Canon.resetKeep {s : State} {base keep} (h : Canon s) : Canon (s.resetKeep base keep) :=
  .foldl (.resetBlock h) (fun _ _ h1 => .setReg h1)

theorem Canon.resetXch {s : State} (h : Canon s) : Canon s.resetXch := .frame (.resetBlock h)
theorem Canon.resetStg {s : State} (h : Canon s) : Canon s.resetStg := .modStg (.resetBlock h)
theorem Canon.resetScu {s : State} (h : Canon s) : Canon s.resetScu := .frame (.resetBlock h)
theorem Canon.resetClk {s : State} (h : Canon s) : Canon s.resetClk := .frame (.resetKeep h)
theorem Canon.resetDma {s : State} (h : Canon s) : Canon s.resetDma := .frame (.resetBlock h)
theorem Canon.resetHsp {s : State} (h : Canon s) : Canon s.resetHsp := .frame (.resetBlock h)
theorem Canon.resetSec {s : State} (h : Canon s) : Canon s.resetSec := .secSync (.frame (.resetBlock h))

theorem Canon.resetUart {s : State} {u} (h : Canon s) : Canon (s.resetUart u) :=
  .ite (.modUart (.resetBlock h)) (.setF (.setReg (.setReg (.modUart (.resetBlock h)))))

theorem Canon.resetSerial {s : State} {device} (h : Canon s) : Canon (s.resetSerial device) :=
  .frame (.resetKeep (.resetBlock (.resetBlock (.forEach h (fun _ _ h1 => .resetUart h1)))))

theorem Canon.resetSerialAon {s : State} (h : Canon s) : Canon s.resetSerialAon :=
  .forEach (.frame (.resetBlock h)) (fun _ _ h1 => .resetBlock h1)

theorem Canon.resetCores {s : State} (h : Canon s) : Canon s.resetCores := .frame h

theorem Canon.loseSys {s : State} (h : Canon s) : Canon s.loseSys :=
  .frame (.setOn (.resetSerial (.resetSec (.resetHsp (.resetDma (.resetBlock (.resetBlock (.resetClk (.resetScu
  (.resetStg (.resetXch h)))))))))))

theorem Canon.loseAud {s : State} (h : Canon s) : Canon s.loseAud :=
  .frame (.setOn (.resetBlock (.resetBlock (.resetBlock h))))

theorem Canon.loseSrc {s : State} (h : Canon s) : Canon s.loseSrc := .frame (.setOn (.resetBlock h))

theorem Canon.loseNet {s : State} (h : Canon s) : Canon s.loseNet :=
  .frame (.setOn (.ite (.resetBlock (.resetBlock h)) (.tuSource (.resetBlock (.resetBlock h)))))

theorem Canon.loseXmp {s : State} (h : Canon s) : Canon s.loseXmp :=
  .modFlash (.setOn (.setF (.resetKeep (.xmpAbort h))))

theorem Canon.loseCores {s : State} (h : Canon s) : Canon s.loseCores := .setOn (.setOn (.resetCores h))

theorem Canon.loseLds {s : State} (h : Canon s) : Canon s.loseLds :=
  .forEach h (fun _ _ h1 => .setHalf (.setOn (.clearHalf h1)))

theorem Canon.loseEngines {s : State} (h : Canon s) : Canon s.loseEngines := .forEach h (fun _ _ h1 => .powerEng h1)

theorem Canon.resetDevice {s : State} (h : Canon s) : Canon s.resetDevice :=
  .frame (.resetBlock (.resetBlock (.resetSerial (.loseSys (.loseCores (.loseXmp (.loseNet (.loseSrc (.loseAud
  (.loseLds (.loseEngines h)))))))))))

theorem Canon.romXmp {s : State} (h : Canon s) : Canon s.romXmp := by
  unfold State.romXmp
  dsimp only
  split
  · exact .ite (.setF (.setF (.setF (.xmpModes (.xipSync (.setF (.setOn (.xmpAbort h)))))))) (.setF (.setF (.xmpModes
      (.xipSync (.setF (.setOn (.xmpAbort h)))))))
  · exact .setF (.xmpModes (.xipSync (.setF (.setOn (.xmpAbort h)))))

theorem Canon.romClocks {s : State} {locks} (h : Canon s) : Canon (s.romClocks locks) :=
  .setF (.ite h (.ite (.setFbit (.setF (.sysApply (.setF (.setF h))))) (.setReg (.setFbit (.setF (.sysApply (.setF
  (.setF h))))))))

theorem Canon.enableSys {s : State} (h : Canon s) : Canon s.enableSys :=
  .pscSync (.setF (.setF (.setF (.forEach (.forEach (.setF (.setF h)) (fun _ _ h1 => .acsEnable (.setF h1))) (fun _ _
  h1 => .uartSync (.setF (.setF (.setF h1))))))))

theorem Canon.enableNet {s : State} (h : Canon s) : Canon s.enableNet := .setF (.setF (.setOn h))
theorem Canon.enableAud {s : State} (h : Canon s) : Canon s.enableAud := .setOn (.setOn h)
theorem Canon.mbxRegs {s : State} (h : Canon s) : Canon s.mbxRegs := .setReg (.setReg (.setReg h))
theorem Canon.stgSetup {s : State} (h : Canon s) : Canon s.stgSetup := .setReg (.setReg h)

theorem Canon.laTrims {s : State} (h : Canon s) : Canon s.laTrims :=
  .forEach (.setF (.setF (.setF (.setF h)))) (fun _ _ h1 => .setReg h1)

theorem Canon.reapply {s : State} {cs} (h : Canon s) : Canon (s.reapply cs) :=
  .unitsApply (.serialApply (.applyFlds (.netApply (.deviceApply (.foldl (.applyFlds h) (fun _ _ h1 => .routeApply
  h1))))))

/-! ### Power -/

theorem Canon.powerEvent {s : State} {left entered} (h : Canon s) : Canon (s.powerEvent left entered) :=
  .irqEvent (.raise h)

theorem Canon.stopEngines {s : State} (h : Canon s) : Canon s.stopEngines :=
  .forEach (.ite (.handoverDone (.forEach (.endShadow h) (fun _ _ h1 => .abandonPass h1))) (.forEach (.endShadow h)
  (fun _ _ h1 => .abandonPass h1))) (fun _ _ h1 => .ite (.modLe (.leavingEnd (.ite (.fallEnd h1) h1))) (.leavingEnd
  (.ite (.fallEnd h1) h1)))

theorem Canon.napDomains {s : State} (h : Canon s) : Canon s.napDomains :=
  .forEach h (fun _ _ h1 => .modDom (.ite (.stopGroup h1) h1))

theorem Canon.sleepHandover {s : State} (h : Canon s) : Canon s.sleepHandover :=
  .ite (.scuIdle (.modLe (.leaveService (.ite h (.toBist h))))) h

theorem Canon.sleepEngines {s : State} (h : Canon s) : Canon s.sleepEngines :=
  .forEach (.loseEngines (.sleepHandover (.stopEngines h))) (fun _ _ h1 => .modLe h1)

theorem Canon.slowUarts {s : State} (h : Canon s) : Canon s.slowUarts := .forEach h (fun _ _ h1 => .modUart h1)
theorem Canon.emptyUart0 {s : State} (h : Canon s) : Canon s.emptyUart0 := .uartSync (.modUart h)

theorem Canon.enterDomains {s : State} {t} (h : Canon s) : Canon (s.enterDomains t) := by
  unfold State.enterDomains
  have hs : Canon (s.stopEngines) := .stopEngines h
  split
  · exact .ite hs (.loseNet hs)
  · split
    · have hx : Canon (((s.stopEngines.loseAud).loseSrc).loseXmp) := .loseXmp (.loseSrc (.loseAud hs))
      exact .ite hx (.loseNet hx)
    · extract_lets keep s1 s2 s3
      have h2 : Canon s2 := .loseXmp (.loseSrc (.loseAud (.loseLds (.sleepEngines (.napDomains h)))))
      have h3 : Canon s3 := .ite h2 (.loseNet h2)
      have h4 : Canon (s3.loseCores).loseSys := .loseSys (.loseCores h3)
      have h6 {p} : Canon (({ s3 with pmu := p } : State).slowUarts.loseCores) := .loseCores (.slowUarts (.frame h3))
      exact .ite ⟨h4.1, rfl⟩ (.ite (.acsEnable (.acsEnable (.emptyUart0 h6))) (.loseSys h6))

theorem Canon.pmuEnter {s : State} {t} (h : Canon s) : Canon (s.pmuEnter t) :=
  .ite (.powerEvent (.frame (.setF (.enterDomains h)))) (.irqEvent (.frame (.setF (.enterDomains h))))

theorem Canon.leaveResume {s : State} (h : Canon s) : Canon s.leaveResume := .setReg (.setReg (.free h))

theorem Canon.enterState {s : State} {t} (h : Canon s) : Canon (s.enterState t) :=
  .pmuEnter (.ite (.leaveResume (.ite (.jStamp (.jWrite h)) h)) (.ite (.jStamp (.jWrite h)) h))

theorem Canon.dozeExit {s : State} {from_} (h : Canon s) : Canon (s.dozeExit from_) :=
  .resumeShadow (.ite (.ite (.setF h) (.reapply (.xipOn (.discover (.romXmp (.enableAud (.setF h))))))) (.reapply
  (.enableNet (.ite (.setF h) (.reapply (.xipOn (.discover (.romXmp (.enableAud (.setF h))))))))))

theorem Canon.napRestart {s : State} {d} (h : Canon s) : Canon (s.napRestart d) := by
  unfold State.napRestart
  split
  · exact h
  · exact .ite (.anchorStart h) (.startDomain (.setF2 (.modDom h)))

theorem Canon.wakeEngines {s : State} (h : Canon s) : Canon s.wakeEngines := .forEach h fun t e h => by
  have hp : Canon (t.powerEng e true) := .powerEng h
  split
  · split
    · exact .startReload (.modLe hp)
    · exact h
  · exact .modEng (.startClear hp)
  · split
    · exact .startReload hp
    · exact .startBist hp
  · exact h

theorem Canon.romResume {s : State} (h : Canon s) : Canon s.romResume :=
  .frame (.setF (.kdfBound (.setF (.setReg h))))

theorem Canon.avsAgain {s : State} (h : Canon s) : Canon s.avsAgain := .ite (.pmicStart h) h

theorem Canon.slowEnd {s : State} {wasOff} (h : Canon s) : Canon (s.slowEnd wasOff) :=
  .forEach h (fun _ _ h1 => .ite (.ite (.modUart (.resetUart h1)) (.modUart h1)) h1)

theorem Canon.standbyExit {s : State} (h : Canon s) : Canon s.standbyExit := by
  unfold State.standbyExit
  extract_lets wasOff s1 s2 s3 s4 pmu s6 s7 s8 s9 s10 s11
  have h3 : Canon s3 := .setF (.romClocks (.frame (.setOn (.setOn (.setOn (.setF h))))))
  have h7 : Canon s7 :=
    .mbxRegs (.stgSetup (.laTrims (.enableAud (.enableSys (.xipOn (.discover (.romXmp (.romResume (.slowEnd h3)))))))))
  have h9 : Canon s9 := .ite (.avsAgain h7) (.enableNet (.avsAgain h7))
  have h11 : Canon s11 := .forEach (.reapply h9) fun _ _ h => .ite (.startHalf h) h
  exact .ite (.frame (.setF h3)) (.appStart (.cc1Wakes (.forEach (.wakeEngines h11) fun _ _ h => .napRestart h)))

theorem Canon.hibernateExit {s : State} {cause} (h : Canon s) : Canon (s.hibernateExit cause) :=
  .frame (.setF (.setF h))

theorem Canon.pmuEval {s : State} (h : Canon s) : Canon s.pmuEval :=
  .ite (.enterState (.setF (.netKeepSync h))) (.ite (.powerEvent (.dozeExit (.setF (.netKeepSync h)))) (.setF
  (.netKeepSync h)))

theorem Canon.wake {s : State} {bit} (h : Canon s) : Canon (s.wake bit) :=
  .ite h (.ite (.hibernateExit (.setReg h)) (.pmuEval (.powerEvent (.ite (.dozeExit (.setReg h)) (.standbyExit
  (.setReg h))))))

theorem Canon.wakeHeld {s : State} (h : Canon s) : Canon s.wakeHeld := .setF (.frame h)

theorem Ends.execTripShutdown {F timeout} {s : State} : Ends F (Keeps s) (execTripShutdown timeout s) :=
  .next fun h => .ite h (.ite (.setF (.pmuEnter h)) (.frame (.setF h)))

theorem Ends.execPmuEval {F} {s : State} : Ends F (Keeps s) (execPmuEval s) := .next fun h => .pmuEval h

theorem Ends.execPowerStateEntry {F wake} {s : State} : Ends F (Keeps s) (execPowerStateEntry wake s) :=
  .next fun h => .ite (by split; exacts [(.ite (.wake (.enterState (.ite (.wakeHeld h) h))) (.enterState (.ite
  (.wakeHeld h) h))), (.enterState h)]) h

theorem Ends.execWakePin {F} {s : State} : Ends F (Keeps s) (execWakePin s) := .next fun h => .wake (.wakeHeld h)

theorem Ends.execWakeRelease {F} {s : State} : Ends F (Keeps s) (execWakeRelease s) :=
  .next fun h => .pmuEval (.setF (.frame h))

theorem Ends.execWakeTimer {F el} {s : State} : Ends F (Keeps s) (execWakeTimer el s) :=
  .next fun h => .ite (.wake (.advance h)) (.advance h)

theorem Ends.execGpioWake {F pin rise held} {s : State} : Ends F (Keeps s) (execGpioWake pin rise held s) :=
  .next fun h => .ite (.wake h) h

theorem Ends.execUart0StartWake {F} {s : State} : Ends F (Keeps s) (execUart0StartWake s) := .next fun h => .wake h

theorem Ends.execUartAddressWake {F two c} {s : State} : Ends F (Keeps s) (execUartAddressWake two c s) :=
  .next fun h => .ite (.wake (.uartHear h)) (.uartHear h)

theorem Ends.execHspWake {F} {s : State} : Ends F (Keeps s) (execHspWake s) := .next fun h => .wake h

theorem Ends.execNetframeWake {F frame} {s : State} : Ends F (Keeps s) (execNetframeWake frame s) :=
  .next fun h => .ite (.wake (.ringPut h)) h

/-! ### Boot -/

theorem Canon.setAonRet {s : State} {k v} (h : Canon s) : Canon (s.setAonRet k v) := .setReg h
theorem Canon.romCause {s : State} {src cause} (h : Canon s) : Canon (s.romCause src cause) := .setAonRet h
theorem Canon.clearSkips {s : State} (h : Canon s) : Canon s.clearSkips := .setAonRet h

theorem Canon.romRetry {s : State} (h : Canon s) : Canon s.romRetry :=
  .requestReset (.clearSkips (.setAonRet (.frame h)))

theorem Canon.stage1Check {s : State} {src readFails} (h : Canon s) : Canon (s.stage1Check src readFails).2 :=
  .ite_snd (.romCause h) (.ite (.sramSet h) (.romCause (.sramSet h)))

theorem Canon.lockRegions {s : State} {hd first} (h : Canon s) : Canon (s.lockRegions hd first) :=
  .forEach h (fun _ _ h1 => .modCc h1)

theorem Canon.romHandOver {s : State} {src} (h : Canon s) : Canon (s.romHandOver src) :=
  .frame (.setF (.setAonRet (.setAonRet (.lockRegions h))))

theorem Canon.loader {s : State} {src} (h : Canon s) : Canon (s.loader src).2 :=
  .ite_snd (.ite (.romRetry (.romCause (.ite (.sramStore h) h))) (.requestReset (.setAonRet (.romCause (.ite
  (.sramStore h) h))))) (.modCc (.lockRegions (.kdfBound (.ite (.sramStore h) h))))

theorem Canon.logLost {s : State} {bad n} (h : Canon s) : Canon (s.logLost bad n) := .logAdd h
theorem Canon.mbxSetup {s : State} (h : Canon s) : Canon s.mbxSetup := .mbxRegs (.forEach h (fun _ _ h1 => .modMb h1))

theorem Canon.bootHealth {s : State} {recs} (h : Canon s) : Canon (s.bootHealth recs) :=
  .foldl (.forEach (.laTrims (.forEach (.forEach (.setReg h) (fun _ _ h1 => .setReg h1)) (fun _ _ h1 => .ite (.setF
  h1) h1))) (fun _ _ h1 => .modEng (.powerEng h1))) (fun _ _ h1 => by split; exacts [(.ite h1 (.modEng h1)), (.ite
  (.setF h1) h1), h1])

theorem Canon.bootBist {s : State} {pass} (h : Canon s) : Canon (s.bootBist pass) := by
  unfold State.bootBist
  dsimp only
  split
  · exact .foldl (.foldl h (fun _ _ h1 => .startBist (.powerEng h1))) (fun _ _ h1 => .bistDone h1)
  · exact .foldl h (fun _ _ h1 => .startBist (.powerEng h1))

theorem Canon.bootAon {s : State} (h : Canon s) : Canon s.bootAon :=
  .frame (.forEach (.setF (.netKeepSync (.setF (.setF (.setReg (.setF h)))))) (fun _ _ h1 => .setF (.setF (.setF
  (.tpEnd h1)))))

theorem Canon.fwFresh {s : State} {pass bad} (h : Canon s) : Canon (s.fwFresh pass bad) :=
  .bootBist (.enqueue (.ageDue (.bootHealth (.bootAon (.mbxSetup (.enableAud (.enableNet (.enableSys (.stgSetup
  (.resetStg (.frame (.foldl (by split; exacts [(.ite (.setF (.setF (.frame (.modJ (.firstTable (.discover h))))))
  (.frame (.modJ (.firstTable (.discover h))))), (.frame (.modJ (.firstTable (.discover h))))]) (fun _ _ h1 =>
  .logLost h1)))))))))))))

theorem Canon.redoStep3 {s : State} (h : Canon s) : Canon s.redoStep3 :=
  .ite (.setPhase (.forEach h (fun _ _ h1 => .modLe h1))) h

theorem Canon.resumeBist {s : State} (h : Canon s) : Canon s.resumeBist :=
  .forEach h (fun _ _ h1 => .forEach (.startBist h1) (fun _ _ h2 => .modLe h2))

theorem Canon.fwResume {s : State} {bad} (h : Canon s) : Canon (s.fwResume bad) :=
  .mbxSetup (.ageDue (.discover (.laTrims (.resumeBist (.redoStep3 (.modStg (.frame (.fwAbandon (.forEach (.forEach h
  (fun _ _ h1 => .modMb (.closeSession h1))) (fun _ _ h1 => .modUart h1))))))))))

theorem Canon.fwStart {s : State} {pass bad} (h : Canon s) : Canon (s.fwStart pass bad) :=
  .appStart (.setF (.setF (.ite (.fwResume (.clearSkips h)) (.fwFresh (.clearSkips h)))))

theorem Canon.bodyStart {s : State} {body} (h : Canon s) : Canon (s.bodyStart body) :=
  .sramStore (.xipSetup (.xipRewrite h))

theorem Canon.startImage {s : State} {src pass bad} (h : Canon s) : Canon (s.startImage src pass bad) := by
  unfold State.startImage
  dsimp only
  split <;> rename_i e
  · exact .ite (.fwStart (.of_snd e (.loader (.romHandOver h)))) (.bodyStart (.fwStart (.of_snd e (.loader
      (.romHandOver h)))))
  · exact .of_snd e (.loader (.romHandOver h))

theorem Canon.openWindow {s : State} {first} (h : Canon s) : Canon (s.openWindow first) := .frame h

theorem Canon.tryList {i pass ks} {s : State} (h : Canon s) : Canon (State.tryList i pass ks s) := by
  induction ks generalizing s with
  | nil => exact .openWindow h
  | cons k ks ih =>
    have hc : Canon (s.stage1Check k (if k = 0 then i.failA else i.failB)).2 := .stage1Check h
    unfold State.tryList
    split <;> rename_i e
    · exact .startImage (.fuseActions (.of_snd e hc))
    · exact ih (.of_snd e hc)

theorem Canon.trySlots {s : State} {i pass} (h : Canon s) : Canon (s.trySlots i pass) :=
  .tryList (.forEach h (fun _ _ h1 => .ite h1 (.romCause h1)))

theorem Canon.romStart {s : State} {i} (h : Canon s) : Canon (s.romStart i) :=
  .ite (.setF (.modFlash (.frame (.modCc h)))) (.ite (.openWindow (.romXmp (.setF (.romClocks (.modFlash (.frame
  (.modCc h))))))) (.ite (.openWindow (.romXmp (.setF (.romClocks (.modFlash (.frame (.modCc h))))))) (.trySlots
  (.romXmp (.setF (.romClocks (.modFlash (.frame (.modCc h)))))))))

theorem Canon.devReset {s : State} (h : Canon s) : Canon s.devReset :=
  .frame (.setF (.setF (.setOn (.setOn (.setOn (.resetDevice h))))))

theorem Ends.execDeviceReset {F i} {s : State} : Ends F (Keeps s) (execDeviceReset i s) :=
  .next fun h => .ite (.romStart (.frame (.setF (.devReset h)))) h

theorem Canon.romReply {s : State} {ws} (h : Canon s) : Canon (s.romReply ws) := .hspSync (.setF (.modHsp h))
theorem Canon.romStat {s : State} (h : Canon s) : Canon s.romStat := .romReply h
theorem Canon.romLoad {s : State} {total} (h : Canon s) : Canon (s.romLoad total) := .romReply (.frame h)

theorem Canon.romData {s : State} {off ws} (h : Canon s) : Canon (s.romData off ws) := by
  unfold State.romData
  split
  · exact .romReply h
  · exact .ite (.romReply h) (.romReply (.sramSet h))

theorem Canon.romEnd {s : State} {stuck} (h : Canon s) : Canon (s.romEnd stuck) :=
  .ite (.romReply h) (.ite (.frame (.fuseActions (.romReply (.ite_snd (.stage1Check (.frame h)) (.romCause (.frame
  h)))))) (.romReply (.ite_snd (.stage1Check (.frame h)) (.romCause (.frame h)))))

theorem Canon.romMessage {s : State} {ws stuck} (h : Canon s) : Canon (s.romMessage ws stuck) := by
  unfold State.romMessage
  split
  · exact .romReply h
  · exact .ite (.romReply h) (.ite (.romStat h) (.ite (.romReply h) (.ite (.romLoad h) (.ite (.romData h) (.romEnd
      h)))))

theorem Canon.romTake {s : State} {f} (h : Canon s) : Canon (s.romTake f) :=
  .ite (.romReply (.hspPart h)) (.romMessage h)

theorem Canon.hostFrame {s : State} {op f} (h : Canon s) : Canon (s.hostFrame op f) :=
  .ite (.startImage (.hspFrame h (fun _ h1 => .ite (.romTake h1) (.hspIn h1)))) (.hspFrame h (fun _ h1 => .ite
  (.romTake h1) (.hspIn h1)))

theorem Ends.execHspMsg {F f} {s : State} : Ends F (Keeps s) (execHspMsg f s) := .next fun h => .hostFrame h
theorem Ends.execHspRead {F f} {s : State} : Ends F (Keeps s) (execHspRead f s) := .next fun h => .hostFrame h

theorem Ends.execHspStatus {F op f} {s : State} : Ends F (Keeps s) (execHspStatus op f s) :=
  .next fun h => .hostFrame h

theorem Canon.romRequest {s : State} {ch op words stuck} (h : Canon s) : Canon (s.romRequest ch op words stuck) :=
  .ite h (.ite (.ite (.hspBusy h) (.pushReq (.hspBusy h))) (.ite (.flag (.flag h)) (.flag (.romMessage h))))

theorem Ends.execRomStatus {F ch words} {s : State} : Ends F (Keeps s) (execRomStatus ch words s) :=
  .next fun h => .romRequest h

theorem Ends.execRomBegin {F ch words} {s : State} : Ends F (Keeps s) (execRomBegin ch words s) :=
  .next fun h => .romRequest h

theorem Ends.execRomData {F ch words} {s : State} : Ends F (Keeps s) (execRomData ch words s) :=
  .next fun h => .romRequest h

theorem Ends.execRomEnd {F ch words stuckFuse} {s : State} : Ends F (Keeps s) (execRomEnd ch words stuckFuse s) :=
  .next fun h => .romRequest h

theorem Ends.execRecoveryWindowClose {F csHigh idle1s} {s : State} : Ends F (Keeps s) (execRecoveryWindowClose csHigh
    idle1s s) :=
  .next fun h => .ite (.startImage h) (.ite h (.ite (.frame h) (.ite (.trySlots (.frame h)) (.romRetry h))))

theorem Canon.holdReset {s : State} (h : Canon s) : Canon s.holdReset := .frame (.resetDevice h)
theorem Canon.loseCore {s : State} (h : Canon s) : Canon s.loseCore := ⟨h.1, rfl⟩

theorem Ends.execSupplyMonitorFail {F} {s : State} : Ends F (Keeps s) (execSupplyMonitorFail s) :=
  .next fun h => .ite h (.loseCore (.holdReset (.setAonRet (.setF h))))

theorem Canon.aonReset {s : State} (h : Canon s) : Canon s.aonReset :=
  .frame (.resetBlock (.resetSerialAon (.setF (.resetBlock (.resetBlock (.resetBlock h))))))

theorem Ends.execVddAonLoss {F} {s : State} : Ends F (Keeps s) (execVddAonLoss s) :=
  .next fun h => .frame (.aonReset (.loseCore (.holdReset h)))

theorem Ends.execAonPowerOn {F} {s : State} : Ends F (Keeps s) (execAonPowerOn s) :=
  .next fun h => .frame (.aonReset (.loseCore (.holdReset h)))

theorem Canon.rstActs {s : State} {lowNs} (h : Canon s) : Canon (s.rstActs lowNs).2 :=
  .ite_snd h (.ite_snd h (.free h))

theorem Ends.execRstN {F lowNs released} {s : State} : Ends F (Keeps s) (execRstN lowNs released s) :=
  .next fun h => .ite (.rstActs h) (.ite (.frame (.holdReset (.netKeepSync (.resetBlock (.resetBlock (.resetBlock
  (.setF (.rstActs h)))))))) (.ite (.frame (.holdReset (.netKeepSync (.resetBlock (.resetBlock (.resetBlock (.setF
  (.rstActs h)))))))) (.hibernateExit (.frame (.holdReset (.netKeepSync (.resetBlock (.resetBlock (.resetBlock (.setF
  (.rstActs h)))))))))))

theorem Ends.execS5ExitRetry {F valid} {s : State} : Ends F (Keeps s) (execS5ExitRetry valid s) :=
  .next fun h => .ite h (.ite (.frame h) (.frame h))

theorem Ends.execWatchdogExpiry {F i} {s : State} : Ends F (Keeps s) (execWatchdogExpiry i s) :=
  .next fun h => .ite h (.romStart (.setF (.resetBlock (.resetSec (.resetHsp (.resetDma (.resetCores h)))))))

theorem Ends.execCc1WatchdogExpiry {F sinceMs} {s : State} : Ends F (Keeps s) (execCc1WatchdogExpiry sinceMs s) :=
  .next fun h => .ite h (.cc1Wakes (.closeSession (.irqEvent (.modCc (.frame h)))))

theorem Ends.execCc1AppRestart {F} {s : State} : Ends F (Keeps s) (execCc1AppRestart s) :=
  .next fun h => .ite (.rspBell h) h

/-! ### Session -/

theorem Canon.macOf {s : State} {ip} (h : Canon s) : Canon (s.macOf ip).2 := by
  unfold State.macOf
  split
  · exact h
  · exact .free h

theorem Canon.reply {s : State} {m rq bytes} (h : Canon s) : Canon (s.reply m rq bytes) :=
  .ite (.sendInternal (.macOf h)) (.pushRsp h)

theorem Answer.Keeps.reqAsk {rq ts staged f} (hf : ∀ a, (f a).Keeps) : (reqAsk rq ts staged f).Keeps := by
  unfold Machine.reqAsk
  refine .ite .refuse ?_
  dsimp only
  split
  · exact .mk fun _ h => h
  · exact .mk fun _ h => h
  · exact .ite (hf _) .refuse

theorem Canon.served {s : State} {m seq bytes} (h : Canon s) : Canon (s.served m seq bytes) := .modMb h

theorem Canon.checked {s : State} {op rq go} (h : Canon s) (hgo : ∀ t, Canon t → Canon (go t)) : Canon (s.checked op
    rq go) :=
  .ite (.reply h) (.ite (.reply h) (.ite (.reply h) (.ite (.reply h) (hgo _ h))))

theorem Canon.serveAnswer {s : State} {op rq x} (h : Canon s) (hx : x.Keeps) : Canon (s.serveAnswer op rq x) :=
  hx _ (.reply (.served h))

theorem Canon.serveOdd {m n} {s : State} (h : Canon s) : Canon (State.serveOdd m n s) := by
  induction n generalizing s with
  | zero => exact h
  | succ n ih =>
    unfold State.serveOdd
    split
    · refine .ite h (ih ?_)
      exact .ite (.pushRsp (.modMb h)) (.ite (.modMb h) (.checked (.modMb h) fun _ h => .serveAnswer h .refuse))
    · exact h

theorem Canon.takeReq {s : State} {op rq} (h : Canon s) : Canon (s.takeReq op rq) := .modMb h

theorem Canon.turnTo {s : State} {op rq go} (h : Canon s) (hgo : ∀ t, Canon t → Canon (go t)) : Canon (s.turnTo op rq
    go) :=
  .ite h (.ite (.serveOdd h) (hgo _ (.takeReq (.serveOdd h))))

theorem Canon.serve {s : State} {op rq ts staged} {f : State → Ask → Answer} (h : Canon s) (hf : ∀ t a, (f t a).Keeps) :
    Canon (s.serve op rq ts staged f) :=
  .turnTo h fun _ h => .checked h fun t h => .serveAnswer h (.reqAsk (hf t))

theorem Canon.openSession {s : State} {rq m} (h : Canon s) : Canon (s.openSession rq m) :=
  .modMb (.closeSession (by split; exacts [(.ite (.ite_snd h (.macOf h)) (.closeSession (.ite_snd h (.macOf h)))),
  (.ite_snd h (.macOf h))]))

theorem Canon.openReq {s : State} {rq} (h : Canon s) : Canon (s.openReq rq) :=
  .turnTo h (fun _ h1 => .ite (.reply h1) (.ite (.reply h1) (by split; exacts [(.reply h1), (.pushRsp (.served
  (.openSession h1)))])))

theorem Ends.execBcpOpen {F rq} {s : State} : Ends F (Keeps s) (execBcpOpen rq s) := .next fun h => .openReq h

theorem Ends.execBcpClose {F rq} {s : State} : Ends F (Keeps s) (execBcpClose rq s) :=
  .next fun h => .serve h (fun _ _ => .answer (fun _ h => .closeSession h))

theorem Ends.execBcpPing {F rq} {s : State} : Ends F (Keeps s) (execBcpPing rq s) :=
  .next fun h => .serve h (fun _ _ => .answer (fun _ h => h))

theorem Canon.setParison {s : State} {m l} (h : Canon s) : Canon (s.setParison m l) := .modMb h

/-! ### Bcp -/

theorem Answer.Keeps.withLe {a f} (hf : ∀ l, (f l).Keeps) : (withLe a f).Keeps := .ite .refuseAt (hf _)
theorem Answer.Keeps.withEng {a f} (hf : ∀ e, (f e).Keeps) : (withEng a f).Keeps := .ite .refuseAt (hf _)

theorem Answer.Keeps.collect {l f} (hl : ∀ r ∈ l, Except.Safe r) (hf : ∀ w, (f w).Keeps) : (collect l f).Keeps := by
  induction l generalizing f with
  | nil => exact hf []
  | cons r l ih =>
    cases r with
    | error x => exact hl _ (.head _) x rfl
    | ok v => exact ih (fun r hr => hl r (.tail _ hr)) fun w => hf (v ++ w)

theorem Except.Safe.fitting {limit used l} (hl : ∀ q ∈ l, Except.Safe q.2) : ∀ r ∈ fitting limit used l, Except.Safe r := by
  induction l generalizing used with
  | nil => simp [Machine.fitting]
  | cons q l ih =>
    obtain ⟨x, r⟩ := q
    have hr : Except.Safe r := hl (x, r) (.head _)
    have hl' : ∀ q ∈ l, Except.Safe q.2 := fun q hq => hl q (.tail _ hq)
    cases r with
    | error e =>
      simp only [Machine.fitting, List.forall_mem_cons]
      exact ⟨hr, ih hl'⟩
    | ok v =>
      simp only [Machine.fitting, List.forall_mem_cons]
      refine ⟨?_, ih hl'⟩
      split
      · exact .error .refuseAt
      · exact .ok

theorem Except.Safe.getOne {s : State} {m staged x} : Except.Safe (s.getOne m staged x) := by
  unfold State.getOne
  dsimp only
  split
  · exact .error .refuseAt
  · split
    · exact .error .refuseAt
    · exact .ok

theorem Except.Safe.describe {s : State} {m x} : Except.Safe (s.describe m x) := by
  unfold State.describe
  dsimp only
  split
  · exact .error .refuseAt
  · exact .ok

theorem Except.Safe.stageOne {s : State} {m x} : Except.Safe (s.stageOne m x) := by
  unfold State.stageOne
  split
  · exact .error .refuseAt
  · split
    · exact .error .refuseAt
    · exact .ok

theorem Except.Safe.stageItems {s : State} {m l} : Except.Safe (s.stageItems m l) := by
  induction l with
  | nil => exact .ok
  | cons x l ih =>
    have hx : Except.Safe (s.stageOne m x) := .stageOne
    unfold State.stageItems
    split <;> rename_i e
    · exact .error (hx _ e)
    · split <;> rename_i e
      · exact .error (ih _ e)
      · exact .ok

theorem Except.Safe.meterPv {s : State} {l x} : Except.Safe (s.meterPv l x) := by
  unfold State.meterPv
  dsimp only
  split
  · exact .error .refuseAt
  · split
    · exact .ok
    · exact .error .refuseAt

theorem Canon.tookFree {s : State} {n} (h : Canon s) : Canon (s.tookFree n) := .frame h

theorem Ends.execBcpGet {F rq} {s : State} : Ends F (Keeps s) (execBcpGet rq s) :=
  .next fun h => .serve h fun _ _ => .collect (.fitting (List.forall_mem_map.2 fun _ _ => .getOne))
    fun _ => .answer fun _ h => .tookFree h

theorem Ends.execBcpDescribe {F rq} {s : State} : Ends F (Keeps s) (execBcpDescribe rq s) :=
  .next fun h => .serve h fun _ _ => .collect (.fitting (List.forall_mem_map.2 fun _ _ => .describe))
    fun _ => .answer fun _ h => .tookFree h

theorem Ends.execBcpList {F rq} {s : State} : Ends F (Keeps s) (execBcpList rq s) :=
  .next fun h => .serve h (fun _ _ => .ite .refuseAt (.answer (fun _ h => h)))

theorem Answer.Keeps.stageAll {s : State} {m l} : (s.stageAll m l).Keeps := by
  unfold State.stageAll
  split
  · exact .refuseAt
  · exact .answer (fun _ h => .setParison h)

theorem Ends.execBcpStage {F rq} {s : State} : Ends F (Keeps s) (execBcpStage rq s) :=
  .next fun h => .serve h fun t a => by
    split <;> rename_i e
    · exact Except.Safe.stageItems _ e
    · exact .stageAll

theorem Ends.execBcpUnstage {F rq} {s : State} : Ends F (Keeps s) (execBcpUnstage rq s) :=
  .next fun h => by
    dsimp only
    exact .serve h (fun _ _ => by split; exacts [.refuseAt, (.answer (fun _ h => .setParison h))])

theorem Ends.execBcpDiscard {F rq} {s : State} : Ends F (Keeps s) (execBcpDiscard rq s) :=
  .next fun h => .serve h (fun _ _ => .answer (fun _ h => .setParison h))

theorem Ends.execBcpImgbegin {F rq} {s : State} : Ends F (Keeps s) (execBcpImgbegin rq s) :=
  .next fun h => .serve h (fun _ _ => .withLe (fun _ => .ite .stageAll (.ite .refuseAt .stageAll)))

theorem Answer.Keeps.withImage {s : State} {m l f} (hf : ∀ c e, (f c e).Keeps) : (s.withImage m l f).Keeps := by
  unfold State.withImage
  split
  · exact hf _ _
  · exact .refuse

theorem Canon.restage {s : State} {m x} (h : Canon s) : Canon (s.restage m x) := .setParison h

theorem Ends.execBcpImgdata {F rq} {s : State} : Ends F (Keeps s) (execBcpImgdata rq s) :=
  .next fun h => .serve h (fun _ _ => .withLe (fun _ => .withImage (fun _ _ => .ite .refuseAt (.answer (fun _ h =>
  .restage h)))))

theorem Ends.execBcpImgend {F rq} {s : State} : Ends F (Keeps s) (execBcpImgend rq s) :=
  .next fun h => .serve h (fun _ _ => .withLe (fun _ => .withImage (fun _ _ => by split; exacts [(.mk (fun _ h => h)),
  (.answer (fun _ h => .restage h))])))

theorem Answer.Keeps.readBytes {m a bs} : (readBytes m a bs).Keeps :=
  .ite .refuseAt (.ite .refuseAt (.ite .refuseAt (.ite .refuseAt (.answer (fun _ h => h)))))

theorem Ends.execBcpImgread {F rq} {s : State} : Ends F (Keeps s) (execBcpImgread rq s) :=
  .next fun h => .serve h (fun _ _ => .withLe (fun _ => .ite .refuse .readBytes))

theorem Ends.execBcpTblget {F rq} {s : State} : Ends F (Keeps s) (execBcpTblget rq s) :=
  .next fun h => by
    dsimp only
    exact .serve h (fun _ _ => by split; exacts [.refuseAt, (.ite .refuseAt .readBytes)])

theorem Ends.execBcpTblstage {F rq} {s : State} : Ends F (Keeps s) (execBcpTblstage rq s) :=
  .next fun h => by
    dsimp only
    exact .serve h (fun _ _ => by split; exacts [.refuseAt, (.ite .refuseAt (.ite .refuseAt (.ite (.answer (fun _ h
      => .restage h)) .stageAll)))])

theorem Ends.execBcpMeters {F rq} {s : State} : Ends F (Keeps s) (execBcpMeters rq s) :=
  .next fun h => .serve h fun _ _ => .withLe fun _ => .ite .refuse
    (.collect (List.forall_mem_map.2 fun _ _ => .meterPv) fun _ => .answer fun _ h => .tookFree h)

theorem Ends.execBcpSubscribe {F rq} {s : State} : Ends F (Keeps s) (execBcpSubscribe rq s) :=
  .next fun h => .serve h (fun _ _ => .answer (fun _ h => .modMb h))

theorem Ends.execBcpEvstat {F rq} {s : State} : Ends F (Keeps s) (execBcpEvstat rq s) :=
  .next fun h => .serve h (fun _ _ => .answer (fun _ h => .modMb h))

theorem Ends.execBcpPowerstat {F rq} {s : State} : Ends F (Keeps s) (execBcpPowerstat rq s) :=
  .next fun h => .serve h (fun _ _ => .answer (fun _ h => h))

theorem Ends.execBcpLehrstat {F rq} {s : State} : Ends F (Keeps s) (execBcpLehrstat rq s) :=
  .next fun h => .serve h (fun _ _ => .answer (fun _ h => h))

theorem Ends.execBcpEngmap {F rq} {s : State} : Ends F (Keeps s) (execBcpEngmap rq s) :=
  .next fun h => .serve h (fun _ _ => .answer (fun _ h => h))

theorem Ends.execBcpRelease {F rq} {s : State} : Ends F (Keeps s) (execBcpRelease rq s) :=
  .next fun h => .serve h (fun _ _ => .withEng (fun _ => .ite .refuse (.ite .refuse (.answer (fun _ h => .modEng
  (.startBist (.powerEng h)))))))

theorem Ends.execBcpRetire {F rq} {s : State} : Ends F (Keeps s) (execBcpRetire rq s) :=
  .next fun h => .serve h (fun _ _ => .withEng (fun _ => .ite .refuse (.ite .refuse (.answer (fun _ h => .retireEngine
  h)))))

theorem Ends.execBcpLogread {F rq} {s : State} : Ends F (Keeps s) (execBcpLogread rq s) :=
  .next fun h => .serve h (fun _ _ => .answer (fun _ h => h))

theorem Ends.execBcpJsync {F rq} {s : State} : Ends F (Keeps s) (execBcpJsync rq s) :=
  .next fun h => .serve h (fun _ _ => .ite .refuse (.answer (fun _ h => .jWrite (.modJ h))))

theorem Ends.execBcpJclear {F rq} {s : State} : Ends F (Keeps s) (execBcpJclear rq s) :=
  .next fun h => .serve h (fun _ _ => .ite .refuse (.answer (fun _ h => .jClear (.modJ h))))

/-! ### CpuAlu -/

theorem Canon.victim {s : State} {lines b} (h : Canon s) : Canon (s.victim lines b).2 := .ite_snd h (.free h)
theorem Canon.icacheFill {s : State} {c a} (h : Canon s) : Canon (s.icacheFill c a) := .ite h (.modCc (.victim h))

theorem Canon.eccWords {l} {s : State} (h : Canon s) : Canon (State.eccWords l s).2 := by
  induction l generalizing s with
  | nil => exact h
  | cons off l ih => exact .ite_snd (.eccSeen h) (ih (.eccSeen h))

theorem Canon.ccFetch {s : State} {c} (h : Canon s) : Canon (s.ccFetch c).2 :=
  .ite_snd h (.ite_snd h (.ite_snd h (.ite_snd (.ite_snd (.frame (.xipRead h)) (.icacheFill (.frame (.xipRead h))))
  (by split <;> rename_i e; exacts [(.of_snd e (.eccWords h)), (.icacheFill (.of_snd e (.eccWords h)))]))))

theorem Canon.ccStart {s : State} {c} (h : Canon s) : Canon (s.ccStart c).2 := by
  unfold State.ccStart
  split <;> rename_i e
  · exact .raiseCc (.of_snd e (.ccFetch h))
  · exact .landTick (.of_snd e (.ccFetch h))

theorem Canon.ccReady {s : State} {c} (h : Canon s) : Canon (s.ccReady c).2 :=
  .ite_snd h (.ite_snd (by split; exacts [h, (.ccStart (.ite (.enterIrq h) (.modCc h)))]) (.ccStart h))

theorem Canon.ccIssue {s : State} {c body} (h : Canon s) (hbody : ∀ t, Canon t → Canon (body t)) : Canon (s.ccIssue c body) := by
  unfold State.ccIssue
  split <;> rename_i e
  · exact hbody _ (.of_snd e (.ccReady h))
  · exact .of_snd e (.ccReady h)

theorem Ends.ccIssueR {F} {s : State} {c body} (hb : ∀ t, Ends F (Keeps t) (body t)) :
    Ends F (Keeps s) (s.ccIssueR c body) := by
  have hc (h : Canon s) : Canon (s.ccReady c).2 := .ccReady h
  unfold State.ccIssueR
  split <;> rename_i e
  · exact .mono (hb _) fun h => .of_snd e (hc h)
  · exact .next fun h => .of_snd e (hc h)

theorem Canon.ccNext {s : State} {c} (h : Canon s) : Canon (s.ccNext c) := .modCc h

theorem Canon.ccBranch {s : State} {c target call ret} (h : Canon s) : Canon (s.ccBranch c target call ret) :=
  .modCc h

theorem Canon.noSlot {s : State} {c body} (h : Canon s) (hbody : ∀ t, Canon t → Canon (body t)) : Canon (s.noSlot c
    body) :=
  .ccIssue h (fun _ h2 => .ite (.raiseCc h2) (hbody _ h2))

theorem Canon.ccAlu {s : State} {c rd dist v} (h : Canon s) : Canon (s.ccAlu c rd dist v) :=
  .ccIssue h (fun _ h1 => .ccNext (.wr h1))

theorem Canon.ccAluR {s : State} {c o dist g} (h : Canon s) : Canon (s.ccAluR c o dist g) := .ccAlu h
theorem Canon.ccAluI {s : State} {c o g} (h : Canon s) : Canon (s.ccAluI c o g) := .ccAlu h
theorem Ends.execCcAdd {F c o} {s : State} : Ends F (Keeps s) (execCcAdd c o s) := .next fun h => .ccAluR h
theorem Ends.execCcSub {F c o} {s : State} : Ends F (Keeps s) (execCcSub c o s) := .next fun h => .ccAluR h
theorem Ends.execCcAnd {F c o} {s : State} : Ends F (Keeps s) (execCcAnd c o s) := .next fun h => .ccAluR h
theorem Ends.execCcOr {F c o} {s : State} : Ends F (Keeps s) (execCcOr c o s) := .next fun h => .ccAluR h
theorem Ends.execCcXor {F c o} {s : State} : Ends F (Keeps s) (execCcXor c o s) := .next fun h => .ccAluR h

theorem Canon.ccShift {s : State} {c o g} (h : Canon s) : Canon (s.ccShift c o g) :=
  .ccIssue h (fun _ h1 => .ite (.ccNext (.wr h1)) (.ccNext (.wr (.free h1))))

theorem Ends.execCcShl {F c o} {s : State} : Ends F (Keeps s) (execCcShl c o s) := .next fun h => .ccShift h
theorem Ends.execCcShr {F c o} {s : State} : Ends F (Keeps s) (execCcShr c o s) := .next fun h => .ccShift h
theorem Ends.execCcAsr {F c o} {s : State} : Ends F (Keeps s) (execCcAsr c o s) := .next fun h => .ccShift h
theorem Ends.execCcSlt {F c o} {s : State} : Ends F (Keeps s) (execCcSlt c o s) := .next fun h => .ccAluR h
theorem Ends.execCcSltu {F c o} {s : State} : Ends F (Keeps s) (execCcSltu c o s) := .next fun h => .ccAluR h
theorem Ends.execCcMul {F c o} {s : State} : Ends F (Keeps s) (execCcMul c o s) := .next fun h => .ccAluR h
theorem Ends.execCcMulh {F c o} {s : State} : Ends F (Keeps s) (execCcMulh c o s) := .next fun h => .ccAluR h
theorem Ends.execCcMulhu {F c o} {s : State} : Ends F (Keeps s) (execCcMulhu c o s) := .next fun h => .ccAluR h
theorem Ends.execCcDiv {F c o} {s : State} : Ends F (Keeps s) (execCcDiv c o s) := .next fun h => .ccAluR h
theorem Ends.execCcDivu {F c o} {s : State} : Ends F (Keeps s) (execCcDivu c o s) := .next fun h => .ccAluR h
theorem Ends.execCcRem {F c o} {s : State} : Ends F (Keeps s) (execCcRem c o s) := .next fun h => .ccAluR h
theorem Ends.execCcRemu {F c o} {s : State} : Ends F (Keeps s) (execCcRemu c o s) := .next fun h => .ccAluR h
theorem Ends.execCcAddi {F c o} {s : State} : Ends F (Keeps s) (execCcAddi c o s) := .next fun h => .ccAluI h
theorem Ends.execCcSlti {F c o} {s : State} : Ends F (Keeps s) (execCcSlti c o s) := .next fun h => .ccAluI h
theorem Ends.execCcAndi {F c o} {s : State} : Ends F (Keeps s) (execCcAndi c o s) := .next fun h => .ccAluI h
theorem Ends.execCcOri {F c o} {s : State} : Ends F (Keeps s) (execCcOri c o s) := .next fun h => .ccAluI h
theorem Ends.execCcXori {F c o} {s : State} : Ends F (Keeps s) (execCcXori c o s) := .next fun h => .ccAluI h
theorem Ends.execCcShli {F c o} {s : State} : Ends F (Keeps s) (execCcShli c o s) := .next fun h => .ccAluI h
theorem Ends.execCcShri {F c o} {s : State} : Ends F (Keeps s) (execCcShri c o s) := .next fun h => .ccAluI h
theorem Ends.execCcAsri {F c o} {s : State} : Ends F (Keeps s) (execCcAsri c o s) := .next fun h => .ccAluI h
theorem Ends.execCcLui {F c o} {s : State} : Ends F (Keeps s) (execCcLui c o s) := .next fun h => .ccAluI h

theorem Canon.condBranch {s : State} {c cc off a b} (h : Canon s) : Canon (s.condBranch c cc off a b) :=
  .noSlot h (fun _ h1 => by split; exacts [(.ccBranch h1), (.raiseCc h1)])

theorem Ends.execCcCb {F c o} {s : State} : Ends F (Keeps s) (execCcCb c o s) := .next fun h => .condBranch h
theorem Ends.execCcCbi {F c o} {s : State} : Ends F (Keeps s) (execCcCbi c o s) := .next fun h => .condBranch h

theorem Ends.execCcJ {F c off} {s : State} : Ends F (Keeps s) (execCcJ c off s) :=
  .next fun h => .noSlot h (fun _ h1 => .ccBranch h1)

theorem Canon.callTo {s : State} {c target} (h : Canon s) : Canon (s.callTo c target) :=
  .ite (.windowTrap h) (.ccBranch (.result h))

theorem Ends.execCcCall {F c off} {s : State} : Ends F (Keeps s) (execCcCall c off s) :=
  .next fun h => .noSlot h (fun _ h1 => .callTo h1)

theorem Ends.execCcCallr {F c ra} {s : State} : Ends F (Keeps s) (execCcCallr c ra s) :=
  .next fun h => .noSlot h (fun _ h1 => .callTo h1)

theorem Ends.execCcRet {F c} {s : State} : Ends F (Keeps s) (execCcRet c s) :=
  .next fun h => .noSlot h (fun _ h1 => .ite (.windowTrap h1) (.ccBranch (.modCc h1)))

theorem Ends.execCcTrap {F c o} {s : State} : Ends F (Keeps s) (execCcTrap c o s) :=
  .next fun h => .ccIssue h (fun _ h1 => .raiseCc h1)

theorem Ends.execCcEret {F c} {s : State} : Ends F (Keeps s) (execCcEret c s) :=
  .next fun h => .noSlot h (fun _ h1 => .modCc h1)

theorem Ends.execCcWeret {F c} {s : State} : Ends F (Keeps s) (execCcWeret c s) :=
  .next fun h => .noSlot h (fun _ h1 => .modCc h1)

theorem Ends.execCcWait {F c} {s : State} : Ends F (Keeps s) (execCcWait c s) :=
  .next fun h => .ccIssue h (fun _ h1 => .modCc (.ccNext h1))

theorem Ends.execCcSync {F c} {s : State} : Ends F (Keeps s) (execCcSync c s) :=
  .next fun h => .ccIssue h (fun _ h1 => .ccNext h1)

theorem Canon.landSys {s : State} {c} (h : Canon s) : Canon (s.landSys c) := .landDue h

theorem Ends.execCcIsync {F c} {s : State} : Ends F (Keeps s) (execCcIsync c s) :=
  .next fun h => .ccIssue h (fun _ h1 => .ccNext (.landSys h1))

theorem Ends.execCcIllegalInstruction {F c w} {s : State} : Ends F (Keeps s) (execCcIllegalInstruction c w s) :=
  .next fun h => .ccIssue h (fun _ h1 => .raiseCc h1)

theorem Canon.cycles {s : State} {c} (h : Canon s) : Canon (s.cycles c).2 := .modCc (.free h)

theorem Canon.sysRd {s : State} {c n hw} (h : Canon s) : Canon (s.sysRd c n hw).2 :=
  .ite_snd h (.ite_snd h (.ite_snd (.frame h) (.ite_snd h (.ite_snd h (.ite_snd (.cycles h) (.ite_snd h (.ite_snd h
  h)))))))

theorem Canon.mfs {s : State} {c rd n hw} (h : Canon s) : Canon (s.mfs c rd n hw) :=
  .ccIssue h (fun _ h1 => .ite (.raiseCc h1) (.ccNext (.wr (.sysRd h1))))

theorem Ends.execCcMfs {F c o} {s : State} : Ends F (Keeps s) (execCcMfs c o s) := .next fun h => .mfs h

theorem Ends.execCcMts {F c o} {s : State} (hF : Stops F) : Ends F (Keeps s) (execCcMts c o s) :=
  .ccIssueR fun t => by
    dsimp only
    split
    · exact .next fun h => .raiseCc h
    · exact .ite (hF _) (.next fun h => .ccNext (.result h))

theorem Ends.execCycleCounterRead {F c rd} {s : State} : Ends F (Keeps s) (execCycleCounterRead c rd s) :=
  .next fun h => .mfs h

theorem Ends.execEcccntRead {F c rd hwCorr hwUnc} {s : State} : Ends F (Keeps s) (execEcccntRead c rd hwCorr hwUnc s)
    :=
  .next fun h => .mfs h

theorem Ends.execWdkickWrite {F c data} {s : State} (hF : Stops F) : Ends F (Keeps s) (execWdkickWrite c data s) :=
  .ite (hF _) (.next fun h => .sysWrite h)

theorem Ends.execWatchdogWarn {F c} {s : State} : Ends F (Keeps s) (execWatchdogWarn c s) :=
  .next fun h => .ite (.modCc h) h

theorem Ends.execMpuRegionLock {F c n} {s : State} : Ends F (Keeps s) (execMpuRegionLock c n s) :=
  .next fun h => .modCc h

/-! ### Map -/

theorem Canon.ringFrame {s : State} {at_} (h : Canon s) : Canon (s.ringFrame at_).2 := by
  unfold State.ringFrame
  exact .sramLoad (.sramLoad h)

theorem Canon.ringFrames {base dep n i} {s : State} (h : Canon s) : Canon (State.ringFrames base dep n i s).2 := by
  induction n generalizing s i with
  | zero => exact h
  | succ n ih => exact ih (.ringFrame h)

theorem Canon.mbxWrite {s : State} {m o v} (h : Canon s) : Canon (s.mbxWrite m o v) :=
  .ite (.modMb h) (.ite (.modMb h) (.ite (.modMb (.ringFrames h)) (.ite (.modMb h) (.ite (.modMb h) (.ite (.modMb h)
  (.ite (.modMb (.ringFrames h)) (.ite (.rspTaken h) (.ite (.modMb h) (.ite (.modMb h) (.ite (.modMb h) (.ite (.modMb
  h) h)))))))))))

theorem Canon.bellWrite {s : State} {off} (h : Canon s) : Canon (s.bellWrite off) :=
  .ite (.setFbit h) (.ite (.rspBell h) h)

theorem Canon.sramRead {s : State} {off width e} (h : Canon s) : Canon (s.sramRead off width e) := by
  unfold State.sramRead
  dsimp only
  split
  · exact .busErr (.eccSeen h)
  · exact .ret (.eccSeen h)

theorem Canon.sramUpset {s : State} {off e} (h : Canon s) : Canon (s.sramUpset off e) := by
  unfold State.sramUpset
  split
  · exact h
  · exact .frame h
  · exact .frame h

theorem Canon.sramWrite {s : State} {off width data e} (h : Canon s) : Canon (s.sramWrite off width data e) := by
  unfold State.sramWrite
  dsimp only
  split
  · exact .busErr (.eccSeen h)
  · exact .ret (.bellWrite (.sramUpset (.eccHeal (by split; exacts [(.mbxWrite (.eccSeen h)), (.sramSet (.eccSeen
      h))]))))

theorem Canon.winData {n : Nat} {s : State} {e key} {w : BitVec n} (h : Canon s) : Canon (s.winData e key w).2 :=
  .ite_snd (.flag (.free h)) (.ite_snd (.sat (.modEng h)) h)

theorem Canon.idleFirst {s : State} {e} (h : Canon s) : Canon (s.idleFirst e) :=
  .ite (.stateOf h fun _ hr => (Ends.execPassDone (F := fun _ => False)).keeps hr h) h

theorem Canon.winRead {s : State} {who e off width} (h : Canon s) : Canon (s.winRead who e off width) := by
  unfold State.winRead
  refine .ret ?_
  refine .ite_snd ?_ (.ite_snd (.winData h) (.ite_snd (.winData (.idleFirst h)) (.winData (.idleFirst h))))
  split
  · exact .modEng h
  · exact .ite_snd (.modEng (.winData (.winData h))) (.winData h)

theorem Canon.winWrite {s : State} {e off width data} (h : Canon s) : Canon (s.winWrite e off width data) :=
  .ret (.ite (.modEng h) (.ite (.modEng h) (.ite (.modEng h) (.modEng h))))

theorem Canon.ldsRead {s : State} {off width} (h : Canon s) : Canon (s.ldsRead off width) := by
  refine .ret (.ite_snd ?_ (.readLds h))
  dsimp only
  exact .ldsBadRead (.free h)

theorem Canon.ldsWrite {s : State} {off width data} (h : Canon s) : Canon (s.ldsWrite off width data) :=
  .ret (.setLds h)

theorem Canon.plainRead {s : State} {a} (h : Canon s) : Canon (s.plainRead a) := by
  unfold State.plainRead
  dsimp only
  split
  · exact .ite (.ret (.takeLatch h)) (.ret (.setReg (.takeLatch h)))
  · exact .ret (.takeLatch h)

theorem Canon.latchRead {s : State} {a also} (h : Canon s) : Canon (s.latchRead a also) :=
  .plainRead (.foldl h (fun _ _ h1 => .latchReg h1))

theorem Canon.readLow {s : State} {who a} (h : Canon s) : Canon (s.readLow who a) := by
  have hr {r} (he : Ends (fun _ => False) (Keeps s) r) : Canon (Machine.stateOf s r) := .stateOf h fun _ e => he.keeps e h
  unfold State.readLow
  split
  · exact hr .execAcsLiveRead
  · refine .ite (hr .execTuNsRead) (.ite (hr .execTuLnslRead) (.ite (.plainRead (.tuWords h)) (.ite
      (.plainRead (.legWords h)) (.ite (hr .execTcapRead) ?_))))
    split
    · exact .latchRead h
    · split
      · exact .latchRead h
      · refine .ite (hr .execStgMetdataRead) ?_
        split
        · exact .ret h
        · exact .ite (.xmpTake h) (.plainRead h)

theorem Canon.readHigh {s : State} {who a} (h : Canon s) : Canon (s.readHigh who a) := by
  have hr {r} (he : Ends (fun _ => False) (Keeps s) r) : Canon (Machine.stateOf s r) := .stateOf h fun _ e => he.keeps e h
  refine .ite (hr .execHspRxdataRead) (.ite (hr .execPscRxdataRead) ?_)
  split
  · exact .uartTake h
  · refine .ite (hr .execI2cDataRead) ?_
    split
    · exact .latchRead h
    · refine .ite (hr .execIecStatusRead) (.ite (hr .execTsfInfoRead) ?_)
      split
      · exact .latchRead h
      · exact .ite (.latchRead h) (.ite (.latchRead h) (.plainRead h))

theorem Canon.regRead {s : State} {who a} (h : Canon s) : Canon (s.regRead who a) := .ite (.readLow h) (.readHigh h)

theorem Canon.busRead {s : State} {a} (h : Canon s) : Canon (s.busRead a) :=
  .ite (.busErr h) (by split; exacts [(.sramRead h), (.ite (.ret h) (.ite (.winRead h) (.ite (.ldsRead h) (.ite
  (.regRead h) (.xipRead h)))))])

/-! ### DmaCtl -/

theorem Canon.modDma {s : State} {c g} (h : Canon s) : Canon (s.modDma c g) := .frame h
theorem Canon.dmaStop {s : State} {c} (h : Canon s) : Canon (s.dmaStop c) := .setFbit (.modDma h)

theorem Canon.dmaHalt {s : State} {c kind addr} (h : Canon s) : Canon (s.dmaHalt c kind addr) :=
  .setF (.setReg (.setF (.setF (.setF (.setReg (.forEach h (fun _ _ h1 => .dmaStop h1)))))))

theorem Canon.dmaClear {s : State} (h : Canon s) : Canon s.dmaClear := .setReg (.setF h)

theorem Canon.dmaWords {n a acc} {s : State} (h : Canon s) : Canon (dmaWords s n a acc).2 := by
  induction n generalizing s a acc with
  | zero => exact h
  | succ n ih => exact .ite_snd (.busRead h) (ih (.busRead h))

theorem Canon.dmaBegin {s : State} {c at_} (h : Canon s) : Canon (s.dmaBegin c at_) :=
  .ite (.dmaHalt (.setReg h)) (by split <;> rename_i e; exacts [(.dmaHalt (.of_snd e (.dmaWords (.setReg h)))), (.ite
  (.dmaHalt (.of_snd e (.dmaWords (.setReg h)))) (.setReg (.setFbit (.modDma (.of_snd e (.dmaWords (.setReg h)))))))])

theorem Canon.dmaStart {s : State} {c} (h : Canon s) : Canon (s.dmaStart c) := .ite (.dmaBegin h) h

/-! ### Bus -/

theorem Canon.plainWrite {s : State} {a d} (h : Canon s) : Canon (s.plainWrite a d) := by
  unfold State.plainWrite
  split
  · exact .setReg h
  · exact h

theorem Canon.keepWrite {s : State} {a keep d} (h : Canon s) : Canon (s.keepWrite a keep d) := .plainWrite h

theorem Canon.writeAon {s : State} {a d} (h : Canon s) : Canon (s.writeAon a d) :=
  .ite (.pmuEval (.plainWrite h)) (.ite (.netKeepSync (.plainWrite h)) (.plainWrite h))

theorem Canon.writeAcsCtrl {s : State} {i d} (h : Canon s) : Canon (s.writeAcsCtrl i d) := by
  unfold State.writeAcsCtrl
  extract_lets t t1 t2 t3
  have h1 : Canon t1 := .ite (.plainWrite h) (.acsEnable (.plainWrite h))
  have h2 : Canon t2 := .ite (.setPsq h1) h1
  have h3 : Canon t3 := .ite (.acsUpdate h2) h2
  exact .ite (.acsDoRelock h3) h3

theorem Canon.writeClk {s : State} {a d} (h : Canon s) : Canon (s.writeClk a d) := by
  unfold State.writeClk
  extract_lets t u
  have ht : Canon t := .plainWrite h
  have hu : Canon u := .forEach ht fun _ _ h => .ite h (.setFbit h)
  refine .ite (.ite (.sysUpd hu) hu) (.ite (.setF ht) ?_)
  split
  · exact .engineClock h
  · split
    · exact .writeAcsCtrl h
    · split
      · exact .psqAdd h
      · exact ht

theorem Canon.writePulse {s : State} {k a d} (h : Canon s) : Canon (s.writePulse k a d) :=
  .ite (.ite (.tpDisarm h) h) (.ite (.tpArm (.plainWrite h)) (.plainWrite h))

theorem Canon.writeTu {s : State} {a d} (h : Canon s) : Canon (s.writeTu a d) :=
  .ite (.ite (.stepAnchors (.tuCtrl (.plainWrite h))) (.tuCtrl (.plainWrite h))) (.ite (.legLoad h) (.ite (.frame h)
  (.ite (.ite (.trigArm (.ite (.trigDisarm (.plainWrite h)) (.plainWrite h))) (.ite (.trigDisarm (.plainWrite h))
  (.plainWrite h))) (.ite (.writePulse h) (.ite (.writePulse h) (.plainWrite h))))))

theorem Canon.writeXch {s : State} {a d} (h : Canon s) : Canon (s.writeXch a d) :=
  .ite (.forEach (.plainWrite h) (fun _ _ h1 => .startDomain h1)) (.ite (.ite (.setDomPhase (.plainWrite h)) (.ite
  (.keepWrite h) h)) (.plainWrite h))

theorem Canon.writeStg {s : State} {a d} (h : Canon s) : Canon (s.writeStg a d) := .ite h (.plainWrite h)
theorem Canon.writeMbx {s : State} {who a d} (h : Canon s) : Canon (s.writeMbx who a d) := .ite h (.plainWrite h)

theorem Canon.writeTsu {s : State} {a d} (h : Canon s) : Canon (s.writeTsu a d) := by
  unfold State.writeTsu
  split
  · exact .ite (.setFmax h) h
  · exact .ite (.ageGo (.plainWrite h)) (.plainWrite h)

theorem Canon.writeSec {s : State} {a d} (h : Canon s) : Canon (s.writeSec a d) :=
  .ite (.ite (.keyClear (.plainWrite h)) (.plainWrite h)) (.ite (.kdfBound h) (.ite (.ite (.kdf (.plainWrite h))
  (.plainWrite h)) (.ite (.ite (.hashFinish (.ite (.hashStart (.plainWrite h)) (.plainWrite h))) (.ite (.hashStart
  (.plainWrite h)) (.plainWrite h))) (.ite (.hashData h) (.ite (.ite (.verifyGo (.plainWrite h)) (.plainWrite h))
  (.ite (.ite (.fuseProgram (.plainWrite h)) (.plainWrite h)) (.plainWrite h)))))))

theorem Canon.writeXmpCtrl {s : State} {d} (h : Canon s) : Canon (s.writeXmpCtrl d) := by
  unfold State.writeXmpCtrl
  extract_lets t t1 t2
  have ht : Canon t := .xipSync (.keepWrite h)
  have h1 : Canon t1 := .ite (.xipEnable ht) (.ite (.xipDisable ht) ht)
  have h2 : Canon t2 := .ite (.xipFlush h1) h1
  exact .ite (.xmpAbort h2) h2

theorem Canon.writeXmp {s : State} {a d} (h : Canon s) : Canon (s.writeXmp a d) :=
  .ite (.writeXmpCtrl h) (.ite (.ite (.xmpGo (.plainWrite h)) (.plainWrite h)) (.ite (.xmpPut h) (.ite (.plainWrite h)
  (.ite (.plainWrite h) (.plainWrite h)))))

theorem Canon.writeHsp {s : State} {a d} (h : Canon s) : Canon (s.writeHsp a d) :=
  .ite (.hspPut h) (by split; exacts [(.hspOffer h), (.ite (.modHsp (.plainWrite h)) (.plainWrite h))])

theorem Ends.writePsc {F} {s : State} {a d} : Ends F (Keeps s) (s.writePsc a d) :=
  .ite (.ite (.mono .execPscAbort fun h => .pscSync (.plainWrite h)) (.next fun h => .pscSync (.plainWrite h))) (.ite
  (.next fun h => .pscCommand h) (.ite (.next fun h => .pscPut h) (.next fun h => .plainWrite h)))

theorem Ends.writeI2c {F} {s : State} {a d} : Ends F (Keeps s) (s.writeI2c a d) :=
  .ite (.mono .execI2cClear fun h => .free (.plainWrite h)) (.ite (.next fun h => .ite (.plainWrite h) (.i2cStop
  (.plainWrite h))) (.ite (.next fun h => .i2cGo h) (.ite (.next fun h => .i2cPut h) (.next fun h => .plainWrite h))))

theorem Canon.writeUart {s : State} {u a d} (h : Canon s) : Canon (s.writeUart u a d) :=
  .ite (.uartSync (.ite (.uartOff (.ite (.modUart (.ite (.modUart (.plainWrite h)) (.plainWrite h))) (.ite (.modUart
  (.plainWrite h)) (.plainWrite h)))) (.ite (.modUart (.ite (.modUart (.plainWrite h)) (.plainWrite h))) (.ite
  (.modUart (.plainWrite h)) (.plainWrite h))))) (.ite (.uartPut h) (.ite h (.ite h (.uartSync (.plainWrite h)))))

theorem Canon.writeGpio {s : State} {a d} (h : Canon s) : Canon (s.writeGpio a d) :=
  .ite (.gpioRaise h) (.ite (.gpioLower h) (.ite (.gpioFollow (.frame (.plainWrite h))) (.gpioFollow (.plainWrite
  h))))

theorem Canon.writeEngCtrl {s : State} {e d} (h : Canon s) : Canon (s.writeEngCtrl e d) :=
  .ite h (.ite (.ite (.setF (.plainWrite h)) (.plainWrite h)) (.ctrlActs (.ite (.setF (.plainWrite h)) (.plainWrite
  h))))

theorem Canon.writeEng {s : State} {e a d} (h : Canon s) : Canon (s.writeEng e a d) :=
  .ite (.writeEngCtrl h) (.ite (.plainWrite h) (.ite h (.plainWrite h)))

theorem Canon.writeLds {s : State} {a d} (h : Canon s) : Canon (s.writeLds a d) :=
  .ite (.forEach (.keepWrite h) (fun _ _ h1 => .ite (.ite h1 (.startHalf h1)) (.ite (.stopHalf h1) h1))) (.plainWrite
  h)

theorem Canon.writeScu {s : State} {a d} (h : Canon s) : Canon (s.writeScu a d) :=
  .ite (.endShadow (.plainWrite h)) (.ite (.cloneGo (.plainWrite h)) (.ite (.handoverGo (.plainWrite h)) (.plainWrite
  h)))

theorem Ends.writeAsp {F} {s : State} {p a d} : Ends F (Keeps s) (s.writeAsp p a d) :=
  .ite (.next fun h => .ite (.ite (.keepWrite h) (.aspStart (.keepWrite h))) (.ite (.aspStop (.keepWrite h))
  (.keepWrite h))) (.ite (.ite .execAspTrigGo (.next fun h => .plainWrite h)) (.ite (.next fun h => h) (.next fun h =>
  .plainWrite h)))

theorem Canon.writePdm {s : State} {n a d} (h : Canon s) : Canon (s.writePdm n a d) :=
  .ite (.ite (.keepWrite h) (.pdmEnable (.keepWrite h))) (.plainWrite h)

theorem Canon.writeIec {s : State} {a d} (h : Canon s) : Canon (s.writeIec a d) :=
  .ite (.ite (.keepWrite h) (.iecRxEnable (.keepWrite h))) (.ite (.plainWrite h) (.ite (.ite (.iecCapSet (.ite
  (.keepWrite h) (.iecTxEnable (.keepWrite h)))) (.ite (.keepWrite h) (.iecTxEnable (.keepWrite h)))) (.ite h
  (.plainWrite h))))

theorem Canon.writeSrc {s : State} {g a d} (h : Canon s) : Canon (s.writeSrc g a d) :=
  .ite (.ite (.keepWrite h) (.srcEnable (.keepWrite h))) (.ite h (.plainWrite h))

theorem Canon.writeNsw {s : State} {a d} (h : Canon s) : Canon (s.writeNsw a d) :=
  .ite (.mtRun (.plainWrite h)) (.ite (.ite (.mdioRun (.free (.plainWrite h))) (.plainWrite h)) (.ite (.plainWrite h)
  (.plainWrite h)))

theorem Canon.writeSe {s : State} {a d} (h : Canon s) : Canon (s.writeSe a d) := by
  unfold State.writeSe
  dsimp only
  split
  · exact .ite (.plainWrite h) (.strRestart (.plainWrite h))
  · exact .ite (.plainWrite h) (.forEach (.plainWrite h) (fun _ _ h1 => .setF h1))

theorem Canon.writeDma {s : State} {a d} (h : Canon s) : Canon (s.writeDma a d) :=
  .ite (.ite (.dmaClear (.plainWrite h)) (.plainWrite h)) (by split; exacts [(.ite (.ite (.dmaStop (.plainWrite h))
  (.plainWrite h)) (.ite (.dmaStart (.plainWrite h)) (.plainWrite h))), (by split; exacts [(.ite h (.plainWrite h)),
  (.plainWrite h)])])

theorem Ends.regWrite {F} {s : State} {who a d} : Ends F (Keeps s) (s.regWrite who a d) := by
  unfold State.regWrite
  dsimp only
  split
  · exact .next fun h => .writeAon h
  · exact .next fun h => .writeClk h
  · exact .next fun h => .writeTu h
  · exact .next fun h => .writeXch h
  · exact .next fun h => .writeStg h
  · exact .next fun h => .writeMbx h
  · exact .next fun h => .writeDma h
  · exact .next fun h => .writeTsu h
  · exact .next fun h => .writeSec h
  · exact .next fun h => .writeXmp h
  · exact .next fun h => .writeHsp h
  · exact .writePsc
  · exact .next fun h => .writeUart h
  · exact .writeI2c
  · exact .next fun h => .writeGpio h
  · exact .next fun h => .writeEng h
  · exact .writeAsp
  · exact .next fun h => .writePdm h
  · exact .next fun h => .writeIec h
  · exact .next fun h => .writeSrc h
  · exact .next fun h => .writeNsw h
  · exact .next fun h => .writeSe h
  · exact .next fun h => .writeEng h
  · exact .next fun h => .writeLds h
  · exact .next fun h => .writeScu h
  · exact .next fun h => .plainWrite h

theorem Ends.bindRes {F} {s : State} {r g} (hr : Ends F (Keeps s) r) (hg : ∀ t, Ends F (Keeps t) (g t)) :
    Ends F (Keeps s) (bindRes r g) := by
  unfold Machine.bindRes
  split
  · exact .mono (hg _) hr
  · exact hr
  · exact hr

theorem Ends.busWrite {F} {s : State} {a} (hF : 0x40000000 ≤ a.addr.toNat → Stops F) :
    Ends F (Keeps s) (s.busWrite a) := by
  unfold State.busWrite
  refine .ite (.next fun h => .busErr h) ?_
  split
  · exact .next fun h => .sramWrite h
  · split
    · exact .next fun h => .winWrite h
    · split
      · exact .next fun h => .ldsWrite h
      · exact .bindRes (.writeTo (fun _ _ _ => hF (by omega) _) id) fun _ =>
          .bindRes .regWrite fun _ => .next fun h => .ret h

theorem Ends.busAccess {F} {s : State} {a} (hF : a.write = true → 0x40000000 ≤ a.addr.toNat → Stops F) :
    Ends F (Keeps s) (s.busAccess a) := by
  unfold State.busAccess
  split
  · exact .busWrite (hF ‹_›)
  · exact .next fun h => .busRead h

theorem Canon.errAt {s : State} {a kind} (h : Canon s) : Canon (s.errAt a kind) := by
  unfold State.errAt
  dsimp only
  split
  · exact .ite h (.dmaHalt h)
  · exact .ite h (.raiseCc h)
  · exact .ite h (.raiseCc h)
  · exact h

theorem Ends.busOne {F} {s : State} {a} (hF : a.write = true → 0x40000000 ≤ a.addr.toNat → Stops F) :
    Ends F (Keeps s) (s.busOne a) :=
  .bindRes (.busAccess hF) fun _ => .next fun h => .ite (.errAt h) h

theorem Ends.busSeq {F l} {s : State} (hF : Stops F) : Ends F (Keeps s) (busSeq l s) := by
  induction l generalizing s with
  | nil => exact .next id
  | cons a l ih => exact .bindRes (.busOne fun _ _ => hF) fun _ => .mono ih fun h => .frame h

theorem Ends.execRegisterWrite {F who addr data meets} {s : State} (hF : Stops F) :
    Ends F (Keeps s) (execRegisterWrite who addr data meets s) :=
  .bindRes (.busOne fun _ _ => hF) fun _ => .next fun h => .ite h (.meet h)

theorem Ends.execBusAccess {F a others} {s : State} (hF : Stops F) : Ends F (Keeps s) (execBusAccess a others s) :=
  .bindRes (.mono (.busSeq hF) fun h => .frame h) (fun _ => .next fun h => .frame h)

theorem Ends.execEngineWindowWrite {F who e off width data} {s : State} :
    Ends F (Keeps s) (execEngineWindowWrite who e off width data s) :=
  .busOne fun _ h => by
    have := e.isLt
    have := off.isLt
    simp only [BitVec.toNat_ofNat] at h
    omega

theorem Ends.execEngineWindowRead {F who e off width} {s : State} :
    Ends F (Keeps s) (execEngineWindowRead who e off width s) := .busOne nofun

theorem Ends.execXipRead {F who off width} {s : State} : Ends F (Keeps s) (execXipRead who off width s) :=
  .busOne nofun

theorem Ends.execLdsHostAccess {F who write width addr data} {s : State} :
    Ends F (Keeps s) (execLdsHostAccess who write width addr data s) :=
  .busOne fun _ h => by
    simp only [BitVec.toNat_ofNat] at h
    omega

/-! ### Commit -/

theorem Answer.Keeps.mismatch {s : State} : s.mismatch.Keeps := .mk (fun _ h => h)
theorem Answer.Keeps.failAnswer {x} : (failAnswer x).Keeps := .mk (fun _ h => h)

theorem Canon.acceptEpoch {s : State} {m e} (h : Canon s) : Canon (s.acceptEpoch m e) :=
  .setParison (.frame (.enqueue h))

theorem Answer.Keeps.acceptAnswer {s : State} {rq vol items lines freed clocks target} : (s.acceptAnswer rq vol items
    lines freed clocks target).Keeps :=
  .ite .mismatch (.answer (fun _ h => .acceptEpoch h))

theorem commitForm_keeps {a x} (h : commitForm a = some x) : x.Keeps := by
  unfold commitForm at h
  dsimp only at h
  split at h
  · cases h; exact .refuse
  · split at h
    · cases h; exact .refuse
    · split at h <;> cases h <;> exact .refuse

theorem Answer.Keeps.commit {s : State} {rq a} : (s.commit rq a).Keeps := by
  unfold State.commit
  dsimp only
  split
  · exact commitForm_keeps ‹_›
  · refine .ite (.ite (.answer fun _ h => h) .mismatch) ?_
    split
    · exact .failAnswer
    · refine .ite .refuse (.ite .refuse (.ite .acceptAnswer ?_))
      split
      · exact .refuse
      · exact .ite .refuse (.ite (.ite .refuse .acceptAnswer) .acceptAnswer)

theorem Ends.execBcpCommit {F rq} {s : State} : Ends F (Keeps s) (execBcpCommit rq s) :=
  .next fun h => .serve h (fun _ _ => .commit)

/-! ### CpuMem -/

theorem Canon.writeBack {s : State} {l} (h : Canon s) : Canon (s.writeBack l) :=
  .frame (.forEach h (fun _ _ h1 => .sramWrite h1))

theorem Canon.fetchWords {c base n acc} {s : State} (h : Canon s) : Canon (fetchWords c base n s acc).2 := by
  induction n generalizing s acc with
  | zero => exact h
  | succ n ih => exact .ite_snd (.busRead h) (ih (.busRead h))

theorem Canon.dFill {s : State} {c a} (h : Canon s) : Canon (s.dFill c a).2 := by
  unfold State.dFill
  dsimp only
  split <;> rename_i e
  · exact .of_snd e (.fetchWords h)
  · exact .modCc (by split; exacts [(.ite (.writeBack (.victim (.of_snd e (.fetchWords h)))) (.victim (.of_snd e
      (.fetchWords h)))), (.victim (.of_snd e (.fetchWords h)))])

theorem Canon.dLine {s : State} {c a} (h : Canon s) : Canon (s.dLine c a).2 := by
  unfold State.dLine
  split
  · exact h
  · exact .dFill h

theorem Canon.dLoad {s : State} {c a width} (h : Canon s) : Canon (s.dLoad c a width).2 :=
  .ite_snd h (.ite_snd h (.ite_snd (by split <;> rename_i e; exacts [(.of_snd e (.dLine h)), (.of_snd e (.dLine h))])
  (.ite_snd (.busRead h) (.busRead h))))

theorem Ends.dStore {F} {s : State} {c a width v} (hF : Stops F) :
    Ends F (fun q => Keeps s q.2) (s.dStore c a width v) := by
  unfold State.dStore
  dsimp only
  split
  · exact .nextSnd id
  · split
    · exact .nextSnd id
    · split
      · have hl (h : Canon s) : Canon (s.dLine c a).2 := .dLine h
        split <;> rename_i e
        · exact .nextSnd fun h => .modCc (.of_snd e (hl h))
        · exact .nextSnd fun h => .of_snd e (hl h)
      · have hw : Ends F (Keeps s) (s.busWrite ⟨coreInit c, true, width, BitVec.ofNat 32 a, v, .clean⟩) :=
          .busWrite fun _ => hF
        split <;> rename_i e <;> rw [e] at hw <;> exact hw

theorem Canon.baseUpdate {s : State} {c o v} (h : Canon s) : Canon (s.baseUpdate c o v) := by
  unfold State.baseUpdate
  split
  · exact .wr h
  · exact h

theorem Canon.ccLoad {s : State} {c o ext} (h : Canon s) : Canon (s.ccLoad c o ext) :=
  .ccIssue h fun t h => .ite (.raiseCc h) (by
    split
    · exact .raiseCc h
    · next a upd _ =>
      have hd : Canon (t.dLoad c a (2 ^ o.size.toNat)).2 := .dLoad h
      dsimp only
      split <;> rename_i e
      · exact .raiseCc (.of_snd e hd)
      · exact .ccNext (.wr (.baseUpdate (.of_snd e hd))))

theorem Ends.execCcLd {F c o} {s : State} : Ends F (Keeps s) (execCcLd c o s) := .next fun h => .ccLoad h
theorem Ends.execCcLdu {F c o} {s : State} : Ends F (Keeps s) (execCcLdu c o s) := .next fun h => .ccLoad h

theorem Ends.afterStore {F c r g} {s : State} (hr : Ends F (fun q => Keeps s q.2) r) (hg : ∀ t, Ends F (Keeps t) (g t)) :
    Ends F (Keeps s) (afterStore c r g) := by
  unfold Machine.afterStore
  split
  · exact .next fun h => .raiseCc (hr h)
  · exact .mono (hg _) hr
  · exact hr
  · exact hr

theorem Ends.execCcSt {F c o} {s : State} (hF : Stops F) : Ends F (Keeps s) (execCcSt c o s) :=
  .ccIssueR fun t => .ite (.next fun h => .raiseCc h) (by
    split
    · exact .next fun h => .raiseCc h
    · exact .afterStore (.dStore hF) fun _ => .next fun h => .ccNext (.baseUpdate h))

theorem Ends.spillWords {F c slot a n i} {s : State} (hF : Stops F) : Ends F (Keeps s) (spillWords c slot a n i s) := by
  induction n generalizing s i with
  | zero => exact .next fun h => .ccNext (.modCc h)
  | succ n ih => exact .afterStore (.dStore hF) fun _ => ih

theorem Ends.execCcWspill {F c ra} {s : State} (hF : Stops F) : Ends F (Keeps s) (execCcWspill c ra s) :=
  .ccIssueR fun _ => .ite (.next fun h => .ccNext h) (.spillWords hF)

theorem Canon.fillWords {c slot a n i} {s : State} (h : Canon s) : Canon (fillWords c slot a n i s) := by
  induction n generalizing s i with
  | zero => exact .ccNext (.modCc h)
  | succ n ih =>
    unfold Machine.fillWords
    split <;> rename_i e
    · exact .raiseCc (.of_snd e (.dLoad h))
    · exact ih (.result (.of_snd e (.dLoad h)))

theorem Ends.execCcWfill {F c ra} {s : State} : Ends F (Keeps s) (execCcWfill c ra s) :=
  .next fun h => .ccIssue h (fun _ h1 => .ite (.ccNext h1) (.fillWords h1))

theorem Canon.setP {s : State} {c n v} (h : Canon s) : Canon (s.setP c n v) := .result h

theorem Canon.strNext {s : State} {c e dst src} (h : Canon s) : Canon (s.strNext c e dst src) :=
  .setP (.ite (.setP (.ite (.setP h) h)) (.ite (.setP h) h))

theorem Ends.strRun {F c one irq n i} {s : State} (ho : ∀ t, Ends F (fun x => Keeps t x.state) (one t)) :
    Ends F (Keeps s) (strRun c one irq n i s) := by
  induction n generalizing s i with
  | zero => exact .next fun h => .ccNext h
  | succ n ih =>
    have hs := ho s
    unfold Machine.strRun
    split <;> rename_i e <;> rw [e] at hs
    · exact hs
    · exact hs
    · exact .next fun h => .raiseCc (hs h)
    · exact .next fun h => .ccNext (hs h)
    · refine .mono ?_ hs
      split
      · exact .next fun h => .enterIrq h
      · exact ih

theorem Ends.strExec {F} {s : State} {c e irq init one} (hi : ∀ t, Canon t → Canon (init t))
    (ho : ∀ k t, Ends F (fun x => Keeps t x.state) (one k t)) : Ends F (Keeps s) (s.strExec c e irq init one) :=
  .ccIssueR fun _ => .ite (.next fun h => .raiseCc h) (.mono (.strRun (ho _)) (hi _))

theorem Ends.strLoad {F c a e g} {s : State} (hg : ∀ v t, Ends F (fun x => Keeps t x.state) (g v t)) :
    Ends F (fun x => Keeps s x.state) (strLoad c a e s g) := by
  have hl (h : Canon s) : Canon (s.dLoad c a e).2 := .dLoad h
  unfold Machine.strLoad
  split <;> rename_i q
  · exact .nextStep fun h => .of_snd q (hl h)
  · exact .imp (fun _ hk h => hk (.of_snd q (hl h))) (hg _ _)

theorem Ends.strStore {F c a e v g} {s : State} (hF : Stops F) (hg : ∀ t, Keeps t (g t).state) :
    Ends F (fun x => Keeps s x.state) (strStore c a e v s g) := by
  have hs : Ends F (fun q => Keeps s q.2) (s.dStore c a e v) := .dStore hF
  unfold Machine.strStore
  split <;> rename_i q <;> rw [q] at hs
  · exact hs
  · exact .nextStep fun h => hg _ (hs h)
  · exact hs
  · exact hs

theorem Ends.execCcSmov {F c e stopAfter} {s : State} (hF : Stops F) : Ends F (Keeps s) (execCcSmov c e stopAfter s) :=
  .strExec (fun _ h => h) fun _ _ => .strLoad fun _ _ => .strStore hF fun _ h => .strNext h

theorem Ends.execCcSfill {F c e stopAfter} {s : State} (hF : Stops F) : Ends F (Keeps s) (execCcSfill c e stopAfter s) :=
  .strExec (fun _ h => h) fun _ _ => .strStore hF fun _ h => .strNext h

theorem Ends.execCcScmp {F c e stopAfter} {s : State} : Ends F (Keeps s) (execCcScmp c e stopAfter s) :=
  .strExec (fun _ h => .setP h) fun _ _ => .strLoad fun _ _ => .strLoad fun _ _ => .nextStep fun h => by
    split
    · exact .strNext h
    · exact .setP h

theorem Ends.execCcSfind {F c e stopAfter} {s : State} : Ends F (Keeps s) (execCcSfind c e stopAfter s) :=
  .strExec (fun _ h => h) fun _ _ => .strLoad fun _ _ => .nextStep fun h => by
    split
    · exact h
    · exact .strNext h

theorem Canon.cacheOp {s : State} {c o perm g} (h : Canon s) (hg : ∀ t x, Canon t → Canon (g t x)) : Canon (s.cacheOp
    c o perm g) :=
  .ccIssue h (fun _ h2 => by split; exacts [(.raiseCc h2), (.ite (.raiseCc h2) (.ccNext (.baseUpdate (hg _ _ h2))))])

theorem Canon.cacheAll {s : State} {c o g} (h : Canon s) (hg : ∀ t, Canon t → Canon (g t)) : Canon (s.cacheAll c o g)
    :=
  .ccIssue h (fun _ h2 => by split; exacts [(.raiseCc h2), (.ccNext (.baseUpdate (hg _ h2)))])

theorem Canon.dClean {s : State} {c p} (h : Canon s) : Canon (s.dClean c p) :=
  .modCc (.foldl h (fun _ _ h1 => .writeBack h1))

theorem Canon.dDrop {s : State} {c p} (h : Canon s) : Canon (s.dDrop c p) := .modCc h
theorem Canon.iDrop {s : State} {c p} (h : Canon s) : Canon (s.iDrop c p) := .modCc h

theorem Ends.execCcDclean {F c o} {s : State} : Ends F (Keeps s) (execCcDclean c o s) :=
  .next fun h => .cacheOp h (fun _ _ h1 => .dClean h1)

theorem Ends.execCcDinval {F c o} {s : State} : Ends F (Keeps s) (execCcDinval c o s) :=
  .next fun h => .cacheOp h (fun _ _ h1 => .dDrop h1)

theorem Ends.execCcDflush {F c o} {s : State} : Ends F (Keeps s) (execCcDflush c o s) :=
  .next fun h => .cacheOp h (fun _ _ h1 => .dDrop (.dClean h1))

theorem Ends.execCcDcleanAll {F c o} {s : State} : Ends F (Keeps s) (execCcDcleanAll c o s) :=
  .next fun h => .cacheAll h (fun _ h1 => .dClean h1)

theorem Ends.execCcDflushAll {F c o} {s : State} : Ends F (Keeps s) (execCcDflushAll c o s) :=
  .next fun h => .cacheAll h (fun _ h1 => .dDrop (.dClean h1))

theorem Ends.execCcIinval {F c o} {s : State} : Ends F (Keeps s) (execCcIinval c o s) :=
  .next fun h => .cacheOp h (fun _ _ h1 => .iDrop h1)

theorem Ends.execCcIinvalAll {F c o} {s : State} : Ends F (Keeps s) (execCcIinvalAll c o s) :=
  .next fun h => .cacheAll h (fun _ h1 => .iDrop h1)

/-! ### Dma -/

theorem Canon.dmaReads {l acc} {s : State} (h : Canon s) : Canon (dmaReads l s acc).2 := by
  induction l generalizing s acc with
  | nil => exact h
  | cons a l ih => exact .ite_snd (.busRead h) (ih (.busRead h))

theorem Ends.dmaWriteWord {F a lanes} {s : State} (hF : Stops F) : Ends F (Keeps s) (dmaWriteWord a lanes s) := by
  unfold Machine.dmaWriteWord
  refine .ite (.busWrite fun _ => hF) ?_
  suffices hl : ∀ r, Ends F (Keeps s) r → Ends F (Keeps s) (lanes.foldl (fun r p => Machine.bindRes r fun t =>
      if t.resp.err then .next t else t.busWrite ⟨.dma, true, 1, BitVec.ofNat 32 (a + p.1), p.2.setWidth 32, .clean⟩) r) from
    hl _ (.next fun h => .ret h)
  induction lanes with
  | nil => exact fun _ hr => hr
  | cons p lanes ih => exact fun r hr => ih _ (.bindRes hr fun _ => .ite (.next id) (.busWrite fun _ => hF))

theorem Ends.dmaWrites {F c dst bs fixed l i g} {s : State} (hF : Stops F) (hg : ∀ t, Ends F (Keeps t) (g t)) :
    Ends F (Keeps s) (dmaWrites c dst bs fixed l i s g) := by
  induction l generalizing s i with
  | nil => exact hg s
  | cons a l ih => exact .bindRes (.dmaWriteWord hF) fun _ => .ite (.next fun h => .dmaHalt (.setReg h)) ih

theorem Ends.dmaDone {F} {s : State} {c d} (hF : Stops F) : Ends F (Keeps s) (s.dmaDone c d) :=
  .bindRes (.busWrite fun _ => hF) fun _ => .ite (.next fun h => .dmaHalt h)
    (.next fun h => .ite (.dmaStop (.ite (.setFbit h) h)) (.dmaBegin (.ite (.setFbit h) h)))

theorem Ends.dmaMoved {F} {s : State} {c d n} (hF : Stops F) : Ends F (Keeps s) (s.dmaMoved c d n) :=
  .ite (.mono (.dmaDone hF) fun h => .setReg (.modDma h)) (.next fun h => .setReg (.modDma h))

theorem Ends.dmaMove {F} {s : State} {c d src dst n} (hF : Stops F) : Ends F (Keeps s) (s.dmaMove c d src dst n) := by
  have hr (h : Canon s) : Canon (dmaReads (if dBit d 28 then List.replicate ((n + 3) / 4) src else coverWords src n) s []).2 :=
    .dmaReads h
  unfold State.dmaMove
  dsimp only
  split <;> rename_i e
  · exact .next fun h => .dmaHalt (.of_snd e (hr h))
  · exact .mono (.dmaWrites hF fun _ => .dmaMoved hF) fun h => .of_snd e (hr h)

theorem Ends.dmaBurst {F} {s : State} {c d} (hF : Stops F) : Ends F (Keeps s) (s.dmaBurst c d) :=
  .ite (.dmaMove hF) (.ite (.next fun h => .dmaHalt (.busRead h)) (.mono (.dmaMove hF) fun h => .busRead h))

theorem Ends.execDmaBurst {F} {s : State} (hF : Stops F) : Ends F (Keeps s) (execDmaBurst s) :=
  .ite (by split; exacts [(by split; exacts [(.mono (.dmaBurst hF) fun h => .ite (.setFbit (.frame h)) (.frame h)),
  (.next fun h => h)]), (.next fun h => h)]) (.next fun h => h)

theorem Ends.execDmaGo {F ch} {s : State} : Ends F (Keeps s) (execDmaGo ch s) :=
  .next fun h => .ite (.dmaStart h) (.busErr h)

theorem Ends.execDmaStop {F ch} {s : State} : Ends F (Keeps s) (execDmaStop ch s) :=
  .next fun h => .ite (.ite (.dmaStop h) h) (.busErr h)

theorem Ends.execDmaClrhalt {F} {s : State} : Ends F (Keeps s) (execDmaClrhalt s) :=
  .next fun h => .ite (.dmaClear h) (.busErr h)

theorem Ends.execDmaSwreqWrite {F data} {s : State} (hF : ReservedStops F R.DMA_SWREQ data) : Ends F (Keeps s)
    (execDmaSwreqWrite data s) :=
  .ite (.writeTo hF fun h => .plainWrite h) (.next fun h => .busErr h)

/-! ### Settle -/

theorem Canon.settle {s : State} {t : State} (ht : Canon t) : Canon (s.settle t) :=
  .ite (.pmuEval ht) ht

theorem Ends.execArm {F} {s : State} : Ends F (Keeps s) (execArm s) := .next fun h => .settle (.arm h)

theorem Ends.execSampleTick {F d i} {s : State} : Ends F (Keeps s) (execSampleTick d i s) :=
  .next fun h => .settle (.sampleTick (.advance h))

theorem Ends.execReconcileDone {F goldenBad} {s : State} : Ends F (Keeps s) (execReconcileDone goldenBad s) :=
  .next fun h => .settle (.reconcileDone h)

theorem Ends.execAcsLock {F a} {s : State} : Ends F (Keeps s) (execAcsLock a s) :=
  .next fun h => .forEach (.acsLocked h) (fun _ _ h1 => .anchorStart h1)

/-! ### Update -/

theorem Canon.modFw {s : State} {g} (h : Canon s) : Canon (s.modFw g) := .frame h

theorem Ends.execBcpFwbegin {F rq} {s : State} : Ends F (Keeps s) (execBcpFwbegin rq s) :=
  .next fun h => .serve h (fun _ _ => .ite .refuse (.ite .refuse (.ite .refuseAt (.answer (fun _ h => .regionErase
  (.modFw h))))))

theorem Ends.execFwEraseDone {F ok} {s : State} : Ends F (Keeps s) (execFwEraseDone ok s) :=
  .next fun h => .ite h (.raise (.modFw h))

theorem Ends.execBcpFwdata {F rq flashOk} {s : State} : Ends F (Keeps s) (execBcpFwdata rq flashOk s) :=
  .next fun h => .serve h (fun _ _ => .ite .refuse (.ite (.mk (fun _ h => h)) (.ite .refuseAt (.ite .refuse (.answer
  (fun _ h => .modFw (.regionWrite h)))))))

theorem Ends.execBcpFwend {F rq} {s : State} : Ends F (Keeps s) (execBcpFwend rq s) :=
  .next fun h => .serve h (fun _ _ => .ite .refuse (.ite .refuse (.answer (fun _ h => .modFw h))))

theorem Canon.fwVerified {s : State} {st version} (h : Canon s) : Canon (s.fwVerified st version) := .raise (.modFw h)

theorem Ends.execFwVerifyDone {F flashOk} {s : State} : Ends F (Keeps s) (execFwVerifyDone flashOk s) :=
  .next fun h => .ite h (.ite (.fwVerified h) (.ite (.fwVerified h) (.ite (.fwVerified (.free h)) (.fwVerified
  (.regionWrite h)))))

theorem Ends.execBcpFwstat {F rq} {s : State} : Ends F (Keeps s) (execBcpFwstat rq s) :=
  .next fun h => .serve h (fun _ _ => .answer (fun _ h => h))

theorem Ends.execBcpReset {F rq} {s : State} : Ends F (Keeps s) (execBcpReset rq s) :=
  .next fun h => .serve h (fun _ _ => .ite .refuseAt (.answer (fun _ h => .modFw h)))

theorem Ends.execResetDelayExpiry {F} {s : State} : Ends F (Keeps s) (execResetDelayExpiry s) :=
  .next fun h => .ite h (.requestReset (.forEach (.modFw (.jStamp (.jWrite h))) (fun _ _ h1 => .closeSession h1)))

/-! ## Every command -/

/-- What any command does: its stops are those of the register that it writes by name, and of its stores. -/
theorem exec_ends {F} {c : Instr} {s : State} (hreg : ∀ a d, regWritten c = some (a, d) → ReservedStops F a d)
    (hst : regWritten c = none → mayStore c = true → Stops F) : Ends F (Keeps s) (exec c s) := by
  cases c with
  | registerWrite => exact .execRegisterWrite (hst rfl rfl)
  | busAccess => exact .execBusAccess (hst rfl rfl)
  | engineWindowWrite => exact .execEngineWindowWrite
  | engineWindowRead => exact .execEngineWindowRead
  | ldsHostAccess => exact .execLdsHostAccess
  | sampleTick => exact .execSampleTick
  | domainStart => exact .execDomainStart
  | longWriteDrain => exact .execLongWriteDrain
  | passDone => exact .execPassDone
  | rNop => exact .execRNop
  | rEnd _ h => exact .execREnd (hd := h)
  | rRpt _ h => exact .execRRpt (hd := h)
  | rRptc _ h => exact .execRRptc (hd := h)
  | rMac => exact .execRMac
  | rMacd => exact .execRMacd
  | rMacw => exact .execRMacw
  | rMacqd => exact .execRMacqd
  | rMacqc => exact .execRMacqc
  | rTap => exact .execRTap
  | rTapm => exact .execRTapm
  | rFdr => exact .execRFdr
  | rClrq => exact .execRClrq
  | rLdq => exact .execRLdq
  | rAddq => exact .execRAddq
  | rStq => exact .execRStq
  | rLd => exact .execRLd
  | rSt => exact .execRSt
  | rLuti => exact .execRLuti
  | rMov => exact .execRMov
  | rAdd => exact .execRAdd
  | rAdds => exact .execRAdds
  | rSub => exact .execRSub
  | rSubs => exact .execRSubs
  | rAnd => exact .execRAnd
  | rOr => exact .execROr
  | rXor => exact .execRXor
  | rShl => exact .execRShl
  | rShr => exact .execRShr
  | rAsr => exact .execRAsr
  | rMin => exact .execRMin
  | rMax => exact .execRMax
  | rAbs => exact .execRAbs
  | rMovs => exact .execRMovs
  | rMova => exact .execRMova
  | rAdda => exact .execRAdda
  | rMovm => exact .execRMovm
  | rMovad => exact .execRMovad
  | rMovmd => exact .execRMovmd
  | rCmp => exact .execRCmp
  | rPlog => exact .execRPlog
  | rPset => exact .execRPset
  | unassignedRenderOpcode _ w => exact .execUnassignedRenderOpcode (w := w)
  | engSwap => exact .execEngSwap
  | engClear => exact .execEngClear
  | clearDone => exact .execClearDone
  | bistGo => exact .execBistGo
  | bistDone => exact .execBistDone
  | testPass => exact .execTestPass
  | testPassLimit => exact .execTestPassLimit
  | halfRequest => exact .execHalfRequest
  | halfClearDone => exact .execHalfClearDone
  | scrub => exact .execScrub
  | epochWrite => exact .execEpochWrite
  | arm => exact .execArm
  | unitAck => exact .execUnitAck
  | reconcileDone => exact .execReconcileDone
  | stgMetdataRead who => exact .execStgMetdataRead (who := who)
  | sampleIndexRead who => exact .execSampleIndexRead (who := who)
  | boundaryTimeRead who => exact .execBoundaryTimeRead (who := who)
  | sampleCounterRead who => exact .execSampleCounterRead (who := who)
  | passmaxRead who => exact .execPassmaxRead (who := who)
  | ldsPeakRead who => exact .execLdsPeakRead (who := who)
  | windowEnd => exact .execWindowEnd
  | tsuSample => exact .execTsuSample
  | tripShutdown => exact .execTripShutdown
  | shadowForce => exact .execShadowForce
  | avsSettled => exact .execAvsSettled
  | pmuEval => exact .execPmuEval
  | powerStateEntry => exact .execPowerStateEntry
  | wakePin => exact .execWakePin
  | wakeTimer => exact .execWakeTimer
  | gpioWake => exact .execGpioWake
  | uart0StartWake => exact .execUart0StartWake
  | uartAddressWake => exact .execUartAddressWake
  | hspWake => exact .execHspWake
  | netframeWake => exact .execNetframeWake
  | cloneStart => exact .execCloneStart
  | cloneLoadDone => exact .execCloneLoadDone
  | cloneCopyDone => exact .execCloneCopyDone
  | compareWindowDone => exact .execCompareWindowDone
  | shadowAbort => exact .execShadowAbort
  | handoverRequest => exact .execHandoverRequest
  | coldLoadDone => exact .execColdLoadDone
  | ageMeasure => exact .execAgeMeasure
  | ageMeasureDone => exact .execAgeMeasureDone
  | ageFmaxWrite => exact .execAgeFmaxWrite (hreg _ _ rfl)
  | sysupd => exact .execSysupd
  | loopLock => exact .execLoopLock
  | engineClockSet => exact .execEngineClockSet
  | engineClockLock => exact .execEngineClockLock
  | acsUpdate => exact .execAcsUpdate
  | acsLock => exact .execAcsLock
  | acsRelock => exact .execAcsRelock
  | acsClrq => exact .execAcsClrq
  | phaseStepAdd => exact .execPhaseStepAdd
  | phaseStepIssue => exact .execPhaseStepIssue
  | acsCoast => exact .execAcsCoast
  | frequencyCheck => exact .execFrequencyCheck
  | referenceReturn => exact .execReferenceReturn
  | systemReferenceLost => exact .execSystemReferenceLost
  | mdllUnlock => exact .execMdllUnlock
  | engineMdllUnlock => exact .execEngineMdllUnlock
  | slowClockLoss => exact .execSlowClockLoss
  | acsLiveRead who => exact .execAcsLiveRead (who := who)
  | aspStart => exact .execAspStart
  | aspStop => exact .execAspStop
  | aspTrigGo => exact .execAspTrigGo
  | slaveFrame => exact .execSlaveFrame
  | clockLost => exact .execClockLost
  | slotmaskRead who => exact .execSlotmaskRead (who := who)
  | pdmStuck => exact .execPdmStuck
  | iecRxFrame => exact .execIecRxFrame
  | iecLockLoss => exact .execIecLockLoss
  | iecStatusRead who => exact .execIecStatusRead (who := who)
  | iecCsUpdate => exact .execIecCsUpdate
  | srcAcquired => exact .execSrcAcquired
  | srcRampDone => exact .execSrcRampDone
  | frameReceive => exact .execFrameReceive
  | egressTransmit => exact .execEgressTransmit
  | internalPortTransmit => exact .execInternalPortTransmit
  | macAgeing => exact .execMacAgeing
  | mtRead => exact .execMtRead
  | mtWriteStatic => exact .execMtWriteStatic
  | mtDelete => exact .execMtDelete
  | mtFlush => exact .execMtFlush
  | mdioC22Write => exact .execMdioC22Write
  | mdioC22Read => exact .execMdioC22Read
  | mdioC45Address => exact .execMdioC45Address
  | mdioC45Write => exact .execMdioC45Write
  | mdioC45Read => exact .execMdioC45Read
  | tsfInfoRead who => exact .execTsfInfoRead (who := who)
  | dropsRead who => exact .execDropsRead (who := who)
  | linkDown => exact .execLinkDown
  | linkUp => exact .execLinkUp
  | timeSourceLoss => exact .execTimeSourceLoss
  | tuSet => exact .execTuSet
  | tuStep => exact .execTuStep
  | tuSourceSwitch => exact .execTuSourceSwitch
  | tuNsRead who => exact .execTuNsRead (who := who)
  | tuLnslRead who => exact .execTuLnslRead (who := who)
  | tuLnslWrite => exact .execTuLnslWrite
  | tpulseArm => exact .execTpulseArm
  | tpulseDisarm => exact .execTpulseDisarm
  | tpulseEdge => exact .execTpulseEdge
  | tcapEdge => exact .execTcapEdge
  | tcapRead who => exact .execTcapRead (who := who)
  | trigArm => exact .execTrigArm
  | trigDisarm => exact .execTrigDisarm
  | trigFire => exact .execTrigFire
  | doorbellWrite who _ _ meets => exact .execDoorbellWrite (who := who) (ackMeets := meets)
  | sessionIdleTimeout => exact .execSessionIdleTimeout
  | hspMsg => exact .execHspMsg
  | hspRead => exact .execHspRead
  | hspStatus => exact .execHspStatus
  | hspRxdataRead who => exact .execHspRxdataRead (who := who)
  | hspTxdataWrite => exact .execHspTxdataWrite
  | hspRsplenWrite => exact .execHspRsplenWrite (hreg _ _ rfl)
  | bcpOpen => exact .execBcpOpen
  | bcpClose => exact .execBcpClose
  | bcpPing => exact .execBcpPing
  | bcpGet => exact .execBcpGet
  | bcpStage => exact .execBcpStage
  | bcpUnstage => exact .execBcpUnstage
  | bcpDiscard => exact .execBcpDiscard
  | bcpCommit => exact .execBcpCommit
  | bcpList => exact .execBcpList
  | bcpDescribe => exact .execBcpDescribe
  | bcpImgbegin => exact .execBcpImgbegin
  | bcpImgdata => exact .execBcpImgdata
  | bcpImgend => exact .execBcpImgend
  | bcpImgread => exact .execBcpImgread
  | bcpTblget => exact .execBcpTblget
  | bcpTblstage => exact .execBcpTblstage
  | bcpMeters => exact .execBcpMeters
  | bcpSubscribe => exact .execBcpSubscribe
  | bcpEvstat => exact .execBcpEvstat
  | bcpPowerstat => exact .execBcpPowerstat
  | bcpLehrstat => exact .execBcpLehrstat
  | bcpEngmap => exact .execBcpEngmap
  | bcpRelease => exact .execBcpRelease
  | bcpRetire => exact .execBcpRetire
  | bcpLogread => exact .execBcpLogread
  | bcpJsync => exact .execBcpJsync
  | bcpJclear => exact .execBcpJclear
  | bcpFwbegin => exact .execBcpFwbegin
  | fwEraseDone => exact .execFwEraseDone
  | bcpFwdata => exact .execBcpFwdata
  | bcpFwend => exact .execBcpFwend
  | fwVerifyDone => exact .execFwVerifyDone
  | bcpFwstat => exact .execBcpFwstat
  | bcpReset => exact .execBcpReset
  | resetDelayExpiry => exact .execResetDelayExpiry
  | uartRxCharacter => exact .execUartRxCharacter
  | autobaudTimeout => exact .execAutobaudTimeout
  | uartTxCharacter => exact .execUartTxCharacter
  | deHoldExpiry => exact .execDeHoldExpiry
  | uartTxdataWrite => exact .execUartTxdataWrite (hreg _ _ rfl)
  | uartRxdataRead who => exact .execUartRxdataRead (who := who)
  | uartBaudWrite => exact .execUartBaudWrite (hreg _ _ rfl)
  | uartRxflush => exact .execUartRxflush
  | uartTxflush => exact .execUartTxflush
  | uartTxbrk => exact .execUartTxbrk
  | uartDisable => exact .execUartDisable
  | pscCommandWrite => exact .execPscCommandWrite (hreg _ _ rfl)
  | pscTransfer => exact .execPscTransfer
  | pscAbort => exact .execPscAbort
  | pscTxdataWrite => exact .execPscTxdataWrite
  | pscRxdataRead who => exact .execPscRxdataRead (who := who)
  | i2cXferGo => exact .execI2cXferGo (hreg _ _ rfl)
  | i2cTimeout => exact .execI2cTimeout
  | i2cClear => exact .execI2cClear
  | i2cDataWrite => exact .execI2cDataWrite (hreg _ _ rfl)
  | i2cDataRead who => exact .execI2cDataRead (who := who)
  | gpioEdge => exact .execGpioEdge
  | gpioSet => exact .execGpioSet (hreg _ _ rfl)
  | gpioClr => exact .execGpioClr (hreg _ _ rfl)
  | xmpTransfer => exact .execXmpTransfer (hreg _ _ rfl)
  | xmpPollDone => exact .execXmpPollDone
  | xmpPollTimeout => exact .execXmpPollTimeout
  | xmpAbort => exact .execXmpAbort
  | xmpEcccntRead who => exact .execXmpEcccntRead (who := who)
  | xipEnable => exact .execXipEnable
  | xipLock => exact .execXipLock
  | xipRead => exact .execXipRead
  | xipCacheInvalidate => exact .execXipCacheInvalidate
  | journalFrameWrite => exact .execJournalFrameWrite
  | journalStamp => exact .execJournalStamp
  | journalWriteDone => exact .execJournalWriteDone
  | retentionScan => exact .execRetentionScan
  | deviceReset => exact .execDeviceReset
  | romStatus => exact .execRomStatus
  | romBegin => exact .execRomBegin
  | romData => exact .execRomData
  | romEnd => exact .execRomEnd
  | recoveryWindowClose => exact .execRecoveryWindowClose
  | fuseProgram => exact .execFuseProgram (hreg _ _ rfl)
  | kdfGo => exact .execKdfGo (hreg _ _ rfl)
  | kdfBoundSet => exact .execKdfBoundSet (hreg _ _ rfl)
  | keyClear => exact .execKeyClear
  | hashStart => exact .execHashStart
  | hashDataWrite => exact .execHashDataWrite
  | hashFinish => exact .execHashFinish
  | verifyGo => exact .execVerifyGo
  | verifyDone => exact .execVerifyDone
  | supplyMonitorFail => exact .execSupplyMonitorFail
  | vddAonLoss => exact .execVddAonLoss
  | rstN => exact .execRstN
  | s5ExitRetry => exact .execS5ExitRetry
  | ccAdd => exact .execCcAdd
  | ccSub => exact .execCcSub
  | ccAnd => exact .execCcAnd
  | ccOr => exact .execCcOr
  | ccXor => exact .execCcXor
  | ccShl => exact .execCcShl
  | ccShr => exact .execCcShr
  | ccAsr => exact .execCcAsr
  | ccSlt => exact .execCcSlt
  | ccSltu => exact .execCcSltu
  | ccMul => exact .execCcMul
  | ccMulh => exact .execCcMulh
  | ccMulhu => exact .execCcMulhu
  | ccDiv => exact .execCcDiv
  | ccDivu => exact .execCcDivu
  | ccRem => exact .execCcRem
  | ccRemu => exact .execCcRemu
  | ccAddi => exact .execCcAddi
  | ccSlti => exact .execCcSlti
  | ccAndi => exact .execCcAndi
  | ccOri => exact .execCcOri
  | ccXori => exact .execCcXori
  | ccShli => exact .execCcShli
  | ccShri => exact .execCcShri
  | ccAsri => exact .execCcAsri
  | ccLui => exact .execCcLui
  | ccMfs => exact .execCcMfs
  | ccMts => exact .execCcMts (hst rfl rfl)
  | ccTrap => exact .execCcTrap
  | ccLd => exact .execCcLd
  | ccLdu => exact .execCcLdu
  | ccSt => exact .execCcSt (hst rfl rfl)
  | ccCb => exact .execCcCb
  | ccCbi => exact .execCcCbi
  | ccJ => exact .execCcJ
  | ccCall => exact .execCcCall
  | ccCallr => exact .execCcCallr
  | ccRet => exact .execCcRet
  | ccEret => exact .execCcEret
  | ccWeret => exact .execCcWeret
  | ccWait => exact .execCcWait
  | ccSync => exact .execCcSync
  | ccIsync => exact .execCcIsync
  | ccWspill => exact .execCcWspill (hst rfl rfl)
  | ccWfill => exact .execCcWfill
  | ccSmov => exact .execCcSmov (hst rfl rfl)
  | ccSfill => exact .execCcSfill (hst rfl rfl)
  | ccScmp => exact .execCcScmp
  | ccSfind => exact .execCcSfind
  | ccDclean => exact .execCcDclean
  | ccDinval => exact .execCcDinval
  | ccDflush => exact .execCcDflush
  | ccDcleanAll => exact .execCcDcleanAll
  | ccDflushAll => exact .execCcDflushAll
  | ccIinval => exact .execCcIinval
  | ccIinvalAll => exact .execCcIinvalAll
  | ccIllegalInstruction _ w => exact .execCcIllegalInstruction (w := w)
  | irqEntry => exact .execIrqEntry
  | cycleCounterRead => exact .execCycleCounterRead
  | ecccntRead => exact .execEcccntRead
  | wdkickWrite => exact .execWdkickWrite (hst rfl rfl)
  | watchdogWarn => exact .execWatchdogWarn
  | watchdogExpiry => exact .execWatchdogExpiry
  | cc1WatchdogExpiry => exact .execCc1WatchdogExpiry
  | cc1AppRestart => exact .execCc1AppRestart
  | mpuRegionLock => exact .execMpuRegionLock
  | dmaGo => exact .execDmaGo
  | dmaStop => exact .execDmaStop
  | dmaClrhalt => exact .execDmaClrhalt
  | dmaSwreqWrite => exact .execDmaSwreqWrite (hreg _ _ rfl)
  | dmaBurst => exact .execDmaBurst (hst rfl rfl)
  | wakeRelease => exact .execWakeRelease
  | systemReferenceReturn => exact .execSystemReferenceReturn
  | stoppedDomainFrame => exact .execStoppedDomainFrame
  | ratioOutOfRange => exact .execRatioOutOfRange
  | i2cTransferEnd => exact .execI2cTransferEnd
  | checkOverdue => exact .execCheckOverdue
  | aonPowerOn => exact .execAonPowerOn
  | receiveClockChange => exact .execReceiveClockChange

/-- An outcome with no fault is a state. -/
theorem Ends.exists_next {α : Type} {P : α → Prop} {r : Res α} (h : Ends (fun _ => False) P r) : ∃ t, r = .next t := by
  cases r with
  | next t => exact ⟨t, rfl⟩
  | fault x => exact h.elim
  | refused x => exact h.elim

/-- An outcome is a state or a fault that it may have. -/
theorem Ends.next_or_fault {α : Type} {F} {P : α → Prop} {r : Res α} (h : Ends F P r) :
    (∃ t, r = .next t) ∨ ∃ x, r = .fault x ∧ F x := by
  cases r with
  | next t => exact .inl ⟨t, rfl⟩
  | fault x => exact .inr ⟨x, rfl, h⟩
  | refused x => exact h.elim

/-- No command is refused, and its only stop is a write of 1 to a reserved bit (R5). -/
theorem exec_next_or_reservedBitWritten (c : Instr) (s : State) :
    (∃ t, exec c s = .next t) ∨ ∃ a, exec c s = .fault (.reservedBitWritten a) := by
  have h : Ends (fun x => ∃ a, x = .reservedBitWritten a) (Keeps s) (exec c s) :=
    exec_ends (fun _ _ _ _ _ _ => ⟨_, rfl⟩) fun _ _ _ => ⟨_, rfl⟩
  obtain ht | ⟨_, hx, a, rfl⟩ := h.next_or_fault
  · exact .inl ht
  · exact .inr ⟨a, hx⟩

/-- A command that writes a register by name completes when its data names no reserved bit. -/
theorem exec_regWritten_completes {c : Instr} {a : Nat} {d : Word} (s : State) (hc : regWritten c = some (a, d))
    (hd : ∀ r, regRow a = some r → d.toNat &&& r.reserved = 0) : ∃ t, exec c s = .next t := by
  refine (exec_ends (s := s) (fun a' d' hc' r hr hne => ?_) (by simp [hc])).exists_next
  obtain ⟨rfl, rfl⟩ : a = a' ∧ d = d' := by simpa [hc] using hc'
  exact hne (hd r hr)

/-- A command that writes no register completes without a condition. -/
theorem exec_completes {c : Instr} (s : State) (hc : regWritten c = none) (hst : mayStore c = false) :
    ∃ t, exec c s = .next t :=
  (exec_ends (s := s) (by simp [hc]) (by simp [hst])).exists_next

theorem exec_keeps_canon {c : Instr} {s t : State} (h : Canon s) (e : exec c s = .next t) : Canon t :=
  (exec_ends (F := fun _ => True) (fun _ _ _ _ _ _ => trivial) fun _ _ _ => trivial).keeps e h

theorem step_keeps_canon {s t : State} (h : Canon s) (e : step s = .next t) : Canon t := by
  unfold step at e
  split at e
  · cases e
    exact .advance h
  · exact exec_keeps_canon (.frame h) e

end Sys2Proof.Machine

open Sys2Proof Sys2Proof.Machine

/-- Settles O59: every model function leaves the canonical form, for the registers and control SRAM change through the
operations that keep it alone. -/
theorem stepsKeepTheCanonicalForm : Obligations.StepsKeepTheCanonicalForm :=
  fun _ _ hr hm e => step_keeps_canon ⟨hr, hm⟩ e

/-- Settles O58, by the outcomes that the same lemmas give each command. -/
theorem commandsComplete : Obligations.CommandsComplete :=
  fun c s => ⟨exec_completes s, fun _ _ => exec_regWritten_completes s, exec_next_or_reservedBitWritten c s⟩

end

section
namespace Sys2Proof.Machine

/-! ## The state after reset -/

/-- On an empty queue one tick of the time unit passes (log 1). -/
theorem step_of_empty {s : State} (h : s.pending = []) : step s = .next (s.advance { ticks := 1, slow := 0 }) := by
  unfold step
  rw [h]

theorem replicate_getElem?_getD {α : Type} (n i : Nat) (x : α) : ((Vector.replicate n x)[i]?).getD x = x := by
  rw [Vector.getElem?_replicate]
  split <;> rfl

theorem reset_eng (e : Nat) : State.reset.eng e = Engine.init := replicate_getElem?_getD 17 e _
theorem reset_mb (m : Nat) : State.reset.mb m = Mailbox.init := replicate_getElem?_getD 64 m _
theorem reset_cc (c : Nat) : State.reset.cc c = CtlCore.init := replicate_getElem?_getD 2 c _

end Sys2Proof.Machine

open Sys2Proof Sys2Proof.Machine

/-- Settles O60, for the reset state lists nothing and every unit stands at its initial value. -/
theorem resetState : Obligations.ResetState := by
  refine ⟨rfl, rfl, fun _ => rfl, fun _ => rfl, fun e => ?_, fun m => ?_, rfl, rfl, fun c => ?_, fun _ => step_of_empty⟩
  · rw [reset_eng]
    exact ⟨rfl, fun _ => ⟨rfl, rfl⟩⟩
  · rw [reset_mb]
    exact ⟨rfl, rfl⟩
  · rw [reset_cc]
    exact ⟨rfl, rfl⟩

end

section
namespace Sys2Proof.Machine

/-! ## Register writes by their field types -/

theorem meet_resp (s : State) (a : Nat) (bits : Word) : (s.meet a bits).resp = s.resp := by
  unfold State.meet
  split <;> rfl

theorem meet_of_row {s : State} {a : Nat} {bits : Word} {r : RegRow} (hr : regRow a = some r) :
    s.meet a bits = s.setReg a (s.reg a ||| (bits &&& BitVec.ofNat 32 r.w1c)) := by
  unfold State.meet
  rw [hr]

/-- A W1C bit that hardware sets in the cycle of a write stands set after it (R7). -/
theorem meet_sets_w1c {s : State} {a i : Nat} {bits : Word} {r : RegRow} (hr : regRow a = some r) (hi : i < 32)
    (hw : r.w1c.testBit i = true) (hm : bits.getLsbD i = true) : ((s.meet a bits).reg a).getLsbD i = true := by
  rw [meet_of_row hr, reg_setReg_same]
  simp only [BitVec.getLsbD_or, BitVec.getLsbD_and, BitVec.getLsbD_ofNat, hi, hw, hm, decide_true, Bool.and_true,
    Bool.or_true]

theorem writeTo_reserved {a : Nat} {d : Word} {s : State} {r : RegRow} (hr : regRow a = some r)
    (hd : d.toNat &&& r.reserved ≠ 0) : writeTo a d s = .fault (.reservedBitWritten a) := by
  unfold writeTo
  rw [hr]
  exact if_pos hd

theorem writeTo_defined {a : Nat} {d : Word} {s : State} {r : RegRow} (hr : regRow a = some r)
    (hd : d.toNat &&& r.reserved = 0) : writeTo a d s = .next s := by
  unfold writeTo
  rw [hr]
  exact if_neg (by simpa using hd)

theorem sramOff_of_register {n : Nat} (h : 0x40000000 ≤ n) : sramOff n = none := by
  unfold sramOff
  rw [if_neg (by omega), if_neg (by omega)]

/-- A write that the map and the domains accept goes to its register. -/
theorem busWrite_register {s : State} {a : Access} (hk : s.busKind a = none) (hn : 0x40000000 ≤ a.addr.toNat) :
    s.busWrite a = bindRes (writeTo a.addr.toNat a.data s) fun s =>
      bindRes (s.regWrite a.who a.addr.toNat a.data) fun s => .next (s.ret 0) := by
  simp only [State.busWrite, hk, sramOff_of_register hn, Option.isSome_none, Bool.false_eq_true, if_false]
  rw [if_neg (by omega), if_neg (by omega)]

theorem busOne_of_busWrite_next {s t : State} {a : Access} (hw : a.write = true) (h : s.busWrite a = .next t)
    (ht : t.resp.err = false) : s.busOne a = .next t := by
  simp [State.busOne, State.busAccess, hw, h, bindRes, ht]

theorem bindRes_next (s : State) (g : State → Res State) : bindRes (.next s) g = g s := rfl
theorem bindRes_fault (x : Fault) (g : State → Res State) : bindRes (.fault x) g = .fault x := rfl

theorem busWrite_register_next {s t : State} {a : Access} {r : RegRow} (hk : s.busKind a = none)
    (hn : 0x40000000 ≤ a.addr.toNat) (hr : regRow a.addr.toNat = some r) (hd : a.data.toNat &&& r.reserved = 0)
    (ht : s.regWrite a.who a.addr.toNat a.data = .next t) : s.busWrite a = .next (t.ret 0) := by
  rw [busWrite_register hk hn, writeTo_defined hr hd, bindRes_next, ht, bindRes_next]

theorem busWrite_register_reserved {s : State} {a : Access} {r : RegRow} (hk : s.busKind a = none)
    (hn : 0x40000000 ≤ a.addr.toNat) (hr : regRow a.addr.toNat = some r) (hd : a.data.toNat &&& r.reserved ≠ 0) :
    s.busWrite a = .fault (.reservedBitWritten a.addr.toNat) := by
  rw [busWrite_register hk hn, writeTo_reserved hr hd, bindRes_fault]

/-- A register write that names no reserved bit leaves what the register's own effect leaves, with the bits that hardware
sets meanwhile (R7). -/
theorem execRegisterWrite_next {who : Initiator} {addr data meets : Word} {r : RegRow} {s t : State}
    (hk : s.busKind ⟨who, true, 4, addr, data, .clean⟩ = none) (hn : 0x40000000 ≤ addr.toNat)
    (hr : regRow addr.toNat = some r) (hd : data.toNat &&& r.reserved = 0)
    (ht : s.regWrite who addr.toNat data = .next t) :
    execRegisterWrite who addr data meets s = .next ((t.ret 0).meet addr.toNat meets) := by
  have hw := busWrite_register_next hk hn hr hd ht
  have he : (t.ret 0).resp.err = false := rfl
  rw [execRegisterWrite, busOne_of_busWrite_next rfl hw he, bindRes_next, he, if_neg Bool.false_ne_true]

theorem execRegisterWrite_reserved {who : Initiator} {addr data meets : Word} {r : RegRow} {s : State}
    (hk : s.busKind ⟨who, true, 4, addr, data, .clean⟩ = none) (hn : 0x40000000 ≤ addr.toNat)
    (hr : regRow addr.toNat = some r) (hd : data.toNat &&& r.reserved ≠ 0) :
    execRegisterWrite who addr data meets s = .fault (.reservedBitWritten addr.toNat) := by
  have hw := busWrite_register_reserved hk hn hr hd
  rw [execRegisterWrite, State.busOne, State.busAccess, if_pos rfl, hw, bindRes_fault, bindRes_fault]

/-- A write to a register that the map lists and the domains allow completes without a bus error. -/
theorem execRegisterWrite_completes {who : Initiator} {addr data : Word} (meets : Word) {r : RegRow} {s : State}
    (hk : s.busKind ⟨who, true, 4, addr, data, .clean⟩ = none) (hn : 0x40000000 ≤ addr.toNat)
    (hr : regRow addr.toNat = some r) (hd : data.toNat &&& r.reserved = 0) :
    ∃ t, execRegisterWrite who addr data meets s = .next t ∧ t.resp = ⟨0, false⟩ ∧
      ∀ i, i < 32 → r.w1c.testBit i = true → meets.getLsbD i = true → (t.reg addr.toNat).getLsbD i = true := by
  obtain ⟨t, ht⟩ := (Ends.regWrite (F := fun _ => False) (s := s) (who := who) (a := addr.toNat) (d := data)).exists_next
  exact ⟨_, execRegisterWrite_next hk hn hr hd ht, meet_resp .., fun i hi hw hm => meet_sets_w1c hr hi hw hm⟩

/-! ### The exchange and the LDS -/

/-- The registers of the exchange and the LDS that have no more to a write than their field types. -/
abbrev PlainReg (a : Nat) : Prop :=
  (R.XCH_ERR ≤ a ∧ a ≤ R.XCH_MUTE) ∨ (R.XCH_ROUTE 0 ≤ a ∧ a < 0x40040000) ∨ (R.LDS_CTRL < a ∧ a < 0x40180000)

theorem PlainReg.bounds {a : Nat} (h : PlainReg a) :
    (0x40030004 ≤ a ∧ a ≤ 0x40030010) ∨ (0x40031000 ≤ a ∧ a < 0x40040000) ∨ (0x40170000 < a ∧ a < 0x40180000) := h

theorem PlainReg.blockOn {s : State} {a : Nat} (h : PlainReg a) (hs : s.on 21 = true) : s.blockOn a = true := by
  have hk : (a - 0x40000000) / 0x10000 = 3 ∨ (a - 0x40000000) / 0x10000 = 0x17 := by
    have := h.bounds
    omega
  rcases hk with hk | hk <;> simp [State.blockOn, hk, hs]

theorem PlainReg.busKind {s : State} {a : Nat} {who : Initiator} {r : RegRow} {d : Word} (h : PlainReg a)
    (hw : who = .cc0 ∨ who = .cc1 ∨ who = .dma) (hs : s.on 21 = true) (hr : regRow a = some r) (ha : a % 4 = 0) :
    s.busKind ⟨who, true, 4, BitVec.ofNat 32 a, d, .clean⟩ = none := by
  have hb := h.bounds
  have hn : (BitVec.ofNat 32 a).toNat = a := by
    rw [BitVec.toNat_ofNat]
    omega
  have hwide : (isCore who || who == .dma) = true := by
    rcases hw with rfl | rfl | rfl <;> rfl
  simp only [State.busKind, hn, sramOff_of_register (show 0x40000000 ≤ a by omega), hwide]
  rw [if_neg (by simp), if_neg (by simp), if_neg (by omega), if_neg (by omega), if_neg (by omega), if_pos (by omega),
    if_neg (by omega), if_neg (by simp [hr]), if_pos (h.blockOn hs)]

theorem PlainReg.regWrite {s : State} {a : Nat} {who : Initiator} {d : Word} (h : PlainReg a) :
    s.regWrite who a d = .next (s.plainWrite a d) := by
  have hb := h.bounds
  have hk : (a - 0x40000000) / 0x10000 = 3 ∨ (a - 0x40000000) / 0x10000 = 0x17 := by omega
  rcases hk with hk | hk
  · simp only [State.regWrite, hk, State.writeXch]
    rw [if_neg (by simp only [R.XCH_CTRL]; omega), if_neg (by simp only [R.RD_CTRL]; omega)]
  · simp only [State.regWrite, hk, State.writeLds]
    rw [if_neg (by simp only [R.LDS_CTRL]; omega)]

theorem PlainReg.lockedBits {s : State} {a : Nat} (h : PlainReg a) : s.lockedBits a = 0 := by
  have hb := h.bounds
  refine if_neg fun hl => ?_
  have h1 : 0x40090000 < a := hl.1
  have h2 : a < 0x40090000 + 0x10000 := hl.2.1
  omega

theorem PlainReg.plainWrite {s : State} {a : Nat} {d : Word} {r : RegRow} (h : PlainReg a) (hr : regRow a = some r) :
    s.plainWrite a d = s.setReg a (regWriteVal r 0 (s.reg a) d) := by
  simp only [State.plainWrite, hr, h.lockedBits]

/-- The bits of an unlocked register after a write, by their types (R6). -/
theorem regWriteVal_getLsbD {r : RegRow} {old data : Word} {i : Nat} (hi : i < 32) :
    (regWriteVal r 0 old data).getLsbD i =
      (((if (r.rw ||| r.rwl).testBit i then data.getLsbD i else old.getLsbD i) &&
        !(r.w1c.testBit i && data.getLsbD i)) || (r.w1s.testBit i && data.getLsbD i)) := by
  simp only [regWriteVal, BitVec.getLsbD_or, BitVec.getLsbD_and, BitVec.getLsbD_not, BitVec.getLsbD_ofNat, hi, decide_true,
    Bool.true_and, Bool.and_comm (data.getLsbD i)]
  cases (r.rw ||| r.rwl).testBit i <;> simp

theorem PlainReg.execRegisterWrite {s : State} {a : Nat} {who : Initiator} {r : RegRow} {data : Word} (meets : Word)
    (h : PlainReg a) (hw : who = .cc0 ∨ who = .cc1 ∨ who = .dma) (hs : s.on 21 = true) (hr : regRow a = some r)
    (ha : a % 4 = 0) (hd : data.toNat &&& r.reserved = 0) :
    execRegisterWrite who (BitVec.ofNat 32 a) data meets s = .next (((s.setReg a (regWriteVal r 0 (s.reg a) data)).ret 0).setReg a
      (regWriteVal r 0 (s.reg a) data ||| (meets &&& BitVec.ofNat 32 r.w1c))) := by
  have hn : (BitVec.ofNat 32 a).toNat = a := by
    have := h.bounds
    rw [BitVec.toNat_ofNat]
    omega
  have h4 : 0x40000000 ≤ (BitVec.ofNat 32 a).toNat := by
    have := h.bounds
    omega
  rw [execRegisterWrite_next (h.busKind hw hs hr ha) h4 (hn.symm ▸ hr) hd (hn.symm ▸ h.regWrite), hn, h.plainWrite hr,
    meet_of_row hr]
  congr
  exact reg_setReg_same s a _

end Sys2Proof.Machine

open Sys2Proof Sys2Proof.Machine

/-- Settles O2: a write reaches its register once the map and the domains accept it, and in the exchange and the LDS the
register takes regWriteVal alone. -/
theorem registerWritesFollowTheirFieldTypes : Obligations.RegisterWritesFollowTheirFieldTypes := by
  refine ⟨fun who addr data meets r s hk hlo _ hr => ⟨fun hd => ?_, fun hd => ?_⟩,
    fun who a data meets r s hw hs (h : PlainReg a) hr ha hd => ⟨_, h.execRegisterWrite meets hw hs hr ha hd, rfl, rfl, ?_, ?_⟩⟩
  · exact execRegisterWrite_reserved hk hlo hr hd
  · exact execRegisterWrite_completes meets hk hlo hr hd
  · intro b hb
    rw [reg_setReg_ne _ _ hb]
    exact reg_setReg_ne s _ hb
  · intro i hi
    rw [reg_setReg_same]
    simp only [BitVec.getLsbD_or, BitVec.getLsbD_and, BitVec.getLsbD_ofNat, regWriteVal_getLsbD hi, hi, decide_true,
      Bool.true_and, Bool.and_comm (meets.getLsbD i)]

end

section
namespace Sys2Proof.Machine

/-! ## Writes that leave all but some registers alone -/

theorem OnlyRegs.refl (s : State) (as : List Nat) : OnlyRegs s s as := ⟨rfl, fun _ _ => rfl⟩

theorem OnlyRegs.setF {s t : State} {as : List Nat} (h : OnlyRegs s t as) (x : Fld) (v : Nat) (hx : x.addr ∈ as) :
    OnlyRegs s (t.setF x v) as :=
  ⟨h.1, fun a ha => (reg_setF_ne t v (ne_of_mem_of_not_mem hx ha).symm).trans (h.2 a ha)⟩

/-! ## The address table -/

theorem netDo_on {s : State} (h : s.on 24 = true) (g : State → State) : s.netDo g = g s := if_pos h

theorem next_netDo {s : State} (h : s.on 24 = true) (g : State → State) : (.next (s.netDo g) : Res State) = .next (g s) :=
  congrArg _ (netDo_on h g)

theorem macPut_of_known {s : State} {e : MacEnt} (h : s.macFind e.mac e.vid ≠ none) :
    s.macPut e = s.modNet fun n => { n with macs := n.macs.map fun x => if x.mac = e.mac ∧ x.vid = e.vid then e else x } :=
  if_pos (Option.isSome_iff_ne_none.2 h)

theorem macPut_of_new {s : State} {e : MacEnt} (h : s.macFind e.mac e.vid = none) (hn : s.net.macs.length < 1024) :
    s.macPut e = s.modNet fun n => { n with macs := n.macs ++ [e] } := by
  unfold State.macPut
  rw [h, if_neg nofun, if_pos hn]

theorem macFind_macPut_same {s : State} {e : MacEnt} (h : s.macFind e.mac e.vid ≠ none ∨ s.net.macs.length < 1024) :
    (s.macPut e).macFind e.mac e.vid = some e := by
  by_cases hk : s.macFind e.mac e.vid = none
  · rw [macPut_of_new hk (h.resolve_left (not_not_intro hk))]
    unfold State.macFind at hk
    simp only [State.macFind, State.modNet, List.find?_append, hk, Option.none_or]
    exact List.find?_cons_of_pos (by simp)
  · rw [macPut_of_known hk]
    obtain ⟨x, hx⟩ := Option.ne_none_iff_exists'.1 hk
    have hp := List.find?_some hx
    have hc : ((fun x : MacEnt => decide (x.mac = e.mac ∧ x.vid = e.vid)) ∘
        fun x => if x.mac = e.mac ∧ x.vid = e.vid then e else x) = fun x => decide (x.mac = e.mac ∧ x.vid = e.vid) := by
      funext y
      simp only [Function.comp]
      split <;> simp [*]
    unfold State.macFind at hx
    simp only [State.macFind, State.modNet, List.find?_map, hc, hx, Option.map_some]
    rw [if_pos (of_decide_eq_true hp)]

theorem macFind_macPut_ne {s : State} {e : MacEnt} {m v : Nat}
    (h : s.macFind e.mac e.vid ≠ none ∨ s.net.macs.length < 1024) (hne : ¬ (m = e.mac ∧ v = e.vid)) :
    (s.macPut e).macFind m v = s.macFind m v := by
  have he : ¬ (e.mac = m ∧ e.vid = v) := fun he => hne ⟨he.1.symm, he.2.symm⟩
  by_cases hk : s.macFind e.mac e.vid = none
  · rw [macPut_of_new hk (h.resolve_left (not_not_intro hk))]
    simp [State.macFind, State.modNet, List.find?_append, he]
  · rw [macPut_of_known hk]
    have hc : ((fun x : MacEnt => decide (x.mac = m ∧ x.vid = v)) ∘
        fun x => if x.mac = e.mac ∧ x.vid = e.vid then e else x) = fun x => decide (x.mac = m ∧ x.vid = v) := by
      funext y
      simp only [Function.comp]
      split <;> simp [*]
    simp only [State.macFind, State.modNet, List.find?_map, hc]
    cases hf : s.net.macs.find? fun x => decide (x.mac = m ∧ x.vid = v) with
    | none => rfl
    | some x =>
      have hx : x.mac = m ∧ x.vid = v := by simpa using List.find?_some hf
      have hn : ¬ (x.mac = e.mac ∧ x.vid = e.vid) := by
        rw [hx.1, hx.2]
        exact hne
      rw [Option.map_some, if_neg hn]

/-- The table without a key. -/
def State.macDrop (s : State) (mac vid : Nat) : State :=
  s.modNet fun n => { n with macs := n.macs.filter fun e => ¬ (e.mac = mac ∧ e.vid = vid) }

theorem macFind_macDrop_same (s : State) (m v : Nat) : (s.macDrop m v).macFind m v = none := by
  simp only [State.macFind, State.macDrop, State.modNet, List.find?_eq_none]
  intro e he
  exact fun hk => of_decide_eq_true (List.mem_filter.1 he).2 (of_decide_eq_true hk)

theorem macFind_macDrop_ne (s : State) {m v m' v' : Nat} (h : ¬ (m' = m ∧ v' = v)) :
    (s.macDrop m v).macFind m' v' = s.macFind m' v' := by
  simp only [State.macFind, State.macDrop, State.modNet, List.find?_filter]
  congr
  funext e
  by_cases he : e.mac = m' ∧ e.vid = v'
  · simp [he, h]
  · simp [he]

/-- The command register keeps its key while an operation runs. -/
theorem mtKey_setOp (s : State) (op : Nat) : (s.setF F.NSW_MTCMD_OP op).mtKey = s.mtKey := by
  unfold State.mtKey
  rw [f_setF_ne s op (by decide) (by decide), f_setF_ne s op (by decide) (by decide)]

theorem mtVid_setOp (s : State) (op : Nat) : (s.setF F.NSW_MTCMD_OP op).mtVid = s.mtVid :=
  f_setF_ne s op (by decide) (by decide)

theorem mtPorts_setOp (s : State) (op : Nat) : (s.setF F.NSW_MTCMD_OP op).f F.NSW_MTCMD_PORTS = s.f F.NSW_MTCMD_PORTS :=
  f_setF_ne s op (by decide) (by decide)

theorem macFind_setF (s : State) (x : Fld) (n m v : Nat) : (s.setF x n).macFind m v = s.macFind m v := by
  unfold State.macFind
  rw [State.setF_net]

theorem mtRun_read_found {s : State} {e : MacEnt} (h : s.macFind s.mtKey s.mtVid = some e) :
    s.mtRun 0 = ((s.setF F.NSW_MTCMD_OP 0).setF F.NSW_MTCMD_FOUND 1).setF F.NSW_MTCMD_PORTS e.ports := by
  simp only [State.mtRun, mtKey_setOp, mtVid_setOp, macFind_setF, h]

theorem mtRun_read_missing {s : State} (h : s.macFind s.mtKey s.mtVid = none) :
    s.mtRun 0 = (s.setF F.NSW_MTCMD_OP 0).setF F.NSW_MTCMD_FOUND 0 := by
  simp only [State.mtRun, mtKey_setOp, mtVid_setOp, macFind_setF, h]

theorem mtRun_write (s : State) :
    s.mtRun 1 = (s.setF F.NSW_MTCMD_OP 1).macPut ⟨s.mtKey, s.mtVid, s.f F.NSW_MTCMD_PORTS, true, 0⟩ := by
  simp only [State.mtRun, mtKey_setOp, mtVid_setOp, mtPorts_setOp]

theorem mtRun_delete (s : State) : s.mtRun 2 = (s.setF F.NSW_MTCMD_OP 2).macDrop s.mtKey s.mtVid := by
  simp only [State.mtRun, mtKey_setOp, mtVid_setOp, State.macDrop]

theorem reg_modNet (s : State) (g : Net → Net) (a : Nat) : (s.modNet g).reg a = s.reg a := rfl

theorem net_modNet (s : State) (g : Net → Net) : (s.modNet g).net = g s.net := rfl

theorem mtRun_flush (s : State) :
    s.mtRun 3 = (s.setF F.NSW_MTCMD_OP 3).modNet fun n => { n with macs := n.macs.filter (·.static_) } := rfl

theorem execMtRead_found {s : State} {e : MacEnt} (hs : s.on 24 = true) (h : s.macFind s.mtKey s.mtVid = some e) :
    ∃ t, exec .mtRead s = .next t ∧ t.b F.NSW_MTCMD_FOUND = true ∧ t.f F.NSW_MTCMD_PORTS = e.ports % 8 ∧
      OnlyRegs s t [R.NSW_MTCMD] := by
  refine ⟨_, next_netDo hs _, ?_⟩
  rw [mtRun_read_found h]
  refine ⟨?_, f_setF_same _ _ _ (by decide), (((OnlyRegs.refl s _).setF _ _ ?_).setF _ _ ?_).setF _ _ ?_⟩
  · rw [b_setF_ne _ _ (by decide) (by decide)]
    exact b_flag_same _ F.NSW_MTCMD_FOUND (by decide)
  all_goals exact List.mem_singleton.2 rfl

theorem execMtRead_missing {s : State} (hs : s.on 24 = true) (h : s.macFind s.mtKey s.mtVid = none) :
    ∃ t, exec .mtRead s = .next t ∧ t.b F.NSW_MTCMD_FOUND = false ∧ OnlyRegs s t [R.NSW_MTCMD] := by
  refine ⟨_, next_netDo hs _, ?_⟩
  rw [mtRun_read_missing h]
  refine ⟨?_, ((OnlyRegs.refl s _).setF _ _ ?_).setF _ _ ?_⟩
  · simp [State.b, f_setF_same _ F.NSW_MTCMD_FOUND 0 (by decide)]
  all_goals exact List.mem_singleton.2 rfl

theorem execMtWriteStatic_puts {s : State} (hs : s.on 24 = true)
    (h : s.macFind s.mtKey s.mtVid ≠ none ∨ s.net.macs.length < 1024) : ∃ t, exec .mtWriteStatic s = .next t ∧
      t.macFind s.mtKey s.mtVid = some ⟨s.mtKey, s.mtVid, s.f F.NSW_MTCMD_PORTS, true, 0⟩ ∧
      ∀ m v, ¬ (m = s.mtKey ∧ v = s.mtVid) → t.macFind m v = s.macFind m v := by
  refine ⟨_, next_netDo hs _, ?_⟩
  rw [mtRun_write]
  rw [← macFind_setF s F.NSW_MTCMD_OP 1, ← State.setF_net s F.NSW_MTCMD_OP 1] at h
  exact ⟨macFind_macPut_same h, fun m v hne => (macFind_macPut_ne h hne).trans (macFind_setF ..)⟩

theorem execMtDelete_drops {s : State} (hs : s.on 24 = true) : ∃ t, exec .mtDelete s = .next t ∧
    t.macFind s.mtKey s.mtVid = none ∧ ∀ m v, ¬ (m = s.mtKey ∧ v = s.mtVid) → t.macFind m v = s.macFind m v := by
  refine ⟨_, next_netDo hs _, ?_⟩
  rw [mtRun_delete]
  exact ⟨macFind_macDrop_same _ _ _, fun m v hne => (macFind_macDrop_ne _ hne).trans (macFind_setF ..)⟩

theorem execMtFlush_keepsStatic {s : State} (hs : s.on 24 = true) : ∃ t, exec .mtFlush s = .next t ∧
    t.net = { s.net with macs := s.net.macs.filter fun e => e.static_ } ∧
    ∀ a, a ≠ R.NSW_MTCMD → t.reg a = s.reg a := by
  refine ⟨_, next_netDo hs _, ?_⟩
  rw [mtRun_flush]
  refine ⟨?_, fun a ha => ?_⟩
  · rw [net_modNet, State.setF_net]
  · rw [reg_modNet]
    exact reg_setF_ne s 3 ha

theorem execMacAgeing_removes {s : State} (seconds : Nat) (hs : s.on 24 = true) (h : s.f F.NSW_CTRL_AGE ≠ 0) :
    ∃ t, exec (.macAgeing seconds) s = .next t ∧ t.regs = s.regs ∧
      t.net.macs = (s.net.macs.map fun e => { e with age := e.age + seconds }).filter fun e =>
        e.static_ || decide (e.age < s.f F.NSW_CTRL_AGE) := by
  refine ⟨_, congrArg Host.Outcome.next (if_neg (by simp [h, hs])), rfl, ?_⟩
  simp only [State.modNet, Bool.decide_or, Bool.decide_eq_true]

theorem execMacAgeing_off {s : State} (seconds : Nat) (h : s.f F.NSW_CTRL_AGE = 0) :
    exec (.macAgeing seconds) s = .next s := congrArg Host.Outcome.next (if_pos (.inl h))

/-! ## MDIO, time stamps and port registers -/

theorem mdioRun_none {s : State} {op : Nat} (hop : op < 8) :
    (s.mdioRun op none).f F.NSW_MDIO_OP = op ∧ (s.mdioRun op none).f F.NSW_MDIO_DATA = s.f F.NSW_MDIO_DATA ∧
      OnlyRegs s (s.mdioRun op none) [R.NSW_MDIO] :=
  ⟨(f_setF_same s F.NSW_MDIO_OP op (by decide)).trans (Nat.mod_eq_of_lt hop),
    f_setF_ne s (x := F.NSW_MDIO_OP) op (by decide) (by decide), (OnlyRegs.refl s _).setF _ _ (List.mem_singleton.2 rfl)⟩

theorem mdioRun_some {s : State} {op v : Nat} (hop : op < 8) (hv : v < 65536) :
    (s.mdioRun op (some v)).f F.NSW_MDIO_OP = op ∧ (s.mdioRun op (some v)).f F.NSW_MDIO_DATA = v ∧
      OnlyRegs s (s.mdioRun op (some v)) [R.NSW_MDIO] := by
  refine ⟨?_, (f_setF_same _ F.NSW_MDIO_DATA v (by decide)).trans (Nat.mod_eq_of_lt hv),
    ((OnlyRegs.refl s _).setF _ _ (List.mem_singleton.2 rfl)).setF _ _ (List.mem_singleton.2 rfl)⟩
  exact (f_setF_ne _ (x := F.NSW_MDIO_DATA) v (by decide) (by decide)).trans
    ((f_setF_same s F.NSW_MDIO_OP op (by decide)).trans (Nat.mod_eq_of_lt hop))

theorem reg_setF2_ne (s : State) {lo hi : Fld} {b : Nat} (v : Nat) (hl : b ≠ lo.addr) (hh : b ≠ hi.addr) :
    (s.setF2 lo hi v).reg b = s.reg b := by
  unfold State.setF2
  rw [reg_setF_ne _ _ hh, reg_setF_ne _ _ hl]

theorem f_setF2_ne (s : State) {lo hi x : Fld} (v : Nat) (hl : lo.ok) (hh : hi.ok) (h : x.apart lo) (h' : x.apart hi) :
    (s.setF2 lo hi v).f x = s.f x := by
  unfold State.setF2
  rw [f_setF_ne _ _ hh h', f_setF_ne _ _ hl h]

theorem f_setF2_lo (s : State) {lo hi : Fld} (v : Nat) (hl : lo.ok) (hh : hi.ok) (h : lo.apart hi) :
    (s.setF2 lo hi v).f lo = v % 2 ^ (lo.hi + 1 - lo.lo) := by
  unfold State.setF2
  rw [f_setF_ne _ _ hh h, f_setF_same _ _ _ hl]

theorem f_ret (s : State) (v : Word) (x : Fld) : (s.ret v).f x = s.f x := by
  unfold State.f
  rw [reg_ret]

/-- The oldest record of the time-stamp FIFO, in its registers. -/
def State.tsfShow (s : State) (info ns : Nat) (rest : List (Nat × Nat)) : State :=
  (((s.modNet fun n => { n with tsf := rest }).setReg R.NSW_TSF_INFO (BitVec.ofNat 32 (2 ^ 31 + info))).setF F.TSF_NS_NS
    (ns % 1000000000)).setF2 F.TSF_SECL_SEC F.TSF_SECH_SEC (ns / 1000000000)

theorem tsfTake_cons {s : State} {info ns : Nat} {rest : List (Nat × Nat)} (h : s.net.tsf = (info, ns) :: rest) :
    s.tsfTake = (s.tsfShow info ns rest).ret ((s.tsfShow info ns rest).reg R.NSW_TSF_INFO) := by
  unfold State.tsfTake
  rw [h]
  rfl

theorem tsfTake_nil {s : State} (h : s.net.tsf = []) :
    s.tsfTake = (s.setF F.NSW_TSF_INFO_VALID 0).ret ((s.setF F.NSW_TSF_INFO_VALID 0).reg R.NSW_TSF_INFO) := by
  unfold State.tsfTake
  rw [h]

theorem tsfShow_info (s : State) (info ns : Nat) (rest : List (Nat × Nat)) :
    (s.tsfShow info ns rest).reg R.NSW_TSF_INFO = BitVec.ofNat 32 (2 ^ 31 + info) := by
  unfold State.tsfShow
  rw [reg_setF2_ne _ _ (by decide) (by decide), reg_setF_ne _ _ (by decide), reg_setReg_same]

theorem tsfShow_ns (s : State) (info ns : Nat) (rest : List (Nat × Nat)) :
    (s.tsfShow info ns rest).f F.TSF_NS_NS = ns % 1000000000 := by
  have hn : ns % 1000000000 < 2 ^ (29 + 1 - 0) := by omega
  unfold State.tsfShow
  rw [f_setF2_ne _ _ (by decide) (by decide) (by decide) (by decide), f_setF_same _ _ _ (by decide)]
  exact Nat.mod_eq_of_lt hn

theorem tsfShow_sec (s : State) (info ns : Nat) (rest : List (Nat × Nat)) :
    (s.tsfShow info ns rest).f F.TSF_SECL_SEC = ns / 1000000000 % 2 ^ 32 :=
  f_setF2_lo _ _ (by decide) (by decide) (by decide)

theorem tsfShow_net (s : State) (info ns : Nat) (rest : List (Nat × Nat)) :
    (s.tsfShow info ns rest).net = { s.net with tsf := rest } := by
  unfold State.tsfShow
  rw [State.setF2_net, State.setF_net, State.setReg_net]
  rfl

/-- A read of NSW_TSF_INFO takes the oldest record, with its time. -/
theorem execTsfInfoRead_takes {s : State} {info ns : Nat} {rest : List (Nat × Nat)} (who : Initiator) (hs : s.on 24 = true)
    (h : s.net.tsf = (info, ns) :: rest) : ∃ t, exec (.tsfInfoRead who) s = .next t ∧
      t.resp = ⟨BitVec.ofNat 32 (2 ^ 31 + info), false⟩ ∧ t.net = { s.net with tsf := rest } ∧
      t.f F.TSF_NS_NS = ns % 1000000000 ∧ t.f F.TSF_SECL_SEC = ns / 1000000000 % 2 ^ 32 := by
  refine ⟨_, next_netDo hs _, ?_⟩
  rw [tsfTake_cons h, tsfShow_info, f_ret, f_ret, State.ret_net]
  exact ⟨rfl, tsfShow_net .., tsfShow_ns .., tsfShow_sec ..⟩

theorem execTsfInfoRead_empty {s : State} (who : Initiator) (hs : s.on 24 = true) (h : s.net.tsf = []) :
    ∃ t, exec (.tsfInfoRead who) s = .next t ∧ t.b F.NSW_TSF_INFO_VALID = false ∧
      t.resp = ⟨t.reg R.NSW_TSF_INFO, false⟩ ∧ t.net = s.net := by
  refine ⟨_, next_netDo hs _, ?_⟩
  have h0 : (s.setF F.NSW_TSF_INFO_VALID 0).f F.NSW_TSF_INFO_VALID = 0 := f_setF_same _ _ _ (by decide)
  rw [tsfTake_nil h, State.b, f_ret, h0, reg_ret, State.ret_net, State.setF_net]
  exact ⟨rfl, rfl, rfl⟩

theorem portDrops_ok (p : Nat) : (F.PORT_STAT_DROPS p).ok := ⟨by show 0 ≤ 15; omega, by show 15 < 32; omega⟩

theorem execDropsRead_clears {s : State} (who : Initiator) (port : Bool) (hw : Nat) (hs : s.on 24 = true) :
    ∃ t, exec (.dropsRead who port hw) s = .next t ∧ t.resp = ⟨s.reg (R.PORT_STAT (b2n port)), false⟩ ∧
      t.f (F.PORT_STAT_DROPS (b2n port)) = min hw 65535 ∧ OnlyRead s t [R.PORT_STAT (b2n port)] := by
  have hm : min hw 65535 < 2 ^ (15 + 1 - 0) := by omega
  refine ⟨_, next_netDo hs _, rfl, ?_, rfl, fun a ha => ?_⟩
  · exact (f_setF_same _ _ _ (portDrops_ok _)).trans (Nat.mod_eq_of_lt hm)
  · exact reg_setF_ne (x := F.PORT_STAT_DROPS (b2n port)) _ _ fun e => ha (List.mem_singleton.2 e)

theorem execReceiveClockChange_flags {s : State} {port present : Bool} (hs : s.on 24 = true)
    (h : s.b (F.PORT_STAT_RXCLK (b2n port)) ≠ present) : ∃ t, exec (.receiveClockChange port present) s = .next t ∧
      t.b (F.PORT_STAT_RXCLK (b2n port)) = present ∧ t.b F.NSW_STAT_RXCHG = true ∧
      OnlyRegs s t [R.PORT_STAT (b2n port), R.NSW_STAT] := by
  have hx : (F.PORT_STAT_RXCLK (b2n port)).ok := ⟨by show 31 ≤ 31; omega, by show 31 < 32; omega⟩
  have ha : (F.PORT_STAT_RXCLK (b2n port)).apart F.NSW_STAT_RXCHG := .inl (by cases port <;> decide)
  refine ⟨_, congrArg Host.Outcome.next (if_neg (by simp [hs, h])), ?_, b_flag_same _ _ (by decide),
    ((OnlyRegs.refl s _).setF _ _ (.head _)).setF _ _ (.tail _ (.head _))⟩
  refine (b_setF_ne _ _ (by decide) ha).trans ?_
  unfold State.b
  rw [f_setF_same s _ _ hx]
  cases present <;> rfl

end Sys2Proof.Machine

open Sys2Proof Sys2Proof.Machine

/-- Settles O31, operation by operation. -/
theorem addressTableAndPhyAccess : Obligations.AddressTableAndPhyAccess := by
  intro phy seconds hw port present who s hs
  have hphy : phy.toNat < 65536 := phy.isLt
  exact ⟨fun _ => execMtRead_found hs, execMtRead_missing hs, execMtWriteStatic_puts hs, execMtDelete_drops hs,
    execMtFlush_keepsStatic hs, execMacAgeing_removes seconds hs, execMacAgeing_off seconds,
    ⟨_, next_netDo hs _, mdioRun_none (by decide)⟩,
    ⟨_, next_netDo hs _, mdioRun_some (by decide) hphy⟩,
    ⟨_, next_netDo hs _, mdioRun_none (by decide)⟩,
    ⟨_, next_netDo hs _, mdioRun_none (by decide)⟩,
    ⟨_, next_netDo hs _, mdioRun_some (by decide) hphy⟩,
    fun _ _ _ h _ => execTsfInfoRead_takes who hs h, execTsfInfoRead_empty who hs, execDropsRead_clears who port hw hs,
    execReceiveClockChange_flags hs, fun h => congrArg Host.Outcome.next (if_pos (.inr h))⟩

end

section
namespace Sys2Proof.Machine

/-! ## Bits and fields of a word -/

theorem and_eq_zero_of_mask {d m m' : Word} (h : d &&& m = 0#32) (hm : m &&& m' = m') : d &&& m' = 0#32 := by
  rw [← hm, ← BitVec.and_assoc, h, BitVec.zero_and]

theorem getLsbD_of_mask {d m : Word} {i : Nat} (h : d &&& m = 0#32) (hm : m.getLsbD i = true) : d.getLsbD i = false := by
  have hb := congrArg (·.getLsbD i) h
  simpa only [BitVec.getLsbD_and, hm, Bool.and_true, BitVec.getLsbD_zero] using hb

/-- A one-bit field is its bit. -/
theorem wordFld_bit (w : Word) (i : Nat) : decide (wordFld w i i ≠ 0) = w.getLsbD i := by
  have hb : w.getLsbD i = decide (w.toNat / 2 ^ i % 2 = 1) := Nat.testBit_eq_decide_div_mod_eq
  have hf : wordFld w i i = w.toNat / 2 ^ i % 2 := by
    unfold wordFld
    rw [Nat.add_sub_cancel_left]
    rfl
  rw [hb, hf]
  exact decide_eq_decide.2 (by omega)

theorem wordFld_congr {v w : Word} {hi lo : Nat} (h : ∀ i, lo ≤ i → i ≤ hi → v.getLsbD i = w.getLsbD i) :
    wordFld v hi lo = wordFld w hi lo := by
  apply Nat.eq_of_testBit_eq
  intro i
  rw [testBit_wordFld, testBit_wordFld]
  by_cases hi' : i < hi + 1 - lo
  · rw [show v.toNat.testBit (lo + i) = w.toNat.testBit (lo + i) from h _ (by omega) (by omega)]
  · simp [hi']

/-! ## The flash port -/

theorem reg_modFlash (s : State) (g : Flash → Flash) (a : Nat) : (s.modFlash g).reg a = s.reg a := rfl
theorem f_modFlash (s : State) (g : Flash → Flash) (x : Fld) : (s.modFlash g).f x = s.f x := rfl
theorem b_modFlash (s : State) (g : Flash → Flash) (x : Fld) : (s.modFlash g).b x = s.b x := rfl
theorem flash_modFlash (s : State) (g : Flash → Flash) : (s.modFlash g).flash = g s.flash := rfl
theorem modFlash_modFlash (s : State) (g k : Flash → Flash) : (s.modFlash g).modFlash k = s.modFlash fun x => k (g x) := rfl

theorem modFlash_eq_self {s : State} {g : Flash → Flash} (h : g s.flash = s.flash) : s.modFlash g = s := by
  unfold State.modFlash
  rw [h]

theorem b_setF_zero (s : State) (x : Fld) (hx : x.ok) : (s.setF x 0).b x = false := by
  unfold State.b
  rw [f_setF_same s x 0 hx, Nat.zero_mod]
  rfl

theorem b_flag_ne (s : State) {x y : Fld} (hx : x.ok) (h : y.apart x) : (s.flag x).b y = s.b y := b_setF_ne s 1 hx h

theorem flash_flag (s : State) (x : Fld) : (s.flag x).flash = s.flash := rfl

/-- A flash port whose transfer is over and whose chip selects are high. -/
def Flash.closed (x : Flash) : Flash := { x with run := none, sel := none }

theorem flash_xmpEnd (s : State) : s.xmpEnd.flash = s.flash.closed := rfl

theorem b_xmpEnd_busy (s : State) : s.xmpEnd.b F.XMP_STAT_BUSY = false := b_setF_zero _ _ (by decide)

/-- The end of a transfer with one of the flags of XMP_STAT. -/
theorem xmpEnd_flag (s : State) {x : Fld} (hx : x.ok) (ha : F.XMP_STAT_BUSY.apart x) :
    (s.xmpEnd.flag x).b x = true ∧ (s.xmpEnd.flag x).b F.XMP_STAT_BUSY = false ∧ (s.xmpEnd.flag x).flash = s.flash.closed :=
  ⟨b_flag_same _ x hx, (b_flag_ne _ hx ha).trans (b_xmpEnd_busy s), rfl⟩

/-! ### The start of a transfer -/

theorem writeTo_xmpCmd1 {d : Word} (t : State) (h : d &&& 0x700000#32 = 0#32) : writeTo R.XMP_CMD1 d t = .next t := by
  have hr : regRow R.XMP_CMD1 = some ⟨0x40090018, 1, 4, 1, 0x1000, 0, 0x7F8FFFFF, 0, 0, 0, 0x80000000, 0, 0⟩ := by
    decide +kernel
  unfold writeTo
  rw [hr]
  refine if_neg (not_not_intro ?_)
  exact congrArg BitVec.toNat h

/-- XMP_CMD1 with the command of a transfer; GO reads 0. -/
def State.withCmd (s : State) (d : Word) : State := s.setReg R.XMP_CMD1 (d &&& 0x7FFFFFFF)

theorem execXmpTransfer_go {s : State} {d : Word} {dev : FlashDev} (hs : s.on 25 = true) (h : d &&& 0x700000#32 = 0#32)
    (hgo : d.getLsbD 31 = true) : exec (.xmpTransfer d dev) s = .next ((s.withCmd d).xmpGo dev) := by
  have hm : d.msb = true := by
    rw [BitVec.msb_eq_getLsbD_last]
    exact hgo
  rw [exec_xmpTransfer, execXmpTransfer, if_neg (by simp [hs]), writeTo_xmpCmd1 _ h]
  dsimp only
  rw [if_pos hm]
  rfl

theorem f_withCmd (s : State) (d : Word) {hi : Nat} (lo : Nat) (h : hi < 31) :
    (s.withCmd d).f ⟨R.XMP_CMD1, hi, lo⟩ = wordFld d hi lo := by
  unfold State.f State.withCmd
  rw [reg_setReg_same]
  refine wordFld_congr fun i _ hi' => ?_
  rw [BitVec.getLsbD_and, show BitVec.getLsbD (0x7FFFFFFF : Word) i = true by
    rw [show (0x7FFFFFFF : Word) = BitVec.ofNat 32 (2 ^ 31 - 1) by decide, BitVec.getLsbD_ofNat, Nat.testBit_two_pow_sub_one]
    have hi31 : i < 31 := Nat.lt_of_le_of_lt hi' h
    simp only [Bool.and_eq_true, decide_eq_true_eq]
    omega, Bool.and_true]

theorem b_withCmd (s : State) (d : Word) {i : Nat} (h : i < 31) : (s.withCmd d).b ⟨R.XMP_CMD1, i, i⟩ = d.getLsbD i := by
  unfold State.b
  rw [f_withCmd s d i h]
  exact wordFld_bit d i

theorem f_withCmd_ne (s : State) (d : Word) {x : Fld} (h : x.addr ≠ R.XMP_CMD1) : (s.withCmd d).f x = s.f x :=
  f_setReg_ne s _ h

theorem b_withCmd_ne (s : State) (d : Word) {x : Fld} (h : x.addr ≠ R.XMP_CMD1) : (s.withCmd d).b x = s.b x := by
  unfold State.b
  rw [f_withCmd_ne s d h]

theorem reg_withCmd_ne (s : State) (d : Word) {a : Nat} (h : a ≠ R.XMP_CMD1) : (s.withCmd d).reg a = s.reg a :=
  reg_setReg_ne s _ h

/-- The transfer that GO starts, and the state in which it starts. -/
def State.xmpRunOf (s : State) (dev : FlashDev) : XmpRun :=
  let c0 := s.reg R.XMP_CMD0
  ⟨s.b F.XMP_CMD1_DIR, s.b F.XMP_CMD1_ECC && s.eccMode != 0, s.f F.XMP_CMD1_LEN, s.f F.XMP_ADDR_ADDR / 512,
    xmpBytes (2 ^ wordFld c0 24 23) dev.rx, [], [], dev.progAt, dev.eraseAt, false, c0.getLsbD 31, 2 ^ wordFld c0 24 23,
    c0.getLsbD 22⟩
def State.xmpStarted (s : State) (dev : FlashDev) : State :=
  let c0 := s.reg R.XMP_CMD0
  ((s.modFlash fun x => { x with run := some (s.xmpRunOf dev) }).xmpSelect c0 (wordFld c0 7 0) (xmpAddrBytes c0)
    (s.f F.XMP_ADDR_ADDR) (s.f F.XMP_CMD1_DUMMY)).setF F.XMP_STAT_BUSY 1

theorem xmpGo_starts {s : State} (dev : FlashDev) (hen : s.b F.XMP_CTRL_EN = true) (hb : s.b F.XMP_STAT_BUSY = false)
    (he : s.b F.XMP_CMD1_ECC = false) : s.xmpGo dev = (s.xmpStarted dev).xmpPump := by
  unfold State.xmpGo
  dsimp only
  rw [if_neg (by simp [hen, hb]), if_neg (by simp [he])]
  rfl

theorem xmpGo_misaligned {s : State} (dev : FlashDev) (hen : s.b F.XMP_CTRL_EN = true) (hb : s.b F.XMP_STAT_BUSY = false)
    (he : s.b F.XMP_CMD1_ECC = true) (hl : s.f F.XMP_CMD1_LEN % 512 ≠ 0) : s.xmpGo dev = s.flag F.XMP_STAT_CMDERR := by
  unfold State.xmpGo
  dsimp only
  rw [if_neg (by simp [hen, hb]), if_pos (by simp [he, hl])]

theorem flash_xmpStarted (s : State) (dev : FlashDev) : (s.xmpStarted dev).flash = { s.flash with
    run := some (s.xmpRunOf dev), sel := some ((s.reg R.XMP_CMD0).getLsbD 31),
    bus := xmpHead (s.reg R.XMP_CMD0) (wordFld (s.reg R.XMP_CMD0) 7 0) (xmpAddrBytes (s.reg R.XMP_CMD0)) (s.f F.XMP_ADDR_ADDR)
      (s.f F.XMP_CMD1_DUMMY) } := rfl

theorem flash_withCmd (s : State) (d : Word) : (s.withCmd d).flash = s.flash := rfl

theorem cell_xmpStarted (s : State) (dev : FlashDev) (x : Nat) : (s.xmpStarted dev).cell x = s.cell x := by
  unfold State.cell
  rw [flash_xmpStarted]

theorem b_xmpStarted_ne (s : State) (dev : FlashDev) {x : Fld} (h : x.addr ≠ R.XMP_STAT) :
    (s.xmpStarted dev).b x = s.b x := by
  unfold State.xmpStarted
  rw [b_setF_ne _ _ (by decide) (.inl h)]
  rfl

theorem b_xmpStarted_busy (s : State) (dev : FlashDev) : (s.xmpStarted dev).b F.XMP_STAT_BUSY = true :=
  b_flag_same _ F.XMP_STAT_BUSY (by decide)

/-! ### A read moves its words into the FIFO -/

/-- The words that the FIFO takes of the bytes of a read. -/
def fifoWords (k : Nat) (bs : List Byte) : List Word :=
  (List.range k).map fun i => BitVec.ofNat 32 (leNat ((bs.drop (4 * i)).take 4))

theorem fifoWords_succ (k : Nat) (bs : List Byte) :
    fifoWords (k + 1) bs = BitVec.ofNat 32 (leNat (bs.take 4)) :: fifoWords k (bs.drop 4) := by
  unfold fifoWords
  rw [List.range_succ_eq_map, List.map_cons, List.map_map]
  refine congrArg _ (List.map_congr_left fun i _ => ?_)
  rw [Function.comp, List.drop_drop, Nat.mul_succ, Nat.add_comm]

theorem length_fifoWords (k : Nat) (bs : List Byte) : (fifoWords k bs).length = k := by
  unfold fifoWords
  rw [List.length_map, List.length_range]

/-- A transfer of a plain read with k words to move, whose bytes the flash has all driven. -/
structure Reads (r : XmpRun) (k : Nat) (bs : List Byte) : Prop where
  write : r.write = false
  ecc : r.ecc = false
  polling : r.polling = false
  left : r.left = 4 * k
  bytes : r.rx ++ r.raw = bs
  length : bs.length = 4 * k

/-- XMP fetches the bytes of the next word. -/
theorem Reads.fetch {s : State} {r : XmpRun} {k : Nat} {bs : List Byte} (h : Reads r (k + 1) bs) :
    ∃ r', s.xmpFetch r = (r', s) ∧ Reads r' (k + 1) bs ∧ 4 ≤ r'.rx.length := by
  obtain ⟨hw, he, hp, hl, hb, hn⟩ := h
  have hmin : min 4 r.left = 4 := by omega
  unfold State.xmpFetch
  by_cases hf : 4 ≤ r.rx.length
  · exact ⟨r, by rw [hmin, if_pos hf], ⟨hw, he, hp, hl, hb, hn⟩, hf⟩
  · have hlen : r.rx.length + r.raw.length = 4 * (k + 1) := by rw [← List.length_append, hb, hn]
    refine ⟨{ r with rx := bs, raw := [] }, ?_, ⟨hw, he, hp, hl, List.append_nil _, hn⟩, ?_⟩
    · rw [hmin, if_neg hf, he, if_neg Bool.false_ne_true, hb, show r.left - r.rx.length - r.raw.length = 0 by omega]
      simp
    · show 4 ≤ bs.length
      omega

theorem tailWord_of_whole {s : State} {bs : List Byte} (h : bs.length = 4) :
    s.tailWord bs = (BitVec.ofNat 32 (leNat bs), s) := if_pos h

/-- The transfer after its next word. -/
theorem Reads.next {r : XmpRun} {k : Nat} {bs : List Byte} (h : Reads r (k + 1) bs) (hx : 4 ≤ r.rx.length) :
    Reads { r with rx := r.rx.drop 4, left := r.left - 4 } k (bs.drop 4) := by
  obtain ⟨hw, he, hp, hl, hb, hn⟩ := h
  refine ⟨hw, he, hp, ?_, ?_, ?_⟩
  · show r.left - 4 = 4 * k
    omega
  · show r.rx.drop 4 ++ r.raw = bs.drop 4
    rw [← hb, List.drop_append_of_le_length hx]
  · rw [List.length_drop]
    omega

/-- One word of a read moves into the FIFO. -/
theorem xmpMove_word {fuel k : Nat} {s : State} {r : XmpRun} {bs : List Byte} (hr : s.flash.run = some r)
    (h : Reads r (k + 1) bs) (hf : s.flash.fifo.length < 64) : ∃ r', Reads r' k (bs.drop 4) ∧
      State.xmpMove (fuel + 1) s = State.xmpMove fuel (s.modFlash fun x => { x with
        fifo := x.fifo ++ [BitVec.ofNat 32 (leNat (bs.take 4))], run := some r' }) := by
  obtain ⟨r', hfetch, h', hx⟩ := h.fetch (s := s)
  refine ⟨_, h'.next hx, ?_⟩
  have hl : r'.left = 4 * (k + 1) := h'.left
  have hmin : min 4 r'.left = 4 := by omega
  have ht : r'.rx.take 4 = bs.take 4 := by rw [← h'.bytes, List.take_append_of_le_length hx]
  have hlen : (r'.rx.take 4).length = 4 := List.length_take_of_le hx
  conv_lhs => unfold State.xmpMove
  rw [hr]
  dsimp only
  rw [h.polling, if_neg Bool.false_ne_true, if_neg (by rw [h.left]; omega), h.write, if_neg Bool.false_ne_true,
    if_neg (by unfold fifoDepth; omega), hfetch]
  dsimp only
  rw [hmin, tailWord_of_whole hlen, hlen, ht]

theorem xmpMove_done {fuel : Nat} {s : State} {r : XmpRun} (hr : s.flash.run = some r) (hp : r.polling = false)
    (hl : r.left = 0) : State.xmpMove (fuel + 1) s = s.xmpDataDone r := by
  unfold State.xmpMove
  rw [hr]
  dsimp only
  rw [hp, if_neg Bool.false_ne_true, if_pos hl]

/-- A plain read fills the FIFO with its words, and its data phase is over. -/
theorem xmpMove_read {k fuel : Nat} {s : State} {r : XmpRun} {bs : List Byte} (hr : s.flash.run = some r)
    (h : Reads r k bs) (hf : s.flash.fifo.length + k ≤ 64) (hk : k < fuel) : ∃ r', Reads r' 0 (bs.drop (4 * k)) ∧
      State.xmpMove fuel s =
        (s.modFlash fun x => { x with fifo := x.fifo ++ fifoWords k bs, run := some r' }).xmpDataDone r' := by
  induction k generalizing fuel s r bs with
  | zero =>
    obtain ⟨fuel, rfl⟩ := Nat.exists_eq_succ_of_ne_zero (Nat.ne_of_gt hk)
    refine ⟨r, h, ?_⟩
    have hself : s.modFlash (fun x => { x with fifo := x.fifo ++ fifoWords 0 bs, run := some r }) = s :=
      modFlash_eq_self (by rw [show fifoWords 0 bs = [] from rfl, List.append_nil, ← hr])
    rw [hself]
    exact xmpMove_done hr h.polling h.left
  | succ k ih =>
    obtain ⟨fuel, rfl⟩ := Nat.exists_eq_succ_of_ne_zero (Nat.ne_of_gt (Nat.zero_lt_of_lt hk))
    obtain ⟨r', h', hstep⟩ := xmpMove_word (fuel := fuel) hr h (by omega)
    obtain ⟨r'', h'', hrest⟩ := ih (fuel := fuel) (s := s.modFlash fun x => { x with
      fifo := x.fifo ++ [BitVec.ofNat 32 (leNat (bs.take 4))], run := some r' }) rfl h'
      (by
        rw [flash_modFlash, List.length_append, List.length_singleton]
        omega) (by omega)
    refine ⟨r'', ?_, ?_⟩
    · rw [List.drop_drop] at h''
      rwa [Nat.mul_succ, Nat.add_comm]
    · rw [hstep, hrest, modFlash_modFlash, fifoWords_succ]
      simp only [List.append_assoc, List.singleton_append]

theorem xmpDataDone_read {s : State} {r : XmpRun} (hw : r.write = false) (hp : s.b F.XMP_CMD1_WAITRDY = false) :
    s.xmpDataDone r = s.xmpEnd.flag F.XMP_STAT_DONE := by
  unfold State.xmpDataDone
  dsimp only
  rw [hw, if_neg Bool.false_ne_true, hp, if_neg Bool.false_ne_true]

theorem b_xmpSync_ne (s : State) {x : Fld} (h : x.addr ≠ R.XMP_LEVEL) : s.xmpSync.b x = s.b x :=
  b_setF_ne s _ (by decide) (.inl h)

theorem f_xmpSync_level {s : State} (h : s.flash.fifo.length < 128) : s.xmpSync.f F.XMP_LEVEL_WORDS = s.flash.fifo.length :=
  (f_setF_same s F.XMP_LEVEL_WORDS _ (by decide)).trans (Nat.mod_eq_of_lt h)

theorem flash_xmpSync (s : State) : s.xmpSync.flash = s.flash := rfl

/-- A plain read of n words ends with DONE, its words in the FIFO. -/
theorem xmpPump_read {n : Nat} {s : State} {r : XmpRun} {bs : List Byte} (hr : s.flash.run = some r) (h : Reads r n bs)
    (hf : s.flash.fifo = []) (hn : n ≤ 64) (hp : s.b F.XMP_CMD1_WAITRDY = false) :
    s.xmpPump.flash = { s.flash.closed with fifo := fifoWords n bs } ∧ s.xmpPump.b F.XMP_STAT_DONE = true ∧
      s.xmpPump.b F.XMP_STAT_BUSY = false ∧ s.xmpPump.f F.XMP_LEVEL_WORDS = n := by
  obtain ⟨r', h', hm⟩ := xmpMove_read (fuel := fifoDepth + 2) hr h (by simpa [hf] using hn) (by unfold fifoDepth; omega)
  rw [xmpDataDone_read h'.write ((b_modFlash ..).trans hp)] at hm
  generalize hu : s.modFlash _ = u at hm
  obtain ⟨hd, hb, hc⟩ := xmpEnd_flag u (x := F.XMP_STAT_DONE) (by decide) (by decide)
  have hflash : (u.xmpEnd.flag F.XMP_STAT_DONE).flash = { s.flash.closed with fifo := fifoWords n bs } := by
    rw [hc, ← hu, flash_modFlash, hf, List.nil_append]
    rfl
  have hlen : (u.xmpEnd.flag F.XMP_STAT_DONE).flash.fifo.length = n := by
    rw [hflash]
    exact length_fifoWords n bs
  unfold State.xmpPump
  rw [hm]
  refine ⟨(flash_xmpSync _).trans hflash, ?_, ?_, ?_⟩
  · rw [b_xmpSync_ne _ (by decide), hd]
  · rw [b_xmpSync_ne _ (by decide), hb]
  · rw [f_xmpSync_level (by omega), hlen]

/-- GO of a plain read: it takes its bytes from the lanes. -/
theorem reads_xmpRunOf {s : State} {dev : FlashDev} {n : Nat} {bs : List Byte} (hw : s.b F.XMP_CMD1_DIR = false)
    (he : s.b F.XMP_CMD1_ECC = false) (hl : s.f F.XMP_CMD1_LEN = 4 * n)
    (hb : xmpBytes (2 ^ wordFld (s.reg R.XMP_CMD0) 24 23) dev.rx = bs) (hn : bs.length = 4 * n) : Reads (s.xmpRunOf dev) n bs :=
  ⟨hw, by unfold State.xmpRunOf; rw [he, Bool.false_and], rfl, hl, hb, hn⟩

theorem execXmpTransfer_read {s : State} {d : Word} {dev : FlashDev} {n : Nat} (hs : s.on 25 = true)
    (hd : d &&& 0x70700000#32 = 0#32) (hl : wordFld d 19 0 = 4 * n) (hn : n ≤ 64) (hgo : d.getLsbD 31 = true)
    (hen : s.b F.XMP_CTRL_EN = true) (hbusy : s.b F.XMP_STAT_BUSY = false) (hf : s.flash.fifo = [])
    (hb : (xmpBytes (2 ^ wordFld (s.reg R.XMP_CMD0) 24 23) dev.rx).length = 4 * n) :
    ∃ t, exec (.xmpTransfer d dev) s = .next t ∧
      t.flash = { s.flash.closed with
        fifo := fifoWords n (xmpBytes (2 ^ wordFld (s.reg R.XMP_CMD0) 24 23) dev.rx)
        bus := xmpHead (s.reg R.XMP_CMD0) (wordFld (s.reg R.XMP_CMD0) 7 0) (xmpAddrBytes (s.reg R.XMP_CMD0))
          (s.f F.XMP_ADDR_ADDR) (wordFld d 27 23) } ∧
      t.b F.XMP_STAT_DONE = true ∧ t.b F.XMP_STAT_BUSY = false ∧ t.f F.XMP_LEVEL_WORDS = n := by
  have hc0 : (s.withCmd d).reg R.XMP_CMD0 = s.reg R.XMP_CMD0 := reg_withCmd_ne s d (by decide)
  have hdir : (s.withCmd d).b F.XMP_CMD1_DIR = false :=
    (b_withCmd s d (by decide)).trans (getLsbD_of_mask hd (by decide))
  have hecc : (s.withCmd d).b F.XMP_CMD1_ECC = false :=
    (b_withCmd s d (by decide)).trans (getLsbD_of_mask hd (by decide))
  have hwait : (s.withCmd d).b F.XMP_CMD1_WAITRDY = false :=
    (b_withCmd s d (by decide)).trans (getLsbD_of_mask hd (by decide))
  have hlen : (s.withCmd d).f F.XMP_CMD1_LEN = 4 * n := (f_withCmd s d 0 (by decide)).trans hl
  have hstart := xmpGo_starts dev ((b_withCmd_ne s d (by decide)).trans hen) ((b_withCmd_ne s d (by decide)).trans hbusy) hecc
  have hreads := reads_xmpRunOf (dev := dev) hdir hecc hlen (by rw [hc0]) hb
  obtain ⟨hflash, hdone, hidle, hlevel⟩ := xmpPump_read (s := (s.withCmd d).xmpStarted dev) rfl hreads hf hn
    ((b_xmpStarted_ne _ dev (by decide)).trans hwait)
  refine ⟨_, (execXmpTransfer_go hs (and_eq_zero_of_mask hd (by decide)) hgo).trans (congrArg _ hstart), ?_, hdone, hidle,
    hlevel⟩
  rw [hflash, flash_xmpStarted, hc0, f_withCmd_ne s d (by decide), show (s.withCmd d).f F.XMP_CMD1_DUMMY = wordFld d 27 23 from
    f_withCmd s d 23 (by decide)]
  rfl

theorem execXmpTransfer_misaligned {s : State} {d : Word} (dev : FlashDev) (hs : s.on 25 = true)
    (hd : d &&& 0x00700000#32 = 0#32) (hgo : d.getLsbD 31 = true) (hecc : d.getLsbD 29 = true)
    (hl : wordFld d 19 0 % 512 ≠ 0) (hen : s.b F.XMP_CTRL_EN = true) (hbusy : s.b F.XMP_STAT_BUSY = false) :
    ∃ t, exec (.xmpTransfer d dev) s = .next t ∧ t.b F.XMP_STAT_CMDERR = true ∧ OnlyRegs s t [R.XMP_CMD1, R.XMP_STAT] := by
  have he : (s.withCmd d).b F.XMP_CMD1_ECC = true := (b_withCmd s d (by decide)).trans hecc
  have hlen : (s.withCmd d).f F.XMP_CMD1_LEN % 512 ≠ 0 := by
    rw [show (s.withCmd d).f F.XMP_CMD1_LEN = wordFld d 19 0 from f_withCmd s d 0 (by decide)]
    exact hl
  have hgo' := xmpGo_misaligned dev ((b_withCmd_ne s d (by decide)).trans hen) ((b_withCmd_ne s d (by decide)).trans hbusy)
    he hlen
  refine ⟨_, (execXmpTransfer_go hs hd hgo).trans (congrArg _ hgo'), b_flag_same _ _ (by decide), ?_⟩
  exact OnlyRegs.setF ⟨rfl, fun a ha => reg_withCmd_ne s d fun e => ha (e ▸ .head _)⟩ _ _ (.tail _ (.head _))

/-! ### An erase is polled -/

theorem b_eraseCells (s : State) (a n : Nat) (x : Fld) : (s.eraseCells a n).b x = s.b x := rfl

theorem cell_eraseCells (s : State) (a n x : Nat) :
    (s.eraseCells a n).cell x = if a ≤ x ∧ x < a + n then 0xFF else s.cell x := by
  unfold State.cell State.eraseCells
  rw [flash_modFlash]
  split
  · refine smapGet_of_not_mem erased _ x fun p hp e => ?_
    have hk := of_decide_eq_true (List.mem_filter.1 hp).2
    omega
  · refine smapGet_filter erased (fun k => decide (k < a ∨ a + n ≤ k)) _ x (decide_eq_true ?_)
    omega

theorem xmpDevice_erase {s : State} {r : XmpRun} {a n : Nat} (h2 : r.second = false) (hp : r.progAt = none)
    (he : r.eraseAt = some (a, n)) : s.xmpDevice r = (s.eraseCells a n).modFlash fun x =>
      { x with spare := x.spare.filter fun c => c.1 / 128 * s.pageBytes < a ∨ a + n ≤ c.1 / 128 * s.pageBytes } := by
  unfold State.xmpDevice
  rw [h2, if_neg Bool.false_ne_true, hp, he]

/-- The data phase of a write that the flash takes is over, and XMP polls. -/
theorem xmpDataDone_polls {s : State} {r : XmpRun} (hw : r.write = true) (hp : (s.xmpDevice r).b F.XMP_CMD1_WAITRDY = true) :
    (s.xmpDataDone r).flash.run = some { r with polling := true, left := 0 } ∧
      (s.xmpDataDone r).flash.cells = (s.xmpDevice r).flash.cells ∧ (s.xmpDataDone r).regs = (s.xmpDevice r).regs := by
  unfold State.xmpDataDone
  dsimp only
  rw [hw, if_pos rfl, hp, if_pos rfl]
  exact ⟨rfl, rfl, rfl⟩

theorem wordFld_of_mask {d m : Word} {hi lo : Nat} (h : d &&& m = 0#32)
    (hm : ∀ i, lo ≤ i → i ≤ hi → m.getLsbD i = true) : wordFld d hi lo = 0 := by
  have hz : wordFld d hi lo = wordFld 0#32 hi lo := wordFld_congr fun i h1 h2 => by
    rw [getLsbD_of_mask h (hm i h1 h2), BitVec.getLsbD_zero]
  rw [hz]
  simp [wordFld]

theorem b_of_regs {s t : State} (h : t.regs = s.regs) (x : Fld) : t.b x = s.b x := by
  have hf : t.f x = s.f x := by
    unfold State.f State.reg
    rw [h]
  unfold State.b
  rw [hf]

theorem execXmpTransfer_erase {s : State} {d : Word} {dev : FlashDev} {a m : Nat} (hs : s.on 25 = true)
    (hd : d &&& 0x207FFFFF#32 = 0#32) (hgo : d.getLsbD 31 = true) (hdir : d.getLsbD 30 = true) (hwait : d.getLsbD 28 = true)
    (hcs : (s.reg R.XMP_CMD0).getLsbD 31 = false) (hprog : dev.progAt = none) (herase : dev.eraseAt = some (a, m))
    (hen : s.b F.XMP_CTRL_EN = true) (hbusy : s.b F.XMP_STAT_BUSY = false) : ∃ t, exec (.xmpTransfer d dev) s = .next t ∧
      t.b F.XMP_STAT_BUSY = true ∧ t.flash.run.map (·.polling) = some true ∧
      ∀ x, t.cell x = if a ≤ x ∧ x < a + m then 0xFF else s.cell x := by
  have hecc : (s.withCmd d).b F.XMP_CMD1_ECC = false :=
    (b_withCmd s d (by decide)).trans (getLsbD_of_mask hd (by decide))
  have hlen : (s.withCmd d).f F.XMP_CMD1_LEN = 0 := by
    refine (f_withCmd s d 0 (by decide)).trans (wordFld_of_mask (and_eq_zero_of_mask hd (m' := 0xFFFFF#32) (by decide)) ?_)
    intro i _ hi
    rw [show 0xFFFFF#32 = BitVec.ofNat 32 (2 ^ 20 - 1) by decide, BitVec.getLsbD_ofNat, Nat.testBit_two_pow_sub_one]
    simp only [Bool.and_eq_true, decide_eq_true_eq]
    omega
  have hstart := xmpGo_starts dev ((b_withCmd_ne s d (by decide)).trans hen) ((b_withCmd_ne s d (by decide)).trans hbusy) hecc
  have hrun : ((s.withCmd d).xmpRunOf dev).second = false := by
    show ((s.withCmd d).reg R.XMP_CMD0).getLsbD 31 = false
    rw [reg_withCmd_ne s d (by decide), hcs]
  have hwrite : ((s.withCmd d).xmpRunOf dev).write = true := (b_withCmd s d (by decide)).trans hdir
  generalize hv : (s.withCmd d).xmpStarted dev = v at hstart
  generalize hr : (s.withCmd d).xmpRunOf dev = r at hrun hwrite
  have hvrun : v.flash.run = some r := by rw [← hv, flash_xmpStarted, hr]
  have hvcell (x : Nat) : v.cell x = s.cell x := by
    rw [← hv, cell_xmpStarted, State.cell, flash_withCmd]
    rfl
  have hvwait : v.b F.XMP_CMD1_WAITRDY = true := by
    rw [← hv, b_xmpStarted_ne _ dev (by decide)]
    exact (b_withCmd s d (by decide)).trans hwait
  have hmove : v.xmpPump = (v.xmpDataDone r).xmpSync := by
    rw [State.xmpPump, show fifoDepth + 2 = 65 + 1 from rfl, xmpMove_done hvrun (by rw [← hr]; rfl) (by rw [← hr]; exact hlen)]
  have hdev := xmpDevice_erase (s := v) hrun (show r.progAt = none by rw [← hr]; exact hprog)
    (show r.eraseAt = some (a, m) by rw [← hr]; exact herase)
  have hpolls := xmpDataDone_polls (s := v) hwrite (by rw [hdev, b_modFlash, b_eraseCells, hvwait])
  obtain ⟨hp, hc, hg⟩ := hpolls
  refine ⟨_, (execXmpTransfer_go hs (and_eq_zero_of_mask hd (by decide)) hgo).trans (congrArg _ (hstart.trans hmove)),
    ?_, ?_, fun x => ?_⟩
  · rw [b_xmpSync_ne _ (by decide), b_of_regs hg, hdev, b_modFlash, b_eraseCells, ← hv]
    exact b_xmpStarted_busy _ dev
  · rw [flash_xmpSync, hp]
    rfl
  · rw [← hvcell x, ← cell_eraseCells v a m x]
    unfold State.cell
    rw [flash_xmpSync, hc, hdev]
    rfl

/-! ### Polling, aborts and error counts -/

theorem execXmpPollDone_busy {s : State} {r : XmpRun} {status : Byte} (failed : Bool) (hr : s.flash.run = some r)
    (hb : s.pollBusy status = true) : exec (.xmpPollDone status failed) s = .next s := by
  rw [exec_xmpPollDone, execXmpPollDone, hr]
  dsimp only
  rw [if_neg (by simp [hb])]

theorem execXmpPollDone_ends {s : State} {r : XmpRun} {status : Byte} (failed : Bool) (hr : s.flash.run = some r)
    (hp : r.polling = true) (hn : s.nand = false) (hb : s.pollBusy status = false) :
    exec (.xmpPollDone status failed) s = .next (s.xmpEnd.flag F.XMP_STAT_DONE) := by
  rw [exec_xmpPollDone, execXmpPollDone, hr]
  dsimp only
  rw [if_pos ⟨hp, hb⟩, hn, Bool.and_false, Bool.false_and]

theorem execXmpPollTimeout_ends {s : State} {r : XmpRun} (hr : s.flash.run = some r) (hp : r.polling = true) :
    exec .xmpPollTimeout s = .next (s.xmpEnd.flag F.XMP_STAT_TIMEOUT) := by
  rw [exec_xmpPollTimeout, execXmpPollTimeout, hr]
  dsimp only
  rw [if_pos hp]

theorem execXmpPollTimeout_idle {s : State} (hr : s.flash.run = none) : exec .xmpPollTimeout s = .next s := by
  rw [exec_xmpPollTimeout, execXmpPollTimeout, hr]

/-- The abort of a read, or of a program or erase that is polled. -/
theorem xmpAbort_ends {s : State} {r : XmpRun} (hr : s.flash.run = some r) (h : r.write = false ∨ r.polling = true) :
    s.xmpAbort = s.xmpEnd.flag F.XMP_STAT_ABORTED := by
  have hc : (r.write && !r.polling && !r.got.isEmpty && !r.second) = false := by
    rcases h with h | h <;> simp [h]
  unfold State.xmpAbort
  rw [hr]
  dsimp only
  rw [hc]
  cases r.progAt <;> rfl

theorem xmpAbort_idle {s : State} (hr : s.flash.run = none) : s.xmpAbort = s := by
  unfold State.xmpAbort
  rw [hr]

theorem execXmpAbort_on {s : State} (hs : s.on 25 = true) : exec .xmpAbort s = .next s.xmpAbort := by
  rw [exec_xmpAbort, execXmpAbort, if_pos hs]

theorem OnlyRead.refl (s : State) (as : List Nat) : OnlyRead s s as := ⟨rfl, fun _ _ => rfl⟩

theorem OnlyRead.setF {s t : State} {as : List Nat} (h : OnlyRead s t as) (x : Fld) (v : Nat) (hx : x.addr ∈ as) :
    OnlyRead s (t.setF x v) as :=
  ⟨h.1, fun a ha => (reg_setF_ne t v (ne_of_mem_of_not_mem hx ha).symm).trans (h.2 a ha)⟩

/-- A count field takes what hardware counts, and the flag beside it. -/
def State.counted (s : State) (x y : Fld) (n : Nat) : State := if n = 0 then s else (s.sat x n).flag y

theorem f_counted {s : State} {x y : Fld} (hx : x.ok) (hy : y.ok) (h : x.apart y) (h0 : s.f x = 0) (n : Nat) :
    (s.counted x y n).f x = min n (2 ^ (x.hi + 1 - x.lo) - 1) := by
  unfold State.counted
  split
  · rw [h0]
    omega
  · have hpos : 0 < 2 ^ (x.hi + 1 - x.lo) := Nat.two_pow_pos _
    rw [State.flag, f_setF_ne _ _ hy h, State.sat, f_setF_same _ _ _ hx, h0, Nat.zero_add]
    exact Nat.mod_eq_of_lt (by omega)

theorem b_counted {s : State} {x y : Fld} (hy : y.ok) (n : Nat) :
    (s.counted x y n).b y = (s.b y || decide (n ≠ 0)) := by
  unfold State.counted
  split
  · simp [*]
  · rw [b_flag_same _ _ hy]
    simp [*]

theorem f_counted_ne {s : State} {x y z : Fld} (hx : x.ok) (hy : y.ok) (hzx : z.apart x) (hzy : z.apart y) (n : Nat) :
    (s.counted x y n).f z = s.f z := by
  unfold State.counted
  split
  · rfl
  · rw [State.flag, f_setF_ne _ _ hy hzy, State.sat, f_setF_ne _ _ hx hzx]

theorem b_counted_ne {s : State} {x y z : Fld} (hx : x.ok) (hy : y.ok) (hzx : z.apart x) (hzy : z.apart y) (n : Nat) :
    (s.counted x y n).b z = s.b z := by
  unfold State.b
  rw [f_counted_ne hx hy hzx hzy]

theorem resp_counted (s : State) (x y : Fld) (n : Nat) : (s.counted x y n).resp = s.resp := by
  unfold State.counted
  split <;> rfl

theorem OnlyRead.counted {s t : State} {as : List Nat} (h : OnlyRead s t as) {x y : Fld} (n : Nat) (hx : x.addr ∈ as)
    (hy : y.addr ∈ as) : OnlyRead s (t.counted x y n) as := by
  unfold State.counted
  split
  · exact h
  · exact (h.setF _ _ hx).setF _ _ hy

/-- The count register as its read leaves it, before what hardware counts in the same cycle. -/
def State.ecccntRead (s : State) : State := (s.ret (s.reg R.XMP_ECCCNT)).setReg R.XMP_ECCCNT 0

theorem ecccntTake_eq (s : State) (hc hu hm : Nat) : s.ecccntTake hc hu hm =
    ((s.ecccntRead.counted F.XMP_ECCCNT_CORR F.XMP_STAT_ECCC hc).counted F.XMP_ECCCNT_UNCORR F.XMP_STAT_ECCU hu).setF
      F.XMP_ECCCNT_MAXSEC (min hm 8) := rfl

theorem f_ecccntRead (s : State) {x : Fld} (h : x.addr = R.XMP_ECCCNT) : s.ecccntRead.f x = 0 := by
  unfold State.f State.ecccntRead
  rw [h, reg_setReg_same]
  simp [wordFld]

theorem b_ecccntRead_ne (s : State) {x : Fld} (h : x.addr ≠ R.XMP_ECCCNT) : s.ecccntRead.b x = s.b x := by
  unfold State.b State.ecccntRead
  rw [f_setReg_ne _ _ h, f_ret]

theorem onlyRead_ecccntRead (s : State) : OnlyRead s s.ecccntRead [R.XMP_ECCCNT, R.XMP_STAT] :=
  ⟨rfl, fun _ ha => reg_setReg_ne _ _ fun e => ha (e ▸ .head _)⟩

theorem execXmpEcccntRead_clears {s : State} (who : Initiator) (hc hu hm : Nat) (hs : s.on 25 = true) :
    ∃ t, exec (.xmpEcccntRead who hc hu hm) s = .next t ∧ t.resp = ⟨s.reg R.XMP_ECCCNT, false⟩ ∧
      t.f F.XMP_ECCCNT_CORR = min hc 65535 ∧ t.f F.XMP_ECCCNT_UNCORR = min hu 255 ∧ t.f F.XMP_ECCCNT_MAXSEC = min hm 8 ∧
      t.b F.XMP_STAT_ECCC = (s.b F.XMP_STAT_ECCC || decide (hc ≠ 0)) ∧
      t.b F.XMP_STAT_ECCU = (s.b F.XMP_STAT_ECCU || decide (hu ≠ 0)) ∧ OnlyRead s t [R.XMP_ECCCNT, R.XMP_STAT] := by
  refine ⟨s.ecccntTake hc hu hm, ?_, ?_⟩
  · rw [exec_xmpEcccntRead, execXmpEcccntRead, if_pos hs]
  rw [ecccntTake_eq]
  refine ⟨?_, ?_, ?_, ?_, ?_, ?_, ?_⟩
  · rw [State.setF_resp, resp_counted, resp_counted]
    rfl
  · rw [f_setF_ne _ _ (by decide) (by decide), f_counted_ne (by decide) (by decide) (by decide) (by decide),
      f_counted (by decide) (by decide) (by decide) (f_ecccntRead s rfl)]
    rfl
  · rw [f_setF_ne _ _ (by decide) (by decide), f_counted (by decide) (by decide) (by decide)]
    · rfl
    · rw [f_counted_ne (by decide) (by decide) (by decide) (by decide), f_ecccntRead s rfl]
  · have h8 : min hm 8 < 2 ^ 8 := by omega
    exact (f_setF_same _ F.XMP_ECCCNT_MAXSEC _ (by decide)).trans (Nat.mod_eq_of_lt h8)
  · rw [b_setF_ne _ _ (by decide) (by decide), b_counted_ne (by decide) (by decide) (by decide) (by decide),
      b_counted (by decide), b_ecccntRead_ne s (by decide)]
  · rw [b_setF_ne _ _ (by decide) (by decide), b_counted (by decide),
      b_counted_ne (by decide) (by decide) (by decide) (by decide), b_ecccntRead_ne s (by decide)]
  · exact (((onlyRead_ecccntRead s).counted hc (.head _) (.tail _ (.head _))).counted hu (.head _)
      (.tail _ (.head _))).setF _ _ (.head _)

/-! ### Execution in place -/

theorem execXipEnable_allowed {s : State} (hs : s.on 25 = true) (hx : s.b F.XMP_CTRL_XIPEN = false)
    (hr : s.xipRefused = false) : ∃ t, exec .xipEnable s = .next t ∧ t.b F.XMP_CTRL_XIPEN = true ∧
      t.b F.XMP_STAT_XIPACT = s.b F.XMP_CTRL_EN ∧ OnlyRegs s t [R.XMP_CTRL, R.XMP_STAT] := by
  refine ⟨(s.flag F.XMP_CTRL_XIPEN).xipSync, ?_, ?_, ?_, ?_⟩
  · rw [exec_xipEnable, execXipEnable, if_pos hs, State.xipEnable, if_neg (by simp [hx]), if_neg (by simp [hr])]
    rfl
  · rw [State.xipSync, b_setF_ne _ _ (by decide) (by decide), b_flag_same _ _ (by decide)]
  · rw [State.xipSync, b_flag_same _ F.XMP_CTRL_XIPEN (by decide), Bool.and_true, b_flag_ne _ (by decide) (by decide)]
    unfold State.b
    rw [f_setF_same _ _ _ (by decide)]
    cases decide (s.f F.XMP_CTRL_EN ≠ 0) <;> rfl
  · exact ((OnlyRegs.refl s _).setF _ _ (.head _)).setF _ _ (.tail _ (.head _))

theorem execXipEnable_refused {s : State} (hs : s.on 25 = true) (hx : s.b F.XMP_CTRL_XIPEN = false)
    (hr : s.xipRefused = true) : ∃ t, exec .xipEnable s = .next t ∧ t.b F.XMP_STAT_XIPERR = true ∧
      OnlyRegs s t [R.XMP_STAT] := by
  refine ⟨s.flag F.XMP_STAT_XIPERR, ?_, b_flag_same _ _ (by decide), (OnlyRegs.refl s _).setF _ _ (.head _)⟩
  rw [exec_xipEnable, execXipEnable, if_pos hs, State.xipEnable, if_neg (by simp [hx]), if_pos hr]

theorem execXipLock_locks {s : State} (hs : s.on 25 = true) : ∃ t, exec .xipLock s = .next t ∧
    t.b F.XMP_CTRL_XIPLOCK = true ∧ OnlyRegs s t [R.XMP_CTRL] := by
  refine ⟨s.flag F.XMP_CTRL_XIPLOCK, ?_, b_flag_same _ _ (by decide), (OnlyRegs.refl s _).setF _ _ (.head _)⟩
  rw [exec_xipLock, execXipLock, if_pos hs]
  rfl

theorem execXipCacheInvalidate_empties {s : State} (hs : s.on 25 = true) : ∃ t, exec .xipCacheInvalidate s = .next t ∧
    { t with flash := s.flash } = s ∧ t.flash = { s.flash with cache := [] } :=
  ⟨s.xipFlush, congrArg Host.Outcome.next (if_pos hs), rfl, rfl⟩

end Sys2Proof.Machine

open Sys2Proof Sys2Proof.Machine

/-- Settles O45; a read goes by induction on its words. -/
theorem flashPortTransfers : Obligations.FlashPortTransfers := by
  intro who d dev n hc hu hm r s hs
  refine ⟨fun hd hl hn _ hgo hen hb hf hx => ?_, execXmpTransfer_misaligned dev hs,
    fun a m hd hgo hdir hwait hcs hp he hen hb => execXmpTransfer_erase hs hd hgo hdir hwait hcs hp he hen hb,
    fun hr hp hn => ⟨fun status failed => ⟨execXmpPollDone_busy failed hr, fun hb => ?_⟩, ?_⟩, fun hr h => ?_,
    fun hr => ⟨?_, execXmpPollTimeout_idle hr⟩, execXmpEcccntRead_clears who hc hu hm hs, execXipEnable_allowed hs,
    execXipEnable_refused hs, execXipLock_locks hs, execXipCacheInvalidate_empties hs⟩
  · obtain ⟨t, ht, hflash, hdone, hidle, hlevel⟩ := execXmpTransfer_read hs hd hl hn hgo hen hb hf hx
    refine ⟨t, ht, ?_, fun i hi => ?_, ?_, ?_, ?_, hdone, hidle, hlevel, ?_⟩ <;> rw [hflash]
    · exact length_fifoWords n _
    · simp only [fifoWords, List.getElem?_map, List.getElem?_range hi, Option.map_some]
    all_goals rfl
  · exact ⟨_, execXmpPollDone_ends failed hr hp hn hb, xmpEnd_flag s (by decide) (by decide)⟩
  · exact ⟨_, execXmpPollTimeout_ends hr hp, xmpEnd_flag s (by decide) (by decide)⟩
  · exact ⟨_, (execXmpAbort_on hs).trans (congrArg _ (xmpAbort_ends hr h)), xmpEnd_flag s (by decide) (by decide)⟩
  · rw [execXmpAbort_on hs, xmpAbort_idle hr]

end

section
namespace Sys2Proof.Machine

/-! ## Fields of a word that is written -/

/-- A field reads as it was written, to its width. -/
theorem wordFld_wordSet_same (w : Word) {hi lo : Nat} (v : Nat) (h : lo ≤ hi ∧ hi < 32) :
    wordFld (wordSet w hi lo v) hi lo = v % 2 ^ (hi + 1 - lo) := by
  apply Nat.eq_of_testBit_eq
  intro i
  rw [testBit_wordFld, testBit_wordSet _ _ _ _ _ h, Nat.testBit_mod_two_pow]
  by_cases hi' : i < hi + 1 - lo
  · rw [if_pos (by omega), Nat.add_sub_cancel_left]
  · simp [hi']

/-- A write of a field leaves the fields below and above it alone. -/
theorem wordFld_wordSet_ne (w : Word) {hi lo hi' lo' : Nat} (v : Nat) (h : lo ≤ hi ∧ hi < 32) (hd : hi' < lo ∨ hi < lo') :
    wordFld (wordSet w hi lo v) hi' lo' = wordFld w hi' lo' := by
  apply Nat.eq_of_testBit_eq
  intro i
  rw [testBit_wordFld, testBit_wordFld, testBit_wordSet _ _ _ _ _ h]
  by_cases hi : i < hi' + 1 - lo'
  · rw [if_neg (by omega)]
  · simp [hi]

/-! ## System registers of a core -/

namespace CtlCore

@[simp] theorem sr_setSr_same (k : CtlCore) (n : Nat) (v : Word) : (k.setSr n v).sr n = v :=
  smapGet_smapSet_same sysReset k.sys n v

theorem sr_setSr_ne (k : CtlCore) {n x : Nat} (v : Word) (h : x ≠ n) : (k.setSr n v).sr x = k.sr x :=
  smapGet_smapSet_ne sysReset k.sys v h

theorem sr_setSf_ne (k : CtlCore) {n x : Nat} (hi lo v : Nat) (h : x ≠ n) : (k.setSf n hi lo v).sr x = k.sr x :=
  sr_setSr_ne k _ h

theorem sf_setSr_ne (k : CtlCore) {n x hi lo : Nat} (v : Word) (h : x ≠ n) : (k.setSr n v).sf x hi lo = k.sf x hi lo :=
  congrArg (wordFld · hi lo) (sr_setSr_ne k v h)

theorem sf_setSf_same (k : CtlCore) (n : Nat) {hi lo : Nat} (v : Nat) (h : lo ≤ hi ∧ hi < 32) :
    (k.setSf n hi lo v).sf n hi lo = v % 2 ^ (hi + 1 - lo) := by
  unfold sf setSf
  rw [sr_setSr_same, wordFld_wordSet_same _ v h]

theorem sf_setSf_other (k : CtlCore) {n x hi' lo' : Nat} (hi lo v : Nat) (h : x ≠ n) :
    (k.setSf n hi lo v).sf x hi' lo' = k.sf x hi' lo' :=
  congrArg (wordFld · hi' lo') (sr_setSf_ne k hi lo v h)

theorem sf_setSf_apart (k : CtlCore) (n : Nat) {hi lo hi' lo' : Nat} (v : Nat) (h : lo ≤ hi ∧ hi < 32)
    (hd : hi' < lo ∨ hi < lo') : (k.setSf n hi lo v).sf n hi' lo' = k.sf n hi' lo' := by
  unfold sf setSf
  rw [sr_setSr_same, wordFld_wordSet_ne _ v h hd]

theorem cpl_lt (k : CtlCore) : k.cpl < 8 := Nat.mod_lt _ (by decide)

end CtlCore

/-! ## One core changes -/

theorem vmod_const {α : Type} {n : Nat} (v : Vector α n) (i : Nat) (x : α) :
    vmod v i (fun _ => x) = v.setIfInBounds i x := by
  unfold vmod
  split
  · rfl
  · rename_i h
    exact (Vector.setIfInBounds_eq_of_size_le (Vector.getElem?_eq_none_iff.1 h)).symm

@[simp] theorem cc_modCc_same (s : State) (c : Core) (g : CtlCore → CtlCore) : (s.modCc c g).cc c = g (s.cc c) := by
  unfold State.cc State.modCc
  rw [vmod_getElem?, if_pos rfl, Vector.getElem?_eq_getElem c.isLt]
  rfl

theorem cc_modCc_ne (s : State) {c j : Core} (g : CtlCore → CtlCore) (h : j ≠ c) : (s.modCc c g).cc j = s.cc j := by
  unfold State.cc State.modCc
  rw [vmod_getElem?, if_neg fun e => h (Fin.ext e.symm)]

section
variable {u t : State} {c : Core} {k : CtlCore}

theorem CoreIs.refl (u : State) (c : Core) : CoreIs u u c (u.cc c) := ⟨rfl, rfl, fun _ _ => rfl⟩

/-- What `modCc` does to the core that may change. -/
theorem CoreIs.modCc (h : CoreIs u t c k) (g : CtlCore → CtlCore) : CoreIs u (t.modCc c g) c (g k) := by
  obtain ⟨hf, hc, ho⟩ := h
  exact ⟨hf, by rw [cc_modCc_same, hc], fun j hj => (cc_modCc_ne t g hj).trans (ho j hj)⟩

theorem CoreIs.congr {k' : CtlCore} (h : CoreIs u t c k) (e : k = k') : CoreIs u t c k' := e ▸ h

/-- The pc moves on. -/
theorem CoreIs.ccNext (h : CoreIs u t c k) : CoreIs u (t.ccNext c) c k.went := by
  refine (h.modCc _).congr ?_
  unfold CtlCore.went
  cases k.slot with
  | none => rfl
  | some sl => rfl

theorem landRes_reg (s : State) (c i : Nat) (v : Word) :
    s.landRes c (.reg i) v = if i = 0 then s else s.modCc c fun k => { k with regs := vmod k.regs i fun _ => v } := rfl

/-- A result at distance 1 lands in its register; none lands in register 0. -/
theorem CoreIs.result_reg (h : CoreIs u t c k) (i : Nat) (v : Word) : CoreIs u (t.result c (.reg i) v 1) c (k.put i v) := by
  have hp := h.modCc fun k => { k with pend := k.pend.filter fun p => p.dest ≠ .reg i }
  unfold State.result
  rw [if_pos le_rfl, landRes_reg]
  unfold CtlCore.put
  by_cases h0 : i = 0
  · rw [if_pos h0, if_pos h0]
    exact hp
  · rw [if_neg h0, if_neg h0]
    exact (hp.modCc _).congr (by rw [vmod_const])

/-- A result at a longer distance waits. -/
theorem CoreIs.result_owe (h : CoreIs u t c k) (d : CDest) (v : Word) {dist : Nat} (hd : 1 < dist) :
    CoreIs u (t.result c d v dist) c (k.owe d v dist) := by
  unfold State.result
  rw [if_neg (Nat.not_le.2 hd)]
  exact h.modCc _

/-- An instruction's result at distance 1, and the core goes on. -/
theorem CoreIs.gave (h : CoreIs u t c k) (rd : BitVec 5) (v : Word) :
    CoreIs u ((t.wr c rd v 1).ccNext c) c (k.gave (k.idx rd.toNat) v 1) := by
  have hi : (t.cc c).idx rd.toNat = k.idx rd.toNat := by rw [h.2.1]
  unfold State.wr
  rw [hi]
  exact (h.result_reg _ v).ccNext

/-- Nothing is on its way, so nothing lands. -/
theorem CoreIs.landAll (h : CoreIs u t c k) (hp : k.pend = []) : CoreIs u (t.landAll c) c k := by
  unfold State.landAll
  rw [h.2.1, hp]
  exact (h.modCc fun k => { k with pend := [] }).congr (by rw [← hp])

end

/-! ## Exceptions -/

namespace CtlCore

/-- The pc and the delay slot are no system registers. -/
theorem sr_at (k : CtlCore) (pc : Nat) (slot : Option CSlot) (n : Nat) : sr { k with pc := pc, slot := slot } n = k.sr n := rfl

theorem sf_at (k : CtlCore) (pc : Nat) (slot : Option CSlot) (n hi lo : Nat) :
    sf { k with pc := pc, slot := slot } n hi lo = k.sf n hi lo := rfl

/-- CAUSE and the return address at entry, before STATUS is set. -/
def saved (k : CtlCore) (cause epc : Nat) (bd : Bool) : CtlCore :=
  ((((k.setSr 4 (BitVec.ofNat 32 (epc / 4 * 4))).setSf 5 31 31 (b2n k.ie)).setSf 5 26 24 k.cpl).setSf 5 3 0 cause).setSf 5 30 30
    (b2n bd)

theorem enter_exc (k : CtlCore) (cause epc : Nat) (bd : Bool) :
    k.enter (exc cause) epc bd =
      { ((k.saved cause epc bd).setSf 1 31 31 0).setSf 1 30 30 1 with pc := k.vector cause, slot := none } := rfl

section
variable (k : CtlCore) (cause epc : Nat) (bd : Bool)

theorem sr_enter (n : Nat) (h : n ≠ 1) : (k.enter (exc cause) epc bd).sr n = (k.saved cause epc bd).sr n := by
  rw [enter_exc, sr_at, sr_setSf_ne _ _ _ _ h, sr_setSf_ne _ _ _ _ h]

theorem sf_enter (hi lo : Nat) : (k.enter (exc cause) epc bd).sf 5 hi lo = (k.saved cause epc bd).sf 5 hi lo :=
  congrArg (wordFld · hi lo) (sr_enter k cause epc bd 5 (by decide))

theorem sr_saved_epc : (k.saved cause epc bd).sr 4 = BitVec.ofNat 32 (epc / 4 * 4) := by
  simp [saved, sr_setSf_ne]

theorem sf_saved_cause (h : cause < 16) : (k.saved cause epc bd).sf 5 3 0 = cause := by
  unfold saved
  rw [sf_setSf_apart _ _ _ (by decide) (by decide), sf_setSf_same _ _ _ (by decide)]
  exact Nat.mod_eq_of_lt h

theorem sf_saved_delay : (k.saved cause epc bd).sf 5 30 30 = b2n bd := by
  unfold saved
  rw [sf_setSf_same _ _ _ (by decide)]
  cases bd <;> rfl

theorem sf_saved_ie : (k.saved cause epc bd).sf 5 31 31 = b2n k.ie := by
  unfold saved
  rw [sf_setSf_apart _ _ _ (by decide) (by decide), sf_setSf_apart _ _ _ (by decide) (by decide),
    sf_setSf_apart _ _ _ (by decide) (by decide), sf_setSf_same _ _ _ (by decide)]
  cases k.ie <;> rfl

theorem sf_saved_cpl : (k.saved cause epc bd).sf 5 26 24 = k.cpl := by
  unfold saved
  rw [sf_setSf_apart _ _ _ (by decide) (by decide), sf_setSf_apart _ _ _ (by decide) (by decide),
    sf_setSf_same _ _ _ (by decide)]
  exact Nat.mod_eq_of_lt k.cpl_lt

theorem regs_enter : (k.enter (exc cause) epc bd).regs = k.regs := by
  have hset (k : CtlCore) (n hi lo v : Nat) : (k.setSf n hi lo v).regs = k.regs := rfl
  rw [enter_exc]
  change (((k.saved cause epc bd).setSf 1 31 31 0).setSf 1 30 30 1).regs = k.regs
  unfold saved
  rw [hset, hset, hset, hset, hset, hset]
  rfl

theorem ie_enter : (k.enter (exc cause) epc bd).ie = false := by
  unfold ie
  rw [enter_exc, sf_at, sf_setSf_apart _ _ _ (by decide) (by decide), sf_setSf_same _ _ _ (by decide)]
  rfl

theorem exl_enter : (k.enter (exc cause) epc bd).exl = true := by
  unfold exl
  rw [enter_exc, sf_at, sf_setSf_same _ _ _ (by decide)]
  rfl

end

end CtlCore

theorem b2n_eq_one (b : Bool) : b2n b = 1 ↔ b = true := by cases b <;> decide

/-- What entry for a cause without a code and an address leaves in the core. -/
theorem CoreIs.entered {u t : State} {c : Core} {cause epc : Nat} {bd : Bool} (hc : cause < 16)
    (h : CoreIs u t c ((u.cc c).enter (exc cause) epc bd)) : Entered u t c cause epc bd := by
  obtain ⟨hf, hk, ho⟩ := h
  refine ⟨⟨hf, ho⟩, ?_, ?_, ⟨?_, ?_⟩, ⟨?_, ?_⟩, ⟨?_, ?_, ?_⟩, ?_⟩ <;> rw [hk]
  · rfl
  · exact (CtlCore.sr_enter _ _ _ _ 4 (by decide)).trans (CtlCore.sr_saved_epc _ _ _ _)
  · exact (CtlCore.sf_enter _ _ _ _ 3 0).trans (CtlCore.sf_saved_cause _ _ _ _ hc)
  · rw [CtlCore.sf_enter, CtlCore.sf_saved_delay, b2n_eq_one]
  · rw [CtlCore.sf_enter, CtlCore.sf_saved_ie, b2n_eq_one]
  · rw [CtlCore.sf_enter, CtlCore.sf_saved_cpl]
  · exact CtlCore.ie_enter _ _ _ _
  · exact CtlCore.exl_enter _ _ _ _
  · rfl
  · exact CtlCore.regs_enter _ _ _ _

/-- An instruction outside a delay slot with nothing on its way, while no exception is being handled, takes an exception. -/
theorem entered_raiseCc {u : State} {c : Core} {cause : Nat} (hc : cause < 16) (hp : (u.cc c).pend = [])
    (hx : (u.cc c).exl = false) (hw : (u.cc c).wexl = false) (hs : (u.cc c).slot = none) :
    Entered u (u.raiseCc c (exc cause)) c cause (u.cc c).pc false := by
  have hl := (CoreIs.refl u c).landAll hp
  refine CoreIs.entered hc ?_
  unfold State.raiseCc
  simp only [hl.2.1, hx, hw, hs]
  exact hl.modCc _

/-! ## Issue of MFS and MTS -/

theorem ccReady_of_issues {s u : State} {c : Core} (h : Issues s c u) : s.ccReady c = (true, u) := by
  obtain ⟨⟨hr, hw⟩, hs⟩ := h
  unfold State.ccReady
  simp only [hr, hw]
  exact hs

theorem ccIssue_of_issues {s u : State} {c : Core} (h : Issues s c u) (body : State → State) : s.ccIssue c body = body u := by
  unfold State.ccIssue
  rw [ccReady_of_issues h]

theorem ccIssueR_of_issues {s u : State} {c : Core} (h : Issues s c u) (body : State → Res State) :
    s.ccIssueR c body = body u := by
  unfold State.ccIssueR
  rw [ccReady_of_issues h]

section
variable {s u : State} {c : Core}

theorem mfs_unassigned (h : Issues s c u) (rd : BitVec 5) {n : Nat} (hw : Nat × Nat) (hn : sysRow n = none) :
    s.mfs c rd n hw = u.raiseCc c (exc 5) := by
  unfold State.mfs
  rw [ccIssue_of_issues h, hn]
  rfl

theorem mfs_assigned (h : Issues s c u) (rd : BitVec 5) {n : Nat} (hw : Nat × Nat) (hn : (sysRow n).isNone = false) :
    s.mfs c rd n hw = ((u.sysRd c n hw).2.wr c rd (u.sysRd c n hw).1 1).ccNext c := by
  unfold State.mfs
  rw [ccIssue_of_issues h, hn]
  rfl

/-- An MFS whose read leaves the machine alone gives RD the value read. -/
theorem CoreIs.mfs (h : Issues s c u) (rd : BitVec 5) {n : Nat} {v : Word} (hn : (sysRow n).isNone = false)
    (hv : u.sysRd c n (0, 0) = (v, u)) :
    CoreIs u (s.mfs c rd n (0, 0)) c ((u.cc c).gave ((u.cc c).idx rd.toNat) v 1) := by
  rw [mfs_assigned h rd (0, 0) hn, hv]
  exact (CoreIs.refl u c).gave rd v

end

/-- The registers that a read takes from the core's list. -/
def sysListed (n : Nat) : Prop :=
  n ∈ [1, 2, 3, 5, 6, 8, 9, 0xA, 0x10, 0x11, 0x20, 0x21, 0x40] ∨ (0x18 ≤ n ∧ n < 0x20) ∨ (0x80 ≤ n ∧ n < 0xB0)

theorem sysRow_of_sysListed {n : Nat} (h : sysListed n) : (sysRow n).isNone = false := by
  have hone : ∀ m ∈ [1, 2, 3, 5, 6, 8, 9, 0xA, 0x10, 0x11, 0x20, 0x21, 0x40], (sysRow m).isNone = false := by decide
  have hprio : ∀ i < 8, (sysRow (0x18 + i)).isNone = false := by decide
  have hmpu : ∀ i < 48, (sysRow (0x80 + i)).isNone = false := by decide
  rcases h with h | ⟨hlo, hhi⟩ | ⟨hlo, hhi⟩
  · exact hone n h
  · exact Nat.add_sub_cancel' hlo ▸ hprio (n - 0x18) (by omega)
  · exact Nat.add_sub_cancel' hlo ▸ hmpu (n - 0x80) (by omega)

theorem sysRd_of_sysListed (s : State) (c : Nat) {n : Nat} (hw : Nat × Nat) (h : sysListed n) :
    s.sysRd c n hw = ((s.cc c).sr n, s) := by
  simp only [sysListed, List.mem_cons, List.not_mem_nil, or_false] at h
  unfold State.sysRd
  rw [if_neg (by omega), if_neg (by omega), if_neg (by omega), if_neg (by omega), if_neg (by omega), if_neg (by omega),
    if_neg (by omega), if_neg (by omega)]

/-- A result and the end of an instruction leave CYCLEH alone and do not depend on it. -/
theorem CtlCore.gave_cycleH (k : CtlCore) (w : Word) (i : Nat) (v : Word) :
    CtlCore.gave { k with cycleH := w } i v 1 = { k.gave i v 1 with cycleH := w } := by
  unfold CtlCore.gave CtlCore.went
  rw [if_pos rfl, if_pos rfl]
  cases hs : k.slot with
  | none => simp only [CtlCore.put, hs]
  | some sl =>
    simp only [CtlCore.put, hs]
    split <;> rfl

/-! ## The watchdog and the MPU -/

/-- Line 63 is the watchdog's warning. -/
theorem line_watchdog (s : State) (c : Nat) : s.line c 63 = decide ((s.cc c).sf 0x20 30 30 = 1) := by
  simp [State.line]

theorem wordFld_low16 {d : Word} (h : d.toNat < 65536) : wordFld d 15 0 = d.toNat := by
  unfold wordFld
  rw [Nat.pow_zero, Nat.div_one]
  exact Nat.mod_eq_of_lt h

theorem sysWrite_wdkick (s : State) (c : Nat) (v : Word) :
    s.sysWrite c 0x21 v = if wordFld v 15 0 = 0x5A3C then s.modCc c fun k => { k with kickAt := s.now } else s := rfl

theorem wordSet_eccPlus (hc hu : Nat) :
    wordFld (eccUncPlus (eccPlus 0 hc) hu) 15 0 = min hc 65535 ∧ wordFld (eccUncPlus (eccPlus 0 hc) hu) 31 16 = min hu 65535 := by
  have hcorr : wordFld (eccPlus 0 hc) 15 0 = min hc 65535 := by
    have hz : wordFld 0 15 0 = 0 := rfl
    rw [eccPlus, wordFld_wordSet_same _ _ (by decide), hz, Nat.zero_add]
    exact Nat.mod_eq_of_lt (by omega)
  have hunc : wordFld (eccPlus 0 hc) 31 16 = 0 := wordFld_wordSet_ne _ _ (by decide) (.inr (by decide))
  constructor
  · exact (wordFld_wordSet_ne _ _ (by decide) (.inl (by decide))).trans hcorr
  · rw [eccUncPlus, wordFld_wordSet_same _ _ (by decide), hunc, Nat.zero_add]
    exact Nat.mod_eq_of_lt (by omega)

/-! ## The operations on system registers -/

section
variable {s u : State} {c : Core}

theorem execCcMfs_listed (h : Issues s c u) {m : ImmOp} (hm : sysListed m.imm.toNat) :
    ∃ t, exec (.ccMfs c m) s = .next t ∧
      CoreIs u t c ((u.cc c).gave ((u.cc c).idx m.rd.toNat) ((u.cc c).sr m.imm.toNat) 1) :=
  ⟨_, exec_ccMfs c m s, CoreIs.mfs h m.rd (sysRow_of_sysListed hm) (sysRd_of_sysListed u c _ hm)⟩

/-- The registers that MFS takes from elsewhere, and the two whose low bits read 0. -/
theorem execCcMfs_computed (h : Issues s c u) {m : ImmOp} {p : Nat × Word}
    (hp : p ∈ [(0, BitVec.ofNat 32 c.val), (4, (u.cc c).sr 4 &&& 0xFFFFFFFC), (7, (u.cc c).sr 7 &&& 0xFFFFFFFC),
      (0xB, u.eccAddr), (0x12, u.pendWord c 0), (0x13, u.pendWord c 1), (0x23, (u.cc c).cycleH)])
    (hm : m.imm.toNat = p.1) :
    ∃ t, exec (.ccMfs c m) s = .next t ∧ CoreIs u t c ((u.cc c).gave ((u.cc c).idx m.rd.toNat) p.2 1) := by
  have hr : (sysRow p.1).isNone = false ∧ u.sysRd c p.1 (0, 0) = (p.2, u) := by
    simp only [List.mem_cons, List.not_mem_nil, or_false] at hp
    rcases hp with rfl | rfl | rfl | rfl | rfl | rfl | rfl <;> exact ⟨rfl, rfl⟩
  rw [exec_ccMfs, execCcMfs, hm]
  exact ⟨_, rfl, CoreIs.mfs h m.rd hr.1 hr.2⟩

theorem execCcMfs_unassigned (h : Issues s c u) {m : ImmOp} (hn : sysRow m.imm.toNat = none) :
    exec (.ccMfs c m) s = .next (u.raiseCc c (exc 5)) := by
  rw [exec_ccMfs, execCcMfs, mfs_unassigned h _ _ hn]

theorem execCcMts_unassigned (h : Issues s c u) {m : ImmOp} (hn : sysRow m.imm.toNat = none) :
    exec (.ccMts c m) s = .next (u.raiseCc c (exc 5)) := by
  rw [exec_ccMts, execCcMts, ccIssueR_of_issues h]
  simp only [hn]

theorem execCcMts_owes (h : Issues s c u) {m : ImmOp} {r : Nat × Nat × Nat × Nat} (hr : sysRow m.imm.toNat = some r)
    (hv : (u.rd c m.ra).toNat &&& (0xFFFFFFFF - r.2.2.2) = 0) :
    ∃ t, exec (.ccMts c m) s = .next t ∧ CoreIs u t c ((u.cc c).owe (.sys m.imm.toNat) (u.rd c m.ra) 3).went := by
  rw [exec_ccMts, execCcMts, ccIssueR_of_issues h]
  simp only [hr]
  exact ⟨_, if_neg (not_not.2 hv), ((CoreIs.refl u c).result_owe _ _ (by decide)).ccNext⟩

theorem execCcMts_reserved (h : Issues s c u) {m : ImmOp} {r : Nat × Nat × Nat × Nat} (hr : sysRow m.imm.toNat = some r)
    (hv : (u.rd c m.ra).toNat &&& (0xFFFFFFFF - r.2.2.2) ≠ 0) :
    exec (.ccMts c m) s = .fault (.reservedBitWritten m.imm.toNat) := by
  rw [exec_ccMts, execCcMts, ccIssueR_of_issues h]
  simp only [hr]
  exact if_pos hv

theorem sysRd_cycles (s : State) (c : Nat) (hw : Nat × Nat) :
    s.sysRd c 0x22 hw = (BitVec.ofNat 32 s.free.1,
      s.free.2.modCc c fun k => { k with cycleH := BitVec.ofNat 32 (s.free.1 / 2 ^ 32) }) := rfl

theorem sysRd_ecccnt (s : State) (c : Nat) (hw : Nat × Nat) :
    s.sysRd c 0xC hw = (s.eccCnt, { s with eccCnt := eccUncPlus (eccPlus 0 hw.1) hw.2 }) := rfl

/-- A read of CYCLEL takes the count of the free counter, and CYCLEH its high word. -/
theorem execCycleCounterRead_latches (h : Issues s c u) (rd : BitVec 5) :
    ∃ t v, exec (.cycleCounterRead c rd) s = .next t ∧ (t.cc c).cycleH = BitVec.ofNat 32 (v / 2 ^ 32) ∧
      t.cc c = { (u.cc c).gave ((u.cc c).idx rd.toNat) (BitVec.ofNat 32 v) 1 with cycleH := (t.cc c).cycleH } ∧
      { t with ccs := u.ccs, freeCtr := u.freeCtr } = u := by
  have hc := ((CoreIs.refl u.free.2 c).modCc fun k => { k with cycleH := BitVec.ofNat 32 (u.free.1 / 2 ^ 32) }).gave rd
    (BitVec.ofNat 32 u.free.1)
  obtain ⟨hf, hk, -⟩ := hc.congr (CtlCore.gave_cycleH _ _ _ _)
  rw [exec_cycleCounterRead, execCycleCounterRead, mfs_assigned h rd _ rfl, sysRd_cycles]
  refine ⟨_, u.free.1, rfl, ?_, ?_, congrArg (fun x : State => { x with freeCtr := u.freeCtr }) hf⟩
  · rw [hk]
  · rw [hk]
    rfl

/-- A read of ECCCNT leaves what hardware counts in its cycle. -/
theorem execEcccntRead_clears (h : Issues s c u) (rd : BitVec 5) (hc hu : Nat) :
    ∃ t, exec (.ecccntRead c rd hc hu) s = .next t ∧ t.cc c = (u.cc c).gave ((u.cc c).idx rd.toNat) u.eccCnt 1 ∧
      wordFld t.eccCnt 15 0 = min hc 65535 ∧ wordFld t.eccCnt 31 16 = min hu 65535 ∧
      { t with ccs := u.ccs, eccCnt := u.eccCnt } = u := by
  obtain ⟨hf, hk, -⟩ := (CoreIs.refl { u with eccCnt := eccUncPlus (eccPlus 0 hc) hu } c).gave rd u.eccCnt
  have he := congrArg State.eccCnt hf
  rw [exec_ecccntRead, execEcccntRead, mfs_assigned h rd _ rfl, sysRd_ecccnt]
  refine ⟨_, rfl, hk, ?_, ?_, congrArg (fun x : State => { x with eccCnt := u.eccCnt }) hf⟩
  · exact (congrArg (wordFld · 15 0) he).trans (wordSet_eccPlus hc hu).1
  · exact (congrArg (wordFld · 31 16) he).trans (wordSet_eccPlus hc hu).2

end

section
variable (s : State) (c : Core)

theorem execWdkickWrite_kicks {d : Word} (hd : d.toNat < 65536) :
    ∃ t, exec (.wdkickWrite c d) s = .next t ∧
      CoreIs s t c { s.cc c with kickAt := if d = 0x5A3C then s.now else (s.cc c).kickAt } := by
  have hkey : wordFld d 15 0 = 0x5A3C ↔ d = 0x5A3C := by
    rw [wordFld_low16 hd]
    exact BitVec.toNat_inj (y := 0x5A3C#32)
  rw [exec_wdkickWrite, execWdkickWrite, if_neg (Nat.not_le.2 hd), sysWrite_wdkick]
  refine ⟨_, rfl, ?_⟩
  by_cases h : d = 0x5A3C
  · rw [if_pos (hkey.2 h), if_pos h]
    exact (CoreIs.refl s c).modCc fun k => { k with kickAt := s.now }
  · rw [if_neg (mt hkey.1 h), if_neg h]
    exact CoreIs.refl s c

theorem execWdkickWrite_reserved {d : Word} (hd : 65536 ≤ d.toNat) :
    exec (.wdkickWrite c d) s = .fault (.reservedBitWritten 0x21) := by
  rw [exec_wdkickWrite, execWdkickWrite, if_pos hd]

theorem execWatchdogWarn_warns (hs : s.clocked c = true) (he : (s.cc c).sf 0x20 31 31 = 1) :
    ∃ t, exec (.watchdogWarn c) s = .next t ∧ (t.cc c).sf 0x20 30 30 = 1 ∧ t.line c 63 = true ∧
      { t with ccs := s.ccs } = s := by
  obtain ⟨hf, hk, -⟩ := (CoreIs.refl s c).modCc fun k => k.setSf 0x20 30 30 1
  have hw : ((s.modCc c fun k => k.setSf 0x20 30 30 1).cc c).sf 0x20 30 30 = 1 := by
    rw [hk, CtlCore.sf_setSf_same _ _ _ (by decide)]
    rfl
  rw [exec_watchdogWarn, execWatchdogWarn, if_pos (by simp [hs, he])]
  refine ⟨_, rfl, hw, ?_, hf⟩
  rw [line_watchdog, hw]
  rfl

theorem execWatchdogWarn_disabled (he : (s.cc c).sf 0x20 31 31 = 0) : exec (.watchdogWarn c) s = .next s := by
  rw [exec_watchdogWarn, execWatchdogWarn, if_neg (by simp [he])]

theorem execMpuRegionLock_locks (n : BitVec 4) :
    ∃ t, exec (.mpuRegionLock c n) s = .next t ∧ (t.cc c).mpuLocked n.toNat = true ∧
      (∀ x, x ≠ 0xA0 + n.toNat → (t.cc c).sr x = (s.cc c).sr x) ∧ { t with ccs := s.ccs } = s := by
  obtain ⟨hf, hk, -⟩ := (CoreIs.refl s c).modCc fun k => k.setSf (0xA0 + n.toNat) 30 30 1
  refine ⟨_, exec_mpuRegionLock c n s, ?_, fun x hx => ?_, hf⟩
  · rw [hk, CtlCore.mpuLocked, CtlCore.sf_setSf_same _ _ _ (by decide)]
    rfl
  · rw [hk, CtlCore.sr_setSf_ne _ _ _ _ hx]

end

end Sys2Proof.Machine

open Sys2Proof Sys2Proof.Machine

/-- Settles O54: reads and writes of system registers by number, then the registers with effects of their own. -/
theorem systemRegisters : Obligations.SystemRegisters := by
  intro c m rd hc hu d n s u j
  refine ⟨fun h => ⟨execCcMfs_listed h, fun p hp hm => execCcMfs_computed h hp hm, fun hn hp hx hw hs => ?_,
    fun r hr => ⟨execCcMts_owes h hr, execCcMts_reserved h hr⟩, execCycleCounterRead_latches h rd,
    execEcccntRead_clears h rd hc hu⟩,
    execWdkickWrite_kicks s c, execWdkickWrite_reserved s c, execWatchdogWarn_warns s c, execWatchdogWarn_disabled s c,
    execMpuRegionLock_locks s c n⟩
  have he := entered_raiseCc (cause := 5) (by decide) hp hx hw hs
  exact ⟨⟨_, execCcMfs_unassigned h hn, he⟩, _, execCcMts_unassigned h hn, he⟩

end

section
namespace Sys2Proof.Machine

/-! ## A double-bit error while an acknowledgement is on its way -/

/-- CC0 runs, and the MTS by which it acknowledges line 61 in IPEND1 (number 0x13) has issued and not landed (R485, R500). -/
def ackOnItsWay : State :=
  (State.reset.setF F.PMU_PDSTAT_ON 0x3FFFFFF).modCc 0 fun k => { k with pend := [⟨.sys 0x13, 0x20000000, 3⟩] }

/-- CC0's read of word 0 meets a double-bit error.  Both cores' line 61 latches (R25), the data abort lets the earlier
acknowledgement land (R486), and line 61 stays latched at CC1 alone. -/
theorem irqs_ackOnItsWay_doubleRead :
    (stateOf ackOnItsWay
      (exec (.busAccess ⟨.cc0, false, 4, BitVec.ofNat 32 (0x18000000 + 0), 0, .double⟩ []) ackOnItsWay)).irqs = [125] := by
  decide +kernel

end Sys2Proof.Machine

open Sys2Proof Sys2Proof.Machine

/-- Refutes O3 in its last clause, the read that meets a double-bit error: line 61 is not pending at CC0 after it when the
read is CC0's own and its earlier acknowledgement of that line lands in the data abort that the error causes. -/
theorem not_busErrorsAndControlSram : ¬ Obligations.BusErrorsAndControlSram := by
  rintro ⟨-, -, h⟩
  obtain ⟨-, -, -, t, ht, -, -, h61, -⟩ := h .cc0 4 0x18000000 0 0 ackOnItsWay (by decide +kernel) (.inr (.inr rfl)) (.inr rfl)
    rfl (by decide) (by decide +kernel) (by decide +kernel) (by decide +kernel)
  have hi := irqs_ackOnItsWay_doubleRead
  rw [ht] at hi
  exact absurd (hi ▸ h61 : 61 ∈ [125]) (by decide)

end

section
namespace Sys2Proof.Machine

/-! ## Accesses that meet no bus error -/

theorem busOne_of_busRead {s : State} {a : Access} (hw : a.write = false) (ht : (s.busRead a).resp.err = false) :
    s.busOne a = .next (s.busRead a) := by
  simp [State.busOne, State.busAccess, hw, bindRes, ht]

theorem wordPart_whole (w : Word) {off : Nat} (h : off % 4 = 0) : wordPart w off 4 = w.toNat := by
  unfold wordPart
  rw [h, pow_zero, Nat.div_one]
  exact Nat.mod_eq_of_lt w.isLt

theorem ofNat_wordPart_whole (w : Word) {off : Nat} (h : off % 4 = 0) : BitVec.ofNat 32 (wordPart w off 4) = w := by
  rw [wordPart_whole w h, BitVec.ofNat_toNat, BitVec.setWidth_eq]

theorem wordMerge_whole (w v : Word) {off : Nat} (h : off % 4 = 0) : wordMerge w off 4 v.toNat = v := by
  unfold wordMerge
  rw [wordPart_whole w h, h, pow_zero, Nat.mul_one, Nat.mul_one, Nat.sub_self, Nat.zero_add,
    Nat.mod_eq_of_lt (show v.toNat < 256 ^ 4 from v.isLt), BitVec.ofNat_toNat, BitVec.setWidth_eq]

theorem not_mem_delNat (l : List Nat) (n : Nat) : n ∉ delNat l n := by simp [delNat]

/-! ## Engine windows -/

/-- The initiators that reach beyond control SRAM (log 7). -/
abbrev ReachesFabric (who : Initiator) : Prop := who = .cc0 ∨ who = .cc1 ∨ who = .dma

/-- An access to the window of a powered engine, of a width and alignment that it accepts (R18, R28, R30). -/
structure WindowAccess (s : State) (who : Initiator) (e : Eng) (off : BitVec 20) (width : Nat) : Prop where
  fabric : ReachesFabric who
  on : s.on e = true
  form : width = 1 ∨ width = 2 ∨ width = 4
  aligned : off.toNat % width = 0
  place : off.toNat < 0x28000 ∨ 0x80000 ≤ off.toNat

/-- The address of an offset in an engine's window (R28). -/
abbrev windowAddr (e : Eng) (off : BitVec 20) : Word := BitVec.ofNat 32 (0x20000000 + 0x100000 * e.val + off.toNat)

theorem toNat_windowAddr (e : Eng) (off : BitVec 20) :
    (windowAddr e off).toNat = 0x20000000 + 0x100000 * e.val + off.toNat := by
  rw [BitVec.toNat_ofNat]
  omega

section
variable {s : State} {who : Initiator} {e : Eng} {off : BitVec 20} {width : Nat}

theorem ReachesFabric.wide (h : ReachesFabric who) : (isCore who || who == .dma) = true := by
  rcases h with rfl | rfl | rfl <;> rfl

/-- A width and an alignment that the fabric accepts, as busKind tests them. -/
theorem accepted_form {n w : Nat} (hw : w = 1 ∨ w = 2 ∨ w = 4) (ha : n % w = 0) :
    (!(w == 1 || w == 2 || w == 4) || n % w != 0) = false := by
  rcases hw with rfl | rfl | rfl <;> simp [ha]

theorem sramOff_of_beyond {n : Nat} (h : 0x20000000 ≤ n) : sramOff n = none := by
  unfold sramOff
  rw [if_neg (by omega), if_neg (by omega)]

theorem WindowAccess.busKind (h : WindowAccess s who e off width) {write : Bool} (data : Word)
    (hg : write = true → s.b (F.ENG_CTRL_HOSTACC e) = true) :
    s.busKind ⟨who, write, width, windowAddr e off, data, .clean⟩ = none := by
  obtain ⟨hf, hon, hw, ha, hp⟩ := h
  have he := e.isLt
  have ho := off.isLt
  have hidx : (0x20000000 + 0x100000 * e.val + off.toNat - 0x20000000) / 0x100000 = e.val := by omega
  have hoff : (0x20000000 + 0x100000 * e.val + off.toNat) % 0x100000 = off.toNat := by omega
  have hal : (0x20000000 + 0x100000 * e.val + off.toNat) % width = 0 := by
    rcases hw with rfl | rfl | rfl <;> omega
  simp only [State.busKind, toNat_windowAddr, sramOff_of_beyond (show 0x20000000 ≤ 0x20000000 + 0x100000 * e.val + off.toNat by omega),
    hf.wide, accepted_form hw hal, hidx, hoff, hon]
  rw [if_neg (by simp), if_neg (by simp), if_neg (by omega), if_pos (by omega), if_neg (by simp), if_neg (by omega),
    if_neg (by simpa using hg)]

theorem resp_winRead (s : State) (who : Initiator) (e off width : Nat) : (s.winRead who e off width).resp.err = false := rfl

theorem WindowAccess.read (h : WindowAccess s who e off width) :
    exec (.engineWindowRead who e off width) s = .next (s.winRead who e off.toNat width) := by
  have he := e.isLt
  have ho := off.isLt
  have hr : s.busRead ⟨who, false, width, windowAddr e off, 0, .clean⟩ =
      s.winRead who e off.toNat width := by
    simp only [State.busRead, h.busKind 0 (write := false) nofun, toNat_windowAddr,
      sramOff_of_beyond (show 0x20000000 ≤ 0x20000000 + 0x100000 * e.val + off.toNat by omega), Option.isSome_none,
      Bool.false_eq_true, if_false]
    rw [if_neg (by omega), if_pos (by omega)]
    congr 1 <;> omega
  rw [exec_engineWindowRead, execEngineWindowRead, busOne_of_busRead rfl (hr ▸ resp_winRead ..), hr]

theorem WindowAccess.write (h : WindowAccess s who e off width) (hg : s.b (F.ENG_CTRL_HOSTACC e) = true) (data : Word) :
    exec (.engineWindowWrite who e off width data) s = .next (s.winWrite e off.toNat width data) := by
  have he := e.isLt
  have ho := off.isLt
  have hw : s.busWrite ⟨who, true, width, windowAddr e off, data, .clean⟩ =
      .next (s.winWrite e off.toNat width data) := by
    simp only [State.busWrite, h.busKind data fun _ => hg, toNat_windowAddr,
      sramOff_of_beyond (show 0x20000000 ≤ 0x20000000 + 0x100000 * e.val + off.toNat by omega), Option.isSome_none,
      Bool.false_eq_true, if_false]
    rw [if_pos (by omega)]
    congr 2 <;> omega
  exact busOne_of_busWrite_next rfl hw rfl

end

/-! ### The views of a window -/

theorem winData_sound {n : Nat} {s : State} {e key : Nat} (w : BitVec n) (h : key ∉ (s.eng e).bad ∧ key ∉ (s.eng e).soft) :
    s.winData e key w = (w, s) := by
  unfold State.winData
  rw [if_neg h.1, if_neg h.2]

theorem onlyEng_ret_modEng (s : State) (e : Nat) (g : Engine → Engine) (v : Word) : OnlyEng s ((s.modEng e g).ret v) e :=
  ⟨rfl, fun _ hj => eng_modEng_ne s g hj⟩

theorem eng_ret_modEng (s : State) (e : Eng) (g : Engine → Engine) (v : Word) : ((s.modEng e g).ret v).eng e = g (s.eng e) :=
  eng_modEng_same s e g e.isLt

theorem winWrite_onlyEng (s : State) (e off width : Nat) (data : Word) : OnlyEng s (s.winWrite e off width data) e := by
  unfold State.winWrite
  split_ifs <;> exact onlyEng_ret_modEng ..

/-- A word of an engine's memory is good again, and the engine needs BIST (R151, R241). -/
def Engine.mended (x : Engine) (key : Nat) : Engine := { x.heal key with dirty := true }

theorem winWrite_coef (s : State) (e : Nat) {i : Nat} (hi : i < 0x4000) (data : Word) :
    s.winWrite e (0x10000 + 4 * i) 4 data = (s.modEng e fun x =>
      Engine.mended { x with coefSh := memSet x.coefSh i data } (coefShCode i)).ret 0 := by
  have hw : (0x10000 + 4 * i) % 0x10000 / 4 = i := by omega
  unfold State.winWrite
  simp only [hw, wordMerge_whole _ _ (show (0x10000 + 4 * i) % 4 = 0 by omega)]
  rw [if_neg (by omega), if_pos (by omega)]
  rfl

theorem winWrite_state (s : State) (e : Nat) {i : Nat} (hi : i < 0x2000) (data : Word) :
    s.winWrite e (0x20000 + 4 * i) 4 data = (s.modEng e fun x => Engine.mended { x with st := memSet x.st i data } i).ret 0 := by
  have hw : (0x20000 + 4 * i) % 0x10000 / 4 = i := by omega
  unfold State.winWrite
  simp only [hw, wordMerge_whole _ _ (show (0x20000 + 4 * i) % 4 = 0 by omega)]
  rw [if_neg (by omega), if_neg (by omega), if_pos (by omega)]
  rfl

theorem winWrite_tile (s : State) (e i : Nat) (data : Word) :
    s.winWrite e (0x80000 + 4 * i) 4 data = (s.modEng e fun x =>
      Engine.mended { x with tile := memSet x.tile i data } (0x40000 + i)).ret 0 := by
  have hw : (0x80000 + 4 * i - 0x80000) / 4 = i := by omega
  unfold State.winWrite
  simp only [hw, wordMerge_whole _ _ (show (0x80000 + 4 * i) % 4 = 0 by omega)]
  rw [if_neg (by omega), if_neg (by omega), if_neg (by omega)]
  rfl

/-- A lower half waits for its partner (R31). -/
theorem winWrite_lower (s : State) (e : Nat) {i : Nat} (hi : i < 0x2000) (lo : Word) :
    s.winWrite e (8 * i) 4 lo = (s.modEng e fun x =>
      { x with halfWr := (i, lo) :: x.halfWr.filter fun h => h.1 ≠ i, dirty := true }).ret 0 := by
  have hw : 8 * i / 8 = i := by omega
  unfold State.winWrite
  simp only [hw, wordMerge_whole _ _ (show 8 * i % 4 = 0 by omega)]
  rw [if_pos (by omega)]
  simp only [if_pos (show 8 * i % 8 < 4 by omega)]

/-- The upper half joins the lower half that waits (R31). -/
theorem progSh_winWrite_upper {s : State} {e : Eng} {i : Nat} (hi : i < 0x2000) {lo : Word}
    (hlo : listed (s.eng e).halfWr i = some lo) (data : Word) :
    ((s.winWrite e (8 * i + 4) 4 data).eng e).progSh = memSet (s.eng e).progSh i (data ++ lo) := by
  have hw : (8 * i + 4) / 8 = i := by omega
  unfold State.winWrite
  simp only [hw, wordMerge_whole _ _ (show (8 * i + 4) % 4 = 0 by omega)]
  rw [if_pos (by omega)]
  simp only [if_neg (show ¬ (8 * i + 4) % 8 < 4 by omega), eng_ret_modEng, hlo]
  rfl

theorem winRead_coef {s : State} {e i : Nat} (who : Initiator) (hi : i < 0x4000)
    (h : coefShCode i ∉ (s.eng e).bad ∧ coefShCode i ∉ (s.eng e).soft) :
    s.winRead who e (0x10000 + 4 * i) 4 = s.ret (memGet (s.eng e).coefSh i) := by
  have hw : (0x10000 + 4 * i) % 0x10000 / 4 = i := by omega
  unfold State.winRead
  simp only [hw]
  rw [if_neg (by omega), if_pos (by omega), winData_sound _ h]
  simp only [ofNat_wordPart_whole _ (show (0x10000 + 4 * i) % 4 = 0 by omega)]

theorem winRead_state {s u : State} {e i : Nat} (who : Initiator) (hi : i < 0x2000) (hu : s.idleFirst e = u)
    (h : i ∉ (u.eng e).bad ∧ i ∉ (u.eng e).soft) :
    s.winRead who e (0x20000 + 4 * i) 4 = u.ret (memGet (u.eng e).st i) := by
  have hw : (0x20000 + 4 * i) % 0x10000 / 4 = i := by omega
  unfold State.winRead
  simp only [hw, hu]
  rw [if_neg (by omega), if_neg (by omega), if_pos (by omega), winData_sound _ h]
  simp only [ofNat_wordPart_whole _ (show (0x20000 + 4 * i) % 4 = 0 by omega)]

theorem winRead_tile {s u : State} {e i : Nat} (who : Initiator) (hu : s.idleFirst e = u)
    (h : 0x40000 + i ∉ (u.eng e).bad ∧ 0x40000 + i ∉ (u.eng e).soft) :
    s.winRead who e (0x80000 + 4 * i) 4 = u.ret (memGet (u.eng e).tile i) := by
  have hw : (0x80000 + 4 * i - 0x80000) / 4 = i := by omega
  unfold State.winRead
  simp only [hw, hu]
  rw [if_neg (by omega), if_neg (by omega), if_neg (by omega), winData_sound _ h]
  simp only [ofNat_wordPart_whole _ (show (0x80000 + 4 * i) % 4 = 0 by omega)]

/-- A read of a lower half latches its partner for the initiator (R31). -/
theorem winRead_lower {s : State} {e i : Nat} (who : Initiator) (hi : i < 0x2000)
    (h : ∀ hi, progShCode i hi ∉ (s.eng e).bad ∧ progShCode i hi ∉ (s.eng e).soft) :
    s.winRead who e (8 * i) 4 = (s.modEng e fun x => { x with
      halfRd := (8192 * initNum who + i, half64 (memGet (s.eng e).progSh i) true) ::
        x.halfRd.filter fun q => q.1 ≠ 8192 * initNum who + i }).ret (half64 (memGet (s.eng e).progSh i) false) := by
  have hw : 8 * i / 8 = i := by omega
  unfold State.winRead
  simp only [hw]
  rw [if_pos (by omega)]
  simp only [if_pos (show 8 * i % 8 < 4 by omega), winData_sound _ (h _),
    ofNat_wordPart_whole _ (show 8 * i % 4 = 0 by omega)]

/-- The latched partner goes to the initiator's next read (R31). -/
theorem winRead_upper {s : State} {e i : Nat} {who : Initiator} (hi : i < 0x2000) {v : Word}
    (hl : listed (s.eng e).halfRd (8192 * initNum who + i) = some v) :
    s.winRead who e (8 * i + 4) 4 = (s.modEng e fun x => { x with
      halfRd := x.halfRd.filter fun q => q.1 ≠ 8192 * initNum who + i }).ret v := by
  have hw : (8 * i + 4) / 8 = i := by omega
  unfold State.winRead
  simp only [hw]
  rw [if_pos (by omega)]
  simp only [if_neg (show ¬ (8 * i + 4) % 8 < 4 by omega), hl,
    ofNat_wordPart_whole _ (show (8 * i + 4) % 4 = 0 by omega)]

theorem idleFirst_idle {s : State} {e : Nat} (h : s.inService e = false ∨ (s.eng e).busy = false) : s.idleFirst e = s := by
  unfold State.idleFirst
  rw [if_neg]
  rcases h with h | h <;> simp [h]

theorem execPassDone_idleFirst {s : State} {e : Eng} (hs : s.inService e = true) (hb : (s.eng e).busy = true) :
    exec (.passDone e) s = .next (s.idleFirst e) := by
  unfold State.idleFirst
  rw [if_pos (by simp [hs, hb]), Fin.ofNat_val_eq_self]
  rfl

/-! ## The LDS -/

/-- A control core's access to a powered half of the LDS, of a width and alignment that it accepts (R18, R27). -/
structure LdsAccess (s : State) (width : Nat) (addr : Word) : Prop where
  form : width = 1 ∨ width = 2 ∨ width = 4
  aligned : addr.toNat % width = 0
  on : s.on (17 + addr.toNat % 0x800000 / 0x400000) = true

/-- The address of a byte of the LDS (R27). -/
abbrev ldsAddr (addr : Word) : Word := BitVec.ofNat 32 (0x30000000 + addr.toNat % 0x800000)

theorem toNat_ldsAddr (addr : Word) : (ldsAddr addr).toNat = 0x30000000 + addr.toNat % 0x800000 := by
  rw [BitVec.toNat_ofNat]
  omega

section
variable {s : State} {width : Nat} {addr : Word}

theorem LdsAccess.busKind (h : LdsAccess s width addr) {who : Initiator} (hf : ReachesFabric who) (write : Bool) (data : Word) :
    s.busKind ⟨who, write, width, ldsAddr addr, data, .clean⟩ = none := by
  obtain ⟨hw, ha, hon⟩ := h
  have hal : (0x30000000 + addr.toNat % 0x800000) % width = 0 := by
    rcases hw with rfl | rfl | rfl <;> omega
  simp only [State.busKind, toNat_ldsAddr, hf.wide, accepted_form hw hal, Nat.add_sub_cancel_left, hon,
    sramOff_of_beyond (show 0x20000000 ≤ 0x30000000 + addr.toNat % 0x800000 by omega)]
  rw [if_neg (by simp), if_neg (by simp), if_neg (by omega), if_neg (by omega), if_pos (by omega), if_neg (by simp),
    if_pos trivial]

/-- The initiator that a control core is. -/
abbrev coreInitiator (who : Core) : Initiator := if who = 0 then .cc0 else .cc1

theorem reachesFabric_core (who : Core) : ReachesFabric (coreInitiator who) := by
  unfold coreInitiator
  split
  · exact .inl rfl
  · exact .inr (.inl rfl)

theorem LdsAccess.read (h : LdsAccess s width addr) (who : Core) (data : Word) :
    exec (.ldsHostAccess who false width addr data) s = .next (s.ldsRead (addr.toNat % 0x800000) width) := by
  have hr : s.busRead ⟨coreInitiator who, false, width, ldsAddr addr, data, .clean⟩ =
      s.ldsRead (addr.toNat % 0x800000) width := by
    simp only [State.busRead, h.busKind (reachesFabric_core who), toNat_ldsAddr, Nat.add_sub_cancel_left,
      sramOff_of_beyond (show 0x20000000 ≤ 0x30000000 + addr.toNat % 0x800000 by omega), Option.isSome_none,
      Bool.false_eq_true, if_false]
    rw [if_neg (by omega), if_neg (by omega), if_pos (by omega)]
  exact (busOne_of_busRead rfl (hr ▸ rfl)).trans (congrArg _ hr)

theorem LdsAccess.write (h : LdsAccess s width addr) (who : Core) (data : Word) :
    exec (.ldsHostAccess who true width addr data) s = .next (s.ldsWrite (addr.toNat % 0x800000) width data) := by
  have hw : s.busWrite ⟨coreInitiator who, true, width, ldsAddr addr, data, .clean⟩ =
      .next (s.ldsWrite (addr.toNat % 0x800000) width data) := by
    simp only [State.busWrite, h.busKind (reachesFabric_core who), toNat_ldsAddr, Nat.add_sub_cancel_left,
      sramOff_of_beyond (show 0x20000000 ≤ 0x30000000 + addr.toNat % 0x800000 by omega), Option.isSome_none,
      Bool.false_eq_true, if_false]
    rw [if_neg (by omega), if_pos (by omega)]
  exact busOne_of_busWrite_next rfl hw rfl

end

theorem ldsWrite_word (s : State) (w : Nat) (data : Word) : s.ldsWrite (4 * w) 4 data = (s.setLds w data).ret 0 := by
  unfold State.ldsWrite
  rw [wordMerge_whole _ _ (by omega), Nat.mul_div_cancel_left w (by decide)]

theorem ldsRead_word {s : State} {w : Nat} (hb : w ∉ s.ldsBad) (hs : w ∉ s.ldsSoft) :
    s.ldsRead (4 * w) 4 = s.ret (memGet s.lds w) := by
  unfold State.ldsRead State.readLds State.ldsSoftRead
  simp only [Nat.mul_div_cancel_left w (show 0 < 4 by decide), if_neg hb, if_neg hs,
    ofNat_wordPart_whole _ (show 4 * w % 4 = 0 by omega)]

/-! ## Words of a window -/

section
variable {s : State} {who : Initiator} {e : Eng} {i : Nat}

theorem windowAccess_word (hf : ReachesFabric who) (hon : s.on e = true) {n : Nat}
    (hn : n < 0x28000 ∨ 0x80000 ≤ n ∧ n < 0x100000) (h4 : n % 4 = 0) :
    WindowAccess s who e (BitVec.ofNat 20 n) 4 ∧ (BitVec.ofNat 20 n).toNat = n := by
  have h : (BitVec.ofNat 20 n).toNat = n := by
    rw [BitVec.toNat_ofNat]
    omega
  exact ⟨⟨hf, hon, .inr (.inr rfl), h.symm ▸ h4, by omega⟩, h⟩

theorem execEngineWindowRead_word (hf : ReachesFabric who) (hon : s.on e = true) {n : Nat}
    (hn : n < 0x28000 ∨ 0x80000 ≤ n ∧ n < 0x100000) (h4 : n % 4 = 0) :
    exec (.engineWindowRead who e (BitVec.ofNat 20 n) 4) s = .next (s.winRead who e n 4) := by
  obtain ⟨h, ha⟩ := windowAccess_word hf hon hn h4
  rw [h.read, ha]

theorem execEngineWindowWrite_word (hf : ReachesFabric who) (hon : s.on e = true) (hg : s.b (F.ENG_CTRL_HOSTACC e) = true)
    {n : Nat} (hn : n < 0x28000 ∨ 0x80000 ≤ n ∧ n < 0x100000) (h4 : n % 4 = 0) (data : Word) :
    exec (.engineWindowWrite who e (BitVec.ofNat 20 n) 4 data) s = .next (s.winWrite e n 4 data) := by
  obtain ⟨h, ha⟩ := windowAccess_word hf hon hn h4
  rw [h.write hg, ha]

/-- An engine but for what a write of one of its words does to the words' errors and to its need of BIST. -/
def Engine.unmended (x y : Engine) : Engine := { x with bad := y.bad, soft := y.soft, dirty := y.dirty }

theorem execEngineWindowWrite_coef (hf : ReachesFabric who) (hon : s.on e = true) (hg : s.b (F.ENG_CTRL_HOSTACC e) = true)
    (hi : i < 0x4000) (data : Word) :
    ∃ t, exec (.engineWindowWrite who e (BitVec.ofNat 20 (0x10000 + 4 * i)) 4 data) s = .next t ∧ OnlyEng s t e ∧
      (∀ j, memGet (t.eng e).coefSh j = if j = i then data else memGet (s.eng e).coefSh j) ∧
      { (t.eng e).unmended (s.eng e) with coefSh := (s.eng e).coefSh } = s.eng e := by
  refine ⟨_, execEngineWindowWrite_word hf hon hg (by omega) (by omega) data, winWrite_onlyEng .., ?_⟩
  rw [winWrite_coef s e hi, eng_ret_modEng]
  generalize s.eng e = x
  exact ⟨(memGet_memSet _ i · data), rfl⟩

theorem execEngineWindowWrite_state (hf : ReachesFabric who) (hon : s.on e = true) (hg : s.b (F.ENG_CTRL_HOSTACC e) = true)
    (hi : i < 0x2000) (data : Word) :
    ∃ t, exec (.engineWindowWrite who e (BitVec.ofNat 20 (0x20000 + 4 * i)) 4 data) s = .next t ∧ OnlyEng s t e ∧
      (∀ j, memGet (t.eng e).st j = if j = i then data else memGet (s.eng e).st j) ∧
      { (t.eng e).unmended (s.eng e) with st := (s.eng e).st } = s.eng e := by
  refine ⟨_, execEngineWindowWrite_word hf hon hg (by omega) (by omega) data, winWrite_onlyEng .., ?_⟩
  rw [winWrite_state s e hi, eng_ret_modEng]
  generalize s.eng e = x
  exact ⟨(memGet_memSet _ i · data), rfl⟩

theorem execEngineWindowWrite_tile (hf : ReachesFabric who) (hon : s.on e = true) (hg : s.b (F.ENG_CTRL_HOSTACC e) = true)
    (hi : i < 0x20000) (data : Word) :
    ∃ t, exec (.engineWindowWrite who e (BitVec.ofNat 20 (0x80000 + 4 * i)) 4 data) s = .next t ∧ OnlyEng s t e ∧
      (∀ j, memGet (t.eng e).tile j = if j = i then data else memGet (s.eng e).tile j) ∧
      { (t.eng e).unmended (s.eng e) with tile := (s.eng e).tile } = s.eng e := by
  refine ⟨_, execEngineWindowWrite_word hf hon hg (by omega) (by omega) data, winWrite_onlyEng .., ?_⟩
  rw [winWrite_tile s e i, eng_ret_modEng]
  generalize s.eng e = x
  exact ⟨(memGet_memSet _ i · data), rfl⟩

/-- A lower half alone changes no program word, and the next write of the upper half writes both (R31). -/
theorem execEngineWindowWrite_halves (hf : ReachesFabric who) (hon : s.on e = true) (hg : s.b (F.ENG_CTRL_HOSTACC e) = true)
    (hi : i < 0x2000) (lo data : Word) :
    ∃ t, exec (.engineWindowWrite who e (BitVec.ofNat 20 (8 * i)) 4 lo) s = .next t ∧ OnlyEng s t e ∧
      { t.eng e with halfWr := (s.eng e).halfWr, dirty := (s.eng e).dirty } = s.eng e ∧
      ∀ v : State, (v.eng e).halfWr = (t.eng e).halfWr → v.on e = true → v.b (F.ENG_CTRL_HOSTACC e) = true →
        ∃ u, exec (.engineWindowWrite who e (BitVec.ofNat 20 (8 * i + 4)) 4 data) v = .next u ∧ OnlyEng v u e ∧
          ∀ j, memGet (u.eng e).progSh j = if j = i then data ++ lo else memGet (v.eng e).progSh j := by
  refine ⟨_, execEngineWindowWrite_word hf hon hg (by omega) (by omega) lo, winWrite_onlyEng .., ?_⟩
  rw [winWrite_lower s e hi, eng_ret_modEng]
  refine ⟨rfl, fun v hv hon' hg' => ⟨_, execEngineWindowWrite_word hf hon' hg' (by omega) (by omega) data, winWrite_onlyEng .., ?_⟩⟩
  have hlo : listed (v.eng e).halfWr i = some lo := by simp [hv, listed]
  rw [progSh_winWrite_upper hi hlo]
  exact (memGet_memSet _ i · _)

/-- A read of a lower half latches the upper half, which the initiator's next read of it returns (R31). -/
theorem execEngineWindowRead_halves (hf : ReachesFabric who) (hon : s.on e = true) (hi : i < 0x2000)
    (h : ∀ hi, progShCode i hi ∉ (s.eng e).bad ∧ progShCode i hi ∉ (s.eng e).soft) :
    ∃ t, exec (.engineWindowRead who e (BitVec.ofNat 20 (8 * i)) 4) s = .next t ∧ OnlyEng s t e ∧
      t.resp = ⟨(memGet (s.eng e).progSh i).setWidth 32, false⟩ ∧
      ∀ v : State, (v.eng e).halfRd = (t.eng e).halfRd → v.on e = true →
        ∃ u, exec (.engineWindowRead who e (BitVec.ofNat 20 (8 * i + 4)) 4) v = .next u ∧ OnlyEng v u e ∧
          u.resp = ⟨((memGet (s.eng e).progSh i) >>> 32).setWidth 32, false⟩ := by
  refine ⟨_, execEngineWindowRead_word hf hon (by omega) (by omega), ?_⟩
  rw [winRead_lower who hi h, eng_ret_modEng]
  refine ⟨onlyEng_ret_modEng .., rfl, fun v hv hon' => ⟨_, execEngineWindowRead_word hf hon' (by omega) (by omega), ?_⟩⟩
  have hl : listed (v.eng e).halfRd (8192 * initNum who + i) = some (half64 (memGet (s.eng e).progSh i) true) := by
    simp [hv, listed]
  rw [winRead_upper hi hl]
  exact ⟨onlyEng_ret_modEng .., rfl⟩

/-- The state and tile views read as the engine's idle interval finds them (R30). -/
theorem execEngineWindowRead_memories (hf : ReachesFabric who) (hon : s.on e = true) {u : State} (hu : s.idleFirst e = u) :
    (∀ i, i < 0x2000 → i ∉ (u.eng e).bad ∧ i ∉ (u.eng e).soft →
      exec (.engineWindowRead who e (BitVec.ofNat 20 (0x20000 + 4 * i)) 4) s = .next (u.ret (memGet (u.eng e).st i))) ∧
    ∀ i, i < 0x20000 → 0x40000 + i ∉ (u.eng e).bad ∧ 0x40000 + i ∉ (u.eng e).soft →
      exec (.engineWindowRead who e (BitVec.ofNat 20 (0x80000 + 4 * i)) 4) s = .next (u.ret (memGet (u.eng e).tile i)) := by
  refine ⟨fun i hi h => ?_, fun i hi h => ?_⟩
  · rw [execEngineWindowRead_word hf hon (by omega) (by omega), winRead_state who hi hu h]
  · rw [execEngineWindowRead_word hf hon (by omega) (by omega), winRead_tile who hu h]

end

/-! ## Words of the LDS -/

section
variable {s : State} {w : Nat}

theorem ldsAccess_word (hw : w < 0x200000) (hon : s.on (17 + w / 0x100000) = true) :
    LdsAccess s 4 (BitVec.ofNat 32 (4 * w)) ∧ (BitVec.ofNat 32 (4 * w)).toNat % 0x800000 = 4 * w := by
  have hn : (BitVec.ofNat 32 (4 * w)).toNat = 4 * w := by
    rw [BitVec.toNat_ofNat]
    omega
  have hd : 4 * w % 0x800000 / 0x400000 = w / 0x100000 := by omega
  refine ⟨⟨.inr (.inr rfl), ?_, ?_⟩, ?_⟩
  · omega
  · rw [hn, hd, hon]
  · omega

theorem execLdsHostAccess_writes (who : Core) (data : Word) (hw : w < 0x200000) (hon : s.on (17 + w / 0x100000) = true) :
    ∃ t, exec (.ldsHostAccess who true 4 (BitVec.ofNat 32 (4 * w)) data) s = .next t ∧ t.resp = ⟨0, false⟩ ∧
      (∀ v, memGet t.lds v = if v = w then data else memGet s.lds v) ∧ w ∉ t.ldsBad ∧ w ∉ t.ldsSoft ∧
      { t with lds := s.lds, ldsBad := s.ldsBad, ldsSoft := s.ldsSoft, resp := s.resp } = s := by
  obtain ⟨h, ha⟩ := ldsAccess_word hw hon
  refine ⟨_, h.write who data, ?_⟩
  rw [ha, ldsWrite_word]
  exact ⟨rfl, (memGet_memSet _ w · data), not_mem_delNat _ w, not_mem_delNat _ w, rfl⟩

theorem execLdsHostAccess_reads (who : Core) (data : Word) (hw : w < 0x200000) (hon : s.on (17 + w / 0x100000) = true)
    (hb : w ∉ s.ldsBad) (hs : w ∉ s.ldsSoft) :
    exec (.ldsHostAccess who false 4 (BitVec.ofNat 32 (4 * w)) data) s = .next (s.ret (memGet s.lds w)) := by
  obtain ⟨h, ha⟩ := ldsAccess_word hw hon
  rw [h.read who data, ha, ldsRead_word hb hs]

end

end Sys2Proof.Machine

open Sys2Proof Sys2Proof.Machine

/-- Settles O4: words and program halves of a window, its reads beside a pass, accesses of every width, and the LDS. -/
theorem windowAndLdsAccesses : Obligations.WindowAndLdsAccesses := by
  refine ⟨fun who e data lo s hf hon => ⟨fun hg => ⟨?_, ?_, ?_, ?_⟩, ?_⟩, fun who e s hf hon => ⟨?_, ?_, ?_⟩,
    ⟨fun who e off width data s hf hon hw ha hp => ?_, fun who width addr data s hw ha hon => ?_⟩,
    fun who w data s hw hon => ⟨?_, ?_⟩⟩
  · exact fun i hi => execEngineWindowWrite_coef hf hon hg hi data
  · exact fun i hi => execEngineWindowWrite_state hf hon hg hi data
  · exact fun i hi => execEngineWindowWrite_tile hf hon hg hi data
  · exact fun i hi => execEngineWindowWrite_halves hf hon hg hi lo data
  · exact fun i hi h => execEngineWindowRead_halves hf hon hi h
  · intro i hi h
    rw [execEngineWindowRead_word hf hon (by omega) (by omega), winRead_coef who hi h]
    rfl
  · exact fun h => execEngineWindowRead_memories hf hon (idleFirst_idle h)
  · exact fun hs hb => ⟨_, execPassDone_idleFirst hs hb, execEngineWindowRead_memories hf hon rfl⟩
  · have h : WindowAccess s who e off width := ⟨hf, hon, hw, ha, hp⟩
    exact ⟨⟨_, h.read, rfl⟩, fun hg => ⟨_, h.write hg data, rfl, winWrite_onlyEng ..⟩⟩
  · have h : LdsAccess s width addr := ⟨hw, ha, hon⟩
    exact ⟨⟨_, h.read who data, rfl⟩, _, h.write who data, rfl⟩
  · exact execLdsHostAccess_writes who data hw hon
  · exact execLdsHostAccess_reads who data hw hon

end

section
namespace Sys2Proof.Machine

/-! ## What an event leaves alone -/

/-- Nothing differs but mailboxes with their rings in control SRAM, their doorbells, and the cores, of which a doorbell starts
CC1: what firmware touches when it raises an event (R357, R392, R454). -/
structure OnlyEvents (s t : State) : Prop where
  rest : { t with mbx := s.mbx, regs := s.regs, ccs := s.ccs, sram := s.sram, sramBad := s.sramBad
                  sramSoft := s.sramSoft } = s
  regs : ∀ a, a ∉ [R.MBX_RSPPEND 0, R.MBX_RSPPEND 1] → t.reg a = s.reg a

section
variable {s t u : State}

theorem OnlyEvents.refl (s : State) : OnlyEvents s s := ⟨rfl, fun _ _ => rfl⟩

theorem OnlyEvents.trans (h : OnlyEvents s t) (h' : OnlyEvents t u) : OnlyEvents s u where
  rest := by
    have e := congrArg (fun x : State => { x with
      mbx := s.mbx, regs := s.regs, ccs := s.ccs, sram := s.sram, sramBad := s.sramBad, sramSoft := s.sramSoft }) h'.rest
    exact e.trans h.rest
  regs a ha := (h'.regs a ha).trans (h.regs a ha)

theorem OnlyEvents.f (h : OnlyEvents s t) {x : Fld} (hx : x.addr ∉ [R.MBX_RSPPEND 0, R.MBX_RSPPEND 1]) : t.f x = s.f x := by
  unfold State.f
  rw [h.regs _ hx]

theorem OnlyEvents.b (h : OnlyEvents s t) {x : Fld} (hx : x.addr ∉ [R.MBX_RSPPEND 0, R.MBX_RSPPEND 1]) : t.b x = s.b x := by
  unfold State.b
  rw [h.f hx]

theorem OnlyEvents.engs (h : OnlyEvents s t) : t.engs = s.engs := (congrArg State.engs h.rest :)
theorem OnlyEvents.doms (h : OnlyEvents s t) : t.doms = s.doms := (congrArg State.doms h.rest :)
theorem OnlyEvents.acs (h : OnlyEvents s t) : t.acs = s.acs := (congrArg State.acs h.rest :)

end

theorem onlyEvents_modMb (s : State) (m : Nat) (g : Mailbox → Mailbox) : OnlyEvents s (s.modMb m g) := ⟨rfl, fun _ _ => rfl⟩

theorem onlyEvents_sramFill (s : State) (addr : Nat) (bs : List Byte) : OnlyEvents s (s.sramFill addr bs) := by
  unfold State.sramFill
  split
  · exact ⟨rfl, fun _ _ => rfl⟩
  · exact .refl s

theorem onlyEvents_ringWrite (s : State) (base n i buf : Nat) (f : Frame) : OnlyEvents s (s.ringWrite base n i buf f) := by
  unfold State.ringWrite
  split
  · exact .refl s
  · exact (onlyEvents_sramFill ..).trans (onlyEvents_sramFill ..)

theorem onlyEvents_rspBell (s : State) {m : Nat} (hm : m < 64) : OnlyEvents s (s.rspBell m) := by
  unfold State.rspBell
  split
  · exact ⟨rfl, fun _ _ => rfl⟩
  · refine ⟨rfl, fun a ha => reg_setF_ne _ _ fun e => ha ?_⟩
    have : m / 32 = 0 ∨ m / 32 = 1 := by omega
    rcases this with h | h <;> simp [e, h, F.MBX_RSPPEND_PEND]

theorem onlyEvents_pushRsp (s : State) {m : Nat} (hm : m < 64) (bytes : List Byte) (flags : Nat) :
    OnlyEvents s (s.pushRsp m bytes flags) := by
  unfold State.pushRsp State.putRsp
  dsimp only
  split
  · exact ((onlyEvents_ringWrite ..).trans (onlyEvents_modMb ..)).trans (onlyEvents_rspBell _ hm)
  · exact onlyEvents_modMb ..

theorem onlyEvents_eventTo (s : State) (code : Nat) (evt : List Byte) {m : Nat} (hm : m < 64) :
    OnlyEvents s (s.eventTo code evt m) := by
  unfold State.eventTo
  dsimp only
  split
  · split
    · exact (onlyEvents_modMb ..).trans (onlyEvents_pushRsp _ hm ..)
    · exact onlyEvents_modMb ..
  · exact .refl s

theorem onlyEvents_raise (s : State) (code : Nat) (data : List Byte) : OnlyEvents s (s.raise code data) :=
  forEach_keeps (P := OnlyEvents s) _ (.refl s) fun t _ hm h => h.trans (onlyEvents_eventTo t _ _ (List.mem_range.mp hm))

/-! ## Fields written out -/

theorem fldOk {a hi lo : Nat} (h : lo ≤ hi ∧ hi < 32) : Fld.ok ⟨a, hi, lo⟩ := h

/-- Fields with bits of their own; and fields of two registers. -/
theorem apart_of_bits {a hi lo a' hi' lo' : Nat} (h : hi < lo' ∨ hi' < lo) : Fld.apart ⟨a, hi, lo⟩ ⟨a', hi', lo'⟩ := .inr h
theorem apart_of_addr {x y : Fld} (h : x.addr ≠ y.addr) : x.apart y := .inl h

/-- A field of one bit. -/
theorem b_setF_bit (s : State) {a i : Nat} (v : Nat) (h : i < 32) : (s.setF ⟨a, i, i⟩ v).b ⟨a, i, i⟩ = decide (v % 2 ≠ 0) := by
  unfold State.b
  rw [f_setF_same s _ v ⟨le_refl i, h⟩, Nat.add_sub_cancel_left, pow_one]

theorem b_setF_one (s : State) (x : Fld) (hx : x.ok) : (s.setF x 1).b x = true := b_flag_same s x hx

/-! ## Operations over lists that have no effect -/

theorem forEach_eq_self {s : State} {l : List Nat} {g : State → Nat → State} (h : ∀ n ∈ l, g s n = s) : s.forEach l g = s :=
  forEach_keeps (P := (· = s)) l rfl fun t n hn ht => by rw [ht, h n hn]

/-- LOCK of an ACS for which no start waits. -/
theorem startWaiting_eq_self {s : State} (h : ∀ d, d < 4 → s.b (F.RD_STAT_ACSWAIT d) = false) (a : Nat) :
    s.startWaiting a = s :=
  forEach_eq_self fun d hd => if_neg fun hw => by simp [h d (List.mem_range.mp hd)] at hw

/-! ## The status of a synthesiser -/

/-- The status of an ACS after an operation on it that changes no other register but doorbells, no engine and no domain. -/
structure AcsShows (s t : State) (k : Nat) (lock coast refok : Bool) : Prop where
  lock : t.b (F.ACS_STAT_LOCK k) = lock
  coast : t.b (F.ACS_STAT_COAST k) = coast
  refok : t.b (F.ACS_STAT_REFOK k) = refok
  regs : ∀ a, a ∉ [R.ACS_STAT k, R.MBX_RSPPEND 0, R.MBX_RSPPEND 1] → t.reg a = s.reg a
  engs : t.engs = s.engs
  doms : t.doms = s.doms

theorem acsShows_refl (s : State) (k : Nat) :
    AcsShows s s k (s.b (F.ACS_STAT_LOCK k)) (s.b (F.ACS_STAT_COAST k)) (s.b (F.ACS_STAT_REFOK k)) :=
  ⟨rfl, rfl, rfl, fun _ _ => rfl, rfl, rfl⟩

namespace AcsShows
variable {s t : State} {k : Nat} {l c r : Bool}

/-- The other registers and units of a field's write in the status register. -/
theorem others (h : AcsShows s t k l c r) {x : Fld} (hx : x.addr = R.ACS_STAT k) (v : Nat) :
    ∀ a, a ∉ [R.ACS_STAT k, R.MBX_RSPPEND 0, R.MBX_RSPPEND 1] → (t.setF x v).reg a = s.reg a :=
  fun a ha => (reg_setF_ne t v fun e => ha (by simp [e, hx])).trans (h.regs a ha)

theorem setLock (h : AcsShows s t k l c r) (v : Nat) :
    AcsShows s (t.setF (F.ACS_STAT_LOCK k) v) k (decide (v % 2 ≠ 0)) c r where
  lock := b_setF_bit _ _ (by decide)
  coast := (b_setF_ne _ _ (fldOk (by decide)) (apart_of_bits (by decide))).trans h.coast
  refok := (b_setF_ne _ _ (fldOk (by decide)) (apart_of_bits (by decide))).trans h.refok
  regs := h.others rfl _
  engs := (State.setF_engs ..).trans h.engs
  doms := (State.setF_doms ..).trans h.doms

theorem setCoast (h : AcsShows s t k l c r) (v : Nat) :
    AcsShows s (t.setF (F.ACS_STAT_COAST k) v) k l (decide (v % 2 ≠ 0)) r where
  lock := (b_setF_ne _ _ (fldOk (by decide)) (apart_of_bits (by decide))).trans h.lock
  coast := b_setF_bit _ _ (by decide)
  refok := (b_setF_ne _ _ (fldOk (by decide)) (apart_of_bits (by decide))).trans h.refok
  regs := h.others rfl _
  engs := (State.setF_engs ..).trans h.engs
  doms := (State.setF_doms ..).trans h.doms

theorem setRefok (h : AcsShows s t k l c r) (v : Nat) :
    AcsShows s (t.setF (F.ACS_STAT_REFOK k) v) k l c (decide (v % 2 ≠ 0)) where
  lock := (b_setF_ne _ _ (fldOk (by decide)) (apart_of_bits (by decide))).trans h.lock
  coast := (b_setF_ne _ _ (fldOk (by decide)) (apart_of_bits (by decide))).trans h.coast
  refok := b_setF_bit _ _ (by decide)
  regs := h.others rfl _
  engs := (State.setF_engs ..).trans h.engs
  doms := (State.setF_doms ..).trans h.doms

/-- The sticky flags of the status register lie below its levels. -/
theorem flag (h : AcsShows s t k l c r) {hi lo : Nat} (hx : lo ≤ hi ∧ hi < 28) :
    AcsShows s (t.flag ⟨R.ACS_STAT k, hi, lo⟩) k l c r where
  lock := (b_flag_ne _ (fldOk (by omega)) (apart_of_bits (.inr (by omega)))).trans h.lock
  coast := (b_flag_ne _ (fldOk (by omega)) (apart_of_bits (.inr (by omega)))).trans h.coast
  refok := (b_flag_ne _ (fldOk (by omega)) (apart_of_bits (.inr (by omega)))).trans h.refok
  regs := h.others rfl _
  engs := (State.flag_engs ..).trans h.engs
  doms := (State.flag_doms ..).trans h.doms

theorem modAcs (h : AcsShows s t k l c r) (g : Acs → Acs) : AcsShows s (t.modAcs k g) k l c r :=
  ⟨h.lock, h.coast, h.refok, h.regs, h.engs, h.doms⟩

end AcsShows

/-- A doorbell lies apart from the status of the synthesisers. -/
theorem acsStat_not_bell (k : Nat) (hk : k < 2) : R.ACS_STAT k ∉ [R.MBX_RSPPEND 0, R.MBX_RSPPEND 1] := by
  simp only [R.ACS_STAT, R.MBX_RSPPEND, List.mem_cons, List.not_mem_nil, or_false]
  omega

theorem AcsShows.raise {s t : State} {k : Nat} {l c r : Bool} (h : AcsShows s t k l c r) (hk : k < 2) (code : Nat)
    (data : List Byte) : AcsShows s (t.raise code data) k l c r := by
  have e := onlyEvents_raise t code data
  have hb := acsStat_not_bell k hk
  exact ⟨(e.b hb).trans h.lock, (e.b hb).trans h.coast, (e.b hb).trans h.refok,
    fun a ha => (e.regs a fun m => ha (.tail _ m)).trans (h.regs a ha), e.engs.trans h.engs, e.doms.trans h.doms⟩

/-- No start waits for an ACS before an operation, and none after it. -/
theorem AcsShows.noneWaits {s t : State} {k : Nat} {l c r : Bool} (h : AcsShows s t k l c r)
    (hs : ∀ d, d < 4 → s.b (F.RD_STAT_ACSWAIT d) = false) (d : Nat) (hd : d < 4) : t.b (F.RD_STAT_ACSWAIT d) = false := by
  have hr : t.reg (R.RD_STAT d) = s.reg (R.RD_STAT d) := h.regs _ (by
    simp only [R.RD_STAT, R.ACS_STAT, R.MBX_RSPPEND, List.mem_cons, List.not_mem_nil, or_false]
    omega)
  rw [← hs d hd]
  unfold State.b State.f
  rw [show (F.RD_STAT_ACSWAIT d).addr = R.RD_STAT d from rfl, hr]

theorem b2n_lt_two (a : Bool) : b2n a < 2 := by cases a <;> decide

theorem b_modAcs (s : State) (k : Nat) (g : Acs → Acs) (x : Fld) : (s.modAcs k g).b x = s.b x := rfl

theorem acsOf_modAcs (s : State) {k : Nat} (hk : k < 2) (g : Acs → Acs) : (s.modAcs k g).acsOf k = g (s.acsOf k) := by
  unfold State.acsOf State.modAcs
  rw [vmod_getElem?, if_pos rfl]
  simp [hk]

/-- The state in which an ACS begins to coast, before its event. -/
def State.acsCoastQuiet (s : State) (k cause : Nat) : State :=
  (((s.setF (F.ACS_STAT_COAST k) 1).setF (F.ACS_STAT_LOCK k) 0).flag (F.ACS_STAT_COASTEV k)).modAcs k fun y =>
    { y with cause := cause }

theorem acsCoast_eq (s : State) (k cause : Nat) :
    s.acsCoast k cause = (s.acsCoastQuiet k cause).raise 0x0401 [BitVec.ofNat 8 k, BitVec.ofNat 8 cause] := rfl

/-- R272: coasting, with its cause. -/
theorem acsCoast_shows {s t : State} {k : Nat} {l c r : Bool} (h : AcsShows s t k l c r) (hk : k < 2) (cause : Nat) :
    AcsShows s (t.acsCoast k cause) k false true r ∧ (t.acsCoast k cause).b (F.ACS_STAT_COASTEV k) = true ∧
      ((t.acsCoast k cause).acsOf k).cause = cause := by
  have e := onlyEvents_raise (t.acsCoastQuiet k cause) 0x0401 [BitVec.ofNat 8 k, BitVec.ofNat 8 cause]
  have hq : AcsShows s (t.acsCoastQuiet k cause) k false true r := (((h.setCoast 1).setLock 0).flag (by decide)).modAcs _
  rw [acsCoast_eq]
  refine ⟨hq.raise hk .., ?_, ?_⟩
  · rw [e.b (acsStat_not_bell k hk), State.acsCoastQuiet, b_modAcs]
    exact b_flag_same _ _ (fldOk (by decide))
  · unfold State.acsOf
    rw [e.acs]
    exact congrArg Acs.cause (acsOf_modAcs _ hk _)

theorem b_acsCoast_freqErr (s : State) {k : Nat} (hk : k < 2) (cause : Nat) :
    (s.acsCoast k cause).b (F.ACS_STAT_FREQERR k) = s.b (F.ACS_STAT_FREQERR k) := by
  rw [acsCoast_eq, (onlyEvents_raise ..).b (acsStat_not_bell k hk), State.acsCoastQuiet, b_modAcs]
  calc _ = _ := b_flag_ne _ (fldOk (by decide)) (apart_of_bits (by decide))
    _ = _ := b_setF_ne _ 0 (fldOk (by decide)) (apart_of_bits (by decide))
    _ = _ := b_setF_ne _ 1 (fldOk (by decide)) (apart_of_bits (by decide))

/-- The state in which an ACS has relocked, before its event. -/
def State.acsRelockQuiet (s : State) (k : Nat) : State :=
  ((s.setF (F.ACS_STAT_COAST k) 0).setF (F.ACS_STAT_LOCK k) 1).flag (F.ACS_STAT_RELOCKED k)

/-- R273: a relock with no set and no start that waits. -/
theorem acsDoRelock_shows {s t : State} {k : Nat} {l c r : Bool} (h : AcsShows s t k l c r) (hk : k < 2)
    (hcap : (t.acsOf k).cap = none) (hs : ∀ d, d < 4 → s.b (F.RD_STAT_ACSWAIT d) = false) :
    AcsShows s (t.acsDoRelock k) k true false r ∧ (t.acsDoRelock k).b (F.ACS_STAT_RELOCKED k) = true := by
  have hq : AcsShows s (t.acsRelockQuiet k) k true false r := ((h.setCoast 0).setLock 1).flag (by decide)
  have hc : ((t.acsRelockQuiet k).acsOf k).cap = none := by
    unfold State.acsOf State.acsRelockQuiet
    rwa [State.flag_acs, State.setF_acs, State.setF_acs]
  have hr := hq.raise hk 0x0402 [BitVec.ofNat 8 k, BitVec.ofNat 8 ((t.acsRelockQuiet k).acsOf k).cause]
  have e : t.acsDoRelock k =
      (t.acsRelockQuiet k).raise 0x0402 [BitVec.ofNat 8 k, BitVec.ofNat 8 ((t.acsRelockQuiet k).acsOf k).cause] := by
    unfold State.acsDoRelock
    rw [← State.acsRelockQuiet]
    simp only [hc]
    exact startWaiting_eq_self (hr.noneWaits hs) k
  rw [e]
  exact ⟨hr, ((onlyEvents_raise ..).b (acsStat_not_bell k hk)).trans (b_flag_same _ _ (fldOk (by decide)))⟩

theorem AcsShows.live {s t : State} {k : Nat} {l c r : Bool} (h : AcsShows s t k l c r) :
    t.reg (R.ACS_LIVE k) = s.reg (R.ACS_LIVE k) := h.regs _ (by
  simp only [R.ACS_LIVE, R.ACS_STAT, R.MBX_RSPPEND, List.mem_cons, List.not_mem_nil, or_false]
  omega)

/-! ## The operations on a synthesiser -/

section
variable {s : State} {a : Bool}

/-- R271: the count of edges is off by more than twice the tolerance and 50 ppm. -/
abbrev FarOff (s : State) (k count expected : Nat) : Prop :=
  (2 * s.f (F.ACS_LIMIT_REFTOL k) + 50) * expected < ((count : Int) - expected).natAbs * 1000000

theorem farOff_iff (s : State) (k count expected : Nat) : FarOff s k count expected ↔
    (2 * (s.f (F.ACS_LIMIT_REFTOL k) : Int) + 50) * expected < (((count : Int) - expected).natAbs : Int) * 1000000 := by
  unfold FarOff
  rw [← Int.ofNat_lt]
  push_cast
  rfl

theorem execAcsLock_locks (hw : ∀ d, d < 4 → s.b (F.RD_STAT_ACSWAIT d) = false ∧ (s.dom d).napIdx = none)
    (hc : s.b (F.ACS_STAT_COAST (b2n a)) = false) (he : s.b (F.ACS_CTRL_EN (b2n a)) = true) :
    ∃ t, exec (.acsLock a) s = .next t ∧ AcsShows s t (b2n a) true false true := by
  have h : AcsShows s _ (b2n a) true (s.b (F.ACS_STAT_COAST (b2n a))) true :=
    ((acsShows_refl s (b2n a)).setLock 1).setRefok 1
  have hl : s.acsLocked (b2n a) = (s.setF (F.ACS_STAT_LOCK (b2n a)) 1).setF (F.ACS_STAT_REFOK (b2n a)) 1 := by
    unfold State.acsLocked
    rw [if_pos ⟨he, hc⟩, startWaiting_eq_self (h.noneWaits fun d hd => (hw d hd).1)]
  refine ⟨_, ?_, hc ▸ h⟩
  rw [exec_acsLock, execAcsLock, hl]
  refine congrArg _ (forEach_eq_self fun d hd => ?_)
  obtain ⟨hd, hn⟩ := List.mem_filter.mp hd
  unfold State.dom at hn hw
  rw [State.setF_doms, State.setF_doms, (hw d (List.mem_range.mp hd)).2] at hn
  simp at hn

theorem execAcsLock_disabled (hw : ∀ d, d < 4 → s.b (F.RD_STAT_ACSWAIT d) = false ∧ (s.dom d).napIdx = none)
    (he : s.b (F.ACS_CTRL_EN (b2n a)) = false) : exec (.acsLock a) s = .next s := by
  have hl : s.acsLocked (b2n a) = s := if_neg (by simp [he])
  rw [exec_acsLock, execAcsLock, hl]
  refine congrArg _ (forEach_eq_self fun d hd => ?_)
  obtain ⟨hd, hn⟩ := List.mem_filter.mp hd
  rw [(hw d (List.mem_range.mp hd)).2] at hn
  simp at hn

theorem execAcsCoast_coasts (hc : s.b (F.ACS_STAT_COAST (b2n a)) = false) (he : s.b (F.ACS_CTRL_EN (b2n a)) = true) :
    ∃ t, exec (.acsCoast a) s = .next t ∧ AcsShows s t (b2n a) false true false ∧
      t.b (F.ACS_STAT_COASTEV (b2n a)) = true ∧ (t.acsOf (b2n a)).cause = 1 := by
  obtain ⟨h, hev, hcause⟩ := acsCoast_shows (acsShows_refl s (b2n a)) (b2n_lt_two a) 1
  refine ⟨(s.acsCoast (b2n a) 1).setF (F.ACS_STAT_REFOK (b2n a)) 0, ?_, h.setRefok 0, ?_, ?_⟩
  · rw [exec_acsCoast, execAcsCoast, if_pos ⟨he, hc⟩]
  · exact (b_setF_ne _ 0 (fldOk (by decide)) (apart_of_bits (by decide))).trans hev
  · unfold State.acsOf
    rwa [State.setF_acs]

/-- R271: a frequency check that finds the reference off, before the ACS coasts. -/
theorem freqErr_shows (s : State) (k : Nat) :
    AcsShows s ((s.flag (F.ACS_STAT_FREQERR k)).setF (F.ACS_STAT_REFOK k) 0) k (s.b (F.ACS_STAT_LOCK k))
        (s.b (F.ACS_STAT_COAST k)) false ∧
      ((s.flag (F.ACS_STAT_FREQERR k)).setF (F.ACS_STAT_REFOK k) 0).b (F.ACS_STAT_FREQERR k) = true := by
  refine ⟨((acsShows_refl s k).flag (by decide)).setRefok 0, ?_⟩
  exact (b_setF_ne _ 0 (fldOk (by decide)) (apart_of_bits (by decide))).trans (b_flag_same _ _ (fldOk (by decide)))

section
variable {count expected : Nat}

theorem execFrequencyCheck_near (hn : ¬ FarOff s (b2n a) count expected) :
    exec (.frequencyCheck a count expected) s = .next s := by
  rw [exec_frequencyCheck, execFrequencyCheck]
  simp only
  rw [if_neg]
  rintro ⟨-, -, -, h⟩
  exact hn ((farOff_iff ..).mpr h)

variable (he : s.b (F.ACS_CTRL_EN (b2n a)) = true) (hf : s.b (F.ACS_CTRL_FCHK (b2n a)) = true)
  (hr : s.acsOnSysRef (b2n a) = false) (ho : FarOff s (b2n a) count expected)
include he hf hr ho

theorem execFrequencyCheck_far :
    exec (.frequencyCheck a count expected) s = .next
      (let t := (s.flag (F.ACS_STAT_FREQERR (b2n a))).setF (F.ACS_STAT_REFOK (b2n a)) 0
      if t.b (F.ACS_STAT_COAST (b2n a)) then t else t.acsCoast (b2n a) 2) := by
  rw [exec_frequencyCheck, execFrequencyCheck]
  simp only
  rw [if_pos]
  exact ⟨he, hf, hr, (farOff_iff ..).mp ho⟩

theorem execFrequencyCheck_coasts (hc : s.b (F.ACS_STAT_COAST (b2n a)) = false) :
    ∃ t, exec (.frequencyCheck a count expected) s = .next t ∧ AcsShows s t (b2n a) false true false ∧
      t.b (F.ACS_STAT_FREQERR (b2n a)) = true ∧ (t.acsOf (b2n a)).cause = 2 := by
  obtain ⟨h, hfe⟩ := freqErr_shows s (b2n a)
  obtain ⟨hs, -, hcause⟩ := acsCoast_shows h (b2n_lt_two a) 2
  refine ⟨_, execFrequencyCheck_far he hf hr ho, ?_⟩
  simp only [h.coast, hc, Bool.false_eq_true, if_false]
  refine ⟨hs, ?_, hcause⟩
  exact (b_acsCoast_freqErr _ (b2n_lt_two a) 2).trans hfe

theorem execFrequencyCheck_coasting (hc : s.b (F.ACS_STAT_COAST (b2n a)) = true) :
    ∃ t, exec (.frequencyCheck a count expected) s = .next t ∧
      AcsShows s t (b2n a) (s.b (F.ACS_STAT_LOCK (b2n a))) true false ∧ t.b (F.ACS_STAT_FREQERR (b2n a)) = true := by
  obtain ⟨h, hfe⟩ := freqErr_shows s (b2n a)
  refine ⟨_, execFrequencyCheck_far he hf hr ho, ?_⟩
  simp only [h.coast, hc, if_true]
  exact ⟨hc ▸ h, hfe⟩

end

/-- R273: good periods of the reference, before a relock. -/
theorem refok_shows (s : State) (k : Nat) :
    AcsShows s (s.setF (F.ACS_STAT_REFOK k) 1) k (s.b (F.ACS_STAT_LOCK k)) (s.b (F.ACS_STAT_COAST k)) true :=
  (acsShows_refl s k).setRefok 1

theorem acsCtrl_setRefok (s : State) {k : Nat} (v hi lo : Nat) :
    (s.setF (F.ACS_STAT_REFOK k) v).b ⟨R.ACS_CTRL k, hi, lo⟩ = s.b ⟨R.ACS_CTRL k, hi, lo⟩ :=
  b_setF_ne _ _ (fldOk (by decide)) (apart_of_addr (by show R.ACS_CTRL k ≠ R.ACS_STAT k; simp [R.ACS_CTRL, R.ACS_STAT]))

theorem acsOf_setF (s : State) (x : Fld) (v k : Nat) : (s.setF x v).acsOf k = s.acsOf k := by
  unfold State.acsOf
  rw [State.setF_acs]

theorem execReferenceReturn_stays
    (hn : s.b (F.ACS_STAT_COAST (b2n a)) = true →
      s.b (F.ACS_CTRL_RLAUTO (b2n a)) = false ∧ (s.acsOf (b2n a)).cause ≠ 3) :
    ∃ t, exec (.referenceReturn a) s = .next t ∧
      AcsShows s t (b2n a) (s.b (F.ACS_STAT_LOCK (b2n a))) (s.b (F.ACS_STAT_COAST (b2n a))) true := by
  have h := refok_shows s (b2n a)
  refine ⟨_, ?_, h⟩
  rw [exec_referenceReturn, execReferenceReturn]
  simp only [h.coast, acsOf_setF]
  rw [F.ACS_CTRL_RLAUTO, acsCtrl_setRefok, ← F.ACS_CTRL_RLAUTO, if_neg]
  rintro ⟨hc, hr⟩
  simp [hn hc] at hr

theorem execReferenceReturn_relocks (hcap : (s.acsOf (b2n a)).cap = none)
    (hw : ∀ d, d < 4 → s.b (F.RD_STAT_ACSWAIT d) = false ∧ (s.dom d).napIdx = none)
    (hc : s.b (F.ACS_STAT_COAST (b2n a)) = true) (hr : s.b (F.ACS_CTRL_RLAUTO (b2n a)) = true) :
    ∃ t, exec (.referenceReturn a) s = .next t ∧ AcsShows s t (b2n a) true false true ∧
      t.b (F.ACS_STAT_RELOCKED (b2n a)) = true := by
  have h := refok_shows s (b2n a)
  refine ⟨_, ?_, acsDoRelock_shows h (b2n_lt_two a) ((congrArg Acs.cap (acsOf_setF s ..)).trans hcap) fun d hd => (hw d hd).1⟩
  rw [exec_referenceReturn, execReferenceReturn]
  simp only [h.coast]
  rw [F.ACS_CTRL_RLAUTO, acsCtrl_setRefok, ← F.ACS_CTRL_RLAUTO, if_pos ⟨hc, .inl hr⟩]

theorem execAcsRelock_relocks (hon : s.on 21 = true) (hcap : (s.acsOf (b2n a)).cap = none)
    (hw : ∀ d, d < 4 → s.b (F.RD_STAT_ACSWAIT d) = false ∧ (s.dom d).napIdx = none)
    (hc : s.b (F.ACS_STAT_COAST (b2n a)) = true) (hr : s.b (F.ACS_STAT_REFOK (b2n a)) = true) :
    ∃ t, exec (.acsRelock a) s = .next t ∧ AcsShows s t (b2n a) true false true ∧
      t.b (F.ACS_STAT_RELOCKED (b2n a)) = true := by
  have h := acsDoRelock_shows (acsShows_refl s (b2n a)) (b2n_lt_two a) hcap fun d hd => (hw d hd).1
  refine ⟨_, ?_, hr ▸ h⟩
  rw [exec_acsRelock, execAcsRelock, State.sysDo, if_pos hon, if_pos ⟨hc, hr⟩]

theorem execAcsRelock_ignored (hon : s.on 21 = true) (hr : s.b (F.ACS_STAT_REFOK (b2n a)) = false) :
    exec (.acsRelock a) s = .next s := by
  rw [exec_acsRelock, execAcsRelock, State.sysDo, if_pos hon, if_neg (by simp [hr])]

end

end Sys2Proof.Machine

open Sys2Proof Sys2Proof.Machine

/-- Settles O26: each operation's status of the synthesiser, one lemma for each case of the statement. -/
theorem acsLocksAndCoasts : Obligations.AcsLocksAndCoasts := by
  intro a count expected s
  dsimp only
  intro hcap hw
  refine ⟨fun hc => ⟨fun he => ⟨?_, ?_, fun hf hr ho => ?_⟩, execAcsLock_disabled hw, ?_⟩, fun hc he hf hr ho => ?_,
    execFrequencyCheck_near, fun hc => ⟨fun hr => ?_, fun hr h3 => ?_, fun hon hr => ?_, execAcsRelock_ignored⟩⟩
  · obtain ⟨t, e, h⟩ := execAcsLock_locks hw hc he
    exact ⟨t, e, h.lock, h.coast, h.refok, h.live, h.engs, h.doms⟩
  · obtain ⟨t, e, h, hev⟩ := execAcsCoast_coasts hc he
    exact ⟨t, e, ⟨h.lock, h.coast, h.refok, h.live, h.engs, h.doms⟩, hev⟩
  · obtain ⟨t, e, h, hev⟩ := execFrequencyCheck_coasts he hf hr ho hc
    exact ⟨t, e, ⟨h.lock, h.coast, h.refok, h.live, h.engs, h.doms⟩, hev⟩
  · obtain ⟨t, e, h⟩ := execReferenceReturn_stays (s := s) (a := a) fun h => absurd (hc.symm.trans h) (by decide)
    exact ⟨t, e, h.lock, h.coast.trans hc, h.refok, h.live, h.engs, h.doms⟩
  · obtain ⟨t, e, h, hev⟩ := execFrequencyCheck_coasting he hf hr ho hc
    exact ⟨t, e, ⟨h.lock, h.coast, h.refok, h.live, h.engs, h.doms⟩, hev⟩
  · obtain ⟨t, e, h, hev⟩ := execReferenceReturn_relocks hcap hw hc hr
    exact ⟨t, e, ⟨h.lock, h.coast, h.refok, h.live, h.engs, h.doms⟩, hev⟩
  · obtain ⟨t, e, h⟩ := execReferenceReturn_stays fun _ => ⟨hr, h3⟩
    exact ⟨t, e, h.lock, h.coast.trans hc, h.refok, h.live, h.engs, h.doms⟩
  · obtain ⟨t, e, h, hev⟩ := execAcsRelock_relocks hon hcap hw hc hr
    exact ⟨t, e, ⟨h.lock, h.coast, h.refok, h.live, h.engs, h.doms⟩, hev⟩

end

section
namespace Sys2Proof.Machine

/-! ## Words that a read latches -/

section
variable {α : Type}

theorem listed_smapIns_same (m : List (Nat × α)) (k : Nat) (v : α) : listed (smapIns m k v) k = some v := by
  induction m with
  | nil => simp [smapIns, listed]
  | cons p m ih =>
    obtain ⟨a, w⟩ := p
    unfold smapIns
    split
    · simp [listed]
    · split
      · simp [listed]
      · next h =>
        simp only [listed, List.find?_cons, Ne.symm h, decide_false] at ih ⊢
        exact ih

theorem listed_smapIns_ne (m : List (Nat × α)) {k j : Nat} (v : α) (h : j ≠ k) : listed (smapIns m k v) j = listed m j := by
  induction m with
  | nil => simp [smapIns, listed, Ne.symm h]
  | cons p m ih =>
    obtain ⟨a, w⟩ := p
    unfold smapIns
    split
    · simp [listed, Ne.symm h]
    · split
      · next hk =>
        subst hk
        simp [listed, Ne.symm h]
      · simp only [listed, List.find?_cons] at ih ⊢
        split
        · rfl
        · exact ih

end

theorem latch_latchReg_same (s : State) (a : Nat) : listed (s.latchReg a).latch a = some (s.reg a) :=
  listed_smapIns_same ..

theorem latch_latchReg_ne (s : State) {a b : Nat} (h : b ≠ a) : listed (s.latchReg a).latch b = listed s.latch b :=
  listed_smapIns_ne _ _ h

section
variable {s t : State} {as : List Nat}

theorem OnlyRead.latchReg (h : OnlyRead s t as) (a : Nat) : OnlyRead s (t.latchReg a) as := h
theorem OnlyRead.ret (h : OnlyRead s t as) (v : Word) : OnlyRead s (t.ret v) as := h

end

theorem execSampleIndexRead_on {s : State} (hs : s.on 21 = true) (who : Initiator) (d : Dom) :
    exec (.sampleIndexRead who d) s = .next ((s.latchReg (R.RD_SIDXH d)).ret (s.reg (R.RD_SIDXL d))) := by
  rw [exec_sampleIndexRead, execSampleIndexRead, State.sysRead, if_pos hs, forEach_cons, forEach_nil]

theorem execBoundaryTimeRead_on {s : State} (hs : s.on 21 = true) (who : Initiator) (d : Dom) :
    exec (.boundaryTimeRead who d) s = .next ((((s.latchReg (R.RD_BTSSUB d)).latchReg (R.RD_BTSSECL d)).latchReg
      (R.RD_BTSSECH d)).ret (s.reg (R.RD_BTSNS d))) := by
  rw [exec_boundaryTimeRead, execBoundaryTimeRead, State.sysRead, if_pos hs, forEach_cons, forEach_cons, forEach_cons,
    forEach_nil]

theorem execSampleCounterRead_on {s : State} {e : Eng} (hs : s.on e = true) (who : Initiator) :
    exec (.sampleCounterRead who e) s = .next ((s.latchReg (R.ENG_SCNTH e)).ret (s.reg (R.ENG_SCNTL e))) := by
  rw [exec_sampleCounterRead, execSampleCounterRead, if_pos hs]

theorem execPassmaxRead_on {s : State} {e : Eng} (hs : s.on e = true) (who : Initiator) (hw : Nat) :
    exec (.passmaxRead who e hw) s = .next (s.readClear (F.ENG_PASSMAX_CYC e) hw) := by
  rw [exec_passmaxRead, execPassmaxRead, if_pos hs]

theorem execLdsPeakRead_on {s : State} (hs : s.on 21 = true) (who : Initiator) (d : Dom) (hw : Nat) :
    exec (.ldsPeakRead who d hw) s = .next (s.readClear (F.LDS_PEAK_ACC d) hw) := by
  rw [exec_ldsPeakRead, execLdsPeakRead, if_pos hs]

/-- The three partner words of a boundary time. -/
theorem latch_boundaryTime (s : State) (d : Nat) : ∀ a ∈ [R.RD_BTSSUB d, R.RD_BTSSECL d, R.RD_BTSSECH d],
    listed (((s.latchReg (R.RD_BTSSUB d)).latchReg (R.RD_BTSSECL d)).latchReg (R.RD_BTSSECH d)).latch a = some (s.reg a) := by
  have h1 : R.RD_BTSSUB d ≠ R.RD_BTSSECL d := by simp [R.RD_BTSSUB, R.RD_BTSSECL]
  have h2 : R.RD_BTSSUB d ≠ R.RD_BTSSECH d := by simp [R.RD_BTSSUB, R.RD_BTSSECH]
  have h3 : R.RD_BTSSECL d ≠ R.RD_BTSSECH d := by simp [R.RD_BTSSECL, R.RD_BTSSECH]
  intro a ha
  simp only [List.mem_cons, List.not_mem_nil, or_false] at ha
  rcases ha with rfl | rfl | rfl
  · rw [latch_latchReg_ne _ h2, latch_latchReg_ne _ h1, latch_latchReg_same]
  · rw [latch_latchReg_ne _ h3, latch_latchReg_same, reg_latchReg]
  · rw [latch_latchReg_same, reg_latchReg, reg_latchReg]

/-- A read that clears a peak, with a set of the same cycle (R6, R8). -/
theorem readClear_keepsSet (s : State) {x : Fld} (hx : x.ok) (hw : Nat) :
    (s.readClear x hw).resp = ⟨s.reg x.addr, false⟩ ∧ OnlyRead s (s.readClear x hw) [x.addr] ∧
      (s.readClear x hw).f x = hw % 2 ^ (x.hi + 1 - x.lo) :=
  ⟨rfl, ((OnlyRead.refl s _).ret _).setF x hw (.head _), f_setF_same _ x hw hx⟩

/-! ### The reads, each with what it latches or keeps -/

theorem execSampleIndexRead_latches {s : State} (hs : s.on 21 = true) (who : Initiator) (d : Dom) :
    ∃ t, exec (.sampleIndexRead who d) s = .next t ∧ t.resp = ⟨s.reg (R.RD_SIDXL d), false⟩ ∧ OnlyRead s t [] ∧
      listed t.latch (R.RD_SIDXH d) = some (s.reg (R.RD_SIDXH d)) :=
  ⟨_, execSampleIndexRead_on hs who d, rfl, ((OnlyRead.refl s []).latchReg _).ret _, latch_latchReg_same ..⟩

theorem execBoundaryTimeRead_latches {s : State} (hs : s.on 21 = true) (who : Initiator) (d : Dom) :
    ∃ t, exec (.boundaryTimeRead who d) s = .next t ∧ t.resp = ⟨s.reg (R.RD_BTSNS d), false⟩ ∧ OnlyRead s t [] ∧
      ∀ a ∈ [R.RD_BTSSUB d, R.RD_BTSSECL d, R.RD_BTSSECH d], listed t.latch a = some (s.reg a) :=
  ⟨_, execBoundaryTimeRead_on hs who d, rfl, ((((OnlyRead.refl s []).latchReg _).latchReg _).latchReg _).ret _,
    latch_boundaryTime s d⟩

theorem execSampleCounterRead_latches {s : State} {e : Eng} (hs : s.on e = true) (who : Initiator) :
    ∃ t, exec (.sampleCounterRead who e) s = .next t ∧ t.resp = ⟨s.reg (R.ENG_SCNTL e), false⟩ ∧ OnlyRead s t [] ∧
      listed t.latch (R.ENG_SCNTH e) = some (s.reg (R.ENG_SCNTH e)) :=
  ⟨_, execSampleCounterRead_on hs who, rfl, ((OnlyRead.refl s []).latchReg _).ret _, latch_latchReg_same ..⟩

theorem execPassmaxRead_keepsSet {s : State} {e : Eng} (hs : s.on e = true) (who : Initiator) (hw : Nat) :
    ∃ t, exec (.passmaxRead who e hw) s = .next t ∧ t.resp = ⟨s.reg (R.ENG_PASSMAX e), false⟩ ∧
      OnlyRead s t [R.ENG_PASSMAX e] ∧ t.f (F.ENG_PASSMAX_CYC e) = hw % 2 ^ 20 :=
  ⟨_, execPassmaxRead_on hs who hw, readClear_keepsSet s (x := F.ENG_PASSMAX_CYC e) (fldOk (by decide)) hw⟩

theorem execLdsPeakRead_keepsSet {s : State} (hs : s.on 21 = true) (who : Initiator) (d : Dom) (hw : Nat) :
    ∃ t, exec (.ldsPeakRead who d hw) s = .next t ∧ t.resp = ⟨s.reg (R.LDS_PEAK d), false⟩ ∧
      OnlyRead s t [R.LDS_PEAK d] ∧ t.f (F.LDS_PEAK_ACC d) = hw % 2 ^ 18 :=
  ⟨_, execLdsPeakRead_on hs who d hw, readClear_keepsSet s (x := F.LDS_PEAK_ACC d) (fldOk (by decide)) hw⟩

/-! ### The read of a partner word -/

/-- The registers of the sample timing that a read of a partner word takes from its latch. -/
abbrev PartnerReg (d : Dom) (a : Nat) : Prop := a = R.RD_SIDXH d ∨ a = R.RD_BTSSECL d

theorem PartnerReg.row {d : Dom} {a : Nat} (h : PartnerReg d a) : (regRow a).map (·.rc) = some 0 := by
  rcases h with rfl | rfl <;> revert d <;> decide +kernel

theorem PartnerReg.bounds {d : Dom} {a : Nat} (h : PartnerReg d a) :
    0x40030118 ≤ a ∧ a ≤ 0x400301E8 ∧ (a % 0x40 = 0x18 ∨ a % 0x40 = 0x28) := by
  have hd := d.isLt
  rcases h with rfl | rfl <;> simp only [R.RD_SIDXH, R.RD_BTSSECL] <;> omega

theorem PartnerReg.busKind {d : Dom} {a : Nat} (h : PartnerReg d a) {s : State} (hs : s.on 21 = true) {c : Initiator}
    (hc : c = .cc0 ∨ c = .cc1) : s.busKind ⟨c, false, 4, BitVec.ofNat 32 a, 0, .clean⟩ = none := by
  obtain ⟨lo, hi, hm⟩ := h.bounds
  obtain ⟨r, hr, -⟩ := Option.map_eq_some_iff.mp h.row
  have hn : (BitVec.ofNat 32 a).toNat = a := by
    rw [BitVec.toNat_ofNat]
    omega
  have hw : (isCore c || c == .dma) = true := ReachesFabric.wide (hc.imp_right .inl)
  have hon : s.blockOn a = true := by
    have hk : (a - 0x40000000) / 0x10000 = 3 := by omega
    simp [State.blockOn, hk, hs]
  simp only [State.busKind, hn, sramOff_of_register (show 0x40000000 ≤ a by omega), hw]
  rw [if_neg (by simp), if_neg (by simp), if_neg (by omega), if_neg (by omega), if_neg (by omega), if_pos (by omega),
    if_neg (by omega), if_neg (by simp [hr]), if_pos hon]

theorem PartnerReg.regRead {d : Dom} {a : Nat} (h : PartnerReg d a) (s : State) (who : Initiator) :
    s.regRead who a = s.plainRead a := by
  obtain ⟨lo, hi, hm⟩ := h.bounds
  unfold State.regRead State.readLow
  rw [if_pos (by omega)]
  have h1 : nth (R.ACS_LIVE 0) 0x40 2 a = none := if_neg (by simp only [R.ACS_LIVE]; omega)
  have h2 : nth (R.RD_SIDXL 0) 0x40 4 a = none := if_neg (by simp only [R.RD_SIDXL]; omega)
  have h3 : nth (R.RD_BTSNS 0) 0x40 4 a = none := if_neg (by simp only [R.RD_BTSNS]; omega)
  have h4 : nth (R.SEC_FUSE 0) 4 128 a = none := if_neg (by simp only [R.SEC_FUSE]; omega)
  simp only [h1, h2, h3, h4]
  rw [if_neg (by simp only [R.TU_NS]; omega), if_neg (by simp only [R.TU_LNSL]; omega),
    if_neg (by simp only [R.TU_SUBNS, R.TU_SECL, R.TU_SECH]; omega), if_neg (by simp only [R.TU_LNSH, R.TU_LFRAC]; omega),
    if_neg (by simp only [R.TCAP_NS]; omega), if_neg (by simp only [R.STG_METDATA]; omega),
    if_neg (by simp only [R.XMP_DATA]; omega)]

theorem plainRead_latched {s : State} {a : Nat} {v : Word} (hrow : (regRow a).map (·.rc) = some 0)
    (hl : listed s.latch a = some v) : s.plainRead a = { s with latch := smapDel s.latch a }.ret v := by
  obtain ⟨r, hr, h0⟩ := Option.map_eq_some_iff.mp hrow
  simp only [State.plainRead, State.takeLatch, hl, hr, h0, if_true]

theorem PartnerReg.busRead {d : Dom} {a : Nat} (h : PartnerReg d a) {s : State} (hs : s.on 21 = true) {c : Initiator}
    (hc : c = .cc0 ∨ c = .cc1) {v : Word} (hl : listed s.latch a = some v) :
    s.busRead ⟨c, false, 4, BitVec.ofNat 32 a, 0, .clean⟩ = { s with latch := smapDel s.latch a }.ret v := by
  obtain ⟨lo, hi, -⟩ := h.bounds
  have hn : (BitVec.ofNat 32 a).toNat = a := by
    rw [BitVec.toNat_ofNat]
    omega
  simp only [State.busRead, h.busKind hs hc, hn, sramOff_of_register (show 0x40000000 ≤ a by omega), Option.isSome_none,
    Bool.false_eq_true, if_false]
  rw [if_neg (by omega), if_neg (by omega), if_neg (by omega), if_pos (by omega), h.regRead, plainRead_latched h.row hl]

theorem grantOrder_alone {a : Access} (ha : a.who = .cc0 ∨ a.who = .cc1) :
    grantOrder.flatMap (fun w => [a].filter fun b => b.who = w) = [a] := by
  obtain ⟨who, w, n, addr, data, e⟩ := a
  rcases ha with rfl | rfl <;> rfl

theorem execBusAccess_partner {d : Dom} {a : Nat} (h : PartnerReg d a) {s : State} (hs : s.on 21 = true) {c : Initiator}
    (hc : c = .cc0 ∨ c = .cc1) {v : Word} (hl : listed s.latch a = some v) :
    exec (.busAccess ⟨c, false, 4, BitVec.ofNat 32 a, 0, .clean⟩ []) s =
      .next { s with latch := smapDel s.latch a, resp := ⟨v, false⟩, resps := [(c, ⟨v, false⟩)] } := by
  have hr := h.busRead (s := { s with resps := [] }) hs hc hl
  have ho := busOne_of_busRead (s := { s with resps := [] }) (a := ⟨c, false, 4, BitVec.ofNat 32 a, 0, .clean⟩) rfl
    (by rw [hr]; rfl)
  rw [exec_busAccess, execBusAccess]
  simp only [List.filter_nil]
  rw [grantOrder_alone hc, busSeq, ho, hr]
  simp [bindRes, busSeq, State.ret]

end Sys2Proof.Machine
end

section
namespace Sys2Proof.Machine

/-! ## What leaves the rate domains alone -/

/-- The addresses of the registers of the rate domains (R69). -/
abbrev RdReg (a : Nat) : Prop := 0x40030100 ≤ a ∧ a < 0x40030200

/-- The rate domains and their registers are alike. -/
structure SparesDomains (s t : State) : Prop where
  regs : ∀ a, RdReg a → t.reg a = s.reg a
  doms : t.doms = s.doms

theorem engBase_ge (e : Nat) : 0x400F0000 ≤ engBase e := by
  unfold engBase
  split <;> omega

namespace SparesDomains
variable {s t u : State}

theorem refl (s : State) : SparesDomains s s := ⟨fun _ _ => rfl, rfl⟩

theorem trans (h : SparesDomains s t) (h' : SparesDomains t u) : SparesDomains s u :=
  ⟨fun a ha => (h'.regs a ha).trans (h.regs a ha), h'.doms.trans h.doms⟩

theorem setReg (h : SparesDomains s t) {a : Nat} (v : Word) (ha : ¬ RdReg a) : SparesDomains s (t.setReg a v) where
  regs b hb := (reg_setReg_ne t v (by rintro rfl; exact ha hb)).trans (h.regs b hb)
  doms := (State.setReg_doms ..).trans h.doms

theorem setF (h : SparesDomains s t) {x : Fld} (v : Nat) (hx : ¬ RdReg x.addr) : SparesDomains s (t.setF x v) :=
  h.setReg _ hx

/-- A field of an engine's block. -/
theorem setEng (h : SparesDomains s t) {x : Fld} (v : Nat) {e : Nat} (hx : engBase e ≤ x.addr) : SparesDomains s (t.setF x v) :=
  h.setF v fun hr => by
    have := engBase_ge e
    omega

theorem modEng (h : SparesDomains s t) (e : Nat) (g : Engine → Engine) : SparesDomains s (t.modEng e g) :=
  ⟨fun a ha => h.regs a ha, (State.modEng_doms ..).trans h.doms⟩

theorem startBist (h : SparesDomains s t) (e : Nat) : SparesDomains s (t.startBist e) :=
  ((h.setEng (e := e) 5 (Nat.le_add_right ..)).setEng (e := e) 1 (Nat.le_add_right ..)).setEng (e := e) 0 (Nat.le_add_right ..)

theorem resetEngRegs (h : SparesDomains s t) (e : Nat) : SparesDomains s (t.resetEngRegs e) where
  regs a ha := by
    have hf : decide (a < engBase e ∨ engBase e + 0x1000 ≤ a) = true := by
      have := engBase_ge e
      simp only [decide_eq_true_eq]
      omega
    exact (smapGet_filter regReset (fun k => decide (k < engBase e ∨ engBase e + 0x1000 ≤ k)) t.regs a hf).trans (h.regs a ha)
  doms := (State.resetBlock_doms ..).trans h.doms

theorem powerEng_true (h : SparesDomains s t) (e : Nat) : SparesDomains s (t.powerEng e true) :=
  (((h.setF _ (by decide)).resetEngRegs e).modEng e _).setEng (e := e) 1 (Nat.le_add_right ..)

theorem fillPunty (h : SparesDomains s t) : SparesDomains s t.fillPunty := by
  unfold State.fillPunty
  split
  · exact h
  · split
    · exact ((h.powerEng_true _).startBist _).modEng _ _
    · exact h

theorem rebist (h : SparesDomains s t) (e : Nat) : SparesDomains s (t.rebist e) := ((h.startBist e).modEng e _).fillPunty

theorem setPair (h : SparesDomains s t) (l k p : Nat) : SparesDomains s (t.setPair l k p) :=
  have h0 : SparesDomains s ((t.setF F.SCU_PAIR_VALID 1).setF F.SCU_PAIR_DOMAIN (t.le l).dom) :=
    (h.setF _ (by decide)).setF _ (by decide)
  ((h0.setF _ (by decide)).setF _ (by decide)).setF _ (by decide)

theorem enterService (h : SparesDomains s t) (e mode : Nat) : SparesDomains s (t.enterService e mode) :=
  (h.setEng (e := e) mode (Nat.le_add_right ..)).setEng (e := e) 0 (Nat.le_add_right ..)

theorem mapEng (h : SparesDomains s t) (e l : Nat) : SparesDomains s (t.mapEng e l) :=
  ((h.setEng (e := e) 1 (Nat.le_add_right ..)).setEng (e := e) _ (Nat.le_add_right ..)).setEng (e := e) _
    (Nat.le_add_right ..)

/-- An engine's clock, in force and armed. -/
theorem setClock (h : SparesDomains s t) (e n : Nat) :
    SparesDomains s ((t.setF (F.ENG_CLKST_N e) n).setF (F.ENG_CLKST_NARM e) n) :=
  (h.setEng (e := e) n (Nat.le_add_right ..)).setEng (e := e) n (Nat.le_add_right ..)

theorem scu (h : SparesDomains s t) (x : Scu) : SparesDomains s { t with scu := x } := ⟨fun a ha => h.regs a ha, h.doms⟩

theorem startClone (h : SparesDomains s t) (p l : Nat) : SparesDomains s (t.startClone p l) := by
  unfold State.startClone
  split
  · next k _ =>
    refine scu ?_ _
    exact ((((((h.setPair l k p).setF (x := F.SCU_STAT_STATE) 1 (by decide)).enterService p 3).mapEng p l).setF
      (x := F.SCU_WCNT_COUNT) 0 (by decide)).setReg (a := R.SCU_CLONE) 0 (by decide)).setClock p _ |>.modEng p _
  · exact h

theorem resumeShadow (h : SparesDomains s t) : SparesDomains s t.resumeShadow := by
  unfold State.resumeShadow
  split
  · split
    · exact h.rebist _
    · split
      · split
        · exact h.startClone _ _
        · exact h
      · exact h
  · split
    · exact h
    · split
      · exact h.startBist _
      · exact h

theorem cutFrame (h : SparesDomains s t) (p : Nat) : SparesDomains s (t.cutFrame p) := ⟨fun a ha => h.regs a ha, h.doms⟩

end SparesDomains

end Sys2Proof.Machine
end

section
namespace Sys2Proof.Machine

/-! ## Starts of a domain without followers -/

/-- Only the status register and the divider's state of one domain differ. -/
abbrev OnlyStart (s t : State) (d : Nat) : Prop :=
  { t with regs := s.regs, doms := s.doms } = s ∧ (∀ b, b ≠ R.RD_STAT d → t.reg b = s.reg b) ∧ ∀ j, j ≠ d → t.dom j = s.dom j

section
variable {s t : State} {d : Nat}

theorem OnlyStart.refl (s : State) (d : Nat) : OnlyStart s s d := ⟨rfl, fun _ _ => rfl, fun _ _ => rfl⟩

theorem OnlyStart.setStat (h : OnlyStart s t d) {x : Fld} (hx : x.addr = R.RD_STAT d) (v : Nat) : OnlyStart s (t.setF x v) d :=
  ⟨h.1, fun b hb => (reg_setF_ne t v (hx ▸ hb)).trans (h.2.1 b hb), h.2.2⟩

theorem OnlyStart.modDom (h : OnlyStart s t d) (g : Domain → Domain) : OnlyStart s (t.modDom d g) d :=
  ⟨h.1, h.2.1, fun j hj => (dom_modDom_ne t g hj).trans (h.2.2 j hj)⟩

/-- The group of a leader is a matter of the domains' control registers. -/
theorem group_congr (h : ∀ k, t.reg (R.RD_CTRL k) = s.reg (R.RD_CTRL k)) (l : Nat) : t.group l = s.group l := by
  have hl : ∀ k, t.linked k = s.linked k := fun k => by
    unfold State.linked State.b State.f
    rw [show (F.RD_CTRL_LINK k).addr = R.RD_CTRL k from rfl, h]
  have hd : ∀ k, t.f (F.RD_CTRL_LEADER k) = s.f (F.RD_CTRL_LEADER k) := fun k => by
    unfold State.f
    rw [show (F.RD_CTRL_LEADER k).addr = R.RD_CTRL k from rfl, h]
  simp only [State.group, hl, hd]

theorem ctrl_ne_stat (k d : Nat) : R.RD_CTRL k ≠ R.RD_STAT d := by
  simp only [R.RD_CTRL, R.RD_STAT]
  omega

theorem OnlyStart.group (h : OnlyStart s t d) (l : Nat) : t.group l = s.group l :=
  group_congr (fun k => h.2.1 _ (ctrl_ne_stat k d)) l

theorem setGroup_alone (hg : s.group d = [d]) (x : Nat → Fld) (v : Nat) : s.setGroup d x v = s.setF (x d) v := by
  rw [State.setGroup, hg, forEach_cons, forEach_nil]

/-- The domain as it starts, before its ports' frames and shadow checking. -/
def State.startedDom (s : State) (d : Nat) : State :=
  (((s.setF (F.RD_STAT_RUN d) 1).setF (F.RD_STAT_CFGERR d) 0).setF (F.RD_STAT_ACSWAIT d) 0).modDom d fun x =>
    { x with first := true, acc := 0, restart := false, tripDone := false }

theorem onlyStart_startedDom (h : OnlyStart s t d) : OnlyStart s (t.startedDom d) d :=
  (((h.setStat rfl 1).setStat rfl 0).setStat rfl 0).modDom _

/-- The running master ports of a domain. -/
def State.cutPorts (s : State) (d : Nat) : List Nat :=
  (List.range 8).filter fun p =>
    s.b (F.ASP_STAT_RUN p) && s.f (F.ASP_CTRL_MODE p) = 0 && decide (s.f (F.ASP_CTRL_DOMAIN p) ∈ s.group d)

theorem startNow_alone (hg : s.group d = [d]) :
    s.startNow d = ((s.startedDom d).forEach ((s.startedDom d).cutPorts d) State.cutFrame).resumeShadow := by
  have h1 : OnlyStart s (s.setF (F.RD_STAT_RUN d) 1) d := (OnlyStart.refl s d).setStat rfl 1
  have h2 := h1.setStat (x := F.RD_STAT_CFGERR d) rfl 0
  have h3 := h2.setStat (x := F.RD_STAT_ACSWAIT d) rfl 0
  unfold State.startNow
  rw [setGroup_alone hg, setGroup_alone ((h1.group d).trans hg), setGroup_alone ((h2.group d).trans hg)]
  simp only [(h3.group d).trans hg, forEach_cons, forEach_nil]
  rfl

end

end Sys2Proof.Machine
end

section
namespace Sys2Proof.Machine

section
variable {s t : State} {d : Nat}

theorem SparesDomains.b (h : SparesDomains s t) {x : Fld} (hx : RdReg x.addr) : t.b x = s.b x := by
  unfold State.b State.f
  rw [h.regs _ hx]

theorem SparesDomains.dom (h : SparesDomains s t) (d : Nat) : t.dom d = s.dom d := by
  unfold State.dom
  rw [h.doms]

/-- The status of a domain that has started (R37, R69; the accumulator: log 10). -/
structure Started (t : State) (d : Nat) : Prop where
  runs : t.running d = true
  good : t.b (F.RD_STAT_CFGERR d) = false
  ready : t.b (F.RD_STAT_ACSWAIT d) = false
  first : (t.dom d).first = true
  acc : (t.dom d).acc = 0

theorem b_modDom (s : State) (d : Nat) (g : Domain → Domain) (x : Fld) : (s.modDom d g).b x = s.b x := rfl

theorem started_startedDom (s : State) (hd : d < 4) : Started (s.startedDom d) d where
  runs := by
    rw [State.running, State.startedDom, b_modDom]
    calc _ = _ := b_setF_ne _ 0 (fldOk (by decide)) (apart_of_bits (by decide))
      _ = _ := b_setF_ne _ 0 (fldOk (by decide)) (apart_of_bits (by decide))
      _ = true := b_setF_one _ _ (fldOk (by decide))
  good := by
    rw [State.startedDom, b_modDom]
    calc _ = _ := b_setF_ne _ 0 (fldOk (by decide)) (apart_of_bits (by decide))
      _ = false := b_setF_zero _ _ (fldOk (by decide))
  ready := by
    rw [State.startedDom, b_modDom]
    exact b_setF_zero _ _ (fldOk (by decide))
  first := congrArg Domain.first (dom_modDom_same _ _ _ hd)
  acc := congrArg Domain.acc (dom_modDom_same _ _ _ hd)

theorem OnlyStart.engs (h : OnlyStart s t d) : t.engs = s.engs := (congrArg State.engs h.1 :)

theorem rdReg_stat (hd : d < 4) : RdReg (R.RD_STAT d) := by
  unfold RdReg R.RD_STAT
  omega

theorem SparesDomains.started (h : SparesDomains s t) (hd : d < 4) (hs : Started s d) : Started t d where
  runs := (h.b (rdReg_stat hd)).trans hs.runs
  good := (h.b (rdReg_stat hd)).trans hs.good
  ready := (h.b (rdReg_stat hd)).trans hs.ready
  first := h.dom d ▸ hs.first
  acc := h.dom d ▸ hs.acc

theorem started_startNow (hg : s.group d = [d]) (hd : d < 4) : Started (s.startNow d) d := by
  rw [startNow_alone hg]
  refine SparesDomains.started ?_ hd (started_startedDom s hd)
  exact (forEach_keeps (P := SparesDomains (s.startedDom d)) _ (.refl _) fun _ p _ h => h.cutFrame p).resumeShadow

/-- With no punty and no engine that waits for BIST, shadow checking stays as it is. -/
theorem resumeShadow_eq_self (hp : s.puntyOf = none) (hc : ∀ e, e < 17 → s.clean e = true) : s.resumeShadow = s := by
  have hf : (s.rolesOf .out).find? (fun e => s.mode e = 1 && !s.clean e && s.on e && !s.claimed e && !s.b (F.ENG_STAT_BUSY e)) =
      none := by
    refine List.find?_eq_none.mpr fun e he => ?_
    simp [hc e (List.mem_range.mp (List.mem_filter.mp he).1)]
  unfold State.resumeShadow
  simp only [hp, hf]
  split <;> rfl

theorem engines_congr (h : t.engs = s.engs) : t.puntyOf = s.puntyOf ∧ ∀ e, t.clean e = s.clean e := by
  have he : ∀ e, t.eng e = s.eng e := fun e => by
    unfold State.eng
    rw [h]
  simp only [State.puntyOf, State.rolesOf, State.clean, he, implies_true, and_self]

theorem onlyStart_startNow (h : OnlyStart s t d) (hg : s.group d = [d]) (ha : ∀ p, p < 8 → s.aspDom p ≠ d)
    (hp : s.puntyOf = none) (hc : ∀ e, e < 17 → s.clean e = true) : OnlyStart s (t.startNow d) d := by
  have h' := onlyStart_startedDom h
  have hgt := (h.group d).trans hg
  have hports : (t.startedDom d).cutPorts d = [] := by
    refine List.filter_eq_nil_iff.mpr fun p hpm => ?_
    have hp8 := List.mem_range.mp hpm
    have hdom : (t.startedDom d).f (F.ASP_CTRL_DOMAIN p) = s.aspDom p := by
      unfold State.aspDom State.f
      rw [h'.2.1 _ (by simp only [F.ASP_CTRL_DOMAIN, R.ASP_CTRL, R.RD_STAT]; omega)]
    simp [hdom, (h'.group d).trans hg, ha p hp8]
  obtain ⟨hpe, hce⟩ := engines_congr h'.engs
  rw [startNow_alone hgt, hports, forEach_nil, resumeShadow_eq_self (hpe.trans hp) fun e he => (hce e).trans (hc e he)]
  exact h'

/-! ### DOMAIN_START with one mask bit -/

/-- The domain may start (R37, R69); its settings are valid; and its synthesiser gives the edge on which it starts. -/
abbrev MayStart (s : State) (d : Nat) : Prop := s.b (F.RD_CTRL_EN d) = true ∧ s.linked d = false ∧ s.running d = false
abbrev ValidStart (s : State) (d : Nat) : Prop := s.groupOk d = true ∧ s.b (F.ACS_CTRL_EN (s.f (F.RD_CTRL_SRC d))) = true
abbrev HasEdge (s : State) (a : Nat) : Prop := s.b (F.ACS_STAT_LOCK a) = true ∨ s.b (F.ACS_STAT_COAST a) = true

theorem execDomainStart_one (hs : s.on 21 = true) (d : Dom) :
    exec (.domainStart (BitVec.ofNat 4 (2 ^ d.val))) s = .next (s.startDomain d false) := by
  have hm : (List.range 4).filter (fun k => (BitVec.ofNat 4 (2 ^ d.val)).getLsbD k) = [d.val] := by revert d; decide
  rw [exec_domainStart, execDomainStart, if_pos hs, hm, forEach_cons, forEach_nil]

/-- The domain that START asks to start, not by the trigger. -/
def State.asked (s : State) (d : Nat) : State := s.modDom d fun x => { x with byTrigger := false }

theorem startBad_asked (s : State) (d : Nat) : (s.asked d).startBad d = s.startBad d := rfl
theorem chained_asked (s : State) (d : Nat) : (s.asked d).chained d = s.chained d := rfl

theorem startBad_iff (hc : s.chained d = []) : s.startBad d = true ↔ ¬ ValidStart s d := by
  simp only [State.startBad, hc, ValidStart]
  cases s.groupOk d <;> cases s.b (F.ACS_CTRL_EN (s.f (F.RD_CTRL_SRC d))) <;> decide

theorem startDomain_may (hm : MayStart s d) : s.startDomain d false =
    if s.startBad d then (s.asked d).startFails d
    else if HasEdge s (s.f (F.RD_CTRL_SRC d)) then (s.asked d).startNow d
    else (s.asked d).setGroup d F.RD_STAT_ACSWAIT 1 := by
  unfold State.startDomain
  rw [if_pos hm]
  rfl

end

end Sys2Proof.Machine
end

section
namespace Sys2Proof.Machine

section
variable {s : State} {d : Dom}

theorem onlyStart_asked (s : State) (d : Nat) : OnlyStart s (s.asked d) d := (OnlyStart.refl s d).modDom _

theorem group_asked (hg : s.group d = [d.val]) : (s.asked d).group d = [d.val] := ((onlyStart_asked s d).group d).trans hg

theorem startFails_asked (hg : s.group d = [d.val]) (hc : s.chained d = []) :
    (s.asked d).startFails d = (s.asked d).setF (F.RD_STAT_CFGERR d) 1 := by
  rw [State.startFails, setGroup_alone (group_asked hg), chained_asked, hc, forEach_nil]

section
variable (hs : s.on 21 = true) (hg : s.group d = [d.val]) (hc : s.chained d = [])
include hs hg hc

theorem execDomainStart_starts (hm : MayStart s d) (hv : ValidStart s d) (he : HasEdge s (s.f (F.RD_CTRL_SRC d))) :
    ∃ t, exec (.domainStart (BitVec.ofNat 4 (2 ^ d.val))) s = .next t ∧ Started t d ∧
      ((∀ p, p < 8 → s.aspDom p ≠ d) → s.puntyOf = none → (∀ e, e < 17 → s.clean e = true) → OnlyStart s t d) := by
  refine ⟨(s.asked d).startNow d, ?_, started_startNow (group_asked hg) d.isLt, fun ha hp hcl =>
    onlyStart_startNow (onlyStart_asked s d) hg ha hp hcl⟩
  rw [execDomainStart_one hs, startDomain_may hm, if_neg fun hb => (startBad_iff hc).mp hb hv, if_pos he]

theorem execDomainStart_waits (hm : MayStart s d) (hv : ValidStart s d) (he : ¬ HasEdge s (s.f (F.RD_CTRL_SRC d))) :
    ∃ t, exec (.domainStart (BitVec.ofNat 4 (2 ^ d.val))) s = .next t ∧ t.running d = false ∧
      t.b (F.RD_STAT_ACSWAIT d) = true ∧ OnlyStart s t d := by
  refine ⟨(s.asked d).setF (F.RD_STAT_ACSWAIT d) 1, ?_, ?_, b_setF_one _ _ (fldOk (by decide)),
    (onlyStart_asked s d).setStat rfl 1⟩
  · rw [execDomainStart_one hs, startDomain_may hm, if_neg fun hb => (startBad_iff hc).mp hb hv, if_neg he,
      setGroup_alone (group_asked hg)]
  · exact (b_setF_ne _ 1 (fldOk (by decide)) (apart_of_bits (by decide))).trans hm.2.2

theorem execDomainStart_fails (hm : MayStart s d) (hv : ¬ ValidStart s d) :
    ∃ t, exec (.domainStart (BitVec.ofNat 4 (2 ^ d.val))) s = .next t ∧ t.running d = false ∧
      t.b (F.RD_STAT_CFGERR d) = true ∧ OnlyStart s t d := by
  refine ⟨(s.asked d).setF (F.RD_STAT_CFGERR d) 1, ?_, ?_, b_setF_one _ _ (fldOk (by decide)),
    (onlyStart_asked s d).setStat rfl 1⟩
  · rw [execDomainStart_one hs, startDomain_may hm, if_pos ((startBad_iff hc).mpr hv), startFails_asked hg hc]
  · exact (b_setF_ne _ 1 (fldOk (by decide)) (apart_of_bits (by decide))).trans hm.2.2

end

theorem execDomainStart_ignored (hs : s.on 21 = true) (hm : ¬ MayStart s d) :
    exec (.domainStart (BitVec.ofNat 4 (2 ^ d.val))) s = .next s := by
  rw [execDomainStart_one hs, State.startDomain, if_neg hm]

end

end Sys2Proof.Machine

open Sys2Proof Sys2Proof.Machine

/-- Settles O5: the reads that latch, the peaks, the read of a partner word, and the four ways a start can go. -/
theorem indexReadsAndDomainStarts : Obligations.IndexReadsAndDomainStarts := by
  refine ⟨fun who d e hw s hs he => ⟨execSampleIndexRead_latches hs who d, execBoundaryTimeRead_latches hs who d,
    execSampleCounterRead_latches he who, execPassmaxRead_keepsSet he who hw, execLdsPeakRead_keepsSet hs who d hw,
    fun c a v hc ha hl => ?_⟩, fun d s hs hg hc => ⟨fun hm hv he => ?_, execDomainStart_waits hs hg hc,
    execDomainStart_fails hs hg hc, execDomainStart_ignored hs⟩⟩
  · exact ⟨_, execBusAccess_partner ha hs hc hl, rfl, rfl, rfl, fun _ _ => rfl⟩
  · obtain ⟨t, ht, h, hframe⟩ := execDomainStart_starts hs hg hc hm hv he
    exact ⟨t, ht, h.runs, h.good, h.ready, h.first, h.acc, hframe⟩

end

section
namespace Sys2Proof.Machine

/-! ## A block of 512 samples

PHASE has eight bits (R69), so it shows the sample index modulo the block length only to that width. -/

/-- Domain 1 runs at sample 299 with BLEN 6, a code that a start refuses (R35, R38), but that no hypothesis of the tick
excludes: its blocks have 512 samples. -/
def longBlock : State :=
  ((State.reset.setF (F.RD_STAT_RUN 1) 1).setF (F.RD_CTRL_BLEN 1) 6).setF (F.RD_SIDXL_SIDX 1) 299

/-- A tick at which no time passes and that brings no pins and no late fetches. -/
def emptyTick : TickIn := ⟨{ ticks := 0, slow := 0 }, [], [], []⟩

theorem quiet_longBlock : Quiet longBlock 1 where
  group := by decide +kernel
  engines := by decide +kernel
  logical := by decide +kernel
  ports := by decide +kernel
  pdms := by decide +kernel
  converters := by decide +kernel
  iec := by decide +kernel
  streams := by decide +kernel

/-- The tick begins sample 300, at phase 300 of its block; PHASE reads 300 − 256. -/
theorem phase_tick_longBlock :
    (stateOf longBlock (exec (.sampleTick 1 emptyTick) longBlock)).f (F.RD_STAT_PHASE 1) = 44 := by decide +kernel

end Sys2Proof.Machine

open Sys2Proof Sys2Proof.Machine

/-- Refutes O6 in its first clause, at PHASE: the clause has no bound on BLEN, and a block of more than 256 samples has
phases that the eight bits of PHASE cannot show. -/
theorem not_sampleTicksAndPasses : ¬ Obligations.SampleTicksAndPasses := by
  rintro ⟨h, -, -⟩
  obtain ⟨t, ht, -, hphase, -⟩ := h 1 emptyTick longBlock (by decide +kernel) quiet_longBlock (by decide +kernel)
    (by decide +kernel) (by decide +kernel) (by decide +kernel) (by decide +kernel) (by decide +kernel)
  have h44 := phase_tick_longBlock
  rw [ht] at h44
  have h300 : t.f (F.RD_STAT_PHASE 1) = 300 := hphase
  exact absurd (h300.symm.trans h44) (by decide)

end

section
namespace Sys2Proof.Machine

/-! ## What firmware waits for after a command (R213) -/

/-- Firmware does not look again where the tolerance and the mask stay and no settled state is reached. -/
theorem settle_eq_self {s t : State} (hl : t.reg R.PMU_LATTOL = s.reg R.PMU_LATTOL)
    (hr : t.reg R.PMU_REQMASK = s.reg R.PMU_REQMASK) (h : s.settled = true ∨ t.settled = false) : s.settle t = t := by
  refine if_neg ?_
  rintro (hn | hn | ⟨hs, ht⟩)
  · exact hn hl.symm
  · exact hn hr.symm
  · rcases h with h | h
    · rw [h] at hs
      exact Bool.noConfusion hs
    · rw [h] at ht
      exact Bool.noConfusion ht

theorem settle_self (s : State) : s.settle s = s :=
  settle_eq_self rfl rfl (by cases s.settled <;> simp)

theorem not_settled_of_queue {s : State} {e : Epoch} {q : List Epoch} (h : s.stg.queue = e :: q) : s.settled = false := by
  simp [State.settled, h]

theorem not_settled_of_recon {s : State} {e : Epoch} (h : s.stg.recon = some e) : s.settled = false := by
  simp [State.settled, h]

theorem not_settled_of_phase {s : State} (h : s.phase ≠ 0) : s.settled = false := by
  simp [State.settled, h]

/-! ## Changes of the stager and its status register -/

/-- Nothing differs but the stager and STG_STAT. -/
structure OnlyStager (s t : State) : Prop where
  rest : { t with regs := s.regs, stg := s.stg } = s
  regs : ∀ a, a ≠ R.STG_STAT → t.reg a = s.reg a

namespace OnlyStager
variable {s t u : State}

theorem refl (s : State) : OnlyStager s s := ⟨rfl, fun _ _ => rfl⟩

theorem trans (h : OnlyStager s t) (h' : OnlyStager t u) : OnlyStager s u where
  rest := (congrArg (fun x : State => { x with regs := s.regs, stg := s.stg }) h'.rest).trans h.rest
  regs a ha := (h'.regs a ha).trans (h.regs a ha)

theorem modStg (h : OnlyStager s t) (g : Stager → Stager) : OnlyStager s (t.modStg g) :=
  h.trans ⟨rfl, fun _ _ => rfl⟩

theorem setF (h : OnlyStager s t) {x : Fld} (hx : x.addr = R.STG_STAT) (v : Nat) : OnlyStager s (t.setF x v) :=
  h.trans ⟨rfl, fun _ ha => reg_setF_ne t v (hx ▸ ha)⟩

theorem eng (h : OnlyStager s t) (x : Nat) : t.eng x = s.eng x := (congrArg (State.eng · x) h.rest :)

theorem settle (h : OnlyStager s t) (hs : s.settled = true ∨ t.settled = false) : s.settle t = t :=
  settle_eq_self (h.regs _ (by decide)) (h.regs _ (by decide)) hs

end OnlyStager

theorem stg_modStg (s : State) (g : Stager → Stager) : (s.modStg g).stg = g s.stg := rfl
theorem f_modStg (s : State) (g : Stager → Stager) (x : Fld) : (s.modStg g).f x = s.f x := rfl
theorem b_modStg (s : State) (g : Stager → Stager) (x : Fld) : (s.modStg g).b x = s.b x := rfl

/-! ## ARM (R57) -/

section
variable {s : State} {e : Epoch} {q : List Epoch}

/-- The target boundary's deadline of a timed epoch has passed (R180). -/
def State.lateToArm (s : State) (e : Epoch) : Bool :=
  match e.target with
  | .index a b => decide (b * s.ratio a < s.sidx (s.leader a) + s.blen (s.leader a) / 4)
  | .untimed => false

/-- The phase and the stager that ARM begins with: the groups of the epoch, and the units of those that run. -/
def State.armBegun (s : State) (e : Epoch) : State :=
  (s.setPhase 2).modStg fun x => { x with
    armNs := s.now, groups := s.epochGroups e, go := []
    nack := (s.unitsOf e).filter fun u => u.1 ∈ (s.epochGroups e).filter s.running, defers := 0 }

/-- The machine with every group of the epoch armed, before any stopped group takes its content. -/
def State.armed (s : State) (e : Epoch) : State :=
  (if s.lateToArm e then (s.armBegun e).modHead fun e => { e with late := true } else s.armBegun e).setF
    F.STG_STAT_GARM (((s.epochGroups e).map (2 ^ ·)).sum)

theorem queue_modHead {s : State} {e : Epoch} {q : List Epoch} (hq : s.stg.queue = e :: q) (g : Epoch → Epoch) :
    (s.modHead g).stg.queue = g e :: q := by
  rw [State.modHead, stg_modStg, hq]

theorem stg_armBegun (s : State) (e : Epoch) : (s.armBegun e).stg = { s.stg with
    armNs := s.now, groups := s.epochGroups e, go := []
    nack := (s.unitsOf e).filter fun u => u.1 ∈ (s.epochGroups e).filter s.running, defers := 0 } := by
  rw [State.armBegun, stg_modStg, State.setPhase, State.setF_stg]

theorem onlyStager_armBegun (s : State) (e : Epoch) : OnlyStager s (s.armBegun e) :=
  ((OnlyStager.refl s).setF rfl 2).modStg _

theorem armAll_of_running (hq : s.stg.queue = e :: q) (hready : s.armReady e = true) (hc : e.clocks = [])
    (hrun : ∀ g ∈ s.epochGroups e, s.running g = true) :
    s.arm = (if s.epochGroups e = [] then s.armed e else (s.armed e).setPhase 2).applyIfDone := by
  have hgs : (s.epochGroups e).filter s.running = s.epochGroups e := List.filter_eq_self.mpr hrun
  have hnone : ((s.epochGroups e).filter fun g => g ∉ s.epochGroups e) = [] := by simp
  have hclk (t : State) : t.armClocks e = t := by simp [State.armClocks, hc]
  unfold State.arm State.armed State.armBegun State.lateToArm
  rw [hq]
  dsimp only
  rw [if_neg (by simp [hready])]
  cases e.target <;> simp only [hgs, hnone, hclk, forEach_nil, if_true]

theorem onlyStager_armed (s : State) (e : Epoch) : OnlyStager s (s.armed e) := by
  unfold State.armed
  split
  · exact ((onlyStager_armBegun s e).modStg _).setF rfl _
  · exact (onlyStager_armBegun s e).setF rfl _

/-- The stager of an armed epoch but for its queue. -/
theorem stg_armed (s : State) (e : Epoch) :
    { (s.armed e).stg with queue := s.stg.queue } = (s.armBegun e).stg := by
  unfold State.armed
  rw [State.setF_stg, stg_armBegun]
  split
  · rw [State.modHead, State.modStg, stg_armBegun]
  · rw [stg_armBegun]

theorem groups_armed (s : State) (e : Epoch) : (s.armed e).stg.groups = s.epochGroups e := by
  refine (congrArg Stager.groups (stg_armed s e) :).trans ?_
  rw [stg_armBegun]

theorem queue_armed (hq : s.stg.queue = e :: q) :
    (s.armed e).stg.queue = { e with late := e.late || s.lateToArm e } :: q := by
  have hb : (s.armBegun e).stg.queue = e :: q := by rw [stg_armBegun]; exact hq
  unfold State.armed
  rw [State.setF_stg]
  cases s.lateToArm e
  · rw [if_neg (by decide), hb, Bool.or_false]
  · rw [if_pos rfl, queue_modHead hb, Bool.or_true]

end

end Sys2Proof.Machine
end

section
namespace Sys2Proof.Machine

section
variable {s : State} {e : Epoch} {q : List Epoch}

theorem applyIfDone_of_groups {s : State} (h : s.stg.groups ≠ []) : s.applyIfDone = s :=
  if_neg fun hd => h hd.2

/-- ARM with every group of the epoch running: nothing is applied yet. -/
theorem execArm_running (hq : s.stg.queue = e :: q) (hready : s.armReady e = true) (hc : e.clocks = [])
    (hne : s.epochGroups e ≠ []) (hrun : ∀ g ∈ s.epochGroups e, s.running g = true) :
    exec .arm s = .next ((s.armed e).setPhase 2) := by
  have hset : ((s.armed e).setPhase 2).stg = (s.armed e).stg := State.setF_stg ..
  have hg : ((s.armed e).setPhase 2).stg.groups ≠ [] := by
    rw [hset, groups_armed]
    exact hne
  have hquiet : s.settled = true ∨ ((s.armed e).setPhase 2).settled = false :=
    .inr (not_settled_of_queue (e := { e with late := e.late || s.lateToArm e }) (q := q) (by rw [hset, queue_armed hq]))
  have settled : s.settle ((s.armed e).setPhase 2) = (s.armed e).setPhase 2 :=
    ((onlyStager_armed s e).setF rfl 2).settle hquiet
  rw [exec_arm, execArm, armAll_of_running hq hready hc hrun, if_neg hne, applyIfDone_of_groups hg,
    settled]

/-- ARM of an epoch whose shadow content is not complete. -/
theorem execArm_notReady (hq : s.stg.queue = e :: q) (h : s.armReady e = false) : exec .arm s = .next s := by
  have ha : s.arm = s := by
    unfold State.arm
    rw [hq]
    exact if_pos h
  rw [exec_arm, execArm, ha, settle_self]

/-! ## UNIT_ACK (R59) -/

/-- An acknowledgement counts: the epoch is armed, and an engine with a new clock is locked. -/
abbrev AckCounts (s : State) (u : Nat) : Prop :=
  (s.phase = 2 ∨ s.phase = 3) ∧
    (u < 17 → s.f (F.ENG_CLKST_N u) = s.f (F.ENG_CLKST_NARM u) ∨ (s.eng u).tuned = true)

theorem execUnitAck_counts {unit : BitVec 5} (h : AckCounts s unit.toNat) : exec (.unitAck unit) s =
    .next { s with stg := { s.stg with nack := s.stg.nack.filter fun u => decide (u.2 ≠ unit.toNat) } } := by
  rw [exec_unitAck, execUnitAck, if_pos h]
  rfl

theorem execUnitAck_ignored {unit : BitVec 5} (h : ¬ AckCounts s unit.toNat) : exec (.unitAck unit) s = .next s := by
  rw [exec_unitAck, execUnitAck, if_neg h]

end

/-! ## Reading STG_METDATA (R187) -/

section
variable {s t : State} {as : List Nat}

theorem OnlyRead.setReg (h : OnlyRead s t as) {a : Nat} (ha : a ∈ as) (v : Word) : OnlyRead s (t.setReg a v) as :=
  ⟨h.1, fun b hb => (reg_setReg_ne t v (ne_of_mem_of_not_mem ha hb).symm).trans (h.2 b hb)⟩

theorem OnlyRead.stg (h : OnlyRead s t as) : t.stg = s.stg := (congrArg State.stg h.1 :)

/-- A read that answers and changes the stager. -/
theorem OnlyRead.answer (h : OnlyRead s t as) (v : Word) {u : State} (hu : { u with stg := t.stg } = t.ret v) :
    OnlyRead s { u with stg := s.stg } as := by
  rw [← h.stg, hu]
  exact h

end

/-- The engine whose snapshot is selected, the selection, and the word that it selects. -/
def State.metEng (s : State) : Engine := s.eng (s.f F.STG_METSEL_ENG)
def State.metSel (s : State) : Nat := 64 * s.f F.STG_METSEL_ENG + s.f F.STG_METSEL_IDX
def State.metWord (s : State) : Word := ((s.metEng.snap[s.f F.STG_METSEL_IDX]?).map (·.2)).getD 0

/-- The data register takes the word; a new selection's tag and boundary are latched. -/
def State.metShown (s : State) : State := s.setReg R.STG_METDATA s.metWord
def State.metLatched (s : State) : State :=
  (s.metShown.setReg R.STG_METEPOCH s.metEng.snapEpoch).setReg R.STG_METIDX (BitVec.ofNat 32 s.metEng.snapIdx)

abbrev metRegs : List Nat := [R.STG_METDATA, R.STG_METEPOCH, R.STG_METIDX]

section
variable {s : State}

theorem onlyRead_metShown (s : State) : OnlyRead s s.metShown metRegs := (OnlyRead.refl s _).setReg (by simp) _
theorem onlyRead_metLatched (s : State) : OnlyRead s s.metLatched metRegs :=
  ((onlyRead_metShown s).setReg (by simp) _).setReg (by simp) _

theorem execStgMetdataRead_same (hs : s.on 21 = true) (h : s.stg.metSel = some s.metSel) (who : Initiator) :
    exec (.stgMetdataRead who) s = .next (s.metShown.ret s.metWord) := by
  have hoff : ¬ s.on 21 = false := by simp [hs]
  have hsel : s.metShown.stg.metSel = some s.metSel := (congrArg Stager.metSel (onlyRead_metShown s).stg).trans h
  rw [exec_stgMetdataRead, execStgMetdataRead, if_neg hoff]
  exact congrArg Host.Outcome.next (if_pos hsel)

theorem execStgMetdataRead_new (hs : s.on 21 = true) (h : s.stg.metSel ≠ some s.metSel) (who : Initiator) :
    exec (.stgMetdataRead who) s =
      .next ((s.metLatched.modStg fun x => { x with metSel := some s.metSel }).ret s.metWord) := by
  have hoff : ¬ s.on 21 = false := by simp [hs]
  have hsel : ¬ s.metShown.stg.metSel = some s.metSel := fun e =>
    h ((congrArg Stager.metSel (onlyRead_metShown s).stg).symm.trans e)
  rw [exec_stgMetdataRead, execStgMetdataRead, if_neg hoff]
  exact congrArg Host.Outcome.next (if_neg hsel)

theorem execStgMetdataRead_on (hs : s.on 21 = true) (who : Initiator) :
    ∃ t, exec (.stgMetdataRead who) s = .next t ∧ t.resp = ⟨s.metWord, false⟩ ∧
      t.stg = { s.stg with metSel := some s.metSel } ∧
      (s.stg.metSel ≠ some s.metSel →
        t.reg R.STG_METEPOCH = s.metEng.snapEpoch ∧ t.reg R.STG_METIDX = BitVec.ofNat 32 s.metEng.snapIdx) ∧
      (s.stg.metSel = some s.metSel →
        t.reg R.STG_METEPOCH = s.reg R.STG_METEPOCH ∧ t.reg R.STG_METIDX = s.reg R.STG_METIDX) ∧
      OnlyRead s { t with stg := s.stg } metRegs := by
  by_cases h : s.stg.metSel = some s.metSel
  · refine ⟨_, execStgMetdataRead_same hs h who, rfl, ?_, fun hn => absurd h hn, fun _ => ⟨?_, ?_⟩,
      (onlyRead_metShown s).answer s.metWord rfl⟩
    · rw [State.ret_stg, (onlyRead_metShown s).stg, ← h]
    · exact (reg_ret ..).trans (reg_setReg_ne _ _ (by decide))
    · exact (reg_ret ..).trans (reg_setReg_ne _ _ (by decide))
  · refine ⟨_, execStgMetdataRead_new hs h who, rfl, ?_, fun _ => ⟨?_, ?_⟩, fun hy => absurd hy h,
      (onlyRead_metLatched s).answer s.metWord rfl⟩
    · rw [State.ret_stg, stg_modStg, (onlyRead_metLatched s).stg]
    · exact (reg_setReg_ne _ _ (by decide)).trans (reg_setReg_same ..)
    · exact reg_setReg_same ..

end

end Sys2Proof.Machine
end

section
namespace Sys2Proof.Machine

/-! ## Reconcile (R177) -/

/-- What one member's operation brings about, the operations for the other members of a list keep. -/
theorem forEach_reaches {P Q : State → Prop} {g : State → Nat → State} {n : Nat} (hdo : ∀ t, Q t → P (g t n))
    (hkeep : ∀ t m, m ≠ n → Q t → P t → P (g t m)) (hQ : ∀ t m, Q t → Q (g t m)) {l : List Nat} (hn : n ∈ l)
    {s : State} (hs : Q s) : P (s.forEach l g) := by
  have hkeep' (t : State) (m : Nat) (h : Q t ∧ P t) : Q (g t m) ∧ P (g t m) := by
    refine ⟨hQ t m h.1, ?_⟩
    by_cases hm : m = n
    · rw [hm]
      exact hdo t h.1
    · exact hkeep t m hm h.1 h.2
  induction l generalizing s with
  | nil => cases hn
  | cons m l ih =>
    rw [forEach_cons]
    rcases List.mem_cons.mp hn with rfl | h
    · exact (forEach_keeps (P := fun t => Q t ∧ P t) l ⟨hQ s n hs, hdo s hs⟩ fun t k _ => hkeep' t k).2
    · exact ih h (hQ s m hs)

/-- Nothing differs but the shadow banks of engines and the error flags of words. -/
structure OnlyShadows (s t : State) : Prop where
  rest : { t with engs := s.engs } = s
  engs : ∀ x, { t.eng x with
    progSh := (s.eng x).progSh, coefSh := (s.eng x).coefSh, bad := (s.eng x).bad, soft := (s.eng x).soft } = s.eng x

namespace OnlyShadows
variable {s t u : State}

theorem refl (s : State) : OnlyShadows s s := ⟨rfl, fun _ => rfl⟩

theorem trans (h : OnlyShadows s t) (h' : OnlyShadows t u) : OnlyShadows s u where
  rest := (congrArg (fun x : State => { x with engs := s.engs }) h'.rest).trans h.rest
  engs x := (congrArg (fun en : Engine => { en with
    progSh := (s.eng x).progSh, coefSh := (s.eng x).coefSh, bad := (s.eng x).bad, soft := (s.eng x).soft })
      (h'.engs x)).trans (h.engs x)

theorem le (h : OnlyShadows s t) (l : Nat) : t.le l = s.le l := (congrArg (State.le · l) h.rest :)
theorem reg (h : OnlyShadows s t) (a : Nat) : t.reg a = s.reg a := (congrArg (State.reg · a) h.rest :)
theorem stg (h : OnlyShadows s t) : t.stg = s.stg := (congrArg State.stg h.rest :)
theorem shadowing (h : OnlyShadows s t) : t.shadowing = s.shadowing := (congrArg State.shadowing h.rest :)
theorem scuState (h : OnlyShadows s t) : t.scuState = s.scuState := (congrArg State.scuState h.rest :)

theorem rest_stager (h : OnlyShadows s t) (h' : OnlyStager t u) : { u with regs := s.regs, stg := s.stg, engs := s.engs } = s :=
  (congrArg (fun x : State => { x with regs := s.regs, stg := s.stg, engs := s.engs }) h'.rest).trans
    (congrArg (fun x : State => { x with regs := s.regs, stg := s.stg }) h.rest)

end OnlyShadows

theorem eng_modEng_ge (s : State) {e : Nat} (g : Engine → Engine) (h : 17 ≤ e) (j : Nat) :
    (s.modEng e g).eng j = s.eng j := by
  by_cases hj : j = e
  · subst hj
    have : ¬ j < 17 := by omega
    simp [State.eng, this]
  · exact eng_modEng_ne s g hj

theorem onlyShadows_newShadow (s : State) (e : Nat) (p : List (Nat × Word64)) (c : List (Nat × Word)) :
    OnlyShadows s (s.modEng e fun en => en.newShadow p c) where
  rest := rfl
  engs x := by
    by_cases hx : x = e ∧ e < 17
    · obtain ⟨rfl, he⟩ := hx
      rw [eng_modEng_same s x _ he]
      rfl
    · have : (s.modEng e fun en => en.newShadow p c).eng x = s.eng x := by
        by_cases he : e < 17
        · exact eng_modEng_ne s _ fun h => hx ⟨h, he⟩
        · exact eng_modEng_ge s _ (by omega) x
      rw [this]

/-- The shadow banks of a logical engine's engines take the words of its golden copies. -/
def State.refill (s : State) (l : Nat) : State :=
  s.forEach (s.leEngines l) fun t e => t.modEng e fun en => en.newShadow (imgProg (s.le l).image) (s.le l).golden

theorem reconcile_eq (s : State) : s.reconcile = s.forEach (List.range 16) State.refill := rfl

theorem onlyShadows_refill (s : State) (l : Nat) : OnlyShadows s (s.refill l) :=
  forEach_keeps _ (.refl s) fun t e _ h => h.trans (onlyShadows_newShadow t e _ _)

theorem onlyShadows_reconcile (s : State) : OnlyShadows s s.reconcile :=
  forEach_keeps _ (.refl s) fun t l _ h => h.trans (onlyShadows_refill t l)

section
variable {s : State}

/-- No punty holds a logical engine's content beside its host. -/
abbrev HostsAlone (s : State) : Prop := s.shadowing = false ∧ s.scuState ≠ 5

theorem leEngines_alone (h : HostsAlone s) (l : Nat) : s.leEngines l = (s.le l).host.toList := by
  unfold State.leEngines
  rw [if_neg (by simp [h.1, h.2]), List.append_nil]

theorem OnlyShadows.alone {t : State} (h : OnlyShadows s t) (ha : HostsAlone s) : HostsAlone t :=
  ⟨h.shadowing.trans ha.1, fun e => ha.2 (h.scuState.symm.trans e)⟩

/-- The shadow banks of an engine hold a logical engine's golden copies. -/
def HoldsGolden (s : State) (l h : Nat) (t : State) : Prop :=
  (t.eng h).progSh = imgProg (s.le l).image ∧ (t.eng h).coefSh = (s.le l).golden

theorem holdsGolden_refill (ha : HostsAlone s) {l h : Nat} (hh : (s.le l).host = some h) (hlt : h < 17) {t : State}
    (ht : OnlyShadows s t) : HoldsGolden s l h (t.refill l) := by
  rw [State.refill, leEngines_alone (ht.alone ha), ht.le, hh]
  show HoldsGolden s l h (t.modEng h _)
  rw [HoldsGolden, eng_modEng_same t h _ hlt]
  exact ⟨rfl, rfl⟩

/-- The refill of a logical engine with another host. -/
theorem eng_refill_ne (ha : HostsAlone s) {k h : Nat} (hk : (s.le k).host ≠ some h) : (s.refill k).eng h = s.eng h := by
  rw [State.refill, leEngines_alone ha]
  cases hc : (s.le k).host with
  | none => rfl
  | some j => exact eng_modEng_ne s _ fun e => hk (by rw [hc, e])

theorem holdsGolden_reconcile (ha : HostsAlone s)
    (hd : ∀ l k h, (s.le l).host = some h → (s.le k).host = some h → l = k) {l h : Nat} (hl : l < 16) (hlt : h < 17)
    (hh : (s.le l).host = some h) : HoldsGolden s l h s.reconcile := by
  rw [reconcile_eq]
  refine forEach_reaches (Q := OnlyShadows s) (fun t ht => holdsGolden_refill ha hh hlt ht) (fun t m hm ht hp => ?_)
    (fun t m ht => ht.trans (onlyShadows_refill t m)) (List.mem_range.mpr hl) (.refl s)
  have hm' : (t.le m).host ≠ some h := fun e => hm (hd m l h ((congrArg LogEng.host (ht.le m)).symm.trans e) hh)
  rw [HoldsGolden, eng_refill_ne (ht.alone ha) hm']
  exact hp

/-! ### The end of reconcile -/

/-- Shadow and live agree, and RECDONE tells. -/
def State.reconciled (s : State) : State :=
  ((s.reconcile.flag F.STG_STAT_RECDONE).setPhase 0).modStg fun x => { x with recon := none }

theorem onlyStager_reconciled (s : State) : OnlyStager s.reconcile s.reconciled :=
  (((OnlyStager.refl _).setF rfl 1).setF rfl 0).modStg _

theorem eng_reconciled (s : State) (x : Nat) : s.reconciled.eng x = s.reconcile.eng x :=
  (onlyStager_reconciled s).eng x

theorem stg_reconciled (s : State) : s.reconciled.stg = { s.stg with recon := none } := by
  rw [State.reconciled, stg_modStg, State.setPhase, State.setF_stg, State.flag_stg, (onlyShadows_reconcile s).stg]

theorem reg_reconciled (s : State) {a : Nat} (h : a ≠ R.STG_STAT) : s.reconciled.reg a = s.reg a :=
  ((onlyStager_reconciled s).regs a h).trans ((onlyShadows_reconcile s).reg a)

theorem phase_reconciled (s : State) : s.reconciled.phase = 0 := by
  rw [State.reconciled, State.phase, f_modStg]
  exact f_setF_same _ F.STG_STAT_PHASE 0 (fldOk (by decide))

theorem recdone_reconciled (s : State) : s.reconciled.b F.STG_STAT_RECDONE = true := by
  rw [State.reconciled, b_modStg]
  exact (b_setF_ne _ 0 (fldOk (by decide)) (apart_of_bits (by decide))).trans (b_flag_same _ _ (fldOk (by decide)))

theorem rest_reconciled (s : State) : { s.reconciled with regs := s.regs, stg := s.stg, engs := s.engs } = s :=
  (onlyShadows_reconcile s).rest_stager (onlyStager_reconciled s)

/-- On an empty queue the PMU evaluates its target (R186, R213). -/
theorem settle_reconciled (hp : s.phase = 4) :
    s.settle s.reconciled = if s.stg.queue = [] then s.reconciled.pmuEval else s.reconciled := by
  have hs : s.settled = false := not_settled_of_phase (by omega)
  by_cases hq : s.stg.queue = []
  · have ht : s.reconciled.settled = true := by simp [State.settled, stg_reconciled, phase_reconciled, hq]
    rw [if_pos hq]
    exact if_pos (.inr (.inr ⟨hs, ht⟩))
  · have ht : s.reconciled.settled = false := by simp [State.settled, stg_reconciled, hq]
    rw [if_neg hq]
    exact settle_eq_self (reg_reconciled s (by decide)) (reg_reconciled s (by decide)) (.inr ht)

theorem execReconcileDone_ends (hp : s.phase = 4) : exec (.reconcileDone none) s =
    .next (if s.stg.queue = [] then s.reconciled.pmuEval else s.reconciled) := by
  have hd : s.reconcileDone none = s.reconciled := if_neg fun h => h hp
  rw [exec_reconcileDone, execReconcileDone, hd, settle_reconciled hp]

theorem execReconcileDone_ignored (hp : s.phase ≠ 4) (g : Option (Fin 16)) : exec (.reconcileDone g) s = .next s := by
  have hd : s.reconcileDone g = s := if_pos hp
  rw [exec_reconcileDone, execReconcileDone, hd, settle_self]

end

end Sys2Proof.Machine
end

section
namespace Sys2Proof.Machine

/-! ## An epoch without items -/

theorem installs_nil (c : Cfg) : c.installs [] = [] := by simp [Cfg.installs]

theorem ps_modLe (c : Cfg) (l : Nat) (g : LeCfg → LeCfg) : (c.modLe l g).ps = c.ps := rfl

/-- Nothing laid over a configuration leaves its parameters. -/
theorem ps_lay_nil (c : Cfg) (hard : Bool) : (c.lay [] hard).ps = c.ps := by
  unfold Cfg.lay
  simp only [installs_nil, List.foldl_nil]
  refine List.foldlRecOn (motive := fun d : Cfg => d.ps = c.ps) _ _ rfl fun d hd l _ => ?_
  split
  · exact hd
  · exact (ps_modLe ..).trans hd

theorem ps_over_nil {e : Epoch} (hi : e.items = []) (hc : e.clocks = []) (c : Cfg) (hard : Bool) :
    (e.over c hard).ps = c.ps := by
  simp only [Epoch.over, hi, hc, installs_nil, List.foldl_nil]
  exact ps_lay_nil c hard

theorem ps_nextCfg {s : State} {e : Epoch} {q : List Epoch} (hq : s.stg.queue = e :: q) (hi : e.items = [])
    (hc : e.clocks = []) : s.nextCfg.ps = s.cfg.ps := by
  rw [State.nextCfg, hq]
  exact ps_over_nil hi hc _ _

/-- A parameter of no image has its value from the parameters alone. -/
theorem num_congr {c c' : Cfg} (h : c.ps = c'.ps) {p : Nat} (hp : isMember p = false) : c.num p = c'.num p := by
  simp [Cfg.num, Cfg.val, hp, h]

/-! ### Settings of the units, where no parameter changes -/

section
variable (s : State) {old new : Cfg}

theorem applyFlds_nil : s.applyFlds [] = s := rfl

theorem deviceApply_nil : s.deviceApply new [] = s := by
  simp [State.deviceApply, applyFlds_nil]

theorem netApply_nil : s.netApply old [] = s := rfl

theorem pulseApply_nil (h : old.ps = new.ps) {k : Nat} (hk : k < 2) : s.pulseApply k old new [] = s := by
  have hnum : old.num (pid 0x42 0 (0x100 + 0x10 * k + 4)) = new.num (pid 0x42 0 (0x100 + 0x10 * k + 4)) := by
    refine num_congr h ?_
    have : k = 0 ∨ k = 1 := by omega
    rcases this with rfl | rfl <;> decide
  simp [State.pulseApply, applyFlds_nil, hnum]

theorem timeApply_nil (h : old.ps = new.ps) : s.timeApply old new [] = s := by
  simp [State.timeApply, applyFlds_nil, pulseApply_nil _ h]

theorem powerApply_nil : s.powerApply [] = s.netKeepSync := by
  simp [State.powerApply, applyFlds_nil]

theorem uartApply_nil (u : Nat) : s.uartApply u [] = s := by
  simp [State.uartApply]

theorem serialApply_nil : s.serialApply [] = s := by
  have hu : (s.forEach (List.range 3) fun s u => s.uartApply u []) = s := forEach_eq_self fun u _ => uartApply_nil s u
  simp [State.serialApply, applyFlds_nil, hu]

theorem unitsApply_nil : s.unitsApply [] = s := by
  simp [State.unitsApply]

theorem globalApply_nil (h : old.ps = new.ps) : s.globalApply old new [] = s.netKeepSync := by
  simp only [State.globalApply, List.filter_nil, deviceApply_nil, netApply_nil, timeApply_nil s h, powerApply_nil,
    applyFlds_nil, serialApply_nil, unitsApply_nil]

end

/-! ### What its application leaves alone -/

/-- The engines, the stager, and every register outside a list are alike. -/
structure SparesEngines (as : List Nat) (s t : State) : Prop where
  engs : t.engs = s.engs
  stg : t.stg = s.stg
  regs : ∀ a, a ∉ as → t.reg a = s.reg a

namespace SparesEngines
variable {as : List Nat} {s t u : State}

theorem refl (as : List Nat) (s : State) : SparesEngines as s s := ⟨rfl, rfl, fun _ _ => rfl⟩

theorem trans (h : SparesEngines as s t) (h' : SparesEngines as t u) : SparesEngines as s u :=
  ⟨h'.engs.trans h.engs, h'.stg.trans h.stg, fun a ha => (h'.regs a ha).trans (h.regs a ha)⟩

/-- An operation on other parts of the state. -/
theorem other (h : SparesEngines as s t) (he : u.engs = t.engs) (hs : u.stg = t.stg) (hr : u.regs = t.regs) :
    SparesEngines as s u :=
  h.trans ⟨he, hs, fun a _ => by rw [State.reg, State.reg, hr]⟩

theorem setF (h : SparesEngines as s t) {x : Fld} (hx : x.addr ∈ as) (v : Nat) : SparesEngines as s (t.setF x v) :=
  h.trans ⟨State.setF_engs .., State.setF_stg .., fun _ ha => reg_setF_ne t v (ne_of_mem_of_not_mem hx ha).symm⟩

theorem setReg (h : SparesEngines as s t) {a : Nat} (ha : a ∈ as) (v : Word) : SparesEngines as s (t.setReg a v) :=
  h.trans ⟨State.setReg_engs .., State.setReg_stg .., fun _ hb => reg_setReg_ne t v (ne_of_mem_of_not_mem ha hb).symm⟩

theorem modLe (h : SparesEngines as s t) (l : Nat) (g : LogEng → LogEng) : SparesEngines as s (t.modLe l g) :=
  h.other rfl rfl rfl

theorem modLehr (h : SparesEngines as s t) (g : Lehr → Lehr) : SparesEngines as s (t.modLehr g) :=
  h.other rfl rfl rfl

theorem modJ (h : SparesEngines as s t) (g : Journal → Journal) : SparesEngines as s (t.modJ g) :=
  h.other rfl rfl rfl

theorem logAdd (h : SparesEngines as s t) (x : LogEntry) : SparesEngines as s (t.logAdd x) := by
  unfold State.logAdd
  exact h.other (by dsimp only) (by dsimp only) (by dsimp only)

theorem predictTiers (h : SparesEngines as s t) (e : Epoch) (old new : Cfg) :
    SparesEngines as s (t.predictTiers e old new) := by
  unfold State.predictTiers
  dsimp only
  split
  · exact h.modLehr _
  · exact h

theorem withCfg (h : SparesEngines as s t) (c : Cfg) : SparesEngines as s (t.withCfg c) := by
  have hl : SparesEngines as s (t.forEach (List.range 16) fun s l => s.modLe l fun x => { x with
      image := (c.le l).image, golden := (c.le l).golden, counts := (c.le l).counts, gains := (c.le l).gains
      tier := (c.le l).tier, lines := (c.le l).lines, clock := (c.le l).clock }) :=
    forEach_keeps _ h fun u l _ hu => hu.modLe l _
  unfold State.withCfg
  exact hl.other (by dsimp only) (by dsimp only) (by dsimp only)

theorem jGather_nil (h : SparesEngines as s t) (keepOut : Bool) : SparesEngines as s (t.jGather [] keepOut) := by
  unfold State.jGather
  split
  · exact h
  · exact h.modJ _

theorem jMirror (h : SparesEngines as s t) (x : LogEntry) (on : Bool) : SparesEngines as s (t.jMirror x on) := by
  unfold State.jMirror
  split
  · exact h.modJ _
  · exact h

end SparesEngines

/-! ### Its application -/

section
variable {s : State} {e : Epoch} {q : List Epoch}

/-- The registers that the application of an epoch without items writes. -/
abbrev appliedRegs : List Nat := [R.PMU_STAT, R.AON_EPAPPLIED, R.STG_APPLIED, R.STG_STAT]

/-- The configuration and the status registers of the applied epoch. -/
def State.shownApplied (s : State) (e : Epoch) : State :=
  (((((((s.predictTiers e s.cfg s.nextCfg).netKeepSync.withCfg s.nextCfg).setF F.AON_EPAPPLIED_E e.num).setReg
    R.STG_APPLIED (BitVec.ofNat 32 e.num)).flag F.STG_STAT_APPLIED).setF F.STG_STAT_GARM 0).setF F.STG_STAT_GSWAP 0)

/-- Its entries in the change log and the journal. -/
def State.recordedApplied (s : State) (e : Epoch) : State :=
  let t := s.shownApplied e
  let x := t.logEntryOf e
  let t := (t.logAdd x).jGather [] (e.keepOut || e.transport = 7)
  t.jMirror x (t.pval (pid 0x70 0 1) 0 ≠ 0)

/-- Reconcile begins. -/
def State.applied (s : State) (e : Epoch) : State :=
  ((s.recordedApplied e).modStg fun g => { g with
    queue := g.queue.drop 1, recon := some e, groups := [], go := [], nack := [], defers := 0 }).setPhase 4

theorem applyEpoch_nil (hps : s.cfg.ps = s.nextCfg.ps) (hi : e.items = []) :
    ∃ data, s.applyEpoch e = (s.applied e).raise 0x0001 data := by
  have hpar : paramsOf [] = [] := rfl
  unfold State.applyEpoch
  simp only [hi, hpar, globalApply_nil _ hps, installs_nil, List.any_nil, Bool.false_eq_true, if_true, if_false]
  exact ⟨_, rfl⟩

theorem sparesEngines_shownApplied (s : State) (e : Epoch) : SparesEngines appliedRegs s (s.shownApplied e) :=
  (((((((((SparesEngines.refl _ s).predictTiers ..).setF (by decide) _).withCfg _).setF (by decide) _).setReg
    (by decide) _).setF (by decide) 1).setF (by decide) 0).setF (by decide) 0)

theorem sparesEngines_recordedApplied (s : State) (e : Epoch) :
    SparesEngines [] (s.shownApplied e) (s.recordedApplied e) :=
  (((SparesEngines.refl [] _).logAdd _).jGather_nil _).jMirror _ _

theorem SparesEngines.f {as : List Nat} {t : State} (h : SparesEngines as s t) {x : Fld} (hx : x.addr ∉ as) :
    t.f x = s.f x := by
  unfold State.f
  rw [h.regs _ hx]

theorem SparesEngines.b {as : List Nat} {t : State} (h : SparesEngines as s t) {x : Fld} (hx : x.addr ∉ as) :
    t.b x = s.b x := by
  unfold State.b
  rw [h.f hx]

theorem epoch_shownApplied (s : State) (e : Epoch) :
    (s.shownApplied e).reg R.STG_APPLIED = BitVec.ofNat 32 e.num :=
  (reg_setF_ne _ 0 (by decide)).trans ((reg_setF_ne _ 0 (by decide)).trans
    ((reg_setF_ne _ 1 (by decide)).trans (reg_setReg_same ..)))

theorem flag_shownApplied (s : State) (e : Epoch) : (s.shownApplied e).b F.STG_STAT_APPLIED = true :=
  (b_setF_ne _ 0 (fldOk (by decide)) (apart_of_bits (by decide))).trans
    ((b_setF_ne _ 0 (fldOk (by decide)) (apart_of_bits (by decide))).trans (b_flag_same _ _ (fldOk (by decide))))

theorem garm_shownApplied (s : State) (e : Epoch) : (s.shownApplied e).f F.STG_STAT_GARM = 0 :=
  (f_setF_ne _ 0 (fldOk (by decide)) (apart_of_bits (by decide))).trans
    (f_setF_same _ F.STG_STAT_GARM 0 (fldOk (by decide)))

/-- What an epoch shows once it is applied. -/
structure Applied (s t : State) (e : Epoch) : Prop where
  phase : t.phase = 4
  queue : t.stg.queue = s.stg.queue.drop 1
  recon : t.stg.recon = some e
  groups : t.stg.groups = []
  epoch : t.reg R.STG_APPLIED = BitVec.ofNat 32 e.num
  flag : t.b F.STG_STAT_APPLIED = true
  garm : t.f F.STG_STAT_GARM = 0
  engs : t.engs = s.engs
  regs : ∀ a, a ∉ appliedRegs ++ [R.MBX_RSPPEND 0, R.MBX_RSPPEND 1] → t.reg a = s.reg a

theorem stg_applied (s : State) (e : Epoch) : (s.applied e).stg = { s.stg with
    queue := s.stg.queue.drop 1, recon := some e, groups := [], go := [], nack := [], defers := 0 } := by
  rw [State.applied, State.setPhase, State.setF_stg, stg_modStg, (sparesEngines_recordedApplied s e).stg,
    (sparesEngines_shownApplied s e).stg]

theorem applied_applied (s : State) (e : Epoch) : Applied s (s.applied e) e where
  phase := f_setF_same _ F.STG_STAT_PHASE 4 (fldOk (by decide))
  queue := by rw [stg_applied]
  recon := by rw [stg_applied]
  groups := by rw [stg_applied]
  epoch := (reg_setF_ne _ 4 (by decide)).trans
    (((sparesEngines_recordedApplied s e).regs _ (by simp)).trans (epoch_shownApplied s e))
  flag := (b_setF_ne _ 4 (fldOk (by decide)) (apart_of_bits (by decide))).trans
    (((sparesEngines_recordedApplied s e).b (by simp)).trans (flag_shownApplied s e))
  garm := (f_setF_ne _ 4 (fldOk (by decide)) (apart_of_bits (by decide))).trans
    (((sparesEngines_recordedApplied s e).f (by simp)).trans (garm_shownApplied s e))
  engs := (State.setF_engs ..).trans ((sparesEngines_recordedApplied s e).engs.trans (sparesEngines_shownApplied s e).engs)
  regs a ha := by
    have hs : a ∉ appliedRegs := fun h => ha (List.mem_append_left _ h)
    exact (reg_setF_ne _ 4 fun h => hs (by simp [h, F.STG_STAT_PHASE])).trans
      (((sparesEngines_recordedApplied s e).regs a (by simp)).trans ((sparesEngines_shownApplied s e).regs a hs))

/-- Events change nothing of this. -/
theorem Applied.events {t u : State} (h : Applied s t e) (h' : OnlyEvents t u) : Applied s u e := by
  have hstg : u.stg = t.stg := (congrArg State.stg h'.rest :)
  exact {
    phase := (h'.f (by decide)).trans h.phase
    queue := by rw [hstg, h.queue]
    recon := by rw [hstg, h.recon]
    groups := by rw [hstg, h.groups]
    epoch := (h'.regs _ (by decide)).trans h.epoch
    flag := (h'.b (by decide)).trans h.flag
    garm := (h'.f (by decide)).trans h.garm
    engs := h'.engs.trans h.engs
    regs := fun a ha => (h'.regs a fun hm => ha (List.mem_append_right _ hm)).trans (h.regs a ha) }

theorem applied_applyEpoch (hps : s.cfg.ps = s.nextCfg.ps) (hi : e.items = []) : Applied s (s.applyEpoch e) e := by
  obtain ⟨data, h⟩ := applyEpoch_nil hps hi
  rw [h]
  exact (applied_applied s e).events (onlyEvents_raise ..)

/-! ### ARM of an epoch without items -/

theorem phase_armBegun (s : State) (e : Epoch) : (s.armBegun e).phase = 2 :=
  (f_modStg ..).trans (f_setF_same s F.STG_STAT_PHASE 2 (fldOk (by decide)))

theorem phase_armed (s : State) (e : Epoch) : (s.armed e).phase = 2 := by
  refine (f_setF_ne _ _ (fldOk (by decide)) (apart_of_bits (by decide))).trans ?_
  split
  · exact (f_modStg ..).trans (phase_armBegun s e)
  · exact phase_armBegun s e

/-- An untimed epoch without items and groups is applied at once, and firmware need not look again. -/
theorem execArm_nil (hq : s.stg.queue = e :: q) (hready : s.armReady e = true) (ht : e.target = .untimed)
    (hi : e.items = []) (hc : e.clocks = []) (hg : s.epochGroups e = []) :
    ∃ t, exec .arm s = .next t ∧ Applied (s.armed e) t e := by
  have hlate : s.lateToArm e = false := by rw [State.lateToArm, ht]
  have hqa : (s.armed e).stg.queue = e :: q := by
    rw [queue_armed hq, hlate, Bool.or_false]
  have hga : (s.armed e).stg.groups = [] := (groups_armed s e).trans hg
  have harm : s.arm = (s.armed e).applyEpoch e := by
    rw [armAll_of_running hq hready hc (by simp [hg]), if_pos hg, State.applyIfDone, if_pos ⟨.inl (phase_armed s e), hga⟩, hqa]
  have ha := applied_applyEpoch (s := s.armed e) (ps_nextCfg hqa hi hc).symm hi
  have hregs {a : Nat} (h : a ∉ appliedRegs ++ [R.MBX_RSPPEND 0, R.MBX_RSPPEND 1]) (h' : a ≠ R.STG_STAT) :
      ((s.armed e).applyEpoch e).reg a = s.reg a := (ha.regs a h).trans ((onlyStager_armed s e).regs a h')
  refine ⟨_, ?_, ha⟩
  rw [exec_arm, execArm, harm, settle_eq_self (hregs (by decide) (by decide)) (hregs (by decide) (by decide))
    (.inr (not_settled_of_recon ha.recon))]

end

end Sys2Proof.Machine
end

section
namespace Sys2Proof.Machine

/-! ## What ARM shows of running groups -/

section
variable {s : State} {e : Epoch} {q : List Epoch}

theorem stg_armedRunning (hrun : ∀ g ∈ s.epochGroups e, s.running g = true) :
    { ((s.armed e).setPhase 2).stg with queue := s.stg.queue } = { s.stg with
      armNs := s.now, groups := s.epochGroups e, go := [], defers := 0
      nack := (s.unitsOf e).filter fun u => u.1 ∈ s.epochGroups e } := by
  have hgs : (s.epochGroups e).filter s.running = s.epochGroups e := List.filter_eq_self.mpr hrun
  rw [State.setPhase, State.setF_stg, stg_armed, stg_armBegun, hgs]

theorem garm_armedRunning (s : State) (e : Epoch) :
    ((s.armed e).setPhase 2).f F.STG_STAT_GARM = ((s.epochGroups e).map (2 ^ ·)).sum % 16 :=
  (f_setF_ne _ 2 (fldOk (by decide)) (apart_of_bits (by decide))).trans
    (f_setF_same _ F.STG_STAT_GARM _ (fldOk (by decide)))

theorem onlyStager_armedRunning (s : State) (e : Epoch) : OnlyStager s ((s.armed e).setPhase 2) :=
  (onlyStager_armed s e).setF rfl 2

end

end Sys2Proof.Machine

open Sys2Proof Sys2Proof.Machine

/-- Settles O18: the three ways ARM can go, the acknowledgements, reconcile, and the snapshot's read. -/
theorem armingAndReconcile : Obligations.ArmingAndReconcile := by
  refine ⟨fun e q s hq => ⟨fun hready hc hne hrun => ?_, fun hready ht hi hc hg => ?_, execArm_notReady hq⟩,
    fun unit who s => ⟨fun hp hn => ?_, fun hp => execUnitAck_ignored fun h => hp h.1, fun hu hn ht => ?_,
      fun hp hd hsh hsc => ?_, execReconcileDone_ignored, fun hs => execStgMetdataRead_on hs who⟩⟩
  case refine_1 =>
    have hstg := stg_armedRunning hrun
    have h := onlyStager_armedRunning s e
    refine ⟨_, execArm_running hq hready hc hne hrun, f_setF_same _ F.STG_STAT_PHASE 2 (fldOk (by decide)),
      (congrArg Stager.groups hstg :), (congrArg Stager.armNs hstg :), (congrArg Stager.go hstg :),
      (congrArg Stager.nack hstg :), garm_armedRunning s e, ?_, h.regs, h.rest⟩
    exact (congrArg Stager.queue (State.setF_stg ..)).trans (queue_armed hq)
  case refine_2 =>
    obtain ⟨t, hx, h⟩ := execArm_nil hq hready ht hi hc hg
    have hq' : t.stg.queue = q := by rw [h.queue, queue_armed hq, List.drop_one, List.tail_cons]
    exact ⟨t, hx, h.phase, hq', h.recon, h.groups, h.epoch, h.flag, h.garm,
      h.engs.trans (congrArg State.engs (onlyStager_armed s e).rest :)⟩
  case refine_3 =>
    exact execUnitAck_counts ⟨hp, fun h17 => or_iff_not_imp_left.mpr (hn h17)⟩
  case refine_4 =>
    exact execUnitAck_ignored fun h => (h.2 hu).elim hn (by simp [ht])
  case refine_5 =>
    refine ⟨_, execReconcileDone_ends hp, phase_reconciled s, recdone_reconciled s, stg_reconciled s,
      fun a => reg_reconciled s, fun l h hl hlt hh => ?_, fun x => ?_, rest_reconciled s⟩
    · rw [eng_reconciled]
      exact holdsGolden_reconcile ⟨hsh, hsc⟩ hd hl hlt hh
    · rw [eng_reconciled]
      exact (onlyShadows_reconcile s).engs x

end

section
/-! ## What the reads of a multiply-accumulate leave alone -/
namespace Sys2Proof.Machine

/-- After reads of memories without an error: every place reads as before, and of the registers only the flag of a bank
conflict may have set (R74, R150). -/
structure SameReads (u v : State) (e : Nat) : Prop where
  within : Within u v e []
  coef : (v.eng e).coef = (u.eng e).coef
  sound : NoEcc v e
  qwrap : v.b (F.ENG_STAT_QWRAP e) = u.b (F.ENG_STAT_QWRAP e)

section
variable {u v : State} {e : Nat}

theorem SameReads.refl (h : NoEcc u e) : SameReads u u e := ⟨.refl u e, rfl, h, rfl⟩

theorem SameReads.see (h : SameReads u v e) (x : RDest) (r : Nat) : v.see e x r = u.see e x r :=
  h.within.view x (by simp) r

/-- The lanes of a tile read, after its bank check, change nothing. -/
theorem tileLanes_state (h : NoEcc v e) (ws : List Nat) (xs : List Int) :
    (ws.foldl (fun acc w =>
      let (x, s) := acc.2.readWord e (0x40000 + w) (.tile w)
      (acc.1 ++ [x], s)) (xs, v)).2 = v := by
  induction ws generalizing xs with
  | nil => rfl
  | cons w ws ih => simpa only [List.foldl_cons, noEcc_readWord h] using ih _

theorem sameReads_readTiles (h : NoEcc u e) (ws : List Nat) : SameReads u (u.readTiles e ws).2 e := by
  obtain ⟨hw, hc, hs⟩ := within_tiles h ws
  refine ⟨hw, hc, hs, ?_⟩
  unfold State.readTiles
  dsimp only
  split
  · rw [tileLanes_state (by exact h)]
    exact b_flag_ne u (fldOk (by decide)) (apart_of_bits (by decide))
  · rw [tileLanes_state h]

/-- A tile read gives one word for each lane. -/
theorem length_readTiles (u : State) (e : Nat) (ws : List Nat) : (u.readTiles e ws).1.length = ws.length := by
  have lanes : ∀ (ws : List Nat) (p : List Int × State), (ws.foldl (fun acc w =>
      let (x, s) := acc.2.readWord e (0x40000 + w) (.tile w)
      (acc.1 ++ [x], s)) p).1.length = p.1.length + ws.length := by
    intro ws
    induction ws with
    | nil => exact fun _ => rfl
    | cons w ws ih =>
      intro p
      rw [List.foldl_cons, ih, List.length_append, List.length_singleton, List.length_cons]
      omega
  rw [State.readTiles, lanes, served, List.length_map]
  exact Nat.zero_add _

theorem macData_state (h : NoEcc u e) (o : Mop) : (u.macData e o).2 = u := by
  unfold State.macData
  split
  · rfl
  · exact noEcc_mopRead h

theorem sameReads_macdData (h : NoEcc u e) (o : Mop) : SameReads u (u.macdData e o).2 e := by
  unfold State.macdData
  dsimp only
  split
  · exact .refl h
  · exact .refl h
  · simp only [noEcc_readLr h]
    exact .refl h
  · exact sameReads_readTiles h _
  · exact .refl h

theorem length_macdData (u : State) (e : Nat) (o : Mop) : (u.macdData e o).1.length = 2 := by
  unfold State.macdData
  dsimp only
  split
  · rfl
  · rfl
  · rfl
  · rw [length_readTiles]
    rfl
  · rfl

theorem sameReads_quadTiles (h : NoEcc u e) (o : Mop) (ws : List Nat) : SameReads u (u.quadTiles e o ws).2 e := by
  unfold State.quadTiles
  split
  · exact sameReads_readTiles h ws
  · exact .refl h

theorem length_quadTiles (u : State) (e : Nat) (o : Mop) {ws : List Nat} (hl : ws.length = 4) :
    (u.quadTiles e o ws).1.length = 4 := by
  unfold State.quadTiles
  split
  · rw [length_readTiles, hl]
  · rfl

/-- The lanes of MACW and MACQC: 0 where the space is not the tile (R111). -/
theorem quadTiles_lane (u : State) (e : Nat) (o : Mop) (ws : List Nat) (j : Nat) :
    (u.quadTiles e o ws).1[j]?.getD 0 = if o.space = 4 then ((u.readTiles e ws).1)[j]?.getD 0 else 0 := by
  have hs : o.space.toNat = 4 ↔ o.space = 4 := BitVec.toNat_inj (x := o.space) (y := 4)
  unfold State.quadTiles
  simp only [hs]
  split
  · rfl
  · simp only [List.getElem?_replicate]
    split <;> rfl

/-- The coefficient that lane `j` of a coefficient operand names (R112). -/
def State.copLane (u : State) (e : Nat) (o : Cop) (j : Nat) : Int :=
  if o.cf.toNat = 2 then u.dX e (copDn o)
  else if o.cf.toNat = 3 then 0
  else (memGet (u.eng e).coef ((u.copAddr e o + j) % 16384)).toInt

theorem noEcc_copRead_lanes (h : NoEcc u e) (o : Cop) (n : Nat) :
    u.copRead e o n = ((List.range n).map (u.copLane e o), u) := by
  unfold State.copRead State.copLane
  split
  · rename_i hcf
    simp [hcf]
  · rename_i hcf
    simp [hcf]
  · rename_i h2 h3
    rw [noEcc_readCoefs h, List.map_map]
    simp [show o.cf.toNat ≠ 2 from h2, show o.cf.toNat ≠ 3 from h3]

theorem copRead_lane (h : NoEcc u e) (o : Cop) {n j : Nat} (hj : j < n) :
    ((u.copRead e o n).1)[j]?.getD 0 = u.copLane e o j := by
  simp [noEcc_copRead_lanes h, hj]

theorem SameReads.copLane (h : SameReads u v e) (o : Cop) (j : Nat) : v.copLane e o j = u.copLane e o j := by
  unfold State.copLane State.copAddr State.dX
  simp only [h.see, h.coef]

end

/-! ## Products and what they add to -/

/-- A product in the form of R117. -/
theorem prod_eq (s neg : Bool) (x c : Int) :
    prod s neg x c = (if neg then -1 else 1) * (x * c) * (if s then 8 else 1) := by
  unfold prod
  cases neg
  · simp
  · simp only [reduceIte, neg_mul, one_mul]

/-- The products of a list of data words with a coefficient for each lane. -/
theorem prods_lanes (o : MacOp) {xs : List Int} {n : Nat} (g : Nat → Int) (h : xs.length = n) :
    prods o xs ((List.range n).map g) = (List.range n).map fun j => prod o.s o.neg (xs[j]?.getD 0) (g j) := by
  apply List.ext_getElem
  · simp [prods, h]
  · intro j h1 h2
    have hj : j < xs.length := by simpa [h] using h2
    simp [prods, hj]

/-- An exact result lies in the range of an accumulator (R119). -/
theorem inQ_iff (x : Int) : inQ x = true ↔ -2 ^ 71 ≤ x ∧ x ≤ 2 ^ 71 - 1 := by
  simp only [inQ, decide_eq_true_eq, Bool.decide_and, Bool.and_eq_true]
  omega

/-- QWRAP sets on an exact result outside the range, and never clears (R119). -/
theorem b_qwrapFlag (s : State) (e : Nat) (x : Int) : (s.qwrapFlag e [x]).b (F.ENG_STAT_QWRAP e) = true ↔
    s.b (F.ENG_STAT_QWRAP e) = true ∨ ¬ (-2 ^ 71 ≤ x ∧ x ≤ 2 ^ 71 - 1) := by
  rw [← inQ_iff]
  unfold State.qwrapFlag
  split
  · rename_i h
    simp at h
    simp [h]
  · rename_i h
    simp at h
    simp [b_flag_same s (F.ENG_STAT_QWRAP e) (fldOk (by decide)), h]

/-- Each accumulator of a list takes its sum, in order. -/
def State.accumulate (s : State) (e : Nat) (z : Bool) (qs : List (Nat × Int)) : State :=
  qs.foldl (fun s p => s.putQ e p.1 (s.accIn e z p.1 + p.2)) s

theorem addProds_range (s : State) (e q : Nat) (z : Bool) (n : Nat) (f : Nat → Int) :
    s.addProds e q z ((List.range n).map f) = s.accumulate e z ((List.range n).map fun j => (q + j, f j)) := by
  have hz : ((List.range n).map f).zipIdx = (List.range n).map fun j => (f j, j) := by
    apply List.ext_getElem
    · simp
    · intro j h1 h2
      simp
  unfold State.addProds State.accumulate
  rw [hz, List.foldl_map, List.foldl_map]

/-- Accumulators have taken sums: their places, and QWRAP for a sum out of range (R117, R119). -/
structure Adds (u v : State) (e : Nat) (z : Bool) (qs : List (Nat × Int)) : Prop where
  within : Within u v e (qs.map fun p => (.q p.1, stX2, wrapQ (u.accIn e z p.1 + p.2)))
  wraps : v.b (F.ENG_STAT_QWRAP e) = true ↔ u.b (F.ENG_STAT_QWRAP e) = true ∨
    ∃ p ∈ qs, ¬ (-2 ^ 71 ≤ u.accIn e z p.1 + p.2 ∧ u.accIn e z p.1 + p.2 ≤ 2 ^ 71 - 1)

section
variable {u v : State} {e : Nat} {z : Bool} {qs : List (Nat × Int)}

theorem SameReads.adds (h : SameReads u v e) (z : Bool) : Adds u v e z [] := ⟨h.within, by simp [h.qwrap]⟩

/-- One more accumulator, that none of the sums before went to. -/
theorem Adds.putQ (he : e < 17) (h : Adds u v e z qs) (p : Nat × Int) (hp : p.1 ∉ qs.map (·.1)) :
    Adds u (v.putQ e p.1 (v.accIn e z p.1 + p.2)) e z (qs ++ [p]) := by
  have hfresh : ∀ a ∈ qs, a.1 ≠ p.1 := fun a ha hq => hp (hq ▸ List.mem_map_of_mem ha)
  have hacc : v.accIn e z p.1 = u.accIn e z p.1 := by
    have hv : v.see e (.q p.1) stX2 = u.see e (.q p.1) stX2 :=
      h.within.view _ (by simpa using fun x hx => hfresh (p.1, x) hx rfl) _
    simp only [State.accIn, hv]
  rw [hacc]
  refine ⟨(h.within.putQ he p.1 _).congr fun w => ?_, ?_⟩
  · have hkeep : ∀ w ∈ qs.map (fun p => (RDest.q p.1, stX2, wrapQ (u.accIn e z p.1 + p.2))), w.1 ≠ .q p.1 := by
      intro w hw
      obtain ⟨a, ha, rfl⟩ := List.mem_map.mp hw
      simpa using hfresh a ha
    rw [List.filter_eq_self.mpr (by simpa using hkeep), List.map_append, List.mem_append, List.mem_cons, or_comm]
    simp
  · have hput : (v.putQ e p.1 (u.accIn e z p.1 + p.2)).b (F.ENG_STAT_QWRAP e) =
        (v.qwrapFlag e [u.accIn e z p.1 + p.2]).b (F.ENG_STAT_QWRAP e) := rfl
    rw [hput, b_qwrapFlag, h.wraps, or_assoc]
    simp [List.mem_append, or_and_right, exists_or]

theorem Adds.accumulate (he : e < 17) (h : Adds u v e z qs) (ps : List (Nat × Int)) (hd : ((qs ++ ps).map (·.1)).Nodup) :
    Adds u (v.accumulate e z ps) e z (qs ++ ps) := by
  induction ps generalizing v qs with
  | nil => simpa [State.accumulate] using h
  | cons p ps ih =>
    have hp : p.1 ∉ qs.map (·.1) := by
      rw [List.map_append, List.nodup_append] at hd
      exact fun hm => hd.2.2 _ hm _ (by simp) rfl
    rw [List.append_cons] at hd ⊢
    exact ih (h.putQ he p hp) hd

end

end Sys2Proof.Machine
end

section
/-! ## The multiply-accumulate instructions -/
namespace Sys2Proof.Machine

@[simp] theorem b_modEng (s : State) (e : Nat) (g : Engine → Engine) (x : Fld) : (s.modEng e g).b x = s.b x := rfl

/-- Issue sets PCWRAP and RPTERR only (R89, R93). -/
theorem b_nextPc_ne (s : State) (e pc : Nat) {x : Fld} (hw : x.apart (F.ENG_STAT_PCWRAP e))
    (hr : x.apart (F.ENG_STAT_RPTERR e)) : (s.nextPc e pc).b x = s.b x := by
  have bump (s : State) : (s.bumpPc e pc 1).b x = s.b x := by
    unfold State.bumpPc
    dsimp only
    rw [b_modEng]
    split
    · exact b_flag_ne s (fldOk (by decide)) hw
    · rfl
  have mark (s : State) (err : Bool) : (if err = true then s.flag (F.ENG_STAT_RPTERR e) else s).b x = s.b x := by
    split
    · exact b_flag_ne s (fldOk (by decide)) hr
    · rfl
  unfold State.nextPc
  generalize loopBack pc (s.eng e).nest = l
  obtain ⟨nest, back, err⟩ := l
  cases back with
  | none => exact (bump _).trans ((mark _ err).trans (b_modEng ..))
  | some t => exact (b_modEng ..).trans ((mark _ err).trans (b_modEng ..))

theorem b_macPost (s : State) (e : Nat) (o : MacOp) (x : Fld) : (s.macPost e o).b x = s.b x := by
  unfold State.macPost State.copPost State.mopPost
  split <;> split <;> rfl

/-- A multiply-accumulate instruction adds to each accumulator of a list, with the post-modifications of its operands, and
sets QWRAP for a sum out of range. -/
abbrev Accumulates (s : State) (e : Eng) (o : MacOp) (c : Instr) (qs : List (Nat × Int)) : Prop :=
  WritesPlaces s (s.atIssue e) c e
    (qs.map (fun p => (.q p.1, stX2, wrapQ ((s.atIssue e).accIn e o.z p.1 + p.2))) ++
      withCop (mopPlaces (s.atIssue e) e o.mop) (copPlaces (s.atIssue e) e o.cop)) ∧
  ∀ t, exec c s = .next t → (t.b (F.ENG_STAT_QWRAP e) = true ↔ (s.atIssue e).b (F.ENG_STAT_QWRAP e) = true ∨
    ∃ p ∈ qs, ¬ (-2 ^ 71 ≤ (s.atIssue e).accIn e o.z p.1 + p.2 ∧ (s.atIssue e).accIn e o.z p.1 + p.2 ≤ 2 ^ 71 - 1))

section
variable {s : State} {e : Eng} {h : Hdr} {o : MacOp}

/-- The accumulators of an instruction, from what its operation leaves within the issue slot. -/
theorem accumulates_of_adds {c : Instr} {op : State → State} {qs : List (Nat × Int)}
    (hc : exec c s = .next (s.issue e h (·.macPost e o) op)) (hr : Runs s e h)
    (ha : Adds (s.atIssue e) (op (s.atIssue e)) e o.z qs) : Accumulates s e o c qs := by
  have hplaces : ∀ w ∈ qs.map (fun p => (RDest.q p.1, stX2, wrapQ ((s.atIssue e).accIn e o.z p.1 + p.2))), ¬ isAM w.1 := by
    intro w hw
    obtain ⟨p, -, rfl⟩ := List.mem_map.mp hw
    exact id
  refine ⟨writesPlaces_of_run hc hr (macPost_within e.isLt ha.within o hplaces), fun t ht => ?_⟩
  obtain rfl : s.issue e h (·.macPost e o) op = t := Host.Outcome.next.inj (hc.symm.trans ht)
  have hissue : (s.issue e h (·.macPost e o) op).b (F.ENG_STAT_QWRAP e) =
      ((((op (s.atIssue e)).macPost e o).nextPc e (s.eng e).pc).endSlot e).b (F.ENG_STAT_QWRAP e) := by
    simp [State.issue, hr.1, hr.2]
  have hslot : ((((op (s.atIssue e)).macPost e o).nextPc e (s.eng e).pc).endSlot e).b (F.ENG_STAT_QWRAP e) =
      (op (s.atIssue e)).b (F.ENG_STAT_QWRAP e) :=
    (b_nextPc_ne _ e _ (apart_of_bits (by decide)) (apart_of_bits (by decide))).trans (b_macPost _ e o _)
  rw [hissue, hslot]
  exact ha.wraps

theorem nodup_lanes (q n : Nat) (f : Nat → Int) : ((([] : List (Nat × Int)) ++
    (List.range n).map fun j => (q + j, f j)).map (·.1)).Nodup := by
  rw [List.nil_append, List.map_map]
  exact List.nodup_range.map fun i j hij => Nat.add_left_cancel hij

theorem sum_four_lanes (f : Nat → Int) : ((List.range 4).map f).sum = f 0 + f 1 + f 2 + f 3 := by
  simp [List.range_succ, add_assoc]

variable (hr : Runs s e h) (hn : NoEcc (s.atIssue e) e)
include hr hn

/-- R117: one data word and one coefficient. -/
theorem execRMac_accumulates : Accumulates s e o (.rMac e h o)
    [(o.qa.toNat, prod o.s o.neg ((s.atIssue e).macData e o.mop).1 ((s.atIssue e).copLane e o.cop 0))] := by
  refine accumulates_of_adds rfl hr ?_
  have hx := macData_state hn o.mop
  generalize (s.atIssue e).macData e o.mop = r at hx ⊢
  obtain ⟨x, v⟩ := r
  obtain rfl : v = s.atIssue e := hx
  dsimp only
  rw [noEcc_copRead_lanes hn, prods_lanes o _ (n := 1) rfl, addProds_range]
  exact ((SameReads.refl hn).adds o.z).accumulate e.isLt _ (nodup_lanes _ 1 _)

/-- R117, R118: two data words, to an even accumulator and the next (R85). -/
theorem execRMacd_accumulates : Accumulates s e o (.rMacd e h o) ((List.range 2).map fun j => (o.qa.toNat / 2 * 2 + j,
    prod o.s o.neg (((s.atIssue e).macdData e o.mop).1[j]?.getD 0) ((s.atIssue e).copLane e o.cop j))) := by
  refine accumulates_of_adds rfl hr ?_
  have hx := sameReads_macdData hn o.mop
  have hl := length_macdData (s.atIssue e) e o.mop
  generalize (s.atIssue e).macdData e o.mop = r at hx hl ⊢
  obtain ⟨xs, v⟩ := r
  dsimp only at hx hl ⊢
  rw [noEcc_copRead_lanes hx.sound, prods_lanes o _ hl, addProds_range]
  simp only [hx.copLane]
  exact (hx.adds o.z).accumulate e.isLt _ (nodup_lanes _ 2 _)

/-- R117: one data word and four coefficients, to the accumulators of one half (R85). -/
theorem execRMacqd_accumulates : Accumulates s e o (.rMacqd e h o) ((List.range 4).map fun j => (o.qa.toNat / 4 * 4 + j,
    prod o.s o.neg ((s.atIssue e).macData e o.mop).1 ((s.atIssue e).copLane e o.cop j))) := by
  refine accumulates_of_adds rfl hr ?_
  have hx := macData_state hn o.mop
  generalize (s.atIssue e).macData e o.mop = r at hx ⊢
  obtain ⟨x, v⟩ := r
  obtain rfl : v = s.atIssue e := hx
  dsimp only
  rw [noEcc_copRead_lanes hn, prods_lanes o _ (List.length_replicate ..), addProds_range]
  exact ((SameReads.refl hn).adds o.z).accumulate e.isLt _ (nodup_lanes _ 4 _)

/-- The tile words of four lanes of MACW or MACQC. -/
abbrev State.quadLane (u : State) (e : Nat) (o : Mop) (ws : List Nat) (j : Nat) : Int :=
  if o.space = 4 then ((u.readTiles e ws).1)[j]?.getD 0 else 0

/-- R117: four samples of one line and four coefficients, to one accumulator. -/
theorem execRMacw_accumulates :
    let u := s.atIssue e
    let ws := (List.range 4).map fun (j : Nat) => u.lineWord e o.mop.dl.toNat ((u.mopIdx e o.mop + j : Nat) : Int)
    Accumulates s e o (.rMacw e h o) [(o.qa.toNat,
      ((List.range 4).map fun j => prod o.s o.neg (u.quadLane e o.mop ws j) (u.copLane e o.cop j)).sum)] := by
  intro u ws
  refine accumulates_of_adds rfl hr ?_
  have hx := sameReads_quadTiles hn o.mop ws
  have hl := length_quadTiles u e o.mop (ws := ws) rfl
  simp only [State.quadLane, ← quadTiles_lane]
  show Adds u (((u.quadTiles e o.mop ws).2.copRead e o.cop 4).2.putQ e _ _) e o.z _
  generalize u.quadTiles e o.mop ws = r at hx hl ⊢
  obtain ⟨xs, v⟩ := r
  dsimp only at hx hl ⊢
  rw [noEcc_copRead_lanes hx.sound, prods_lanes o _ hl]
  simp only [hx.copLane]
  exact (hx.adds o.z).putQ e.isLt (o.qa.toNat, ((List.range 4).map fun j =>
    prod o.s o.neg (xs[j]?.getD 0) (u.copLane e o.cop j)).sum) List.not_mem_nil

/-- R117: one sample of each of four lines and one coefficient, to the accumulators of one half (R85). -/
theorem execRMacqc_accumulates :
    let u := s.atIssue e
    let ws := (List.range 4).map fun j => u.lineWord e (o.mop.dl.toNat + j) (u.mopIdx e o.mop)
    Accumulates s e o (.rMacqc e h o) ((List.range 4).map fun j => (o.qa.toNat / 4 * 4 + j,
      prod o.s o.neg (u.quadLane e o.mop ws j) (u.copLane e o.cop 0))) := by
  intro u ws
  refine accumulates_of_adds rfl hr ?_
  have hx := sameReads_quadTiles hn o.mop ws
  have hl := length_quadTiles u e o.mop (ws := ws) rfl
  simp only [State.quadLane, ← quadTiles_lane]
  show Adds u (((u.quadTiles e o.mop ws).2.copRead e o.cop 1).2.addProds e _ o.z
    (prods o (u.quadTiles e o.mop ws).1 (List.replicate 4 (((u.quadTiles e o.mop ws).2.copRead e o.cop 1).1.headD 0)))) e o.z _
  generalize u.quadTiles e o.mop ws = r at hx hl ⊢
  obtain ⟨xs, v⟩ := r
  dsimp only at hx hl ⊢
  have hc : List.replicate 4 (((v.copRead e o.cop 1).1).headD 0) = (List.range 4).map fun _ => u.copLane e o.cop 0 := by
    rw [noEcc_copRead_lanes hx.sound, ← hx.copLane o.cop 0]
    rfl
  rw [hc, noEcc_copRead_lanes hx.sound, prods_lanes o _ hl, addProds_range]
  exact (hx.adds o.z).accumulate e.isLt _ (nodup_lanes _ 4 _)

end

end Sys2Proof.Machine

open Sys2Proof Sys2Proof.Machine

/-- Settles O12: each instruction's products, lane by lane, and the sums that they go to. -/
theorem multiplyAccumulate : Obligations.MultiplyAccumulate := by
  intro e h o s hr hn u prod' acc wrap post gives a k dl d0 d c line along across
  have hprod (x y : Int) : prod o.s o.neg x y = prod' x y := prod_eq o.s o.neg x y
  have hlane (j : Nat) (hj : j < 4) : u.copLane e o.cop j = c j := (copRead_lane hn o.cop hj).symm
  have hgives {i : Instr} {qs qs' : List (Nat × Int)} (hi : Accumulates s e o i qs) (hq : qs = qs') : gives i qs' := by
    subst hq
    refine ⟨?_, hi.2⟩
    have hi1 := hi.1
    simp only [wrapQ_eq] at hi1
    exact hi1
  refine ⟨hgives (execRMac_accumulates hr hn) ?_, hgives (execRMacd_accumulates hr hn) ?_,
    hgives (execRMacw_accumulates hr hn) ?_, hgives (execRMacqd_accumulates hr hn) ?_, hgives (execRMacqc_accumulates hr hn) ?_⟩
  · rw [hprod, hlane 0 (by decide)]
  · simp only [List.range_succ, List.range_zero, List.nil_append, List.cons_append, List.map_cons, List.map_nil]
    rw [hprod, hprod, hlane 0 (by decide), hlane 1 (by decide)]
    rfl
  · rw [sum_four_lanes, hprod, hprod, hprod, hprod, hlane 0 (by decide), hlane 1 (by decide), hlane 2 (by decide),
      hlane 3 (by decide)]
    rfl
  · refine List.map_congr_left fun j hj => ?_
    rw [hprod, hlane j (List.mem_range.mp hj)]
  · refine List.map_congr_left fun j _ => ?_
    rw [hprod, hlane 0 (by decide)]
    rfl

end

section
/-! ## The control block of one engine -/
namespace Sys2Proof.Machine

/-- The addresses of the control block of an engine (R32, R102). -/
abbrev EngReg (e a : Nat) : Prop := engBase e ≤ a ∧ a < engBase e + 0x1000

theorem engReg_offset (e : Nat) {i : Nat} (h : i < 0x1000) : EngReg e (engBase e + i) :=
  ⟨Nat.le_add_right .., Nat.add_lt_add_left h _⟩

/-- Blocks of two engines share no address. -/
theorem not_engReg_of_ne {e j a : Nat} (he : e < 17) (hj : j < 17) (hne : j ≠ e) (h : EngReg j a) : ¬ EngReg e a := by
  intro h'
  revert h h'
  unfold EngReg engBase
  split <;> split <;> omega

theorem engReg_not_bell {e a : Nat} (h : EngReg e a) : a ∉ [R.MBX_RSPPEND 0, R.MBX_RSPPEND 1] := by
  have hb : R.MBX_RSPPEND 0 < 0x400F0000 ∧ R.MBX_RSPPEND 1 < 0x400F0000 := by decide
  have := engBase_ge e
  simp only [List.mem_cons, List.not_mem_nil, or_false]
  omega

theorem engReg_not_pdstat (e : Nat) : ¬ EngReg e R.PMU_PDSTAT := by
  have hb : R.PMU_PDSTAT < 0x400F0000 := by decide
  have := engBase_ge e
  omega

/-- Two registers of one block. -/
theorem engReg_ne {e i j : Nat} (h : i ≠ j) : engBase e + i ≠ engBase e + j := fun hij => h (Nat.add_left_cancel hij)

/-- An engine and its control block are alike. -/
structure SparesEngine (s t : State) (e : Nat) : Prop where
  regs : ∀ a, EngReg e a → t.reg a = s.reg a
  eng : t.eng e = s.eng e

namespace SparesEngine
variable {s t : State} {e j : Nat}

theorem refl (s : State) (e : Nat) : SparesEngine s s e := ⟨fun _ _ => rfl, rfl⟩

theorem setF (h : SparesEngine s t e) {x : Fld} (v : Nat) (hx : ¬ EngReg e x.addr) : SparesEngine s (t.setF x v) e where
  regs a ha := (reg_setF_ne t v (by rintro rfl; exact hx ha)).trans (h.regs a ha)
  eng := h.eng

theorem modEng (h : SparesEngine s t e) (g : Engine → Engine) (hj : j ≠ e) : SparesEngine s (t.modEng j g) e :=
  ⟨fun a ha => h.regs a ha, (eng_modEng_ne t g hj.symm).trans h.eng⟩

theorem resetEngRegs (h : SparesEngine s t e) (he : e < 17) (hjlt : j < 17) (hj : j ≠ e) :
    SparesEngine s (t.resetEngRegs j) e where
  regs a ha := by
    have hout : ¬ EngReg j a := not_engReg_of_ne hjlt he hj.symm ha
    have hf : decide (a < engBase j ∨ engBase j + 0x1000 ≤ a) = true := by
      simp only [decide_eq_true_eq]
      omega
    exact (smapGet_filter regReset (fun k => decide (k < engBase j ∨ engBase j + 0x1000 ≤ k)) t.regs a hf).trans (h.regs a ha)
  eng := h.eng

/-- Another engine is powered and starts BIST. -/
theorem powerBist (h : SparesEngine s t e) (he : e < 17) (hjlt : j < 17) (hj : j ≠ e) :
    SparesEngine s ((t.powerEng j true).startBist j) e := by
  have own {i : Nat} (hi : i < 0x1000) : ¬ EngReg e (engBase j + i) := not_engReg_of_ne he hjlt hj (engReg_offset j hi)
  have hp : SparesEngine s (t.powerEng j true) e :=
    (((h.setF _ (engReg_not_pdstat e)).resetEngRegs he hjlt hj).modEng _ hj).setF (x := F.ENG_CLKST_LOCK j) 1 (own (by decide))
  exact ((hp.setF (x := F.ENG_STAT_MODE j) 5 (own (by decide))).setF (x := F.ENG_STAT_BUSY j) 1 (own (by decide))).setF
    (x := F.ENG_BIST_DONE j) 0 (own (by decide))

end SparesEngine

/-! ## A punty that is taken in hand (R222) -/

section
variable {s : State} {e : Nat}

theorem bestEngine_mem {l : List Nat} {j : Nat} (h : s.bestEngine l = some j) : j ∈ l := by
  have key (l : List Nat) (acc : Option Nat) : l.foldl (fun acc e => match acc with
      | none => some e
      | some a => if s.fmax a < s.fmax e then some e else some a) acc = some j → acc = some j ∨ j ∈ l := by
    induction l generalizing acc with
    | nil => exact .inl
    | cons x l ih =>
      intro hx
      rcases ih _ hx with hx | hx
      · cases acc with
        | none => exact .inr (List.mem_cons.mpr (.inl (Option.some.inj hx).symm))
        | some a =>
          dsimp only at hx
          split at hx
          · exact .inr (List.mem_cons.mpr (.inl (Option.some.inj hx).symm))
          · exact .inl hx
      · exact .inr (List.mem_cons_of_mem _ hx)
  exact (key l none h).resolve_left (by simp)

theorem sparesEngine_fillPunty (he : e < 17) (hr : (s.eng e).role ≠ .reserve) : SparesEngine s s.fillPunty e := by
  unfold State.fillPunty
  split
  · exact .refl s e
  · split
    · next j hj =>
      obtain ⟨hlt, hrole⟩ := List.mem_filter.mp (bestEngine_mem hj)
      have hne : j ≠ e := by
        rintro rfl
        exact hr (of_decide_eq_true hrole)
      exact ((SparesEngine.refl s e).powerBist he (List.mem_range.mp hlt) hne).modEng _ hne
    · exact .refl s e

theorem dropPunty_of_not_punty (h : s.puntyOf ≠ some e) : s.dropPunty e = s := if_neg h

/-- Only its place changes: neither a register of its block, nor anything of the engine but its role (R222). -/
theorem dropPunty_keeps (s : State) (he : e < 17) : (∀ a, EngReg e a → (s.dropPunty e).reg a = s.reg a) ∧
    ∃ r c, (s.dropPunty e).eng e = { s.eng e with role := r, clearRole := c } := by
  unfold State.dropPunty
  split
  · have hE : (((s.setRole e .out).modEng e fun en => { en with clearRole := true }).eng e) =
        { s.eng e with role := .out, clearRole := true } := by
      simp only [State.setRole, eng_modEng_same _ e _ he]
    have h := sparesEngine_fillPunty he (s := (s.setRole e .out).modEng e fun en => { en with clearRole := true }) (by simp [hE])
    exact ⟨fun a ha => h.regs a ha, _, _, h.eng.trans hE⟩
  · exact ⟨fun _ _ => rfl, _, _, rfl⟩

end

end Sys2Proof.Machine
end

section
/-! ## The actions of CTRL, one at a time (R101, R102) -/
namespace Sys2Proof.Machine

theorem vmod_vmod {α : Type} {n : Nat} (v : Vector α n) (i : Nat) (g k : α → α) :
    vmod (vmod v i g) i k = vmod v i fun x => k (g x) := by
  refine Vector.ext fun j hj => Option.some.inj ?_
  simp only [← Vector.getElem?_eq_getElem, vmod_getElem?]
  split
  · rw [Option.map_map]
    rfl
  · rfl

theorem modEng_modEng (s : State) (e : Nat) (g k : Engine → Engine) :
    (s.modEng e g).modEng e k = s.modEng e fun en => k (g en) := by
  unfold State.modEng
  dsimp only
  rw [vmod_vmod]

/-- The actions of CTRL that are still to run become those of a list. -/
def State.withActs (s : State) (e : Nat) (as : List Nat) : State := s.modEng e fun en => { en with acts := as }

section
variable {s : State} {e : Eng} {rest : List Nat} {n : Nat}

theorem eng_withActs (s : State) {e : Nat} (as : List Nat) (he : e < 17) :
    (s.withActs e as).eng e = { s.eng e with acts := as } :=
  eng_modEng_same s e _ he

theorem eng_withActs_ne (s : State) {e j : Nat} (as : List Nat) (h : j ≠ e) : (s.withActs e as).eng j = s.eng j :=
  eng_modEng_ne s _ h

@[simp] theorem reg_withActs (s : State) (e : Nat) (as : List Nat) (a : Nat) : (s.withActs e as).reg a = s.reg a := rfl
@[simp] theorem b_withActs (s : State) (e : Nat) (as : List Nat) (x : Fld) : (s.withActs e as).b x = s.b x := rfl

/-- Roles do not depend on what an update of an engine leaves of them. -/
theorem rolesOf_modEng (s : State) {j : Nat} {g : Engine → Engine} (h : (g (s.eng j)).role = (s.eng j).role) (r : Role) :
    (s.modEng j g).rolesOf r = s.rolesOf r := by
  unfold State.rolesOf
  refine List.filter_congr fun i hi => ?_
  by_cases hij : i = j
  · subst hij
    rw [eng_modEng_same s i g (List.mem_range.mp hi), h]
  · rw [eng_modEng_ne s g hij]

theorem puntyOf_withActs (s : State) (e : Nat) (as : List Nat) : (s.withActs e as).puntyOf = s.puntyOf :=
  congrArg List.head? (rolesOf_modEng s rfl .punty)

theorem nextAct_none (h : (s.eng e).acts = []) : s.nextAct e n = s := by
  cases n with
  | zero => rfl
  | succ n => simp [State.nextAct, h]

theorem nextAct_decision (h : (s.eng e).acts = 4 :: rest) : s.nextAct e n = s := by
  cases n with
  | zero => rfl
  | succ n => simp [State.nextAct, h]

theorem nextAct_swap (h : (s.eng e).acts = 0 :: rest) :
    s.nextAct e (n + 1) = ((s.withActs e rest).swapBanks e).nextAct e n := by
  simp [State.nextAct, State.withActs, h]

theorem nextAct_clear (h : (s.eng e).acts = 1 :: rest) :
    s.nextAct e (n + 1) = ((s.withActs e rest).dropPunty e).startClear e := by
  simp [State.nextAct, State.withActs, h]

theorem nextAct_bist (h : (s.eng e).acts = 2 :: rest) (hl : s.b (F.ENG_CLKST_LOCK e) = true) :
    s.nextAct e (n + 1) = ((s.withActs e rest).dropPunty e).startBist e := by
  simp [State.nextAct, State.withActs, h, hl]

theorem nextAct_test (h : (s.eng e).acts = 3 :: rest) (hl : s.b (F.ENG_CLKST_LOCK e) = true) :
    s.nextAct e (n + 1) = let t := ((s.withActs e rest).dropPunty e).runTest e
      if t.b (F.ENG_STAT_BUSY e) then t else t.nextAct e n := by
  simp only [State.nextAct, State.withActs, h, hl]
  rfl

/-- An engine takes actions: it is out of service, not busy and not OFF (R101). -/
abbrev TakesActs (s : State) (e : Eng) : Prop :=
  s.inService e = false ∧ s.b (F.ENG_STAT_BUSY e) = false ∧ s.mode e ≠ 0

theorem ctrlActs_taken (h : TakesActs s e) (as : List Nat) : s.ctrlActs e as = (s.withActs e as).nextAct e 5 := by
  obtain ⟨hs, hb, hm⟩ := h
  simp [State.ctrlActs, State.actable, State.withActs, hs, hb, hm]

theorem ctrlActs_ignored (h : s.inService e = true ∨ s.b (F.ENG_STAT_BUSY e) = true) (as : List Nat) : s.ctrlActs e as = s := by
  rcases h with h | h <;> simp [State.ctrlActs, State.actable, h]

theorem withActs_withActs (s : State) (e : Eng) (as bs : List Nat) : (s.withActs e as).withActs e bs = s.withActs e bs := by
  unfold State.withActs
  rw [modEng_modEng]

end

/-! ### MODE and BUSY -/

section
variable (s : State) (e : Nat)

@[simp] theorem eng_setMode (m j : Nat) : (s.setMode e m).eng j = s.eng j := eng_setF ..
theorem eng_startClear (j : Nat) : (s.startClear e).eng j = s.eng j := (eng_setF ..).trans (eng_setMode ..)

theorem mode_setMode {m : Nat} (h : m < 8) : (s.setMode e m).mode e = m :=
  (f_setF_same s (F.ENG_STAT_MODE e) m (fldOk (by decide))).trans (Nat.mod_eq_of_lt h)

/-- An engine that starts CLEAR (R105). -/
theorem startClear_shows : (s.startClear e).mode e = 6 ∧ (s.startClear e).b (F.ENG_STAT_BUSY e) = true ∧
    ∀ a, a ≠ R.ENG_STAT e → (s.startClear e).reg a = s.reg a :=
  ⟨(f_setF_ne _ 1 (fldOk (by decide)) (apart_of_bits (by decide))).trans (mode_setMode s e (by decide)),
    b_setF_one _ _ (fldOk (by decide)), fun _ ha => (reg_setF_ne _ 1 ha).trans (reg_setF_ne s 6 ha)⟩

/-- An engine that starts BIST (R104). -/
theorem startBist_shows : (s.startBist e).mode e = 5 ∧ (s.startBist e).b (F.ENG_STAT_BUSY e) = true ∧
    (s.startBist e).b (F.ENG_BIST_DONE e) = false ∧
    ∀ a, a ≠ R.ENG_STAT e → a ≠ R.ENG_BIST e → (s.startBist e).reg a = s.reg a := by
  have hreg {x : Fld} (hx : x.addr = R.ENG_STAT e) : x.apart (F.ENG_BIST_DONE e) :=
    apart_of_addr (by rw [hx]; exact engReg_ne (by decide))
  refine ⟨?_, ?_, b_setF_zero _ _ (fldOk (by decide)), fun a ha hb => ?_⟩
  · exact (f_setF_ne _ 0 (fldOk (by decide)) (hreg rfl)).trans ((f_setF_ne _ 1 (fldOk (by decide))
      (apart_of_bits (by decide))).trans (mode_setMode s e (by decide)))
  · exact (b_setF_ne _ 0 (fldOk (by decide)) (hreg rfl)).trans (b_setF_one _ _ (fldOk (by decide)))
  · exact (reg_setF_ne _ 0 hb).trans ((reg_setF_ne _ 1 ha).trans (reg_setF_ne s 5 ha))

end

/-! ### The three commands -/

section
variable {s : State} {e : Eng} (ht : TakesActs s e)
include ht

/-- R71: SWAP exchanges the banks. -/
theorem execEngSwap_swaps : ∃ t, exec (.engSwap e) s = .next t ∧ (t.eng e).prog = (s.eng e).progSh ∧
    (t.eng e).progSh = (s.eng e).prog ∧ (t.eng e).coef = (s.eng e).coefSh ∧ (t.eng e).coefSh = (s.eng e).coef ∧
    (t.eng e).st = (s.eng e).st ∧ (t.eng e).tile = (s.eng e).tile ∧ t.regs = s.regs ∧ OnlyEng s t e := by
  have he := e.isLt
  have hE : ((s.withActs e []).swapBanks e).eng e = { s.eng e with
      acts := [], prog := (s.eng e).progSh, progSh := (s.eng e).prog, coef := (s.eng e).coefSh, coefSh := (s.eng e).coef
      bad := (s.eng e).bad.map otherBank, soft := (s.eng e).soft.map otherBank } := by
    rw [State.swapBanks, eng_modEng_same _ e _ he, eng_withActs s _ he]
  have hrun : s.ctrlActs e [0] = (s.withActs e []).swapBanks e := by
    rw [ctrlActs_taken ht, nextAct_swap (congrArg Engine.acts (eng_withActs s _ he)), withActs_withActs]
    exact nextAct_none (congrArg Engine.acts hE)
  refine ⟨_, congrArg Host.Outcome.next hrun, ?_, ?_, ?_, ?_, ?_, ?_, rfl, rfl, fun j hj =>
    (eng_modEng_ne _ _ hj).trans (eng_withActs_ne s _ hj)⟩ <;> rw [hE]

/-- R105: CLEAR begins. -/
theorem execEngClear_begins : ∃ t, exec (.engClear e) s = .next t ∧ t.mode e = 6 ∧ t.b (F.ENG_STAT_BUSY e) = true ∧
    (s.puntyOf ≠ some e.val → ∀ a, a ≠ R.ENG_STAT e → t.reg a = s.reg a) ∧ (t.eng e).st = (s.eng e).st := by
  have hrun : s.ctrlActs e [1] = ((s.withActs e []).dropPunty e).startClear e := by
    rw [ctrlActs_taken ht, nextAct_clear (congrArg Engine.acts (eng_withActs s _ e.isLt)), withActs_withActs]
  obtain ⟨hm, hb, hreg⟩ := startClear_shows ((s.withActs e []).dropPunty e) e
  refine ⟨_, congrArg Host.Outcome.next hrun, hm, hb, fun hp a ha => ?_, ?_⟩
  · rw [hreg a ha, dropPunty_of_not_punty (by rwa [puntyOf_withActs]), reg_withActs]
  · obtain ⟨-, r, c, hE⟩ := dropPunty_keeps (s.withActs e []) e.isLt
    rw [eng_startClear, hE, eng_withActs s _ e.isLt]

/-- R104: BISTGO begins where the clock is locked (R260). -/
theorem execBistGo_begins (hl : s.b (F.ENG_CLKST_LOCK e) = true) : ∃ t, exec (.bistGo e) s = .next t ∧ t.mode e = 5 ∧
    t.b (F.ENG_STAT_BUSY e) = true ∧ t.b (F.ENG_BIST_DONE e) = false ∧
    (s.puntyOf ≠ some e.val → ∀ a, a ≠ R.ENG_STAT e → a ≠ R.ENG_BIST e → t.reg a = s.reg a) := by
  have hrun : s.ctrlActs e [2] = ((s.withActs e []).dropPunty e).startBist e := by
    rw [ctrlActs_taken ht, nextAct_bist (congrArg Engine.acts (eng_withActs s _ e.isLt)) hl, withActs_withActs]
  obtain ⟨hm, hb, hd, hreg⟩ := startBist_shows ((s.withActs e []).dropPunty e) e
  refine ⟨_, congrArg Host.Outcome.next hrun, hm, hb, hd, fun hp a ha ha' => ?_⟩
  rw [hreg a ha ha', dropPunty_of_not_punty (by rwa [puntyOf_withActs]), reg_withActs]

end

end Sys2Proof.Machine
end

section
/-! ### The end of CLEAR (R105) -/
namespace Sys2Proof.Machine

section
variable {s : State} {e : Eng}

/-- Without actions left, an engine does nothing more. -/
theorem goOn_none (h : (s.eng e).acts = []) : s.goOn e = s := by
  rw [State.goOn, nextAct_none h, State.decideBist, if_neg (by simp [h])]

/-- Nothing differs but registers and one engine. -/
structure OnlyEngine (s t : State) (e : Nat) : Prop where
  rest : { t with engs := s.engs, regs := s.regs } = s
  others : ∀ j, j ≠ e → t.eng j = s.eng j

theorem OnlyEngine.refl (s : State) (e : Nat) : OnlyEngine s s e := ⟨rfl, fun _ _ => rfl⟩

theorem OnlyEngine.setF {s t : State} {e : Nat} (h : OnlyEngine s t e) (x : Fld) (v : Nat) : OnlyEngine s (t.setF x v) e :=
  ⟨h.rest, h.others⟩

theorem OnlyEngine.modEng {s t : State} {e : Nat} (h : OnlyEngine s t e) (g : Engine → Engine) :
    OnlyEngine s (t.modEng e g) e :=
  ⟨h.rest, fun j hj => (eng_modEng_ne t g hj).trans (h.others j hj)⟩

theorem OnlyEngine.onlyEng {s t : State} {e : Nat} (h : OnlyEngine s t e) : OnlyEng { s with regs := t.regs } t e :=
  ⟨(congrArg (fun x : State => { x with regs := t.regs, resp := s.resp }) h.rest :), h.others⟩

/-- The engine is CLEAR and OUT, before what it goes on with. -/
def State.clearEnded (s : State) (e : Nat) : State :=
  ((s.modEng e Engine.cleared).setMode e 1).setF (F.ENG_STAT_BUSY e) 0

theorem eng_clearEnded (s : State) {e : Nat} (he : e < 17) : (s.clearEnded e).eng e = (s.eng e).cleared :=
  (eng_setF ..).trans ((eng_setMode ..).trans (eng_modEng_same s e _ he))

theorem les_clearEnded (s : State) (e : Nat) : (s.clearEnded e).les = s.les := by
  rw [State.clearEnded, State.setF_les, State.setMode, State.setF_les, State.modEng_les]

theorem clearEnded_shows (s : State) (e : Nat) : (s.clearEnded e).mode e = 1 ∧
    (s.clearEnded e).b (F.ENG_STAT_BUSY e) = false ∧ ∀ a, a ≠ R.ENG_STAT e → (s.clearEnded e).reg a = s.reg a :=
  ⟨(f_setF_ne _ 0 (fldOk (by decide)) (apart_of_bits (by decide))).trans (mode_setMode _ e (by decide)),
    b_setF_zero _ _ (fldOk (by decide)), fun _ ha => (reg_setF_ne _ 0 ha).trans (reg_setF_ne _ 1 ha)⟩

theorem execClearDone_goesOn (hm : s.mode e = 6) (hc : (s.eng e).clearRole = false)
    (hl : ∀ l, l < 16 → (s.le l).entry = .none ∧ (s.le l).inst = none) :
    exec (.clearDone e) s = .next ((s.clearEnded e).goOn e) := by
  have hle (l : Nat) : (s.clearEnded e).le l = s.le l := by rw [State.le, State.le, les_clearEnded]
  have hinst : (List.range 16).find? (fun l => decide (((s.clearEnded e).le l).inst = some e.val)) = none :=
    List.find?_eq_none.mpr fun l h => by simp [hle, (hl l (List.mem_range.mp h)).2]
  have hentry : (List.range 16).find? (fun l => decide (((s.clearEnded e).le l).entry = .loading e.val)) = none :=
    List.find?_eq_none.mpr fun l h => by simp [hle, (hl l (List.mem_range.mp h)).1]
  have hrole : ((s.clearEnded e).eng e).clearRole = false := by
    rw [eng_clearEnded s e.isLt]
    exact hc
  unfold State.clearEnded at hinst hentry hrole ⊢
  rw [exec_clearDone, execClearDone, if_pos hm]
  dsimp only
  rw [hinst]
  dsimp only
  rw [hentry]
  dsimp only
  rw [hrole]
  rfl

/-- R105: the end of CLEAR, where no logical engine waits for the engine. -/
theorem execClearDone_ends (hm : s.mode e = 6) (hc : (s.eng e).clearRole = false) (ha : (s.eng e).acts = [])
    (hl : ∀ l, l < 16 → (s.le l).entry = .none ∧ (s.le l).inst = none) :
    ∃ t, exec (.clearDone e) s = .next t ∧ t.mode e = 1 ∧ t.b (F.ENG_STAT_BUSY e) = false ∧
      t.eng e = (s.eng e).cleared ∧ OnlyEng { s with regs := t.regs } t e ∧
      ∀ a, a ≠ R.ENG_STAT e → t.reg a = s.reg a := by
  have hE := eng_clearEnded s e.isLt
  have hgo : (s.clearEnded e).goOn e = s.clearEnded e := goOn_none (by rw [hE]; exact ha)
  obtain ⟨hmode, hbusy, hreg⟩ := clearEnded_shows s e
  refine ⟨_, (execClearDone_goesOn hm hc hl).trans (congrArg Host.Outcome.next hgo), hmode, hbusy, hE,
    OnlyEngine.onlyEng ?_, hreg⟩
  exact (((OnlyEngine.refl s e).modEng Engine.cleared).setF (F.ENG_STAT_MODE e) 1).setF (F.ENG_STAT_BUSY e) 0

end

end Sys2Proof.Machine
end

section
/-! ## The end of a test pass (R103) -/
namespace Sys2Proof.Machine

section
variable {s : State} {e : Nat}

theorem modEng_congr {g k : Engine → Engine} (he : e < 17) (h : g (s.eng e) = k (s.eng e)) : s.modEng e g = s.modEng e k := by
  have hx : s.engs[e]? = some (s.eng e) := by
    rw [Vector.getElem?_eq_getElem he]
    simp [State.eng, he]
  have hv : vmod s.engs e g = vmod s.engs e k := by
    refine Vector.ext fun j hj => Option.some.inj ?_
    simp only [← Vector.getElem?_eq_getElem, vmod_getElem?]
    split
    · next hej => rw [← hej, hx, Option.map_some, Option.map_some, h]
    · rfl
  unfold State.modEng
  rw [hv]

theorem modEng_id (s : State) (e : Nat) : s.modEng e id = s := by
  have hv : vmod s.engs e id = s.engs := Vector.ext fun j hj => Option.some.inj (by
    rw [← Vector.getElem?_eq_getElem, ← Vector.getElem?_eq_getElem, vmod_getElem?, Option.map_id]
    exact ite_self _)
  unfold State.modEng
  rw [hv]

theorem modEng_eq_self {g : Engine → Engine} (he : e < 17) (h : g (s.eng e) = s.eng e) : s.modEng e g = s :=
  (modEng_congr he h).trans (modEng_id s e)

/-- Nothing lands where nothing is in the pipeline. -/
theorem landBefore_empty (he : e < 17) (h : (s.eng e).pend = []) (t : Nat) : s.landBefore e t = s := by
  unfold State.landBefore
  rw [h, modEng_eq_self he (by rw [h]; exact congrArg (fun p => { s.eng e with pend := p }) h.symm)]
  rfl

theorem drainPipe_empty (he : e < 17) (h : (s.eng e).pend = []) : s.drainPipe e = s :=
  forEach_keeps (P := (· = s)) _ rfl fun t i _ ht => by rw [ht, landBefore_empty he h]

theorem engN_setEngN {n : Nat} (h : n < 2 ^ 64) : (s.setEngN e n).engN e = n := by
  have hlo : (s.setEngN e n).f (F.ENG_SCNTL_N e) = n % 2 ^ 32 :=
    (f_setF_ne _ _ (fldOk (by decide)) (apart_of_addr (engReg_ne (by decide)))).trans (f_setF_same _ _ _ (fldOk (by decide)))
  have hhi : (s.setEngN e n).f (F.ENG_SCNTH_N e) = n / 2 ^ 32 % 2 ^ 32 := f_setF_same _ _ _ (fldOk (by decide))
  rw [State.engN, State.f2, hlo, hhi]
  omega

/-- A test pass stops; N is counted and TDONE set; TLIMIT sets at the limit. -/
def State.testStopped (s : State) (e : Nat) : State := s.modEng e fun en => { en with busy := false, test := false, lw := [] }
def State.testCounted (s : State) (e : Nat) : State :=
  ((s.testStopped e).setEngN e (s.engN e + 1)).flag (F.ENG_STAT_TDONE e)
def State.testLimited (s : State) (e : Nat) (limit : Bool) : State :=
  if limit then (s.testCounted e).flag (F.ENG_STAT_TLIMIT e) else s.testCounted e

theorem endTest_empty (he : e < 17) (hp : (s.eng e).pend = []) (limit : Bool) :
    s.endTest e limit = ((s.testLimited e limit).setMode e 1).setF (F.ENG_STAT_BUSY e) 0 := by
  unfold State.endTest
  rw [drainPipe_empty he hp]
  rfl

theorem eng_testLimited (s : State) (he : e < 17) (limit : Bool) :
    (s.testLimited e limit).eng e = { s.eng e with busy := false, test := false, lw := [] } := by
  have h : (s.testCounted e).eng e = { s.eng e with busy := false, test := false, lw := [] } :=
    (eng_flag ..).trans ((eng_setF ..).trans ((eng_setF ..).trans (eng_modEng_same s e _ he)))
  unfold State.testLimited
  split
  · rw [eng_flag, h]
  · exact h

/-- The flags of a test pass leave N alone. -/
theorem engN_setStat (s : State) {e : Nat} {x : Fld} (hx : x.addr = R.ENG_STAT e) (v : Nat) :
    (s.setF x v).engN e = s.engN e := by
  have hl : R.ENG_SCNTL e ≠ x.addr := by
    rw [hx]
    exact engReg_ne (by decide)
  have hh : R.ENG_SCNTH e ≠ x.addr := by
    rw [hx]
    exact engReg_ne (by decide)
  unfold State.engN State.f2 State.f
  dsimp only [F.ENG_SCNTL_N, F.ENG_SCNTH_N]
  rw [reg_setF_ne _ _ hl, reg_setF_ne _ _ hh]

theorem engN_testCounted (h : s.engN e + 1 < 2 ^ 64) : (s.testCounted e).engN e = s.engN e + 1 :=
  (engN_setStat _ rfl 1).trans (engN_setEngN h)

/-- What a test pass shows when it has ended: OUT and not busy, TDONE, and N counted. -/
structure TestEnded (t : State) (e n : Nat) : Prop where
  mode : t.mode e = 1
  idle : t.b (F.ENG_STAT_BUSY e) = false
  done : t.b (F.ENG_STAT_TDONE e) = true
  counted : t.engN e = n
  stopped : (t.eng e).busy = false ∧ (t.eng e).test = false

section
variable (he : e < 17) (hp : (s.eng e).pend = [])
include he hp

theorem eng_endTest (limit : Bool) :
    (s.endTest e limit).eng e = { s.eng e with busy := false, test := false, lw := [] } := by
  rw [endTest_empty he hp, eng_setF, eng_setMode, eng_testLimited s he]

theorem testEnded_endTest (hN : s.engN e + 1 < 2 ^ 64) (limit : Bool) :
    TestEnded (s.endTest e limit) e (s.engN e + 1) := by
  have hE := eng_endTest he hp limit
  have hdone : (s.testLimited e limit).b (F.ENG_STAT_TDONE e) = true ∧ (s.testLimited e limit).engN e = s.engN e + 1 := by
    have hset : (s.testCounted e).b (F.ENG_STAT_TDONE e) = true := b_flag_same _ _ (fldOk (by decide))
    unfold State.testLimited
    split
    · exact ⟨(b_flag_ne _ (fldOk (by decide)) (apart_of_bits (by decide))).trans hset,
        (engN_setStat _ rfl 1).trans (engN_testCounted hN)⟩
    · exact ⟨hset, engN_testCounted hN⟩
  rw [endTest_empty he hp] at hE ⊢
  exact ⟨(f_setF_ne _ 0 (fldOk (by decide)) (apart_of_bits (by decide))).trans (mode_setMode _ e (by decide)),
    b_setF_zero _ _ (fldOk (by decide)),
    (b_setF_ne _ 0 (fldOk (by decide)) (apart_of_bits (by decide))).trans
      ((b_setF_ne _ 1 (fldOk (by decide)) (apart_of_bits (by decide))).trans hdone.1),
    (engN_setStat _ rfl 0).trans ((engN_setStat _ rfl 1).trans hdone.2), by rw [hE]; exact ⟨rfl, rfl⟩⟩

theorem tlimit_endTest : (s.endTest e true).b (F.ENG_STAT_TLIMIT e) = true := by
  rw [endTest_empty he hp]
  exact (b_setF_ne _ 0 (fldOk (by decide)) (apart_of_bits (by decide))).trans
    ((b_setF_ne _ 1 (fldOk (by decide)) (apart_of_bits (by decide))).trans (b_flag_same _ _ (fldOk (by decide))))

/-- The end of a test pass leaves the control register alone. -/
theorem ctrl_endTest (limit : Bool) : (s.endTest e limit).reg (R.ENG_CTRL e) = s.reg (R.ENG_CTRL e) := by
  have hstat : R.ENG_CTRL e ≠ R.ENG_STAT e := engReg_ne (by decide)
  have hcount : (s.testCounted e).reg (R.ENG_CTRL e) = s.reg (R.ENG_CTRL e) :=
    (reg_setF_ne _ 1 hstat).trans (reg_setF2_ne _ _ (engReg_ne (by decide)) (engReg_ne (by decide)))
  rw [endTest_empty he hp]
  refine (reg_setF_ne _ 0 hstat).trans ((reg_setF_ne _ 1 hstat).trans ?_)
  unfold State.testLimited
  split
  · exact (reg_setF_ne _ 1 hstat).trans hcount
  · exact hcount

end

/-- R103: a test pass that has not reached END stops at its limit. -/
theorem execTestPassLimit_stops {e : Eng} (ha : (s.eng e).acts = []) (hN : s.engN e + 1 < 2 ^ 64) (hm : s.mode e = 4)
    (hb : (s.eng e).busy = true) (hp : (s.eng e).pend = []) : ∃ t, exec (.testPassLimit e) s = .next t ∧
      TestEnded t e (s.engN e + 1) ∧ t.b (F.ENG_STAT_TLIMIT e) = true := by
  have hgo : (s.endTest e true).goOn e = s.endTest e true :=
    goOn_none (by rw [eng_endTest e.isLt hp]; exact ha)
  refine ⟨_, ?_, testEnded_endTest e.isLt hp hN true, tlimit_endTest e.isLt hp⟩
  rw [exec_testPassLimit, execTestPassLimit, if_pos ⟨hm, hb⟩, hgo]

end

end Sys2Proof.Machine
end

section
/-! ## A pass whose first instruction is END (R93, R103) -/
namespace Sys2Proof.Machine

theorem decodeRender_end (e : Eng) (h : Hdr) :
    decodeRender e (renderWord h 0x01 0) = .rEnd e (decodeHdr (renderWord h 0x01 0)) := by
  have hop : bits (renderWord h 0x01 0) 52 7 = 0x01#7 := by
    obtain ⟨g, gs, u⟩ := h
    revert g gs u
    decide
  unfold decodeRender
  dsimp only
  rw [hop]
  rfl

theorem join64_halves (w : Word64) : join64 (half64 w false) (half64 w true) = w := by
  apply BitVec.eq_of_getLsbD_eq
  intro i hi
  show ((w >>> 32).setWidth 32 ++ w.setWidth 32).getLsbD i = w.getLsbD i
  rw [BitVec.getLsbD_append]
  by_cases hlow : i < 32
  · simp [hlow]
  · simp [hlow, show i - 32 < 32 by omega, show 32 + (i - 32) = i by omega]

section
variable {s : State} {e : Eng}

theorem fetchWord_sound (h : NoEcc s e) (pc : Nat) : s.fetchWord e pc = (memGet (s.eng e).prog pc, s) := by
  have half (hi : Bool) : s.fetchHalf e pc hi = (half64 (memGet (s.eng e).prog pc) hi, s) := by
    unfold State.fetchHalf State.softFix
    simp [h.1, h.2]
  unfold State.fetchWord
  simp only [half, join64_halves]

theorem fetch_sound (h : NoEcc s e) (hn : (s.eng e).nest = []) :
    s.fetch e = (memGet (s.eng e).prog (s.eng e).pc, s) := by
  unfold State.fetch
  simp only [hn, List.head?_nil, Option.filter_none]
  exact fetchWord_sound h _

theorem runPass_stopped (n : Nat) (h : s.issues e = false) : runPass e n s = s := by
  cases n with
  | zero => rfl
  | succ n => rw [runPass, if_neg (by simp [h])]

/-- A pass whose next instruction is END issues it and stops. -/
theorem runPass_end {h : Hdr} (n : Nat) (hi : s.issues e = true) (hs : NoEcc s e) (hn : (s.eng e).nest = [])
    (hw : memGet (s.eng e).prog (s.eng e).pc = renderWord h 0x01 0) (hend : (s.issueEnd e).issues e = false) :
    runPass e (n + 1) s = s.issueEnd e := by
  rw [runPass, if_pos hi, fetch_sound hs hn]
  dsimp only
  rw [hw, decodeRender_end]
  exact runPass_stopped n hend

end

end Sys2Proof.Machine
end

section
/-! ## Test passes (R103) -/
namespace Sys2Proof.Machine

section
variable {s : State} {e : Nat}

theorem reg_modEng (s : State) (e : Nat) (g : Engine → Engine) (a : Nat) : (s.modEng e g).reg a = s.reg a := rfl

/-- A field goes with its register. -/
theorem f_of_reg {t : State} {x : Fld} (h : t.reg x.addr = s.reg x.addr) : t.f x = s.f x := by rw [State.f, h, State.f]
theorem b_of_reg {t : State} {x : Fld} (h : t.reg x.addr = s.reg x.addr) : t.b x = s.b x := by
  rw [State.b, f_of_reg h, State.b]

theorem engN_of_regs {t : State} (hl : t.reg (R.ENG_SCNTL e) = s.reg (R.ENG_SCNTL e))
    (hh : t.reg (R.ENG_SCNTH e) = s.reg (R.ENG_SCNTH e)) : t.engN e = s.engN e := by
  rw [State.engN, State.f2, f_of_reg (x := F.ENG_SCNTL_N e) hl, f_of_reg (x := F.ENG_SCNTH_N e) hh, State.engN, State.f2]

/-- END has issued, with nothing in the pipeline before it: only the pass's cycle counts and the engine differ. -/
theorem issueEnd_empty (he : e < 17) (hi : s.issues e = true) (hp : (s.eng e).pend = []) :
    (s.issueEnd e).eng e = { s.eng e with slot := (s.eng e).slot + 1, busy := false, nest := [] } ∧
    ∀ a, a ≠ R.ENG_PASSLAST e → a ≠ R.ENG_PASSMAX e → (s.issueEnd e).reg a = s.reg a := by
  have hat : s.atIssue e = s := landBefore_empty he hp _
  unfold State.issueEnd
  rw [if_pos hi]
  dsimp only
  rw [hat, eng_modEng_same _ e _ he, eng_setF, eng_setF, State.endSlot, eng_modEng_same _ e _ he]
  refine ⟨rfl, fun a hl hm => ?_⟩
  rw [reg_modEng, reg_setF_ne _ _ hm, reg_setF_ne _ _ hl, reg_modEng]

/-- TEST, busy, and a pass begun at the entry point of TTIER. -/
def State.testMarked (s : State) (e : Nat) : State :=
  (((s.setMode e 4).setF (F.ENG_STAT_BUSY e) 1).setF (F.ENG_TR_TR e) 0x7FFFFFFF).modEng e fun en => { en with dirty := true }
def State.testBegun (s : State) (e : Nat) : State :=
  (s.testMarked e).beginPass e ((s.testMarked e).f (F.ENG_ENTRY_ADDR e (s.f (F.ENG_CTRL_TTIER e)))) true
    (s.f (F.ENG_CTRL_TTIER e))

theorem reg_testMarked (s : State) {e a : Nat} (h : a ≠ R.ENG_STAT e) (h' : a ≠ R.ENG_TR e) :
    (s.testMarked e).reg a = s.reg a := by
  rw [State.testMarked, reg_modEng, reg_setF_ne _ _ h', reg_setF_ne _ 1 h, State.setMode, reg_setF_ne s 4 h]

theorem reg_testBegun (s : State) {e a : Nat} (h : a ≠ R.ENG_STAT e) (h' : a ≠ R.ENG_TR e) :
    (s.testBegun e).reg a = s.reg a := by
  rw [State.testBegun, State.beginPass, reg_modEng, reg_testMarked s h h']

/-- The entry point lies in a register that the begin of a test pass leaves alone. -/
theorem entry_testMarked (s : State) (e k : Nat) : (s.testMarked e).f (F.ENG_ENTRY_ADDR e k) = s.f (F.ENG_ENTRY_ADDR e k) := by
  have h : R.ENG_ENTRY e k ≠ R.ENG_STAT e ∧ R.ENG_ENTRY e k ≠ R.ENG_TR e := by
    unfold R.ENG_ENTRY R.ENG_STAT R.ENG_TR
    omega
  exact f_of_reg (x := F.ENG_ENTRY_ADDR e k) (reg_testMarked s h.1 h.2)

/-- The engine at the begin of a test pass. -/
structure TestBegun (en k : Engine) (entry : Nat) : Prop where
  pass : k.busy = true ∧ k.pc = entry ∧ k.nest = [] ∧ k.pend = []
  memory : k.prog = en.prog ∧ k.bad = en.bad ∧ k.soft = en.soft
  acts : k.acts = en.acts

theorem eng_testBegun (s : State) (he : e < 17) :
    TestBegun (s.eng e) ((s.testBegun e).eng e) (s.f (F.ENG_ENTRY_ADDR e (s.f (F.ENG_CTRL_TTIER e)))) := by
  rw [State.testBegun, entry_testMarked, State.beginPass, eng_modEng_same _ e _ he, State.testMarked, eng_modEng_same _ e _ he,
    eng_setF, eng_setF, eng_setMode]
  exact ⟨⟨rfl, rfl, rfl, rfl⟩, ⟨rfl, rfl, rfl⟩, rfl⟩

theorem runTest_eq (s : State) (e : Eng) : s.runTest e =
    if ((runPass e passFuel (s.testBegun e)).eng e).busy then runPass e passFuel (s.testBegun e)
    else (runPass e passFuel (s.testBegun e)).endTest e false := rfl

end

section
variable {s : State} {e : Eng} {h : Hdr}

/-- What a test pass needs that is to meet END at once: a locked clock, sound memories, and END at its entry point. -/
structure EndsAtOnce (s : State) (e : Eng) (h : Hdr) : Prop where
  locked : s.b (F.ENG_CLKST_LOCK e) = true
  sound : NoEcc s e
  word : memGet (s.eng e).prog (s.f (F.ENG_ENTRY_ADDR e (s.f (F.ENG_CTRL_TTIER e)))) = renderWord h 0x01 0

/-- The test pass runs to its END: it issues that one instruction. -/
theorem runPass_testBegun (hs : EndsAtOnce s e h) : (s.testBegun e).issues e = true ∧
    runPass e passFuel (s.testBegun e) = (s.testBegun e).issueEnd e := by
  obtain ⟨⟨hbusy, hpc, hnest, hpend⟩, ⟨hprog, hbad, hsoft⟩, -⟩ := eng_testBegun s e.isLt
  have hlock : (s.testBegun e).b (F.ENG_CLKST_LOCK e) = true := by
    have hr : (s.testBegun e).reg (R.ENG_CLKST e) = s.reg (R.ENG_CLKST e) :=
      reg_testBegun s (engReg_ne (by decide)) (engReg_ne (by decide))
    rw [← hs.locked]
    exact b_of_reg (x := F.ENG_CLKST_LOCK e) hr
  have hi : (s.testBegun e).issues e = true := by
    unfold State.issues
    rw [hbusy, hlock]
    rfl
  have hend : ((s.testBegun e).issueEnd e).issues e = false := by
    unfold State.issues
    rw [(issueEnd_empty e.isLt hi hpend).1]
    rfl
  refine ⟨hi, ?_⟩
  rw [show passFuel = 1048575 + 1 from rfl]
  exact runPass_end _ hi ⟨hbad.trans hs.sound.1, hsoft.trans hs.sound.2⟩ hnest (by rw [hprog, hpc]; exact hs.word) hend

theorem runTest_ends (hs : EndsAtOnce s e h) (hN : s.engN e + 1 < 2 ^ 64) : TestEnded (s.runTest e) e (s.engN e + 1) ∧
    (s.runTest e).reg (R.ENG_CTRL e) = s.reg (R.ENG_CTRL e) ∧ ((s.runTest e).eng e).acts = (s.eng e).acts := by
  obtain ⟨hi, hrun⟩ := runPass_testBegun hs
  obtain ⟨⟨-, -, -, hpend⟩, -, hacts⟩ := eng_testBegun s e.isLt
  obtain ⟨hE, hreg⟩ := issueEnd_empty e.isLt hi hpend
  have hend : s.runTest e = ((s.testBegun e).issueEnd e).endTest e false := by
    rw [runTest_eq, hrun, hE]
    rfl
  have hp : (((s.testBegun e).issueEnd e).eng e).pend = [] := by
    rw [hE]
    exact hpend
  have hkeep (i : Nat) (h1 : i ≠ 4) (h2 : i ≠ 0x18) (h3 : i ≠ 0x48) (h4 : i ≠ 0x4C) :
      ((s.testBegun e).issueEnd e).reg (engBase e + i) = s.reg (engBase e + i) :=
    (hreg _ (engReg_ne h3) (engReg_ne h4)).trans (reg_testBegun s (engReg_ne h1) (engReg_ne h2))
  have hcount : ((s.testBegun e).issueEnd e).engN e = s.engN e := by
    have hl := hkeep 0x40 (by decide) (by decide) (by decide) (by decide)
    have hh := hkeep 0x44 (by decide) (by decide) (by decide) (by decide)
    exact engN_of_regs hl hh
  rw [hend, ← hcount]
  refine ⟨testEnded_endTest e.isLt hp (by rw [hcount]; exact hN) false, ?_, ?_⟩
  · exact (ctrl_endTest e.isLt hp false).trans (hkeep 0 (by decide) (by decide) (by decide) (by decide))
  · rw [eng_endTest e.isLt hp, hE]
    exact hacts

/-- CTRL takes TTIER, and the engine is taken in hand (R102, R103). -/
def State.testTaken (s : State) (e : Nat) (k : BitVec 2) : State :=
  ((s.setF (F.ENG_CTRL_TTIER e) k.toNat).withActs e []).dropPunty e

theorem reg_testTaken (s : State) (e : Eng) (k : BitVec 2) {i : Nat} (hi : i < 0x1000) (h0 : i ≠ 0) :
    (s.testTaken e k).reg (engBase e + i) = s.reg (engBase e + i) :=
  ((dropPunty_keeps _ e.isLt).1 _ (engReg_offset e hi)).trans (reg_setF_ne s _ (engReg_ne h0))

theorem eng_testTaken (s : State) (e : Eng) (k : BitVec 2) :
    ∃ r c, (s.testTaken e k).eng e = { s.eng e with acts := [], role := r, clearRole := c } := by
  obtain ⟨-, r, c, hE⟩ := dropPunty_keeps ((s.setF (F.ENG_CTRL_TTIER e) k.toNat).withActs e []) e.isLt
  exact ⟨r, c, by rw [State.testTaken, hE, eng_withActs _ _ e.isLt, eng_setF]⟩

theorem ttier_testTaken (s : State) (e : Eng) (k : BitVec 2) : (s.testTaken e k).f (F.ENG_CTRL_TTIER e) = k.toNat := by
  have hr : (s.testTaken e k).f (F.ENG_CTRL_TTIER e) = (s.setF (F.ENG_CTRL_TTIER e) k.toNat).f (F.ENG_CTRL_TTIER e) :=
    f_of_reg (x := F.ENG_CTRL_TTIER e) ((dropPunty_keeps _ e.isLt).1 _ (engReg_offset e (by decide : 0 < 0x1000)))
  exact hr.trans ((f_setF_same s (F.ENG_CTRL_TTIER e) _ (fldOk (by decide))).trans (Nat.mod_eq_of_lt k.isLt))

theorem engN_testTaken (s : State) (e : Eng) (k : BitVec 2) : (s.testTaken e k).engN e = s.engN e :=
  engN_of_regs
    (reg_testTaken s e k (i := 0x40) (by decide) (by decide)) (reg_testTaken s e k (i := 0x44) (by decide) (by decide))

theorem endsAtOnce_testTaken {k : BitVec 2} (hn : NoEcc s e) (hl : s.b (F.ENG_CLKST_LOCK e) = true)
    (hw : memGet (s.eng e).prog (s.f (F.ENG_ENTRY_ADDR e k.toNat)) = renderWord h 0x01 0) :
    EndsAtOnce (s.testTaken e k) e h := by
  obtain ⟨r, c, hE⟩ := eng_testTaken s e k
  have hentry : (s.testTaken e k).f (F.ENG_ENTRY_ADDR e k.toNat) = s.f (F.ENG_ENTRY_ADDR e k.toNat) := by
    have hk := reg_testTaken s e k (i := 0x20 + 4 * k.toNat) (by omega) (by omega)
    rw [← Nat.add_assoc] at hk
    exact f_of_reg (x := F.ENG_ENTRY_ADDR e k.toNat) hk
  refine ⟨?_, ?_, ?_⟩
  · rw [← hl]
    exact b_of_reg (x := F.ENG_CLKST_LOCK e) (reg_testTaken s e k (i := 0x10) (by decide) (by decide))
  · rw [NoEcc, hE]
    exact hn
  · rw [ttier_testTaken, hentry, hE]
    exact hw

/-- A write of CTRL alone leaves an engine taking actions. -/
theorem takesActs_setCtrl (ht : TakesActs s e) {x : Fld} (hx : x.addr = R.ENG_CTRL e) (v : Nat) :
    TakesActs (s.setF x v) e := by
  have hreg : (s.setF x v).reg (R.ENG_STAT e) = s.reg (R.ENG_STAT e) :=
    reg_setF_ne s v (by rw [hx]; exact engReg_ne (by decide))
  have hmode : (s.setF x v).mode e = s.mode e := f_of_reg (x := F.ENG_STAT_MODE e) hreg
  have hbusy : (s.setF x v).b (F.ENG_STAT_BUSY e) = s.b (F.ENG_STAT_BUSY e) :=
    b_of_reg (x := F.ENG_STAT_BUSY e) hreg
  rwa [TakesActs, State.inService, hmode, hbusy]

/-- R95, R103: a test pass of one instruction, END, under a locked clock (R260). -/
theorem execTestPass_ends {k : BitVec 2} (ht : TakesActs s e) (hn : NoEcc s e) (hl : s.b (F.ENG_CLKST_LOCK e) = true)
    (hw : memGet (s.eng e).prog (s.f (F.ENG_ENTRY_ADDR e k.toNat)) = renderWord h 0x01 0) (hN : s.engN e + 1 < 2 ^ 64) :
    ∃ t, exec (.testPass e k) s = .next t ∧ TestEnded t e (s.engN e + 1) ∧ t.f (F.ENG_CTRL_TTIER e) = k.toNat := by
  obtain ⟨r, c, hE⟩ := eng_testTaken s e k
  have hcount := engN_testTaken s e k
  obtain ⟨hended, hctrl, hacts⟩ := runTest_ends (endsAtOnce_testTaken hn hl hw) (by rwa [hcount])
  rw [hcount] at hended
  have hlock : (s.setF (F.ENG_CTRL_TTIER e) k.toNat).b (F.ENG_CLKST_LOCK e) = true :=
    (b_setF_ne s _ (fldOk (by decide)) (apart_of_addr (engReg_ne (by decide)))).trans hl
  have htaken : ((s.setF (F.ENG_CTRL_TTIER e) k.toNat).withActs e []).dropPunty e = s.testTaken e k := rfl
  have hrun : (s.setF (F.ENG_CTRL_TTIER e) k.toNat).ctrlActs e [3] = (s.testTaken e k).runTest e := by
    rw [ctrlActs_taken (takesActs_setCtrl ht rfl _), nextAct_test (congrArg Engine.acts (eng_withActs _ _ e.isLt))
      ((b_withActs ..).trans hlock), withActs_withActs, htaken]
    dsimp only
    rw [hended.idle, if_neg Bool.false_ne_true]
    exact nextAct_none (by rw [hacts, hE])
  refine ⟨(s.testTaken e k).runTest e, ?_, hended, ?_⟩
  · rw [exec_testPass, execTestPass, if_neg (by simp [ht.2.1]), hrun]
  · exact (f_of_reg (x := F.ENG_CTRL_TTIER e) hctrl).trans (ttier_testTaken s e k)

end

end Sys2Proof.Machine
end

section
/-! ## Power, events and images around BIST -/
namespace Sys2Proof.Machine

section
variable {s : State}

/-- A bit taken out of a number. -/
theorem testBit_sub_bit (n i : Nat) : (n - b2n (n.testBit i) * 2 ^ i).testBit i = false := by
  cases h : n.testBit i with
  | false => simpa [b2n] using h
  | true =>
    rw [Nat.testBit_eq_decide_div_mod_eq, decide_eq_true_eq] at h
    have hle : 2 ^ i * 1 ≤ n := by
      have h1 : 1 ≤ n / 2 ^ i := Nat.pos_of_ne_zero fun h0 => by simp [h0] at h
      exact (Nat.mul_le_mul_left _ h1).trans (Nat.mul_div_le n _)
    have hdiv : (n - b2n true * 2 ^ i) / 2 ^ i = n / 2 ^ i - 1 := by
      rw [show b2n true * 2 ^ i = 2 ^ i * 1 by simp [b2n]]
      exact Nat.sub_mul_div_of_le n (2 ^ i) 1 hle
    rw [Nat.testBit_eq_decide_div_mod_eq, decide_eq_false_iff_not, hdiv]
    omega

/-- A power domain that is switched off is off (R218). -/
theorem on_setOn_false (s : State) (pd : Nat) : (s.setOn pd false).on pd = false := by
  have hlt : s.f F.PMU_PDSTAT_ON < 2 ^ 26 := f_lt s F.PMU_PDSTAT_ON
  have hf : (s.setOn pd false).f F.PMU_PDSTAT_ON =
      s.f F.PMU_PDSTAT_ON - b2n ((s.f F.PMU_PDSTAT_ON).testBit pd) * 2 ^ pd := by
    refine (f_setF_same s F.PMU_PDSTAT_ON _ (fldOk (by decide))).trans ((Nat.mod_eq_of_lt ?_).trans ?_)
    · simp only [State.fbit, b2n, Bool.false_eq_true, ↓reduceIte, zero_mul, add_zero]
      exact lt_of_le_of_lt (Nat.sub_le ..) hlt
    · simp only [State.fbit, b2n, Bool.false_eq_true, ↓reduceIte, zero_mul, add_zero]
      rfl
  rw [State.on, State.fbit, hf, testBit_sub_bit]

end

/-- An engine's domain is off: PMU_PDSTAT shows it, and MODE is OFF (R33, R102). -/
theorem powerEng_false_shows (s : State) (e : Nat) : (s.powerEng e false).mode e = 0 ∧ (s.powerEng e false).on e = false := by
  have hreg : ((s.powerEng e false).reg R.PMU_PDSTAT) = (s.setOn e false).reg R.PMU_PDSTAT := by
    have hne : R.PMU_PDSTAT ≠ (F.ENG_STAT_MODE e).addr := fun h =>
      engReg_not_pdstat e (h ▸ engReg_offset e (by decide : 4 < 0x1000))
    have hout : decide (R.PMU_PDSTAT < engBase e ∨ engBase e + 0x1000 ≤ R.PMU_PDSTAT) = true := by
      have := engReg_not_pdstat e
      simp only [decide_eq_true_eq]
      omega
    rw [State.powerEng, if_neg Bool.false_ne_true, State.setMode, reg_setF_ne _ _ hne, reg_modEng]
    exact smapGet_filter regReset (fun a => decide (a < engBase e ∨ engBase e + 0x1000 ≤ a)) _ _ hout
  refine ⟨?_, ?_⟩
  · rw [State.powerEng, if_neg Bool.false_ne_true]
    exact mode_setMode _ e (by decide)
  · unfold State.on State.fbit State.f
    rw [show F.PMU_PDSTAT_ON.addr = R.PMU_PDSTAT from rfl, hreg]
    exact on_setOn_false s e

theorem les_setMode (s : State) (e m : Nat) : (s.setMode e m).les = s.les := State.setF_les ..

theorem les_powerEng_false (s : State) (e : Nat) : (s.powerEng e false).les = s.les := by
  rw [State.powerEng, if_neg Bool.false_ne_true]
  refine (les_setMode ..).trans ((State.modEng_les ..).trans ?_)
  exact (State.resetBlock_les ..).trans (State.setFbit_les ..)

theorem eng_powerEng_false_ne (s : State) {e j : Nat} (h : j ≠ e) : (s.powerEng e false).eng j = s.eng j := by
  rw [State.powerEng, if_neg Bool.false_ne_true, eng_setMode, eng_modEng_ne _ _ h]
  rfl

end Sys2Proof.Machine
end

section
/-! ## What firmware makes of a BIST result (R222, R223) -/
namespace Sys2Proof.Machine

/-- No logical engine is installed or waits for an engine, and no role is held for one or waits to be filled: what firmware
makes of the BIST result of an engine turns on the result alone. -/
structure Unneeded (s : State) (e : Nat) : Prop where
  role : (s.eng e).role = .out
  fate : (s.eng e).retiring = 0 ∧ (s.eng e).released = false ∧ (s.eng e).faulted = false ∧ (s.eng e).caseLe = none
  held : s.scu.held = none
  queue : s.stg.queue = []
  punty : s.puntyOf = none
  reserve : s.rolesOf .reserve = []
  les : ∀ l, l < 16 → (s.le l).image = [] ∧ (s.le l).entry = .none

section
variable {s t : State} {e : Nat}

theorem OnlyEvents.les (h : OnlyEvents s t) : t.les = s.les := (congrArg State.les h.rest :)
theorem OnlyEvents.eng (h : OnlyEvents s t) (j : Nat) : t.eng j = s.eng j := by rw [State.eng, h.engs, State.eng]

theorem le_of_les (h : t.les = s.les) (l : Nat) : t.le l = s.le l := by rw [State.le, State.le, h]

/-- An engine that is changed, but not in its role, is as little needed as before. -/
theorem Unneeded.modEng (h : Unneeded s e) (he : e < 17) {g : Engine → Engine} (hr : (g (s.eng e)).role = (s.eng e).role)
    (hf : (g (s.eng e)).retiring = 0 ∧ (g (s.eng e)).released = false ∧ (g (s.eng e)).faulted = false ∧
      (g (s.eng e)).caseLe = none) : Unneeded (s.modEng e g) e where
  role := by rw [eng_modEng_same s e g he, hr, h.role]
  fate := by rw [eng_modEng_same s e g he]; exact hf
  held := h.held
  queue := h.queue
  punty := (congrArg List.head? (rolesOf_modEng s hr .punty)).trans h.punty
  reserve := (rolesOf_modEng s hr .reserve).trans h.reserve
  les := h.les

theorem Unneeded.setF (h : Unneeded s e) (x : Fld) (v : Nat) : Unneeded (s.setF x v) e :=
  ⟨h.role, h.fate, h.held, h.queue, h.punty, h.reserve, h.les⟩

theorem rolesOf_of_engs (h : t.engs = s.engs) (r : Role) : t.rolesOf r = s.rolesOf r := by
  unfold State.rolesOf State.eng
  rw [h]

theorem Unneeded.events (h : Unneeded s e) (ht : OnlyEvents s t) : Unneeded t e where
  role := by rw [ht.eng]; exact h.role
  fate := by rw [ht.eng]; exact h.fate
  held := (congrArg (fun x : State => x.scu.held) ht.rest :).trans h.held
  queue := (congrArg (fun x : State => x.stg.queue) ht.rest :).trans h.queue
  punty := (congrArg List.head? (rolesOf_of_engs ht.engs .punty)).trans h.punty
  reserve := (rolesOf_of_engs ht.engs .reserve).trans h.reserve
  les l hl := by rw [le_of_les ht.les]; exact h.les l hl

/-! ### No logical engine has an image -/

theorem shadowable_of_noImage {l : Nat} (h : (s.le l).image = []) : s.shadowable l = false := by simp [State.shadowable, h]
theorem awaits_of_noImage {x : LogEng} (h : x.image = []) : x.awaits = false := by simp [LogEng.awaits, h]

variable (hi : ∀ l, l < 16 → (s.le l).image = [])
include hi

theorem ownMuted_of_noImage (j : Nat) : s.ownMuted j = none :=
  List.find?_eq_none.mpr fun l hl => by simp [awaits_of_noImage (hi l (List.mem_range.mp hl))]

theorem nextMuted_of_noImage : s.nextMuted = none := by
  have h : (List.range 16).filter (fun l => (s.le l).awaits) = [] :=
    List.filter_eq_nil_iff.mpr fun l hl => by simp [awaits_of_noImage (hi l (List.mem_range.mp hl))]
  rw [State.nextMuted, h]
  rfl

theorem nextShadow_of_noImage (p : Nat) : s.nextShadow p = none := by
  have hs {l : Nat} (hl : l ∈ List.range 16) : s.shadowable l = false := shadowable_of_noImage (hi l (List.mem_range.mp hl))
  have h1 : (List.range 16).find? (fun l => (s.le l).retire && s.shadowable l) = none :=
    List.find?_eq_none.mpr fun l hl => by simp [hs hl]
  have h2 : (List.range 16).find? (fun l => l ∈ s.lehr.forced && s.shadowable l && s.fitsPunty p l) = none :=
    List.find?_eq_none.mpr fun l hl => by simp [hs hl]
  have h3 : s.rotate p = none := by
    have h4 : (List.range 16).find? (fun l => (s.shadowable l && s.fitsPunty p l) && s.uncheckedFor l 23) = none :=
      List.find?_eq_none.mpr fun l hl => by simp [hs hl]
    have h5 : ((List.range 16).map fun i => (s.scu.lastLe + 1 + i) % 16).find? (fun l => s.shadowable l && s.fitsPunty p l) =
        none :=
      List.find?_eq_none.mpr fun l hl => by
        obtain ⟨i, -, rfl⟩ := List.mem_map.mp hl
        simp [hs (List.mem_range.mpr (Nat.mod_lt (s.scu.lastLe + 1 + i) (by decide : 0 < 16)))]
    unfold State.rotate
    dsimp only
    rw [h4]
    exact h5
  unfold State.nextShadow
  rw [h1, h2, h3]
  dsimp only
  split <;> rfl

/-- A clean punty has nothing to shadow. -/
theorem resumeShadow_of_noImage {p : Nat} (hp : s.puntyOf = some p) (hc : s.clean p = true) : s.resumeShadow = s := by
  unfold State.resumeShadow
  rw [hp]
  dsimp only
  rw [if_neg (by simp [hc]), nextShadow_of_noImage hi]
  dsimp only
  split <;> rfl

end

end Sys2Proof.Machine
end

section
/-! ## A BIST result of an engine that nothing needs (R222, R223) -/
namespace Sys2Proof.Machine

section
variable {s : State} {e : Nat}

/-- Nothing of the engine is left over from its last use. -/
def Engine.fresh (en : Engine) : Engine :=
  { en with faulted := false, clearRole := false, cand := false, cause := 0, retiring := 0 }

theorem eng_withScu (s : State) (x : Scu) (j : Nat) : ({ s with scu := x } : State).eng j = s.eng j := rfl
theorem reg_withScu (s : State) (x : Scu) (a : Nat) : ({ s with scu := x } : State).reg a = s.reg a := rfl

/-- A free engine becomes the punty, and PUNTY is held for none (R222). -/
def State.takePunty (s : State) (e : Nat) : State :=
  { ((s.modEng e Engine.fresh).setMode e 1).makePunty e with scu := { (s.modEng e Engine.fresh).scu with held := none } }

theorem freeEngine_unneeded (h : Unneeded s e) (he : e < 17) : s.freeEngine e = s.takePunty e := by
  obtain ⟨hret, hrel, -, hcase⟩ := h.fate
  have h' : Unneeded (s.modEng e Engine.fresh) e := h.modEng he rfl ⟨rfl, hrel, rfl, hcase⟩
  have hboot : (s.modEng e Engine.fresh).booting = false := by
    rw [State.booting, h'.queue]
    exact Bool.and_false _
  have hi : ∀ l, l < 16 → ((s.modEng e Engine.fresh).le l).image = [] := fun l hl => (h'.les l hl).1
  unfold State.freeEngine
  dsimp only
  rw [if_neg (by simp [hret])]
  show (if (s.modEng e Engine.fresh).booting = true then _ else _) = _
  rw [hboot, if_neg Bool.false_ne_true]
  show (match ((s.modEng e Engine.fresh).ownMuted e).or (s.modEng e Engine.fresh).nextMuted with | some l => _ | none => _) = _
  rw [ownMuted_of_noImage hi, nextMuted_of_noImage hi]
  dsimp only [Option.or]
  rw [if_pos ⟨congrArg Option.isNone h'.punty, .inl (congrArg Option.isNone h'.held)⟩]
  rfl

theorem eng_takePunty (s : State) (he : e < 17) : (s.takePunty e).eng e = { (s.eng e).fresh with role := .punty } := by
  rw [State.takePunty, eng_withScu, State.makePunty, eng_setF, State.setRole, eng_modEng_same _ e _ he,
    eng_setMode, eng_modEng_same s e _ he]

theorem eng_takePunty_ne (s : State) {j : Nat} (h : j ≠ e) : (s.takePunty e).eng j = s.eng j := by
  rw [State.takePunty, eng_withScu, State.makePunty, eng_setF, State.setRole, eng_modEng_ne _ _ h,
    eng_setMode, eng_modEng_ne s _ h]

theorem les_takePunty (s : State) (e : Nat) : (s.takePunty e).les = s.les := by
  unfold State.takePunty State.makePunty State.setRole
  dsimp only
  rw [State.setF_les, State.modEng_les, les_setMode, State.modEng_les]

/-- The engine is the only one that holds PUNTY. -/
theorem puntyOf_takePunty (h : s.puntyOf = none) (he : e < 17) : (s.takePunty e).puntyOf = some e := by
  have hnone : ∀ j, j < 17 → (s.eng j).role ≠ .punty := fun j hj hr => by
    rw [State.puntyOf, List.head?_eq_none_iff, State.rolesOf, List.filter_eq_nil_iff] at h
    exact h j (List.mem_range.mpr hj) (by simp [hr])
  rw [State.puntyOf, State.rolesOf, List.head?_filter, List.find?_range_eq_some]
  refine ⟨by simp [eng_takePunty s he], List.mem_range.mpr he, fun j hj => ?_⟩
  have := hnone j (hj.trans he)
  simp [eng_takePunty_ne s (Nat.ne_of_lt hj), this]

/-- The engine's record of its retirement and its open case are cleared when it passes (R240). -/
def Engine.passed (en : Engine) : Engine := { en with released := false, caseLe := none }

/-- R222: a clean engine that passes becomes the punty. -/
theorem bistResult_pass (h : Unneeded s e) (he : e < 17) (hd : (s.eng e).dirty = false) :
    s.bistResult e true = (s.modEng e Engine.passed).takePunty e := by
  obtain ⟨hret, hrel, hfault, hcase⟩ := h.fate
  have h' : Unneeded (s.modEng e Engine.passed) e := h.modEng he rfl ⟨hret, rfl, hfault, rfl⟩
  have hload : (List.range 16).any (fun l => decide ((s.le l).entry = .loading e)) = false :=
    List.any_eq_false.mpr fun l hl => by simp [(h.les l (List.mem_range.mp hl)).2]
  have hfree : s.bistResult e true = ((s.modEng e Engine.passed).freeEngine e).resumeShadow := by
    unfold State.bistResult
    dsimp only
    rw [h.role, if_neg (by decide), if_neg (by simp), hload, if_neg (by simp), if_neg (by simp), hret, if_neg (by simp), hcase]
    dsimp only
    rw [modEng_modEng]
    show (match (s.modEng e Engine.passed).scu.held.filter (fun x => x.1 = e) with | some (_, l) => _ | none => _) = _
    rw [h'.held]
    rfl
  have hi : ∀ l, l < 16 → (((s.modEng e Engine.passed).takePunty e).le l).image = [] := fun l hl => by
    rw [le_of_les (les_takePunty _ e)]
    exact (h'.les l hl).1
  have hclean : ((s.modEng e Engine.passed).takePunty e).clean e = true := by
    rw [State.clean, eng_takePunty _ he, eng_modEng_same s e _ he]
    simpa [Engine.fresh, Engine.passed] using hd
  rw [hfree, freeEngine_unneeded h' he]
  exact resumeShadow_of_noImage hi (puntyOf_takePunty h'.punty he) hclean

end

end Sys2Proof.Machine
end

section
/-! ## A BIST result of an engine that fails (R223) -/
namespace Sys2Proof.Machine

section
variable {s t : State} {e : Nat}

theorem mode_modEng (s : State) (e : Nat) (g : Engine → Engine) (j : Nat) : (s.modEng e g).mode j = s.mode j := rfl
theorem on_modEng (s : State) (e : Nat) (g : Engine → Engine) (j : Nat) : (s.modEng e g).on j = s.on j := rfl

/-- An engine in the cullet with its domain off (R223). -/
structure Culled (t : State) (e : Nat) : Prop where
  role : (t.eng e).role = .cullet ∧ (t.eng e).cause = 1
  off : t.mode e = 0 ∧ t.on e = false

theorem Culled.events (h : Culled s e) (ht : OnlyEvents s t) : Culled t e where
  role := by rw [ht.eng]; exact h.role
  off := by
    obtain ⟨hm, ho⟩ := h.off
    refine ⟨(ht.f (engReg_not_bell (engReg_offset e (by decide : 4 < 0x1000)))).trans hm, ?_⟩
    rw [State.on, State.fbit, ht.f (by decide)]
    exact ho

theorem Culled.modEng (h : Culled s e) (he : e < 17) {g : Engine → Engine}
    (hg : (g (s.eng e)).role = (s.eng e).role ∧ (g (s.eng e)).cause = (s.eng e).cause) : Culled (s.modEng e g) e where
  role := by rw [eng_modEng_same s e g he, hg.1, hg.2]; exact h.role
  off := by rw [mode_modEng, on_modEng]; exact h.off

theorem onlyEvents_noSpare (s : State) : OnlyEvents s s.noSpare := by
  unfold State.noSpare
  split
  · exact onlyEvents_raise ..
  · exact .refl s

/-- The engine is off, and the engine map says why. -/
def State.inCullet (s : State) (e cause : Nat) : State :=
  (s.powerEng e false).modEng e fun en =>
    { en with role := .cullet, cause := cause, cand := false, released := false, retiring := 0 }

theorem onlyEvents_cullEngine (s : State) (e cause : Nat) : OnlyEvents (s.inCullet e cause) (s.cullEngine e cause) :=
  (onlyEvents_raise ..).trans (onlyEvents_noSpare _)

theorem culled_inCullet (s : State) (he : e < 17) : Culled (s.inCullet e 1) e where
  role := by
    rw [State.inCullet, eng_modEng_same _ e _ he]
    exact ⟨rfl, rfl⟩
  off := by
    rw [State.inCullet, mode_modEng, on_modEng]
    exact powerEng_false_shows s e

theorem les_inCullet (s : State) (e cause : Nat) : (s.inCullet e cause).les = s.les := by
  rw [State.inCullet, State.modEng_les, les_powerEng_false]

theorem reserve_inCullet (h : s.rolesOf .reserve = []) (cause : Nat) : (s.inCullet e cause).rolesOf .reserve = [] := by
  rw [State.rolesOf, List.filter_eq_nil_iff] at h ⊢
  intro j hj
  by_cases hje : j = e
  · subst hje
    simp [State.inCullet, eng_modEng_same _ j _ (List.mem_range.mp hj)]
  · rw [State.inCullet, eng_modEng_ne _ _ hje, eng_powerEng_false_ne s hje]
    exact h j hj

/-- Without an engine in RESERVE, a vacant PUNTY stays vacant (R222). -/
theorem fillPunty_of_noReserve (h : s.rolesOf .reserve = []) : s.fillPunty = s := by
  unfold State.fillPunty
  rw [h]
  split <;> rfl

/-- The engine's case is closed. -/
def Engine.caseClosed (en : Engine) : Engine := { en with caseLe := none }

theorem Engine.role_caseClosed (en : Engine) : en.caseClosed.role = en.role := rfl
theorem Engine.cause_caseClosed (en : Engine) : en.caseClosed.cause = en.cause := rfl

/-- An engine that failed BIST: in the cullet, and its case closed. -/
def State.bistFailed (s : State) (e : Nat) : State := (s.cullEngine e 1).modEng e Engine.caseClosed

theorem culled_bistFailed (s : State) (he : e < 17) : Culled (s.bistFailed e) e :=
  ((culled_inCullet s he).events (onlyEvents_cullEngine s e 1)).modEng he
    ⟨Engine.role_caseClosed _, Engine.cause_caseClosed _⟩

theorem les_bistFailed (s : State) (e : Nat) : (s.bistFailed e).les = s.les := by
  rw [State.bistFailed, State.modEng_les, (onlyEvents_cullEngine s e 1).les, les_inCullet]

theorem reserve_bistFailed (h : s.rolesOf .reserve = []) (e : Nat) : (s.bistFailed e).rolesOf .reserve = [] := by
  rw [State.bistFailed, rolesOf_modEng _ (Engine.role_caseClosed _), rolesOf_of_engs (onlyEvents_cullEngine s e 1).engs]
  exact reserve_inCullet h 1

/-- R223: an engine that fails goes to the cullet. -/
theorem bistResult_fail (h : Unneeded s e) : s.bistResult e false = s.bistFailed e := by
  obtain ⟨hret, hrel, hfault, hcase⟩ := h.fate
  have hload : (List.range 16).filter (fun l => decide ((s.le l).entry = .loading e)) = [] :=
    List.filter_eq_nil_iff.mpr fun l hl => by simp [(h.les l (List.mem_range.mp hl)).2]
  have hi : ∀ l, l < 16 → ((s.bistFailed e).le l).image = [] := fun l hl => by
    rw [le_of_les (les_bistFailed s e)]
    exact (h.les l hl).1
  have hnone := ownMuted_of_noImage hi e
  have hfill : s.bistResult e false = (s.bistFailed e).fillPunty := by
    unfold State.bistFailed Engine.caseClosed at hnone ⊢
    simp only [State.bistResult, h.role, hload, forEach_nil, hrel, hret, hfault, hcase, h.held, hnone,
      Option.filter_none, Option.isSome_none, Bool.not_false, reduceCtorEq, reduceIte, Bool.false_eq_true, false_and,
      ne_eq, not_true_eq_false, and_false]
  rw [hfill]
  exact fillPunty_of_noReserve (reserve_bistFailed h.reserve e)

end

end Sys2Proof.Machine
end

section
/-! ## The end of BIST (R104) -/
namespace Sys2Proof.Machine

/-- BIST leaves every memory of an engine zero, and counts (R104). -/
def Engine.bisted (en : Engine) : Engine :=
  { en.cleared with prog := [], progSh := [], coef := [], coefSh := [], win := [], winBack := [], outs := []
                    bad := [], soft := [], dirty := false, bistTotal := en.bistTotal + 1 }

/-- The result of BIST: DONE, PASS, FAILMAP and RUNS. -/
def State.bistShown (s : State) (e failmap : Nat) : State :=
  (((s.setF (F.ENG_BIST_DONE e) 1).setF (F.ENG_BIST_PASS e) (b2n (decide (failmap = 0)))).setF
    (F.ENG_BIST_FAILMAP e) failmap).sat (F.ENG_BIST_RUNS e) 1

/-- The engine is OUT again, before firmware hears of it. -/
def State.bistEnded (s : State) (e failmap : Nat) : State :=
  (((s.bistShown e failmap).modEng e Engine.bisted).setMode e 1).setF (F.ENG_STAT_BUSY e) 0

/-- Firmware has heard of the end of BIST (R104). -/
def State.bistTold (s : State) (e failmap : Nat) : State :=
  (s.bistEnded e failmap).raise 0x0303
    ([BitVec.ofNat 8 e, BitVec.ofNat 8 (b2n (decide (failmap = 0))), 0, 0] ++ leBytes 4 failmap)

/-- What an engine shows whose BIST has ended. -/
structure Bisted (t : State) (e failmap runs : Nat) : Prop where
  mode : t.mode e = 1
  idle : t.b (F.ENG_STAT_BUSY e) = false
  done : t.b (F.ENG_BIST_DONE e) = true
  pass : t.b (F.ENG_BIST_PASS e) = decide (failmap = 0)
  failmap : t.f (F.ENG_BIST_FAILMAP e) = failmap
  runs : t.f (F.ENG_BIST_RUNS e) = min (runs + 1) 255

section
variable {s t : State} {e failmap n : Nat}

theorem Bisted.of_regs (h : Bisted s e failmap n) (hs : t.reg (R.ENG_STAT e) = s.reg (R.ENG_STAT e))
    (hb : t.reg (R.ENG_BIST e) = s.reg (R.ENG_BIST e)) : Bisted t e failmap n where
  mode := (f_of_reg (x := F.ENG_STAT_MODE e) hs).trans h.mode
  idle := (b_of_reg (x := F.ENG_STAT_BUSY e) hs).trans h.idle
  done := (b_of_reg (x := F.ENG_BIST_DONE e) hb).trans h.done
  pass := (b_of_reg (x := F.ENG_BIST_PASS e) hb).trans h.pass
  failmap := (f_of_reg (x := F.ENG_BIST_FAILMAP e) hb).trans h.failmap
  runs := (f_of_reg (x := F.ENG_BIST_RUNS e) hb).trans h.runs

theorem eng_bistEnded (s : State) (he : e < 17) (failmap : Nat) : (s.bistEnded e failmap).eng e = (s.eng e).bisted := by
  rw [State.bistEnded, eng_setF, eng_setMode, eng_modEng_same _ e _ he, State.bistShown, State.sat, eng_setF, eng_setF,
    eng_setF, eng_setF]

theorem reg_bistEnded (s : State) (e failmap : Nat) :
    (s.bistEnded e failmap).reg (R.ENG_BIST e) = (s.bistShown e failmap).reg (R.ENG_BIST e) := by
  rw [State.bistEnded, reg_setF_ne _ 0 (engReg_ne (by decide)), State.setMode, reg_setF_ne _ 1 (engReg_ne (by decide)),
    reg_modEng]

theorem bistShown_shows (s : State) (e : Nat) (hm : failmap < 2 ^ 13) :
    (s.bistShown e failmap).b (F.ENG_BIST_DONE e) = true ∧
    (s.bistShown e failmap).b (F.ENG_BIST_PASS e) = decide (failmap = 0) ∧
    (s.bistShown e failmap).f (F.ENG_BIST_FAILMAP e) = failmap ∧
    (s.bistShown e failmap).f (F.ENG_BIST_RUNS e) = min (s.f (F.ENG_BIST_RUNS e) + 1) 255 := by
  have hruns : (((s.setF (F.ENG_BIST_DONE e) 1).setF (F.ENG_BIST_PASS e) (b2n (decide (failmap = 0)))).setF
      (F.ENG_BIST_FAILMAP e) failmap).f (F.ENG_BIST_RUNS e) = s.f (F.ENG_BIST_RUNS e) :=
    (f_setF_ne _ _ (fldOk (by decide)) (apart_of_bits (by decide))).trans
      ((f_setF_ne _ _ (fldOk (by decide)) (apart_of_bits (by decide))).trans
        (f_setF_ne _ _ (fldOk (by decide)) (apart_of_bits (by decide))))
  refine ⟨?_, ?_, ?_, ?_⟩
  · exact (b_setF_ne _ _ (fldOk (by decide)) (apart_of_bits (by decide))).trans
      ((b_setF_ne _ _ (fldOk (by decide)) (apart_of_bits (by decide))).trans
        ((b_setF_ne _ _ (fldOk (by decide)) (apart_of_bits (by decide))).trans (b_setF_one _ _ (fldOk (by decide)))))
  · refine (b_setF_ne _ _ (fldOk (by decide)) (apart_of_bits (by decide))).trans
      ((b_setF_ne _ _ (fldOk (by decide)) (apart_of_bits (by decide))).trans ((b_setF_bit _ _ (by decide)).trans ?_))
    cases decide (failmap = 0) <;> rfl
  · exact (f_setF_ne _ _ (fldOk (by decide)) (apart_of_bits (by decide))).trans
      ((f_setF_same _ _ _ (fldOk (by decide))).trans (Nat.mod_eq_of_lt hm))
  · refine (f_setF_same _ _ _ (fldOk (by decide))).trans ?_
    rw [hruns]
    show min _ 255 % 256 = _
    omega

theorem bisted_bistEnded (s : State) (e : Nat) (hm : failmap < 2 ^ 13) :
    Bisted (s.bistEnded e failmap) e failmap (s.f (F.ENG_BIST_RUNS e)) := by
  obtain ⟨hd, hp, hf, hr⟩ := bistShown_shows s e hm
  have hreg := reg_bistEnded s e failmap
  refine ⟨?_, b_setF_zero _ _ (fldOk (by decide)), ?_, ?_, ?_, ?_⟩
  · exact (f_setF_ne _ 0 (fldOk (by decide)) (apart_of_bits (by decide))).trans (mode_setMode _ e (by decide))
  · exact (b_of_reg (x := F.ENG_BIST_DONE e) hreg).trans hd
  · exact (b_of_reg (x := F.ENG_BIST_PASS e) hreg).trans hp
  · exact (f_of_reg (x := F.ENG_BIST_FAILMAP e) hreg).trans hf
  · exact (f_of_reg (x := F.ENG_BIST_RUNS e) hreg).trans hr

theorem Unneeded.bisted (h : Unneeded s e) (he : e < 17) : Unneeded (s.modEng e Engine.bisted) e := h.modEng he rfl h.fate

theorem Unneeded.bistEnded (h : Unneeded s e) (he : e < 17) (failmap : Nat) : Unneeded (s.bistEnded e failmap) e := by
  have h' : Unneeded (s.bistShown e failmap) e := (((h.setF _ _).setF _ _).setF _ _).setF _ _
  rw [State.bistEnded, State.setMode]
  exact ((h'.bisted he).setF _ _).setF _ _

/-- What the new punty shows in its other registers: nothing new (R222). -/
theorem reg_takePunty (s : State) {e a : Nat} (h : a ≠ R.ENG_STAT e) (h' : a ≠ R.ENG_CTRL e) :
    (s.takePunty e).reg a = s.reg a := by
  rw [State.takePunty, reg_withScu, State.makePunty, reg_setF_ne _ _ h', State.setRole, reg_modEng, State.setMode,
    reg_setF_ne _ _ h, reg_modEng]

/-- Its status is that of an engine in OUT. -/
theorem stat_takePunty (s : State) (e : Nat) :
    (s.takePunty e).reg (R.ENG_STAT e) = ((s.modEng e Engine.fresh).setMode e 1).reg (R.ENG_STAT e) := by
  rw [State.takePunty, reg_withScu, State.makePunty, reg_setF_ne _ _ (engReg_ne (by decide)), State.setRole, reg_modEng]

/-- The new punty shows the result still (R222). -/
theorem Bisted.takePunty (h : Bisted s e failmap n) : Bisted (s.takePunty e) e failmap n := by
  have hs := stat_takePunty s e
  have hb : (s.takePunty e).reg (R.ENG_BIST e) = s.reg (R.ENG_BIST e) :=
    reg_takePunty s (engReg_ne (by decide)) (engReg_ne (by decide))
  have hidle : ((s.modEng e Engine.fresh).setMode e 1).b (F.ENG_STAT_BUSY e) = false :=
    (b_setF_ne _ 1 (fldOk (by decide)) (apart_of_bits (by decide))).trans h.idle
  exact {
    mode := (f_of_reg (x := F.ENG_STAT_MODE e) hs).trans (mode_setMode _ e (by decide))
    idle := (b_of_reg (x := F.ENG_STAT_BUSY e) hs).trans hidle
    done := (b_of_reg (x := F.ENG_BIST_DONE e) hb).trans h.done
    pass := (b_of_reg (x := F.ENG_BIST_PASS e) hb).trans h.pass
    failmap := (f_of_reg (x := F.ENG_BIST_FAILMAP e) hb).trans h.failmap
    runs := (f_of_reg (x := F.ENG_BIST_RUNS e) hb).trans h.runs }

end

theorem withActs_self {s : State} {e : Nat} {as : List Nat} (he : e < 17) (h : (s.eng e).acts = as) : s.withActs e as = s :=
  modEng_eq_self he (congrArg (fun as => { s.eng e with acts := as }) h.symm)

section
variable {s : State} {e : Eng} {failmap : Nat}

theorem onlyEvents_bistTold (s : State) (e failmap : Nat) : OnlyEvents (s.bistEnded e failmap) (s.bistTold e failmap) :=
  onlyEvents_raise ..

theorem eng_bistTold (s : State) (e : Eng) (failmap : Nat) : (s.bistTold e failmap).eng e = (s.eng e).bisted :=
  ((onlyEvents_bistTold s e failmap).eng e).trans (eng_bistEnded s e.isLt failmap)

theorem bisted_bistTold (s : State) (e : Nat) (hm : failmap < 2 ^ 13) :
    Bisted (s.bistTold e failmap) e failmap (s.f (F.ENG_BIST_RUNS e)) :=
  (bisted_bistEnded s e hm).of_regs
    ((onlyEvents_bistTold s e failmap).regs _ (engReg_not_bell (engReg_offset e (by decide : 4 < 0x1000))))
    ((onlyEvents_bistTold s e failmap).regs _ (engReg_not_bell (engReg_offset e (by decide : 0x1C < 0x1000))))

/-- Firmware decides on a clean engine that has nothing else to do (R104). -/
theorem goOn_decision (ha : (s.eng e).acts = [4]) (hb : s.b (F.ENG_STAT_BUSY e) = false) (hd : (s.eng e).dirty = false) :
    s.goOn e = (s.withActs e []).bistResult e (s.b (F.ENG_BIST_PASS e)) := by
  have hc : (s.withActs e []).clean e = true := by
    rw [State.clean, eng_withActs s _ e.isLt]
    exact congrArg not hd
  rw [State.goOn, nextAct_decision ha, State.decideBist, if_pos ⟨ha, hb⟩]
  exact if_pos hc

/-- Firmware hears of the end of BIST and decides (R104). -/
theorem bistDone_decides (hm : s.mode e = 5) (hl : s.b (F.ENG_CLKST_LOCK e) = true) (ha : (s.eng e).acts = [])
    (hf : failmap < 2 ^ 13) : s.bistDone e failmap = (s.bistTold e failmap).bistResult e (decide (failmap = 0)) := by
  have hE := eng_bistTold s e failmap
  have hA : ((s.bistTold e failmap).eng e).acts = [] := by rw [hE]; exact ha
  have hD : ((s.bistTold e failmap).eng e).dirty = false := by rw [hE]; rfl
  have hB := bisted_bistTold s e hf
  have hacts : ((s.bistTold e failmap).modEng e fun en =>
      { en with acts := (if failmap = 0 then en.acts else []) ++ [4] }) = (s.bistTold e failmap).withActs e [4] :=
    modEng_congr e.isLt (by rw [hA, ite_self]; rfl)
  have hbist : s.bistDone e failmap = ((s.bistTold e failmap).withActs e [4]).goOn e := by
    rw [← hacts, State.bistDone, if_pos ⟨hm, hl⟩]
    rfl
  have hW := eng_withActs (s.bistTold e failmap) [4] e.isLt
  rw [hbist, goOn_decision (congrArg Engine.acts hW) ((b_withActs ..).trans hB.idle) ((congrArg Engine.dirty hW).trans hD),
    withActs_withActs, withActs_self e.isLt hA, b_withActs, hB.pass]

end

/-- The end of BIST with a pass: the engine is the punty, with every memory zero. -/
theorem execBistDone_pass {s : State} {e : Eng} (hm : s.mode e = 5) (hl : s.b (F.ENG_CLKST_LOCK e) = true)
    (ha : (s.eng e).acts = []) (h : Unneeded s e) :
    ∃ t, exec (.bistDone e 0) s = .next t ∧ Bisted t e 0 (s.f (F.ENG_BIST_RUNS e)) ∧
      t.eng e = { (s.eng e).bisted.passed.fresh with role := .punty } := by
  have hE := eng_bistTold s e 0
  have hU := (h.bistEnded e.isLt 0).events (onlyEvents_bistTold s e 0)
  have hdirty : ((s.bistTold e 0).eng e).dirty = false := by rw [hE]; rfl
  have hrun : s.bistDone e 0 = ((s.bistTold e 0).modEng e Engine.passed).takePunty e :=
    (bistDone_decides hm hl ha (by decide)).trans (bistResult_pass hU e.isLt hdirty)
  refine ⟨_, congrArg Host.Outcome.next hrun, ?_, ?_⟩
  · exact ((bisted_bistTold s e (by decide)).of_regs (reg_modEng ..) (reg_modEng ..)).takePunty
  · rw [eng_takePunty _ e.isLt, eng_modEng_same _ e _ e.isLt, hE]

/-- The end of BIST with a failure: the engine is in the cullet, and off. -/
theorem execBistDone_fail {s : State} {e : Eng} {failmap : BitVec 13} (hm : s.mode e = 5)
    (hl : s.b (F.ENG_CLKST_LOCK e) = true) (ha : (s.eng e).acts = []) (h : Unneeded s e) (hf : failmap ≠ 0) :
    ∃ t, exec (.bistDone e failmap) s = .next t ∧ Culled t e := by
  have hne : failmap.toNat ≠ 0 := fun h0 => hf (BitVec.eq_of_toNat_eq h0)
  have hU := (h.bistEnded e.isLt failmap.toNat).events (onlyEvents_bistTold s e failmap.toNat)
  have hrun : s.bistDone e failmap.toNat = (s.bistTold e failmap.toNat).bistFailed e := by
    rw [bistDone_decides hm hl ha failmap.isLt, decide_eq_false hne]
    exact bistResult_fail hU
  exact ⟨_, congrArg Host.Outcome.next hrun, culled_bistFailed _ e.isLt⟩

end Sys2Proof.Machine

open Sys2Proof Sys2Proof.Machine

/-- Settles O7: what each action of CTRL begins, what the end of CLEAR and of BIST leaves, and what a test pass leaves at
its END or at its limit. -/
theorem engineActionsBistAndTestPasses : Obligations.EngineActionsBistAndTestPasses := by
  unfold Obligations.EngineActionsBistAndTestPasses
  refine ⟨fun e s hm => ⟨fun hs hb => ?_, fun h => ?_⟩, fun e s hm hc ha hl => ?_, fun e failmap s hm hl ha hrole hret hrel
    hfault hheld hcase hpunty hres hq hles => ?_, fun e s ha hN => ⟨fun k h hs hm hb hn hl hw => ?_, fun hm hb hp => ?_⟩⟩
  · have ht : TakesActs s e := ⟨hs, hb, hm⟩
    exact ⟨execEngSwap_swaps ht, execEngClear_begins ht, execBistGo_begins ht⟩
  · exact ⟨congrArg Host.Outcome.next (ctrlActs_ignored h _), congrArg Host.Outcome.next (ctrlActs_ignored h _),
      congrArg Host.Outcome.next (ctrlActs_ignored h _)⟩
  · obtain ⟨t, hx, hmode, hbusy, hE, hothers, hreg⟩ := execClearDone_ends hm hc ha hl
    have hzero : (t.eng e).st = [] ∧ (t.eng e).tile = [] ∧ (t.eng e).lr = [] ∧ (t.eng e).lw = [] := by
      rw [hE]
      exact ⟨rfl, rfl, rfl, rfl⟩
    obtain ⟨hst, htile, hlr, hlw⟩ := hzero
    refine ⟨t, hx, hmode, hbusy, fun w => by rw [hst]; rfl, fun w => by rw [htile]; rfl, fun w => by rw [hlr]; rfl,
      fun w => by rw [hlw]; rfl, ?_, ?_, ?_, ?_, ?_, hothers, hreg⟩ <;> rw [hE] <;> rfl
  · have h : Unneeded s e := ⟨hrole, ⟨hret, hrel, hfault, hcase⟩, hheld, hq, hpunty, hres, fun l hl' =>
      ⟨(hles l hl').1, (hles l hl').2.1⟩⟩
    refine ⟨?_, fun hf => ?_⟩
    · rintro rfl
      obtain ⟨t, hx, hB, hE⟩ := execBistDone_pass hm hl ha h
      refine ⟨t, hx, ?_, hB.mode, hB.idle, hB.done, hB.pass, hB.failmap, hB.runs, ?_, ?_, ?_, ?_, ?_, ?_, ?_, ?_,
        ?_, ?_, ?_⟩ <;> rw [hE] <;> rfl
    · obtain ⟨t, hx, ⟨hr, hcause⟩, hoff, hon⟩ := execBistDone_fail hm hl ha h hf
      exact ⟨t, hx, hr, hcause, hoff, hon⟩
  · obtain ⟨t, hx, ⟨hmode, hidle, hdone, hcount, hbusy, htest⟩, httier⟩ :=
      execTestPass_ends ⟨hs, hb, hm⟩ hn hl hw hN
    exact ⟨t, hx, ⟨hmode, hidle, hdone, hcount, hbusy, htest⟩, httier⟩
  · obtain ⟨t, hx, ⟨hmode, hidle, hdone, hcount, hbusy, htest⟩, hlim⟩ := execTestPassLimit_stops ha hN hm hb hp
    exact ⟨t, hx, ⟨hmode, hidle, hdone, hcount, hbusy, htest⟩, hlim⟩

end

section
/-! ## The long delay store: halves and the scrubber -/
namespace Sys2Proof.Machine

/-! ### Counters, power bits and filtered memories -/

/-- A counter rises by a number and stops at its maximum. -/
theorem f_sat_same (s : State) (x : Fld) (n : Nat) (hx : x.ok) :
    (s.sat x n).f x = min (s.f x + n) (2 ^ (x.hi + 1 - x.lo) - 1) := by
  have hpos : 0 < 2 ^ (x.hi + 1 - x.lo) := by positivity
  rw [State.sat, f_setF_same s x _ hx, Nat.mod_eq_of_lt (by omega)]

/-- A power domain that is switched on is on (R218). -/
theorem on_setOn_true (s : State) {pd : Nat} (h : pd < 26) : (s.setOn pd true).on pd = true := by
  have hbit : (s.f F.PMU_PDSTAT_ON - b2n (s.fbit F.PMU_PDSTAT_ON pd) * 2 ^ pd).testBit pd = false :=
    testBit_sub_bit _ pd
  rw [State.on, State.fbit, State.setOn, State.setFbit, f_setF_same s F.PMU_PDSTAT_ON _ (fldOk (by decide)),
    Nat.testBit_mod_two_pow, Nat.add_comm _ (b2n true * 2 ^ pd), show b2n true * 2 ^ pd = 2 ^ pd by simp [b2n],
    Nat.testBit_two_pow_add_eq, hbit]
  simpa [F.PMU_PDSTAT_ON] using h

theorem on_of_reg {s t : State} (h : t.reg R.PMU_PDSTAT = s.reg R.PMU_PDSTAT) (pd : Nat) : t.on pd = s.on pd := by
  rw [State.on, State.fbit, f_of_reg (x := F.PMU_PDSTAT_ON) h, State.on, State.fbit]

/-- A write of registers leaves the words of the LDS and the engines alone. -/
theorem OnlyRegs.ldsWords {s t : State} {as : List Nat} (h : OnlyRegs s t as) :
    t.lds = s.lds ∧ t.ldsBad = s.ldsBad ∧ t.ldsSoft = s.ldsSoft :=
  ⟨(congrArg State.lds h.1 :), (congrArg State.ldsBad h.1 :), (congrArg State.ldsSoft h.1 :)⟩

theorem OnlyRegs.engs {s t : State} {as : List Nat} (h : OnlyRegs s t as) : t.engs = s.engs := (congrArg State.engs h.1 :)

/-- A memory of which some words were dropped reads 0 there and is as it was elsewhere. -/
theorem memGet_filter {w : Nat} (keep : Nat → Bool) (m : List (Nat × BitVec w)) (k : Nat) :
    memGet (m.filter fun p => keep p.1) k = if keep k = true then memGet m k else 0 := by
  split
  case isTrue h => exact smapGet_filter _ keep m k h
  case isFalse h =>
    refine smapGet_of_not_mem _ _ k fun p hp hk => h ?_
    exact hk ▸ (List.mem_filter.1 hp).2

theorem mem_delNat {l : List Nat} {n k : Nat} : k ∈ delNat l n ↔ k ∈ l ∧ k ≠ n := by simp [delNat]

/-! ### Halves of the LDS (R139) -/

section
variable {s t : State} (b : Bool)

theorem half_of_reg (h : t.reg R.LDS_STAT = s.reg R.LDS_STAT) (k : Nat) : t.half k = s.half k := by
  rw [State.half, f_of_reg (x := F.LDS_STAT_HAST) h, f_of_reg (x := F.LDS_STAT_HBST) h, State.half]

theorem half_setHalf_same (s : State) {v : Nat} (h : v < 4) : (s.setHalf (b2n b) v).half (b2n b) = v := by
  cases b with
  | false => exact (f_setF_same s F.LDS_STAT_HAST v (by decide)).trans (Nat.mod_eq_of_lt h)
  | true => exact (f_setF_same s F.LDS_STAT_HBST v (by decide)).trans (Nat.mod_eq_of_lt h)

theorem half_setHalf_other (s : State) (v : Nat) : (s.setHalf (b2n b) v).half (1 - b2n b) = s.half (1 - b2n b) := by
  cases b with
  | false => exact f_setF_ne s (x := F.LDS_STAT_HAST) (y := F.LDS_STAT_HBST) v (by decide) (by decide)
  | true => exact f_setF_ne s (x := F.LDS_STAT_HBST) (y := F.LDS_STAT_HAST) v (by decide) (by decide)

theorem onlyRegs_setHalf (s : State) (v : Nat) : OnlyRegs s (s.setHalf (b2n b) v) [R.LDS_STAT] := by
  cases b with
  | false => exact (OnlyRegs.refl s _).setF F.LDS_STAT_HAST v (.head _)
  | true => exact (OnlyRegs.refl s _).setF F.LDS_STAT_HBST v (.head _)

/-- The request bit of a half is set. -/
def State.requested (s : State) (b : Bool) : State := s.setF (if b2n b = 0 then F.LDS_CTRL_HAREQ else F.LDS_CTRL_HBREQ) 1

theorem requestFld_addr : (if b2n b = 0 then F.LDS_CTRL_HAREQ else F.LDS_CTRL_HBREQ).addr = R.LDS_CTRL := by
  cases b <;> rfl

theorem requested_reg (s : State) :
    (s.requested b).reg R.LDS_CTRL = wordSet (s.reg R.LDS_CTRL) (b2n b) (b2n b) 1 := by
  cases b with
  | false => exact reg_setReg_same s _ _
  | true => exact reg_setReg_same s _ _

theorem onlyRegs_requested (s : State) : OnlyRegs s (s.requested b) [R.LDS_CTRL] :=
  (OnlyRegs.refl s _).setF _ 1 (List.mem_singleton.2 (requestFld_addr b))

theorem half_requested (s : State) (k : Nat) : (s.requested b).half k = s.half k :=
  half_of_reg ((onlyRegs_requested b s).2 _ (by decide)) k

theorem fbit_requested (s : State) : (s.requested b).fbit ⟨R.LDS_CTRL, 1, 0⟩ (b2n b) = true := by
  have hbit : ((s.requested b).reg R.LDS_CTRL).toNat.testBit (b2n b) = true := by
    rw [requested_reg, testBit_wordSet _ _ _ _ _ (by cases b <;> decide), if_pos ⟨le_rfl, le_rfl⟩, Nat.sub_self]
    rfl
  have hlt : b2n b < 2 := by cases b <;> decide
  rw [State.fbit, State.f, testBit_wordFld, Nat.zero_add, hbit]
  simpa using hlt

/-- A half that is OFF starts to clear: its request bit and its domain's bit set. -/
theorem startHalf_off (h : s.half (b2n b) = 0) :
    s.startHalf (b2n b) = ((s.requested b).setOn (17 + b2n b) true).setHalf (b2n b) 1 :=
  if_pos ((half_requested b s _).trans h)

theorem startHalf_on (h : s.half (b2n b) ≠ 0) : s.startHalf (b2n b) = s.requested b :=
  if_neg fun h0 => h ((half_requested b s _).symm.trans h0)

theorem execHalfRequest_starts (hs : s.on 21 = true) (h : s.half (b2n b) = 0) :
    ∃ t, exec (.halfRequest b) s = .next t ∧ t.half (b2n b) = 1 ∧ t.on (17 + b2n b) = true ∧
      t.fbit ⟨R.LDS_CTRL, 1, 0⟩ (b2n b) = true ∧ t.half (1 - b2n b) = s.half (1 - b2n b) ∧
      { t with regs := s.regs } = s := by
  set u := (s.requested b).setOn (17 + b2n b) true with hu
  have hu_reg (a : Nat) (ha : a ≠ R.PMU_PDSTAT) : u.reg a = (s.requested b).reg a := reg_setF_ne _ _ ha
  obtain ⟨hrest, hreg⟩ := onlyRegs_setHalf b u 1
  refine ⟨u.setHalf (b2n b) 1, ?_, half_setHalf_same b u (by decide), ?_, ?_, ?_, ?_⟩
  · rw [exec_halfRequest, execHalfRequest, if_pos hs, startHalf_off b h]
  · have hpd : 17 + b2n b < 26 := by cases b <;> decide
    exact (on_of_reg (hreg _ (by decide)) _).trans (on_setOn_true (s.requested b) hpd)
  · rw [State.fbit, f_of_reg (hreg R.LDS_CTRL (by decide)), f_of_reg (hu_reg R.LDS_CTRL (by decide))]
    exact fbit_requested b s
  · rw [half_setHalf_other, half_of_reg (hu_reg _ (by decide)), half_requested]
  · exact congrArg (fun x : State => { x with regs := s.regs }) hrest

theorem execHalfRequest_again (hs : s.on 21 = true) (h : s.half (b2n b) ≠ 0) :
    ∃ t, exec (.halfRequest b) s = .next t ∧ t.fbit ⟨R.LDS_CTRL, 1, 0⟩ (b2n b) = true ∧
      t.half (b2n b) = s.half (b2n b) ∧ OnlyRegs s t [R.LDS_CTRL] := by
  refine ⟨s.requested b, ?_, fbit_requested b s, half_requested b s _, onlyRegs_requested b s⟩
  rw [exec_halfRequest, execHalfRequest, if_pos hs, startHalf_on b h]

/-- What a cleared half holds, and what the other half keeps. -/
theorem memGet_clearHalf (s : State) (k w : Nat) :
    memGet (s.clearHalf k).lds w = if ldsHalf w = k then 0 else memGet s.lds w := by
  refine (memGet_filter (fun w => decide (ldsHalf w ≠ k)) s.lds w).trans ?_
  by_cases h : ldsHalf w = k <;> simp [h]

theorem mem_ldsBad_clearHalf {k w : Nat} : w ∈ (s.clearHalf k).ldsBad ↔ w ∈ s.ldsBad ∧ ldsHalf w ≠ k := by
  simp [State.clearHalf]

theorem mem_ldsSoft_clearHalf {k w : Nat} : w ∈ (s.clearHalf k).ldsSoft ↔ w ∈ s.ldsSoft ∧ ldsHalf w ≠ k := by
  simp [State.clearHalf]

theorem execHalfClearDone_ends (h : s.half (b2n b) = 1) :
    ∃ t, exec (.halfClearDone b) s = .next t ∧ t.half (b2n b) = 2 ∧ t.half (1 - b2n b) = s.half (1 - b2n b) ∧
      (∀ w, ldsHalf w = b2n b → memGet t.lds w = 0 ∧ w ∉ t.ldsBad ∧ w ∉ t.ldsSoft) ∧
      (∀ w, ldsHalf w ≠ b2n b → memGet t.lds w = memGet s.lds w ∧ (w ∈ t.ldsBad ↔ w ∈ s.ldsBad)) ∧
      { t with regs := s.regs, lds := s.lds, ldsBad := s.ldsBad, ldsSoft := s.ldsSoft } = s := by
  set c := s.clearHalf (b2n b) with hc
  have hset := onlyRegs_setHalf b c 2
  obtain ⟨hlds, hbad, hsoft⟩ := hset.ldsWords
  refine ⟨c.setHalf (b2n b) 2, ?_, half_setHalf_same b c (by decide), half_setHalf_other b c 2, fun w hw => ?_,
    fun w hw => ?_, ?_⟩
  · rw [exec_halfClearDone, execHalfClearDone, if_pos h]
  · rw [hlds, hbad, hsoft, hc, memGet_clearHalf, if_pos hw, mem_ldsBad_clearHalf, mem_ldsSoft_clearHalf]
    exact ⟨rfl, fun hm => hm.2 hw, fun hm => hm.2 hw⟩
  · rw [hlds, hbad, hc, memGet_clearHalf, if_neg hw, mem_ldsBad_clearHalf]
    exact ⟨rfl, and_iff_left hw⟩
  · exact congrArg (fun x : State =>
      { x with regs := s.regs, lds := s.lds, ldsBad := s.ldsBad, ldsSoft := s.ldsSoft }) hset.1

theorem execHalfClearDone_idle (h : s.half (b2n b) ≠ 1) : exec (.halfClearDone b) s = .next s := by
  rw [exec_halfClearDone, execHalfClearDone, if_neg h]

end

/-! ### A round of the scrubber over the engines (R150, R152) -/

theorem engeccCount_ok (e : Nat) : (F.ENGECC_COUNT e).ok := fldOk (by decide)

/-- What a round leaves of one engine: only its correctable words differ, and of a powered engine they are good again and
counted. -/
structure EngScrubbed (s t : State) (e : Nat) : Prop where
  words : { t.eng e with soft := (s.eng e).soft } = s.eng e
  mended : s.on e = true → (t.eng e).soft = [] ∧
    t.f (F.ENGECC_COUNT e) = min (s.f (F.ENGECC_COUNT e) + (s.eng e).soft.length) (2 ^ 32 - 1)

/-- Nothing differs but the engines of a list and their ENGECC registers. -/
structure OnlyEngEcc (s t : State) (l : List Nat) : Prop where
  rest : { t with engs := s.engs, regs := s.regs } = s
  others : ∀ j, j ∉ l → t.eng j = s.eng j
  regs : ∀ a, (∀ e ∈ l, a ≠ R.ENGECC e) → t.reg a = s.reg a

/-- The other registers of the LDS, and those of the PMU, lie below the ENGECC registers. -/
theorem ne_engecc {a : Nat} (h : a < R.ENGECC 0) (e : Nat) : a ≠ R.ENGECC e := by
  simp only [R.ENGECC] at h ⊢
  omega

theorem engecc_ne {e j : Nat} (h : e ≠ j) : R.ENGECC e ≠ R.ENGECC j := by
  simp only [R.ENGECC]
  omega

section
variable {s t u : State} {e : Nat} {l : List Nat}

/-- A scrubbed engine, and then those of a list. -/
theorem OnlyEngEcc.trans (h : OnlyEngEcc s u [e]) (h' : OnlyEngEcc u t l) : OnlyEngEcc s t (e :: l) where
  rest := by
    have hs := h.rest
    rw [← h'.rest] at hs
    exact hs
  others j hj := by
    obtain ⟨hje, hjl⟩ := List.ne_and_not_mem_of_not_mem_cons hj
    rw [h'.others j hjl, h.others j (by simpa using hje)]
  regs a ha := by
    rw [h'.regs a fun j hj => ha j (.tail _ hj), h.regs a fun j hj => ha j (List.mem_singleton.1 hj ▸ .head _)]

theorem OnlyEngEcc.reg_of_lt (h : OnlyEngEcc s t l) {a : Nat} (ha : a < R.ENGECC 0) : t.reg a = s.reg a :=
  h.regs a fun e _ => ne_engecc ha e

theorem OnlyEngEcc.on (h : OnlyEngEcc s t l) (pd : Nat) : t.on pd = s.on pd := 
  on_of_reg (h.reg_of_lt (by decide)) pd

theorem OnlyEngEcc.count (h : OnlyEngEcc s t l) (he : e ∉ l) : t.f (F.ENGECC_COUNT e) = s.f (F.ENGECC_COUNT e) :=
  f_of_reg (h.regs (R.ENGECC e) fun _ hj => engecc_ne (ne_of_mem_of_not_mem hj he).symm)

theorem EngScrubbed.kept (h : EngScrubbed s u e) (h' : OnlyEngEcc u t l) (he : e ∉ l) : EngScrubbed s t e where
  words := by rw [h'.others e he, h.words]
  mended hon := by rw [h'.others e he, h'.count he]; exact h.mended hon

theorem EngScrubbed.after (h : OnlyEngEcc s u l) (he : e ∉ l) (h' : EngScrubbed u t e) : EngScrubbed s t e where
  words := by
    have hw := h'.words
    rwa [h.others e he] at hw
  mended hon := by
    have hm := h'.mended ((h.on e).trans hon)
    rwa [h.others e he, h.count he] at hm

theorem scrubEng_off (h : s.on e = false) : s.scrubEng e = s := if_neg (by simp [h])

/-- The correctable words of an engine good again and counted. -/
theorem scrubEng_sound (hon : s.on e = true) (hb : (s.eng e).bad = []) :
    s.scrubEng e = (s.modEng e fun en => { en with soft := [] }).sat (F.ENGECC_COUNT e) (s.eng e).soft.length := by
  have hbad : ((s.modEng e fun en => { en with soft := [] }).eng e).bad = [] := by
    by_cases he : e < 17
    · rw [eng_modEng_same s e _ he]
      exact hb
    · simpa [State.eng, State.modEng, he] using hb
  simp only [State.scrubEng, if_pos hon]
  exact if_neg (not_not.2 hbad)

theorem onlyEngEcc_scrubEng (hb : (s.eng e).bad = []) : OnlyEngEcc s (s.scrubEng e) [e] := by
  cases hon : s.on e with
  | false => rw [scrubEng_off hon]; exact ⟨rfl, fun _ _ => rfl, fun _ _ => rfl⟩
  | true =>
    rw [scrubEng_sound hon hb]
    exact ⟨rfl, fun j hj => eng_modEng_ne s _ (List.mem_singleton.not.1 hj),
      fun a ha => reg_setF_ne _ _ (ha e (.head _))⟩

theorem engScrubbed_scrubEng (he : e < 17) (hb : (s.eng e).bad = []) : EngScrubbed s (s.scrubEng e) e := by
  cases hon : s.on e with
  | false =>
    rw [scrubEng_off hon]
    exact ⟨rfl, fun h => absurd h (by simp [hon])⟩
  | true =>
    rw [scrubEng_sound hon hb]
    have hE : ((s.modEng e fun en => { en with soft := [] }).sat (F.ENGECC_COUNT e) (s.eng e).soft.length).eng e =
        { s.eng e with soft := [] } := eng_modEng_same s e _ he
    exact ⟨by rw [hE], fun _ => ⟨by rw [hE], f_sat_same _ _ _ (engeccCount_ok e)⟩⟩

/-- The round over a list of engines without an uncorrectable word, by induction on the list. -/
theorem forEach_scrubEng (s : State) (hn : l.Nodup) (hl : ∀ e ∈ l, e < 17 ∧ (s.eng e).bad = []) :
    OnlyEngEcc s (s.forEach l State.scrubEng) l ∧ ∀ e ∈ l, EngScrubbed s (s.forEach l State.scrubEng) e := by
  induction l generalizing s with
  | nil => exact ⟨⟨rfl, fun _ _ => rfl, fun _ _ => rfl⟩, fun _ h => absurd h List.not_mem_nil⟩
  | cons e l ih =>
    obtain ⟨hel, hnl⟩ := List.nodup_cons.1 hn
    obtain ⟨he, hbe⟩ := hl e (.head _)
    have hu : OnlyEngEcc s (s.scrubEng e) [e] := onlyEngEcc_scrubEng hbe
    have hne {j : Nat} (hj : j ∈ l) : j ∉ [e] := List.mem_singleton.not.2 (ne_of_mem_of_not_mem hj hel)
    obtain ⟨hrest, hown⟩ := ih (s.scrubEng e) hnl fun j hj => by
      rw [hu.others j (hne hj)]
      exact hl j (.tail _ hj)
    refine ⟨hu.trans hrest, fun j hj => ?_⟩
    rcases List.mem_cons.1 hj with rfl | hjl
    · exact (engScrubbed_scrubEng he hbe).kept hrest hel
    · exact (hown j hjl).after hu (hne hjl)

end

/-! ### A round of the scrubber over the LDS (R150, R152) -/

/-- A word is written back: an uncorrectable one as 0, any other with its value. -/
def State.mendLds (bad : List Nat) (s : State) (w : Nat) : State := s.setLds w (if w ∈ bad then 0 else memGet s.lds w)

/-- A list of words has been written back, the uncorrectable ones as 0, and nothing else differs. -/
structure LdsMended (bad ws : List Nat) (s t : State) : Prop where
  rest : { t with lds := s.lds, ldsBad := s.ldsBad, ldsSoft := s.ldsSoft } = s
  word : ∀ v, memGet t.lds v = if v ∈ ws ∧ v ∈ bad then 0 else memGet s.lds v
  isBad : ∀ v, v ∈ t.ldsBad ↔ v ∈ s.ldsBad ∧ v ∉ ws
  isSoft : ∀ v, v ∈ t.ldsSoft ↔ v ∈ s.ldsSoft ∧ v ∉ ws

/-- The words written back one by one, by induction on their list. -/
theorem forEach_mendLds (bad ws : List Nat) (s : State) : LdsMended bad ws s (s.forEach ws (State.mendLds bad)) := by
  induction ws generalizing s with
  | nil => exact ⟨rfl, by simp, by simp, by simp⟩
  | cons w ws ih =>
    obtain ⟨hrest, hword, hbad, hsoft⟩ := ih (s.mendLds bad w)
    rw [forEach_cons]
    refine ⟨?_, fun v => ?_, fun v => ?_, fun v => ?_⟩
    · exact congrArg (fun x : State => { x with lds := s.lds, ldsBad := s.ldsBad, ldsSoft := s.ldsSoft }) hrest
    · rw [hword, State.mendLds, State.setLds, memGet_memSet]
      by_cases hv : v = w
      · subst hv
        by_cases hb : v ∈ bad <;> simp [hb]
      · simp [hv]
    · rw [hbad, State.mendLds, State.setLds, mem_delNat, List.mem_cons]
      tauto
    · rw [hsoft, State.mendLds, State.setLds, mem_delNat, List.mem_cons]
      tauto

/-- A word lies in a half that is READY. -/
def State.ldsReady (s : State) (w : Nat) : Bool := decide (s.half (ldsHalf w) = 2)

/-- The registers once a round has counted the correctable and the uncorrectable words of the READY halves. -/
def State.ldsCounted (s : State) : State :=
  let u := (s.sat F.LDS_ECCC_COUNT (s.ldsSoft.filter s.ldsReady).length).sat F.LDS_ECCUC_COUNT
    (s.ldsBad.filter s.ldsReady).length
  if s.ldsSoft.filter s.ldsReady = [] then u else u.flag F.LDS_STAT_ECCC

theorem scrubLds_eq (s : State) : s.scrubLds =
    s.ldsCounted.forEach (s.ldsSoft.filter s.ldsReady ++ s.ldsBad.filter s.ldsReady)
      (State.mendLds (s.ldsBad.filter s.ldsReady)) := rfl

section
variable (s : State)

theorem onlyRegs_ldsCounted : OnlyRegs s s.ldsCounted [R.LDS_ECCC, R.LDS_ECCUC, R.LDS_STAT] := by
  have h (n k : Nat) : OnlyRegs s ((s.sat F.LDS_ECCC_COUNT n).sat F.LDS_ECCUC_COUNT k)
      [R.LDS_ECCC, R.LDS_ECCUC, R.LDS_STAT] :=
    ((OnlyRegs.refl s _).setF F.LDS_ECCC_COUNT _ (.head _)).setF F.LDS_ECCUC_COUNT _ (.tail _ (.head _))
  rw [State.ldsCounted]
  split
  · exact h _ _
  · exact (h _ _).setF F.LDS_STAT_ECCC 1 (.tail _ (.tail _ (.head _)))

/-- The flag in LDS_STAT leaves the counters alone. -/
theorem f_ldsCounted {x : Fld} (hx : x.addr ≠ R.LDS_STAT) : s.ldsCounted.f x =
    ((s.sat F.LDS_ECCC_COUNT (s.ldsSoft.filter s.ldsReady).length).sat F.LDS_ECCUC_COUNT
      (s.ldsBad.filter s.ldsReady).length).f x := by
  rw [State.ldsCounted]
  split
  · rfl
  · exact f_of_reg (reg_setF_ne _ _ hx)

theorem eccc_ldsCounted : s.ldsCounted.f F.LDS_ECCC_COUNT =
    min (s.f F.LDS_ECCC_COUNT + (s.ldsSoft.filter s.ldsReady).length) (2 ^ 32 - 1) := by
  rw [f_ldsCounted s (by decide), State.sat, f_setF_ne _ _ (by decide) (by decide), f_sat_same _ _ _ (by decide)]
  rfl

theorem eccuc_ldsCounted : s.ldsCounted.f F.LDS_ECCUC_COUNT =
    min (s.f F.LDS_ECCUC_COUNT + (s.ldsBad.filter s.ldsReady).length) 65535 := by
  rw [f_ldsCounted s (by decide), f_sat_same _ _ _ (by decide), State.sat, f_setF_ne _ _ (by decide) (by decide)]
  rfl

/-- What a round leaves of the READY halves, of the others, and of the registers. -/
structure LdsScrubbed (s t : State) : Prop where
  ready : ∀ w, s.ldsReady w = true → w ∉ t.ldsBad ∧ w ∉ t.ldsSoft ∧
    memGet t.lds w = if w ∈ s.ldsBad then 0 else memGet s.lds w
  unready : ∀ w, s.ldsReady w = false → memGet t.lds w = memGet s.lds w ∧ (w ∈ t.ldsBad ↔ w ∈ s.ldsBad)
  eccc : t.f F.LDS_ECCC_COUNT = min (s.f F.LDS_ECCC_COUNT + (s.ldsSoft.filter s.ldsReady).length) (2 ^ 32 - 1)
  eccuc : t.f F.LDS_ECCUC_COUNT = min (s.f F.LDS_ECCUC_COUNT + (s.ldsBad.filter s.ldsReady).length) 65535
  engs : t.engs = s.engs
  regs : ∀ a, a ∉ [R.LDS_ECCC, R.LDS_ECCUC, R.LDS_STAT] → t.reg a = s.reg a

theorem ldsScrubbed_scrubLds : LdsScrubbed s s.scrubLds := by
  rw [scrubLds_eq]
  obtain ⟨hrest, hword, hbad, hsoft⟩ := forEach_mendLds (s.ldsBad.filter s.ldsReady)
    (s.ldsSoft.filter s.ldsReady ++ s.ldsBad.filter s.ldsReady) s.ldsCounted
  generalize s.ldsCounted.forEach _ _ = t at hrest hword hbad hsoft ⊢
  have hcounted := onlyRegs_ldsCounted s
  obtain ⟨hlds, hcbad, hcsoft⟩ := hcounted.ldsWords
  have hregs : t.regs = s.ldsCounted.regs := (congrArg State.regs hrest :)
  have hengs : t.engs = s.ldsCounted.engs := (congrArg State.engs hrest :)
  have hreg (a : Nat) : t.reg a = s.ldsCounted.reg a := by rw [State.reg, hregs, State.reg]
  refine ⟨fun w hw => ?_, fun w hw => ?_, ?_, ?_, ?_, fun a ha => (hreg a).trans (hcounted.2 a ha)⟩
  · rw [hbad, hsoft, hword, hlds, hcbad, hcsoft]
    by_cases hb : w ∈ s.ldsBad <;> simp [hw, hb]
  · rw [hbad, hword, hlds, hcbad]
    simp [hw]
  · exact (f_of_reg (hreg _)).trans (eccc_ldsCounted s)
  · exact (f_of_reg (hreg _)).trans (eccuc_ldsCounted s)
  · exact hengs.trans hcounted.engs

end

/-! ### SCRUB -/

section
variable {s t u : State} {l : List Nat}

theorem OnlyEngEcc.ldsReady (h : OnlyEngEcc s t l) : t.ldsReady = s.ldsReady := by
  funext w
  rw [State.ldsReady, half_of_reg (h.reg_of_lt (by decide)), State.ldsReady]

/-- The round over the LDS finds the halves, their words and their counts as the round over the engines found them. -/
theorem OnlyEngEcc.ldsScrubbed (h : OnlyEngEcc s u l) (h' : LdsScrubbed u t) :
    (∀ w, s.ldsReady w = true → w ∉ t.ldsBad ∧ w ∉ t.ldsSoft ∧
      memGet t.lds w = if w ∈ s.ldsBad then 0 else memGet s.lds w) ∧
    (∀ w, s.ldsReady w = false → memGet t.lds w = memGet s.lds w ∧ (w ∈ t.ldsBad ↔ w ∈ s.ldsBad)) ∧
    t.f F.LDS_ECCC_COUNT = min (s.f F.LDS_ECCC_COUNT + (s.ldsSoft.filter s.ldsReady).length) (2 ^ 32 - 1) ∧
    t.f F.LDS_ECCUC_COUNT = min (s.f F.LDS_ECCUC_COUNT + (s.ldsBad.filter s.ldsReady).length) 65535 := by
  have hlds : u.lds = s.lds := (congrArg State.lds h.rest :)
  have hbad : u.ldsBad = s.ldsBad := (congrArg State.ldsBad h.rest :)
  have hsoft : u.ldsSoft = s.ldsSoft := (congrArg State.ldsSoft h.rest :)
  have heccc : u.f F.LDS_ECCC_COUNT = s.f F.LDS_ECCC_COUNT := f_of_reg (h.reg_of_lt (by decide))
  have heccuc : u.f F.LDS_ECCUC_COUNT = s.f F.LDS_ECCUC_COUNT := f_of_reg (h.reg_of_lt (by decide))
  obtain ⟨hr, hn, hc, huc, -, -⟩ := h'
  rw [h.ldsReady, hlds, hbad] at hr hn
  rw [h.ldsReady, hsoft, heccc] at hc
  rw [h.ldsReady, hbad, heccuc] at huc
  exact ⟨hr, hn, hc, huc⟩

/-- The round over the LDS leaves the engines and their ENGECC registers alone. -/
theorem EngScrubbed.lds {e : Nat} (h : EngScrubbed s u e) (h' : LdsScrubbed u t) : EngScrubbed s t e := by
  have hE : t.eng e = u.eng e := by rw [State.eng, h'.engs, State.eng]
  have hf : t.f (F.ENGECC_COUNT e) = u.f (F.ENGECC_COUNT e) := by
    have hne {a : Nat} (ha : a < R.ENGECC 0) : R.ENGECC e ≠ a := (ne_engecc ha e).symm
    refine f_of_reg (h'.regs (R.ENGECC e) ?_)
    simp [hne (a := R.LDS_ECCC) (by decide), hne (a := R.LDS_ECCUC) (by decide), hne (a := R.LDS_STAT) (by decide)]
  exact ⟨by rw [hE, h.words], fun hon => by rw [hE, hf]; exact h.mended hon⟩

/-- The round counts itself last, in a register of its own. -/
theorem execScrub_round (hs : s.b F.LDS_CTRL_SCRUBEN = true) (hb : ∀ e, e < 17 → (s.eng e).bad = []) :
    ∃ t, exec .scrub s = .next t ∧
      (∀ w, s.ldsReady w = true → w ∉ t.ldsBad ∧ w ∉ t.ldsSoft ∧
        memGet t.lds w = if w ∈ s.ldsBad then 0 else memGet s.lds w) ∧
      (∀ w, s.ldsReady w = false → memGet t.lds w = memGet s.lds w ∧ (w ∈ t.ldsBad ↔ w ∈ s.ldsBad)) ∧
      t.f F.LDS_ECCC_COUNT = min (s.f F.LDS_ECCC_COUNT + (s.ldsSoft.filter s.ldsReady).length) (2 ^ 32 - 1) ∧
      t.f F.LDS_ECCUC_COUNT = min (s.f F.LDS_ECCUC_COUNT + (s.ldsBad.filter s.ldsReady).length) 65535 ∧
      t.f F.LDS_SCRUB_ROUNDS = min (s.f F.LDS_SCRUB_ROUNDS + 1) 65535 ∧ ∀ e, e < 17 → EngScrubbed s t e := by
  obtain ⟨hu, hengs⟩ := forEach_scrubEng s List.nodup_range fun e he =>
    ⟨List.mem_range.1 he, hb e (List.mem_range.1 he)⟩
  set u := s.forEach (List.range 17) State.scrubEng
  have hv := ldsScrubbed_scrubLds u
  set v := u.scrubLds
  have hrounds : v.f F.LDS_SCRUB_ROUNDS = s.f F.LDS_SCRUB_ROUNDS :=
    f_of_reg ((hv.regs _ (by decide)).trans (hu.reg_of_lt (by decide)))
  obtain ⟨hready, hunready, hc, huc⟩ := hu.ldsScrubbed hv
  have hne {x : Fld} (hx : x.addr ≠ R.LDS_SCRUB) : (v.sat F.LDS_SCRUB_ROUNDS 1).f x = v.f x :=
    f_of_reg (reg_setF_ne _ _ hx)
  refine ⟨v.sat F.LDS_SCRUB_ROUNDS 1, ?_, hready, hunready, (hne (by decide)).trans hc, (hne (by decide)).trans huc, ?_,
    fun e he => ?_⟩
  · rw [exec_scrub, execScrub, if_pos hs]
  · rw [f_sat_same _ _ _ (by decide), hrounds]
    rfl
  · have hE := (hengs e (List.mem_range.2 he)).lds hv
    exact ⟨hE.words, fun hon => ⟨(hE.mended hon).1, (hne (ne_engecc (by decide) e).symm).trans (hE.mended hon).2⟩⟩

theorem execScrub_disabled (hs : s.b F.LDS_CTRL_SCRUBEN = false) : exec .scrub s = .next s := by
  rw [exec_scrub, execScrub, if_neg (by simp [hs])]

end

end Sys2Proof.Machine

open Sys2Proof Sys2Proof.Machine

/-- Settles O16: what a request and the end of clearing do to a half, and a round of the scrubber, engine by engine and then
word by word of the LDS. -/
theorem longDelayStoreHalves : Obligations.LongDelayStoreHalves := by
  refine ⟨fun b s => ⟨execHalfRequest_starts b, execHalfRequest_again b, execHalfClearDone_ends b,
    execHalfClearDone_idle b⟩, fun s => ⟨fun hs hb => ?_, execScrub_disabled⟩⟩
  obtain ⟨t, ht, hready, hunready, hc, huc, hrounds, hengs⟩ := execScrub_round hs hb
  exact ⟨t, ht, hready, hunready, hc, huc, hrounds, fun e he => ⟨(hengs e he).words, (hengs e he).mended⟩⟩

end

section
namespace Sys2Proof.Machine

/-! ## A reply on the ring of its session -/

theorem OnlyMailbox.refl (s : State) (m : Nat) : OnlyMailbox s s m := ⟨rfl, fun _ _ => rfl, fun _ _ => rfl⟩

theorem OnlyMailbox.trans {s t u : State} {m : Nat} (h : OnlyMailbox s t m) (h' : OnlyMailbox t u m) :
    OnlyMailbox s u m := by
  obtain ⟨hrest, hmb, hregs⟩ := h
  obtain ⟨hrest', hmb', hregs'⟩ := h'
  refine ⟨?_, fun j hj => (hmb' j hj).trans (hmb j hj), fun a ha => (hregs' a ha).trans (hregs a ha)⟩
  exact (congrArg (fun x : State => { x with
    mbx := s.mbx, regs := s.regs, ccs := s.ccs, freeCtr := s.freeCtr, sram := s.sram, sramBad := s.sramBad
    sramSoft := s.sramSoft }) hrest').trans hrest

section
variable (s : State) (m : Nat)

theorem onlyMailbox_modMb (g : Mailbox → Mailbox) : OnlyMailbox s (s.modMb m g) m :=
  ⟨rfl, fun _ hj => mb_modMb_ne s g hj, fun _ _ => rfl⟩

theorem onlyMailbox_sramFill (addr : Nat) (bs : List Byte) : OnlyMailbox s (s.sramFill addr bs) m := by
  unfold State.sramFill
  split
  · exact ⟨rfl, fun _ _ => rfl, fun _ _ => rfl⟩
  · exact .refl s m

theorem mbx_sramFill (addr : Nat) (bs : List Byte) : (s.sramFill addr bs).mbx = s.mbx := by
  unfold State.sramFill
  split <;> rfl

theorem onlyMailbox_ringWrite (base n i buf : Nat) (f : Frame) : OnlyMailbox s (s.ringWrite base n i buf f) m := by
  unfold State.ringWrite
  split
  · exact .refl s m
  · exact (onlyMailbox_sramFill ..).trans (onlyMailbox_sramFill ..)

theorem mb_ringWrite (base n i buf : Nat) (f : Frame) (j : Nat) : (s.ringWrite base n i buf f).mb j = s.mb j := by
  unfold State.ringWrite
  split
  · rfl
  · rw [State.mb, mbx_sramFill, mbx_sramFill, State.mb]

theorem onlyMailbox_rspBell : OnlyMailbox s (s.rspBell m) m := by
  unfold State.rspBell
  split
  · exact ⟨rfl, fun _ _ => rfl, fun _ _ => rfl⟩
  · exact ⟨rfl, fun _ _ => rfl, fun _ ha => reg_setF_ne _ _ ha⟩

theorem mb_rspBell (j : Nat) : (s.rspBell m).mb j = s.mb j := by
  unfold State.rspBell
  split <;> rfl

theorem onlyMailbox_putRsp (f : Frame) : OnlyMailbox s (s.putRsp m f) m :=
  ((onlyMailbox_ringWrite ..).trans (onlyMailbox_modMb ..)).trans (onlyMailbox_rspBell ..)

theorem mb_putRsp {m : Nat} (hm : m < 64) (f : Frame) : (s.putRsp m f).mb m =
    { s.mb m with rsp := (s.mb m).rsp ++ [f], rspHead := (s.mb m).rspHead + 1 } := by
  rw [State.putRsp, mb_rspBell, mb_modMb_same _ m _ hm, mb_ringWrite]

end

section
variable {s : State}

theorem pushRsp_room {m : Nat} (hh : (s.mb m).held = []) (hr : (s.mb m).rsp.length < (s.mb m).rspN) (bytes : List Byte)
    (flags : Nat) : s.pushRsp m bytes flags = s.putRsp m ⟨bytes, 0, flags⟩ :=
  if_pos ⟨hh, hr⟩

/-! ## A request that firmware turns to -/

theorem vmod_eq_self {α : Type} {n : Nat} {v : Vector α n} {i : Nat} {g : α → α} (h : ∀ x, v[i]? = some x → g x = x) :
    vmod v i g = v := by
  refine Vector.ext fun j hj => Option.some.inj ?_
  rw [← Vector.getElem?_eq_getElem, ← Vector.getElem?_eq_getElem, vmod_getElem?]
  split
  · next hij =>
    subst hij
    cases hx : v[i]? with
    | none => rfl
    | some x => rw [Option.map_some, h x hx]
  · rfl

theorem modMb_eq_self {m : Nat} {g : Mailbox → Mailbox} (h : g (s.mb m) = s.mb m) : s.modMb m g = s := by
  have hv : vmod s.mbx m g = s.mbx := vmod_eq_self fun x hx => by
    have hm : s.mb m = x := by rw [State.mb, hx, Option.getD_some]
    rw [← hm, h]
  rw [State.modMb, hv]

/-- A request that came by no ring leaves an empty ring as it is (log 9). -/
theorem takeReq_empty {rq : Req} (h : (s.mb rq.mbx).req = []) (op : Nat) : s.takeReq op rq = s :=
  modMb_eq_self (if_neg (by simp [h]))

/-- Firmware is awake, nothing stands before the request, and no reply of its session waits (R211, R351, R393). -/
theorem turnTo_ready {rq : Req} (hp : s.f F.PMU_STAT_STATE < 3) (hreq : (s.mb rq.mbx).req = [])
    (hheld : (s.mb rq.mbx).held = []) (op : Nat) (go : State → State) : s.turnTo op rq go = go s := by
  have hawake : s.asleep rq.mbx = false := by
    simp [State.asleep, hheld, hp]
  have hodd : State.serveOdd rq.mbx (s.mb rq.mbx).req.length s = s := by
    rw [hreq]
    rfl
  simp only [State.turnTo, hawake, hodd, takeReq_empty hreq, Bool.false_eq_true, if_false]

/-! ## A request that firmware serves (R350, R375) -/

/-- The reply to a request, kept and on its ring. -/
def State.replied (s : State) (op : Nat) (rq : Req) (status : Nat) (items : List Byte) : State :=
  (s.served rq.mbx rq.seq (s.replyTo op rq status items)).putRsp rq.mbx ⟨s.replyTo op rq status items, 0, 0⟩

theorem mb_replied (s : State) (op : Nat) (rq : Req) (status : Nat) (items : List Byte) :
    (s.replied op rq status items).mb rq.mbx = { s.mb rq.mbx with
      rsp := (s.mb rq.mbx).rsp ++ [⟨s.replyTo op rq status items, 0, 0⟩], rspHead := (s.mb rq.mbx).rspHead + 1
      lastSeq := rq.seq, lastReply := s.replyTo op rq status items } := by
  rw [State.replied, mb_putRsp _ rq.mbx.isLt, State.served, mb_modMb_same s _ _ rq.mbx.isLt]

theorem onlyMailbox_replied (s : State) (op : Nat) (rq : Req) (status : Nat) (items : List Byte) :
    OnlyMailbox s (s.replied op rq status items) rq.mbx :=
  (onlyMailbox_modMb ..).trans (onlyMailbox_putRsp ..)

theorem replied_replied (s : State) (op : Nat) (rq : Req) (status : Nat) (items : List Byte) :
    Replied s (s.replied op rq status items) op rq status items := by
  rw [Replied, mb_replied]
  exact ⟨rfl, rfl, rfl⟩

section
variable {rq : Req} {xs : List It}

theorem Asked.opened (h : Asked s rq xs) : (s.mb rq.mbx).opened = true := by
  have hs := h.session
  simp only [State.sessionOk, Bool.and_eq_true] at hs
  exact hs.1.1

/-- A request over UDP comes from the peer of its mailbox. -/
theorem Asked.peer (h : Asked s rq xs) :
    ¬ (8 ≤ rq.mbx.val ∧ ((s.mb rq.mbx).peerAddr ≠ rq.peerAddr ∨ (s.mb rq.mbx).peerPort ≠ rq.peerPort)) := by
  have hs := h.session
  simp only [State.sessionOk, Bool.and_eq_true, Bool.or_eq_true, decide_eq_true_eq, beq_iff_eq] at hs
  rintro ⟨h8, hne⟩
  rcases hs.2 with hlt | ⟨ha, hp⟩
  · omega
  · exact hne.elim (· ha) (· hp)

theorem Asked.checked (h : Asked s rq xs) (op : Nat) (go : State → State) : s.checked op rq go = go s := by
  have hnext : rq.seq ≠ (s.mb rq.mbx).lastSeq := by
    rw [h.seq]
    bv_omega
  unfold State.checked
  simp only [h.form, h.session, Bool.not_true, Bool.false_eq_true, if_false]
  rw [if_neg hnext, if_neg (not_not.mpr h.seq)]

theorem Asked.serveAnswer (h : Asked s rq xs) (op : Nat) (x : Answer) :
    s.serveAnswer op rq x = x.act (s.replied op rq x.status x.items) := by
  have hmb : (s.served rq.mbx rq.seq (s.replyTo op rq x.status x.items)).mb rq.mbx =
      { s.mb rq.mbx with lastSeq := rq.seq, lastReply := s.replyTo op rq x.status x.items } :=
    mb_modMb_same s _ _ rq.mbx.isLt
  unfold State.serveAnswer State.reply
  dsimp only
  rw [if_neg (by rw [hmb]; exact h.peer), pushRsp_room (by rw [hmb]; exact h.room.1) (by rw [hmb]; exact h.room.2)]
  rfl

/-- Firmware serves a request: it replies, and then the request takes effect. -/
theorem Asked.serve (h : Asked s rq xs) {op : Nat} {ts : List Take} {staged : Bool} {g : State → Ask → Answer} {x : Answer}
    (hx : reqAsk rq ts staged (g s) = x) : s.serve op rq ts staged g = x.act (s.replied op rq x.status x.items) := by
  rw [State.serve, turnTo_ready h.awake h.ring h.room.1, h.checked, hx, h.serveAnswer]

/-- The items of a request reach its opcode where it takes every one of them, and has them all (R377). -/
theorem Asked.takes (h : Asked s rq xs) {ts : List Take} (hbad : badItem ts [] xs = none)
    (hall : (ts.all fun t => t.2.1 ≤ (Ask.all xs t.1).length) = true) (hty : ∀ x ∈ xs, x.type < 0x8000) (staged : Bool)
    (k : Ask → Answer) : reqAsk rq ts staged k = k xs := by
  have hxs : (xs.filter fun x => x.type < 0x8000) = xs := List.filter_eq_self.mpr fun x hx => decide_eq_true (hty x hx)
  unfold reqAsk
  rw [if_neg (by simp [h.flags]), h.items]
  simp only [hbad, hxs, hall, if_true]

/-- A request without items. -/
theorem Asked.takes_nil (h : Asked s rq []) (staged : Bool) (k : Ask → Answer) : reqAsk rq [] staged k = k [] :=
  h.takes rfl rfl (fun _ hx => absurd hx (List.not_mem_nil)) staged k

/-- A request that only asks: a reply, and nothing else. -/
theorem onlyReplied_replied (h : Asked s rq xs) (op : Nat) (items : List Byte) :
    OnlyReplied s (s.replied op rq 0 items) op rq items := by
  refine ⟨replied_replied .., onlyMailbox_replied .., ?_, ?_⟩
  · rw [mb_replied]
  · rw [mb_replied]
    exact h.opened

end

end

end Sys2Proof.Machine
end

section
namespace Sys2Proof.Machine

/-! ## The requests that report, and those that change their session alone (R387) -/

section
variable {s : State} {rq : Req} {xs : List It}

/-- A request that only asks: a reply, and nothing else. -/
theorem Asked.reports (h : Asked s rq xs) (op : Nat) {ts : List Take} {g : State → Ask → Answer} {items : List Byte}
    (hg : reqAsk rq ts false (g s) = answer items id) : OnlyReplied s (s.serve op rq ts false g) op rq items := by
  rw [h.serve hg]
  exact onlyReplied_replied h op items

/-- A request whose effect is on the events of its mailbox alone: it replies, and then the mailbox changes. -/
theorem Asked.changes (h : Asked s rq xs) (op : Nat) {ts : List Take} {f : State → Ask → Answer} {items : List Byte}
    {g : Mailbox → Mailbox} (hf : reqAsk rq ts false (f s) = answer items fun t => t.modMb rq.mbx g)
    (hg : ∀ b, { g b with evMask := b.evMask, evDrops := b.evDrops } = b) :
    OnlyReplied s (s.serve op rq ts false f) op rq items ∧
      (s.serve op rq ts false f).mb rq.mbx = g ((s.replied op rq 0 items).mb rq.mbx) := by
  obtain ⟨⟨hrsp, hseq, hrep⟩, hbox, hpar, hopen⟩ := onlyReplied_replied h op items
  have hb := hg ((s.replied op rq 0 items).mb rq.mbx)
  have hmb : (s.serve op rq ts false f).mb rq.mbx = g ((s.replied op rq 0 items).mb rq.mbx) := by
    rw [h.serve hf]
    exact mb_modMb_same _ _ _ rq.mbx.isLt
  refine ⟨⟨⟨?_, ?_, ?_⟩, ?_, ?_, ?_⟩, hmb⟩
  · rw [hmb]
    exact (congrArg Mailbox.rsp hb :).trans hrsp
  · rw [hmb]
    exact (congrArg Mailbox.lastSeq hb :).trans hseq
  · rw [hmb]
    exact (congrArg Mailbox.lastReply hb :).trans hrep
  · rw [h.serve hf]
    exact hbox.trans (onlyMailbox_modMb ..)
  · rw [hmb]
    exact (congrArg Mailbox.parison hb :).trans hpar
  · rw [hmb]
    exact (congrArg Mailbox.opened hb :).trans hopen

/-- A single item of the one type that an opcode takes, of that type's length. -/
theorem Asked.takes_one {x : It} {t : Nat} (h : Asked s rq [x]) (hx : x.type = t) (hlen : x.lenOk = true)
    (ht : t < 0x8000) (k : Ask → Answer) : reqAsk rq [(t, 1, 1)] false k = k [x] := by
  refine h.takes ?_ ?_ (by simp [hx, ht]) false k
  · simp [badItem, hx, hlen]
  · simp [Ask.all, hx]

/-- A value of four bytes suits every type that is no PV, TTIME, TINDEX or CHUNK (R377). -/
theorem It.Plain.lenOk {x : It} {t : Nat} (h : x.Plain t) (ht : t ∉ [tPv, tTtime, tTindex, tChunk]) : x.lenOk = true := by
  obtain ⟨htype, hlen⟩ := h
  simp only [List.mem_cons, List.not_mem_nil, or_false, not_or] at ht
  simp [It.lenOk, htype, hlen, ht]

theorem ask_get_head {x : It} {t : Nat} {ys : List It} (hx : x.type = t) : Ask.get (x :: ys) t = x := by
  simp [Ask.get, Ask.one, hx]

theorem ask_get_tail {x : It} {t : Nat} {ys : List It} (hx : x.type ≠ t) : Ask.get (x :: ys) t = Ask.get ys t := by
  simp [Ask.get, Ask.one, hx]

/-! ### CLOSE, EVSTAT, SUBSCRIBE and LOGREAD -/

/-- A session that closes, and owns no update. -/
theorem closeSession_plain {t : State} {m : Nat} (ho : (t.mb m).opened = true) (hf : t.fw.owner ≠ some (t.session m)) :
    t.closeSession m = t.modMb m fun b => { b with opened := false, parison := [], evMask := 0 } := by
  rw [State.closeSession, if_pos ho, if_neg hf]

theorem execBcpClose_asked (h : Asked s rq []) (hf : s.fw.owner ≠ some (s.session rq.mbx)) :
    ∃ t, exec (.bcpClose rq) s = .next t ∧ Replied s t 0x01 rq 0 [] ∧ (t.mb rq.mbx).opened = false ∧
      (t.mb rq.mbx).parison = [] ∧ (t.mb rq.mbx).evMask = 0 ∧ OnlyMailbox s t rq.mbx := by
  have hr := onlyMailbox_replied s 0x01 rq 0 []
  have hmb := mb_replied s 0x01 rq 0 []
  have ho : ((s.replied 0x01 rq 0 []).mb rq.mbx).opened = true := by
    rw [hmb]
    exact h.opened
  have howner : (s.replied 0x01 rq 0 []).fw.owner ≠ some ((s.replied 0x01 rq 0 []).session rq.mbx) := by
    rw [State.session, hmb, (congrArg State.fw hr.1 :)]
    exact hf
  have hserve := h.serve (op := 0x01) (g := fun _ _ => answer [] fun s => s.closeSession rq.mbx) (h.takes_nil false _)
  refine ⟨_, (exec_bcpClose ..).trans (congrArg Host.Outcome.next hserve), ?_⟩
  dsimp only [answer]
  rw [closeSession_plain ho howner, Replied, mb_modMb_same _ _ _ rq.mbx.isLt, hmb]
  exact ⟨⟨rfl, rfl, rfl⟩, rfl, rfl, rfl, hr.trans (onlyMailbox_modMb ..)⟩

theorem execBcpEvstat_asked (h : Asked s rq []) : ∃ t, exec (.bcpEvstat rq) s = .next t ∧
    OnlyReplied s t 0x32 rq (num32 tCount (s.mb rq.mbx).evDrops) ∧ (t.mb rq.mbx).evDrops = 0 := by
  obtain ⟨hrep, hmb⟩ := h.changes 0x32 (f := fun s _ =>
    answer (num32 tCount (s.mb rq.mbx).evDrops) fun s => s.modMb rq.mbx fun b => { b with evDrops := 0 })
    (h.takes_nil ..) (fun _ => rfl)
  exact ⟨_, exec_bcpEvstat rq s, hrep, congrArg Mailbox.evDrops hmb⟩

theorem execBcpSubscribe_asked {x : It} (h : Asked s rq [x]) (hx : x.Plain tEvmask) :
    ∃ t, exec (.bcpSubscribe rq) s = .next t ∧ OnlyReplied s t 0x31 rq (num32 tEvmask (x.num % 256)) ∧
      (t.mb rq.mbx).evMask.toNat = x.num % 256 := by
  have hget : Ask.get [x] tEvmask = x := ask_get_head hx.1
  obtain ⟨hrep, hmb⟩ := h.changes 0x31 (items := num32 tEvmask (x.num % 256)) (f := fun _ a =>
    let v := BitVec.ofNat 8 (a.get tEvmask).num
    answer (num32 tEvmask v.toNat) fun s => s.modMb rq.mbx fun b => { b with evMask := v })
    (g := fun b => { b with evMask := BitVec.ofNat 8 x.num })
    (by rw [h.takes_one hx.1 (hx.lenOk (by decide)) (by decide), hget]; rfl) (fun _ => rfl)
  exact ⟨_, exec_bcpSubscribe rq s, hrep, congrArg (fun b => b.evMask.toNat) hmb⟩

theorem execBcpLogread_asked {x y : It} (h : Asked s rq [x, y]) (hx : x.Plain tEpoch) (hy : y.Plain tCount) :
    ∃ t, exec (.bcpLogread rq) s = .next t ∧
      OnlyReplied s t 0x60 rq (item tRec (((logFrom s.log x.num).take (min y.num ((payloadLimit rq.mbx - 8) / 24))).flatMap
        LogEntry.bytes)) := by
  have hxl : x.lenOk = true := hx.lenOk (by decide)
  have hyl : y.lenOk = true := hy.lenOk (by decide)
  have hask (k : Ask → Answer) : reqAsk rq [(tEpoch, 1, 1), (tCount, 1, 1)] false k = k [x, y] := by
    refine h.takes ?_ ?_ (by simp [hx.1, hy.1, tEpoch, tCount]) false k
    · simp [badItem, hx.1, hy.1, hxl, hyl, tEpoch, tCount]
    · simp [Ask.all, hx.1, hy.1, tEpoch, tCount]
  have hgx : Ask.get [x, y] tEpoch = x := ask_get_head hx.1
  have hgy : Ask.get [x, y] tCount = y := (ask_get_tail (by rw [hx.1]; decide)).trans (ask_get_head hy.1)
  exact ⟨_, exec_bcpLogread .., h.reports 0x60 (by rw [hask, hgx, hgy])⟩

end

/-! ### OPEN (R349, R380) -/

section
variable {s : State} {rq : Req}

/-- An OPEN that firmware takes, on a closed mailbox of its own transport. -/
structure OpensOwn (s : State) (rq : Req) : Prop where
  own : rq.mbx.val < 8
  awake : s.f F.PMU_STAT_STATE < 3
  ring : (s.mb rq.mbx).req = []
  waits : (s.mb rq.mbx).held = []
  room : (s.mb rq.mbx).rsp.length < (s.mb rq.mbx).rspN
  closed : (s.mb rq.mbx).opened = false
  form : reqForm rq = true
  flags : rq.flags = 0
  payload : rq.payload = []

/-- The next generation of a mailbox's session, with nothing staged and nothing subscribed. -/
def Mailbox.openedBy (b : Mailbox) (seq : BitVec 16) : Mailbox := { b with
  gen := genNext b.gen, opened := true, lastSeq := seq, evMask := 0, evCount := 0, evDrops := 0, parison := [] }

def State.openedBy (s : State) (rq : Req) : State := s.modMb rq.mbx fun b => b.openedBy rq.seq

theorem mb_openedBy (s : State) (rq : Req) : (s.openedBy rq).mb rq.mbx = (s.mb rq.mbx).openedBy rq.seq :=
  mb_modMb_same s _ _ rq.mbx.isLt

theorem OpensOwn.openSession (h : OpensOwn s rq) : s.openSession rq rq.mbx = s.openedBy rq := by
  have hclose : s.closeSession rq.mbx = s := if_neg (by simp [h.closed])
  unfold State.openSession
  simp only [h.own, if_true]
  cases s.udpOf rq.peerAddr.toNat rq.peerPort.toNat with
  | none => rw [hclose]; rfl
  | some k => rw [hclose]; rfl

theorem OpensOwn.takes (h : OpensOwn s rq) (staged : Bool) (k : Ask → Answer) : reqAsk rq [] staged k = k [] := by
  unfold reqAsk
  rw [if_neg (by simp [h.flags]), h.payload]
  rfl

/-- The reply to OPEN, of the session that it opens. -/
def State.openReply (s : State) (rq : Req) : List Byte :=
  s.bcpReply 0 (genNext (s.mb rq.mbx).gen * 64 + rq.mbx) rq.seq.toNat 0 (num32 tCount 4096)

/-- The opened session with its reply, kept and on its ring. -/
def State.openReplied (s : State) (rq : Req) : State :=
  ((s.openedBy rq).served rq.mbx rq.seq (s.openReply rq)).putRsp rq.mbx ⟨s.openReply rq, 0, 0⟩

theorem mb_openServed (s : State) (rq : Req) (bytes : List Byte) : ((s.openedBy rq).served rq.mbx rq.seq bytes).mb rq.mbx =
    { (s.mb rq.mbx).openedBy rq.seq with lastSeq := rq.seq, lastReply := bytes } := by
  rw [State.served, mb_modMb_same _ _ _ rq.mbx.isLt, mb_openedBy]

theorem OpensOwn.openReq (h : OpensOwn s rq) : s.openReq rq = s.openReplied rq := by
  have hx : reqAsk rq [] false (fun _ => answer (num32 tCount (payloadLimit rq.mbx)) id) = answer (num32 tCount 4096) id := by
    rw [h.takes, payloadLimit, if_neg (Nat.not_le.mpr h.own)]
  have hat : s.openAt rq = some rq.mbx := if_pos h.own
  have hbytes : (s.openedBy rq).bcpReply 0 ((s.openedBy rq).session rq.mbx) rq.seq.toNat 0 (num32 tCount 4096) =
      s.openReply rq := by
    rw [State.session, mb_openedBy]
    rfl
  have hpush : ((s.openedBy rq).served rq.mbx rq.seq (s.openReply rq)).pushRsp rq.mbx (s.openReply rq) 0 = s.openReplied rq :=
    pushRsp_room (by rw [mb_openServed]; exact h.waits) (by rw [mb_openServed]; exact h.room) _ 0
  rw [State.openReq, turnTo_ready h.awake h.ring h.waits, h.form, hx, hat]
  dsimp only [answer]
  rw [h.openSession, hbytes, hpush]
  rfl

theorem onlyMailbox_openReplied (s : State) (rq : Req) : OnlyMailbox s (s.openReplied rq) rq.mbx :=
  ((onlyMailbox_modMb ..).trans (onlyMailbox_modMb ..)).trans (onlyMailbox_putRsp ..)

theorem mb_openReplied (s : State) (rq : Req) : (s.openReplied rq).mb rq.mbx = { (s.mb rq.mbx).openedBy rq.seq with
    rsp := (s.mb rq.mbx).rsp ++ [⟨s.openReply rq, 0, 0⟩], rspHead := (s.mb rq.mbx).rspHead + 1
    lastSeq := rq.seq, lastReply := s.openReply rq } := by
  rw [State.openReplied, mb_putRsp _ rq.mbx.isLt, mb_openServed]
  rfl

theorem execBcpOpen_closed (h : OpensOwn s rq) : exec (.bcpOpen rq) s = .next (s.openReplied rq) :=
  (exec_bcpOpen rq s).trans (congrArg Host.Outcome.next h.openReq)

end

end Sys2Proof.Machine

open Sys2Proof Sys2Proof.Machine

/-- Settles O37: OPEN and CLOSE change their mailbox after the reply's form is fixed, and each report is a reply that leaves
everything else. -/
theorem sessionsAndReports : Obligations.SessionsAndReports := by
  intro rq s
  refine ⟨fun hm hp hreq hheld hroom hc hform hf hpay => ?_, fun h => ⟨execBcpClose_asked h,
    ⟨_, exec_bcpPing .., h.reports 0x02 (h.takes_nil ..)⟩, execBcpEvstat_asked h,
    ⟨_, exec_bcpPowerstat .., h.reports 0x40 (h.takes_nil ..)⟩, ⟨_, exec_bcpLehrstat .., h.reports 0x41 (h.takes_nil ..)⟩,
    ⟨_, exec_bcpEngmap .., h.reports 0x50 (h.takes_nil ..)⟩, ⟨_, exec_bcpFwstat .., h.reports 0x73 (h.takes_nil ..)⟩⟩,
    fun _ => execBcpSubscribe_asked, fun _ _ => execBcpLogread_asked⟩
  refine ⟨_, execBcpOpen_closed ⟨hm, hp, hreq, hheld, hroom, hc, hform, hf, hpay⟩, ?_⟩
  rw [mb_openReplied]
  exact ⟨rfl, rfl, rfl, rfl, rfl, rfl, rfl, onlyMailbox_openReplied s rq, rfl⟩

end

section
namespace Sys2Proof.Machine

/-! ## Changes of coefficient shadow banks -/

/-- Nothing differs but the coefficient shadow banks of engines and the error flags of words. -/
structure OnlyCoefShadows (s t : State) : Prop extends OnlyShadows s t where
  prog : ∀ x, (t.eng x).progSh = (s.eng x).progSh

namespace OnlyCoefShadows
variable {s t u : State}

theorem refl (s : State) : OnlyCoefShadows s s := ⟨.refl s, fun _ => rfl⟩

theorem trans (h : OnlyCoefShadows s t) (h' : OnlyCoefShadows t u) : OnlyCoefShadows s u :=
  ⟨h.toOnlyShadows.trans h'.toOnlyShadows, fun x => (h'.prog x).trans (h.prog x)⟩

/-- Of an engine only the coefficient shadow bank and the error flags may differ. -/
theorem eng (h : OnlyCoefShadows s t) (x : Nat) :
    { t.eng x with coefSh := (s.eng x).coefSh, bad := (s.eng x).bad, soft := (s.eng x).soft } = s.eng x := by
  have hx := h.engs x
  rw [← h.prog x] at hx
  exact hx

theorem nextCfg (h : OnlyCoefShadows s t) : t.nextCfg = s.nextCfg := (congrArg State.nextCfg h.rest :)

end OnlyCoefShadows

/-- New coefficient words in the shadow bank of an engine, whose program words stay. -/
theorem onlyCoefShadows_newShadow (s : State) (e : Nat) (c : List (Nat × Word)) :
    OnlyCoefShadows s (s.modEng e fun en => en.newShadow en.progSh c) := by
  by_cases he : e < 17
  · rw [modEng_congr (k := fun en => en.newShadow (s.eng e).progSh c) he rfl]
    refine ⟨onlyShadows_newShadow s e _ c, fun x => ?_⟩
    by_cases hx : x = e
    · rw [hx, eng_modEng_same s e _ he]
      rfl
    · rw [eng_modEng_ne s _ hx]
  · have hsame := eng_modEng_ge s (fun en => en.newShadow en.progSh c) (Nat.le_of_not_lt he)
    exact ⟨⟨rfl, fun x => by rw [hsame]⟩, fun x => by rw [hsame]⟩

section
variable {s : State}

theorem onlyCoefShadows_writeShadow (s : State) (new : Cfg) (l : Nat) : OnlyCoefShadows s (s.writeShadow new l) :=
  forEach_keeps _ (.refl s) fun t e _ h => h.trans (onlyCoefShadows_newShadow t e _)

/-- The new words stand in the shadow bank of a host that no punty accompanies. -/
theorem coefSh_writeShadow (ha : HostsAlone s) (new : Cfg) {l h : Nat} (hh : (s.le l).host = some h) (hlt : h < 17) :
    ((s.writeShadow new l).eng h).coefSh = (new.le l).golden := by
  rw [State.writeShadow, leEngines_alone ha, hh]
  show ((s.modEng h _).eng h).coefSh = _
  rw [eng_modEng_same s h _ hlt]
  rfl

/-- The words of a logical engine with another host. -/
theorem eng_writeShadow_ne (ha : HostsAlone s) (new : Cfg) {k h : Nat} (hk : (s.le k).host ≠ some h) :
    (s.writeShadow new k).eng h = s.eng h := by
  rw [State.writeShadow, leEngines_alone ha]
  cases hc : (s.le k).host with
  | none => rfl
  | some j => exact eng_modEng_ne s _ fun e => hk (by rw [hc, e])

/-- The new coefficient words of every logical engine that the items change (R177). -/
def State.writeChanged (s : State) (new : Cfg) (items : List Item) : State :=
  s.forEach (s.changedLes new items) fun t l => t.writeShadow new l

theorem onlyCoefShadows_writeChanged (s : State) (new : Cfg) (items : List Item) :
    OnlyCoefShadows s (s.writeChanged new items) :=
  forEach_keeps _ (.refl s) fun t l _ h => h.trans (onlyCoefShadows_writeShadow t new l)

theorem mem_changedLes {new : Cfg} {l : Nat} (items : List Item) (hl : l < 16) (h : s.cfg.le l ≠ new.le l) :
    l ∈ s.changedLes new items := by
  simp [State.changedLes, hl, h]

theorem coefSh_writeChanged (ha : HostsAlone s)
    (hd : ∀ l k h, (s.le l).host = some h → (s.le k).host = some h → l = k) (new : Cfg) (items : List Item) {l h : Nat}
    (hl : l < 16) (hlt : h < 17) (hh : (s.le l).host = some h) (hne : s.cfg.le l ≠ new.le l) :
    ((s.writeChanged new items).eng h).coefSh = (new.le l).golden := by
  refine forEach_reaches (P := fun t => (t.eng h).coefSh = (new.le l).golden) (Q := OnlyShadows s) (fun t ht => ?_)
    (fun t m hm ht hp => ?_) (fun t m ht => ht.trans (onlyCoefShadows_writeShadow t new m).toOnlyShadows)
    (mem_changedLes items hl hne) (.refl s)
  · exact coefSh_writeShadow (ht.alone ha) new ((congrArg LogEng.host (ht.le l)).trans hh) hlt
  · have hm' : (t.le m).host ≠ some h := fun e => hm (hd m l h ((congrArg LogEng.host (ht.le m)).symm.trans e) hh)
    rw [eng_writeShadow_ne (ht.alone ha) new hm']
    exact hp

end

/-! ## EPOCH_WRITE (R177) -/

/-- Phase 1 with an epoch in hand, outside hard, before any bank is written. -/
def State.writeBegun (s : State) (e : Epoch) : State :=
  (((s.modStg fun x => { x with hard := false }).modHead fun _ => e).setPhase 1).setReg R.STG_ARMED (BitVec.ofNat 32 e.num)

section
variable {s : State} {e : Epoch} {q : List Epoch}

theorem stg_writeBegun (s : State) (e : Epoch) : (s.writeBegun e).stg =
    ((s.modStg fun x => { x with hard := false }).modHead fun _ => e).stg := by
  rw [State.writeBegun, State.setReg_stg, State.setPhase, State.setF_stg]

theorem queue_writeBegun {x : Epoch} (hq : s.stg.queue = x :: q) (e : Epoch) : (s.writeBegun e).stg.queue = e :: q := by
  rw [stg_writeBegun]
  exact queue_modHead (s := s.modStg fun x => { x with hard := false }) (e := x) (q := q) hq _

theorem hard_writeBegun (s : State) (e : Epoch) : (s.writeBegun e).stg.hard = false := by
  rw [stg_writeBegun]
  rfl

theorem rest_setReg (s t : State) (a : Nat) (v : Word) :
    { t.setReg a v with regs := s.regs, stg := s.stg } = { t with regs := s.regs, stg := s.stg } := rfl

/-- Nothing differs but the registers and the stager. -/
theorem rest_writeBegun (s : State) (e : Epoch) : { s.writeBegun e with regs := s.regs, stg := s.stg } = s :=
  (rest_setReg s _ _ _).trans ((((OnlyStager.refl s).modStg fun x => { x with hard := false }).modStg _).setF rfl 1).rest

theorem cfg_of_rest {t : State} (h : { t with regs := s.regs, stg := s.stg } = s) : t.cfg = s.cfg := (congrArg State.cfg h :)

theorem le_of_rest {t : State} (h : { t with regs := s.regs, stg := s.stg } = s) (l : Nat) : t.le l = s.le l :=
  (congrArg (State.le · l) h :)

theorem engs_of_rest {t : State} (h : { t with regs := s.regs, stg := s.stg } = s) : t.engs = s.engs := (congrArg State.engs h :)

theorem eng_of_rest {t : State} (h : { t with regs := s.regs, stg := s.stg } = s) (x : Nat) : t.eng x = s.eng x :=
  (congrArg (State.eng · x) h :)

theorem cfg_writeBegun (s : State) (e : Epoch) : (s.writeBegun e).cfg = s.cfg := cfg_of_rest (rest_writeBegun s e)

theorem nextCfg_writeBegun {x : Epoch} (hq : s.stg.queue = x :: q) (e : Epoch) :
    (s.writeBegun e).nextCfg = e.over s.cfg false := by
  rw [State.nextCfg, queue_writeBegun hq, hard_writeBegun, cfg_writeBegun]

theorem reg_writeBegun (s : State) (e : Epoch) {a : Nat} (h : a ≠ R.STG_STAT) (h' : a ≠ R.STG_ARMED) :
    (s.writeBegun e).reg a = s.reg a :=
  (reg_setReg_ne _ _ h').trans (reg_setF_ne _ 1 h)

theorem phase_writeBegun (s : State) (e : Epoch) : (s.writeBegun e).phase = 1 :=
  (f_setReg_ne _ _ (by decide)).trans (f_setF_same _ F.STG_STAT_PHASE 1 (fldOk (by decide)))

theorem HostsAlone.writeBegun (h : HostsAlone s) (e : Epoch) : HostsAlone (s.writeBegun e) := by
  have hs : (s.writeBegun e).scuState = s.scuState := f_of_reg (reg_writeBegun s e (by decide) (by decide))
  refine ⟨?_, fun h5 => h.2 (hs.symm.trans h5)⟩
  rw [State.shadowing, hs]
  exact h.1

/-- What EPOCH_WRITE shows of an epoch that it has begun to write. -/
structure Written (s t : State) (e : Epoch) (q : List Epoch) : Prop where
  phase : t.phase = 1
  epoch : t.reg R.STG_ARMED = BitVec.ofNat 32 e.num
  regs : ∀ a, a ≠ R.STG_STAT → a ≠ R.STG_ARMED → t.reg a = s.reg a
  rest : { t with regs := s.regs, engs := s.engs, stg := s.stg } = s
  queue : t.stg.queue = e :: q

theorem rest_engs {t : State} (h : { t with regs := s.regs, stg := s.stg } = s) :
    { t with regs := s.regs, engs := s.engs, stg := s.stg } = s :=
  congrArg (fun x : State => { x with engs := s.engs }) h

theorem written_writeBegun {x : Epoch} (hq : s.stg.queue = x :: q) (e : Epoch) : Written s (s.writeBegun e) e q where
  phase := phase_writeBegun s e
  epoch := reg_setReg_same ..
  regs _ h h' := reg_writeBegun s e h h'
  rest := rest_engs (rest_writeBegun s e)
  queue := queue_writeBegun hq e

theorem Written.shadows {t u : State} (h : Written s t e q) (h' : OnlyShadows t u) : Written s u e q where
  phase := (congrArg State.phase h'.rest :).trans h.phase
  epoch := (h'.reg _).trans h.epoch
  regs a ha hb := (h'.reg a).trans (h.regs a ha hb)
  rest := (congrArg (fun x : State => { x with regs := s.regs, engs := s.engs, stg := s.stg }) h'.rest).trans h.rest
  queue := (congrArg Stager.queue h'.stg).trans h.queue

/-- The machine with the shadow banks of an epoch in hand written. -/
def State.shadowWritten (s : State) (e : Epoch) : State :=
  (s.writeBegun e).writeChanged (s.writeBegun e).nextCfg e.items

theorem beginInstalls_nil (s : State) (new : Cfg) : s.beginInstalls new [] false = s := rfl

theorem needsRaise_of_le (s : State) (h : ∀ k ∈ e.clocks, k.2 ≤ 10) : s.needsRaise e = false := by
  have : e.clocks.any (fun k => 10 < k.2) = false := by simpa using h
  rw [State.needsRaise, this, Bool.false_and]

/-- The writing of an epoch that installs no image, places no line and needs no higher voltage, outside hard; the domain
of a timed one runs. -/
theorem stageHead_shadows {x : Epoch} {k : List (Nat × Nat)} (hq : s.stg.queue = x :: q)
    (hh : s.b F.TSU_STAT_HARD = false) (ht : ∀ a b, e.target = .index a b → s.running a = true) (hb : e.transport ≠ 7)
    (hl : e.lines = []) (hi : s.cfg.installs e.items = []) (hk : s.cfg.clocks (s.cfg.lay e.items false) e.items = k)
    (hle : ∀ x ∈ k, x.2 ≤ 10) : s.stageHead e = s.shadowWritten { e with clocks := k } := by
  have hboot : decide (e.transport = 7) = false := decide_eq_false hb
  have hnew : (s.writeBegun { e with clocks := k }).nextCfg =
      ((s.modStg fun x => { x with hard := false }).modHead fun _ => { e with clocks := k }).nextCfg := by
    rw [nextCfg_writeBegun hq, State.nextCfg,
      queue_modHead (s := s.modStg fun x => { x with hard := false }) (e := x) (q := q) hq]
    rfl
  rw [State.shadowWritten, hnew]
  unfold State.stageHead
  rw [hh]
  dsimp only
  rw [hk]
  split
  · next hlate =>
    split at hlate
    · next a b htgt => simp [ht a b htgt] at hlate
    · cases hlate
  · simp only [hi, hl, hboot, beginInstalls_nil, List.map_nil, List.eraseDups_nil, forEach_nil, List.foldl_nil,
      List.not_mem_nil, not_false_eq_true, decide_true, List.filter_true]
    exact if_neg (by rw [needsRaise_of_le _ hle]; exact Bool.false_ne_true)

theorem onlyCoefShadows_shadowWritten (s : State) (e : Epoch) : OnlyCoefShadows (s.writeBegun e) (s.shadowWritten e) :=
  onlyCoefShadows_writeChanged ..

theorem written_shadowWritten {x : Epoch} (hq : s.stg.queue = x :: q) (e : Epoch) : Written s (s.shadowWritten e) e q :=
  (written_writeBegun hq e).shadows (onlyCoefShadows_shadowWritten s e).toOnlyShadows

theorem eng_shadowWritten (s : State) (e : Epoch) (x : Nat) : { (s.shadowWritten e).eng x with
    coefSh := (s.eng x).coefSh, bad := (s.eng x).bad, soft := (s.eng x).soft } = s.eng x := by
  have h := (onlyCoefShadows_shadowWritten s e).eng x
  rw [eng_of_rest (rest_writeBegun s e)] at h
  exact h

theorem coefSh_shadowWritten (ha : HostsAlone s)
    (hd : ∀ l k h, (s.le l).host = some h → (s.le k).host = some h → l = k) (e : Epoch) {l h : Nat} (hl : l < 16)
    (hlt : h < 17) (hh : (s.le l).host = some h) (hne : s.cfg.le l ≠ (s.shadowWritten e).nextCfg.le l) :
    ((s.shadowWritten e).eng h).coefSh = ((s.shadowWritten e).nextCfg.le l).golden := by
  have hle := le_of_rest (rest_writeBegun s e)
  rw [(onlyCoefShadows_shadowWritten s e).nextCfg] at hne ⊢
  refine coefSh_writeChanged (ha.writeBegun e) (fun l k h => ?_) _ _ hl hlt (by rw [hle, hh]) (by rwa [cfg_writeBegun])
  rw [hle, hle]
  exact hd l k h

/-- An epoch without items and clocks changes no engine, where nothing laid over the configuration changes it. -/
theorem engs_shadowWritten_nil {x : Epoch} (hq : s.stg.queue = x :: q) (hi : e.items = []) (hc : e.clocks = [])
    (hlay : s.cfg.lay [] false = s.cfg) : (s.shadowWritten e).engs = s.engs := by
  have hnew : (s.writeBegun e).nextCfg = (s.writeBegun e).cfg := by
    rw [nextCfg_writeBegun hq, cfg_writeBegun]
    simp only [Epoch.over, hi, hc, installs_nil, List.foldl_nil, hlay]
  have hnone : (s.writeBegun e).changedLes (s.writeBegun e).nextCfg [] = [] := by simp [State.changedLes, hnew]
  rw [State.shadowWritten, State.writeChanged, hi, hnone, forEach_nil]
  exact engs_of_rest (rest_writeBegun s e)

/-! ### When it acts -/

/-- Outside the start, an epoch in phase 0 is no BOOT epoch (R223). -/
theorem transport_of_not_booting (hp : s.phase = 0) (hq : s.stg.queue = e :: q) (hb : s.booting = false) :
    e.transport ≠ 7 := by
  intro h
  have hp' : s.f F.STG_STAT_PHASE = 0 := hp
  simp [State.booting, hp', hq, h] at hb

/-- The epoch that a golden copy in error leaves without items (R186). -/
def Epoch.spoilt (e : Epoch) : Epoch := { e.emptied with integrity := true }

/-- What EPOCH_WRITE takes in hand: the epoch at the head, or with a golden copy in error what is left of it. -/
theorem execEpochWrite_begins (hp : s.phase = 0) (hr : s.stg.recon = none) (hq : s.stg.queue = e :: q)
    (hb : s.booting = false) (he : s.early e = false) (g : Option (Fin 16)) : exec (.epochWrite g) s =
      .next (if g.isSome then (s.modHead Epoch.spoilt).stageHead e.spoilt else s.stageHead e) := by
  rw [exec_epochWrite, execEpochWrite, if_neg (by simp [hp, hr]), hq]
  dsimp only
  rw [if_neg (by simp [hb, he])]
  rfl

/-- It waits for phase 0, for the reconcile of the epoch before, for an epoch, and for its lead (R177). -/
theorem execEpochWrite_waits (h : s.phase ≠ 0 ∨ s.stg.recon ≠ none ∨ s.stg.queue = [] ∨
    ∃ x r, s.stg.queue = x :: r ∧ s.early x = true) (g : Option (Fin 16)) : exec (.epochWrite g) s = .next s := by
  rw [exec_epochWrite, execEpochWrite]
  by_cases hbusy : s.phase ≠ 0 ∨ s.stg.recon.isSome
  · rw [if_pos hbusy]
  · obtain ⟨hp, hr⟩ := not_or.mp hbusy
    rw [if_neg hbusy]
    rcases h with h | h | h | ⟨x, r, hq, he⟩
    · exact absurd h hp
    · exact absurd (Option.isSome_iff_ne_none.mpr h) hr
    · rw [h]
    · rw [hq]
      dsimp only
      rw [if_pos (.inr he)]

end

end Sys2Proof.Machine

open Sys2Proof Sys2Proof.Machine

/-- Settles O17: the step begins phase 1 with the epoch and its clocks, and then writes coefficient shadow banks alone,
none where the epoch is left without items. -/
theorem epochsAreWrittenToShadow : Obligations.EpochsAreWrittenToShadow := by
  refine fun e q s => ⟨fun hp hr hq hb hh hsh hsc he ht => ?_, fun h g => execEpochWrite_waits h g⟩
  have hb7 := transport_of_not_booting hp hq hb
  dsimp only
  refine ⟨fun hl hi hle hd => ?_, fun hlay hclk g => ?_⟩
  · have hs := stageHead_shadows hq hh ht hb7 hl hi rfl hle
    generalize s.cfg.clocks (s.cfg.lay e.items false) e.items = k at hs ⊢
    obtain ⟨hphase, hepoch, hregs, hrest, hqueue⟩ := written_shadowWritten hq { e with clocks := k }
    have hx := execEpochWrite_begins hp hr hq hb he none
    rw [if_neg (by decide), hs] at hx
    exact ⟨_, hx, ⟨hphase, hepoch, hregs, hrest⟩, hqueue, fun l h => coefSh_shadowWritten ⟨hsh, hsc⟩ hd _,
      eng_shadowWritten s _⟩
  · have hq' := queue_modHead hq Epoch.spoilt
    have hs := stageHead_shadows (e := e.spoilt) hq' hh ht hb7 rfl (installs_nil _) hclk (by simp)
    have hx := execEpochWrite_begins hp hr hq hb he (some g)
    rw [if_pos (by rfl), hs] at hx
    obtain ⟨hphase, hepoch, hregs, hrest, hqueue⟩ := written_shadowWritten hq' { e.spoilt with clocks := [] }
    exact ⟨_, hx, ⟨hphase, hepoch, hregs, congrArg (fun x : State => { x with stg := s.stg }) hrest⟩,
      engs_shadowWritten_nil hq' rfl rfl hlay, hqueue⟩

end

section
namespace Sys2Proof.Machine

/-! ## Registers that keep their values -/

/-- The registers of a set keep their values. -/
def RegsKept (P : Nat → Prop) (s t : State) : Prop := ∀ a, P a → t.reg a = s.reg a

theorem reg_resetBlock_outside (s : State) {base len a : Nat} (h : a < base ∨ base + len ≤ a) :
    (s.resetBlock base len).reg a = s.reg a :=
  smapGet_filter regReset (fun k => decide (k < base ∨ base + len ≤ k)) s.regs a (decide_eq_true h)

theorem reg_resetBlock_inside (s : State) {base len a : Nat} (h : base ≤ a ∧ a < base + len) :
    (s.resetBlock base len).reg a = regReset a := by
  refine smapGet_of_not_mem _ _ _ fun p hp => ?_
  have hout : p.1 < base ∨ base + len ≤ p.1 := by simpa using (List.mem_filter.mp hp).2
  omega

namespace RegsKept
variable {P Q : Nat → Prop} {s t u : State}

theorem refl (s : State) : RegsKept P s s := fun _ _ => rfl

theorem trans (h : RegsKept P s t) (h' : RegsKept P t u) : RegsKept P s u := fun a ha => (h' a ha).trans (h a ha)

/-- A change of other components. -/
theorem same (h : RegsKept P s t) (hr : u.regs = t.regs) : RegsKept P s u := fun a ha => by
  rw [State.reg, hr]
  exact h a ha

/-- Fewer registers. -/
theorem mono (h : RegsKept P s t) (hQ : ∀ a, Q a → P a) : RegsKept Q s t := fun a ha => h a (hQ a ha)

theorem of_onlyEvents (h : OnlyEvents s t) (hP : ∀ a, P a → a ∉ [R.MBX_RSPPEND 0, R.MBX_RSPPEND 1]) : RegsKept P s t :=
  fun a ha => h.regs a (hP a ha)

theorem setReg (h : RegsKept P s t) {a : Nat} (v : Word) (ha : ¬ P a) : RegsKept P s (t.setReg a v) :=
  fun b hb => (reg_setReg_ne t v (by rintro rfl; exact ha hb)).trans (h b hb)

theorem setF (h : RegsKept P s t) {x : Fld} (v : Nat) (hx : ¬ P x.addr) : RegsKept P s (t.setF x v) := h.setReg _ hx

theorem setF2 (h : RegsKept P s t) {lo hi : Fld} (v : Nat) (hl : ¬ P lo.addr) (hh : ¬ P hi.addr) :
    RegsKept P s (t.setF2 lo hi v) := (h.setF _ hl).setF _ hh

theorem f (h : RegsKept P s t) {x : Fld} (hx : P x.addr) : t.f x = s.f x := f_of_reg (h _ hx)
theorem b (h : RegsKept P s t) {x : Fld} (hx : P x.addr) : t.b x = s.b x := b_of_reg (h _ hx)

theorem on (h : RegsKept P s t) (hP : P R.PMU_PDSTAT) (pd : Nat) : t.on pd = s.on pd := on_of_reg (h _ hP) pd

end RegsKept

/-- The bits of a number beside one that its three parts spell. -/
theorem testBit_parts_ne {H L i k : Nat} (b c : Bool) (hL : L < 2 ^ i) (h : k ≠ i) :
    (2 ^ (i + 1) * H + (2 ^ i * b2n b + L)).testBit k = (2 ^ (i + 1) * H + (2 ^ i * b2n c + L)).testBit k := by
  have hlow (d : Bool) : 2 ^ i * b2n d + L < 2 ^ (i + 1) := by
    rw [Nat.pow_succ]
    cases d <;> simp [b2n] <;> omega
  rw [Nat.testBit_two_pow_mul_add _ (hlow b), Nat.testBit_two_pow_mul_add _ (hlow c)]
  by_cases hk : k < i + 1
  · rw [if_pos hk, if_pos hk, Nat.testBit_two_pow_mul_add _ hL, Nat.testBit_two_pow_mul_add _ hL, if_pos (by omega),
      if_pos (by omega)]
  · rw [if_neg hk, if_neg hk]

/-- A bit of a number is replaced, and no other changes. -/
theorem testBit_replaceBit_ne (n : Nat) {i k : Nat} (v : Bool) (h : k ≠ i) :
    (n - b2n (n.testBit i) * 2 ^ i + b2n v * 2 ^ i).testBit k = n.testBit k := by
  have hbit : n / 2 ^ i % 2 ^ 1 = b2n (n.testBit i) := by
    rw [Nat.testBit_eq_decide_div_mod_eq]
    rcases Nat.mod_two_eq_zero_or_one (n / 2 ^ i) with h | h <;> simp [b2n, h]
  have hn := word_parts n i 1
  rw [hbit] at hn
  have hval : n - b2n (n.testBit i) * 2 ^ i + b2n v * 2 ^ i =
      2 ^ (i + 1) * (n / 2 ^ (i + 1)) + (2 ^ i * b2n v + n % 2 ^ i) := by
    rw [Nat.mul_comm (2 ^ (i + 1)), Nat.mul_comm (2 ^ i)]
    omega
  have hold : n = 2 ^ (i + 1) * (n / 2 ^ (i + 1)) + (2 ^ i * b2n (n.testBit i) + n % 2 ^ i) := by
    rw [Nat.mul_comm (2 ^ (i + 1)), Nat.mul_comm (2 ^ i)]
    omega
  rw [hval]
  conv_rhs => rw [hold]
  exact testBit_parts_ne _ _ (Nat.mod_lt _ (by positivity)) h

/-- A write of one flag of a field leaves the others as they are. -/
theorem fbit_setFbit_ne (s : State) {x : Fld} (hx : x.ok) {i k : Nat} (v : Bool) (h : k ≠ i) :
    (s.setFbit x i v).fbit x k = s.fbit x k := by
  have hlt : ∀ n, (s.f x).testBit n = (decide (n < x.hi + 1 - x.lo) && (s.f x).testBit n) := fun n => by
    rw [← Nat.testBit_mod_two_pow, Nat.mod_eq_of_lt (f_lt s x)]
  rw [State.fbit, State.setFbit, f_setF_same s x _ hx, Nat.testBit_mod_two_pow, State.fbit, testBit_replaceBit_ne _ v h,
    ← hlt, State.fbit]

theorem fbit_setFbit_false (s : State) {x : Fld} (hx : x.ok) (i : Nat) : (s.setFbit x i false).fbit x i = false := by
  have h : s.f x - b2n ((s.f x).testBit i) * 2 ^ i + b2n false * 2 ^ i = s.f x - b2n ((s.f x).testBit i) * 2 ^ i := by
    simp [b2n]
  rw [State.fbit, State.setFbit, f_setF_same s x _ hx, Nat.testBit_mod_two_pow, State.fbit, h, testBit_sub_bit,
    Bool.and_false]

/-- The other power domains stay as they are (R218). -/
theorem on_setOn_ne (s : State) {pd k : Nat} (v : Bool) (h : k ≠ pd) : (s.setOn pd v).on k = s.on k :=
  fbit_setFbit_ne s (fldOk (by decide)) v h

end Sys2Proof.Machine
end

section
namespace Sys2Proof.Machine

/-! ## What the resets of blocks and power domains leave alone -/

/-- The registers of AON (R32). -/
abbrev AonReg (a : Nat) : Prop := 0x40000000 ≤ a ∧ a < 0x40010000

/-- The registers of AON beside the power status, which every power domain shows (R218). -/
abbrev AonHeld (a : Nat) : Prop := AonReg a ∧ a ≠ R.PMU_PDSTAT

theorem not_aonReg {a : Nat} (h : 0x40010000 ≤ a) : ¬ AonReg a := fun ha => absurd ha.2 (Nat.not_lt.mpr h)

theorem not_aonReg_engine {e a : Nat} (h : engBase e ≤ a) : ¬ AonReg a :=
  not_aonReg (le_trans (by decide) ((engBase_ge e).trans h))

/-- Some registers, the pins of AON, control SRAM and the fuses keep what they hold. -/
structure Spares (P : Nat → Prop) (s t : State) : Prop where
  regs : RegsKept P s t
  pmu : t.pmu = s.pmu
  sram : t.sram = s.sram
  fuse : t.fuse = s.fuse

namespace Spares
variable {P : Nat → Prop} {s t u : State}

theorem refl (s : State) : Spares P s s := ⟨.refl s, rfl, rfl, rfl⟩

theorem trans (h : Spares P s t) (h' : Spares P t u) : Spares P s u :=
  ⟨h.regs.trans h'.regs, h'.pmu.trans h.pmu, h'.sram.trans h.sram, h'.fuse.trans h.fuse⟩

/-- A change of other components. -/
theorem same (h : Spares P s t) (hr : u.regs = t.regs) (hp : u.pmu = t.pmu) (hm : u.sram = t.sram) (hf : u.fuse = t.fuse) :
    Spares P s u :=
  ⟨h.regs.same hr, hp.trans h.pmu, hm.trans h.sram, hf.trans h.fuse⟩

theorem setReg (h : Spares P s t) {a : Nat} (v : Word) (ha : ¬ P a) : Spares P s (t.setReg a v) :=
  ⟨h.regs.setReg v ha, h.pmu, h.sram, h.fuse⟩

theorem setF (h : Spares P s t) {x : Fld} (v : Nat) (hx : ¬ P x.addr) : Spares P s (t.setF x v) := h.setReg _ hx

theorem flag (h : Spares P s t) {x : Fld} (hx : ¬ P x.addr) : Spares P s (t.flag x) := h.setF 1 hx

theorem mono {Q : Nat → Prop} (h : Spares P s t) (hQ : ∀ a, Q a → P a) : Spares Q s t :=
  ⟨h.regs.mono hQ, h.pmu, h.sram, h.fuse⟩

/-- After an operation on blocks beyond AON. -/
theorem held (h : Spares AonHeld s t) (h' : Spares AonReg t u) : Spares AonHeld s u :=
  h.trans (h'.mono fun _ ha => ha.1)

theorem setOn (h : Spares AonHeld s t) (pd : Nat) (v : Bool) : Spares AonHeld s (t.setOn pd v) :=
  h.setF _ fun hp => hp.2 rfl

theorem resetBlock (h : Spares AonReg s t) (base len : Nat) (hb : 0x40010000 ≤ base) :
    Spares AonReg s (t.resetBlock base len) :=
  h.trans ⟨fun _ ha => reg_resetBlock_outside t (.inl (lt_of_lt_of_le ha.2 hb)), rfl, rfl, rfl⟩

end Spares

theorem spares_foldl_setReg (f : Nat → Word) (keep : List Nat) {s t : State} (h : Spares AonReg s t)
    (hf : ∀ a, AonReg a → f a = s.reg a) : Spares AonReg s (keep.foldl (fun t a => t.setReg a (f a)) t) := by
  induction keep generalizing t with
  | nil => exact h
  | cons a keep ih =>
    refine ih ⟨fun b hb => ?_, h.pmu, h.sram, h.fuse⟩
    rw [reg_setReg]
    split
    · next e => rw [e] at hb ⊢; exact hf _ hb
    · exact h.regs b hb

theorem Spares.resetKeep {s t : State} (h : Spares AonReg s t) (base : Nat) (keep : List Nat) (hb : 0x40010000 ≤ base) :
    Spares AonReg s (t.resetKeep base keep) :=
  h.trans (spares_foldl_setReg _ keep ((Spares.refl t).resetBlock base 0x10000 hb) fun _ _ => rfl)

/-! ### Blocks -/

section
variable (s : State)

theorem spares_resetXch : Spares AonReg s s.resetXch :=
  ((Spares.refl s).resetBlock 0x40030000 0x10000 (by decide)).same rfl rfl rfl rfl

theorem spares_resetStg : Spares AonReg s s.resetStg :=
  ((Spares.refl s).resetBlock 0x40040000 0x10000 (by decide)).same rfl rfl rfl rfl

theorem spares_resetScu : Spares AonReg s s.resetScu :=
  ((Spares.refl s).resetBlock 0x40180000 0x10000 (by decide)).same rfl rfl rfl rfl

theorem spares_resetClk : Spares AonReg s s.resetClk :=
  ((Spares.refl s).resetKeep 0x40010000 [R.CLK_SLOW] (by decide)).same rfl rfl rfl rfl

theorem spares_resetDma : Spares AonReg s s.resetDma :=
  ((Spares.refl s).resetBlock 0x40060000 0x10000 (by decide)).same rfl rfl rfl rfl

theorem spares_resetHsp : Spares AonReg s s.resetHsp :=
  ((Spares.refl s).resetBlock 0x400A0000 0x10000 (by decide)).same rfl rfl rfl rfl

theorem spares_secSync : Spares AonReg s s.secSync := by
  unfold State.secSync
  exact (((Spares.refl s).setF _ (by decide)).setF _ (by decide)).setF _ (by decide)

theorem spares_resetSec : Spares AonReg s s.resetSec := by
  unfold State.resetSec
  refine Spares.trans ?_ (spares_secSync _)
  exact Spares.same ((Spares.refl s).resetBlock 0x40080000 0x10000 (by decide)) rfl rfl rfl rfl

theorem spares_resetUart (u : Nat) : Spares AonReg s (s.resetUart u) := by
  have hblock := (Spares.refl s).resetBlock (0x400C0000 + 0x1000 * u) 0x1000 (by omega)
  unfold State.resetUart
  dsimp only
  split
  · exact hblock.same rfl rfl rfl rfl
  · have hregs : 0x40010000 ≤ R.UART_ADDR u ∧ 0x40010000 ≤ R.UART_SLOW u ∧ 0x40010000 ≤ R.UART_LEVEL u := by
      unfold R.UART_ADDR R.UART_SLOW R.UART_LEVEL
      omega
    obtain ⟨haddr, hslow, hlevel⟩ := hregs
    refine Spares.setF (Spares.setReg (Spares.setReg ?_ _ (not_aonReg haddr)) _ (not_aonReg hslow)) _ (not_aonReg hlevel)
    exact hblock.same rfl rfl rfl rfl

theorem spares_resetSerial (device : Bool) : Spares AonReg s (s.resetSerial device) := by
  unfold State.resetSerial
  have huarts : ∀ l : List Nat, Spares AonReg s (s.forEach l State.resetUart) := fun l =>
    forEach_keeps (P := Spares AonReg s) _ (.refl s) fun t u _ h => h.trans (spares_resetUart t u)
  exact ((((huarts _).resetBlock 0x400B0000 0x10000 (by decide)).resetBlock 0x400D0000 0x10000 (by decide)).resetKeep
    0x400E0000 _ (by decide)).same rfl rfl rfl rfl

theorem spares_resetCores : Spares AonReg s s.resetCores := (Spares.refl s).same rfl rfl rfl rfl

theorem spares_scramble (a n : Nat) : Spares AonReg s (s.scramble a n) :=
  forEach_keeps (P := Spares AonReg s) _ (.refl s) fun _ _ _ h => h.same rfl rfl rfl rfl

theorem spares_xmpEnd : Spares AonReg s s.xmpEnd := by
  unfold State.xmpEnd
  refine Spares.setF ?_ _ (by decide)
  exact (Spares.refl s).same rfl rfl rfl rfl

theorem spares_xmpAbort : Spares AonReg s s.xmpAbort := by
  unfold State.xmpAbort
  dsimp only
  split
  · exact .refl s
  · refine (Spares.trans ?_ (spares_xmpEnd _)).setF _ (by decide)
    split
    · split
      · exact spares_scramble ..
      · exact .refl s
    · exact .refl s

/-! ### Power domains -/

/-- What PD_SYS loses beside its own status. -/
theorem loseSys_off : ∃ t, Spares AonReg s t ∧ Spares (fun _ => True) (t.setOn 21 false) s.loseSys := by
  unfold State.loseSys
  have hblocks : Spares AonReg s (s.resetXch.resetStg.resetScu.resetClk.resetBlock 0x40190000 0x10000) :=
    ((spares_resetXch s).trans <| (spares_resetStg _).trans <| (spares_resetScu _).trans (spares_resetClk _)).resetBlock
      0x40190000 0x10000 (by decide)
  have hrest (t : State) : Spares AonReg t ((t.resetBlock 0x40050000 0x10000).resetDma.resetHsp.resetSec.resetSerial false) :=
    ((Spares.refl t).resetBlock 0x40050000 0x10000 (by decide)).trans <| (spares_resetDma _).trans <|
      (spares_resetHsp _).trans <| (spares_resetSec _).trans (spares_resetSerial _ _)
  exact ⟨_, hblocks.trans (hrest _), (Spares.refl _).same rfl rfl rfl rfl⟩

theorem spares_loseSys : Spares AonHeld s s.loseSys := by
  obtain ⟨t, ht, hlose⟩ := loseSys_off s
  exact (((Spares.refl s).held ht).setOn 21 false).trans (hlose.mono fun _ _ => trivial)

theorem on_loseSys_self : s.loseSys.on 21 = false := by
  obtain ⟨t, -, hlose⟩ := loseSys_off s
  exact (hlose.regs.on trivial 21).trans (on_setOn_false t 21)

theorem on_loseSys_other {k : Nat} (h : k ≠ 21) : s.loseSys.on k = s.on k := by
  obtain ⟨t, ht, hlose⟩ := loseSys_off s
  exact (hlose.regs.on trivial k).trans ((on_setOn_ne t false h).trans (ht.regs.on (by decide) k))

theorem spares_loseAud : Spares AonHeld s s.loseAud := by
  unfold State.loseAud
  have hblocks := (((Spares.refl s).resetBlock 0x40100000 0x10000 (by decide)).resetBlock 0x40110000 0x10000
    (by decide)).resetBlock 0x40120000 0x10000 (by decide)
  exact (((Spares.refl s).held hblocks).setOn 22 false).same rfl rfl rfl rfl

theorem spares_loseSrc : Spares AonHeld s s.loseSrc := by
  unfold State.loseSrc
  exact (((Spares.refl s).held ((Spares.refl s).resetBlock 0x40130000 0x10000 (by decide))).setOn 23 false).same rfl rfl rfl rfl

theorem Spares.setTu {P : Nat → Prop} {s t : State} (h : Spares P s t) (x : TimeUnit) : Spares P s { t with tu := x } :=
  h.same rfl rfl rfl rfl

theorem spares_tuSource : Spares AonReg s (s.tuSource true) := by
  simp only [State.tuSource, if_true]
  refine Spares.setTu (Spares.flag (Spares.setF (.refl s) _ ?_) ?_) _ <;> decide

theorem Spares.setNet {P : Nat → Prop} {s t : State} (h : Spares P s t) (x : Net) : Spares P s { t with net := x } :=
  h.same rfl rfl rfl rfl

theorem spares_loseNet : Spares AonHeld s s.loseNet := by
  have hblocks := ((Spares.refl s).resetBlock 0x40140000 0x10000 (by decide)).resetBlock 0x40150000 0x10000 (by decide)
  simp only [State.loseNet]
  refine Spares.setNet (Spares.setOn (Spares.held (.refl s) ?_) 24 false) _
  split
  · exact hblocks
  · exact hblocks.trans (spares_tuSource _)

theorem Spares.modFlash {P : Nat → Prop} {s t : State} (h : Spares P s t) (g : Flash → Flash) : Spares P s (t.modFlash g) :=
  h.same rfl rfl rfl rfl

theorem spares_loseXmp : Spares AonHeld s s.loseXmp := by
  simp only [State.loseXmp]
  refine Spares.modFlash (Spares.setOn (Spares.held (.refl s) ?_) 25 false) _
  exact ((spares_xmpAbort s).resetKeep 0x40090000 _ (by decide)).setF _ (by decide)

theorem spares_loseCores : Spares AonHeld s s.loseCores :=
  (((Spares.refl s).held (spares_resetCores s)).setOn 19 false).setOn 20 false

theorem spares_setHalf (b v : Nat) : Spares AonReg s (s.setHalf b v) := by
  unfold State.setHalf
  split <;> exact (Spares.refl s).setF _ (by decide)

theorem spares_loseLds : Spares AonHeld s s.loseLds :=
  forEach_keeps (P := Spares AonHeld s) _ (.refl s) fun t b _ h =>
    (((h.same (u := t.clearHalf b) rfl rfl rfl rfl)).setOn (17 + b) false).held (spares_setHalf _ b 0)

theorem spares_setEngF {x : Fld} {e : Nat} (v : Nat) (hx : engBase e ≤ x.addr) : Spares AonReg s (s.setF x v) :=
  (Spares.refl s).setF v (not_aonReg_engine hx)

theorem spares_resetEngRegs (e : Nat) : Spares AonReg s (s.resetEngRegs e) :=
  (Spares.refl s).resetBlock (engBase e) 0x1000 (le_trans (by decide) (engBase_ge e))

end

theorem Spares.setEngF {s t : State} (h : Spares AonHeld s t) {x : Fld} {e : Nat} (v : Nat) (hx : engBase e ≤ x.addr) :
    Spares AonHeld s (t.setF x v) :=
  h.held (spares_setEngF t v hx)

theorem Spares.modEng {P : Nat → Prop} {s t : State} (h : Spares P s t) (e : Nat) (g : Engine → Engine) :
    Spares P s (t.modEng e g) :=
  h.same rfl rfl rfl rfl

theorem Spares.powerEng {s t : State} (h : Spares AonHeld s t) (e : Nat) (v : Bool) : Spares AonHeld s (t.powerEng e v) := by
  have hreset := (h.setOn e v).held (spares_resetEngRegs _ e)
  unfold State.powerEng
  dsimp only
  split <;> exact (hreset.modEng e _).setEngF (e := e) _ (Nat.le_add_right ..)

theorem spares_loseEngines (s : State) : Spares AonHeld s s.loseEngines :=
  forEach_keeps (P := Spares AonHeld s) _ (.refl s) fun _ e _ h => h.powerEng e false

end Sys2Proof.Machine
end

section
namespace Sys2Proof.Machine

/-! ## The device reset -/

section
variable (s : State)

theorem on_loseCores (k : Nat) (h : k = 19 ∨ k = 20) : s.loseCores.on k = false := by
  unfold State.loseCores
  rcases h with rfl | rfl
  · exact (on_setOn_ne _ false (by decide)).trans (on_setOn_false _ 19)
  · exact on_setOn_false _ 20

/-- What firmware has in hand ends with a device reset. -/
theorem Spares.clearFw {P : Nat → Prop} {s t : State} (h : Spares P s t) (i : List Nat) (l : List (Nat × Word)) (w : List (Nat × Word))
    (les : Vector LogEng 16) (x : Lehr) :
    Spares P s { t with irqs := i, latch := l, slotWr := w, les := les, lehr := x } :=
  h.same rfl rfl rfl rfl

/-- The blocks that a device reset takes, up to what firmware keeps. -/
theorem resetDevice_blocks : ∃ t, Spares AonHeld s t ∧ (∀ k, k = 19 ∨ k = 20 ∨ k = 21 → t.on k = false) ∧
    Spares (fun _ => True) t s.resetDevice := by
  have hbefore : Spares AonHeld s s.loseEngines.loseLds.loseAud.loseSrc.loseNet.loseXmp :=
    (spares_loseEngines s).trans <| (spares_loseLds _).trans <| (spares_loseAud _).trans <| (spares_loseSrc _).trans <|
      (spares_loseNet _).trans (spares_loseXmp _)
  dsimp only [State.resetDevice]
  generalize s.loseEngines.loseLds.loseAud.loseSrc.loseNet.loseXmp = t at hbefore ⊢
  have hafter := ((spares_resetSerial t.loseCores.loseSys true).resetBlock 0x40170000 0x10000 (by decide)).resetBlock
    0x40090000 0x10000 (by decide)
  have hall := ((hbefore.trans (spares_loseCores t)).trans (spares_loseSys t.loseCores)).held hafter
  have hoff (k : Nat) (hk : k = 19 ∨ k = 20 ∨ k = 21) : t.loseCores.loseSys.on k = false := by
    rcases hk with rfl | rfl | rfl
    · exact (on_loseSys_other _ (by decide)).trans (on_loseCores t 19 (.inl rfl))
    · exact (on_loseSys_other _ (by decide)).trans (on_loseCores t 20 (.inr rfl))
    · exact on_loseSys_self _
  have hon (k : Nat) (hk : k = 19 ∨ k = 20 ∨ k = 21) := (hafter.regs.on (by decide) k).trans (hoff k hk)
  generalize ((t.loseCores.loseSys.resetSerial true).resetBlock 0x40170000 0x10000).resetBlock 0x40090000 0x10000 = w
    at hall hon ⊢
  exact ⟨w, hall, hon, Spares.clearFw (.refl w) [] [] [] State.reset.les w.lehr.fresh⟩

/-- A device reset leaves AON, its pins, control SRAM and the fuses. -/
theorem spares_resetDevice : Spares AonHeld s s.resetDevice := by
  obtain ⟨t, ht, -, hsame⟩ := resetDevice_blocks s
  exact ht.trans (hsame.mono fun _ _ => trivial)

/-- After it the cores and PD_SYS are off. -/
theorem on_resetDevice {k : Nat} (hk : k = 19 ∨ k = 20 ∨ k = 21) : s.resetDevice.on k = false := by
  obtain ⟨t, -, hon, hsame⟩ := resetDevice_blocks s
  rw [hsame.regs.on trivial k, hon k hk]

theorem holdReset_eq :
    s.holdReset = { s.resetDevice with pmu := { s.resetDevice.pmu with resetReq := true, held := none } } := rfl

/-- What it keeps when it is held in reset. -/
structure HeldInReset (s t : State) : Prop where
  off : ∀ k, k = 19 ∨ k = 20 ∨ k = 21 → t.on k = false
  regs : RegsKept AonHeld s t
  sram : t.sram = s.sram
  fuse : t.fuse = s.fuse
  pmu : t.pmu = { s.pmu with resetReq := true, held := none }

theorem heldInReset_of_spares {s t u : State} (h : Spares AonHeld s t) (hoff : ∀ k, k = 19 ∨ k = 20 ∨ k = 21 → t.on k = false)
    (hu : u = { t with pmu := { t.pmu with resetReq := true, held := none } }) : HeldInReset s u := by
  subst hu
  have hregs (x : Pmu) : RegsKept (fun _ => True) t { t with pmu := x } := (RegsKept.refl t).same rfl
  refine ⟨fun k hk => ((hregs _).on trivial k).trans (hoff k hk), h.regs.same rfl, h.sram, h.fuse, ?_⟩
  rw [h.pmu]

theorem heldInReset_holdReset : HeldInReset s s.holdReset :=
  heldInReset_of_spares (spares_resetDevice s) (fun _ hk => on_resetDevice s hk) (holdReset_eq s)

end

end Sys2Proof.Machine
end

section
namespace Sys2Proof.Machine

/-! ## AON returns to its reset values (R276, R521) -/

section
variable (s : State)

theorem spares_resetSerialAon : Spares AonReg s s.resetSerialAon := by
  unfold State.resetSerialAon
  have hwake : Spares AonReg s (s.resetBlock R.GPIO_WAKE 4) := (Spares.refl s).resetBlock R.GPIO_WAKE 4 (by decide)
  exact forEach_keeps (P := Spares AonReg s) _ (hwake.same rfl rfl rfl rfl) fun t u _ h =>
    h.resetBlock (0x400C0000 + 0x1000 * u) 0x1000 (by omega)

/-- What a reset of AON leaves in it: WAKEBLK follows the pin (R216). -/
structure AonFresh (s t : State) : Prop where
  regs : ∀ a, AonReg a → a ≠ R.PMU_STAT → t.reg a = regReset a
  stat : t.reg R.PMU_STAT = wordSet (regReset R.PMU_STAT) 24 24 (b2n s.pmu.wakePin)
  tu : t.tu = State.reset.tu
  sram : t.sram = s.sram
  queue : t.stg.queue = s.stg.queue
  fuse : t.fuse = s.fuse

theorem stg_resetSerialAon : s.resetSerialAon.stg = s.stg :=
  forEach_keeps (P := fun t => t.stg = s.stg) _ rfl fun _ _ _ h => h

/-- The time unit and the lehr stand beside the registers. -/
theorem AonFresh.of_regs {s r : State} {x : TimeUnit} (y : Lehr) (hx : x = State.reset.tu)
    (hregs : ∀ a, AonReg a → a ≠ R.PMU_STAT → r.reg a = regReset a)
    (hstat : r.reg R.PMU_STAT = wordSet (regReset R.PMU_STAT) 24 24 (b2n s.pmu.wakePin)) (hsram : r.sram = s.sram)
    (hqueue : r.stg.queue = s.stg.queue) (hfuse : r.fuse = s.fuse) : AonFresh s { r with tu := x, lehr := y } :=
  ⟨hregs, hstat, hx, hsram, hqueue, hfuse⟩

/-- The blocks of AON, as the reset finds them before WAKEBLK. -/
def State.aonBlocks : State :=
  ((s.resetBlock 0x40000000 0x10000).resetBlock 0x40070000 0x10000).resetBlock R.CLK_SLOW 4

theorem reg_aonBlocks {a : Nat} (ha : AonReg a) : s.aonBlocks.reg a = regReset a := by
  unfold State.aonBlocks
  rw [reg_resetBlock_outside _ (.inl (lt_of_lt_of_le ha.2 (by decide))),
    reg_resetBlock_outside _ (.inl (lt_of_lt_of_le ha.2 (by decide))), reg_resetBlock_inside _ ha]

theorem aonReset_eq : s.aonReset =
    { (s.aonBlocks.setF F.PMU_STAT_WAKEBLK (b2n s.pmu.wakePin)).resetSerialAon.resetBlock 0x40020000 0x10000 with
      tu := State.reset.tu, lehr := State.reset.lehr } := rfl

theorem aonBlocks_rest : s.aonBlocks.stg = s.stg ∧ s.aonBlocks.sram = s.sram ∧ s.aonBlocks.fuse = s.fuse := by
  simp [State.aonBlocks]

theorem aonFresh_aonReset : AonFresh s s.aonReset := by
  have h := (spares_resetSerialAon (s.aonBlocks.setF F.PMU_STAT_WAKEBLK (b2n s.pmu.wakePin))).resetBlock 0x40020000 0x10000
    (by decide)
  have hstg := stg_resetSerialAon (s.aonBlocks.setF F.PMU_STAT_WAKEBLK (b2n s.pmu.wakePin))
  have hstat : (s.aonBlocks.setF F.PMU_STAT_WAKEBLK (b2n s.pmu.wakePin)).reg R.PMU_STAT =
      wordSet (regReset R.PMU_STAT) 24 24 (b2n s.pmu.wakePin) := by
    rw [← reg_aonBlocks s (show AonReg R.PMU_STAT by decide)]
    exact reg_setReg_same ..
  obtain ⟨hkstg, hksram, hkfuse⟩ := aonBlocks_rest s
  rw [aonReset_eq]
  refine AonFresh.of_regs _ rfl
    (fun a ha hne => (h.regs a ha).trans ((reg_setF_ne _ _ hne).trans (reg_aonBlocks s ha)))
    ((h.regs R.PMU_STAT (by decide)).trans hstat) ?_ ?_ ?_
  · rw [h.sram, State.setF_sram, hksram]
  · rw [State.resetBlock_stg, hstg, State.setF_stg, hkstg]
  · rw [h.fuse, State.setF_fuse, hkfuse]

end

end Sys2Proof.Machine
end

section
namespace Sys2Proof.Machine

/-! ## Supplies and RST_N (R218, R520 to R522) -/

section
variable (s : State)

/-- The core supply's loss empties control SRAM and the queue, and leaves the rest. -/
theorem loseCore_effect : s.loseCore.sram = [] ∧ s.loseCore.stg.queue = [] ∧ s.loseCore.fuse = s.fuse ∧
    s.loseCore.regs = s.regs ∧ s.loseCore.pmu = { s.pmu with vddMv := 800 } := ⟨rfl, rfl, rfl, rfl, rfl⟩

/-- The device is held in reset with a cause, and keeps its fuses. -/
structure HeldBy (cause : Nat) (s t : State) : Prop where
  req : t.pmu.resetReq = true
  off : ∀ k, k = 19 ∨ k = 20 ∨ k = 21 → t.on k = false
  cause : t.f F.PMU_RSTCAUSE_CAUSE = cause
  fuse : t.fuse = s.fuse

theorem HeldBy.setPmu {cause : Nat} {s t : State} {p : Pmu} (h : HeldBy cause s t) (hp : p.resetReq = true) :
    HeldBy cause s { t with pmu := p } :=
  have hsame : RegsKept (fun _ => True) t { t with pmu := p } := (RegsKept.refl t).same rfl
  ⟨hp, fun k hk => (hsame.on trivial k).trans (h.off k hk), (hsame.f trivial).trans h.cause, h.fuse⟩

theorem HeldInReset.by_cause {cause : Nat} {s u v : State} (h : HeldInReset u v) (hcause : u.f F.PMU_RSTCAUSE_CAUSE = cause)
    (hfuse : u.fuse = s.fuse) : HeldBy cause s v :=
  ⟨by rw [h.pmu], h.off, (h.regs.f (x := F.PMU_RSTCAUSE_CAUSE) (by decide)).trans hcause, h.fuse.trans hfuse⟩

theorem HeldBy.loseCore {cause : Nat} {s t : State} (h : HeldBy cause s t) : HeldBy cause s t.loseCore := by
  obtain ⟨-, -, hfuse, hregs, hpmu⟩ := loseCore_effect t
  have hsame : RegsKept (fun _ => True) t t.loseCore := (RegsKept.refl t).same hregs
  exact ⟨by rw [hpmu, h.req], fun k hk => (hsame.on trivial k).trans (h.off k hk), (hsame.f trivial).trans h.cause,
    hfuse.trans h.fuse⟩

/-- A supply monitor fails in S0 to S4: the device that held the cause has lost its core supply. -/
theorem supplyMonitorFail_effect (h5 : s.powerState ≠ 5) : ∃ t, execSupplyMonitorFail s = .next t ∧ HeldBy 1 s t ∧
    t.reg (R.AON_RET 0) = 0 ∧ t.sram = [] ∧ t.stg.queue = [] := by
  have hexec : execSupplyMonitorFail s = .next ((s.setF F.PMU_RSTCAUSE_CAUSE 1).setAonRet 0 0).holdReset.loseCore :=
    congrArg Host.Outcome.next (if_neg h5)
  have hcause : ((s.setF F.PMU_RSTCAUSE_CAUSE 1).setAonRet 0 0).f F.PMU_RSTCAUSE_CAUSE = 1 :=
    (f_setReg_ne _ _ (by decide)).trans (f_setF_same s F.PMU_RSTCAUSE_CAUSE 1 (fldOk (by decide)))
  have hret : ((s.setF F.PMU_RSTCAUSE_CAUSE 1).setAonRet 0 0).reg (R.AON_RET 0) = 0 := reg_setReg_same ..
  have hfuse : ((s.setF F.PMU_RSTCAUSE_CAUSE 1).setAonRet 0 0).fuse = s.fuse := by simp [State.setAonRet]
  rw [hexec]
  generalize (s.setF F.PMU_RSTCAUSE_CAUSE 1).setAonRet 0 0 = u at hcause hret hfuse ⊢
  have h := heldInReset_holdReset u
  generalize u.holdReset = v at h ⊢
  obtain ⟨hsram, hqueue, -, hregs, -⟩ := loseCore_effect v
  have hsame : RegsKept (fun _ => True) v v.loseCore := (RegsKept.refl v).same hregs
  exact ⟨v.loseCore, rfl, (h.by_cause hcause hfuse).loseCore, (hsame _ trivial).trans ((h.regs _ (by decide)).trans hret), hsram,
    hqueue⟩

/-- The AON supply's loss and its return reset AON too. -/
theorem aonFresh_holdReset : AonFresh { s with sram := [], stg := { s.stg with queue := [] } } s.holdReset.loseCore.aonReset := by
  have h := heldInReset_holdReset s
  generalize s.holdReset = v at h ⊢
  obtain ⟨hsram, hqueue, hfuse, -, hpmu⟩ := loseCore_effect v
  have ha := aonFresh_aonReset v.loseCore
  generalize v.loseCore.aonReset = w at ha ⊢
  generalize v.loseCore = x at hsram hqueue hfuse hpmu ha
  exact ⟨ha.regs, by rw [ha.stat, hpmu, h.pmu], ha.tu, ha.sram.trans hsram, ha.queue.trans hqueue,
    ha.fuse.trans (hfuse.trans h.fuse)⟩

/-- What RST_N does before the device reset: the cause, and the settings of the PMU that it resets (R218). -/
def State.rstBegun : State :=
  ((((s.setF F.PMU_RSTCAUSE_CAUSE 2).resetBlock R.PMU_CTRL 4).resetBlock R.PMU_LATTOL 4).resetBlock R.PMU_REQMASK 4).netKeepSync

theorem rstBegun_effect : s.rstBegun.f F.PMU_RSTCAUSE_CAUSE = 2 ∧ s.rstBegun.powerState = s.powerState ∧
    s.rstBegun.sram = s.sram ∧ s.rstBegun.fuse = s.fuse := by
  have hout (a : Nat) (ha : a = R.PMU_STAT ∨ a = R.PMU_RSTCAUSE) (t : State) :
      (((t.resetBlock R.PMU_CTRL 4).resetBlock R.PMU_LATTOL 4).resetBlock R.PMU_REQMASK 4).reg a = t.reg a := by
    have hrange : R.PMU_CTRL + 4 ≤ a ∧ (a < R.PMU_LATTOL ∨ R.PMU_LATTOL + 4 ≤ a) ∧ (a < R.PMU_REQMASK ∨ R.PMU_REQMASK + 4 ≤ a) := by
      rcases ha with rfl | rfl <;> decide
    rw [reg_resetBlock_outside _ hrange.2.2, reg_resetBlock_outside _ hrange.2.1, reg_resetBlock_outside _ (.inr hrange.1)]
  have hcause := f_setF_same s F.PMU_RSTCAUSE_CAUSE 2 (fldOk (by decide))
  have hstate := f_setF_ne s (x := F.PMU_RSTCAUSE_CAUSE) (y := F.PMU_STAT_STATE) 2 (fldOk (by decide)) (apart_of_addr (by decide))
  have hsync (t : State) : t.netKeepSync.f F.PMU_RSTCAUSE_CAUSE = t.f F.PMU_RSTCAUSE_CAUSE ∧
      t.netKeepSync.f F.PMU_STAT_STATE = t.f F.PMU_STAT_STATE :=
    ⟨f_setF_ne t _ (fldOk (by decide)) (apart_of_addr (by decide)), f_setF_ne t _ (fldOk (by decide)) (apart_of_bits (by decide))⟩
  have hrest (t : State) : t.netKeepSync.sram = t.sram ∧ t.netKeepSync.fuse = t.fuse :=
    ⟨State.setF_sram .., State.setF_fuse ..⟩
  refine ⟨?_, ?_, ?_, ?_⟩
  · exact (hsync _).1.trans ((f_of_reg (x := F.PMU_RSTCAUSE_CAUSE) (hout _ (.inr rfl) _)).trans hcause)
  · exact (hsync _).2.trans ((f_of_reg (x := F.PMU_STAT_STATE) (hout _ (.inl rfl) _)).trans hstate)
  · rw [State.rstBegun, (hrest _).1, State.resetBlock_sram, State.resetBlock_sram, State.resetBlock_sram, State.setF_sram]
  · rw [State.rstBegun, (hrest _).2, State.resetBlock_fuse, State.resetBlock_fuse, State.resetBlock_fuse, State.setF_fuse]

/-- RST_N low for 1 µs outside S5. -/
theorem execRstN_acts {ns : Nat} (released : Bool) (hns : 1000 ≤ ns) (h5 : s.powerState ≠ 5) :
    execRstN ns released s =
      .next { s.rstBegun.holdReset with pmu := { s.rstBegun.holdReset.pmu with rstN := released } } := by
  have hstate : s.rstBegun.holdReset.powerState ≠ 5 := by
    have h := (heldInReset_holdReset s.rstBegun).regs.f (x := F.PMU_STAT_STATE) (by decide)
    rw [State.powerState, h]
    exact ne_of_eq_of_ne (rstBegun_effect s).2.1 h5
  have hretry : (s.powerState == 5 && s.pmu.resetReq && s.pmu.rstN) = false := by simp [h5]
  have hacts : s.rstActs ns = (true, s) := if_pos hns
  have hkept (t : State) (x : Pmu) (h : t.powerState ≠ 5) : State.powerState { t with pmu := x } ≠ 5 := h
  unfold execRstN
  rw [hacts, hretry]
  refine congrArg _ ((if_neg Bool.false_ne_true).trans (if_pos (Or.inl ?_)))
  exact hkept _ _ hstate

end

end Sys2Proof.Machine
end

section
namespace Sys2Proof.Machine

/-! ## A start that leaves the engines, the queue and the logical engines as they are (R494) -/

/-- Registers that the ROM's start leaves until it enables HSP. -/
abbrev StartHeld (a : Nat) : Prop := a = R.PMU_RSTCAUSE ∨ a = R.SEC_CTRL ∨ a = R.HSP_CTRL

/-- The cause, SEC and HSP, the engines, the queue, the logical engines, the cores and the fuses keep what they hold. -/
structure Starting (s t : State) : Prop where
  regs : RegsKept StartHeld s t
  engs : t.engs = s.engs
  stg : t.stg = s.stg
  les : t.les = s.les
  ccs : t.ccs = s.ccs
  fuse : t.fuse = s.fuse

namespace Starting
variable {s t u : State}

theorem refl (s : State) : Starting s s := ⟨.refl s, rfl, rfl, rfl, rfl, rfl⟩

theorem trans (h : Starting s t) (h' : Starting t u) : Starting s u :=
  ⟨h.regs.trans h'.regs, h'.engs.trans h.engs, h'.stg.trans h.stg, h'.les.trans h.les, h'.ccs.trans h.ccs, h'.fuse.trans h.fuse⟩

theorem setReg (h : Starting s t) {a : Nat} (v : Word) (ha : ¬ StartHeld a) : Starting s (t.setReg a v) :=
  ⟨h.regs.setReg v ha, h.engs, h.stg, h.les, h.ccs, h.fuse⟩

theorem setF (h : Starting s t) {x : Fld} (v : Nat) (hx : ¬ StartHeld x.addr) : Starting s (t.setF x v) := h.setReg _ hx

theorem setFbit (h : Starting s t) {x : Fld} (i : Nat) (v : Bool) (hx : ¬ StartHeld x.addr) : Starting s (t.setFbit x i v) :=
  h.setF _ hx

theorem modFlash (h : Starting s t) (g : Flash → Flash) : Starting s (t.modFlash g) :=
  ⟨h.regs.same rfl, h.engs, h.stg, h.les, h.ccs, h.fuse⟩

theorem setSysLoop (h : Starting s t) (x : SysLoop) : Starting s { t with sysLoop := x } :=
  ⟨h.regs.same rfl, h.engs, h.stg, h.les, h.ccs, h.fuse⟩

theorem free (h : Starting s t) : Starting s t.free.2 := ⟨h.regs.same rfl, h.engs, h.stg, h.les, h.ccs, h.fuse⟩

theorem setRom (h : Starting s t) (x : Rom) : Starting s { t with rom := x } :=
  ⟨h.regs.same rfl, h.engs, h.stg, h.les, h.ccs, h.fuse⟩

theorem xmpAbort (h : Starting s t) : Starting s t.xmpAbort := by
  unfold State.xmpAbort
  dsimp only
  split
  · exact h
  · have hend (v : State) (hv : Starting s v) : Starting s (v.xmpEnd.flag F.XMP_STAT_ABORTED) :=
      ((hv.modFlash _).setF (x := F.XMP_STAT_BUSY) 0 (by decide)).setF (x := F.XMP_STAT_ABORTED) 1 (by decide)
    refine hend _ ?_
    split
    · split
      · exact forEach_keeps (P := Starting s) _ h fun v _ _ hv => hv.free.modFlash _
      · exact h
    · exact h

theorem sysApply (h : Starting s t) : Starting s t.sysApply :=
  ((h.setSysLoop _).setF (x := F.CLK_STAT_SYSPEND) 0 (by decide)).setFbit (x := F.CLK_STAT_LOCK) 0 false (by decide)

theorem romClocks (h : Starting s t) (locks : Bool) : Starting s (t.romClocks locks) := by
  unfold State.romClocks
  refine Starting.setF ?_ _ (by decide)
  split
  · exact h
  · dsimp only
    have hset (a b : Nat) := (h.setF (x := F.CLK_CTRL_REFSEL) a (by decide)).setF (x := F.CLK_SYSI_INT) b (by decide)
    have hloop (a b : Nat) := ((hset a b).sysApply.setF (x := F.CLK_CTRL_SYSEN) 1 (by decide)).setFbit (x := F.CLK_STAT_LOCK) 0 locks
      (by decide)
    split
    · exact hloop ..
    · exact (hloop ..).setReg _ (by decide)

theorem xipSync (h : Starting s t) : Starting s t.xipSync := h.setF (x := F.XMP_STAT_XIPACT) _ (by decide)

theorem xmpModes (h : Starting s t) (rd pr : XMode) : Starting s (t.xmpModes rd pr) :=
  (h.modFlash _).setF (x := F.XMP_CLK_DIV) _ (by decide)

theorem romXmp (h : Starting s t) : Starting s t.romXmp := by
  unfold State.romXmp
  dsimp only
  have hon (m : XMode) := ((h.xmpAbort.setFbit (x := F.PMU_PDSTAT_ON) 25 true (by decide)).setF (x := F.XMP_CTRL_EN) 1
    (by decide)).xipSync.xmpModes m XMode.first
  split
  · have hmode (m : XMode) (a b : Nat) := ((hon m).setF (x := F.XMP_ECCCFG_MODE) a (by decide)).setF
      (x := F.XMP_ECCCFG_PAGE4K) b (by decide)
    split
    · exact (hmode _ _ _).setF (x := F.XMP_ECCCFG_PARBASE) _ (by decide)
    · exact hmode _ _ _
  · exact (hon _).setF (x := F.XMP_ECCCFG_MODE) _ (by decide)

end Starting

section
variable (s : State)

/-- A reset that leaves the engines, the queue, the logical engines, the cores and the fuses. -/
structure Beside (s t : State) : Prop where
  engs : t.engs = s.engs
  stg : t.stg = s.stg
  les : t.les = s.les
  ccs : t.ccs = s.ccs
  fuse : t.fuse = s.fuse

theorem Beside.trans {s t u : State} (h : Beside s t) (h' : Beside t u) : Beside s u :=
  ⟨h'.engs.trans h.engs, h'.stg.trans h.stg, h'.les.trans h.les, h'.ccs.trans h.ccs, h'.fuse.trans h.fuse⟩

theorem beside_resetDma : Beside s s.resetDma := ⟨rfl, rfl, rfl, rfl, rfl⟩
theorem beside_resetHsp : Beside s s.resetHsp := ⟨rfl, rfl, rfl, rfl, rfl⟩
theorem beside_resetBlock (base len : Nat) : Beside s (s.resetBlock base len) := ⟨rfl, rfl, rfl, rfl, rfl⟩
theorem beside_setF (x : Fld) (v : Nat) : Beside s (s.setF x v) := ⟨rfl, rfl, rfl, rfl, rfl⟩
theorem beside_setSec (x : Sec) : Beside s { s with sec := x } := ⟨rfl, rfl, rfl, rfl, rfl⟩

theorem beside_secSync : Beside s s.secSync :=
  ((beside_setF s F.SEC_STAT_LC _).trans (beside_setF _ F.SEC_ARB_COUNT _)).trans (beside_setF _ F.SEC_KEYREV_REV _)

theorem beside_resetSec : Beside s s.resetSec :=
  ((beside_resetBlock s 0x40080000 0x10000).trans (beside_setSec _ State.reset.sec)).trans (beside_secSync _)

/-- A reset of SEC puts it back into ROM mode. -/
theorem romdone_resetSec : s.resetSec.b F.SEC_CTRL_ROMDONE = false := by
  have hsync (t : State) : t.secSync.reg R.SEC_CTRL = t.reg R.SEC_CTRL :=
    (reg_setF_ne _ (x := F.SEC_KEYREV_REV) _ (by decide)).trans
      ((reg_setF_ne _ (x := F.SEC_ARB_COUNT) _ (by decide)).trans (reg_setF_ne t (x := F.SEC_STAT_LC) _ (by decide)))
  have hreset : (s.resetBlock 0x40080000 0x10000).reg R.SEC_CTRL = regReset R.SEC_CTRL := reg_resetBlock_inside s (by decide)
  have hzero : regReset R.SEC_CTRL = 0 := by decide +kernel
  have hreg : s.resetSec.reg R.SEC_CTRL = 0 := (hsync _).trans (hreset.trans hzero)
  rw [State.b, State.f, show F.SEC_CTRL_ROMDONE.addr = R.SEC_CTRL from rfl, hreg]
  decide

/-- CC0's watchdog resets both cores, DMA, MBX, HSP and SEC, and records the cause (R494). -/
def State.watchdogBegun : State :=
  ((((s.resetCores.resetDma).resetHsp).resetSec).resetBlock 0x40050000 0x10000).setF F.PMU_RSTCAUSE_CAUSE 3

theorem watchdogBegun_beside : Beside s.resetCores s.watchdogBegun :=
  ((((beside_resetDma s.resetCores).trans (beside_resetHsp _)).trans (beside_resetSec _)).trans (beside_resetBlock _ _ _)).trans
    (beside_setF _ _ _)

theorem watchdogBegun_effect : s.watchdogBegun.f F.PMU_RSTCAUSE_CAUSE = 3 ∧ s.watchdogBegun.romMode = true := by
  have hdone := romdone_resetSec (s.resetCores.resetDma).resetHsp
  unfold State.watchdogBegun
  generalize (s.resetCores.resetDma).resetHsp.resetSec = w at hdone ⊢
  constructor
  · exact f_setF_same _ F.PMU_RSTCAUSE_CAUSE 3 (fldOk (by decide))
  · have hblock : (w.resetBlock 0x40050000 0x10000).b F.SEC_CTRL_ROMDONE = w.b F.SEC_CTRL_ROMDONE :=
      b_of_reg (x := F.SEC_CTRL_ROMDONE) (reg_resetBlock_outside w (.inr (by decide)))
    rw [State.romMode, b_setF_ne _ (x := F.PMU_RSTCAUSE_CAUSE) (y := F.SEC_CTRL_ROMDONE) _ (fldOk (by decide)) (apart_of_addr (by decide)), hblock, hdone]
    rfl

theorem pc_resetCores : (s.resetCores.cc 0).pc = 0 := by
  rw [State.cc, State.resetCores, Vector.getElem?_map]
  cases s.ccs[0]? <;> rfl

theorem lifecycle_of_fuse {s t : State} (h : t.fuse = s.fuse) : t.lifecycle = s.lifecycle := by
  rw [State.lifecycle, State.lifecycle, State.fuseWord, State.fuseWord, h]

/-- The state that the ROM's start begins with: CC1 waits, the window is shut, and the part is the one that stands there. -/
def State.romBegun (i : BootIn) : State :=
  { s.modCc 1 fun k => { k with parked := true } with rom := ⟨false, none, false, false⟩ }.modFlash fun x => { x with part := i.part }

theorem romBegun_starting (i : BootIn) : Starting (s.modCc 1 fun k => { k with parked := true }) (s.romBegun i) :=
  ((Starting.refl _).setRom _).modFlash _

theorem fuse_romBegun (i : BootIn) : (s.romBegun i).fuse = s.fuse := rfl

/-- A start that serves the host: HSP is on, and the cause, the ROM's mode, the engines, the queue, the logical engines, the
cores and the fuses are those that it began with. -/
structure Served (s t : State) : Prop where
  regs : RegsKept (fun a => a = R.PMU_RSTCAUSE ∨ a = R.SEC_CTRL) s t
  hsp : t.b F.HSP_CTRL_EN = true
  engs : t.engs = s.engs
  stg : t.stg = s.stg
  les : t.les = s.les
  ccs : t.ccs = s.ccs
  fuse : t.fuse = s.fuse

theorem Starting.enableHsp {s t : State} (h : Starting s t) : Served s (t.setF F.HSP_CTRL_EN 1) where
  regs := (h.regs.mono fun _ ha => ha.elim .inl fun ha => .inr (.inl ha)).setF _ (by decide)
  hsp := b_setF_one t F.HSP_CTRL_EN (fldOk (by decide))
  engs := (State.setF_engs ..).trans h.engs
  stg := (State.setF_stg ..).trans h.stg
  les := (State.setF_les ..).trans h.les
  ccs := (State.setF_ccs ..).trans h.ccs
  fuse := (State.setF_fuse ..).trans h.fuse

theorem Served.trans {s t u : State} (h : Served s t) (h' : Starting t u) : Served s u where
  regs := h.regs.trans (h'.regs.mono fun _ ha => ha.elim .inl fun ha => .inr (.inl ha))
  hsp := (h'.regs.b (x := F.HSP_CTRL_EN) (.inr (.inr rfl))).trans h.hsp
  engs := h'.engs.trans h.engs
  stg := h'.stg.trans h.stg
  les := h'.les.trans h.les
  ccs := h'.ccs.trans h.ccs
  fuse := h'.fuse.trans h.fuse

theorem served_romStart {i : BootIn} (h : s.lifecycle ≠ 1 ∨ i.wake = true) :
    Served (s.modCc 1 fun k => { k with parked := true }) (s.romStart i) := by
  have hu := romBegun_starting s i
  have hlife := lifecycle_of_fuse (fuse_romBegun s i)
  change Served _ (if (s.romBegun i).lifecycle = 2 then (s.romBegun i).setF F.HSP_CTRL_EN 1 else
    let v := (((s.romBegun i).romClocks i.sysLocks).setF F.HSP_CTRL_EN 1).romXmp
    if v.lifecycle = 0 then v.openWindow false else if i.wake then v.openWindow true else v.trySlots i (some i.bistPass))
  generalize s.romBegun i = u at hu hlife ⊢
  split
  · exact hu.enableHsp
  · have hxmp : Served _ ((u.romClocks i.sysLocks).setF F.HSP_CTRL_EN 1).romXmp :=
      (hu.romClocks i.sysLocks).enableHsp.trans (Starting.refl _).romXmp
    have hlast := lifecycle_of_fuse (hxmp.fuse.trans rfl : _ = s.fuse)
    generalize ((u.romClocks i.sysLocks).setF F.HSP_CTRL_EN 1).romXmp = v at hxmp hlast ⊢
    have hopen (first : Bool) : Served (s.modCc 1 fun k => { k with parked := true }) (v.openWindow first) :=
      hxmp.trans ((Starting.refl v).setRom _)
    dsimp only
    split
    · exact hopen false
    · next hlife2 hlife0 =>
      have hwake : i.wake = true := h.resolve_left fun h1 => by
        have hlt : s.lifecycle < 3 := by
          unfold State.lifecycle
          split_ifs <;> decide
        omega
      rw [if_pos hwake]
      exact hopen true

end

end Sys2Proof.Machine
end

section
namespace Sys2Proof.Machine

/-! ## Watchdogs (R454, R494, R503) -/

section
variable (s : State)

theorem cc_of_ccs {s t : State} (h : t.ccs = s.ccs) (c : Nat) : t.cc c = s.cc c := by rw [State.cc, h, State.cc]

theorem execWatchdogExpiry_acts (i : BootIn) (hc : s.clocked 0 = true) (hen : (s.cc 0).sf 0x20 31 31 = 1) :
    execWatchdogExpiry i s = .next (s.watchdogBegun.romStart i) := by
  refine congrArg _ (if_neg ?_)
  simp [hc, hen]

theorem resetCores_rest : s.resetCores.engs = s.engs ∧ s.resetCores.stg = s.stg ∧ s.resetCores.les = s.les ∧
    s.resetCores.fuse = s.fuse := by
  unfold State.resetCores
  exact ⟨rfl, rfl, rfl, rfl⟩

theorem modCc_rest (c : Nat) (g : CtlCore → CtlCore) : (s.modCc c g).regs = s.regs ∧ (s.modCc c g).engs = s.engs ∧
    (s.modCc c g).stg = s.stg ∧ (s.modCc c g).les = s.les := ⟨rfl, rfl, rfl, rfl⟩

theorem watchdogExpiry_effect {i : BootIn} (h : s.lifecycle ≠ 1 ∨ i.wake = true) :
    let t := s.watchdogBegun.romStart i
    t.f F.PMU_RSTCAUSE_CAUSE = 3 ∧ t.romMode = true ∧ (t.cc 0).pc = 0 ∧ (t.cc 1).parked = true ∧
      t.b F.HSP_CTRL_EN = true ∧ t.engs = s.engs ∧ t.stg = s.stg ∧ t.les = s.les := by
  obtain ⟨hcause, hmode⟩ := watchdogBegun_effect s
  have hbeside := watchdogBegun_beside s
  obtain ⟨hengs, hstg, hles, hfuse⟩ := resetCores_rest s
  have hlife := lifecycle_of_fuse (hbeside.fuse.trans hfuse)
  generalize s.watchdogBegun = w at hcause hmode hbeside hlife ⊢
  have hserved := served_romStart w (i := i) (h.imp_left fun h1 => by rwa [hlife])
  generalize w.romStart i = t at hserved ⊢
  obtain ⟨hwregs, hwengs, hwstg, hwles⟩ := modCc_rest w 1 fun k => { k with parked := true }
  have hcore (c : Nat) := cc_of_ccs hserved.ccs c
  have hother := cc_modCc_ne w (c := 1) (j := 0) (fun k => { k with parked := true }) (by decide)
  have hself := cc_modCc_same w 1 fun k => { k with parked := true }
  have hregs := ((RegsKept.refl w).same hwregs).trans hserved.regs
  refine ⟨?_, ?_, ?_, ?_, hserved.hsp, hserved.engs.trans (hwengs.trans (hbeside.engs.trans hengs)),
    hserved.stg.trans (hwstg.trans (hbeside.stg.trans hstg)), hserved.les.trans (hwles.trans (hbeside.les.trans hles))⟩
  · exact (hregs.f (x := F.PMU_RSTCAUSE_CAUSE) (.inl rfl)).trans hcause
  · rw [State.romMode, hregs.b (x := F.SEC_CTRL_ROMDONE) (.inr rfl)]
    exact hmode
  · exact (congrArg CtlCore.pc ((hcore 0).trans (hother.trans (cc_of_ccs hbeside.ccs 0)))).trans (pc_resetCores s)
  · exact congrArg CtlCore.parked ((hcore 1).trans hself)

theorem mem_addNat_self (l : List Nat) (n : Nat) : n ∈ addNat l n := by
  unfold addNat
  split_ifs with h
  · exact h
  · simp

/-- CC1 takes a new state, and a line latches. -/
theorem modCc_irqEvent (k : CtlCore) (line : Nat) : ((s.modCc 1 fun _ => k).irqEvent line).cc 1 = k ∧
    ((s.modCc 1 fun _ => k).irqEvent line).cc 0 = s.cc 0 ∧ line ∈ ((s.modCc 1 fun _ => k).irqEvent line).irqs ∧
    ((s.modCc 1 fun _ => k).irqEvent line).regs = s.regs :=
  ⟨cc_modCc_same s 1 _, cc_modCc_ne s (c := 1) (j := 0) _ (by decide), mem_addNat_self _ line, rfl⟩

/-- CC1 after an expiry of its watchdog: it waits in ROM, and the expiry is counted. -/
def State.cc1Begun (old : List Nat) : State :=
  (({ s with irqs := delNat s.irqs 125 } : State).modCc 1 fun _ => { CtlCore.init with
    parked := true, expiries := old ++ [s.s0] }).irqEvent 62

theorem mb_cc1Begun (old : List Nat) (m : Nat) : (s.cc1Begun old).mb m = s.mb m := rfl

theorem cc1Begun_effect (old : List Nat) : let t := s.cc1Begun old
    (t.cc 1).parked = true ∧ s.s0 ∈ (t.cc 1).expiries ∧ 62 ∈ t.irqs ∧ t.cc 0 = s.cc 0 ∧ t.regs = s.regs := by
  obtain ⟨hself, hother, hline, hregs⟩ := modCc_irqEvent { s with irqs := delNat s.irqs 125 }
    { CtlCore.init with parked := true, expiries := old ++ [s.s0] } 62
  refine ⟨congrArg CtlCore.parked hself, ?_, hline, hother, hregs⟩
  have hexp : ((s.cc1Begun old).cc 1).expiries = old ++ [s.s0] := congrArg CtlCore.expiries hself
  rw [hexp]
  exact List.mem_append_right _ (List.mem_singleton_self _)

theorem modCc_irqEvent_rest (k : CtlCore) (line : Nat) (cs : Vector CtlCore 2) (is : List Nat) :
    { (s.modCc 1 fun _ => k).irqEvent line with ccs := cs, irqs := is } = { s with ccs := cs, irqs := is } := by
  unfold State.modCc State.irqEvent
  rfl

theorem cc1Begun_rest (old : List Nat) : { s.cc1Begun old with ccs := s.ccs, irqs := s.irqs } = s := by
  unfold State.cc1Begun
  rw [modCc_irqEvent_rest]

theorem execCc1WatchdogExpiry_acts (ms : Nat) (hc : s.clocked 1 = true) (hen : (s.cc 1).sf 0x20 31 31 = 1)
    (hclosed : (s.mb 7).opened = false) :
    ∃ old, execCc1WatchdogExpiry ms s = .next (s.cc1Begun old).cc1Wakes := by
  refine ⟨if 60000 ≤ ms then [] else s.cc1Recent, congrArg _ ((if_neg (by simp [hc, hen])).trans ?_)⟩
  have hclose (old : List Nat) : (s.cc1Begun old).closeSession 7 = s.cc1Begun old :=
    if_neg (by rw [mb_cc1Begun, hclosed]; exact Bool.false_ne_true)
  exact congrArg State.cc1Wakes (hclose _)

/-- The doorbell of CC1 that waits in ROM (R454). -/
theorem rspBell_parked (hon : s.on 20 = true) (hparked : (s.cc 1).parked = true) :
    s.rspBell 7 = s.modCc 1 fun k => { k with parked := false, pc := (s.reg (R.AON_RET 2)).toNat } := by
  refine if_pos ?_
  have hp : (s.ccs[1]?.getD CtlCore.init).parked = true := hparked
  rw [hon, hp]
  rfl

theorem fbit_of_regs {s t : State} (h : t.regs = s.regs) (x : Fld) (i : Nat) : t.fbit x i = s.fbit x i := by
  rw [State.fbit, State.fbit, State.f, State.f, State.reg, State.reg, h]

/-- CC1 stays in ROM while its doorbell is quiet. -/
theorem cc1Wakes_quiet (hbell : s.fbit (F.MBX_RSPPEND_PEND 0) 7 = false) : s.cc1Wakes = s :=
  if_neg (by rw [hbell]; exact Bool.false_ne_true)

/-- CC1 that waits starts at once where its doorbell is pending (R454). -/
theorem cc1Wakes_pending (hon : s.on 20 = true) (hparked : (s.cc 1).parked = true)
    (hbell : s.fbit (F.MBX_RSPPEND_PEND 0) 7 = true) :
    s.cc1Wakes.cc 1 = { s.cc 1 with parked := false, pc := (s.reg (R.AON_RET 2)).toNat } ∧ s.cc1Wakes.cc 0 = s.cc 0 ∧
      s.cc1Wakes.irqs = s.irqs ∧ s.cc1Wakes.fbit (F.MBX_RSPPEND_PEND 0) 7 = false := by
  have hwakes : s.cc1Wakes = (s.setFbit (F.MBX_RSPPEND_PEND 0) 7 false).rspBell 7 := if_pos hbell
  have hclear := fbit_setFbit_false s (x := F.MBX_RSPPEND_PEND 0) (fldOk (by decide)) 7
  have hon' : (s.setFbit (F.MBX_RSPPEND_PEND 0) 7 false).on 20 = true :=
    (on_of_reg (reg_setF_ne s (x := F.MBX_RSPPEND_PEND 0) _ (by decide)) 20).trans hon
  have hccs := State.setFbit_ccs s (F.MBX_RSPPEND_PEND 0) 7 false
  have hirqs := State.setFbit_irqs s (F.MBX_RSPPEND_PEND 0) 7 false
  have hret : (s.setFbit (F.MBX_RSPPEND_PEND 0) 7 false).reg (R.AON_RET 2) = s.reg (R.AON_RET 2) :=
    reg_setF_ne s (x := F.MBX_RSPPEND_PEND 0) _ (by decide)
  generalize s.setFbit (F.MBX_RSPPEND_PEND 0) 7 false = v at hwakes hclear hon' hccs hirqs hret
  have hcc := cc_of_ccs hccs
  rw [hwakes, rspBell_parked v hon' (by rw [hcc, hparked])]
  refine ⟨?_, ?_, hirqs, ?_⟩
  · refine (cc_modCc_same v 1 _).trans ?_
    rw [hret]
    exact congrArg (fun k : CtlCore => { k with parked := false, pc := (s.reg (R.AON_RET 2)).toNat }) (hcc 1)
  · exact (cc_modCc_ne v (c := 1) (j := 0) _ (by decide)).trans (hcc 0)
  · exact (fbit_of_regs (modCc_rest v 1 _).1 _ 7).trans hclear

/-- The bell of CC1 stays as it was when its watchdog expires, and CC1 keeps its power. -/
theorem cc1Begun_regs (old : List Nat) : RegsKept (fun _ => True) s (s.cc1Begun old) := by
  obtain ⟨-, -, -, -, hregs⟩ := cc1Begun_effect s old
  exact (RegsKept.refl s).same hregs

end

end Sys2Proof.Machine
end

section
namespace Sys2Proof.Machine
section
variable (s : State)

theorem execSupplyMonitorFail_off (h5 : s.powerState = 5) : execSupplyMonitorFail s = .next s :=
  congrArg Host.Outcome.next (if_pos h5)

theorem AonFresh.setPmu {s t : State} (h : AonFresh s t) (p : Pmu) : AonFresh s { t with pmu := p } :=
  ⟨h.regs, h.stat, h.tu, h.sram, h.queue, h.fuse⟩

theorem execVddAonLoss_acts : ∃ t, execVddAonLoss s = .next t ∧
    AonFresh { s with sram := [], stg := { s.stg with queue := [] } } t ∧ t.pmu.inReset = true := by
  have h := aonFresh_holdReset s
  unfold execVddAonLoss
  generalize s.holdReset.loseCore.aonReset = v at h ⊢
  exact ⟨_, rfl, h.setPmu _, rfl⟩

theorem execAonPowerOn_acts : ∃ t, execAonPowerOn s = .next t ∧
    AonFresh { s with sram := [], stg := { s.stg with queue := [] } } t ∧ t.pmu.inReset = false := by
  have h := aonFresh_holdReset s
  unfold execAonPowerOn
  generalize s.holdReset.loseCore.aonReset = v at h ⊢
  exact ⟨_, rfl, h.setPmu _, rfl⟩

theorem sram_setPmu (p : Pmu) : State.sram { s with pmu := p } = s.sram := rfl

/-- RST_N holds the device in reset with its cause and its control SRAM. -/
theorem rstN_effect {ns : Nat} (released : Bool) (hns : 1000 ≤ ns) (h5 : s.powerState ≠ 5) :
    ∃ t, execRstN ns released s = .next t ∧ HeldBy 2 s t ∧ t.pmu.rstN = released ∧ t.sram = s.sram := by
  have h := heldInReset_holdReset s.rstBegun
  obtain ⟨hcause, -, hsram, hfuse⟩ := rstBegun_effect s
  rw [execRstN_acts s released hns h5]
  generalize s.rstBegun = u at h hcause hsram hfuse ⊢
  generalize u.holdReset = v at h ⊢
  have hheld := h.by_cause hcause hfuse
  exact ⟨_, rfl, hheld.setPmu (p := { v.pmu with rstN := released }) hheld.req, rfl, (sram_setPmu v _).trans (h.sram.trans hsram)⟩

theorem execRstN_short {ns : Nat} (released : Bool) (hns : ns < 100) : execRstN ns released s = .next s := by
  have hacts : s.rstActs ns = (false, s) := (if_neg (by omega)).trans (if_pos hns)
  unfold execRstN
  rw [hacts]
  exact congrArg Host.Outcome.next (if_pos rfl)

theorem execS5ExitRetry_acts (valid : Bool) (h5 : s.powerState = 5) (hreq : s.pmu.resetReq = true) (hrst : s.pmu.rstN = true)
    (hlock : s.b F.PMU_STAT_TRIPLOCK = false) :
    execS5ExitRetry valid s = .next (if valid then { s with pmu := { s.pmu with pwrenCore := true, supplies := true, retries := 0 } }
      else { s with pmu := { s.pmu with pwrenCore := false, retries := s.pmu.retries + 1 } }) :=
  congrArg Host.Outcome.next (if_neg (by simp [h5, hreq, hrst, hlock]))

/-- CC1's restart 100 ms after an expiry, until the third (R503). -/
theorem cc1AppRestart_effect (hon : s.on 20 = true) (hparked : (s.cc 1).parked = true) (hexp : (s.cc 1).expiries ≠ []) :
    ((s.cc 1).expiries.length < 3 →
      ∃ t, execCc1AppRestart s = .next t ∧ CoreIs s t 1 { s.cc 1 with parked := false, pc := (s.reg (R.AON_RET 2)).toNat }) ∧
    (3 ≤ (s.cc 1).expiries.length → execCc1AppRestart s = .next s) := by
  constructor
  · intro hfew
    refine ⟨_, congrArg Host.Outcome.next ((if_pos (by simp [hparked, hexp, hfew, hon])).trans (rspBell_parked s hon hparked)), ?_⟩
    exact (CoreIs.refl s 1).modCc _
  · intro hmany
    exact congrArg Host.Outcome.next (if_neg (by simp [hmany]))

theorem cc1WatchdogExpiry_quiet (ms : Nat) (hc : s.clocked 1 = true) (hen : (s.cc 1).sf 0x20 31 31 = 1)
    (hclosed : (s.mb 7).opened = false) (hbell : s.fbit (F.MBX_RSPPEND_PEND 0) 7 = false) :
    ∃ t, execCc1WatchdogExpiry ms s = .next t ∧ (t.cc 1).parked = true ∧ s.s0 ∈ (t.cc 1).expiries ∧ 62 ∈ t.irqs ∧
      t.cc 0 = s.cc 0 ∧ { t with ccs := s.ccs, irqs := s.irqs } = s := by
  obtain ⟨old, hexec⟩ := execCc1WatchdogExpiry_acts s ms hc hen hclosed
  obtain ⟨hparked, hmem, hline, hcc0, hregs⟩ := cc1Begun_effect s old
  rw [cc1Wakes_quiet _ ((fbit_of_regs hregs _ 7).trans hbell)] at hexec
  exact ⟨_, hexec, hparked, hmem, hline, hcc0, cc1Begun_rest s old⟩

theorem cc1WatchdogExpiry_pending (ms : Nat) (hc : s.clocked 1 = true) (hen : (s.cc 1).sf 0x20 31 31 = 1)
    (hclosed : (s.mb 7).opened = false) (hbell : s.fbit (F.MBX_RSPPEND_PEND 0) 7 = true) :
    ∃ t, execCc1WatchdogExpiry ms s = .next t ∧ (t.cc 1).parked = false ∧ (t.cc 1).pc = (s.reg (R.AON_RET 2)).toNat ∧
      t.fbit (F.MBX_RSPPEND_PEND 0) 7 = false ∧ s.s0 ∈ (t.cc 1).expiries ∧ 62 ∈ t.irqs ∧ t.cc 0 = s.cc 0 := by
  obtain ⟨old, hexec⟩ := execCc1WatchdogExpiry_acts s ms hc hen hclosed
  obtain ⟨hparked, hmem, hline, hcc0, hregs⟩ := cc1Begun_effect s old
  have hkept := cc1Begun_regs s old
  generalize s.cc1Begun old = u at hexec hparked hmem hline hcc0 hregs hkept
  have hon : s.on 20 = true := (Bool.and_eq_true_iff.mp hc).1
  obtain ⟨hcc1, hcc0', hirqs, hquiet⟩ := cc1Wakes_pending u ((hkept.on trivial 20).trans hon) hparked
    ((fbit_of_regs hregs _ 7).trans hbell)
  refine ⟨_, hexec, ?_, ?_, hquiet, ?_, ?_, hcc0'.trans hcc0⟩
  · rw [hcc1]
  · rw [hcc1, hkept _ trivial]
  · rw [hcc1]
    exact hmem
  · rw [hirqs]
    exact hline

end
end Sys2Proof.Machine
end

section
open Sys2Proof Sys2Proof.Machine

/-- Settles O50: a device reset leaves AON and the fuses, and the ROM's start leaves the engines and the queue. -/
theorem suppliesAndWatchdogs : Obligations.SuppliesAndWatchdogs := by
  unfold Obligations.SuppliesAndWatchdogs
  intro ns ms released valid i s held aon
  have hheld {cause : Nat} {t : State} (h : HeldBy cause s t) : held t :=
    ⟨h.req, h.off 19 (.inl rfl), h.off 20 (.inr (.inl rfl)), h.off 21 (.inr (.inr rfl)), h.fuse⟩
  have haon {t : State} (h : AonFresh { s with sram := [], stg := { s.stg with queue := [] } } t) : aon t :=
    ⟨fun a h1 h2 hne => h.regs a ⟨h1, h2⟩ hne, h.stat, h.tu, h.sram, h.queue, h.fuse⟩
  refine ⟨fun h5 => ?_, execSupplyMonitorFail_off s, ?_, ?_, fun hns h5 => ?_, execRstN_short s released,
    fun h5 hreq hrst hlock => ?_, fun hc hen hstart => ?_, fun hen => congrArg Host.Outcome.next (if_pos (.inr hen)),
    fun hc hen hclosed => ⟨cc1WatchdogExpiry_quiet s ms hc hen hclosed, cc1WatchdogExpiry_pending s ms hc hen hclosed⟩,
    cc1AppRestart_effect s⟩
  · obtain ⟨t, hexec, h, hret, hsram, hqueue⟩ := supplyMonitorFail_effect s h5
    exact ⟨t, hexec, hheld h, h.cause, hret, hsram, hqueue⟩
  · obtain ⟨t, hexec, h, hreset⟩ := execVddAonLoss_acts s
    exact ⟨t, hexec, haon h, hreset⟩
  · obtain ⟨t, hexec, h, hreset⟩ := execAonPowerOn_acts s
    exact ⟨t, hexec, haon h, hreset⟩
  · obtain ⟨t, hexec, h, hrel, hsram⟩ := rstN_effect s released hns h5
    exact ⟨t, hexec, hheld h, h.cause, hrel, hsram⟩
  · refine ⟨_, execS5ExitRetry_acts s valid h5 hreq hrst hlock, ?_⟩
    cases valid <;> exact ⟨rfl, by simp, by simp⟩
  · exact ⟨_, execWatchdogExpiry_acts s i hc hen, watchdogExpiry_effect s hstart⟩
end

section
namespace Sys2Proof.Machine

/-! ## What the network and shadow checking leave of AON -/

theorem not_aonHeld {a : Nat} (h : 0x40010000 ≤ a) : ¬ AonHeld a := fun ha => not_aonReg h ha.1

namespace RegsKept
variable {s t : State}

theorem beyond (h : RegsKept AonHeld s t) {a : Nat} (v : Word) (ha : 0x40010000 ≤ a) : RegsKept AonHeld s (t.setReg a v) :=
  h.setReg v (not_aonHeld ha)

theorem setBeyond (h : RegsKept AonHeld s t) {x : Fld} (v : Nat) (hx : 0x40010000 ≤ x.addr) : RegsKept AonHeld s (t.setF x v) :=
  h.setF v (not_aonHeld hx)

theorem setEng (h : RegsKept AonHeld s t) {x : Fld} (v : Nat) {e : Nat} (hx : engBase e ≤ x.addr) :
    RegsKept AonHeld s (t.setF x v) :=
  h.setBeyond v (le_trans (le_trans (by decide) (engBase_ge e)) hx)

theorem modNet (h : RegsKept AonHeld s t) (g : Net → Net) : RegsKept AonHeld s (t.modNet g) := h.same rfl

end RegsKept

/-! ### Settings of the network -/

/-- What a member sets lies beyond AON. -/
def PTgt.beyond : PTgt → Prop
  | .fld x _ => 0x40010000 ≤ x.addr
  | .pair lo hi => 0x40010000 ≤ lo.addr ∧ 0x40010000 ≤ hi.addr
  | .other => True

/-- A member, where there is one, sets what lies beyond AON. -/
abbrev TgtBeyond (o : Option PInfo) : Prop := ∀ x, o = some x → x.tgt.beyond

theorem tgtBeyond_none : TgtBeyond none := fun _ h => nomatch h

theorem tgtBeyond_pIn {x : Fld} (c : Conv) (lo hi : Int) (h : 0x40010000 ≤ x.addr) : TgtBeyond (pIn x c lo hi) := by
  rintro _ ⟨⟩
  exact h

theorem tgtBeyond_pFld {x : Fld} (h : 0x40010000 ≤ x.addr) : TgtBeyond (pFld x) := tgtBeyond_pIn _ _ _ h

theorem tgtBeyond_pWord {a : Nat} (used : Nat) (h : 0x40010000 ≤ a) : TgtBeyond (pWord a used) := by
  rintro _ ⟨⟩
  exact h

theorem tgtBeyond_pPair (t : Nat) {lo hi : Fld} (hl : 0x40010000 ≤ lo.addr) (hh : 0x40010000 ≤ hi.addr) :
    TgtBeyond (pPair t lo hi) := by
  rintro _ ⟨⟩
  exact ⟨hl, hh⟩

theorem tgtBeyond_other {t : Nat} {rw : Bool} {n : Nat} {lo hi : Int} {d r : Nat} :
    TgtBeyond (some ⟨t, rw, n, lo, hi, d, r, .other⟩) := by
  rintro _ ⟨⟩
  trivial

theorem tgtBeyond_as {t : Nat} {o : Option PInfo} (h : TgtBeyond o) : TgtBeyond (PInfo.as t o) := by
  intro x hx
  obtain ⟨y, hy, rfl⟩ := Option.map_eq_some_iff.mp hx
  exact h y hy

theorem tgtBeyond_pPort (p k : Nat) : TgtBeyond (pPort p k) := by
  unfold pPort
  split
  · next x hx =>
    have hmem : x ∈ portFlds p := List.mem_of_getElem? hx
    have hall : ∀ x ∈ portFlds p, 0x40010000 ≤ x.addr := by
      simp only [portFlds, List.forall_mem_cons]
      refine ⟨?_, ?_, ?_, ?_, ?_, ?_, ?_, ?_, ?_, ?_, ?_, ?_, ?_, ?_, ?_, fun _ h => absurd h List.not_mem_nil⟩ <;>
        exact le_trans (by decide) (Nat.le_add_right ..)
    refine tgtBeyond_as ?_
    split
    · exact tgtBeyond_pIn _ _ _ (hall x hmem)
    · exact tgtBeyond_pFld (hall x hmem)
  · exact tgtBeyond_none

theorem tgtBeyond_pNet (m : Nat) : TgtBeyond (pNet m) := by
  unfold pNet
  split_ifs
  · exact tgtBeyond_pPort _ _
  · exact tgtBeyond_other
  · exact tgtBeyond_pWord _ (le_trans (by decide) (Nat.le_add_right ..))
  · exact tgtBeyond_other
  · split
    · exact tgtBeyond_other
    · exact tgtBeyond_other
    · exact tgtBeyond_other
    · exact tgtBeyond_pFld (by decide)
    · exact tgtBeyond_other
    · exact tgtBeyond_other
    · exact tgtBeyond_pFld (by decide)
    · exact tgtBeyond_other
    · exact tgtBeyond_none

theorem tgtBeyond_pStr (k m : Nat) : TgtBeyond (pStr k m) := by
  unfold pStr
  split
  · exact tgtBeyond_pWord _ (by unfold R.STR_SRC; omega)
  · have hbase {b : Nat} (hb : 0x40010000 ≤ b) : 0x40010000 ≤ b + 0x40 * k := le_trans hb (Nat.le_add_right ..)
    split
    · exact tgtBeyond_pFld (hbase (b := 0x40150100) (by decide))
    · exact tgtBeyond_pFld (hbase (b := 0x40150100) (by decide))
    · exact tgtBeyond_pIn _ _ _ (hbase (b := 0x40150100) (by decide))
    · exact tgtBeyond_pIn _ _ _ (hbase (b := 0x40150100) (by decide))
    · exact tgtBeyond_pFld (hbase (b := 0x40150100) (by decide))
    · exact tgtBeyond_pIn _ _ _ (hbase (b := 0x40150100) (by decide))
    · exact tgtBeyond_pPair _ (hbase (b := 0x40150108) (by decide)) (hbase (b := 0x4015010C) (by decide))
    · exact tgtBeyond_other
    · exact tgtBeyond_pWord _ (hbase (b := 0x40150118) (by decide))
    · exact tgtBeyond_pFld (hbase (b := 0x4015011C) (by decide))
    · exact tgtBeyond_other
    · exact tgtBeyond_other
    · exact tgtBeyond_other
    · exact tgtBeyond_other
    · exact tgtBeyond_none

/-- The members of the network and of the streams (R391) stand beyond AON. -/
theorem tgtBeyond_pinfo {p : Nat} (h : pidClass p = 0x40 ∨ pidClass p = 0x41) : TgtBeyond (pinfo p) := by
  have hnot {c : Nat} (hc : c < 0x40) : ¬ pidClass p = c := by omega
  unfold pinfo
  dsimp only
  rw [if_neg (hnot (by decide)), if_neg (hnot (by decide)), if_neg (hnot (by decide)), if_neg (hnot (by decide)),
    if_neg (hnot (by decide)), if_neg (hnot (by decide)), if_neg (hnot (by decide)), if_neg (hnot (by decide))]
  rcases h with h | h
  · rw [if_pos h]
    split
    · exact tgtBeyond_pNet _
    · exact tgtBeyond_none
  · rw [if_neg (by omega), if_pos h]
    split
    · exact tgtBeyond_pStr _ _
    · exact tgtBeyond_none

namespace RegsKept
variable {s t : State}

theorem applyFld (h : RegsKept AonHeld s t) {p : Nat} (hp : TgtBeyond (pinfo p)) (v : List Byte) :
    RegsKept AonHeld s (t.applyFld p v) := by
  unfold State.applyFld
  split
  · next x c hx =>
    obtain ⟨y, hy, htgt⟩ := Option.map_eq_some_iff.mp hx
    have hy' := hp y hy
    rw [htgt] at hy'
    exact h.setBeyond _ hy'
  · next lo hi hx =>
    obtain ⟨y, hy, htgt⟩ := Option.map_eq_some_iff.mp hx
    have hy' := hp y hy
    rw [htgt] at hy'
    exact (h.setBeyond _ hy'.1).setBeyond _ hy'.2
  · exact h

theorem foldl {α : Type} {g : State → α → State} {l : List α} (h : RegsKept AonHeld s t)
    (hg : ∀ u a, a ∈ l → RegsKept AonHeld s u → RegsKept AonHeld s (g u a)) : RegsKept AonHeld s (l.foldl g t) := by
  induction l generalizing t with
  | nil => exact h
  | cons a l ih =>
    exact ih (hg t a List.mem_cons_self h) fun u b hb => hg u b (List.mem_cons_of_mem _ hb)

theorem applyFlds (h : RegsKept AonHeld s t) {ps : List (Nat × List Byte)} (hps : ∀ q ∈ ps, TgtBeyond (pinfo q.1)) :
    RegsKept AonHeld s (t.applyFlds ps) :=
  h.foldl fun _ q hq hu => hu.applyFld (hps q hq) _

theorem macPut (h : RegsKept AonHeld s t) (e : MacEnt) : RegsKept AonHeld s (t.macPut e) := by
  unfold State.macPut
  split_ifs
  · exact h.modNet _
  · exact h.modNet _
  · exact h
  · exact h.setBeyond (x := F.NSW_STAT_MTFULL) 1 (by decide)

theorem macApply (h : RegsKept AonHeld s t) (old new : List Byte) : RegsKept AonHeld s (t.macApply old new) := by
  unfold State.macApply
  dsimp only
  split
  · refine macPut ?_ _
    split
    · exact h.modNet _
    · exact h
  · split
    · exact h.modNet _
    · exact h

theorem netApply (h : RegsKept AonHeld s t) (old : Cfg) (ps : List (Nat × List Byte)) : RegsKept AonHeld s (t.netApply old ps) :=
  h.foldl fun u q hq hu => by
    have hclass : pidClass q.1 = 0x40 := by simpa using (List.mem_filter.mp hq).2
    dsimp only
    split_ifs
    · exact (hu.setBeyond (x := F.NSW_CTRL_SRPCPA) _ (by decide)).setBeyond (x := F.NSW_CTRL_SRPCPB) _ (by decide)
    · exact hu.macApply _ _
    · exact hu.applyFld (tgtBeyond_pinfo (.inl hclass)) _

theorem strRestart (h : RegsKept AonHeld s t) (k : Nat) : RegsKept AonHeld s (t.strRestart k) := by
  have hbase {b : Nat} (hb : 0x40010000 ≤ b) (n : Nat) : 0x40010000 ≤ b + 0x40 * n := le_trans hb (Nat.le_add_right ..)
  have hstat := (h.setBeyond (x := F.STR_STAT_RUN k) 0 (hbase (b := 0x40150104) (by decide) k)).setBeyond
    (x := F.STR_STAT_MUTED k) 0 (hbase (b := 0x40150104) (by decide) k)
  unfold State.strRestart
  dsimp only
  split_ifs
  · exact hstat.modNet _
  · exact (((hstat.modNet _).beyond (a := R.STR_LATECNT (k - 8)) 0 (hbase (b := 0x40150320) (by decide) _)).beyond
      (a := R.STR_EARLYCNT (k - 8)) 0 (hbase (b := 0x40150324) (by decide) _)).beyond (a := R.STR_SEQCNT (k - 8)) 0
      (hbase (b := 0x40150328) (by decide) _)
  · exact hstat.modNet _

theorem strApply (h : RegsKept AonHeld s t) (k : Nat) {ps : List (Nat × List Byte)} (hps : ∀ q ∈ ps, pidClass q.1 = 0x41) :
    RegsKept AonHeld s (t.strApply k ps) := by
  have hflds := h.applyFlds fun q hq => tgtBeyond_pinfo (.inr (hps q hq))
  have hbase {b : Nat} (hb : 0x40010000 ≤ b) : 0x40010000 ≤ b + 0x40 * k := le_trans hb (Nat.le_add_right ..)
  have hmac (v : Nat) := (hflds.setBeyond (x := F.STR_DMACL_MAC k) v (hbase (b := 0x40150110) (by decide))).setBeyond
    (x := F.STR_DMACH_MAC k) (v / 2 ^ 32) (hbase (b := 0x40150114) (by decide))
  unfold State.strApply
  dsimp only
  split
  · split_ifs
    · exact hmac _
    · exact (hmac _).strRestart k
  · split_ifs
    · exact hflds
    · exact hflds.strRestart k

end RegsKept

end Sys2Proof.Machine
end

section
namespace Sys2Proof.Machine

namespace RegsKept
variable {s t : State}

/-! ### The committed settings of the network come back (R209) -/

theorem unitsApply_str (h : RegsKept AonHeld s t) {ps : List (Nat × List Byte)}
    (hps : ∀ q ∈ ps, pidClass q.1 = 0x40 ∨ pidClass q.1 = 0x41) : RegsKept AonHeld s (t.unitsApply ps) := by
  have hunit : ∀ q ∈ ps, isUnit q.1 = true → pidClass q.1 = 0x41 := by
    intro q hq hu
    rcases hps q hq with h40 | h41
    · simp [isUnit, h40] at hu
    · exact h41
  refine h.foldl fun v u hu hv => ?_
  obtain ⟨q, hq, rfl⟩ := List.mem_map.mp (List.mem_eraseDups.mp hu)
  obtain ⟨hmem, hisu⟩ := List.mem_filter.mp hq
  have hclass : (unitOf q.1).1 = 0x41 := hunit q hmem hisu
  unfold State.unitApply
  split
  · exact hv
  · rw [if_neg (by omega), if_neg (by omega), if_neg (by omega), if_neg (by omega)]
    refine hv.strApply _ fun r hr => ?_
    obtain ⟨hrmem, hr⟩ := List.mem_filter.mp hr
    exact hunit r hrmem (Bool.and_eq_true_iff.mp hr).1

theorem reapply_net (h : RegsKept AonHeld s t) : RegsKept AonHeld s (t.reapply [0x40, 0x41]) := by
  have hps : ∀ q ∈ t.params.filter (fun q => pidClass q.1 ∈ [0x40, 0x41]), pidClass q.1 = 0x40 ∨ pidClass q.1 = 0x41 := by
    intro q hq
    simpa using (List.mem_filter.mp hq).2
  unfold State.reapply
  dsimp only
  generalize t.params.filter (fun q => decide (pidClass q.1 ∈ [0x40, 0x41])) = ps at hps ⊢
  have hnil {c : Nat} (h40 : c ≠ 0x40) (h41 : c ≠ 0x41) : ps.filter (fun q => decide (pidClass q.1 = c)) = [] := by
    refine List.filter_eq_nil_iff.mpr fun q hq => ?_
    have := hps q hq
    simp only [decide_eq_true_eq]
    omega
  rw [hnil (c := 0x02) (by decide) (by decide), hnil (c := 0x03) (by decide) (by decide), hnil (c := 0x01) (by decide) (by decide),
    hnil (c := 0x52) (by decide) (by decide), hnil (c := 0x60) (by decide) (by decide)]
  simp only [applyFlds_nil, List.foldl_nil, deviceApply_nil, serialApply_nil]
  exact (h.netApply _ _).unitsApply_str fun q hq => hps q (List.mem_filter.mp hq).1

theorem enableNet (h : RegsKept AonHeld s t) : RegsKept AonHeld s t.enableNet :=
  ((h.setF (x := F.PMU_PDSTAT_ON) _ fun hp => hp.2 rfl).setBeyond (x := F.NSW_CTRL_EN) 1 (by decide)).setBeyond
    (x := F.SE_CTRL_EN) 1 (by decide)

/-! ### Shadow checking goes on (R225) -/

theorem modEng (h : RegsKept AonHeld s t) (e : Nat) (g : Engine → Engine) : RegsKept AonHeld s (t.modEng e g) := h.same rfl

theorem startBist (h : RegsKept AonHeld s t) (e : Nat) : RegsKept AonHeld s (t.startBist e) :=
  ((h.setEng (e := e) 5 (Nat.le_add_right ..)).setEng (e := e) 1 (Nat.le_add_right ..)).setEng (e := e) 0 (Nat.le_add_right ..)

theorem fillPunty (h : RegsKept AonHeld s t) : RegsKept AonHeld s t.fillPunty := by
  unfold State.fillPunty
  split
  · exact h
  · split
    · exact ((h.trans (Spares.powerEng (.refl t) _ true).regs).startBist _).modEng _ _
    · exact h

theorem rebist (h : RegsKept AonHeld s t) (e : Nat) : RegsKept AonHeld s (t.rebist e) := ((h.startBist e).modEng e _).fillPunty

theorem setPair (h : RegsKept AonHeld s t) (l k p : Nat) : RegsKept AonHeld s (t.setPair l k p) :=
  have hvalid := (h.setBeyond (x := F.SCU_PAIR_VALID) 1 (by decide)).setBeyond (x := F.SCU_PAIR_DOMAIN) (t.le l).dom (by decide)
  ((hvalid.setBeyond (x := F.SCU_PAIR_LE) l (by decide)).setBeyond (x := F.SCU_PAIR_HOST) k (by decide)).setBeyond
    (x := F.SCU_PAIR_PUNTY) p (by decide)

theorem enterService (h : RegsKept AonHeld s t) (e mode : Nat) : RegsKept AonHeld s (t.enterService e mode) :=
  (h.setEng (e := e) mode (Nat.le_add_right ..)).setEng (e := e) 0 (Nat.le_add_right ..)

theorem mapEng (h : RegsKept AonHeld s t) (e l : Nat) : RegsKept AonHeld s (t.mapEng e l) :=
  ((h.setEng (e := e) 1 (Nat.le_add_right ..)).setEng (e := e) _ (Nat.le_add_right ..)).setEng (e := e) _
    (Nat.le_add_right ..)

/-- An engine's clock, in force and armed. -/
theorem setClock (h : RegsKept AonHeld s t) (e n : Nat) :
    RegsKept AonHeld s ((t.setF (F.ENG_CLKST_N e) n).setF (F.ENG_CLKST_NARM e) n) :=
  (h.setEng (e := e) n (Nat.le_add_right ..)).setEng (e := e) n (Nat.le_add_right ..)

theorem setScu (h : RegsKept AonHeld s t) (x : Scu) : RegsKept AonHeld s { t with scu := x } := h.same rfl

theorem startClone (h : RegsKept AonHeld s t) (p l : Nat) : RegsKept AonHeld s (t.startClone p l) := by
  unfold State.startClone
  split
  · next k _ =>
    have hmapped := ((h.setPair l k p).setBeyond (x := F.SCU_STAT_STATE) 1 (by decide)).enterService p 3 |>.mapEng p l
    have hcount := (hmapped.setBeyond (x := F.SCU_WCNT_COUNT) 0 (by decide)).beyond (a := R.SCU_CLONE) 0 (by decide)
    refine setScu ?_ _
    exact (hcount.setClock p _).modEng p _
  · exact h

theorem resumeShadow (h : RegsKept AonHeld s t) : RegsKept AonHeld s t.resumeShadow := by
  unfold State.resumeShadow
  split
  · split_ifs
    · exact h.rebist _
    · split
      · exact h.startClone _ _
      · exact h
    · exact h
  · split
    · exact h
    · split
      · exact h.startBist _
      · exact h

/-- Exit from S1 (R209). -/
theorem dozeExit_one (s : State) : RegsKept AonHeld (s.setF F.PMU_STAT_STATE 0) (s.dozeExit 1) := by
  dsimp only [State.dozeExit]
  rw [if_pos (rfl : (1 : Nat) = 1)]
  generalize s.setF F.PMU_STAT_STATE 0 = u
  refine resumeShadow ?_
  split
  · exact .refl u
  · exact (RegsKept.refl u).enableNet.reapply_net

end RegsKept

/-! ## The evaluation and the entry of power states (R207, R212, R213) -/

section
variable (s : State)

theorem RegsKept.irqEvent {P : Nat → Prop} {s t : State} (h : RegsKept P s t) (line : Nat) : RegsKept P s (t.irqEvent line) :=
  h.same rfl

theorem powerEvent_regs (left entered : Nat) : RegsKept AonHeld s (s.powerEvent left entered) := by
  have h := RegsKept.of_onlyEvents (P := AonHeld) (onlyEvents_raise s 0x0204
    ([BitVec.ofNat 8 left, BitVec.ofNat 8 entered] ++ leBytes 2 (s.reg R.PMU_WAKESRC).toNat)) fun a ha => by
      have hlt := ha.1.2
      intro hmem
      rcases List.mem_cons.mp hmem with rfl | hmem
      · exact absurd hlt (by decide)
      · rcases List.mem_singleton.mp hmem with rfl
        exact absurd hlt (by decide)
  exact h.irqEvent 23

theorem powerState_setF {n : Nat} (hn : n < 8) : (s.setF F.PMU_STAT_STATE n).powerState = n :=
  (f_setF_same s F.PMU_STAT_STATE n (fldOk (by decide))).trans (Nat.mod_eq_of_lt hn)

theorem powerState_of_kept {s t : State} (h : RegsKept AonHeld s t) : t.powerState = s.powerState :=
  h.f (x := F.PMU_STAT_STATE) (by decide)

theorem dozeExit_one_powerState : (s.dozeExit 1).powerState = 0 :=
  (powerState_of_kept (RegsKept.dozeExit_one s)).trans (powerState_setF s (by decide))

end

end Sys2Proof.Machine
end

section
namespace Sys2Proof.Machine

/-! ## The target (R212, R215) -/

/-- In a descending list the first number with a property is the greatest with it. -/
theorem le_getD_find? {p : Nat → Bool} {l : List Nat} (hl : l.Pairwise (· > ·)) {n : Nat} (hn : n ∈ l) (hp : p n = true) :
    n ≤ (l.find? p).getD 0 := by
  induction l with
  | nil => exact absurd hn List.not_mem_nil
  | cons a l ih =>
    obtain ⟨ha, hl⟩ := List.pairwise_cons.mp hl
    rw [List.find?_cons]
    split
    · rcases List.mem_cons.mp hn with rfl | hn
      · exact le_refl n
      · exact (ha n hn).le
    · next hpa =>
      rcases List.mem_cons.mp hn with rfl | hn
      · exact absurd hp (by rw [hpa]; exact Bool.false_ne_true)
      · exact ih hl hn

section
variable (s : State)

/-- A state fits: its exit is fast enough, NET_KEEP allows it, and every required wake source works in it. -/
abbrev State.Fits (n : Nat) : Prop :=
  exitUs n ≤ s.f F.PMU_LATTOL_TOL ∧ (s.netKeep = true → n ≤ 3) ∧
    ∀ b, 9 ≤ b → b < 16 → s.req b = true → s.wakeWorks b n = true

/-- The test by which the target is sought. -/
def State.fitsTest (n : Nat) : Bool :=
  exitUs n ≤ s.f F.PMU_LATTOL_TOL && (!s.netKeep || n ≤ 3) &&
    ((List.range 16).filter fun b => 9 ≤ b ∧ s.req b).all fun b => s.wakeWorks b n

theorem fitsTest_iff (n : Nat) : s.fitsTest n = true ↔ s.Fits n := by
  unfold State.fitsTest State.Fits
  simp only [Bool.and_eq_true, decide_eq_true_eq, Bool.or_eq_true, Bool.not_eq_true', List.all_eq_true, List.mem_filter,
    List.mem_range, and_assoc]
  refine and_congr_right fun _ => and_congr ?_ ⟨fun h b h9 h16 hr => h b ⟨h16, h9, hr⟩, fun h b hb => h b hb.2.1 hb.1 hb.2.2⟩
  cases s.netKeep <;> simp

theorem target_eq : s.target = if s.req 0 then 0 else ([5, 4, 3, 2, 1].find? s.fitsTest).getD 0 := rfl

theorem target_of_required (h : s.req 0 = true) : s.target = 0 := by rw [target_eq, if_pos h]

theorem le_target (h : s.req 0 = false) {n : Nat} (h1 : 1 ≤ n) (h5 : n ≤ 5) (hfits : s.Fits n) : n ≤ s.target := by
  rw [target_eq, h, if_neg Bool.false_ne_true]
  refine le_getD_find? (by decide) ?_ ((fitsTest_iff s n).mpr hfits)
  simp only [List.mem_cons, List.not_mem_nil, or_false]
  omega

theorem fits_target (h : s.target ≠ 0) : s.req 0 = false ∧ s.Fits s.target ∧ s.target ≤ 5 := by
  have hreq : s.req 0 = false := by
    by_contra hr
    exact h (target_of_required s (by simpa using hr))
  refine ⟨hreq, ?_⟩
  rw [target_eq, hreq, if_neg Bool.false_ne_true] at h ⊢
  cases hfind : [5, 4, 3, 2, 1].find? s.fitsTest with
  | none => exact absurd (by rw [hfind]; rfl) h
  | some n =>
    refine ⟨(fitsTest_iff s n).mp (List.find?_some hfind), ?_⟩
    have hmem := List.mem_of_find?_eq_some hfind
    simp only [List.mem_cons, List.not_mem_nil, or_false] at hmem
    simp only [Option.getD_some]
    omega

theorem target_le : s.target ≤ 5 := by
  by_cases h : s.target = 0
  · omega
  · exact (fits_target s h).2.2

/-! ## The evaluation (R213) -/

/-- The state with its new target. -/
def State.targeted : State := s.netKeepSync.setF F.PMU_STAT_TARGET s.target

theorem onlyRegs_targeted : OnlyRegs s s.targeted [R.PMU_STAT] :=
  ((OnlyRegs.refl s [R.PMU_STAT]).setF F.PMU_STAT_NETKEEP (b2n s.netKeep) (by decide)).setF F.PMU_STAT_TARGET s.target (by decide)

theorem target_targeted : s.targeted.f F.PMU_STAT_TARGET = s.target :=
  (f_setF_same _ F.PMU_STAT_TARGET _ (fldOk (by decide))).trans (Nat.mod_eq_of_lt (lt_of_le_of_lt (target_le s) (by decide)))

theorem netKeep_targeted : s.targeted.b F.PMU_STAT_NETKEEP = s.netKeep := by
  have hkeep := b_setF_ne s.netKeepSync (x := F.PMU_STAT_TARGET) (y := F.PMU_STAT_NETKEEP) s.target (fldOk (by decide))
    (apart_of_bits (by decide))
  refine hkeep.trans ((b_setF_bit s (b2n s.netKeep) (by decide)).trans ?_)
  cases s.netKeep <;> rfl

theorem powerState_targeted : s.targeted.powerState = s.powerState := by
  have hkeep := f_setF_ne s (x := F.PMU_STAT_NETKEEP) (y := F.PMU_STAT_STATE) (b2n s.netKeep) (fldOk (by decide))
    (apart_of_bits (by decide))
  exact (f_setF_ne s.netKeepSync (x := F.PMU_STAT_TARGET) (y := F.PMU_STAT_STATE) s.target (fldOk (by decide))
    (apart_of_bits (by decide))).trans hkeep

theorem pmuEval_eq : s.pmuEval =
    if s.targeted.powerState = 0 ∧ s.target = 1 then s.targeted.enterState 1
    else if s.targeted.powerState = 1 ∧ s.target = 0 then (s.targeted.dozeExit 1).powerEvent 1 0
    else s.targeted := rfl

/-! ## Entry (R207, R213) -/

theorem RegsKept.setPmu {P : Nat → Prop} {s t : State} (h : RegsKept P s t) (p : Pmu) : RegsKept P s { t with pmu := p } :=
  h.same rfl

/-- The state in which the PMU has reached a power state. -/
def State.reachedIn (n : Nat) : State :=
  { s.setF F.PMU_STAT_STATE n with pmu := { (s.setF F.PMU_STAT_STATE n).pmu with reached := n } }

theorem reachedIn_effect (n : Nat) : (s.reachedIn n).regs = (s.setF F.PMU_STAT_STATE n).regs ∧ (s.reachedIn n).sram = s.sram ∧
    (s.reachedIn n).stg = s.stg ∧ (s.reachedIn n).pmu = { s.pmu with reached := n } := by
  have hsram := State.setF_sram s F.PMU_STAT_STATE n
  have hstg := State.setF_stg s F.PMU_STAT_STATE n
  have hpmu := State.setF_pmu s F.PMU_STAT_STATE n
  unfold State.reachedIn
  generalize s.setF F.PMU_STAT_STATE n = u at hsram hstg hpmu ⊢
  refine ⟨rfl, hsram, hstg, ?_⟩
  dsimp only
  rw [hpmu]

theorem powerState_reachedIn {n : Nat} (hn : n < 8) : (s.reachedIn n).powerState = n := by
  have hkept : RegsKept AonHeld (s.setF F.PMU_STAT_STATE n) (s.reachedIn n) := (RegsKept.refl _).same (reachedIn_effect s n).1
  exact (powerState_of_kept hkept).trans (powerState_setF s hn)

theorem pmuEnter_eq (n : Nat) : s.pmuEnter n =
    if n = 1 then ((s.enterDomains n).reachedIn n).powerEvent s.powerState 1 else ((s.enterDomains n).reachedIn n).irqEvent 23 := rfl

theorem pmuEval_stays (h1 : ¬ (s.powerState = 0 ∧ s.target = 1)) (h0 : ¬ (s.powerState = 1 ∧ s.target = 0)) :
    s.pmuEval = s.targeted := by
  have hstate := powerState_targeted s
  rw [pmuEval_eq, if_neg (by rwa [hstate]), if_neg (by rwa [hstate])]

theorem pmuEval_enters (hs : s.powerState = 0) (ht : s.target = 1) : s.pmuEval = s.targeted.enterState 1 := by
  rw [pmuEval_eq, if_pos ⟨(powerState_targeted s).trans hs, ht⟩]

theorem pmuEval_leaves (hs : s.powerState = 1) (ht : s.target = 0) : s.pmuEval = (s.targeted.dozeExit 1).powerEvent 1 0 := by
  have hstate := (powerState_targeted s).trans hs
  rw [pmuEval_eq, if_neg (by omega), if_pos ⟨hstate, ht⟩]

theorem powerState_pmuEnter {n : Nat} (hn : n < 8) : (s.pmuEnter n).powerState = n := by
  rw [pmuEnter_eq]
  have hreached := powerState_reachedIn (s.enterDomains n) hn
  split
  · exact (powerState_of_kept (powerEvent_regs _ _ _)).trans hreached
  · exact (powerState_of_kept ((RegsKept.refl _).irqEvent 23)).trans hreached

/-- What S5 leaves: no control SRAM, no queued epoch and no supply (R207). -/
structure Hibernated (t : State) : Prop where
  sram : t.sram = []
  queue : t.stg.queue = []
  pwrenCore : t.pmu.pwrenCore = false
  supplies : t.pmu.supplies = false

theorem enterDomains_five : ∃ u : State, s.enterDomains 5 =
    { u with
      sram := [], sramBad := [], sramSoft := [], stg := { u.stg with queue := [], recon := none }
      pmu := { u.pmu with vddMv := 800, pwrenCore := false, pwrenIo := !u.b F.PMU_CTRL_IOOFF5, supplies := false, held := none } } :=
  ⟨_, rfl⟩

theorem hibernated_enterDomains : Hibernated (s.enterDomains 5) := by
  obtain ⟨u, hu⟩ := enterDomains_five s
  rw [hu]
  exact ⟨rfl, rfl, rfl, rfl⟩

theorem Hibernated.reachedIn {t : State} (h : Hibernated t) (n : Nat) : Hibernated (t.reachedIn n) := by
  obtain ⟨-, hsram, hstg, hpmu⟩ := reachedIn_effect t n
  exact ⟨hsram.trans h.sram, by rw [hstg, h.queue], by rw [hpmu, h.pwrenCore], by rw [hpmu, h.supplies]⟩

theorem Hibernated.irqEvent {t : State} (h : Hibernated t) (line : Nat) : Hibernated (t.irqEvent line) :=
  ⟨(State.irqEvent_sram ..).trans h.sram, by rw [State.irqEvent_stg, h.queue], by rw [State.irqEvent_pmu, h.pwrenCore],
    by rw [State.irqEvent_pmu, h.supplies]⟩

/-- A state is entered: its number, how far the entry came, and in S5 what it leaves. -/
structure PowerEntered (n : Nat) (t : State) : Prop where
  state : t.powerState = n
  reached : t.pmu.reached = n
  off : n = 5 → Hibernated t

theorem entered_pmuEnter {n : Nat} (h2 : 2 ≤ n) (h5 : n ≤ 5) : PowerEntered n (s.pmuEnter n) := by
  have hstate := powerState_pmuEnter s (n := n) (by omega)
  rw [pmuEnter_eq, if_neg (by omega)] at hstate ⊢
  obtain ⟨-, -, -, hpmu⟩ := reachedIn_effect (s.enterDomains n) n
  have hreached : ((s.enterDomains n).reachedIn n).pmu.reached = n := by rw [hpmu]
  have hoff : n = 5 → Hibernated ((s.enterDomains n).reachedIn n) := by
    rintro rfl
    exact (hibernated_enterDomains s).reachedIn 5
  generalize (s.enterDomains n).reachedIn n = u at hstate hreached hoff ⊢
  exact ⟨hstate, (State.irqEvent_pmu u 23) ▸ hreached, fun hn => (hoff hn).irqEvent 23⟩

theorem enterState_eq (n : Nat) : ∃ u, s.enterState n = State.pmuEnter u n := by
  unfold State.enterState
  constructor
  with_reducible rfl

theorem powerState_enterState {n : Nat} (hn : n < 8) : (s.enterState n).powerState = n := by
  obtain ⟨u, hu⟩ := enterState_eq s n
  exact (congrArg State.powerState hu).trans (powerState_pmuEnter u hn)

theorem entered_enterState {n : Nat} (h2 : 2 ≤ n) (h5 : n ≤ 5) : PowerEntered n (s.enterState n) := by
  obtain ⟨u, hu⟩ := enterState_eq s n
  exact hu ▸ entered_pmuEnter u h2 h5

/-! ## The entry of S2 to S5, and the trip's shutdown (R199, R213) -/

theorem two_le_target_of_mayEnter (h : s.mayEnter = true) : 2 ≤ s.f F.PMU_STAT_TARGET := by
  simp only [State.mayEnter, Bool.and_eq_true, decide_eq_true_eq] at h
  obtain ⟨⟨⟨⟨⟨⟨-, h2⟩, -⟩, -⟩, -⟩, -⟩, -⟩ := h
  exact h2

theorem execPowerStateEntry_none (h : s.mayEnter = true) :
    execPowerStateEntry none s = .next (s.enterState (s.f F.PMU_STAT_TARGET)) :=
  congrArg Host.Outcome.next (if_pos h)

theorem execPowerStateEntry_refused (h : s.mayEnter = false) (w : Option (Nat × Nat)) : execPowerStateEntry w s = .next s :=
  congrArg Host.Outcome.next (if_neg (by rw [h]; exact Bool.false_ne_true))

theorem execPowerStateEntry_idle (b r : Nat) (h : s.wakeWorks b (s.f F.PMU_STAT_TARGET) = false ∨ (b ≠ 8 ∧ s.req b = false)) :
    execPowerStateEntry (some (b, r)) s = execPowerStateEntry none s := by
  have hb : b ≠ 8 := by
    rcases h with h | h
    · rintro rfl
      exact absurd h (by simp [State.wakeWorks])
    · exact h.1
  have htest : (s.wakeWorks b (s.f F.PMU_STAT_TARGET) && (decide (b = 8) || s.req b)) = false := by
    rcases h with h | h
    · simp [h]
    · simp [hb, h.2]
  unfold execPowerStateEntry
  dsimp only
  rw [if_neg hb, htest, if_neg Bool.false_ne_true]

theorem execPowerStateEntry_wakes (b r : Nat) (hmay : s.mayEnter = true) (hworks : s.wakeWorks b (s.f F.PMU_STAT_TARGET) = true)
    (hreq : b = 8 ∨ s.req b = true) : execPowerStateEntry (some (b, r)) s =
      .next (((if b = 8 then s.wakeHeld else s).enterState (max 1 (min r (s.f F.PMU_STAT_TARGET)))).wake b) := by
  unfold execPowerStateEntry
  dsimp only
  rw [if_pos hmay]
  by_cases h8 : b = 8
  · subst h8
    have hheld (u : State) (n : Nat) : (u.wakeWorks 8 n && (decide (8 = 8) || u.req 8)) = true := rfl
    rw [if_pos (rfl : 8 = 8), hheld, if_pos rfl]
  · have htest : (s.wakeWorks b (s.f F.PMU_STAT_TARGET) && (decide (b = 8) || s.req b)) = true := by
      rw [hworks, hreq.resolve_left h8, Bool.or_true, Bool.and_true]
    rw [if_neg h8, htest, if_pos rfl]

theorem execTripShutdown_idle (h : s.pmu.tripped = false ∨ s.b F.PMU_STAT_TRIPLOCK = true) (timeout : Bool) :
    execTripShutdown timeout s = .next s :=
  congrArg Host.Outcome.next (if_pos (h.imp_right .inl))

/-- The shutdown outside S5. -/
theorem execTripShutdown_enters (htrip : s.pmu.tripped = true) (hlock : s.b F.PMU_STAT_TRIPLOCK = false) (h5 : s.powerState ≠ 5) :
    execTripShutdown true s = .next ((s.pmuEnter 5).setF F.PMU_STAT_TRIPLOCK 1) :=
  congrArg Host.Outcome.next ((if_neg (by simp [htrip, hlock])).trans (if_pos h5))

/-- The shutdown in S5, where an exit may have begun. -/
theorem execTripShutdown_stays (htrip : s.pmu.tripped = true) (hlock : s.b F.PMU_STAT_TRIPLOCK = false) (h5 : s.powerState = 5) :
    ∃ p : Pmu, p.pwrenCore = false ∧ p.supplies = false ∧
      execTripShutdown true s = .next { s.setF F.PMU_STAT_TRIPLOCK 1 with pmu := p } :=
  ⟨{ s.pmu with pwrenCore := false, pwrenIo := !s.b F.PMU_CTRL_IOOFF5, supplies := false }, rfl, rfl,
    congrArg Host.Outcome.next ((if_neg (by simp [htrip, hlock])).trans (if_neg (not_not.mpr h5)))⟩

/-- The trip's lock, beside the state. -/
theorem setTriplock : (s.setF F.PMU_STAT_TRIPLOCK 1).b F.PMU_STAT_TRIPLOCK = true ∧
    (s.setF F.PMU_STAT_TRIPLOCK 1).powerState = s.powerState :=
  ⟨b_setF_one s F.PMU_STAT_TRIPLOCK (fldOk (by decide)),
    f_setF_ne s (x := F.PMU_STAT_TRIPLOCK) (y := F.PMU_STAT_STATE) 1 (fldOk (by decide)) (apart_of_bits (by decide))⟩

theorem Hibernated.setF {t : State} (h : Hibernated t) (x : Fld) (v : Nat) : Hibernated (t.setF x v) :=
  ⟨(State.setF_sram ..).trans h.sram, by rw [State.setF_stg, h.queue], by rw [State.setF_pmu, h.pwrenCore],
    by rw [State.setF_pmu, h.supplies]⟩

theorem execTripShutdown_effect (htrip : s.pmu.tripped = true) (hlock : s.b F.PMU_STAT_TRIPLOCK = false) :
    ∃ t, execTripShutdown true s = .next t ∧ t.b F.PMU_STAT_TRIPLOCK = true ∧ t.powerState = 5 ∧
      t.pmu.pwrenCore = false ∧ t.pmu.supplies = false ∧ (s.powerState ≠ 5 → PowerEntered 5 t) := by
  by_cases h5 : s.powerState = 5
  · obtain ⟨p, hcore, hsupplies, hexec⟩ := execTripShutdown_stays s htrip hlock h5
    obtain ⟨hset, hstate⟩ := setTriplock s
    generalize s.setF F.PMU_STAT_TRIPLOCK 1 = u at hset hstate hexec
    have hsame : RegsKept (fun _ => True) u { u with pmu := p } := (RegsKept.refl u).setPmu p
    exact ⟨_, hexec, (hsame.b trivial).trans hset, (hsame.f (x := F.PMU_STAT_STATE) trivial).trans (hstate.trans h5), hcore,
      hsupplies, fun h => absurd h5 h⟩
  · refine ⟨_, execTripShutdown_enters s htrip hlock h5, ?_⟩
    have hentered := entered_pmuEnter s (n := 5) (by decide) (by decide)
    generalize s.pmuEnter 5 = u at hentered ⊢
    obtain ⟨hset, hstate⟩ := setTriplock u
    have hoff := (hentered.off rfl).setF F.PMU_STAT_TRIPLOCK 1
    have hpmu := State.setF_pmu u F.PMU_STAT_TRIPLOCK 1
    exact ⟨hset, hstate.trans hentered.state, hoff.pwrenCore, hoff.supplies,
      fun _ => ⟨hstate.trans hentered.state, by rw [hpmu, hentered.reached], fun _ => hoff⟩⟩

end

end Sys2Proof.Machine
end

section
open Sys2Proof Sys2Proof.Machine

/-- Settles O20: the target is the first that fits in a descending list, and an entry ends with its state's number. -/
theorem powerStatesAreTaken : Obligations.PowerStatesAreTaken := by
  unfold Obligations.PowerStatesAreTaken
  intro s fits
  refine ⟨target_of_required s, fun h n h1 h5 hf => le_target s h h1 h5 hf, fun h => ?_, fun h1 h0 => ?_, fun hs ht => ?_,
    fun hs ht => ?_, fun hmay htarget => ?_, execPowerStateEntry_refused s, execPowerStateEntry_idle s,
    execPowerStateEntry_wakes s, fun htrip hlock => ?_, execTripShutdown_idle s⟩
  · obtain ⟨hreq, hfits, -⟩ := fits_target s h
    exact ⟨hreq, hfits⟩
  · exact ⟨_, congrArg Host.Outcome.next (pmuEval_stays s h1 h0), target_targeted s, netKeep_targeted s, powerState_targeted s,
      onlyRegs_targeted s⟩
  · exact ⟨_, congrArg Host.Outcome.next (pmuEval_enters s hs ht), powerState_enterState _ (by decide)⟩
  · exact ⟨_, congrArg Host.Outcome.next (pmuEval_leaves s hs ht),
      (powerState_of_kept (powerEvent_regs _ 1 0)).trans (dozeExit_one_powerState _)⟩
  · have h2 : 2 ≤ s.f F.PMU_STAT_TARGET := two_le_target_of_mayEnter s hmay
    obtain ⟨hstate, hreached, hoff⟩ := entered_enterState s h2 htarget
    exact ⟨_, execPowerStateEntry_none s hmay, hstate, hreached, fun h5 =>
      ⟨(hoff h5).sram, (hoff h5).queue, (hoff h5).pwrenCore, (hoff h5).supplies⟩⟩
  · obtain ⟨t, hexec, hset, hstate, hcore, hsupplies, hentered⟩ := execTripShutdown_effect s htrip hlock
    refine ⟨t, hexec, hset, hstate, hcore, hsupplies, fun h5 => ?_⟩
    obtain ⟨-, hreached, hoff⟩ := hentered h5
    exact ⟨hstate, hreached, fun h => ⟨(hoff h).sram, (hoff h).queue, (hoff h).pwrenCore, (hoff h).supplies⟩⟩
end

section
namespace Sys2Proof.Machine
variable {s : State}

/-! ## Overdue checks (R202, R242) -/

/-- A change of the lehr's own record leaves the engines as they are. -/
theorem resumeShadow_modLehr (hp : s.puntyOf = none) (hc : ∀ e, e < 17 → s.clean e = true) (g : Lehr → Lehr) :
    (s.modLehr g).resumeShadow = s.modLehr g := resumeShadow_eq_self hp hc

/-- Shadowing that goes on as before has no prediction (R196). -/
theorem noteShadow_self : s.noteShadow s = s := if_neg fun h => h.2 rfl

/-- The logical engines whose window is forced, with one more. -/
def Lehr.force (l : Nat) (x : Lehr) : Lehr := { x with forced := if l ∈ x.forced then x.forced else x.forced ++ [l] }

theorem mem_forced_force (l k : Nat) (x : Lehr) : k ∈ (x.force l).forced ↔ k ∈ x.forced ∨ k = l := by
  unfold Lehr.force
  dsimp only
  split
  · next h => exact ⟨.inl, fun hk => hk.elim id fun e => e ▸ h⟩
  · simp

theorem execShadowForce_forces {le : Fin 16} (hp : s.puntyOf = none) (hc : ∀ e, e < 17 → s.clean e = true)
    (hs : s.shadowing = false) (himg : (s.le le).image ≠ []) (hdue : s.uncheckedFor le 23 = true)
    (hin : (s.le le).excluded = false) : execShadowForce le s = .next (s.modLehr (Lehr.force le)) := by
  refine congrArg Host.Outcome.next ((if_pos ⟨hdue, himg, hin⟩).trans ?_)
  rw [hs, Bool.false_and, Bool.false_and]
  exact (congrArg (fun t => State.noteShadow t (s.modLehr (Lehr.force le))) (resumeShadow_modLehr hp hc _)).trans noteShadow_self

theorem execShadowForce_idle {le : Fin 16} (h : s.uncheckedFor le 23 = false) : execShadowForce le s = .next s :=
  congrArg Host.Outcome.next (if_neg fun hdue => by simp [h] at hdue)

/-- A report leaves the shadow check as it is. -/
theorem OnlyEvents.scu {t : State} (h : OnlyEvents s t) : t.scu = s.scu := (congrArg State.scu h.rest :)

theorem execCheckOverdue_reports {le : Fin 16} (himg : (s.le le).image ≠ []) (hfew : s.soundEngines ≤ s.imagedLes.length)
    (hdue : s.uncheckedFor le 24 = true) (hnot : (s.le le).overdue = false) :
    ∃ t, execCheckOverdue le s = .next t ∧ OnlyEvents (s.modLe le fun x => { x with overdue := true }) t :=
  ⟨_, congrArg Host.Outcome.next (if_pos ⟨hfew, hdue, himg, hnot⟩), onlyEvents_raise ..⟩

theorem execCheckOverdue_idle {le : Fin 16} (h : s.imagedLes.length < s.soundEngines ∨ (s.le le).overdue = true) :
    execCheckOverdue le s = .next s := by
  refine congrArg Host.Outcome.next (if_neg ?_)
  rintro ⟨hfew, -, -, hnot⟩
  rcases h with h | h
  · omega
  · simp [h] at hnot

/-! ## The raised voltage (R205) -/

/-- The levels that the part's fuses allow fit LA_VDD. -/
theorem avsHi_lt : s.avsHi < 2 ^ 10 := by
  have : s.avsHi = 760 + 10 * ((memGet s.fuse 57).toNat % 16) := rfl
  omega

/-- The delivered level is in force, and no registers change but LA_VDD's. -/
theorem setVdd_effect {mv : Nat} (h : mv < 2 ^ 10) : (s.setVdd mv).f F.LA_VDD_MV = mv ∧ (s.setVdd mv).stg = s.stg ∧
    ∀ a, a ≠ F.LA_VDD_MV.addr → (s.setVdd mv).reg a = s.reg a :=
  ⟨(f_setF_same s F.LA_VDD_MV mv (fldOk (by decide))).trans (Nat.mod_eq_of_lt h), State.setF_stg s F.LA_VDD_MV mv,
    fun _ ha => reg_setF_ne s mv ha⟩

/-- The raise has settled: firmware asks for no level, and the next epoch may be armed. -/
def State.vddInForce (s : State) : State :=
  { s.modLehr fun x => { x with avs := none, avsSettle := false, avsFail := false } with stg := { s.stg with avsWait := false } }

theorem execAvsSettled_settles (ha : s.lehr.avs = some true) (hw : s.lehr.avsSettle = true) :
    execAvsSettled s = .next (s.setVdd s.avsHi).vddInForce := congrArg Host.Outcome.next (if_pos ⟨ha, hw⟩)

theorem execAvsSettled_idle (h : s.lehr.avs ≠ some true) : execAvsSettled s = .next s :=
  congrArg Host.Outcome.next (if_neg fun hc => h hc.1)

end Sys2Proof.Machine
end

section
namespace Sys2Proof.Machine
variable {s t u : State}

/-! ## AGE_FMAX (R252) -/

/-- Bits 4 to 0 of AGE_FMAX are its field, and the others are reserved. -/
theorem regRow_ageFmax : ∀ e : Fin 17, regRow (R.AGE_FMAX e) = some ⟨0x40070B00, 17, 4, 1, 0x1000, 0x10, 0x1F, 0, 0, 0, 0, 0, 0⟩ := by
  decide +kernel

theorem ageFmax_reserved : ∀ n, n < 32 → n &&& RegRow.reserved ⟨0x40070B00, 17, 4, 1, 0x1000, 0x10, 0x1F, 0, 0, 0, 0, 0, 0⟩ = 0 := by
  decide

theorem execAgeFmaxWrite_small (e : Eng) {n : Word} (h : n.toNat < 32) :
    execAgeFmaxWrite e n s = .next (if n.toNat ≤ s.fmax e then s.setFmax e n.toNat else s) := by
  rw [execAgeFmaxWrite, writeTo_defined (regRow_ageFmax e) (ageFmax_reserved _ h), Nat.mod_eq_of_lt h]

theorem fmax_lt (e : Nat) : s.fmax e < 32 := f_lt s (F.AGE_FMAX_N e)

/-- A lower limit changes itself and the multipliers that the engine runs at (R246). -/
theorem onlyRegs_setFmax (e n : Nat) : OnlyRegs s (s.setFmax e n) [R.AGE_FMAX e, R.ENG_CLKST e] :=
  OnlyRegs.setF (OnlyRegs.setF (OnlyRegs.setF (OnlyRegs.refl s _) (F.AGE_FMAX_N e) n (by simp [F.AGE_FMAX_N])) (F.ENG_CLKST_N e) _
    (by simp [F.ENG_CLKST_N])) (F.ENG_CLKST_NARM e) _ (by simp [F.ENG_CLKST_NARM])

theorem ageFmax_ne_clkst (e : Nat) (he : e < 17) : R.AGE_FMAX e ≠ R.ENG_CLKST e := by
  have hbase := engBase_ge e
  have hfmax : R.AGE_FMAX e = 0x40070B00 + 4 * e := rfl
  have hclk : R.ENG_CLKST e = engBase e + 0x10 := rfl
  omega

theorem fmax_setFmax {e n : Nat} (he : e < 17) (hn : n < 32) : (s.setFmax e n).fmax e = n := by
  have hne := ageFmax_ne_clkst e he
  have hN (v : Nat) (v' : State → Nat) :
      (((s.setF (F.AGE_FMAX_N e) n).setF (F.ENG_CLKST_N e) v).setF (F.ENG_CLKST_NARM e) (v' s)).f (F.AGE_FMAX_N e) = n :=
    (f_setF_ne _ _ (fldOk (by decide)) (apart_of_addr hne)).trans <|
      (f_setF_ne _ _ (fldOk (by decide)) (apart_of_addr hne)).trans <|
        (f_setF_same s (F.AGE_FMAX_N e) n (fldOk (by decide))).trans (Nat.mod_eq_of_lt hn)
  exact hN _ fun _ => _

/-! ## The counts of a measurement (R245) -/

/-- The registers beside the counts. -/
abbrev BesideCounts (a : Nat) : Prop := a < 0x40070900 ∨ 0x40070A00 ≤ a

theorem not_besideCounts {i : Nat} (h : i < 23) : ¬ BesideCounts (F.AGE_CNT_COUNT i).addr := by
  have : (F.AGE_CNT_COUNT i).addr = 0x40070900 + 4 * i := rfl
  omega

/-- The power domains, the engines and the fuses are those from before the counts were taken. -/
structure Counting (s t : State) : Prop where
  regs : RegsKept BesideCounts s t
  engs : t.engs = s.engs
  fuse : t.fuse = s.fuse

theorem Counting.refl (s : State) : Counting s s := ⟨.refl s, rfl, rfl⟩

theorem Counting.setF (h : Counting s t) {i : Nat} (v : Nat) (hi : i < 23) : Counting s (t.setF (F.AGE_CNT_COUNT i) v) :=
  ⟨h.regs.setF v (not_besideCounts hi), (State.setF_engs t _ v).trans h.engs, (State.setF_fuse t _ v).trans h.fuse⟩

theorem islandOn_of_on (h : ∀ pd, t.on pd = s.on pd) (i : Nat) : t.islandOn i = s.islandOn i := by
  unfold State.islandOn
  simp only [h]

theorem Counting.islandOn (h : Counting s t) (i : Nat) : t.islandOn i = s.islandOn i :=
  islandOn_of_on (h.regs.on (by decide)) i

/-- The counts of the powered islands, and 0 for the others. -/
def State.takeCounts (s : State) (cnt : List Nat) : State :=
  s.forEach (List.range 23) fun s i => s.setF (F.AGE_CNT_COUNT i) (if s.islandOn i then cnt.getD i 0 else 0)

theorem counting_takeCounts (cnt : List Nat) : Counting s (s.takeCounts cnt) :=
  forEach_keeps (P := Counting s) _ (.refl s) fun _ _ hi h => h.setF _ (List.mem_range.mp hi)

theorem count_takeCounts (cnt : List Nat) {i : Nat} (hi : i < 23) :
    (s.takeCounts cnt).f (F.AGE_CNT_COUNT i) = if s.islandOn i then cnt.getD i 0 % 2 ^ 24 else 0 := by
  have hbelow (m : Nat) : ¬ (F.AGE_CNT_COUNT m).addr < 0x40070900 := Nat.not_lt.mpr (Nat.le_add_right ..)
  refine forEach_reaches (Q := RegsKept (· < 0x40070900) s) (P := fun t => t.f (F.AGE_CNT_COUNT i) = _) (fun t ht => ?_)
    (fun t m hm _ hp => (f_setF_ne _ _ (fldOk (by decide)) (apart_of_addr fun h => hm ?_)).trans hp)
    (fun t m ht => ht.setF _ (hbelow m)) (List.mem_range.mpr hi) (.refl s)
  · rw [islandOn_of_on (ht.on (by decide))]
    refine (f_setF_same t (F.AGE_CNT_COUNT i) _ (fldOk (by decide))).trans ?_
    split
    · rfl
    · rfl
  · have : 0x40070900 + 4 * i = 0x40070900 + 4 * m := h
    omega

/-! ## Deratings (R246, R247) -/

/-- What judging an island leaves alone: registers but doorbells, the fuses, and the other engines. -/
structure Judged (i : Nat) (s t : State) : Prop where
  regs : RegsKept (· ∉ [R.MBX_RSPPEND 0, R.MBX_RSPPEND 1]) s t
  fuse : t.fuse = s.fuse
  eng : ∀ j, j ≠ i → t.eng j = s.eng j

theorem OnlyEvents.fuse (h : OnlyEvents s t) : t.fuse = s.fuse := (congrArg State.fuse h.rest :)

theorem OnlyEvents.judged (h : OnlyEvents s t) (i : Nat) : Judged i s t :=
  ⟨.of_onlyEvents h fun _ ha => ha, h.fuse, fun j _ => h.eng j⟩

theorem Judged.free (h : Judged i s t) : Judged i s t.free.2 := ⟨h.regs.same rfl, h.fuse, h.eng⟩

theorem Judged.trans (h : Judged i s t) (h' : Judged i t u) : Judged i s u :=
  ⟨h.regs.trans h'.regs, h'.fuse.trans h.fuse, fun j hj => (h'.eng j hj).trans (h.eng j hj)⟩

theorem Judged.refl (i : Nat) (s : State) : Judged i s s := ⟨.refl s, rfl, fun _ _ => rfl⟩

theorem fusedFmax_of_fuse (h : t.fuse = s.fuse) : t.fusedFmax = s.fusedFmax := by
  unfold State.fusedFmax State.fuseWord
  rw [h]

/-- A slowdown takes no effect where the last measurement found none (R246). -/
theorem judged_derate {e : Nat} (sl : Rat) (hstep : (s.eng e).ageSteps = 0) (hmax : s.fmax e ≤ s.fusedFmax) :
    Judged e s (s.derate e sl) := by
  have hn : s.fmax e ≤ s.fusedFmax - min (sl * 1000 / 15).floor.toNat (s.eng e).ageSteps := by
    rw [hstep, Nat.min_zero]
    exact hmax
  have heq : s.derate e sl = s.modEng e fun en => { en with ageSteps := (sl * 1000 / 15).floor.toNat } := if_pos hn
  rw [heq]
  exact ⟨.refl s, rfl, fun j hj => eng_modEng_ne s _ hj⟩

theorem judged_ageAlarm (i : Nat) (sl : Rat) : Judged i s (s.ageAlarm i sl) := by
  unfold State.ageAlarm
  split
  · have h : Judged i s (s.free.2.agingEvent 0x030C i s.free.1 sl) :=
      (Judged.refl i s).free.trans ((onlyEvents_raise s.free.2 ..).judged i)
    exact h
  · exact .refl i s

theorem judged_slowdown (i : Nat) : Judged i s (s.slowdown i).2 := by
  unfold State.slowdown
  dsimp only
  split
  · exact (Judged.refl i s).free
  · exact .refl i s

/-- Firmware's judgement of one island. -/
def State.judge (s : State) (i : Nat) : State :=
  if i < 17 then (s.slowdown i).2.derate i (s.slowdown i).1 else (s.slowdown i).2.ageAlarm i (s.slowdown i).1

/-- No engine of a list has slowed down before, and none runs above its fused limit. -/
def Unslowed (l : List Nat) (s : State) : Prop := ∀ j, j ∈ l → j < 17 → (s.eng j).ageSteps = 0 ∧ s.fmax j ≤ s.fusedFmax

theorem slowdown_eng (i j : Nat) : (s.slowdown i).2.eng j = s.eng j := by
  unfold State.slowdown
  dsimp only
  split
  · rfl
  · rfl

theorem ageFmax_not_bell (j : Nat) : R.AGE_FMAX j ∉ [R.MBX_RSPPEND 0, R.MBX_RSPPEND 1] := by
  have : R.AGE_FMAX j = 0x40070B00 + 4 * j := rfl
  simp [R.MBX_RSPPEND]
  omega

theorem ageCnt_not_bell (i : Nat) : R.AGE_CNT i ∉ [R.MBX_RSPPEND 0, R.MBX_RSPPEND 1] := by
  have : R.AGE_CNT i = 0x40070900 + 4 * i := rfl
  simp [R.MBX_RSPPEND]
  omega

theorem Judged.fmax (h : Judged i s t) (j : Nat) : t.fmax j = s.fmax j := h.regs.f (x := F.AGE_FMAX_N j) (ageFmax_not_bell j)

theorem judged_judge {i : Nat} (h : i < 17 → (s.eng i).ageSteps = 0 ∧ s.fmax i ≤ s.fusedFmax) : Judged i s (s.judge i) := by
  have hs := judged_slowdown (s := s) i
  unfold State.judge
  split
  · next hi =>
    refine hs.trans (judged_derate _ ?_ ?_)
    · rw [slowdown_eng]
      exact (h hi).1
    · rw [hs.fmax, fusedFmax_of_fuse hs.fuse]
      exact (h hi).2
  · exact hs.trans (judged_ageAlarm i _)

theorem Unslowed.judge {i : Nat} {l : List Nat} (h : Unslowed (i :: l) s) (hi : i ∉ l) : Unslowed l (s.judge i) := by
  have hj := judged_judge (h i (by simp))
  intro j hjl hj17
  rw [hj.eng j (ne_of_mem_of_not_mem hjl hi), hj.fmax, fusedFmax_of_fuse hj.fuse]
  exact h j (by simp [hjl]) hj17

/-- Judging islands none of which has slowed down before leaves the registers alone. -/
theorem regs_forEach_judge {l : List Nat} (hn : l.Nodup) (h : Unslowed l s) :
    RegsKept (· ∉ [R.MBX_RSPPEND 0, R.MBX_RSPPEND 1]) s (s.forEach l State.judge) := by
  induction l generalizing s with
  | nil => exact .refl s
  | cons i l ih =>
    obtain ⟨hi, hl⟩ := List.nodup_cons.mp hn
    exact (judged_judge (h i (by simp))).regs.trans (ih hl (h.judge hi))

/-! ## A measurement -/

/-- The counts are taken, and the measurement is done. -/
def State.measured (s : State) (cnt : List Nat) : State := ((s.takeCounts cnt).setF F.AGE_STAT_BUSY 0).flag F.AGE_STAT_DONE

theorem execAgeMeasureDone_busy (cnt : List Nat) (h : s.b F.AGE_STAT_BUSY = true) :
    execAgeMeasureDone cnt s =
      .next ((s.measured cnt).forEach ((List.range 23).filter (s.measured cnt).islandOn) State.judge) :=
  congrArg Host.Outcome.next (if_pos h)

theorem execAgeMeasureDone_idle (cnt : List Nat) (h : s.b F.AGE_STAT_BUSY = false) : execAgeMeasureDone cnt s = .next s :=
  congrArg Host.Outcome.next (if_neg fun hb => by simp [h] at hb)

/-- The registers beside AGE_STAT, the engines and the fuses as the counts left them. -/
theorem measured_rest (cnt : List Nat) : RegsKept (· ≠ R.AGE_STAT) (s.takeCounts cnt) (s.measured cnt) ∧
    (s.measured cnt).engs = s.engs ∧ (s.measured cnt).fuse = s.fuse := by
  have h := counting_takeCounts (s := s) cnt
  unfold State.measured
  generalize s.takeCounts cnt = t at *
  refine ⟨((RegsKept.refl t).setF 0 (by simp [F.AGE_STAT_BUSY])).setF 1 (by simp [F.AGE_STAT_DONE]), ?_, ?_⟩
  · exact (State.setF_engs _ F.AGE_STAT_DONE 1).trans ((State.setF_engs t F.AGE_STAT_BUSY 0).trans h.engs)
  · exact (State.setF_fuse _ F.AGE_STAT_DONE 1).trans ((State.setF_fuse t F.AGE_STAT_BUSY 0).trans h.fuse)

theorem measured_stat (cnt : List Nat) :
    (s.measured cnt).b F.AGE_STAT_BUSY = false ∧ (s.measured cnt).b F.AGE_STAT_DONE = true := by
  unfold State.measured
  generalize s.takeCounts cnt = t
  have hbusy : (t.setF F.AGE_STAT_BUSY 0).b F.AGE_STAT_BUSY = false := b_setF_zero t _ (fldOk (by decide))
  exact ⟨(b_setF_ne (x := F.AGE_STAT_DONE) _ 1 (fldOk (by decide)) (apart_of_bits (by decide))).trans hbusy,
    b_flag_same _ F.AGE_STAT_DONE (fldOk (by decide))⟩

theorem count_measured (cnt : List Nat) {i : Nat} (hi : i < 23) :
    (s.measured cnt).f (F.AGE_CNT_COUNT i) = if s.islandOn i then cnt.getD i 0 % 2 ^ 24 else 0 := by
  have hne : (F.AGE_CNT_COUNT i).addr ≠ R.AGE_STAT := by
    have : (F.AGE_CNT_COUNT i).addr = 0x40070900 + 4 * i := rfl
    have : R.AGE_STAT = 0x40070804 := rfl
    omega
  exact ((measured_rest cnt).1.f (x := F.AGE_CNT_COUNT i) hne).trans (count_takeCounts cnt hi)

theorem fmax_measured (cnt : List Nat) (j : Nat) : (s.measured cnt).fmax j = s.fmax j := by
  have haddr : (F.AGE_FMAX_N j).addr = 0x40070B00 + 4 * j := rfl
  have hstat : R.AGE_STAT = 0x40070804 := rfl
  have hbeside : BesideCounts (F.AGE_FMAX_N j).addr := by omega
  exact ((measured_rest cnt).1.f (x := F.AGE_FMAX_N j) (by omega)).trans ((counting_takeCounts cnt).regs.f hbeside)

theorem execAgeMeasureDone_effect (cnt : List Nat) (hb : s.b F.AGE_STAT_BUSY = true)
    (h : ∀ j, j < 17 → (s.eng j).ageSteps = 0 ∧ s.fmax j ≤ s.fusedFmax) :
    ∃ t, execAgeMeasureDone cnt s = .next t ∧
      RegsKept (· ∉ [R.MBX_RSPPEND 0, R.MBX_RSPPEND 1]) (s.measured cnt) t := by
  obtain ⟨-, hengs, hfuse⟩ := measured_rest (s := s) cnt
  refine ⟨_, execAgeMeasureDone_busy cnt hb, regs_forEach_judge (List.nodup_range.filter _) fun j _ hj => ?_⟩
  rw [fmax_measured, fusedFmax_of_fuse hfuse, State.eng, hengs]
  exact h j hj

theorem onlyRegs_ageGo : OnlyRegs { s with lehr := { s.lehr with ageAt := s.s0 } } s.ageGo [R.AGE_STAT] ∧
    s.ageGo.b F.AGE_STAT_BUSY = true ∧ s.ageGo.lehr.ageAt = s.s0 :=
  ⟨⟨rfl, fun _ ha => reg_setF_ne s 1 fun h => ha (List.mem_singleton.mpr h)⟩, b_flag_same s F.AGE_STAT_BUSY (fldOk (by decide)), rfl⟩

end Sys2Proof.Machine
end

section
open Sys2Proof Sys2Proof.Machine

/-- Settles O23: a check, a settled voltage and a measurement each change a record of their own; the judgement of an island
whose engine had no step before raises at most an event. -/
theorem overdueChecksVoltageAndAging : Obligations.OverdueChecksVoltageAndAging := by
  unfold Obligations.OverdueChecksVoltageAndAging
  refine ⟨fun le s => ⟨fun hp hc hs himg => ⟨fun hdue hin => ?_, execShadowForce_idle, fun hfew hdue hnot => ?_, execCheckOverdue_idle⟩,
    fun ha hw => ?_, execAvsSettled_idle⟩, fun e n cnt s => ⟨?_, fun hb hsteps => ?_, execAgeMeasureDone_idle cnt, fun hle => ?_,
    fun hlt hn => ?_⟩⟩
  · exact ⟨_, execShadowForce_forces hp hc hs himg hdue hin, rfl, fun l => mem_forced_force le l s.lehr⟩
  · obtain ⟨t, ht, hev⟩ := execCheckOverdue_reports himg hfew hdue hnot
    refine ⟨t, ht, ?_, fun l hl => ?_, hev.engs, hev.scu⟩
    · rw [le_of_les hev.les, le_modLe_same _ _ _ le.isLt]
    · rw [le_of_les hev.les, le_modLe_ne _ _ hl]
  · obtain ⟨hmv, hstg, hregs⟩ := setVdd_effect (s := s) avsHi_lt
    have hqueue : (s.setVdd s.avsHi).stg.queue = s.stg.queue := congrArg Stager.queue hstg
    exact ⟨_, execAvsSettled_settles ha hw, hmv, rfl, rfl, hqueue, hregs⟩
  · obtain ⟨honly, hbusy, hat⟩ := onlyRegs_ageGo (s := s)
    exact ⟨_, rfl, hbusy, hat, honly⟩
  · obtain ⟨t, ht, hkept⟩ := execAgeMeasureDone_effect cnt hb hsteps
    obtain ⟨hbusy, hdone⟩ := measured_stat (s := s) cnt
    refine ⟨t, ht, (hkept.b (by decide)).trans hbusy, (hkept.b (by decide)).trans hdone, fun i hi => ?_, fun j _ => ?_⟩
    · exact (hkept.f (x := F.AGE_CNT_COUNT i) (ageCnt_not_bell i)).trans (count_measured cnt hi)
    · exact (hkept.f (x := F.AGE_FMAX_N j) (ageFmax_not_bell j)).trans (fmax_measured cnt j)
  · have hn := hle.trans_lt (fmax_lt (s := s) e)
    refine ⟨s.setFmax e n.toNat, ?_, fmax_setFmax e.isLt hn, onlyRegs_setFmax e _⟩
    exact (execAgeFmaxWrite_small e hn).trans (congrArg Host.Outcome.next (if_pos hle))
  · exact (execAgeFmaxWrite_small e hn).trans (congrArg Host.Outcome.next (if_neg (Nat.not_le.mpr hlt)))

end

section
namespace Sys2Proof.Machine
variable {s t u : State}

/-! ## What the passage of time leaves alone -/

/-- The registers beside those of the time unit and the count of slow-clock periods. -/
abbrev BesideTime (a : Nat) : Prop := a ≠ R.PMU_SLOWCNT ∧ (a < 0x40020000 ∨ 0x40030000 ≤ a)

/-- Nothing differs but clocks: time, the time unit and its registers, the loops and the outputs that they drive. -/
structure OnlyTime (s t : State) : Prop where
  rest : { t with regs := s.regs, now := s.now, s0 := s.s0, tu := s.tu, acs := s.acs, mclk := s.mclk, sysLoop := s.sysLoop } = s
  regs : RegsKept BesideTime s t

namespace OnlyTime

theorem refl (s : State) : OnlyTime s s := ⟨rfl, .refl s⟩

theorem trans (h : OnlyTime s t) (h' : OnlyTime t u) : OnlyTime s u where
  rest := by
    have e := congrArg (fun x : State => { x with
      regs := s.regs, now := s.now, s0 := s.s0, tu := s.tu, acs := s.acs, mclk := s.mclk, sysLoop := s.sysLoop }) h'.rest
    exact e.trans h.rest
  regs := h.regs.trans h'.regs

theorem engs (h : OnlyTime s t) : t.engs = s.engs := (congrArg State.engs h.rest :)
theorem les (h : OnlyTime s t) : t.les = s.les := (congrArg State.les h.rest :)
theorem lehr (h : OnlyTime s t) : t.lehr = s.lehr := (congrArg State.lehr h.rest :)
theorem pmu (h : OnlyTime s t) : t.pmu = s.pmu := (congrArg State.pmu h.rest :)

theorem setF (h : OnlyTime s t) {x : Fld} (v : Nat) (hx : ¬ BesideTime x.addr) : OnlyTime s (t.setF x v) :=
  h.trans ⟨rfl, (RegsKept.refl t).setF v hx⟩

theorem setTu (h : OnlyTime s t) (x : TimeUnit) : OnlyTime s { t with tu := x } := h.trans ⟨rfl, (RegsKept.refl t).same rfl⟩

theorem ite {c : Prop} [Decidable c] (ht : OnlyTime s t) (hu : OnlyTime s u) : OnlyTime s (if c then t else u) := by
  split
  · exact ht
  · exact hu

/-- A further step that may be taken. -/
theorem iteThen {c : Prop} [Decidable c] (ht : OnlyTime s t) (hu : OnlyTime t u) : OnlyTime s (if c then u else t) :=
  ite (ht.trans hu) ht

end OnlyTime

theorem not_besideTime_tu {a : Nat} (h : 0x40020000 ≤ a ∧ a < 0x40030000) : ¬ BesideTime a := fun ha => by
  have := ha.2
  omega

theorem not_besideTime_tpCtrl {k : Nat} (hk : k < 2) : ¬ BesideTime (R.TP_CTRL k) := by
  have : R.TP_CTRL k = 0x40020080 + 0x20 * k := rfl
  exact not_besideTime_tu (by omega)

theorem onlyTime_tpEnd {k : Nat} (hk : k < 2) (done : Bool) : OnlyTime s (s.tpEnd k done) := by
  have hctrl := not_besideTime_tpCtrl hk
  unfold State.tpEnd
  dsimp only
  split
  · exact (((OnlyTime.refl s).setTu _).setF 0 hctrl).setF 1 hctrl
  · exact ((OnlyTime.refl s).setTu _).setF 0 hctrl

theorem onlyTime_tpSkip {k : Nat} (hk : k < 2) : OnlyTime s (s.tpSkip k) := by
  unfold State.tpSkip
  exact .ite (.refl s) (.ite (onlyTime_tpEnd hk _) ((OnlyTime.refl s).setTu _))

theorem onlyTime_tuTick : OnlyTime s s.tuTick := by
  have hstat : ¬ BesideTime R.TU_STAT := by decide
  have hskip (t : State) : OnlyTime t ((t.tpSkip 0).tpSkip 1) :=
    (onlyTime_tpSkip (by decide)).trans (onlyTime_tpSkip (by decide))
  have hset (t : State) : OnlyTime t ((t.flag F.TU_STAT_SETEV).flag F.TU_STAT_VALID) :=
    ((OnlyTime.refl t).setF 1 hstat).setF 1 hstat
  have hstep (t : State) : OnlyTime t (t.flag F.TU_STAT_STEPEV) := (OnlyTime.refl t).setF 1 hstat
  unfold State.tuTick
  refine .iteThen ?_ (hskip _)
  refine .iteThen ?_ (hstep _)
  refine .iteThen ?_ (hset _)
  exact (OnlyTime.refl s).setTu _

theorem onlyTime_tuTicks (n : Nat) : OnlyTime s (s.tuTicks n) := by
  unfold State.tuTicks
  split
  · exact .refl s
  · exact onlyTime_tuTick.setTu _

theorem onlyTime_acsDet (i n : Nat) : OnlyTime s (s.acsDet i n) := by
  unfold State.acsDet
  split
  · exact .refl s
  · exact ⟨rfl, (RegsKept.refl s).same rfl⟩

theorem onlyTime_sysDet (n : Nat) : OnlyTime s (s.sysDet n) := by
  unfold State.sysDet
  split
  · exact .refl s
  · exact ⟨rfl, (RegsKept.refl s).same rfl⟩

theorem onlyTime_mclkCycles (n m : Nat) : OnlyTime s (s.mclkCycles n m) := by
  unfold State.mclkCycles
  split
  · exact .refl s
  · exact forEach_keeps (P := OnlyTime s) _ (.refl s) fun t _ _ h => h.trans ⟨rfl, (RegsKept.refl t).same rfl⟩

/-- What the clocks that pass count and drive. -/
theorem onlyTime_clocks (el : Elapsed) : OnlyTime s
    (((((((s.wrap F.PMU_SLOWCNT_COUNT el.slow).sysDet el.detSys).acsDet 0 el.det0).acsDet 1 el.det1).mclkCycles el.acs0
      el.acs1)).tuTicks el.ticks) :=
  ((((((OnlyTime.refl s).setF (x := F.PMU_SLOWCNT_COUNT) _ (by decide)).trans (onlyTime_sysDet _)).trans
    (onlyTime_acsDet _ _)).trans (onlyTime_acsDet _ _)).trans (onlyTime_mclkCycles _ _)).trans (onlyTime_tuTicks _)

theorem onlyTime_advance (el : Elapsed) : OnlyTime s (s.advance el) := by
  unfold State.advance
  dsimp only
  refine OnlyTime.trans ?_ (onlyTime_clocks el)
  exact ⟨rfl, (RegsKept.refl s).same rfl⟩

end Sys2Proof.Machine
end

section
namespace Sys2Proof.Machine
variable {s t u : State}

/-! ## The registers of a window (R194) -/

/-- The registers beside those that the end of a window writes. -/
abbrev BesideWindow (a : Nat) : Prop := a ≠ R.LA_STAT ∧ a ≠ R.LA_PEST ∧ (a < 0x40190100 ∨ 0x40190200 ≤ a)

/-- The registers beside LA_STAT and LA_PEST, which show a window's estimate. -/
abbrev BesidePest (a : Nat) : Prop := a ≠ R.LA_STAT ∧ a ≠ R.LA_PEST

theorem leader_lt_four {d : Nat} (hd : d < 4) : s.leader d < 4 := by
  unfold State.leader
  split
  · exact f_lt s (F.RD_CTRL_LEADER d)
  · exact hd

theorem besideWindow_rd {a : Nat} (h : a < 0x40030200) : BesideWindow a := by
  have hstat : R.LA_STAT = 0x40190004 := rfl
  have hpest : R.LA_PEST = 0x40190008 := rfl
  refine ⟨?_, ?_, ?_⟩ <;> omega

section
variable (h : RegsKept BesideWindow s t)
include h

theorem linked_of_window : t.linked 0 = s.linked 0 := h.b (x := F.RD_CTRL_LINK 0) (besideWindow_rd (by decide))

theorem leader_of_window : t.leader 0 = s.leader 0 := by
  unfold State.leader
  rw [linked_of_window h, h.f (x := F.RD_CTRL_LEADER 0) (besideWindow_rd (by decide))]

theorem rate_of_window : t.rate 0 = s.rate 0 := by
  have hl := leader_lt_four (s := s) (d := 0) (by decide)
  have hratio : t.ratio 0 = s.ratio 0 := by
    unfold State.ratio
    rw [linked_of_window h, h.f (x := F.RD_CTRL_RATIO 0) (besideWindow_rd (by decide))]
  have hctrl : R.RD_CTRL (s.leader 0) < 0x40030200 := by unfold R.RD_CTRL; omega
  have hdivi : R.RD_DIVI (s.leader 0) < 0x40030200 := by unfold R.RD_DIVI; omega
  have hdivf : R.RD_DIVF (s.leader 0) < 0x40030200 := by unfold R.RD_DIVF; omega
  unfold State.rate
  rw [leader_of_window h, hratio]
  dsimp only
  rw [h.f (x := F.RD_CTRL_SRC (s.leader 0)) (besideWindow_rd hctrl),
    h.f (x := F.RD_DIVI_INT (s.leader 0)) (besideWindow_rd hdivi), h.f (x := F.RD_DIVF_FRAC (s.leader 0)) (besideWindow_rd hdivf)]

/-- The length of a window comes from settings that its end leaves alone. -/
theorem windowNs_of_window (ns : Nat) : t.windowNs ns = s.windowNs ns := by
  have hblen : t.blen 0 = s.blen 0 := by
    unfold State.blen
    rw [h.f (x := F.RD_CTRL_BLEN 0) (besideWindow_rd (by decide))]
  have hrun : t.running 0 = s.running 0 := h.b (x := F.RD_STAT_RUN 0) (besideWindow_rd (by decide))
  unfold State.windowNs
  rw [rate_of_window h, hrun, hblen, h.f (x := F.LA_CTRL_WINBLK) (by decide), h.f (x := F.LA_CTRL_SLOWWIN) (by decide)]

/-- So does the leakage. -/
theorem leak_of_window : t.leak = s.leak := by
  unfold State.leak
  rw [h.f (x := F.LA_LEAK_DT) (by decide), h.f (x := F.LA_LEAK_L0) (by decide), h.f (x := F.LA_VDD_MV) (by decide),
    h.f (x := F.TSU_MAX_TJ) (by decide)]

end

theorem besidePest_act {i : Nat} : BesidePest (R.LA_ACT i) := by
  have hact : R.LA_ACT i = 0x40190100 + 4 * i := rfl
  have hstat : R.LA_STAT = 0x40190004 := rfl
  have hpest : R.LA_PEST = 0x40190008 := rfl
  refine ⟨?_, ?_⟩ <;> omega

theorem besidePest_cdyn {i : Nat} : BesidePest (R.LA_CDYN i) := by
  have hcdyn : R.LA_CDYN i = 0x40190200 + 4 * i := rfl
  have hstat : R.LA_STAT = 0x40190004 := rfl
  have hpest : R.LA_PEST = 0x40190008 := rfl
  refine ⟨?_, ?_⟩ <;> omega

/-- The dynamic power comes from the activity counts, the capacitances and the voltage. -/
theorem dynMw_of_pest (h : RegsKept BesidePest s t) (ns : Rat) : t.dynMw ns = s.dynMw ns := by
  unfold State.dynMw
  have hsum : (List.range 23).map (fun i => t.f (F.LA_CDYN_FJ i) * t.f (F.LA_ACT_COUNT i)) =
      (List.range 23).map fun i => s.f (F.LA_CDYN_FJ i) * s.f (F.LA_ACT_COUNT i) :=
    List.map_congr_left fun i _ => by
      rw [h.f (x := F.LA_CDYN_FJ i) besidePest_cdyn, h.f (x := F.LA_ACT_COUNT i) besidePest_act]
  rw [hsum, h.f (x := F.LA_VDD_MV) (by decide)]

/-! ## The activity counts -/

/-- The counts of a window, each at most what its register holds. -/
def State.takeActs (s : State) (acts : List Nat) : State :=
  s.forEach (List.range 23) fun s i => s.setF (F.LA_ACT_COUNT i) (min (acts.getD i 0) (2 ^ 32 - 1))

/-- The registers beside the activity counts. -/
abbrev BesideActs (a : Nat) : Prop := a < 0x40190100 ∨ 0x40190200 ≤ a

/-- What the counts leave alone. -/
structure Counted (s t : State) : Prop where
  regs : RegsKept BesideActs s t
  engs : t.engs = s.engs
  free : t.freeCtr = s.freeCtr

theorem counted_takeActs (acts : List Nat) : Counted s (s.takeActs acts) := by
  refine forEach_keeps (P := Counted s) _ ⟨.refl s, rfl, rfl⟩ fun t i hi h => ⟨h.regs.setF _ ?_,
    (State.setF_engs t (F.LA_ACT_COUNT i) _).trans h.engs, (State.setF_freeCtr t (F.LA_ACT_COUNT i) _).trans h.free⟩
  have hact : (F.LA_ACT_COUNT i).addr = 0x40190100 + 4 * i := rfl
  have := List.mem_range.mp hi
  exact fun hw => by omega

theorem act_setF_same (i : Nat) {v : Nat} (hv : v < 2 ^ 32) : (s.setF (F.LA_ACT_COUNT i) v).f (F.LA_ACT_COUNT i) = v :=
  (f_setF_same s (F.LA_ACT_COUNT i) v (fldOk (by decide))).trans (Nat.mod_eq_of_lt hv)

theorem act_setF_ne {i m : Nat} (v : Nat) (h : m ≠ i) : (s.setF (F.LA_ACT_COUNT m) v).f (F.LA_ACT_COUNT i) = s.f (F.LA_ACT_COUNT i) := by
  refine f_setF_ne s v (fldOk (by decide)) (apart_of_addr fun e => h ?_)
  have : 0x40190100 + 4 * i = 0x40190100 + 4 * m := e
  omega

theorem act_forEach {c : Nat → Nat} (hc : ∀ i, c i < 2 ^ 32) {i : Nat} (l : List Nat) (hi : i ∈ l) :
    (s.forEach l fun s i => s.setF (F.LA_ACT_COUNT i) (c i)).f (F.LA_ACT_COUNT i) = c i := by
  refine forEach_reaches (n := i) (Q := fun _ => True) (P := fun t => t.f (F.LA_ACT_COUNT i) = c i) ?_ ?_ ?_ hi trivial
  · intro t _
    exact act_setF_same i (hc i)
  · intro t m hm _ hp
    exact (act_setF_ne (c m) hm).trans hp
  · exact fun _ _ h => h

theorem act_takeActs (acts : List Nat) {i : Nat} (hi : i < 23) :
    (s.takeActs acts).f (F.LA_ACT_COUNT i) = min (acts.getD i 0) (2 ^ 32 - 1) :=
  act_forEach (c := fun i => min (acts.getD i 0) (2 ^ 32 - 1)) (fun i => by omega) _ (List.mem_range.mpr hi)

/-! ## The estimate -/

/-- The power of a window in mW, as far as the manual states it (R194). -/
def State.pestMw (s : State) (ns : Rat) : Nat :=
  s.dynMw ns + s.leak.1 + (if s.leak.2 then 0 else Config.freeValue s.freeCtr % 2) + s.f F.LA_FIXED_MW

theorem estimate_eq (ns : Rat) :
    s.estimate ns = (if ns = 0 ∨ 65535 < s.pestMw ns then Config.freeValue s.freeCtr % 65536 else s.pestMw ns, s.free.2) := by
  have hdyn : s.free.2.dynMw ns = s.dynMw ns := dynMw_of_pest ((RegsKept.refl s).same rfl) ns
  have hfix : s.free.2.f F.LA_FIXED_MW = s.f F.LA_FIXED_MW := ((RegsKept.refl s (P := BesidePest)).same rfl).f (by decide)
  unfold State.pestMw
  rw [← hdyn, ← hfix]
  rfl

/-- LA_PEST and LA_STAT show the estimate of a window (R194). -/
def State.showPest (s : State) (p : Nat) : State :=
  (((s.setF F.LA_PEST_VALID 1).setF F.LA_PEST_MW p).flag F.LA_STAT_DONE).wrap F.LA_STAT_WINDOWS 1

theorem showPest_rest (p : Nat) : RegsKept BesidePest s (s.showPest p) ∧ (s.showPest p).engs = s.engs := by
  refine ⟨((((RegsKept.refl s).setF 1 (by decide)).setF p (by decide)).setF 1 (by decide)).setF _ (by decide), ?_⟩
  exact (State.setF_engs ..).trans ((State.setF_engs ..).trans ((State.setF_engs ..).trans (State.setF_engs ..)))

theorem showPest_shows (p : Nat) : (s.showPest p).b F.LA_STAT_DONE = true ∧
    (s.showPest p).f F.LA_STAT_WINDOWS = (s.f F.LA_STAT_WINDOWS + 1) % 2 ^ 16 ∧
    (s.showPest p).b F.LA_PEST_VALID = true ∧ (s.showPest p).f F.LA_PEST_MW = p % 2 ^ 16 := by
  have hvalid : (s.setF F.LA_PEST_VALID 1).b F.LA_PEST_VALID = true := b_setF_one s _ (fldOk (by decide))
  have hvalid' : ((s.setF F.LA_PEST_VALID 1).setF F.LA_PEST_MW p).b F.LA_PEST_VALID = true :=
    (b_setF_ne (x := F.LA_PEST_MW) _ p (fldOk (by decide)) (apart_of_bits (by decide))).trans hvalid
  have hmw : ((s.setF F.LA_PEST_VALID 1).setF F.LA_PEST_MW p).f F.LA_PEST_MW = p % 2 ^ 16 :=
    f_setF_same _ F.LA_PEST_MW p (fldOk (by decide))
  have hstat : RegsKept (· = R.LA_STAT) s ((s.setF F.LA_PEST_VALID 1).setF F.LA_PEST_MW p) :=
    ((RegsKept.refl s).setF 1 (by decide)).setF p (by decide)
  unfold State.showPest
  generalize (s.setF F.LA_PEST_VALID 1).setF F.LA_PEST_MW p = v at *
  have hpest : RegsKept (· = R.LA_PEST) v ((v.flag F.LA_STAT_DONE).wrap F.LA_STAT_WINDOWS 1) :=
    ((RegsKept.refl v).setF 1 (by decide)).setF _ (by decide)
  have hwin : (v.flag F.LA_STAT_DONE).f F.LA_STAT_WINDOWS = s.f F.LA_STAT_WINDOWS :=
    (f_setF_ne (x := F.LA_STAT_DONE) v 1 (fldOk (by decide)) (apart_of_bits (by decide))).trans
      (hstat.f (x := F.LA_STAT_WINDOWS) rfl)
  refine ⟨?_, ?_, (hpest.b (x := F.LA_PEST_VALID) rfl).trans hvalid', (hpest.f (x := F.LA_PEST_MW) rfl).trans hmw⟩
  · exact (b_setF_ne (x := F.LA_STAT_WINDOWS) _ _ (fldOk (by decide)) (apart_of_bits (by decide))).trans
      (b_setF_one v F.LA_STAT_DONE (fldOk (by decide)))
  · rw [← hwin]
    exact f_setF_same (v.flag F.LA_STAT_DONE) F.LA_STAT_WINDOWS _ (fldOk (by decide))

/-! ## A decision under hard (R198) -/

/-- While hard holds, a decision begins its count of calm periods anew, and takes its power. -/
theorem lehrDecide_hard (p : Nat) (h : s.b F.TSU_STAT_HARD = true) :
    ∃ x : Lehr, s.lehrDecide p = { s with lehr := x } ∧ x.calm = 0 := by
  have hb (x : Lehr) : ({ s with lehr := x } : State).b F.TSU_STAT_HARD = true := h
  by_cases hp : s.lehr.predicted = []
  · have he : s.lehrP p = ((p : Rat), s) := if_pos hp
    unfold State.lehrDecide
    rw [he]
    exact ⟨_, if_pos (hb _), rfl⟩
  · have he : s.lehrP p = (s.lehr.lastP + (s.lehr.predicted.map (·.2)).sum, s.modLehr fun x => { x with predicted := [] }) :=
      if_neg hp
    unfold State.lehrDecide
    rw [he]
    exact ⟨_, if_pos (hb _), rfl⟩

/-! ## The end of a window -/

/-- The estimate of a window is shown; its state and its milliwatts. -/
def State.windowed (s : State) (acts : List Nat) (ns : Nat) : State :=
  let v := s.takeActs acts
  (v.estimate (v.windowNs ns)).2.showPest (v.estimate (v.windowNs ns)).1

theorem execWindowEnd_outside {el : Elapsed} {acts : List Nat} {ns : Nat} (hen : (s.advance el).b F.LA_CTRL_EN = true)
    (hst : ((s.advance el).windowed acts ns).f F.PMU_STAT_STATE ≠ 0) :
    execWindowEnd el acts ns s = .next ((s.advance el).windowed acts ns) :=
  congrArg Host.Outcome.next ((if_pos hen).trans (if_neg hst))

theorem execWindowEnd_decides {el : Elapsed} {acts : List Nat} {ns : Nat} (hen : (s.advance el).b F.LA_CTRL_EN = true)
    (hst : ((s.advance el).windowed acts ns).f F.PMU_STAT_STATE = 0) :
    ∃ p, execWindowEnd el acts ns s = .next ((((s.advance el).windowed acts ns).forEach
      ((List.range 17).filter ((s.advance el).windowed acts ns).on) State.eccTrend).lehrDecide p) :=
  ⟨_, congrArg Host.Outcome.next ((if_pos hen).trans (if_pos hst))⟩

theorem execWindowEnd_disabled {el : Elapsed} {acts : List Nat} {ns : Nat} (hen : (s.advance el).b F.LA_CTRL_EN = false) :
    execWindowEnd el acts ns s = .next (s.advance el) :=
  congrArg Host.Outcome.next (if_neg fun h => by simp [hen] at h)

theorem pest_of_window {a : Nat} (h : BesideWindow a) : BesidePest a := ⟨h.1, h.2.1⟩

/-- What the estimate and its display leave of the counted state. -/
theorem windowed_rest (acts : List Nat) (ns : Nat) : RegsKept BesidePest (s.takeActs acts) (s.windowed acts ns) ∧
    RegsKept BesideWindow s (s.windowed acts ns) ∧ (s.windowed acts ns).engs = s.engs := by
  have hc := counted_takeActs (s := s) acts
  unfold State.windowed
  dsimp only
  generalize s.takeActs acts = v at *
  rw [estimate_eq]
  obtain ⟨hregs, hengs⟩ := showPest_rest (s := v.free.2)
    (if v.windowNs ns = 0 ∨ 65535 < v.pestMw (v.windowNs ns) then Config.freeValue v.freeCtr % 65536 else v.pestMw (v.windowNs ns))
  have hv : RegsKept BesidePest v v.free.2 := (RegsKept.refl v).same rfl
  exact ⟨hv.trans hregs, (hc.regs.mono fun _ h => h.2.2).trans ((hv.trans hregs).mono fun _ => pest_of_window), hengs.trans hc.engs⟩

/-- What LA_STAT and LA_PEST show at the end of a window. -/
theorem windowed_shows (acts : List Nat) (ns : Nat) : (s.windowed acts ns).b F.LA_STAT_DONE = true ∧
    (s.windowed acts ns).f F.LA_STAT_WINDOWS = ((s.takeActs acts).f F.LA_STAT_WINDOWS + 1) % 2 ^ 16 ∧
    (s.windowed acts ns).b F.LA_PEST_VALID = true ∧
    ((s.takeActs acts).windowNs ns ≠ 0 → (s.takeActs acts).pestMw ((s.takeActs acts).windowNs ns) ≤ 65535 →
      (s.windowed acts ns).f F.LA_PEST_MW = (s.takeActs acts).pestMw ((s.takeActs acts).windowNs ns)) := by
  unfold State.windowed
  dsimp only
  generalize s.takeActs acts = v at *
  rw [estimate_eq]
  obtain ⟨hdone, hwindows, hvalid, hmw⟩ := showPest_shows (s := v.free.2)
    (if v.windowNs ns = 0 ∨ 65535 < v.pestMw (v.windowNs ns) then Config.freeValue v.freeCtr % 65536 else v.pestMw (v.windowNs ns))
  have hv : RegsKept (· = R.LA_STAT) v v.free.2 := (RegsKept.refl v).same rfl
  refine ⟨hdone, hwindows.trans (by rw [hv.f (x := F.LA_STAT_WINDOWS) rfl]), hvalid, fun hns hp => hmw.trans ?_⟩
  rw [if_neg (not_or.mpr ⟨hns, Nat.not_lt.mpr hp⟩)]
  exact Nat.mod_eq_of_lt (by omega)

/-- The end of a window shows the estimate, and in S0 under hard the count of calm periods begins anew. -/
theorem execWindowEnd_effect {el : Elapsed} (acts : List Nat) (ns : Nat) (hen : s.b F.LA_CTRL_EN = true)
    (h : s.powerState ≠ 0 ∨ s.b F.TSU_STAT_HARD = true ∧ ∀ e, e < 17 → s.on e = false) :
    ∃ t, execWindowEnd el acts ns s = .next t ∧ t.regs = ((s.advance el).windowed acts ns).regs ∧
      t.engs = ((s.advance el).windowed acts ns).engs ∧ (s.powerState = 0 → t.lehr.calm = 0) := by
  have htime := onlyTime_advance (s := s) el
  obtain ⟨-, hrest, -⟩ := windowed_rest (s := s.advance el) acts ns
  have hen' : (s.advance el).b F.LA_CTRL_EN = true := (htime.regs.b (by decide)).trans hen
  have hstate : ((s.advance el).windowed acts ns).f F.PMU_STAT_STATE = s.powerState :=
    (hrest.f (by decide)).trans (htime.regs.f (x := F.PMU_STAT_STATE) (by decide))
  by_cases h0 : s.powerState = 0
  · obtain ⟨hhard, hoff⟩ := h.resolve_left fun hn => hn h0
    obtain ⟨p, hexec⟩ := execWindowEnd_decides hen' (hstate.trans h0)
    have hnone : (List.range 17).filter ((s.advance el).windowed acts ns).on = [] := List.filter_eq_nil_iff.mpr fun e he => by
      rw [hrest.on (by decide), htime.regs.on (by decide), hoff e (List.mem_range.mp he)]
      exact Bool.false_ne_true
    rw [hnone, forEach_nil] at hexec
    generalize (s.advance el).windowed acts ns = w at *
    obtain ⟨x, hx, hcalm⟩ := lehrDecide_hard (s := w) p ((hrest.b (by decide)).trans ((htime.regs.b (by decide)).trans hhard))
    rw [hx] at hexec
    exact ⟨_, hexec, rfl, rfl, fun _ => hcalm⟩
  · exact ⟨_, execWindowEnd_outside hen' fun hz => h0 (hstate.symm.trans hz), rfl, rfl, fun hz => absurd hz h0⟩

/-- The power that LA_PEST shows, from the final registers and those before the window's end. -/
theorem pestMw_of_window {v w : State} (hu : Counted u v) (ht : RegsKept BesidePest v w) (ns : Rat) :
    w.dynMw ns + u.leak.1 + (if u.leak.2 then 0 else Config.freeValue u.freeCtr % 2) + u.f F.LA_FIXED_MW = v.pestMw ns := by
  rw [State.pestMw, dynMw_of_pest ht, leak_of_window (hu.regs.mono fun _ h => h.2.2), hu.free, hu.regs.f (x := F.LA_FIXED_MW) (by decide)]

/-- What the registers show at the end of a window (R194). -/
theorem window_shows {acts : List Nat} {ns : Nat} (ht : t.regs = (u.windowed acts ns).regs) :
    (∀ i, i < 23 → t.f (F.LA_ACT_COUNT i) = min (acts.getD i 0) (2 ^ 32 - 1)) ∧
    t.b F.LA_STAT_DONE = true ∧ t.f F.LA_STAT_WINDOWS = (u.f F.LA_STAT_WINDOWS + 1) % 2 ^ 16 ∧ t.b F.LA_PEST_VALID = true ∧
    (u.windowNs ns ≠ 0 → (u.takeActs acts).pestMw (u.windowNs ns) ≤ 65535 →
      t.f F.LA_PEST_MW = (u.takeActs acts).pestMw (u.windowNs ns)) := by
  have hcount := counted_takeActs (s := u) acts
  obtain ⟨hpest, -, -⟩ := windowed_rest (s := u) acts ns
  obtain ⟨hdone, hwindows, hvalid, hmw⟩ := windowed_shows (s := u) acts ns
  rw [windowNs_of_window (hcount.regs.mono fun _ h => h.2.2)] at hmw
  have hregs : RegsKept (fun _ => True) (u.windowed acts ns) t := (RegsKept.refl _).same ht
  refine ⟨fun i hi => ?_, (hregs.b trivial).trans hdone, (hregs.f trivial).trans (hwindows.trans ?_), (hregs.b trivial).trans hvalid,
    fun hns hp => (hregs.f trivial).trans (hmw hns hp)⟩
  · exact ((hregs.f (x := F.LA_ACT_COUNT i) trivial).trans (hpest.f (x := F.LA_ACT_COUNT i) besidePest_act)).trans (act_takeActs acts hi)
  · rw [hcount.regs.f (x := F.LA_STAT_WINDOWS) (by decide)]

end Sys2Proof.Machine
end

section
namespace Sys2Proof.Machine
variable {s t u : State}

/-! ## Readings (R197, R219) -/

/-- A temperature in range reads as it was written. -/
theorem sext_wrapN {v : Int} (h : -2048 ≤ v ∧ v < 2048) : sext 12 (wrapN 12 v) = v := by
  unfold sext wrapN
  rw [BitVec.ofNat_toNat, BitVec.setWidth_eq, BitVec.toInt_ofInt]
  exact Int.bmod_eq_of_le (by omega) (by omega)

theorem wrapN_lt (v : Int) : wrapN 12 v < 2 ^ 12 := (BitVec.ofInt 12 v).isLt

/-- The pick of one number more. -/
theorem pick_range_succ (better : Nat → Nat → Bool) (n : Nat) : pick better (List.range (n + 1)) =
    some ((pick better (List.range n)).elim n fun y => if better n y then n else y) := by
  rw [List.range_succ, pick, List.foldl_append, ← pick, List.foldl_cons, List.foldl_nil]
  cases pick better (List.range n) with
  | none => rfl
  | some y => exact (apply_ite some (better n y = true) n y).symm

theorem pick_range_lt {better : Nat → Nat → Bool} {n y : Nat} (h : pick better (List.range n) = some y) : y < n := by
  induction n generalizing y with
  | zero => exact nomatch h
  | succ n ih =>
    rw [pick_range_succ] at h
    cases hp : pick better (List.range n) with
    | none =>
      rw [hp] at h
      cases h
      exact Nat.lt_succ_self n
    | some z =>
      have hz := ih hp
      rw [hp, Option.elim_some] at h
      split at h <;> cases h <;> omega

/-- The first of the greatest values is the one that is picked. -/
theorem pick_range {val : Nat → Int} {k n : Nat} (hk : k < n) (hmax : ∀ i, i < n → val i ≤ val k) (hfirst : ∀ i, i < k → val i < val k) :
    pick (fun x y => val y < val x) (List.range n) = some k := by
  induction n with
  | zero => exact absurd hk (Nat.not_lt_zero k)
  | succ n ih =>
    rw [pick_range_succ]
    by_cases hkn : k = n
    · cases hp : pick (fun x y => val y < val x) (List.range n) with
      | none => rw [hkn, Option.elim_none]
      | some z =>
        have hz : val z < val n := hkn ▸ hfirst z (hkn ▸ pick_range_lt hp)
        simp [hz, hkn]
    · have hn : ¬ val k < val n := not_lt.mpr (hmax n (by omega))
      rw [ih (by omega) fun i hi => hmax i (by omega)]
      simp [hn]

/-- The registers of the temperature sensors. -/
abbrev TsuReg (a : Nat) : Prop := 0x40070000 ≤ a ∧ a < 0x40070200

/-- The sensors' registers show a sample, whose hottest sensor is the k-th. -/
structure Shows (v : Nat → Int) (k : Nat) (t : State) : Prop where
  temp : ∀ i, i < 24 → sext 12 (t.f (F.TSU_T_TJ i)) = v i
  max : sext 12 (t.f F.TSU_MAX_TJ) = v k
  hot : t.f F.TSU_STAT_HOT = k
  soft : t.b F.TSU_STAT_SOFT = decide (400 ≤ v k)

theorem tsuReg_temp {i : Nat} (hi : i < 24) : TsuReg (R.TSU_T i) := by
  have : R.TSU_T i = 0x40070100 + 4 * i := rfl
  omega

namespace Shows
variable {v : Nat → Int} {k : Nat}

theorem kept (h : Shows v k t) (hr : RegsKept TsuReg t u) : Shows v k u where
  temp i hi := (congrArg (sext 12) (hr.f (x := F.TSU_T_TJ i) (tsuReg_temp hi))).trans (h.temp i hi)
  max := (congrArg (sext 12) (hr.f (x := F.TSU_MAX_TJ) (by decide))).trans h.max
  hot := (hr.f (x := F.TSU_STAT_HOT) (by decide)).trans h.hot
  soft := (hr.b (x := F.TSU_STAT_SOFT) (by decide)).trans h.soft

/-- A field of TSU_STAT beside HOT and SOFT. -/
theorem setStat (h : Shows v k t) {x : Fld} (n : Nat) (hx : x.ok) (ha : x.addr = R.TSU_STAT) (hh : F.TSU_STAT_HOT.apart x)
    (hs : F.TSU_STAT_SOFT.apart x) : Shows v k (t.setF x n) where
  temp i hi := by
    have hT : R.TSU_T i = 0x40070100 + 4 * i := rfl
    have hS : R.TSU_STAT = 0x40070004 := rfl
    have hne : (F.TSU_T_TJ i).addr ≠ x.addr := by
      rw [ha]
      exact fun e => by
        have : R.TSU_T i = R.TSU_STAT := e
        omega
    exact (congrArg (sext 12) (f_setF_ne (y := F.TSU_T_TJ i) t n hx (apart_of_addr hne))).trans (h.temp i hi)
  max := (congrArg (sext 12) (f_setF_ne (y := F.TSU_MAX_TJ) t n hx (apart_of_addr (by rw [ha]; decide)))).trans h.max
  hot := (f_setF_ne t n hx hh).trans h.hot
  soft := (b_setF_ne t n hx hs).trans h.soft

theorem setHard (h : Shows v k t) (n : Nat) : Shows v k (t.setF F.TSU_STAT_HARD n) :=
  h.setStat n (fldOk (by decide)) rfl (apart_of_bits (by decide)) (apart_of_bits (by decide))

theorem flagHardev (h : Shows v k t) : Shows v k (t.flag F.TSU_STAT_HARDEV) :=
  h.setStat 1 (fldOk (by decide)) rfl (apart_of_bits (by decide)) (apart_of_bits (by decide))

end Shows

/-- The readings of the sensors. -/
def State.takeTemps (s : State) (ts : List Int) : State :=
  s.forEach (List.range 24) fun s i => s.setF (F.TSU_T_TJ i) (wrapN 12 (ts.getD i 0))

theorem temp_setF_ne {i m : Nat} (v : Nat) (h : m ≠ i) : (s.setF (F.TSU_T_TJ m) v).f (F.TSU_T_TJ i) = s.f (F.TSU_T_TJ i) := by
  refine f_setF_ne s v (fldOk (by decide)) (apart_of_addr fun e => h ?_)
  have : 0x40070100 + 4 * i = 0x40070100 + 4 * m := e
  omega

theorem temp_takeTemps (ts : List Int) {i : Nat} (hi : i < 24) : (s.takeTemps ts).f (F.TSU_T_TJ i) = wrapN 12 (ts.getD i 0) := by
  refine forEach_reaches (n := i) (Q := fun _ => True) (P := fun t => t.f (F.TSU_T_TJ i) = wrapN 12 (ts.getD i 0)) ?_ ?_ ?_
    (List.mem_range.mpr hi) trivial
  · intro t _
    exact (f_setF_same t (F.TSU_T_TJ i) _ (fldOk (by decide))).trans (Nat.mod_eq_of_lt (wrapN_lt _))
  · intro t m hm _ hp
    exact (temp_setF_ne _ hm).trans hp
  · exact fun _ _ h => h

/-- Nothing differs but registers of the sensors, of which HARD stands as before. -/
structure OnlyTsu (s t : State) : Prop where
  rest : { t with regs := s.regs } = s
  regs : RegsKept (¬ TsuReg ·) s t
  hard : t.f F.TSU_STAT_HARD = s.f F.TSU_STAT_HARD

namespace OnlyTsu

theorem engs (h : OnlyTsu s t) : t.engs = s.engs := (congrArg State.engs h.rest :)
theorem les (h : OnlyTsu s t) : t.les = s.les := (congrArg State.les h.rest :)
theorem lehr (h : OnlyTsu s t) : t.lehr = s.lehr := (congrArg State.lehr h.rest :)
theorem pmu (h : OnlyTsu s t) : t.pmu = s.pmu := (congrArg State.pmu h.rest :)

theorem setF (h : OnlyTsu s t) {x : Fld} (n : Nat) (hx : x.ok) (ha : TsuReg x.addr) (hh : F.TSU_STAT_HARD.apart x) :
    OnlyTsu s (t.setF x n) :=
  ⟨Eq.trans rfl h.rest, h.regs.setF n (not_not_intro ha), (f_setF_ne t n hx hh).trans h.hard⟩

end OnlyTsu

theorem onlyTsu_takeTemps (ts : List Int) : OnlyTsu s (s.takeTemps ts) := by
  refine forEach_keeps (P := OnlyTsu s) _ ⟨rfl, .refl s, rfl⟩ fun t i hi h => ?_
  have hT : (F.TSU_T_TJ i).addr = 0x40070100 + 4 * i := rfl
  have hS : F.TSU_STAT_HARD.addr = 0x40070004 := rfl
  exact h.setF _ (fldOk (by decide)) (tsuReg_temp (List.mem_range.mp hi)) (apart_of_addr (by omega))

/-- The maximum, its sensor and SOFT follow the readings. -/
def State.showTemps (s : State) (k : Nat) (tj : Int) : State :=
  ((s.setF F.TSU_MAX_TJ (wrapN 12 tj)).setF F.TSU_STAT_HOT k).setF F.TSU_STAT_SOFT (b2n (decide (400 ≤ tj)))

theorem onlyTsu_showTemps (h : OnlyTsu s t) (k : Nat) (tj : Int) : OnlyTsu s (t.showTemps k tj) :=
  ((h.setF _ (fldOk (by decide)) (by decide) (apart_of_addr (by decide))).setF _ (fldOk (by decide)) (by decide)
    (apart_of_bits (by decide))).setF _ (fldOk (by decide)) (by decide) (apart_of_bits (by decide))

/-- A sample whose hottest sensor is the k-th, and the first of such. -/
structure Sample (v : Nat → Int) (k : Nat) : Prop where
  lt : k < 24
  max : ∀ i, i < 24 → -2048 ≤ v i ∧ v i ≤ v k ∧ v i < 2048
  first : ∀ i, i < k → v i < v k

theorem sext_takeTemps {ts : List Int} {k i : Nat} (h : Sample (fun i => ts.getD i 0) k) (hi : i < 24) :
    sext 12 ((s.takeTemps ts).f (F.TSU_T_TJ i)) = ts.getD i 0 := by
  rw [temp_takeTemps ts hi, sext_wrapN ⟨(h.max i hi).1, (h.max i hi).2.2⟩]

theorem tsuRead_eq {ts : List Int} {k : Nat} (h : Sample (fun i => ts.getD i 0) k) :
    s.tsuRead ts = (s.takeTemps ts).showTemps k (ts.getD k 0) := by
  have hval : ∀ i, i < 24 → sext 12 ((s.takeTemps ts).f (F.TSU_T_TJ i)) = ts.getD i 0 := fun i => sext_takeTemps h
  have hpick : pick (fun x y => sext 12 ((s.takeTemps ts).f (F.TSU_T_TJ y)) < sext 12 ((s.takeTemps ts).f (F.TSU_T_TJ x)))
      (List.range 24) = some k := by
    refine pick_range (val := fun i => sext 12 ((s.takeTemps ts).f (F.TSU_T_TJ i))) h.lt (fun i hi => ?_) fun i hi => ?_
    · rw [hval i hi, hval k h.lt]
      exact (h.max i hi).2.1
    · rw [hval i (hi.trans h.lt), hval k h.lt]
      exact h.first i hi
  have hdef : s.tsuRead ts = (s.takeTemps ts).showTemps
      ((pick (fun x y => sext 12 ((s.takeTemps ts).f (F.TSU_T_TJ y)) < sext 12 ((s.takeTemps ts).f (F.TSU_T_TJ x)))
        (List.range 24)).getD 0) (sext 12 ((s.takeTemps ts).f (F.TSU_T_TJ
      ((pick (fun x y => sext 12 ((s.takeTemps ts).f (F.TSU_T_TJ y)) < sext 12 ((s.takeTemps ts).f (F.TSU_T_TJ x)))
        (List.range 24)).getD 0)))) := rfl
  rw [hdef, hpick, Option.getD_some, hval k h.lt]

theorem onlyTsu_tsuRead {ts : List Int} {k : Nat} (h : Sample (fun i => ts.getD i 0) k) : OnlyTsu s (s.tsuRead ts) := by
  rw [tsuRead_eq h]
  exact onlyTsu_showTemps (onlyTsu_takeTemps ts) k _

theorem shows_showTemps {v : Nat → Int} {k : Nat} (hs : Sample v k) (ht : ∀ i, i < 24 → sext 12 (t.f (F.TSU_T_TJ i)) = v i) :
    Shows v k (t.showTemps k (v k)) := by
  have hk := hs.max k hs.lt
  have htemps : RegsKept (fun a => a ≠ R.TSU_MAX ∧ a ≠ R.TSU_STAT) t (t.showTemps k (v k)) :=
    (((RegsKept.refl t).setF _ (by decide)).setF _ (by decide)).setF _ (by decide)
  refine ⟨fun i hi => (congrArg (sext 12) (htemps.f (x := F.TSU_T_TJ i) ?_)).trans (ht i hi), ?_, ?_, ?_⟩
  · have hT : (F.TSU_T_TJ i).addr = 0x40070100 + 4 * i := rfl
    have hM : R.TSU_MAX = 0x40070008 := rfl
    have hS : R.TSU_STAT = 0x40070004 := rfl
    omega
  · have hmax : (t.setF F.TSU_MAX_TJ (wrapN 12 (v k))).f F.TSU_MAX_TJ = wrapN 12 (v k) :=
      (f_setF_same t F.TSU_MAX_TJ _ (fldOk (by decide))).trans (Nat.mod_eq_of_lt (wrapN_lt _))
    have hkept : RegsKept (· = R.TSU_MAX) (t.setF F.TSU_MAX_TJ (wrapN 12 (v k))) (t.showTemps k (v k)) :=
      ((RegsKept.refl _).setF _ (by decide)).setF _ (by decide)
    rw [hkept.f (x := F.TSU_MAX_TJ) rfl, hmax]
    exact sext_wrapN ⟨hk.1, hk.2.2⟩
  · have hlt : k < 2 ^ 5 := hs.lt.trans (by decide)
    exact (f_setF_ne (x := F.TSU_STAT_SOFT) _ _ (fldOk (by decide)) (apart_of_bits (by decide))).trans
      ((f_setF_same _ F.TSU_STAT_HOT k (fldOk (by decide))).trans (Nat.mod_eq_of_lt hlt))
  · refine (b_setF_bit _ _ (by decide)).trans ?_
    cases decide (400 ≤ v k)
    · rfl
    · rfl

theorem shows_tsuRead {ts : List Int} {k : Nat} (h : Sample (fun i => ts.getD i 0) k) :
    Shows (fun i => ts.getD i 0) k (s.tsuRead ts) := by
  rw [tsuRead_eq h]
  exact shows_showTemps h fun i => sext_takeTemps h

end Sys2Proof.Machine
end

section
namespace Sys2Proof.Machine
variable {s t u : State}

/-! ## What the measures against heat leave alone -/

/-- The registers of the sensors and PMU_STAT, the engines, and the count of samples at the trip threshold stand as before. -/
structure SparesTsu (s t : State) : Prop where
  regs : RegsKept (fun a => TsuReg a ∨ a = R.PMU_STAT) s t
  engs : t.engs = s.engs
  run : t.lehr.tripRun = s.lehr.tripRun

namespace SparesTsu

theorem refl (s : State) : SparesTsu s s := ⟨.refl s, rfl, rfl⟩

theorem trans (h : SparesTsu s t) (h' : SparesTsu t u) : SparesTsu s u :=
  ⟨h.regs.trans h'.regs, h'.engs.trans h.engs, h'.run.trans h.run⟩

/-- A change of other components. -/
theorem same (h : SparesTsu s t) (hr : u.regs = t.regs) (he : u.engs = t.engs) (hl : u.lehr = t.lehr) : SparesTsu s u :=
  ⟨h.regs.same hr, he.trans h.engs, (congrArg Lehr.tripRun hl).trans h.run⟩

theorem setLehr (h : SparesTsu s t) {x : Lehr} (hx : x.tripRun = t.lehr.tripRun) : SparesTsu s { t with lehr := x } :=
  ⟨h.regs.same rfl, h.engs, hx.trans h.run⟩

theorem setF (h : SparesTsu s t) {x : Fld} (v : Nat) (hx : ¬ (TsuReg x.addr ∨ x.addr = R.PMU_STAT)) : SparesTsu s (t.setF x v) :=
  ⟨h.regs.setF v hx, (State.setF_engs t x v).trans h.engs, (congrArg Lehr.tripRun (State.setF_lehr t x v)).trans h.run⟩

end SparesTsu

theorem OnlyEvents.lehr (h : OnlyEvents s t) : t.lehr = s.lehr := (congrArg State.lehr h.rest :)

theorem OnlyEvents.sparesTsu (h : OnlyEvents s t) : SparesTsu s t := by
  refine ⟨.of_onlyEvents h fun a ha => ?_, h.engs, congrArg Lehr.tripRun h.lehr⟩
  have h0 : R.MBX_RSPPEND 0 = 0x40050018 := rfl
  have h1 : R.MBX_RSPPEND 1 = 0x4005001C := rfl
  have hp : R.PMU_STAT = 0x40000004 := rfl
  simp only [List.mem_cons, List.not_mem_nil, or_false]
  omega

/-! ## The journal's reserve for an epoch's number (R217) -/

/-- Nothing but the journal differs. -/
abbrev OnlyJournal (s t : State) : Prop := { t with journal := s.journal } = s

theorem OnlyJournal.trans (h : OnlyJournal s t) (h' : OnlyJournal t u) : OnlyJournal s u :=
  (congrArg (fun x : State => { x with journal := s.journal }) h').trans h

theorem OnlyJournal.modJ (h : OnlyJournal s t) (g : Journal → Journal) : OnlyJournal s (t.modJ g) := Eq.trans rfl h

theorem onlyJournal_jProgram (recs : List (Nat × JRec)) (stamped : Bool) : OnlyJournal s (s.jProgram recs stamped) := by
  have hloop : OnlyJournal s (s.forEach (List.range (frameSectors recs)) fun s _ => s.jSector) :=
    forEach_keeps (P := OnlyJournal s) _ rfl fun _ _ _ h => h.modJ _
  exact hloop.modJ _

theorem onlyJournal_jReclaim : OnlyJournal s s.jReclaim := by
  unfold State.jReclaim
  refine OnlyJournal.modJ ?_ _
  split
  · rfl
  · exact (onlyJournal_jProgram _ _).trans (onlyJournal_jProgram _ _)

theorem onlyJournal_jMakeRoom (n : Nat) : OnlyJournal s (State.jMakeRoom n s) := by
  induction n generalizing s with
  | zero => rfl
  | succ n ih =>
    unfold State.jMakeRoom
    split
    · exact onlyJournal_jReclaim.trans ih
    · rfl

theorem onlyJournal_jReserveFor (n : Nat) : OnlyJournal s (s.jReserveFor n) := by
  have hdue : OnlyJournal s (((State.jMakeRoom s.jUnits s).jProgram [(s.svn, .reserve (epochAdd n 65536))] false).jProgram [] true) :=
    ((onlyJournal_jMakeRoom _).trans (onlyJournal_jProgram _ _)).trans (onlyJournal_jProgram _ _)
  unfold State.jReserveFor
  dsimp only
  generalize ((State.jMakeRoom s.jUnits s).jProgram [(s.svn, .reserve (epochAdd n 65536))] false).jProgram [] true = v at *
  split
  · split
    · exact hdue
    · rfl
  · exact hdue

theorem OnlyJournal.sparesTsu (h : OnlyJournal s t) : SparesTsu s t :=
  (SparesTsu.refl s).same (congrArg State.regs h :) (congrArg State.engs h :) (congrArg State.lehr h :)

/-! ## Hard begins and ends (R198) -/

theorem enqueue_spares (e : Epoch) : SparesTsu s (s.enqueue e) ∧ (s.enqueue e).lehr = s.lehr := by
  have h := onlyJournal_jReserveFor (s := s) (epochNext (s.f F.AON_EPASSIGN_E))
  unfold State.enqueue
  dsimp only
  generalize s.jReserveFor (epochNext (s.f F.AON_EPASSIGN_E)) = v at *
  have hset : SparesTsu s (v.setF F.AON_EPASSIGN_E (epochNext (s.f F.AON_EPASSIGN_E))) := h.sparesTsu.setF _ (by decide)
  have hlehr : (v.setF F.AON_EPASSIGN_E (epochNext (s.f F.AON_EPASSIGN_E))).lehr = s.lehr :=
    (State.setF_lehr ..).trans (congrArg State.lehr h :)
  generalize v.setF F.AON_EPASSIGN_E (epochNext (s.f F.AON_EPASSIGN_E)) = w at *
  exact ⟨hset.same rfl rfl rfl, hlehr⟩

theorem lehrCommit_spares (items : List Item) : SparesTsu s (s.lehrCommit items) ∧ (s.lehrCommit items).lehr = s.lehr := by
  unfold State.lehrCommit
  split
  · exact ⟨.refl s, rfl⟩
  · exact enqueue_spares _

/-- Where no punty shadows, the background work pauses in the lehr's record alone. -/
theorem pauseBackground_idle (h : s.shadowing = false) :
    ∃ x : Lehr, s.pauseBackground = { s with lehr := x } ∧ x.paused = true ∧ x.tripRun = s.lehr.tripRun := by
  have hsh : (s.modLehr fun x => { x with paused := true }).shadowing = false := h
  have hend : (s.modLehr fun x => { x with paused := true }).endShadow = s.modLehr fun x => { x with paused := true } :=
    if_neg (by rw [hsh]; exact Bool.false_ne_true)
  unfold State.pauseBackground
  dsimp only
  rw [hend]
  split
  · exact ⟨_, rfl, rfl, rfl⟩
  · exact ⟨_, rfl, rfl, rfl⟩

/-- HARD and HARDEV as hard begins. -/
def State.hardSet (s : State) : State := (s.setF F.TSU_STAT_HARD 1).flag F.TSU_STAT_HARDEV

/-- The report that hard begins (b = 1) or ends (b = 0). -/
def State.hardReport (s : State) (b : Byte) : State :=
  s.raise 0x0201 ([b, BitVec.ofNat 8 (s.f F.TSU_STAT_HOT)] ++ leBytes 2 (wrapN 16 (sext 12 (s.f F.TSU_MAX_TJ))))

/-- The lehr commits the lowest tiers, but not while other epochs have yet to begin. -/
def State.lowestTiers (s : State) : State :=
  let c := s.queuedCfg
  let low := fun (l : Nat) => imgNTier (c.le l).image - 1
  let ls := (List.range 16).filter fun l => (c.le l).image ≠ [] ∧ (c.le l).tier ≠ low l
  if s.yetToBegin = [] ∧ ls ≠ [] then s.lehrCommit (ls.map fun l => .tier l (low l)) else s

theorem hardBegin_eq : s.hardBegin =
    ((s.hardSet.hardReport 1).pauseBackground.modLehr fun x => { x with restorePins := false }).lowestTiers := rfl

theorem lowestTiers_spares : SparesTsu s s.lowestTiers ∧ s.lowestTiers.lehr = s.lehr := by
  unfold State.lowestTiers
  dsimp only
  split
  · exact lehrCommit_spares _
  · exact ⟨.refl s, rfl⟩

theorem shadowing_of_reg (h : t.reg R.SCU_STAT = s.reg R.SCU_STAT) : t.shadowing = s.shadowing := by
  have hstate : t.scuState = s.scuState := f_of_reg (x := F.SCU_STAT_STATE) h
  unfold State.shadowing
  rw [hstate]

theorem hardBegin_spares (h : s.shadowing = false) : SparesTsu s.hardSet s.hardBegin ∧ s.hardBegin.lehr.paused = true := by
  have hset : RegsKept (· = R.SCU_STAT) s s.hardSet := ((RegsKept.refl s).setF 1 (by decide)).setF 1 (by decide)
  have hev : OnlyEvents s.hardSet (s.hardSet.hardReport 1) := onlyEvents_raise ..
  have hidle : (s.hardSet.hardReport 1).shadowing = false :=
    (shadowing_of_reg ((hev.regs _ (by decide)).trans (hset _ rfl))).trans h
  obtain ⟨x, hx, hpaused, hrun⟩ := pauseBackground_idle hidle
  rw [hardBegin_eq, hx]
  generalize s.hardSet = v at *
  generalize v.hardReport 1 = w at *
  obtain ⟨hlow, hlehr⟩ := lowestTiers_spares (s := { w with lehr := { x with restorePins := false } })
  have hw : SparesTsu v { w with lehr := { x with restorePins := false } } := hev.sparesTsu.setLehr hrun
  exact ⟨hw.trans hlow, (congrArg Lehr.paused hlehr).trans hpaused⟩

/-- Without images no logical engine has a pin to go back to. -/
theorem restorePins_idle (h : ∀ l, l < 16 → (s.le l).image = []) :
    ∃ x : Lehr, s.restorePins = { s with lehr := x } ∧ x.tripRun = s.lehr.tripRun := by
  have hnone : (List.range 16).filter (fun l => (s.le l).image ≠ [] ∧ s.pinned l ∧ (s.le l).tier ≠ s.pin l) = [] :=
    List.filter_eq_nil_iff.mpr fun l hl => by simp [h l (List.mem_range.mp hl)]
  unfold State.restorePins
  rw [hnone]
  dsimp only
  split
  · exact ⟨s.lehr, rfl, rfl⟩
  · exact ⟨_, if_pos rfl, rfl⟩

/-- With no punty, shadow checking goes on with at most the BIST of one engine. -/
theorem resumeShadow_spares (h : s.puntyOf = none) : SparesTsu s s.resumeShadow := by
  have heng {t : State} (ht : SparesTsu s t) {x : Fld} (n : Nat) {e : Nat} (hx : engBase e ≤ x.addr) : SparesTsu s (t.setF x n) :=
    ht.setF n fun hreg => by
      have hbase := engBase_ge e
      have hp : R.PMU_STAT = 0x40000004 := rfl
      omega
  unfold State.resumeShadow
  rw [h]
  dsimp only
  split
  · exact .refl s
  · split
    · next e _ =>
      exact heng (e := e) (heng (e := e) (heng (e := e) (.refl s) 5 (Nat.le_add_right ..)) 1 (Nat.le_add_right ..)) 0
        (Nat.le_add_right ..)
    · exact .refl s

theorem noteShadow_spares (old : State) : SparesTsu s (s.noteShadow old) := by
  unfold State.noteShadow
  split
  · exact (SparesTsu.refl s).setLehr rfl
  · exact .refl s

theorem puntyOf_of_engs (h : t.engs = s.engs) : t.puntyOf = s.puntyOf := by
  unfold State.puntyOf State.rolesOf State.eng
  rw [h]

/-- The record of the lehr as hard ends. -/
def Lehr.cooled (x : Lehr) : Lehr := { x with restorePins := true, coolRun := 0 }

theorem hardEnd_eq : s.hardEnd =
    ((((s.setF F.TSU_STAT_HARD 0).hardReport 0).modLehr Lehr.cooled).restorePins.resumeShadow).noteShadow
      (((s.setF F.TSU_STAT_HARD 0).hardReport 0).modLehr Lehr.cooled).restorePins := rfl

theorem hardEnd_spares (himg : ∀ l, l < 16 → (s.le l).image = []) (hp : s.puntyOf = none) :
    SparesTsu (s.setF F.TSU_STAT_HARD 0) s.hardEnd := by
  have hev : OnlyEvents (s.setF F.TSU_STAT_HARD 0) ((s.setF F.TSU_STAT_HARD 0).hardReport 0) := onlyEvents_raise ..
  have hles : ((s.setF F.TSU_STAT_HARD 0).hardReport 0).les = s.les := hev.les.trans (State.setF_les ..)
  have hengs : ((s.setF F.TSU_STAT_HARD 0).hardReport 0).engs = s.engs := hev.engs.trans (State.setF_engs ..)
  rw [hardEnd_eq]
  generalize s.setF F.TSU_STAT_HARD 0 = v at *
  generalize v.hardReport 0 = w at *
  obtain ⟨x, hx, hrun⟩ := restorePins_idle (s := w.modLehr Lehr.cooled) fun l hl =>
    (congrArg LogEng.image (le_of_les (s := s) (t := w.modLehr Lehr.cooled) hles l)).trans (himg l hl)
  rw [hx]
  have hw : SparesTsu v { w.modLehr Lehr.cooled with lehr := x } := hev.sparesTsu.setLehr hrun
  have hnone : State.puntyOf { w.modLehr Lehr.cooled with lehr := x } = none := (puntyOf_of_engs hengs).trans hp
  exact (hw.trans (resumeShadow_spares hnone)).trans (noteShadow_spares _)

/-! ## Trip (R199) -/

/-- ALERT and the cause of a trip. -/
def State.alerted (s : State) : State :=
  { s.setF F.PMU_RSTCAUSE_CAUSE 4 with pmu := { s.pmu with alert := true, tripped := true } }

/-- Every running domain ramps. -/
def State.rampRunning (s : State) : State :=
  s.forEach ((List.range 4).filter s.running) fun s d => s.modDom d fun x => { x with tripRamp := some 0, tripDone := false }

theorem trip_eq (h : s.pmu.tripped = false) : s.trip = s.alerted.rampRunning := if_neg (by rw [h]; exact Bool.false_ne_true)

theorem rampRunning_rest : s.rampRunning.regs = s.regs ∧ s.rampRunning.pmu = s.pmu ∧ s.rampRunning.engs = s.engs :=
  forEach_keeps (P := fun t : State => t.regs = s.regs ∧ t.pmu = s.pmu ∧ t.engs = s.engs) _ ⟨rfl, rfl, rfl⟩ fun _ _ _ h => h

theorem tripRamp_rampRunning {d : Nat} (hd : d < 4) (h : s.running d = true) : (s.rampRunning.dom d).tripRamp = some 0 := by
  refine forEach_reaches (n := d) (Q := fun _ => True) (P := fun t => (t.dom d).tripRamp = some 0) ?_ ?_ ?_
    (List.mem_filter.mpr ⟨List.mem_range.mpr hd, h⟩) trivial
  · intro t _
    rw [dom_modDom_same _ _ _ hd]
  · intro t m hm _ hp
    rw [dom_modDom_ne _ _ (Ne.symm hm)]
    exact hp
  · exact fun _ _ h => h

end Sys2Proof.Machine
end

section
namespace Sys2Proof.Machine
variable {s t u : State}

/-! ## The steps of a sample (R197 to R199) -/

/-- The counts of samples in a row at and below the thresholds. -/
def Lehr.countTemps (tj : Int) (x : Lehr) : Lehr := { x with
  hardRun := if 432 ≤ tj then x.hardRun + 1 else 0
  coolRun := if tj < 412 then x.coolRun + 1 else 0
  tripRun := if 460 ≤ tj then x.tripRun + 1 else 0 }

/-- The sample is read and counted. -/
def State.sampled (s : State) (el : Elapsed) (ts : List Int) : State :=
  let u := (s.advance el).tsuRead ts
  u.modLehr (Lehr.countTemps (sext 12 (u.f F.TSU_MAX_TJ)))

/-- Hard begins or ends. -/
def State.hardStep (s : State) : State :=
  if s.b F.TSU_STAT_HARD = false ∧ 2 ≤ s.lehr.hardRun then s.hardBegin
  else if s.b F.TSU_STAT_HARD ∧ 2 ≤ s.lehr.coolRun then s.hardEnd
  else s

def State.tripStep (s : State) : State := if 2 ≤ s.lehr.tripRun then s.trip else s

/-- The interrupt of a change of SOFT or HARD. -/
def State.noteTsu (s old : State) : State :=
  if s.f F.TSU_STAT_SOFT ≠ old.f F.TSU_STAT_SOFT ∨ s.f F.TSU_STAT_HARD ≠ old.f F.TSU_STAT_HARD then s.irqEvent 24 else s

/-- The lock of a trip is released. -/
def State.unlocked (s : State) : State :=
  { s.setF F.PMU_STAT_TRIPLOCK 0 with pmu := { s.pmu with
    alert := false, tripped := false, pwrenCore := s.pmu.pwrenCore || s.pmu.resetReq,
    pwrenIo := s.pmu.pwrenIo || s.pmu.resetReq } }

/-- The lock of a trip is released once the AON sensor is cool. -/
def State.unlockStep (s : State) : State :=
  if s.b F.PMU_STAT_TRIPLOCK ∧ sext 12 (s.f (F.TSU_T_TJ 22)) < 360 then s.unlocked else s

theorem execTsuSample_eq (el : Elapsed) (ts : List Int) :
    execTsuSample el ts s = .next (((s.sampled el ts).hardStep.tripStep).noteTsu s).unlockStep := rfl

theorem hardStep_begins (h : s.b F.TSU_STAT_HARD = false) (hrun : 2 ≤ s.lehr.hardRun) : s.hardStep = s.hardBegin := if_pos ⟨h, hrun⟩

theorem hardStep_stays_off (h : s.b F.TSU_STAT_HARD = false) (hrun : s.lehr.hardRun < 2) : s.hardStep = s :=
  (if_neg fun hc => absurd hc.2 (Nat.not_le.mpr hrun)).trans (if_neg fun hc => by simp [h] at hc)

theorem hardStep_ends (h : s.b F.TSU_STAT_HARD = true) (hrun : 2 ≤ s.lehr.coolRun) : s.hardStep = s.hardEnd :=
  (if_neg fun hc => by simp [h] at hc).trans (if_pos ⟨h, hrun⟩)

theorem hardStep_stays_on (h : s.b F.TSU_STAT_HARD = true) (hrun : s.lehr.coolRun < 2) : s.hardStep = s :=
  (if_neg fun hc => by simp [h] at hc).trans (if_neg fun hc => absurd hc.2 (Nat.not_le.mpr hrun))

theorem tripStep_trips (h : 2 ≤ s.lehr.tripRun) : s.tripStep = s.trip := if_pos h
theorem tripStep_stays (h : s.lehr.tripRun < 2) : s.tripStep = s := if_neg (Nat.not_le.mpr h)

theorem noteTsu_rest (old : State) : { s.noteTsu old with irqs := s.irqs } = s := by
  unfold State.noteTsu
  split
  · rfl
  · rfl

theorem mem_irqs_noteTsu {old : State} (h : s.f F.TSU_STAT_HARD ≠ old.f F.TSU_STAT_HARD) : 24 ∈ (s.noteTsu old).irqs := by
  unfold State.noteTsu
  rw [if_pos (.inr h)]
  exact mem_addNat_self s.irqs 24

theorem hard_ne (h : t.b F.TSU_STAT_HARD ≠ s.b F.TSU_STAT_HARD) : t.f F.TSU_STAT_HARD ≠ s.f F.TSU_STAT_HARD := fun e => h (by
  unfold State.b
  rw [e])

/-- The interrupt leaves the registers as they are. -/
theorem noteTsu_b {old : State} {x : Fld} {v : Bool} (h : s.b x = v) : (s.noteTsu old).b x = v :=
  (b_of_regs (congrArg State.regs (noteTsu_rest (s := s) old) :) x).trans h

theorem unlockStep_free (h : s.b F.PMU_STAT_TRIPLOCK = false) : s.unlockStep = s := if_neg fun hc => by simp [h] at hc

/-- With no lock to release, a sample ends with its interrupt. -/
theorem execTsuSample_of_steps {el : Elapsed} {ts : List Int} (hx : (s.sampled el ts).hardStep.tripStep = t)
    (h : t.b F.PMU_STAT_TRIPLOCK = false) : execTsuSample el ts s = .next (t.noteTsu s) := by
  rw [execTsuSample_eq, hx, unlockStep_free (noteTsu_b h)]

/-- HARD and HARDEV are set, and nothing beside TSU_STAT. -/
theorem hardSet_shows : RegsKept (· ≠ R.TSU_STAT) s s.hardSet ∧ s.hardSet.lehr = s.lehr ∧ s.hardSet.engs = s.engs ∧
    s.hardSet.b F.TSU_STAT_HARD = true ∧ s.hardSet.b F.TSU_STAT_HARDEV = true :=
  ⟨((RegsKept.refl s).setF 1 (by decide)).setF 1 (by decide), (State.setF_lehr ..).trans (State.setF_lehr ..),
    (State.setF_engs ..).trans (State.setF_engs ..),
    (b_setF_ne (x := F.TSU_STAT_HARDEV) _ 1 (fldOk (by decide)) (apart_of_bits (by decide))).trans
      (b_setF_one s F.TSU_STAT_HARD (fldOk (by decide))),
    b_setF_one _ F.TSU_STAT_HARDEV (fldOk (by decide))⟩

/-! ## The sample -/

/-- The registers beside those of the clocks and of the sensors. -/
abbrev BesideSample (a : Nat) : Prop := BesideTime a ∧ ¬ TsuReg a

/-- A sample that is read and counted. -/
structure Sampled (v : Nat → Int) (k : Nat) (s t : State) : Prop where
  shown : Shows v k t
  regs : RegsKept BesideSample s t
  hard : t.b F.TSU_STAT_HARD = s.b F.TSU_STAT_HARD
  engs : t.engs = s.engs
  les : t.les = s.les
  pmu : t.pmu = s.pmu
  lehr : t.lehr = s.lehr.countTemps (v k)

theorem Sampled.of_read {v : Nat → Int} {k : Nat} {w : State} (htime : OnlyTime s u) (hread : OnlyTsu u w) (hshow : Shows v k w) :
    Sampled v k s (w.modLehr (Lehr.countTemps (v k))) where
  shown := hshow.kept ((RegsKept.refl w).same rfl)
  regs := (htime.regs.mono fun _ ha => ha.1).trans ((hread.regs.mono fun _ ha => ha.2).same rfl)
  hard := by
    have hw : w.b F.TSU_STAT_HARD = s.b F.TSU_STAT_HARD := by
      unfold State.b
      rw [hread.hard, htime.regs.f (x := F.TSU_STAT_HARD) (by decide)]
    exact hw
  engs := hread.engs.trans htime.engs
  les := hread.les.trans htime.les
  pmu := hread.pmu.trans htime.pmu
  lehr := congrArg (Lehr.countTemps _) (hread.lehr.trans htime.lehr)

theorem sampled_sampled {el : Elapsed} {ts : List Int} {k : Nat} (h : Sample (fun i => ts.getD i 0) k) :
    Sampled (fun i => ts.getD i 0) k s (s.sampled el ts) := by
  have hmax := (shows_tsuRead (s := s.advance el) h).max
  have hof := Sampled.of_read (onlyTime_advance (s := s) el) (onlyTsu_tsuRead h) (shows_tsuRead h)
  rw [← hmax] at hof
  exact hof

namespace Sampled
variable {v : Nat → Int} {k : Nat}

theorem triplock (h : Sampled v k s t) : t.b F.PMU_STAT_TRIPLOCK = s.b F.PMU_STAT_TRIPLOCK := h.regs.b (by decide)

theorem hardRun_hot (h : Sampled v k s t) (hk : 432 ≤ v k) : t.lehr.hardRun = s.lehr.hardRun + 1 := by
  rw [h.lehr]
  exact if_pos hk

theorem hardRun_cool (h : Sampled v k s t) (hk : v k < 432) : t.lehr.hardRun = 0 := by
  rw [h.lehr]
  exact if_neg (by omega)

theorem coolRun_cool (h : Sampled v k s t) (hk : v k < 412) : t.lehr.coolRun = s.lehr.coolRun + 1 := by
  rw [h.lehr]
  exact if_pos hk

theorem coolRun_hot (h : Sampled v k s t) (hk : 412 ≤ v k) : t.lehr.coolRun = 0 := by
  rw [h.lehr]
  exact if_neg (by omega)

theorem tripRun_hot (h : Sampled v k s t) (hk : 460 ≤ v k) : t.lehr.tripRun = s.lehr.tripRun + 1 := by
  rw [h.lehr]
  exact if_pos hk

theorem tripRun_cool (h : Sampled v k s t) (hk : v k < 460) : t.lehr.tripRun = 0 := by
  rw [h.lehr]
  exact if_neg (by omega)

end Sampled

/-- A sample's readings with the engines as before. -/
structure TsuReads (v : Nat → Int) (k : Nat) (s t : State) : Prop where
  shown : Shows v k t
  engs : t.engs = s.engs

namespace TsuReads
variable {v : Nat → Int} {k : Nat}

theorem noteTsu (h : TsuReads v k s t) (old : State) : TsuReads v k s (t.noteTsu old) :=
  ⟨h.shown.kept ((RegsKept.refl t).same (congrArg State.regs (noteTsu_rest (s := t) old) :)),
    (congrArg State.engs (noteTsu_rest (s := t) old) :).trans h.engs⟩

/-- Each reading by itself. -/
theorem conj (h : TsuReads v k s t) : (∀ i, i < 24 → sext 12 (t.f (F.TSU_T_TJ i)) = v i) ∧ sext 12 (t.f F.TSU_MAX_TJ) = v k ∧
    t.f F.TSU_STAT_HOT = k ∧ t.b F.TSU_STAT_SOFT = decide (400 ≤ v k) ∧ t.engs = s.engs :=
  ⟨h.shown.temp, h.shown.max, h.shown.hot, h.shown.soft, h.engs⟩

end TsuReads

/-! ## What a sample comes to -/

section
variable {el : Elapsed} {ts : List Int} {k : Nat}

/-- With nothing to begin or to end, the sample is read and counted. -/
theorem steps_calm (hs : Sample (fun i => ts.getD i 0) k) (hhard : s.b F.TSU_STAT_HARD = false) (hk : ts.getD k 0 < 432) :
    (s.sampled el ts).hardStep.tripStep = s.sampled el ts := by
  have h := sampled_sampled (s := s) (el := el) hs
  have hrun : (s.sampled el ts).lehr.hardRun = 0 := h.hardRun_cool hk
  have htrip : (s.sampled el ts).lehr.tripRun = 0 := h.tripRun_cool (by omega)
  rw [hardStep_stays_off (h.hard.trans hhard) (by omega), tripStep_stays (by omega)]

theorem execTsuSample_calm (hs : Sample (fun i => ts.getD i 0) k) (hlock : s.b F.PMU_STAT_TRIPLOCK = false)
    (hhard : s.b F.TSU_STAT_HARD = false) (hk : ts.getD k 0 < 432) :
    ∃ t, execTsuSample el ts s = .next t ∧ TsuReads (fun i => ts.getD i 0) k s t ∧ t.b F.TSU_STAT_HARD = false ∧
      t.lehr.hardRun = 0 ∧ t.lehr.tripRun = 0 := by
  have h := sampled_sampled (s := s) (el := el) hs
  have hexec := execTsuSample_of_steps (steps_calm (el := el) hs hhard hk) (h.triplock.trans hlock)
  generalize s.sampled el ts = w at *
  have hlehr : (w.noteTsu s).lehr = w.lehr := (congrArg State.lehr (noteTsu_rest (s := w) s) :)
  refine ⟨_, hexec, .noteTsu ⟨h.shown, h.engs⟩ s, noteTsu_b (h.hard.trans hhard), ?_, ?_⟩
  · rw [hlehr]
    exact h.hardRun_cool hk
  · rw [hlehr]
    exact h.tripRun_cool (by omega)

theorem execTsuSample_begins (hs : Sample (fun i => ts.getD i 0) k) (hlock : s.b F.PMU_STAT_TRIPLOCK = false)
    (hsh : s.shadowing = false) (hhard : s.b F.TSU_STAT_HARD = false) (hrun : 1 ≤ s.lehr.hardRun) (hk : 432 ≤ ts.getD k 0)
    (hk' : ts.getD k 0 < 460) :
    ∃ t, execTsuSample el ts s = .next t ∧ TsuReads (fun i => ts.getD i 0) k s t ∧ t.b F.TSU_STAT_HARD = true ∧
      t.b F.TSU_STAT_HARDEV = true ∧ t.lehr.paused = true ∧ 24 ∈ t.irqs := by
  have h := sampled_sampled (s := s) (el := el) hs
  have hcount : (s.sampled el ts).lehr.hardRun = s.lehr.hardRun + 1 := h.hardRun_hot hk
  have hbegin : (s.sampled el ts).hardStep = (s.sampled el ts).hardBegin := hardStep_begins (h.hard.trans hhard) (by omega)
  have hend := fun t hx => execTsuSample_of_steps (s := s) (t := t) (el := el) (ts := ts) hx
  rw [hbegin] at hend
  generalize s.sampled el ts = w at *
  obtain ⟨hset, hsetLehr, hsetEngs, hsetHard, hsetEv⟩ := hardSet_shows (s := w)
  have hsetShown : Shows (fun i => ts.getD i 0) k w.hardSet := (h.shown.setHard 1).flagHardev
  obtain ⟨hspares, hpaused⟩ := hardBegin_spares (s := w) ((shadowing_of_reg (h.regs _ (by decide))).trans hsh)
  have htrip : w.hardBegin.lehr.tripRun = 0 := by
    rw [hspares.run, hsetLehr]
    exact h.tripRun_cool hk'
  have hexec := hend _ (tripStep_stays (by omega))
    ((hspares.regs.b (.inr rfl)).trans ((hset.b (by decide)).trans (h.triplock.trans hlock)))
  have hhardB : w.hardBegin.b F.TSU_STAT_HARD = true := (hspares.regs.b (.inl (by decide))).trans hsetHard
  have hevB : w.hardBegin.b F.TSU_STAT_HARDEV = true := (hspares.regs.b (.inl (by decide))).trans hsetEv
  have hreads : TsuReads (fun i => ts.getD i 0) k s w.hardBegin :=
    ⟨hsetShown.kept (hspares.regs.mono fun _ => .inl), (hspares.engs.trans hsetEngs).trans h.engs⟩
  generalize w.hardBegin = x at *
  exact ⟨_, hexec, hreads.noteTsu s, noteTsu_b hhardB, noteTsu_b hevB,
    (congrArg (fun t : State => t.lehr.paused) (noteTsu_rest (s := x) s) :).trans hpaused,
    mem_irqs_noteTsu (hard_ne (by rw [hhardB, hhard]; decide))⟩

theorem execTsuSample_ends (hs : Sample (fun i => ts.getD i 0) k) (hlock : s.b F.PMU_STAT_TRIPLOCK = false)
    (himg : ∀ l, l < 16 → (s.le l).image = []) (hp : s.puntyOf = none) (hhard : s.b F.TSU_STAT_HARD = true)
    (hrun : 1 ≤ s.lehr.coolRun) (hk : ts.getD k 0 < 412) :
    ∃ t, execTsuSample el ts s = .next t ∧ TsuReads (fun i => ts.getD i 0) k s t ∧ t.b F.TSU_STAT_HARD = false ∧ 24 ∈ t.irqs := by
  have h := sampled_sampled (s := s) (el := el) hs
  have hcount : (s.sampled el ts).lehr.coolRun = s.lehr.coolRun + 1 := h.coolRun_cool hk
  have hcool : (s.sampled el ts).hardStep = (s.sampled el ts).hardEnd := hardStep_ends (h.hard.trans hhard) (by omega)
  have hend := fun t hx => execTsuSample_of_steps (s := s) (t := t) (el := el) (ts := ts) hx
  rw [hcool] at hend
  generalize s.sampled el ts = w at *
  have hspares := hardEnd_spares (s := w) (fun l hl => (congrArg LogEng.image (le_of_les h.les l)).trans (himg l hl))
    ((puntyOf_of_engs h.engs).trans hp)
  have hset : RegsKept (· = R.PMU_STAT) w (w.setF F.TSU_STAT_HARD 0) := (RegsKept.refl w).setF 0 (by decide)
  have htrip : w.hardEnd.lehr.tripRun = 0 := by
    rw [hspares.run, State.setF_lehr]
    exact h.tripRun_cool (by omega)
  have hexec := hend _ (tripStep_stays (by omega))
    ((hspares.regs.b (.inr rfl)).trans ((hset.b rfl).trans (h.triplock.trans hlock)))
  have hhardE : w.hardEnd.b F.TSU_STAT_HARD = false :=
    (hspares.regs.b (.inl (by decide))).trans (b_setF_zero w F.TSU_STAT_HARD (fldOk (by decide)))
  have hreads : TsuReads (fun i => ts.getD i 0) k s w.hardEnd :=
    ⟨(h.shown.setHard 0).kept (hspares.regs.mono fun _ => .inl), (hspares.engs.trans (State.setF_engs ..)).trans h.engs⟩
  generalize w.hardEnd = x at *
  exact ⟨_, hexec, hreads.noteTsu s, noteTsu_b hhardE, mem_irqs_noteTsu (hard_ne (by rw [hhardE, hhard]; decide))⟩

theorem rdStat_ne_rstCause (d : Nat) : R.RD_STAT d ≠ R.PMU_RSTCAUSE := by
  unfold R.RD_STAT R.PMU_RSTCAUSE
  omega

theorem besideSample_rdStat {d : Nat} (hd : d < 4) : BesideSample (R.RD_STAT d) := by
  have hr : R.RD_STAT d = 0x4003011C + 0x40 * d := rfl
  have hs : R.PMU_SLOWCNT = 0x40000018 := rfl
  omega

theorem tsuReg_ne_rstCause {a : Nat} (h : TsuReg a) : a ≠ R.PMU_RSTCAUSE := by
  have hr : R.PMU_RSTCAUSE = 0x40000020 := rfl
  omega

/-- ALERT, the cause of the reset and the sensors' registers after a trip. -/
theorem alerted_shows : RegsKept (· ≠ R.PMU_RSTCAUSE) s s.alerted ∧ s.alerted.engs = s.engs ∧
    s.alerted.f F.PMU_RSTCAUSE_CAUSE = 4 ∧ s.alerted.pmu.alert = true ∧ s.alerted.pmu.tripped = true := by
  have hset : RegsKept (· ≠ R.PMU_RSTCAUSE) s (s.setF F.PMU_RSTCAUSE_CAUSE 4) := (RegsKept.refl s).setF 4 (by decide)
  have hcause : (s.setF F.PMU_RSTCAUSE_CAUSE 4).f F.PMU_RSTCAUSE_CAUSE = 4 := f_setF_same s F.PMU_RSTCAUSE_CAUSE 4 (fldOk (by decide))
  have hengs : (s.setF F.PMU_RSTCAUSE_CAUSE 4).engs = s.engs := State.setF_engs ..
  unfold State.alerted
  generalize s.setF F.PMU_RSTCAUSE_CAUSE 4 = w at *
  exact ⟨hset.same rfl, hengs, hcause, rfl, rfl⟩

theorem execTsuSample_trips (hs : Sample (fun i => ts.getD i 0) k) (hlock : s.b F.PMU_STAT_TRIPLOCK = false)
    (hhard : s.b F.TSU_STAT_HARD = true) (hrun : 1 ≤ s.lehr.tripRun) (hk : 460 ≤ ts.getD k 0) (htrip : s.pmu.tripped = false) :
    ∃ t, execTsuSample el ts s = .next t ∧ TsuReads (fun i => ts.getD i 0) k s t ∧ t.pmu.alert = true ∧ t.pmu.tripped = true ∧
      t.f F.PMU_RSTCAUSE_CAUSE = 4 ∧ ∀ d, d < 4 → s.running d = true → (t.dom d).tripRamp = some 0 := by
  have h := sampled_sampled (s := s) (el := el) hs
  have hcool : (s.sampled el ts).lehr.coolRun = 0 := h.coolRun_hot (by omega)
  have hcount : (s.sampled el ts).lehr.tripRun = s.lehr.tripRun + 1 := h.tripRun_hot hk
  have hsteps : (s.sampled el ts).hardStep.tripStep = (s.sampled el ts).alerted.rampRunning := by
    rw [hardStep_stays_on (h.hard.trans hhard) (by omega), tripStep_trips (by omega),
      trip_eq ((congrArg Pmu.tripped h.pmu).trans htrip)]
  have hfree := execTsuSample_of_steps hsteps
  generalize s.sampled el ts = w at *
  obtain ⟨hregs, hengs, hcause, halert, htripped⟩ := alerted_shows (s := w)
  generalize w.alerted = x at *
  obtain ⟨hrampSame, hrampPmu, hrampEngs⟩ := rampRunning_rest (s := x)
  have hrampRegs : RegsKept (fun _ => True) x x.rampRunning := (RegsKept.refl x).same hrampSame
  have hdom : ∀ d, d < 4 → s.running d = true → (x.rampRunning.dom d).tripRamp = some 0 := fun d hd hr =>
    tripRamp_rampRunning hd (((hregs.b (x := F.RD_STAT_RUN d) (rdStat_ne_rstCause d)).trans
      (h.regs.b (x := F.RD_STAT_RUN d) (besideSample_rdStat hd))).trans hr)
  have hkept : RegsKept (· ≠ R.PMU_RSTCAUSE) w x.rampRunning := hregs.trans (hrampRegs.mono fun _ _ => trivial)
  have hcauseR : x.rampRunning.f F.PMU_RSTCAUSE_CAUSE = 4 := (hrampRegs.f trivial).trans hcause
  have hreads : TsuReads (fun i => ts.getD i 0) k s x.rampRunning :=
    ⟨h.shown.kept (hkept.mono fun a ha => tsuReg_ne_rstCause ha), hrampEngs.trans (hengs.trans h.engs)⟩
  have hexec := hfree ((hkept.b (by decide)).trans (h.triplock.trans hlock))
  rw [← hrampPmu] at halert htripped
  generalize x.rampRunning = y at *
  have hrest := noteTsu_rest (s := y) s
  have hpmu : (y.noteTsu s).pmu = y.pmu := (congrArg State.pmu hrest :)
  have hdoms : (y.noteTsu s).doms = y.doms := (congrArg State.doms hrest :)
  have hfinal : RegsKept (fun _ => True) y (y.noteTsu s) := (RegsKept.refl y).same (congrArg State.regs hrest :)
  refine ⟨_, hexec, hreads.noteTsu s, ?_, ?_, (hfinal.f trivial).trans hcauseR, fun d hd hr => ?_⟩
  · rw [hpmu]
    exact halert
  · rw [hpmu]
    exact htripped
  · rw [State.dom, hdoms]
    exact hdom d hd hr

/-- The power management's own record leaves the registers and the engines as they are. -/
theorem setPmu_rest (w : State) (p : Pmu) : ({ w with pmu := p } : State).regs = w.regs ∧ ({ w with pmu := p } : State).engs = w.engs :=
  ⟨rfl, rfl⟩

theorem unlocked_shows : RegsKept TsuReg s s.unlocked ∧ s.unlocked.engs = s.engs ∧ s.unlocked.b F.PMU_STAT_TRIPLOCK = false ∧
    s.unlocked.pmu.alert = false ∧ s.unlocked.pmu.tripped = false := by
  have hset : RegsKept TsuReg s (s.setF F.PMU_STAT_TRIPLOCK 0) := (RegsKept.refl s).setF 0 (by decide)
  have hlock : (s.setF F.PMU_STAT_TRIPLOCK 0).b F.PMU_STAT_TRIPLOCK = false := b_setF_zero s F.PMU_STAT_TRIPLOCK (fldOk (by decide))
  have hengs : (s.setF F.PMU_STAT_TRIPLOCK 0).engs = s.engs := State.setF_engs ..
  obtain ⟨hregs', hengs'⟩ := setPmu_rest (s.setF F.PMU_STAT_TRIPLOCK 0) s.unlocked.pmu
  exact ⟨hset.same hregs', hengs'.trans hengs, (b_of_regs hregs' _).trans hlock, rfl, rfl⟩

theorem execTsuSample_unlocks (hs : Sample (fun i => ts.getD i 0) k) (hlock : s.b F.PMU_STAT_TRIPLOCK = true)
    (hhard : s.b F.TSU_STAT_HARD = false) (hk : ts.getD k 0 < 432) (hcool : ts.getD 22 0 < 360) :
    ∃ t, execTsuSample el ts s = .next t ∧ TsuReads (fun i => ts.getD i 0) k s t ∧ t.b F.PMU_STAT_TRIPLOCK = false ∧
      t.pmu.alert = false ∧ t.pmu.tripped = false := by
  have h := sampled_sampled (s := s) (el := el) hs
  have hexec := execTsuSample_eq (s := s) el ts
  rw [steps_calm hs hhard hk] at hexec
  generalize s.sampled el ts = w at *
  have hreads : TsuReads (fun i => ts.getD i 0) k s (w.noteTsu s) := TsuReads.noteTsu ⟨h.shown, h.engs⟩ s
  have hlockW : (w.noteTsu s).b F.PMU_STAT_TRIPLOCK = true := noteTsu_b (h.triplock.trans hlock)
  generalize w.noteTsu s = y at *
  have hunlock : y.unlockStep = y.unlocked := if_pos ⟨hlockW, by rw [hreads.shown.temp 22 (by decide)]; exact hcool⟩
  rw [hunlock] at hexec
  obtain ⟨hregs, hengs, hfree, halert, htripped⟩ := unlocked_shows (s := y)
  exact ⟨_, hexec, ⟨hreads.shown.kept hregs, hengs.trans hreads.engs⟩, hfree, halert, htripped⟩

end

end Sys2Proof.Machine
end

section
open Sys2Proof Sys2Proof.Machine

/-- Settles O19: the end of a window shows the counts and the estimate of the state as time has passed, and a sample is read,
counted, and then acted on by the first threshold that it completes. -/
theorem powerEstimateAndThresholds : Obligations.PowerEstimateAndThresholds := by
  unfold Obligations.PowerEstimateAndThresholds
  refine ⟨fun el acts ns s => ⟨fun hen hcase => ?_, fun hen => ?_⟩, fun el ts k s => ?_⟩
  · obtain ⟨t, hexec, hregs, hengs, hcalm⟩ := execWindowEnd_effect (el := el) acts ns hen hcase
    obtain ⟨hpest, -, hengs'⟩ := windowed_rest (s := s.advance el) acts ns
    obtain ⟨hact, hdone, hwindows, hvalid, hmw⟩ := window_shows hregs
    have hsum := pestMw_of_window (counted_takeActs (s := s.advance el) acts) (hpest.same hregs) ((s.advance el).windowNs ns)
    refine ⟨t, hexec, hact, hdone, hwindows, hvalid, hcalm, (hengs.trans hengs').trans (onlyTime_advance el).engs, fun hns hp => ?_⟩
    rw [hsum] at hp ⊢
    exact hmw hns hp
  · exact execWindowEnd_disabled (((onlyTime_advance el).regs.b (by decide)).trans hen)
  · intro v tj hk hmax hfirst himg hsh hp
    have hs : Sample (fun i => ts.getD i 0) k := ⟨hk, hmax, hfirst⟩
    refine ⟨fun hlock => ⟨fun hhard hcool => ?_, fun hhard hrun hhot hno => ?_, fun hhard hrun hcool => ?_,
      fun hhard hrun hhot htrip => ?_⟩, fun hlock hhard hcool haon => ?_⟩
    · obtain ⟨t, hexec, hread, hrest⟩ := execTsuSample_calm (el := el) hs hlock hhard hcool
      exact ⟨t, hexec, hread.conj, hrest⟩
    · obtain ⟨t, hexec, hread, hrest⟩ := execTsuSample_begins (el := el) hs hlock hsh hhard hrun hhot hno
      exact ⟨t, hexec, hread.conj, hrest⟩
    · obtain ⟨t, hexec, hread, hrest⟩ := execTsuSample_ends (el := el) hs hlock himg hp hhard hrun hcool
      exact ⟨t, hexec, hread.conj, hrest⟩
    · obtain ⟨t, hexec, hread, hrest⟩ := execTsuSample_trips (el := el) hs hlock hhard hrun hhot htrip
      exact ⟨t, hexec, hread.conj, hrest⟩
    · obtain ⟨t, hexec, hread, hrest⟩ := execTsuSample_unlocks (el := el) hs hlock hhard hcool haon
      exact ⟨t, hexec, hread.conj, hrest⟩

end
